-- ==== Sys2Proof/Word.lean ====
section
/-! DEFINITION. Bytes, words and the plainest arithmetic on them: the byte orders of R4, the bit
ranges of R3, saturating counters, and lists used as register files. -/

namespace Sys2Proof

/-- One byte. -/
abbrev Byte := BitVec 8

/-- A byte sequence, lowest address (or first sent) first. -/
abbrev Bytes := List Byte

/-- A 32-bit register word (R9). -/
abbrev Reg := BitVec 32

/-- The byte whose value is `n` modulo 256. -/
def byte (n : Nat) : Byte := BitVec.ofNat 8 n

/-- The value of a byte sequence read little-endian (R4, structures in memory and over PCIe). -/
def leVal : Bytes → Nat
  | [] => 0
  | b :: r => b.toNat + 256 * leVal r

/-- The value of a byte sequence read most significant byte first (R4, Ethernet and Crosswind). -/
def beVal (bs : Bytes) : Nat := leVal bs.reverse

/-- `n` as `k` bytes, little-endian, modulo 256 to the `k`. -/
def leBytes : Nat → Nat → Bytes
  | 0, _ => []
  | k + 1, n => byte n :: leBytes k (n / 256)

/-- `n` as `k` bytes, most significant byte first. -/
def beBytes (k n : Nat) : Bytes := (leBytes k n).reverse

/-- Bytes `o` to `o + k - 1` of a structure. -/
def sub (bs : Bytes) (o k : Nat) : Bytes := (bs.drop o).take k

/-- The little-endian field of `k` bytes at offset `o`. -/
def leAt (bs : Bytes) (o k : Nat) : Nat := leVal (sub bs o k)

/-- The most-significant-first field of `k` bytes at offset `o`. -/
def beAt (bs : Bytes) (o k : Nat) : Nat := beVal (sub bs o k)

/-- `n` modulo 2 to the `w` read as a two's complement number. -/
def toSigned (w n : Nat) : Int :=
  let m := n % 2 ^ w
  if m < 2 ^ (w - 1) then m else (m : Int) - 2 ^ w

/-- A signed number as its two's complement pattern of width `w`. -/
def ofSigned (w : Nat) (i : Int) : Nat := (i % (2 ^ w : Int)).toNat

/-- Bits `[lo + w - 1 : lo]` of `n` (R3). -/
def bits (n lo w : Nat) : Nat := n / 2 ^ lo % 2 ^ w

/-- Bit `[i]` of `n` (R3). -/
def bit (n i : Nat) : Bool := n.testBit i

/-- 0 or 1. -/
def b2n (b : Bool) : Nat := if b then 1 else 0

/-- A field of width `w` placed at bit `lo`; bits of the value above the width are dropped. -/
def fld (v lo w : Nat) : Nat := v % 2 ^ w * 2 ^ lo

/-- A one-bit field. -/
def flg (b : Bool) (i : Nat) : Nat := b2n b * 2 ^ i

/-- The word whose bit `i` says whether the `i`-th entry of the list is true. -/
def maskOf : List Bool → Nat
  | [] => 0
  | b :: r => b2n b + 2 * maskOf r

/-- The list of the `n` lowest bits of `m`. -/
def boolsOf : Nat → Nat → List Bool
  | 0, _ => []
  | n + 1, m => bit m 0 :: boolsOf n (m / 2)

/-- The number of bits set among the `n` lowest bits of `m`. -/
def popcount (n m : Nat) : Nat := ((boolsOf n m).filter id).length

/-- A counter that saturates at `2 ^ w - 1`. -/
def satAdd (w n k : Nat) : Nat := min (n + k) (2 ^ w - 1)

/-- A 32-bit saturating counter, one up. -/
def satInc (n : Nat) : Nat := satAdd 32 n 1

/-- `n` rounded up to a multiple of `k`. -/
def roundUp (n k : Nat) : Nat := (n + k - 1) / k * k

/-- The quotient rounded up. -/
def ceilDiv (n k : Nat) : Nat := (n + k - 1) / k

/-- The serial-number order of R531: `a` is above `b`. -/
def serialAbove (a b : Nat) : Bool :=
  let d := (a + 2 ^ 32 - b % 2 ^ 32) % 2 ^ 32
  decide (1 ≤ d ∧ d ≤ 0x7FFFFFFF)

/-- The next value of a number that steps from 0xFFFF_FFFF to 1 (R166, R531). -/
def serialNext (n : Nat) : Nat := if n + 1 < 2 ^ 32 then n + 1 else 1

/-- The `i`-th entry of a register file, the default outside it. -/
def getN {α : Type} [Inhabited α] (l : List α) (i : Nat) : α := l.getD i default

/-- A register file with its `i`-th entry changed; unchanged outside it. -/
def modN {α : Type} (l : List α) (i : Nat) (f : α → α) : List α :=
  match l, i with
  | [], _ => []
  | a :: r, 0 => f a :: r
  | a :: r, n + 1 => a :: modN r n f

/-- The positions, in order, at which a predicate holds. -/
def indicesWhere {α : Type} (p : α → Bool) (l : List α) : List Nat :=
  (l.zipIdx.filter (fun x => p x.1)).map Prod.snd

/-- The ASCII bytes of a string. -/
def ascii (s : String) : Bytes := s.toList.map (fun c => byte c.toNat)

/-- `n` zero bytes. -/
def zeros (n : Nat) : Bytes := List.replicate n 0

/-- Every byte is zero. -/
def allZero (bs : Bytes) : Bool := bs.all (· == 0)

/-- A byte sequence padded with zeros, or cut, to `n` bytes. -/
def padTo (n : Nat) (bs : Bytes) : Bytes := (bs ++ zeros n).take n

/-- ⌊log₂ n⌋, 0 for 0. -/
def log2 (n : Nat) : Nat := n.log2

end Sys2Proof
end

