-- ==== Sys2Proof/Syntax.lean ====
section
/-! DEFINITION. The commands: one constructor of `Instr` for each row of spec/opcode_table.json, with
the operands that the row's rule says come from outside the module. The table gives no row any fields,
so every operand list is the model's own (DESIGN CHOICE, log entry 2). The first operand `t` of every
command is the instant of its event in nanoseconds of reference time (log entry 1). -/

namespace Sys2Proof

/-- Clock domains that the CLK block monitors (Table 3.1, R77). -/
inductive ClockId where
  | ac | sp | fab | ms0 | ms1 | pcie | eth (n : Fin 4) | csi (n : Fin 8) | xwl | ptp | rtc
  deriving DecidableEq, Repr

/-- What the SLB finds in stage S0 (R94, R54): its self-test of logic, oscillator window and supply
monitor, and whether the hold-up bank is charged. -/
structure S0Result where
  selfTest : Bool
  holdup   : Bool
  deriving DecidableEq, Repr

/-- What the boot ROM finds in stage S1 (R95). -/
structure S1Result where
  romCrc      : Bool
  fwSignature : Bool
  fwVersion   : Nat
  deriving DecidableEq, Repr

/-- What stage S2 finds when it reads retention SRAM (R521, R532), and whether the zeroed memory still
holds an uncorrectable word (RETENTION_FAULT of Table 4.4). -/
structure S2Result where
  headerOk      : Bool
  cellsOk       : Bool
  entriesOk     : Bool
  kindsOk       : Bool
  uncorrectable : Bool
  faultAfterZero : Bool
  deriving DecidableEq, Repr

/-- What stage S3 finds: one bit per row of Table 4.2, cause 0x10 in bit 0, set when the row passed
both of its cases; and the lane, slot, channel or input of the first failing row. -/
structure S3Result where
  rows    : Nat
  subject : Nat
  deriving DecidableEq, Repr

/-- What stage S4 finds: cores that failed BIST; the rows of Table 4.3 other than 0x11, in cause order
(0x10, 0x12, 0x14 to 0x1B), set when passed. -/
structure S4Result where
  coreFail : Nat
  checks   : Nat
  deriving DecidableEq, Repr

/-- What stage S5 finds (R102). -/
structure S5Result where
  trained : Bool
  tested  : Bool
  swept   : Bool
  beuOk   : Bool
  deriving DecidableEq, Repr

/-- The hardware faults of stage S6 (R103). -/
structure S6Result where
  storeReadable   : Bool
  weightsWritable : Bool
  deriving DecidableEq, Repr

/-- What stage S7 finds outside the SLB handshake (R104): whether the SLB answered, a link marked required
that is not up, whether PTP lock is required, and whether the ring of a REQUIRED ring record is up. -/
structure S7Result where
  handshake   : Bool
  missingLink : Option Nat
  ptpRequired : Bool
  deriving DecidableEq, Repr

/-- A gPTP Sync as the device measures it (R63, R65): the port, the grandmaster's identity, and the
offset in nanoseconds, positive when device time is behind. -/
structure PtpSync where
  port   : Nat
  gm     : Nat
  offset : Int
  deriving DecidableEq, Repr

/-- A configuration request (R136): the Ethernet port, the source address, and the bytes of the request frame from its frame kind on. -/
structure CfgReq where
  port   : Nat
  source : Nat
  frame  : Bytes
  deriving DecidableEq, Repr

/-- What SET_RTC asks for (Table 5.4, R80, R81): a load of the RTC_SET layout, or to follow device time. -/
inductive RtcOp where
  | load (v : Nat)
  | follow
  deriving DecidableEq, Repr

/-- A Krytvas field-service certificate (R135, R507): the module serial and nonce it names, its expiry
in device time, its SP scope bit and its Ed25519 signature. -/
structure Cert where
  serial    : Nat
  nonce     : Bytes
  expiry    : Nat
  scopeSp   : Bool
  signature : Bytes
  deriving DecidableEq, Repr

/-- The end of a frame at the FIU (R164): the payload bytes in arrival order, whether a packet error
occurred, whether the stream's CVU channel served, and the camera's frame number or block ID. -/
structure FrameIn where
  payload : Bytes
  error   : Bool
  header  : Option Nat
  deriving DecidableEq, Repr

/-- A pose: x, y, z in µm, then roll, pitch, yaw in µrad. -/
structure Pose where
  x : Int
  y : Int
  z : Int
  roll  : Int
  pitch : Int
  yaw   : Int
  deriving DecidableEq, Repr, Inhabited

/-- What an ego-motion tick finds outside the block (R187, R188, Table 7.3): the IMU's four samples since the tick before, each the
three rates in µrad/s and the three accelerations in mm/s²; whether the IMU delivered without a bus error, a missing sample or a
saturated axis; and what the second estimator lane gives more than the first for ARM_FLANGE and MOBILE_BASE, all zero where both lanes
are sound. -/
structure EgoIn where
  tick      : Nat
  imu       : List (List Int)
  imuOk     : Bool
  flangeErr : Pose
  baseErr   : Pose
  deriving DecidableEq, Repr

/-- What the hardware of a core shows while a descriptor ends: bits flipped in its payload by a
computation fault, corrected and uncorrectable local memory errors (R237), what the Vane's own
hardware shows during the comparison (R273, R274), whether the copy of a matched guard job's
pending state, if this descriptor ends one, fails its ECC (07 Table 7.5), whether the exchange slot that the core read fails its
CRC-32C (10 R270), and the stack granules that its reads found corrected and uncorrectable, by address over 32 (11 R306, R322). -/
structure CoreHw where
  flip          : Nat := 0
  corrected     : Nat := 0
  uncorrectable : Bool := false
  slotSingle    : Bool := false
  slotDouble    : Bool := false
  slotParity    : Bool := false
  railsBad      : Bool := false
  copyEcc       : Bool := false
  exchBad       : Bool := false
  fixed         : List Nat := []
  bad           : List Nat := []
  deriving DecidableEq, Repr

/-- What happens to a rolling self-test segment (R239): it starts on a core, ends, fails its test, or is abandoned. -/
inductive SegEnd where
  | started
  | done
  | failed
  | abandoned
  deriving DecidableEq, Repr

/-- What one SLB cycle takes in besides the state the SLB holds (R359): the eight encoder counts, the
two I/O supplies in mV, whether the lanes' decision states differ (R358), outputs whose readback
disagrees (bits 0 to 7 STO0A to STO3B, 8 to 11 BRK0 to BRK3, 12 and 13 STOPCH_OUT), and inputs of the
Crosswind or chain kind are held in the state. -/
structure SlbIn where
  counts   : List Nat
  ioA      : Nat
  ioB      : Nat
  laneDiff : Bool
  readback : Nat
  deriving DecidableEq, Repr

/-- What the sampling around one test pulse shows (R367): input channels (bit 2i for SIiA, 2i + 1 for
SIiB) that the pulse's own output feeds and that did not read OFF, and channels fed by another output
that read OFF during the pulse while ON before and after. -/
structure PulseIn where
  stuckOn : Nat
  crossed : Nat
  deriving DecidableEq, Repr

/-- What the SLB finds of the two heartbeats (03 R72): no clock edge within 200 µs, no firmware value within 2 ms, or a count of CLK_SLB
cycles between two clock edges. -/
inductive BeatIn where
  | noEdge
  | noValue
  | count (n : Nat)
  deriving DecidableEq, Repr

/-- How far the clearing of the start attempt counter's two copies comes (04 R107, R111): both written, cut off in the write of the
first, or after it. -/
inductive ClearCut where
  | whole
  | inFirst
  | afterFirst
  deriving DecidableEq, Repr

/-- The clearing of the start attempt counter: its instant, and how far it comes. -/
structure CounterClear where
  t   : Nat
  cut : ClearCut := .whole
  deriving DecidableEq, Repr

/-- The end of a channel's command in the Bulk Execution Unit (11 R303, R306): the channel, and the granules that its reads found
corrected and uncorrectable. -/
structure BeuEnd where
  channel   : Nat
  corrected : Nat := 0
  bad       : List Nat := []
  deriving DecidableEq, Repr

/-- A query of a verdict (12 R346, R352): the sequence number, and whether the window memory of its slot shows an uncorrectable
error. -/
structure VrdAsk where
  seq : Nat
  ecc : Bool := false
  deriving DecidableEq, Repr

/-- A received Ethernet frame with EtherType 0x88B6 (R396): port, source MAC and the frame data. -/
structure SafeRx where
  port : Nat
  mac  : Nat
  data : Bytes
  deriving DecidableEq, Repr

/-- The work of one CVU channel (R415, R416): the input bytes, the expected value in a compare, and
whether its two engines disagree (R418). -/
structure CvuReq where
  input    : Bytes
  expected : Option Nat
  disagree : Bool
  deriving DecidableEq, Repr

/-- A received Crosswind frame: the lane it came on, its bytes, and whether it is garbled. -/
structure XwlRx where
  lane    : Nat
  data    : Bytes
  garbled : Bool
  deriving DecidableEq, Repr

/-- A BAR2 request (R449, R450): offset, requester ID, PASID if a prefix is present, and either the
length of a read or the bytes of a write. -/
structure Bar2Req where
  offset : Nat
  reqId  : Nat
  pasid  : Option Nat
  write  : Option Bytes
  length : Nat
  deriving DecidableEq, Repr

/-- One ADC calibration (R497): whether each ADC's uncorrected references lie within ±0.5 %, whether
corrected readings of some supply point differ by more than 1 %. -/
structure AdcCal where
  spOk     : Bool
  slbOk    : Bool
  disagree : Bool
  deriving DecidableEq, Repr

/-- Which bank a register access reaches (R496): the host's through BAR0, or the SP's. -/
inductive Bank where
  | host
  | sp
  deriving DecidableEq, Repr

/-- The credential of a debug unlock request (R507). -/
inductive UnlockReq where
  | password (p : Bytes)
  | certificate (c : Cert)
  deriving DecidableEq, Repr

/-- Breakpoint match fields (R518, DBG_BPn_MATCH and DBG_BPn_JOB). -/
structure BpMatch where
  op      : Nat
  cls     : Nat
  ident   : Nat
  opEn    : Bool
  clsEn   : Bool
  identEn : Bool
  en      : Bool
  job     : Nat
  deriving DecidableEq, Repr, Inhabited

/-- A DBG_MEM access (R510): address, 4 or 8 bytes, and the value of a write. -/
structure DbgMemReq where
  addr  : Nat
  bytes : Nat
  write : Option Nat
  deriving DecidableEq, Repr

/-- What a DBG_SP access does (R511): halt the SP, or let it run. -/
inductive DbgSpOp where
  | halt
  | resume
  deriving DecidableEq, Repr

/-- Who writes a register (R448, R496, R321): host software through BAR0, or the SP. -/
inductive Writer where
  | host
  | sp
  deriving DecidableEq, Repr

/-- The frame delivery buffer descriptor the HQ reads from host memory (R457). -/
structure BufDesc where
  addr   : Nat
  length : Nat
  deriving DecidableEq, Repr

/-- The commands, one per row of the table, in the table's order. -/
inductive Instr where
  | powerGood (t : Nat) (vinMv backupMv : Nat)
  | powerFailWarning (t : Nat)
  | holdupEnd (t : Nat)
  | stageS0 (t : Nat) (r : S0Result)
  | stageS1 (t : Nat) (r : S1Result)
  | stageS2 (t : Nat) (r : S2Result)
  | stageS3 (t : Nat) (r : S3Result)
  | stageS4 (t : Nat) (r : S4Result)
  | stageS5 (t : Nat) (r : S5Result)
  | stageS6 (t : Nat) (r : S6Result)
  | stageS7 (t : Nat) (r : S7Result)
  | stageS8 (t : Nat) (queuesOk : Bool)
  | stageTimeLimit (t : Nat)
  | startWatchdog (t : Nat)
  | stageFailHoldExpiry (t : Nat)
  | startCounterClear (x : CounterClear)
  | doldrumsDiagnosticFrame (t : Nat)
  | spCycle (t : Nat)
  | degradedTimerExpiry (t : Nat)
  | tqenSs1Overdue (t : Nat)
  | restartArmingLapse (t : Nat)
  | sealSwitchChange (t : Nat) (sw : Nat) (slbOn spOn : Bool)
  | sealContactDisagree (t : Nat) (sw : Nat)
  | tamperLoopOpen (t : Nat)
  | dbgPresChange (t : Nat) (low : Bool)
  | ioSupplyOutOfWindow (t : Nat) (supplyB : Bool) (mv : Nat)
  | ioSupplyRecovered (t : Nat) (mvA mvB : Nat)
  | dieTempWarning (t : Nat)
  | thermalTrip (t : Nat)
  | thermalRelease (t : Nat)
  | clockMonitorWindow (t : Nat) (clk : ClockId) (ok : Bool)
  | clockRecoveryRelease (t : Nat)
  | ptpSyncReceived (t : Nat) (sync : PtpSync)
  | ptpGrandmasterLost (t : Nat) (port : Nat)
  | ptpHoldoverExpiry (t : Nat)
  | ptpPortDisagree (t : Nat) (diff : Int)
  | triggerEdge (t : Nat) (n : Nat)
  | trigStartWrite (t : Nat) (n v : Nat)
  | trigPeriodWrite (t : Nat) (n v : Nat)
  | trigWidthWrite (t : Nat) (n v : Nat)
  | trigCtrlWrite (t : Nat) (n v : Nat)
  | rtcTenthTick (t : Nat)
  | read (t : Nat) (q : CfgReq) (addrs : List Nat)
  | exportObject (t : Nat) (q : CfgReq) (object first count : Nat)
  | uploadBegin (t : Nat) (q : CfgReq)
  | uploadData (t : Nat) (q : CfgReq) (reads : Bool) (offset : Nat) (data : Bytes)
  | uploadEnd (t : Nat) (q : CfgReq)
  | uploadSessionLapse (t : Nat)
  | activate (t : Nat) (q : CfgReq)
  | restart (t : Nat) (q : CfgReq)
  | enrol (t : Nat) (q : CfgReq) (key : Option Bytes) (newPassword : Option Bytes) (pattern : Option Nat)
  | setPassword (t : Nat) (q : CfgReq) (newPassword : Bytes)
  | setRtc (t : Nat) (q : CfgReq) (op : RtcOp)
  | setUtcOfs (t : Nat) (q : CfgReq) (ofs : Nat)
  | clearChangeLog (t : Nat) (q : CfgReq)
  | clearDoldrums (t : Nat) (q : CfgReq)
  | fieldReset (t : Nat) (q : CfgReq) (cert : Cert)
  | lockoutEnd (t : Nat)
  | hashReverify (t : Nat)
  | frameStart (t : Nat) (stream : Nat)
  | frameEnd (t : Nat) (stream : Nat) (f : FrameIn)
  | checkFinalStatus (t : Nat) (stream : Nat)
  | streamStallExpiry (t : Nat) (stream : Nat)
  | frameDeliveryComplete (t : Nat) (stream : Nat) (buf : BufDesc)
  | egoTick (t : Nat) (e : EgoIn)
  | epochOpen (t : Nat)
  | epochWaitExpiry (t : Nat)
  | guardJobStart (t : Nat)
  | descriptorDispatch (t : Nat) (core : Nat)
  | descriptorComplete (t : Nat) (core : Nat) (hw : CoreHw)
  | descriptorHang (t : Nat) (core : Nat)
  | coreBistComplete (t : Nat) (core : Nat) (ok : Bool)
  | rollingSelftestSegment (t : Nat) (core : Nat) (e : SegEnd)
  | vaneSelftestComplete (t : Nat) (laneOk slotOk : Bool)
  | safeStateJobIssue (t : Nat) (cls : Nat)
  | safeStateDeadline (t : Nat) (cls : Nat)
  | beuCmdSubmit (t : Nat) (stack : Nat) (bg : Bool) (cmd : Bytes)
  | beuCmdStart (t : Nat) (stack : Nat) (bg : Bool)
  | beuCmdComplete (t : Nat) (stack : Nat) (x : BeuEnd)
  | beuFenceComplete (t : Nat) (stack : Nat) (bg : Bool)
  | beuSwitchGo (t : Nat) (stack v : Nat)
  | beuSwitchDrainComplete (t : Nat) (stack : Nat)
  | beuSwitchFenceComplete (t : Nat) (stack : Nat)
  | beuSwitchComplete (t : Nat) (stack : Nat)
  | scrubStep (t : Nat) (stack : Nat) (corrected : Nat) (uncorrectable : List Nat)
  | stackTempChange (t : Nat) (stack celsius : Nat)
  | stackCoolExpiry (t : Nat) (stack : Nat)
  | sqTailDoorbell (t : Nat) (q v : Nat)
  | submissionConsume (t : Nat) (q : Nat) (desc : Bytes)
  | witnessLockEffective (t : Nat) (q : Nat)
  | resultCommit (t : Nat) (q : Nat)
  | ageDeadlineExpiry (t : Nat) (q seq : Nat)
  | verdictPathWatchdog (t : Nat) (q seq : Nat)
  | vrdQuery (t : Nat) (q : Nat) (x : VrdAsk)
  | slbCycle (t : Nat) (i : SlbIn)
  | inputFilterSettle (t : Nat) (input : Nat) (chB : Bool) (on : Bool)
  | blankingEnd (t : Nat) (input : Nat) (chB : Bool)
  | discrepancyExpiry (t : Nat) (input : Nat)
  | testPulse (t : Nat) (n : Nat) (p : PulseIn)
  | outputOfftest (t : Nat) (channel : Nat) (ok : Bool)
  | ss1MaxExpiry (t : Nat) (group : Nat)
  | standstillHeld (t : Nat) (group : Nat)
  | brakeReleaseDelayExpiry (t : Nat) (brake : Nat)
  | brakePullinExpiry (t : Nat) (brake : Nat)
  | chainPulseExpiry (t : Nat)
  | encoderFault (t : Nat) (qe : Nat) (present : Bool)
  | slbDegTimerExpiry (t : Nat)
  | slbLinkFrame (t : Nat) (intact : Bool)
  | spstopNChange (t : Nat) (active : Bool)
  | requestDisagreeExpiry (t : Nat)
  | heartbeatTimeout (t : Nat) (x : BeatIn)
  | slbOscillatorFault (t : Nat)
  | slbParamCheck (t : Nat) (copyAok copyBok : Bool)
  | jointsMessage (t : Nat) (m : SafeRx)
  | stopRequest (t : Nat) (m : SafeRx)
  | resetRequest (t : Nat) (m : SafeRx)
  | aliveMessage (t : Nat) (m : SafeRx)
  | pathAnnounce (t : Nat) (m : SafeRx)
  | skewWindowEnd (t : Nat) (conn seq : Nat)
  | smlWatchdogExpiry (t : Nat) (conn : Nat)
  | smlOpeningExpiry (t : Nat) (conn : Nat)
  | singlePathTimerExpiry (t : Nat)
  | statusSend (t : Nat) (conn : Nat)
  | pathAnnounceSend (t : Nat) (port : Nat)
  | ethLinkChange (t : Nat) (port : Nat) (up : Bool)
  | cvuComputeComplete (t : Nat) (ch : Nat) (r : CvuReq)
  | xwlListenExpiry (t : Nat)
  | xwlClaimReceived (t : Nat) (m : XwlRx)
  | xwlBackoffExpiry (t : Nat)
  | xwlCycleStart (t : Nat)
  | xwlSyncReceived (t : Nat) (m : XwlRx)
  | xwlSafetySlot (t : Nat)
  | xwlSafetyReceived (t : Nat) (m : XwlRx)
  | xwlNodeTimeout (t : Nat) (node : Nat)
  | xwlSyncLoss (t : Nat)
  | xwlDelayMeasure (t : Nat) (delay0 delay1 : Nat)
  | xwlBulkReceived (t : Nat) (m : XwlRx)
  | xwlReturnTimeout (t : Nat) (job : Nat)
  | hqEnableWrite (t : Nat) (q : Nat) (en : Bool)
  | hqReset (t : Nat) (q : Nat)
  | queueResetComplete (t : Nat) (q : Nat)
  | hqResume (t : Nat) (q : Nat)
  | cqHeadWrite (t : Nat) (q v : Nat)
  | hqIrqWrite (t : Nat) (q v : Nat)
  | irqTimeExpiry (t : Nat) (q : Nat)
  | deliveryTailWrite (t : Nat) (n v : Nat)
  | hqCheckpoint (t : Nat) (v : Nat)
  | pcieFunctionLevelReset (t : Nat)
  | bar2Access (t : Nat) (r : Bar2Req)
  | tsuAliveWindowEnd (t : Nat) (c : Nat)
  | tsuDeadlineExpiry (t : Nat) (c : Nat)
  | tsuBudgetExceeded (t : Nat) (c : Nat)
  | psmPlannedWake (t : Nat)
  | psmWakeComplete (t : Nat) (silentCores : Nat)
  | psmWakeFault (t : Nat)
  | bgUrgent (t : Nat) (a : Nat)
  | bgDeadlineMiss (t : Nat) (a : Nat)
  | adcCalibration (t : Nat) (r : AdcCal)
  | telemetrySwap (t : Nat)
  | monLevelSample (t : Nat) (slot : Nat) (v : Int)
  | monSnapshot (t : Nat) (bank : Bank) (slot : Nat)
  | monSnapshotClear (t : Nat) (bank : Bank) (slot : Nat)
  | logSelWrite (t : Nat) (bank : Bank) (seq : Nat)
  | frSelWrite (t : Nat) (bank : Bank) (num : Nat)
  | logRepeatSecondEnd (t : Nat)
  | idcode (t : Nat)
  | samplePreload (t : Nat) (pins preload : Nat)
  | extest (t : Nat) (pins : Nat)
  | bypass (t : Nat) (tdi : Nat)
  | dbgNonce (t : Nat)
  | dbgUnlock (t : Nat) (r : UnlockReq)
  | dbgLock (t : Nat)
  | halt (t : Nat) (mask : Nat)
  | dbgResume (t : Nat) (mask : Nat)
  | step (t : Nat) (core : Nat)
  | setBp (t : Nat) (slot : Nat) (m : BpMatch)
  | readCore (t : Nat) (core : Nat)
  | dbgMem (t : Nat) (r : DbgMemReq)
  | dbgSp (t : Nat) (op : DbgSpOp)
  | registerWrite (t : Nat) (w : Writer) (wide : Bool) (addr v : Nat)
  | stackTrainingLoss (t : Nat) (stack : Nat)
  | safeMessageRefused (t : Nat) (m : SafeRx)
  | bestMasterClockSelection (t : Nat) (sync : PtpSync)
  | xwlLaneLoss (t : Nat) (lane : Nat)
  | tsuBudgetPeriodEnd (t : Nat) (c : Nat)
  | psmEntryComplete (t : Nat)
  | breezeCoreGate (t : Nat) (core : Nat)
  | connectionPause (t : Nat)
  | xwlBulkUnit (t : Nat) (unit : Nat)
  | triggerPulseEnd (t : Nat) (n : Nat)
  | overcurrentCutOff (t : Nat) (output : Nat)
  | tamperCoverFitted (t : Nat)
  | backupExhausted (t : Nat)
  deriving DecidableEq, Repr

end Sys2Proof
end

