-- ==== Sys2Proof/Machine/Hash.lean ====
section
/-! DEFINITION. SHA-256 and SHA-512, the hashes that 00 Table 0.4 refers to (05 R128, R133; RFC 8032 uses
SHA-512). Their arithmetic stands in the named standards, not in the manual (PRESUMED, log entry 15). -/

namespace Sys2Proof.Machine

/-- The parameters in which SHA-256 and SHA-512 differ: word width, rounds' constants, initial value and the
rotation counts of the four functions. -/
structure ShaModel where
  w    : Nat
  ks   : List Nat
  init : List Nat
  big0 : Nat × Nat × Nat
  big1 : Nat × Nat × Nat
  sml0 : Nat × Nat × Nat
  sml1 : Nat × Nat × Nat

/-- The round constants of SHA-256, part 0. -/
def sha256K0 : List Nat :=
  [0x428A2F98, 0x71374491, 0xB5C0FBCF, 0xE9B5DBA5,
   0x3956C25B, 0x59F111F1, 0x923F82A4, 0xAB1C5ED5,
   0xD807AA98, 0x12835B01, 0x243185BE, 0x550C7DC3,
   0x72BE5D74, 0x80DEB1FE, 0x9BDC06A7, 0xC19BF174]

/-- The round constants of SHA-256, part 1. -/
def sha256K1 : List Nat :=
  [0xE49B69C1, 0xEFBE4786, 0x0FC19DC6, 0x240CA1CC,
   0x2DE92C6F, 0x4A7484AA, 0x5CB0A9DC, 0x76F988DA,
   0x983E5152, 0xA831C66D, 0xB00327C8, 0xBF597FC7,
   0xC6E00BF3, 0xD5A79147, 0x06CA6351, 0x14292967]

/-- The round constants of SHA-256, part 2. -/
def sha256K2 : List Nat :=
  [0x27B70A85, 0x2E1B2138, 0x4D2C6DFC, 0x53380D13,
   0x650A7354, 0x766A0ABB, 0x81C2C92E, 0x92722C85,
   0xA2BFE8A1, 0xA81A664B, 0xC24B8B70, 0xC76C51A3,
   0xD192E819, 0xD6990624, 0xF40E3585, 0x106AA070]

/-- The round constants of SHA-256, part 3. -/
def sha256K3 : List Nat :=
  [0x19A4C116, 0x1E376C08, 0x2748774C, 0x34B0BCB5,
   0x391C0CB3, 0x4ED8AA4A, 0x5B9CCA4F, 0x682E6FF3,
   0x748F82EE, 0x78A5636F, 0x84C87814, 0x8CC70208,
   0x90BEFFFA, 0xA4506CEB, 0xBEF9A3F7, 0xC67178F2]

/-- The round constants of SHA-256. -/
def sha256K : List Nat := sha256K0 ++ sha256K1 ++ sha256K2 ++ sha256K3

/-- The round constants of SHA-512, part 0. -/
def sha512K0 : List Nat :=
  [0x428A2F98D728AE22, 0x7137449123EF65CD, 0xB5C0FBCFEC4D3B2F, 0xE9B5DBA58189DBBC,
   0x3956C25BF348B538, 0x59F111F1B605D019, 0x923F82A4AF194F9B, 0xAB1C5ED5DA6D8118,
   0xD807AA98A3030242, 0x12835B0145706FBE, 0x243185BE4EE4B28C, 0x550C7DC3D5FFB4E2,
   0x72BE5D74F27B896F, 0x80DEB1FE3B1696B1, 0x9BDC06A725C71235, 0xC19BF174CF692694]

/-- The round constants of SHA-512, part 1. -/
def sha512K1 : List Nat :=
  [0xE49B69C19EF14AD2, 0xEFBE4786384F25E3, 0x0FC19DC68B8CD5B5, 0x240CA1CC77AC9C65,
   0x2DE92C6F592B0275, 0x4A7484AA6EA6E483, 0x5CB0A9DCBD41FBD4, 0x76F988DA831153B5,
   0x983E5152EE66DFAB, 0xA831C66D2DB43210, 0xB00327C898FB213F, 0xBF597FC7BEEF0EE4,
   0xC6E00BF33DA88FC2, 0xD5A79147930AA725, 0x06CA6351E003826F, 0x142929670A0E6E70]

/-- The round constants of SHA-512, part 2. -/
def sha512K2 : List Nat :=
  [0x27B70A8546D22FFC, 0x2E1B21385C26C926, 0x4D2C6DFC5AC42AED, 0x53380D139D95B3DF,
   0x650A73548BAF63DE, 0x766A0ABB3C77B2A8, 0x81C2C92E47EDAEE6, 0x92722C851482353B,
   0xA2BFE8A14CF10364, 0xA81A664BBC423001, 0xC24B8B70D0F89791, 0xC76C51A30654BE30,
   0xD192E819D6EF5218, 0xD69906245565A910, 0xF40E35855771202A, 0x106AA07032BBD1B8]

/-- The round constants of SHA-512, part 3. -/
def sha512K3 : List Nat :=
  [0x19A4C116B8D2D0C8, 0x1E376C085141AB53, 0x2748774CDF8EEB99, 0x34B0BCB5E19B48A8,
   0x391C0CB3C5C95A63, 0x4ED8AA4AE3418ACB, 0x5B9CCA4F7763E373, 0x682E6FF3D6B2B8A3,
   0x748F82EE5DEFB2FC, 0x78A5636F43172F60, 0x84C87814A1F0AB72, 0x8CC702081A6439EC,
   0x90BEFFFA23631E28, 0xA4506CEBDE82BDE9, 0xBEF9A3F7B2C67915, 0xC67178F2E372532B]

/-- The round constants of SHA-512, part 4. -/
def sha512K4 : List Nat :=
  [0xCA273ECEEA26619C, 0xD186B8C721C0C207, 0xEADA7DD6CDE0EB1E, 0xF57D4F7FEE6ED178,
   0x06F067AA72176FBA, 0x0A637DC5A2C898A6, 0x113F9804BEF90DAE, 0x1B710B35131C471B,
   0x28DB77F523047D84, 0x32CAAB7B40C72493, 0x3C9EBE0A15C9BEBC, 0x431D67C49C100D4C,
   0x4CC5D4BECB3E42B6, 0x597F299CFC657E2A, 0x5FCB6FAB3AD6FAEC, 0x6C44198C4A475817]

/-- The round constants of SHA-512. -/
def sha512K : List Nat := sha512K0 ++ sha512K1 ++ sha512K2 ++ sha512K3 ++ sha512K4

/-- SHA-256. -/
def sha256Model : ShaModel :=
  { w := 32, ks := sha256K,
    init := [0x6A09E667, 0xBB67AE85, 0x3C6EF372, 0xA54FF53A, 0x510E527F, 0x9B05688C, 0x1F83D9AB, 0x5BE0CD19],
    big0 := (2, 13, 22), big1 := (6, 11, 25), sml0 := (7, 18, 3), sml1 := (17, 19, 10) }

/-- SHA-512. -/
def sha512Model : ShaModel :=
  { w := 64, ks := sha512K,
    init := [0x6A09E667F3BCC908, 0xBB67AE8584CAA73B, 0x3C6EF372FE94F82B, 0xA54FF53A5F1D36F1,
      0x510E527FADE682D1, 0x9B05688C2B3E6C1F, 0x1F83D9ABFB41BD6B, 0x5BE0CD19137E2179],
    big0 := (28, 34, 39), big1 := (14, 18, 41), sml0 := (1, 8, 7), sml1 := (19, 61, 6) }

/-- A right rotation of a `w`-bit word. -/
def rotr (w n k : Nat) : Nat := n / 2 ^ k + n % 2 ^ k * 2 ^ (w - k)

/-- Three rotations combined by exclusive or. -/
def shaBig (w : Nat) (r : Nat × Nat × Nat) (x : Nat) : Nat := rotr w x r.1 ^^^ rotr w x r.2.1 ^^^ rotr w x r.2.2

/-- Two rotations and a shift combined by exclusive or. -/
def shaSmall (w : Nat) (r : Nat × Nat × Nat) (x : Nat) : Nat := rotr w x r.1 ^^^ rotr w x r.2.1 ^^^ (x / 2 ^ r.2.2)

/-- The message schedule, newest word first. -/
def shaSchedule (m : ShaModel) : Nat → List Nat → List Nat
  | 0, ws => ws
  | k + 1, ws =>
    shaSchedule m k
      ((shaSmall m.w m.sml1 (getN ws 1) + getN ws 6 + shaSmall m.w m.sml0 (getN ws 14) + getN ws 15) % 2 ^ m.w :: ws)

/-- One round. -/
def shaRound (m : ShaModel) (v : List Nat) (kw : Nat × Nat) : List Nat :=
  match v with
  | [a, b, c, d, e, f, g, h] =>
    let ch := (e &&& f) ^^^ ((2 ^ m.w - 1 - e) &&& g)
    let maj := (a &&& b) ^^^ (a &&& c) ^^^ (b &&& c)
    let t1 := h + shaBig m.w m.big1 e + ch + kw.1 + kw.2
    let t2 := shaBig m.w m.big0 a + maj
    [(t1 + t2) % 2 ^ m.w, a, b, c, (d + t1) % 2 ^ m.w, e, f, g]
  | _ => v

/-- One block, as its 16 words. -/
def shaBlock (m : ShaModel) (v : List Nat) (ws : List Nat) : List Nat :=
  let sched := (shaSchedule m (m.ks.length - 16) ws.reverse).reverse
  let v' := (m.ks.zip sched).foldl (shaRound m) v
  List.zipWith (fun x y => (x + y) % 2 ^ m.w) v v'

/-- The words of a padded message, `n` of them. -/
def shaWords (m : ShaModel) : Nat → Bytes → List Nat
  | 0, _ => []
  | n + 1, bs => beVal (bs.take (m.w / 8)) :: shaWords m n (bs.drop (m.w / 8))

/-- The blocks of a padded message, `n` of them. -/
def shaBlocks (m : ShaModel) : Nat → Bytes → List Nat → List Nat
  | 0, _, v => v
  | n + 1, bs, v => shaBlocks m n (bs.drop (2 * m.w)) (shaBlock m v (shaWords m 16 (bs.take (2 * m.w))))

/-- The hash of a message. -/
def shaWith (m : ShaModel) (bs : Bytes) : Bytes :=
  let len := bs.length
  let block := 2 * m.w
  let tail := m.w / 4
  let total := ceilDiv (len + 1 + tail) block * block
  let padded := bs ++ [0x80] ++ zeros (total - len - 1 - tail) ++ beBytes tail (8 * len)
  (shaBlocks m (total / block) padded m.init).flatMap (beBytes (m.w / 8))

/-- SHA-256. -/
def sha256 (bs : Bytes) : Bytes := shaWith sha256Model bs

/-- SHA-512. -/
def sha512 (bs : Bytes) : Bytes := shaWith sha512Model bs

end Sys2Proof.Machine
end

