-- ==== Sys2Proof/Machine/Ed25519.lean ====
section
/-! DEFINITION. Ed25519 verification (00 Table 0.4, RFC 8032, pure, no context; 05 R129, 04 R95, 18 R507). The curve's arithmetic
stands in the RFC, not in the manual (PRESUMED, log entry 15). -/

namespace Sys2Proof.Machine

/-- The field's prime. -/
def edP : Nat := 2 ^ 255 - 19

/-- The order of the base point. -/
def edL : Nat := 2 ^ 252 + 27742317777372353535851937790883648493

/-- `b` to the power `e` modulo the field's prime, `fuel` bits of `e`. -/
def edPow : Nat → Nat → Nat → Nat
  | 0, _, _ => 1
  | k + 1, b, e =>
    let r := edPow k (b * b % edP) (e / 2)
    if e % 2 = 1 then r * b % edP else r

/-- The inverse in the field. -/
def edInv (x : Nat) : Nat := edPow 255 x (edP - 2)

/-- The curve's constant d. -/
def edD : Nat := (edP - 121665) * edInv 121666 % edP

/-- A square root of -1. -/
def edI : Nat := edPow 255 2 ((edP - 1) / 4)

/-- A point in extended coordinates. -/
structure EdPoint where
  x : Nat
  y : Nat
  z : Nat
  t : Nat
  deriving DecidableEq, Repr, Inhabited

/-- The sum of two points (RFC 8032, 5.1.4). -/
def edAdd (p q : EdPoint) : EdPoint :=
  let a := (p.y + edP - p.x) * (q.y + edP - q.x) % edP
  let b := (p.y + p.x) * (q.y + q.x) % edP
  let c := 2 * p.t * q.t * edD % edP
  let d := 2 * p.z * q.z % edP
  let e := (b + edP - a) % edP
  let f := (d + edP - c) % edP
  let g := (d + c) % edP
  let h := (b + a) % edP
  { x := e * f % edP, y := g * h % edP, z := f * g % edP, t := e * h % edP }

/-- The neutral point. -/
def edZero : EdPoint := { x := 0, y := 1, z := 1, t := 0 }

/-- `n` times a point, `fuel` bits of `n`. -/
def edMul : Nat → Nat → EdPoint → EdPoint
  | 0, _, _ => edZero
  | k + 1, n, p =>
    let r := edMul k (n / 2) (edAdd p p)
    if n % 2 = 1 then edAdd r p else r

/-- The point that 32 bytes encode, if they encode one (RFC 8032, 5.1.3). -/
def edDecode (bs : Bytes) : Option EdPoint :=
  let v := leVal bs
  let sign := v / 2 ^ 255 % 2
  let y := v % 2 ^ 255
  if bs.length ≠ 32 ∨ edP ≤ y then none
  else
    let u := (y * y + edP - 1) % edP
    let w := (edD * y % edP * y + 1) % edP
    let x2 := u * edInv w % edP
    let c := edPow 255 x2 ((edP + 3) / 8)
    let x := if c * c % edP = x2 then some c
      else if c * edI % edP * (c * edI % edP) % edP = x2 then some (c * edI % edP) else none
    match x with
    | none => none
    | some x =>
      if x = 0 ∧ sign = 1 then none
      else
        let x := if x % 2 = sign then x else edP - x
        some { x := x, y := y, z := 1, t := x * y % edP }

/-- The base point. -/
def edBase : EdPoint :=
  { x := 15112221349535400772501151409588531511454012693041857206046113283949847762202,
    y := 46316835694926478169428394003475163141307993866256225615783033603165251855960, z := 1,
    t := 15112221349535400772501151409588531511454012693041857206046113283949847762202 *
      46316835694926478169428394003475163141307993866256225615783033603165251855960 % edP }

/-- Two points are equal. -/
def edEq (p q : EdPoint) : Bool := p.x * q.z % edP == q.x * p.z % edP && p.y * q.z % edP == q.y * p.z % edP

/-- A signature of a message verifies under a public key (RFC 8032, 5.1.7, without the cofactor). -/
def edVerify (key msg sig : Bytes) : Bool :=
  let s := leVal (sub sig 32 32)
  match edDecode key, edDecode (sub sig 0 32) with
  | some a, some r =>
    if sig.length = 64 ∧ s < edL then
      let k := leVal (sha512 (sub sig 0 32 ++ key ++ msg)) % edL
      edEq (edMul 253 s edBase) (edAdd r (edMul 253 k a))
    else false
  | _, _ => false

end Sys2Proof.Machine
end

