-- ==== Sys2Proof/Config.lean ====
section
/-! DEFINITION. What one module fixes at manufacture, and the values the manual leaves open. Every constant here
is opaque: no proof can see its value, so a statement that mentions one holds whatever it is (log entries 7, 8,
11 to 13). -/

namespace Sys2Proof.Config

/-- The module's serial number (04 Table in R119, 18 R507). -/
opaque serial : Nat

/-- The boot ROM's version (04 R119). -/
opaque romVersion : Nat

/-- The Krytvas key in the boot ROM that signs field-service certificates (05 R135, 18 R507). -/
opaque krytvasKey : Bytes

/-- The bytes that the signature of a field-service certificate covers: serial, nonce, expiry and scope bit, whose layout the manual
does not give (05 R135, 18 R507; log entry 40). -/
opaque certMessage : Nat → Bytes → Nat → Bool → Bytes

/-- The bytes of the boot ROM (04, 16 Table 16.1). -/
opaque romByte : Nat → Byte

/-- The `i`-th draw of the SP random generator or other value the manual leaves open; the step applies it to
the counter `State.free` (log entry 7). -/
opaque freeValue : Nat → Nat

/-- The supercapacitor voltage in mV above which it holds retention SRAM, SYS_SUPPLY.BACKUP_OK's limit (02 R57; log entry 47). -/
opaque backupMin : Nat

/-- The voltage in mV of the full supercapacitor (02 R38; log entry 47). -/
opaque backupFull : Nat

/-- The voltage in mV that the supercapacitor has reached some ns after main power came, from the voltage it then had: the manual
gives only that it is full within 90 s (02 R38; log entry 47). Arguments: that voltage and the time. -/
opaque backupCharge : Nat → Nat → Nat

/-- The event number (0x80 to 0xFF) of an event that 18 Table 18.3 gives no code, by its name (log entry 8). -/
opaque eventNumber : String → Nat

/-- The severity of such an event where its chapter states none (log entry 8). -/
opaque eventSeverity : String → Nat

/-- A byte of the tensor that a guard layer computes: the manual does not fix how the layers are wired, so its arithmetic is open
(log entry 11). Arguments: layer, what it reads, and the byte's place. -/
opaque guardTensor : Nat → List Bytes → Nat → Byte

/-- A byte of the recurrent state that a guard layer proposes (07 R200; log entry 11). Arguments as above. -/
opaque guardState : Nat → List Bytes → Nat → Byte

/-- FPFLAGS of a guard layer (log entry 11). Arguments: layer and what it reads. -/
opaque guardFlags : Nat → List Bytes → Nat

/-- The pose of ARM_FLANGE that a tick's sources give, as its six numbers: the manual names the inputs and not the arithmetic of their
fusion (07 R187; log entry 12). Arguments: the pose before, the arm model and mounting, the joint positions, the IMU means, and the
wheel travel. -/
opaque egoFlange : List (List Int) → List Int

/-- The pose of MOBILE_BASE, likewise (07 R187; log entry 12). -/
opaque egoBase : List (List Int) → List Int

/-- The change from one pose to another that differs from it, as its six numbers: the order of the rotations is open (07 R187; log
entry 12). -/
opaque poseChange : List Int → List Int → List Int

/-- The grid cell of a pixel of a PROJECT layer; a number beyond the grid places it nowhere. The manual names what the placement
depends on and not its arithmetic (07 R197; log entry 11). Arguments: the stream's pose record, what the layer reads, and the pixel. -/
opaque placement : List Nat → List Bytes → Nat → Nat

/-- The tool Z axis of a candidate's orientation (roll, pitch, yaw in FX32) as three FX32 numbers: the order of
the rotations and the rounding of sine and cosine are open (log entry 12). -/
opaque toolZ : Int → Int → Int → Int × Int × Int

/-- The element code written in an MX block that holds a NaN or an infinity: R255 fixes its scale only (log entry 17). -/
opaque mxSpecial : Nat

/-- The picks that give the order of a sum whose descriptor does not set ORDERED: the manual leaves it unspecified (08 R221; log
entry 60). Arguments: the sum and the position. -/
opaque sumOrder : Nat → Nat → Nat

/-- The angle in µrad between two orientations (roll, pitch, yaw in µrad) that differ: the order of the rotations is open (log
entry 12). -/
opaque rotAngle : Int × Int × Int → Int × Int × Int → Nat

/-- The orientation a fraction of a millisecond (in ns) between two that differ, by spherical linear interpolation (07 R189; log
entry 12). -/
opaque slerp : Int × Int × Int → Int × Int × Int → Nat → Int × Int × Int

/-- A point (x, y in FX32 mm) of the grid frame in the axes of a grid whose origin pose is turned (12 R335; log entry 12). -/
opaque gridTurn : List Int → Int → Int → Int × Int

/-- The modelled cycles of a guard layer: the manual does not tie its four-dimensional shapes to the terms of Table 8.4 (07 R211,
08 R223; log entry 11). Arguments: operation, format, IN_SHAPE, OUT_SHAPE. -/
opaque layerCycles : Nat → Nat → List Nat → List Nat → Nat

/-- The working set of a guard layer in bytes (07 R212; log entry 11). Arguments: operation, format, IN_SHAPE, OUT_SHAPE,
WEIGHT_BYTES. -/
opaque layerSet : Nat → Nat → List Nat → List Nat → Nat → Nat

/-- The detail byte of an admission that fails on the sum of the loads, which belongs to no single claim kind (05 R143; log entry
36). -/
opaque loadSumDetail : Nat

/-- The one-byte seal status of a forensic verdict record (18 Table 18.4), which no table codes (log entry 28). Argument: the
status, 0 pending, 1 passed, 2 failed, 3 becalmed, 4 poisoned or unchecked, 5 absent. -/
opaque sealCode : Nat → Nat

/-- The delay in ns of the hops beyond the first neighbour, which the node cannot measure itself (15 R433; log entry 35).
Arguments: lane and HOPS. -/
opaque hopDelays : Nat → Nat → Nat

/-- Whether the received bytes are the whole transfer of a job or of its return (15 R438; log entry 30). -/
opaque bulkWhole : Bytes → Bool

/-- The payload of a Crosswind bulk frame made of its parts: the manual names the parts and not their layout (15 R438; log entry
30). -/
opaque bulkPack : List Bytes → Bytes

/-- The place of an address of a handed-over job in the lender's borrow window (15 R438; log entry 30). Arguments: the base and the
length of each range of the job's descriptors, and the address. -/
opaque lentPlace : List (Nat × Nat) → Nat → Nat

/-- The descriptors (64 bytes each), the operands (offset in the borrow window and bytes), the class record and the exchange slot
content of a received lent job (15 R438; log entry 30). -/
opaque bulkJob : Bytes → List Bytes × List (Nat × Bytes) × Bytes × Bytes

/-- The Vane result (10 R271 in its order, 0 MATCH to 4 FAILED), the returned digest pairs, whether a FAILED job failed by an
UNTRUSTED_IDX bound, and that descriptor's index, of a received return (15 R438; log entry 30). -/
opaque bulkReturn : Bytes → Nat × List (Nat × Nat) × Bool × Nat

end Sys2Proof.Config
end

