-- ==== Sys2Proof/Machine/Image.lean ====
section
/-! DEFINITION. The decoded records of a Windrose image (05 R128, R129, Table 5.2), field for field as the
owning chapters lay them out. Every number is the unsigned field value, except fields that a chapter
calls FX32 or signed, which are `Int`. -/

namespace Sys2Proof.Machine

/-- A directory entry (R128). -/
structure DirEntry where
  ty   : Nat
  ofs  : Nat
  len  : Nat
  hash : Bytes
  reserved : Bool
  deriving DecidableEq, Repr, Inhabited

/-- The HEADER section (Table 5.1). -/
structure Header where
  magic      : Bytes := []
  format     : Nat := 0
  dirCount   : Nat := 0
  imageSize  : Nat := 0
  version    : Nat := 0
  imageId    : Nat := 0
  target     : Nat := 0
  minFw      : Nat := 0
  rosebind   : Nat := 0
  buildTime  : Nat := 0
  weightSize : Nat := 0
  weightHash : Bytes := []
  dir        : List DirEntry := []
  reservedOk : Bool := false
  deriving DecidableEq, Repr, Inhabited

/-- A claim record (R142, Table 5.6). -/
structure Claim where
  kind    : Nat
  subject : Nat
  value   : Nat
  deriving DecidableEq, Repr, Inhabited

/-- A CHANNELS record (Table 16.10). -/
structure ChanRec where
  ch           : Nat := 0
  queue        : Nat := 0xFF
  flags        : Nat := 0
  streams      : Nat := 0
  reqId        : Nat := 0xFFFF
  pasid        : Nat := 0xFFFFFFFF
  rateMhz      : Nat := 0
  ageMs        : Nat := 10
  aliveWindow  : Nat := 0
  aliveMin     : Nat := 0
  aliveMax     : Nat := 0
  deadlineUs   : Nat := 0
  startCp      : Nat := 0
  endCp        : Nat := 0
  budgetPeriod : Nat := 10
  budgetUs     : Nat := 0
  order        : List Nat := []
  deriving DecidableEq, Repr, Inhabited

/-- A firewall rule record (R466). -/
structure Rule where
  ident : Nat
  kind  : Nat
  perm  : Nat
  base  : Nat
  pages : Nat
  deriving DecidableEq, Repr, Inhabited

/-- A stack plan record (Table 11.5). -/
structure StackPlan where
  stack     : Nat := 0
  proc      : Nat := 0
  recompute : Nat := 0
  strict    : Nat := 0
  fiu       : Nat := 0
  deriving DecidableEq, Repr, Inhabited

/-- A SENSORS stream record (Table 6.5). -/
structure StreamRec where
  stream     : Nat := 0
  path       : Nat := 0
  port       : Nat := 0
  vc         : Nat := 0
  dataType   : Nat := 0
  elem       : Nat := 0
  hdrCounter : Nat := 0
  flags      : Nat := 0
  width      : Nat := 16
  height     : Nat := 1
  frameBytes : Nat := 64
  period     : Nat := 8333333
  offset     : Nat := 0
  trig       : Nat := 0xFF
  k          : Nat := 2
  ring       : Nat := 4
  stall      : Nat := 2
  elemThresh : Nat := 0
  mount      : Nat := 0
  minChanged : Nat := 1
  moveUm     : Nat := 1000
  moveUrad   : Nat := 1000
  udpPort    : Nat := 0
  srcIp      : Nat := 0
  deriving DecidableEq, Repr, Inhabited

/-- A pose record (Table 7.7); FX32 fields are Q15.16 integers. -/
structure PoseRec where
  subject : Nat := 0
  parent  : Nat := 0
  proj    : Nat := 0
  pose    : List Int := []
  fx : Int := 0
  fy : Int := 0
  cx : Int := 0
  cy : Int := 0
  planeZ : Int := 0
  deriving DecidableEq, Repr, Inhabited

/-- The FUSION record (Table 7.6). -/
structure FusionRec where
  gridX       : Nat := 16
  gridY       : Nat := 16
  channels    : Nat := 1
  gridFrame   : Nat := 0
  sources     : Nat := 0
  axes        : Nat := 0
  cellUm      : Nat := 1000
  waitNs      : Nat := 10000000
  epochRate   : Nat := 100
  members     : Nat := 0
  anchor      : Nat := 0
  qeLeft      : Nat := 0xFF
  jointConn   : Nat := 0xFFFF
  qeRight     : Nat := 0xFF
  stateBytes  : Nat := 0
  gridOrigin  : List Int := []
  jointStep   : Nat := 100
  imuStill    : Nat := 1
  wheelNm     : Nat := 100
  trackUm     : Nat := 50000
  armModel    : List Int := []
  deriving DecidableEq, Repr, Inhabited

/-- A GUARD layer record (Table 7.8). -/
structure LayerRec where
  layer : Nat := 0
  op    : Nat := 0
  stage : Nat := 0
  stream : Nat := 0xFF
  format : Nat := 0
  flags  : Nat := 0
  weightOfs   : Nat := 0
  weightBytes : Nat := 0
  inShape  : List Nat := []
  outShape : List Nat := []
  deriving DecidableEq, Repr, Inhabited

/-- An AUDIT channel record (Table 12.9). -/
structure AudChan where
  ch         : Nat := 0
  points     : Nat := 1
  log2f      : Nat := 0
  log2fFloor : Nat := 0
  tileLog2   : Nat := 6
  escCount   : Nat := 3
  flags      : Nat := 0
  refM       : Nat := 1
  doubtPpm   : Nat := 1
  tokenConn  : Nat := 0xFFFF
  networkId  : Nat := 0
  disMarginal : Int := 0
  disReject   : Int := 0
  occThresh   : Int := 0
  gripperMm   : Int := 0
  targetMm    : Int := 0
  deriving DecidableEq, Repr, Inhabited

/-- An AUDIT witness record (Table 12.10). -/
structure WitRec where
  ch      : Nat := 0
  point   : Nat := 0
  kind    : Nat := 0
  fmtIn   : Nat := 0
  fmtOut  : Nat := 0
  compare : Nat := 0
  m       : Nat := 1
  n       : Nat := 1
  k       : Nat := 1
  ulp     : Nat := 0
  weightOfs   : Nat := 0
  weightBytes : Nat := 0
  abftTol     : Nat := 0
  deriving DecidableEq, Repr, Inhabited

/-- An AUDIT zone record (R353). -/
structure Zone where
  zone : Nat := 0
  lo   : List Int := []
  hi   : List Int := []
  deriving DecidableEq, Repr, Inhabited

/-- A VANE class record (Table 10.6). -/
structure ClassRec where
  cls        : Nat := 0
  mode       : Nat := 1
  compare    : Nat := 0
  xforms     : Nat := 1
  rot        : Nat := 1
  deadlineUs : Nat := 0
  tol        : Int := 0
  firstInput : Nat := 0
  inputCount : Nat := 0
  deriving DecidableEq, Repr, Inhabited

/-- A VANE input record (Table 10.7). -/
structure InputRec where
  cls     : Nat := 0
  source  : Nat := 0
  kind    : Nat := 0
  subject : Nat := 0xFFFF
  deriving DecidableEq, Repr, Inhabited

/-- A SAFETY input record (Table 13.6). -/
structure SafIn where
  kind     : Nat := 0
  tpA      : Nat := 0xFF
  tpB      : Nat := 0xFF
  filter   : Nat := 4
  disc     : Nat := 50
  reaction : Nat := 1
  deriving DecidableEq, Repr, Inhabited

/-- A SAFETY group record (Table 13.7). -/
structure SafGroup where
  used      : Nat := 0
  ss1Kind   : Nat := 1
  axes      : Nat := 0
  flags     : Nat := 0
  ss1Max    : Nat := 1000
  rampDelay : Nat := 50
  stillTime : Nat := 50
  deriving DecidableEq, Repr, Inhabited

/-- A SAFETY axis record (Table 13.8). -/
structure SafAxis where
  nrad  : Nat := 0
  sls   : Nat := 250
  tol   : Nat := 100
  dec   : Nat := 2000
  still : Nat := 20
  deriving DecidableEq, Repr, Inhabited

/-- A SAFETY brake record (Table 13.9). -/
structure SafBrake where
  group    : Nat := 0xFF
  dead     : Nat := 10
  pullinMs : Nat := 100
  holdPct  : Nat := 50
  releaseMs : Nat := 50
  deriving DecidableEq, Repr, Inhabited

/-- The SAFETY section, which is the SLB parameter block (R391, Table 13.5), with its CRC-32C. -/
structure Safety where
  format        : Nat := 1
  reqFilter     : Nat := 4
  chain         : Nat := 0
  chainFilter   : Nat := 4
  tpWidth       : Nat := 500
  tpPeriod      : Nat := 100
  offtestUs     : Nat := 300
  offtestPeriod : Nat := 1000
  chainPulseMs  : Nat := 100
  chainDisc     : Nat := 50
  degTimerS     : Nat := 1800
  reservedOk    : Bool := true
  inputs : List SafIn := List.replicate 16 {}
  groups : List SafGroup := List.replicate 4 {}
  axes   : List SafAxis := List.replicate 8 {}
  brakes : List SafBrake := List.replicate 4 {}
  crc    : Nat := 0
  /-- The stored CRC-32C is that of bytes 0 to 383 (R148, R391). -/
  crcGood : Bool := true
  deriving DecidableEq, Repr, Inhabited

/-- A MESSAGES connection record (Table 14.10). -/
structure ConnRec where
  conn     : Nat := 0
  dir      : Nat := 0
  flags    : Nat := 0
  vcid     : Nat := 0
  window   : Nat := 1
  pcp      : Nat := 0
  vid      : Nat := 1
  watchdog : Nat := 2
  maxAge   : Nat := 1
  period   : Nat := 0
  mac      : Nat := 0
  deriving DecidableEq, Repr, Inhabited

/-- A Qbv gate entry (R420). -/
structure Gate where
  state    : Nat := 0
  duration : Nat := 0
  deriving DecidableEq, Repr, Inhabited

/-- The ring record (Table 15.5). -/
structure RingRec where
  nodeId       : Nat := 0
  members      : Nat := 1
  obey         : Nat := 0
  flags        : Nat := 0
  send         : Nat := 0
  nodeTimeout  : Nat := 10
  lend         : Nat := 0
  lendTo       : Nat := 0xFF
  borrow       : Nat := 0
  borrowFrom   : Nat := 0xFF
  units        : Nat := 0
  partnerUnits : Nat := 0
  returnUs     : Nat := 200
  shareCh      : Nat := 0
  shareId      : Nat := 0
  deriving DecidableEq, Repr, Inhabited

/-- The MESSAGES section (R420, R441). -/
structure Messages where
  count   : Nat := 0
  skewUs  : Nat := 100
  cycle   : Nat := 0
  gateLen : Nat := 0
  conns   : List ConnRec := []
  gates   : List Gate := []
  ring    : RingRec := {}
  deriving DecidableEq, Repr, Inhabited

/-- A POWER channel record (Table 17.6). -/
structure PowerRec where
  ch      : Nat
  wakeTol : Nat
  deriving DecidableEq, Repr, Inhabited

/-- The POWER section (R486). -/
structure Power where
  allow   : Nat := 0
  guardUs : Nat := 50
  recs    : List PowerRec := []
  deriving DecidableEq, Repr, Inhabited

/-- A monitor slot record (Table 18.6). -/
structure MonRec where
  slot    : Nat := 0
  source  : Nat := 1
  edges   : Nat := 0
  shift   : Nat := 0
  subject : Nat := 0xFFFF
  flags   : Nat := 0
  rateHz  : Nat := 0
  base    : Int := 0
  width   : Nat := 1
  deriving DecidableEq, Repr, Inhabited

/-- The MONITORS section (R514). -/
structure Monitors where
  slots    : List MonRec := []
  fringGib : Nat := 1
  fringStreams : Nat := 0
  decimate : Nat := 1
  deriving DecidableEq, Repr, Inhabited

/-- A whole decoded image. -/
structure Image where
  header   : Header := {}
  digest   : Bytes := []
  hashes   : List Bytes := []
  fingerprint : Bytes := []
  signature   : Bytes := []
  claims   : List Claim := []
  channels : List ChanRec := []
  rules    : List Rule := []
  plans    : List StackPlan := []
  streams  : List StreamRec := []
  poses    : List PoseRec := []
  modulePose : PoseRec := {}
  fusion   : FusionRec := {}
  layers   : List LayerRec := []
  audChans : List AudChan := []
  wits     : List WitRec := []
  zones    : List Zone := []
  classes  : List ClassRec := []
  inputs   : List InputRec := []
  safety   : Safety := {}
  messages : Messages := {}
  power    : Power := {}
  monitors : Monitors := {}
  /-- Section types whose reserved bytes or record counts are not as laid out. -/
  badShape : List Nat := []
  deriving DecidableEq, Repr, Inhabited

end Sys2Proof.Machine
end

