-- ==== Sys2Proof/Machine/Blocks.lean ====
section
/-! DEFINITION. The state structures of the module's blocks, one field per register field, counter, buffer or
mode the spec names. A field's docstring reads: width | file and rule | value at reset | meaning. Views that a
register computes from other state (R31, R518 and the like) are not stored twice: Machine/Registers.lean
computes them. -/

namespace Sys2Proof.Machine

/-- The operating states (01 Table 1.3). -/
inductive St where
  | off | start | commission | run | degraded | halted | doldrums
  deriving DecidableEq, Repr, Inhabited

/-- A trip that waits for the SP cycle: its source of Table 1.7 and whether its reaction is STO. -/
structure Trip where
  src : Nat
  sto : Bool
  deriving DecidableEq, Repr, Inhabited

/-- The tolerable faults of Table 1.6. -/
inductive Tol where
  | singlePath | coresFenced | coresMany | streamLost | vaneReduced | vaneNone | bgMiss
  deriving DecidableEq, Repr, Inhabited

/-- The SP's operating state and its trip and restart bookkeeping. -/
structure Sys where
  /-- 3 bit | 01 R31 SYS_STATE.STATE | OFF (read as 0b001 while unpowered) | the operating state -/
  state      : St := .off
  /-- 8 bit | 01 R30, R31 TRIP_SRC | 0 | first trip source since entry to HALTED -/
  tripSrc    : Nat := 0
  /-- 1 bit | 01 R13, R31 TQEN | 0 | the torque-enable line -/
  tqen       : Bool := false
  /-- instant | 01 R21, R31 RESET_ARMED | none | when the restart was armed -/
  armedAt    : Option Nat := none
  /-- list | 01 R25 | empty | trips raised at the SP and not yet resolved by an SP cycle -/
  pendTrips  : List Trip := []
  /-- list | 01 R21 | empty | trip sources of the SP that are active -/
  active     : List Nat := []
  /-- list | 01 R20, Table 1.6 | empty | tolerable faults seen at the last SP cycle -/
  tolSeen    : List Tol := []
  /-- ns | 01 R20 | 0 | the degraded timer -/
  degElapsed : Nat := 0
  /-- 1 bit | 01 R32 RUNNING | 0 | the degraded timer counts -/
  degRun     : Bool := false
  /-- 1 bit | 01 R20, R32 | 0 | the degraded timer has started and not been reset: it runs or stands frozen -/
  degHeld    : Bool := false
  /-- 1 bit | 01 R25 | 0 | the degraded timer has expired and waits for the SP cycle -/
  degDue     : Bool := false
  /-- instant | 01 R14 | none | when the SP requested the SS1 that is in progress -/
  ss1At      : Option Nat := none
  /-- 2 bit | 13 R368 | 0 | the stop request field: 0 NONE, 1 SS1, 2 STO -/
  req        : Nat := 0
  /-- 8 bit | 13 R368 | 0 | its trip source -/
  reqSrc     : Nat := 0
  /-- instant | 13 R368 | 0 | since when the field has held its value -/
  reqAt      : Nat := 0
  /-- 1 bit | 01 R14 | 0 | TQEN is held inactive: STO was decided, or an SS1 is overdue -/
  cut        : Bool := false
  /-- 1 bit | 18 R508 | 0 | debug was enabled by certificate in RUN or DEGRADED; the SP cycle acts on it -/
  dbgDue     : Bool := false
  /-- 1 bit | 02 R52 | 0 | the power-fail sequence runs -/
  powerFail  : Bool := false
  /-- 1 bit | 19 R532 | 0 | an uncorrectable journal error was found in service -/
  internal   : Bool := false
  /-- 32 bit | 13 R368 | 0 | SP cycles since the firmware started, whose low 8 bits are the firmware heartbeat -/
  cycle      : Nat := 0
  /-- 1 bit | 03 Table 3.3 | 0 | hardware holds the SP in reset -/
  spHeld     : Bool := false
  deriving DecidableEq, Repr, Inhabited

/-- Module supplies and temperature (02 R52 to R57). -/
structure Supply where
  /-- 1 bit | 02 R18, R28 | 0 | VIN_12V and SLB power are good -/
  on         : Bool := false
  /-- mV | 02 R57 MAIN_V | 0 | VIN_12V as last measured -/
  vin        : Nat := 0
  /-- 1 bit | 02 R57 MAIN_OK | 1 | VIN_12V is good -/
  mainOk     : Bool := true
  /-- 1 bit | 02 R57 IOA_OK | 0 | as the SLB reports -/
  ioaOk      : Bool := false
  /-- 1 bit | 02 R57 IOB_OK | 0 | as the SLB reports -/
  iobOk      : Bool := false
  /-- 1 bit | 02 R54, R57 HOLDUP_READY | 0 | hold-up bank charged -/
  holdup     : Bool := false
  /-- mV | 02 R57 BACKUP_V, BACKUP_OK | 0 | supercapacitor voltage when main power came -/
  backup     : Nat := 0
  /-- instant | 02 R38 | 0 | when main power came: the supercapacitor charges from then on -/
  onAt       : Nat := 0
  /-- 1 bit | 02 R57 LAST_OFF_PF | DESIGN CHOICE 0 (5) | the last OFF followed a complete forensic commit -/
  lastOffPf  : Bool := false
  /-- 1 bit | 02 R57 IO_UV_SEEN | 0 | an I/O supply left its window -/
  uvSeen     : Bool := false
  /-- 1 bit | 02 Table 2.8 PF_OUT_N | 0 | low from the power-fail warning until power-on (true: driven low) -/
  pfOut      : Bool := false
  /-- 1 bit | 02 R56 | 0 | the die is held by the thermal trip -/
  thermal    : Bool := false
  deriving DecidableEq, Repr, Inhabited

/-- CLK_SYNC.STATE (03 R64). -/
inductive Sync where
  | unset | free | locked | holdover
  deriving DecidableEq, Repr, Inhabited

/-- One camera trigger (03 R67 to R69, R86); `next` fields hold a value that waits for the next edge. -/
structure Trig where
  /-- 64 bit | 03 R86 START | 0 | device time of edge 0 -/
  start   : Nat := 0
  /-- 34 bit | 03 R86 PERIOD | 0 | ns -/
  period  : Nat := 0
  /-- 20 bit | 03 R86 WIDTH | 0 | ns -/
  width   : Nat := 0
  /-- 64 bit | 03 R69 | none | START written, in force after the next edge -/
  startN  : Option Nat := none
  /-- 34 bit | 03 R69 | none | PERIOD written, in force after the next edge -/
  periodN : Option Nat := none
  /-- 20 bit | 03 R69 | none | WIDTH written, in force after the next edge -/
  widthN  : Option Nat := none
  /-- 1 bit | 03 R86 EN | 0 | edges produced -/
  en      : Bool := false
  /-- 1 bit | 03 R86 POL | 0 | 0 active high -/
  pol     : Bool := false
  /-- 1 bit | 03 R86 BADPARAM | 0 | a write was refused -/
  bad     : Bool := false
  /-- 32 bit | 03 R86 MISSED | 0 | skipped edges -/
  missed  : Nat := 0
  /-- 64 bit | 03 R68 | none | device time of the next edge -/
  due     : Option Nat := none
  /-- 1 bit | 03 R67 TRIG pin | 0 | the pulse is in progress (logical, before POL) -/
  pulse   : Bool := false
  /-- 64 bit | 03 R69 | 0 | device time at which the pulse in progress ends -/
  pulseEnd : Nat := 0
  /-- 64 bit | 06 R164 | none | device time of the last edge -/
  last    : Option Nat := none
  deriving DecidableEq, Repr, Inhabited

/-- Device time, clock monitors and triggers (03). -/
structure Clk where
  /-- 64 bit | 03 R60, R83 CLK_TIME | 0 | device time in ns -/
  dev     : Nat := 0
  /-- 35 bit | 03 R60 | 0 | fraction of device time in units of 2 to the -35 ns -/
  frac    : Nat := 0
  /-- signed | 03 R60, R64 | 0 | the servo's frequency correction in 2 to the -32 ns per CLK_PTP cycle -/
  addend  : Int := 0
  /-- signed, 2 to the -35 ns | 03 R63 | 0 | correction still to be slewed -/
  slew    : Int := 0
  /-- 2 bit | 03 R84 STATE | DESIGN CHOICE UNSET (5) | loaded at S0 -/
  sync    : Sync := .unset
  /-- 1 bit | 03 R84 PORT | 0 | port followed -/
  port    : Nat := 0
  /-- 1 bit | 03 R84 DISAGREE | 0 | ports differ by more than 1 µs -/
  disagree : Bool := false
  /-- instant | 03 R84 HOLD_S | none | when the grandmaster was lost -/
  lostAt  : Option Nat := none
  /-- 32 bit signed | 03 R85 CLK_OFFSET | 0 | last measured offset in ns -/
  offset  : Int := 0
  /-- list | 03 R65 | empty | per cell port the grandmaster it reports -/
  gms     : List (Option Nat) := [none, none]
  /-- list | 03 R65 | 0 | per cell port its last offset in ns -/
  offs    : List Int := [0, 0]
  /-- 64 bit | 03 R63, R65 | none | the selected grandmaster -/
  gm      : Option Nat := none
  /-- count | 03 R64 | 0 | consecutive Sync intervals within ±1 µs -/
  inLock  : Nat := 0
  /-- instant | 03 R65 | none | since when the ports have differed by more than 1 µs -/
  disSince : Option Nat := none
  /-- 1 bit | 03 R65 | 0 | this disagreement has been logged -/
  disLogged : Bool := false
  /-- instant | 03 R64, R65 | none | when STATE last became LOCKED -/
  lockAt  : Option Nat := none
  /-- 1 bit | 03 R82 AC_OK | 1 | -/
  acOk    : Bool := true
  /-- 1 bit | 03 R77 | 1 | CLK_SP within window -/
  spOk    : Bool := true
  /-- 1 bit | 03 R77 | 1 | CLK_FAB within window -/
  fabOk   : Bool := true
  /-- 2 bit | 03 R82 MS0_OK, MS1_OK | 1 | -/
  msOk    : List Bool := [true, true]
  /-- 1 bit | 03 R82 PCIE_OK | 0 | -/
  pcieOk  : Bool := false
  /-- 4 bit | 03 R82 ETH_OK | 0 | -/
  ethOk   : List Bool := List.replicate 4 false
  /-- 8 bit | 03 R82 CSI_OK | 0 | -/
  csiOk   : List Bool := List.replicate 8 false
  /-- 1 bit | 03 R82 XWL_OK | 0 | -/
  xwlOk   : Bool := false
  /-- 1 bit | 03 R82 RTC_OK | 1 | -/
  rtcOk   : Bool := true
  /-- 1 bit | 03 R77 | 1 | CLK_PTP within window -/
  ptpOk   : Bool := true
  /-- 1 bit | 03 R82 PTP_BACKUP | 0 | -/
  backup  : Bool := false
  /-- 1 bit | 03 R82 FAIL_SEEN | 0 | -/
  failSeen : Bool := false
  /-- instant | 03 R91 in 04 | none | since when CLK_SP and CLK_FAB are both in window again -/
  okSince : Option Nat := none
  /-- 8 | 03 R86 | as Trig | the triggers -/
  trigs   : List Trig := List.replicate 8 {}
  deriving DecidableEq, Repr, Inhabited

/-- A calendar instant (03 R79, R87). -/
structure Cal where
  year   : Nat := 0
  month  : Nat := 1
  day    : Nat := 1
  hour   : Nat := 0
  minute : Nat := 0
  second : Nat := 0
  tenths : Nat := 0
  deriving DecidableEq, Repr, Inhabited

/-- The real-time clock (03 R79 to R90). -/
structure Rtc where
  /-- 64 bit | 03 R87 RTC_TIME | DESIGN CHOICE 2000-01-01 00:00:00.0 (5) | the calendar -/
  cal       : Cal := {}
  /-- 64 bit | 03 R87 RTC_SET | 0 | -/
  set       : Nat := 0
  /-- 1 bit | 03 R89 VALID | DESIGN CHOICE 0 (5) | -/
  valid     : Bool := false
  /-- 1 bit | 03 R89 BADDATE | 0 | -/
  bad       : Bool := false
  /-- 1 bit | 03 R89 END | 0 | -/
  ended     : Bool := false
  /-- 1 bit | 03 R89 FOLLOWING | DESIGN CHOICE 0 (5) | -/
  following : Bool := false
  /-- 1 bit | 03 R80 | 0 | following takes effect at the next tenth -/
  followDue : Bool := false
  /-- 16 bit signed | 03 R90 RTC_UTC_OFS | DESIGN CHOICE 0 (5) | TAI - UTC in s -/
  utc       : Int := 0
  deriving DecidableEq, Repr, Inhabited

/-- An event log entry (18 Table 18.2) without its CRC, and whether its stored CRC is correct. -/
structure LogEntry where
  time    : Nat
  seq     : Nat
  code    : Nat
  sev     : Nat
  state   : Nat
  subject : Nat
  data    : Nat
  good    : Bool := true
  deriving DecidableEq, Repr, Inhabited

/-- Repeats of one code and subject counted in the current whole second (18 R501). -/
structure LogRep where
  code    : Nat
  subject : Nat
  written : Nat
  held    : Nat
  deriving DecidableEq, Repr, Inhabited

/-- One bank of the log selection registers (18 R502, R517). -/
structure LogBank where
  /-- 4 bit | 18 R517 LOG_SEL_STAT | 0 | -/
  selStat : Nat := 0
  /-- 32 bytes | 18 R517 LOG_ENTRY | 0 | -/
  entry   : Bytes := zeros 32
  /-- 4 bit | 18 R517 FR_SEL_STAT | 0 | -/
  frStat  : Nat := 0
  /-- 256 bytes | 18 R517 FR_ENTRY | 0 | -/
  frEntry : Bytes := zeros 256
  deriving DecidableEq, Repr, Inhabited

/-- A forensic verdict record as its stored bytes (18 Table 18.4) and its number. -/
structure FrRec where
  num  : Nat
  data : Bytes
  deriving DecidableEq, Repr, Inhabited

/-- An entry of the frame forensic ring (18 R504): its write sequence, its offset in the ring, and its length. -/
structure FringEntry where
  seq  : Nat
  at_  : Nat
  len  : Nat
  deriving DecidableEq, Repr, Inhabited

/-- The log block: registers outside retention (18 R501, R502, R504, R517). -/
structure Log where
  /-- 32 bit | 18 R517 LOG_REPEATED | 0 | -/
  repeated : Nat := 0
  /-- s | 18 R501 | 0 | the whole second of device time that the repeat counts belong to -/
  second   : Nat := 0
  /-- list | 18 R501 | empty | repeats in that second -/
  reps     : List LogRep := []
  /-- bank | 18 R496, R517 | 0 | the host's bank -/
  host     : LogBank := {}
  /-- bank | 18 R496, R517 | 0 | the SP's bank -/
  sp       : LogBank := {}
  /-- 64 bit | 18 R517 FRING_NEXT | DESIGN CHOICE 1 (5) | next ring write sequence -/
  fringNext : Nat := 1
  /-- bytes | 18 R504 | 0 | where the next entry goes in the ring -/
  fringAt  : Nat := 0
  /-- list | 18 R504, R517 FRING_OLDEST | empty | entries held, oldest first -/
  fring    : List FringEntry := []
  deriving DecidableEq, Repr, Inhabited

/-- A journal entry (19 Table 19.3); `aux` holds the 6 AUX bytes. -/
structure JEntry where
  kind  : Nat
  state : Nat
  owner : Nat
  seq   : Nat
  aux   : Bytes := zeros 6
  deriving DecidableEq, Repr, Inhabited

/-- Retention SRAM as data (18 R492, 19 R519); Machine/Retention.lean encodes it to bytes. -/
structure Ret where
  /-- list | 18 R492, R499 | empty | event log entries, oldest first, at most 4096 -/
  log     : List LogEntry := []
  /-- 32 bit | 18 R500, R517 LOG_NEXT | 1 | next SEQ -/
  logNext : Nat := 1
  /-- 32 bit | 18 R500, R517 LOG_LOST | 0 | entries overwritten -/
  logLost : Nat := 0
  /-- list | 18 R492, R503 | empty | forensic verdict records, oldest first, at most 2048 -/
  frs     : List FrRec := []
  /-- 32 bit | 18 R503, R517 FR_NEXT | 1 | next FR_NUMBER -/
  frNext  : Nat := 1
  /-- list | 19 R519, R522 | empty | journal entries that are not FREE, at most 16 384 -/
  journal : List JEntry := []
  /-- 16 x 32 bit | 19 Table 19.1 | 0 | last SEQUENCE of each stream -/
  streams : List Nat := List.replicate 16 0
  /-- 512 x 32 bit | 19 Table 19.1 | 0 | last RESULT_SEQ of each channel -/
  results : List Nat := List.replicate 512 0
  /-- 32 bit | 19 Table 19.1 | 0 | last token number -/
  token   : Nat := 0
  /-- 16 bit | 19 Table 19.2 GEN | 0 | start count -/
  gen     : Nat := 0
  /-- 1 bit | 19 Table 19.2 CLEAN_OFF | 0 | a forensic commit completed -/
  cleanOff : Bool := false
  /-- 64 bit | 19 Table 19.2 OFF_TIME | 0 | device time at the end of the commit -/
  offTime : Nat := 0
  /-- 1 bit | 19 R519, R530 | 0 | the contents are formatted (magic, CRCs) and have been held -/
  held    : Bool := false
  /-- 1 bit | 19 R533 LOST | DESIGN CHOICE 0 (5) | the last S2 found retention invalid -/
  lost    : Bool := false
  /-- 16 bit | 19 R533 FAILED | DESIGN CHOICE 0 (5) | entries failed at the last S2 -/
  failed  : Nat := 0
  deriving DecidableEq, Repr, Inhabited

/-- A monitor slot's statistics (18 R493 to R496). -/
structure MonSlot where
  /-- 32 bit | 18 R493 LAST | 0 | -/
  last   : Int := 0
  /-- 32 bit | 18 R493 MIN | 0 | -/
  min    : Int := 0
  /-- 32 bit | 18 R493 MAX | 0 | -/
  max    : Int := 0
  /-- 64 bit | 18 R493 COUNT | 0 | -/
  count  : Nat := 0
  /-- 64 bit | 18 R493 SUM | 0 | -/
  sum    : Int := 0
  /-- 32 x 32 bit | 18 R494 | 0 | the bins -/
  bins   : List Nat := List.replicate 32 0
  /-- 1 bit | 18 R495 STAT.SAT | 0 | -/
  sat    : Bool := false
  /-- 1 bit | 18 R495 STAT.SUM_SAT | 0 | -/
  sumSat : Bool := false
  /-- 1 bit | 18 R497 STAT.INVALID | 0 | the last sample came from a failed ADC -/
  invalid : Bool := false
  deriving DecidableEq, Repr, Inhabited

/-- One snapshot bank (18 R496, R516). -/
structure SnapBank where
  /-- slot | 18 R516 | 0 | the copied statistics -/
  slot    : MonSlot := {}
  /-- 1 bit | 18 R516 CLEAR_REFUSED | 0 | -/
  refused : Bool := false
  /-- 6 bit | 18 R516 MON_SN_STAT slot | 0 | -/
  number  : Nat := 0
  deriving DecidableEq, Repr, Inhabited

/-- The monitors (18 R493 to R498, R515, R516). -/
structure Mon where
  /-- 64 | 18 R493 | 0 | the slots -/
  slots    : List MonSlot := List.replicate 64 {}
  /-- 1 bit | 18 R515 SAT | 0 | -/
  sat      : Bool := false
  /-- 1 bit | 18 R515 ADC_SP_FAULT | 0 | -/
  adcSp    : Bool := false
  /-- 1 bit | 18 R515 ADC_SLB_FAULT | 0 | -/
  adcSlb   : Bool := false
  /-- 1 bit | 18 R516 SAT_SEEN | 0 | -/
  satSeen  : Bool := false
  /-- 1 bit | 18 R516 ADC_SEEN | 0 | -/
  adcSeen  : Bool := false
  /-- bank | 18 R496 | 0 | the host's bank -/
  host     : SnapBank := {}
  /-- bank | 18 R496 | 0 | the SP's bank -/
  sp       : SnapBank := {}
  /-- 32 bit | 18 R498 MON_TELEM_SEQ | 0 | -/
  telemSeq : Nat := 0
  /-- 64 bit | 18 R516 | 0 | device time of the page -/
  telemTime : Nat := 0
  /-- 32 bit | 18 R516 | 0 | SYS_STATE of the page -/
  telemState : Nat := 0
  /-- 64 x 32 bit | 18 R516 | 0 | LAST of each slot in the page -/
  telemLast : List Int := List.replicate 64 0
  deriving DecidableEq, Repr, Inhabited

/-- A held unlock request (18 R507) and the nonce current when it arrived. -/
structure HeldUnlock where
  req   : UnlockReq
  nonce : Bytes
  deriving DecidableEq, Repr

/-- The debug port (18 R506 to R511, R518). -/
structure Dbg where
  /-- 1 bit | 18 R518 ENABLED | DESIGN CHOICE 0 (5) | -/
  enabled : Bool := false
  /-- 2 bit | 18 R518 METHOD | DESIGN CHOICE 0 (5) | -/
  method  : Nat := 0
  /-- 1 bit | 18 R507 | 0 | the certificate's scope bit SP -/
  scopeSp : Bool := false
  /-- 1 bit | 18 R518 PRES | 0 | DBG_PRES_N low -/
  pres    : Bool := false
  /-- 1 bit | 18 R518 SP_HALTED | 0 | -/
  spHalted : Bool := false
  /-- 16 bit | 18 R518 HALTED | 0 | halted cores -/
  halted  : List Bool := List.replicate 16 false
  /-- 16 bit | 18 R509 | 0 | cores that step: they halt again after one descriptor -/
  stepping : List Bool := List.replicate 16 false
  /-- 4 | 18 R518 DBG_BPn | 0 | breakpoints -/
  bps     : List BpMatch := List.replicate 4 ⟨0, 0, 0, false, false, false, false, 0⟩
  /-- 4 bit | 18 R518 DBG_HIT.CORE | 0 | -/
  hitCore : Nat := 0
  /-- 2 bit | 18 R518 DBG_HIT.BP | 0 | -/
  hitBp   : Nat := 0
  /-- 1 bit | 18 R518 SKIPPED_SAFE | 0 | -/
  hitSafe : Bool := false
  /-- 32 bit | 18 R518 DBG_HIT_JOB | 0 | -/
  hitJob  : Nat := 0
  /-- 16 bytes | 18 R507 | DESIGN CHOICE 0 (5) | the current nonce -/
  nonce   : Bytes := zeros 16
  /-- option | 18 R507, 04 R112 | none | an unlock request held until S8 -/
  held    : Option HeldUnlock := none
  /-- 6 bit | 18 R506 | BYPASS 0x3F (PRESUMED, IEEE 1149.1: IDCODE or BYPASS) (5) | TAP instruction register -/
  ir      : Nat := 0x3F
  /-- bits | 18 R506 | 0 | boundary register: preloaded values -/
  preload : Nat := 0
  /-- bits | 18 R506 | 0 | boundary register: captured pins -/
  capture : Nat := 0
  /-- 1 bit | 18 R506 | 0 | bypass register -/
  bypass  : Nat := 0
  /-- 1 bit | 18 R506 | 0 | EXTEST drives the J2 and J3 pins -/
  extest  : Bool := false
  deriving DecidableEq, Repr, Inhabited

/-- The start supervisor's view of a start (04 R91 to R114, R123). -/
structure Start where
  /-- 4 bit | 04 R123 STAGE | 0 | stage in progress, 0 to 8; 0xF after S8 -/
  stage     : Nat := 0
  /-- 1 bit | 04 R123 WARM | DESIGN CHOICE 0 (5) | the start is warm -/
  warm      : Bool := false
  /-- 1 bit | 04 R106, R123 ACK_PENDING | 0 | the first acknowledge is awaited -/
  ackPending : Bool := false
  /-- instant | 04 R93 | 0 | S0 entry -/
  s0At      : Nat := 0
  /-- instant | 04 R92 | 0 | entry of the stage in progress -/
  stageAt   : Nat := 0
  /-- 16 bit | 04 R123 DURATION_MS | 0 | duration of the last start -/
  durMs     : Nat := 0
  /-- instant | 04 R114 | none | the 1.0 s reset hold after a stage failure began -/
  holdAt    : Option Nat := none
  /-- 1 bit | 04 R114 | 0 | the counter stood at 3 when the stage failed -/
  holdLast  : Bool := false
  /-- 1 bit | 03 Table 3.3 | 0 | the die is held in reset by a clock failure -/
  clkHeld   : Bool := false
  /-- 1 bit | 03 R63 | 0 | S7 has completed since the last reset -/
  s7Done    : Bool := false
  /-- 16 bit | 04 R124 SYS_DOLDRUMS_REASON | 0 | 0 outside DOLDRUMS -/
  doldrums  : Nat := 0
  /-- instant | 04 R119 | none | when the last diagnostic frame was sent -/
  diagAt    : Option Nat := none
  /-- 10 bit | 04 R126 BIST_S3.DETECTED | 0 | -/
  s3Bits    : Nat := 0
  /-- 16 bit | 04 R126 BIST_S4.CORE_FAIL | 0 | -/
  coreFail  : Nat := 0
  /-- 10 bit | 04 R126 BIST_S4.CHECK_OK | 0 | -/
  checkOk   : Nat := 0
  /-- 16 bit | 04 R95, 05 Table 5.5 TARGET | DESIGN CHOICE 0 (5) | version of the SP firmware that S1 verified -/
  fw        : Nat := 0
  /-- 1 bit | 01 R19, 04 R108 | 0 | this start stepped the counter, which then stood below 3 -/
  counted   : Bool := false
  /-- option | 04 R105 | none | sampled at S8 entry: the state that S8 leads to; none for seals OTHER -/
  dest      : Option St := none
  /-- 8 bit | 04 R115 | 0 | first trip source since S8 while the counter is not cleared: it breaks the 60 s hold -/
  breakBy   : Nat := 0
  /-- list | 04 R114 | empty | start records that the SP has still to write to the event log -/
  owed      : List Nat := []
  deriving DecidableEq, Repr, Inhabited

/-- Two copies of a value in non-volatile memory, each valid or not (04 R107, 05 R127). -/
structure Copies (α : Type) where
  a      : α
  b      : α
  aOk    : Bool := true
  bOk    : Bool := true
  deriving DecidableEq, Repr, Inhabited

/-- The configuration secrets as read (05 R127, R131, R133). -/
structure Secrets where
  key     : Option Bytes := none
  /-- salt and SHA-256 of salt and password -/
  pass    : Option (Bytes × Bytes) := none
  run     : Option Nat := none
  wrong   : Nat := 0
  /-- ns of lockout left -/
  lock    : Nat := 0
  deriving DecidableEq, Repr, Inhabited

/-- The configuration secrets as stored, each in two copies of its own (05 R127). -/
structure SecretStore where
  /-- 2 x 32 bytes | 05 R127 | none enrolled | integrator public key -/
  key     : Copies (Option Bytes) := { a := none, b := none }
  /-- 2 copies | 05 R127 | none | salt and password hash -/
  pass    : Copies (Option (Bytes × Bytes)) := { a := none, b := none }
  /-- 2 x 4 bit | 05 R127 | none | RUN seal pattern -/
  run     : Copies (Option Nat) := { a := none, b := none }
  /-- 2 x 3 bit | 05 R127 | 0 | wrong-password count -/
  wrong   : Copies Nat := { a := 0, b := 0 }
  /-- 2 x ns | 05 R127 | 0 | lockout remainder -/
  lock    : Copies Nat := { a := 0, b := 0 }
  deriving DecidableEq, Repr, Inhabited

/-- SLD non-volatile memory (02 Table 2.2, 04 R107, R125, 05 R127, 13 R389, 19 R530). -/
structure Nvm where
  /-- 2 x 8 bit | 04 R107 | 0, both valid | start attempt counter -/
  counter  : Copies Nat := { a := 0, b := 0 }
  /-- 3 x 16 bit | 04 R114, R125 SYS_START_HIST | DESIGN CHOICE 0 (5) | newest first -/
  hist     : List Nat := [0, 0, 0]
  /-- record | 05 R127, R134 | nothing enrolled | configuration secrets, each in two copies -/
  secrets  : SecretStore := {}
  /-- 16 x 32 bit | 06 R166 | 0 | SEQUENCE checkpoints of the streams -/
  cpStream : List Nat := List.replicate 16 0
  /-- 512 x 32 bit | 12 R329 | 0 | RESULT_SEQ checkpoints of the channels -/
  cpResult : List Nat := List.replicate 512 0
  /-- 32 bit | 12 R344 | 0 | token checkpoint -/
  cpToken  : Nat := 0
  /-- 32 bit | 19 R530 | 0 | checkpoint writes since manufacture -/
  cpWrites : Nat := 0
  /-- record | 13 R389 | DESIGN CHOICE factory block (6) | SLB parameters, two copies -/
  params   : Copies Safety := { a := {}, b := {} }
  /-- 16 bit | 04 R95 | DESIGN CHOICE 0 (5) | firmware rollback floor -/
  floor    : Nat := 0
  /-- 16 bit | 04 R124 | 0 | Doldrums reason kept across power cycles (04 R122) -/
  reason   : Nat := 0
  deriving DecidableEq, Repr, Inhabited

/-- The seal switches and the tamper cover (02 R49, R50, 05 R131). -/
structure Seal where
  /-- 4 bit | 02 R49 | 0 (DESIGN CHOICE, all OFF) (6) | contacts the SLB reads -/
  slb    : List Bool := List.replicate 4 false
  /-- 4 bit | 02 R49 | 0 (DESIGN CHOICE, all OFF) (6) | contacts the SP reads -/
  sp     : List Bool := List.replicate 4 false
  /-- 4 bit | 05 R131, R158 SEALS | 0 (DESIGN CHOICE, all OFF) (6) | last reading on which both contacts agreed -/
  agreed : List Bool := List.replicate 4 false
  /-- instants | 02 R49 | none | since when the contacts of a switch have disagreed -/
  since  : List (Option Nat) := List.replicate 4 none
  /-- 4 bit | 02 R49 | 0 | switches whose contacts have disagreed for more than 50 ms -/
  bad    : List Bool := List.replicate 4 false
  /-- 1 bit | 02 R50, 05 R158 COVER_OPEN | 0 (DESIGN CHOICE, fitted) (6) | the S1 sense loop is open -/
  open_  : Bool := false
  deriving DecidableEq, Repr, Inhabited

/-- A slot's mark (05 R138, R158). -/
inductive Mark where
  | empty | verified | invalid
  deriving DecidableEq, Repr, Inhabited

/-- One image slot (05 R127): sparse bytes (an unlisted byte reads 0). -/
structure Slot where
  image   : List Host.Cell := []
  weights : List Host.Cell := []
  mark    : Mark := .empty
  deriving DecidableEq, Repr, Inhabited

/-- A change log entry (05 Table 5.7); `good` says whether its stored CRC is correct. -/
structure ChangeEntry where
  time   : Nat
  kind   : Nat
  seals  : Nat
  oper   : Nat
  result : Nat
  hashes : List Bytes
  recovered : Bool
  good   : Bool := true
  deriving DecidableEq, Repr, Inhabited

/-- A response kept for repeats (05 R151). -/
structure Resp where
  source  : Nat
  command : Nat
  request : Nat
  time    : Nat
  frames  : List Bytes
  deriving DecidableEq, Repr, Inhabited

/-- The image store, the working image and the configuration service (05). -/
structure Cfg where
  /-- 2 slots | 05 R127 | EMPTY (as delivered, R134) | image slots -/
  slots     : List Slot := [{}, {}]
  /-- 2 x 1 bit | 05 R127, R158 ACTIVE_SLOT | DESIGN CHOICE slot 0 (6) | slot role word, two copies -/
  role      : Copies Nat := { a := 0, b := 0 }
  /-- list | 05 R149 | empty | change log, at most 256 entries -/
  changes   : List ChangeEntry := []
  /-- 1 bit | 05 R150, R158 LOG_EXPORTED | 0 | a full export completed with no later entry -/
  exported  : Bool := false
  /-- 1 bit | 05 R158 ADMITTED | 0 | -/
  admitted  : Bool := false
  /-- 1 bit | 05 R157, R158 HASH_FAIL | 0 | -/
  hashFail  : Bool := false
  /-- 25 bit | 05 R159 RESULT, SUBJECT | DESIGN CHOICE 0 (5) | last admission -/
  result    : Nat := 0
  /-- 9 bit | 05 R159 SUBJECT | DESIGN CHOICE 0 (5) | -/
  subject   : Nat := 0
  /-- 1 bit | 05 R159 AT_START | DESIGN CHOICE 0 (5) | -/
  atStart   : Bool := false
  /-- 4 x 64 bit | 05 R161 CFG_ACTIVE_ID, _DIGEST, CFG_STANDBY_ID, _DIGEST | DESIGN CHOICE 0 (5) | -/
  ids       : List Nat := [0, 0, 0, 0]
  /-- 32 bit | 05 R161 CFG_VERSIONS | DESIGN CHOICE 0 (5) | -/
  versions  : Nat := 0
  /-- record | 05 R103, R157 | none | working copy of the admitted image -/
  img       : Image := {}
  /-- bytes | 05 R157 | empty | working copy of the image's bytes -/
  work      : List Host.Cell := []
  /-- option | 05 R138 | none | open upload session and the instant of its last frame -/
  session   : Option (Nat × Nat) := none
  /-- 29 bit | 05 R138 (image first, weight set after it) | 0 | bytes of image and weight set written in the session without a gap -/
  upTo      : Nat := 0
  /-- 32 bit | 05 R138 | 0 | sessions opened, the number of the last one -/
  sessions  : Nat := 0
  /-- list | 05 R151 | empty | responses of the last 5 s -/
  resps     : List Resp := []
  deriving DecidableEq, Repr, Inhabited

/-- Stream states (06 Table 6.4). -/
inductive StreamSt where
  | off | recovering | live | frozen | lost
  deriving DecidableEq, Repr, Inhabited

/-- The check status of a seal in the history (06 R167, R170, R182). -/
inductive SealSt where
  | pending | good | failed | calm | poisoned
  deriving DecidableEq, Repr, Inhabited

/-- A seal and its status (06 Table 6.2, R167). -/
structure SealRec where
  seq     : Nat
  flags   : Nat
  capture : Nat
  crc     : Nat
  status  : SealSt := .pending
  deriving DecidableEq, Repr, Inhabited

/-- A frame in intake (06 R164): its time-stamp and, if triggered, the device time of its trigger edge. -/
structure Intake where
  stamp   : Nat
  trigger : Option Nat
  /-- The CVU channel of the stream's CRC failed while the frame was in intake (R182, 14 R418). -/
  lost    : Bool := false
  deriving DecidableEq, Repr, Inhabited

/-- A sealed frame that waits for its final status (06 R170). -/
structure PendFinal where
  seq       : Nat
  endDev    : Nat
  capture   : Nat
  prevCap   : Option Nat
  /-- FROZEN cause found by checks 1 and 2, 0 when none -/
  cause     : Nat
  /-- changed count of check 3, once the BEU command has completed -/
  changed   : Option Nat
  poisoned  : Bool
  deriving DecidableEq, Repr, Inhabited

/-- A ring slot in use (06 R168, R175): the frame it holds and who holds it. -/
structure RingSlot where
  seq      : Nat := 0
  fgu      : Bool := false
  beu      : Nat := 0
  delivery : Bool := false
  poisoned : Bool := false
  deriving DecidableEq, Repr, Inhabited

/-- One camera stream (06 R164 to R185). -/
structure Stream where
  /-- 3 bit | 06 R185 STATE | 0 OFF | -/
  state     : StreamSt := .off
  /-- 3 bit | 06 R185 GOOD | 0 | -/
  good      : Nat := 0
  /-- 7 bit | 06 R185 CALM | 0 | -/
  calm      : Nat := 0
  /-- 3 bit | 06 R185 CAUSE | 0 | -/
  cause     : Nat := 0
  /-- 32 bit | 06 R185 SEQUENCE | DESIGN CHOICE 0 (5) | -/
  seq       : Nat := 0
  /-- 64 bit | 06 R185 CAPTURE_TIME | 0 | -/
  capture   : Nat := 0
  /-- 32 bit | 06 R185 COUNT | 0 | -/
  changed   : Nat := 0
  /-- 32 bit | 06 R185 DROP | 0 | -/
  drop      : Nat := 0
  /-- 32 bit | 06 R185 SKIP | 0 | -/
  skip      : Nat := 0
  /-- 32 bit | 06 R185 FROZEN | 0 | -/
  frozenCnt : Nat := 0
  /-- 4 bit | 06 R185 FIU_Sn_EVENTS | 0 | -/
  events    : Nat := 0
  /-- 1 bit | 06 R164 | 0 | DROP_BEFORE of the next seal -/
  dropBefore : Bool := false
  /-- option | 06 R164 | none | frame in intake -/
  intake    : Option Intake := none
  /-- list | 06 Table 6.3 check 2 | empty | PAYLOAD_CRC of the last four seals -/
  crcs      : List Nat := []
  /-- option | 06 Table 6.3 check 1 | none | the camera's last counter value -/
  header    : Option Nat := none
  /-- 64 bit | 06 R178, Table 6.4 | 0 | device time of the last seal -/
  sealAt    : Nat := 0
  /-- list | 06 R167 | empty | seal history, newest first, at most 2048 -/
  hist      : List SealRec := []
  /-- list | 06 R170 | empty | frames without a final status, oldest first -/
  pend      : List PendFinal := []
  /-- list | 06 R168 | empty | ring slots -/
  ring      : List RingSlot := []
  /-- list | 06 R169 | empty | frames to be delivered -/
  deliver   : List Nat := []
  /-- 32 bit | 18 R504 | 0 | sealed frames since the last one written to the forensic ring -/
  decim     : Nat := 0
  /-- 1 bit | 06 R182 | 0 | the stream's CVU channel has faulted with no spare -/
  cvuLost   : Bool := false
  /-- 1 bit | 06 R182 | 0 | the stream was LOST and has not been LIVE since -/
  lostMark  : Bool := false
  deriving DecidableEq, Repr, Inhabited

/-- The Frame Intake Unit (06). -/
structure Fiu where
  /-- 16 | 06 R162 | as Stream | the streams -/
  streams : List Stream := List.replicate 16 {}
  deriving DecidableEq, Repr, Inhabited

/-- One tick of the pose history (07 R187, R189): the two poses, and the change of each since the tick before. -/
structure PoseTick where
  tick   : Nat
  valid  : Bool
  flange : Pose
  base   : Pose
  dFlange : Pose := ⟨0, 0, 0, 0, 0, 0⟩
  dBase   : Pose := ⟨0, 0, 0, 0, 0, 0⟩
  deriving DecidableEq, Repr, Inhabited

/-- A joint sample (07 R187): sample time and positions in FX32. -/
structure JointSample where
  time : Nat
  pos  : List Int
  deriving DecidableEq, Repr, Inhabited

/-- The state of an epoch record (07 R196). -/
inductive EpochSt where
  | pending | done | void | skipped
  deriving DecidableEq, Repr, Inhabited

/-- An epoch record (07 R196); `tag` names its guard job, `out` is that job's output, FP16 codes of OCCUPANCY and then of GRASP_SCORE
in cell order (07 R201; log entry 11), `suppressed` that this job ended SUPPRESSED (10 R281), and `frozen` says that a member entered FROZEN after its frame was taken (07 R204). -/
structure Epoch where
  num     : Nat
  members : List (Nat × Nat)
  leftReq : Nat
  leftRed : Nat
  state   : EpochSt
  tag     : Nat := 0
  out     : List Nat := []
  suppressed : Bool := false
  frozen  : Bool := false
  deriving DecidableEq, Repr, Inhabited

/-- The Fusion Grid Unit (07). -/
structure Fgu where
  /-- 1 bit | 07 R213 EGO_VALID | 0 | -/
  egoValid   : Bool := false
  /-- 3 bit | 07 R213 EGO_CAUSE | 0 | -/
  egoCause   : Nat := 0
  /-- 1 bit | 07 R191 | 0 | a discontinuity lasts -/
  broken     : Bool := false
  /-- count | 07 R191 | 0 | consecutive good ticks within a discontinuity -/
  goodTicks  : Nat := 0
  /-- count | 07 Table 7.3 | 0 | consecutive ticks without a joint sample -/
  jointGap   : Nat := 0
  /-- count | 07 Table 7.3 | 0 | consecutive ticks with the gyro above its limit -/
  gyroTicks  : Nat := 0
  /-- list | 07 R188 | empty | joint samples not yet taken into a tick -/
  joints     : List JointSample := []
  /-- list | 07 Table 7.3 | empty | positions of the last joint sample -/
  lastJoint  : List Int := []
  /-- mask | 07 Table 7.3 | 0 | the causes that the last tick showed -/
  causes     : Nat := 0
  /-- 2 x 32 bit | 07 R187, R188 | 0 | the odometry counts, left and right, that the last tick took in -/
  lastQe     : List Nat := [0, 0]
  /-- 32 bit | 07 R188 | 0 | number of the last final tick -/
  lastTick   : Nat := 0
  /-- list | 07 R187 | empty | pose history, newest first, at most 4096 ticks -/
  poses      : List PoseTick := []
  /-- 16 | 07 R193, R213 BUFFERED | none | buffered frame (SEQUENCE) per stream -/
  buffer     : List (Option Nat) := List.replicate 16 none
  /-- 16 bit | 07 R194 | 0 | streams that have arrived since the last closing -/
  arrived    : List Bool := List.replicate 16 false
  /-- 64 bit | 07 R194 | none | device time of the first buffer entry since the last closing -/
  firstEntry : Option Nat := none
  /-- 32 bit | 07 R194 | 1 | number of the next epoch -/
  nextEpoch  : Nat := 1
  /-- 64 bit | 07 R194, R213 EPOCH_OPEN | none | device time at which the open epoch opened -/
  openAt     : Option Nat := none
  /-- 64 bit | 07 R194 | none | opening of the previous epoch -/
  prevOpen   : Option Nat := none
  /-- list | 07 R196 | empty | epoch records, newest first -/
  epochs     : List Epoch := []
  /-- 32 bit | 07 R203 | none | the closed epoch that waits for a guard job -/
  waiting    : Option Nat := none
  /-- pair | 07 R200 | none | the running guard job: epoch and job number -/
  job        : Option (Nat × Nat) := none
  /-- 3 bit | 07 R205 | none | a reset cause arrived while the guard job ran -/
  resetDue   : Option Nat := none
  /-- flag | 07 Table 7.5 | clear | the copy of the pending buffer fails its ECC in the command at hand -/
  copyEcc    : Bool := false
  /-- flag | 07 R200 | clear | a reset cause has come: the recurrent state is zeroed before the next guard job starts -/
  zeroDue    : Bool := false
  /-- flag | 07 R200 | clear | a matched guard job's pending buffer is being copied into the shared audit store -/
  commitDue  : Bool := false
  /-- 3 bit | 07 R213 RESET_CAUSE | 0 | -/
  resetCause : Nat := 0
  /-- 32 bit | 07 R214 FGU_EPOCH | 0 | -/
  lastClosed : Nat := 0
  /-- 32 bit | 07 R214 FGU_LAST_LEFT | 0 | -/
  lastLeft   : Nat := 0
  /-- 32 bit | 07 R214 FGU_PARTIAL | 0 | -/
  partials   : Nat := 0
  /-- 32 bit | 07 R214 FGU_SKIPPED | 0 | -/
  skipped    : Nat := 0
  /-- 32 bit | 07 R214 FGU_STATE_RESETS | 0 | -/
  resets     : Nat := 0
  /-- 32 bit | 07 R214 FGU_DISCONT | 0 | -/
  disconts   : Nat := 0
  /-- 32 bit | 07 R214 FGU_JOINT_LATE | 0 | -/
  jointLate  : Nat := 0
  /-- 4 bit | 07 R215 FGU_EVENTS | 0 | -/
  events     : Nat := 0
  deriving DecidableEq, Repr, Inhabited

/-- A decoded audit descriptor (08 Table 8.2). -/
structure Desc where
  op     : Nat := 0
  subop  : Nat := 0
  fmtA   : Nat := 0
  fmtB   : Nat := 0
  fmtOut : Nat := 0
  xform  : Nat := 0
  flags  : Nat := 0
  job    : Nat := 0
  index  : Nat := 0
  ident  : Nat := 0
  srcA   : Nat := 0
  srcB   : Nat := 0
  dst    : Nat := 0
  cls    : Nat := 0xFF
  m : Nat := 1
  n : Nat := 1
  k : Nat := 1
  c : Nat := 1
  strideA : Nat := 0
  strideB : Nat := 0
  strideD : Nat := 0
  param   : Nat := 0
  /-- whether DCRC is right: a descriptor that the companion builds has it so -/
  crcOk   : Bool := true
  /-- modelled cycles of a guard layer, whose dimensions the manual does not tie to Table 8.4 (log entry 11); 0 otherwise -/
  cyc     : Nat := 0
  deriving DecidableEq, Repr, Inhabited

/-- A descriptor status entry (08 Table 8.5). -/
structure StatEntry where
  job    : Nat := 0
  index  : Nat := 0
  status : Nat := 0
  fp     : Nat := 0
  core   : Nat := 0
  pass   : Nat := 0
  elem   : Nat := 0
  result : Nat := 0
  deriving DecidableEq, Repr, Inhabited

/-- One pass of a descriptor: not started, running on a core, ended with a payload, FPFLAGS and status, or
ended without running (CANCELLED or SUPPRESSED). -/
inductive PassSt where
  | waiting
  | running (core : Nat)
  | ended (core payload fp status : Nat)
  | notRun (status : Nat)
  deriving DecidableEq, Repr, Inhabited

/-- A descriptor of a job with its two passes and its arbitration rerun (10 R264, R276). -/
structure JobDesc where
  desc    : Desc
  w       : PassSt := .waiting
  l       : PassSt := .waiting
  r       : PassSt := .notRun 0
  rXform  : Nat := 0
  slot    : Option Nat := none
  matched : Bool := false
  /-- the table of a SCATTER as the first pass to end found it (log entry 76) -/
  before  : Bytes := []
  deriving DecidableEq, Repr, Inhabited

/-- Who issued a job (10 R271; 12; 15 R438). -/
inductive JobKind where
  | audit | geometry | guard | safeState | lent
  deriving DecidableEq, Repr, Inhabited

/-- The result with which an Eddy-covered job ends (10 R271). -/
inductive JobRes where
  | matched | mismatch | checker | suppressed | failed
  deriving DecidableEq, Repr, Inhabited

/-- A job of the dispatcher (08 R225, 10 R265 to R271). `owner` is the channel, class or lender; `seq` the RESULT_SEQ
or epoch number. -/
structure Job where
  num     : Nat
  kind    : JobKind
  owner   : Nat
  seq     : Nat
  cls     : Nat := 0xFF
  xform   : Nat := 0
  permQ   : Nat := 1
  permR   : Nat := 0
  slot    : Option Nat := none
  registered : Bool := false
  regAt   : Nat := 0
  broken  : Bool := false
  /-- a core halted inside one of its descriptors (10 R281, 18 Table 18.5) -/
  halted  : Bool := false
  descs   : List JobDesc := []
  res     : Option JobRes := none
  cause   : Nat := 0
  untrusted : Bool := false
  arb     : Nat := 0
  arbitrating : Option Nat := none
  started : Bool := false
  /-- the poses of a guard job that go into its exchange slot (07 R190) -/
  poses   : List Nat := []
  /-- a lent job's class record and exchange slot content, as its borrower has sent them (15 R438) -/
  lent    : Option (ClassRec × Bytes) := none
  deriving DecidableEq, Repr, Inhabited

/-- Core states (08 R245); HALTED is held in the debug block. -/
inductive CoreSt where
  | admitted | fenced | bist | probation | testing
  deriving DecidableEq, Repr, Inhabited

/-- What a core executes: job number, index and pass (08 R227, R240). -/
structure Run where
  job   : Nat
  index : Nat
  pass  : Nat
  start : Nat
  /-- ns spent halted since the start (18 R509) -/
  halt  : Nat := 0
  /-- the instant the core halted inside the descriptor (18 R509) -/
  haltAt : Option Nat := none
  /-- the INDEPENDENT inputs as the pass read them at its start (10 R269) -/
  reads  : List Nat := []
  deriving DecidableEq, Repr, Inhabited

/-- One audit core (08 R237 to R246). -/
structure ACore where
  /-- 3 bit | 08 R245 STATE | DESIGN CHOICE FENCED until S4 (5) | -/
  state    : CoreSt := .fenced
  /-- 4 bit | 08 R245 CAUSE | 0 | -/
  cause    : Nat := 0
  /-- 2 bit | 08 R245 ATTEMPTS | 0 | -/
  attempts : Nat := 0
  /-- 9 bit | 08 R245 PROB_COUNT | 0 | -/
  prob     : Nat := 0
  /-- 32 bit | 08 R246 AUD_Cn_DONE | 0 | -/
  done     : Nat := 0
  /-- 32 bit | 08 R246 AUD_Cn_ECC | 0 | -/
  ecc      : Nat := 0
  /-- instant | 08 R246 AUD_Cn_TEST_S | 0 | last completed rolling self-test -/
  testAt   : Option Nat := none
  /-- 4 bit | 08 Table 8.7 | 0 | fence cause if the BIST in progress fails -/
  bistFor  : Nat := 0
  /-- 1 bit | 08 R237, 10 R278 | 0 | BIST follows the descriptor in progress -/
  bistDue  : Bool := false
  /-- 1 bit | 10 R278 | 0 | the BIST is that of a suspect core (passing increments VANE_ARB_CLEARED) -/
  suspect  : Bool := false
  /-- count | 08 R239 | 0 | rolling self-test segments done -/
  seg      : Nat := 0
  /-- 1 bit | 08 R240 | 0 | BIST of a readmission attempt -/
  readmit  : Bool := false
  /-- option | 08 R225 | none | descriptor in progress -/
  run      : Option Run := none
  /-- record | 18 R509 | 0 | last status entry written by the core -/
  last     : StatEntry := {}
  /-- 1 bit | 17 R472 | 0 | clock-gated in Breeze -/
  gated    : Bool := false
  /-- instant | 17 R472 | 0 | since when the core has taken no descriptor -/
  idleAt   : Nat := 0
  deriving DecidableEq, Repr, Inhabited

/-- A probation copy (08 R240): its descriptor, the payloads of the copy and of the live windward pass as they become known, and
the delay slot that keeps the windward payload after a match (10 R272). -/
structure PCopy where
  core  : Nat
  job   : Nat
  index : Nat
  desc  : Desc := {}
  mine  : Option (Nat × Nat) := none
  live  : Option (Nat × Nat) := none
  slot  : Option Nat := none
  deriving DecidableEq, Repr, Inhabited

/-- The audit cluster (08). -/
structure Aud where
  /-- 16 | 08 R245, R246 | as ACore | the cores -/
  cores    : List ACore := List.replicate 16 {}
  /-- list | 08 R225, 10 R271 | empty | jobs in issue order -/
  jobs     : List Job := []
  /-- 32 bit | 08 Table 8.2 JOB | 1 | next job number -/
  nextJob  : Nat := 1
  /-- list | 08 R240 | empty | probation copies outstanding -/
  copies   : List PCopy := []
  /-- list | 08 R227 | empty | status entries posted for the jobs in the table, oldest first; each stands in the completion ring of its
  job's issuer -/
  posted   : List StatEntry := []
  /-- 10 x state | 10 R283 | none | per SAFE_STATE class, instant of the original job's registration -/
  orig     : List (Option Nat) := List.replicate 32 none
  /-- per class | 10 R265 | 0 | transforms used so far, one job after another -/
  rot      : List Nat := List.replicate 32 0
  /-- 4 bit | 08 R247 AUD_FAULT_INFO.CORE | 0 | -/
  fCore    : Nat := 0
  /-- 4 bit | 08 R247 KIND | 0 | -/
  fKind    : Nat := 0
  /-- 1 bit | 08 R247 UNTRUSTED | 0 | -/
  fUntr    : Bool := false
  /-- 2 bit | 08 R247 PASS | 0 | -/
  fPass    : Nat := 0
  /-- 16 bit | 08 R247 ELEM | 0 | -/
  fElem    : Nat := 0
  /-- 32 bit | 08 R247 AUD_FAULT_JOB | 0 | -/
  fJob     : Nat := 0
  /-- 40 bit | 08 R247 AUD_FAULT_ADDR | 0 | -/
  fAddr    : Nat := 0
  /-- 32 bit | 08 R247 AUD_FAULT_CNT | 0 | -/
  fCnt     : Nat := 0
  /-- 1 bit | 08 R247 AUD_FAULT_EVT.SEEN | 0 | -/
  fSeen    : Bool := false
  /-- 64 bytes | 08 R247 AUD_FAULT_DESC | 0 | -/
  fDesc    : Bytes := zeros 64
  deriving DecidableEq, Repr, Inhabited

/-- One Vane lane (10 R273, R282). -/
structure Lane where
  /-- 1 bit | 10 R287 LANES_OK | DESIGN CHOICE 0 (5) | in service or in its self-test, not fenced -/
  ok      : Bool := false
  /-- 1 bit | 10 R282 | 0 | taken out for the in-service self-test -/
  testing : Bool := false
  /-- 8 bit | 10 R282 | none | the delay slot to be tested with it -/
  slot    : Option Nat := none
  /-- 8 bit | 10 R288 VANE_LANE_TRANSIENT | 0 | -/
  trans   : Nat := 0
  /-- list | 10 Table 10.5 | empty | instants of its transients -/
  times   : List Nat := []
  deriving DecidableEq, Repr, Inhabited

/-- One delay slot (10 Table 10.3). -/
structure DSlot where
  /-- 1 bit | 10 R272 | 0 | reserved or in use -/
  used     : Bool := false
  /-- 1 bit | 10 Table 10.5 | 0 | retired -/
  retired  : Bool := false
  /-- 1 bit | 10 R272 | 0 | the first pass has stored its payload -/
  stored   : Bool := false
  /-- 64 bit | 10 Table 10.3 | 0 | -/
  payloadA : Nat := 0
  /-- 64 bit | 10 Table 10.3 | 0 | -/
  payloadB : Nat := 0
  /-- 32 bit | 10 Table 10.3 | 0 | -/
  job      : Nat := 0
  /-- 12 bit | 10 Table 10.3 | 0 | -/
  index    : Nat := 0
  /-- 8 bit | 10 Table 10.3 | 0 | -/
  cls      : Nat := 0
  /-- 4 bit | 10 Table 10.3 | 0 | -/
  coreA    : Nat := 0
  /-- 4 bit | 10 Table 10.3 | 0 | -/
  coreB    : Nat := 0
  /-- 4 bit | 10 Table 10.3 | 0 | -/
  fpA      : Nat := 0
  /-- 4 bit | 10 Table 10.3 | 0 | -/
  fpB      : Nat := 0
  /-- 1 bit | 10 Table 10.3 PASS_A | 0 | -/
  passA    : Nat := 0
  /-- 1 bit | 10 Table 10.3 FULL | 0 | -/
  full     : Bool := false
  /-- 1 bit | 10 Table 10.3 HELD | 0 | -/
  held     : Bool := false
  deriving DecidableEq, Repr, Inhabited

/-- The Vane (10). -/
structure Vane where
  /-- 4 | 10 R273 | as Lane | -/
  lanes     : List Lane := List.replicate 4 {}
  /-- 256 | 10 R274 | as DSlot | -/
  slots     : List DSlot := List.replicate 256 {}
  /-- 32 | 10 R270 | free | exchange slots, each the job that holds it -/
  exch      : List (Option Nat) := List.replicate 32 none
  /-- 32 x 4 KiB | 10 R269, R270, 07 R190 | empty | the bytes of the exchange slots from 0x01_00BE_0000 on, those of a job
  closed by their CRC-32C; bytes behind the last read 0 -/
  slotData  : List Bytes := List.replicate 32 []
  /-- option | 10 R282, R287 SELFTEST | none | lane and slot under in-service self-test -/
  selftest  : Option (Nat × Option Nat) := none
  /-- 1 bit | 10 R281, R287 DEBUG_BREAK | 0 | pairing is broken -/
  broken    : Bool := false
  /-- 32 bit | 10 R288 VANE_COMPARED | 0 | -/
  compared  : Nat := 0
  /-- 32 bit | 10 R288 VANE_MISMATCH | 0 | -/
  mismatch  : Nat := 0
  /-- 32 bit | 10 R288 VANE_ARBITRATED | 0 | -/
  arbitrated : Nat := 0
  /-- 32 bit | 10 R288 VANE_ARB_CLEARED | 0 | -/
  cleared   : Nat := 0
  /-- 32 bit | 10 R288 VANE_CHECKER | 0 | -/
  checker   : Nat := 0
  /-- 32 bit | 10 R288 VANE_ECC_CORR | 0 | -/
  eccCorr   : Nat := 0
  /-- 32 bit | 10 R288 VANE_SUPPRESSED | 0 | -/
  suppressed : Nat := 0
  /-- 32 bit | 10 R289 VANE_LAST_ARB | 0 | -/
  lastArb   : Nat := 0
  /-- 32 bit | 10 R289 VANE_LAST_ARB_JOB | 0 | -/
  lastArbJob : Nat := 0
  /-- 5 bit | 10 R290 VANE_EVENTS | 0 | -/
  events    : Nat := 0
  deriving DecidableEq, Repr, Inhabited

/-- A BEU command as its 64 bytes' fields (11 Table 11.2); `crcOk` says whether CCRC was right. -/
structure BCmd where
  kind   : Nat := 0
  op     : Nat := 0
  fmtIn  : Nat := 0
  fmtOut : Nat := 0
  acts   : List Nat := [0, 0, 0]
  flags  : Nat := 0
  tag    : Nat := 0
  ident  : Nat := 0
  channel : Nat := 0
  srcA   : Nat := 0
  srcB   : Nat := 0
  dst    : Nat := 0
  count  : Nat := 0
  table  : Nat := 0
  params : List Nat := [0, 0, 0, 0]
  crcOk  : Bool := true
  reservedOk : Bool := true
  /-- the FIU's frame (stream, SEQUENCE) that this differencing command serves -/
  frame  : Option (Nat × Nat) := none
  deriving DecidableEq, Repr, Inhabited

/-- A command that runs on a channel. -/
structure BRun where
  cmd   : BCmd
  bg    : Bool
  order : Nat
  start : Nat
  hot   : Bool
  /-- granules of a source, with their old bytes, that a command this one overlaps has written meanwhile (11 R302, LOOSE) -/
  old   : List (Nat × Bytes) := []
  deriving DecidableEq, Repr, Inhabited

/-- One command ring (11 R299, R321). -/
structure BRing where
  /-- 40 bit | 11 R321 BASE | DESIGN CHOICE 0 (5) | -/
  base  : Nat := 0
  /-- 8 bit | 11 R321 HEAD | DESIGN CHOICE 0 (5) | -/
  head  : Nat := 0
  /-- list | 11 R299 | empty | commands waiting, head first; TAIL is HEAD plus their number -/
  queue : List BCmd := []
  /-- option | 11 R301 | none | a FENCE at the head holds the ring -/
  fence : Option BCmd := none
  deriving DecidableEq, Repr, Inhabited

/-- One memory stack (11). -/
structure Stack where
  /-- 16 bit | 11 R318 PROC | 0 | -/
  proc      : List Bool := List.replicate 16 false
  /-- 16 bit | 11 R318 RECOMPUTE | 0 | -/
  recompute : List Bool := List.replicate 16 false
  /-- 16 bit | 11 R319 STRICT | 0 | -/
  strict    : List Bool := List.replicate 16 false
  /-- 1 bit | 11 R319 HOT | 0 | -/
  hot       : Bool := false
  /-- 1 bit | 11 R319 FAULT | 0 | -/
  fault     : Bool := false
  /-- 1 bit | 11 R319 SWEPT | 0 | -/
  swept     : Bool := false
  /-- 8 bit | 11 R319 TEMP | 0 | -/
  temp      : Nat := 0
  /-- instant | 11 R294 | none | since when the stack has been at or below 90 °C -/
  coolAt    : Option Nat := none
  /-- 7 bit | 11 R320 CHANNEL, TARGET, CHECK, VIS | 0 | as last written -/
  swReg     : Nat := 0
  /-- 4 bit | 11 R304 | 0 | channel of the switch that was last started -/
  swChannel : Nat := 0
  /-- 1 bit | 11 R304 | 0 | its target: PROC -/
  swProc    : Bool := false
  /-- 1 bit | 11 R304 | 0 | it goes to RECOMPUTE -/
  swCheck   : Bool := false
  /-- 1 bit | 11 R304 | 0 | it goes to STRICT -/
  swVis     : Bool := false
  /-- 2 bit | 11 R320 PHASE | 0 | -/
  swPhase   : Nat := 0
  /-- 1 bit | 11 R320 DONE | 0 | -/
  swDone    : Bool := false
  /-- 1 bit | 11 R320 REFUSED | 0 | -/
  swRefused : Bool := false
  /-- ring | 11 R299 | empty | -/
  vp        : BRing := {}
  /-- ring | 11 R299 | empty | -/
  bg        : BRing := {}
  /-- 40 bit | 11 R321 CQ_BASE | DESIGN CHOICE 0 (5) | -/
  cqBase    : Nat := 0
  /-- 9 bit | 11 R321 CQ HEAD | DESIGN CHOICE 0 (5) | -/
  cqHead    : Nat := 0
  /-- list | 11 R299, R303 | empty | completion entries posted and not consumed; TAIL is HEAD plus their number -/
  cq        : List Bytes := []
  /-- list | 11 R300 | empty | commands running, in start order -/
  running   : List BRun := []
  /-- count | 11 R302 | 0 | start order of the next command -/
  order     : Nat := 0
  /-- 32 bit | 11 R322 BEU_Sn_CMDS | 0 | -/
  cmds      : Nat := 0
  /-- 32 bit | 11 R322 BEU_Sn_POISON_CMDS | 0 | -/
  poisonCmds : Nat := 0
  /-- 32 bit | 11 R322 BEU_Sn_ECC_CORR | 0 | -/
  eccCorr   : Nat := 0
  /-- 32 bit | 11 R322 BEU_Sn_ECC_UNCORR | 0 | -/
  eccUncorr : Nat := 0
  /-- 32 bit | 11 R322 BEU_Sn_BUSERR | 0 | -/
  busErr    : Nat := 0
  /-- 32 bit | 11 R322 BEU_Sn_SCRUB_PASS_S | 0 | -/
  passS     : Nat := 0
  /-- 64 bit | 11 R323 BEU_Sn_SCRUB_PTR | 0 | -/
  scrubPtr  : Nat := 0
  /-- instant | 17 Table 17.4 | 0 | the sweep, or the end of the last scrub pass -/
  scrubAt   : Nat := 0
  /-- instant | 11 R322 | none | when the scrub pass in progress took its first block -/
  passFrom  : Option Nat := none
  /-- 64 bit | 11 R323 BEU_Sn_BUSERR_ADDR | 0 | -/
  busErrAddr : Nat := 0
  /-- 6 bit | 11 R324 BEU_Sn_EVENTS | 0 | -/
  events    : Nat := 0
  /-- list | 11 R314 | empty | instants at which granules were marked poisoned, within the last second -/
  uncorrAt  : List Nat := []
  /-- 1 bit | 17 R474 | 0 | in self-refresh -/
  selfRefresh : Bool := true
  deriving DecidableEq, Repr, Inhabited

/-- The base-die element units (11). -/
structure Beu where
  /-- 2 | 11 | as Stack | -/
  stks : List Stack := [{}, {}]
  deriving DecidableEq, Repr, Inhabited

/-- A verdict window slot (12 R347). -/
structure Win where
  seq      : Nat
  issued   : Bool := false
  answered : Bool := false
  verdict  : Nat := 0
  flags    : Nat := 0
  reason   : Nat := 0
  escape   : Nat := 0
  token    : Bool := false
  lost     : Bool := false
  deriving DecidableEq, Repr, Inhabited

/-- What a line of evidence says (12 R338). -/
inductive LineSt where
  | waiting
  | favour
  | doubt (reason : Nat)
  | reject (reason : Nat)
  | failed (reason : Nat)
  deriving DecidableEq, Repr, Inhabited

/-- How far a consumed submission has come (12 R330). -/
inductive ResSt where
  | read | locked | committed
  deriving DecidableEq, Repr, Inhabited

/-- A witness descriptor (12 Table 12.3). -/
structure Wit where
  point : Nat := 0
  kind  : Nat := 0
  fmtIn : Nat := 0
  fmtOut : Nat := 0
  m : Nat := 0
  n : Nat := 0
  k : Nat := 0
  addrs : List Nat := []
  sizes : List Nat := []
  crcs  : List Nat := []
  wcrcOk : Bool := false
  reservedOk : Bool := false
  deriving DecidableEq, Repr, Inhabited

/-- A candidate (12 Table 12.2). -/
structure Cand where
  pose     : List Int := []
  approach : Int := 0
  opening  : Int := 0
  deriving DecidableEq, Repr, Inhabited

/-- A seal as a result record names it (06 Table 6.2). -/
structure SealRef where
  seq     : Nat := 0
  stream  : Nat := 0
  flags   : Nat := 0
  capture : Nat := 0
  crc     : Nat := 0
  reservedOk : Bool := false
  deriving DecidableEq, Repr, Inhabited

/-- A result in flight: its record, its sideband (12 R325) and its lines of evidence. -/
structure Result where
  q        : Nat
  ch       : Nat
  seq      : Nat
  subIdx   : Nat
  state    : ResSt := .read
  seals    : List SealRef := []
  wits     : List Wit := []
  cands    : List Cand := []
  sel      : Nat := 0
  recCrc   : Nat := 0
  capture  : Nat := 0
  latest   : Nat := 0
  deadline : Nat := 0
  commitAt : Nat := 0
  /-- instant of acceptance, which the pick's counts of R461 use -/
  acceptAt : Nat := 0
  locks    : List (Nat × Nat) := []
  /-- REJECT evidence held: the reason word -/
  reject   : Option Nat := none
  /-- the record failed with LATE at the seal lookup (EXPIRED) -/
  expired  : Option Nat := none
  /-- failed inside the companion: the reason word -/
  void     : Option Nat := none
  k        : Nat := 0
  escape   : Nat := 65535
  reduced  : Bool := false
  /-- drawn tiles per point: (point, tile numbers) -/
  tiles    : List (Nat × List Nat) := []
  auditJob : Option Nat := none
  geomJob  : Option Nat := none
  audit    : LineSt := .waiting
  geom     : LineSt := .waiting
  suppressed : Bool := false
  epoch    : Option Nat := none
  disagree : Option Int := none
  /-- the audit runs on the Crosswind partner -/
  lent     : Bool := false
  deriving DecidableEq, Repr, Inhabited

/-- A queue's verdict registers and window (12 R346, R347, R357). -/
structure VrdQ where
  /-- list | 12 R347 | empty | window slots in use: slot number and content -/
  win     : List (Nat × Win) := []
  /-- 32 bit | 12 R347 | 0 | newest accepted sequence -/
  newest  : Nat := 0
  /-- 32 bit | 12 R357 ANS_QSEQ | 0 | -/
  ansQ    : Nat := 0
  /-- 32 bit | 12 R357 ANS_SEQ | 0 | -/
  ansSeq  : Nat := 0
  /-- 32 bit | 12 R357 ANS_VERDICT | 0 | -/
  ansVer  : Nat := 0
  /-- 17 bit | 12 R357 ANS_REASON | 0 | -/
  ansReason : Nat := 0
  /-- 32 bit | 12 R357 NEXT | DESIGN CHOICE 0 (5) | -/
  next    : Nat := 0
  /-- 5 bit | 12 R357 ESC | 0 | -/
  esc     : Nat := 0
  /-- 5 x 32 bit | 12 R357 BELIEVE to VOID | 0 | -/
  counts  : List Nat := [0, 0, 0, 0, 0]
  deriving DecidableEq, Repr, Inhabited

/-- The verdict and age unit (12). -/
structure Vrd where
  /-- 64 | 12 R357 | as VrdQ | -/
  queues  : List VrdQ := List.replicate 64 {}
  /-- list | 12 R325 | empty | results in flight -/
  results : List Result := []
  /-- list | 12 R325, 07 R202 | empty | sideband: epoch number and device time of its closing -/
  closes  : List (Nat × Nat) := []
  /-- 32 bit | 12 R355 VRD_TOKEN_LAST | DESIGN CHOICE 0 (5) | -/
  tokenLast : Nat := 0
  /-- 32 bit | 12 R355 VRD_TOKEN_REVOKED | DESIGN CHOICE 0 (5) | -/
  revoked : Nat := 0
  /-- list | 12 R343, R351 | empty | tokens that wait for the SP cycle of their issue: queue, RESULT_SEQ, connection, payload -/
  tokens  : List (Nat × Nat × Nat × Bytes) := []
  /-- 4 bit | 12 R356 VRD_EVENTS | 0 | -/
  events  : Nat := 0
  deriving DecidableEq, Repr, Inhabited

/-- One safe input or the stop chain input as the SLB sees it (13 R361 to R367, R384, R385). -/
structure SInput where
  /-- 1 bit | 13 R362, R394 CH_A | 0 | filtered state of channel A -/
  a        : Bool := false
  /-- 1 bit | 13 R362, R394 CH_B | 0 | filtered state of channel B -/
  b        : Bool := false
  /-- 1 bit | 13 R363 | 0 | channel A is untested, reads OFF and its blanking has ended -/
  blankA   : Bool := false
  /-- 1 bit | 13 R363 | 0 | channel B is untested, reads OFF and its blanking has ended -/
  blankB   : Bool := false
  /-- instant | 13 R364 | none | since when the filtered channels differ -/
  differ   : Option Nat := none
  /-- 1 bit | 13 R364, R394 DISC | 0 | latched discrepancy -/
  disc     : Bool := false
  /-- 1 bit | 13 R364 | 0 | both channels have been OFF together since the discrepancy -/
  discOff  : Bool := false
  /-- 1 bit | 13 R367, R394 PULSE | 0 | test pulse fault -/
  pulse    : Bool := false
  /-- count | 13 R367 | 0 | consecutive periods in which the faulted channel passed both checks -/
  passes   : Nat := 0
  /-- 1 bit | 13 R384 | 1 | both channels have been OFF together since the last edge -/
  offSeen  : Bool := true
  /-- instant | 13 R384 | none | when the first of the two channels turned ON after that -/
  firstOn  : Option Nat := none
  /-- 1 bit | 13 R359, R365 | 0 | the demand was seen by the last SLB cycle -/
  dem      : Bool := false
  /-- 1 bit | 04 R106, 13 R365 | 0 | a demand present since START -/
  old      : Bool := false
  deriving DecidableEq, Repr, Inhabited

/-- Group states (13 R371). -/
inductive GroupSt where
  | off | on | time | ramp
  deriving DecidableEq, Repr, Inhabited

/-- One drive group (13 R371 to R379, R394). -/
structure Group where
  /-- 2 bit | 13 R371, R394 STATE | 0 | -/
  state  : GroupSt := .off
  /-- 3 bit | 13 R394 END | 0 | -/
  end_   : Nat := 0
  /-- 1 bit | 13 R394 SLS | 0 | -/
  sls    : Bool := false
  /-- instant | 13 R394 SS1_MS | none | start of the running or last SS1 -/
  ss1At  : Option Nat := none
  /-- ms | 13 R394 SS1_MS | 0 | length of the last SS1, once it has ended -/
  ss1Len : Nat := 0
  /-- 8 x 32 bit | 13 R376 | 0 | V0 of each axis -/
  v0     : List Nat := List.replicate 8 0
  /-- 8 bit | 13 R376 | 0 | axes above their envelope in the previous cycle -/
  isOver   : List Bool := List.replicate 8 false
  /-- 8 bit | 13 R379 | 0 | axes above their SLS limit in the previous cycle -/
  fast   : List Bool := List.replicate 8 false
  /-- instant | 13 R376 | none | since when every axis has been at or below STILL -/
  still  : Option Nat := none
  deriving DecidableEq, Repr, Inhabited

/-- One encoder input (13 R377, R394). -/
structure Encoder where
  /-- 5 x 32 bit | 13 R377, R394 COUNT | 0 | counts of the last five cycles, newest first -/
  counts : List Nat := List.replicate 5 0
  /-- 32 bit signed | 13 R394 SPEED | 0 | mrad/s -/
  speed  : Int := 0
  /-- 1 bit | 13 R394 FAULT | 0 | -/
  fault  : Bool := false
  deriving DecidableEq, Repr, Inhabited

/-- Brake engine phases (13 R380). -/
inductive BrakeSt where
  | off | wait | pullin | hold
  deriving DecidableEq, Repr, Inhabited

/-- One brake output (13 R380 to R382, R394). -/
structure Brake where
  /-- 2 bit | 13 R380, R394 BRK_ON, BRK_PULLIN | 0 | -/
  phase : BrakeSt := .off
  /-- instant | 13 R380 | 0 | entry of the phase -/
  since : Nat := 0
  /-- 32 bit | 13 R394 DROP | 0 | -/
  drop  : Nat := 0
  /-- steps of 31.25 ns | 13 R381 | 0 | on-time of the next PWM period -/
  onTime : Nat := 0
  deriving DecidableEq, Repr, Inhabited

/-- The frame the SP sends over the SLB link (13 R368). -/
structure LinkFrame where
  beat   : Nat
  state  : St
  /-- 0 NONE, 1 SS1, 2 STO -/
  stop   : Nat
  src    : Nat
  armed  : Bool
  deriving DecidableEq, Repr, Inhabited

/-- The Safety Logic Block (13). Its two lanes hold equal state (log entry 14); a difference is an operand of
the cycle. The wired outputs `stoPin`, `brkPin` and `chainPin` are the series of the SLB element and TQEN
(01 R12). -/
structure Slb where
  /-- 16 | 13 R361 | as SInput | safe inputs -/
  inputs   : List SInput := List.replicate 16 {}
  /-- record | 13 R385 | as SInput | stop chain input -/
  chain    : SInput := {}
  /-- 4 | 13 R371 | as Group | -/
  groups   : List Group := List.replicate 4 {}
  /-- 8 | 13 R377 | as Encoder | -/
  qe       : List Encoder := List.replicate 8 {}
  /-- 4 | 13 R380 | as Brake | -/
  brakes   : List Brake := List.replicate 4 {}
  /-- 8 bit | 13 R394 STO_CMD | 0 | SLB elements STO0A to STO3B -/
  stoCmd   : List Bool := List.replicate 8 false
  /-- 8 bit | 13 R394 STO_PIN | 0 | pins STO0A to STO3B -/
  stoPin   : List Bool := List.replicate 8 false
  /-- 4 bit | 13 R394 BRK_ON | 0 | SLB elements BRK0 to BRK3 -/
  brkCmd   : List Bool := List.replicate 4 false
  /-- 4 bit | 02 Table 2.6 | 0 | pins BRK0 to BRK3 -/
  brkPin   : List Bool := List.replicate 4 false
  /-- 2 bit | 13 R386, R394 CHAIN_OUT | 0 | SLB elements STOPCH_OUT_A, _B -/
  chainCmd : List Bool := List.replicate 2 false
  /-- 2 bit | 02 Table 2.6, R42 | 0 | pins STOPCH_OUT_A, _B -/
  chainPin : List Bool := List.replicate 2 false
  /-- instant | 13 R386 | none | a stop chain pulse began -/
  chainAt  : Option Nat := none
  /-- list | 13 R21, R393 TRIP | empty | active trip sources of the SLB -/
  active   : List Nat := []
  /-- 8 bit | 13 R394 FIRST | 0 | -/
  first    : Nat := 0
  /-- 8 bit | 13 R394 LATEST | 0 | -/
  latest   : Nat := 0
  /-- list | 13 R370 | empty | trips not yet reported to the SP -/
  toSp     : List Trip := []
  /-- list | 13 R374, 14 R399 | empty | stops started and not yet reported to the SP: 1 STO or 2 SS1, groups, trip source -/
  stops    : List (Nat × Nat × Nat) := []
  /-- list | 13 R359 | empty | trips found between cycles that the next cycle takes -/
  due      : List Trip := []
  /-- 3 bit | 13 R368, R370 | START | latest state report -/
  report   : St := .start
  /-- option | 13 R383 | none | the report before the latest change -/
  before   : St := .start
  /-- 1 bit | 13 R370 | 0 | the first acknowledge or the restart has been completed -/
  permit   : Bool := false
  /-- 1 bit | 01 R21 | 0 | an acknowledge completed a restart; the SP takes it in its next cycle -/
  restarted : Bool := false
  /-- 1 bit | 13 R393 ARMED | 0 | -/
  armed    : Bool := false
  /-- 1 bit | 13 R384 | 0 | an acknowledge edge enters the next cycle -/
  ackEdge  : Bool := false
  /-- 2 bit | 13 R368 | 0 | request field, channel A: 0 NONE, 1 SS1, 2 STO -/
  reqA     : Nat := 0
  /-- 8 bit | 13 R369 | 0 | trip source named in the frame -/
  reqSrc   : Nat := 0
  /-- instant | 13 R368 | 0 | since when channel A has held its value -/
  reqASince : Nat := 0
  /-- 1 bit | 13 R368 | 0 | SPSTOP_N is low, channel B -/
  reqB     : Bool := false
  /-- instant | 13 R368 | 0 | since when channel B has held its value -/
  reqBSince : Nat := 0
  /-- 2 bit | 13 R368 | 0 | filtered channel A -/
  filtA    : Nat := 0
  /-- 1 bit | 13 R368 | 0 | filtered channel B -/
  filtB    : Bool := false
  /-- instant | 13 R369 | none | since when the request channels disagree -/
  disagree : Option Nat := none
  /-- 8 bit | 03 R72 | none | last firmware heartbeat value -/
  beat     : Option Nat := none
  /-- instant | 03 R72 | 0 | when it arrived -/
  beatAt   : Nat := 0
  /-- 1 bit | 01 R13 | 0 | the heartbeat is valid -/
  beatOk   : Bool := false
  /-- 1 bit | 03 R72 | 0 | the last count of HB_CLK edges lay outside 2076 to 2118 -/
  hbOut    : Bool := false
  /-- list | 13 R368 | empty | frames on the SLB link, oldest first -/
  link     : List LinkFrame := []
  /-- ns | 13 R383, R394 SLBM_DEG | 0 | degraded timer copy -/
  degElapsed : Nat := 0
  /-- 1 bit | 13 R394 RUNNING | 0 | -/
  degRun   : Bool := false
  /-- 1 bit | 13 R383 | 0 | the copy has reached its limit -/
  degDue   : Bool := false
  /-- instant | 04 R109 | none | start of the 60 s hold -/
  holdAt   : Option Nat := none
  /-- mV | 13 R381 | 0 | I/O supplies as measured in the previous cycle -/
  io       : List Nat := [0, 0]
  /-- 1 bit | 02 R55 | 0 | the supply trip holds -/
  supplyTrip : Bool := false
  /-- 32 bit | 13 R394 SLBM_LANE_DIFF | 0 | -/
  laneDiff : Nat := 0
  /-- 14 bit | 02 R43 | 0 | outputs cut off by overcurrent or failed in an off-test, STO0A to STO3B, BRK0 to BRK3, STOPCH_OUT_A, _B -/
  outFault : List Bool := List.replicate 14 false
  /-- 2 bit | 04 R112, Table 4.3 | 0 | an STO or STOPCH_OUT output, or a brake output, has been faulty since the start began -/
  outSeen  : List Bool := [false, false]
  /-- 32 bit | 13 R394 SLBM_PARAM_CRC | DESIGN CHOICE 0 (5) | -/
  paramCrc : Nat := 0
  /-- 43 × 32 bit | 13 R359, "Registers" | 0 | SLBM as the last cycle has left it, offsets 0x00 to 0xA8 -/
  mirror : List Nat := List.replicate 43 0
  deriving DecidableEq, Repr, Inhabited

/-- RX connection states (14 R403). -/
inductive ConnSt where
  | closed | opening | open_ | failed
  deriving DecidableEq, Repr, Inhabited

/-- A pair record (14 R405): the first copy of an accepted message, and whether its pair decision is due. -/
structure Pair where
  seq     : Nat
  port    : Nat
  at_     : Nat
  data    : Bytes
  decided : Bool := false
  deriving DecidableEq, Repr, Inhabited

/-- One connection slot (14 R403, R423); its record stands in the image. -/
structure Conn where
  /-- 2 bit | 14 R423 STATE | 0 | -/
  state   : ConnSt := .closed
  /-- 2 bit | 14 R406, R423 PORTS | 0 | ports ACTIVE -/
  ports   : List Bool := [false, false]
  /-- 8 bit | 14 R423 FAILS | 0 | -/
  fails   : Nat := 0
  /-- 16 bit | 14 R423 SEQ | 0 | RX: expected sequence; TX: next SEQ -/
  seq     : Nat := 0
  /-- 32 bit | 14 R423 CRC | 0 | -/
  crcErr  : Nat := 0
  /-- 32 bit | 14 R423 SEQ faults | 0 | -/
  seqErr  : Nat := 0
  /-- 32 bit | 14 R423 TIME | 0 | -/
  timeErr : Nat := 0
  /-- 32 bit | 14 R423 LOST | 0 | -/
  lost    : Nat := 0
  /-- 16 bit | 14 R423 MISMATCH | 0 | -/
  mismatch : Nat := 0
  /-- count | 14 R423 SINGLE | 0 | SINGLE messages; the register shows thousands -/
  single  : Nat := 0
  /-- instant | 14 R402, R403 | 0 | last restart of the watchdog, or entry of OPENING -/
  dogAt   : Nat := 0
  /-- list | 14 R405 | empty | pair records, newest first, at most 32 -/
  pairs   : List Pair := []
  /-- 2 x count | 14 R406 | 0 | consecutive accepted messages without a copy on the port -/
  missing : List Nat := [0, 0]
  /-- 2 x 16 bit | 14 R407 | none | SEQ from which a restored port is ACTIVE -/
  resume  : List (Option Nat) := [none, none]
  /-- 2 bit | 14 R407, Table 14.7 | 0 | restored by an announce in this SP cycle -/
  fresh   : List Bool := [false, false]
  /-- instant | 14 R399 | 0 | TX: last STATUS -/
  statusAt : Nat := 0
  /-- instant | 17 R479 | none | RX: since when ALIVE has come with no JOINTS -/
  aliveSince : Option Nat := none
  /-- 1 bit | 17 R479 | 0 | paused -/
  paused  : Bool := false
  /-- up to 64 bytes | 10 Table 10.2 SAFE_MSG | empty | RX: payload of the last accepted message -/
  data    : Bytes := []
  deriving DecidableEq, Repr, Inhabited

/-- The safe message layer (14). -/
structure Sml where
  /-- 32 | 14 R395 | as Conn | -/
  conns   : List Conn := List.replicate 32 {}
  /-- 2 bit | 14 R422 ETH0_LINK, ETH1_LINK | 0 | -/
  link    : List Bool := [false, false]
  /-- instant | 14 R408, R422 SPT | none | start of the single-path timer -/
  singleAt : Option Nat := none
  /-- ns | 14 R401 | 0 | last forward step of device time and its instant -/
  stepNs  : Nat := 0
  /-- instant | 14 R401 | 0 | when it happened -/
  stepAt  : Nat := 0
  /-- 2 x instant | 14 R407 | none | last PATH_ANNOUNCE sent on each port -/
  annAt   : List (Option Nat) := [none, none]
  /-- 32 bit | 14 R395, Table 14.8 | 0 | frames that name an undeclared connection -/
  unknown : Nat := 0
  deriving DecidableEq, Repr, Inhabited

/-- One CVU channel (14 R415, R416, R424). -/
structure CvuCh where
  /-- 3 bit | 14 R424 POLY | DESIGN CHOICE 0 (5) | -/
  poly     : Nat := 0
  /-- 2 bit | 14 R424 ALIVE | DESIGN CHOICE 0 (5) | -/
  alive    : Nat := 0
  /-- 8 bit | 14 R424 USER | DESIGN CHOICE 0 (5) | -/
  user     : Nat := 0
  /-- 16 bit | 14 R424 ALIVE_POS | DESIGN CHOICE 0 (5) | -/
  pos      : Nat := 0
  /-- 1 bit | 14 R424 IN_SERVICE | DESIGN CHOICE 0 (5) | -/
  service  : Bool := false
  /-- 4 bit | 14 R424 ALIVE_NOW | 0 | -/
  now      : Nat := 0
  /-- 1 bit | 14 R416 | 0 | the first message after configuration has been seen -/
  primed   : Bool := false
  /-- 32 bit | 14 R424 CRCERR | 0 | -/
  crcErr   : Nat := 0
  /-- 32 bit | 14 R424 ALIVEERR | 0 | -/
  aliveErr : Nat := 0
  /-- 64 bit | 14 R424 RESULT | 0 | -/
  result   : Nat := 0
  deriving DecidableEq, Repr, Inhabited

/-- The Check-Value Unit (14 R415). -/
structure Cvu where
  /-- 32 | 14 R415 | as CvuCh | -/
  chans : List CvuCh := List.replicate 32 {}
  deriving DecidableEq, Repr, Inhabited

/-- Ring forming phases (15 R444). -/
inductive Phase where
  | off | listen | claim | backoff | integrate | member | out
  deriving DecidableEq, Repr, Inhabited

/-- What this node knows of a node of the ring (15 R431, R435, R437). -/
structure Node where
  /-- instant | 15 R431 | none | last SAFETY frame heard -/
  heard  : Option Nat := none
  /-- 1 bit | 15 R431 | 0 | in the roster -/
  roster : Bool := false
  /-- 2 bit | 15 R435 | 0 | STOP shown -/
  stop   : Nat := 0
  /-- 2 x 4 bit | 15 Table 15.4 | none | last alive counter on each lane -/
  alive  : List (Option Nat) := [none, none]
  /-- 4 bit | 15 R425 | none | alive counter of the last frame taken -/
  taken  : Option Nat := none
  /-- 4 x 8 bit | 15 R437 | 0xFF, 0, 0xFF, 0 | LEND_TO, LEND, BORROW_FROM, UNITS as heard -/
  share  : List Nat := [0xFF, 0, 0xFF, 0]
  /-- 32 bit | 15 R437 | 0 | SHARE_LOAD as heard -/
  load   : Nat := 0
  /-- 64 bit | 15 R437 | 0 | SHARE_ID as heard -/
  id     : Nat := 0
  deriving DecidableEq, Repr, Inhabited

/-- The Crosswind link (15). -/
structure Xwl where
  /-- 3 bit | 15 R444 PHASE | 0 off | -/
  phase     : Phase := .off
  /-- instant | 15 R428, R429 | 0 | entry of the phase -/
  phaseAt   : Nat := 0
  /-- 8 bit | 15 R444 collisions | 0 | -/
  collisions : Nat := 0
  /-- 1 bit | 15 R443 MASTER | 0 | -/
  master    : Bool := false
  /-- 3 bit | 15 R443 MASTER_ID | 0 | -/
  masterId  : Nat := 0
  /-- 1 bit | 15 R443 RING_UP | 0 | -/
  up        : Bool := false
  /-- count | 15 R431 | 0 | consecutive cycles with every member in the roster -/
  upCycles  : Nat := 0
  /-- 1 bit | 15 R443 LINE | 0 | -/
  line      : Bool := false
  /-- 2 bit | 15 R443 LINE | 0 | lanes that receive -/
  lanes     : List Bool := [true, true]
  /-- 1 bit | 15 R443 DUP_ID | 0 | -/
  dup       : Bool := false
  /-- 1 bit | 15 R443 TIME_FOLLOW | 0 | -/
  follow    : Bool := false
  /-- 8 | 15 R431 | as Node | -/
  nodes     : List Node := List.replicate 8 {}
  /-- 32 bit | 15 R444 XWL_CYCLE | 0 | -/
  cycle     : Nat := 0
  /-- instant | 15 R431 | 0 | start of the cycle in progress -/
  cycleAt   : Nat := 0
  /-- count | 15 R431 | 0 | cycles observed since integration began -/
  seen      : Nat := 0
  /-- count | 15 R432 | 0 | cycles since the last SYNC -/
  noSync    : Nat := 0
  /-- 2 x ns | 15 R433 | 0 | measured delay to the neighbour on each lane -/
  delays    : List Nat := [0, 0]
  /-- count | 15 R433 | 0 | cycles since the last delay measurement -/
  measured  : Nat := 0
  /-- 1 bit | 15 R426 | 0 | the node's safety slot of this cycle is used -/
  slotDone  : Bool := false
  /-- 8 bit | 15 R426 | 0 | bulk units of this cycle that are used -/
  unitsDone : Nat := 0
  /-- 32 bit signed | 15 R444 XWL_TIME_OFS | 0 | -/
  timeOfs   : Int := 0
  /-- 2 x 32 bit | 15 R444 XWL_Ln_CRC | 0 | -/
  crcErr    : List Nat := [0, 0]
  /-- 2 x 32 bit | 15 R444 XWL_Ln_LOST | 0 | -/
  gaps      : List Nat := [0, 0]
  /-- 2 x 32 bit | 15 R425 | 0 | second copies counted per lane; no register shows them -/
  others    : List Nat := [0, 0]
  /-- 32 bit | 15 R444 XWL_SHARE_DONE | 0 | -/
  shareDone : Nat := 0
  /-- 32 bit | 15 R444 XWL_SHARE_TIMEOUT | 0 | -/
  shareTimeout : Nat := 0
  /-- 32 bit | 15 R444 XWL_LENT_DONE | 0 | -/
  lentDone  : Nat := 0
  /-- 6 bit | 15 R445 XWL_EVENTS | 0 | -/
  events    : Nat := 0
  /-- 2 bit | 15 R435 | 0 | the node's own STOP, until it leaves HALTED -/
  stop      : Nat := 0
  /-- 8 bit | 15 Table 15.2 STOP_SRC | 0 | -/
  stopSrc   : Nat := 0
  /-- 4 bit | 14 R416, 15 R427 | 0 | own alive counter -/
  alive     : Nat := 0
  /-- list | 15 R438 | empty | jobs handed to the lender: job number and instant of the hand-off -/
  handed    : List (Nat × Nat) := []
  /-- list | 15 R438 | empty | BULK frames waiting for an owned unit: destination, job, payload -/
  bulk      : List (Nat × Nat × Bytes) := []
  /-- list | 15 R438 | empty | BULK payload received so far: source, job, bytes -/
  bulkRx    : List (Nat × Nat × Bytes) := []
  /-- list | 15 R438 | empty | borrowed jobs: lender's job number, borrower's node and borrower's job number -/
  borrowed  : List (Nat × Nat × Nat) := []
  deriving DecidableEq, Repr, Inhabited

/-- A completion entry waiting in a queue: the posted 16 bytes without phase, and the journal sequence it closes. -/
structure Comp where
  entry : Bytes
  /-- a recovery completion of this RESULT_SEQ (19 R528) -/
  recovery : Bool
  seq   : Nat
  deriving DecidableEq, Repr, Inhabited

/-- One host queue (16 R451 to R456, R467). -/
structure HQueue where
  /-- 64 bit | 16 R467 SQ_BASE | 0 | -/
  sqBase : Nat := 0
  /-- 64 bit | 16 R467 CQ_BASE | 0 | -/
  cqBase : Nat := 0
  /-- 4 bit | 16 R467 SQ_LOG2 | 0 | -/
  sqLog  : Nat := 0
  /-- 4 bit | 16 R467 CQ_LOG2 | 0 | -/
  cqLog  : Nat := 0
  /-- 12 bit | 16 R467 SQ_TAIL | 0 | -/
  sqTail : Nat := 0
  /-- 12 bit | 16 R467 SQ_HEAD | 0 | -/
  sqHead : Nat := 0
  /-- 12 bit | 16 R467 CQ_HEAD | 0 | -/
  cqHead : Nat := 0
  /-- 12 bit | 16 R467 CQ_TAIL | 0 | -/
  cqTail : Nat := 0
  /-- 1 bit | 16 R453 | 1 | phase of the next entry -/
  phase  : Bool := true
  /-- 1 bit | 16 R467 EN | 0 | -/
  en     : Bool := false
  /-- 1 bit | 16 R467 ERROR | 0 | -/
  error  : Bool := false
  /-- 1 bit | 16 R467 HOLD | 0 | -/
  hold   : Bool := false
  /-- 1 bit | 16 R467 RESETTING | 0 | -/
  resetting : Bool := false
  /-- 1 bit | 16 R467 UNBOUND | DESIGN CHOICE 0 (5) | -/
  unbound : Bool := false
  /-- 2 bit | 16 R467 ERR | 0 | -/
  err    : Nat := 0
  /-- 1 bit | 16 R467 CH_FAULT | 0 | -/
  chFault : Bool := false
  /-- 4 bit | 16 R467 CAUSE | 0 | -/
  cause  : Nat := 0
  /-- 7 bit | 16 R467 COUNT | 1 | -/
  irqCount : Nat := 1
  /-- 10 bit | 16 R467 TIME_US | 0 | -/
  irqTime : Nat := 0
  /-- 1 bit | 16 R467 MASK | 0 | -/
  irqMask : Bool := false
  /-- count | 16 R454 | 0 | completions posted since the last signal -/
  unsig  : Nat := 0
  /-- instant | 16 R454 | none | first completion not yet signalled -/
  firstAt : Option Nat := none
  /-- count | 16 R452, R453 | 0 | entries posted and not consumed, counted from CQ_HEAD -/
  cqUsed : Nat := 0
  /-- list | 19 R528, 16 R453 | empty | completions not yet posted for want of a free entry, recovery first -/
  recov  : List Comp := []
  deriving DecidableEq, Repr, Inhabited

/-- One frame delivery ring (16 R457, R468). -/
structure DRing where
  /-- 64 bit | 16 R468 BASE | 0 | -/
  base : Nat := 0
  /-- 4 bit | 16 R468 SIZE_LOG2 | 0 | -/
  sizeLog : Nat := 0
  /-- 6 bit | 16 R468 VECTOR | 0 | -/
  vector : Nat := 0
  /-- 1 bit | 16 R468 EN | 0 | -/
  en : Bool := false
  /-- 12 bit | 16 R468 TAIL | 0 | -/
  tail : Nat := 0
  /-- 12 bit | 16 R468 HEAD | 0 | -/
  head : Nat := 0
  /-- 1 bit | 16 R457 | 1 | phase of the next completion -/
  phase : Bool := true
  deriving DecidableEq, Repr, Inhabited

/-- The host queue block (16). -/
structure Hq where
  /-- 64 | 16 R467 | as HQueue | -/
  queues : List HQueue := List.replicate 64 {}
  /-- 16 | 16 R468 | as DRing | -/
  rings  : List DRing := List.replicate 16 {}
  /-- 1 bit | 04 R105, R118 | 0 | queues open: since S8 or entry to DOLDRUMS -/
  opened : Bool := false
  /-- count | 16 R448 | 0 | non-fatal Completer Aborts that AER has logged -/
  aer    : Nat := 0
  deriving DecidableEq, Repr, Inhabited

/-- A taken entry of the lock table (16 R460): its owner and its range. -/
structure Lock where
  q   : Nat
  seq : Nat
  lo  : Nat
  len : Nat
  deriving DecidableEq, Repr, Inhabited

/-- The firewalls (16 R458 to R460, R469). -/
structure Fwl where
  /-- 10 bit | 16 R469 IDENT | 0 | -/
  ident  : Nat := 0
  /-- 1 bit | 16 R469 WRITE | 0 | -/
  write  : Bool := false
  /-- 1 bit | 16 R469 LOCKED | 0 | -/
  locked : Bool := false
  /-- 40 bit | 16 R469 FWL_VIOL_ADDR | 0 | -/
  addr   : Nat := 0
  /-- 32 bit | 16 R469 FWL_VIOL_CNT | 0 | -/
  count  : Nat := 0
  /-- 32 bit | 16 R469 FWL_NOID_CNT | 0 | -/
  noId   : Nat := 0
  /-- list, at most 8192 | 16 R460, R469 FWL_LOCKS_FREE | empty (8192 free) | locks taken -/
  locks  : List Lock := []
  /-- 1 bit | 16 R469 FWL_EVENTS | 0 | -/
  seen   : Bool := false
  deriving DecidableEq, Repr, Inhabited

/-- One supervised channel (16 R461 to R464, R470). -/
structure TChan where
  /-- 4 bit | 16 R470 CAUSE | 0 | -/
  cause  : Nat := 0
  /-- 1 bit | 16 R470 FAULT | 0 | -/
  fault  : Bool := false
  /-- 4 bit | 16 R470 LAST_CP | 0 | -/
  lastCp : Nat := 0
  /-- 1 bit | 16 R461 | 1 | the next checkpoint is free of the order check -/
  free   : Bool := true
  /-- count | 16 R461, R470 ALIVE | 0 | checkpoints in the window; the register shows at most 65535 -/
  alive  : Nat := 0
  /-- instant | 16 R461 | 0 | start of the alive window -/
  windowAt : Nat := 0
  /-- instant | 16 R461, R470 RUNNING | none | the deadline timer runs since -/
  timerAt : Option Nat := none
  /-- 1 bit | 16 R461 | 0 | the running timer has already raised DEADLINE -/
  late   : Bool := false
  /-- ns | 16 R461 | 0 | budget used in the period by completed runs of the timer -/
  used   : Nat := 0
  /-- instant | 16 R461 | 0 | start of the budget period -/
  periodAt : Nat := 0
  /-- 1 bit | 16 R461 | 0 | BUDGET already raised in this period -/
  spent  : Bool := false
  /-- instant | 16 R464 | 0 | last cause that arose -/
  causeAt : Nat := 0
  deriving DecidableEq, Repr, Inhabited

/-- The task supervision unit (16). -/
structure Tsu where
  /-- 512 | 16 R470 | as TChan | -/
  chans  : List TChan := List.replicate 512 {}
  /-- 32 bit | 16 R470 TSU_FAULT_CNT | 0 | -/
  faults : Nat := 0
  /-- 32 bit | 16 R470 TSU_VPATH_CNT | 0 | -/
  vpath  : Nat := 0
  /-- 2 bit | 16 R470 TSU_EVENTS | 0 | -/
  events : Nat := 0
  deriving DecidableEq, Repr, Inhabited

/-- Power states (17 Table 17.1). -/
inductive PState where
  | gale | breeze | lull | calm
  deriving DecidableEq, Repr, Inhabited

/-- A background activity (17 R483, R484, R490). -/
structure Bg where
  /-- 1 bit | 17 R490 URGENT | 0 | -/
  urgent : Bool := false
  /-- 1 bit | 17 R490 TWICE | 0 | -/
  twice  : Bool := false
  /-- 8 bit | 17 R490 MISSES | 0 | -/
  misses : Nat := 0
  /-- instant | 17 R483 | 0 | the deadline counts from here -/
  from_  : Nat := 0
  /-- count | 17 R484 | 0 | consecutive misses -/
  row    : Nat := 0
  /-- 1 bit | 17 R484 | 0 | the run in progress has missed its deadline -/
  late   : Bool := false
  /-- count | 17 R484 | 0 | consecutive completions within the deadline -/
  good   : Nat := 0
  deriving DecidableEq, Repr, Inhabited

/-- The power state manager (17). -/
structure Psm where
  /-- 2 bit | 17 R488 STATE | 0 Gale | -/
  state    : PState := .gale
  /-- option | 17 R471 | none | state being entered and the instant the entry began -/
  entering : Option (PState × Nat) := none
  /-- instant | 17 R472 | none | a wake in progress: since when, and whether it is a planned one (Table 17.5); the state being left is `state` -/
  waking   : Option (Nat × Bool) := none
  /-- instant | 17 R473 | none | the cluster was powered again after Lull or Calm -/
  poweredAt : Option Nat := none
  /-- 1 bit | 17 R488 WAKE_FAULT | 0 | -/
  wakeFault : Bool := false
  /-- 64 bit | 17 R489 PSM_NEXT | 0 | -/
  next     : Nat := 0
  /-- 4 x ns | 17 R489 PSM_RES | 0 | residence in each state; the registers show µs -/
  res      : List Nat := [0, 0, 0, 0]
  /-- 16 bit | 17 R489 PLANNED | 0 | -/
  planned  : Nat := 0
  /-- 16 bit | 17 R489 UNANNOUNCED | 0 | -/
  unann    : Nat := 0
  /-- 5 | 17 R490 | as Bg | background activities -/
  bg       : List Bg := List.replicate 5 {}
  /-- 16 | 17 R484 | as Bg | rolling self-test of each core -/
  tests    : List Bg := List.replicate 16 {}
  /-- 2 bit | 17 R491 PSM_EVENTS | 0 | -/
  events   : Nat := 0
  deriving DecidableEq, Repr, Inhabited

/-- What the module sends outside in one command: frames, host memory writes, signals and shifted bits. -/
inductive Output where
  | eth (port : Nat) (etherType : Nat) (data : Bytes)
  | safe (port : Nat) (mac vid pcp : Nat) (data : Bytes)
  | xwl (lane : Nat) (data : Bytes)
  | hostWrite (addr : Nat) (data : Bytes)
  | msix (vector : Nat)
  | pcieRead (status : Nat) (data : Bytes)
  | pcieWrite (status : Nat)
  | tdo (status : Nat) (data : Bytes)
  | trig (n : Nat) (level : Bool)
  deriving DecidableEq, Repr, Inhabited

end Sys2Proof.Machine
end

