-- ==== Sys2Proof/Machine/State.lean ====
section
/-! DEFINITION. The whole state of the module, the reasons a step can stop, and the state right after reset. -/

namespace Sys2Proof.Machine

/-- Reasons to stop with a fault. No command of the table raises one: the manual gives every command an effect, so this
type has only the constructor that names the reason none is used (safe). -/
inductive Fault where
  /-- Raised by nobody: kept so that a reader sees that the module itself never stops (safe). -/
  | none
  deriving DecidableEq, Repr

/-- Reasons to refuse a command. -/
inductive Refusal where
  /-- Raised by `exec` for a command that has no meaning yet; its argument is the command's mnemonic (safe). -/
  | notModelled (mnemonic : String)
  deriving DecidableEq, Repr

/-- The state: one field per block, memory, what has been sent out, and the queue of waiting commands. -/
structure State where
  /-- ns | log entry 1 | 0 | reference time since the model's origin (the model's own) -/
  now  : Nat := 0
  /-- count | log entry 7 | 0 (DESIGN CHOICE) | free values drawn so far (the model's own) -/
  free : Nat := 0
  /-- block | 01 | as Sys | -/
  sys  : Sys := {}
  /-- block | 02 | as Supply | -/
  sup  : Supply := {}
  /-- block | 03 | as Clk | -/
  clk  : Clk := {}
  /-- block | 03 | as Rtc | -/
  rtc  : Rtc := {}
  /-- block | 04 | as Start | -/
  start : Start := {}
  /-- block | 02 Table 2.2 | as Nvm | SLD non-volatile memory -/
  nvm  : Nvm := {}
  /-- block | 02 R49 | as Seal | -/
  seals : Seal := {}
  /-- block | 05 | as Cfg | -/
  cfg  : Cfg := {}
  /-- block | 06 | as Fiu | -/
  fiu  : Fiu := {}
  /-- block | 07 | as Fgu | -/
  fgu  : Fgu := {}
  /-- block | 08 | as Aud | -/
  aud  : Aud := {}
  /-- block | 10 | as Vane | -/
  vane : Vane := {}
  /-- block | 11 | as Beu | -/
  beu  : Beu := {}
  /-- block | 12 | as Vrd | -/
  vrd  : Vrd := {}
  /-- block | 13 | as Slb | -/
  slb  : Slb := {}
  /-- block | 14 | as Sml | -/
  sml  : Sml := {}
  /-- block | 14 | as Cvu | -/
  cvu  : Cvu := {}
  /-- block | 15 | as Xwl | -/
  xwl  : Xwl := {}
  /-- block | 16 | as Hq | -/
  hq   : Hq := {}
  /-- block | 16 | as Fwl | -/
  fwl  : Fwl := {}
  /-- block | 16 | as Tsu | -/
  tsu  : Tsu := {}
  /-- block | 17 | as Psm | -/
  psm  : Psm := {}
  /-- block | 18 | as Mon | -/
  mon  : Mon := {}
  /-- block | 18 | as Log | -/
  log  : Log := {}
  /-- block | 18 | as Dbg | -/
  dbg  : Dbg := {}
  /-- block | 18 R492, 19 R519 | as Ret | retention SRAM -/
  ret  : Ret := {}
  /-- list | 16 Table 16.1, 11 R306 | empty (a byte nothing has written reads 0) | memory: rising addresses, no zero byte listed -/
  mem  : List Host.Cell := []
  /-- list | 11 R291, R306 | empty | poisoned 32-byte granules, rising -/
  poison : List Nat := []
  /-- list | 00 R9 | empty | high words captured by a read of a low word: register address and word, newest first -/
  caps : List (Nat × Nat) := []
  /-- list | log entry 10 | empty (the model's own) | what the last command sent outside -/
  out  : List Output := []
  /-- list | the model's queue | empty | commands waiting, first in, first out -/
  pending : List Instr := []
  deriving DecidableEq, Repr, Inhabited

/-- The module as it leaves Krytvas (05 R134, 13 R360), unpowered, in OFF, before its first POWER_GOOD. -/
def State.reset : State := {}

end Sys2Proof.Machine
end

