-- ==== Sys2Proof/Machine/Access.lean ====
section
/-! DEFINITION. One modifier per block of the state: each changes its own block and nothing else
(Laws/State.lean). -/

namespace Sys2Proof.Machine

/-- Change the `sys` block. -/
def State.onSys (g : Sys → Sys) (s : State) : State := { s with sys := g s.sys }

/-- Change the `sup` block. -/
def State.onSup (g : Supply → Supply) (s : State) : State := { s with sup := g s.sup }

/-- Change the `clk` block. -/
def State.onClk (g : Clk → Clk) (s : State) : State := { s with clk := g s.clk }

/-- Change the `rtc` block. -/
def State.onRtc (g : Rtc → Rtc) (s : State) : State := { s with rtc := g s.rtc }

/-- Change the `start` block. -/
def State.onStart (g : Start → Start) (s : State) : State := { s with start := g s.start }

/-- Change the `nvm` block. -/
def State.onNvm (g : Nvm → Nvm) (s : State) : State := { s with nvm := g s.nvm }

/-- Change the `seals` block. -/
def State.onSeals (g : Seal → Seal) (s : State) : State := { s with seals := g s.seals }

/-- Change the `cfg` block. -/
def State.onCfg (g : Cfg → Cfg) (s : State) : State := { s with cfg := g s.cfg }

/-- Change the `fiu` block. -/
def State.onFiu (g : Fiu → Fiu) (s : State) : State := { s with fiu := g s.fiu }

/-- Change the `fgu` block. -/
def State.onFgu (g : Fgu → Fgu) (s : State) : State := { s with fgu := g s.fgu }

/-- Change the `aud` block. -/
def State.onAud (g : Aud → Aud) (s : State) : State := { s with aud := g s.aud }

/-- Change the `vane` block. -/
def State.onVane (g : Vane → Vane) (s : State) : State := { s with vane := g s.vane }

/-- Change the `beu` block. -/
def State.onBeu (g : Beu → Beu) (s : State) : State := { s with beu := g s.beu }

/-- Change the `vrd` block. -/
def State.onVrd (g : Vrd → Vrd) (s : State) : State := { s with vrd := g s.vrd }

/-- Change the `slb` block. -/
def State.onSlb (g : Slb → Slb) (s : State) : State := { s with slb := g s.slb }

/-- Change the `sml` block. -/
def State.onSml (g : Sml → Sml) (s : State) : State := { s with sml := g s.sml }

/-- Change the `cvu` block. -/
def State.onCvu (g : Cvu → Cvu) (s : State) : State := { s with cvu := g s.cvu }

/-- Change the `xwl` block. -/
def State.onXwl (g : Xwl → Xwl) (s : State) : State := { s with xwl := g s.xwl }

/-- Change the `hq` block. -/
def State.onHq (g : Hq → Hq) (s : State) : State := { s with hq := g s.hq }

/-- Change the `fwl` block. -/
def State.onFwl (g : Fwl → Fwl) (s : State) : State := { s with fwl := g s.fwl }

/-- Change the `tsu` block. -/
def State.onTsu (g : Tsu → Tsu) (s : State) : State := { s with tsu := g s.tsu }

/-- Change the `psm` block. -/
def State.onPsm (g : Psm → Psm) (s : State) : State := { s with psm := g s.psm }

/-- Change the `mon` block. -/
def State.onMon (g : Mon → Mon) (s : State) : State := { s with mon := g s.mon }

/-- Change the `log` block. -/
def State.onLog (g : Log → Log) (s : State) : State := { s with log := g s.log }

/-- Change the `dbg` block. -/
def State.onDbg (g : Dbg → Dbg) (s : State) : State := { s with dbg := g s.dbg }

/-- Change the `ret` block. -/
def State.onRet (g : Ret → Ret) (s : State) : State := { s with ret := g s.ret }

/-- Add to what the command sends outside. -/
def State.send (o : Output) (s : State) : State := { s with out := s.out ++ [o] }

/-- Change a list-valued entry `i` of a register file. -/
def setN {α : Type} (l : List α) (i : Nat) (a : α) : List α := modN l i (fun _ => a)

end Sys2Proof.Machine
end

