-- ==== Sys2Proof/Machine/Crc.lean ====
section
/-! DEFINITION. The check values of the Check-Value Unit (14 Table 14.6). -/

namespace Sys2Proof.Machine

/-- A CRC model (14 Table 14.6). -/
structure CrcModel where
  width : Nat
  poly  : Nat
  init  : Nat
  refl  : Bool
  out   : Nat
  deriving DecidableEq, Repr, Inhabited

/-- The CRC models by their code (14 Table 14.6). -/
def crcModel : Nat → Option CrcModel
  | 0 => some ⟨8, 0x2F, 0xFF, false, 0xFF⟩
  | 1 => some ⟨16, 0x1021, 0xFFFF, false, 0⟩
  | 2 => some ⟨32, 0x04C11DB7, 0xFFFFFFFF, true, 0xFFFFFFFF⟩
  | 3 => some ⟨32, 0x1EDC6F41, 0xFFFFFFFF, true, 0xFFFFFFFF⟩
  | 4 => some ⟨64, 0x42F0E1EBA9EA3693, 2 ^ 64 - 1, true, 2 ^ 64 - 1⟩
  | _ => none

/-- The `w` low bits of `n` in reverse order. -/
def revBits : Nat → Nat → Nat
  | 0, _ => 0
  | w + 1, n => n % 2 * 2 ^ w + revBits w (n / 2)

/-- `k` steps of a reflected CRC register, whose polynomial is given reversed. -/
def crcBitsR (p : Nat) : Nat → Nat → Nat
  | 0, c => c
  | k + 1, c => crcBitsR p k (if c % 2 = 1 then (c / 2) ^^^ p else c / 2)

/-- `k` steps of an unreflected CRC register of width `w`. -/
def crcBitsN (w p : Nat) : Nat → Nat → Nat
  | 0, c => c
  | k + 1, c => crcBitsN w p k (if c.testBit (w - 1) then ((2 * c) % 2 ^ w) ^^^ p else 2 * c)

/-- The register after the bytes of a message. -/
def crcFeed (m : CrcModel) : Bytes → Nat → Nat
  | [], c => c
  | b :: r, c =>
    crcFeed m r <|
      if m.refl then crcBitsR (revBits m.width m.poly) 8 (c ^^^ b.toNat)
      else crcBitsN m.width m.poly 8 (c ^^^ (b.toNat * 2 ^ (m.width - 8)))

/-- The CRC of a message under a model. -/
def crcWith (m : CrcModel) (bs : Bytes) : Nat := crcFeed m bs m.init ^^^ m.out

/-- The CRC of a message under a code of Table 14.6; 0 under an undefined code. -/
def crcOf (code : Nat) (bs : Bytes) : Nat :=
  match crcModel code with
  | some m => crcWith m bs
  | none => 0

/-- CRC-16 (code 1). -/
def crc16 (bs : Bytes) : Nat := crcOf 1 bs

/-- CRC-32C (code 3). -/
def crc32c (bs : Bytes) : Nat := crcOf 3 bs

/-- CRC-64 (code 4), the digest of 08 R222. -/
def crc64 (bs : Bytes) : Nat := crcOf 4 bs

/-- A little-endian structure with its CRC-32C appended. -/
def withCrc (bs : Bytes) : Bytes := bs ++ leBytes 4 (crc32c bs)

/-- The last four bytes of a little-endian structure are the CRC-32C of the others. -/
def crcOk (bs : Bytes) : Bool :=
  leVal (bs.drop (bs.length - 4)) == crc32c (bs.take (bs.length - 4))

end Sys2Proof.Machine
end

