-- ==== Sys2Proof/Machine/Ops.lean ====
section
/-! DEFINITION. The operations every command shares: the instant of a command, wired outputs, the event log, the
journal, free values and the lookups in the working image. -/

namespace Sys2Proof.Machine

/-! ## Time -/

/-- The addend's limit of ±500 ppm, in 2 to the -32 ns per CLK_PTP cycle of 8 ns (03 R60). -/
def addendMax : Int := 17179869

/-- The slew rate of 200 ppm in the same unit (03 R63). -/
def slewRate : Int := 6871947

/-- The servo's share of the addend: what slewing leaves of ±500 ppm, so that the two together keep R60's limit. -/
def Clk.servo (c : Clk) : Int := max (slewRate - addendMax) (min (addendMax - slewRate) c.addend)

/-- The frequency addend in force (03 R60, R63, R85): the servo's correction, and 200 ppm towards an offset still to be slewed. -/
def Clk.applied (c : Clk) : Int := c.servo + c.slew.sign * slewRate

/-- CLK_PTP or its backup drives device time (03 R78). -/
def Clk.counts (c : Clk) : Bool := c.ptpOk || c.fabOk

/-- Device time after `d` ns of reference time (03 R60, R63), in units of 2 to the -35 ns, an eighth of the addend's: the counter
adds the addend's share of `d` and slews what is left of a correction at 200 ppm. It stands still when no clock drives it (R78). -/
def Clk.advance (d : Nat) (c : Clk) : Clk :=
  if !c.counts then c
  else
    let lim : Int := d * slewRate
    let sl : Int := max (-lim) (min lim c.slew)
    let total : Int := ((c.dev + d) * 2 ^ 35 + c.frac : Nat) + (d : Int) * c.servo + sl
    { c with dev := (total / 2 ^ 35).toNat, frac := (total % 2 ^ 35).toNat, slew := c.slew - sl }

/-- The residence index of a power state (17 R489). -/
def PState.idx : PState → Nat
  | .gale => 0 | .breeze => 1 | .lull => 2 | .calm => 3

/-- Residence counters after `d` ns. -/
def Psm.advance (d : Nat) (p : Psm) : Psm := { p with res := modN p.res p.state.idx (· + d) }

/-- The lockout runs down while the SLB is powered (05 R133, R156). -/
def Nvm.advance (d : Nat) (n : Nvm) : Nvm :=
  { n with secrets := { n.secrets with
      lock := { n.secrets.lock with a := n.secrets.lock.a - d, b := n.secrets.lock.b - d } } }

/-- The state at the instant `t` of a command: clocks and running timers have advanced, and nothing has been
sent yet. An instant never lies before the last one (log entry 1). -/
def State.at (t : Nat) (s : State) : State :=
  let d := t - s.now
  let s := { s with now := s.now + d, out := [] }
  if s.sup.on then
    { s with
      clk := s.clk.advance d
      nvm := s.nvm.advance d
      psm := s.psm.advance d
      sys := { s.sys with degElapsed := s.sys.degElapsed + if s.sys.degRun then d else 0 }
      slb := { s.slb with degElapsed := s.slb.degElapsed + if s.slb.degRun then d else 0 } }
  else s

/-- Device time (03 R60). -/
def State.dev (s : State) : Nat := s.clk.dev

/-- Nanoseconds in a millisecond. -/
def ms : Nat := 1000000

/-- Nanoseconds in a second. -/
def sec : Nat := 1000000000

/-- At least `d` ns have passed since the instant `i`. -/
def State.past (s : State) (i d : Nat) : Bool := i + d ≤ s.now

/-- An instant is set and at least `d` ns have passed since. -/
def State.pastOpt (s : State) (i : Option Nat) (d : Nat) : Bool :=
  match i with
  | some i => s.past i d
  | none => false

/-! ## Wired outputs -/

/-- The wired outputs follow their two series elements (01 R12): a pin is energised only while the SLB drives it
and TQEN is active. STOPCH_OUT follows the SLB alone (13 R386; log entry 16). -/
def settle (s : State) : State :=
  { s with slb := { s.slb with
      stoPin := s.slb.stoCmd.map (· && s.sys.tqen)
      brkPin := s.slb.brkCmd.map (· && s.sys.tqen)
      chainPin := s.slb.chainCmd } }

/-- A command's outcome: its effect at its instant, and the wired outputs after it. -/
def finish (t : Nat) (s : State) (f : State → State) : Host.Outcome State Fault Refusal :=
  .next (settle (f (s.at t)))

/-- An effect under a condition; otherwise nothing changes (log entry 3). -/
def State.when (s : State) (c : Bool) (f : State → State) : State := if c then f s else s

/-- An effect on each entry of a list, in order. -/
def State.each {α : Type} (s : State) (l : List α) (f : α → State → State) : State :=
  l.foldl (fun s a => f a s) s

/-! ## Free values -/

/-- A value the manual leaves open (log entry 7), and the state that has drawn it. -/
def State.draw (s : State) : Nat × State := (Config.freeValue s.free, { s with free := s.free + 1 })

/-- `n` draws. -/
def State.draws : Nat → State → List Nat × State
  | 0, s => ([], s)
  | n + 1, s => let (v, s) := s.draw; let (vs, s) := State.draws n s; (v :: vs, s)

/-- `n` random bytes. -/
def State.drawBytes (n : Nat) (s : State) : Bytes × State := let (v, s) := s.draw; (leBytes n v, s)

/-! ## Two-copy values of non-volatile memory (04 R107, 05 R127) -/

/-- The value two copies give: the valid one; of two valid ones, the one that `pick` chooses; none when both
are invalid. -/
def Copies.get {α : Type} (c : Copies α) (pick : α → α → α) : Option α :=
  match c.aOk, c.bOk with
  | true, true => some (pick c.a c.b)
  | true, false => some c.a
  | false, true => some c.b
  | false, false => none

/-- Both copies written. -/
def Copies.put {α : Type} (v : α) : Copies α := { a := v, b := v }

/-- The start attempt counter as read (04 R107): 3 when both copies are invalid. -/
def State.counter (s : State) : Nat := (s.nvm.counter.get max).getD 3

/-- The larger of two stored byte strings, as little-endian numbers; one that is not enrolled is below every other (log entry 75). -/
def maxBytes (x y : Option Bytes) : Option Bytes :=
  match x, y with
  | some a, some b => if leVal a < leVal b then some b else some a
  | none, y => y
  | x, none => x

/-- The larger of two stored passwords, by their salt and hash as one number (log entry 75). -/
def maxPass (x y : Option (Bytes × Bytes)) : Option (Bytes × Bytes) :=
  match x, y with
  | some a, some b => if leVal (a.1 ++ a.2) < leVal (b.1 ++ b.2) then some b else some a
  | none, y => y
  | x, none => x

/-- The larger of two stored seal patterns; one that is not enrolled is below every other (log entry 75). -/
def maxRun (x y : Option Nat) : Option Nat :=
  match x, y with
  | some a, some b => some (max a b)
  | none, y => y
  | x, none => x

/-- The configuration secrets as read, each by the rule of R107 (05 R127, Table 5.8): one whose copies are both invalid is not
enrolled. -/
def State.secrets (s : State) : Secrets :=
  let x := s.nvm.secrets
  { key := (x.key.get maxBytes).getD none, pass := (x.pass.get maxPass).getD none, run := (x.run.get maxRun).getD none,
    wrong := (x.wrong.get max).getD 0, lock := (x.lock.get max).getD 0 }

/-- The configuration secrets stored, both copies of each written. -/
def Secrets.store (v : Secrets) : SecretStore :=
  { key := Copies.put v.key, pass := Copies.put v.pass, run := Copies.put v.run, wrong := Copies.put v.wrong,
    lock := Copies.put v.lock }

/-- The configuration secrets written. -/
def State.putSecrets (v : Secrets) (s : State) : State := s.onNvm fun n => { n with secrets := v.store }

/-- The active slot (05 R127, Table 5.8): slot 0 when both copies of the role word are invalid. -/
def State.activeSlot (s : State) : Nat := (s.cfg.role.get max).getD 0

/-- The SLB's stored parameters (13 R390): the valid copy. -/
def State.params (s : State) : Safety := (s.nvm.params.get (fun a _ => a)).getD s.nvm.params.a

/-! ## Codes -/

/-- SYS_STATE.STATE (01 R31); OFF, which the register cannot show, is written 0 in records. -/
def St.code : St → Nat
  | .off => 0 | .start => 1 | .commission => 2 | .run => 3 | .degraded => 4 | .halted => 5 | .doldrums => 6

/-- States that permit torque (01 Table 1.3). -/
def St.permits : St → Bool
  | .commission | .run | .degraded => true
  | _ => false

/-! ## Event log (18 R499 to R501) -/

/-- An entry appended to the ring of 4096 (18 R500). -/
def State.logPut (code sev subject data : Nat) (s : State) : State :=
  let e : LogEntry :=
    { time := s.dev, seq := s.ret.logNext, code := code, sev := sev, state := s.sys.state.code,
      subject := subject, data := data % 2 ^ 64 }
  s.onRet fun r =>
    { r with
      log := (if r.log.length < 4096 then r.log else r.log.drop 1) ++ [e]
      logNext := serialNext r.logNext
      logLost := if r.log.length < 4096 then r.logLost else satInc r.logLost }

/-- The REPEATED entries of a second that has ended (18 R501), one per code and subject withheld. -/
def State.flushRepeats (s : State) : State :=
  let held := s.log.reps.filter (fun r => r.held ≠ 0)
  let s := s.onLog fun l => { l with reps := [], second := s.dev / sec }
  s.each held fun r s => s.logPut 0x1101 0 r.subject (fld r.code 0 16 + fld r.held 32 32)

/-- The first repeat record of a code and subject, counted up. -/
def bumpRep (code subject : Nat) : List LogRep → List LogRep
  | [] => [{ code := code, subject := subject, written := 1, held := 0 }]
  | r :: l =>
    if r.code = code ∧ r.subject = subject then
      (if r.written < 16 then { r with written := r.written + 1 } else { r with held := r.held + 1 }) :: l
    else r :: bumpRep code subject l

/-- An event: written, or counted as a repeat (18 R501). Severity TRIP is never withheld. -/
def State.ev (code sev subject data : Nat) (s : State) : State :=
  let s := if s.log.second = s.dev / sec then s else s.flushRepeats
  let full := s.log.reps.any fun r => r.code = code && r.subject = subject && decide (16 ≤ r.written)
  let s := s.onLog fun l =>
    { l with
      reps := if full ∧ sev = 4 then l.reps else bumpRep code subject l.reps
      repeated := if full ∧ sev ≠ 4 then satInc l.repeated else l.repeated }
  if full ∧ sev ≠ 4 then s else s.logPut code sev subject data

/-- An event that Table 18.3 gives no code: its owning block, an open number (log entry 8) and its severity. -/
def State.evName (block : Nat) (name : String) (sev subject data : Nat) (s : State) : State :=
  s.ev (fld block 8 8 + 0x80 + Config.eventNumber name % 128) sev subject data

/-- No subject (18 Table 18.2). -/
def noSub : Nat := 0xFFFF

/-! ## Journal (19 R522) -/

/-- KIND codes (19 Table 19.4). -/
def jFrame : Nat := 1
def jResult : Nat := 2
def jAudit : Nat := 3
def jGeometry : Nat := 4
def jGuard : Nat := 5
def jBeu : Nat := 6
def jSafe : Nat := 7
def jLent : Nat := 8

/-- An entry opens, if the journal has room. -/
def State.jOpen (kind owner seq : Nat) (aux : Bytes) (s : State) : State :=
  s.onRet fun r =>
    if r.journal.length < 16384 then
      { r with journal := r.journal ++ [{ kind := kind, state := 1, owner := owner, seq := seq, aux := aux }] }
    else r

/-- Whether a journal entry is the one of an item. -/
def JEntry.is (kind owner seq : Nat) (e : JEntry) : Bool := e.kind == kind && e.owner == owner && e.seq == seq

/-- The first entry of a list that satisfies a predicate, removed. -/
def dropFirst {α : Type} (p : α → Bool) : List α → List α
  | [] => []
  | a :: l => if p a then l else a :: dropFirst p l

/-- The first entry of a list that satisfies a predicate, changed. -/
def modFirst {α : Type} (p : α → Bool) (f : α → α) : List α → List α
  | [] => []
  | a :: l => if p a then f a :: l else a :: modFirst p f l

/-- An entry closes: it is freed. -/
def State.jClose (kind owner seq : Nat) (s : State) : State :=
  s.onRet fun r => { r with journal := dropFirst (JEntry.is kind owner seq) r.journal }

/-- An entry changes. -/
def State.jMod (kind owner seq : Nat) (f : JEntry → JEntry) (s : State) : State :=
  s.onRet fun r => { r with journal := modFirst (JEntry.is kind owner seq) f r.journal }

/-! ## The working image -/

/-- The admitted image's working copy (05 R103, R157). -/
def State.img (s : State) : Image := s.cfg.img

/-- The CHANNELS record of a channel (16 R465). -/
def Image.chan (i : Image) (c : Nat) : Option ChanRec := i.channels.find? (·.ch == c)

/-- The CHANNELS record bound to a queue (16 R451). -/
def Image.chanOf (i : Image) (q : Nat) : Option ChanRec := i.channels.find? (fun r => r.queue == q && r.queue != 0xFF)

/-- The AUDIT record of a channel (12 Table 12.9). -/
def Image.audit (i : Image) (c : Nat) : Option AudChan := i.audChans.find? (·.ch == c)

/-- The witness records of a channel, in point order (12 Table 12.10). -/
def Image.witsOf (i : Image) (c : Nat) : List WitRec := i.wits.filter (·.ch == c)

/-- The SENSORS record of a stream (06 Table 6.5). -/
def Image.stream (i : Image) (n : Nat) : Option StreamRec := i.streams.find? (·.stream == n)

/-- The VANE record of a class (10 Table 10.6). -/
def Image.cls (i : Image) (n : Nat) : Option ClassRec := i.classes.find? (·.cls == n)

/-- The slot and record of a connection number (14 R423). -/
def Image.conn (i : Image) (n : Nat) : Option (Nat × ConnRec) :=
  (i.messages.conns.zipIdx.find? (fun x => x.1.conn == n)).map fun x => (x.2, x.1)

/-- The record of connection slot `k`. -/
def Image.slot (i : Image) (k : Nat) : Option ConnRec := i.messages.conns[k]?

/-- An option's value, or the state unchanged: an event that names nothing declared has no effect (log entry 3). -/
def State.with {α : Type} (s : State) (o : Option α) (f : α → State → State) : State :=
  match o with
  | some a => f a s
  | none => s

end Sys2Proof.Machine
end

