-- ==== Sys2Proof/Machine/Mem.lean ====
section
/-! DEFINITION. Memory: the address map (16 R446, R447), the canonical byte list, poisoned granules (11 R291, R306),
and reads and writes of byte ranges. -/

namespace Sys2Proof.Machine

/-! ## The canonical list -/

/-- The byte at an address; an address that nothing lists reads 0 (11 R306; log entry 9). -/
def memGet : List Host.Cell → Nat → Byte
  | [], _ => 0
  | c :: r, a => if c.1 = a then c.2 else memGet r a

/-- The list with one byte changed: rising addresses are kept and no zero byte is listed. -/
def memPut : List Host.Cell → Nat → Byte → List Host.Cell
  | [], a, v => if v = 0 then [] else [(a, v)]
  | c :: r, a, v =>
    if a < c.1 then (if v = 0 then c :: r else (a, v) :: c :: r)
    else if a = c.1 then (if v = 0 then r else (a, v) :: r)
    else c :: memPut r a v

/-- Every listed address lies above `lo`, addresses rise strictly, and no listed byte is 0. -/
def memWfFrom : Nat → List Host.Cell → Bool
  | _, [] => true
  | lo, c :: r => decide (lo ≤ c.1) && c.2 != 0 && memWfFrom (c.1 + 1) r

/-- The canonical form of a memory. -/
def Memory.wf (m : List Host.Cell) : Bool := memWfFrom 0 m

/-- The cells of a byte sequence from an address on; zero bytes are not listed. -/
def memCells : Nat → Bytes → List Host.Cell
  | _, [] => []
  | a, b :: r => if b = 0 then memCells (a + 1) r else (a, b) :: memCells (a + 1) r

/-- A byte sequence written from an address on. -/
def memPutAll (m : List Host.Cell) (a : Nat) (bs : Bytes) : List Host.Cell :=
  m.filter (fun c => decide (c.1 < a)) ++ memCells a bs ++ m.filter (fun c => decide (a + bs.length ≤ c.1))

/-- `n` bytes read from an address on, in one pass over a canonical list. -/
def memGetN (m : List Host.Cell) (a : Nat) : Nat → Bytes
  | 0 => []
  | n + 1 =>
    match m.dropWhile (fun c => decide (c.1 < a)) with
    | [] => zeros (n + 1)
    | c :: r => if c.1 = a then c.2 :: memGetN r (a + 1) n else 0 :: memGetN (c :: r) (a + 1) n

/-- The list without the addresses of a range. -/
def memErase (m : List Host.Cell) (lo len : Nat) : List Host.Cell :=
  m.filter fun c => decide (c.1 < lo ∨ lo + len ≤ c.1)

/-! ## Poisoned granules -/

/-- A granule number put into a rising list. -/
def granPut : List Nat → Nat → List Nat
  | [], g => [g]
  | x :: r, g => if g < x then g :: x :: r else if g = x then x :: r else x :: granPut r g

/-- Rising granule numbers. -/
def granWfFrom : Nat → List Nat → Bool
  | _, [] => true
  | lo, x :: r => decide (lo ≤ x) && granWfFrom (x + 1) r

/-- Some granule that a range of bytes touches is poisoned. -/
def State.poisoned (s : State) (a n : Nat) : Bool :=
  n ≠ 0 && s.poison.any fun g => decide (a / 32 ≤ g ∧ g ≤ (a + n - 1) / 32)

/-- A full write of a granule clears its poison (11 R306). -/
def State.unpoison (a n : Nat) (s : State) : State :=
  { s with poison := s.poison.filter fun g => !decide (a ≤ g * 32 ∧ g * 32 + 32 ≤ a + n) }

/-! ## The address map (Table 16.1, Table 16.2) -/

/-- What lies at an address. -/
inductive Region where
  | rom | sp | retention | store | regs | stack (k : Nat) | core (n : Nat)
  deriving DecidableEq, Repr

/-- The region of an address; none outside Table 16.1 (R446). -/
def region (a : Nat) : Option Region :=
  if a < 0x40000 then some .rom
  else if 0x10000000 ≤ a ∧ a < 0x10100000 then some .sp
  else if 0x20000000 ≤ a ∧ a < 0x20100000 then some .retention
  else if 0x100000000 ≤ a ∧ a < 0x100C00000 then some .store
  else if 0x140000000 ≤ a ∧ a < 0x150000000 ∧ (a - 0x140000000) % 0x1000000 < 0x200000 then
    some (.core ((a - 0x140000000) / 0x1000000))
  else if 0x200000000 ≤ a ∧ a < 0x200160000 then some .regs
  else if 0x1000000000 ≤ a ∧ a < 0x1400000000 then some (.stack 0)
  else if 0x1400000000 ≤ a ∧ a < 0x1800000000 then some (.stack 1)
  else none

/-- The base of a stack. -/
def stackBase (k : Nat) : Nat := 0x1000000000 + k * 0x400000000

/-- The region of a range of bytes, all of it in one region. -/
def regionOf (a n : Nat) : Option Region :=
  match region a, region (a + n - 1) with
  | some r, some r' => if r = r' ∧ 0 < n then some r else none
  | _, _ => none

/-- A byte of plain memory: the boot ROM's constant, or the canonical list. -/
def State.peek (s : State) (a : Nat) : Byte := if a < 0x40000 then Config.romByte a else memGet s.mem a

/-- `n` bytes of plain memory. -/
def State.peekN (s : State) (a n : Nat) : Bytes :=
  if a < 0x40000 then (List.range n).map fun i => s.peek (a + i) else memGetN s.mem a n

/-- Bytes of plain memory written; full granules lose their poison. The boot ROM is never written. -/
def State.poke (a : Nat) (bs : Bytes) (s : State) : State :=
  if a < 0x40000 then s else { s with mem := memPutAll s.mem a bs }.unpoison a bs.length

/-- A range of memory lost (11 R306): it reads 0 and holds no poison. -/
def State.wipe (lo len : Nat) (s : State) : State :=
  { s with
    mem := memErase s.mem lo len
    poison := s.poison.filter fun g => !decide (lo ≤ g * 32 ∧ g * 32 + 32 ≤ lo + len) }

/-- A granule marked poisoned (11 R291, R306). -/
def State.markPoison (g : Nat) (s : State) : State := { s with poison := granPut s.poison g }

end Sys2Proof.Machine
end

