-- ==== Sys2Proof/Machine/Formats.lean ====
section
/-! DEFINITION. The number formats of 09 Table 9.1: exact values, their encodings, and the one rounding of
R250 with its limits (R251 to R256). A result comes with its flags (Machine/Flags.lean has their names). -/

namespace Sys2Proof.Machine

/-- An exact value: a dyadic rational `±m·2^e`, an infinity or a NaN (with its sign, and whether it signals). -/
inductive Val where
  | fin (neg : Bool) (m : Nat) (e : Int)
  | inf (neg : Bool)
  | nan (neg sig : Bool)
  deriving DecidableEq, Repr, Inhabited

/-- The quiet NaN. -/
def Val.qnan : Val := .nan false false

/-- Positive zero. -/
def Val.zero : Val := .fin false 0 0

/-- An integer scaled by a power of two. -/
def Val.ofInt (i : Int) (e : Int := 0) : Val := .fin (decide (i < 0)) i.natAbs e

/-- A floating-point format (Table 9.1): exponent and fraction bits, bias, whether it has infinities, whether its NaNs
are IEEE 754's (1), the one code of E4M3 (2) or absent (0), and the code of L. -/
structure FFmt where
  eb   : Nat
  mb   : Nat
  bias : Nat
  inf  : Bool
  nan  : Nat
  top  : Nat
  deriving DecidableEq, Repr, Inhabited

/-- What a format code stands for. -/
inductive Fmt where
  | flt (f : FFmt)
  | int (lo hi : Int) (frac : Nat)
  | mx (f : FFmt) (emax : Nat)
  | mxInt
  deriving DecidableEq, Repr

def fp32 : FFmt := ⟨8, 23, 127, true, 1, 0x7F7FFFFF⟩
def fp16 : FFmt := ⟨5, 10, 15, true, 1, 0x7BFF⟩
def bf16 : FFmt := ⟨8, 7, 127, true, 1, 0x7F7F⟩
def e4m3 : FFmt := ⟨4, 3, 7, false, 2, 0x7E⟩
def e5m2 : FFmt := ⟨5, 2, 15, true, 1, 0x7B⟩
def e3m2 : FFmt := ⟨3, 2, 3, false, 0, 0x1F⟩
def e2m3 : FFmt := ⟨2, 3, 1, false, 0, 0x1F⟩
def e2m1 : FFmt := ⟨2, 1, 1, false, 0, 0x7⟩

/-- The formats by code (Table 9.1). -/
def fmtOf : Nat → Option Fmt
  | 0x00 => some (.flt fp32)
  | 0x01 => some (.flt fp16)
  | 0x02 => some (.flt bf16)
  | 0x03 => some (.flt e4m3)
  | 0x04 => some (.flt e5m2)
  | 0x05 => some (.flt e3m2)
  | 0x06 => some (.flt e2m3)
  | 0x07 => some (.flt e2m1)
  | 0x08 => some (.mx e4m3 8)
  | 0x09 => some (.mx e2m3 2)
  | 0x0A => some (.mx e2m1 2)
  | 0x0B => some .mxInt
  | 0x0C => some (.int (-2147483648) 2147483647 0)
  | 0x0D => some (.int (-32768) 32767 0)
  | 0x0E => some (.int (-128) 127 0)
  | 0x0F => some (.int 0 255 0)
  | 0x10 => some (.int (-8) 7 0)
  | 0x11 => some (.int (-2147483648) 2147483647 16)
  | _ => none

/-- Bits of one element (Table 9.1); 0 for an undefined code. -/
def fmtBits : Nat → Nat
  | 0x00 | 0x0C | 0x11 => 32
  | 0x01 | 0x02 | 0x0D => 16
  | 0x03 | 0x04 | 0x08 | 0x0B | 0x0E | 0x0F => 8
  | 0x05 | 0x06 | 0x09 => 6
  | 0x07 | 0x0A | 0x10 => 4
  | _ => 0

/-- A format whose elements share block scales (R249). -/
def fmtIsMx (c : Nat) : Bool := decide (8 ≤ c ∧ c ≤ 0xB)

/-- An integer format or FX32. -/
def fmtIsInt (c : Nat) : Bool := decide (0xC ≤ c ∧ c ≤ 0x11)

/-- Bytes of one MX block: its scale byte and 32 packed elements (R249). -/
def mxBlockBytes (c : Nat) : Nat := 1 + 4 * fmtBits c

/-- Bytes of a row of `n` elements; every row starts on a byte. -/
def rowBytes (c n : Nat) : Nat := if fmtIsMx c then ceilDiv n 32 * mxBlockBytes c else ceilDiv (n * fmtBits c) 8

/-! ## Decoding -/

/-- The value of a code of a floating-point format. -/
def FFmt.decode (f : FFmt) (ftz : Bool) (code : Nat) : Val :=
  let neg := bit code (f.eb + f.mb)
  let ex := bits code f.mb f.eb
  let fr := code % 2 ^ f.mb
  let allOnes := ex + 1 = 2 ^ f.eb
  if f.nan = 1 ∧ allOnes then
    (if fr = 0 then .inf neg else .nan neg (!bit fr (f.mb - 1)))
  else if f.nan = 2 ∧ allOnes ∧ fr + 1 = 2 ^ f.mb then .nan neg false
  else if ex = 0 then
    (if ftz then .fin neg 0 0 else .fin neg fr (1 - (f.bias : Int) - f.mb))
  else .fin neg (2 ^ f.mb + fr) (ex - (f.bias : Int) - f.mb)

/-! ## Rounding -/

/-- `m / 2^k` rounded to nearest, ties to even (R250). -/
def rne (m k : Nat) : Nat :=
  let d := 2 ^ k
  let q := m / d
  let r := m % d
  if 2 * r > d ∨ (2 * r = d ∧ q % 2 = 1) then q + 1 else q

/-- `m·2^e` as a multiple of `2^q`, rounded. -/
def toQuantum (m : Nat) (e q : Int) : Nat := if q ≤ e then m * 2 ^ (e - q).toNat else rne m (q - e).toNat

/-- `m·2^e` is a multiple of `2^q`. -/
def isQuantum (m : Nat) (e q : Int) : Bool := decide (q ≤ e) || m % 2 ^ (q - e).toNat == 0

/-- `m·2^e ≤ m'·2^e'`. -/
def magLe (m : Nat) (e : Int) (m' : Nat) (e' : Int) : Bool :=
  let b := min e e'
  decide (m * 2 ^ (e - b).toNat ≤ m' * 2 ^ (e' - b).toNat)

/-- ⌊log₂⌋ of `m·2^e`, for a nonzero `m`. -/
def magLog (m : Nat) (e : Int) : Int := (Nat.log2 m : Int) + e

/-- The largest finite value of a format. -/
def FFmt.big (f : FFmt) : Nat × Int :=
  match f.decode false f.top with
  | .fin _ m e => (m, e)
  | _ => (0, 0)

/-- What an overflow gives (Table 9.2). -/
def FFmt.overVal (f : FFmt) (sat neg : Bool) : Val :=
  if f.inf then .inf neg
  else if f.nan = 2 ∧ !sat then .nan neg false
  else .fin neg f.big.1 f.big.2

/-- A value rounded once to a floating-point format, and the flags of R252 to R257 (1 INVALID, 2 OVERFLOW,
4 UNDERFLOW, 8 INEXACT). -/
def FFmt.round (f : FFmt) (sat ftz : Bool) : Val → Val × Nat
  | .nan _ sig => if f.nan = 0 then (.zero, 1) else (.qnan, b2n sig)
  | .inf neg =>
    if f.inf then (.inf neg, 0)
    else if f.nan = 2 ∧ !sat then (.qnan, 1)
    else (.fin neg f.big.1 f.big.2, 10)
  | .fin neg m e =>
    if m = 0 then (.fin neg 0 0, 0)
    else
      let emin : Int := 1 - (f.bias : Int)
      let top := magLog m e
      let q : Int := max (top - f.mb) (emin - f.mb)
      let k := toQuantum m e q
      let x := !isQuantum m e q
      let tiny := !magLe 1 emin k q
      if !magLe k q f.big.1 f.big.2 then (f.overVal sat neg, 10)
      else if ftz ∧ k ≠ 0 ∧ tiny then (.fin neg 0 0, 12)
      else (.fin neg k q, (if x then 8 else 0) ||| (if tiny ∧ x then 4 else 0))

/-- A value rounded once to an integer or fixed-point format with `frac` fraction bits, as the integer stored, and
the flags (R254, R256). -/
def roundInt (lo hi : Int) (frac : Nat) : Val → Int × Nat
  | .nan _ _ => (0, 1)
  | .inf neg => (if neg then lo else hi, 10)
  | .fin neg m e =>
    let k := toQuantum m e (-(frac : Int))
    let x := !isQuantum m e (-(frac : Int))
    let i : Int := if neg then -(k : Int) else k
    if i < lo then (lo, 10) else if hi < i then (hi, 10) else (i, if x then 8 else 0)

/-! ## Encoding -/

/-- The code of a value that a floating-point format represents. -/
def FFmt.encode (f : FFmt) : Val → Nat
  | .nan neg _ =>
    (if f.nan = 2 then 2 ^ (f.eb + f.mb) - 1
     else (2 ^ f.eb - 1) * 2 ^ f.mb + 2 ^ (f.mb - 1)) + flg neg (f.eb + f.mb)
  | .inf neg => (2 ^ f.eb - 1) * 2 ^ f.mb + flg neg (f.eb + f.mb)
  | .fin neg m e =>
    let emin : Int := 1 - (f.bias : Int)
    let s := flg neg (f.eb + f.mb)
    if m = 0 then s
    else
      let q : Int := max (magLog m e - f.mb) (emin - f.mb)
      let k := toQuantum m e q
      if k < 2 ^ f.mb then s + k else s + (q - (emin - f.mb)).toNat * 2 ^ f.mb + k

/-- A value rounded to FP32. -/
def to32 (ftz : Bool) (v : Val) : Val × Nat := fp32.round true ftz v

/-- The value of an FP32 pattern. -/
def of32 (ftz : Bool) (code : Nat) : Val := fp32.decode ftz code

/-! ## Exact arithmetic (R251, R254) -/

/-- Whether a NaN operand signals. -/
def Val.sig : Val → Bool
  | .nan _ s => s
  | _ => false

/-- Whether a value is a NaN. -/
def Val.isNan : Val → Bool
  | .nan _ _ => true
  | _ => false

/-- Whether a value is an infinity. -/
def Val.isInf : Val → Bool
  | .inf _ => true
  | _ => false

/-- Whether a value is zero. -/
def Val.isZero : Val → Bool
  | .fin _ 0 _ => true
  | _ => false

/-- The sign. -/
def Val.neg : Val → Bool
  | .fin n _ _ => n
  | .inf n => n
  | .nan n _ => n

/-- The negated value. -/
def Val.negate : Val → Val
  | .fin n m e => .fin (!n) m e
  | .inf n => .inf (!n)
  | .nan n s => .nan n s

/-- The exact sum; equal and opposite values give +0. -/
def Val.add (a b : Val) : Val × Nat :=
  match a, b with
  | .nan _ s, y => (.qnan, b2n (s || y.sig))
  | x, .nan _ s => (.qnan, b2n (s || x.sig))
  | .inf n, .inf n' => if n = n' then (.inf n, 0) else (.qnan, 1)
  | .inf n, _ => (.inf n, 0)
  | _, .inf n => (.inf n, 0)
  | .fin n m e, .fin n' m' e' =>
    let b := min e e'
    let x : Int := m * 2 ^ (e - b).toNat
    let y : Int := m' * 2 ^ (e' - b).toNat
    let z : Int := (if n then -x else x) + (if n' then -y else y)
    (.fin (if z = 0 then n && n' else decide (z < 0)) z.natAbs b, 0)

/-- The exact product. -/
def Val.mul (a b : Val) : Val × Nat :=
  match a, b with
  | .nan _ s, y => (.qnan, b2n (s || y.sig))
  | x, .nan _ s => (.qnan, b2n (s || x.sig))
  | .inf n, y => if y.isZero then (.qnan, 1) else (.inf (n != y.neg), 0)
  | x, .inf n => if x.isZero then (.qnan, 1) else (.inf (n != x.neg), 0)
  | .fin n m e, .fin n' m' e' => (.fin (n != n') (m * m') (e + e'), 0)

/-- The value times a power of two. -/
def Val.scale (k : Int) : Val → Val
  | .fin n m e => .fin n m (e + k)
  | v => v

/-- `a < b` on values that are no NaN, with -0 below +0. -/
def Val.lt (a b : Val) : Bool :=
  match a, b with
  | .nan _ _, _ => false
  | _, .nan _ _ => false
  | .inf n, .inf n' => n && !n'
  | .inf n, _ => n
  | _, .inf n' => !n'
  | .fin n m e, .fin n' m' e' =>
    match n, n' with
    | true, false => true
    | false, true => false
    | false, false => !magLe m' e' m e
    | true, true => !magLe m e m' e'

/-- `a < b` as numbers: the two zeros are equal. -/
def Val.below (a b : Val) : Bool := a.lt b && !(a.isZero && b.isZero)

/-- The larger (`up`) or smaller of two values; a NaN operand gives the quiet NaN (R254). -/
def Val.pick (up : Bool) (a b : Val) : Val × Nat :=
  if a.isNan ∨ b.isNan then (.qnan, b2n (a.sig || b.sig))
  else if (a.lt b) = up then (b, 0) else (a, 0)

/-! ## Elements in memory (R249) -/

/-- `w` bits at bit offset `o` of a byte sequence, little-endian. -/
def bitField (bs : Bytes) (o w : Nat) : Nat := bits (leVal (sub bs (o / 8) (ceilDiv (o % 8 + w) 8))) (o % 8) w

/-- The integer a code of an integer format stands for. -/
def intOf (c code : Nat) : Int := if c = 0x0F then code else toSigned (fmtBits c) code

/-- One element as memory holds it: the scale byte of its block (0 outside MX) and its code. -/
abbrev Elem := Nat × Nat

/-- Whether a value is a nonzero FP32 subnormal. -/
def Val.tiny : Val → Bool
  | .fin _ m e => m ≠ 0 && decide (magLog m e < -126)
  | _ => false

/-- The element of an MX block: element times `2^(X - 127)`, rounded to FP32 (R255). Under FTZ an operand that is subnormal,
as an element or as its FP32 value, is read as zero without a flag (R252; log entry 17). -/
def mxDecode (c : Nat) (ftz : Bool) (scale code : Nat) : Val × Nat :=
  if scale = 0xFF then (.qnan, 0)
  else
    let (v, fl) := match fmtOf c with
      | some (.mx f _) => to32 false ((f.decode ftz code).scale ((scale : Int) - 127))
      | _ => to32 false (Val.ofInt (toSigned 8 code) ((scale : Int) - 133))
    if ftz && v.tiny then (.fin v.neg 0 0, 0) else (v, fl)

/-- Element `i` of a row. -/
def rawElem (c : Nat) (row : Bytes) (i : Nat) : Elem :=
  if fmtIsMx c then
    let o := i / 32 * mxBlockBytes c
    ((getN row o).toNat, bitField (row.drop (o + 1)) (i % 32 * fmtBits c) (fmtBits c))
  else (0, bitField row (i * fmtBits c) (fmtBits c))

/-- An element as an exact value, and the flags of its decoding. -/
def decodeElem (c : Nat) (ftz : Bool) (x : Elem) : Val × Nat :=
  match fmtOf c with
  | some (.flt f) => (f.decode ftz x.2, 0)
  | some (.int _ _ fr) => (Val.ofInt (intOf c x.2) (-(fr : Int)), 0)
  | some _ => mxDecode c ftz x.1 x.2
  | none => (.zero, 0)

/-- Element `i` of a row as an exact value, and the flags of its decoding. -/
def elemVal (c : Nat) (ftz : Bool) (row : Bytes) (i : Nat) : Val × Nat := decodeElem c ftz (rawElem c row i)

/-- Codes of `w` bits packed little-endian. -/
def packBits (w : Nat) (codes : List Nat) : Bytes :=
  leBytes (ceilDiv (codes.length * w) 8) (codes.foldr (fun c acc => c % 2 ^ w + 2 ^ w * acc) 0)

/-- The scale exponent of a block being encoded (R255). -/
def mxExp (vs : List Val) (emax : Nat) : Int :=
  let amax := vs.foldl (fun a v => match v with
    | .fin _ m e => if m = 0 then a else max a (magLog m e)
    | _ => a) (-100000)
  max (-127) (min 127 (amax - emax))

/-- An MX block of up to 32 values encoded, with its flags; the element codes of a block with a special value are open
(log entry 17). An element that rounds to a subnormal is flushed under FTZ (R252). -/
def mxEncode (c : Nat) (ftz : Bool) (vs : List Val) : Bytes × Nat :=
  let special := (if vs.any Val.isNan then 1 else 0) ||| (if vs.any Val.isInf then 2 else 0)
  if special ≠ 0 then
    (0xFF :: packBits (fmtBits c) (vs.map fun _ => Config.mxSpecial), special)
  else
    let emax := match fmtOf c with
      | some (.mx _ e) => e
      | _ => 0
    let x := mxExp vs emax
    let rs := vs.map fun v =>
      match fmtOf c with
      | some (.mx f _) => let (r, fl) := f.round true ftz (v.scale (-x)); (f.encode r, fl)
      | _ => let (r, fl) := roundInt (-127) 127 6 (v.scale (-x)); (ofSigned 8 r, fl)
    (byte (x + 127).toNat :: packBits (fmtBits c) (rs.map (·.1)), rs.foldl (fun a r => a ||| r.2) 0)

/-- The blocks of a row. -/
def mxRow (c : Nat) (ftz : Bool) : Nat → List Val → Bytes × Nat
  | 0, _ => ([], 0)
  | n + 1, vs =>
    if vs.isEmpty then ([], 0)
    else
      let (b, fl) := mxEncode c ftz (vs.take 32)
      let (r, fl') := mxRow c ftz n (vs.drop 32)
      (b ++ r, fl ||| fl')

/-- The elements that fill a row's bytes, in order. -/
def rowElems (c n : Nat) (row : Bytes) : List Elem := (List.range n).map (rawElem c row)

/-- Elements of one MX block laid down as they stand, behind the block's scale byte. -/
def packBlocks (c : Nat) : Nat → List Elem → Bytes
  | 0, _ => []
  | n + 1, l =>
    if l.isEmpty then []
    else byte (l.headD (0, 0)).1 :: packBits (fmtBits c) ((l.take 32).map (·.2)) ++ packBlocks c n (l.drop 32)

/-- A row of elements laid down as they stand: nothing is rounded (R250). -/
def packRow (c : Nat) (l : List Elem) : Bytes :=
  if fmtIsMx c then packBlocks c (l.length / 32 + 1) l else packBits (fmtBits c) (l.map (·.2))

/-- The bytes a digest covers of a row: every element in whole bytes, with a block's scale byte before its elements (log entry
18). -/
def digestRow (c : Nat) (l : List Elem) : Bytes :=
  if fmtIsMx c then packRow c l else l.flatMap fun x => leBytes (ceilDiv (fmtBits c) 8) x.2

/-- A row of values rounded once to a format (R250): its elements and its flags. -/
def storeRow (c : Nat) (sat ftz : Bool) (vs : List Val) : List Elem × Nat :=
  match fmtOf c with
  | some (.flt f) =>
    let rs := vs.map fun v => let (r, fl) := f.round sat ftz v; (f.encode r, fl)
    (rs.map fun r => (0, r.1), rs.foldl (fun a r => a ||| r.2) 0)
  | some (.int lo hi fr) =>
    let rs := vs.map (roundInt lo hi fr)
    (rs.map fun r => (0, ofSigned (fmtBits c) r.1), rs.foldl (fun a r => a ||| r.2) 0)
  | some _ => let (b, fl) := mxRow c ftz (vs.length / 32 + 1) vs; (rowElems c vs.length b, fl)
  | none => ([], 0)

/-- One value rounded and stored as a code, with its flags. -/
def storeOne (c : Nat) (sat ftz : Bool) (v : Val) : Nat × Nat :=
  match fmtOf c with
  | some (.flt f) => let (r, fl) := f.round sat ftz v; (f.encode r, fl)
  | some (.int lo hi fr) => let (r, fl) := roundInt lo hi fr v; (ofSigned (fmtBits c) r, fl)
  | _ => (0, 0)

/-- The value of a code of a format without blocks. -/
def codeVal (c code : Nat) : Val :=
  match fmtOf c with
  | some (.flt f) => f.decode false code
  | some (.int _ _ fr) => Val.ofInt (intOf c code) (-(fr : Int))
  | _ => .zero

/-! ## Distance in units in the last place (R258) -/

/-- The position of a code on the ordered line of its format. -/
def FFmt.line (f : FFmt) (code : Nat) : Int :=
  let m := code % 2 ^ (f.eb + f.mb)
  if bit code (f.eb + f.mb) then -(m : Int) else m

/-- An element as a descriptor with FTZ reads it: a subnormal is zero of the same sign (R252). -/
def flushElem (c : Nat) (ftz : Bool) (x : Elem) : Elem :=
  let f? := match fmtOf c with
    | some (.flt f) => some f
    | some (.mx f _) => some f
    | _ => none
  match f? with
  | some f => if ftz && bits x.2 f.mb f.eb == 0 then (x.1, x.2 / 2 ^ f.mb * 2 ^ f.mb) else x
  | none => x

/-- Two elements match within `tol` units in the last place. -/
def ulpMatch (c tol : Nat) (ftz : Bool) (a b : Elem) : Bool :=
  let cmpF (f : FFmt) (a b : Nat) : Bool :=
    let va := f.decode false a
    let vb := f.decode false b
    if va.isNan ∨ vb.isNan then va.isNan && vb.isNan
    else if va.isInf ∨ vb.isInf then decide (va = vb)
    else decide ((f.line a - f.line b).natAbs ≤ tol)
  match fmtOf c with
  | some (.flt f) => cmpF f (flushElem c ftz a).2 (flushElem c ftz b).2
  | some (.int _ _ _) => decide ((intOf c a.2 - intOf c b.2).natAbs ≤ tol)
  | some _ => cmpF fp32 (fp32.encode (decodeElem c ftz a).1) (fp32.encode (decodeElem c ftz b).1)
  | none => false

end Sys2Proof.Machine
end

