-- ==== Sys2Proof/Machine/Flags.lean ====
section
/-! DEFINITION. The four sticky flags of a descriptor (09 R257, 08 Table 8.5) and accumulation with its flags
(09 R250, R255, R256). -/

namespace Sys2Proof.Machine

/-- Bits of FPFLAGS. -/
def fpInvalid : Nat := 1
def fpOverflow : Nat := 2
def fpUnderflow : Nat := 4
def fpInexact : Nat := 8

/-- A value with the sticky flags so far. -/
structure Acc where
  val : Val
  fp  : Nat
  deriving DecidableEq, Repr, Inhabited

/-- One accumulation step in FP32: `acc ← round(a × b + acc)`, one rounding (R250). -/
def Acc.fma (ftz : Bool) (acc : Acc) (a b : Val) : Acc :=
  let (p, f1) := a.mul b
  let (x, f2) := p.add acc.val
  let (r, f3) := to32 ftz x
  { val := r, fp := acc.fp ||| f1 ||| f2 ||| f3 }

/-- An INT32 accumulator and its flags. -/
structure AccI where
  val : Int
  fp  : Nat
  deriving DecidableEq, Repr, Inhabited

/-- One accumulation step in INT32, modulo 2³²; a step that wraps sets OVERFLOW (R256). -/
def AccI.fma (acc : AccI) (a b : Int) : AccI :=
  let x := acc.val + a * b
  let w := toSigned 32 (ofSigned 32 x)
  { val := w, fp := acc.fp ||| if w = x then 0 else fpOverflow }

/-- The flags of several results together. -/
def fpJoin (l : List Nat) : Nat := l.foldl (· ||| ·) 0

/-- The output scale of MATMUL and CONV2D: one FP32 multiply of the accumulator, rounded to FP32 (R250). -/
def outScale (ftz : Bool) (scale : Nat) (acc : Acc) : Acc :=
  let (p, f1) := acc.val.mul (of32 ftz scale)
  let (r, f2) := to32 ftz p
  { val := r, fp := acc.fp ||| f1 ||| f2 }

/-! ## THRESH and PWL16 (11 R296; log entry 21) -/

/-- The value itself above a threshold, else +0; a NaN operand gives NaN. -/
def threshF (p x : Val) : Val × Nat := if x.isNan then (.qnan, b2n x.sig) else (if p.below x then x else .zero, 0)

/-- A table of 16 segments, its words by byte offset: the exact `s_k × x + c_k` of the segment that holds the value; a NaN
operand gives NaN. -/
def pwlF (w : Nat → Val) (x : Val) : Val × Nat :=
  if x.isNan then (.qnan, b2n x.sig)
  else
    let k := ((List.range 15).find? fun i => !((w (4 * i)).below x)).getD 15
    let (y, f1) := (w (64 + 8 * k)).mul x
    let (z, f2) := y.add (w (68 + 8 * k))
    (z, f1 ||| f2)

end Sys2Proof.Machine
end

