-- ==== Sys2Proof/Machine/HostOps.lean ====
section
/-! DEFINITION. Shared operations of the host block: wakes (17 R480), channel faults (16 R463), the firewalls and
locks (16 R458 to R460), completion rings and message-signalled interrupts (16 R453, R454). -/

namespace Sys2Proof.Machine

/-! ## Events without a code -/

/-- An event that neither Table 18.3 nor its chapter gives a code or a severity (log entry 8). -/
def State.evOpen (block : Nat) (name : String) (subject data : Nat) (s : State) : State :=
  s.evName block name (Config.eventSeverity name % 5) subject data

/-! ## Modifiers of register files -/

/-- Change host queue `q`. -/
def State.onQ (q : Nat) (f : HQueue → HQueue) (s : State) : State := s.onHq fun h => { h with queues := modN h.queues q f }

/-- Change delivery ring `n`. -/
def State.onRing (n : Nat) (f : DRing → DRing) (s : State) : State := s.onHq fun h => { h with rings := modN h.rings n f }

/-- Change supervised channel `c`. -/
def State.onChan (c : Nat) (f : TChan → TChan) (s : State) : State := s.onTsu fun u => { u with chans := modN u.chans c f }

/-- Host queue `q`. -/
def State.hqueue (s : State) (q : Nat) : HQueue := getN s.hq.queues q

/-- Supervised channel `c`. -/
def State.tchan (s : State) (c : Nat) : TChan := getN s.tsu.chans c

/-! ## Wakes (17 R472, R480) -/

/-- Lull or Calm: the audit cluster and the FGU are off. -/
def PState.deep : PState → Bool
  | .lull | .calm => true
  | _ => false

/-- The cluster is in, or entering, a deep state, or waking from one. -/
def Psm.asleep (p : Psm) : Bool := p.state.deep || (p.entering.any fun e => e.1.deep) || p.waking.isSome

/-- A stack leaves self-refresh (R474); a temperature above 95 °C that it has reached meanwhile makes it HOT now (11 R294, Table
17.5). -/
def Stack.awake (k : Stack) : Stack :=
  let heat := k.selfRefresh && !k.hot && decide (95 < k.temp)
  { k with selfRefresh := false, hot := k.hot || heat, events := k.events ||| (if heat then 2 else 0) }

/-- An unannounced wake (R480): it begins at once, aborts an entry (Table 17.5), and a planned wake of the same instant
is counted as unannounced. DOLDRUMS stays in Calm (R475). -/
def State.wake (s : State) : State :=
  if s.sys.state = .doldrums then s
  else
  match s.psm.waking with
  | some (i, planned) =>
    if planned ∧ i = s.now then
      s.onPsm fun p =>
        { p with waking := some (i, false), planned := p.planned - 1, unann := satAdd 16 p.unann 1 }
    else s
  | none =>
    if s.psm.state.deep ∨ (s.psm.entering.any fun e => e.1.deep) then
      s.onPsm fun p => { p with entering := none, waking := some (s.now, false), unann := satAdd 16 p.unann 1 }
    else s

/-! ## Channel faults (16 R463) -/

/-- A channel fault: CAUSE keeps the first cause, every cause is counted and logged; the bound queue shows the
fault, and HOLD is set where the record sets FAULT_HOLD. -/
def State.chFault (c cause : Nat) (s : State) : State :=
  let first := !(s.tchan c).fault
  let s := s.onTsu fun u => { u with faults := satInc u.faults, events := u.events ||| 1 }
  let s := s.onChan c fun x =>
    { x with fault := true, cause := if x.fault then x.cause else cause, causeAt := s.now }
  let s := s.evOpen 0x0D "CHANNEL_FAULT" c cause
  s.with (s.img.chan c) fun r s =>
    if r.queue < 64 then
      s.onQ r.queue fun h =>
        { h with
          chFault := true
          cause := if first then cause else h.cause
          hold := h.hold || bit r.flags 0 }
    else s

/-! ## Firewalls (16 R458, R459) -/

/-- The rules of an identity in the FIREWALL section. Those of the identities from 512 up are fixed by firmware (Table 16.5): the cores'
accesses under them are confined by `coreWall`, and the start-up test initiator makes no access outside the start's own tests. -/
def State.rulesOf (s : State) (ident : Nat) : List Rule := s.img.rules.filter (·.ident == ident)

/-- A rule covers a range of bytes in a direction. -/
def Rule.grants (r : Rule) (write : Bool) (a n : Nat) : Bool :=
  bit r.perm (b2n write) && decide (r.base ≤ a ∧ a + n ≤ r.base + r.pages * 4096)

/-- A range meets a locked range (R458, R460). -/
def State.lockHit (s : State) (a n : Nat) : Bool := s.fwl.locks.any fun l => decide (l.lo < a + n ∧ a < l.lo + l.len)

/-- How the firewall answers an access. -/
inductive Wall where
  | pass | refused | locked
  deriving DecidableEq, Repr

/-- The firewall's answer (R458). -/
def State.wall (s : State) (ident : Nat) (write : Bool) (a n : Nat) : Wall :=
  if !((s.rulesOf ident).any fun r => r.grants write a n) then .refused
  else if write ∧ s.lockHit a n then .locked
  else .pass

/-- What every refusal does (R459): the violation registers, the event, and for a supervised identity the channel
fault. The entry's subject is the channel of a supervised identity. -/
def State.refuse (ident : Nat) (write locked : Bool) (a : Nat) (s : State) : State :=
  let s := s.onFwl fun f =>
    { f with ident := ident, write := write, locked := locked, addr := a, count := satInc f.count, seen := true }
  let s := s.ev 0x0E01 3 (if ident < 512 then ident else noSub) (fld a 0 40 + flg write 50 + flg locked 51)
  if ident < 512 then s.chFault ident (if locked then 7 else 6) else s

/-- An access checked; the refusal's effects where it is refused. -/
def State.check (ident : Nat) (write : Bool) (a n : Nat) (s : State) : Bool × State :=
  match s.wall ident write a n with
  | .pass => (true, s)
  | .refused => (false, s.refuse ident write false a)
  | .locked => (false, s.refuse ident write true a)

/-- The entries of the lock table that are free (R460, R469). -/
def State.locksFree (s : State) : Nat := 8192 - s.fwl.locks.length

/-- A range widened outward to 64-byte granules (R460). -/
def widen (q seq a n : Nat) : Lock := { q := q, seq := seq, lo := a / 64 * 64, len := roundUp (a + n) 64 - a / 64 * 64 }

/-- The locks of a result released. -/
def State.unlock (q seq : Nat) (s : State) : State :=
  s.onFwl fun f => { f with locks := f.locks.filter fun l => !(l.q == q && l.seq == seq) }

/-! ## Interrupts and completion rings (16 R453, R454) -/

/-- The host link is up: its clock is within its window (03 R77, Table 3.3). -/
def State.linkUp (s : State) : Bool := s.clk.pcieOk

/-- A signal on vector `q`. -/
def State.msi (q : Nat) (s : State) : State :=
  (s.onQ q fun h => { h with unsig := 0, firstAt := none }).send (.msix q)

/-- A signal on vector `q` where one is due: COUNT entries posted, or TIME_US passed since the first (R454). -/
def State.msiDue (q : Nat) (s : State) : State :=
  let h := s.hqueue q
  let due := decide (h.irqCount ≤ h.unsig) || s.pastOpt h.firstAt (h.irqTime * 1000)
  if h.unsig ≠ 0 ∧ !h.irqMask ∧ due then s.msi q else s

/-- One more completion counted for vector `q`. -/
def State.msiPost (q : Nat) (s : State) : State :=
  (s.onQ q fun h =>
    { h with unsig := h.unsig + 1, firstAt := (match h.firstAt with | some i => some i | none => some s.now) }).msiDue q

/-- The entries of the completion ring that are free, counted from CQ_HEAD (R452). -/
def HQueue.free (h : HQueue) : Nat := 2 ^ h.cqLog - h.cqUsed

/-- A completion entry written into the next slot with the phase bit (R453). `entry` holds its 16 bytes with the phase
bit clear; STATUS is byte 4 (12 Table 12.8). -/
def State.cqWrite (q : Nat) (entry : Bytes) (s : State) : State :=
  let h := s.hqueue q
  let e := setN entry 4 (getN entry 4 ||| byte (fld (b2n h.phase) 7 1))
  let wrap := h.cqTail + 1 = 2 ^ h.cqLog
  let s := s.onQ q fun h =>
    { h with
      cqTail := if wrap then 0 else h.cqTail + 1
      phase := if wrap then !h.phase else h.phase
      cqUsed := h.cqUsed + 1 }
  (s.send (.hostWrite (h.cqBase + h.cqTail * 16) e)).msiPost q

/-- Completions that wait are posted while an entry is free; with the link down a post is not repeated (R453). A
recovery completion waits for the queue to be enabled, and closes its journal entry when it is posted (19 R528). -/
def State.cqDrainN : Nat → Nat → State → State
  | 0, _, s => s
  | n + 1, q, s =>
    match (s.hqueue q).recov with
    | [] => s
    | c :: r =>
      if c.recovery ∧ (!s.linkUp ∨ !(s.hqueue q).en) then s
      else if (s.hqueue q).free = 0 then s
      else
        let s := s.onQ q fun h => { h with recov := r }
        let s := if s.linkUp then s.cqWrite q c.entry else s
        let s := if c.recovery then s.jClose jResult q c.seq else s
        State.cqDrainN n q s

/-- Every completion of queue `q` that can be posted now. -/
def State.cqDrain (q : Nat) (s : State) : State := s.cqDrainN (s.hqueue q).recov.length q

/-- A completion posted: recovery completions go first (19 R528), and nothing is overwritten. -/
def State.cqPost (q : Nat) (entry : Bytes) (s : State) : State :=
  (s.onQ q fun h => { h with recov := h.recov ++ [{ entry := entry, recovery := false, seq := 0 }] }).cqDrain q

end Sys2Proof.Machine
end

