-- ==== Sys2Proof/Machine/Operands.lean ====
section
/-! DEFINITION. The operands of audit descriptors: their 64 bytes (08 Table 8.2), extents, the rejection rules of
R219, R220 and 10 R268, the cost model of R223, and the transforms of 10 Table 10.1. -/

namespace Sys2Proof.Machine

/-- Operation codes (Table 8.3). -/
def opMatmul : Nat := 1
def opConv : Nat := 2
def opElt : Nat := 3
def opAct : Nat := 4
def opReduce : Nat := 5
def opGather : Nat := 6
def opScatter : Nat := 7
def opTransform : Nat := 8
def opChecksum : Nat := 9
def opCompare : Nat := 0xA

/-- Bits of FLAGS (Table 8.2). -/
def Desc.ordered (d : Desc) : Bool := bit d.flags 0
def Desc.ftz (d : Desc) : Bool := bit d.flags 1
def Desc.sat (d : Desc) : Bool := bit d.flags 2
def Desc.digest (d : Desc) : Bool := bit d.flags 3
def Desc.untrusted (d : Desc) : Bool := bit d.flags 4
def Desc.serial (d : Desc) : Bool := bit d.flags 6

/-- The first 60 bytes of a descriptor and its DCRC (Table 8.2). -/
def Desc.bytes (d : Desc) : Bytes :=
  withCrc (leBytes 1 d.op ++ leBytes 1 d.subop ++ leBytes 1 d.fmtA ++ leBytes 1 d.fmtB ++ leBytes 1 d.fmtOut ++
    leBytes 1 d.xform ++ leBytes 2 d.flags ++ leBytes 4 d.job ++ leBytes 2 d.index ++ leBytes 2 d.ident ++
    leBytes 5 d.srcA ++ leBytes 5 d.srcB ++ leBytes 5 d.dst ++ leBytes 1 d.cls ++ leBytes 2 d.m ++ leBytes 2 d.n ++
    leBytes 2 d.k ++ leBytes 2 d.c ++ leBytes 4 d.strideA ++ leBytes 4 d.strideB ++ leBytes 4 d.strideD ++
    leBytes 8 d.param)

/-- A descriptor read from 64 bytes. -/
def Desc.parse (b : Bytes) : Desc :=
  { op := leAt b 0 1, subop := leAt b 1 1, fmtA := leAt b 2 1, fmtB := leAt b 3 1, fmtOut := leAt b 4 1,
    xform := leAt b 5 1, flags := leAt b 6 2, job := leAt b 8 4, index := leAt b 12 2, ident := leAt b 14 2,
    srcA := leAt b 16 5, srcB := leAt b 21 5, dst := leAt b 26 5, cls := leAt b 31 1, m := leAt b 32 2,
    n := leAt b 34 2, k := leAt b 36 2, c := leAt b 38 2, strideA := leAt b 40 4, strideB := leAt b 44 4,
    strideD := leAt b 48 4, param := leAt b 52 8, crcOk := Sys2Proof.Machine.crcOk (b.take 64) }

/-- The layout that a pass gives its operands and its result (10 R265, R266): a transform, CHPERM's numbers, and the banks by
which the result is moved. -/
structure View where
  x   : Nat := 0
  q   : Nat := 1
  r   : Nat := 0
  rot : Nat := 0
  deriving DecidableEq, Repr, Inhabited

/-- A matrix in memory: format, base, stride, rows and elements of a row, the channels of a row's entries, and its layout. -/
structure Mat where
  fmt    : Nat
  base   : Nat
  stride : Nat
  rows   : Nat
  cols   : Nat
  ch     : Nat := 1
  view   : View := {}
  deriving DecidableEq, Repr, Inhabited

/-- The bytes from the first to the last of a matrix. -/
def Mat.extent (m : Mat) : Nat := (m.rows - 1) * m.stride + rowBytes m.fmt m.cols

/-- CONV2D parameters (Table 8.3): kernel height and width, strides, padding and dilation. -/
structure ConvP where
  kh : Nat
  kw : Nat
  sy : Nat
  sx : Nat
  pad : Nat
  dil : Nat
  deriving DecidableEq, Repr

def convOf (p : Nat) : ConvP :=
  { kh := bits p 0 4 + 1, kw := bits p 4 4 + 1, sy := bits p 8 2 + 1, sx := bits p 10 2 + 1, pad := bits p 12 4,
    dil := bits p 16 4 + 1 }

/-- Rows or columns of a CONV2D input for `o` of its output. -/
def convIn (o s k dil pad : Nat) : Nat := (o - 1) * s + (k - 1) * dil + 1 - 2 * pad

/-- Operand A. CONV2D reads its input as rows of columns of channels (log entry 19). -/
def Desc.matA (d : Desc) : Mat :=
  let p := convOf d.param
  let rc : Nat × Nat × Nat :=
    if d.op = opMatmul then (d.m, d.k, 1)
    else if d.op = opConv then (convIn d.m p.sy p.kh p.dil p.pad, convIn d.n p.sx p.kw p.dil p.pad * d.k, d.k)
    else if d.op = opGather then (d.k, d.n, 1)
    else if d.op = opTransform then (d.m, d.n * d.c, d.c)
    else (d.m, d.n, 1)
  { fmt := d.fmtA, base := d.srcA, stride := d.strideA, rows := rc.1, cols := rc.2.1, ch := rc.2.2 }

/-- ACT with the table of PWL16 at SRC_B. -/
def Desc.pwl (d : Desc) : Bool := d.op == opAct && d.subop == 5

/-- Operand B, where the operation has one. -/
def Desc.matB (d : Desc) : Option Mat :=
  let p := convOf d.param
  let mk (f r c : Nat) : Option Mat := some { fmt := f, base := d.srcB, stride := d.strideB, rows := r, cols := c }
  if d.op = opMatmul then mk d.fmtB d.k d.n
  else if d.op = opConv then (mk d.fmtB d.c (p.kh * p.kw * d.k)).map fun m => { m with ch := d.k }
  else if d.pwl then some { fmt := 0, base := d.srcB, stride := 256, rows := 1, cols := 64 }
  else if d.op = opElt ∧ d.subop ≠ 5 then mk d.fmtB d.m d.n
  else if d.op = opGather ∨ d.op = opScatter then mk 0x0C d.m 1
  else if d.op = opCompare then mk d.fmtB d.m d.n
  else none

/-- The result, where the operation writes one. -/
def Desc.matD (d : Desc) : Option Mat :=
  let mk (f r c : Nat) : Option Mat := some { fmt := f, base := d.dst, stride := d.strideD, rows := r, cols := c }
  let wide : Option Mat := (mk d.fmtOut d.m (d.n * d.c)).map fun m => { m with ch := d.c }
  if d.op = opConv then wide
  else if d.op = opReduce then mk d.fmtOut 1 (if bit d.param 0 then d.n else d.m)
  else if d.op = opScatter then mk d.fmtOut d.k d.n
  else if d.op = opTransform then wide
  else if d.op = opChecksum then (if d.subop = 0 then mk d.fmtOut 1 (d.m + d.n) else none)
  else if d.op = opCompare then mk 0x0C 1 2
  else mk d.fmtOut d.m d.n

/-- A defined SUBOP (Table 8.3). -/
def Desc.subopOk (d : Desc) : Bool :=
  match d.op with
  | 1 | 2 | 6 => d.subop == 0
  | 3 | 4 => d.subop ≤ 5
  | 5 | 8 => d.subop ≤ 3
  | 7 | 9 | 10 => d.subop ≤ 2
  | _ => false

/-- Format pairs of MATMUL and CONV2D (R219): equal, or INT8 with INT4, and never INT32 or FX32. -/
def pairOk (a b : Nat) : Bool :=
  a ≠ 0x0C && a ≠ 0x11 && b ≠ 0x0C && b ≠ 0x11 && (a == b || (a == 0x0E && b == 0x10) || (a == 0x10 && b == 0x0E))

/-- A whole matrix lies in the address map and outside local windows (R220). -/
def Mat.inMap (m : Mat) : Bool :=
  match regionOf m.base m.extent with
  | some (.core _) => false
  | some _ => true
  | none => false

/-- Two matrices' extents overlap. -/
def Mat.meets (a b : Mat) : Bool := decide (a.base < b.base + b.extent ∧ b.base < a.base + a.extent)

/-- The last logical dimension of an MX matrix is a multiple of a block (R249): a pixel's channels in CONV2D and TRANSFORM, else the
columns. -/
def Mat.mxOk (m : Mat) (last : Nat) : Bool := !fmtIsMx m.fmt || last % 32 == 0

/-- The last logical dimension of a source, or of the result. -/
def Desc.lastDim (d : Desc) (out : Bool) (cols : Nat) : Nat :=
  if d.op = opConv then (if out then d.c else d.k) else if d.op = opTransform ∧ d.c ≠ 1 then d.c else cols

/-- DST may equal SRC_A with equal strides for ELTWISE, ACT and TRANSFORM CONVERT (R220). -/
def Desc.inPlace (d : Desc) : Bool :=
  (d.op == opElt || d.op == opAct || (d.op == opTransform && d.subop == 2)) && d.dst == d.srcA && d.strideD == d.strideA

/-- Bits of PARAM that an operation gives no meaning are reserved (Table 8.3, R220; log entry 19). -/
def Desc.paramOk (d : Desc) : Bool :=
  let w : Nat :=
    if d.op = opMatmul ∨ (d.op = opElt ∧ d.subop = 5) ∨ (d.op = opAct ∧ (d.subop = 1 ∨ d.subop = 4))
        ∨ (d.op = opChecksum ∧ d.subop = 2) ∨ (d.op = opCompare ∧ d.subop ≠ 0) then 32
    else if d.op = opConv ∨ (d.op = opAct ∧ d.subop = 3) then 64
    else if d.op = opReduce then 1
    else 0
  decide (d.param < 2 ^ w) && (d.op != opConv || bits d.param 20 12 == 0)

/-- A TOLERANCE class sends one or two FX32 elements (10 R268). -/
def Desc.tolBad (tol : Bool) (d : Desc) : Bool := tol && (d.fmtOut ≠ 0x11 || 2 < d.m * d.n * d.c)

/-- A core rejects the descriptor before any access (R220, R219, R249, 10 R268). `tol` says that its class compares
under TOLERANCE. -/
def Desc.error (tol : Bool) (d : Desc) : Bool :=
  let a := d.matA
  let others := (match d.matB with | some b => [b] | none => [])
  let bad := !d.crcOk || !d.subopOk || 4 < d.xform || 128 ≤ d.flags || 1024 ≤ d.ident || !d.paramOk
    || (fmtOf d.fmtA).isNone || (fmtOf d.fmtB).isNone || (fmtOf d.fmtOut).isNone
    || d.m == 0 || d.n == 0 || d.k == 0 || d.c == 0
  let pair := (d.op == opMatmul || d.op == opConv) && !pairOk d.fmtA d.fmtB
  let idx := (d.op == opGather || d.op == opScatter) && d.fmtB ≠ 0x0C
  let map := !a.inMap || others.any (!·.inMap) || (d.matD.any (!·.inMap))
  let mx := !a.mxOk (d.lastDim false a.cols) || others.any (fun m => !m.mxOk (d.lastDim false m.cols))
    || d.matD.any (fun m => !m.mxOk (d.lastDim true m.cols))
  let isOver := d.matD.any fun m => (m.meets a && !d.inPlace) || others.any m.meets
  bad || pair || idx || map || mx || isOver || (d.digest && !d.ordered) || (d.cls ≠ 0xFF && !d.digest) || d.tolBad tol

/-- Cycles per MAC of a format (Table 8.4). -/
def fmtCost (c : Nat) : Nat :=
  match c with
  | 0x0E | 0x0F | 0x10 | 0x0B => 1
  | 0x0D => 4
  | 0x00 => 8
  | _ => 2

/-- Modelled cycles (R223, Table 8.4). -/
def Desc.cycles (d : Desc) : Nat :=
  if d.cyc ≠ 0 then d.cyc else
  let p := convOf d.param
  let e := match d.matD with
    | some m => m.rows * m.cols
    | none => 1
  if d.op = opMatmul then ceilDiv d.m 32 * ceilDiv d.n 32 * d.k * max (fmtCost d.fmtA) (fmtCost d.fmtB)
  else if d.op = opConv then
    ceilDiv (d.m * d.n) 32 * ceilDiv d.c 32 * d.k * p.kh * p.kw * max (fmtCost d.fmtA) (fmtCost d.fmtB)
  else if d.op = opGather ∨ d.op = opScatter then ceilDiv (d.m * d.n) 64
  else if d.op = opReduce ∨ d.op = opCompare ∨ d.op = opChecksum then ceilDiv e 64 + ceilDiv (d.m * d.n) 64
  else ceilDiv e 64

/-- Modelled time in units of 0.1 ns: 0.8 ns per cycle (R223). -/
def Desc.time (d : Desc) : Nat := d.cycles * 8

/-! ## Transforms and layouts (10 Table 10.1, R265, R266) -/

/-- Where CHPERM stores channel `c` of `cs`. The channels of an MX format that fill several blocks keep their blocks: the blocks are
permuted, and the elements within each (log entry 19). -/
def permCh (mx : Bool) (q r cs c : Nat) : Nat :=
  if mx ∧ 32 < cs then (q * (c / 32) + r) % (cs / 32) * 32 + (q * (c % 32) + r) % 32 else (q * c + r) % cs

/-- Where the element at logical (i, j, c) is stored. -/
def xformAt (mx : Bool) (v : View) (m n cs : Nat) (i j c : Nat) : Nat × Nat × Nat :=
  match v.x with
  | 1 => (i, n - 1 - j, c)
  | 2 => (m - 1 - i, j, c)
  | 3 => (m - 1 - i, n - 1 - j, c)
  | 4 => (i, j, permCh mx v.q v.r cs c)
  | _ => (i, j, c)

/-- The entries of a row. -/
def Mat.width (m : Mat) : Nat := m.cols / max m.ch 1

/-- The row and the place in it at which a layout stores entry (i, jc). -/
def Mat.at (m : Mat) (i jc : Nat) : Nat × Nat :=
  let h := max m.ch 1
  let (i', j', c') := xformAt (fmtIsMx m.fmt) m.view m.rows m.width h i (jc / h) (jc % h)
  (i', j' * h + c')

/-- The places of a row, in the order in which they are stored: place `k` of the stored row holds the logical entry `k` of this
list. -/
def Mat.order (m : Mat) : List Nat :=
  let l := (List.range m.cols).map fun jc => (m.at 0 jc).2
  (List.range m.cols).map fun k => (l.findIdx? (· == k)).getD k

/-- MS1 scratch (16 Table 16.3): offsets 0x3000_0000 to 0x3FFF_FFFF of every MS1 channel of 1 GiB. -/
def inScratch (a n : Nat) : Bool :=
  decide (0x1400000000 ≤ a ∧ a + n ≤ 0x1800000000 ∧ 0x30000000 ≤ a % 0x40000000 ∧ a % 0x40000000 + n ≤ 0x40000000)

/-- The shared audit store. -/
def inStore (a n : Nat) : Bool := decide (0x100000000 ≤ a ∧ a + n ≤ 0x100C00000)

/-- A scratch address with its bank moved (R266): the bank field [15:12] in the shared audit store, the stack channel in MS1
scratch. -/
def rotAddr (rot a : Nat) : Nat :=
  if inStore a 1 then a / 0x10000 * 0x10000 + (a / 0x1000 + rot) % 16 * 0x1000 + a % 0x1000
  else if inScratch a 1 then 0x1400000000 + ((a - 0x1400000000) / 0x40000000 + rot) % 16 * 0x40000000 + a % 0x40000000
  else a

/-- A range cut at the 4 KiB banks, each piece with its bank moved. -/
def rotPieces (rot : Nat) : Nat → Nat → Bytes → List (Nat × Bytes)
  | 0, _, _ => []
  | n + 1, a, bs =>
    if bs.isEmpty then []
    else
      let k := 0x1000 - a % 0x1000
      (rotAddr rot a, bs.take k) :: rotPieces rot n (a + k) (bs.drop k)

/-- A range written with its bank moved. -/
def moved (rot a : Nat) (bs : Bytes) : List (Nat × Bytes) :=
  if rot % 16 = 0 then [(a, bs)] else rotPieces rot (bs.length / 0x1000 + 2) a bs

/-! ## Access -/

/-- The channel of a stack an address lies in: channels of 1 GiB (16 Table 16.3). -/
def stackChan (a : Nat) : Nat := a / 0x40000000 % 16

/-- A channel refuses ordinary accesses: it is PROC, or drains toward PROC (11 R292, R304). -/
def Stack.refuses (k : Stack) (c : Nat) : Bool := getN k.proc c || (k.swPhase != 0 && k.swProc && k.swChannel == c)

/-- A range of a stack meets a channel that refuses ordinary accesses (11 R292), or its stack has faulted (11 R314). -/
def State.inProc (s : State) (a n : Nat) : Bool :=
  match regionOf a n with
  | some (.stack k) =>
    let x := getN s.beu.stks k
    x.fault || (List.range (stackChan (a + n - 1) + 1)).any fun c => decide (stackChan a ≤ c) && x.refuses c
  | _ => false

/-- The guard weights (16 Table 16.3). -/
def inWeights (a n : Nat) : Bool := decide (0x1450000000 ≤ a ∧ a + n ≤ 0x1460000000)

/-- A range lies in the borrow window (15 R438). -/
def inBorrow (a n : Nat) : Bool := decide (0x100A00000 ≤ a ∧ a + n ≤ 0x100BE0000)

/-- The exchange slots (10 R270): their base and the size of each. -/
def exchBase : Nat := 0x100BE0000
def exchSize : Nat := 4096

/-- A range meets the exchange slots. -/
def inExch (a n : Nat) : Bool := decide (exchBase < a + n ∧ a < exchBase + 32 * exchSize)

/-- A range meets an exchange slot that a job holds: it is closed, and nothing writes it (10 R270). -/
def State.exchClosed (s : State) (a n : Nat) : Bool :=
  s.vane.exch.zipIdx.any fun x => x.1.isSome && decide (exchBase + x.2 * exchSize < a + n ∧ a < exchBase + (x.2 + 1) * exchSize)

/-- Whether an access of a core under an identity passes: borrowed work is confined to the borrow window (Table 16.5); only
internal engine identities reach the exchange slots, which none writes while a job holds them (10 R270); the companion's own
scratch (the shared audit store and MS1 scratch), reads of the guard weights, and the internal engine identities hold
firmware's fixed rules, which grant their work (Table 16.5; log entry 20); a supervised identity passes by its rules. -/
def State.coreWall (s : State) (ident : Nat) (write : Bool) (a n : Nat) : Wall :=
  let own := decide (512 ≤ ident ∧ ident < 560)
  if 560 ≤ ident ∧ ident < 568 then (if inBorrow a n then .pass else .refused)
  else if inExch a n ∧ (!own ∨ (write ∧ s.exchClosed a n)) then .refused
  else if inStore a n ∨ inScratch a n ∨ (inWeights a n ∧ !write) ∨ own then
    (if write ∧ s.lockHit a n then .locked else .pass)
  else s.wall ident write a n

/-- The addresses at which an answer of the firewall may change. -/
def State.wallEdges (s : State) (ident : Nat) : List Nat :=
  [0x100000000, 0x100A00000, exchBase, exchBase + 32 * exchSize, 0x100C00000, 0x1450000000, 0x1460000000]
    ++ ((List.range 16).flatMap fun k => [0x1430000000 + k * 0x40000000, 0x1440000000 + k * 0x40000000])
    ++ ((s.rulesOf ident).flatMap fun r => [r.base, r.base + r.pages * 4096])
    ++ (s.fwl.locks.flatMap fun l => [l.lo, l.lo + l.len])

/-- The lowest address of a range that the firewall refuses, and its answer there (R228). -/
def State.lowRefused (s : State) (ident : Nat) (write : Bool) (a n : Nat) : Option (Nat × Wall) :=
  (a :: (s.wallEdges ident).filter fun e => decide (a < e ∧ e < a + n)).foldl (fun best e =>
    match s.coreWall ident write e 1 with
    | .pass => best
    | w => match best with
      | some b => if e < b.1 then some (e, w) else best
      | none => some (e, w)) none

/-- The lowest address of a range that a PROC channel, or a faulted stack, answers with a bus error. -/
def State.lowProc (s : State) (a n : Nat) : Option Nat :=
  if s.inProc a n then
    (a :: ((List.range 16).map fun k => a / 0x40000000 * 0x40000000 + (k + 1) * 0x40000000).filter fun e =>
      decide (e < a + n)).find? fun e => s.inProc e 1
  else none

end Sys2Proof.Machine
end

