-- ==== Sys2Proof/Machine/Arith.lean ====
section
/-! DEFINITION. What one audit descriptor computes (08 R218 to R233, Table 8.3, 09 R250 to R258) in the layout of its pass
(10 R264 to R266): its result, flags, status, the payload it sends to the Vane, and where it stops. -/

namespace Sys2Proof.Machine

/-- What a descriptor gives: Table 8.5's fields, the payload for the Vane, the fault record's KIND, address and descriptor, and
its writes (address, bytes, poisoned). -/
structure DOut where
  status  : Nat := 0
  fp      : Nat := 0
  elem    : Nat := 0
  result  : Nat := 0
  payload : Nat := 0
  kind    : Nat := 0
  addr    : Nat := 0
  locked  : Bool := false
  write   : Bool := false
  desc    : Option Desc := none
  writes  : List (Nat × Bytes × Bool) := []
  deriving DecidableEq, Repr, Inhabited

/-! ## Reading and writing a matrix in its layout -/

/-- Bytes of memory as a core reads them: the exchange slots' bytes stand in the Vane (log entry 76). -/
def State.viewN (s : State) (a n : Nat) : Bytes :=
  if inExch a n then
    (List.range n).map fun i =>
      if inExch (a + i) 1 then
        getN (getN s.vane.slotData ((a + i - exchBase) / exchSize)) ((a + i - exchBase) % exchSize)
      else s.peek (a + i)
  else s.peekN a n

/-- Bytes of a range whose banks are moved. -/
def State.movedN (s : State) (rot a n : Nat) : Bytes :=
  if rot % 16 = 0 then s.viewN a n else (moved rot a (zeros n)).flatMap fun p => s.viewN p.1 p.2.length

/-- Such a range holds poison. -/
def State.movedBad (s : State) (rot a n : Nat) : Bool :=
  if rot % 16 = 0 then s.poisoned a n else (moved rot a (zeros n)).any fun p => s.poisoned p.1 p.2.length

/-- The address of row `i` of a matrix in its layout. -/
def Mat.rowAddr (m : Mat) (i : Nat) : Nat := m.base + (m.at i 0).1 * m.stride

/-- A stored row's elements put in their logical order. -/
def Mat.logical (m : Mat) (l : List Elem) : List Elem :=
  if m.view.x = 0 then l else (List.range m.cols).map fun jc => getN l (m.at 0 jc).2

/-- Row `i` of a matrix, in logical order. -/
def State.elemsAt (s : State) (m : Mat) (i : Nat) : List Elem :=
  m.logical (rowElems m.fmt m.cols (s.movedN m.view.rot (m.rowAddr i) (rowBytes m.fmt m.cols)))

/-- All rows of a matrix. -/
def State.elemsOf (s : State) (m : Mat) : List (List Elem) := (List.range m.rows).map (s.elemsAt m)

/-- A row of elements written where the layout puts it. -/
def Mat.put (m : Mat) (i : Nat) (taint : Bool) (l : List Elem) : List (Nat × Bytes × Bool) :=
  let st := if m.view.x = 0 then l else m.order.map (getN l)
  (moved m.view.rot (m.rowAddr i) (packRow m.fmt st)).map fun p => (p.1, p.2, taint)

/-- All rows written. -/
def Mat.puts (m : Mat) (taint : Bool) (rows : List (List Elem)) : List (Nat × Bytes × Bool) :=
  rows.zipIdx.flatMap fun x => m.put x.2 taint x.1

/-- The writes of a descriptor made; poisoned rows carry their poison (R233). -/
def State.commitWrites (ws : List (Nat × Bytes × Bool)) (s : State) : State :=
  s.each ws fun w s =>
    let s := s.poke w.1 w.2.1
    if w.2.2 then s.each (List.range (ceilDiv w.2.1.length 32 + 1)) fun i s =>
      if (w.1 / 32 + i) * 32 < w.1 + w.2.1.length then s.markPoison (w.1 / 32 + i) else s
    else s

/-- Elements moved from one format to another: as they stand in the same format (R250), but for what FTZ reads as zero (R252); a
move between formats rounds once (log entry 60). -/
def moveElems (d : Desc) (l : List Elem) : List Elem × Nat :=
  if d.fmtA = d.fmtOut then (l.map (flushElem d.fmtA d.ftz), 0)
  else
    let vs := l.map (decodeElem d.fmtA d.ftz)
    let (r, f) := storeRow d.fmtOut d.sat d.ftz (vs.map (·.1))
    (r, vs.foldl (fun a v => a ||| v.2) f)

/-- The values of a row, with the flags of decoding them. -/
def rowVals (fmt : Nat) (ftz : Bool) (l : List Elem) : List Val × Nat :=
  let vs := l.map (decodeElem fmt ftz)
  (vs.map (·.1), fpJoin (vs.map (·.2)))

/-- The values of a matrix. -/
def State.vals (s : State) (ftz : Bool) (m : Mat) : List (List Val) × Nat :=
  let rs := (s.elemsOf m).map (rowVals m.fmt ftz)
  (rs.map (·.1), fpJoin (rs.map (·.2)))

/-! ## The formed descriptor (10 R264 to R266) -/

/-- A descriptor with its operands and its result where its pass has them. -/
structure Form where
  desc : Desc
  /-- the identity under which the core makes its accesses -/
  ident : Nat
  a    : Mat
  b    : Option Mat
  out  : Option Mat
  deriving DecidableEq, Repr, Inhabited

/-- A matrix in a layout: CHPERM permutes those that have the descriptor's channels. -/
def Mat.under (v : View) (c : Nat) (m : Mat) : Mat :=
  { m with view := if v.x = 4 ∧ m.ch ≠ c then { rot := v.rot } else v }

/-- The descriptor as it stands: TRANSFORM APPLY stores into the layout of its XFORM and INVERSE reads from it; any other
operation has its operands and its result in it. -/
def Desc.plain (q r : Nat) (d : Desc) : Form :=
  let v : View := { x := d.xform, q := q, r := r }
  let src := !(d.op == opTransform && d.subop == 0)
  let dst := !(d.op == opTransform && d.subop == 1)
  { desc := d, ident := d.ident, a := if src then d.matA.under v d.c else d.matA, b := d.matB.map fun m => if src then m.under v d.c else m,
    out := d.matD.map fun m => if dst then m.under v d.c else m }

/-- A matrix copied row by row behind one another from an address on. -/
def Mat.copyAt (a : Nat) (m : Mat) : Mat := { m with base := a, stride := rowBytes m.fmt m.cols }

/-- The TRANSFORM APPLY descriptor that copies an operand into a layout (R266). -/
def Desc.copyDesc (d : Desc) (m c : Mat) : Desc :=
  { op := opTransform, subop := 0, fmtA := m.fmt, fmtB := m.fmt, fmtOut := m.fmt, xform := c.view.x, flags := 41, job := d.job,
    index := d.index, ident := d.ident, cls := d.cls, srcA := m.base, strideA := m.stride, dst := c.base, strideD := c.stride,
    m := m.rows, n := m.width, c := m.ch }

/-- An operand of a leeward pass: where the windward pass reads it, and where the pass has it in its layout; `copy` says that a
TRANSFORM APPLY descriptor puts it there, where an earlier descriptor of the job has not. -/
structure LeeOp where
  src  : Mat
  dst  : Mat
  copy : Bool
  deriving DecidableEq, Repr, Inhabited

/-- The leeward scratch for a core's copies: half the MS1 scratch of its channel, the channel moved (R266; log entry 32). -/
def copyBase (core rot : Nat) : Nat := rotAddr rot (0x1438000000 + core * 0x40000000)

/-- The operands of a leeward pass. `made` finds the layout in which an earlier descriptor of the job has left a range. -/
def Desc.leeOps (core : Nat) (v : View) (made : Nat → Nat → Option View) (d : Desc) : List LeeOp :=
  let one (at_ : Nat) (m : Mat) : LeeOp :=
    match made m.base m.extent with
    | some w => { src := m, dst := m.under w d.c, copy := false }
    | none => { src := m, dst := (m.copyAt at_).under { v with rot := 0 } d.c, copy := true }
  let base := copyBase core v.rot
  let a := one base d.matA
  let b := d.matB.map (one (base + roundUp (d.matA.rows * rowBytes d.fmtA d.matA.cols) 4096))
  a :: b.toList

/-- The leeward descriptor as it is formed: its transform and PASS bit, its operands in the copies and its result with its banks
moved. A borrower's identity reaches no scratch of this module; its copies, read under it, are used under the SP's (log entry
76). -/
def Desc.lee (v : View) (ops : List LeeOp) (d : Desc) : Form :=
  let a := (ops[0]?).elim d.matA (·.dst)
  let b := (ops[1]?).map (·.dst)
  let addr (m : Mat) : Nat := rotAddr m.view.rot m.base
  { desc := { d with
      xform := v.x, flags := d.flags ||| 32, srcA := addr a, strideA := a.stride, srcB := b.elim 0 addr,
      strideB := b.elim 0 (·.stride), dst := if d.matD.isSome then rotAddr v.rot d.dst else d.dst }
    ident := if 560 ≤ d.ident then 559 else d.ident, a := a, b := b, out := d.matD.map (Mat.under v d.c) }

/-- Modelled cycles of the copies of a leeward pass (R223, R266). -/
def Desc.copyCycles (d : Desc) : Nat :=
  if d.cls = 0xFF then 0
  else if d.cyc ≠ 0 then 0
  else ceilDiv (d.matA.rows * d.matA.cols) 64 + d.matB.elim 0 (fun m => ceilDiv (m.rows * m.cols) 64)

/-- The modelled time of a pass in units of 0.1 ns: the windward one, or one that begins with copies. -/
def Desc.passTime (lee : Bool) (d : Desc) : Nat := d.time + if lee then d.copyCycles * 8 else 0

/-- The watchdog of a pass in ns (R236): 2 × 1.15 × T_d + 10 µs. -/
def Desc.watchdog (lee : Bool) (d : Desc) : Nat := ceilDiv (d.passTime lee * 230) 1000 + 10000

/-! ## Sums -/

/-- Entry (i, j) of a matrix of values. -/
def valAt (m : List (List Val)) (i j : Nat) : Val := (m.getD i []).getD j .zero

/-- A list in the order that picks give: every item once. -/
def permN {α : Type} (key : Nat) : Nat → Nat → List α → List α
  | 0, _, l => l
  | n + 1, i, l =>
    let p := Config.sumOrder key i % l.length
    (l.drop p).take 1 ++ permN key n (i + 1) (l.eraseIdx p)

/-- The order in which a sum's terms enter the accumulator (R221): the logical one with ORDERED set, else an unspecified one. -/
def sumOrd {α : Type} (key : Option Nat) (l : List α) : List α :=
  match key with
  | none => l
  | some k => permN k l.length 0 l

/-- The sum of a descriptor that forms one result cell, none with ORDERED set. -/
def Desc.sumKey (d : Desc) (cell : Nat) : Option Nat :=
  if d.ordered then none else some (((d.job * 4096 + d.index) * 2 + b2n (bit d.flags 5)) * 2 ^ 32 + cell)

/-- A list cut into pieces of `g`. -/
def piecesOf {α : Type} (g : Nat) : Nat → List α → List (List α)
  | 0, _ => []
  | n + 1, l => if l.isEmpty then [] else l.take g :: piecesOf g n (l.drop g)

/-- A term of a sum of products. -/
abbrev Term := Elem × Elem

/-- The sum over one pair of MX blocks, scaled once (R255). -/
def mxPair (fa : Nat) (ftz : Bool) (fp : Nat) (l : List Term) : Acc :=
  match l with
  | [] => { val := .zero, fp := fp }
  | t :: _ =>
    if t.1.1 = 0xFF ∨ t.2.1 = 0xFF then { val := .qnan, fp := fp }
    else
      let x := (t.1.1 : Int) + t.2.1
      match fmtOf fa with
      | some (.mx f _) =>
        let sum := l.foldl (fun (acc : Acc) t => acc.fma ftz (f.decode ftz t.1.2) (f.decode ftz t.2.2)) { val := .zero, fp := fp }
        let (r, fl) := to32 ftz (sum.val.scale (x - 254))
        { val := r, fp := sum.fp ||| fl }
      | _ =>
        let sum := l.foldl (fun (acc : Int) t => acc + toSigned 8 t.1.2 * toSigned 8 t.2.2) 0
        let (r, fl) := to32 ftz (Val.ofInt sum (x - 266))
        { val := r, fp := fp ||| fl }

/-- A sum of products in the accumulator of the formats (R250, R255, R256). `pair` consecutive terms of an MX sum lie in one pair of
blocks. -/
def dot (fa fb : Nat) (ftz : Bool) (key : Option Nat) (pair : Nat) (terms : List Term) : Acc :=
  if fmtIsInt fa ∧ fmtIsInt fb then
    let terms := sumOrd key terms
    let r := terms.foldl (fun (acc : AccI) t => acc.fma (intOf fa t.1.2) (intOf fb t.2.2)) { val := 0, fp := 0 }
    { val := Val.ofInt r.val, fp := r.fp }
  else if fmtIsMx fa then
    (sumOrd key (piecesOf pair terms.length terms)).foldl (fun (acc : Acc) l =>
      let blk := mxPair fa ftz acc.fp (sumOrd key l)
      let (v, f1) := acc.val.add blk.val
      let (r, f2) := to32 ftz v
      { val := r, fp := blk.fp ||| f1 ||| f2 }) { val := .zero, fp := 0 }
  else
    let dec (c code : Nat) : Val :=
      match fmtOf c with
      | some (.flt f) => f.decode ftz code
      | _ => Val.ofInt (intOf c code)
    (sumOrd key terms).foldl (fun (acc : Acc) t => acc.fma ftz (dec fa t.1.2) (dec fb t.2.2)) { val := .zero, fp := 0 }

/-- MATMUL: the scaled product, row by row. -/
def State.matmul (s : State) (f : Form) : List (List Val) × Nat :=
  let d := f.desc
  let a := s.elemsOf f.a
  let b := (f.b.map s.elemsOf).getD []
  let cell (i j : Nat) : Acc :=
    outScale d.ftz (bits d.param 0 32) (dot d.fmtA d.fmtB d.ftz (d.sumKey (i * 65536 + j)) 1 ((List.range d.k).map fun k =>
      (getN (a.getD i []) k, getN (b.getD k []) j)))
  let rs := (List.range d.m).map fun i => (List.range d.n).map (cell i)
  (rs.map (·.map (·.val)), fpJoin (rs.flatMap (·.map (·.fp))))

/-- CONV2D; taps in the padding contribute nothing (log entry 19). -/
def State.conv (s : State) (f : Form) : List (List Val) × Nat :=
  let d := f.desc
  let p := convOf d.param
  let a := s.elemsOf f.a
  let b := (f.b.map s.elemsOf).getD []
  let w := f.a.cols / d.k
  let cell (i j c : Nat) : Acc :=
    let terms := (List.range (p.kh * p.kw * d.k)).filterMap fun t =>
      let ky := t / (p.kw * d.k)
      let kx := t / d.k % p.kw
      let y := i * p.sy + ky * p.dil
      let x := j * p.sx + kx * p.dil
      if p.pad ≤ y ∧ y - p.pad < f.a.rows ∧ p.pad ≤ x ∧ x - p.pad < w then
        some (getN (a.getD (y - p.pad) []) ((x - p.pad) * d.k + t % d.k), getN (b.getD c []) t)
      else none
    outScale d.ftz (bits d.param 32 32) (dot d.fmtA d.fmtB d.ftz (d.sumKey ((i * d.n + j) * d.c + c)) 32 terms)
  let rs := (List.range d.m).map fun i => (List.range (d.n * d.c)).map fun jc => cell i (jc / d.c) (jc % d.c)
  (rs.map (·.map (·.val)), fpJoin (rs.flatMap (·.map (·.fp))))

/-- One ELTWISE element, exact (R250 item 1). -/
def eltOne (subop param : Nat) (ftz : Bool) (a b : Val) : Val × Nat :=
  match subop with
  | 0 => a.add b
  | 1 => a.add b.negate
  | 2 => a.mul b
  | 3 => Val.pick true a b
  | 4 => Val.pick false a b
  | _ => a.mul (of32 ftz (bits param 0 32))

/-- One ACT element, exact; `w` reads the table of PWL16 by byte offset (11 R296; log entry 21). -/
def actOne (subop param : Nat) (ftz : Bool) (w : Nat → Val) (v : Val) : Val × Nat :=
  match subop with
  | 0 => Val.pick true v .zero
  | 1 => if v.lt .zero then v.mul (of32 ftz (bits param 0 32)) else (v, b2n v.sig)
  | 2 => (if v.neg then v.negate else v, b2n v.sig)
  | 3 =>
    let (x, f1) := Val.pick true v (of32 ftz (bits param 0 32))
    let (y, f2) := Val.pick false x (of32 ftz (bits param 32 32))
    (y, f1 ||| f2)
  | 4 => threshF (of32 ftz (bits param 0 32)) v
  | _ => pwlF w v

/-- REDUCE of one list of elements. -/
def reduceOne (fmt subop : Nat) (ftz : Bool) (codes : List Elem) (vs : List Val) : Val × Nat :=
  match subop with
  | 1 => match vs with
    | [] => (.zero, 0)
    | v :: r => r.foldl (fun a x => let (p, f) := Val.pick true a.1 x; (p, a.2 ||| f)) (v, b2n v.sig)
  | 2 => match vs with
    | [] => (.zero, 0)
    | v :: r => r.foldl (fun a x => let (p, f) := Val.pick false a.1 x; (p, a.2 ||| f)) (v, b2n v.sig)
  | _ =>
    if fmtIsInt fmt ∧ fmt ≠ 0x11 then
      let r := codes.foldl (fun (acc : AccI) c =>
        acc.fma (intOf fmt c.2) (if subop = 0 then 1 else intOf fmt c.2)) { val := 0, fp := 0 }
      (Val.ofInt r.val, r.fp)
    else
      let r := vs.foldl (fun (acc : Acc) v => acc.fma ftz v (if subop = 0 then Val.ofInt 1 else v))
        { val := .zero, fp := 0 }
      (r.val, r.fp)

/-- One reduction over some cells of a matrix, with the flags of decoding them. -/
def reduceCells (d : Desc) (subop : Nat) (rows : List (List Elem)) (key : Option Nat) (cells : List (Nat × Nat)) : Val × Nat :=
  let es := (sumOrd key cells).map fun x => getN (rows.getD x.1 []) x.2
  let vs := es.map (decodeElem d.fmtA d.ftz)
  let (v, f) := reduceOne d.fmtA subop d.ftz es (vs.map (·.1))
  (v, f ||| fpJoin (vs.map (·.2)))

/-- REDUCE: along rows each row gives one element, along columns each column does. -/
def State.reduce (s : State) (f : Form) : List (List Val) × Nat :=
  let d := f.desc
  let rows := s.elemsOf f.a
  let along := bit d.param 0
  let one (i : Nat) : Val × Nat :=
    reduceCells d d.subop rows (d.sumKey i)
      (if along then (List.range d.m).map (fun r => (r, i)) else (List.range d.n).map (fun c => (i, c)))
  let rs := (List.range (if along then d.n else d.m)).map one
  ([rs.map (·.1)], fpJoin (rs.map (·.2)))

/-- CHECKSUM ROWCOL: the row sums, then the column sums. -/
def State.rowCol (s : State) (f : Form) : List (List Val) × Nat :=
  let d := f.desc
  let rows := s.elemsOf f.a
  let sums := (List.range d.m).map (fun i => (List.range d.n).map fun j => (i, j)) ++
    (List.range d.n).map (fun j => (List.range d.m).map fun i => (i, j))
  let rs := sums.zipIdx.map fun x => reduceCells d 0 rows (d.sumKey x.2) x.1
  ([rs.map (·.1)], fpJoin (rs.map (·.2)))

/-! ## Payload, result and faults -/

/-- The bytes that a digest covers of rows of one format. -/
def digestOf (fmt : Nat) (rows : List (List Elem)) : Bytes := rows.flatMap (digestRow fmt)

/-- The payload a class takes: the CRC-64 digest, or in TOLERANCE mode the one or two FX32 elements (10 R267). -/
def payloadOf (tol : Bool) (d : Desc) (dig : Bytes) : Nat :=
  if tol then leVal (dig.take 8) else if d.digest then crc64 dig else 0

/-- RESULT of the status entry (Table 8.5). -/
def Desc.resultOf (d : Desc) (value digest : Nat) : Nat :=
  if d.op = opCompare ∨ (d.op = opChecksum ∧ d.subop = 2) then value
  else if d.op = opChecksum ∧ d.subop = 1 then value % 2 ^ 32
  else if d.digest then digest % 2 ^ 32
  else 0

/-- The operand and result ranges of a descriptor with the direction of each (R228). -/
def Desc.ranges (d : Desc) : List (Bool × Nat × Nat) :=
  let ma := d.matA
  [(false, ma.base, ma.extent)] ++ (match d.matB with | some m => [(false, m.base, m.extent)] | none => [])
    ++ (match d.matD with | some m => [(true, m.base, m.extent)] | none => [])

/-- The range with the lowest address that a check refuses. -/
def lowest : List (Nat × Bool × Wall) → Option (Nat × Bool × Wall)
  | [] => none
  | x :: r =>
    match lowest r with
    | some y => some (if y.1 < x.1 then y else x)
    | none => some x

/-- What a range does in the whole-extent check of R228. -/
def State.rangeFault (s : State) (ident : Nat) (r : Bool × Nat × Nat) : Option (Nat × Bool × Wall) :=
  match s.coreWall ident r.1 r.2.1 r.2.2 with
  | .pass => none
  | w => let (a, w) := (s.lowRefused ident r.1 r.2.1 r.2.2).getD (r.2.1, w); some (a, r.1, w)

/-- The whole-extent check of R228: KIND 2 for the firewall, 3 for a PROC channel, at the lowest refused address. -/
def State.extentFault (s : State) (d : Desc) : Option DOut :=
  match lowest (d.ranges.filterMap (s.rangeFault d.ident)) with
  | some (a, wr, w) => some { status := 2, kind := 2, addr := a, write := wr, locked := decide (w = .locked) }
  | none =>
    match lowest (d.ranges.filterMap fun r => (s.lowProc r.2.1 r.2.2).map fun a => (a, r.1, Wall.refused)) with
    | some (a, wr, _) => some { status := 2, kind := 3, addr := a, write := wr }
    | none => none

/-- A matrix holds poison in one of its rows. -/
def State.tainted (s : State) (m : Mat) : Bool :=
  (List.range m.rows).any fun i => s.movedBad m.view.rot (m.base + i * m.stride) (rowBytes m.fmt m.cols)

/-- One element of GATHER or SCATTER: its fault, else the row read and whether it holds poison (R229). `a` and `n` are the
table row's address and size, `a'` the other row's. -/
def State.elemFault (s : State) (d : Desc) (ident : Nat) (e : Nat) (idx : Int) (a n : Nat) (tblWrite : Bool) : Option DOut :=
  if idx < 0 ∨ (d.k : Int) ≤ idx then
    let base := if tblWrite then d.dst else d.srcA
    let str := if tblWrite then d.strideD else d.strideA
    some { status := 2, elem := e, kind := 1, addr := ofSigned 40 (base + idx * str) }
  else
    match s.coreWall ident tblWrite a n with
    | .refused => some { status := 2, elem := e, kind := 2, addr := a, write := tblWrite }
    | .locked => some { status := 2, elem := e, kind := 2, addr := a, write := tblWrite, locked := true }
    | .pass => if s.inProc a n then some { status := 2, elem := e, kind := 3, addr := a, write := tblWrite } else none

/-- The index of row `e` (R229): its address and its value. -/
def State.indexAt (s : State) (f : Form) (e : Nat) : Nat × Int :=
  let m := f.b.getD f.a
  (m.rowAddr e, toSigned 32 (leVal (s.movedN m.view.rot (m.rowAddr e) 4)))

/-- GATHER element by element from `e` on: what is written so far, flags, digest bytes, and the fault that stopped it. -/
def State.gatherN (s : State) (f : Form) (out : Mat) : Nat → Nat → DOut × Bytes → DOut × Bytes
  | 0, _, acc => acc
  | n + 1, e, (o, dig) =>
    let d := f.desc
    let (ia, idx) := s.indexAt f e
    let rb := rowBytes d.fmtA d.n
    let a := f.a.rowAddr idx.toNat
    let da := out.rowAddr e
    let idxWall := s.coreWall f.ident false ia 4
    let dstWall := s.coreWall f.ident true da (rowBytes d.fmtOut d.n)
    if idxWall ≠ .pass then ({ o with status := 2, elem := e, kind := 2, addr := ia }, dig)
    else if s.inProc ia 4 then ({ o with status := 2, elem := e, kind := 3, addr := ia }, dig)
    else
      match s.elemFault d f.ident e idx a rb false with
      | some x => ({ o with status := 2, elem := e, kind := x.kind, addr := x.addr, write := false }, dig)
      | none =>
        if dstWall ≠ .pass then
          ({ o with status := 2, elem := e, kind := 2, addr := da, write := true, locked := decide (dstWall = .locked) },
            dig)
        else if s.inProc da (rowBytes d.fmtOut d.n) then
          ({ o with status := 2, elem := e, kind := 3, addr := da, write := true }, dig)
        else
          let t := s.movedBad f.a.view.rot a rb || s.poisoned ia 4
          let (l, f1) := moveElems d (s.elemsAt f.a idx.toNat)
          State.gatherN s f out n (e + 1)
            ({ o with
                fp := o.fp ||| f1
                status := if t then 1 else o.status
                writes := o.writes ++ out.put e t l }, dig ++ digestRow d.fmtOut l)

/-- One element of SCATTER combined with the table's: WRITE, ADD in the accumulator of the formats, or MAX (R230, R250, R256). -/
def scatterCell (d : Desc) (x old : Val) : Val × Nat :=
  if d.subop = 0 then (x, 0)
  else if d.subop = 2 then Val.pick true x old
  else if fmtIsInt d.fmtA ∧ fmtIsInt d.fmtOut ∧ d.fmtA ≠ 0x11 ∧ d.fmtOut ≠ 0x11 then
    (match (x.add old).1 with
    | .fin n m _ =>
      let i : Int := if n then -(m : Int) else m
      let r := toSigned 32 (ofSigned 32 i)
      (Val.ofInt r, if r = i then 0 else fpOverflow)
    | v => (v, 0))
  else
    let r := Acc.fma d.ftz { val := old, fp := 0 } x (Val.ofInt 1)
    (r.val, r.fp)

/-- SCATTER element by element in the order given (R229, R230): a row of A is written, added or compared into the table row. -/
def State.scatterN (s : State) (f : Form) (out : Mat) : List Nat → State × DOut × Bytes → State × DOut × Bytes
  | [], acc => acc
  | e :: l, (w, o, dig) =>
    let d := f.desc
    let (ia, idx) := s.indexAt f e
    let ra := f.a.rowAddr e
    let na := rowBytes d.fmtA d.n
    let rb := rowBytes d.fmtOut d.n
    let a := out.rowAddr idx.toNat
    if s.coreWall f.ident false ia 4 ≠ .pass then (w, { o with status := 2, elem := e, kind := 2, addr := ia }, dig)
    else if s.inProc ia 4 then (w, { o with status := 2, elem := e, kind := 3, addr := ia }, dig)
    else
      match s.elemFault d f.ident e idx a rb true with
      | some x =>
        (w, { o with status := 2, elem := e, kind := x.kind, addr := x.addr, write := true, locked := x.locked }, dig)
      | none =>
        if s.coreWall f.ident false ra na ≠ .pass then (w, { o with status := 2, elem := e, kind := 2, addr := ra }, dig)
        else if s.inProc ra na then (w, { o with status := 2, elem := e, kind := 3, addr := ra }, dig)
        else
          let t := s.movedBad f.a.view.rot ra na || s.poisoned ia 4 || (d.subop ≠ 0 && w.movedBad out.view.rot a rb)
          let (vs, f1) := rowVals d.fmtA d.ftz (s.elemsAt f.a e)
          let (old, f2) := rowVals d.fmtOut d.ftz (w.elemsAt out idx.toNat)
          let cells := (vs.zip old).map fun x => scatterCell d x.1 x.2
          let (b, f3) := storeRow d.fmtOut d.sat d.ftz (cells.map (·.1))
          let ws := out.put idx.toNat t b
          let o := { o with
            fp := o.fp ||| f1 ||| (if d.subop = 0 then 0 else f2) ||| fpJoin (cells.map (·.2)) ||| f3
            status := if t then 1 else o.status
            writes := o.writes ++ ws }
          State.scatterN s f out l (w.commitWrites ws, o, dig ++ digestRow d.fmtOut b)

/-! ## One descriptor -/

/-- Whether two elements match under a COMPARE (R258): EXACT by code, ULP, or absolute tolerance in FP32; elements of two formats by
value. Under FTZ a subnormal operand is read as zero (R252). -/
def cmpElem (subop param fa fb : Nat) (ftz : Bool) (x y : Elem) : Bool :=
  if subop = 0 ∧ fa = fb then flushElem fa ftz x == flushElem fb ftz y
  else if subop = 1 ∧ fa = fb then ulpMatch fa (bits param 0 32) ftz x y
  else
    let a := (decodeElem fa ftz x).1
    let b := (decodeElem fb ftz y).1
    if a.isNan ∨ b.isNan then a.isNan && b.isNan
    else if a.isInf ∨ b.isInf then decide (a = b)
    else
      let (z, _) := a.add b.negate
      let z := if z.neg then z.negate else z
      !((if subop = 2 then of32 ftz (bits param 0 32) else .zero).below z)

/-- Mismatching positions of two matrices, in logical order. -/
def cmpRows (d : Desc) (a b : List (List Elem)) : List Nat :=
  (List.range (a.length * d.n)).filter fun x =>
    !cmpElem d.subop d.param d.fmtA d.fmtB d.ftz (getN (a.getD (x / d.n) []) (x % d.n)) (getN (b.getD (x / d.n) []) (x % d.n))

/-- The flags of a COMPARE: a signalling NaN operand sets INVALID (R254), and ULP and ABS_TOL decode MX operands (R255). -/
def cmpFlags (d : Desc) (fmt : Nat) (rows : List (List Elem)) : Nat :=
  fpJoin (rows.map fun l => fpJoin (l.map fun x =>
    let (v, f) := decodeElem fmt d.ftz x
    (if d.subop = 0 then 0 else f) ||| b2n v.sig))

/-- A value result rounded and stored. -/
def storeMat (d : Desc) (m : Mat) (taint : Bool) (rows : List (List Val)) : List (Nat × Bytes × Bool) × Nat × Bytes :=
  let rs := rows.map (storeRow m.fmt d.sat d.ftz)
  let es := rs.map (·.1)
  (m.puts taint es, fpJoin (rs.map (·.2)), digestOf m.fmt es)

/-- A formed descriptor run to its end, its addresses checked (R227 to R233). -/
def State.runForm (s : State) (tol : Bool) (f : Form) : DOut :=
  let d := f.desc
  let fin (o : DOut) (dig : Bytes) (value : Nat) : DOut :=
    if 1 < o.status then o
    else { o with payload := payloadOf tol d dig, result := d.resultOf value (crc64 dig) }
  if d.op = opGather then
    let (o, dig) := f.out.elim ({}, []) fun m => s.gatherN f m d.m 0 ({}, [])
    fin o dig 0
  else if d.op = opScatter then
    match f.out with
    | none => {}
    | some m =>
      let (_, o, dig) := s.scatterN f m (List.range d.m) (s, {}, [])
      let o :=
        if d.ordered ∨ d.subop = 0 then o
        else
          let n := if o.status = 2 then o.elem else d.m
          let (_, p, _) := s.scatterN f m (sumOrd (d.sumKey 0) (List.range n)) (s, {}, [])
          { o with fp := p.fp, writes := p.writes }
      fin o dig 0
  else
    let t := s.tainted f.a || f.b.any s.tainted
    let mk (rows : List (List Val)) (fl value : Nat) : DOut :=
      match f.out with
      | some m => let (ws, f2, dig) := storeMat d m t rows; fin { status := b2n t, fp := fl ||| f2, writes := ws } dig value
      | none => { status := b2n t, fp := fl }
    if d.op = opMatmul then let (v, fl) := s.matmul f; mk v fl 0
    else if d.op = opConv then let (v, fl) := s.conv f; mk v fl 0
    else if d.op = opElt then
      let (a, f1) := s.vals d.ftz f.a
      let (b, f2) := (f.b.map (s.vals d.ftz)).getD ([], 0)
      let rs := a.zipIdx.map fun row => row.1.zipIdx.map fun x => eltOne d.subop d.param d.ftz x.1 (valAt b row.2 x.2)
      mk (rs.map (·.map (·.1))) (f1 ||| f2 ||| fpJoin (rs.flatMap (·.map (·.2)))) 0
    else if d.op = opAct then
      let (a, f1) := s.vals d.ftz f.a
      let tbl := ((f.b.map s.elemsOf).getD []).flatten
      let rs := a.map fun row => row.map (actOne d.subop d.param d.ftz fun o => of32 d.ftz (getN tbl (o / 4)).2)
      mk (rs.map (·.map (·.1))) (f1 ||| fpJoin (rs.flatMap (·.map (·.2)))) 0
    else if d.op = opReduce then let (v, fl) := s.reduce f; mk v fl 0
    else if d.op = opTransform then
      if d.subop = 2 then let (v, fl) := s.vals d.ftz f.a; mk v fl 0
      else
        let rs := (s.elemsOf f.a).map (moveElems d)
        let es := rs.map (·.1)
        match f.out with
        | some m => fin { status := b2n t, fp := fpJoin (rs.map (·.2)), writes := m.puts t es } (digestOf m.fmt es) 0
        | none => {}
    else if d.op = opChecksum then
      let rows := s.elemsOf f.a
      if d.subop = 2 then
        let v := crc32c (rows.flatMap (packRow d.fmtA))
        fin { status := b2n t } (leBytes 4 v) v
      else if d.subop = 1 then fin { status := b2n t } (digestOf d.fmtA rows) (crc64 (digestOf d.fmtA rows))
      else let (v, fl) := s.rowCol f; mk v fl 0
    else
      let a := s.elemsOf f.a
      let b := (f.b.map s.elemsOf).getD []
      let bad := cmpRows d a b
      let n := min bad.length 0xFFFFFFFF
      mk [[Val.ofInt bad.length, Val.ofInt ((bad.head?).getD 0 : Nat)]]
        (cmpFlags d d.fmtA a ||| cmpFlags d d.fmtB b) n

/-- The whole-extent check of every operation but GATHER and SCATTER (R228). -/
def State.preFault (s : State) (d : Desc) : Option DOut :=
  if d.op = opGather ∨ d.op = opScatter then none else s.extentFault d

/-- A descriptor run in one pass as it stands, CHPERM by `q` and `r` (R227 to R233). -/
def State.runDesc (s : State) (tol : Bool) (q r : Nat) (d : Desc) : DOut :=
  if d.error tol then { status := 3 }
  else
    match s.preFault d with
    | some o => o
    | none => s.runForm tol (d.plain q r)

/-- A descriptor run in a leeward pass or a rerun (10 R266, R276): each operand that an earlier descriptor of the job has not left
in leeward scratch is copied there, and the descriptor runs on the copies. The table of a SCATTER is copied to where its result
stands; `before` holds that table as the first pass found it (log entry 76). -/
def State.runLee (s : State) (tol : Bool) (v : View) (ops : List LeeOp) (before : Bytes) (d : Desc) : DOut :=
  let f := d.lee v ops
  if d.error tol then { status := 3, desc := some f.desc }
  else
    let copies := ops.filter (·.copy)
    match copies.findSome? fun c => (s.extentFault (d.copyDesc c.src c.dst)).map fun o =>
        { o with desc := some (d.copyDesc c.src c.dst) } with
    | some o => o
    | none =>
      match s.preFault d with
      | some o => { o with desc := some f.desc, addr := if o.write then rotAddr v.rot o.addr else o.addr }
      | none =>
        let ws := copies.flatMap fun c => c.dst.puts (s.tainted c.src) (s.elemsOf c.src)
        let tbl : List (Nat × Bytes × Bool) :=
          if d.op = opScatter ∧ d.subop ≠ 0 then
            d.matD.elim [] fun m =>
              let s := if before.isEmpty then s else s.poke m.base before
              (m.under v d.c).puts (s.tainted m) (s.elemsOf m)
          else []
        let o := (s.commitWrites (ws ++ tbl)).runForm tol f
        { o with desc := some f.desc, writes := ws ++ tbl ++ o.writes }

end Sys2Proof.Machine
end

