-- ==== Sys2Proof/Machine/SmlSend.lean ====
section
/-! DEFINITION. The safe message layer's sending side (14 R396, R397, R399), the port states of R406, and the tolerable
faults of 01 Table 1.6 as they stand. -/

namespace Sys2Proof.Machine

/-- Device time in µs, modulo 2³² (14 R399). -/
def State.devUs (s : State) : Nat := s.dev / 1000 % 2 ^ 32

/-- Connection slot `k`. -/
def State.conn (s : State) (k : Nat) : Conn := getN s.sml.conns k

/-- Change connection slot `k`. -/
def State.onConn (k : Nat) (f : Conn → Conn) (s : State) : State := s.onSml fun m => { m with conns := modN m.conns k f }

/-- The CRC of a safe message: over the VCID, HEADER, PAYLOAD and TIMESTAMP (R397). -/
def safeCrc (vcid : Nat) (body : Bytes) : Nat := crc32c (beBytes 8 vcid ++ body)

/-- The frame data of a safe message (Table 14.2). -/
def safeFrame (r : ConnRec) (type seq : Nat) (payload : Bytes) (ts : Nat) : Bytes :=
  let body := beBytes 4 (fld r.conn 20 12 + fld type 16 4 + fld seq 0 16) ++ payload ++ beBytes 4 ts
  body ++ beBytes 4 (safeCrc r.vcid body)

/-- The data sent on each of ETH0 and ETH1 whose link is up. -/
def State.sendBoth (r : ConnRec) (data : Bytes) (s : State) : State :=
  s.each [0, 1] fun p s =>
    if s.sml.link.getD p false then s.send (.safe p r.mac r.vid r.pcp data) else s

/-- A message of a TX connection: identical bytes on both ports, SEQ one greater than the previous one (R399). Its
journal entry opens at the write and closes with the sending (19 Table 19.4), both within this step. -/
def State.sendMsg (k : Nat) (type : Nat) (payload : Bytes) (s : State) : State :=
  s.with (s.img.slot k) fun r s =>
    let data := safeFrame r type (s.conn k).seq payload s.devUs
    (s.onConn k fun c => { c with seq := (c.seq + 1) % 65536 }).sendBoth r data

/-- The slots of the TX connections, in record order. -/
def State.txSlots (s : State) : List Nat := indicesWhere (fun (r : ConnRec) => r.dir == 1) s.img.messages.conns

/-- The slots of the RX connections with a flag of Table 14.10. -/
def State.rxSlots (s : State) (flag : Nat) : List Nat :=
  indicesWhere (fun (r : ConnRec) => r.dir == 0 && bit r.flags flag) s.img.messages.conns

/-- The TX slots that some AUDIT record names as TOKEN_CONN. -/
def State.tokenSlots (s : State) : List Nat :=
  s.txSlots.filter fun k => s.img.audChans.any fun a =>
    bit a.flags 0 && (s.img.slot k).any fun r => r.conn == a.tokenConn

/-- Single-path (R406): a port LOST on a PATH_MON connection, or a link down. -/
def State.singlePath (s : State) : Bool :=
  s.sml.link.any (!·) || (s.rxSlots 1).any fun k => (s.conn k).ports.any (!·)

/-- A core in ADMITTED, also while it runs a segment of its self-test (08 R239). -/
def ACore.serves (c : ACore) : Bool := c.state == .admitted || c.state == .testing

/-- Cores fenced for Table 1.6: probation, and a readmission attempt's BIST, count as fenced (08 R238, R242). -/
def ACore.fenced (c : ACore) : Bool :=
  match c.state with
  | .fenced | .probation => true
  | .bist => c.readmit
  | _ => false

/-- The number of fenced cores. -/
def State.fencedCount (s : State) : Nat := (s.aud.cores.filter ACore.fenced).length

/-- The Vane's usable delay slots (10 R284). -/
def Vane.usable (v : Vane) : Nat := (v.slots.filter (!·.retired)).length

/-- VANE_STAT.NO_LANE (10 R284). -/
def Vane.noLane (v : Vane) : Bool := v.lanes.all (!·.ok) || decide (v.usable < 64)

/-- VANE_STAT.REDUCED (10 R284). -/
def Vane.reduced (v : Vane) : Bool := !v.noLane && (v.lanes.any (!·.ok) || decide (v.usable < 256))

/-- A REDUNDANT stream that is not LIVE again after it was LOST (06 R182). -/
def State.streamLost (s : State) : Bool :=
  s.img.streams.any fun r => bit r.flags 1 && (getN s.fiu.streams r.stream).lostMark

/-- A background activity that has missed twice (17 R484), telemetry left out. -/
def State.bgTwice (s : State) : Bool := (s.psm.bg.take 4).any (·.twice) || s.psm.tests.any (·.twice)

/-- The tolerable faults present (01 Table 1.6). -/
def State.tolerable (s : State) : List Tol :=
  (if s.singlePath then [.singlePath] else [])
  ++ (if s.fencedCount = 0 then [] else if s.fencedCount ≤ 2 then [.coresFenced] else [.coresMany])
  ++ (if s.streamLost then [.streamLost] else [])
  ++ (if s.vane.noLane then [.vaneNone] else if s.vane.reduced then [.vaneReduced] else [])
  ++ (if s.bgTwice then [.bgMiss] else [])

/-- Verdicts are computed (01 Table 1.3). -/
def St.computes : St → Bool
  | .commission | .run | .degraded | .halted => true
  | _ => false

/-- SYS_STATE.VERDICT_CAP (01 R31): a tolerable fault limits verdicts to DOUBT, in the states that compute verdicts. -/
def State.verdictCap (s : State) : Bool :=
  s.sys.state.computes && s.tolerable.any fun x => x == .coresMany || x == .vaneNone

/-- An STO pair is energised (01 R31 TORQUE). -/
def State.torque (s : State) : Bool := s.slb.stoPin.any id

/-- A group is in SS1 (01 R31 SS1_ACTIVE). -/
def State.ss1Active (s : State) : Bool := s.slb.groups.any fun g => g.state == .time || g.state == .ramp

/-- Every group is TORQUE_OFF: SS1 or STO has completed (01 R21). -/
def State.stopped (s : State) : Bool := s.slb.groups.all (·.state == .off)

/-- STATUS of a TX connection (Table 14.4). -/
def State.sendStatus (k : Nat) (s : State) : State :=
  let flags := flg s.sys.state.permits 0 + flg s.singlePath 1 + flg s.ss1Active 2 + flg s.torque 3
  (s.sendMsg k 1 (beBytes 8 s.dev ++ [byte s.sys.state.code, byte flags, byte s.sys.tripSrc, 0]
    ++ beBytes 4 s.vrd.revoked ++ beBytes 4 s.vrd.tokenLast ++ zeros 4)).onConn k fun c => { c with statusAt := s.now }

/-- REVOKE on every TX connection named as TOKEN_CONN, with the highest token number (01 R22, 12 R344, Table 14.4). -/
def State.revoke (cause : Nat) (s : State) : State :=
  let n := s.vrd.tokenLast
  let s := s.onVrd fun v => { v with revoked := n }
  s.each s.tokenSlots fun k s => s.sendMsg k 3 (beBytes 4 n ++ [byte cause, 0, 0, 0])

/-- STOP_COMMAND on every TX connection (R399, Table 14.4): `kind` 1 STO, 2 SS1. -/
def State.stopCommand (kind groups src : Nat) (s : State) : State :=
  let mx := if kind = 1 then 0 else
    ((s.params.groups.zipIdx.filter fun x => bit groups x.2).map (·.1.ss1Max)).foldl max 0
  s.each s.txSlots fun k s =>
    s.sendMsg k 4 ([byte kind, byte groups, byte src, 0] ++ beBytes 2 mx ++ zeros 2)

end Sys2Proof.Machine
end

