-- ==== Sys2Proof/Machine/States.lean ====
section
/-! DEFINITION. The operating states (01): seal classes, transitions, resets, trips of the SP and the SLB, and what one SP
cycle decides about them (R18 to R30). -/

namespace Sys2Proof.Machine

/-! ## Seals (05 R131) -/

/-- Seal pattern classes (05 Table 5.3). -/
inductive SealClass where
  | program | run | other
  deriving DecidableEq, Repr

/-- SEAL3 to SEAL0 as last agreed. -/
def State.sealPattern (s : State) : Nat := maskOf s.seals.agreed

/-- The class of the pattern; a switch whose contacts disagree gives no pattern (R49, R131). -/
def State.sealClass (s : State) : SealClass :=
  if s.seals.bad.any id then .other
  else if s.sealPattern = 15 then .program
  else if s.secrets.run = some s.sealPattern then .run
  else .other

/-! ## Transitions -/

/-- The SP firmware runs: not before S1 has verified it, not under a reset, and not halted by debug. -/
def State.spRuns (s : State) : Bool :=
  s.sup.on && !s.sys.spHeld && !s.sup.thermal && !s.dbg.spHalted && s.start.holdAt.isNone
    && (match s.sys.state with
      | .off => false
      | .start => decide (2 ≤ s.start.stage)
      | _ => true)

/-- Entry to a state: logged, and an unannounced wake (17 R480). On every exit from RUN, DEGRADED or COMMISSION a revocation
follows, unless the SP cannot send one (R22; log entry 53). An exit from HALTED clears the REJECT counts (12 R342). -/
def State.setState (dest : St) (spAlive : Bool) (s : State) : State :=
  if s.sys.state = dest then s
  else
    let from_ := s.sys.state
    let s := s.onSys fun y => { y with state := dest }
    let s := s.ev 0x0001 0 noSub (fld dest.code 0 8 + fld from_.code 8 8)
    let s := if spAlive ∧ from_.permits then s.revoke 0 else s
    let s := if from_ = .halted then s.onVrd fun v => { v with queues := v.queues.map fun q => { q with esc := 0 } } else s
    s.wake

/-- The trigger outputs are held inactive: a pulse in progress ends (03 R70, R76). -/
def State.trigStop (s : State) : State :=
  let l := s.clk.trigs.zipIdx.filter fun x => x.1.pulse
  let s := (s.onClk fun c => { c with trigs := c.trigs.map fun g => { g with pulse := false } }).onStart fun x => { x with s7Done := false }
  s.each l fun x s => s.send (.trig x.2 x.1.pol)

/-- The companion die's blocks at a reset: a warm one keeps device time, retention, the frame forensic ring, the host queue
configuration and the responses of the last 5 s, a cold one keeps retention and the RTC (04 R91, 03 R76, 05 R151, 16 R456, 18
R508). Of the CLK registers R76 and R91 name device time, its addend and STATE as kept by a warm start; that PORT, DISAGREE,
HOLD_S, CLK_OFFSET, FAIL_SEEN, CLK_STAT's findings and the triggers' settings, BADPARAM and MISSED are kept with them is a DESIGN
CHOICE (log entry 55). What the SLB itself finds of CLK_SP and CLK_FAB no reset of the die touches. -/
def State.resetBlocks (warm : Bool) (s : State) : State :=
  { s with
    clk := (if warm then { s.clk with trigs := s.clk.trigs.map fun g => { g with pulse := false } }
      else { spOk := s.clk.spOk, fabOk := s.clk.fabOk, okSince := s.clk.okSince })
    caps := []
    fiu := {}
    fgu := {}
    aud := {}
    vane := {}
    beu := { stks := s.beu.stks.map fun k => { temp := k.temp, hot := k.hot, coolAt := k.coolAt } }
    vrd := {}
    sml := { link := s.sml.link }
    cvu := {}
    xwl := {}
    hq := (if warm then { queues := s.hq.queues.map fun h => { h with recov := [], unsig := 0, firstAt := none } } else {})
    fwl := {}
    tsu := {}
    psm := {}
    mon := {}
    log := (if warm then { fringNext := s.log.fringNext, fringAt := s.log.fringAt, fring := s.log.fring } else {})
    dbg :=
      { enabled := warm && s.dbg.enabled, method := if warm then s.dbg.method else 0,
        scopeSp := warm && s.dbg.scopeSp, pres := s.dbg.pres, nonce := s.dbg.nonce, ir := s.dbg.ir,
        preload := s.dbg.preload, capture := s.dbg.capture, bypass := s.dbg.bypass, extest := s.dbg.extest }
    cfg := { slots := s.cfg.slots, role := s.cfg.role, changes := s.cfg.changes, resps := if warm then s.cfg.resps else [],
             sessions := s.cfg.sessions }
    sup := { s.sup with uvSeen := false }
    sys := { state := s.sys.state, powerFail := s.sys.powerFail, spHeld := s.sys.spHeld, internal := s.sys.internal }
    mem := (if warm then memErase s.mem 0x140000000 0x10000000 else []) }

/-- A start record in the SLB's memory, the previous two shifted into history; the SP logs it when it is able to: at once when it
runs on, else in the S2 that follows (04 R114). -/
def State.startRecord (able : Bool) (code : Nat) (s : State) : State :=
  let s := s.onNvm fun n => { n with hist := (code :: n.hist).take 3 }
  if able then s.ev 0x0003 3 noSub code else s.onStart fun x => { x with owed := x.owed ++ [code] }

/-- A stage failure (04 R114): the record, and the die held in reset for 1.0 s, which ends its heartbeat and its frames. -/
def State.stageFail (cause : Nat) (s : State) : State :=
  let s := (s.startRecord false (s.start.stage * 256 + cause)).trigStop
  let s := s.onSlb fun b => { b with link := [], beat := none, beatOk := false }
  s.onStart fun x => { x with holdAt := some s.now, holdLast := s.counter == 3 }

/-- The record of a start that ends before its 60 s hold (04 R110, R115): the stage reached, or 0x09 after S8. A failure
that its own record already tells adds none, but for a power failure, which is recorded in every part of START. `able` says that
the SP runs on and logs it. -/
def State.endRecord (able : Bool) (cause : Nat) (s : State) : State :=
  match s.sys.state with
  | .off | .doldrums => s
  | .start => if s.start.holdAt.isSome ∧ cause ≠ 0xF0 then s else s.startRecord able (s.start.stage * 256 + cause)
  | _ => if s.counter = 0 then s else (s.startRecord able (0x0900 + cause)).onStart fun x => { x with breakBy := 0 }

/-- A restart ends a start whose 60 s hold a trip has broken: its record carries that trip's source (04 R115). -/
def State.restartRecord (s : State) : State :=
  if s.sys.state = .commission ∧ s.start.breakBy ≠ 0 ∧ s.counter ≠ 0 then s.startRecord true (0x0900 + s.start.breakBy) else s

/-- The start attempt counter steps on entry to START, unless it stands at 3 (01 R19, 04 R108). -/
def State.countStart (s : State) : State :=
  let c := s.counter
  let s := s.onStart fun x => { x with counted := decide (c < 3) }
  if c < 3 then s.onNvm fun n => { n with counter := Copies.put (c + 1) } else s

/-- Bytes of an element of a BEU format (09 R259); none for a format the BEUs do not accept. -/
def beuWidth : Nat → Option Nat
  | 0x00 => some 4
  | 0x01 | 0x02 | 0x0D => some 2
  | 0x0E => some 1
  | _ => none

def BCmd.countOnly (c : BCmd) : Bool := bit c.flags 0

/-- Bytes of the destination. -/
def BCmd.outBytes (c : BCmd) : Nat := c.count * (beuWidth c.fmtOut).getD 1

/-- The destination range, empty with COUNT_ONLY. -/
def BCmd.dest (c : BCmd) : List (Nat × Nat) := if c.countOnly then [] else [(c.dst, c.outBytes)]

/-- The destinations of the commands that a reset discards hold unspecified content, until the sweep (11 R312; log entry 63). -/
def State.loseDests (s : State) : State :=
  s.each (s.beu.stks.flatMap fun k => k.running.flatMap fun r => r.cmd.dest) fun x s =>
    let (b, s) := s.drawBytes x.2
    s.poke x.1 b

/-- The die's reset: its blocks, the debug nonce, and the supervisor's view of the start that follows, with every BIST register and
DURATION_MS at its reset value (04 R91, R123, R126). A cold one loses the stacks' contents. -/
def State.resetDie (warm : Bool) (s : State) : State :=
  let s := (if warm then s.loseDests else s).resetBlocks warm
  let s := { s with poison := if warm then s.poison else [] }
  let (n, s) := s.drawBytes 16
  let s := s.onDbg fun d => { d with nonce := n }
  s.onStart fun x => { warm := warm, s0At := s.now, stageAt := s.now, owed := x.owed, fw := x.fw }

/-- A start begins: every stage runs again from S0 (04 R91, R93). -/
def State.beginStart (warm spAlive : Bool) (s : State) : State :=
  let s := ((s.restartRecord.setState .start spAlive).trigStop.resetDie warm).countStart
  s.onSlb fun b => { b with permit := false, report := .start, before := .start, holdAt := none, restarted := false,
                            armed := false, link := [], beat := none, beatOk := false, hbOut := false, outSeen := [false, false] }

/-- DOLDRUMS (04 R108, R117, R118): the queues open, the PSM stays in Calm, the reason is kept across power cycles. -/
def State.enterDoldrums (reason : Nat) (s : State) : State :=
  let s := (s.setState .doldrums false).trigStop
  let s := s.onStart fun x => { x with stage := 0, doldrums := reason, holdAt := none, diagAt := none }
  let s := s.onNvm fun n => { n with reason := reason }
  let s := s.evOpen 0x00 "DOLDRUMS" noSub reason
  let s := s.onHq fun h => { h with opened := true }
  s.onPsm fun p => { p with state := .calm, entering := none, waking := none }

/-- OFF (R18, R28): every pin falls with the supplies. The SP, which the hold-up has kept running, sends the revocation of R22. -/
def State.enterOff (s : State) : State :=
  let s := (s.setState .off s.spRuns).trigStop
  let s := s.onSup fun u => { u with on := false }
  let s := s.onSys fun y => { state := .off, spHeld := y.spHeld, internal := y.internal }
  s.onSlb fun b => { paramCrc := b.paramCrc }

/-! ## Trips -/

/-- A trip raised at the SP waits for its next cycle (R25). -/
def State.spTrip (src : Nat) (sto : Bool) (s : State) : State :=
  s.onSys fun y => { y with pendTrips := y.pendTrips ++ [{ src := src, sto := sto }] }

/-- A trip found by the SLB between its cycles is taken by the next one (13 R359). -/
def State.slbTrip (src : Nat) (sto : Bool) (s : State) : State :=
  s.onSlb fun b => { b with due := b.due ++ [{ src := src, sto := sto }] }

/-- The degraded timer's length in ns (13 Table 13.5). -/
def State.degLimit (s : State) : Nat := s.params.degTimerS * sec

/-- The single-path timer has run out (14 R408). -/
def State.singleExpired (s : State) : Bool := s.pastOpt s.sml.singleAt s.degLimit

/-- The state that S8 and a restart lead to (R18, R132, 04 R105); none for seals OTHER with an admitted image. -/
def State.target (s : State) : Option St :=
  if s.dbg.enabled ∨ !s.cfg.admitted then some .commission
  else
    match s.sealClass with
    | .program => some .commission
    | .run => some .run
    | .other => none

/-- SEAL_CHANGE is active (R21, R26, 02 R50): in RUN and DEGRADED a pattern other than RUN or an open cover; in HALTED a pattern
that no state follows, or an open cover where RUN would (log entry 53). -/
def State.sealActive (s : State) : Bool :=
  match s.sys.state with
  | .run | .degraded => decide (s.sealClass ≠ .run) || s.seals.open_
  | .halted => (match s.target with | some .run => s.seals.open_ | some _ => false | none => true)
  | _ => false

/-- Trip sources of the SP that are still active: a STOP_ON_LOSS connection FAILED, the single-path timer run out, SEAL_CHANGE, and
what `Sys.active` holds (R21; log entry 22). -/
def State.spActive (s : State) : List Nat :=
  (if (s.rxSlots 0).any fun k => (s.conn k).state == .failed then [0x08] else [])
  ++ (if s.singleExpired then [0x0C] else [])
  ++ (if s.sealActive then [0x0D] else [])
  ++ s.sys.active

/-- The stop request field takes a stronger request; it keeps a weaker or equal one (13 R368, R24). -/
def State.request (sto : Bool) (src : Nat) (s : State) : State :=
  let n := if sto then 2 else 1
  s.onSys fun y =>
    { y with
      req := max y.req n
      reqSrc := if y.req < n then src else y.reqSrc
      reqAt := if y.req < n then s.now else y.reqAt
      ss1At := (match y.ss1At with | some i => some i | none => if sto then none else some s.now)
      cut := y.cut || sto }

/-- The request by which the SP has the SLB hold its STO for a trip in START or DOLDRUMS, until the source clears (R27). -/
def State.holdStop (sto : Bool) (src : Nat) (s : State) : State :=
  let n := if sto then 2 else 1
  s.onSys fun y =>
    { y with req := max y.req n, reqSrc := if y.req < n then src else y.reqSrc, reqAt := if y.req < n then s.now else y.reqAt }

/-- One trip resolved in an SP cycle (R18, R21, R27, R29, R30): logged; outside START and DOLDRUMS it lapses the arming
and leads to HALTED. `own` says that the SP raised it and so requests the stop itself. -/
def State.takeTrip (own : Bool) (x : Trip) (s : State) : State :=
  let s := s.ev 0x0002 4 noSub x.src
  match s.sys.state with
  | .off => s
  | .start | .doldrums => if own then s.holdStop x.sto x.src else s
  | st =>
    let s := s.onSys fun y => { y with armedAt := none }
    let s := s.onStart fun z => { z with breakBy := if z.breakBy = 0 ∧ s.counter ≠ 0 then x.src else z.breakBy }
    let s := if own then s.request x.sto x.src else if x.sto then s.onSys fun y => { y with cut := true } else s
    if st.permits then
      let s := s.onSys fun y => { y with tripSrc := x.src, degRun := false }
      s.setState .halted true
    else s

/-- Whether a trip bears on the state (R27). -/
def St.tripActs : St → Bool
  | .off | .start | .doldrums => false
  | _ => true

/-- What a debug break of Table 1.5 does: RUN or DEGRADED is left for COMMISSION through SS1 (18 R508). -/
def State.debugToCommission (s : State) : State :=
  match s.sys.state with
  | .run | .degraded =>
    let s := s.request false 0
    let s := s.onSys fun y => { y with degRun := false }
    s.setState .commission true
  | _ => s

/-- The degraded timer stops and resets (R20). -/
def State.degClear (s : State) : State :=
  s.onSys fun y => { y with degElapsed := 0, degRun := false, degHeld := false, degDue := false }

/-- RUN becomes DEGRADED: the timer starts from zero, or resumes from its frozen value after HALTED (R20). -/
def State.toDegraded (resume : Bool) (s : State) : State :=
  let s := s.setState .degraded true
  s.onSys fun y =>
    { y with degElapsed := if resume then y.degElapsed else 0, degRun := true, degHeld := true, tolSeen := s.tolerable }

/-- DEGRADED becomes RUN: the timer stops and resets (R20). -/
def State.toRun (s : State) : State := (s.setState .run true).degClear

/-- Two rows of Table 1.6 that tell of one fault, which has grown or shrunk. -/
def Tol.same : Tol → Tol → Bool
  | .coresFenced, .coresMany | .coresMany, .coresFenced | .vaneReduced, .vaneNone | .vaneNone, .vaneReduced => true
  | a, b => a == b

/-- Every tolerable fault of the last cycle has cleared, whether or not others have come (R25 item 4). -/
def State.tolCleared (s : State) : Bool := s.sys.tolSeen.all fun f => !s.tolerable.any (Tol.same f)

/-- A restart out of HALTED ends the bookkeeping of the stop (R21, R31). -/
def State.endStop (s : State) : State :=
  s.onSys fun y => { y with tripSrc := 0, armedAt := none, req := 0, reqSrc := 0, ss1At := none, cut := false }

/-- The conditions of R21 that the SP knows: there is a state to enter, no source of the SP is active or waits, and with a
tolerable fault the frozen timer has not expired. -/
def State.restartOk (s : State) : Bool :=
  s.target.isSome && s.spActive.isEmpty && s.sys.pendTrips.isEmpty && (s.tolerable.isEmpty || decide (s.sys.degElapsed < s.degLimit))

/-- A restart whose acknowledge the SLB has accepted (R18, R20, R21). If a condition has gone in the meantime, torque stays off. -/
def State.restartFrom (s : State) : State :=
  match s.target with
  | some st =>
    if s.restartOk then
      let f := !s.tolerable.isEmpty
      let s := (s.endStop).setState st true
      if !f then s.degClear else if st = .run then s.toDegraded true else s
    else s.onSlb fun b => { b with permit := false }
  | none => s.onSlb fun b => { b with permit := false }

/-- TQEN after an SP cycle (R12 to R14, 14 R403): activated only in a state that permits torque, with every STOP_ON_LOSS
connection OPEN and no trip that the SP finds; through an SS1 in HALTED it is kept until the SS1 has completed. -/
def State.settleTqen (s : State) : State :=
  let y := s.sys
  let hold := (s.rxSlots 0).any fun k => (s.conn k).state != .open_
  let on :=
    if y.cut ∨ y.powerFail ∨ !s.sup.on ∨ y.spHeld ∨ s.dbg.spHalted then false
    else if y.state.permits then y.tqen || (!hold && y.pendTrips.isEmpty && s.spActive.isEmpty)
    else if y.state = .halted then y.tqen && !s.stopped
    else false
  s.onSys fun y => { y with tqen := on }

/-- The request field falls back to NONE once the stop has completed, the SLB has had time to filter it, and no source
of the SP is active any more (13 R368; log entry 22). -/
def State.settleReq (s : State) : State :=
  let wait := s.params.reqFilter * 500000 + 2 * 250000 + ms
  if s.sys.req ≠ 0 ∧ s.stopped ∧ s.spActive.isEmpty ∧ s.past s.sys.reqAt wait then
    s.onSys fun y => { y with req := 0, reqSrc := 0, ss1At := none }
  else s

end Sys2Proof.Machine
end

