-- ==== Sys2Proof/Machine/Slb.lean ====
section
/-! DEFINITION. The Safety Logic Block (13): the cycle of R359 and the events between cycles. Its two lanes hold equal
state (log entry 14). -/

namespace Sys2Proof.Machine

/-! ## Shared parts of the cycle -/

/-- The input record `n` of the stored parameters. -/
def Safety.input (p : Safety) (n : Nat) : SafIn := p.inputs.getD n { kind := 0 }

/-- A channel OFF of a two-channel input. -/
def SInput.demand (x : SInput) : Bool := !(x.a && x.b)

/-- A GUARD input in its healthy state (R361, R364, R367). -/
def SInput.healthy (x : SInput) : Bool := x.a && x.b && !x.disc && !x.pulse

/-- HEALTHY of SLBM_SUMMARY (R393): GUARD healthy, ACK not faulted, UNUSED 1. -/
def inputOk (r : SafIn) (x : SInput) : Bool :=
  match r.kind with
  | 1 => x.healthy
  | 2 => !x.disc && !x.pulse
  | _ => true

/-- Every safe input is in its healthy state. -/
def Slb.inputsOk (p : Safety) (b : Slb) : Bool := (p.inputs.zip b.inputs).all fun x => inputOk x.1 x.2

/-- Four cycles' difference of an encoder count, signed modulo 2³² (R377). -/
def Encoder.delta (e : Encoder) : Int := toSigned 32 (getN e.counts 0 + 2 ^ 32 - getN e.counts 4 % 2 ^ 32)

/-- |v_a| in µrad/s: Δ × NRAD_PER_COUNT (R377). -/
def Encoder.absMicro (x : SafAxis) (e : Encoder) : Nat := (e.delta * x.nrad).natAbs

/-- An encoder after a cycle's count; SPEED is v_a in mrad/s, truncated (R377; log entry 23). -/
def Encoder.take (x : SafAxis) (n : Nat) (e : Encoder) : Encoder :=
  let e := { e with counts := (n % 2 ^ 32 :: e.counts).take 5 }
  { e with speed := Int.tdiv (e.delta * x.nrad) 1000 }

/-- The axes of a group. -/
def SafGroup.axisList (g : SafGroup) : List Nat := (List.range 8).filter fun a => bit g.axes a

/-- The envelope of an axis in whole µrad/s, rounded down, `t` ns after the start of SS1 (R376): a speed in whole µrad/s exceeds the
exact envelope when it exceeds this. -/
def envelope (g : SafGroup) (x : SafAxis) (v0 t : Nat) : Nat :=
  let base := v0 + x.tol * 1000
  if t < g.rampDelay * ms then base
  else
    let drop := ceilDiv (x.dec * (t - g.rampDelay * ms)) ms
    max (base - drop) ((x.still + x.tol) * 1000)

/-- SLS applies to a group (R379). -/
def slsActive (st : St) (g : SafGroup) : Bool :=
  g.used == 1 && (match st with
    | .commission => true
    | .run | .degraded => bit g.flags 0
    | _ => false)

/-- A group whose pair is energised. -/
def GroupSt.live : GroupSt → Bool
  | .off => false
  | _ => true

/-- What a cycle sees of a group: axes above the envelope or the SLS limit now, and whether either was so in the
previous cycle too; whether every axis is at or below STILL. -/
def Group.watch (p : Safety) (now : Nat) (b : Slb) (r : SafGroup) (g : Group) : Group × Bool × Bool :=
  let t := now - g.ss1At.getD now
  let sp (a : Nat) : Nat := (getN b.qe a).absMicro (getN p.axes a)
  let isOver := (List.range 8).map fun a =>
    g.state == .ramp && bit r.axes a && decide (envelope r (getN p.axes a) (getN g.v0 a) t < sp a)
  let sls := slsActive b.report r && g.state.live
  let fast := (List.range 8).map fun a => sls && bit r.axes a && decide ((getN p.axes a).sls * 1000 < sp a)
  let viol := (isOver.zip g.isOver).any fun x => x.1 && x.2
  let slow := (fast.zip g.fast).any fun x => x.1 && x.2
  let stillNow := r.axisList.all fun a => decide (sp a ≤ (getN p.axes a).still * 1000)
  let still := if g.state == .ramp ∧ stillNow then (match g.still with | some i => some i | none => some now) else none
  ({ g with isOver := isOver, fast := fast, still := still, sls := slsActive b.report r }, viol, slow)

/-- A group stopped by STO (R372); an SS1 that it cuts short ends with `why`. -/
def Group.sto (now why : Nat) (g : Group) : Group :=
  { g with
    state := .off
    end_ := if g.state = .time ∨ g.state = .ramp then why else g.end_
    ss1Len := if g.state = .time ∨ g.state = .ramp then (now - g.ss1At.getD now) / ms else g.ss1Len
    isOver := List.replicate 8 false
    fast := List.replicate 8 false
    still := none }

/-- SS1 starts on a group (R374 to R376). -/
def Group.ss1 (p : Safety) (now : Nat) (b : Slb) (r : SafGroup) (g : Group) : Group :=
  { g with
    state := if r.ss1Kind = 0 then .time else .ramp
    ss1At := some now
    v0 := (List.range 8).map fun a => if bit r.axes a then (getN b.qe a).absMicro (getN p.axes a) else 0
    isOver := List.replicate 8 false
    still := none }

/-- The end of a running SS1 that its own rules call for: standstill before SS1_MAX (R375, R376, Table 13.3). -/
def Group.ss1End (now : Nat) (r : SafGroup) (g : Group) : Option Nat :=
  let elapsed := decide (g.ss1At.getD now + r.ss1Max * ms ≤ now)
  match g.state with
  | .ramp =>
    if g.still.any fun i => i + r.stillTime * ms ≤ now then some 1 else if elapsed then some 2 else none
  | .time => if elapsed then some 4 else none
  | _ => none

/-- The on-time of a brake's PWM in steps of 31.25 ns, 0 for an omitted pulse (R381). `v` is the supply in mV. -/
def pwmSteps (r : SafBrake) (v : Nat) : Nat :=
  let req := if v = 0 then 1600 else r.holdPct * 1600 * 24000 / (100 * v)
  let dead := r.dead * 100 + 2000
  if req * 3125 ≤ dead * 100 then 0
  else if (1600 - min req 1600) * 3125 < dead * 100 ∨ 1600 < req then (50000 - dead) * 100 / 3125
  else req

/-- A brake engine advanced (R380, R381). `on` says that its group is energised. -/
def Brake.advance (now : Nat) (r : SafBrake) (on : Bool) (v : Nat) (k : Brake) : Brake :=
  if !on then { k with phase := .off, onTime := 0 }
  else
    let k :=
      match k.phase with
      | .off => { k with phase := BrakeSt.wait, since := now }
      | _ => k
    let k := if k.phase = .wait ∧ k.since + r.releaseMs * ms ≤ now then { k with phase := .pullin, since := now } else k
    let k := if k.phase = .pullin ∧ k.since + r.pullinMs * ms ≤ now then { k with phase := .hold, since := now } else k
    match k.phase with
    | .hold =>
      let n := pwmSteps r v
      { k with onTime := n, drop := if n = 0 then satAdd 32 k.drop 5 else k.drop }
    | .pullin => { k with onTime := 1600 }
    | _ => { k with onTime := 0 }

/-- A brake's output is on. -/
def Brake.on (k : Brake) : Bool :=
  match k.phase with
  | .pullin | .hold => true
  | _ => false

/-- The states in which demands are old and torque is off anyway. -/
def St.idle : St → Bool
  | .off | .start | .doldrums => true
  | _ => false

/-- The trips a demand of a GUARD input or of the chain gives when it begins (R365, R385); a GUARD demand that begins in OFF, START
or DOLDRUMS is none (04 R106). -/
def demandTrips (p : Safety) (b : Slb) : List Trip :=
  ((p.inputs.zip b.inputs).filterMap fun x =>
    if x.1.kind = 1 ∧ !b.report.idle ∧ x.2.demand ∧ !x.2.dem ∧ !x.2.old then some { src := 0x01, sto := decide (x.1.reaction = 1) }
    else none)
  ++ (if p.chain = 1 ∧ b.chain.demand ∧ !b.chain.dem then [{ src := 0x07, sto := true }] else [])

/-- The demand marks after a cycle; in OFF, START and DOLDRUMS a demand counts as old (R365, 04 R106). -/
def SInput.mark (starting : Bool) (x : SInput) : SInput :=
  { x with dem := x.demand, old := x.demand && (starting || x.old) }

/-- The trip sources of the SLB that are active now (R21, R390). -/
def Slb.sources (p : Safety) (params : Copies Safety) (b : Slb) : List Nat :=
  (if (p.inputs.zip b.inputs).any (fun x => x.1.kind == 1 && x.2.demand && !x.2.old) then [0x01] else [])
  ++ (if (p.inputs.zip b.inputs).any (fun x => x.1.kind ≠ 0 && (x.2.disc || x.2.pulse))
        || (p.groups.any fun g => g.axisList.any fun a => (getN b.qe a).fault) then [0x02] else [])
  ++ (if b.outFault.any id then [0x06] else [])
  ++ (if p.chain = 1 ∧ (b.chain.demand ∨ b.chain.disc) then [0x07] else [])
  ++ (if b.supplyTrip ∨ (!params.aOk ∧ !params.bOk) then [0x10] else [])

/-- The SP's request as the SLB reads it: 0 none, 1 SS1, 2 STO (R369). -/
def Slb.request (b : Slb) : Nat := if b.filtA = 2 then 2 else if b.filtA = 1 then 1 else if b.filtB then 2 else 0

/-- The request channels pass REQ_FILTER (R368). -/
def Slb.filter (p : Safety) (now : Nat) (b : Slb) : Slb :=
  let w := p.reqFilter * 500000 - 50000
  { b with
    filtA := if b.reqASince + w ≤ now then b.reqA else b.filtA
    filtB := if b.reqBSince + w ≤ now then b.reqB else b.filtB }

/-! ## SLB_CYCLE -/

/-- Outputs whose readback disagrees or that a fault has cut; a fault ends once its output is commanded off and reads
back as commanded (R14, R43, R373; log entry 24). -/
def Slb.outFaults (i : SlbIn) (b : Slb) : List Bool :=
  let cmd := b.stoCmd ++ b.brkCmd ++ b.chainCmd
  b.outFault.zipIdx.map fun x => bit i.readback x.2 || (x.1 && getN cmd x.2)

/-- Step 1 of R359: filtered requests, encoder counts and supplies. -/
def Slb.takeIn (p : Safety) (now : Nat) (i : SlbIn) (b : Slb) : Slb :=
  let b := b.filter p now
  { b with
    qe := b.qe.zipIdx.map fun x => x.1.take (getN p.axes x.2) (getN i.counts x.2)
    outFault := b.outFaults i
    laneDiff := if i.laneDiff then satInc b.laneDiff else b.laneDiff }

/-- The trips that step 2 of R359 finds, with each group as watched. `was` holds the output faults before this cycle. -/
def Slb.findTrips (p : Safety) (now : Nat) (i : SlbIn) (was : List Bool) (b : Slb) :
    List Trip × List (Group × Bool × Bool) :=
  let ws := b.groups.zipIdx.map fun x => x.1.watch p now b (getN p.groups x.2)
  let trips := demandTrips p b ++ b.due
    ++ (if (was.zip (boolsOf 14 i.readback)).any (fun x => !x.1 && x.2) then [({ src := 0x06, sto := true } : Trip)] else [])
    ++ (if i.laneDiff then [{ src := 0x10, sto := true }] else [])
    ++ (if ws.any (·.2.1) then [{ src := 0x03, sto := true }] else [])
    ++ (if ws.any (·.2.2) then [{ src := 0x04, sto := true }] else [])
    ++ (if b.degDue then [{ src := 0x0B, sto := false }] else [])
  (trips, ws)

/-- A group may be energised (01 R13, 13 R370, R371, R379). -/
def mayEnergise (quiet permit beatOk : Bool) (report : St) (r : SafGroup) : Bool :=
  quiet && permit && beatOk && report.permits && r.used == 1 && !(report == .commission && r.axes == 0)

/-- Steps 2 to 5 of R359 on the SLB's state. `tqen` and `pf` are the line and the power-fail signal as the SLB sees
them, `ok` the conditions of a restart that the SP knows (R21); the result says whether an acknowledge completed, and whether it was
a restart. -/
def Slb.cycle (p : Safety) (params : Copies Safety) (now : Nat) (tqen pf ok : Bool) (i : SlbIn) (b : Slb) :
    Slb × Bool × Bool :=
  let was := b.outFault
  let b := b.takeIn p now i
  let (trips, ws) := b.findTrips p now i was
  let src := b.sources p params
  let rq := b.request
  let idle := b.report.idle
  let sto := trips.any (·.sto) || rq == 2 || idle || pf
  let ss1 := trips.any (!·.sto) || rq == 1
  let why := (trips.head?.map (·.src)).getD b.reqSrc
  -- acknowledge (R21, R106, R384): in the cycle of a new trip there is none
  let quiet := trips.isEmpty && src.isEmpty && rq == 0 && !pf && !i.laneDiff
  let ack := b.ackEdge && quiet && b.inputsOk p && b.beatOk
  let restart := ack && ok && b.armed && b.report == .halted && b.groups.all (·.state == .off)
  let first := ack && b.report.permits && !b.permit && tqen && b.groups.all (·.state == .off)
  let permit := (b.permit && !sto && !ss1) || restart || first
  -- stop engines (R371 to R376)
  let adv (r : SafGroup) (w : Group × Bool × Bool) : Group × Nat :=
    let g := w.1
    if sto then (g.sto now (if w.2.1 then 3 else 5), if g.state.live then 1 else 0)
    else if ss1 ∧ g.state = .on then (g.ss1 p now b r, 2)
    else
      match g.ss1End now r with
      | some e => (g.sto now e, 0)
      | none =>
        if g.state = .off ∧ !ss1 ∧ mayEnergise quiet permit b.beatOk b.report r then ({ g with state := .on }, 0)
        else (g, 0)
  let gs := ws.zipIdx.map fun x => adv (getN p.groups x.2) x.1
  let mask (k : Nat) : Nat := maskOf (gs.map fun g => g.2 == k)
  let live (n : Nat) : Bool := (gs.getD n ({}, 0)).1.state.live
  let stops := (if mask 1 ≠ 0 then [(1, mask 1, why)] else []) ++ (if mask 2 ≠ 0 then [(2, mask 2, why)] else [])
  -- stop chain output (R386, 02 R48); torque that this cycle would first have permitted counts as permitted (Table 13.3)
  let permits := (b.permit && b.report.permits)
    || (b.ackEdge && b.inputsOk p && b.beatOk && rq == 0 && !pf && (src ++ trips.map (·.src)).all (· == 0x07)
      && ((ok && b.armed && b.report == .halted) || (b.report.permits && tqen)))
  let onset := trips.any (·.src == 0x07)
    && (b.groups.any (·.state.live) || (permits && p.groups.any fun r => r.used == 1 && !(b.report == .commission && r.axes == 0)))
  let chainAt := if onset then some now else b.chainAt
  let pulsing := chainAt.any fun c => now < c + p.chainPulseMs * ms
  let chainOn := p.chain == 1 && !idle && !pf && !pulsing && (src.all (· == 0x07))
    && trips.all (·.src == 0x07)
  let brakes := b.brakes.zipIdx.map fun x =>
    let r := getN p.brakes x.2
    x.1.advance now r (decide (r.group < 4) && live r.group) (getN b.io (x.2 % 2))
  let cut (n : Nat) (c : Bool) : Bool := c && !b.outFault.getD n false
  let last := trips.getLast?.map (·.src)
  let req := if rq ≠ 0 ∧ !b.active.contains b.reqSrc then some b.reqSrc else none
  ({ b with
      inputs := b.inputs.map (SInput.mark idle)
      chain := if p.chain = 1 then b.chain.mark false else { b.chain with dem := false, old := false }
      groups := gs.map (·.1)
      brakes := brakes
      stoCmd := (List.range 8).map fun n => cut n (live (n / 2))
      brkCmd := brakes.zipIdx.map fun x => cut (8 + x.2) x.1.on
      chainCmd := (List.range 2).map fun n => cut (12 + n) chainOn
      chainAt := if pulsing then chainAt else none
      active := src ++ (if rq ≠ 0 then [b.reqSrc] else [])
      first := if b.first ≠ 0 then b.first else ((trips.head?.map (·.src)).orElse fun _ => req).getD 0
      latest := (last.orElse fun _ => req).getD b.latest
      toSp := b.toSp ++ trips
      stops := b.stops ++ stops
      due := []
      permit := permit
      restarted := b.restarted || restart
      armed := b.armed && trips.isEmpty && !restart
      ackEdge := false
      degDue := false
      holdAt := if trips.isEmpty then b.holdAt else b.holdAt.map fun _ => now
      outSeen := b.outSeen.zipIdx.map fun x =>
        x.1 || (if x.2 = 0 then (List.range 8).any fun n => getN b.outFault n else (List.range 4).any fun n => getN b.outFault (8 + n))
      io := [i.ioA, i.ioB] }, first, restart)

/-- A supply lies within 19.2 V to 30.0 V (02 R55, R57). -/
def supplyOk (mv : Nat) : Bool := decide (19200 ≤ mv ∧ mv ≤ 30000)

/-! ## The mirror (R393, R394) -/

/-- SLBM_SUMMARY (R393). -/
def State.slbmSummary (s : State) : Nat :=
  let b := s.slb
  let p := s.params
  let healthy := maskOf ((p.inputs.zip b.inputs).map fun x => inputOk x.1 x.2)
  fld healthy 0 16 + flg s.sup.ioaOk 16 + flg s.sup.iobOk 17 + flg (b.chain.a && b.chain.b) 18 + flg (b.chainPin.any id) 19
    + fld (maskOf ((List.range 4).map fun n => getN b.stoPin (2 * n) && getN b.stoPin (2 * n + 1))) 20 4 + flg b.armed 24
    + flg (!b.active.isEmpty) 25

/-- SLBM_GROUPn. -/
def State.regGroup (g : Group) (s : State) : Nat :=
  let st := match g.state with | .off => 0 | .on => 1 | .time => 2 | .ramp => 3
  let run := g.state == .time || g.state == .ramp
  let len := match g.ss1At, run with | some i, true => (s.now - i) / ms | _, _ => g.ss1Len
  fld st 0 2 + fld g.end_ 2 3 + flg g.sls 5 + fld (min len 65535) 16 16

/-- SLBM_OUTPUTS. -/
def Slb.outputs (b : Slb) : Nat :=
  fld (maskOf b.stoCmd) 0 8 + fld (maskOf b.stoPin) 8 8 + fld (maskOf b.brkCmd) 16 4
    + fld (maskOf (b.brakes.map (·.phase == .pullin))) 20 4 + fld (maskOf b.chainCmd) 24 2

/-- The SLBM word at offset `o` as the SLB holds it now; 0 at an offset without a register. -/
def State.slbmWord (o : Nat) (s : State) : Nat :=
  let b := s.slb
  if 0x10 ≤ o ∧ o < 0x20 then s.regGroup (getN b.groups ((o - 0x10) / 4))
  else if 0x40 ≤ o ∧ o < 0x80 then
    let e := getN b.qe ((o - 0x40) / 8)
    if o % 8 = 0 then getN e.counts 0 else ofSigned 32 e.speed
  else if 0x90 ≤ o ∧ o < 0xA0 then (getN b.brakes ((o - 0x90) / 4)).drop
  else
    match o with
    | 0x00 => s.slbmSummary
    | 0x04 => fld (maskOf (b.inputs.map (·.a))) 0 16 + fld (maskOf (b.inputs.map (·.b))) 16 16
    | 0x08 => fld (maskOf (b.inputs.map (·.disc))) 0 16 + fld (maskOf (b.inputs.map (·.pulse))) 16 16
    | 0x0C => fld b.first 0 8 + fld b.latest 8 8
    | 0x80 => maskOf (b.qe.map (·.fault))
    | 0x84 => b.outputs
    | 0xA0 => b.paramCrc
    | 0xA4 => fld (b.degElapsed / sec) 0 14 + flg b.degRun 31
    | 0xA8 => b.laneDiff
    | _ => 0

/-- The mirror updated at the end of a cycle (R359, "Registers"), with the pins as the outputs now drive them. -/
def State.mirrorSlb (s : State) : State :=
  s.onSlb fun b => { b with mirror := (List.range 43).map fun i => (settle s).slbmWord (4 * i) }

/-- SLB_CYCLE (R359). -/
def execSlbCycle (t : Nat) (i : SlbIn) (s : State) : Host.Outcome State Fault Refusal :=
  finish t s fun s =>
    if s.sup.on then
      let r := s.slb.cycle s.params s.nvm.params s.now s.sys.tqen s.sup.pfOut s.restartOk i
      let s := s.onSlb fun b =>
        let c := (b.cycle s.params s.nvm.params s.now s.sys.tqen s.sup.pfOut s.restartOk i).1
        if r.2.2 then { c with first := 0 } else c
      let s := s.onSup fun u => { u with ioaOk := supplyOk i.ioA, iobOk := supplyOk i.ioB }
      (s.onStart fun x => { x with ackPending := x.ackPending && !r.2.1 && !r.2.2 }).mirrorSlb
    else s

/-! ## Inputs (R361 to R367, R384, R385) -/

/-- Change one of the 16 inputs; number 16 is the stop chain. -/
def State.onInput (n : Nat) (f : SInput → SInput) (s : State) : State :=
  if n = 16 then s.onSlb fun b => { b with chain := f b.chain } else s.onSlb fun b => { b with inputs := modN b.inputs n f }

/-- Input `n`, 16 for the stop chain. -/
def State.sinput (s : State) (n : Nat) : SInput := if n = 16 then s.slb.chain else getN s.slb.inputs n

/-- DISC of an input in ns. -/
def State.discNs (s : State) (n : Nat) : Nat :=
  (if n = 16 then s.params.chainDisc else (s.params.input n).disc) * ms

/-- The bookkeeping of two filtered channels after a change: how long they differ (R364), the latched discrepancy's end,
and what an acknowledge edge needs (R384). -/
def SInput.settle (now disc : Nat) (x : SInput) : SInput × Bool :=
  let differ := if x.a = x.b then none else (match x.differ with | some i => some i | none => some now)
  let off := !x.a && !x.b
  let on := x.a && x.b
  let discOff := x.disc && (x.discOff || off)
  let clear := x.disc && x.discOff && on
  let firstOn := if off then none else (match x.firstOn with | some i => some i | none => some now)
  let edge := on && x.offSeen && firstOn.any fun i => now ≤ i + disc
  ({ x with
      differ := differ
      disc := x.disc && !clear
      discOff := discOff && !clear
      offSeen := if off then true else if on then false else x.offSeen
      firstOn := firstOn }, edge)

/-- INPUT_FILTER_SETTLE (R362): the filtered state of one channel takes the pin state. A channel that is blanked keeps
its state, so no settling is sent for it. The pins of the stop chain are filtered with CHAIN 0 too, where nothing acts on them (02
R48). -/
def execInputFilterSettle (t n : Nat) (chB on : Bool) (s : State) : Host.Outcome State Fault Refusal :=
  finish t s fun s =>
    if s.sup.on ∧ n ≤ 16 then
      let x := s.sinput n
      let x := if chB then { x with b := on, blankB := x.blankB && !on } else { x with a := on, blankA := x.blankA && !on }
      let (x, edge) := x.settle s.now (s.discNs n)
      let s := s.onInput n fun _ => x
      if edge ∧ n < 16 ∧ (s.params.input n).kind = 2 ∧ !x.disc ∧ !x.pulse then
        s.onSlb fun b => { b with ackEdge := true }
      else s
    else s

/-- BLANKING_END (R363): an untested channel that still reads OFF after 1000 µs is no longer blanked, and its filter
counts from this instant. -/
def execBlankingEnd (t n : Nat) (chB : Bool) (s : State) : Host.Outcome State Fault Refusal :=
  finish t s fun s =>
    if s.sup.on ∧ n ≤ 16 then s.onInput n fun x => if chB then { x with blankB := true } else { x with blankA := true }
    else s

/-- DISCREPANCY_EXPIRY (R364, R385): the filtered channels have differed for longer than DISC. -/
def execDiscrepancyExpiry (t n : Nat) (s : State) : Host.Outcome State Fault Refusal :=
  finish t s fun s =>
    let used := if n = 16 then s.params.chain == 1 else decide (n < 16) && (s.params.input n).kind ≠ 0
    let x := s.sinput n
    if s.sup.on ∧ used ∧ !x.disc ∧ x.a ≠ x.b ∧ s.pastOpt x.differ (s.discNs n) then
      let s := s.onInput n fun x => { x with disc := true, discOff := false }
      s.slbTrip (if n = 16 then 0x07 else 0x02) true
    else s

/-- TEST_PULSE (R366, R367): the checks around one pulse of TPn. A channel that fails is faulted (trip 0x02) until it has
passed both checks for two consecutive periods. -/
def execTestPulse (t tp : Nat) (q : PulseIn) (s : State) : Host.Outcome State Fault Refusal :=
  finish t s fun s =>
    if s.sup.on ∧ tp < 8 ∧ s.sys.state ≠ .off then
      s.each (List.range 16) fun n s =>
        let r := s.params.input n
        let x := s.sinput n
        let tested := r.tpA < 8 && r.tpB < 8 && r.kind ≠ 0
        let ownA := r.tpA == tp
        let ownB := r.tpB == tp
        let badA := x.a && bit (if ownA then q.stuckOn else q.crossed) (2 * n)
        let badB := x.b && bit (if ownB then q.stuckOn else q.crossed) (2 * n + 1)
        if !tested then s
        else if badA ∨ badB then
          let s := s.onInput n fun x => { x with pulse := true, passes := 0 }
          if x.pulse then s else s.slbTrip 0x02 true
        else if x.pulse ∧ (ownA ∨ ownB) ∧ x.a ∧ x.b then
          s.onInput n fun x => { x with passes := x.passes + 1, pulse := decide (x.passes + 1 < 4) }
        else s
    else s

/-! ## Outputs and stop engines -/

/-- An output's fault is seen: START's fourth stage judges what has been faulty since the start began (04 R112). -/
def Slb.seeOut (n : Nat) (b : Slb) : Slb :=
  { b with outSeen := if n < 8 then setN b.outSeen 0 true else if n < 12 then setN b.outSeen 1 true else b.outSeen }

/-- OUTPUT_OFFTEST (R373): an energised STO (0 to 7) or STOPCH_OUT (12, 13) channel is switched off for the test; a failure
is trip 0x06. A channel that is off for a stop is not tested (Table 13.3). -/
def execOutputOfftest (t ch : Nat) (ok : Bool) (s : State) : Host.Outcome State Fault Refusal :=
  finish t s fun s =>
    let on := if ch < 8 then s.slb.stoCmd.getD ch false else s.slb.chainCmd.getD (ch - 12) false
    if s.sup.on ∧ (ch < 8 ∨ ch = 12 ∨ ch = 13) ∧ on ∧ !ok then
      (s.onSlb fun b => { b with outFault := setN b.outFault ch true }.seeOut ch).slbTrip 0x06 true
    else s

/-- OVERCURRENT_CUT_OFF (02 R43): the output is cut off at once, and the cut-off is trip 0x06. -/
def execOvercurrentCutOff (t out : Nat) (s : State) : Host.Outcome State Fault Refusal :=
  finish t s fun s =>
    if s.sup.on ∧ out < 14 then
      (s.onSlb fun b =>
        { b with
          outFault := setN b.outFault out true
          stoCmd := if out < 8 then setN b.stoCmd out false else b.stoCmd
          brkCmd := if 8 ≤ out ∧ out < 12 then setN b.brkCmd (out - 8) false else b.brkCmd
          chainCmd := if 12 ≤ out then setN b.chainCmd (out - 12) false else b.chainCmd }.seeOut out).slbTrip 0x06 true
    else s

/-- A group de-energised outside a trip: its pair and its brakes go off in one output update (R372, R380). -/
def State.groupOff (n why : Nat) (s : State) : State :=
  s.onSlb fun b =>
    { b with
      groups := modN b.groups n (Group.sto s.now why)
      stoCmd := setN (setN b.stoCmd (2 * n) false) (2 * n + 1) false
      brakes := b.brakes.zipIdx.map fun k =>
        if (getN s.params.brakes k.2).group = n then { k.1 with phase := .off, onTime := 0 } else k.1
      brkCmd := b.brkCmd.zipIdx.map fun k => k.1 && (getN s.params.brakes k.2).group ≠ n }

/-- SS1_MAX_EXPIRY (R375, R376): SS1_MAX has elapsed since the start of the group's SS1. -/
def execSs1MaxExpiry (t n : Nat) (s : State) : Host.Outcome State Fault Refusal :=
  finish t s fun s =>
    let g := getN s.slb.groups n
    let r := getN s.params.groups n
    match g.ss1End s.now r with
    | some e => if s.sup.on ∧ n < 4 ∧ s.past (g.ss1At.getD s.now) (r.ss1Max * ms) then s.groupOff n e else s
    | none => s

/-- STANDSTILL_HELD (R376): every axis of a ramp-monitored group has been at or below STILL for STILL_TIME. -/
def execStandstillHeld (t n : Nat) (s : State) : Host.Outcome State Fault Refusal :=
  finish t s fun s =>
    let g := getN s.slb.groups n
    match g.ss1End s.now (getN s.params.groups n) with
    | some 1 => if s.sup.on ∧ n < 4 then s.groupOff n 1 else s
    | _ => s

/-- One brake engine advanced between cycles by the expiry of its timer (R380). -/
def State.brakeTick (n : Nat) (s : State) : State :=
  s.onSlb fun b =>
    let k := (getN b.brakes n).advance s.now (getN s.params.brakes n) true (getN b.io (n % 2))
    { b with
      brakes := setN b.brakes n { k with drop := (getN b.brakes n).drop }
      brkCmd := setN b.brkCmd n (k.on && !b.outFault.getD (8 + n) false) }

/-- BRAKE_RELEASE_DELAY_EXPIRY (R380): RELEASE_MS has passed; full voltage is applied. -/
def execBrakeReleaseDelayExpiry (t n : Nat) (s : State) : Host.Outcome State Fault Refusal :=
  finish t s fun s =>
    let k := getN s.slb.brakes n
    s.when (s.sup.on && decide (n < 4) && k.phase == .wait && s.past k.since ((getN s.params.brakes n).releaseMs * ms))
      (State.brakeTick n)

/-- BRAKE_PULLIN_EXPIRY (R380): PULLIN_MS has passed; the brake is held by PWM. -/
def execBrakePullinExpiry (t n : Nat) (s : State) : Host.Outcome State Fault Refusal :=
  finish t s fun s =>
    let k := getN s.slb.brakes n
    s.when (s.sup.on && decide (n < 4) && k.phase == .pullin && s.past k.since ((getN s.params.brakes n).pullinMs * ms))
      (State.brakeTick n)

/-- CHAIN_PULSE_EXPIRY (R386): STOPCH_OUT is energised again unless another source holds it off. -/
def execChainPulseExpiry (t : Nat) (s : State) : Host.Outcome State Fault Refusal :=
  finish t s fun s =>
    if s.sup.on ∧ s.pastOpt s.slb.chainAt (s.params.chainPulseMs * ms) then
      s.onSlb fun b =>
        let on := s.params.chain == 1 && !b.report.idle && !s.sup.pfOut && (b.sources s.params s.nvm.params).all (· == 0x07)
        { b with chainAt := none, chainCmd := (List.range 2).map fun n => on && !b.outFault.getD (12 + n) false }
    else s

/-- ENCODER_FAULT (02 R45, 13 R378): trip 0x02 when the QE input belongs to a group's axes. -/
def execEncoderFault (t qe : Nat) (present : Bool) (s : State) : Host.Outcome State Fault Refusal :=
  finish t s fun s =>
    if s.sup.on ∧ qe < 8 then
      let was := (getN s.slb.qe qe).fault
      let s := s.onSlb fun b => { b with qe := modN b.qe qe fun e => { e with fault := present } }
      if present ∧ !was ∧ s.params.groups.any (fun g => bit g.axes qe) then s.slbTrip 0x02 true else s
    else s

/-! ## The SLB's side of the link (R368 to R370, R383) -/

/-- SLB_DEG_TIMER_EXPIRY (R383): the SLB's copy has reached 1.01 × DEG_TIMER_S + 1 s. -/
def execSlbDegTimerExpiry (t : Nat) (s : State) : Host.Outcome State Fault Refusal :=
  finish t s fun s =>
    s.when (s.sup.on && s.slb.degRun && decide (s.params.degTimerS * 1010 * ms + sec ≤ s.slb.degElapsed)) fun s =>
      s.onSlb fun b => { b with degDue := true, degRun := false }

/-- The degraded timer copy after a state report (R383). -/
def Slb.degCopy (dest : St) (b : Slb) : Slb :=
  if b.report = dest then b
  else
    match dest, b.report with
    | .degraded, .run | .degraded, .start => { b with degElapsed := 0, degRun := true }
    | .degraded, .halted => { b with degRun := true }
    | .run, _ => { b with degElapsed := 0, degRun := false }
    | .halted, _ => { b with degRun := false }
    | _, _ => b

/-- The 60 s hold of R109 after a state report (01 R19): RUN and DEGRADED are one hold, and an entry to RUN, COMMISSION or DEGRADED
from elsewhere begins one. -/
def Slb.hold (now : Nat) (dest : St) (b : Slb) : Slb :=
  if b.report = dest then b
  else
    match dest, b.report with
    | .degraded, .run | .run, .degraded => b
    | .run, _ | .commission, _ | .degraded, _ => { b with holdAt := some now }
    | _, _ => { b with holdAt := none }

/-- A valid frame taken by the SLB (R368, R72). -/
def Slb.frame (now : Nat) (f : LinkFrame) (b : Slb) : Slb :=
  let b := (b.degCopy f.state).hold now f.state
  { b with
    before := if b.report = f.state then b.before else b.report
    report := f.state
    beat := some f.beat
    beatAt := now
    beatOk := true
    reqA := f.stop
    reqASince := if b.reqA = f.stop then b.reqASince else now
    reqSrc := if f.stop ≠ 0 then f.src else b.reqSrc
    disagree :=
      if b.reqB = (f.stop ≠ 0 : Bool) then none else (match b.disagree with | some i => some i | none => some now)
    armed := f.armed }

/-- The firmware heartbeat fails: trip 0x05 (03 R72). -/
def State.beatLost (s : State) : State :=
  (s.onSlb fun b => { b with beatOk := false, beat := none }).slbTrip 0x05 true

/-- SPSTOP_N_CHANGE (R368, R369): the hard-wired request line. -/
def execSpstopNChange (t : Nat) (active : Bool) (s : State) : Host.Outcome State Fault Refusal :=
  finish t s fun s =>
    s.when s.sup.on fun s => s.onSlb fun b =>
      { b with
        reqB := active
        reqBSince := if b.reqB = active then b.reqBSince else s.now
        disagree :=
          if active = (b.reqA ≠ 0 : Bool) then none else (match b.disagree with | some i => some i | none => some s.now) }

/-- REQUEST_DISAGREE_EXPIRY (R369): the channels have disagreed for more than 10 ms, trip 0x05. -/
def execRequestDisagreeExpiry (t : Nat) (s : State) : Host.Outcome State Fault Refusal :=
  finish t s fun s =>
    if s.sup.on ∧ s.pastOpt s.slb.disagree (10 * ms) then
      (s.onSlb fun b => { b with disagree := none }).slbTrip 0x05 true
    else s

/-- A count of CLK_SLB cycles between edges of HB_CLK lies within ±1 % (03 R72). -/
def hbWindow (n : Nat) : Bool := decide (2076 ≤ n ∧ n ≤ 2118)

/-- The heartbeat fails at the SLB: trip 0x05, and every output is de-energised by the SLB itself (03 R72, 01 R14). -/
def State.slbDrop (s : State) : State :=
  let s := s.beatLost
  let s := s.each [0, 1, 2, 3] fun n s => s.groupOff n 5
  s.onSlb fun b => { b with permit := false, chainCmd := [false, false] }

/-- A reset of the die that the SLB has seen (01 Table 1.5, 04 R91, Table 4.4): in START a stage failure, in DOLDRUMS the
state stays, and otherwise a start begins. Once the power-fail sequence runs, OFF follows and no start (02 R53). -/
def State.dieReset (s : State) : State :=
  if s.sys.powerFail then s
  else
    match s.sys.state with
    | .off | .doldrums => s
    | .start => if s.start.stage = 0 ∨ s.start.holdAt.isSome then s else s.stageFail 0xF1
    | _ => (s.endRecord false 0xF1).beginStart true false

/-- SLB_LINK_FRAME (R368): the next frame on the link arrives. A frame that is not intact is discarded, which restarts the
hold of R109; a heartbeat value out of order is trip 0x05, and the die is reset (03 R72, 01 Table 1.5). -/
def execSlbLinkFrame (t : Nat) (intact : Bool) (s : State) : Host.Outcome State Fault Refusal :=
  finish t s fun s =>
    match s.slb.link with
    | [] => s
    | f :: r =>
      let s := s.onSlb fun b => { b with link := r }
      if !s.sup.on then s
      else if !intact then s.onSlb fun b => { b with holdAt := b.holdAt.map fun _ => s.now }
      else if s.slb.beat.any fun p => f.beat ≠ (p + 1) % 256 then s.slbDrop.dieReset
      else s.onSlb (Slb.frame s.now f)

/-- The heartbeat fails by what the SLB has found (03 R72): no clock edge within 200 µs, no firmware value within 2 ms of the previous
one, or the second count in a row outside the window. -/
def State.beatFails (x : BeatIn) (s : State) : Bool :=
  match x with
  | .noEdge => true
  | .noValue => s.slb.beat.isSome && s.past s.slb.beatAt (2 * ms)
  | .count n => s.slb.hbOut && !hbWindow n

/-- HEARTBEAT_TIMEOUT (03 R72, 19 R524, 01 Table 1.5): the SLB trips 0x05 and removes torque; the die is reset, and a warm start
follows. One count outside the window is remembered. -/
def execHeartbeatTimeout (t : Nat) (x : BeatIn) (s : State) : Host.Outcome State Fault Refusal :=
  finish t s fun s =>
    if s.sup.on ∧ s.sys.state ≠ .off then
      let bad := s.beatFails x
      let s := match x with
        | .count n => s.onSlb fun b => { b with hbOut := !hbWindow n }
        | _ => s
      if bad then s.slbDrop.dieReset else s
    else s

/-- SLB_OSCILLATOR_FAULT (03 R73): trip 0x10. -/
def execSlbOscillatorFault (t : Nat) (s : State) : Host.Outcome State Fault Refusal :=
  finish t s fun s => s.when s.sup.on (State.slbTrip 0x10 true)

/-- SLB_PARAM_CHECK (R390): each stored copy is checked once per second. One bad copy is rewritten from the good one and
logged; two bad copies are trip 0x10. -/
def execSlbParamCheck (t : Nat) (okA okB : Bool) (s : State) : Host.Outcome State Fault Refusal :=
  finish t s fun s =>
    if s.sup.on then
      let p := s.nvm.params
      let (a, b) := (p.aOk && okA, p.bOk && okB)
      let s := s.onNvm fun n => { n with params := { p with aOk := a, bOk := b } }
      match a, b with
      | true, true => s
      | false, false => if p.aOk ∨ p.bOk then s.slbTrip 0x10 true else s
      | _, _ =>
        let s := s.onNvm fun n => { n with params := Copies.put (if a then p.a else p.b) }
        s.evOpen 0x20 "SLB_PARAM_REWRITTEN" noSub (if a then 1 else 0)
    else s

end Sys2Proof.Machine
end

