-- ==== Sys2Proof/Machine/Sp.lean ====
section
/-! DEFINITION. The safety processor's cycle and timers (01 R14, R20 to R30), and the module's own events: supplies, seals,
tamper cover, debug probe and temperature (02). -/

namespace Sys2Proof.Machine

/-! ## Shared operations -/

/-- An RX connection fails (14 R402, R403); STOP_ON_LOSS is trip 0x08. -/
def State.connFail (k : Nat) (s : State) : State :=
  let s := s.onConn k fun c => { c with state := .failed, fails := satAdd 8 c.fails 1 }
  if (s.img.slot k).any fun r => bit r.flags 0 then s.spTrip 0x08 false else s

/-- The watchdog of an OPEN RX connection has passed (14 R402). -/
def State.dogDue (k : Nat) (s : State) : Bool :=
  (s.img.slot k).any fun r => r.dir == 0 && (s.conn k).state == .open_ && s.past (s.conn k).dogAt (r.watchdog * ms)

/-- Every due watchdog, once per SP cycle (14 R402); the announces accepted in the cycle before are no longer of this one (Table 14.7). -/
def State.dogs (s : State) : State :=
  let s := s.onSml fun m => { m with conns := m.conns.map fun c => { c with fresh := [false, false] } }
  s.each (List.range s.img.messages.conns.length) fun k s => s.when (s.dogDue k) (State.connFail k)

/-- The single-path timer runs while single-path lasts, in every state but OFF, START and DOLDRUMS (14 R408). -/
def State.settleSingle (s : State) : State :=
  let on := s.singlePath && !s.sys.state.idle
  s.onSml fun m =>
    { m with singleAt := if on then (match m.singleAt with | some i => some i | none => some s.now) else none }

/-- A seal pattern other than RUN, or an open cover, in RUN or DEGRADED is trip 0x0D (01 R26, 02 R50). -/
def State.sealTrip (s : State) : State :=
  let bad := s.sealClass ≠ .run ∨ s.seals.open_
  let run := s.sys.state = .run ∨ s.sys.state = .degraded
  if run ∧ bad ∧ !(s.sys.pendTrips.any (·.src == 0x0D)) then s.spTrip 0x0D false else s

/-- The STOP of this node's SAFETY frames after a trip whose code is in its SEND mask (15 R435). -/
def State.ringStop (x : Trip) (s : State) : State :=
  if x.src ≠ 0x0F ∧ 1 ≤ x.src ∧ bit s.img.messages.ring.send (x.src - 1) ∧ s.sys.state.tripActs then
    s.onXwl fun w =>
      { w with stop := max w.stop (if x.sto then 2 else 1), stopSrc := if w.stop = 0 then x.src else w.stopSrc }
  else s

/-- One trip of a cycle: its effect on the state, and on the ring. -/
def State.oneTrip (own : Bool) (x : Trip) (s : State) : State := (s.ringStop x).takeTrip own x

/-- Tokens handed over since the last cycle: sent if the resulting state permits them, else dropped (12 R343, R351); none follows a
verdict where no port takes it (12 R352, 14 R414). -/
def State.sendTokens (s : State) : State :=
  let ts := s.vrd.tokens
  let s := s.onVrd fun v => { v with tokens := [] }
  s.each ts fun x s =>
    let s := if s.sys.state.permits then s.with (s.img.conn x.2.2.1) fun c s => s.sendMsg c.1 2 x.2.2.2 else s
    if s.sys.state.permits ∧ s.sml.link.any id then s
    else
      s.onVrd fun v => { v with queues := modN v.queues x.1 fun q =>
        { q with win := q.win.map fun w => if w.2.seq = x.2.1 then (w.1, { w.2 with token := false }) else w } }

/-- Stops that the SLB has started, reported on every TX connection (13 R374, 14 R399). -/
def State.sendStops (s : State) : State :=
  let l := s.slb.stops
  let s := s.onSlb fun b => { b with stops := [] }
  s.each l fun x s => s.stopCommand x.1 x.2.1 x.2.2

/-- The trips of a cycle in the order of their reports (R25 item 1), those of the SLB first. -/
def State.cycleTrips (s : State) : State :=
  let a := s.slb.toSp
  let b := s.sys.pendTrips
  let s := s.onSlb fun y => { y with toSp := [] }
  let s := s.onSys fun y => { y with pendTrips := [] }
  (s.each a fun x s => s.oneTrip false x).each b fun x s => s.oneTrip true x

/-- The degraded timer has run out (R20, R25 item 2). -/
def State.degOver (s : State) : Bool :=
  s.sys.state == .degraded && (s.sys.degDue || decide (s.degLimit ≤ s.sys.degElapsed))

/-- R25 items 2 to 5, and a restart that the SLB has accepted. `tripped` says that item 1 left torque. A new tolerable fault in the
cycle in which the last old one clears leaves RUN again at once, with the timer from zero. -/
def State.cycleChanges (tripped : Bool) (s : State) : State :=
  let isOver := s.degOver
  let s := if isOver then s.oneTrip true { src := 0x0B, sto := false } else s
  let stopped := tripped || isOver
  let s := if s.sys.dbgDue ∧ !stopped then s.debugToCommission else s
  let s := s.onSys fun y => { y with dbgDue := false, degDue := false }
  let rs := s.slb.restarted && s.sys.state == .halted && !stopped
  let s := s.onSlb fun b => { b with restarted := false }
  let s := if rs then s.restartFrom else s
  let s := if s.sys.state = .degraded ∧ s.tolCleared then s.toRun else s
  if s.sys.state = .run ∧ !s.tolerable.isEmpty then s.toDegraded false else s

/-- The arming lapses 30 s after it began (R21). -/
def State.lapseArming (s : State) : State :=
  s.onSys fun y => { y with armedAt := if s.pastOpt y.armedAt (30 * sec) then none else y.armedAt }

/-- The link frame of a cycle (13 R368): heartbeat, state, stop request and arming. -/
def State.sendFrame (s : State) : State :=
  let f : LinkFrame := { beat := s.sys.cycle % 256, state := s.sys.state, stop := s.sys.req, src := s.sys.reqSrc,
                         armed := s.sys.armedAt.isSome }
  (s.onSlb fun b => { b with link := b.link ++ [f] }).onSys fun y => { y with cycle := (y.cycle + 1) % 2 ^ 32 }

/-- Outside HALTED this node asks nothing of the ring (15 R435). -/
def State.endRingStop (s : State) : State :=
  if s.sys.state = .halted then s else s.onXwl fun w => { w with stop := 0, stopSrc := 0 }

/-- One SP cycle in the order of R25. -/
def State.spCycle (s : State) : State :=
  let s := s.sendStops.dogs
  let tripped := (!s.slb.toSp.isEmpty || !s.sys.pendTrips.isEmpty) && s.sys.state.tripActs
  let s := (s.cycleTrips.cycleChanges tripped).sealTrip
  let s := s.lapseArming.settleSingle.settleReq.settleTqen
  let s := s.endRingStop.onSys fun y => { y with tolSeen := s.tolerable }
  s.sendFrame.sendTokens

/-! ## SP events -/

/-- SP_CYCLE (R25). From the power-fail warning the SP only keeps TQEN withdrawn (02 Table 2.10). -/
def execSpCycle (t : Nat) (s : State) : Host.Outcome State Fault Refusal :=
  finish t s fun s =>
    if !s.spRuns then s
    else if s.sys.powerFail then s.onSys fun y => { y with tqen := false }
    else s.spCycle

/-- DEGRADED_TIMER_EXPIRY (R20): the timer has reached its length; the next SP cycle acts on it (R25). -/
def execDegradedTimerExpiry (t : Nat) (s : State) : Host.Outcome State Fault Refusal :=
  finish t s fun s => s.when (s.sys.degRun && decide (s.degLimit ≤ s.sys.degElapsed))
    (State.onSys fun y => { y with degDue := true })

/-- The longest SS1_MAX of the used groups in ns (R14). -/
def State.ss1Longest (s : State) : Nat := ((s.params.groups.filter (·.used == 1)).map (·.ss1Max)).foldl max 0 * ms

/-- TQEN_SS1_OVERDUE (R14): an SS1 that the SP requested has not reached STO within its maximum time plus 10 ms. -/
def execTqenSs1Overdue (t : Nat) (s : State) : Host.Outcome State Fault Refusal :=
  finish t s fun s => s.when (s.pastOpt s.sys.ss1At (s.ss1Longest + 10 * ms) && !s.stopped)
    (State.onSys fun y => { y with tqen := false, cut := true })

/-- RESTART_ARMING_LAPSE (R21). -/
def execRestartArmingLapse (t : Nat) (s : State) : Host.Outcome State Fault Refusal := finish t s State.lapseArming

/-! ## Supplies (02 R52 to R55) -/

/-- VIN_12V lies within 10.8 V to 13.2 V (R57). -/
def mainOkOf (mv : Nat) : Bool := decide (10800 ≤ mv ∧ mv ≤ 13200)

/-- POWER_GOOD (01 Table 1.5): VIN_12V and SLB power are good; a cold start begins. Debug ends with the cold start
(18 R508). -/
def execPowerGood (t vin backup : Nat) (s : State) : Host.Outcome State Fault Refusal :=
  finish t s fun s =>
    if s.sup.on then s
    else
      let s := s.onSup fun u =>
        { u with on := true, onAt := s.now, vin := vin, mainOk := mainOkOf vin, backup := backup, holdup := false, pfOut := false,
                 ioaOk := false, iobOk := false, uvSeen := false, thermal := false }
      let was := s.dbg.enabled
      let s := s.beginStart false false
      if was then s.ev 0x1203 0 noSub 0 else s

/-- POWER_FAIL_WARNING (R52, R53, 19 R526, 04 R110): work is no longer accepted, TQEN is withdrawn, and the forensic commit
runs. The sequence cells are written with each number, so the commit adds only the header. VIN_12V has fallen below 10.4 V, to an
open value (log entry 7). -/
def execPowerFailWarning (t : Nat) (s : State) : Host.Outcome State Fault Refusal :=
  finish t s fun s =>
    if s.sup.on ∧ !s.sys.powerFail then
      let s := s.endRecord s.spRuns 0xF0
      let (v, s) := s.draw
      let s := s.onSup fun u => { u with pfOut := true, vin := v % 10400, mainOk := false }
      let s := s.onSys fun y => { y with powerFail := true, tqen := false, cut := true, armedAt := none }
      let s := s.onSlb fun b => { b with holdAt := none }
      if s.ret.held then s.onRet fun r => { r with cleanOff := true, offTime := s.dev } else s
    else s

/-- HOLDUP_END (R52): the hold-up bank is empty; OFF. -/
def execHoldupEnd (t : Nat) (s : State) : Host.Outcome State Fault Refusal :=
  finish t s fun s => s.when (s.sup.on && s.sys.powerFail) State.enterOff

/-- BACKUP_EXHAUSTED (R38, 03 R89): without main power the supercapacitor holds neither retention SRAM nor the RTC. -/
def execBackupExhausted (t : Nat) (s : State) : Host.Outcome State Fault Refusal :=
  finish t s fun s =>
    s.when (!s.sup.on) fun s =>
      ((s.onRet fun _ => {}).onRtc fun _ => {}).onSup fun u => { u with backup := 0 }

/-- IO_SUPPLY_OUT_OF_WINDOW (R55): below 18.0 V or above 32.0 V for more than 1 ms, trip 0x10. -/
def execIoSupplyOutOfWindow (t : Nat) (supplyB : Bool) (mv : Nat) (s : State) : Host.Outcome State Fault Refusal :=
  finish t s fun s =>
    if s.sup.on ∧ (mv < 18000 ∨ 32000 < mv) then
      let s := s.onSup fun u =>
        { u with uvSeen := true, ioaOk := u.ioaOk && supplyB, iobOk := u.iobOk && !supplyB }
      let s := s.onSlb fun b => { b with supplyTrip := true }
      s.slbTrip 0x10 true
    else s

/-- IO_SUPPLY_RECOVERED (R55): both supplies have been within 19.2 V to 30.0 V for 100 ms; the trip clears. -/
def execIoSupplyRecovered (t mvA mvB : Nat) (s : State) : Host.Outcome State Fault Refusal :=
  finish t s fun s =>
    s.when (s.sup.on && supplyOk mvA && supplyOk mvB) fun s =>
      (s.onSlb fun b => { b with supplyTrip := false }).onSup fun u => { u with ioaOk := true, iobOk := true }

/-! ## Seals, cover and probe (02 R47 to R50) -/

/-- SEAL_SWITCH_CHANGE (R49, 01 R26): the two contacts of a switch as they now read. -/
def execSealSwitchChange (t sw : Nat) (slbOn spOn : Bool) (s : State) : Host.Outcome State Fault Refusal :=
  finish t s fun s =>
    if sw < 4 then
      let s := s.onSeals fun y =>
        { y with
          slb := setN y.slb sw slbOn
          sp := setN y.sp sw spOn
          agreed := if slbOn = spOn then setN y.agreed sw slbOn else y.agreed
          since := if slbOn = spOn then setN y.since sw none
            else modN y.since sw fun i => (match i with | some i => some i | none => some s.now)
          bad := if slbOn = spOn then setN y.bad sw false else y.bad }
      s.sealTrip
    else s

/-- SEAL_CONTACT_DISAGREE (R49): the contacts have disagreed for more than 50 ms; the pattern counts as changed. -/
def execSealContactDisagree (t sw : Nat) (s : State) : Host.Outcome State Fault Refusal :=
  finish t s fun s =>
    if sw < 4 ∧ s.pastOpt (getN s.seals.since sw) (50 * ms) then
      (s.onSeals fun y => { y with bad := setN y.bad sw true }).sealTrip
    else s

/-- TAMPER_LOOP_OPEN (R50): the cover is broken; an event, and in RUN or DEGRADED trip 0x0D. A loop that breaks while the module is
unpowered writes no event, then or at the next start (DESIGN CHOICE, log entry 54). -/
def execTamperLoopOpen (t : Nat) (s : State) : Host.Outcome State Fault Refusal :=
  finish t s fun s =>
    if s.seals.open_ then s
    else
      let s := s.onSeals fun y => { y with open_ := true }
      if s.sup.on then (s.evOpen 0x20 "TAMPER_LOOP" noSub 0).sealTrip else s

/-- TAMPER_COVER_FITTED (R50): a new cover closes the loop. -/
def execTamperCoverFitted (t : Nat) (s : State) : Host.Outcome State Fault Refusal :=
  finish t s (State.onSeals fun y => { y with open_ := false })

/-- DBG_PRES_CHANGE (R47): an event, and nothing else. -/
def execDbgPresChange (t : Nat) (low : Bool) (s : State) : Host.Outcome State Fault Refusal :=
  finish t s fun s =>
    if s.dbg.pres = low then s
    else
      let s := s.onDbg fun d => { d with pres := low }
      if s.sup.on then s.ev 0x1201 0 noSub (b2n (!low)) else s

/-! ## Temperature (02 R56) -/

/-- DIE_TEMP_WARNING (R56): Tj has reached 100 °C, a latent-fault warning. -/
def execDieTempWarning (t : Nat) (s : State) : Host.Outcome State Fault Refusal :=
  finish t s fun s => s.when s.sup.on (State.evName 0x00 "DIE_TEMP" 2 noSub 100)

/-- THERMAL_TRIP (R56): Tj has reached 110 °C. The die is held in reset; the SLB sees the heartbeat lost (trip 0x05) and
removes torque. Once the power-fail sequence runs, the state stays until OFF (R53). -/
def execThermalTrip (t : Nat) (s : State) : Host.Outcome State Fault Refusal :=
  finish t s fun s =>
    if s.sup.on ∧ !s.sup.thermal then
      let s := (s.slbDrop).onSup fun u => { u with thermal := true }
      let s := (s.onSys fun y => { y with tqen := false }).trigStop
      if s.sys.powerFail then s
      else
        match s.sys.state with
        | .off | .doldrums => s
        | .start => (s.endRecord false 0xF1).onStart fun x => { x with holdAt := none }
        | _ => ((s.endRecord false 0xF1).setState .start false).onStart fun x => { x with stage := 0, holdAt := none }
    else s

end Sys2Proof.Machine
end

