-- ==== Sys2Proof/Machine/Time.lean ====
section
/-! DEFINITION. Device time, camera triggers and the calendar (03). -/

namespace Sys2Proof.Machine

/-! ## The calendar (R79 to R81, R87) -/

/-- A leap year of 2000 to 2199 (R79). -/
def leap (y : Nat) : Bool := y % 4 == 0 && y % 100 != 0 || y % 400 == 0

/-- Days in a month of a year. -/
def monthDays (y m : Nat) : Nat :=
  match m with
  | 2 => if leap y then 29 else 28
  | 4 | 6 | 9 | 11 => 30
  | _ => 31

/-- Days in a year. -/
def yearDays (y : Nat) : Nat := if leap y then 366 else 365

/-- Days from 2000-01-01 to a date. -/
def Cal.days (c : Cal) : Nat :=
  ((List.range c.year).map fun y => yearDays (2000 + y)).sum
    + ((List.range (c.month - 1)).map fun m => monthDays (2000 + c.year) (m + 1)).sum + (c.day - 1)

/-- Tenths of a second from 2000-01-01 00:00:00.0. -/
def Cal.tenthsOf (c : Cal) : Nat := (((c.days * 24 + c.hour) * 60 + c.minute) * 60 + c.second) * 10 + c.tenths

/-- 1 Monday to 7 Sunday (R79); 2000-01-01 was a Saturday. -/
def Cal.weekday (c : Cal) : Nat := (c.days + 5) % 7 + 1

/-- Year offset and day of the year from a day number, 200 years at most. -/
def yearOf : Nat → Nat → Nat → Nat × Nat
  | 0, y, d => (y, d)
  | n + 1, y, d => if d < yearDays (2000 + y) then (y, d) else yearOf n (y + 1) (d - yearDays (2000 + y))

/-- Month and day of the month from a day of the year. -/
def monthOf : Nat → Nat → Nat → Nat → Nat × Nat
  | 0, _, m, d => (m, d + 1)
  | n + 1, y, m, d => if d < monthDays y m then (m, d + 1) else monthOf n y (m + 1) (d - monthDays y m)

/-- The last instant of the calendar, 2199-12-31 23:59:59.9 (R79). -/
def calLast : Cal := { year := 199, month := 12, day := 31, hour := 23, minute := 59, second := 59, tenths := 9 }

/-- The calendar at a number of tenths. -/
def calAt (n : Nat) : Cal :=
  let s := n / 10
  let (y, d) := yearOf 199 0 (s / 86400)
  let (m, d) := monthOf 11 (2000 + y) 1 d
  { year := y, month := m, day := d, hour := s / 3600 % 24, minute := s / 60 % 60, second := s % 60, tenths := n % 10 }

/-- A calendar of the RTC_SET layout; WEEKDAY is ignored (R87). -/
def calOf (v : Nat) : Cal :=
  { tenths := bits v 0 4, second := bits v 4 6, minute := bits v 10 6, hour := bits v 16 5, day := bits v 32 5,
    month := bits v 37 4, year := bits v 41 8 }

/-- The checks of R81. -/
def Cal.ok (c : Cal) : Bool :=
  decide (1 ≤ c.month ∧ c.month ≤ 12 ∧ 1 ≤ c.day ∧ c.day ≤ monthDays (2000 + c.year) c.month ∧ c.hour < 24 ∧
    c.minute < 60 ∧ c.second < 60 ∧ c.tenths < 10 ∧ c.year ≤ 199)

/-- 2000-01-01 00:00:00 in seconds after the epoch of device time (R62). -/
def epoch2000 : Nat := 946684800

/-- The following calendar: device time minus RTC_UTC_OFS, truncated to tenths (R80), within the calendar's range. -/
def State.calFollow (s : State) : Cal :=
  let n : Int := (s.dev / 100000000 : Nat) - s.rtc.utc * 10 - (epoch2000 * 10 : Nat)
  calAt (min n.toNat calLast.tenthsOf)

/-- RTC_TENTH_TICK (R79, R80): the calendar's next tenth; it stands still without CLK_RTC (Table 3.3). -/
def execRtcTenthTick (t : Nat) (s : State) : Host.Outcome State Fault Refusal :=
  finish t s fun s =>
    if !s.clk.rtcOk then s
    else if s.rtc.following ∧ s.sup.on ∧ s.sys.state ≠ .off then
      s.onRtc fun r => { r with cal := s.calFollow, followDue := false, ended := decide (s.calFollow = calLast) }
    else if s.rtc.cal = calLast then s.onRtc fun r => { r with ended := true }
    else
      s.onRtc fun r =>
        let c := calAt (r.cal.tenthsOf + 1)
        { r with cal := c, ended := decide (c = calLast) }

/-- RTC_CMD.LOAD (R81). -/
def State.rtcLoad (v : Nat) (s : State) : State :=
  let c := calOf v
  let s := s.onRtc fun r => { r with set := v % 2 ^ 64 }
  if c.ok then
    s.onRtc fun r => { r with cal := c, valid := true, following := false, followDue := false, ended := decide (c = calLast) }
  else s.onRtc fun r => { r with bad := true }

/-- RTC_CMD.FOLLOW (R80): the calendar follows from the next tenth. -/
def State.rtcFollow (s : State) : State := s.onRtc fun r => { r with following := true, followDue := true }

/-! ## Device time and gPTP (R60 to R65) -/

/-- CLK_SYNC.STATE (R64). -/
def Sync.code : Sync → Nat
  | .unset => 0 | .free => 1 | .locked => 2 | .holdover => 3

/-- STATE changes, with its event (R64). -/
def State.setSync (x : Sync) (s : State) : State :=
  if s.clk.sync = x then s
  else
    (s.onClk fun c => { c with sync := x, lockAt := if x = .locked then some s.now else c.lockAt }).ev 0x0102 0 noSub x.code

/-- Device time initialised at a cold start (R62). -/
def State.initTime (s : State) : State :=
  if s.rtc.valid then
    let n : Int := (s.rtc.cal.tenthsOf * 100000000 : Nat) + (epoch2000 * sec : Nat) + s.rtc.utc * (sec : Nat)
    s.onClk fun c => { c with dev := n.toNat, frac := 0, sync := .free }
  else s.onClk fun c => { c with dev := epoch2000 * sec, frac := 0, sync := .unset }

/-- What is slewed of an offset (R63), in units of 2 to the -35 ns: all of a positive one, and of a negative one what lies beyond
100 ns. -/
def slewOf (offset : Int) : Int := (if 0 ≤ offset then offset else min 0 (offset + 100)) * 2 ^ 35

/-- The frequency correction that the servo takes from a Sync is not described: a free value within its range (R60, R64; log
entry 55). -/
def State.servoDraw (s : State) : State :=
  let (v, s) := s.draw
  s.onClk fun c => { c with addend := (v : Int) % (2 * (addendMax - slewRate) + 1) - (addendMax - slewRate) }

/-- A correction by an offset, positive when device time is behind (R63): stepped before S7 completes; after it, stepped
forward above 1 ms and slewed otherwise. A step restarts no timer of reference time. -/
def State.discipline (offset : Int) (s : State) : State :=
  let s := s.servoDraw
  if !s.start.s7Done then
    s.onClk fun c => { c with dev := ((c.dev : Int) + offset).toNat, slew := 0 }
  else if (ms : Int) < offset then
    let s := s.onClk fun c => { c with dev := c.dev + offset.toNat, slew := 0 }
    let s := s.onSml fun m => { m with stepNs := offset.toNat, stepAt := s.now }
    s.ev 0x0101 1 noSub offset.toNat
  else s.onClk fun c => { c with slew := slewOf offset }

/-- A signed 32-bit value that saturates (R85). -/
def sat32 (i : Int) : Int := max (-2147483647) (min 2147483647 i)

/-- Lock follows ten consecutive Sync intervals within ±1 µs (R64). -/
def State.countLock (offset : Int) (s : State) : State :=
  let n := if offset.natAbs ≤ 1000 then s.clk.inLock + 1 else 0
  let s := s.onClk fun c => { c with inLock := min n 10, offset := sat32 offset, lostAt := none }
  s.setSync (if 10 ≤ n then .locked else .free)

/-- A grandmaster selected anew (R63, R65): lock counts from the start. -/
def State.select (y : PtpSync) (s : State) : State :=
  let s := s.onClk fun c => { c with gm := some y.gm, port := y.port, inLock := 0 }
  (s.countLock y.offset).discipline y.offset

/-- The two ports' reports differ by more than 1 µs (R65). -/
def Clk.portsDiffer (c : Clk) : Bool :=
  match c.gms with
  | [some _, some _] => decide (1000 < (getN c.offs 0 - getN c.offs 1).natAbs)
  | _ => false

/-- gPTP is received on ETH0 and ETH1, not in OFF or DOLDRUMS, and not while CLK_PTP is lost (R63, Table 3.3, 04
Table 4.5). -/
def State.ptpOn (port : Nat) (s : State) : Bool :=
  s.sup.on && decide (port < 2) && s.clk.ptpOk && s.sys.state != .off && s.sys.state != .doldrums

/-- What every received Sync records (R65). -/
def State.noteSync (y : PtpSync) (s : State) : State :=
  let s := s.onClk fun c => { c with gms := setN c.gms y.port (some y.gm), offs := setN c.offs y.port y.offset }
  let d := s.clk.portsDiffer
  s.onClk fun c =>
    { c with
      disSince := if d then (match c.disSince with | some i => some i | none => some s.now) else none
      disLogged := d && c.disLogged
      disagree := d }

/-- PTP_SYNC_RECEIVED (R63 to R65). The first report selects its grandmaster; ETH0 is followed when both ports report the
selected one. -/
def execPtpSyncReceived (t : Nat) (y : PtpSync) (s : State) : Host.Outcome State Fault Refusal :=
  finish t s fun s =>
    if !s.ptpOn y.port then s
    else
      let s := s.noteSync y
      if s.clk.gm = some y.gm ∧ y.port = 0 ∧ s.clk.port ≠ 0 then
        let s := s.onClk fun c => { c with port := 0 }
        (s.countLock y.offset).discipline y.offset
      else if s.clk.gm = some y.gm ∧ y.port = s.clk.port then (s.countLock y.offset).discipline y.offset
      else if s.clk.gm.isNone ∨ y.port = s.clk.port then s.select y
      else s

/-- BEST_MASTER_CLOCK_SELECTION (R63, R65): the best master clock algorithm has chosen a grandmaster. -/
def execBestMasterClockSelection (t : Nat) (y : PtpSync) (s : State) : Host.Outcome State Fault Refusal :=
  finish t s fun s =>
    if !s.ptpOn y.port then s
    else
      let s := s.noteSync y
      if s.clk.gm = some y.gm ∧ s.clk.port = y.port then s else s.select y

/-- PTP_GRANDMASTER_LOST (R64, R65): the followed port's loss hands over to the other port, with no step when the two
agreed within 1 µs; with neither port left, holdover keeps the last correction. -/
def execPtpGrandmasterLost (t port : Nat) (s : State) : Host.Outcome State Fault Refusal :=
  finish t s fun s =>
    if s.sup.on ∧ port < 2 ∧ (getN s.clk.gms port).isSome then
      let differ := s.clk.portsDiffer
      let s := s.onClk fun c => { c with gms := setN c.gms port none, disSince := none, disLogged := false, disagree := false }
      if port ≠ s.clk.port then s
      else
        match getN s.clk.gms (1 - port) with
        | some g =>
          let o := getN s.clk.offs (1 - port)
          let same := s.clk.gm = some g
          let s := s.onClk fun c => { c with port := 1 - port, gm := some g }
          if differ ∨ !same then s.select { port := 1 - port, gm := g, offset := o } else s
        | none =>
          let s := s.onClk fun c => { c with gm := none, inLock := 0, lostAt := some s.now, slew := 0 }
          if s.clk.sync = .unset then s else s.setSync .holdover
    else s

/-- PTP_HOLDOVER_EXPIRY (R64): the grandmaster has been lost for 60 s. -/
def execPtpHoldoverExpiry (t : Nat) (s : State) : Host.Outcome State Fault Refusal :=
  finish t s fun s =>
    if s.clk.sync = .holdover ∧ s.pastOpt s.clk.lostAt (60 * sec) then s.setSync .free else s

/-- PTP_PORT_DISAGREE (R65): both ports report, and their offsets have differed by more than 1 µs for 10 s; ETH0 is followed on.
Each disagreement is logged once. `diff` is the difference that the event records, ETH0's offset less ETH1's, as the state has it. -/
def execPtpPortDisagree (t : Nat) (diff : Int) (s : State) : Host.Outcome State Fault Refusal :=
  finish t s fun s =>
    if s.sup.on ∧ s.clk.portsDiffer ∧ s.pastOpt s.clk.disSince (10 * sec) ∧ !s.clk.disLogged
        ∧ diff = getN s.clk.offs 0 - getN s.clk.offs 1 then
      (s.onClk fun c => { c with disLogged := true }).ev 0x0103 1 noSub (ofSigned 64 diff)
    else s

/-- PPS_OUT (02 Table 2.8): one pulse of 1 µs per TAI second of device time; the pin is a view of the counter. -/
def State.ppsOut (s : State) : Bool := s.sup.on && decide (s.dev % sec < 1000)

/-! ## Camera triggers (R67 to R70, R86) -/

/-- Change trigger `n`. -/
def State.onTrig (n : Nat) (f : Trig → Trig) (s : State) : State := s.onClk fun c => { c with trigs := modN c.trigs n f }

/-- The values in force after the next edge. -/
def Trig.startV (g : Trig) : Nat := g.startN.getD g.start
def Trig.periodV (g : Trig) : Nat := g.periodN.getD g.period
def Trig.widthV (g : Trig) : Nat := g.widthN.getD g.width

/-- Waiting values come into force. -/
def Trig.take (g : Trig) : Trig :=
  { g with start := g.startV, period := g.periodV, width := g.widthV, startN := none, periodN := none, widthN := none }

/-- The first START + k × PERIOD that is later than device time by at least 1 µs (R68). -/
def Trig.nextAt (g : Trig) (dev : Nat) : Nat :=
  if dev + 1000 ≤ g.start then g.start
  else g.start + ceilDiv (dev + 1000 - g.start) g.period * g.period

/-- Trigger outputs are driven (R70). -/
def State.trigOn (s : State) : Bool :=
  match s.sys.state with
  | .commission | .run | .degraded | .halted => true
  | .start => s.start.s7Done
  | _ => false

/-- PERIOD and WIDTH lie in their ranges (R67, R86). -/
def Trig.ranges (g : Trig) : Bool :=
  decide (1000000 ≤ g.periodV ∧ g.periodV ≤ 10000000000 ∧ 1000 ≤ g.widthV ∧ g.widthV ≤ 1000000)

/-- The schedule of an enabled trigger begins or resumes: edges that have passed since the one that was due are skipped (R68). -/
def Trig.arm (dev : Nat) (g : Trig) : Trig :=
  if g.en then
    let passed := match g.due with
      | some d => if d ≤ dev ∧ g.period ≠ 0 then (dev - d) / g.period + 1 else 0
      | none => 0
    { g.take with due := some (g.take.nextAt dev), missed := satAdd 32 g.missed passed }
  else g

/-- TRIGGER_EDGE (R67, R68, R75): the due edge's device time is reached. An edge whose time has passed by a CLK_PTP cycle
or more is skipped and counted, with those before the next edge: also one that has not passed yet but lies less than 1 µs ahead
(DESIGN CHOICE, log entry 55). -/
def execTriggerEdge (t n : Nat) (s : State) : Host.Outcome State Fault Refusal :=
  finish t s fun s =>
    let g := getN s.clk.trigs n
    match g.due with
    | some d =>
      if n < 8 ∧ g.en ∧ s.trigOn ∧ d ≤ s.dev then
        if s.dev < d + 8 then
          let s := s.onTrig n fun g =>
            let h := { g with last := some d, pulse := true, pulseEnd := d + g.width }.take
            { h with due := some (h.nextAt s.dev) }
          s.send (.trig n (!g.pol))
        else
          s.onTrig n fun g =>
            let nx := g.nextAt s.dev
            { g with due := some nx, missed := satAdd 32 g.missed ((nx - d) / g.period) }
      else s
    | none => s

/-- TRIGGER_PULSE_END (R67, R69): an edge in progress is completed to its full WIDTH. -/
def execTriggerPulseEnd (t n : Nat) (s : State) : Host.Outcome State Fault Refusal :=
  finish t s fun s =>
    let g := getN s.clk.trigs n
    if n < 8 ∧ g.pulse ∧ g.pulseEnd ≤ s.dev then
      (s.onTrig n fun g => { g with pulse := false }).send (.trig n g.pol)
    else s

/-- The registers of the CLK block are reached: the die is powered and runs. -/
def State.regsUp (s : State) : Bool := s.sup.on && !s.sup.thermal && s.sys.state != .off

/-- A value in force at once while no edge is due, else after the next edge (R69). -/
def Trig.put (g h : Trig) : Trig := if g.en ∧ g.due.isSome then h else h.take

/-- TRIG_START_WRITE (R69, R86). -/
def execTrigStartWrite (t n v : Nat) (s : State) : Host.Outcome State Fault Refusal :=
  finish t s fun s =>
    s.when (s.regsUp && decide (n < 8)) (State.onTrig n fun g => g.put { g with startN := some (v % 2 ^ 64) })

/-- TRIG_PERIOD_WRITE (R69, R86): refused outside 1 ms to 10 s, or not greater than WIDTH. -/
def execTrigPeriodWrite (t n v : Nat) (s : State) : Host.Outcome State Fault Refusal :=
  finish t s fun s =>
    s.when (s.regsUp && decide (n < 8)) (State.onTrig n fun g =>
      let v := v % 2 ^ 34
      if 1000000 ≤ v ∧ v ≤ 10000000000 ∧ g.widthV < v then g.put { g with periodN := some v } else { g with bad := true })

/-- TRIG_WIDTH_WRITE (R69, R86): refused outside 1 µs to 1 ms, or not less than PERIOD. -/
def execTrigWidthWrite (t n v : Nat) (s : State) : Host.Outcome State Fault Refusal :=
  finish t s fun s =>
    s.when (s.regsUp && decide (n < 8)) (State.onTrig n fun g =>
      let v := v % 2 ^ 20
      if 1000 ≤ v ∧ v ≤ 1000000 ∧ v < g.periodV then g.put { g with widthN := some v } else { g with bad := true })

/-- TRIG_CTRL_WRITE (R68, R69, R86): EN acts at once; EN = 1 with PERIOD or WIDTH out of range refuses the write. -/
def execTrigCtrlWrite (t n v : Nat) (s : State) : Host.Outcome State Fault Refusal :=
  finish t s fun s =>
    s.when (s.regsUp && decide (n < 8)) (State.onTrig n fun g =>
      if bit v 0 ∧ !g.ranges then { g with bad := true }
      else
        let g := { g with pol := bit v 1, bad := g.bad && !bit v 2 }
        if bit v 0 then (if g.en then g else Trig.arm s.dev { g with en := true, due := none })
        else { g.take with en := false, due := none })

end Sys2Proof.Machine
end

