-- ==== Sys2Proof/Machine/MonLog.lean ====
section
/-! DEFINITION. Monitors, telemetry, the event log and the forensic records (18 R493 to R504), and the bookkeeping of
background activities (17 R483, R484). -/

namespace Sys2Proof.Machine

/-! ## SYS_STATE (01 R31) -/

/-- SYS_STATE; OFF cannot be read, and START stands in its place. -/
def State.sysState (s : State) : Nat :=
  fld (if s.sys.state = .off then 1 else s.sys.state.code) 0 3 + flg s.ss1Active 3 + flg s.torque 4 + flg s.sys.tqen 5
    + flg s.sys.armedAt.isSome 6 + flg s.verdictCap 7 + fld s.sys.tripSrc 8 8 + fld s.counter 16 4

/-! ## Background activities (17 R483, R484) -/

/-- The deadline of activity `a` in ns (17 Table 17.4). -/
def bgDeadline (a : Nat) : Nat :=
  match a with
  | 0 => 43200 * sec
  | 1 => 900 * sec
  | 2 => 10 * sec
  | 3 => 3600 * sec
  | _ => sec

/-- The urgency margin of activity `a` in ns. -/
def bgMargin (a : Nat) : Nat :=
  match a with
  | 0 => 3600 * sec
  | 1 => 60 * sec
  | 2 => sec
  | 3 => 300 * sec
  | _ => 200 * ms

/-- A run has completed: within its deadline, the next deadline counts from now; a late one keeps the missed deadline. -/
def Bg.done (now : Nat) (b : Bg) : Bg :=
  if b.late then { b with late := false, urgent := false, good := 0 }
  else
    { b with urgent := false, from_ := now, row := 0, good := b.good + 1, twice := b.twice && decide (b.good + 1 < 2) }

/-- A deadline has been missed. -/
def Bg.miss (d : Nat) (b : Bg) : Bg :=
  { b with urgent := true, late := true, row := b.row + 1, good := 0, misses := satAdd 8 b.misses 1, from_ := b.from_ + d,
           twice := b.twice || decide (2 ≤ b.row + 1) }

/-- Change activity `a`. -/
def State.onBg (a : Nat) (f : Bg → Bg) (s : State) : State := s.onPsm fun p => { p with bg := modN p.bg a f }

/-- A run of activity `a` has completed. -/
def State.bgDone (a : Nat) (s : State) : State := s.onBg a (Bg.done s.now)

/-! ## Monitor slots (R493 to R496) -/

/-- The bin of a sample (R494). -/
def MonRec.bin (r : MonRec) (v : Int) : Nat :=
  if r.edges = 0 then
    (if v < r.base + r.width then 0 else min 31 ((v - r.base).toNat / max r.width 1))
  else if v < r.base then 0
  else
    let q := v.toNat / max r.base.toNat 1
    if 2 ^ 30 ≤ q then 31 else min 30 (q.log2 + 1)

/-- A level source (Table 18.1). -/
def MonRec.level (r : MonRec) : Bool := decide (0x20 ≤ r.source)

/-- One sample into the statistics (R493, R495). -/
def MonSlot.take (r : MonRec) (v : Int) (m : MonSlot) : MonSlot :=
  let i := r.bin v
  let full := decide (0xFFFFFFFE ≤ getN m.bins i)
  let sum := m.sum + v
  let hi : Int := if r.level then 2 ^ 63 - 1 else 2 ^ 64 - 1
  let lo : Int := if r.level then -(2 ^ 63) else 0
  { m with
    last := v
    min := if m.count = 0 then v else Min.min m.min v
    max := if m.count = 0 then v else Max.max m.max v
    count := satAdd 64 m.count 1
    sum := Max.max lo (Min.min hi sum)
    sumSat := m.sumSat || decide (hi < sum ∨ sum < lo)
    bins := modN m.bins i fun b => satAdd 32 b 1
    sat := m.sat || full
    invalid := false }

/-- The statistics of a slot cleared; LAST stays (R496). -/
def MonSlot.clear (m : MonSlot) : MonSlot := { last := m.last, invalid := m.invalid }

/-- A sample in slot `n`; the saturation of a bin is an event (R495, Table 18.3). -/
def State.sample (n : Nat) (r : MonRec) (v : Int) (s : State) : State :=
  let m := getN s.mon.slots n
  let m' := m.take r v
  let s := s.onMon fun k => { k with slots := setN k.slots n m' }
  if m'.sat ∧ !m.sat then
    (s.onMon fun k => { k with sat := true, satSeen := true }).ev 0x1002 0 n n
  else s

/-- A latency sample for every slot with the source and subject (R493). -/
def State.latency (source subject ns : Nat) (s : State) : State :=
  s.each s.img.monitors.slots fun r s =>
    if r.source = source ∧ (r.subject = subject ∨ r.subject = 0xFFFF) then
      s.sample r.slot r (min (ns / 2 ^ r.shift) 0xFFFFFFFF : Nat)
    else s

/-- The ADC of a level source has failed (R497). -/
def State.adcBad (r : MonRec) (s : State) : Bool :=
  (r.source == 0x21 && s.mon.adcSp) || (r.source == 0x22 && s.mon.adcSlb)

/-- A slot that samples VIN_12V, supply point 0, with either ADC (R493, worked case). -/
def MonRec.vin (r : MonRec) : Bool := (r.source == 0x21 || r.source == 0x22) && r.subject == 0

/-- MON_LEVEL_SAMPLE (R493, R497): a sample of a failed ADC updates LAST alone. A sample of VIN_12V is what SYS_SUPPLY shows of it (02
R57). Source 0x24 samples CLK_OFFSET as it stands. -/
def execMonLevelSample (t n : Nat) (v : Int) (s : State) : Host.Outcome State Fault Refusal :=
  finish t s fun s =>
    match s.img.monitors.slots.find? (·.slot == n) with
    | some r =>
      if s.regsUp ∧ r.level ∧ n < 64 then
        let v := if r.source = 0x24 then s.clk.offset else max (-(2 ^ 31)) (min (2 ^ 31 - 1) v)
        let s := if r.vin ∧ !s.adcBad r then s.onSup fun u => { u with vin := v.toNat, mainOk := mainOkOf v.toNat } else s
        if s.adcBad r then s.onMon fun k => { k with slots := modN k.slots n fun m => { m with last := v, invalid := true } }
        else s.sample n r v
      else s
    | none => s

/-- A bank is reached: the registers are, and in DOLDRUMS BAR0 serves host software neither MON nor LOG (04 Table 4.5). -/
def State.bankUp (b : Bank) (s : State) : Bool := s.regsUp && !(b == .host && s.sys.state == .doldrums)

/-- A snapshot bank changed. -/
def State.onSnap (b : Bank) (f : SnapBank → SnapBank) (s : State) : State :=
  s.onMon fun k => match b with | .host => { k with host := f k.host } | .sp => { k with sp := f k.sp }

/-- The slot copied into the bank (R496). -/
def State.snap (b : Bank) (n : Nat) (s : State) : State :=
  s.onSnap b fun _ => { slot := getN s.mon.slots (n % 64), refused := false, number := n % 64 }

/-- MON_SNAPSHOT (R496): a write of MON_SNAP_SEL without CLEAR. -/
def execMonSnapshot (t : Nat) (b : Bank) (n : Nat) (s : State) : Host.Outcome State Fault Refusal :=
  finish t s fun s => s.when (s.bankUp b) (State.snap b n)

/-- Some slot still holds a saturated bin (R515). -/
def Mon.anySat (k : Mon) : Bool := k.slots.any (·.sat)

/-- MON_SNAPSHOT_CLEAR (R496): the snapshot, then the clear; the host may clear only slots with HOST_CLEAR. -/
def execMonSnapshotClear (t : Nat) (b : Bank) (n : Nat) (s : State) : Host.Outcome State Fault Refusal :=
  finish t s fun s =>
    if s.bankUp b then
      let s := s.snap b n
      let may := b == .sp || s.img.monitors.slots.any fun r => r.slot == n % 64 && bit r.flags 0
      if may then
        s.onMon fun k =>
          let k := { k with slots := modN k.slots (n % 64) MonSlot.clear }
          { k with sat := k.anySat }
      else s.onSnap b fun x => { x with refused := true }
    else s

/-- ADC_CALIBRATION (R497): a failing calibration marks its ADC and is an event; a disagreement fails both. -/
def execAdcCalibration (t : Nat) (r : AdcCal) (s : State) : Host.Outcome State Fault Refusal :=
  finish t s fun s =>
    if s.regsUp then
      let sp := !r.spOk || r.disagree
      let slb := !r.slbOk || r.disagree
      let s := (s.onMon fun k => { k with adcSp := sp, adcSlb := slb, adcSeen := k.adcSeen || sp || slb }).bgDone 2
      if sp ∨ slb then s.ev 0x1001 2 noSub (flg sp 0 + flg slb 1 + flg r.disagree 2) else s
    else s

/-- TELEMETRY_SWAP (R498): the inactive half takes the values and becomes active. -/
def execTelemetrySwap (t : Nat) (s : State) : Host.Outcome State Fault Refusal :=
  finish t s fun s =>
    if s.regsUp then
      (s.onMon fun k =>
        { k with telemSeq := (k.telemSeq + 1) % 2 ^ 32, telemTime := s.dev, telemState := s.sysState,
                 telemLast := k.slots.map (·.last) }).bgDone 4
    else s

/-! ## Event log selection (R501, R502) -/

/-- The 32 bytes of an entry as stored (Table 18.2). -/
def LogEntry.bytes (e : LogEntry) : Bytes :=
  let b := withCrc (leBytes 8 e.time ++ leBytes 4 e.seq ++ leBytes 2 e.code ++ leBytes 1 e.sev ++ leBytes 1 e.state ++
    leBytes 2 e.subject ++ zeros 2 ++ leBytes 8 e.data)
  if e.good then b else modN b 28 (· ^^^ 1)

/-- The outcome of a selection: 2 GONE, 3 NOT_YET; none where the number is held (R502, 19 R531). -/
def selMiss (next seq : Nat) (held : Bool) : Option Nat :=
  if held then none else if seq = next ∨ serialAbove seq next then some 3 else some 2

/-- A log bank changed. -/
def State.onBank (b : Bank) (f : LogBank → LogBank) (s : State) : State :=
  s.onLog fun l => match b with | .host => { l with host := f l.host } | .sp => { l with sp := f l.sp }

/-- LOG_SEL_WRITE (R502). -/
def execLogSelWrite (t : Nat) (b : Bank) (seq : Nat) (s : State) : Host.Outcome State Fault Refusal :=
  finish t s fun s =>
    if s.bankUp b then
      let seq := seq % 2 ^ 32
      match s.ret.log.find? (·.seq == seq) with
      | some e => s.onBank b fun l => { l with selStat := if e.good then 1 else 4, entry := e.bytes }
      | none => s.onBank b fun l => { l with selStat := (selMiss s.ret.logNext seq false).getD 2, entry := zeros 32 }
    else s

/-- FR_SEL_WRITE (R503, R517). -/
def execFrSelWrite (t : Nat) (b : Bank) (num : Nat) (s : State) : Host.Outcome State Fault Refusal :=
  finish t s fun s =>
    if s.bankUp b then
      let num := num % 2 ^ 32
      match s.ret.frs.find? (·.num == num) with
      | some e => s.onBank b fun l => { l with frStat := if crcOk e.data then 1 else 4, frEntry := e.data }
      | none => s.onBank b fun l => { l with frStat := (selMiss s.ret.frNext num false).getD 2, frEntry := zeros 256 }
    else s

/-- LOG_REPEAT_SECOND_END (R501): the whole second of the repeat counts has ended. -/
def execLogRepeatSecondEnd (t : Nat) (s : State) : Host.Outcome State Fault Refusal :=
  finish t s fun s => s.when (s.regsUp && decide (s.log.second < s.dev / sec)) State.flushRepeats

end Sys2Proof.Machine
end

