-- ==== Sys2Proof/Machine/Sml.lean ====
section
/-! DEFINITION. The safe message layer's receiving side (14 R398 to R408, R411), its timers, and the Check-Value Unit
(R415 to R418). -/

namespace Sys2Proof.Machine

/-! ## The Check-Value Unit -/

/-- The CVU channel that serves user `u` (Table 14.9, R418). -/
def State.cvuFor (u : Nat) (s : State) : Option Nat := s.cvu.chans.findIdx? fun c => c.service && c.user == u

/-- A check value computed for user `u`, and whether a comparison failed (R415). -/
def State.cvuNote (u v : Nat) (ok : Bool) (s : State) : State :=
  s.with (s.cvuFor u) fun n s => s.onCvu fun k =>
    { k with chans := modN k.chans n fun c => { c with result := v, crcErr := if ok then c.crcErr else satInc c.crcErr } }

/-- The polynomial of a user of Table 14.9. -/
def cvuPoly (u : Nat) : Nat := if u = 24 then 1 else 3

/-- The allocation of Table 14.9, and 15 for channels 26 and 27: spares serve nobody until a user moves to them. Channel 24, which both
inserts and checks, shows INSERT (log entry 66). -/
def cvuStart : Cvu :=
  { chans := (List.range 32).map fun n =>
      { poly := cvuPoly n, alive := if n = 24 ∨ n = 26 then 1 else 0, user := if n < 28 then n else 0xFF,
        service := true } }

/-- The lowest free spare (R418). -/
def State.cvuSpare (s : State) : Option Nat :=
  s.cvu.chans.zipIdx.findSome? fun x => if 28 ≤ x.2 ∧ x.1.service ∧ x.1.user = 0xFF then some x.2 else none

/-- A fault of the channel that seals stream `n`: the frame in flight fails to seal, whether or not a spare takes over (06 R182). -/
def State.cvuFrameLost (n : Nat) (s : State) : State :=
  if n < 16 then
    s.onFiu fun f => { f with streams := modN f.streams n fun x => { x with intake := x.intake.map fun i => { i with lost := true } } }
  else s

/-- What a channel fault does to the seal of stream `n` when no spare is left (06 R182). -/
def State.cvuStreamLost (n : Nat) (s : State) : State :=
  if n < 16 then s.onFiu fun f => { f with streams := modN f.streams n fun x => { x with cvuLost := true } } else s

/-- The engines of channel `n` disagree (R418): it leaves service until the next start, and its user moves to a spare. -/
def State.cvuFault (n : Nat) (s : State) : State :=
  let c := getN s.cvu.chans n
  let s := s.onCvu fun k => { k with chans := modN k.chans n fun c => { c with service := false } }
  if c.user = 0xFF then s
  else
    let s := s.cvuFrameLost c.user
    match s.cvuSpare with
    | some m =>
      s.onCvu fun k => { k with chans := modN k.chans m fun x =>
        { x with poly := c.poly, alive := c.alive, pos := c.pos, user := c.user, primed := false } }
    | none => (s.evOpen 0x0B "CVU_FAULT" n c.user).cvuStreamLost c.user

/-- The 4-bit alive counter at a bit position of a message, bit 0 being the least significant bit of byte 0 (R416). -/
def aliveAt (bs : Bytes) (pos : Nat) : Nat := leVal bs / 2 ^ pos % 16

/-- A message with its alive counter written. -/
def aliveSet (bs : Bytes) (pos v : Nat) : Bytes :=
  leBytes bs.length (leVal bs - aliveAt bs pos * 2 ^ pos + v * 2 ^ pos)

/-- One message through a channel (R415, R416). -/
def CvuCh.run (r : CvuReq) (c : CvuCh) : CvuCh :=
  let ins := c.alive = 1
  let chk := c.alive = 2
  let bs := if ins then aliveSet r.input c.pos c.now else r.input
  let v := crcOf c.poly bs
  let got := aliveAt r.input c.pos
  { c with
    result := v
    crcErr := if r.expected.any (· ≠ v) then satInc c.crcErr else c.crcErr
    aliveErr := if chk ∧ c.primed ∧ got ≠ (c.now + 1) % 16 then satInc c.aliveErr else c.aliveErr
    now := if ins then (c.now + 1) % 16 else if chk then got else c.now
    primed := true }

/-- CVU_COMPUTE_COMPLETE (R415, R416, R418). -/
def execCvuComputeComplete (t n : Nat) (r : CvuReq) (s : State) : Host.Outcome State Fault Refusal :=
  finish t s fun s =>
    if s.regsUp ∧ n < 32 ∧ (getN s.cvu.chans n).service then
      if r.disagree then s.cvuFault n
      else s.onCvu fun k => { k with chans := modN k.chans n (CvuCh.run r) }
    else s

/-! ## Receiving -/

/-- The connections stand from S8 on, outside OFF, START and DOLDRUMS (R403). -/
def State.smlOn (s : State) : Bool := s.sup.on && !s.sys.state.idle

/-- The payload length of a TYPE an RX connection may receive (Table 14.3); JOINTS carries AXES positions (07 R187). -/
def rxLength (axes type : Nat) : Option Nat :=
  match type with
  | 0x8 => some (8 + 4 * axes)
  | 0x9 | 0xA | 0xE => some 4
  | 0xB => some 0
  | _ => none

/-- The flag a TYPE needs on its connection (R404, Table 14.10). -/
def rxFlagOk (flags type : Nat) : Bool :=
  match type with
  | 0x8 => bit flags 4
  | 0x9 => bit flags 2
  | 0xA => bit flags 3
  | _ => true

/-- TYPE and SEQ of frame data. -/
def rxType (m : SafeRx) : Nat := beAt m.data 0 4 / 0x10000 % 16
def rxSeq (m : SafeRx) : Nat := beAt m.data 0 4 % 0x10000
def rxConn (m : SafeRx) : Nat := beAt m.data 0 4 / 0x100000

/-- A received frame taken apart: slot, record and payload length. -/
structure RxMsg where
  k   : Nat
  cr  : ConnRec
  len : Nat
  deriving DecidableEq, Repr

/-- What the receiver finds in a frame (R398 to R401, R405, R407, Table 14.8). -/
inductive RxRes where
  | ignored
  | unknown
  | badCrc (k : Nat)
  | late (m : RxMsg)
  | onLost (m : RxMsg)
  | announce (m : RxMsg)
  | opening (m : RxMsg)
  | first (m : RxMsg) (d : Nat)
  | second (m : RxMsg) (equal : Bool)
  | outOfWindow (m : RxMsg)
  deriving DecidableEq, Repr

/-- A port takes part: ACTIVE where PATH_MON keeps a state, else while its link is up (R406). -/
def State.portOn (k p : Nat) (r : ConnRec) (s : State) : Bool :=
  getN s.sml.link p && (!bit r.flags 1 || getN (s.conn k).ports p)

/-- The age bound of R401 in µs: MAX_AGE, plus a forward step for one watchdog period. -/
def State.ageMax (r : ConnRec) (s : State) : Int :=
  r.maxAge * 1000 + (if s.sml.stepNs ≠ 0 ∧ !s.past s.sml.stepAt (r.watchdog * ms) then s.sml.stepNs / 1000 else 0 : Nat)

/-- The message age in µs, signed (R401). -/
def State.msgAge (ts : Nat) (s : State) : Int := toSigned 32 (s.devUs + 2 ^ 32 - ts % 2 ^ 32)

/-- Copies of message `q` on port `p` are compared: from the message after a restoring announce on (R407). -/
def Conn.counts (c : Conn) (p q : Nat) : Bool :=
  match getN c.resume p with
  | some f => decide ((q + 65536 - f % 65536) % 65536 < 32768)
  | none => true

/-- The pair record whose second copy a frame is (R405). -/
def State.pairOf (k : Nat) (m : SafeRx) (s : State) : Option Pair :=
  (s.conn k).pairs.find? fun p =>
    p.seq == (rxSeq m) && p.port != m.port && !p.decided && decide (s.now ≤ p.at_ + s.img.messages.skewUs * 1000)
      && (s.conn k).counts m.port p.seq

/-- A connection without an expectation (R403): CLOSED or FAILED, or W has passed in OPENING or OPEN before the frame arrived (Table
14.7). -/
def State.unexpecting (x : RxMsg) (s : State) : Bool :=
  match (s.conn x.k).state with
  | .closed | .failed => true
  | .opening => s.past (s.conn x.k).dogAt (x.cr.watchdog * ms)
  | .open_ => s.dogDue x.k

/-- The receiver's decision on a frame whose CRC and time are right. -/
def State.rxWindow (x : RxMsg) (m : SafeRx) (s : State) : RxRes :=
  let c := s.conn x.k
  if s.unexpecting x then .opening x
  else
    let d := ((rxSeq m) + 65536 - c.seq % 65536) % 65536
    if d ≤ x.cr.window then .first x d
    else if d < 32768 then .outOfWindow x
    else
      match s.pairOf x.k m with
      | some p => .second x (p.data == m.data.take (12 + x.len))
      | none => .outOfWindow x

/-- The receiver's decision on any frame. -/
def State.rxClass (m : SafeRx) (s : State) : RxRes :=
  if !s.smlOn ∨ 2 ≤ m.port ∨ !(getN s.sml.link m.port) ∨ m.data.length < 4 then .ignored
  else
    match s.img.conn (rxConn m) with
    | none => .unknown
    | some (k, r) =>
      match rxLength s.img.fusion.axes (rxType m) with
      | none => .badCrc k
      | some p =>
        let n := 12 + p
        let lenOk := decide (n ≤ m.data.length ∧ m.data.length ≤ max n 42)
        let x : RxMsg := { k := k, cr := r, len := p }
        if r.dir ≠ 0 ∨ m.mac ≠ r.mac ∨ !lenOk ∨ !rxFlagOk r.flags (rxType m) then .badCrc k
        else if beAt m.data (8 + p) 4 ≠ safeCrc r.vcid (m.data.take (8 + p)) then .badCrc k
        else
          let a := s.msgAge (beAt m.data (4 + p) 4)
          if a < -1000 ∨ s.ageMax r < a then .late x
          else if (rxType m) = 0xE then .announce x
          else if !s.portOn k m.port r ∧ !s.unexpecting x then .onLost x
          else s.rxWindow x m

/-- A frame whose CRC was right. -/
def RxRes.good : RxRes → Option RxMsg
  | .late m | .onLost m | .announce m | .opening m | .first m _ | .second m _ | .outOfWindow m => some m
  | _ => none

/-- A frame that is refused (R398, R400, R401, Table 14.8). -/
def RxRes.refused : RxRes → Bool
  | .unknown | .badCrc _ | .late _ | .outOfWindow _ => true
  | _ => false

/-! ## Acting on messages -/

/-- A RESET_REQUEST after its pair decision (01 R21, R405, R411). Its journal entry closes. -/
def State.resetDecided (conn : Nat) (p : Pair) (act : Bool) (s : State) : State :=
  let s := s.jClose jSafe conn p.seq
  let seen := beAt p.data 4 4
  if !act then s
  else if seen ≠ s.vrd.revoked then s.evOpen 0x0A "RESET_DISCARDED" conn seen
  else if s.sys.state = .halted then s.onSys fun y => { y with armedAt := some s.now }
  else s

/-- The TYPE of a kept copy. -/
def Pair.type (p : Pair) : Nat := beAt p.data 0 4 / 0x10000 % 16

/-- Path monitoring after a pair decision (R406). `got` says which ports delivered a copy. -/
def Conn.monitor (q : Nat) (got : List Bool) (c : Conn) : Conn :=
  let upd (p : Nat) : Nat := if getN got p then 0 else if getN c.ports p && c.counts p q then getN c.missing p + 1 else getN c.missing p
  let ms := [upd 0, upd 1]
  { c with missing := ms, ports := (List.range 2).map fun p => getN c.ports p && decide (getN ms p < 3) }

/-- A pair whose window has ended without a second copy is SINGLE (R405, R406). -/
def State.pairSingle (k : Nat) (r : ConnRec) (p : Pair) (s : State) : State :=
  let other := !s.portOn k (1 - p.port) r
  let s := s.onConn k fun c =>
    let c := { c with single := c.single + 1, pairs := modFirst (fun x => x.seq == p.seq) (fun x => { x with decided := true }) c.pairs }
    if bit r.flags 1 then c.monitor p.seq [p.port == 0, p.port == 1] else c
  let s := if p.type = 0xA then s.resetDecided r.conn p other else s
  s.settleSingle

/-- A joint sample reaches the estimator unless its tick is final (07 R188). -/
def State.joints (m : SafeRx) (conn : Nat) (s : State) : State :=
  let f := s.img.fusion
  if conn = f.jointConn ∧ bit f.sources 0 then
    let time := beAt m.data 4 8
    let x : JointSample := { time := time, pos := (List.range f.axes).map fun i => toSigned 32 (beAt m.data (12 + 4 * i) 4) }
    s.onFgu fun g =>
      if ceilDiv time ms ≤ g.lastTick then { g with jointLate := satInc g.jointLate } else { g with joints := g.joints ++ [x] }
  else s

/-- JOINTS end a pause (17 R479), which wakes the device. -/
def State.endPause (k : Nat) (s : State) : State :=
  let was := (s.conn k).paused
  let s := s.onConn k fun c => { c with aliveSince := none, paused := false }
  if was then s.wake else s

/-- An accepted message acts on its first copy (Table 14.3). -/
def State.firstCopy (x : RxMsg) (m : SafeRx) (s : State) : State :=
  match (rxType m) with
  | 0x8 => (s.joints m x.cr.conn).endPause x.k
  | 0xA => (s.jOpen jSafe x.cr.conn (rxSeq m) (zeros 6)).wake
  | 0xB =>
    s.onConn x.k fun c => { c with aliveSince := (match c.aliveSince with | some i => some i | none => some s.now) }
  | _ => s

/-- The oldest of 32 pair records is released; an undecided one is decided first (Table 14.7). -/
def State.releasePair (k : Nat) (r : ConnRec) (s : State) : State :=
  if (s.conn k).pairs.length < 32 then s
  else
    let s := s.with (s.conn k).pairs.getLast? fun p s => if p.decided then s else s.pairSingle k r p
    s.onConn k fun c => { c with pairs := c.pairs.take 31 }

/-- A message accepted under R400: e advances, the watchdog restarts, and its first copy is kept (R400 to R405). -/
def State.accept (x : RxMsg) (m : SafeRx) (d : Nat) (s : State) : State :=
  let s := s.releasePair x.k x.cr
  let s := s.onConn x.k fun c =>
    { c with
      seq := ((rxSeq m) + 1) % 65536
      lost := satAdd 32 c.lost d
      state := .open_
      dogAt := s.now
      missing := setN c.missing m.port 0
      data := sub m.data 4 x.len
      pairs := { seq := (rxSeq m), port := m.port, at_ := s.now, data := m.data.take (12 + x.len) } :: c.pairs }
  let a := s.msgAge (beAt m.data (4 + x.len) 4)
  let s := if 0 ≤ a then s.latency 0x05 x.cr.conn (a.toNat * 1000) else s
  s.firstCopy x m

/-- Copies that differ (R405): both are discarded, and the connection fails as by its watchdog; a port that an announce has restored
in this SP cycle stays LOST (Table 14.7). -/
def State.copiesDiffer (x : RxMsg) (m : SafeRx) (s : State) : State :=
  let s := s.onConn x.k fun c =>
    { c with mismatch := satAdd 16 c.mismatch 1
             ports := (List.range 2).map fun p => getN c.ports p && !getN c.fresh p }
  let s := s.evOpen 0x0A "COPIES_DIFFER" x.cr.conn ((rxSeq m) + (1 - m.port) * 65536 + m.port * 16777216)
  let s := s.each (s.conn x.k).pairs fun p s => if p.type = 0xA ∧ !p.decided then s.jClose jSafe x.cr.conn p.seq else s
  ((s.onConn x.k fun c => { c with pairs := [] }).connFail x.k).settleSingle

/-- A second copy with equal bytes: the message is DUAL (R405). -/
def State.dual (x : RxMsg) (m : SafeRx) (s : State) : State :=
  match s.pairOf x.k m with
  | some p =>
    let s := s.onConn x.k fun c =>
      { c with missing := [0, 0],
               pairs := modFirst (fun y => y.seq == p.seq) (fun y => { y with decided := true }) c.pairs }
    if (rxType m) = 0xA then s.resetDecided x.cr.conn p true else s
  | none => s

/-- PATH_ANNOUNCE (R407): restores a LOST port of an OPENING or OPEN connection. -/
def State.pathRestore (x : RxMsg) (m : SafeRx) (s : State) : State :=
  let c := s.conn x.k
  let diff := toSigned 16 ((rxSeq m) + 65536 + 1 - c.seq % 65536)
  if beAt m.data 4 1 ≠ m.port then s.onConn x.k fun c => { c with crcErr := satInc c.crcErr }
  else if bit x.cr.flags 1 ∧ !(getN c.ports m.port) ∧ (c.state = .opening ∨ c.state = .open_)
      ∧ diff.natAbs ≤ x.cr.window then
    (s.onConn x.k fun c =>
      { c with ports := setN c.ports m.port true, missing := setN c.missing m.port 0, fresh := setN c.fresh m.port true,
               resume := setN c.resume m.port (some (((rxSeq m) + 1) % 65536)) }).settleSingle
  else s

/-- STOP_REQUEST with a correct CRC, in every connection state (R404). -/
def State.remoteStop (m : SafeRx) (conn : Nat) (s : State) : State :=
  ((s.evOpen 0x0A "STOP_REQUEST" conn (beAt m.data 5 1 + beAt m.data 4 1 * 256)).spTrip 0x0E false).wake

/-- The receiver acts on a frame. -/
def State.rxAct (m : SafeRx) (s : State) : State :=
  let r := s.rxClass m
  let s := s.with r.good fun x s => if (rxType m) = 0x9 then s.remoteStop m x.cr.conn else s
  let s := match r with
    | .ignored | .unknown => s
    | .badCrc _ => s.cvuNote (17 + m.port) 0 false
    | _ => s.with r.good fun x s => s.cvuNote (17 + m.port) (beAt m.data (8 + x.len) 4) true
  match r with
  | .ignored | .onLost _ => s
  | .unknown => s.onSml fun y => { y with unknown := satInc y.unknown }
  | .badCrc k => s.onConn k fun c => { c with crcErr := satInc c.crcErr }
  | .late x => s.onConn x.k fun c => { c with timeErr := satInc c.timeErr }
  | .outOfWindow x => s.onConn x.k fun c => { c with seqErr := satInc c.seqErr }
  | .opening x =>
    let s := if s.dogDue x.k then s.connFail x.k else s
    s.onConn x.k fun c => { c with state := .opening, seq := ((rxSeq m) + 1) % 65536, dogAt := s.now, pairs := [] }
  | .announce x => s.pathRestore x m
  | .first x d => s.accept x m d
  | .second x true => s.dual x m
  | .second x false => s.copiesDiffer x m

/-- A frame of TYPE `ty`. -/
def State.rxOf (ty : Nat) (m : SafeRx) (s : State) : State := if (rxType m) = ty then s.rxAct m else s

/-- JOINTS_MESSAGE (R398 to R406, 07 R187, R188). -/
def execJointsMessage (t : Nat) (m : SafeRx) (s : State) : Host.Outcome State Fault Refusal := finish t s (State.rxOf 0x8 m)

/-- STOP_REQUEST (R404). -/
def execStopRequest (t : Nat) (m : SafeRx) (s : State) : Host.Outcome State Fault Refusal := finish t s (State.rxOf 0x9 m)

/-- RESET_REQUEST (01 R21, R405, R411). -/
def execResetRequest (t : Nat) (m : SafeRx) (s : State) : Host.Outcome State Fault Refusal := finish t s (State.rxOf 0xA m)

/-- ALIVE_MESSAGE (R402, 17 R479). -/
def execAliveMessage (t : Nat) (m : SafeRx) (s : State) : Host.Outcome State Fault Refusal := finish t s (State.rxOf 0xB m)

/-- PATH_ANNOUNCE (R407). -/
def execPathAnnounce (t : Nat) (m : SafeRx) (s : State) : Host.Outcome State Fault Refusal := finish t s (State.rxOf 0xE m)

/-- SAFE_MESSAGE_REFUSED (R398, R400, R401, Table 14.8): a frame that is refused advances nothing and is counted. -/
def execSafeMessageRefused (t : Nat) (m : SafeRx) (s : State) : Host.Outcome State Fault Refusal :=
  finish t s fun s => s.when (s.rxClass m).refused (State.rxAct m)

/-! ## Timers and sending -/

/-- SKEW_WINDOW_END (R405): SKEW has passed since the first copy. -/
def execSkewWindowEnd (t conn seq : Nat) (s : State) : Host.Outcome State Fault Refusal :=
  finish t s fun s =>
    match s.img.conn conn with
    | some (k, r) =>
      match (s.conn k).pairs.find? fun p => p.seq == seq && !p.decided && s.past p.at_ (s.img.messages.skewUs * 1000) with
      | some p => if s.smlOn then s.pairSingle k r p else s
      | none => s
    | none => s

/-- SML_WATCHDOG_EXPIRY (R402): W has passed since the last restart. -/
def execSmlWatchdogExpiry (t conn : Nat) (s : State) : Host.Outcome State Fault Refusal :=
  finish t s fun s => s.with (s.img.conn conn) fun x s => s.when (s.smlOn && s.dogDue x.1) (State.connFail x.1)

/-- SML_OPENING_EXPIRY (R403): no frame was accepted within W. -/
def execSmlOpeningExpiry (t conn : Nat) (s : State) : Host.Outcome State Fault Refusal :=
  finish t s fun s => s.with (s.img.conn conn) fun x s =>
    let c := s.conn x.1
    s.when (s.smlOn && x.2.dir == 0 && c.state == .opening && s.past c.dogAt (x.2.watchdog * ms))
      (State.onConn x.1 fun c => { c with state := .closed })

/-- SINGLE_PATH_TIMER_EXPIRY (R408): trip 0x0C. -/
def execSinglePathTimerExpiry (t : Nat) (s : State) : Host.Outcome State Fault Refusal :=
  finish t s fun s => s.when (s.smlOn && s.singleExpired) (State.spTrip 0x0C false)

/-- STATUS_SEND (R399): PERIOD_MS has passed. -/
def execStatusSend (t conn : Nat) (s : State) : Host.Outcome State Fault Refusal :=
  finish t s fun s => s.with (s.img.conn conn) fun x s =>
    s.when (s.smlOn && x.2.dir == 1 && s.past (s.conn x.1).statusAt (x.2.period * ms)) (State.sendStatus x.1)

/-- PATH_ANNOUNCE_SEND (R407): every 100 ms on each TX connection, with the last SEQ sent, on one port whose link is up. -/
def execPathAnnounceSend (t port : Nat) (s : State) : Host.Outcome State Fault Refusal :=
  finish t s fun s =>
    if s.smlOn ∧ port < 2 ∧ getN s.sml.link port ∧ (getN s.sml.annAt port).all (s.past · (100 * ms)) then
      let s := s.onSml fun m => { m with annAt := setN m.annAt port (some s.now) }
      s.each s.txSlots fun k s => s.with (s.img.slot k) fun r s =>
        s.send (.safe port r.mac r.vid r.pcp
          (safeFrame r 0xE (((s.conn k).seq + 65535) % 65536) [byte port, 0, 0, 0] s.devUs))
    else s

/-- A port's link falls (R406, 03 Table 3.3): it is LOST on every PATH_MON connection. -/
def State.linkDown (p : Nat) (s : State) : State :=
  let s := s.onClk fun c => { c with ethOk := setN c.ethOk p false }
  if p < 2 then
    let s := s.onSml fun m => { m with link := setN m.link p false }
    (s.onSml fun m => { m with conns := m.conns.map fun c => { c with ports := setN c.ports p false } }).settleSingle
  else s

/-- A port's link rises; a LOST port waits for an announce (R407). -/
def State.linkRise (p : Nat) (s : State) : State :=
  let s := s.onClk fun c => { c with ethOk := setN c.ethOk p true }
  if p < 2 then (s.onSml fun m => { m with link := setN m.link p true }).settleSingle else s

/-- ETH_LINK_CHANGE (R406, R408). -/
def execEthLinkChange (t port : Nat) (up : Bool) (s : State) : Host.Outcome State Fault Refusal :=
  finish t s fun s =>
    if s.regsUp ∧ port < 4 then (if up then s.linkRise port else s.linkDown port) else s

/-- CONNECTION_PAUSE (17 R479): every RX connection with JOINTS has carried ALIVE and no JOINTS for 100 ms, and every RX
connection with STOP_ON_LOSS is OPEN. -/
def execConnectionPause (t : Nat) (s : State) : Host.Outcome State Fault Refusal :=
  finish t s fun s =>
    let js := s.rxSlots 4
    let quiet := js.all fun k => s.pastOpt (s.conn k).aliveSince (100 * ms)
    let live := (s.rxSlots 0).all fun k => (s.conn k).state == .open_
    if s.smlOn ∧ quiet ∧ live then s.each js fun k s => s.onConn k fun c => { c with paused := true } else s

end Sys2Proof.Machine
end

