-- ==== Sys2Proof/Machine/Jobs.lean ====
section
/-! DEFINITION. Jobs, the dispatcher and the Vane (08 R225 to R240, 10 R264 to R284): shared operations. What an issuer does
with an ended job stands in Machine/AuditOps.lean. -/

namespace Sys2Proof.Machine

/-! ## Cores and fences -/

/-- Change core `n`. -/
def State.onCore (n : Nat) (f : ACore → ACore) (s : State) : State := s.onAud fun a => { a with cores := modN a.cores n f }

/-- Core `n`. -/
def State.acore (s : State) (n : Nat) : ACore := getN s.aud.cores n

/-- Change job `num`. -/
def State.onJob (num : Nat) (f : Job → Job) (s : State) : State :=
  s.onAud fun a => { a with jobs := a.jobs.map fun j => if j.num = num then f j else j }

/-- Job `num`. -/
def State.jobOf (num : Nat) (s : State) : Option Job := s.aud.jobs.find? (·.num == num)

/-- The base of a core's local memory window (16 Table 16.2). -/
def coreBase (n : Nat) : Nat := 0x140000000 + n * 0x1000000

/-- Local memory zeroed (08 R235). -/
def State.zeroLocal (n : Nat) (s : State) : State := s.wipe (coreBase n) 0x200000

/-- A waiting pass that will not run. -/
def PassSt.cancel (st : Nat) : PassSt → PassSt
  | .waiting => .notRun st
  | p => p

/-- The core of a pass that runs or has run. -/
def PassSt.core? : PassSt → Option Nat
  | .running c => some c
  | .ended c _ _ _ => some c
  | _ => none

/-- A pass is running. -/
def PassSt.busy : PassSt → Bool
  | .running _ => true
  | _ => false

/-- A pass has ended on a core. -/
def PassSt.isOver : PassSt → Bool
  | .ended _ _ _ _ => true
  | _ => false

/-- Every pass of a job that has not started is cancelled (R231, R276). -/
def Job.cancelRest (j : Job) : Job :=
  { j with descs := j.descs.map fun d => { d with w := d.w.cancel 6, l := d.l.cancel 6 } }

/-- A job fails by a status: WITNESS_BOUNDS for a FAULT under UNTRUSTED_IDX, else INTERNAL (R231, R232). The first event in
completion order decides (R279). -/
def Job.fail (status : Nat) (untrusted : Bool) (j : Job) : Job :=
  if j.res.isSome ∨ j.arbitrating.isSome then j.cancelRest
  else { j.cancelRest with res := some .failed, cause := status, untrusted := status == 2 && untrusted }

/-- The pass of a descriptor as a status entry counts it. -/
def JobDesc.setPass (pass : Nat) (p : PassSt) (d : JobDesc) : JobDesc :=
  match pass with
  | 0 => { d with w := p }
  | 1 => { d with l := p }
  | _ => { d with r := p }

/-- The 16 bytes of a status entry (Table 8.5). -/
def StatEntry.bytes (e : StatEntry) : Bytes :=
  leBytes 4 e.job ++ leBytes 2 e.index ++ [byte e.status, byte e.fp, byte e.core, byte e.pass] ++ leBytes 2 e.elem
    ++ leBytes 4 e.result

/-- The status entry of a core (Table 8.5), posted to the completion ring of the issuer while its job stands (R227). -/
def State.statEntry (core : Nat) (e : StatEntry) (s : State) : State :=
  (s.onCore core fun c => { c with last := e, done := satInc c.done }).onAud fun a =>
    { a with posted := if a.jobs.any (·.num == e.job) then a.posted ++ [e] else a.posted }

/-- The entries in the completion ring of a job's issuer: those posted, and one for each pass that is not run (Table 8.6). -/
def State.entriesOf (j : Job) (s : State) : List StatEntry :=
  (s.aud.posted.filter (·.job == j.num)) ++ j.descs.zipIdx.flatMap fun x =>
    [(0, x.1.w), (1, x.1.l)].filterMap fun p => match p.2 with
      | .notRun st => some { job := j.num, index := x.2, status := st, pass := p.1 }
      | _ => none

/-- A delay slot freed. -/
def State.freeSlots (ks : List (Option Nat)) (s : State) : State :=
  s.each ks fun k s => s.with k fun k s => s.onVane fun v => { v with slots := modN v.slots k fun x => { retired := x.retired } }

/-- Probation copies dropped, with the slots they hold: they count neither way (R240). -/
def State.loseCopies (p : PCopy → Bool) (s : State) : State :=
  (s.freeSlots ((s.aud.copies.filter p).map (·.slot))).onAud fun a => { a with copies := a.copies.filter fun c => !p c }

/-- The ended copies of a descriptor that will not match dropped (R240). -/
def State.dropCopies (job index : Nat) (s : State) : State :=
  s.loseCopies fun c => c.job == job && c.index == index && c.mine.isSome

/-- The outcome word of the last arbitration (R289). -/
def State.arbFenced (core : Nat) (s : State) : State :=
  s.onVane fun v =>
    let w := b2n (bits v.lastArb 4 4 == core && !bit v.lastArb 21)
    let l := b2n (bits v.lastArb 8 4 == core && !bit v.lastArb 22)
    { v with lastArb := v.lastArb + w * 2 ^ 21 + l * 2 ^ 22 }

/-- A core fenced (R238). A descriptor that runs on it ends FENCED (R233), a rerun without outcome (10 R279). -/
def State.fence (core cause : Nat) (s : State) : State :=
  let c := s.acore core
  let s := s.onCore core fun c =>
    { c with state := .fenced, cause := cause, run := none, bistDue := false, suspect := false, readmit := false, prob := 0 }
  let s := s.loseCopies (·.core == core)
  let s := s.with c.run fun r s =>
    let s := s.statEntry core { job := r.job, index := r.index, status := 5, core := core, pass := r.pass }
    if r.pass = 3 then s
    else
      let s := (s.onJob r.job fun j =>
        { j with descs := modN j.descs r.index (JobDesc.setPass r.pass (.ended core 0 0 5)) }).onJob r.job (Job.fail 5 false)
      s.dropCopies r.job r.index
  let s := if cause = 3 then s.arbFenced core else s
  s.ev 0x0501 3 core cause

/-- A core begins logic and memory BIST. One in probation is a fenced core still, and returns to its probation (R238, R240). -/
def ACore.toBist (why : Nat) (suspect : Bool) (c : ACore) : ACore :=
  { c with state := .bist, bistDue := false, bistFor := why, suspect := suspect, readmit := c.state == .probation }

/-- A core goes to logic and memory BIST before it takes another descriptor (R236, R237, 10 R278). -/
def State.toBist (core why : Nat) (suspect : Bool) (s : State) : State :=
  s.onCore core fun c =>
    match c.state with
    | .fenced | .bist => c
    | _ =>
      if c.run.isSome then { c with bistDue := true, bistFor := why, suspect := suspect } else c.toBist why suspect

/-! ## Issue and registration (10 R265, R270, R271) -/

/-- The transforms of a class, in ascending code order (R265). -/
def ClassRec.codes (r : ClassRec) : List Nat := [1, 2, 3, 4].filter fun c => bit r.xforms (c - 1)

/-- The class of a job. -/
def State.clsOf (s : State) (c : Nat) : ClassRec := (s.img.cls c).getD {}

/-- The class record of a job: a lent one brings its borrower's, whose input records stay behind (15 R438). -/
def State.clsFor (s : State) (j : Job) : ClassRec :=
  match j.lent with
  | some x => { x.1 with inputCount := 0 }
  | none => s.clsOf j.cls

/-- A TOLERANCE class. -/
def ClassRec.tolerant (r : ClassRec) : Bool := r.compare == 1

/-- A SAFE_STATE class. -/
def ClassRec.safeState (r : ClassRec) : Bool := r.mode == 0

/-- CHPERM's q for C channels: a number below C that shares no factor with it (R265). -/
def permQof (raw c : Nat) : Nat :=
  let l := (List.range c).filter fun q => q ≠ 0 && Nat.gcd q c == 1
  l.getD (raw % max l.length 1) 1

/-- Leeward passes of an ARBITRATE class are suppressed while pairing is broken (10 R281). -/
def Job.suppress (j : Job) : Job :=
  { j with broken := true, descs := j.descs.map fun d => { d with l := d.l.cancel 7 } }

/-- The jobs that hold a job table entry. -/
def State.registered (s : State) : Nat := (s.aud.jobs.filter (·.registered)).length

/-- The journal KIND of a job (19 Table 19.4). -/
def JobKind.journal : JobKind → Nat
  | .audit => jAudit
  | .geometry => jGeometry
  | .guard => jGuard
  | .safeState => 0
  | .lent => jLent

/-- The leeward transform of a descriptor (R265). -/
def Job.leeward (j : Job) (d : Desc) : Nat := if j.xform = 4 ∧ d.c < 2 then 1 else j.xform

/-- The transform of an arbitration rerun (R276). -/
def Job.rerun (j : Job) (d : Desc) : Nat :=
  (([1, 2, 3] ++ if 2 ≤ d.c then [4] else []).find? (· ≠ j.leeward d)).getD 1

/-! ## Inputs from outside the job (10 R269, R270) -/

/-- The 32-bit words of an input source (10 Table 10.2; log entry 77). -/
def InputRec.words (r : InputRec) : Nat :=
  match r.source with
  | 1 => 12 | 2 => 16 | 5 => 2 | _ => 1

/-- The reading of an input source: EGO_POSE the latest valid estimate, SAFE_MSG the payload last accepted. -/
def State.reading (r : InputRec) (s : State) : List Nat :=
  match r.source with
  | 1 =>
    let p := (s.fgu.poses.find? (·.valid)).getD default
    ([p.flange, p.base].flatMap fun x => [x.x, x.y, x.z, x.roll, x.pitch, x.yaw]).map (ofSigned 32)
  | 2 =>
    let b := padTo 64 ((s.img.conn r.subject).elim [] fun x => (s.conn x.1).data)
    (List.range 16).map fun i => leAt b (4 * i) 4
  | 3 => [ofSigned 32 ((getN s.slb.qe r.subject).speed * 65536 / 1000)]
  | 4 => [getN s.slb.mirror 1]
  | 5 => [s.dev % 2 ^ 32, s.dev / 2 ^ 32 % 2 ^ 32]
  | _ => [ofSigned 32 (getN s.mon.slots r.subject).last]

/-- The input records of a class (10 Table 10.6). -/
def State.inputsOf (c : ClassRec) (s : State) : List InputRec := (s.img.inputs.drop c.firstInput).take c.inputCount

/-- The readings of a class's inputs of one kind (R269): 0 AGREED, 1 INDEPENDENT. -/
def State.readAll (kind : Nat) (c : ClassRec) (s : State) : List Nat :=
  ((s.inputsOf c).filter (·.kind == kind)).flatMap fun r => s.reading r

/-- An Eddy job reads MON_LEVEL from a failed ADC (18 R497). -/
def State.badInput (c : ClassRec) (s : State) : Bool :=
  (s.inputsOf c).any fun r => r.source == 6 && (s.img.monitors.slots.any fun m => m.slot == r.subject && s.adcBad m)

/-- The inputs of a class in record order: AGREED ones from the exchange slot, INDEPENDENT ones as the pass has read them. -/
def mergeInputs : List InputRec → List Nat → List Nat → List Nat
  | [], _, _ => []
  | r :: l, agreed, own =>
    if r.kind = 1 then own.take r.words ++ mergeInputs l agreed (own.drop r.words)
    else agreed.take r.words ++ mergeInputs l (agreed.drop r.words) own

/-- CHPERM's q for a descriptor of `c` channels from the slot's: itself where it fits (R265). -/
def permFor (q c : Nat) : Nat := if q < c ∧ Nat.gcd q c = 1 then q else permQof q c

/-- The content of a job's exchange slot, closed by its CRC-32C (R265, R269, R270, 07 R190; log entry 77): CHPERM's q and r for the
first descriptor with channels, the guard's poses, and the AGREED inputs of the class; a lent job's are as its borrower has sent them
(15 R438). -/
def State.slotFill (j : Job) (s : State) : Bytes :=
  let c := ((j.descs.find? fun d => decide (2 ≤ d.desc.c)).map (·.desc.c)).getD 1
  withCrc (leBytes 2 (permQof j.permQ c) ++ leBytes 2 (j.permR % c)
    ++ match j.lent with
      | some x => x.2.drop 4
      | none => (j.poses ++ s.readAll 0 (s.clsFor j)).flatMap (leBytes 8))

/-- The bytes of a job's exchange slot. -/
def State.exchBytes (j : Job) (s : State) : Bytes := j.slot.elim [] fun k => getN s.vane.slotData k

/-- Word `i` of a job's exchange slot, behind q and r. -/
def State.slotWord (j : Job) (i : Nat) (s : State) : Nat := leAt (s.exchBytes j) (4 + 8 * i) 8

/-- What a job of a class reads from outside: its exchange slot and the pass's own readings. -/
def State.inputWords (j : Job) (reads : List Nat) (s : State) : List Nat :=
  let l := s.inputsOf (s.clsFor j)
  let n := ((l.filter (·.kind == 0)).map InputRec.words).sum
  mergeInputs l ((List.range n).map fun i => s.slotWord j (j.poses.length + i) % 2 ^ 32) reads

/-- The layout of a pass (R265, R266, R276): the windward one plain; the leeward one by the job's transform, the class's ROT and the
slot's q and r; the rerun by its own transform, 8 banks further. -/
def State.viewOf (j : Job) (pass : Nat) (d : Desc) (s : State) : View :=
  if pass = 0 then {}
  else
    let b := s.exchBytes j
    { x := if pass = 1 then j.leeward d else j.rerun d, q := permFor (leAt b 0 2) d.c, r := leAt b 2 2 % max d.c 1,
      rot := ((s.clsFor j).rot + if pass = 1 then 0 else 8) % 16 }

/-- A pass uses the exchange slot of its job, so its core checks the slot's CRC-32C (R270). -/
def State.readsSlot (j : Job) (pass : Nat) (d : Desc) (s : State) : Bool :=
  (pass != 0 && (s.viewOf j pass d).x == 4) || !j.poses.isEmpty || (s.inputsOf (s.clsFor j)).any (·.kind == 0)

/-! ## Registration (R270, R271) -/

/-- One waiting job registered if an entry and an exchange slot are free (R270, R271); the slot is written and closed. -/
def State.registerOne (num : Nat) (s : State) : State :=
  match s.jobOf num, s.vane.exch.findIdx? (·.isNone) with
  | some j, some k =>
    if j.registered ∨ 64 ≤ s.registered then s
    else
      let fill := s.slotFill j
      let s := s.onVane fun v => { v with exch := setN v.exch k (some num), slotData := setN v.slotData k fill }
      let safe := (s.clsFor j).safeState
      let brk := s.vane.broken && !safe
      let s := s.onJob num fun j =>
        let j := { j with registered := true, regAt := s.now, slot := some k }
        if brk then j.suppress else { j with broken := s.vane.broken }
      if j.kind = .safeState then
        s.onAud fun a => { a with orig := modN a.orig j.cls fun o => (match o with | some i => some i | none => some s.now) }
      else if j.kind = .lent then s
      else
        s.jOpen j.kind.journal j.owner (if j.kind = .guard then j.seq else num)
          (leBytes 4 j.seq ++ [byte j.cls, 0])
  | _, _ => s

/-- Waiting jobs registered in issue order. -/
def State.register (s : State) : State := s.each (s.aud.jobs.map (·.num)) State.registerOne

/-- A job issued (R265, R271): its number, and the state with it waiting in the VP queue. `poses` are those of a guard job. -/
def State.issueJob (kind : JobKind) (owner seq cls : Nat) (descs : List Desc) (poses : List Nat) (s : State)
    (lent : Option (ClassRec × Bytes) := none) : Nat × State :=
  let num := s.aud.nextJob
  let codes := (s.clsFor { num := num, kind := kind, owner := owner, seq := seq, cls := cls, lent := lent }).codes
  let k := getN s.aud.rot cls
  let x := codes.getD (k % max codes.length 1) 1
  let (q, s) := s.draw
  let (r, s) := s.draw
  let ds := descs.zipIdx.map fun d =>
    let c := { d.1 with job := num, index := d.2, cls := cls }
    ({ desc := c, rXform := 0 } : JobDesc)
  let j : Job := { num := num, kind := kind, owner := owner, seq := seq, cls := cls, xform := x, permQ := q, permR := r,
                   descs := ds, poses := poses, lent := lent }
  let s := s.onAud fun a =>
    { a with jobs := a.jobs ++ [j], nextJob := serialNext a.nextJob, rot := setN a.rot cls (k + 1) }
  (num, s.register)

/-! ## Dispatch (08 R225, R226, 10 R272, R277) -/

/-- The cores in ADMITTED. -/
def State.admittedCount (s : State) : Nat := (s.aud.cores.filter ACore.serves).length

/-- A free delay slot. -/
def State.freeSlot (s : State) : Option Nat := s.vane.slots.findIdx? fun x => !x.used && !x.retired

/-- A core can take a descriptor: idle, not halted by debug, no BIST due, cluster awake (R225, R235, 17 R472). -/
def State.coreReady (n : Nat) (s : State) : Bool :=
  let c := s.acore n
  c.run.isNone && !c.bistDue && !(getN s.dbg.halted n) && !s.psm.asleep && s.clk.acOk

/-- A pass of a descriptor does not wait for the SERIAL rule, nor behind one that does (R225). -/
def Job.inOrder (j : Job) (f : JobDesc → PassSt) (i : Nat) : Bool :=
  let clear (k : Nat) (d : JobDesc) : Bool := !d.desc.serial || (j.descs.take k).all fun e => (f e).isOver
  (j.descs.take (i + 1)).zipIdx.all fun x => f x.1 != .waiting || clear x.2 x.1

/-- A pass of a descriptor is ready for a core. Pass 2 is the arbitration rerun. -/
def State.passReady (core : Nat) (j : Job) (i pass : Nat) (s : State) : Bool :=
  match j.descs[i]? with
  | none => false
  | some d =>
    let eddy := d.desc.cls != 0xFF
    let slotOk := !eddy || d.slot.isSome || s.freeSlot.isSome
    let two := decide (2 ≤ s.admittedCount)
    if pass = 0 then
      j.res.isNone && d.w == .waiting && j.inOrder (·.w) i && slotOk && !(two && d.l.core? == some core)
    else if pass = 1 then
      eddy && j.res.isNone && d.l == .waiting && j.inOrder (·.l) i && slotOk && !(two && d.w.core? == some core)
    else j.arbitrating == some i && d.r == .waiting && d.w.core? != some core && d.l.core? != some core

/-- The ready passes of a job in order: the rerun, the windward pass, the leeward pass. -/
def State.jobReady (core : Nat) (s : State) (j : Job) : Option (Nat × Nat × Nat) :=
  if !j.registered then none
  else
    let n := j.descs.length
    (([2, 0, 1].flatMap fun p => (List.range n).map fun i => (j.num, i, p)).find? fun x => s.passReady core j x.2.1 x.2.2)

/-- VP holds a ready descriptor (R225). -/
def State.vpReady (s : State) : Bool := s.aud.jobs.any fun j => (s.jobReady 16 j).isSome

/-- A pass starts on a core: its delay slot is reserved, its INDEPENDENT inputs are read, and the core ungates (R269, R272, 17 R472). -/
def State.startPass (core job i pass : Nat) (s : State) : State :=
  match s.jobOf job with
  | none => s
  | some j =>
    let d := (j.descs[i]?).getD default
    let need := d.desc.cls ≠ 0xFF ∧ d.slot.isNone ∧ pass < 2
    let slot := if need then s.freeSlot else d.slot
    let s := if need then
        s.with slot fun k s => s.onVane fun v => { v with slots := setN v.slots k { used := true, job := job, index := i } }
      else s
    let s := if pass = 2 then s.onVane fun v => { v with arbitrated := satInc v.arbitrated } else s
    let reads := s.readAll 1 (s.clsFor j)
    let s := s.onJob job fun j =>
      { j with started := true, descs := modN j.descs i fun d => { d.setPass pass (.running core) with slot := slot } }
    s.onCore core fun c =>
      { c with run := some { job := job, index := i, pass := pass, start := s.now, reads := reads }, gated := false }

/-- A breakpoint that matches a descriptor (18 R509, R518). -/
def BpMatch.hits (d : Desc) (b : BpMatch) : Bool :=
  b.en && (!b.opEn || b.op == d.op) && (!b.clsEn || b.cls == d.cls) && (!b.identEn || b.ident == d.ident)
    && (b.job == 0 || b.job == d.job)

/-- The running windward descriptors a probation core may copy (R240): those of admitted cores that have no copy yet. -/
def State.copyable (s : State) : Option (Nat × Nat) :=
  s.aud.cores.findSome? fun c =>
    match c.state, c.run with
    | .admitted, some r =>
      if r.pass = 0 ∧ !(s.aud.copies.any fun x => x.job == r.job && x.index == r.index) then some (r.job, r.index) else none
    | _, _ => none

/-! ## Comparison (10 R267, R272 to R279) -/

/-- The lane a comparison takes: the lowest in service (R273). -/
def State.lane (s : State) : Option Nat := s.vane.lanes.findIdx? fun l => l.ok && !l.testing

/-- Two payloads match under a class (R267). -/
def ClassRec.matches (r : ClassRec) (a b fa fb : Nat) : Bool :=
  if r.tolerant then
    let near (lo : Nat) : Bool :=
      decide ((toSigned 32 (bits a lo 32) - toSigned 32 (bits b lo 32)).natAbs ≤ r.tol.toNat)
    near 0 && near 32 && bit fa 1 == bit fb 1
  else a == b && fa == fb

/-- The lane and slot of a checker fault are taken for their self-test (R282). -/
def State.checkerLane (slot : Option Nat) (s : State) : State :=
  let lane := s.lane
  let s := s.onVane fun v =>
    { v with
      checker := satInc v.checker
      events := v.events ||| 2
      lanes := (match lane with | some k => modN v.lanes k fun l => { l with testing := true, slot := slot } | none => v.lanes)
      selftest := (match v.selftest, lane with | none, some k => some (k, slot) | x, _ => x) }
  s.evOpen 0x06 "CHECKER_FAULT" (lane.getD 0xFFFF) (slot.getD 0xFFFF)

/-- A checker fault (R282): the job ends, and the lane is taken for its self-test. -/
def State.checkerFault (job : Nat) (slot : Option Nat) (s : State) : State :=
  (s.onJob job fun j =>
    if j.res.isSome then j.cancelRest else { j.cancelRest with res := some .checker, arbitrating := none }).checkerLane slot

/-- Slot errors and rails of one comparison (R273, R274): whether it can be trusted, and the corrected count. -/
def State.checkerHw (hw : CoreHw) (s : State) : Bool × State :=
  let s := if hw.slotSingle then s.onVane fun v => { v with eccCorr := satInc v.eccCorr } else s
  (!(s.lane.isSome && (hw.slotDouble || hw.slotParity || hw.railsBad)) , s)

/-- Reruns in flight. -/
def State.reruns (s : State) : List JobDesc :=
  s.aud.jobs.filterMap fun j => j.arbitrating.bind fun i => j.descs[i]?

/-- An arbitration's outcome (R276, R278, R289, Table 10.4): recorded and logged, the job ends MISMATCH, and the suspect
cores go to BIST. -/
def State.arbOutcome (job i outcome coreR : Nat) (s : State) : State :=
  match s.jobOf job with
  | none => s
  | some j =>
    let d := (j.descs[i]?).getD default
    let cw := d.w.core?.getD 0
    let cl := d.l.core?.getD 0
    let word := outcome + cw * 16 + cl * 256 + coreR * 4096 + (j.cls % 32) * 65536
    let s := s.onJob job fun j => { j with res := some .mismatch, arb := outcome, arbitrating := none }
    let s := s.onVane fun v => { v with lastArb := word, lastArbJob := job }
    let s := s.ev 0x0601 3 noSub word
    let s := if outcome = 1 then s else s.toBist cw 3 true
    if outcome = 2 then s else s.toBist cl 3 true

/-- A core that can run the rerun of a descriptor: ADMITTED, with no BIST due, and it ran neither pass (R277). -/
def State.canRerun (d : JobDesc) (s : State) : Bool :=
  s.aud.cores.zipIdx.any fun c => c.1.serves && !c.1.bistDue && !([d.w.core?, d.l.core?].contains (some c.2))

/-- A mismatch (R275 to R277, R279). -/
def State.mismatch (job i : Nat) (s : State) : State :=
  match s.jobOf job with
  | none => s
  | some j =>
    let d := (j.descs[i]?).getD default
    let s := s.onVane fun v => { v with mismatch := satInc v.mismatch, events := v.events ||| 1 }
    if (s.clsFor j).safeState then
      (s.onJob job fun j => { j.cancelRest with res := some .mismatch }).spTrip 0x0A false
    else if j.res.isSome ∨ j.arbitrating.isSome then s
    else
      let s := s.onJob job Job.cancelRest
      let own := [d.w.core?, d.l.core?]
      let busy := s.reruns.any fun e => own.contains e.w.core? || own.contains e.l.core?
      if s.canRerun d ∧ !busy ∧ s.reruns.length < 4 then
        s.onJob job fun j =>
          { j with arbitrating := some i, descs := modN j.descs i fun d => { d with r := .waiting, rXform := j.rerun d.desc } }
      else s.arbOutcome job i 4 0

/-- Waiting reruns for which no core is left, and reruns whose core was fenced, end without an outcome (R277, R279). -/
def State.noReruns (s : State) : State :=
  s.each s.aud.jobs fun j s =>
    s.with j.arbitrating fun i s =>
      let d := (j.descs[i]?).getD default
      if (d.r == .waiting && !s.canRerun d) || d.r.isOver then s.arbOutcome j.num i 4 (d.r.core?.getD 0) else s

/-- A copy compared with the live pass on a lane (R240, R272): a probation core is ADMITTED after 500 matched copies; one mismatch
fences it again; a comparison that cannot be trusted counts neither way. -/
def State.settleCopy (hw : CoreHw) (c : PCopy) (s : State) : State :=
  match c.mine, c.live with
  | some a, some b =>
    let (ok, s) := s.checkerHw hw
    let s := s.onVane fun v => { v with compared := satInc v.compared }
    let s := if ok then s else s.checkerFault c.job c.slot
    let s := s.loseCopies fun y => y.core == c.core && y.job == c.job && y.index == c.index
    let k := s.acore c.core
    if !ok ∨ k.state ≠ .probation then s
    else if !((s.clsOf c.desc.cls).matches a.1 b.1 a.2 b.2) then s.fence c.core 6
    else if k.prob + 1 < 500 then s.onCore c.core fun k => { k with prob := k.prob + 1 }
    else
      let s := s.onCore c.core fun k => { k with prob := 500, state := .admitted, idleAt := s.now }
      s.evOpen 0x05 "CORE_ADMITTED" c.core 0
  | _, _ => s

/-- Copies whose both payloads are known. -/
def State.settleCopies (hw : CoreHw) (s : State) : State := s.each s.aud.copies (State.settleCopy hw)

/-- A match (R272): the descriptor is done. Its slot is freed, or keeps the windward payload for a copy that is outstanding; copies
learn that payload. -/
def State.matched (hw : CoreHw) (job i : Nat) (s : State) : State :=
  match s.jobOf job with
  | none => s
  | some j =>
    let d := (j.descs[i]?).getD default
    let live := match d.w with | .ended _ p f _ => some (p, f) | _ => none
    let s := s.onJob job fun j => { j with descs := modN j.descs i fun d => { d with matched := true, slot := none } }
    let mine (c : PCopy) : Bool := c.job == job && c.index == i
    let s := if s.aud.copies.any mine then
        s.with d.slot fun k s => s.onVane fun v => { v with slots := modN v.slots k fun x =>
          { x with held := true, payloadA := (live.getD (0, 0)).1, fpA := (live.getD (0, 0)).2, coreA := d.w.core?.getD 0,
                   passA := 0 } }
      else s.freeSlots [d.slot]
    (s.onAud fun a => { a with copies := a.copies.map fun c => if mine c then { c with live := live, slot := d.slot } else c
      }).settleCopies hw

/-- Both payloads stay in the slot after a mismatch (R276, Table 10.3). -/
def DSlot.keepB (core payload fp : Nat) (x : DSlot) : DSlot :=
  { x with payloadB := payload, coreB := core, fpB := fp, full := true, held := true }

/-- The Vane receives the second payload of a pair, from `core` (R272, R273). -/
def State.compare (hw : CoreHw) (core job i payload fp : Nat) (s : State) : State :=
  match s.jobOf job with
  | none => s
  | some j =>
    let d := (j.descs[i]?).getD default
    let r := s.clsFor j
    let (ok, s) := s.checkerHw hw
    let s := s.onVane fun v => { v with compared := satInc v.compared }
    if !ok then s.checkerFault job d.slot
    else
      match d.w, d.l with
      | .ended _ a fa _, .ended _ b fb _ =>
        if r.matches a b fa fb then s.matched hw job i
        else
          let s := s.with d.slot fun k s => s.onVane fun v => { v with slots := modN v.slots k (DSlot.keepB core payload fp) }
          (s.dropCopies job i).mismatch job i
      | _, _ => s

/-- A pair of a job that another mismatch has already decided: it compares, and nothing else follows (R279). -/
def State.compareLate (hw : CoreHw) (j : Job) (slot : Option Nat) (a b : Nat × Nat) (s : State) : State :=
  let (ok, s) := s.checkerHw hw
  let s := s.onVane fun v => { v with compared := satInc v.compared }
  if !ok then s.checkerLane slot
  else if (s.clsFor j).matches a.1 b.1 a.2 b.2 then s
  else s.onVane fun v => { v with mismatch := satInc v.mismatch, events := v.events ||| 1 }

/-- The first payload of a pair goes to the delay slot (R272, Table 10.3). -/
def State.storeFirst (k job i cls pass core payload fp : Nat) (s : State) : State :=
  s.onVane fun v => { v with slots := modN v.slots k fun x =>
    { x with stored := true, payloadA := payload, job := job, index := i, cls := cls, coreA := core, fpA := fp, passA := pass } }

/-- A rerun's payload against both stored payloads (R276, Table 10.4). -/
def State.judgeRerun (hw : CoreHw) (core job i payload fp : Nat) (s : State) : State :=
  match s.jobOf job with
  | none => s
  | some j =>
    let d := (j.descs[i]?).getD default
    let r := s.clsFor j
    let (ok, s) := s.checkerHw hw
    if !ok then
      let s := s.onJob job fun j => { j with arb := 4 }
      s.checkerFault job d.slot
    else
      match d.w, d.l with
      | .ended _ a fa _, .ended _ b fb _ =>
        let w := r.matches a payload fa fp
        let l := r.matches b payload fb fp
        let s := s.onVane fun v => { v with compared := satInc v.compared }
        s.arbOutcome job i (if w ∧ !l then 1 else if l ∧ !w then 2 else 3) core
      | _, _ => s.arbOutcome job i 4 core

/-! ## Completion (08 R227 to R233) -/

/-! ## The guard network (07 R197 to R201; log entry 11) -/

/-- The base of the guard weights (16 Table 16.3). -/
def guardBase : Nat := 0x1450000000

/-- The fused grid tensor in MS1 scratch; the tensors of the layers follow it (07; log entry 32). -/
def gridBase : Nat := 0x1432000000

/-- The pending buffer of the recurrent state in MS1 scratch, and the committed state in the shared audit store (R200; log entry
32). -/
def pendBase : Nat := 0x1437000000
def memoryBase : Nat := 0x100000000

/-- A four-dimensional tensor as rows of columns of channels: the first two dimensions count rows. -/
def shapeMat (fmt base : Nat) (shape : List Nat) : Mat :=
  let n := getN shape 2 * getN shape 3
  { fmt := fmt, base := base, stride := rowBytes fmt n, rows := getN shape 0 * getN shape 1, cols := n, ch := max (getN shape 3) 1 }

/-- The result tensor of a layer. -/
def LayerRec.mat (base : Nat) (r : LayerRec) : Mat := shapeMat r.format base r.outShape

/-- The bytes that a tensor takes up. -/
def Mat.space (m : Mat) : Nat := roundUp (m.rows * m.stride) 4096

/-- The fused grid: a row for each cell, in the format of the first PROJECT layer (R197). -/
def State.gridMat (s : State) : Mat :=
  let f := s.img.fusion
  let fmt := (s.img.layers.find? (·.stage == 1)).elim 1 (·.format)
  { fmt := fmt, base := gridBase, stride := rowBytes fmt f.channels, rows := f.gridX * f.gridY, cols := f.channels,
    ch := max f.channels 1 }

/-- Where layer `i` leaves its result: PROJECT layers in the grid. -/
def State.layerMat (i : Nat) (s : State) : Mat :=
  let l := s.img.layers
  let r := (l[i]?).getD {}
  if r.stage = 1 then s.gridMat
  else r.mat (gridBase + s.gridMat.space + ((l.take i).map fun x => (x.mat 0).space).sum)

/-- The layer whose result layer `i` reads: ENCODER and PROJECT the last ENCODER of their stream, CORE the last CORE before it or
the grid, HEAD the last CORE or the grid; none where a frame is read. -/
def State.layerInput (i : Nat) (s : State) : Option Nat :=
  let l := s.img.layers
  let r := (l[i]?).getD {}
  let last (p : LayerRec → Bool) : Option Nat := ((indicesWhere p (l.take i)).getLast?)
  if r.stage ≤ 1 then last fun x => x.stage == 0 && x.stream == r.stream
  else (last (·.stage == 2)).orElse fun _ => last (·.stage == 1)

/-- What layer `i` of a guard job reads that no layer computes (R197, R198, R200), each as address and length: the frame of an
ENCODER that reads no other, of a PROJECT stream its depth; its weights; the recurrent state. -/
def State.layerOwn (i : Nat) (d : Desc) (s : State) : List (Nat × Nat) :=
  let r := (s.img.layers[i]?).getD {}
  let frame := if d.strideA ≠ 0 ∧ ((r.stage = 0 ∧ (s.layerInput i).isNone) ∨ r.stage = 1) then [(d.srcA, d.strideA)] else []
  let weights := if d.param ≠ 0 then [(d.srcB, d.param)] else []
  let state := if bit r.flags 0 ∧ s.img.fusion.stateBytes ≠ 0 then [(memoryBase, s.img.fusion.stateBytes)] else []
  frame ++ weights ++ state

/-- The poses that place a layer's pixels, or move the recurrent state, as words of the exchange slot (R190, R197, R198). -/
def State.layerPoses (j : Job) (i : Nat) (s : State) : List Nat :=
  let l := s.img.layers
  let r := (l[i]?).getD {}
  let first := r.stage = 2 ∧ !((l.take i).any (·.stage == 2))
  if r.stage = 1 ∨ first then (List.range j.poses.length).map fun k => s.slotWord j k else []

/-- The pose record of a stream as words. -/
def State.poseWords (n : Nat) (s : State) : List Nat :=
  let p := (s.img.poses.find? (·.subject == n)).getD {}
  [n, p.parent, p.proj] ++ (p.pose ++ [p.fx, p.fy, p.cx, p.cy, p.planeZ] ++ s.img.fusion.gridOrigin).map (ofSigned 64)

/-- Rows of features scattered into the grid with max-combining, point by point (R197, 08 R230); `place` names each point's cell. -/
def scatterMax (fmt ch : Nat) (place : Nat → Nat) : List (List Elem) → Nat → List (List Elem) → List (List Elem)
  | [], _, grid => grid
  | x :: l, p, grid =>
    let row := fun (old : List Elem) =>
      (storeRow fmt true false ((List.range ch).map fun c =>
        (Val.pick true (decodeElem fmt false (getN x c)).1 (decodeElem fmt false (getN old c)).1).1)).1
    scatterMax fmt ch place l (p + 1) (modN grid (place p) row)

/-- A pass of a guard layer (R197 to R200, 08 R268, 09 R249, R257): it reads its frame, weights, state, poses and the tensor before
it, leaves its own in scratch in its pass's layout, and the layer that WRITES_STATE gives the candidate, which the windward
pass writes to the pending buffer. A leeward pass copies what no layer computes into leeward scratch first. -/
def State.guardOut (core : Nat) (r : Run) (j : Job) (d : Desc) (s : State) : DOut :=
  let i := r.index
  let rec_ := (s.img.layers[i]?).getD {}
  let v := s.viewOf j r.pass d
  let out := (s.layerMat i).under v d.c
  let inp := (s.layerInput i).map fun k =>
    let e := ((j.descs[k]?).getD default).desc
    (s.layerMat k).under (s.viewOf j r.pass e) e.c
  if d.tolBad (s.clsFor j).tolerant ∨ (fmtOf rec_.format).isNone ∨ (fmtIsMx rec_.format ∧ out.ch % 32 ≠ 0) then { status := 3 }
  else
    let own := s.layerOwn i d
    let first := !((s.img.layers.take i).any (·.stage == 1))
    let bad := own.any (fun x => s.poisoned x.1 x.2) || inp.any s.tainted || (rec_.stage == 1 && !first && s.tainted out)
    let ins := (inp.elim [] fun m => [digestOf m.fmt (s.elemsOf m)]) ++ own.map (fun x => s.peekN x.1 x.2)
      ++ [(s.layerPoses j i).flatMap (leBytes 8)]
    let es : List (List Elem) :=
      if rec_.stage = 1 then
        let feats := inp.elim [] fun m => (s.elemsOf m).flatMap fun l => piecesOf m.ch l.length l
        let grid := if first then List.replicate out.rows (List.replicate out.cols (0, 0)) else s.elemsOf out
        scatterMax out.fmt out.ch (Config.placement (s.poseWords rec_.stream) ins) feats 0 grid
      else (List.range out.rows).map fun k =>
        rowElems out.fmt out.cols ((List.range out.stride).map fun b => Config.guardTensor rec_.layer ins (k * out.stride + b))
    let next : Bytes :=
      if bit rec_.flags 1 then (List.range s.img.fusion.stateBytes).map (Config.guardState rec_.layer ins) else []
    let fits := decide ((own.map (·.2)).sum ≤ 0x8000000)
    let copies := if r.pass = 0 ∨ !fits then [] else own.zipIdx.flatMap fun x =>
      let m : Mat := { fmt := 0x0F, base := copyBase core v.rot + ((own.take x.2).map (·.2)).sum, stride := x.1.2, rows := 1,
                       cols := x.1.2, view := { v with rot := 0, x := if v.x = 4 then 0 else v.x } }
      m.puts (s.poisoned x.1.1 x.1.2) [rowElems 0x0F x.1.2 (s.peekN x.1.1 x.1.2)]
    let dig := digestOf out.fmt es ++ next
    { status := b2n bad, fp := Config.guardFlags rec_.layer ins % 16, payload := payloadOf (s.clsFor j).tolerant d dig,
      result := crc64 dig % 2 ^ 32,
      writes := copies ++ out.puts bad es ++ if r.pass = 0 ∧ !next.isEmpty then [(pendBase, next, bad)] else [] }

/-- A pass of a SAFE_STATE job (R269, R280; log entry 25): its descriptor gives two 32-bit words of the job's inputs. -/
def State.safeOut (r : Run) (j : Job) (d : Desc) (s : State) : DOut :=
  let tol := (s.clsFor j).tolerant
  let v := s.viewOf j r.pass d
  if d.error tol then { status := 3 }
  else
    let xs := (s.inputWords j r.reads).drop (2 * r.index)
    let row : List Elem := [(0, getN xs 0), (0, getN xs 1)]
    let dig := digestOf 0x11 [row]
    { payload := payloadOf tol d dig, result := crc64 dig % 2 ^ 32,
      writes := (d.matD.elim [] fun m => (m.under v d.c).puts false [row]) }

/-- The layout in which an earlier descriptor of the job has left a range of leeward scratch; a rerun reads what the windward
pass read (R276). -/
def State.madeBy (j : Job) (r : Run) (s : State) (a n : Nat) : Option View :=
  if r.pass ≠ 1 then none
  else (j.descs.take r.index).findSome? fun e => e.desc.matD.bind fun m =>
    if a < m.base + m.extent ∧ m.base < a + n then some (s.viewOf j 1 e.desc) else none

/-- What a pass computes (R227, 10 R264 to R266, R276): audit, geometry and lent descriptors by the machine's arithmetic, in the
layout of their pass; guard layers (log entry 11) and SAFE_STATE work (log entry 25). An input that a failed ADC serves poisons the
pass (18 R497). -/
def State.passOut (core : Nat) (r : Run) (j : Job) (s : State) : DOut :=
  let jd := (j.descs[r.index]?).getD default
  let d := jd.desc
  let c := s.clsFor j
  if s.badInput c then { status := 1 }
  else
    match j.kind with
    | .guard => s.guardOut core r j d
    | .safeState => s.safeOut r j d
    | _ =>
      if r.pass = 0 then s.runDesc c.tolerant 1 0 d
      else
        let v := s.viewOf j r.pass d
        s.runLee c.tolerant v (d.leeOps core v (s.madeBy j r)) jd.before d

/-- An ordinary access that a PROC channel refuses (11 R292, R322 to R324). -/
def State.busErr (ident a : Nat) (s : State) : State :=
  match region a with
  | some (.stack k) => s.onBeu fun b => { b with stks := modN b.stks k fun x =>
      { x with busErr := satInc x.busErr, busErrAddr := fld a 0 40 + fld ident 48 10, events := x.events ||| 4 } }
  | _ => s

/-- The fault recorder and the event of a FAULT (R247). -/
def State.recordFault (core pass : Nat) (d : Desc) (o : DOut) (s : State) : State :=
  let s := s.onAud fun a =>
    { a with fCore := core, fKind := o.kind, fUntr := d.untrusted, fPass := pass, fElem := o.elem, fJob := d.job,
             fAddr := o.addr, fCnt := satInc a.fCnt, fSeen := true, fDesc := d.bytes }
  let s := s.evOpen 0x05 "DESCRIPTOR_FAULT" core o.addr
  if o.kind = 2 then s.refuse d.ident o.write o.locked o.addr else if o.kind = 3 then s.busErr d.ident o.addr else s

/-- A core halts inside its descriptor, or goes on with it. -/
def ACore.halting (now : Nat) (old new : Bool) (c : ACore) : ACore :=
  if new = old then c
  else
    let f (r : Run) : Run :=
      if new then { r with haltAt := some now } else { r with halt := r.halt + r.haltAt.elim 0 (now - ·), haltAt := none }
    { c with run := c.run.map f }

/-- The halted mask changed: the event of R509, the time each core spends halted inside a descriptor, and the jobs that will end
SUPPRESSED for it (10 R281). -/
def State.haltMask (l : List Bool) (s : State) : State :=
  if l = s.dbg.halted then s
  else
    let old := s.dbg.halted
    let s := s.onDbg fun d => { d with halted := d.halted.zipIdx.map fun x => getN l x.2 }
    let f (c : ACore × Nat) : ACore := c.1.halting s.now (getN old c.2) (getN l c.2)
    let s := s.onAud fun a => { a with cores := a.cores.zipIdx.map f }
    let hit := s.aud.cores.zipIdx.filterMap fun x =>
      if getN l x.2 ∧ !(getN old x.2) then x.1.run.bind (fun r => if r.pass < 3 then some r.job else none) else none
    let mark (j : Job) : Job := if hit.contains j.num && !(s.clsFor j).safeState then { j with halted := true } else j
    let s := s.onAud fun a => { a with jobs := a.jobs.map mark }
    s.ev 0x1205 1 noSub (maskOf l)

/-- Pairing breaks (R281): leeward passes of ARBITRATE classes that have not started are suppressed. -/
def State.breakPairs (s : State) : State :=
  let s := s.onVane fun v => { v with broken := true, events := v.events ||| 16 }
  let f (j : Job) : Job := if j.registered && !(s.clsFor j).safeState then { j.suppress with broken := j.broken } else j
  s.onAud fun a => { a with jobs := a.jobs.map f }

/-- A core is free again after a descriptor; BIST follows where it is due, and a stepped core halts (18 R509). -/
def State.coreFree (core : Nat) (s : State) : State :=
  let s := s.onCore core fun c =>
    let c := { c with run := none, idleAt := s.now }
    if c.bistDue then c.toBist c.bistFor c.suspect else c
  if getN s.dbg.stepping core then
    (s.onDbg fun d => { d with stepping := setN d.stepping core false }).haltMask (setN s.dbg.halted core true)
  else s

/-- The table of a SCATTER as the first pass to end finds it, kept for the passes that follow (log entry 76). -/
def State.keepBefore (job i : Nat) (d : Desc) (s : State) : State :=
  if d.op = opScatter ∧ d.subop ≠ 0 then
    s.with d.matD fun m s =>
      let b := s.peekN m.base m.extent
      s.onJob job fun j => { j with descs := modN j.descs i fun x => { x with before := if x.before.isEmpty then b else x.before } }
  else s

/-- What a pass gives on its core (R233, R237, 10 R270): its output, with the poison of an uncorrectable error of local memory in
every byte written; nothing where the exchange slot fails its check. -/
def State.coreOut (core : Nat) (r : Run) (hw : CoreHw) (j : Job) (d : Desc) (s : State) : DOut :=
  if s.readsSlot j r.pass d ∧ (hw.exchBad ∨ !crcOk (s.exchBytes j)) then { status := 1 }
  else
    let o := s.passOut core r j
    if hw.uncorrectable then
      { o with status := if o.status = 0 then 1 else o.status, writes := o.writes.map fun w => (w.1, w.2.1, true) }
    else o

/-- A pass of a job ends on a core with a computed output. A pass whose job has failed meanwhile is discarded (R231). -/
def State.endPass (core : Nat) (r : Run) (hw : CoreHw) (s : State) : State :=
  match s.jobOf r.job with
  | none => s
  | some j =>
    let jd := (j.descs[r.index]?).getD default
    let d := jd.desc
    let dead := j.res.isSome || (j.arbitrating.isSome && r.pass ≠ 2)
    let o := s.coreOut core r hw j d
    let status := if dead then 6 else o.status
    let payload := (o.payload ^^^ hw.flip) % 2 ^ 64
    let s := if status = 2 then s.recordFault core r.pass (o.desc.getD d) o else s
    let s := if dead then s else (if j.kind = .guard then s else s.keepBefore r.job r.index d).commitWrites o.writes
    let s := s.statEntry core
      { job := r.job, index := r.index, status := status, fp := o.fp, core := core, pass := r.pass,
        elem := if status = 2 then o.elem else 0, result := if status ≤ 1 then o.result else 0 }
    let s := s.onJob r.job fun j =>
      { j with descs := modN j.descs r.index (JobDesc.setPass r.pass (.ended core payload o.fp status)) }
    if status = 6 then
      let s := match (if r.pass = 0 then jd.l else jd.w) with
        | .ended _ p f 0 =>
          if r.pass < 2 ∧ o.status = 0 ∧ d.cls ≠ 0xFF ∧ (j.arbitrating.isSome ∨ j.res = some JobRes.mismatch) then
            s.compareLate hw j jd.slot (p, f) (payload, o.fp)
          else s
        | _ => s
      s.dropCopies r.job r.index
    else if r.pass = 2 then
      (if status = 0 then s.judgeRerun hw core r.job r.index payload o.fp else s.arbOutcome r.job r.index 4 core)
    else if status ≠ 0 then (s.onJob r.job (Job.fail status d.untrusted)).dropCopies r.job r.index
    else if d.cls = 0xFF then s
    else
      let other := if r.pass = 0 then jd.l else jd.w
      if other.isOver then s.compare hw core r.job r.index payload o.fp
      else s.with jd.slot fun k s => s.storeFirst k r.job r.index d.cls r.pass core payload o.fp

/-- The writes of a probation copy go to the core's own scratch (R240; log entry 32). -/
def scratchWrites (core : Nat) (d : Desc) (ws : List (Nat × Bytes × Bool)) : List (Nat × Bytes × Bool) :=
  (ws.map fun w => (copyBase core 0 + (w.1 - d.dst), w.2)).filter fun w => inScratch w.1 w.2.1.length

/-- A probation copy ends (R240): one that ends with a STATUS other than OK counts neither way. -/
def State.endCopy (core : Nat) (r : Run) (hw : CoreHw) (s : State) : State :=
  let is (c : PCopy) : Bool := c.core == core && c.job == r.job && c.index == r.index
  match s.aud.copies.find? is with
  | none => s
  | some c =>
    let o : DOut := match s.jobOf r.job with
      | some j => s.coreOut core { r with pass := 0 } hw j c.desc
      | none => { status := b2n hw.uncorrectable, payload := (c.live.getD (0, 0)).1, fp := (c.live.getD (0, 0)).2 }
    let s := if o.status = 2 then s.recordFault core 3 (o.desc.getD c.desc) o else s
    let s := s.commitWrites (scratchWrites core c.desc o.writes)
    let s := s.statEntry core
      { job := r.job, index := r.index, status := o.status, fp := o.fp, core := core, pass := 3,
        elem := if o.status = 2 then o.elem else 0, result := if o.status ≤ 1 then o.result else 0 }
    if o.status ≠ 0 then s.loseCopies is
    else
      let p := ((o.payload ^^^ hw.flip) % 2 ^ 64, o.fp)
      (s.onAud fun a => { a with copies := a.copies.map fun x => if is x then { x with mine := some p } else x }).settleCopies hw

/-- What ends with the jobs: every pass is over and the result stands (R271). -/
def JobDesc.settled (d : JobDesc) : Bool :=
  d.matched || (d.desc.cls == 0xFF && d.w.isOver) || (d.w.isOver && d.l == .notRun 7)

/-- No pass runs, and the job has a result. -/
def Job.finished (j : Job) : Bool :=
  j.registered && !(j.descs.any fun d => d.w.busy || d.l.busy || d.r.busy) && j.arbitrating.isNone
    && (j.res.isSome || j.descs.all JobDesc.settled)

/-- The result of a finished job (R271). -/
def Job.result (j : Job) : JobRes :=
  j.res.getD (if j.halted || j.descs.any (fun d => d.l == .notRun 7) then .suppressed else .matched)

/-- Pairing is whole again once every core runs and every job registered during the break has ended (R281). -/
def State.settleBreak (s : State) : State :=
  if s.vane.broken ∧ !(s.dbg.halted.any id) ∧ !(s.dbg.stepping.any id) ∧ !(s.aud.jobs.any (·.broken)) then
    s.onVane fun v => { v with broken := false }
  else s

/-- A finished job leaves the job table: slots and exchange slot are freed, its journal entry closes (R270 to R272, 19 Table
19.4), and waiting jobs register. -/
def State.retireJob (j : Job) (s : State) : State :=
  let s := s.freeSlots (j.descs.map (·.slot))
  let s := s.onVane fun v =>
    { v with exch := v.exch.map (fun x => if x = some j.num then none else x),
             suppressed := if j.result = .suppressed then satInc v.suppressed else v.suppressed }
  let s := s.onAud fun a => { a with jobs := a.jobs.filter (·.num != j.num),
                                     copies := a.copies.filter fun c => c.job != j.num || c.live.isSome }
  let s := if j.kind = .safeState ∨ j.kind = .lent then s
    else s.jClose j.kind.journal j.owner (if j.kind = .guard then j.seq else j.num)
  s.register.settleBreak

end Sys2Proof.Machine
end

