-- ==== Sys2Proof/Machine/XwlOps.lean ====
section
/-! DEFINITION. The Crosswind link's shared operations (15): the roster, the frame header, group stops and the sharing
agreement. -/

namespace Sys2Proof.Machine

/-- The ring record. -/
def State.ring (s : State) : RingRec := s.img.messages.ring

/-- Node `n`. -/
def State.node (s : State) (n : Nat) : Node := getN s.xwl.nodes n

/-- Change node `n`. -/
def State.onNode (n : Nat) (f : Node → Node) (s : State) : State := s.onXwl fun w => { w with nodes := modN w.nodes n f }

/-- Node `n` is in the roster; the node itself is while it is a member and not a duplicate (R430, R431). -/
def State.inRoster (n : Nat) (s : State) : Bool :=
  if n = s.ring.nodeId then s.xwl.phase == .member && !s.xwl.dup else (s.node n).roster

/-- The roster mask. -/
def State.roster (s : State) : Nat := maskOf ((List.range 8).map fun n => s.inRoster n)

/-! ## Sharing (R437, R439) -/

/-- LEND as this node's frames show it: 0 with three or more cores fenced (R439). -/
def State.lendNow (s : State) : Nat := if 3 ≤ s.fencedCount then 0 else s.ring.lend

/-- The load of the SHARE_CH channels in core-µs per s, from their AUDIT_LOAD claims (R437; log entry 31). -/
def State.shareLoad (s : State) : Nat :=
  ceilDiv ((s.img.claims.filter fun c => c.kind == 5 && decide (c.subject < 16) && bit s.ring.shareCh c.subject).map (·.value)).sum 1000

/-- UNITS of a node as known. -/
def State.unitsOf (n : Nat) (s : State) : Nat := if n = s.ring.nodeId then s.ring.units else getN (s.node n).share 3

/-- No bulk unit is owned by two nodes of the roster. -/
def State.unitsApart (s : State) : Bool :=
  let l := (List.range 8).filter fun n => s.inRoster n
  l.all fun a => l.all fun b => a == b || (s.unitsOf a &&& s.unitsOf b) == 0

/-- This node lends: sharing with its borrower is agreed (R437). -/
def State.lends (s : State) : Bool :=
  let r := s.ring
  let b := s.node r.lendTo
  decide (r.lendTo < 8) && s.lendNow ≠ 0 && s.inRoster r.nodeId && s.inRoster r.lendTo && getN b.share 2 == r.nodeId
    && b.id == r.shareId && decide (b.load ≤ s.lendNow * 1000000) && s.unitsApart

/-- This node borrows: sharing with its lender is agreed (R437). -/
def State.borrows (s : State) : Bool :=
  let r := s.ring
  let l := s.node r.borrowFrom
  decide (r.borrowFrom < 8) && r.borrow ≠ 0 && s.inRoster r.nodeId && s.inRoster r.borrowFrom && getN l.share 0 == r.nodeId
    && getN l.share 1 == r.borrow && l.id == r.shareId && decide (s.shareLoad ≤ r.borrow * 1000000) && s.unitsApart

/-- The cores reserved for borrowed work: the LEND highest-numbered admitted ones (R437). -/
def State.reserved (s : State) : List Nat :=
  if s.lends then
    ((indicesWhere ACore.serves s.aud.cores).reverse).take s.lendNow
  else []

/-- A job may run on a core: borrowed work on the reserved cores, other work on the others. A rerun of borrowed work takes any core
(R438), and so does borrowed work while fewer than two cores are reserved, since its passes need two (08 R226; log entry 67). Borrowed
work that outlives the agreement runs anywhere (Table 15.3). -/
def State.coreFor (core : Nat) (j : Job) (s : State) : Bool :=
  let r := s.reserved
  match j.kind with
  | .lent => r.contains core || j.arbitrating.isSome || decide (r.length < 2)
  | _ => !r.contains core

/-- The oldest ready descriptor of VP that a core may take (08 R225, R437): job number, position and pass. -/
def State.nextFor (core : Nat) (s : State) : Option (Nat × Nat × Nat) :=
  (s.aud.jobs.filter fun j => s.coreFor core j).findSome? (s.jobReady core)

/-! ## Frames (R427) -/

/-- The 64-byte header (Table 15.2), with HOPS 0. -/
def State.xwlHeader (kind time : Nat) (s : State) : Bytes :=
  let r := s.ring
  let w := s.xwl
  let body := [byte kind, byte r.nodeId, 0, byte (w.alive + flg w.line 4)] ++ beBytes 4 w.cycle ++ beBytes 8 Config.serial
    ++ [byte s.sys.state.code, byte w.stop, byte w.stopSrc, 0] ++ beBytes 8 time
    ++ [byte r.lendTo, byte s.lendNow, byte r.borrowFrom, byte r.units] ++ beBytes 4 s.shareLoad ++ beBytes 8 r.shareId
    ++ zeros 16
  body ++ beBytes 4 (crc32c body)

/-- A frame sent on both lanes (R425); the alive counter steps with each frame the node originates. -/
def State.xwlSend (data : Bytes) (s : State) : State :=
  ((s.send (.xwl 0 data)).send (.xwl 1 data)).onXwl fun w => { w with alive := (w.alive + 1) % 16 }

/-- The node may originate frames: its ring clock runs, and it has no duplicate (R430, Table 15.4). -/
def State.xwlOn (s : State) : Bool := s.xwl.phase != .off && !s.xwl.dup && s.clk.xwlOk

/-- The node stops taking part: no ring at this node (Table 15.4). -/
def State.xwlOff (s : State) : State :=
  s.onXwl fun w => { w with phase := .out, master := false, follow := false, up := false, upCycles := 0,
                            nodes := w.nodes.map fun n => { n with roster := false } }

/-! ## Group stop (R435) -/

/-- The nodes this one obeys. -/
def State.obeyed (s : State) : List Nat := (List.range 8).filter fun n => bit s.ring.obey n

/-- The stop that an obeyed node asks for: 2 STO, 1 SS1 (also for an absent node), 0 none. -/
def State.ringAsks (s : State) : Nat :=
  if s.xwl.phase = .off then 0
  else (s.obeyed.map fun n => let x := s.node n; if x.roster then x.stop else 1).foldl max 0

/-- Trip 0x0F is active while an obeyed node shows STOP or is absent (R435). A stronger request trips anew. -/
def State.ringTrip (was : Nat) (s : State) : State :=
  let k := s.ringAsks
  let s := s.onSys fun y =>
    { y with active := (y.active.filter (· ≠ 0x0F)) ++ (if k = 0 then [] else [0x0F]) }
  if was < k then s.spTrip 0x0F (k == 2) else s

end Sys2Proof.Machine
end

