-- ==== Sys2Proof/Machine/Power.lean ====
section
/-! DEFINITION. The power state manager's choice (17 R475 to R480): known events, permitted states and what limits
them. -/

namespace Sys2Proof.Machine

/-- Entry times in ns (Table 17.1). -/
def PState.entry : PState → Nat
  | .gale => 0 | .breeze => 100 | .lull => 100000 | .calm => 2000000

/-- Exit latencies in ns (Table 17.1). -/
def PState.exit : PState → Nat
  | .gale => 0 | .breeze => 1000 | .lull => 250000 | .calm => 15000000

/-- Break-even times in ns (Table 17.2). -/
def PState.breakEven : PState → Nat
  | .lull => 357000 | .calm => 24000000 | _ => 0

/-- The wake guard in ns (R477). -/
def State.guardNs (s : State) : Nat := s.img.power.guardUs * 1000

/-- The 32-bit words of a class's inputs. -/
def State.safeWords (cls : Nat) (s : State) : Nat := ((s.inputsOf (s.clsOf cls)).map InputRec.words).sum

/-- Descriptor `i` of a SAFE_STATE job: the manual fixes the job's inputs, its coverage and its class, and not its operation; a copy of
two FX32 words of the inputs in the shared audit store stands for it (log entry 25). -/
def safeDesc (cls i : Nat) : Desc :=
  { op := opTransform, subop := 2, fmtA := 0x11, fmtB := 0x11, fmtOut := 0x11, flags := 9, ident := 560 - 1, cls := cls, m := 1, n := 2,
    strideA := 8, strideD := 8, srcA := 0x100980000 + cls % 32 * 0x1000 + 8 * i, dst := 0x100900000 + cls % 32 * 0x1000 + 8 * i }

/-- The descriptors of a class's SAFE_STATE job: they cover every word of its inputs. -/
def State.safeDescs (cls : Nat) (s : State) : List Desc := (List.range (max 1 (ceilDiv (s.safeWords cls) 2))).map (safeDesc cls)

/-- The modelled time of descriptors, both passes, in units of 0.1 ns (08 R223, 10 R266). -/
def pairTime (l : List Desc) : Nat := (l.map fun d => d.passTime false + d.passTime true).sum

/-- The modelled time of a class's SAFE_STATE job, two passes, in ns (08 R223). -/
def State.safeTime (cls : Nat) (s : State) : Nat := ceilDiv (pairTime (s.safeDescs cls)) 10

/-- Some work that forbids Lull and Calm is present (R475): a job, a committed result without a verdict, a BEU command. A
closed epoch whose guard job is about to be issued counts as its descriptors (DEDUCED, log entry 52). -/
def State.workPresent (s : State) : Bool :=
  !s.aud.jobs.isEmpty || s.aud.cores.any (·.run.isSome) || s.fgu.waiting.isSome
    || s.vrd.results.any (fun r => r.state == .committed)
    || s.beu.stks.any (fun k =>
        !k.vp.queue.isEmpty || !k.bg.queue.isEmpty || k.vp.fence.isSome || k.bg.fence.isSome || !k.running.isEmpty)

/-- The channel bound to a queue with the shortest WAKE_TOL permits a state (R477). -/
def State.tolOk (p : PState) (s : State) : Bool :=
  s.img.power.recs.all fun r => decide (p.exit + s.guardNs ≤ r.wakeTol * 1000)

/-- SAFE_STATE classes that an arriving message can start keep their deadline (R477). -/
def State.safeOk (p : PState) (s : State) : Bool :=
  s.img.classes.all fun c =>
    !(c.safeState && (s.inputsOf c).any (·.source == 2))
      || decide (p.exit + s.guardNs + s.safeTime c.cls ≤ c.deadlineUs * 1000)

/-- The connections are paused (R479). -/
def State.pausedAll (s : State) : Bool :=
  (s.rxSlots 4).all (fun k => (s.conn k).paused) && (s.rxSlots 0).all (fun k => (s.conn k).state == .open_)

/-- What forbids a deep state, as PSM_STAT.LIMIT codes it; 0 when it is permitted (R475, R477, R488). -/
def State.psmLimit (p : PState) (s : State) : Nat :=
  if !bit s.img.power.allow (if p = .calm then 1 else 0) then 1
  else if !s.tolOk p then 2
  else if !s.safeOk p then 3
  else if p = .calm ∧ !s.pausedAll then 4
  else if s.dbg.enabled then 5
  else if s.lends then 6
  else if s.workPresent ∨ (s.psm.bg.take 2).any (·.urgent) ∨ s.psm.tests.any (·.urgent) then 7
  else 0

/-- PSM_STAT.DEEPEST (R488). -/
def State.psmDeepest (s : State) : PState :=
  if s.psmLimit .calm = 0 then .calm else if s.psmLimit .lull = 0 then .lull else .breeze

/-- PSM_STAT.LIMIT: what forbids the next deeper state (R488). -/
def State.psmLimitCode (s : State) : Nat :=
  match s.psmDeepest with
  | .calm => 0
  | .lull => s.psmLimit .calm
  | _ => s.psmLimit .lull

/-- The instant, in device time, at which a stream's next expected frame reaches final status: CAPTURE_TIME plus 7/8 of
PERIOD, and at least what R170 adds (R476; log entry 26). -/
def State.nextFinal (n : Nat) (s : State) : Option Nat :=
  let x := getN s.fiu.streams n
  match s.img.stream n with
  | some r =>
    if x.state = .live then some (x.capture + r.period * 7 / 8 + max (3 * ms) (2 * ms + ceilDiv (r.frameBytes * 100000) 1048576))
    else none
  | none => none

/-- Member streams of the fusion epochs. -/
def State.members (s : State) : List Nat := (List.range 16).filter fun n => bit s.img.fusion.members n

/-- 1 / EPOCH_RATE in ns. -/
def State.epochGap (s : State) : Nat := ceilDiv 1000000000000 (max s.img.fusion.epochRate 1)

/-- The latest of some instants; none when one is missing. -/
def latestOf : List (Option Nat) → Option Nat
  | [] => some 0
  | none :: _ => none
  | some a :: r => (latestOf r).map (max a)

/-- The earliest of the instants that exist. -/
def earliestOf : List (Option Nat) → Option Nat
  | [] => none
  | none :: r => earliestOf r
  | some a :: r => some (match earliestOf r with | some b => min a b | none => a)

/-- The expected closing of the open or the next epoch (R476). -/
def State.expectedClose (s : State) : Option Nat :=
  let g := s.fgu
  let awaited := s.members.filter fun n => !(getN g.arrived n)
  let all := latestOf (awaited.map fun n => s.nextFinal n)
  match g.openAt with
  | some o => some (match all with | some a => min a (o + s.img.fusion.waitNs) | none => o + s.img.fusion.waitNs)
  | none =>
    let entry := match g.firstEntry with
      | some e => some e
      | none => earliestOf (s.members.map fun n => s.nextFinal n)
    entry.map fun e =>
      let o := match g.prevOpen with | some p => max e (p + s.epochGap) | none => e
      max o (match all with | some a => min a (o + s.img.fusion.waitNs) | none => o + s.img.fusion.waitNs)

/-- The instants, in device time, at which the scrub of the stacks and the self-test of an admitted core must start to keep their
deadlines (R476, Table 17.4). -/
def State.bgEvents (s : State) : List (Option Nat) :=
  let at_ (i : Nat) : Option Nat := some (s.dev + (i - s.now))
  at_ ((getN s.psm.bg 0).from_ + 43200 * sec - 8400 * ms) ::
    (s.psm.tests.zip s.aud.cores).map fun x => if x.2.serves then at_ (x.1.from_ + 900 * sec - 3 * ms) else none

/-- E, the earliest known event, in device time (R476). The image names no period of SAFE_STATE jobs, so their next issues are not
known (log entry 39). -/
def State.nextEvent (s : State) : Option Nat := earliestOf (s.expectedClose :: s.bgEvents)

/-- A state is worth entering: permitted, and the next event is far enough (R478). -/
def State.psmFits (p : PState) (s : State) : Bool :=
  s.psmLimit p = 0 &&
    (match s.nextEvent with
    | none => true
    | some e => decide (s.dev + p.entry + p.exit + s.guardNs ≤ e ∧ s.dev + p.breakEven ≤ e))

/-- The state R478 chooses. -/
def State.psmTarget (s : State) : PState :=
  if s.psmFits .calm then .calm else if s.psmFits .lull then .lull else .breeze

/-- The choice of R475 and R478: none outside the four operating states, during a wake, or after a wake fault. A deep state is
left by a wake alone. -/
def State.psmChoose (s : State) : State :=
  let s := s.onPsm fun p => { p with next := (s.nextEvent).getD 0 }
  let free : Bool := match s.sys.state with
    | .commission | .run | .degraded | .halted => true
    | _ => false
  if !free ∨ s.psm.waking.isSome ∨ s.psm.wakeFault then s
  else
    let p := s.psmTarget
    let cur := match s.psm.entering with | some e => e.1 | none => s.psm.state
    if cur.idx < p.idx then s.onPsm fun x => { x with entering := some (p, s.now) }
    else s

end Sys2Proof.Machine
end

