-- ==== Sys2Proof/Machine/FguOps.lean ====
section
/-! DEFINITION. The Fusion Grid Unit's shared operations (07): the pose history, discontinuities, the recurrent state, the
alignment buffer and the closing of an epoch. -/

namespace Sys2Proof.Machine

/-- Change stream `n`. -/
def State.onStream (n : Nat) (f : Stream → Stream) (s : State) : State :=
  s.onFiu fun u => { u with streams := modN u.streams n f }

/-- Stream `n`. -/
def State.strm (s : State) (n : Nat) : Stream := getN s.fiu.streams n

/-- Change the ring slot that holds a frame (06 R175). -/
def State.onSlot (n seq : Nat) (f : RingSlot → RingSlot) (s : State) : State :=
  s.onStream n fun x => { x with ring := x.ring.map fun k => if k.seq = seq ∧ seq ≠ 0 then f k else k }

/-! ## Poses (R187 to R189) -/

/-- The orientation of a pose. -/
def poseRot (p : Pose) : Int × Int × Int := (p.roll, p.pitch, p.yaw)

/-- The angle between two orientations in µrad. -/
def rotBetween (a b : Int × Int × Int) : Nat := if a = b then 0 else Config.rotAngle a b

/-- The squared distance of two poses in µm². -/
def poseDist2 (a b : Pose) : Nat := ((a.x - b.x) ^ 2 + (a.y - b.y) ^ 2 + (a.z - b.z) ^ 2).toNat

/-- Two lanes' poses agree within 0.1 mm and 0.1 mrad (R188). -/
def poseAgrees (a b : Pose) : Bool := decide (poseDist2 a b ≤ 100 ^ 2 ∧ rotBetween (poseRot a) (poseRot b) ≤ 100)

/-- The estimate of a tick. -/
def State.tickAt (t : Nat) (s : State) : Option PoseTick := s.fgu.poses.find? fun p => p.tick == t && p.valid

/-- The pose of a mount in a tick. -/
def PoseTick.mount (m : Nat) (p : PoseTick) : Pose := if m = 1 then p.flange else p.base

/-- A pose with its translation in units of µm per million (R189). -/
structure FinePose where
  x : Int
  y : Int
  z : Int
  rot : Int × Int × Int
  deriving DecidableEq, Repr

/-- The pose of a mount at an instant of device time: interpolated between the two bracketing ticks, none where either has no
valid estimate (R189). -/
def State.poseAt (m dev : Nat) (s : State) : Option FinePose :=
  match s.tickAt (dev / ms), s.tickAt (ceilDiv dev ms) with
  | some a, some b =>
    let u : Int := (dev % ms : Nat)
    let p := a.mount m
    let q := b.mount m
    let mix (v w : Int) : Int := v * ms + (w - v) * u
    some { x := mix p.x q.x, y := mix p.y q.y, z := mix p.z q.z,
           rot := if u = 0 ∨ poseRot p = poseRot q then poseRot p else Config.slerp (poseRot p) (poseRot q) (dev % ms) }
  | _, _ => none

/-- The translation between two poses is below a limit in µm and the rotation below one in µrad (06 Table 6.3 check 4). -/
def FinePose.still (um urad : Nat) (a b : FinePose) : Bool :=
  decide (((a.x - b.x) ^ 2 + (a.y - b.y) ^ 2 + (a.z - b.z) ^ 2).toNat < (um * ms) ^ 2) && decide (rotBetween a.rot b.rot < urad)

/-! ## Discontinuities and the recurrent state (R191, R192, R200) -/

/-- The recurrent state is zeroed before the next guard job; the state a running job would commit is discarded (R200, R204,
R205). -/
def State.fguReset (cause : Nat) (s : State) : State :=
  s.onFgu fun g =>
    { g with zeroDue := true, resetCause := cause, resets := satInc g.resets, events := g.events ||| 4,
             resetDue := if g.job.isSome then some cause else none }

/-- A discontinuity declared (R191, R192), also while another lasts: the count of good ticks starts again. -/
def State.discontinuity (cause : Nat) (s : State) : State :=
  let s := s.onFgu fun g =>
    { g with broken := true, goodTicks := 0, egoValid := false, egoCause := cause, disconts := satInc g.disconts,
             events := g.events ||| 2 }
  (s.evOpen 0x04 "EGO_DISCONTINUITY" noSub cause).fguReset 3

/-! ## Alignment buffer (R193) -/

/-- A stream loses its buffered frame. -/
def State.unbuffer (n : Nat) (s : State) : State :=
  let s := s.with (getN s.fgu.buffer n) fun q s => s.onSlot n q fun k => { k with fgu := false }
  s.onFgu fun g => { g with buffer := setN g.buffer n none }

/-- A frame enters the buffer in place of an older one. -/
def State.bufferIn (n seq : Nat) (s : State) : State :=
  let s := (s.unbuffer n).onSlot n seq fun k => { k with fgu := true }
  s.onFgu fun g =>
    { g with buffer := setN g.buffer n (some seq), arrived := setN g.arrived n true,
             firstEntry := (match g.firstEntry with | some i => some i | none => some s.dev) }

/-! ## Epochs (R194 to R196, R203) -/

/-- The capture time of a seal in the history. -/
def State.captureOf (n seq : Nat) (s : State) : Nat := ((s.strm n).hist.find? (·.seq == seq)).elim 0 (·.capture)

/-- The frame an epoch takes of a member: arrived, still buffered, and with a pose where its mount moves (R195). -/
def State.taken (n : Nat) (s : State) : Option Nat :=
  if getN s.fgu.arrived n then
    (getN s.fgu.buffer n).filter fun q =>
      match s.img.stream n with
      | some r => r.mount == 0 || (s.poseAt r.mount (s.captureOf n q)).isSome
      | none => false
  else none

/-- Change the record of an epoch. -/
def State.onEpoch (num : Nat) (f : Epoch → Epoch) (s : State) : State :=
  s.onFgu fun g => { g with epochs := g.epochs.map fun e => if e.num = num then f e else e }

/-- The record of an epoch. -/
def State.epochOf (num : Nat) (s : State) : Option Epoch := s.fgu.epochs.find? (·.num == num)

/-- The ring slots that an epoch holds are released, but for frames that another waiting or running epoch or the buffer still
holds. -/
def State.releaseEpoch (num : Nat) (s : State) : State :=
  s.with (s.epochOf num) fun e s =>
    s.each e.members fun m s =>
      let other := s.fgu.epochs.any fun x => x.num != num && x.state == .pending && x.members.contains m
      if getN s.fgu.buffer m.1 = some m.2 ∨ other then s else s.onSlot m.1 m.2 fun k => { k with fgu := false }

/-- The members of REDUNDANT streams. -/
def State.redundant (n : Nat) (s : State) : Bool := (s.img.stream n).any fun r => bit r.flags 1

/-- The open epoch closes (R195, R196, R203, Table 7.5); before its expected instant that is an unannounced wake (17 R480). -/
def State.closeEpoch (s : State) : State :=
  let num := s.fgu.nextEpoch
  let parts := s.members.map fun n => (n, s.taken n)
  let taken := parts.filterMap fun p => p.2.map fun q => (p.1, q)
  let left := (parts.filter (·.2.isNone)).map (·.1)
  let mask (l : List Nat) : Nat := (l.map (2 ^ ·)).sum
  let lr := mask (left.filter fun n => !s.redundant n)
  let ld := mask (left.filter fun n => s.redundant n)
  let partial_ := !left.isEmpty
  let e : Epoch := { num := num, members := taken, leftReq := lr, leftRed := ld, state := if taken.isEmpty then .void else .pending }
  let old := if taken.isEmpty then none else s.fgu.waiting
  let s := s.with old fun w s =>
    (s.releaseEpoch w).onEpoch w fun x => { x with state := .skipped }
  let s := s.onFgu fun g =>
    { g with
      epochs := (e :: g.epochs).take 4096
      waiting := if taken.isEmpty then g.waiting else some num
      arrived := List.replicate 16 false
      firstEntry := none
      prevOpen := g.openAt
      openAt := none
      nextEpoch := serialNext g.nextEpoch
      lastClosed := num
      lastLeft := lr + ld * 65536
      partials := if partial_ then satInc g.partials else g.partials
      skipped := if old.isSome then satInc g.skipped else g.skipped
      events := g.events ||| b2n partial_ ||| (b2n old.isSome * 8) }
  let s := if s.dev < s.psm.next then s.wake else s
  s.onVrd fun v => { v with closes := (v.closes ++ [(num, s.dev)]).drop (v.closes.length + 1 - 4096) }

/-- The instant at which a frame's status is final (06 R170). -/
def PendFinal.due (r : StreamRec) (p : PendFinal) : Nat :=
  max (p.endDev + 2 * ms + ceilDiv (r.frameBytes * 100000) 1048576) (p.capture + 3 * ms)

/-- A member's frame reaches its final status by an instant and has not been taken in: it may arrive at that very instant (R206). -/
def State.arriving (n dev : Nat) (s : State) : Bool :=
  !(getN s.fgu.arrived n) && (s.strm n).state == .live
    && (s.img.stream n).any fun r => (s.strm n).pend.any fun p => decide (p.due r ≤ dev)

/-- Every member has arrived for the open epoch, or WAIT_NS has passed since the opening and no frame arrives with its expiry (R194,
R206). -/
def State.epochDue (s : State) : Bool :=
  s.fgu.openAt.any fun o =>
    let e := o + s.img.fusion.waitNs
    s.members.all (fun n => getN s.fgu.arrived n) || (decide (e ≤ s.dev) && !(s.members.any fun n => s.arriving n e))

/-- The epoch closes where it is due. -/
def State.tryClose (s : State) : State := if s.epochDue then s.closeEpoch else s

/-- A member stream has become FROZEN (R193, R200, R204). -/
def State.fguFrozen (n : Nat) (s : State) : State :=
  if s.members.contains n then
    let s := s.fguReset 2
    s.onFgu fun g =>
      { g with
        epochs := g.epochs.map fun e => if e.members.any (·.1 == n) ∧ e.state ≠ .skipped then { e with frozen := true } else e }
  else s

/-! ## Guard jobs (R197, R200, R201) -/

/-- The ring slots' size: FRAME_BYTES rounded up to 4 KiB (06 R183). -/
def StreamRec.slotBytes (r : StreamRec) : Nat := roundUp r.frameBytes 4096

/-- Where the ring of a stream begins: rings follow one another in record order (log entry 27). -/
def ringBase (n : Nat) : List StreamRec → Nat
  | [] => stackBase 0
  | r :: l => if r.stream = n then stackBase 0 else r.ring * r.slotBytes + ringBase n l

/-- The address of ring slot `k` of stream `n`. -/
def State.slotAddr (n k : Nat) (s : State) : Nat :=
  ringBase n s.img.streams + k * ((s.img.stream n).elim 0 StreamRec.slotBytes)

/-- The slot that holds a frame. -/
def State.slotOf (n seq : Nat) (s : State) : Option Nat := (s.strm n).ring.findIdx? fun k => k.seq == seq && seq != 0

/-- The modelled cycles of a guard layer (log entry 11). -/
def LayerRec.cycles (r : LayerRec) : Nat := Config.layerCycles r.op r.format r.inShape r.outShape

/-- The descriptor of a guard layer: what it reads of frames and weights stands in SRC_A (with its length in STRIDE_A) and
SRC_B (with PARAM); PROJECT layers are SCATTER with max-combining (R197). The layer's arithmetic is open, and every layer waits for
those before it (log entry 11). -/
def State.layerDesc (e : Epoch) (r : LayerRec) (s : State) : Desc :=
  let frame := if r.stage ≤ 1 then (e.members.find? (·.1 == r.stream)) else none
  let src := frame.bind fun m => (s.slotOf m.1 m.2).map fun k => s.slotAddr m.1 k
  let o := s.layerMat r.layer
  { op := if r.stage = 1 then opScatter else r.op, subop := if r.stage = 1 then 2 else 0, fmtA := r.format, fmtB := r.format,
    fmtOut := r.format, flags := 73, ident := 513, cls := 0, m := o.rows, n := o.cols / o.ch, c := o.ch,
    srcA := src.getD 0, strideA := if src.isSome then (s.img.stream r.stream).elim 0 (·.frameBytes) else 0,
    srcB := guardBase + r.weightOfs, param := r.weightBytes, dst := o.base, strideD := o.stride, cyc := r.cycles }

/-- The guard output: the elements of the HEAD layers' tensors in layer order, as FP16 codes (R201; log entry 11). -/
def State.guardOutput (s : State) : List Nat :=
  (indicesWhere (·.stage == 3) s.img.layers).flatMap fun i =>
    let m := s.layerMat i
    (s.elemsOf m).flatten.map fun x => fp16.encode (fp16.round false false (decodeElem m.fmt false x).1).1

/-- The guard output of a finished job stands, or the job is void (R200, R201, R204, R205, Table 7.4, Table 7.5). While pairing is
broken the pending state is not committed (10 R281), and a copy of it that fails its ECC leaves a zeroed state (Table 7.5). -/
def State.guardEnd (j : Job) (s : State) : State :=
  match s.fgu.job with
  | some (e, num) =>
    if num ≠ j.num then s
    else
      let good : Bool := match j.result with | .matched | .suppressed => true | _ => false
      let discard := s.fgu.resetDue.isSome
      let out := if good then s.guardOutput else []
      let s := s.onEpoch e fun x => { x with state := if good then .done else .void, tag := num, out := out, suppressed := j.result == .suppressed }
      let commit : Bool := j.result == .matched && !discard && !s.vane.broken
      let s := s.onFgu fun g => { g with job := none, resetDue := none, commitDue := commit && !g.copyEcc }
      let s := s.releaseEpoch e
      if good ∧ !(commit && s.fgu.copyEcc) then s else s.fguReset 4
  | none => s

/-- The pending buffer of a matched guard job copied into the shared audit store (R200). -/
def State.commitMemory (s : State) : State :=
  if s.fgu.commitDue then
    (s.poke memoryBase (s.peekN pendBase s.img.fusion.stateBytes)).onFgu fun g => { g with commitDue := false }
  else s

/-- The recurrent state zeroed, with valid check bits, before a guard job starts (R200, Table 7.4). -/
def State.zeroMemory (s : State) : State :=
  if s.fgu.zeroDue then
    (s.wipe memoryBase (roundUp s.img.fusion.stateBytes 32)).onFgu fun g => { g with zeroDue := false }
  else s

end Sys2Proof.Machine
end

