-- ==== Sys2Proof/Machine/VrdOps.lean ====
section
/-! DEFINITION. The verdict and age unit's shared operations (12 R331 to R349): the lines of evidence, the escape bound, the
decision and the issue of a verdict. -/

namespace Sys2Proof.Machine

/-- Change queue `q`'s verdict registers. -/
def State.onVq (q : Nat) (f : VrdQ → VrdQ) (s : State) : State := s.onVrd fun v => { v with queues := modN v.queues q f }

/-- Queue `q`'s verdict registers. -/
def State.vq (s : State) (q : Nat) : VrdQ := getN s.vrd.queues q

/-- A result in flight. -/
def Result.is (q seq : Nat) (r : Result) : Bool := r.q == q && r.seq == seq

/-- Change a result in flight. -/
def State.onResult (q seq : Nat) (f : Result → Result) (s : State) : State :=
  s.onVrd fun v => { v with results := v.results.map fun r => if r.is q seq then f r else r }

/-- A result in flight. -/
def State.resultOf (q seq : Nat) (s : State) : Option Result := s.vrd.results.find? (Result.is q seq)

/-- REJECT evidence: the first found stands (R339). -/
def Result.rejectBy (reason : Nat) (r : Result) : Result := { r with reject := some (r.reject.getD reason) }

/-- A reason word (R339). -/
def reasonWord (code detail : Nat) : Nat := code + detail % 256 * 256

/-- The AUDIT record of a result's channel. -/
def State.audRec (r : Result) (s : State) : AudChan := (s.img.audit r.ch).getD {}

/-! ## Seals and epochs -/

/-- The status of a named seal. -/
def State.sealStatus (x : SealRef) (s : State) : Option SealSt := ((s.strm x.stream).hist.find? (·.seq == x.seq)).map (·.status)

/-- The seals of a result whose status is not final (06 R170). A seal that has left the history had its final status. -/
def State.sealsPending (r : Result) (s : State) : Bool := r.seals.any fun x => s.sealStatus x == some .pending

/-- The first epoch that closes at or after the result's latest capture time and is not SKIPPED (07 R202). -/
def State.pairedEpoch (r : Result) (s : State) : Option Epoch :=
  (s.vrd.closes.filter fun c => decide (r.latest ≤ c.2)).findSome? fun c =>
    (s.epochOf c.1).filter fun e => e.state != .skipped

/-! ## The guard line (R335) -/

/-- The grid cell that holds a point (x, y in FX32 mm); none outside the grid. -/
def FusionRec.cellOf (f : FusionRec) (x y : Int) : Option Nat :=
  let o := f.gridOrigin
  let dx := x - getN o 0
  let dy := y - getN o 1
  let p := if (o.drop 3).all (· == 0) then (dx, dy) else Config.gridTurn o dx dy
  let i := p.1 * 1000 / (65536 * max (f.cellUm : Int) 1)
  let j := p.2 * 1000 / (65536 * max (f.cellUm : Int) 1)
  if 0 ≤ i ∧ i < f.gridX ∧ 0 ≤ j ∧ j < f.gridY then some (j.toNat * f.gridX + i.toNat) else none

/-- An FP16 pattern as FX32 clamped to 0 to 1; NaN gives 0. -/
def unitOf (code : Nat) : Nat :=
  let (i, _) := roundInt 0 65536 16 (fp16.decode false (code % 65536))
  i.toNat

/-- The disagreement d of a result with an epoch's guard output, FX32 (R335): GRASP_SCORE is the second plane. A candidate outside the
grid disagrees wholly (log entry 29). -/
def State.disagreement (r : Result) (e : Epoch) (s : State) : Nat :=
  let c := (r.cands[r.sel]?).getD {}
  match s.img.fusion.cellOf (getN c.pose 0) (getN c.pose 1) with
  | some k => 65536 - unitOf (getN e.out (s.img.fusion.gridX * s.img.fusion.gridY + k))
  | none => 65536

/-- The guard line (R202, R204, R335): waiting, failed, in doubt, rejected or in favour, with d once it is known. -/
def State.guardLine (r : Result) (s : State) : LineSt × Option Nat :=
  match s.pairedEpoch r with
  | none => (.waiting, none)
  | some e =>
    match e.state with
    | .void => (.failed 0x38, none)
    | .done =>
      let d := s.disagreement r e
      let a := s.audRec r
      if a.disReject < d then (.reject 0x0A, some d)
      else if a.disMarginal < d then (.doubt 0x12, some d)
      else (.favour, some d)
    | _ => (.waiting, none)

/-- A fused stream of the paired epoch became FROZEN after its frame was taken (07 R204): the reason with that stream. -/
def State.fusedFrozen (r : Result) (s : State) : Option Nat :=
  (s.pairedEpoch r).bind fun e =>
    if e.frozen then
      some (reasonWord 0x09 (((e.members.map (·.1)).find? fun n => (s.strm n).state == .frozen).getD ((e.members.map (·.1)).headD 0)))
    else none

/-! ## The escape bound (R331, R334) -/

/-- Tiles along one dimension. -/
def tilesOf (m t : Nat) : Nat := ceilDiv m (2 ^ t)

/-- T_w of a witness record under a tile size. -/
def WitRec.tiles (w : WitRec) (t : Nat) : Nat := tilesOf w.m t * tilesOf w.n t

/-- n_w of a witness record for the exponent k. -/
def WitRec.sample (w : WitRec) (t k : Nat) : Nat := ceilDiv (w.tiles t) (2 ^ k)

/-- The tiled points of a channel: those that are no GATHER. -/
def State.tiled (ch : Nat) (s : State) : List WitRec := (s.img.witsOf ch).filter (·.kind ≠ 2)

/-- E for one point: ⌈10⁶ (1 − n/T)^m⌉, at most 65 535. -/
def escapeOf (t n m : Nat) : Nat := if t = 0 then 0 else min 65535 (ceilDiv (1000000 * (t - n) ^ m) (t ^ m))

/-- E of a result audited with exponent k (R334): the largest over its tiled points, 0 with none. -/
def State.escape (ch k : Nat) (s : State) : Nat :=
  let a := (s.img.audit ch).getD {}
  ((s.tiled ch).map fun w => escapeOf (w.tiles a.tileLog2) (w.sample a.tileLog2 k) a.refM).foldl max 0

/-! ## The decision (R338, R339) -/

/-- Verdict codes (R341). -/
def vBelieve : Nat := 1
def vDoubt : Nat := 2
def vReject : Nat := 3
def vLate : Nat := 4
def vVoid : Nat := 5

/-- What makes every verdict VOID: a journal found uncorrectable in service (19 R532), a stack fault, HASH_FAIL or DOLDRUMS, the lowest code first (R118, R157, R314). -/
def State.voidAll (s : State) : Option Nat :=
  if s.sys.internal then some 0x30 else
  match s.beu.stks.findIdx? (·.fault) with
  | some k => some (reasonWord 0x34 k)
  | none => if s.cfg.hashFail then some 0x35 else if s.sys.state = .doldrums then some 0x36 else none

/-- A named stream that is FROZEN now (06 R176). -/
def State.namedFrozen (r : Result) (s : State) : Option Nat :=
  ((r.seals.map (·.stream)).find? fun n => (s.strm n).state == .frozen).map (reasonWord 0x09)

/-- The REJECT evidence of a result (R338, R339). -/
def State.rejectOf (r : Result) (s : State) : Option Nat :=
  let line (l : LineSt) : List Nat := match l with | .reject c => [c] | _ => []
  let now := (s.namedFrozen r).toList ++ (s.fusedFrozen r).toList ++ line r.audit ++ line r.geom ++ line (s.guardLine r).1
  match r.reject with
  | some c => some c
  | none => now.foldl (fun a c => some (match a with | some b => if c % 256 < b % 256 then c else b | none => c)) none

/-- A named seal is POISONED or UNCHECKED (06 R182, 11 R315). -/
def State.sealPoisoned (r : Result) (s : State) : Option Nat :=
  (r.seals.find? fun x => s.sealStatus x == some .poisoned).map fun x => reasonWord 0x33 x.stream

/-- The companion's own failures of a result, the lowest code first. -/
def State.failedOf (r : Result) (s : State) : Option Nat :=
  let line (l : LineSt) : List Nat := match l with | .failed c => [c] | _ => []
  let l := r.void.toList ++ line r.audit ++ line r.geom ++ line (s.guardLine r).1 ++ (s.sealPoisoned r).toList
  l.foldl (fun a c => some (match a with | some b => if c % 256 < b % 256 then c else b | none => c)) none

/-- A line has not completed. -/
def State.linesOpen (r : Result) (s : State) : Bool :=
  r.audit == .waiting || r.geom == .waiting || (s.guardLine r).1 == .waiting || s.sealsPending r

/-- The verdict rests on a SUPPRESSED job: the result's own, or its epoch's guard job (10 R281). -/
def State.suppressedOf (r : Result) (s : State) : Bool := r.suppressed || (s.pairedEpoch r).any (·.suppressed)

/-- The reasons of a DOUBT, lowest code first (R338, R339). -/
def State.doubtOf (r : Result) (s : State) : Option Nat :=
  if (s.pairedEpoch r).any (·.leftReq ≠ 0) then some 0x10
  else if (s.audRec r).doubtPpm < r.escape then some 0x11
  else if (s.guardLine r).1 == .doubt 0x12 then some 0x12
  else if s.verdictCap ∨ s.suppressedOf r then some 0x13
  else none

/-- decide(result, t) of R338: verdict and reason word, none when it is evaluated again later. -/
def State.verdictNow (r : Result) (s : State) : Option (Nat × Nat) :=
  match s.voidAll with
  | some c => some (vVoid, c)
  | none =>
    match s.rejectOf r with
    | some c => some (vReject, c)
    | none =>
      match r.expired with
      | some st => some (vLate, reasonWord 0x21 st)
      | none =>
        if r.deadline ≤ s.dev then some (vLate, 0x20)
        else if s.linesOpen r then none
        else
          match s.failedOf r with
          | some c => some (vVoid, c)
          | none =>
            match s.doubtOf r with
            | some c => some (vDoubt, c)
            | none => some (vBelieve, 0)

/-- The five flags (R340). -/
def State.vflags (r : Result) (s : State) : Nat :=
  flg ((s.pairedEpoch r).any fun e => e.leftReq ≠ 0 || e.leftRed ≠ 0) 0 + flg (s.dbg.enabled || s.suppressedOf r) 1
    + flg (s.sys.state == .commission) 2 + flg (s.sys.state == .degraded) 3 + flg r.reduced 4

/-! ## Issue (R342, R343, R349, 18 R503, 19 R523) -/

/-- The completion entry with its phase bit clear (Table 12.8). -/
def compEntry (seq status verdict flags reason escape idx age : Nat) : Bytes :=
  leBytes 4 seq ++ [byte status, byte (verdict + flags * 8)] ++ leBytes 2 reason ++ leBytes 2 escape ++ leBytes 2 idx
    ++ leBytes 4 age

/-- A 32-bit two's complement field, little-endian. -/
def le32s (i : Int) : Bytes := leBytes 4 (ofSigned 32 i)

/-- A 32-bit two's complement field, most significant byte first. -/
def be32s (i : Int) : Bytes := beBytes 4 (ofSigned 32 i)

/-- The code of a seal's status in Table 18.4 (log entry 28). -/
def sealStCode : Option SealSt → Nat
  | some .pending => 0 | some .good => 1 | some .failed => 2 | some .calm => 3 | some .poisoned => 4 | none => 5

/-- The forensic verdict record (Table 18.4). -/
def State.frBytes (r : Result) (verdict flags reason token : Nat) (s : State) : Bytes :=
  let c := (r.cands[r.sel]?).getD {}
  let seals := (r.seals.map fun x =>
    [byte x.stream, byte (Config.sealCode (sealStCode (s.sealStatus x))), 0, 0] ++ leBytes 4 x.seq).flatten
  withCrc (leBytes 8 s.dev ++ leBytes 4 s.ret.frNext ++ leBytes 2 r.ch ++ [byte r.q, byte (verdict + flags * 8)]
    ++ leBytes 2 reason ++ leBytes 2 r.escape ++ leBytes 4 r.seq ++ leBytes 8 r.capture ++ leBytes 4 token
    ++ leBytes 4 ((s.pairedEpoch r).elim 0 (·.num)) ++ leBytes 4 (((s.guardLine r).2).getD 0)
    ++ [byte r.k, byte r.seals.length, byte r.cands.length, byte r.sel]
    ++ [byte s.sys.state.code] ++ leBytes 2 (maskOf (s.aud.cores.map ACore.fenced)) ++ [0]
    ++ padTo 4 (s.img.digest.take 4) ++ leBytes 4 r.recCrc ++ zeros 4 ++ padTo 128 seals
    ++ padTo 28 (c.pose.flatMap le32s ++ le32s c.approach) ++ zeros 32)

/-- A record appended to the ring of 2048 (18 R503). -/
def State.frPut (data : Bytes) (s : State) : State :=
  s.onRet fun x =>
    { x with
      frs := (if x.frs.length < 2048 then x.frs else x.frs.drop 1) ++ [{ num := x.frNext, data := data }]
      frNext := serialNext x.frNext }

/-- The token payload (Table 12.6). -/
def State.tokenBytes (r : Result) (num : Nat) (s : State) : Bytes :=
  let c := (r.cands[r.sel]?).getD {}
  let flags := flg (s.sys.state == .commission) 0 + flg (s.sys.state == .degraded) 1 + flg s.dbg.enabled 2
  beBytes 4 num ++ beBytes 2 r.ch ++ [byte r.sel, byte flags] ++ beBytes 4 r.seq ++ zeros 4 ++ beBytes 8 r.deadline
    ++ (c.pose.flatMap be32s) ++ be32s c.approach

/-- A token for a BELIEVE of a channel with TOKENS in a state that permits torque, unless a trip already waits for this SP
cycle (R343, R344, R351): its number, 0 for none. -/
def State.issueToken (r : Result) (verdict : Nat) (s : State) : Nat × State :=
  let a := s.audRec r
  let ok := verdict = vBelieve ∧ bit a.flags 0 ∧ s.sys.state.permits ∧ s.sys.pendTrips.isEmpty ∧ s.slb.toSp.isEmpty
  if ok then
    let n := serialNext s.ret.token
    let s := s.onRet fun x => { x with token := n }
    let s := if n % 2 ^ 20 = 0 then s.onNvm fun x => { x with cpToken := n, cpWrites := x.cpWrites + 1 } else s
    (n, s.onVrd fun v =>
      { v with tokenLast := n, tokens := v.tokens ++ [(r.q, r.seq, a.tokenConn, s.tokenBytes r n)] })
  else (0, s)

/-- Escalation (R342). -/
def State.escalate (r : Result) (verdict : Nat) (s : State) : State :=
  if verdict = vBelieve ∨ verdict = vDoubt then s.onVq r.q fun x => { x with esc := 0 }
  else if verdict = vReject then
    let n := (s.vq r.q).esc + 1
    if (s.audRec r).escCount ≤ n then
      let s := (s.onVq r.q fun x => { x with esc := 0 }).onVrd fun v => { v with events := v.events ||| 8 }
      s.spTrip 0x09 false
    else s.onVq r.q fun x => { x with esc := n }
  else s

/-- A result's jobs that have not ended are cancelled (R338). -/
def State.cancelJobs (r : Result) (s : State) : State :=
  s.each (r.auditJob.toList ++ r.geomJob.toList) fun n s => s.onJob n (Job.fail 6 false)

/-- A verdict issued (R349, R523, 18 R503): window slot, completion entry and signal, forensic record, journal; then the
escalation count, and the locks released. -/
def State.issue (r : Result) (verdict reason : Nat) (s : State) : State :=
  let flags := s.vflags r
  let age := if reason % 256 = 0x21 then 0xFFFFFFFF else min ((s.dev - r.capture) / 1000) 0xFFFFFFFF
  let s := s.jMod jResult r.q r.seq fun e =>
    { e with state := 2, aux := [byte (verdict + flags * 8)] ++ leBytes 2 reason ++ leBytes 2 r.escape ++ [0] }
  let (token, s) := s.issueToken r verdict
  let s := s.onVq r.q fun x =>
    { x with
      win := (r.seq % 256, { seq := r.seq, issued := true, verdict := verdict, flags := flags, reason := reason,
                             escape := r.escape, token := token ≠ 0 }) :: x.win.filter (·.1 != r.seq % 256)
      counts := modN x.counts (verdict - 1) satInc }
  let fr := s.frBytes r verdict flags reason token
  let s := s.jMod jResult r.q r.seq fun e => { e with state := 3 }
  let s := s.cqPost r.q (compEntry r.seq 0 verdict flags reason r.escape r.subIdx age)
  let s := (s.frPut fr).jClose jResult r.q r.seq
  let s := s.onVrd fun v =>
    { v with
      results := v.results.filter fun x => !x.is r.q r.seq
      events := v.events ||| (if verdict = vReject then 1 else if verdict = vLate then 2 else if verdict = vVoid then 4 else 0) }
  let s := ((s.unlock r.q r.seq).escalate r verdict).cancelJobs r
  (s.latency 0x01 r.ch (s.now - r.commitAt)).latency 0x02 r.ch (s.dev - r.capture)

/-- One committed result evaluated (R338). -/
def State.evalOne (q seq : Nat) (s : State) : State :=
  match s.resultOf q seq with
  | some r =>
    if r.state = .committed then
      (match s.verdictNow r with | some (v, c) => s.issue r v c | none => s)
    else s
  | none => s

/-- Every committed result evaluated (R338). -/
def State.evalResults (s : State) : State := s.each s.vrd.results fun r s => s.evalOne r.q r.seq

/-- A stream became FROZEN: REJECT evidence for every result in flight that names it, or whose epoch took a frame of it (06
R176, 07 R204). -/
def State.vrdFrozen (n : Nat) (s : State) : State :=
  let hit (r : Result) : Bool :=
    r.seals.any (·.stream == n) || (s.pairedEpoch r).any (fun e => e.members.any (·.1 == n))
  s.onVrd fun v =>
    { v with results := v.results.map fun r => if hit r then r.rejectBy (reasonWord 0x09 n) else r }

end Sys2Proof.Machine
end

