-- ==== Sys2Proof/Machine/AuditOps.lean ====
section
/-! DEFINITION. The audit and geometry engines (12 R331 to R336), what every issuer does with an ended job (10 R271, R283), and
the settling of jobs and verdicts after an event. -/

namespace Sys2Proof.Machine

/-! ## Witness points -/

/-- The accumulator format of an input format: INT32 or FP32 (12 R327). -/
def accFmt (f : Nat) : Nat := if fmtIsInt f then 0x0C else 0x00

/-- The bytes of the three tensors of a point (R327, R328). -/
def witSizes (w : WitRec) (t : Nat) : List Nat :=
  if w.kind = 2 then [4 * w.m, w.m * rowBytes w.fmtIn w.n, w.k * rowBytes w.fmtIn w.n]
  else [w.m * rowBytes w.fmtIn w.k, w.m * w.n * 4, w.tiles t * 2 ^ t * 8]

/-- The record of a point of a channel. -/
def State.witRec (ch p : Nat) (s : State) : WitRec := ((s.img.witsOf ch).find? (·.point == p)).getD {}

/-- The descriptor of a result's point. -/
def Result.wit (r : Result) (p : Nat) : Wit := (r.wits.find? (·.point == p)).getD {}

/-- First row and column, rows and columns of a tile, cut at the tensor's edge. -/
def tileAt (w : WitRec) (t i : Nat) : Nat × Nat × Nat × Nat :=
  let n := 2 ^ t
  let c := tilesOf w.n t
  let r0 := i / c * n
  let c0 := i % c * n
  (r0, c0, min n (w.m - r0), min n (w.n - c0))

/-- The base of audit results in MS1 scratch (log entry 32). -/
def auditScratch (i : Nat) : Nat := 0x1430000000 + i % 512 * 0x10000

/-- The MATMUL of one sampled tile (R333): A rows by B columns. Columns of an MX format are taken in whole blocks. -/
def State.tileDesc (r : Result) (w : WitRec) (t i : Nat) (s : State) : Desc :=
  let (r0, c0, m, n) := tileAt w t i
  let x := r.wit w.point
  let sa := rowBytes w.fmtIn w.k
  let lo := if fmtIsMx w.fmtIn then c0 / 32 * 32 else c0
  let n' := if fmtIsMx w.fmtIn then min (roundUp (c0 + n) 32) w.n - lo else n
  { op := opMatmul, fmtA := w.fmtIn, fmtB := w.fmtIn, fmtOut := accFmt w.fmtIn, flags := 9, ident := r.ch, cls := 1,
    srcA := getN x.addrs 0 + r0 * sa, strideA := sa, srcB := guardBase + w.weightOfs + rowBytes w.fmtIn lo,
    strideB := rowBytes w.fmtIn w.n, dst := auditScratch i, strideD := n' * 4, m := m, n := n', k := w.k,
    param := 0x3F800000 }

/-- The GATHER of a gather point (R333), every index, with UNTRUSTED_IDX (08 R229, R232). -/
def gatherDesc (r : Result) (w : WitRec) : Desc :=
  let x := r.wit w.point
  let b := rowBytes w.fmtIn w.n
  { op := opGather, fmtA := w.fmtIn, fmtB := 0x0C, fmtOut := w.fmtIn, flags := 25, ident := r.ch, cls := 1,
    srcA := getN x.addrs 2, strideA := b, srcB := getN x.addrs 0, strideB := 4, dst := auditScratch 0, strideD := b,
    m := w.m, n := w.n, k := w.k }

/-- The descriptors of an audit job, each with its point, in point order. -/
def State.auditDescs (r : Result) (s : State) : List (Nat × Desc) :=
  let t := (s.audRec r).tileLog2
  (s.img.witsOf r.ch).flatMap fun w =>
    if w.kind = 2 then [(w.point, gatherDesc r w)]
    else ((r.tiles.find? (·.1 == w.point)).elim [] (·.2)).map fun i => (w.point, s.tileDesc r w t i)

/-! ## The challenge (R331, R332) -/

/-- `n` entries of a list, drawn without replacement. -/
def State.pick : Nat → List Nat → State → List Nat × State
  | 0, _, s => ([], s)
  | n + 1, l, s =>
    if l.isEmpty then ([], s)
    else
      let (v, s) := s.draw
      let i := v % l.length
      let (r, s) := State.pick n (l.eraseIdx i) s
      (getN l i :: r, s)

/-- The tiles of every tiled point drawn with exponent k. -/
def State.drawTiles (t k : Nat) : List WitRec → State → List (Nat × List Nat) × State
  | [], s => ([], s)
  | w :: l, s =>
    let (x, s) := State.pick (w.sample t k) (List.range (w.tiles t)) s
    let (r, s) := State.drawTiles t k l s
    ((w.point, x) :: r, s)

/-- The modelled time of a job, both passes, in ns (08 R223, R224). -/
def workTime (l : List Desc) : Nat :=
  (l.map fun d => ceilDiv ((d.passTime false + d.passTime true) * 115) 1000).sum

/-- VP core time already queued, in ns (R332). -/
def State.queued (s : State) : Nat :=
  (s.aud.jobs.map fun j => (j.descs.map fun d =>
    (if d.w == .waiting || d.w.busy then ceilDiv (d.desc.passTime false * 115) 1000 else 0)
      + (if d.l == .waiting || d.l.busy then ceilDiv (d.desc.passTime true * 115) 1000 else 0)).sum).sum

/-- The wake time that remains (17 R480). -/
def State.wakeLeft (s : State) : Nat :=
  match s.psm.waking with
  | some (i, _) => s.psm.state.exit - (s.now - i)
  | none => 0

/-- A claim of the admitted image. -/
def State.claim (kind subject : Nat) (s : State) : Nat :=
  ((s.img.claims.find? fun c => c.kind == kind && c.subject == subject).map (·.value)).getD 0

/-- The estimate of R332 exceeds VERDICT_BOUND. -/
def State.overBound (r : Result) (s : State) : Bool :=
  s.admittedCount = 0 ||
    decide (s.claim 4 r.ch < s.queued / s.admittedCount + workTime ((s.auditDescs r).map (·.2)) + s.wakeLeft)

/-- The challenge drawn with exponent k, and drawn anew with a greater one while the estimate does not fit (R332). -/
def State.challenge (r : Result) (t : Nat) : Nat → Nat → State → Result × State
  | 0, k, s =>
    let (x, s) := s.drawTiles t k (s.tiled r.ch)
    ({ r with tiles := x, k := k }, s)
  | n + 1, k, s =>
    let (x, s) := s.drawTiles t k (s.tiled r.ch)
    let r' := { r with tiles := x, k := k }
    if s.overBound r' then State.challenge r t n (k + 1) s else (r', s)

/-! ## Tile checks (R333, Table 12.4) -/

/-- The code of an accumulated sum. -/
def accCode (fa : Nat) (terms : List ((Nat × Nat) × (Nat × Nat))) : Nat :=
  if fmtIsInt fa then
    ofSigned 32 (terms.foldl (fun (a : AccI) t => a.fma (intOf fa t.1.2) (intOf fa t.2.2)) { val := 0, fp := 0 }).val
  else fp32.encode (dot fa fa false none 1 terms).val

/-- The recomputed tile, row by row, as accumulator codes. -/
def State.tileCodes (r : Result) (w : WitRec) (t i : Nat) (s : State) : List (List Nat) :=
  let (r0, c0, m, n) := tileAt w t i
  let x := r.wit w.point
  let sa := rowBytes w.fmtIn w.k
  let sb := rowBytes w.fmtIn w.n
  let b := (List.range w.k).map fun k => s.peekN (guardBase + w.weightOfs + k * sb) sb
  (List.range m).map fun a =>
    let row := s.peekN (getN x.addrs 0 + (r0 + a) * sa) sa
    (List.range n).map fun c =>
      accCode w.fmtIn ((List.range w.k).map fun k => (rawElem w.fmtIn row k, rawElem w.fmtIn (getN b k) (c0 + c)))

/-- The OUT tile as accumulator codes. -/
def State.outCodes (r : Result) (w : WitRec) (t i : Nat) (s : State) : List (List Nat) :=
  let (r0, c0, m, n) := tileAt w t i
  let x := r.wit w.point
  (List.range m).map fun a => (List.range n).map fun c => leVal (s.peekN (getN x.addrs 1 + ((r0 + a) * w.n + c0 + c) * 4) 4)

/-- Two accumulator codes match under the point's comparison. -/
def WitRec.same (w : WitRec) (a b : Nat) : Bool :=
  cmpElem (if fmtIsInt w.fmtIn ∨ w.compare = 0 then 0 else 1) w.ulp (accFmt w.fmtIn) (accFmt w.fmtIn) false (0, a) (0, b)

/-- A sum of accumulator codes. -/
def accSum (int : Bool) (l : List Nat) : Nat :=
  if int then l.sum % 2 ^ 32
  else fp32.encode (l.foldl (fun (a : Acc) c => a.fma false (of32 false c) (Val.ofInt 1)) { val := .zero, fp := 0 }).val

/-- A sum equals a checksum: exactly modulo 2³², or within ABFT_TOL in FP32. -/
def WitRec.sumOk (w : WitRec) (a b : Nat) : Bool :=
  if fmtIsInt w.fmtIn then a == b else cmpElem 2 w.abftTol 0 0 false (0, a) (0, b)

/-- The t row sums and t column sums of a tile; rows and columns beyond the edge sum to zero. -/
def tileSums (int : Bool) (n : Nat) (rows : List (List Nat)) : List Nat :=
  ((List.range n).map fun i => accSum int (rows.getD i [])) ++
    ((List.range n).map fun j => accSum int (rows.filterMap fun r => r[j]?))

/-- What a sampled tile shows: recompute and ABFT (Table 12.4). -/
def State.tileCheck (r : Result) (w : WitRec) (t i : Nat) (s : State) : List Nat :=
  let mine := s.tileCodes r w t i
  let out := s.outCodes r w t i
  let aux := getN (r.wit w.point).addrs 2 + i * 2 ^ t * 8
  let sums := (List.range (2 * 2 ^ t)).map fun j => leVal (s.peekN (aux + 4 * j) 4)
  let int := fmtIsInt w.fmtIn
  let bad := (mine.flatten.zip out.flatten).any fun x => !w.same x.1 x.2
  let abft (l : List (List Nat)) : Bool := ((tileSums int (2 ^ t) l).zip sums).all fun x => w.sumOk x.1 x.2
  (if bad then [reasonWord 0x05 w.point] else []) ++ (if abft out && abft mine then [] else [reasonWord 0x06 w.point])

/-- What a gather point shows: every gathered row compared exactly with OUT. -/
def State.gatherCheck (r : Result) (w : WitRec) (s : State) : List Nat :=
  let x := r.wit w.point
  let b := rowBytes w.fmtIn w.n
  let bad := (List.range w.m).any fun i =>
    let k := toSigned 32 (leVal (s.peekN (getN x.addrs 0 + 4 * i) 4))
    s.peekN (getN x.addrs 2 + k.toNat * b) b != s.peekN (getN x.addrs 1 + i * b) b
  if bad then [reasonWord 0x05 w.point] else []

/-- The lowest code, then the lowest detail, of some reasons. -/
def lowestReason (l : List Nat) : Option Nat :=
  l.foldl (fun a c => some (match a with
    | some b => if c % 256 < b % 256 ∨ (c % 256 = b % 256 ∧ c < b) then c else b
    | none => c)) none

/-- The audit line of a job whose descriptors all matched (R333). -/
def State.auditChecks (r : Result) (s : State) : LineSt :=
  let t := (s.audRec r).tileLog2
  let l := (s.img.witsOf r.ch).flatMap fun w =>
    if w.kind = 2 then s.gatherCheck r w
    else ((r.tiles.find? (·.1 == w.point)).elim [] (·.2)).flatMap fun i => s.tileCheck r w t i
  match lowestReason l with
  | some c => .reject c
  | none => .favour

/-! ## Geometry (R336) -/

/-- A product of two FX32 numbers, rounded to FX32. -/
def fxMul (a b : Int) : Int := (roundInt (-(2 ^ 31)) (2 ^ 31 - 1) 16 (Val.ofInt (a * b) (-32))).1

/-- The grasp position and the pre-grasp point of a candidate. -/
def Cand.segment (c : Cand) : List Int × List Int :=
  let p := c.pose.take 3
  let z := Config.toolZ (getN c.pose 3) (getN c.pose 4) (getN c.pose 5)
  (p, [getN p 0 - fxMul c.approach z.1, getN p 1 - fxMul c.approach z.2.1, getN p 2 - fxMul c.approach z.2.2])

/-- A point of the grid frame in the grid's own axes. -/
def FusionRec.axesOf (f : FusionRec) (x y : Int) : Int × Int :=
  let o := f.gridOrigin
  let dx := x - getN o 0
  let dy := y - getN o 1
  if (o.drop 3).all (· == 0) then (dx, dy) else Config.gridTurn o dx dy

/-- G1: both ends lie inside the grid. -/
def FusionRec.inside (f : FusionRec) (c : Cand) : Bool :=
  let (p, q) := c.segment
  (f.cellOf (getN p 0) (getN p 1)).isSome && (f.cellOf (getN q 0) (getN q 1)).isSome

/-- The squared distance of a point from a segment in the plane is at most `r²`. All are integers of one scale. -/
def nearSegment (px py qx qy cx cy r : Int) : Bool :=
  let dx := qx - px
  let dy := qy - py
  let l2 := dx * dx + dy * dy
  let t := (cx - px) * dx + (cy - py) * dy
  if t ≤ 0 ∨ l2 = 0 then decide ((cx - px) ^ 2 + (cy - py) ^ 2 ≤ r * r)
  else if l2 ≤ t then decide ((cx - qx) ^ 2 + (cy - qy) ^ 2 ≤ r * r)
  else decide (((cx - px) * dy - (cy - py) * dx) ^ 2 ≤ r * r * l2)

/-- OCCUPANCY of a cell is at most OCC_THRESH; NaN is not. -/
def occOk (thresh : Int) (code : Nat) : Bool :=
  let v := fp16.decode false (code % 65536)
  !v.isNan && !((Val.ofInt thresh (-16)).lt v)

/-- G2: every cell near the segment and not near the target is free. Coordinates are scaled by 2000. -/
def FusionRec.free (f : FusionRec) (a : AudChan) (out : List Nat) (c : Cand) : Bool :=
  let (p, q) := c.segment
  let (px, py) := f.axesOf (getN p 0) (getN p 1)
  let (qx, qy) := f.axesOf (getN q 0) (getN q 1)
  (List.range (f.gridX * f.gridY)).all fun k =>
    let cx : Int := (2 * (k % f.gridX) + 1) * f.cellUm * 65536
    let cy : Int := (2 * (k / f.gridX) + 1) * f.cellUm * 65536
    let near := nearSegment (2000 * px) (2000 * py) (2000 * qx) (2000 * qy) cx cy (2000 * a.gripperMm)
    let target := nearSegment (2000 * px) (2000 * py) (2000 * px) (2000 * py) cx cy (2000 * a.targetMm)
    !near || target || occOk a.occThresh (getN out k)

/-- The squared distance from a box of the point at parameter `n / d` of a segment, scaled by d². -/
def boxDist (lo hi p q : List Int) (n d : Int) : Int :=
  ((List.range 3).map fun i =>
    let x := getN p i * d + (getN q i - getN p i) * n
    let e := max (max (getN lo i * d - x) (x - getN hi i * d)) 0
    e * e).sum

/-- Where the distance from the faces a pattern chooses (0 below, 1 inside, 2 above, base 3) is least. -/
def boxVertex (lo hi p q : List Int) (pat : Nat) : Int × Int :=
  let ax := (List.range 3).map fun i =>
    let m := pat / 3 ^ i % 3
    let dv := getN q i - getN p i
    let f := if m = 0 then getN lo i else getN hi i
    if m = 1 then (0, 0) else (dv * dv, dv * (f - getN p i))
  ((ax.map (·.2)).sum, (ax.map (·.1)).sum)

/-- The capsule of radius `r` around a segment meets a box: the least distance is at an end of the segment or where some
pattern of faces has its least. -/
def capsuleMeets (lo hi p q : List Int) (r : Int) : Bool :=
  let ok (n d : Int) : Bool := decide (boxDist lo hi p q n d ≤ r * r * d * d)
  ok 0 1 || ok 1 1 || (List.range 27).any fun pat =>
    let (n, d) := boxVertex lo hi p q pat
    decide (0 < d ∧ 0 ≤ n ∧ n ≤ d) && ok n d

/-- The geometry line of a result against a guard output (R336). -/
def State.geometryChecks (r : Result) (out : List Nat) (s : State) : LineSt :=
  let f := s.img.fusion
  let a := s.audRec r
  match r.cands.findIdx? fun c => !f.inside c || !f.free a out c with
  | some k => .reject (reasonWord 0x07 k)
  | none =>
    match r.cands.findIdx? fun c => s.img.zones.any fun z => capsuleMeets z.lo z.hi c.segment.1 c.segment.2 a.gripperMm with
    | some k => .reject (reasonWord 0x08 k)
    | none => .favour

/-- The descriptor that covers one candidate in the geometry class. -/
def geomDesc (ch k : Nat) : Desc :=
  { op := opTransform, subop := 3, fmtA := 0x11, fmtB := 0x11, fmtOut := 0x11, flags := 9, ident := ch, cls := 2,
    srcA := 0x1009A0000 + k * 32, strideA := 32, dst := auditScratch (511 - k), strideD := 32, n := 8 }

/-- The geometry job of a committed result, once the guard output it reads is there (R336); a failed guard line leaves it
nothing to read. -/
def State.startGeom (r : Result) (s : State) : State :=
  if r.state ≠ .committed ∨ r.geomJob.isSome ∨ r.geom ≠ .waiting then s
  else
    match s.pairedEpoch r with
    | some e =>
      match e.state with
      | .done =>
        let (n, s) := s.issueJob .geometry r.ch r.seq 2 ((List.range r.cands.length).map (geomDesc r.ch)) []
        s.onResult r.q r.seq fun x => { x with geomJob := some n }
      | .void => s.onResult r.q r.seq fun x => { x with geom := .failed 0x38 }
      | _ => s
    | none => s

/-- The geometry jobs of every committed result. -/
def State.startGeoms (s : State) : State := s.each s.vrd.results State.startGeom

/-! ## Ends of jobs (10 R271) -/

/-- The line that an unmatched audit or geometry job leaves (R232, R271, R282, Table 12.5); `point` is the point of a
descriptor. -/
def State.jobLine (j : Job) (point : Nat → Nat) (good : LineSt) : LineSt :=
  match j.result with
  | .matched | .suppressed => good
  | .mismatch => .failed (reasonWord 0x32 j.cls)
  | .checker => .failed 0x31
  | .failed =>
    if j.untrusted then
      .reject (reasonWord 0x04 (point ((j.descs.findIdx? fun d => match d.w, d.l with
        | .ended _ _ _ 2, _ => true | _, .ended _ _ _ 2 => true | _, _ => false).getD 0)))
    else .failed 0x30

/-- An audit job has ended. -/
def State.auditEnd (j : Job) (s : State) : State :=
  s.with (s.vrd.results.find? fun r => r.auditJob == some j.num) fun r s =>
    let pts := (s.auditDescs r).map (·.1)
    let l := State.jobLine j (fun i => getN pts i) (s.auditChecks r)
    s.onResult r.q r.seq fun x => { x with audit := l, suppressed := x.suppressed || decide (j.result = .suppressed) }

/-- A geometry job has ended. -/
def State.geomEnd (j : Job) (s : State) : State :=
  s.with (s.vrd.results.find? fun r => r.geomJob == some j.num) fun r s =>
    let out := (s.pairedEpoch r).elim [] (·.out)
    let l := State.jobLine j (fun _ => 0) (s.geometryChecks r out)
    s.onResult r.q r.seq fun x => { x with geom := l, suppressed := x.suppressed || decide (j.result = .suppressed) }

/-- A SAFE_STATE job issued (10 R265, R271). -/
def State.issueSafe (cls : Nat) (s : State) : State := (s.issueJob .safeState cls 0 cls (s.safeDescs cls) []).2

/-- A SAFE_STATE job has ended: MATCH ends the wait; a job that ended VOID runs again as a new one (10 R283). -/
def State.safeEnd (j : Job) (s : State) : State :=
  match j.result with
  | .matched => s.onAud fun a => { a with orig := setN a.orig j.cls none }
  | _ => s.issueSafe j.cls

/-- A job run for a borrower has ended: its return waits for an owned bulk unit (15 R438). -/
def State.lentEnd (j : Job) (s : State) : State :=
  s.with (s.xwl.borrowed.find? (·.1 == j.num)) fun b s =>
    let digests := j.descs.flatMap fun d => match d.w, d.l with
      | .ended _ a _ _, .ended _ b _ _ => leBytes 8 a ++ leBytes 8 b
      | _, _ => zeros 16
    let stats := (s.entriesOf j).flatMap StatEntry.bytes
    let code := match j.result with | .matched => 0 | .mismatch => 1 | .checker => 2 | .suppressed => 3 | .failed => 4
    s.onXwl fun w => { w with bulk := w.bulk ++ [(b.2.1, b.2.2, Config.bulkPack [stats, digests, [byte code, byte j.arb]])] }

/-- What the issuer does with an ended job. -/
def State.jobEnd (j : Job) (s : State) : State :=
  match j.kind with
  | .audit => s.auditEnd j
  | .geometry => s.geomEnd j
  | .guard =>
    let closed := (s.vrd.closes.find? (·.1 == j.seq)).elim s.dev (·.2)
    (s.guardEnd j).latency 0x04 noSub (s.dev - closed)
  | .safeState => s.safeEnd j
  | .lent => s.lentEnd j

/-- Finished jobs leave the job table, oldest first, each handed to its issuer. -/
def State.reapN : Nat → State → State
  | 0, s => s
  | n + 1, s =>
    match s.aud.jobs.find? Job.finished with
    | some j => State.reapN n (((s.retireJob j).jobEnd j).onAud fun a => { a with posted := a.posted.filter (·.job != j.num) })
    | none => s

/-- Every finished job. A SAFE_STATE job issued meanwhile cannot have finished. -/
def State.reap (s : State) : State := s.reapN s.aud.jobs.length

/-- Jobs and verdicts settled after an event: reruns without a core, ends of jobs, geometry jobs that can start, verdicts, and the jobs that a
verdict cancelled; then the power state is chosen again where nothing is left to run. -/
def State.settleWork (s : State) : State := (s.noReruns.reap.startGeoms.evalResults.reap).psmChoose

end Sys2Proof.Machine
end

