-- ==== Sys2Proof/Machine/Stacks.lean ====
section
/-! DEFINITION. The base-die element units (11): commands, rings, fences, channel switching, scrub and stack faults. -/

namespace Sys2Proof.Machine

/-- Change stack `k`. -/
def State.onStack (k : Nat) (f : Stack → Stack) (s : State) : State :=
  s.onBeu fun b => { b with stks := modN b.stks k f }

/-- Stack `k`. -/
def State.stk (s : State) (k : Nat) : Stack := getN s.beu.stks k

/-- Change one of the two rings of a stack. -/
def Stack.onRing (bg : Bool) (f : BRing → BRing) (k : Stack) : Stack := if bg then { k with bg := f k.bg } else { k with vp := f k.vp }

/-- One of the two rings of a stack. -/
def Stack.ring (bg : Bool) (k : Stack) : BRing := if bg then k.bg else k.vp

/-! ## Commands (R295, R298) -/

/-- A command read from its 64 bytes (Table 11.2). -/
def BCmd.parse (b : Bytes) : BCmd :=
  { kind := leAt b 0 1, op := leAt b 1 1, fmtIn := leAt b 2 1, fmtOut := leAt b 3 1,
    acts := [leAt b 4 1, leAt b 5 1, leAt b 6 1], flags := leAt b 7 1, tag := leAt b 8 4, ident := leAt b 12 2,
    channel := leAt b 14 1, srcA := leAt b 16 5, srcB := leAt b 21 5, dst := leAt b 26 5, count := leAt b 32 4,
    table := leAt b 36 5, params := [leAt b 44 4, leAt b 48 4, leAt b 52 4, leAt b 56 4],
    crcOk := Sys2Proof.Machine.crcOk (sub b 0 64),
    reservedOk := allZero (sub b 15 1 ++ sub b 31 1 ++ sub b 41 3) }

/-- The bytes of a command (Table 11.2). -/
def BCmd.bytes (c : BCmd) : Bytes :=
  withCrc ([byte c.kind, byte c.op, byte c.fmtIn, byte c.fmtOut] ++ c.acts.map byte ++ [byte c.flags] ++ leBytes 4 c.tag
    ++ leBytes 2 c.ident ++ [byte c.channel, 0] ++ leBytes 5 c.srcA ++ leBytes 5 c.srcB ++ leBytes 5 c.dst ++ [0]
    ++ leBytes 4 c.count ++ leBytes 5 c.table ++ zeros 3 ++ c.params.flatMap (leBytes 4))

/-- An integer BEU format. -/
def beuInt (f : Nat) : Bool := f == 0x0D || f == 0x0E

def BCmd.offset (c : BCmd) : Bool := bit c.flags 1
def BCmd.pwl (c : BCmd) : Bool := c.acts.contains 5

/-- Bytes of each source. -/
def BCmd.inBytes (c : BCmd) : Nat := c.count * (beuWidth c.fmtIn).getD 1

/-- The source ranges. -/
def BCmd.sources (c : BCmd) : List (Nat × Nat) :=
  (c.srcA, c.inBytes) :: (if c.op = 0 then [] else [(c.srcB, c.inBytes)])

/-- The PWL16 table's range. -/
def BCmd.tables (c : BCmd) : List (Nat × Nat) := if c.pwl then [(c.table, 256)] else []

/-- A range lies in stack `k`. -/
def inStack (k : Nat) (r : Nat × Nat) : Bool := decide (stackBase k ≤ r.1 ∧ r.1 + r.2 ≤ stackBase k + 0x400000000)

/-- A range lies in channel `c` of stack `k`. -/
def inChannel (k c : Nat) (r : Nat × Nat) : Bool :=
  let b := stackBase k + c * 0x40000000
  decide (b ≤ r.1 ∧ r.1 + r.2 ≤ b + 0x40000000)

/-- Two ranges overlap. -/
def rangesMeet (a b : Nat × Nat) : Bool := decide (a.1 < b.1 + b.2 ∧ b.1 < a.1 + a.2)

/-- The channels a range touches. -/
def touched (k : Nat) (r : Nat × Nat) : List Nat :=
  (List.range 16).filter fun c => rangesMeet r (stackBase k + c * 0x40000000, 0x40000000)

/-- Word `i` of the PWL16 table as an intermediate: INT32 or FP32 code. -/
def State.tableWord (s : State) (c : BCmd) (o : Nat) : Nat := leVal (s.peekN (c.table + o) 4)

/-- A 32-bit intermediate as a value (R296). -/
def interVal (int : Bool) (code : Nat) : Val := if int then Val.ofInt (toSigned 32 code) else of32 false code

/-- The breakpoints ascend. -/
def State.breaksOk (s : State) (c : BCmd) : Bool :=
  let int := beuInt c.fmtIn
  (List.range 14).all fun i => (interVal int (s.tableWord c (4 * i))).lt (interVal int (s.tableWord c (4 * i + 4)))

/-- CMD_ERROR (R298). -/
def State.cmdError (s : State) (k : Nat) (c : BCmd) : Bool :=
  let acts := c.acts.filter (· ≠ 0)
  let ranges := c.sources ++ c.dest ++ c.tables
  !c.crcOk || !c.reservedOk || (c.kind ≠ 1 && c.kind ≠ 2)
    || (c.kind == 1 &&
      (3 < c.op || c.acts.any (fun a => 5 < a) || 4 ≤ c.flags || 16 ≤ c.channel || c.ident < 512 || 576 ≤ c.ident
        || (beuWidth c.fmtIn).isNone || (beuWidth c.fmtOut).isNone || (c.offset && !beuInt c.fmtIn)
        || acts.any (fun a => 1 < acts.count a) || c.count == 0 || 67108864 < c.count
        || c.srcA % 32 ≠ 0 || (c.op ≠ 0 && c.srcB % 32 ≠ 0) || c.dst % 32 ≠ 0
        || ranges.any (fun r => !inStack k r)
        || (c.dest ++ c.tables).any (fun r => !inChannel k c.channel r)
        || (c.countOnly && c.dst ≠ 0) || (!c.countOnly && c.dst == 0)
        || c.dest.any (fun d => c.sources.zipIdx.any fun x => rangesMeet d x.1 && !(x.2 == 0 && x.1.1 == d.1))
        || (c.pwl && !s.breaksOk c)))

/-- PROTECTED (R293): an OPAQUE command touches a channel with check bits. -/
def Stack.protects (k : Nat) (x : Stack) (c : BCmd) : Bool :=
  getN x.proc c.channel && !(getN x.recompute c.channel) &&
    ((c.sources ++ c.dest ++ c.tables).flatMap (touched k)).any fun n => !(getN x.proc n) || getN x.recompute n

/-- The first range that the firewall refuses to the command: write, address, and whether a lock refuses it (R298). -/
def State.cmdWall (s : State) (c : BCmd) : Option (Bool × Nat × Bool) :=
  ((c.sources ++ c.tables).map (fun r => (false, r)) ++ c.dest.map fun r => (true, r)).findSome? fun x =>
    match s.coreWall c.ident x.1 x.2.1 x.2.2 with
    | .pass => none
    | .refused => some (x.1, x.2.1, false)
    | .locked => some (x.1, x.2.1, true)

/-! ## Evaluation (R296, R297, R306) -/

/-- An INT32 intermediate saturates (R296). -/
def satI32 (i : Int) : Int × Nat :=
  if 2147483647 < i then (2147483647, 10) else if i < -2147483648 then (-2147483648, 10) else (i, 0)

/-- One activation of an integer intermediate. -/
def State.actI (s : State) (c : BCmd) (a : Nat) (x : Int) : Int × Nat :=
  let p (i : Nat) : Int := toSigned 32 (getN c.params i)
  match a with
  | 1 => (max x 0, 0)
  | 2 => satI32 x.natAbs
  | 3 => (if x < p 0 then p 0 else if p 1 < x then p 1 else x, 0)
  | 4 => (if p 2 < x then x else 0, 0)
  | 5 =>
    let w (o : Nat) : Int := toSigned 32 (s.tableWord c o)
    let k := ((List.range 15).find? fun i => decide (x ≤ w (4 * i))).getD 15
    satI32 (w (64 + 8 * k) * x + w (68 + 8 * k))
  | _ => (x, 0)

/-- One activation of an FP32 intermediate, before its rounding. -/
def State.actF (s : State) (c : BCmd) (a : Nat) (x : Val) : Val × Nat :=
  let p (i : Nat) : Val := of32 false (getN c.params i)
  match a with
  | 1 => Val.pick true x .zero
  | 2 => (if x.neg then x.negate else x, b2n x.sig)
  | 3 => if x.isNan then (.qnan, b2n x.sig) else (if x.below (p 0) then p 0 else if (p 1).below x then p 1 else x, 0)
  | 4 => threshF (p 2) x
  | 5 => pwlF (fun o => of32 false (s.tableWord c o)) x
  | _ => (x, 0)

/-- The result of one element of an integer command: its intermediate. -/
def State.beuI (s : State) (c : BCmd) (a b : Int) : Int × Nat :=
  let (x, f) := satI32 (match c.op with | 1 => a + b | 2 => a - b | 3 => a * b | _ => a)
  c.acts.foldl (fun r k => let (y, g) := s.actI c k r.1; (y, r.2 ||| g)) (x, f)

/-- The result of one element of a floating-point command. -/
def State.beuF (s : State) (c : BCmd) (a b : Val) : Val × Nat :=
  let (x, f1) := match c.op with
    | 1 => a.add b
    | 2 => a.add b.negate
    | 3 => a.mul b
    | _ => (a, b2n a.sig)
  let (x, f2) := to32 false x
  c.acts.foldl (fun r k => let (y, g) := s.actF c k r.1; let (z, h) := to32 false y; (z, r.2 ||| g ||| h)) (x, f1 ||| f2)

/-- A source element as an integer, with OFFSET where set. -/
def BCmd.intIn (c : BCmd) (code : Nat) : Int :=
  let w := 8 * (beuWidth c.fmtIn).getD 1
  if c.offset then (code : Int) - 2 ^ (w - 1) else toSigned w code

/-- The code stored for one element, and its flags (R296 item 4). -/
def State.beuElem (s : State) (c : BCmd) (a b : Nat) : Nat × Nat :=
  let (v, f) :=
    if beuInt c.fmtIn then (let (x, f) := s.beuI c (c.intIn a) (c.intIn b); (Val.ofInt x, f))
    else s.beuF c (decodeElem c.fmtIn false (0, a)).1 (decodeElem c.fmtIn false (0, b)).1
  let (k, g) := storeOne c.fmtOut true false v
  (k, f ||| g)

/-- A code that is not zero: neither +0 nor −0 (R297). -/
def nonzeroCode (fmt code : Nat) : Bool := if beuInt fmt then code ≠ 0 else !((decodeElem fmt false (0, code)).1.isZero)

/-- What a command computes over given source bytes: the destination's bytes, NONZERO, the positions of poisoned elements, and
its flags. -/
structure BOut where
  data     : Bytes := []
  nonzero  : Nat := 0
  poisoned : List Nat := []
  fp       : Nat := 0
  deriving DecidableEq, Repr, Inhabited

def State.beuRun (s : State) (k : Nat) (c : BCmd) (a b : Bytes) : BOut :=
  let wi := (beuWidth c.fmtIn).getD 1
  let wo := (beuWidth c.fmtOut).getD 1
  let checked := getN (s.stk k).recompute c.channel
  let bad (i : Nat) : Bool := checked && c.sources.any fun r => s.poisoned (r.1 + i * wi) wi
  let xs := (List.range c.count).map fun i => (bad i, s.beuElem c (leAt a (i * wi) wi) (leAt b (i * wi) wi))
  { data := xs.flatMap fun x => leBytes wo x.2.1
    nonzero := (xs.filter fun x => !x.1 && nonzeroCode c.fmtOut x.2.1).length
    poisoned := indicesWhere (·.1) xs
    fp := fpJoin (xs.map (·.2.2)) }

/-- The bytes of a range, some of whole granules replaced. -/
def patched (a : Nat) (bs : Bytes) (gs : List (Nat × Bytes)) : Bytes :=
  bs.zipIdx.map fun x =>
    match gs.find? (·.1 == (a + x.2) / 32) with
    | some g => g.2.getD ((a + x.2) % 32) 0
    | none => x.1

/-- The granules of a range that another range overlaps. -/
def overlap (a b : Nat × Nat) : List Nat :=
  if rangesMeet a b then
    (let lo := max a.1 b.1 / 32; let hi := (min (a.1 + a.2) (b.1 + b.2) - 1) / 32; (List.range (hi + 1 - lo)).map (lo + ·))
  else []

/-- The granules that a LOOSE reader may read either way (R302): those overwritten since it started, each with its old bytes,
and those that an earlier command, still running, will write, each with its new bytes. -/
def State.either (s : State) (k : Nat) (r : BRun) : List (Nat × Bytes) :=
  if getN (s.stk k).strict r.cmd.channel then []
  else
    r.old ++ ((s.stk k).running.filter fun w => decide (w.order < r.order)).flatMap fun w =>
      w.cmd.dest.flatMap fun d =>
        let out := (s.beuRun k w.cmd (s.peekN w.cmd.srcA w.cmd.inBytes) (s.peekN w.cmd.srcB w.cmd.inBytes)).data
        (r.cmd.sources.flatMap fun x => overlap x d).map fun g =>
          (g, (List.range 32).map fun i =>
            if d.1 ≤ 32 * g + i then out.getD (32 * g + i - d.1) (s.peek (32 * g + i)) else s.peek (32 * g + i))

/-- Each such granule is taken or not, by a value the manual leaves open. -/
def chooseSome : List (Nat × Bytes) → State → List (Nat × Bytes) × State
  | [], s => ([], s)
  | g :: l, s =>
    let (v, s) := s.draw
    let (r, s) := chooseSome l s
    (if v % 2 = 1 then g :: r else r, s)

/-- A command's result, and the state after the open choices it makes. -/
def State.beuEval (k : Nat) (r : BRun) (s : State) : BOut × State :=
  let (gs, s) := chooseSome (s.either k r) s
  let c := r.cmd
  let a := patched c.srcA (s.peekN c.srcA c.inBytes) gs
  let b := if c.op = 0 then [] else patched c.srcB (s.peekN c.srcB c.inBytes) gs
  (s.beuRun k c a b, s)

/-- The destination written (R306): granules with a poisoned element become poison; a part of a poisoned granule is refused and
stays. -/
def State.beuStore (k : Nat) (c : BCmd) (o : BOut) (s : State) : State :=
  if c.countOnly then s
  else
    let checked := getN (s.stk k).recompute c.channel
    let n := o.data.length / 32 * 32
    let s := s.poke c.dst (o.data.take n)
    let s := if checked ∧ s.poisoned (c.dst + n) (o.data.length - n) then s else s.poke (c.dst + n) (o.data.drop n)
    let w := (beuWidth c.fmtOut).getD 1
    if checked then s.each o.poisoned fun i s => s.markPoison ((c.dst + i * w) / 32) else s

/-! ## Completions (R303) -/

/-- The journal OWNER of a command: stack and ring (19 Table 19.3; log entry 33). -/
def beuOwner (k : Nat) (bg : Bool) : Nat := 2 * k + b2n bg

/-- A completion entry posted once, the journal entry closed. -/
def State.beuPost (k : Nat) (bg hot : Bool) (c : BCmd) (status : Nat) (o : BOut) (s : State) : State :=
  let x := s.stk k
  let e := leBytes 4 c.tag ++ [byte status, byte o.fp, byte (c.channel % 16 + 16 * (k % 2) + flg bg 5 + flg hot 6), 0]
    ++ leBytes 4 o.nonzero ++ leBytes 4 o.poisoned.length
  let s := s.poke (x.cqBase + (x.cqHead + x.cq.length) % 512 * 16) e
  let s := s.onStack k fun x =>
    { x with cq := x.cq ++ [e], cmds := satInc x.cmds, poisonCmds := if status = 1 then satInc x.poisonCmds else x.poisonCmds,
             events := x.events ||| (if 2 ≤ status ∧ status ≤ 4 then 8 else 0) }
  s.jClose jBeu (beuOwner k bg) c.tag

/-- What the FIU does with the completion of a differencing command (R297, R315, 06 R175): the held slots are released, and the
count is kept while the frame waits for its final status. -/
def State.fiuDone (c : BCmd) (status : Nat) (o : BOut) (s : State) : State :=
  s.with c.frame fun f s =>
    let hold (q : Nat) (s : State) : State := s.onSlot f.1 q fun x => { x with beu := x.beu - 1 }
    let s := s.onStream f.1 fun x =>
      { x with pend := x.pend.map fun p =>
          if p.seq = f.2 ∧ status ≤ 1 then { p with changed := some o.nonzero, poisoned := p.poisoned || status == 1 } else p }
    let prev := ((s.strm f.1).hist.find? (fun h => serialAbove f.2 h.seq)).elim 0 (·.seq)
    hold prev (hold f.2 s)

/-- A command ends. -/
def State.beuEnd (k : Nat) (bg hot : Bool) (c : BCmd) (status : Nat) (o : BOut) (s : State) : State :=
  (s.beuPost k bg hot c status o).fiuDone c status o

/-! ## Stack faults (R314) -/

/-- A stack fault: every running or queued command completes with STACK_FAULT, and every verdict is VOID. -/
def State.stackFault (k : Nat) (s : State) : State :=
  let x := s.stk k
  if x.fault ∨ 2 ≤ k then s
  else
    let ring (bg : Bool) (r : BRing) : List (Bool × Bool × BCmd) := (r.fence.toList ++ r.queue).map fun c => (bg, x.hot, c)
    let all := x.running.map (fun r => (r.bg, r.hot || x.hot, r.cmd)) ++ ring false x.vp ++ ring true x.bg
    let s := s.onStack k fun x =>
      { x with fault := true, events := x.events ||| 32, running := [],
               vp := { x.vp with head := (x.vp.head + x.vp.queue.length) % 256, queue := [], fence := none },
               bg := { x.bg with head := (x.bg.head + x.bg.queue.length) % 256, queue := [], fence := none } }
    let s := s.each all fun c s => s.beuEnd k c.1 c.2.1 c.2.2 6 {}
    let s := s.evOpen 0x07 "STACK_FAULT" k 0
    s.settleWork

/-! ## Errors that a reader finds (R306, R307, R314, R322) -/

/-- A granule found uncorrectable is marked, counted and logged. -/
def State.uncorrectable (k g : Nat) (s : State) : State :=
  let s := s.markPoison g
  let s := s.onStack k fun x =>
    { x with eccUncorr := satInc x.eccUncorr, events := x.events ||| 1,
             uncorrAt := s.now :: x.uncorrAt.filter fun i => decide (s.now < i + sec) }
  s.evOpen 0x07 "ECC_UNCORR" k (g * 32)

/-- A granule of stack `k` stores check bits: its channel is MEM or RECOMPUTE (R293). -/
def Stack.guards (k : Nat) (x : Stack) (g : Nat) : Bool :=
  let c := stackChan (g * 32)
  inStack k (g * 32, 32) && (!(getN x.proc c) || getN x.recompute c)

/-- What a reader of stack `k` finds: corrected granules are counted; uncorrectable ones that hold no poison yet become poison; more
than 64 of them within 1 s are a stack fault. -/
def State.readErrors (k corrected : Nat) (bad : List Nat) (s : State) : State :=
  let s := s.onStack k fun x => { x with eccCorr := satAdd 32 x.eccCorr corrected }
  let s := s.each bad fun g s => if s.poison.contains g ∨ !(s.stk k).guards k g then s else s.uncorrectable k g
  if 64 < (s.stk k).uncorrAt.length then s.stackFault k else s

/-- A granule lies in one of some ranges. -/
def granIn (l : List (Nat × Nat)) (g : Nat) : Bool := l.any fun r => rangesMeet r (g * 32, 32)

/-! ## Submission and dispatch (R299 to R302, R311) -/

/-- A command whose 64 bytes are written to a ring and made visible: its journal entry opens, and the stack leaves self-refresh. -/
def State.beuSubmit (k : Nat) (bg : Bool) (c : BCmd) (raw : Bytes) (s : State) : State :=
  let r := (s.stk k).ring bg
  if 255 ≤ r.queue.length then s
  else
    let s := s.poke (r.base + (r.head + r.queue.length) % 256 * 64) raw
    let s := s.onStack k fun x => x.awake.onRing bg fun r => { r with queue := r.queue ++ [c] }
    let s := s.jOpen jBeu (beuOwner k bg) c.tag (zeros 6)
    if (s.stk k).fault then
      (s.onStack k fun x => x.onRing bg fun r => { r with head := (r.head + r.queue.length) % 256, queue := [] }).beuEnd k bg
        (s.stk k).hot c 6 {}
    else s

/-- The stacks work: the die runs outside OFF and DOLDRUMS. -/
def State.beuOn (k : Nat) (s : State) : Bool :=
  s.sup.on && !s.sup.thermal && decide (k < 2) && s.sys.state != .off && s.sys.state != .doldrums

/-- A tail write by the SP makes the commands that stand in the ring up to the new tail visible (R299, R321). -/
def State.beuTail (k : Nat) (bg : Bool) (tail : Nat) (s : State) : State :=
  let r := (s.stk k).ring bg
  let t := r.head + r.queue.length
  s.each (List.range ((tail % 256 + 256 - t % 256) % 256)) fun i s =>
    let b := s.peekN (r.base + (t + i) % 256 * 64) 64
    s.beuSubmit k bg (BCmd.parse b) b

/-- BEU_CMD_SUBMIT (R299). -/
def execBeuCmdSubmit (t stack : Nat) (bg : Bool) (cmd : Bytes) (s : State) : Host.Outcome State Fault Refusal :=
  finish t s fun s => s.when (s.beuOn stack) (State.beuSubmit stack bg (BCmd.parse (padTo 64 cmd)) (padTo 64 cmd))

/-- The executing channel drains, or has drained, toward MEM, so a command that names it cannot start (R309). -/
def Stack.leaves (x : Stack) (c : Nat) : Bool :=
  let draining := x.swPhase != 0 && x.swChannel == c
  if draining then !x.swProc else !(getN x.proc c)

/-- A command at a ring head is ready (R300, R302). -/
def Stack.ready (x : Stack) (c : BCmd) : Bool :=
  let free := getN x.proc c.channel && !(x.swPhase != 0 && x.swChannel == c.channel) && !(x.running.any fun r => r.cmd.channel == c.channel)
  let stall := getN x.strict c.channel && x.running.any fun r => r.cmd.dest.any fun d => c.sources.any (rangesMeet d)
  free && !stall

/-- What the head of a ring does now: nothing, take a fence, complete at once with a status, or start. -/
inductive HeadAct where
  | wait
  | fence
  | finish (status : Nat)
  | start
  deriving DecidableEq, Repr

def State.headAct (k : Nat) (bg : Bool) (s : State) : HeadAct :=
  let x := s.stk k
  let r := x.ring bg
  match r.fence, r.queue with
  | some _, _ => .wait
  | none, [] => .wait
  | none, c :: _ =>
    if s.cmdError k c then .finish 3
    else if c.kind = 2 then .fence
    else if x.protects k c then .finish 2
    else if (s.cmdWall c).isSome then .finish 4
    else if x.leaves c.channel then .finish 5
    else if x.ready c then .start
    else .wait

/-- The head of a ring taken. -/
def State.takeHead (k : Nat) (bg : Bool) (s : State) : State :=
  s.onStack k fun x => x.onRing bg fun r => { r with queue := r.queue.drop 1, head := (r.head + 1) % 256 }

/-- BEU_CMD_START (R298, R300, R302, R309): the head of VP first; BG only while VP's head is not ready. -/
def execBeuCmdStart (t stack : Nat) (bg : Bool) (s : State) : Host.Outcome State Fault Refusal :=
  finish t s fun s =>
    let x := s.stk stack
    if !s.beuOn stack ∨ x.fault ∨ x.selfRefresh ∨ (bg ∧ s.headAct stack false ≠ .wait) then s
    else
      match (x.ring bg).queue with
      | [] => s
      | c :: _ =>
        match s.headAct stack bg with
        | .wait => s
        | .fence => (s.takeHead stack bg).onStack stack fun x => x.onRing bg fun r => { r with fence := some c }
        | .finish st =>
          let s := s.takeHead stack bg
          let s := if st = 4 then s.with (s.cmdWall c) fun w s => s.refuse c.ident w.1 w.2.2 w.2.1 else s
          (s.beuEnd stack bg x.hot c st {}).settleWork
        | .start =>
          (s.takeHead stack bg).onStack stack fun x =>
            { x with order := x.order + 1,
                     running := x.running ++ [{ cmd := c, bg := bg, order := x.order, start := s.now, hot := x.hot }] }

/-- Running LOOSE readers keep the old bytes of what a command is about to write (R302). -/
def State.keepOld (k : Nat) (w : BRun) (s : State) : State :=
  let keep (r : BRun) : List (Nat × Bytes) :=
    if r.order ≤ w.order then []
    else (w.cmd.dest.flatMap fun d => r.cmd.sources.flatMap fun x => overlap x d).map fun g => (g, s.peekN (32 * g) 32)
  s.onStack k fun x => { x with running := x.running.map fun r => { r with old := r.old ++ keep r } }

/-- The command that runs on a channel ends with its result. -/
def State.beuFinish (k : Nat) (r : BRun) (s : State) : State :=
  let s := s.keepOld k r
  let (o, s) := s.beuEval k r
  let s := s.beuStore k r.cmd o
  let s := s.onStack k fun x => { x with running := x.running.filter fun y => y.order != r.order }
  ((s.beuEnd k r.bg (r.hot || (s.stk k).hot) r.cmd (if o.poisoned.isEmpty then 0 else 1) o).latency 0x06 k
    (s.now - r.start)).settleWork

/-- BEU_CMD_COMPLETE (R296, R297, R303, R306): the command that runs on a channel ends. -/
def execBeuCmdComplete (t stack : Nat) (x : BeuEnd) (s : State) : Host.Outcome State Fault Refusal :=
  finish t s fun s =>
    match (s.stk stack).running.find? (fun r => r.cmd.channel == x.channel) with
    | none => s
    | some r =>
      if !s.beuOn stack then s
      else
        let s := s.readErrors stack x.corrected (x.bad.filter (granIn (r.cmd.sources ++ r.cmd.tables)))
        if (s.stk stack).fault then s else s.beuFinish stack r

/-- BEU_FENCE_COMPLETE (R301): every earlier command of its ring has completed. -/
def execBeuFenceComplete (t stack : Nat) (bg : Bool) (s : State) : Host.Outcome State Fault Refusal :=
  finish t s fun s =>
    let x := s.stk stack
    match (x.ring bg).fence with
    | none => s
    | some c =>
      if !s.beuOn stack ∨ x.running.any (fun r => r.bg == bg) then s
      else
        let s := s.onStack stack fun x => x.onRing bg fun r => { r with fence := none }
        (s.beuEnd stack bg x.hot c 0 {}).settleWork

/-! ## Channel switching (R304, R305) -/

/-- BEU_SWITCH_GO (R304, R305, R320): the SP's write of BEU_Sn_SWITCH. Its fields are stored, during a switch too, which goes on with
those it was started with (DESIGN CHOICE, log entry 63); with GO the switch starts, or is refused outside START, beside another
switch, or above eight PROC channels. -/
def execBeuSwitchGo (t stack v : Nat) (s : State) : Host.Outcome State Fault Refusal :=
  finish t s fun s =>
    if !s.beuOn stack then s
    else
      let x := s.stk stack
      let c := bits v 0 4
      let many := bit v 4 && !(getN x.proc c) && decide (8 ≤ (x.proc.filter id).length)
      let ok := s.sys.state = .start ∧ x.swPhase = 0 ∧ !many
      let s := s.onStack stack fun x =>
        { x with swReg := bits v 0 7, swDone := x.swDone && !bit v 11, swRefused := x.swRefused && !bit v 12 }
      if !bit v 8 then s
      else if ok then
        s.onStack stack fun x => { x with swChannel := c, swProc := bit v 4, swCheck := bit v 5, swVis := bit v 6, swPhase := 1 }
      else s.onStack stack fun x => { x with swRefused := true }

/-- BEU_SWITCH_DRAIN_COMPLETE (R304): accepted accesses, or the running command, have completed. -/
def execBeuSwitchDrainComplete (t stack : Nat) (s : State) : Host.Outcome State Fault Refusal :=
  finish t s fun s =>
    let x := s.stk stack
    s.when (s.beuOn stack && x.swPhase == 1 && !(x.running.any fun r => r.cmd.channel == x.swChannel))
      (State.onStack stack fun x => { x with swPhase := 2 })

/-- A channel's mode changes. -/
def Stack.setMode (c : Nat) (proc check vis : Bool) (x : Stack) : Stack :=
  { x with proc := setN x.proc c proc, recompute := setN x.recompute c (proc && check), strict := setN x.strict c (proc && vis) }

/-- BEU_SWITCH_FENCE_COMPLETE (R304): the switch phase begins with the mode bit's change; toward MEM, an OPAQUE channel has been filled
with zero before. -/
def execBeuSwitchFenceComplete (t stack : Nat) (s : State) : Host.Outcome State Fault Refusal :=
  finish t s fun s =>
    let x := s.stk stack
    if s.beuOn stack ∧ x.swPhase = 2 then
      let opaque_ := getN x.proc x.swChannel && !(getN x.recompute x.swChannel)
      let s := if !x.swProc ∧ opaque_ then s.wipe (stackBase stack + x.swChannel * 0x40000000) 0x40000000 else s
      s.onStack stack fun x => { x.setMode x.swChannel x.swProc x.swCheck x.swVis with swPhase := 3 }
    else s

/-- BEU_SWITCH_COMPLETE (R304): the BEU group has powered up or down. -/
def execBeuSwitchComplete (t stack : Nat) (s : State) : Host.Outcome State Fault Refusal :=
  finish t s fun s =>
    s.when (s.beuOn stack && (s.stk stack).swPhase == 3)
      (State.onStack stack fun x => { x with swPhase := 0, swDone := true })

/-! ## Scrub, temperature and faults (R294, R306, R307, R313, R314) -/

/-- The next block to scrub after an offset: OPAQUE channels are skipped; none at the end of the stack. -/
def Stack.nextBlock (x : Stack) (o : Nat) : Option Nat :=
  let c := o / 0x40000000
  let skip (n : Nat) : Bool := getN x.proc n && !(getN x.recompute n)
  if 16 ≤ c then none
  else if skip c then ((List.range 16).find? fun n => decide (c < n) && !skip n).map (· * 0x40000000)
  else some o

/-- A pass of the stack is complete: its length is kept, and the background activity has run once the other stack has completed
one too (17 Table 17.4). -/
def State.scrubPass (k : Nat) (s : State) : State :=
  let s := s.onStack k fun x =>
    { x with passS := min ((s.now - x.passFrom.getD s.now) / sec) (2 ^ 32 - 1), scrubAt := s.now, passFrom := none }
  if (getN s.psm.bg 0).from_ < (s.stk (1 - k)).scrubAt then s.bgDone 0 else s

/-- The pointer moves to the next block; at the end of the stack the pass is complete. -/
def State.scrubNext (k o : Nat) (s : State) : State :=
  match (s.stk k).nextBlock (o + 4096) with
  | some n => s.onStack k fun x => { x with scrubPtr := stackBase k + n }
  | none => (s.onStack k fun x => { x with scrubPtr := stackBase k }).scrubPass k

/-- The block at an offset scrubbed, and the pointer moved on. -/
def State.scrubBlock (k corrected : Nat) (bad : List Nat) (o : Nat) (s : State) : State :=
  let b := (stackBase k + o) / 4096
  let s := s.onStack k fun x => { x with passFrom := some (x.passFrom.getD s.now) }
  (s.scrubNext k o).readErrors k corrected (bad.filter fun g => decide (g / 128 = b))

/-- The stack can be scrubbed: it works, has been swept and is out of self-refresh. -/
def State.scrubOn (k : Nat) (s : State) : Bool :=
  s.beuOn k && !(s.stk k).fault && (s.stk k).swept && !(s.stk k).selfRefresh

/-- SCRUB_STEP (R307, R308): one block of 4 KiB; `bad` are granules of it found uncorrectable. -/
def execScrubStep (t stack corrected : Nat) (bad : List Nat) (s : State) : Host.Outcome State Fault Refusal :=
  finish t s fun s =>
    s.when (s.scrubOn stack) fun s =>
      s.with ((s.stk stack).nextBlock (max (s.stk stack).scrubPtr (stackBase stack) - stackBase stack)) fun o s =>
        s.scrubBlock stack corrected bad o

/-- STACK_TEMP_CHANGE (R294, R310, R314). In self-refresh HOT waits for the exit (17 Table 17.5). -/
def execStackTempChange (t stack celsius : Nat) (s : State) : Host.Outcome State Fault Refusal :=
  finish t s fun s =>
    if s.sup.on ∧ stack < 2 then
      let heat := decide (95 < celsius) && !(s.stk stack).selfRefresh
      let s := s.onStack stack fun x =>
        { x with
          temp := min celsius 255
          hot := x.hot || heat
          events := x.events ||| (if !x.hot ∧ heat then 2 else 0)
          running := x.running.map fun r => { r with hot := r.hot || heat }
          coolAt := if 90 < celsius then none else (match x.coolAt with | some i => some i | none => some s.now) }
      if 105 < celsius then s.stackFault stack else s
    else s

/-- STACK_COOL_EXPIRY (R294): at or below 90 °C for 10 ms. -/
def execStackCoolExpiry (t stack : Nat) (s : State) : Host.Outcome State Fault Refusal :=
  finish t s fun s =>
    s.when (s.pastOpt (s.stk stack).coolAt (10 * ms)) (State.onStack stack fun x => { x with hot := false })

/-- STACK_TRAINING_LOSS (R314). -/
def execStackTrainingLoss (t stack : Nat) (s : State) : Host.Outcome State Fault Refusal :=
  finish t s fun s => s.when (s.beuOn stack && (s.stk stack).swept) (State.stackFault stack)

end Sys2Proof.Machine
end

