-- ==== Sys2Proof/Machine/Intake.lean ====
section
/-! DEFINITION. Frame intake (06): acceptance, sealing, the frozen and replay checks, the stream states and delivery. -/

namespace Sys2Proof.Machine

/-! ## Drops (R164) -/

/-- A stream takes frames: it is enabled, and the die runs. -/
def State.streamOn (n : Nat) (s : State) : Bool :=
  s.sup.on && !s.sup.thermal && decide (n < 16) && (s.strm n).state != .off && (s.img.stream n).isSome

/-- The open journal entry of a frame in intake closed as failed, and the drop counted. -/
def State.frameDrop (n : Nat) (s : State) : State :=
  let s := s.jClose jFrame n 0
  s.onStream n fun x =>
    { x with intake := none, dropBefore := true, drop := satInc x.drop, events := x.events ||| 4 }

/-- A ring slot that nothing holds (R175). -/
def RingSlot.idle (k : RingSlot) : Bool := !k.fgu && k.beu == 0 && !k.delivery

/-- The position of the slot the next frame takes: an empty one, else the one with the oldest frame that nothing holds. -/
def Stream.slotFor (x : Stream) : Option Nat :=
  match x.ring.findIdx? (fun k => k.seq == 0) with
  | some i => some i
  | none =>
    (indicesWhere RingSlot.idle x.ring).foldl (fun a i => match a with
      | some j => if serialAbove (getN x.ring j).seq (getN x.ring i).seq then some i else a
      | none => some i) none

/-- FRAME_START (R164, R66): a Frame Start or leader. A frame still in intake is dropped; a frame that finds every slot held is
dropped at once. -/
def execFrameStart (t stream : Nat) (s : State) : Host.Outcome State Fault Refusal :=
  finish t s fun s =>
    if !s.streamOn stream then s
    else
      let s := if (s.strm stream).intake.isSome then s.frameDrop stream else s
      let s := s.onStack 0 Stack.awake
      let s := s.jOpen jFrame stream 0 (leBytes 6 s.dev)
      let r := (s.img.stream stream).getD {}
      let edge := if bit r.flags 0 then (getN s.clk.trigs r.trig).last else none
      let s := s.onStream stream fun x => { x with intake := some { stamp := s.dev, trigger := edge } }
      if (s.strm stream).slotFor.isNone then s.frameDrop stream else s

/-! ## FROZEN and LOST (R181) -/

/-- The channels whose record names a stream. -/
def Image.naming (n : Nat) (i : Image) : List Nat := (i.channels.filter fun r => bit r.streams n).map (·.ch)

/-- A stream becomes FROZEN (R174, R176, R181). -/
def State.freeze (n cause seq : Nat) (s : State) : State :=
  match (s.strm n).state with
  | .off | .frozen => s
  | _ =>
    let s := s.onStream n fun x =>
      { x with state := .frozen, cause := cause, good := 0, frozenCnt := satInc x.frozenCnt, events := x.events ||| 1,
               lostMark := true }
    let s := (s.unbuffer n).ev 0x0301 3 n (cause + fld seq 32 32)
    let s := s.each (s.img.naming n) fun c s => s.chFault c 9
    (s.fguFrozen n).vrdFrozen n

/-! ## Sealing (R164 to R169, R171, 18 R504) -/

/-- The capture time of a frame (03 R71): of a GigE Vision stream its leader's stamp, triggered or not. A triggered CSI-2 stream whose trigger has had no edge has no stated capture time: a free
value. -/
def State.captureTime (r : StreamRec) (i : Intake) (s : State) : Nat × State :=
  if r.path = 0 ∧ bit r.flags 0 then
    match i.trigger with
    | some e => (e + r.offset, s)
    | none => let (v, s) := s.draw; (v % 2 ^ 64, s)
  else (i.stamp - r.offset, s)

/-- The seal's 24 bytes (Table 6.2). -/
def sealBytes (stream : Nat) (x : SealRec) : Bytes :=
  leBytes 4 x.seq ++ [byte stream, byte x.flags, 0, 0] ++ leBytes 8 x.capture ++ leBytes 4 x.crc ++ zeros 4

/-- Check 1 fails (Table 6.3). The camera's counter is missing, is a forbidden 0, or has not advanced. -/
def headerFails (kind : Nat) (prev now : Option Nat) : Bool :=
  if kind = 0 then false
  else
    let m := if kind = 1 then 65535 else if kind = 2 then 65536 else 2 ^ 64
    match now, prev with
    | none, _ => true
    | some v, none => kind == 1 && v == 0
    | some v, some p =>
      let d := (v + m - p % m) % m
      (kind == 1 && v == 0) || !(decide (1 ≤ d ∧ d ≤ m / 2))

/-- The base and length of the frame forensic ring (18 R504). -/
def fringBase : Nat := stackBase 0 + 2 * 0x40000000
def State.fringSize (s : State) : Nat := s.img.monitors.fringGib * 0x40000000

/-- A sealed frame written to the frame forensic ring, where its stream is declared and its turn has come. -/
def State.fringWrite (n : Nat) (x : SealRec) (payload : Bytes) (s : State) : State :=
  let m := s.img.monitors
  if !bit m.fringStreams n then s
  else if (s.strm n).decim + 1 < m.decimate then s.onStream n fun y => { y with decim := y.decim + 1 }
  else
    let len := 64 + roundUp payload.length 4096
    let at_ := if s.fringSize < s.log.fringAt + len then 0 else s.log.fringAt
    let head := ascii "FRMF" ++ leBytes 4 payload.length ++ sealBytes n x ++ leBytes 8 s.log.fringNext ++ leBytes 4 x.crc ++ zeros 16
    let s := (s.onStream n fun y => { y with decim := 0 }).poke (fringBase + at_) (withCrc head ++ payload)
    s.onLog fun l =>
      { l with
        fring := (l.fring.filter fun e => !(decide (e.at_ < at_ + len ∧ at_ < e.at_ + e.len)))
          ++ [{ seq := l.fringNext, at_ := at_, len := len }]
        fringNext := (l.fringNext + 1) % 2 ^ 64
        fringAt := at_ + len }

/-- The MS0 channels that run check 3: the plan's, or channel 15 under the default plan (11 R305, R317). -/
def State.fiuChannels (s : State) : List Nat :=
  let m := if s.cfg.admitted then (s.img.plans.find? (·.stack == 0)).elim 0 (·.fiu) else 0x8000
  (List.range 16).filter fun c => bit m c

/-- The channel that the next differencing command takes: the lowest idle one, else the lowest. -/
def State.fiuChannel (s : State) : Nat :=
  let busy (c : Nat) : Bool := let k := s.stk 0
    (k.running.any fun r => r.cmd.channel == c) || k.vp.queue.any fun x => x.channel == c
  (s.fiuChannels.find? fun c => !busy c).getD (s.fiuChannels.headD 15)

/-- The differencing command of check 3 (R171, 11 R297): both slots are held until it completes. -/
def State.issueDiff (n : Nat) (r : StreamRec) (prev seq : Nat) (s : State) : State :=
  match s.slotOf n prev, s.slotOf n seq with
  | some a, some b =>
    let w := if r.elem = 1 then 2 else 1
    let c : BCmd :=
      { kind := 1, op := 2, fmtIn := if r.elem = 1 then 0x0D else 0x0E, fmtOut := 0x0D, acts := [2, 4, 0], flags := 3,
        tag := n * 2 ^ 28 + seq % 2 ^ 28, ident := 512, channel := s.fiuChannel, srcA := s.slotAddr n b,
        srcB := s.slotAddr n a, count := r.frameBytes / w, params := [0, 0, r.elemThresh, 0], frame := some (n, seq) }
    let hold (q : Nat) (s : State) : State := s.onSlot n q fun x => { x with beu := x.beu + 1 }
    (hold seq (hold prev s)).beuSubmit 0 false c c.bytes
  | _, _ => s

/-- The buffers that host software has posted for a stream and no queued frame will take. -/
def State.posted (n : Nat) (s : State) : Nat :=
  let d := getN s.hq.rings n
  if d.en then (d.tail + 2 ^ d.sizeLog - d.head) % 2 ^ d.sizeLog - (s.strm n).deliver.length else 0

/-- A sealed frame of a LIVE stream queued for delivery, or counted as skipped (R169). -/
def State.queueDelivery (n : Nat) (r : StreamRec) (seq : Nat) (s : State) : State :=
  if (s.strm n).state ≠ .live ∨ !bit r.flags 2 then s
  else if s.linkUp ∧ 0 < s.posted n then
    (s.onSlot n seq fun k => { k with delivery := true }).onStream n fun x => { x with deliver := x.deliver ++ [seq] }
  else s.onStream n fun x => { x with skip := satInc x.skip }

/-- The frame sealed: sequence, history, ring slot, checks 1 and 2, forensic copy, delivery and differencing. -/
def State.sealFrame (n slot : Nat) (r : StreamRec) (i : Intake) (f : FrameIn) (s : State) : State :=
  let x := s.strm n
  let (cap, s) := s.captureTime r i
  let seq := serialNext x.seq
  let crc := crc32c f.payload
  let rec_ : SealRec :=
    { seq := seq, flags := flg x.dropBefore 0 + flg (x.state != .live) 1, capture := cap, crc := crc }
  let prev := x.hist.head?
  let cause := if headerFails r.hdrCounter x.header f.header then 1 else if x.crcs.contains crc then 2 else 0
  let s := s.poke (s.slotAddr n slot) f.payload
  let s := s.jMod jFrame n 0 fun e => { e with seq := seq }
  let s := s.onRet fun u => { u with streams := setN u.streams n seq }
  let s := if seq % 2 ^ 20 = 0 then s.onNvm fun v => { v with cpStream := setN v.cpStream n seq, cpWrites := v.cpWrites + 1 } else s
  let s := s.onStream n fun x =>
    { x with
      intake := none, dropBefore := false, seq := seq, capture := cap, sealAt := s.dev
      hist := (rec_ :: x.hist).take 2048
      crcs := (crc :: x.crcs).take 4
      header := if r.hdrCounter = 0 then x.header else f.header
      ring := setN x.ring slot { seq := seq }
      pend := x.pend ++ [{ seq := seq, endDev := s.dev, capture := cap, prevCap := prev.map (·.capture), cause := cause,
                           changed := none, poisoned := false }]
      state := if x.state = .lost then .recovering else x.state
      good := if x.state = .lost then 0 else x.good }
  let s := if cause = 0 then s else s.freeze n cause seq
  let s := (s.fringWrite n rec_ f.payload).queueDelivery n r seq
  s.with prev fun p s => s.issueDiff n r p.seq seq

/-- FRAME_END (R164, R165, R170, R182): the frame is sealed, or dropped. -/
def execFrameEnd (t stream : Nat) (f : FrameIn) (s : State) : Host.Outcome State Fault Refusal :=
  finish t s fun s =>
    let x := s.strm stream
    match s.img.stream stream, x.intake with
    | some r, some i =>
      if !s.streamOn stream then s
      else
        let bad := f.error || f.payload.length != r.frameBytes || x.cvuLost || i.lost || (s.stk 0).fault
        match x.slotFor with
        | some k => if bad then s.frameDrop stream else (s.sealFrame stream k r i f).settleWork
        | none => s.frameDrop stream
    | _, _ => s

/-! ## Final status (R170 to R174, R177) -/

/-- Check 4 (R173): whether the mount moved between two captures; none where a pose is missing. -/
def State.mountMoved (r : StreamRec) (a b : Nat) (s : State) : Option Bool :=
  match s.poseAt r.mount a, s.poseAt r.mount b with
  | some p, some q => some (!FinePose.still r.moveUm r.moveUrad p q)
  | _, _ => none

/-- What the checks give a frame: becalmed, moved, the cause that freezes the stream, and whether check 3 gave a count. -/
structure CheckOut where
  calm      : Bool
  egoMiss   : Bool
  cause     : Nat
  evaluated : Bool
  unchecked : Bool
  deriving DecidableEq, Repr

def State.finalChecks (n : Nat) (r : StreamRec) (p : PendFinal) (s : State) : CheckOut :=
  let first := p.prevCap.isNone
  let evaluated := !first && p.changed.isSome && !p.poisoned
  let calm := evaluated && decide (p.changed.getD 0 < r.minChanged)
  let moved := match p.prevCap with
    | some c => if r.mount = 0 then some false else s.mountMoved r c p.capture
    | none => some false
  let k := if calm then min 64 ((s.strm n).calm + 1) else 0
  let cause := if p.cause ≠ 0 then p.cause
    else if calm && moved == some true then 4
    else if calm && decide (r.k ≤ k) then 3
    else 0
  { calm := calm, egoMiss := moved.isNone, cause := cause, evaluated := evaluated,
    unchecked := !first && p.changed.isNone && !p.poisoned }

/-- The stream state after a frame's final status (Table 6.4). -/
def Stream.afterFrame (good : Bool) (x : Stream) : Stream :=
  match x.state with
  | .recovering =>
    if good then
      (if 4 ≤ x.good + 1 then { x with state := .live, good := 4, lostMark := false } else { x with good := x.good + 1 })
    else { x with good := 0 }
  | .frozen => if good then { x with state := .recovering, good := 1 } else x
  | _ => x

/-- The status a frame leaves in the history. -/
def CheckOut.status (o : CheckOut) (p : PendFinal) : SealSt :=
  if p.poisoned || o.unchecked then .poisoned
  else if o.cause = 1 ∨ o.cause = 2 ∨ o.cause = 4 then .failed
  else if o.calm then .calm
  else .good

/-- A frame reaches its final status. -/
def State.finalStatus (n : Nat) (r : StreamRec) (p : PendFinal) (s : State) : State :=
  let o := s.finalChecks n r p
  let st := o.status p
  let good := o.cause == 0 && o.evaluated && !o.calm
  let s := s.onStream n fun x =>
    { x with
      pend := x.pend.filter (·.seq != p.seq)
      hist := x.hist.map fun h => if h.seq = p.seq then { h with status := st } else h
      calm := if o.calm then min 64 (x.calm + 1) else if o.evaluated then 0 else x.calm
      changed := if o.evaluated then p.changed.getD 0 else x.changed
      events := x.events ||| (if o.egoMiss then 8 else 0) }
  let s := if o.unchecked then s.onStack 0 fun k => { k with events := k.events ||| 16 } else s
  let s := if o.cause = 3 ∨ o.cause = 4 then s.freeze n o.cause p.seq else s.onStream n (Stream.afterFrame good)
  let keep := (s.strm n).state == .live && s.members.contains n && (st == .good || st == .calm)
  let s := if keep then s.bufferIn n p.seq else s
  let s := if s.members.contains n then s.tryClose else s
  let s := s.latency 0x03 n (s.dev - p.endDev)
  if (s.strm n).deliver.contains p.seq then s else s.jClose jFrame n p.seq

/-- CHECK_FINAL_STATUS (R170): the oldest frame whose final-status instant has come. -/
def execCheckFinalStatus (t stream : Nat) (s : State) : Host.Outcome State Fault Refusal :=
  finish t s fun s =>
    match s.img.stream stream, (s.strm stream).pend with
    | some r, p :: _ => if s.streamOn stream ∧ p.due r ≤ s.dev then (s.finalStatus stream r p).settleWork else s
    | _, _ => s

/-- A stream becomes LOST (R174, R181). -/
def State.loseStream (n : Nat) (s : State) : State :=
  let s := s.onStream n fun x => { x with state := .lost, good := 0, events := x.events ||| 2, lostMark := true }
  let s := (s.unbuffer n).evOpen 0x03 "STREAM_LOST" n (fld (s.strm n).seq 32 32)
  (s.each (s.img.naming n) fun c s => s.chFault c 9).settleWork

/-- STREAM_STALL_EXPIRY (R174, R178, R181): no sealed frame for STALL × PERIOD after the last seal. -/
def execStreamStallExpiry (t stream : Nat) (s : State) : Host.Outcome State Fault Refusal :=
  finish t s fun s =>
    match s.img.stream stream with
    | none => s
    | some r =>
      let x := s.strm stream
      if s.streamOn stream ∧ x.state ≠ .lost ∧ x.sealAt + r.stall * r.period ≤ s.dev then s.loseStream stream else s

/-! ## Delivery (R169, 16 R457) -/

/-- The delivery of a frame ends: its slot is free, and its journal entry closes once its status is final. -/
def State.deliveryEnd (n seq : Nat) (s : State) : State :=
  let s := (s.onSlot n seq fun k => { k with delivery := false }).onStream n fun x => { x with deliver := x.deliver.filter (· != seq) }
  if (s.strm n).pend.any (·.seq == seq) then s else s.jClose jFrame n seq

/-- The head buffer consumed: its completion, HEAD and the signal of VECTOR. -/
def State.deliveryDone (n seq bytes : Nat) (ok : Bool) (s : State) : State :=
  let d := getN s.hq.rings n
  let s := s.send (.hostWrite (d.base + d.head * 16)
    (leBytes 4 seq ++ [byte (flg ok 0 + flg d.phase 7), 0, 0, 0] ++ leBytes 4 bytes ++ zeros 4))
  let wrap := d.head + 1 = 2 ^ d.sizeLog
  let s := s.onRing n fun d => { d with head := if wrap then 0 else d.head + 1, phase := if wrap then !d.phase else d.phase }
  s.msiPost d.vector

/-- FRAME_DELIVERY_COMPLETE (R169, 16 R457): the oldest queued frame goes to the buffer at the ring's head. -/
def execFrameDeliveryComplete (t stream : Nat) (b : BufDesc) (s : State) : Host.Outcome State Fault Refusal :=
  finish t s fun s =>
    match s.img.stream stream, (s.strm stream).deliver with
    | some r, seq :: _ =>
      let skip (s : State) : State := s.onStream stream fun x => { x with skip := satInc x.skip }
      let d := getN s.hq.rings stream
      if !s.streamOn stream then s
      else if !s.linkUp ∨ !d.en ∨ d.head = d.tail then (skip s).deliveryEnd stream seq
      else if b.length < r.frameBytes + 32 then
        ((skip s).deliveryDone stream seq 0 false).deliveryEnd stream seq
      else
        let x := ((s.strm stream).hist.find? (·.seq == seq)).getD default
        let pay := s.peekN (s.slotAddr stream ((s.slotOf stream seq).getD 0)) r.frameBytes
        let head := withCrc (sealBytes stream x ++ leBytes 4 r.frameBytes)
        let s := (s.send (.hostWrite (b.addr + 32) pay)).send (.hostWrite b.addr head)
        (s.deliveryDone stream seq r.frameBytes true).deliveryEnd stream seq
    | _, _ => s

end Sys2Proof.Machine
end

