-- ==== Sys2Proof/Machine/Parse.lean ====
section
/-! DEFINITION. A Windrose image's bytes read as the records of its sections (05 R128, R129 and the record tables of the
owning chapters). -/

namespace Sys2Proof.Machine

/-! ## Helpers -/

/-- `n` records of `size` bytes from an offset on. -/
def records (b : Bytes) (o n size : Nat) : List Bytes := (List.range n).map fun i => sub b (o + i * size) size

/-- Every range given (offset, length) holds zeros. -/
def resOk (b : Bytes) (l : List (Nat × Nat)) : Bool := l.all fun x => allZero (sub b x.1 x.2)

/-- `n` signed 32-bit fields from an offset on (FX32). -/
def fx32s (b : Bytes) (o n : Nat) : List Int := (List.range n).map fun i => toSigned 32 (leAt b (o + 4 * i) 4)

/-- One signed 32-bit field. -/
def fx32 (b : Bytes) (o : Nat) : Int := toSigned 32 (leAt b o 4)

/-! ## Header (Table 5.1) -/

/-- A directory entry. -/
def DirEntry.parse (b : Bytes) : DirEntry :=
  { ty := leAt b 0 1, ofs := leAt b 4 4, len := leAt b 8 4, hash := sub b 16 32, reserved := resOk b [(1, 3), (12, 4)] }

/-- The HEADER section. -/
def Header.parse (b : Bytes) : Header :=
  { magic := sub b 0 4, format := leAt b 4 2, dirCount := leAt b 6 2, imageSize := leAt b 8 4, version := leAt b 12 4,
    imageId := leAt b 16 8, target := leAt b 24 2, minFw := leAt b 26 2, rosebind := leAt b 28 4, buildTime := leAt b 32 8,
    weightSize := leAt b 40 4, weightHash := sub b 48 32, dir := (records b 80 12 48).map DirEntry.parse,
    reservedOk := resOk b [(44, 4), (656, 112)] }

/-- The bytes of a section by its type. -/
def sectionOf (h : Header) (b : Bytes) (ty : Nat) : Bytes :=
  match h.dir.find? (·.ty == ty) with
  | some e => sub b e.ofs e.len
  | none => []

/-! ## Records -/

def Claim.parse (b : Bytes) : Claim := { kind := leAt b 0 1, subject := leAt b 2 2, value := leAt b 8 8 }

def ChanRec.parse (b : Bytes) : ChanRec :=
  { ch := leAt b 0 2, queue := leAt b 2 1, flags := leAt b 3 1, streams := leAt b 4 2, reqId := leAt b 6 2, pasid := leAt b 8 4,
    rateMhz := leAt b 12 4, ageMs := leAt b 16 2, aliveWindow := leAt b 18 2, aliveMin := leAt b 20 2, aliveMax := leAt b 22 2,
    deadlineUs := leAt b 24 4, startCp := leAt b 28 1, endCp := leAt b 29 1, budgetPeriod := leAt b 30 2,
    budgetUs := leAt b 32 4, order := (List.range 16).map fun i => leAt b (48 + 2 * i) 2 }

def Rule.parse (b : Bytes) : Rule :=
  { ident := leAt b 0 2, kind := leAt b 2 1, perm := leAt b 3 1, base := leAt b 4 5, pages := leAt b 10 4 }

def StackPlan.parse (b : Bytes) : StackPlan :=
  { stack := leAt b 0 1, proc := leAt b 2 2, recompute := leAt b 4 2, strict := leAt b 6 2, fiu := leAt b 8 2 }

def StreamRec.parse (b : Bytes) : StreamRec :=
  { stream := leAt b 0 1, path := leAt b 1 1, port := leAt b 2 1, vc := leAt b 3 1, dataType := leAt b 4 1, elem := leAt b 5 1,
    hdrCounter := leAt b 6 1, flags := leAt b 7 1, width := leAt b 8 2, height := leAt b 10 2, frameBytes := leAt b 12 4,
    period := leAt b 16 8, offset := leAt b 24 4, trig := leAt b 28 1, k := leAt b 29 1, ring := leAt b 30 1,
    stall := leAt b 31 1, elemThresh := leAt b 32 2, mount := leAt b 34 1, minChanged := leAt b 36 4, moveUm := leAt b 40 4,
    moveUrad := leAt b 44 4, udpPort := leAt b 48 2, srcIp := leAt b 52 4 }

def PoseRec.parse (b : Bytes) : PoseRec :=
  { subject := leAt b 0 1, parent := leAt b 1 1, proj := leAt b 2 1, pose := fx32s b 4 6, fx := fx32 b 28, fy := fx32 b 32,
    cx := fx32 b 36, cy := fx32 b 40, planeZ := fx32 b 44 }

def FusionRec.parse (b : Bytes) : FusionRec :=
  { gridX := leAt b 0 2, gridY := leAt b 2 2, channels := leAt b 4 1, gridFrame := leAt b 5 1, sources := leAt b 6 1,
    axes := leAt b 7 1, cellUm := leAt b 8 4, waitNs := leAt b 12 4, epochRate := leAt b 16 4, members := leAt b 20 2,
    anchor := leAt b 22 1, qeLeft := leAt b 23 1, jointConn := leAt b 24 2, qeRight := leAt b 26 1, stateBytes := leAt b 28 4,
    gridOrigin := fx32s b 32 6, jointStep := leAt b 56 4, imuStill := leAt b 60 4, wheelNm := leAt b 64 4,
    trackUm := leAt b 68 4, armModel := fx32s b 72 32 }

def LayerRec.parse (b : Bytes) : LayerRec :=
  { layer := leAt b 0 1, op := leAt b 1 1, stage := leAt b 2 1, stream := leAt b 3 1, format := leAt b 4 1, flags := leAt b 5 1,
    weightOfs := leAt b 8 4, weightBytes := leAt b 12 4, inShape := (List.range 4).map fun i => leAt b (16 + 2 * i) 2,
    outShape := (List.range 4).map fun i => leAt b (24 + 2 * i) 2 }

def AudChan.parse (b : Bytes) : AudChan :=
  { ch := leAt b 0 2, points := leAt b 2 1, log2f := leAt b 3 1, log2fFloor := leAt b 4 1, tileLog2 := leAt b 5 1,
    escCount := leAt b 6 1, flags := leAt b 7 1, refM := leAt b 8 4, doubtPpm := leAt b 12 2, tokenConn := leAt b 14 2,
    networkId := leAt b 16 8, disMarginal := fx32 b 24, disReject := fx32 b 28, occThresh := fx32 b 32,
    gripperMm := fx32 b 36, targetMm := fx32 b 40 }

def WitRec.parse (b : Bytes) : WitRec :=
  { ch := leAt b 0 2, point := leAt b 2 1, kind := leAt b 3 1, fmtIn := leAt b 4 1, fmtOut := leAt b 5 1, compare := leAt b 6 1,
    m := leAt b 8 2, n := leAt b 10 2, k := leAt b 12 2, ulp := leAt b 14 2, weightOfs := leAt b 16 4,
    weightBytes := leAt b 20 4, abftTol := leAt b 24 4 }

def Zone.parse (b : Bytes) : Zone := { zone := leAt b 0 1, lo := fx32s b 8 3, hi := fx32s b 20 3 }

def ClassRec.parse (b : Bytes) : ClassRec :=
  { cls := leAt b 0 1, mode := leAt b 1 1, compare := leAt b 2 1, xforms := leAt b 3 1, rot := leAt b 4 1,
    deadlineUs := leAt b 8 4, tol := fx32 b 12, firstInput := leAt b 16 2, inputCount := leAt b 18 1 }

/-- The bytes of a class record , reserved ones 0. -/
def ClassRec.bytes (r : ClassRec) : Bytes :=
  [byte r.cls, byte r.mode, byte r.compare, byte r.xforms, byte r.rot, 0, 0, 0] ++ leBytes 4 r.deadlineUs
    ++ leBytes 4 (ofSigned 32 r.tol) ++ leBytes 2 r.firstInput ++ [byte r.inputCount] ++ zeros 13

def InputRec.parse (b : Bytes) : InputRec :=
  { cls := leAt b 0 1, source := leAt b 1 1, kind := leAt b 2 1, subject := leAt b 4 2 }

def SafIn.parse (b : Bytes) : SafIn :=
  { kind := leAt b 0 1, tpA := leAt b 1 1, tpB := leAt b 2 1, filter := leAt b 3 1, disc := leAt b 4 2, reaction := leAt b 6 1 }

def SafGroup.parse (b : Bytes) : SafGroup :=
  { used := leAt b 0 1, ss1Kind := leAt b 1 1, axes := leAt b 2 1, flags := leAt b 3 1, ss1Max := leAt b 4 2,
    rampDelay := leAt b 6 2, stillTime := leAt b 8 2 }

def SafAxis.parse (b : Bytes) : SafAxis :=
  { nrad := leAt b 0 4, sls := leAt b 4 2, tol := leAt b 6 2, dec := leAt b 8 4, still := leAt b 12 2 }

def SafBrake.parse (b : Bytes) : SafBrake :=
  { group := leAt b 0 1, dead := leAt b 1 1, pullinMs := leAt b 2 2, holdPct := leAt b 4 1, releaseMs := leAt b 6 2 }

/-- The SAFETY section, 388 bytes (13 R391). -/
def Safety.parse (b : Bytes) : Safety :=
  { format := leAt b 0 1, reqFilter := leAt b 2 1, chain := leAt b 3 1, chainFilter := leAt b 4 1, tpWidth := leAt b 6 2,
    tpPeriod := leAt b 8 2, offtestUs := leAt b 10 2, offtestPeriod := leAt b 12 2, chainPulseMs := leAt b 14 2,
    chainDisc := leAt b 16 2, degTimerS := leAt b 18 2
    reservedOk := resOk b [(1, 1), (5, 1), (20, 12)]
      && (records b 32 16 8).all (resOk · [(7, 1)]) && (records b 160 4 16).all (resOk · [(10, 6)])
      && (records b 224 8 16).all (resOk · [(14, 2)]) && (records b 352 4 8).all (resOk · [(5, 1)])
    inputs := (records b 32 16 8).map SafIn.parse
    groups := (records b 160 4 16).map SafGroup.parse
    axes := (records b 224 8 16).map SafAxis.parse
    brakes := (records b 352 4 8).map SafBrake.parse
    crc := leAt b 384 4
    crcGood := crc32c (b.take 384) == leAt b 384 4 }

def ConnRec.parse (b : Bytes) : ConnRec :=
  { conn := leAt b 0 2, dir := leAt b 2 1, flags := leAt b 3 1, vcid := leAt b 4 8, window := leAt b 12 1, pcp := leAt b 13 1,
    vid := leAt b 14 2, watchdog := leAt b 16 2, maxAge := leAt b 18 2, period := leAt b 20 2, mac := leAt b 24 6 }

def Gate.parse (b : Bytes) : Gate := { state := leAt b 0 1, duration := leAt b 4 4 }

def RingRec.parse (b : Bytes) : RingRec :=
  { nodeId := leAt b 0 1, members := leAt b 1 1, obey := leAt b 2 1, flags := leAt b 3 1, send := leAt b 4 2,
    nodeTimeout := leAt b 6 2, lend := leAt b 8 1, lendTo := leAt b 9 1, borrow := leAt b 10 1, borrowFrom := leAt b 11 1,
    units := leAt b 12 1, partnerUnits := leAt b 13 1, returnUs := leAt b 14 2, shareCh := leAt b 16 2, shareId := leAt b 20 8 }

/-- The MESSAGES section (14 R420, 15 R441). -/
def Messages.parse (b : Bytes) : Messages :=
  let n := leAt b 0 1
  let g := leAt b 8 1
  { count := n, skewUs := leAt b 2 2, cycle := leAt b 4 4, gateLen := g, conns := (records b 16 n 48).map ConnRec.parse,
    gates := (records b (16 + 48 * n) g 8).map Gate.parse, ring := RingRec.parse (sub b (16 + 48 * n + 8 * g) 64) }

def Power.parse (b : Bytes) : Power :=
  { allow := leAt b 0 1, guardUs := leAt b 2 2,
    recs := (records b 16 (leAt b 4 2) 8).map fun r => { ch := leAt r 0 2, wakeTol := leAt r 4 4 } }

def MonRec.parse (b : Bytes) : MonRec :=
  { slot := leAt b 0 1, source := leAt b 1 1, edges := leAt b 2 1, shift := leAt b 3 1, subject := leAt b 4 2,
    flags := leAt b 6 1, rateHz := leAt b 8 2, base := fx32 b 12, width := leAt b 16 4 }

def Monitors.parse (b : Bytes) : Monitors :=
  { slots := (records b 16 (leAt b 0 1) 32).map MonRec.parse, fringGib := leAt b 1 1, fringStreams := leAt b 2 2,
    decimate := leAt b 4 2 }

/-! ## Shapes: counts, lengths and reserved bytes -/

/-- A section whose length is exactly its header and records, with zeros where its tables say so; by type. -/
def shapeOk (ty : Nat) (b : Bytes) : Bool :=
  let recs (o n size : Nat) (res : List (Nat × Nat)) : Bool := (records b o n size).all (resOk · res)
  match ty with
  | 1 => let n := leAt b 0 4; decide (b.length = 16 + 16 * n) && resOk b [(4, 12)] && recs 16 n 16 [(1, 1), (4, 4)]
  | 2 =>
    let n := leAt b 0 2
    decide (1 ≤ n ∧ n ≤ 512 ∧ b.length = 16 + 96 * n) && resOk b [(2, 14)] && recs 16 n 96 [(36, 12), (80, 16)]
  | 3 =>
    let n := leAt b 0 4
    decide (b.length = 16 + 16 * n + 64) && resOk b [(4, 12)] && recs 16 n 16 [(9, 1), (14, 2)]
      && recs (16 + 16 * n) 2 32 [(1, 1), (10, 22)]
  | 4 =>
    let n := leAt b 0 1
    decide (1 ≤ n ∧ n ≤ 16 ∧ b.length = 16 + 64 * n + 48 * (n + 1)) && resOk b [(1, 15)]
      && recs 16 n 64 [(35, 1), (50, 2), (56, 8)] && recs (16 + 64 * n) (n + 1) 48 [(3, 1)]
  | 5 => decide (b.length = 256) && resOk b [(27, 1), (200, 56)]
  | 6 =>
    let n := leAt b 0 1
    decide (1 ≤ n ∧ n ≤ 64 ∧ b.length = 16 + 32 * n) && resOk b [(1, 15)] && recs 16 n 32 [(6, 2)]
  | 7 =>
    let n := leAt b 0 1
    let z := leAt b 1 1
    let w := leAt b 2 2
    decide (1 ≤ n ∧ n ≤ 64 ∧ z ≤ 32 ∧ 1 ≤ w ∧ w ≤ 1024 ∧ b.length = 16 + 64 * n + 32 * w + 32 * z) && resOk b [(4, 12)]
      && recs 16 n 64 [(44, 20)] && recs (16 + 64 * n) w 32 [(7, 1), (28, 4)]
      && recs (16 + 64 * n + 32 * w) z 32 [(1, 7)]
  | 8 =>
    let n := leAt b 0 1
    let k := leAt b 2 2
    decide (1 ≤ n ∧ n ≤ 32 ∧ k ≤ 256 ∧ b.length = 16 + 32 * n + 8 * k) && resOk b [(1, 1), (4, 12)]
      && recs 16 n 32 [(5, 3), (19, 13)] && recs (16 + 32 * n) k 8 [(3, 1), (6, 2)]
  | 9 => decide (b.length = 388) && (Safety.parse b).reservedOk
  | 10 =>
    let n := leAt b 0 1
    let g := leAt b 8 1
    decide (1 ≤ n ∧ n ≤ 32 ∧ g ≤ 64 ∧ b.length = 16 + 48 * n + 8 * g + 64) && resOk b [(1, 1), (9, 7)]
      && recs 16 n 48 [(22, 2), (30, 18)] && recs (16 + 48 * n) g 8 [(1, 3)]
      && recs (16 + 48 * n + 8 * g) 1 64 [(18, 2), (28, 36)]
  | 11 =>
    let n := leAt b 4 2
    decide (n ≤ 64 ∧ b.length = 16 + 8 * n) && resOk b [(1, 1), (6, 10)] && recs 16 n 8 [(2, 2)]
  | _ =>
    let n := leAt b 0 1
    decide (n ≤ 64 ∧ b.length = 16 + 32 * n) && resOk b [(6, 10)] && recs 16 n 32 [(7, 1), (10, 2), (20, 12)]

/-! ## The whole image -/

/-- The image that a slot's bytes hold: IMAGE_SIZE says how many there are. -/
def slotBytes (cells : List Host.Cell) : Bytes := memGetN cells 0 (min (leVal (memGetN cells 8 4)) 67108864)

/-- The decoded image. -/
def Image.parse (b : Bytes) : Image :=
  let h := Header.parse b
  let sec := sectionOf h b
  let chs := sec 2
  let fw := sec 3
  let sn := sec 4
  let gd := sec 6
  let au := sec 7
  let va := sec 8
  let nr := leAt fw 0 4
  let ns := leAt sn 0 1
  let na := leAt au 0 1
  let nw := leAt au 2 2
  let nv := leAt va 0 1
  let sg := sub b (b.length - 96) 96
  { header := h
    digest := sha256 (sub b 0 768)
    hashes := sha256 (sub b 0 768) :: ((List.range 12).map fun i => sha256 (sec (i + 1))) ++ [sha256 sg]
    fingerprint := sub sg 0 8
    signature := sub sg 32 64
    claims := (records (sec 1) 16 (leAt (sec 1) 0 4) 16).map Claim.parse
    channels := (records chs 16 (leAt chs 0 2) 96).map ChanRec.parse
    rules := (records fw 16 nr 16).map Rule.parse
    plans := (records fw (16 + 16 * nr) 2 32).map StackPlan.parse
    streams := (records sn 16 ns 64).map StreamRec.parse
    poses := (records sn (16 + 64 * ns) ns 48).map PoseRec.parse
    modulePose := PoseRec.parse (sub sn (16 + 64 * ns + 48 * ns) 48)
    fusion := FusionRec.parse (sec 5)
    layers := (records gd 16 (leAt gd 0 1) 32).map LayerRec.parse
    audChans := (records au 16 na 64).map AudChan.parse
    wits := (records au (16 + 64 * na) nw 32).map WitRec.parse
    zones := (records au (16 + 64 * na + 32 * nw) (leAt au 1 1) 32).map Zone.parse
    classes := (records va 16 nv 32).map ClassRec.parse
    inputs := (records va (16 + 32 * nv) (leAt va 2 2) 8).map InputRec.parse
    safety := Safety.parse (sec 9)
    messages := Messages.parse (sec 10)
    power := Power.parse (sec 11)
    monitors := Monitors.parse (sec 12)
    badShape := (((List.range 12).map (· + 1)).filter fun t => !shapeOk t (sec t)) ++ if resOk sg [(8, 24)] then [] else [13] }

/-- The image in a slot. -/
def State.slotImage (k : Nat) (s : State) : Image := Image.parse (slotBytes (getN s.cfg.slots k).image)

/-- The CHANNELS record bound to a queue: the working image's, and in DOLDRUMS, where no image works, the active slot's (04 R118;
log entry 34). -/
def State.boundChan (q : Nat) (s : State) : Option ChanRec :=
  if s.sys.state = .doldrums then
    let b := slotBytes (getN s.cfg.slots s.activeSlot).image
    let c := sectionOf (Header.parse b) b 2
    ((records c 16 (leAt c 0 2) 96).map ChanRec.parse).find? fun r => r.queue == q && r.queue != 0xFF
  else s.img.chanOf q

/-- The rules of an identity as the host block applies them: the working image's, and in DOLDRUMS the active slot's (log
entry 34). -/
def State.boundRules (c : Nat) (s : State) : List Rule :=
  if s.sys.state = .doldrums then
    let b := slotBytes (getN s.cfg.slots s.activeSlot).image
    let f := sectionOf (Header.parse b) b 3
    ((records f 16 (leAt f 0 4) 16).map Rule.parse).filter (·.ident == c)
  else s.rulesOf c

end Sys2Proof.Machine
end

