-- ==== Sys2Proof/Machine/Admit.lean ====
section
/-! DEFINITION. Admission of a Windrose image (05 R141 to R147) with the range, reference and capacity rules of the owning
chapters, and the SLB's own range table (13 R392). -/

namespace Sys2Proof.Machine

/-- One check of Table 5.5: class, detail, the channel, input or connection concerned (0 when none), and whether it passes. -/
structure Check where
  cls     : Nat
  detail  : Nat
  subject : Nat := 0
  ok      : Bool
  deriving DecidableEq, Repr

/-- `lo ≤ x ≤ hi`. -/
def within (lo hi x : Nat) : Bool := decide (lo ≤ x ∧ x ≤ hi)

/-- The same for signed values. -/
def withinI (lo hi x : Int) : Bool := decide (lo ≤ x ∧ x ≤ hi)

/-- Each number of a list with whether it lies above the one before it. -/
def rises : List Nat → List (Nat × Bool)
  | [] => []
  | a :: r => (a, true) :: (r.zip (a :: r)).map fun x => (x.1, decide (x.2 < x.1))

/-- No entry twice. -/
def distinct {α : Type} [BEq α] : List α → Bool
  | [] => true
  | a :: r => !r.contains a && distinct r

/-- A mask without bits beyond `n`. -/
def subMask (m of : Nat) : Bool := m &&& of == m

/-- An undefined format code has no width. -/
def fmtKnown (c : Nat) : Bool := fmtBits c != 0

/-! ## FORMAT, SIGNATURE, TARGET -/

/-- The directory's entries do not overlap, start on multiples of 64 and lie between HEADER and SIGNATURE (R128). -/
def Header.dirOk (h : Header) (e : DirEntry) (i : Nat) : Bool :=
  e.ty == i + 1 && e.ofs % 64 == 0 && decide (768 ≤ e.ofs ∧ e.ofs + e.len + 96 ≤ h.imageSize)
    && (h.dir.zipIdx.all fun x => x.2 == i || decide (x.1.ofs + x.1.len ≤ e.ofs ∨ e.ofs + e.len ≤ x.1.ofs))

/-- FORMAT (class 0x01): the container and every hash. -/
def formatChecks (i : Image) (weights : Bytes) : List Check :=
  let h := i.header
  { cls := 1, detail := 0
    ok := h.magic == ascii "WDRS" && h.format == 1 && h.dirCount == 12 && within 1024 67108864 h.imageSize
      && decide (h.weightSize ≤ 268435456) }
  :: (h.dir.zipIdx.map fun x =>
    { cls := 1, detail := x.2 + 1, ok := h.dirOk x.1 x.2 && x.1.hash == getN i.hashes (x.2 + 1) })
  ++ [{ cls := 1, detail := 0xFF, ok := sha256 (weights.take h.weightSize) == h.weightHash }]

/-- SIGNATURE (class 0x02). -/
def signChecks (key : Option Bytes) (i : Image) : List Check :=
  [{ cls := 2, detail := 0
     ok := key.any fun k => (sha256 k).take 8 == i.fingerprint && edVerify k i.digest i.signature }]

/-- TARGET (class 0x03). -/
def targetChecks (fw : Nat) (i : Image) : List Check :=
  [{ cls := 3, detail := 0, ok := i.header.target == 0x0480 && decide (i.header.minFw ≤ fw) }]

/-! ## RANGE (class 0x04), section by section -/

def Claim.inRange (c : Claim) : Bool :=
  match c.kind with
  | 1 => decide (c.subject ≤ 15)
  | 2 => decide (c.subject ≤ 4095)
  | 3 | 4 | 5 | 7 => decide (c.subject ≤ 511)
  | 6 => c.subject == 0xFFFF
  | _ => false

/-- Table 16.10. -/
def ChanRec.inRange (r : ChanRec) : Bool :=
  decide (r.ch ≤ 511) && (decide (r.queue ≤ 63) || r.queue == 0xFF) && decide (r.flags < 2)
    && (decide (r.pasid ≤ 0xFFFFF) || r.pasid == 0xFFFFFFFF)
    && (if r.queue = 0xFF then r.rateMhz == 0 else within 1 1000000 r.rateMhz) && within 10 10000 r.ageMs
    && (r.aliveWindow == 0 || within 10 10000 r.aliveWindow) && decide (r.aliveMin ≤ r.aliveMax)
    && (r.deadlineUs == 0 || within 100 10000000 r.deadlineUs) && decide (r.startCp ≤ 15)
    && (decide (r.endCp ≤ 15) || r.endCp == 0xFF) && within 10 10000 r.budgetPeriod
    && decide (r.budgetUs ≤ r.budgetPeriod * 1000)

/-- R466. -/
def Rule.inRange (r : Rule) : Bool :=
  (decide (r.ident ≤ 511) || r.ident == 1023) && decide (r.kind ≤ 2) && decide (r.perm < 4) && r.base % 4096 == 0
    && within 1 16777216 r.pages

/-- The data types of Table 6.1 by their CSI-2 codes (log entry 37). -/
def csiTypes : List Nat := [0x1E, 0x24, 0x2A, 0x2B, 0x2C, 0x2E] ++ (List.range 8).map (0x30 + ·)

/-- Table 6.5. -/
def StreamRec.inRange (r : StreamRec) : Bool :=
  let csi := r.path == 0
  let trig := bit r.flags 0
  decide (r.stream ≤ 15) && decide (r.path ≤ 1) && (if csi then decide (r.port ≤ 7) else within 2 3 r.port)
    && decide (r.vc ≤ if csi then 3 else 0) && (if csi then csiTypes.contains r.dataType else r.dataType == 0)
    && decide (r.elem ≤ 1) && decide (r.hdrCounter ≤ 3) && decide (r.flags < 8) && within 16 8192 r.width
    && within 1 8192 r.height && within 64 33554432 r.frameBytes && within 8333333 10000000000 r.period
    && decide (r.offset ≤ 1000000000) && (if trig then decide (r.trig ≤ 7) else r.trig == 0xFF) && within 2 64 r.k
    && within 4 64 r.ring && within 2 16 r.stall && decide (r.mount ≤ 2)
    && within 1 (r.frameBytes / (r.elem + 1)) r.minChanged && within 1000 500000 r.moveUm
    && within 1000 1000000 r.moveUrad && (if csi then r.udpPort == 0 else within 1024 65535 r.udpPort)
    && (!csi || r.srcIp == 0)

/-- Table 7.7. -/
def PoseRec.inRange (p : PoseRec) (r : StreamRec) : Bool := p.subject == r.stream && p.parent == r.mount && decide (p.proj ≤ 1)

/-- Table 7.7 for the module. -/
def PoseRec.moduleOk (p : PoseRec) : Bool :=
  p.subject == 0xFF && decide (p.parent ≤ 2) && p.proj == 0 && [p.fx, p.fy, p.cx, p.cy].all (· == 0)

/-- Table 7.6. -/
def FusionRec.inRange (f : FusionRec) : Bool :=
  let wheels := bit f.sources 2
  let joints := bit f.sources 0
  let qe (x : Nat) : Bool := if wheels then decide (x ≤ 7) else x == 0xFF
  within 16 256 f.gridX && within 16 256 f.gridY && within 1 64 f.channels && decide (f.gridFrame ≤ 1)
    && within 1 0xFFFF f.members && decide (f.sources < 8) && decide (f.axes ≤ if joints then 8 else 0) && within 1000 20000 f.cellUm
    && within 10000000 500000000 f.waitNs && within 100 120000 f.epochRate && decide (f.anchor ≤ 15) && qe f.qeLeft
    && qe f.qeRight && (if joints then decide (f.jointConn ≤ 4095) else f.jointConn == 0xFFFF)
    && decide (f.stateBytes ≤ 8388608) && within 100 100000 f.jointStep && within 1 1000 f.imuStill
    && within 100 10000000 f.wheelNm && within 50000 2000000 f.trackUm

/-- Table 7.8. -/
def LayerRec.inRange (r : LayerRec) (pos : Nat) : Bool :=
  r.layer == pos && within 1 10 r.op && decide (r.stage ≤ 3) && (if r.stage ≤ 1 then decide (r.stream ≤ 15) else r.stream == 0xFF)
    && fmtKnown r.format && decide (r.flags < 4) && decide (r.weightBytes ≤ 268435456)

/-- One in FX32. -/
def fx1 : Int := 65536

/-- Table 12.9. -/
def AudChan.inRange (a : AudChan) : Bool :=
  decide (a.ch ≤ 511) && within 1 16 a.points && decide (a.log2f ≤ 12) && within a.log2f 12 a.log2fFloor && within 4 7 a.tileLog2
    && within 1 16 a.escCount && decide (a.flags < 2) && within 1 1048576 a.refM && within 1 65535 a.doubtPpm
    && (if bit a.flags 0 then decide (a.tokenConn ≤ 4095) else a.tokenConn == 0xFFFF) && withinI 0 fx1 a.disMarginal
    && withinI a.disMarginal fx1 a.disReject && withinI 0 fx1 a.occThresh && withinI fx1 (500 * fx1) a.gripperMm
    && withinI 0 (500 * fx1) a.targetMm

/-- Table 12.10, format combinations included (R354). -/
def WitRec.inRange (w : WitRec) : Bool :=
  let tolOk := match of32 false w.abftTol with
    | .fin neg m _ => !neg || m == 0
    | .inf neg => !neg
    | .nan _ _ => false
  decide (w.kind ≤ 2) && fmtKnown w.fmtIn && (w.fmtOut == if w.kind = 2 then w.fmtIn else accFmt w.fmtIn) && decide (w.compare ≤ 1)
    && within 1 65535 w.m && within 1 65535 w.n && within 1 65535 w.k
    && (w.kind ≠ 2 || (w.weightOfs == 0 && w.weightBytes == 0)) && (if fmtIsInt w.fmtIn then w.abftTol == 0 else tolOk)

/-- R353. -/
def Zone.inRange (z : Zone) : Bool := decide (z.zone ≤ 31) && (z.lo.zip z.hi).all fun x => decide (x.1 ≤ x.2)

/-- Table 10.6. -/
def ClassRec.inRange (r : ClassRec) (pos : Nat) : Bool :=
  r.cls == pos && decide (r.mode ≤ 1) && decide (r.compare ≤ 1) && within 1 15 r.xforms && within 1 15 r.rot
    && (if r.mode = 0 then within 100 50000 r.deadlineUs else r.deadlineUs == 0)
    && (if r.compare = 1 then withinI 1 (1024 * fx1) r.tol else r.tol == 0) && decide (r.inputCount ≤ 16)

/-- The connection that an input record concerns. -/
def InputRec.about (r : InputRec) : Nat := if r.source = 2 then r.subject % 512 else 0

/-- The channel or connection that a monitor slot concerns (Table 18.1). -/
def MonRec.about (r : MonRec) : Nat := if r.source = 1 ∨ r.source = 2 ∨ r.source = 5 then r.subject % 512 else 0

/-- SUBJECT of an input as Table 10.2 has it for its source, or 0xFFFF: a source without a subject has 0xFFFF alone. -/
def InputRec.subjectOk (r : InputRec) : Bool :=
  r.subject == 0xFFFF || (match r.source with
    | 2 => decide (r.subject ≤ 4095)
    | 3 => decide (r.subject ≤ 7)
    | 6 => decide (r.subject ≤ 63)
    | _ => false)

/-- Table 10.7 and R286: no INDEPENDENT input in a DIGEST class, and no INDEPENDENT pose or message. -/
def Image.inputInRange (i : Image) (r : InputRec) : Bool :=
  decide (r.cls ≤ 31) && within 1 6 r.source && decide (r.kind ≤ 1) && r.subjectOk
    && (r.kind == 0 || (decide (3 ≤ r.source) && (i.cls r.cls).any fun c => c.compare == 1))

/-! ### SAFETY (13 R391, R392) -/

/-- Table 13.6 with the rule of tested inputs. -/
def SafIn.fieldsOk (r : SafIn) : Bool :=
  let tp (x : Nat) : Bool := decide (x ≤ 7) || x == 0xFF
  decide (r.kind ≤ 2) && tp r.tpA && tp r.tpB && within 1 40 r.filter && within 5 500 r.disc
    && (if r.kind = 1 then within 1 2 r.reaction else r.reaction == 0)

/-- Tables 13.7, 13.8 and 13.9. -/
def SafGroup.fieldsOk (g : SafGroup) : Bool :=
  decide (g.used ≤ 1) && decide (g.ss1Kind ≤ 1) && decide (g.flags < 2) && within 10 10000 g.ss1Max
    && decide (g.rampDelay ≤ 500) && within 1 1000 g.stillTime

def SafAxis.fieldsOk (a : SafAxis) : Bool :=
  within 1 10000000 a.nrad && within 1 20000 a.sls && decide (a.tol ≤ 10000) && within 1 100000 a.dec && within 1 1000 a.still

def SafBrake.fieldsOk (b : SafBrake) : Bool :=
  (decide (b.group ≤ 3) || b.group == 0xFF) && within 5 50 b.dead && within 10 1000 b.pullinMs && within 10 100 b.holdPct
    && decide (b.releaseMs ≤ 500)

/-- Every field of a SAFETY section lies in its range. -/
def Safety.fieldsOk (p : Safety) : Bool :=
  p.format == 1 && within 1 40 p.reqFilter && decide (p.chain ≤ 1) && within 1 40 p.chainFilter && within 200 1000 p.tpWidth
    && within 10 1000 p.tpPeriod && within 100 300 p.offtestUs && within 100 5000 p.offtestPeriod && within 20 500 p.chainPulseMs
    && within 5 500 p.chainDisc && within 60 14400 p.degTimerS && p.inputs.all SafIn.fieldsOk && p.groups.all SafGroup.fieldsOk
    && p.axes.all SafAxis.fieldsOk && p.brakes.all SafBrake.fieldsOk

/-- An axis of a used group: NRAD_PER_COUNT is not 0 and STILL is at least 2 × NRAD_PER_COUNT / 1000 (R392). -/
def Safety.axisOk (p : Safety) (a : Nat) : Bool :=
  let x := getN p.axes a
  !(p.groups.any fun g => g.used == 1 && bit g.axes a) || (x.nrad != 0 && decide (2 * x.nrad ≤ x.still * 1000))

/-- The test outputs of an input: both or none, and two different ones (R392). -/
def SafIn.tpOk (r : SafIn) : Bool := if r.tpA = 0xFF ∨ r.tpB = 0xFF then r.tpA == r.tpB else r.tpA != r.tpB

/-- The rules of R392 that bind fields together. -/
def Safety.linksOk (p : Safety) : Bool :=
  decide ((p.inputs.filter (·.kind == 2)).length = 1)
    && p.inputs.all SafIn.tpOk
    && ((List.range 8).all fun a => decide ((p.groups.filter fun g => bit g.axes a).length ≤ 1))
    && (p.groups.all fun g => !(g.ss1Kind == 1 && g.used == 1) || g.axes != 0)
    && ((List.range 8).all p.axisOk)
    && (p.brakes.all fun b => b.group == 0xFF || (getN p.groups b.group).used == 1)
    && (p.brakes.all fun b => b.group == 0xFF || pwmSteps b 30000 != 0)

/-- The SLB's own range table (R148, R392). -/
def Safety.admissible (p : Safety) : Bool := p.fieldsOk && p.linksOk

/-! ### MESSAGES, POWER, MONITORS -/

/-- Table 14.10. -/
def ConnRec.inRange (c : ConnRec) : Bool :=
  decide (c.conn ≤ 4095) && decide (c.dir ≤ 1) && decide (c.flags < if c.dir = 0 then 32 else 1) && c.vcid != 0
    && within 1 16 c.window && decide (c.pcp ≤ 7) && within 1 4094 c.vid && within 2 1000 c.watchdog
    && (c.dir == 1 || within 1 c.watchdog c.maxAge) && (if c.dir = 1 then within 1 (c.watchdog / 2) c.period else c.period == 0)

/-- Table 15.5. -/
def RingRec.inRange (r : RingRec) : Bool :=
  let node (x : Nat) : Bool := decide (x ≤ 7) || x == 0xFF
  decide (r.nodeId ≤ 7) && bit r.members r.nodeId && subMask r.obey r.members && !bit r.obey r.nodeId && decide (r.flags < 2)
    && !bit r.send 14 && within 1 100 r.nodeTimeout && decide (r.lend ≤ 4) && node r.lendTo && decide (r.borrow ≤ 4)
    && node r.borrowFrom && decide (r.partnerUnits ≤ 8) && within 200 5000 r.returnUs

/-- R420. -/
def Messages.inRange (m : Messages) : Bool :=
  within 100 2000 m.skewUs && (m.cycle == 0 || within 10000 1000000 m.cycle)
    && (if m.gateLen = 0 then true else m.cycle != 0 && (m.gates.map (·.duration)).sum == m.cycle * 10)
    && m.ring.inRange

/-- R486. -/
def Power.inRange (p : Power) : Bool := decide (p.allow < 4) && within 10 1000 p.guardUs

/-- Table 18.6. -/
def MonRec.inRange (r : MonRec) (pos : Nat) : Bool :=
  let lat := within 1 8 r.source
  let lev := within 0x20 0x24 r.source
  r.slot == pos && (lat || lev) && decide (r.edges ≤ 1) && decide (r.shift ≤ if lat then 20 else 0) && decide (r.flags < 2)
    && (if lev then within 1 10000 r.rateHz else r.rateHz == 0) && (r.edges == 0 || decide (1 ≤ r.base))
    && (if r.edges = 0 then decide (1 ≤ r.width) else r.width == 0)

/-- A range check over records, each with the subject it concerns. -/
def rangeOf {α : Type} (detail : Nat) (l : List α) (subject : α → Nat) (ok : α → Bool) : List Check :=
  l.map fun x => { cls := 4, detail := detail, subject := subject x, ok := ok x }

/-- The channel, input or connection that a claim concerns, as SUBJECT of CFG_ADMIT holds it: 9 bits, so that a connection number
above 511 is reported modulo 512 (DESIGN CHOICE, log entry 57); GUARD_LOAD concerns none. -/
def subjectOf (kind subject : Nat) : Nat := if kind = 6 then 0 else subject % 512

/-- The fields of RANGE for the sections up to GUARD, in section order. -/
def Image.rangeLow (i : Image) : List Check :=
  rangeOf 1 i.claims (fun c => subjectOf c.kind c.subject) Claim.inRange
    ++ rangeOf 2 i.channels (·.ch % 512) ChanRec.inRange
    ++ rangeOf 3 i.rules (fun r => if r.ident < 512 then r.ident else 0) Rule.inRange
    ++ rangeOf 3 i.plans.zipIdx (fun _ => 0) (fun x => x.1.stack == x.2 && (x.2 == 0 || x.1.fiu == 0))
    ++ rangeOf 4 i.streams (fun _ => 0) StreamRec.inRange
    ++ rangeOf 4 (i.poses.zip i.streams) (fun _ => 0) (fun x => x.1.inRange x.2)
    ++ rangeOf 4 [i.modulePose] (fun _ => 0) PoseRec.moduleOk
    ++ rangeOf 5 [i.fusion] (fun _ => 0) FusionRec.inRange
    ++ rangeOf 6 i.layers.zipIdx (fun _ => 0) (fun x => x.1.inRange x.2)

/-- The fields of RANGE for the sections from AUDIT on. -/
def Image.rangeHigh (i : Image) : List Check :=
  rangeOf 7 i.audChans (·.ch % 512) AudChan.inRange
    ++ rangeOf 7 i.wits (·.ch % 512) WitRec.inRange
    ++ rangeOf 7 i.zones (fun _ => 0) Zone.inRange
    ++ rangeOf 8 i.classes.zipIdx (fun _ => 0) (fun x => x.1.inRange x.2)
    ++ rangeOf 8 i.inputs InputRec.about i.inputInRange
    ++ rangeOf 9 i.safety.inputs.zipIdx (·.2) (fun x => x.1.fieldsOk)
    ++ rangeOf 9 [i.safety] (fun _ => 0) Safety.fieldsOk
    ++ rangeOf 10 i.messages.conns (·.conn % 512) ConnRec.inRange
    ++ rangeOf 10 [i.messages] (fun _ => 0) Messages.inRange
    ++ rangeOf 11 i.power.recs (·.ch % 512) (fun r => decide (r.ch ≤ 511) && within 1 100000 r.wakeTol)
    ++ rangeOf 11 [i.power] (fun _ => 0) Power.inRange
    ++ rangeOf 12 i.monitors.slots.zipIdx (·.1.about) (fun x => x.1.inRange x.2)
    ++ rangeOf 12 [i.monitors] (fun _ => 0) (fun m => within 1 4 m.fringGib && within 1 1000 m.decimate)

/-- RANGE: counts, lengths and reserved bytes first, section by section up to SIGNATURE (R129), then the fields. -/
def Image.rangeChecks (i : Image) : List Check :=
  { cls := 4, detail := 0, ok := i.header.reservedOk && i.header.dir.all (·.reserved) }
  :: ((List.range 13).map fun t => { cls := 4, detail := t + 1, ok := !i.badShape.contains (t + 1) })
  ++ i.rangeLow ++ i.rangeHigh

/-! ## REFERENCE (class 0x05) -/

/-- A reference check over records. -/
def refOf {α : Type} (detail : Nat) (l : List α) (subject : α → Nat) (ok : α → Bool) : List Check :=
  l.map fun x => { cls := 5, detail := detail, subject := subject x, ok := ok x }

/-- Streams the image declares, as a mask. -/
def Image.streamMask (i : Image) : Nat := maskOf ((List.range 16).map fun n => i.streams.any (·.stream == n))

/-- A channel is declared. -/
def Image.hasChan (i : Image) (c : Nat) : Bool := i.channels.any (·.ch == c)

/-- A channel bound to a queue. -/
def Image.hasQueue (i : Image) (c : Nat) : Bool := i.channels.any fun r => r.ch == c && r.queue != 0xFF

/-- Channels bound to a queue. -/
def Image.bound (i : Image) : List ChanRec := i.channels.filter (·.queue != 0xFF)

/-- An RX connection, and a TX connection, by number. -/
def Image.rx (i : Image) (n : Nat) : Option ConnRec := i.messages.conns.find? fun c => c.conn == n && c.dir == 0
def Image.tx (i : Image) (n : Nat) : Bool := i.messages.conns.any fun c => c.conn == n && c.dir == 1

/-- A claim's subject exists, and no other claim has its kind and subject. -/
def Image.claimRef (i : Image) (c : Claim) : Bool :=
  decide ((i.claims.filter fun d => d.kind == c.kind && d.subject == c.subject).length = 1)
    && (match c.kind with
      | 1 => (getN i.safety.inputs c.subject).kind == 1
      | 2 => (i.rx c.subject).any fun r => bit r.flags 2
      | 6 => true
      | _ => i.hasQueue c.subject)

/-- Bytes of a rule. -/
def Rule.len (r : Rule) : Nat := r.pages * 4096

/-- Two rules share a byte. -/
def Rule.meets (a b : Rule) : Bool := decide (a.base < b.base + b.len ∧ b.base < a.base + a.len)

/-- A rule lies inside the BAR2 window (Table 16.3). -/
def Rule.inBar2 (r : Rule) : Bool :=
  decide (0x1400000000 ≤ r.base ∧ r.base + r.len ≤ 0x1430000000) || decide (0x1440000000 ≤ r.base ∧ r.base + r.len ≤ 0x1450000000)

/-- R466 for one rule: a declared channel, the BAR2 window, and no write-granting overlap with another channel. -/
def Image.ruleRef (i : Image) (r : Rule) : Bool :=
  r.ident == 1023 ||
    (i.hasChan r.ident && r.inBar2
      && (i.rules.all fun x => x.ident == r.ident || x.ident == 1023 || !(bit r.perm 1 || bit x.perm 1) || !r.meets x))

/-- R466 for a channel with a queue: a readable STAGING rule, and a WITNESS rule with both directions. -/
def Image.chanRules (i : Image) (c : ChanRec) : Bool :=
  (i.rules.any fun r => r.ident == c.ch && r.kind == 1 && bit r.perm 0)
    && (i.rules.any fun r => r.ident == c.ch && r.kind == 2 && bit r.perm 0 && bit r.perm 1)

/-- R317's subset rules, and no PROC channel on a fixed region. -/
def Image.planRef (i : Image) (p : StackPlan) : Bool :=
  subMask p.recompute p.proc && subMask p.strict p.proc
    && (if p.stack = 0 then
        (i.streams.isEmpty || p.fiu != 0) && subMask p.fiu (p.proc &&& p.recompute)
          && ((List.range (2 + i.monitors.fringGib)).all fun c => !bit p.proc c)
      else p.proc == 0)

/-- REFERENCE for the sections up to GUARD. -/
def Image.refLow (i : Image) : List Check :=
  let f := i.fusion
  refOf 1 i.claims (fun c => subjectOf c.kind c.subject) i.claimRef
    ++ refOf 2 (rises (i.channels.map (·.ch))) (·.1) (·.2)
    ++ refOf 2 i.channels (·.ch) (fun c => subMask c.streams i.streamMask
        && (c.queue == 0xFF || decide ((i.channels.filter (·.queue == c.queue)).length = 1)))
    ++ refOf 3 i.rules (fun r => if r.ident < 512 then r.ident else 0) i.ruleRef
    ++ refOf 3 i.bound (·.ch) i.chanRules
    ++ refOf 3 i.plans (fun _ => 0) i.planRef
    ++ refOf 4 (rises (i.streams.map (·.stream))) (fun _ => 0) (·.2)
    ++ refOf 4 i.streams (fun _ => 0) (fun r => r.path ≠ 0
        || decide ((i.streams.filter fun x => x.path == 0 && x.port == r.port && x.vc == r.vc).length = 1))
    ++ refOf 5 [f] (fun _ => 0) (fun f => subMask f.members i.streamMask && bit f.members f.anchor)
    ++ refOf 6 i.layers (fun _ => 0) (fun r => decide (r.weightOfs + r.weightBytes ≤ i.header.weightSize))
    ++ refOf 6 ((List.range 16).filter fun n => bit f.members n) (fun _ => 0) (fun n =>
        (i.layers.any fun r => r.stage == 0 && r.stream == n) && (i.layers.any fun r => r.stage == 1 && r.stream == n))
    ++ refOf 6 [f] (fun _ => 0) (fun f =>
        decide ((i.layers.filter fun r => bit r.flags 1).length = b2n (f.stateBytes != 0)))

/-- The subject of a monitor slot exists (Table 18.1). -/
def Image.monRef (i : Image) (r : MonRec) : Bool :=
  r.subject == 0xFFFF ||
    (match r.source with
      | 1 | 2 => i.hasChan r.subject
      | 3 => i.streams.any (·.stream == r.subject)
      | 5 => (i.rx r.subject).isSome
      | 6 | 0x23 => decide (r.subject < 2)
      | 7 | 0x21 | 0x22 => decide (r.subject < 16)
      | 0x20 => decide (r.subject < 12)
      | _ => false)

/-- The subject of an input record exists (R286). -/
def Image.inputRef (i : Image) (r : InputRec) : Bool :=
  match r.source with
  | 2 => i.messages.conns.any (·.conn == r.subject)
  | 3 => decide (r.subject ≤ 7)
  | 6 => i.monitors.slots.any (·.slot == r.subject)
  | _ => true

/-- REFERENCE for the sections from AUDIT on. The classes 0, 1 and 2 are those that guard, audit and geometry work names (log
entry 38). -/
def Image.refHigh (i : Image) : List Check :=
  refOf 7 (rises (i.audChans.map (·.ch))) (·.1) (·.2)
    ++ refOf 7 i.audChans (·.ch) (fun a => i.hasQueue a.ch
        && ((i.witsOf a.ch).map (·.point)).length == a.points && distinct ((i.witsOf a.ch).map (·.point))
        && (i.witsOf a.ch).all fun w => decide (w.point < a.points))
    ++ refOf 7 i.bound (·.ch) (fun c => (i.audit c.ch).isSome)
    ++ refOf 7 i.wits (·.ch) (fun w => (i.audit w.ch).isSome && decide (w.weightOfs + w.weightBytes ≤ i.header.weightSize))
    ++ refOf 7 [()] (fun _ => 0) (fun _ => distinct (i.zones.map (·.zone)))
    ++ refOf 8 i.classes (fun _ => 0) (fun c => ((i.inputs.drop c.firstInput).take c.inputCount).length == c.inputCount
        && ((i.inputs.drop c.firstInput).take c.inputCount).all (·.cls == c.cls))
    ++ refOf 8 i.inputs InputRec.about (fun r => i.inputRef r && (i.cls r.cls).isSome)
    ++ refOf 8 [()] (fun _ => 0) (fun _ => (i.layers.isEmpty || (i.cls 0).isSome)
        && (i.audChans.isEmpty || ((i.cls 1).isSome && (i.cls 2).isSome)))
    ++ refOf 9 i.safety.inputs.zipIdx (·.2) (fun x => x.1.tpOk)
    ++ refOf 9 [i.safety] (fun _ => 0) Safety.linksOk
    ++ refOf 10 i.messages.conns (·.conn % 512) (fun c =>
        decide ((i.messages.conns.filter fun d => d.conn == c.conn || d.vcid == c.vcid).length = 1)
          && (c.dir == 1 || bit c.flags 0 || !(bit c.flags 2 || bit c.flags 3 || bit c.flags 4)))
    ++ refOf 10 [i.fusion] (·.jointConn % 512) (fun f => f.jointConn == 0xFFFF || (i.rx f.jointConn).any fun c => bit c.flags 4)
    ++ refOf 10 i.audChans (·.tokenConn % 512) (fun a => a.tokenConn == 0xFFFF || i.tx a.tokenConn)
    ++ refOf 10 [()] (fun _ => 0) (fun _ => i.messages.conns.any fun c => c.dir == 0 && bit c.flags 3)
    ++ refOf 10 [i.messages.ring] (fun _ => 0) (fun r => r.borrow == 0 || r.units != 0)
    ++ refOf 11 i.power.recs (·.ch) (fun r => i.hasQueue r.ch && decide ((i.power.recs.filter (·.ch == r.ch)).length = 1))
    ++ refOf 11 i.bound (·.ch) (fun c => i.power.recs.any (·.ch == c.ch))
    ++ refOf 12 i.monitors.slots MonRec.about i.monRef
    ++ refOf 12 [i.monitors] (fun _ => 0) (fun m => subMask m.fringStreams i.streamMask)

/-! ## CAPACITY (class 0x06) -/

/-- A capacity check that concerns no channel. -/
def capOf (detail : Nat) (ok : Bool) : Check := { cls := 6, detail := detail, ok := ok }

/-- The differencing load, in units of 10⁻¹⁸ s per s rounded up per stream, is at most half the FIU channels' time (R317): a frame
takes 1 µs and 2 × FRAME_BYTES at 25.6 GB/s, and 10⁹ / PERIOD frames arrive per second. -/
def Image.diffLoadOk (i : Image) : Bool :=
  let load := (i.streams.map fun r => ceilDiv (1000000000 * (10000000000 + 2 * r.frameBytes * 390625) * 100) r.period).sum
  decide (load ≤ popcount 16 (getN i.plans 0).fiu * 500000000000000000)

/-- CAPACITY: rules per identity, the stack plans, streams per input, frame rings, guard memory and the forensic ring. -/
def Image.capChecks (i : Image) : List Check :=
  (i.rules.map fun r =>
    { cls := 6, detail := 3, subject := if r.ident < 512 then r.ident else 0
      ok := decide ((i.rules.filter (·.ident == r.ident)).length ≤ 64) })
  ++ [ capOf 3 (i.plans.all fun p => decide (popcount 16 p.proc ≤ 8)),
    capOf 3 i.diffLoadOk,
    capOf 4 (i.streams.all fun r => decide ((i.streams.filter fun x => x.path == r.path && x.port == r.port).length
      ≤ if r.path = 0 then 4 else 8)),
    capOf 4 (decide ((i.streams.map fun r => r.ring * roundUp r.frameBytes 4096).sum ≤ 0x80000000)),
    capOf 6 (decide (i.fusion.stateBytes
      + (i.layers.map fun r => Config.layerSet r.op r.format r.inShape r.outShape r.weightBytes).foldl max 0 ≤ 12582912)),
    capOf 12 ((List.range i.monitors.fringGib).all fun k => !bit (getN i.plans 0).proc (2 + k)) ]

/-! ## MISSING, LOAD, TIMING, REACTION, ESCAPE -/

/-- The value of a claim. -/
def Image.claim (i : Image) (kind subject : Nat) : Option Nat :=
  (i.claims.find? fun c => c.kind == kind && c.subject == subject).map (·.value)

/-- Claims that R142 requires: kind and subject. -/
def Image.required (i : Image) : List (Nat × Nat) :=
  ((List.range 16).filter fun n => (getN i.safety.inputs n).kind == 1).map (fun n => (1, n))
    ++ (i.messages.conns.filter fun c => c.dir == 0 && bit c.flags 2).map (fun c => (2, c.conn))
    ++ [3, 4, 5].flatMap (fun k => i.bound.map fun c => (k, c.ch)) ++ [(6, 0xFFFF)] ++ i.bound.map (fun c => (7, c.ch))

/-- MISSING (class 0x0B). -/
def Image.missChecks (i : Image) : List Check :=
  i.required.map fun x => { cls := 0x0B, detail := x.1, subject := subjectOf x.1 x.2, ok := (i.claim x.1 x.2).isSome }

/-- The cycles of one result's audit in one pass (R143): its sampled tiles, whole, and every gathered row. -/
def Image.auditCycles (i : Image) (ch : Nat) : Nat :=
  let a := (i.audit ch).getD {}
  ((i.witsOf ch).map fun w =>
    if w.kind = 2 then ceilDiv (w.m * w.n) 64
    else w.sample a.tileLog2 a.log2f
      * (ceilDiv (min (2 ^ a.tileLog2) w.m) 32 * ceilDiv (min (2 ^ a.tileLog2) w.n) 32 * w.k * fmtCost w.fmtIn)).sum

/-- Core time of one result of a channel, or of one epoch, in ps: 800 ps per cycle, 1.15 for order, 2 passes (R143). -/
def loadPs (cycles : Nat) : Nat := cycles * 1840

/-- W_c in ps. -/
def Image.chanPs (i : Image) (ch : Nat) : Nat := loadPs (i.auditCycles ch)

/-- W_g in ps. -/
def Image.guardPs (i : Image) : Nat :=
  loadPs (i.layers.map fun r => Config.layerCycles r.op r.format r.inShape r.outShape).sum

/-- The cores that the load is admitted against (R143, 15 R442). -/
def Image.coresFor (i : Image) : Nat :=
  let r := i.messages.ring
  if r.borrow ≠ 0 then 14 + r.borrow else 14 - r.lend

/-- The sum of the load claims, of the channels that `p` picks. -/
def Image.claimLoad (i : Image) (p : Nat → Bool) : Nat :=
  ((i.bound.filter fun c => p c.ch).map fun c => (i.claim 5 c.ch).getD 0).sum

/-- LOAD (class 0x07; R143, 15 R442). Rates are in mHz, work in ps. -/
def Image.loadChecks (i : Image) : List Check :=
  let r := i.messages.ring
  (i.bound.map fun c =>
    { cls := 7, detail := 5, subject := c.ch
      ok := decide (c.rateMhz * i.chanPs c.ch ≤ (i.claim 5 c.ch).getD 0 * 1000000) })
  ++ [{ cls := 7, detail := 6, ok := decide (i.fusion.epochRate * i.guardPs ≤ (i.claim 6 0xFFFF).getD 0 * 1000000) },
      { cls := 7, detail := Config.loadSumDetail % 256
        ok := decide (i.claimLoad (fun _ => true) + (i.claim 6 0xFFFF).getD 0 ≤ i.coresFor * 1000000000)
          && (r.borrow == 0 || decide (i.claimLoad (fun c => decide (c < 16) && bit r.shareCh c) ≤ r.borrow * 1000000000)) }]

/-- Bytes sent and returned per lent job (15 R442): descriptors, operands, class record and exchange slot; status entries and two
digests for each descriptor (log entry 30). -/
def Image.bulkBytes (i : Image) : Nat × Nat :=
  let l := i.audChans.map fun a =>
    let n := ((i.witsOf a.ch).map fun w => if w.kind = 2 then 1 else w.sample a.tileLog2 a.log2f).sum
    let ops := ((i.witsOf a.ch).map fun w =>
      if w.kind = 2 then 4 * w.m + w.k * rowBytes w.fmtIn w.n
      else w.sample a.tileLog2 a.log2f
        * (min (2 ^ a.tileLog2) w.m * rowBytes w.fmtIn w.k + w.k * rowBytes w.fmtIn (min (2 ^ a.tileLog2) w.n))).sum
    (64 * n + ops + 32 + 4096, 32 * n + 1)
  ((l.map (·.1)).foldl max 0, (l.map (·.2)).foldl max 0)

/-- The part of T_path that does not depend on the load, in ns (R144, 15 R442). -/
def Image.pathFixed (i : Image) : Nat :=
  let r := i.messages.ring
  250000 + (if r.borrow = 0 then 0
    else 100000 * (ceilDiv i.bulkBytes.1 (26000 * max (popcount 8 r.units) 1)
      + ceilDiv i.bulkBytes.2 (26000 * max r.partnerUnits 1) + 1))

/-- `extra` ns more than T_path fit in a bound of `b` ns. -/
def Image.pathFits (i : Image) (extra b : Nat) : Bool :=
  let work := (i.bound.map fun c => i.chanPs c.ch).sum + i.guardPs
  decide ((i.pathFixed + extra) * 1000 * i.coresFor + work ≤ b * 1000 * i.coresFor)

/-- R145 for a channel. -/
def Image.ageOk (i : Image) (c : ChanRec) : Bool :=
  let age := (i.claim 3 c.ch).getD 0
  let worst := ((i.streams.filter fun r => bit c.streams r.stream).map fun r => r.offset + r.period).foldl max 0
  let l := c.ageMs * ms
  c.deadlineUs != 0
    && decide (worst + i.fusion.waitNs + c.deadlineUs * 1000 + (i.claim 4 c.ch).getD 0 + ms ≤ age)
    && decide (age * 1000000 + 200 * l ≤ l * 1000000)

/-- TIMING (class 0x08; R144, R145, 17 R487). -/
def Image.timeChecks (i : Image) : List Check :=
  (i.bound.map fun c => { cls := 8, detail := 4, subject := c.ch, ok := i.pathFits 0 ((i.claim 4 c.ch).getD 0) })
  ++ (i.bound.map fun c => { cls := 8, detail := 3, subject := c.ch, ok := i.ageOk c })
  ++ (i.bound.map fun c =>
    let tol := ((i.power.recs.find? (·.ch == c.ch)).map (·.wakeTol)).getD 0
    { cls := 8, detail := 4, subject := c.ch, ok := i.pathFits (tol * 1000) ((i.claim 4 c.ch).getD 0) })

/-- REACTION (class 0x09; R146, 13 R387), in ns: T_in = F + 1.8 ms, T_remote = W + REQ_FILTER + 2.8 ms. -/
def Image.reactChecks (i : Image) : List Check :=
  (((List.range 16).filter fun n => (getN i.safety.inputs n).kind == 1).map fun n =>
    { cls := 9, detail := 1, subject := n
      ok := decide ((getN i.safety.inputs n).filter * 500000 + 1800000 ≤ (i.claim 1 n).getD 0) })
  ++ ((i.messages.conns.filter fun c => c.dir == 0 && bit c.flags 2).map fun c =>
    { cls := 9, detail := 2, subject := c.conn % 512
      ok := decide (c.watchdog * ms + i.safety.reqFilter * 500000 + 2800000 ≤ (i.claim 2 c.conn).getD 0) })

/-- ESCAPE (class 0x0A; R147). -/
def Image.escChecks (i : Image) : List Check :=
  i.bound.map fun c =>
    let a := (i.audit c.ch).getD {}
    let e := escapeOf (2 ^ a.log2f) 1 a.refM
    { cls := 0x0A, detail := 7, subject := c.ch, ok := decide (e ≤ (i.claim 7 c.ch).getD 0 ∧ e ≤ a.doubtPpm) }

/-! ## The result (R141) -/

/-- The first check that fails: its code and its subject; 0 when every check passes. -/
def firstFail (l : List Check) : Nat × Nat := ((l.find? fun c => !c.ok).map fun c => (c.cls * 256 + c.detail, c.subject)).getD (0, 0)

/-- The weights of a slot: the WEIGHT_SIZE bytes that its image names (05 Table 5.1), 256 MiB at most. -/
def State.slotWeights (k : Nat) (s : State) : Bytes :=
  memGetN (getN s.cfg.slots k).weights 0 (min (s.slotImage k).header.weightSize 268435456)

/-- FORMAT, SIGNATURE and TARGET of a slot (R138). -/
def State.verifySlot (k : Nat) (s : State) : Nat × Nat :=
  let i := s.slotImage k
  firstFail (formatChecks i (s.slotWeights k) ++ signChecks s.secrets.key i ++ targetChecks s.start.fw i)

/-- The whole of Table 5.5 on an image and its weights, in table order. -/
def admitImage (key : Option Bytes) (fw : Nat) (i : Image) (weights : Bytes) : Nat × Nat :=
  firstFail (formatChecks i weights ++ signChecks key i ++ targetChecks fw i ++ i.rangeChecks ++ i.refLow ++ i.refHigh
    ++ i.capChecks ++ i.missChecks ++ i.loadChecks ++ i.timeChecks ++ i.reactChecks ++ i.escChecks)

/-- Admission of a slot. One that is EMPTY holds no image, whatever bytes an upload left in it, and fails FORMAT (R138, R155). -/
def State.admitSlot (k : Nat) (s : State) : Nat × Nat :=
  if (getN s.cfg.slots k).mark = .empty then (0x0100, 0)
  else admitImage s.secrets.key s.start.fw (s.slotImage k) (s.slotWeights k)

end Sys2Proof.Machine
end

