-- ==== Sys2Proof/Machine/ConfigSvc.lean ====
section
/-! DEFINITION. The configuration service (05 R131 to R157), with EXPORT (18 R505). READ stands with the registers. -/

namespace Sys2Proof

/-! ## The fields of a request frame (R136), most significant byte first -/

def CfgReq.kind (q : CfgReq) : Nat := beAt q.frame 0 1
def CfgReq.command (q : CfgReq) : Nat := beAt q.frame 1 1
def CfgReq.request (q : CfgReq) : Nat := beAt q.frame 2 2
def CfgReq.oper (q : CfgReq) : Nat := beAt q.frame 4 2
def CfgReq.session (q : CfgReq) : Nat := beAt q.frame 6 4
def CfgReq.passLen (q : CfgReq) : Nat := beAt q.frame 10 1
def CfgReq.password (q : CfgReq) : Bytes := sub q.frame 11 q.passLen
def CfgReq.payLen (q : CfgReq) : Nat := beAt q.frame (11 + q.passLen) 2
def CfgReq.payload (q : CfgReq) : Bytes := sub q.frame (13 + q.passLen) q.payLen

/-- The lengths lie in their ranges, and the frame holds what they announce. -/
def CfgReq.whole (q : CfgReq) : Bool :=
  decide (q.passLen ≤ 64 ∧ q.payLen ≤ 1400 ∧ 13 + q.passLen + q.payLen ≤ q.frame.length)

end Sys2Proof

namespace Sys2Proof.Machine

/-! ## Password and certificate (R133, 18 R507) -/

/-- The password rules (R133). -/
def passwordOk (p : Bytes) : Bool :=
  decide (10 ≤ p.length ∧ p.length ≤ 64) && p.all fun b => decide (0x20 ≤ b.toNat ∧ b.toNat ≤ 0x7E)

/-- A password is checked: 0 right, 1 BAD_PASSWORD, 2 LOCKED_OUT (R133). The fifth wrong one in a row starts the lockout. While no
password is set, none is right: the command is answered BAD_PASSWORD and counted as a wrong attempt (DESIGN CHOICE, log entry 41). -/
def State.checkPass (p : Bytes) (s : State) : Nat × State :=
  let x := s.secrets
  if x.lock ≠ 0 then (2, s)
  else if x.pass.any fun h => sha256 (h.1 ++ p) == h.2 then (0, s.putSecrets { x with wrong := 0 })
  else
    let n := (if 5 ≤ x.wrong then 0 else x.wrong) + 1
    let s := s.putSecrets { x with wrong := n, lock := if n = 5 then 600 * sec else 0 }
    let s := s.ev 0x1301 1 noSub n
    (1, if n = 5 then s.ev 0x1302 1 noSub 600 else s)

/-- A field-service certificate is accepted against a nonce: its signature, the serial number, the nonce, its expiry (18 R507). -/
def State.certOk (c : Cert) (nonce : Bytes) (s : State) : Bool :=
  c.serial == Config.serial && c.nonce == nonce && decide (s.dev ≤ c.expiry)
    && edVerify Config.krytvasKey (Config.certMessage c.serial c.nonce c.expiry c.scopeSp) c.signature

/-- A new password with a new salt. -/
def State.newPass (p : Bytes) (s : State) : Option (Bytes × Bytes) × State :=
  let (salt, s) := s.drawBytes 16
  (some (salt, sha256 (salt ++ p)), s)

/-! ## Frames (R136, R137, R151) -/

/-- The service answers on a port: firmware runs, and the link is up; in DOLDRUMS ETH0 alone (04 Table 4.5). -/
def State.cfgUp (port : Nat) (s : State) : Bool :=
  s.spRuns && !s.sys.powerFail &&
    (match s.sys.state with
    | .off => false
    | .doldrums => port == 0
    | _ => decide (port < 2) && s.sml.link.getD port false)

/-- A response frame. -/
def respFrame (cmd req st : Nat) (pay : Bytes) : Bytes := [3, byte cmd] ++ beBytes 2 req ++ [byte st] ++ pay

/-- Frames sent on a port. -/
def State.sendFrames (port : Nat) (l : List Bytes) (s : State) : State := s.each l fun f s => s.send (.eth port 0x88B5 f)

/-- The responses of the last 5 s. -/
def State.recentResps (s : State) : List Resp := s.cfg.resps.filter fun r => decide (s.now ≤ r.time + 5 * sec)

/-- A response sent and kept. -/
def State.answer (q : CfgReq) (cmd st : Nat) (pays : List Bytes) (s : State) : State :=
  let l := pays.map (respFrame cmd q.request st)
  let s := s.onCfg fun c =>
    { c with resps := s.recentResps ++ [{ source := q.source, command := cmd, request := q.request, time := s.now, frames := l }] }
  s.sendFrames q.port l

/-- A plain status. -/
def plain (st : Nat) (s : State) : Nat × List Bytes × State := (st, [[]], s)

/-- A request frame of a command: frame kind 0x02, and the command's code (R136, Table 5.4). -/
def asksFor (q : CfgReq) (cmd : Nat) : Bool := q.kind == 2 && q.command == cmd

/-- A request: a frame of another kind, or of another command, is not one; a repeated one receives its first response again;
another one is executed, and its status and payload answered: FORMAT where its lengths are not those of the frame. A command other
than READ and EXPORT wakes (17 R480). -/
def State.serve (q : CfgReq) (cmd : Nat) (f : State → Nat × List Bytes × State) (s : State) : State :=
  if !s.cfgUp q.port || !asksFor q cmd then s
  else
    match s.recentResps.find? fun r => r.source == q.source && r.command == cmd && r.request == q.request with
    | some r => s.sendFrames q.port r.frames
    | none =>
      let s := if cmd = 1 ∨ cmd = 2 then s else s.wake
      let (st, pays, s) := if q.whole then f s else plain 7 s
      s.answer q cmd st pays

/-- The gate of Table 5.4 for a command that carries a password: lockout, state, password, seals, in this order (log entry 41). -/
def State.gate (q : CfgReq) (states : List St) (seals : Bool) (s : State) : Nat × State :=
  if s.secrets.lock ≠ 0 then (2, s)
  else if !states.contains s.sys.state then (4, s)
  else
    let (r, s) := s.checkPass q.password
    if r ≠ 0 then (r, s) else if seals ∧ s.sealClass ≠ .program then (3, s) else (0, s)

/-- A gated command. -/
def State.gated (q : CfgReq) (states : List St) (seals : Bool) (f : State → Nat × List Bytes × State) (s : State) :
    Nat × List Bytes × State :=
  let (r, s) := s.gate q states seals
  if r ≠ 0 then plain r s else f s

/-- The states in which a session works (R136). -/
def uploadStates : List St := [.commission, .run, .degraded, .halted, .doldrums]

/-! ## Change log (R149, R150) -/

/-- The seal state byte of an entry. -/
def State.sealByte (s : State) : Nat :=
  s.sealPattern + fld (match s.sealClass with | .other => 0 | .run => 1 | .program => 2) 4 2
    + flg ((List.range 4).all fun i => getN s.seals.slb i == getN s.seals.sp i) 6 + flg s.seals.open_ 7

/-- Free entries. -/
def State.logFree (s : State) : Nat := 256 - s.cfg.changes.length

/-- An entry written. -/
def State.logChange (kind oper result : Nat) (hashes : List Bytes) (recovered : Bool) (s : State) : State :=
  s.onCfg fun c =>
    { c with
      changes := c.changes ++ [{ time := s.dev, kind := kind, seals := s.sealByte, oper := oper, result := result,
                                 hashes := hashes, recovered := recovered }]
      exported := false }

/-- The 512 bytes of an entry (Table 5.7). -/
def ChangeEntry.bytes (n : Nat) (e : ChangeEntry) : Bytes :=
  let b := withCrc (leBytes 8 e.time ++ leBytes 2 n ++ [byte e.kind, byte e.seals] ++ leBytes 2 e.oper ++ leBytes 2 e.result
    ++ padTo 448 e.hashes.flatten ++ [byte (b2n e.recovered)] ++ zeros 43)
  if e.good then b else modN b 508 (· ^^^ 1)

/-- The whole log as exported. -/
def State.changeBytes (s : State) : Bytes := s.cfg.changes.zipIdx.flatMap fun x => ChangeEntry.bytes x.2 x.1

/-! ## Slots (R127, R138, R161) -/

/-- The standby slot. -/
def State.standby (s : State) : Nat := 1 - s.activeSlot

/-- Change a slot. -/
def State.onImgSlot (k : Nat) (f : Slot → Slot) (s : State) : State := s.onCfg fun c => { c with slots := modN c.slots k f }

/-- CFG_ACTIVE_ID and the registers beside it, loaded (R161). -/
def State.loadIds (s : State) : State :=
  let a := s.slotImage s.activeSlot
  let b := s.slotImage s.standby
  s.onCfg fun c =>
    { c with ids := [a.header.imageId, leVal (a.digest.take 8), b.header.imageId, leVal (b.digest.take 8)]
             versions := a.header.version % 65536 + b.header.version % 65536 * 65536 }

/-- An upload session is open: 10 s without a frame end it (R138). -/
def State.uploading (s : State) : Bool := s.cfg.session.any fun x => decide (s.now < x.2 + 10 * sec)

/-- UPLOAD_BEGIN (R138): the standby slot is EMPTY, and a session opens. -/
def execUploadBegin (t : Nat) (q : CfgReq) (s : State) : Host.Outcome State Fault Refusal :=
  finish t s fun s => s.serve q 0x10 fun s => s.gated q uploadStates false (fun s =>
    if s.uploading then plain 5 s
    else
      let n := serialNext s.cfg.sessions
      let s := s.onImgSlot s.standby fun x => { x with mark := .empty }
      (0, [beBytes 4 n], s.onCfg fun c => { c with sessions := n, session := some (n, s.now), upTo := 0 }))

/-- The request names the open session, which has not lapsed. -/
def State.inSession (q : CfgReq) (s : State) : Bool :=
  s.cfg.session.any fun x => x.1 == q.session && decide (s.now < x.2 + 10 * sec)

/-- IMAGE_SIZE of the image that a session writes, once bytes 8 to 11 of it are written: 64 MiB at most. -/
def sizeSoFar (image : List Host.Cell) (offset : Nat) (data : Bytes) : Nat :=
  min 67108864 (max 12 (leVal (memGetN (memPutAll image offset (data.take (12 - offset))) 8 4)))

/-- The bytes of a frame go where they belong: those below IMAGE_SIZE to the image, the others to the weight set. -/
def Slot.write (offset : Nat) (data : Bytes) (x : Slot) : Slot :=
  let n := sizeSoFar x.image offset data
  { x with
    image := memPutAll x.image offset (data.take (n - offset))
    weights := memPutAll x.weights (offset - n) (data.drop (n - offset)) }

/-- UPLOAD_DATA (R138): bytes at an image offset of the standby slot. The offset runs on from the image into the weight set, and a
frame that would leave a gap behind what the session has written is FORMAT, so that the image comes first and the weight set after
it. How the payload holds the offset and the bytes is not laid out: `reads` says that it does, and one that does not is FORMAT (log
entry 57). -/
def execUploadData (t : Nat) (q : CfgReq) (reads : Bool) (offset : Nat) (data : Bytes) (s : State) : Host.Outcome State Fault Refusal :=
  finish t s fun s => s.serve q 0x11 fun s =>
    let last := offset + data.length
    if !uploadStates.contains s.sys.state then plain 4 s
    else if !s.inSession q then plain 9 s
    else if !reads ∨ s.cfg.upTo < offset ∨ sizeSoFar (getN s.cfg.slots s.standby).image offset data + 268435456 < last
        ∨ 1400 < data.length then
      plain 7 s
    else
      let s := s.onImgSlot s.standby (Slot.write offset data)
      plain 0 (s.onCfg fun c => { c with session := c.session.map fun x => (x.1, s.now), upTo := max c.upTo last })

/-- UPLOAD_END (R138): FORMAT, SIGNATURE and TARGET decide the slot's mark. -/
def execUploadEnd (t : Nat) (q : CfgReq) (s : State) : Host.Outcome State Fault Refusal :=
  finish t s fun s => s.serve q 0x12 fun s =>
    if !uploadStates.contains s.sys.state then plain 4 s
    else if !s.inSession q then plain 9 s
    else
      let ok : Bool := (s.verifySlot s.standby).1 = 0
      let s := s.onImgSlot s.standby fun x => { x with mark := if ok then .verified else .invalid }
      plain 0 (s.onCfg fun c => { c with session := none }).loadIds

/-- UPLOAD_SESSION_LAPSE (R138): 10 s without a frame; the slot stays EMPTY. -/
def execUploadSessionLapse (t : Nat) (s : State) : Host.Outcome State Fault Refusal :=
  finish t s fun s => s.with s.cfg.session fun x s =>
    if s.past x.2 (10 * sec) then s.onCfg fun c => { c with session := none } else s

/-! ## Activation and restart (R139, R140, R154; 01 R18) -/

/-- The SAFETY hash that a directory holds. -/
def Image.safetyHash (i : Image) : Bytes := ((i.header.dir.find? (·.ty == 9)).map (·.hash)).getD []

/-- ACTIVATE after its gate. -/
def State.activateNow (q : CfgReq) (s : State) : Nat × List Bytes × State :=
  let old := s.slotImage s.activeSlot
  let new := s.slotImage s.standby
  let safety := new.safetyHash != old.safetyHash
  if (safety ∨ new.header.version ≤ old.header.version) ∧ s.sealClass ≠ .program then plain 3 s
  else if s.logFree < (if safety then 2 else 1) then plain 6 s
  else
    let (code, subject) := s.admitSlot s.standby
    let s := s.onCfg fun c => { c with result := code, subject := subject, atStart := false }
    if code ≠ 0 then (8, [beBytes 2 code], (s.logChange 1 q.oper code new.hashes false).loadIds)
    else if !s.slb.toSp.isEmpty ∨ !s.sys.pendTrips.isEmpty then plain 4 s
    else
      let s := s.onCfg fun c => { c with role := Copies.put s.standby }
      plain 0 (s.logChange 1 q.oper 0 new.hashes false).loadIds

/-- ACTIVATE (R139, R140): on success the slots swap and START is entered within the same SP cycle. -/
def execActivate (t : Nat) (q : CfgReq) (s : State) : Host.Outcome State Fault Refusal :=
  finish t s fun s =>
    let was := s.activeSlot
    let s := s.serve q 0x20 fun s =>
      if s.secrets.lock = 0 ∧ s.sys.state = .commission ∧ s.uploading then plain 5 s
      else s.gated q [.commission] false (State.activateNow q)
    if s.activeSlot ≠ was then s.beginStart true true else s

/-- Debug disabled (18 R508). -/
def State.dbgOff (s : State) : State :=
  if s.dbg.enabled then
    (s.onDbg fun d => { d with enabled := false, method := 0, scopeSp := false, extest := false }).ev 0x1203 0 noSub 0
  else s

/-- A gated request with an effect beyond its answer is executed now: not a repetition, and past its gate. -/
def State.acts (q : CfgReq) (cmd : Nat) (states : List St) (seals : Bool) (s : State) : Bool :=
  s.cfgUp q.port && asksFor q cmd && q.whole && !(s.recentResps.any fun r => r.source == q.source && r.command == cmd && r.request == q.request)
    && (s.gate q states seals).1 == 0

/-- RESTART (R136, 01 R18): COMMISSION becomes START; with the seals in the RUN pattern debug ends (18 R508). -/
def execRestart (t : Nat) (q : CfgReq) (s : State) : Host.Outcome State Fault Refusal :=
  finish t s fun s =>
    let go := s.acts q 0x21 [.commission] false
    let s := s.serve q 0x21 (State.gated q [.commission] false (plain 0))
    if go then (if s.sealClass = .run then s.dbgOff else s).beginStart true true else s

/-! ## Secrets (R133 to R135) -/

/-- What ENROL asks for is well formed. -/
def enrolOk (first : Bool) (key newPassword : Option Bytes) (pattern : Option Nat) : Bool :=
  key.all (·.length == 32) && newPassword.all passwordOk && pattern.all (within 1 14)
    && (if first then key.isSome && newPassword.isSome && pattern.isSome else key.isSome || newPassword.isSome || pattern.isSome)

/-- ENROL after its gate. -/
def State.enrolNow (q : CfgReq) (first : Bool) (key newPassword : Option Bytes) (pattern : Option Nat) (s : State) :
    Nat × List Bytes × State :=
  if !enrolOk first key newPassword pattern then plain 7 s
  else if s.logFree = 0 then plain 6 s
  else
    let (pass, s) := match newPassword with
      | some p => s.newPass p
      | none => (s.secrets.pass, s)
    let x := s.secrets
    let s := s.putSecrets { x with key := key.or x.key, pass := pass, run := pattern.or x.run }
    plain 0 (s.logChange 3 q.oper 0 [] false)

/-- ENROL (R134): the first one needs the seals in PROGRAM and no password; a later one also the current password. -/
def execEnrol (t : Nat) (q : CfgReq) (key newPassword : Option Bytes) (pattern : Option Nat) (s : State) :
    Host.Outcome State Fault Refusal :=
  finish t s fun s => s.serve q 0x30 fun s =>
    if s.secrets.pass.isNone then
      (if s.sys.state ≠ .commission then plain 4 s
        else if s.sealClass ≠ .program then plain 3 s
        else s.enrolNow q true key newPassword pattern)
    else s.gated q [.commission] true (State.enrolNow q false key newPassword pattern)

/-- SET_PASSWORD (R133). -/
def execSetPassword (t : Nat) (q : CfgReq) (newPassword : Bytes) (s : State) : Host.Outcome State Fault Refusal :=
  finish t s fun s => s.serve q 0x31 fun s => s.gated q [.commission] true (fun s =>
    if !passwordOk newPassword then plain 7 s
    else if s.logFree = 0 then plain 6 s
    else
      let (pass, s) := s.newPass newPassword
      let s := s.putSecrets { s.secrets with pass := pass }
      plain 0 (s.logChange 4 q.oper 0 [] false))

/-- FIELD_RESET (R135): a field-service certificate, the seals in PROGRAM and COMMISSION. -/
def execFieldReset (t : Nat) (q : CfgReq) (cert : Cert) (s : State) : Host.Outcome State Fault Refusal :=
  finish t s fun s => s.serve q 0x70 fun s =>
    if s.sys.state ≠ .commission then plain 4 s
    else if !s.certOk cert s.dbg.nonce then plain 1 s
    else if s.sealClass ≠ .program then plain 3 s
    else if s.logFree = 0 then plain 6 s
    else plain 0 ((s.putSecrets {}).logChange 6 q.oper 0 [] false)

/-- LOCKOUT_END (R133): the lockout has run down; the wrong-password count clears. -/
def execLockoutEnd (t : Nat) (s : State) : Host.Outcome State Fault Refusal :=
  finish t s fun s =>
    if s.sup.on ∧ s.secrets.lock = 0 ∧ 5 ≤ s.secrets.wrong then s.putSecrets { s.secrets with wrong := 0 } else s

/-! ## Calendar (03 R80, R81) -/

/-- The states of SET_RTC and SET_UTC_OFS. -/
def rtcStates : List St := [.commission, .run, .degraded, .halted]

/-- SET_RTC (03 R80, R81): a load, which the change log records, or following. -/
def execSetRtc (t : Nat) (q : CfgReq) (op : RtcOp) (s : State) : Host.Outcome State Fault Refusal :=
  finish t s fun s => s.serve q 0x40 fun s => s.gated q rtcStates false (fun s =>
    match op with
    | .follow => plain 0 s.rtcFollow
    | .load v =>
      if !(calOf v).ok then plain 0 (s.rtcLoad v)
      else if s.logFree = 0 then plain 6 s
      else plain 0 ((s.rtcLoad v).logChange 7 q.oper 0 [] false))

/-- SET_UTC_OFS (03 R80, R90): a following calendar moves at its next tenth. -/
def execSetUtcOfs (t : Nat) (q : CfgReq) (ofs : Nat) (s : State) : Host.Outcome State Fault Refusal :=
  finish t s fun s => s.serve q 0x41 fun s => s.gated q rtcStates false (fun s =>
    if s.logFree = 0 then plain 6 s
    else
      let s := s.onRtc fun r => { r with utc := toSigned 16 (ofs % 65536), followDue := r.following }
      plain 0 (s.logChange 7 q.oper 0 [] false))

/-! ## Change log and DOLDRUMS commands (R150, 04 R121) -/

/-- CLEAR_CHANGE_LOG (R150): only after an export of the whole log with no entry written since. -/
def execClearChangeLog (t : Nat) (q : CfgReq) (s : State) : Host.Outcome State Fault Refusal :=
  finish t s fun s => s.serve q 0x51 fun s => s.gated q [.commission] false (fun s =>
    if !s.cfg.exported then plain 4 s
    else
      let h := sha256 s.changeBytes
      plain 0 ((s.onCfg fun c => { c with changes := [] }).logChange 5 q.oper 0 [h] false))

/-- CLEAR_DOLDRUMS (04 R121): both counter copies become 0, and a warm start begins. -/
def execClearDoldrums (t : Nat) (q : CfgReq) (s : State) : Host.Outcome State Fault Refusal :=
  finish t s fun s =>
    let go := s.acts q 0x60 [.doldrums] true
    let s := s.serve q 0x60 (State.gated q [.doldrums] true (plain 0))
    if go then
      let s := s.onNvm fun n => { n with counter := Copies.put 0, reason := 0 }
      (s.evOpen 0x00 "DOLDRUMS_CLEARED" noSub 0).beginStart true true
    else s

/-! ## EXPORT (18 R505) -/

/-- Data cut into fragments of up to 1400 bytes; no data makes one empty fragment. -/
def fragments : Nat → Bytes → List Bytes
  | 0, b => [b]
  | n + 1, b => if b.length ≤ 1400 then [b] else b.take 1400 :: fragments n (b.drop 1400)

/-- The payloads of an export: OBJECT, fragment index, last-fragment flag, data. -/
def exportFrames (object : Nat) (b : Bytes) : List Bytes :=
  let l := fragments (b.length / 1400 + 1) b
  l.zipIdx.map fun x => [byte object] ++ beBytes 4 x.2 ++ [byte (b2n (decide (x.2 + 1 = l.length)))] ++ x.1

/-- Up to `count` items, 0 for all. -/
def some' {α : Type} (count : Nat) (l : List α) : List α := if count = 0 then l else l.take count

/-- An entry of the frame forensic ring as it lies in MS0; a header with a bad CRC gives one with length 0 (18 R513). -/
def State.fringBytes (e : FringEntry) (s : State) : Bytes :=
  let b := s.peekN (fringBase + e.at_) e.len
  if crcOk (b.take 64) then b else withCrc (ascii "FRMF" ++ zeros 56)

/-- What an export of an object holds. -/
def State.exportBytes (object first count : Nat) (s : State) : Bytes :=
  match object with
  | 1 => (some' count (s.ret.log.filter fun e => !serialAbove first e.seq)).flatMap LogEntry.bytes
  | 2 => (some' count (s.ret.frs.filter fun e => !serialAbove first e.num)).flatMap (·.data)
  | 3 => (some' count (s.cfg.changes.zipIdx.drop first)).flatMap fun x => ChangeEntry.bytes x.2 x.1
  | _ => (some' count (s.log.fring.filter fun e => decide (first ≤ e.seq))).flatMap fun e => s.fringBytes e

/-- EXPORT (18 R505): what exists between FIRST and the newest item. -/
def execExportObject (t : Nat) (q : CfgReq) (object first count : Nat) (s : State) : Host.Outcome State Fault Refusal :=
  finish t s fun s => s.serve q 0x02 fun s =>
    if s.sys.state = .start ∨ (s.sys.state = .doldrums ∧ object = 4) then plain 4 s
    else if object = 0 ∨ 4 < object then plain 7 s
    else
      let whole : Bool := object == 3 && first == 0 && (count == 0 || decide (s.cfg.changes.length ≤ count))
      (0, exportFrames object (s.exportBytes object first count), s.onCfg fun c => { c with exported := c.exported || whole })

/-! ## Hash re-verification (R157) -/

/-- A section's working copy, SIGNATURE's among them, or the weights in the stacks, no longer have their hash. -/
def State.hashBad (s : State) : Bool :=
  let b := slotBytes s.cfg.work
  let h := s.img.header
  s.cfg.admitted && (sha256 (sub b 0 768) != s.img.digest
    || (h.dir.any fun e => sha256 (sub b e.ofs e.len) != e.hash) || sha256 (sub b (b.length - 96) 96) != getN s.img.hashes 13
    || sha256 (s.peekN guardBase (min h.weightSize 268435456)) != h.weightHash)

/-- HASH_REVERIFY (R157, 17 R483): a mismatch makes every verdict VOID until the next start. -/
def execHashReverify (t : Nat) (s : State) : Host.Outcome State Fault Refusal :=
  finish t s fun s =>
    if s.spRuns ∧ rtcStates.contains s.sys.state then
      let s := if s.hashBad ∧ !s.cfg.hashFail then
          (s.onCfg fun c => { c with hashFail := true }).evOpen 0x13 "HASH_FAIL" noSub 0
        else s
      (s.bgDone 3).settleWork
    else s

end Sys2Proof.Machine
end

