-- ==== Sys2Proof/Machine/Cores.lean ====
section
/-! DEFINITION. The commands of the audit cores, the Vane and the SAFE_STATE classes (08 R225 to R242, 10 R276 to R283). -/

namespace Sys2Proof.Machine

/-! ## Dispatch (08 R225, 18 R509) -/

/-- The breakpoint that matches a descriptor, the lowest first. -/
def State.hit (d : Desc) (s : State) : Option Nat :=
  if s.dbg.enabled then s.dbg.bps.findIdx? fun b => BpMatch.hits d b else none

/-- DBG_HIT and DBG_HIT_JOB (18 R518). -/
def State.noteHit (core bp job : Nat) (safe : Bool) (s : State) : State :=
  s.onDbg fun d => { d with hitCore := core, hitBp := bp, hitSafe := safe, hitJob := job }

/-- A breakpoint halts its core before the descriptor starts: the core holds it until it runs again, and pairing breaks (R281,
R509). -/
def State.bpHalt (core : Nat) (s : State) : State :=
  ((s.onDbg fun d => { d with stepping := setN d.stepping core false }).haltMask (setN s.dbg.halted core true)).breakPairs

/-- An admitted core takes a ready pass. -/
def State.takePass (core job i pass : Nat) (s : State) : State :=
  match s.jobOf job with
  | none => s
  | some j =>
    let d := { (j.descs[i]?.getD default).desc with job := job }
    match s.hit d with
    | none => s.startPass core job i pass
    | some b =>
      if (s.clsFor j).safeState then (s.noteHit core b job true).startPass core job i pass
      else ((s.noteHit core b job false).startPass core job i pass).bpHalt core

/-- A probation core takes a copy (R240); it keeps the descriptor, which may outlive its job. -/
def State.takeCopy (core job i : Nat) (s : State) : State :=
  let d := ((s.jobOf job).bind fun j => j.descs[i]?).elim {} (·.desc)
  let s := s.onAud fun a => { a with copies := a.copies ++ [{ core := core, job := job, index := i, desc := d }] }
  s.onCore core fun c => { c with run := some { job := job, index := i, pass := 3, start := s.now }, gated := false }

/-- The die is out of reset: no thermal trip holds it, no clock failure and no failed stage (R234, 04 R91, R114). -/
def State.dieRuns (s : State) : Bool := s.sup.on && !s.sup.thermal && !s.sys.spHeld && s.start.holdAt.isNone

/-- DESCRIPTOR_DISPATCH (R225): an idle admitted core takes the oldest ready descriptor of VP; a probation core a copy. -/
def execDescriptorDispatch (t core : Nat) (s : State) : Host.Outcome State Fault Refusal :=
  finish t s fun s =>
    if core < 16 ∧ s.dieRuns ∧ s.coreReady core then
      match (s.acore core).state with
      | .admitted => s.with (s.nextFor core) fun x s => (s.takePass core x.1 x.2.1 x.2.2).settleWork
      | .probation => s.with s.copyable fun x s => s.takeCopy core x.1 x.2
      | _ => s
    else s

/-! ## Completion (08 R227, R236, R238) -/

/-- The descriptor a core completes, unless debug halts the core inside it or the die is in reset (R234). -/
def State.running (core : Nat) (s : State) : Option Run :=
  if getN s.dbg.halted core ∨ !s.dieRuns then none else (s.acore core).run

/-- The descriptor that a core runs. -/
def State.descOf (core : Nat) (r : Run) (s : State) : Desc :=
  if r.pass = 3 then (s.aud.copies.find? fun c => c.core == core && c.job == r.job && c.index == r.index).elim {} (·.desc)
  else ((s.jobOf r.job).bind fun j => j.descs[r.index]?).elim {} (·.desc)

/-- The ranges that a pass reads (R228): operands, of a guard layer its frame, weights and state. -/
def State.readRanges (core : Nat) (r : Run) (s : State) : List (Nat × Nat) :=
  let d := s.descOf core r
  match s.jobOf r.job with
  | some j => if j.kind = .guard then s.layerOwn r.index d else d.ranges.filterMap fun x => if x.1 then none else some x.2
  | none => d.ranges.filterMap fun x => if x.1 then none else some x.2

/-- The stack errors that the reads of a pass found (11 R306, R322). -/
def State.coreErrors (core : Nat) (r : Run) (hw : CoreHw) (s : State) : State :=
  let l := s.readRanges core r
  s.each [0, 1] fun k s =>
    let mine (x : List Nat) : List Nat := x.filter fun g => granIn l g && inStack k (g * 32, 32)
    if (mine hw.fixed).isEmpty ∧ (mine hw.bad).isEmpty then s else s.readErrors k (mine hw.fixed).length (mine hw.bad)

/-- DESCRIPTOR_COMPLETE (R227): the status entry, the Vane's comparison, and BIST after an uncorrectable error (R237). -/
def execDescriptorComplete (t core : Nat) (hw : CoreHw) (s : State) : Host.Outcome State Fault Refusal :=
  finish t s fun s => s.with (s.running core) fun r s =>
    let s := (s.coreErrors core r hw).onCore core fun c => { c with ecc := satAdd 32 c.ecc hw.corrected }
    let s := s.onFgu fun g => { g with copyEcc := hw.copyEcc }
    let s := if r.pass = 3 then s.endCopy core r hw else s.endPass core r hw
    let s := if hw.uncorrectable then s.toBist core 5 false else s
    let s := ((s.latency 0x07 core (s.now - r.start - r.halt)).coreFree core).settleWork.commitMemory
    s.onFgu fun g => { g with copyEcc := false }

/-- The watchdog of a run in ns (R236); leeward passes and reruns count their copies (10 R266). -/
def State.watchdogOf (core : Nat) (r : Run) (s : State) : Nat := (s.descOf core r).watchdog (r.pass == 1 || r.pass == 2)

/-- A pass ends HANG (R236): its job fails, or the arbitration has no outcome. -/
def State.hangPass (core : Nat) (r : Run) (s : State) : State :=
  let s := s.statEntry core { job := r.job, index := r.index, status := 4, core := core, pass := r.pass }
  if r.pass = 3 then
    s.loseCopies fun c => c.core == core && c.job == r.job && c.index == r.index
  else
    let s := s.onJob r.job fun j => { j with descs := modN j.descs r.index (JobDesc.setPass r.pass (.ended core 0 0 4)) }
    if r.pass = 2 then s.arbOutcome r.job r.index 4 core
    else (s.onJob r.job (Job.fail 4 false)).dropCopies r.job r.index

/-- DESCRIPTOR_HANG (R236): past 2 × 1.15 × T_d + 10 µs, time halted by debug not counted (R509). -/
def execDescriptorHang (t core : Nat) (s : State) : Host.Outcome State Fault Refusal :=
  finish t s fun s => s.with (s.running core) fun r s =>
    if r.start + r.halt + s.watchdogOf core r < s.now then
      (((s.hangPass core r).toBist core 4 false).coreFree core).settleWork
    else s

/-- CORE_BIST_COMPLETE (R238 to R241, 10 R278): the core returns to service or is fenced; a readmission attempt that
passes starts probation. -/
def execCoreBistComplete (t core : Nat) (ok : Bool) (s : State) : Host.Outcome State Fault Refusal :=
  finish t s fun s =>
    let c := s.acore core
    if s.dieRuns ∧ c.state = .bist then
      let s := s.zeroLocal core
      if !ok then (s.fence core c.bistFor).settleWork
      else
        let s := s.onCore core fun c =>
          { c with state := if c.readmit then .probation else .admitted, prob := 0, readmit := false, suspect := false
                   idleAt := s.now }
        let s := if c.suspect then s.onVane fun v => { v with cleared := satInc v.cleared } else s
        s.settleWork
    else s

/-! ## Rolling self-test (08 R239, R240; 17 R483, R484) -/

/-- PSM_BG1_STAT shows what the admitted cores' own deadlines show (17 R484, R490). -/
def State.syncTests (s : State) : State :=
  let l := (s.psm.tests.zip s.aud.cores).filter fun x => x.2.serves
  s.onBg 1 fun b => { b with urgent := l.any (·.1.urgent), twice := l.any (·.1.twice) }

/-- A rolling self-test of a core is complete (17 R483). -/
def State.testDone (core : Nat) (s : State) : State :=
  let s := s.onCore core fun c => { c with seg := 0, testAt := some s.now }
  (s.onPsm fun p => { p with tests := modN p.tests core (Bg.done s.now) }).syncTests

/-- A core leaves its segment. -/
def State.endSegment (core : Nat) (s : State) : State := s.onCore core fun c => { c with state := .admitted, idleAt := s.now }

/-- A core is admitted and idle, so it can take a descriptor at once. -/
def State.idleCore (n : Nat) (s : State) : Bool := s.coreReady n && (s.acore n).state == .admitted

/-- ROLLING_SELFTEST_SEGMENT (R225, R239, R240). A segment starts on an admitted idle core while VP holds no ready descriptor; it is
done, or fails and fences the core, whose memory BIST has run (R235); it is abandoned for a ready VP descriptor where no other
admitted core is idle, and leaves no progress. On a fenced core with an attempt left, the start of a test is that of its
readmission BIST. -/
def execRollingSelftestSegment (t core : Nat) (e : SegEnd) (s : State) : Host.Outcome State Fault Refusal :=
  finish t s fun s =>
    let c := s.acore core
    if core < 16 ∧ s.dieRuns ∧ s.coreReady core ∧ (s.sys.state.permits ∨ s.sys.state = .halted) then
      match c.state, e with
      | .admitted, .started => if s.vpReady then s else s.onCore core fun c => { c with state := .testing, gated := false }
      | .testing, .done =>
        let s := s.endSegment core
        if c.seg + 1 < 16 then s.onCore core fun c => { c with seg := c.seg + 1 } else (s.zeroLocal core).testDone core
      | .testing, .failed => ((s.zeroLocal core).fence core 2).settleWork
      | .testing, .abandoned =>
        if s.vpReady ∧ !((List.range 16).any fun n => n != core && s.idleCore n) then s.endSegment core else s
      | .fenced, .started =>
        if !s.vpReady ∧ c.attempts < 3 then s.onCore core fun c =>
          { c with attempts := c.attempts + 1, state := .bist, readmit := true, bistFor := 8 }
        else s
      | _, _ => s
    else s

/-! ## The Vane's self-test (10 R282, Table 10.5) -/

/-- The lane the self-test sequencer takes next. -/
def Vane.nextTest (v : Vane) : Option (Nat × Option Nat) :=
  (v.lanes.findIdx? (·.testing)).map fun k => (k, (getN v.lanes k).slot)

/-- Table 10.5 for a lane: failed, or back in service with a transient counted; the third within 60 min fences it. -/
def Lane.tested (now : Nat) (laneOk slotOk : Bool) (l : Lane) : Lane :=
  if !laneOk then { l with ok := false, testing := false }
  else if !slotOk then { l with testing := false }
  else
    let times := (l.times.filter fun i => decide (now ≤ i + 3600 * sec)) ++ [now]
    { l with ok := l.ok && decide (times.length < 3), testing := false, trans := satAdd 8 l.trans 1, times := times }

/-- VANE_SELFTEST_COMPLETE (R282, R290, Table 10.5). -/
def execVaneSelftestComplete (t : Nat) (laneOk slotOk : Bool) (s : State) : Host.Outcome State Fault Refusal :=
  finish t s fun s => s.with s.vane.selftest fun x s =>
    let s := s.onVane fun v =>
      { v with lanes := modN v.lanes x.1 (Lane.tested s.now laneOk slotOk)
               slots := (match x.2, slotOk with | some k, false => modN v.slots k fun y => { y with retired := true } | _, _ => v.slots)
               selftest := none }
    let lost : Bool := !(getN s.vane.lanes x.1).ok
    let retired : Bool := x.2.isSome && !slotOk
    (s.onVane fun v => { v with selftest := v.nextTest
                                events := v.events ||| (flg lost 2 + flg retired 3) }).settleWork

/-! ## SAFE_STATE classes (10 R271, R283) -/

/-- SAFE_STATE_JOB_ISSUE (R271): the job of a SAFE_STATE class of the image falls due. -/
def execSafeStateJobIssue (t cls : Nat) (s : State) : Host.Outcome State Fault Refusal :=
  finish t s fun s =>
    if s.dieRuns ∧ s.sys.state.permits ∧ (s.img.cls cls).any ClassRec.safeState then ((s.issueSafe cls).wake).settleWork else s

/-- SAFE_STATE_DEADLINE (R283): no MATCH within DEADLINE_US of the original job's registration raises trip 0x0A. -/
def execSafeStateDeadline (t cls : Nat) (s : State) : Host.Outcome State Fault Refusal :=
  finish t s fun s => s.with ((s.aud.orig[cls]?).join) fun i s => s.with (s.img.cls cls) fun r s =>
    if s.past i (r.deadlineUs * 1000) then
      (s.onAud fun a => { a with orig := setN a.orig cls none }).spTrip 0x0A false
    else s

end Sys2Proof.Machine
end

