-- ==== Sys2Proof/Machine/Tap.lean ====
section
/-! DEFINITION. The J5 TAP and the debug commands (18 R506 to R511). Memory access stands with the registers. -/

namespace Sys2Proof.Machine

/-! ## The TAP (R506) -/

/-- An instruction is loaded. -/
def State.tapIr (code : Nat) (s : State) : State := s.onDbg fun d => { d with ir := code, extest := false }

/-- A status byte and data shifted out. -/
def State.shiftOut (status : Nat) (data : Bytes) (s : State) : State := s.send (.tdo status data)

/-- IDCODE. -/
def execIdcode (t : Nat) (s : State) : Host.Outcome State Fault Refusal :=
  finish t s fun s => s.when s.sup.on fun s => (s.tapIr 0x01).shiftOut 0 (leBytes 4 0x0480D0A5)

/-- SAMPLE/PRELOAD, as IEEE 1149.1: the pins are captured and shifted out, and the preload value is held for EXTEST. -/
def execSamplePreload (t pins preload : Nat) (s : State) : Host.Outcome State Fault Refusal :=
  finish t s fun s => s.when s.sup.on fun s =>
    ((s.tapIr 0x02).onDbg fun d => { d with capture := pins, preload := preload }).shiftOut 0 (leBytes 8 pins)

/-- The one-bit bypass register: 64 bits shifted in leave one TCK later, after the captured 0. -/
def State.bypassShift (code tdi : Nat) (s : State) : State :=
  ((s.tapIr code).onDbg fun d => { d with bypass := bits tdi 63 1 }).shiftOut 0 (leBytes 8 (tdi * 2))

/-- EXTEST: the held preload value drives the pins and the inputs are captured, only while debug is enabled and TORQUE is 0;
otherwise it acts as BYPASS. -/
def execExtest (t pins : Nat) (s : State) : Host.Outcome State Fault Refusal :=
  finish t s fun s => s.when s.sup.on fun s =>
    if s.dbg.enabled ∧ !s.torque then
      ((s.tapIr 0x03).onDbg fun d => { d with extest := true, capture := pins }).shiftOut 0 (leBytes 8 pins)
    else s.bypassShift 0x03 0

/-- BYPASS, and every code without an instruction. -/
def execBypass (t tdi : Nat) (s : State) : Host.Outcome State Fault Refusal :=
  finish t s fun s => s.when s.sup.on (State.bypassShift 0x3F tdi)

/-- DBG_NONCE. -/
def execDbgNonce (t : Nat) (s : State) : Host.Outcome State Fault Refusal :=
  finish t s fun s => s.when s.sup.on fun s => (s.tapIr 0x10).shiftOut 0 s.dbg.nonce

/-! ## Unlock and lock (R507, R508, 04 R112) -/

/-- The nonce is drawn anew. -/
def State.newNonce (s : State) : State :=
  let (n, s) := s.drawBytes 16
  s.onDbg fun d => { d with nonce := n }

/-- Debug is enabled: from RUN or DEGRADED by certificate the next SP cycle leads to COMMISSION (01 Table 1.5). -/
def State.dbgOn (method : Nat) (scopeSp : Bool) (s : State) : State :=
  let s := s.onDbg fun d => { d with enabled := true, method := method, scopeSp := scopeSp }
  let s := s.ev 0x1202 1 noSub method
  if method = 2 ∧ (s.sys.state = .run ∨ s.sys.state = .degraded) then s.onSys fun y => { y with dbgDue := true } else s

/-- A request decided against a nonce: the status of R507. -/
def State.unlockNow (r : UnlockReq) (nonce : Bytes) (s : State) : Nat × State :=
  match r with
  | .password p =>
    let (c, s) := s.checkPass p
    if c = 2 then (2, s) else if c = 1 then (1, s)
    else if s.sealClass ≠ .program then (3, s) else (0, s.dbgOn 1 false)
  | .certificate c => if s.certOk c nonce then (0, s.dbgOn 2 c.scopeSp) else (1, s)

/-- UNLOCK_REFUSED where the status refuses. -/
def State.unlockNote (status : Nat) (s : State) : State := if status = 0 ∨ status = 6 then s else s.ev 0x1204 1 noSub status

/-- A request held since START, decided at S8 against the nonce of its arrival (04 R112). -/
def State.unlockHeld (s : State) : State :=
  match s.dbg.held with
  | some h =>
    let s := s.onDbg fun d => { d with held := none }
    let (c, s) := s.unlockNow h.req h.nonce
    s.unlockNote c
  | none => s

/-- What a request is answered with. -/
def State.unlockAnswer (r : UnlockReq) (s : State) : Nat × State :=
  match s.sys.state with
  | .off | .doldrums => (4, s)
  | .start => (6, s.onDbg fun d => { d with held := some { req := r, nonce := d.nonce } })
  | _ => s.wake.unlockNow r s.dbg.nonce

/-- DBG_UNLOCK (R507). -/
def execDbgUnlock (t : Nat) (r : UnlockReq) (s : State) : Host.Outcome State Fault Refusal :=
  finish t s fun s => s.when s.sup.on fun s =>
    let (c, s) := (s.tapIr 0x11).unlockAnswer r
    (s.unlockNote c).newNonce.shiftOut c []

/-- DBG_LOCK (R508). -/
def execDbgLock (t : Nat) (s : State) : Host.Outcome State Fault Refusal :=
  finish t s fun s => s.when s.sup.on fun s => ((s.tapIr 0x12).dbgOff).shiftOut 0 []

/-! ## Core control (R509) -/

/-- A DBG_CMD: status STATE while debug is disabled (R506). -/
def State.dbgCmd (s : State) (f : State → State) : State :=
  s.when s.sup.on fun s =>
    let s := s.tapIr 0x13
    if s.dbg.enabled then (f s).shiftOut 0 [] else s.shiftOut 4 []

/-- The halted mask with the cores of `mask` set or cleared. -/
def Dbg.mask (d : Dbg) (mask : Nat) (on : Bool) : List Bool :=
  d.halted.zipIdx.map fun x => if bit mask x.2 then on else x.1

/-- A halt of any unit during S3 or S4 fails the stage (04 R113). -/
def State.haltFails (s : State) : State :=
  if s.sys.state = .start ∧ (s.start.stage = 3 ∨ s.start.stage = 4) ∧ s.start.holdAt.isNone then s.stageFail 0x03 else s

/-- HALT. -/
def execHalt (t mask : Nat) (s : State) : Host.Outcome State Fault Refusal :=
  finish t s fun s => s.dbgCmd fun s =>
    if mask % 2 ^ 16 = 0 then s
    else
      let l := s.dbg.mask mask true
      let s := s.onDbg fun d => { d with stepping := d.stepping.zipIdx.map fun x => x.1 && !bit mask x.2 }
      ((s.haltMask l).breakPairs).haltFails

/-- RESUME: a descriptor in progress completes; pairing is restored once every job registered during the break has ended. -/
def execDbgResume (t mask : Nat) (s : State) : Host.Outcome State Fault Refusal :=
  finish t s fun s => s.dbgCmd fun s => (s.haltMask (s.dbg.mask mask false)).settleBreak

/-- STEP: the halted core runs until its next descriptor completes. -/
def execStep (t core : Nat) (s : State) : Host.Outcome State Fault Refusal :=
  finish t s fun s => s.dbgCmd fun s =>
    if core < 16 ∧ getN s.dbg.halted core then
      (s.onDbg fun d => { d with stepping := setN d.stepping core true }).haltMask (setN s.dbg.halted core false)
    else s

/-- SET_BP. -/
def execSetBp (t slot : Nat) (m : BpMatch) (s : State) : Host.Outcome State Fault Refusal :=
  finish t s fun s => s.dbgCmd fun s => if slot < 4 then s.onDbg fun d => { d with bps := setN d.bps slot m } else s

/-- DBG_SP (R511): accepted only after a certificate unlock with scope SP. A halted SP stops the firmware heartbeat. -/
def execDbgSp (t : Nat) (op : DbgSpOp) (s : State) : Host.Outcome State Fault Refusal :=
  finish t s fun s => s.when s.sup.on fun s =>
    let s := s.tapIr 0x15
    if s.dbg.enabled ∧ s.dbg.method = 2 ∧ s.dbg.scopeSp then
      match op with
      | .halt => (s.onDbg fun d => { d with spHalted := true }).haltFails.shiftOut 0 []
      | .resume => (s.onDbg fun d => { d with spHalted := false }).shiftOut 0 []
    else s.shiftOut 4 []

end Sys2Proof.Machine
end

