-- ==== Sys2Proof/Machine/Start.lean ====
section
/-! DEFINITION. Start-up (04): the stages S0 to S8, their time limits, reconciliation of the journal (19 R527 to R530), and what
S8 opens. -/

namespace Sys2Proof.Machine

/-! ## Stages (R92, R93) -/

/-- The limit of a stage in ns (Table 4.1). -/
def stageLimit (n : Nat) : Nat := getN [2000, 500, 500, 1000, 5000, 1000, 3000, 6500, 500] n * ms

/-- The stage in progress: the die is in START, not held in reset, and works on stage `n`. -/
def State.inStage (n : Nat) (s : State) : Bool :=
  s.sup.on && !s.sys.powerFail && !s.sup.thermal && s.sys.state == .start && s.start.stage == n && s.start.holdAt.isNone
    && !s.start.clkHeld && !s.sys.spHeld

/-- A stage ends within its limit, or fails with TIME_LIMIT, or with START_WATCHDOG 20 s after S0; an OUTPUT_FAULT after S4 fails the
stage in progress with the cause of its output (R112; log entry 56). -/
def State.stage (n : Nat) (f : State → State) (s : State) : State :=
  if !s.inStage n then s
  else if s.start.stageAt + stageLimit n < s.now then s.stageFail 0x01
  else if s.start.s0At + 20 * sec < s.now then s.stageFail 0x02
  else if 5 ≤ n ∧ getN s.slb.outSeen 0 then s.stageFail 0x15
  else if 5 ≤ n ∧ getN s.slb.outSeen 1 then s.stageFail 0x16
  else f s

/-- The next stage is entered. -/
def State.passStage (n : Nat) (s : State) : State := s.onStart fun x => { x with stage := n + 1, stageAt := s.now }

/-- Start records still to be logged (R114). -/
def State.flushOwed (s : State) : State :=
  let l := s.start.owed
  (s.onStart fun x => { x with owed := [] }).each l fun c s => s.ev 0x0003 3 noSub c

/-! ## Resumed numbers (R166 in 06, 12 R329, R344; 19 R530) -/

/-- The last number before a resumption from a checkpoint: the first new one is the checkpoint plus 2²⁰. -/
def resumeLast (cp : Nat) : Nat := (cp + 2 ^ 20 - 1) % 2 ^ 32

/-- VRD_Qq_NEXT and the newest accepted number of each bound queue, from its channel's last RESULT_SEQ; from its
checkpoint where retention SRAM holds none (R118, 12 R329). -/
def State.loadNext (s : State) : State :=
  s.each (List.range 64) fun q s => s.with (s.boundChan q) fun c s =>
    let n := if s.ret.held then getN s.ret.results c.ch else resumeLast (getN s.nvm.cpResult c.ch)
    s.onVq q fun v => { v with next := serialNext n, newest := n }

/-- DOLDRUMS is entered at a start (R108, R118). -/
def State.toDoldrums (reason : Nat) (s : State) : State := (s.enterDoldrums reason).flushOwed.loadNext

/-! ## S0 and S1 -/

/-- The reason of a start that finds the counter at 3 (R107, R108, R122). -/
def State.countReason (s : State) : State × Nat :=
  if (s.nvm.counter.get max).isNone then
    let s := s.startRecord false 0x0A13
    (s, if s.nvm.reason ≠ 0 then s.nvm.reason else 0x0A13)
  else (s, if s.nvm.reason ≠ 0 then s.nvm.reason else getN s.nvm.hist 0)

/-- STAGE_S0 (R94, R108, 03 R62): the counter decides first, then the SLB's self-test and the hold-up charge. -/
def execStageS0 (t : Nat) (r : S0Result) (s : State) : Host.Outcome State Fault Refusal :=
  finish t s (State.stage 0 fun s =>
    let s := if s.start.warm then s else s.initTime
    let s := (s.onSup fun u => { u with holdup := r.holdup }).onSlb fun b => { b with paramCrc := s.params.crc }
    if !s.start.counted then let (s, c) := s.countReason; s.toDoldrums c
    else if !r.selfTest then s.stageFail 0x10
    else if !r.holdup then s.stageFail 0x11
    else s.passStage 0)

/-- STAGE_S1 (R95). -/
def execStageS1 (t : Nat) (r : S1Result) (s : State) : Host.Outcome State Fault Refusal :=
  finish t s (State.stage 1 fun s =>
    if !r.romCrc then s.stageFail 0x10
    else if !r.fwSignature then s.stageFail 0x11
    else if r.fwVersion < s.nvm.floor then s.stageFail 0x12
    else (s.onStart fun x => { x with fw := r.fwVersion }).passStage 1)

/-! ## S2 (R96, 19 R521, R527, R530) -/

/-- The AUX bytes of an INTERRUPTED result: VOID, its reason, and the escape bound of a verdict without a challenge (12 R334). -/
def auxInterrupted : Bytes := [5] ++ leBytes 2 0x37 ++ leBytes 2 65535 ++ [0]

/-- The event of a failed RESULT entry: its own open number, because the worked case of chapter 19 counts INTERRUPTED events for the
other kinds alone (log entry 43). -/
def State.resultFailed (e : JEntry) (s : State) : State :=
  s.logPut (Config.eventNumber "RESULT_INTERRUPTED" % 128 + 0x80) (Config.eventSeverity "RESULT_INTERRUPTED" % 5) e.owner
    (fld e.kind 0 8 + fld e.seq 32 32)

/-- One entry reconciled (Table 19.6): the entry that stays, if any, and the state after its event. These events are exempt from
the repetition limit. -/
def State.reconcileOne (e : JEntry) (s : State) : State :=
  let keep (e : JEntry) (s : State) : State := s.onRet fun r => { r with journal := r.journal ++ [e] }
  if e.kind = jResult then
    if e.state = 1 then
      let s := (s.resultFailed e).onRet fun r => { r with failed := min (r.failed + 1) 65535 }
      keep { e with state := 4, aux := auxInterrupted } s
    else keep e s
  else s.logPut 0x0005 1 e.owner (fld e.kind 0 8 + fld e.seq 32 32)

/-- Retention SRAM valid: every entry reconciled in order, then GEN is incremented. -/
def State.reconcile (s : State) : State :=
  let l := s.ret.journal
  let s := s.onRet fun r => { r with journal := [], failed := 0, lost := false }
  (s.each l State.reconcileOne).onRet fun r => { r with gen := (r.gen + 1) % 65536 }

/-- Retention SRAM invalid: zeroed, RTC_UTC_OFS with it (log entry 44); the numbers resume at checkpoint + 2²⁰, and one JOURNAL_LOST
is the first entry of the log (R96, R530, 18 R500). -/
def State.journalLost (s : State) : State :=
  let n := s.nvm
  let s := s.onRet fun _ =>
    { streams := n.cpStream.map resumeLast, results := n.cpResult.map resumeLast, token := resumeLast n.cpToken, held := true, lost := true }
  let s := s.onRtc fun r => { r with utc := 0 }
  s.logPut 0x0004 3 noSub (fld n.cpToken 0 32 + fld n.cpWrites 32 32)

/-- What S2 finds valid (19 R521, R532). -/
def State.retValid (r : S2Result) (s : State) : Bool :=
  s.ret.held && !s.sys.internal && r.headerOk && r.cellsOk && r.entriesOk && r.kindsOk && !r.uncorrectable

/-- STAGE_S2: LAST_OFF_PF is loaded at a cold start (02 R57). -/
def execStageS2 (t : Nat) (r : S2Result) (s : State) : Host.Outcome State Fault Refusal :=
  finish t s (State.stage 2 fun s =>
    let ok := s.retValid r
    let s := if s.start.warm then s else s.onSup fun u => { u with lastOffPf := ok && s.ret.cleanOff }
    if ok then s.reconcile.flushOwed.passStage 2
    else
      let s := (s.journalLost).onSys fun y => { y with internal := false }
      if r.faultAfterZero then s.flushOwed.stageFail 0x10 else s.flushOwed.passStage 2)

/-! ## S3 and S4 (R97 to R101, R112, R113) -/

/-- A debug halt of any unit (R113). -/
def State.anyHalted (s : State) : Bool := s.dbg.halted.any id || s.dbg.spHalted

/-- STAGE_S3: a halted unit fails it, and no result obtained under a probe is accepted (R113). The first row of Table 4.2 that fails
gives the cause, and the log names its subject. The Vane's lanes and the CVU channels that passed are in service. -/
def execStageS3 (t : Nat) (r : S3Result) (s : State) : Host.Outcome State Fault Refusal :=
  finish t s (State.stage 3 fun s =>
    if s.anyHalted then s.stageFail 0x03
    else
      let s := s.onStart fun x => { x with s3Bits := r.rows % 1024 }
      match (List.range 10).find? fun i => !bit r.rows i with
      | some i => (s.evOpen 0x14 "BIST_S3" r.subject (0x10 + i)).stageFail (0x10 + i)
      | none =>
        let s := s.onVane fun v => { v with lanes := v.lanes.map fun l => { l with ok := true } }
        (s.onCvu fun _ => cvuStart).passStage 3)

/-- The cause of bit `i` of BIST_S4.CHECK_OK (R126). -/
def s4Cause (i : Nat) : Nat := getN [0x10, 0x12, 0x14, 0x15, 0x16, 0x17, 0x18, 0x19, 0x1A, 0x1B] i

/-- The checks of S4 with what the SLB knows: an OUTPUT_FAULT since the start began fails cause 0x15 or 0x16, and a supply that is
out to the end fails 0x1B (R112). -/
def State.s4Checks (r : S4Result) (s : State) : List Bool :=
  (List.range 10).map fun i =>
    bit r.checks i
      && (if i = 3 then !(getN s.slb.outSeen 0) else if i = 4 then !(getN s.slb.outSeen 1) else if i = 9 then !s.slb.supplyTrip
        else true)

/-- The causes of S4 that fail, in the order of Table 4.3: the checks, and 0x11 for three or more cores (R99, R100). -/
def s4Fails (checks : List Bool) (bad : Nat) : List Nat :=
  (List.range 11).filterMap fun i =>
    if i = 1 then (if 3 ≤ bad then some 0x11 else none)
    else
      let k := if i = 0 then 0 else i - 1
      if getN checks k then none else some (s4Cause k)

/-- STAGE_S4: a halted unit fails it (R113). Each failing core is fenced and named, whatever else fails (R100). The lowest cause that
fails is recorded, 0x11 in its place among them (DESIGN CHOICE where several fail, log entry 56). Where none does, the other cores
are admitted, their local memory zeroed (08 R235). -/
def execStageS4 (t : Nat) (r : S4Result) (s : State) : Host.Outcome State Fault Refusal :=
  finish t s (State.stage 4 fun s =>
    if s.anyHalted then s.stageFail 0x03
    else
      let l := s.s4Checks r
      let bad := (List.range 16).filter fun n => bit r.coreFail n
      let s := s.onStart fun x => { x with coreFail := r.coreFail % 65536, checkOk := maskOf l }
      let s := s.each bad fun n s => s.fence n 1
      match (s4Fails l bad.length).head? with
      | some c => s.stageFail c
      | none =>
        let s := s.each ((List.range 16).filter fun n => !bit r.coreFail n) fun n s =>
          (s.zeroLocal n).onCore n fun c => { c with state := .admitted }
        s.passStage 4)

/-! ## S5 and S6 (R102, R103, 05 R155, 11 R317) -/

/-- The sweep: zero in every block of both stacks; on a warm start the frame forensic ring keeps its content. -/
def State.sweep (s : State) : State :=
  let ring := if s.start.warm then (s.slotImage s.activeSlot).monitors.fringGib * 0x40000000 else 0
  let s := (s.wipe 0x1000000000 0x80000000).wipe (0x1080000000 + ring) (0x780000000 - ring)
  s.onBeu fun b => { b with stks := b.stks.map fun k => { k.awake with swept := true, scrubAt := s.now } }

/-- STAGE_S5. The BEU check follows the sweep, so that its failure finds the stacks swept (R102). -/
def execStageS5 (t : Nat) (r : S5Result) (s : State) : Host.Outcome State Fault Refusal :=
  finish t s (State.stage 5 fun s =>
    if !r.trained then s.stageFail 0x10
    else if !r.tested then s.stageFail 0x11
    else if !r.swept then s.stageFail 0x12
    else if !r.beuOk then s.sweep.stageFail 0x13
    else s.sweep.passStage 5)

/-- The change log entry of an activation that a power loss cut short (05 R155): an active slot that holds an image whose digest the
newest ACTIVATE entry of an admitted image does not hold, also where there is no such entry (log entry 57). -/
def State.recoverEntry (s : State) : State :=
  let i := s.slotImage s.activeSlot
  let last := (s.cfg.changes.filter fun e => e.kind == 1 && e.result == 0).getLast?
  if (getN s.cfg.slots s.activeSlot).mark ≠ .empty ∧ !(last.any fun e => e.hashes.head? == some i.digest) ∧ s.logFree ≠ 0 then
    s.logChange 1 0 0 i.hashes true
  else s

/-- A stack's channels under its plan record (Table 11.5). -/
def Stack.plan (p : StackPlan) (k : Stack) : Stack :=
  { k with proc := boolsOf 16 p.proc, recompute := boolsOf 16 p.recompute, strict := boolsOf 16 p.strict }

/-- The image's plan of a stack. -/
def Image.planOf (i : Image) (n : Nat) : StackPlan := (i.plans.find? (·.stack == n)).getD { stack := n }

/-- A stream's ring slots (06 R168). -/
def Stream.withRing (i : Image) (n : Nat) (x : Stream) : Stream :=
  match i.stream n with
  | some r => { x with ring := List.replicate r.ring {} }
  | none => x

/-- The guard weights of a slot written to the stacks (Table 16.3). -/
def loadWeights (m : List Host.Cell) (b : Bytes) : List Host.Cell := memPutAll m guardBase b

/-- A ring of one node: the lanes are powered down after S4 (02 R48). -/
def RingRec.alone (r : RingRec) : Bool := (List.range 8).all fun n => n == r.nodeId || !bit r.members n

/-- The admitted image at work: working copy, weights, stack plans, frame rings, and the ring that forms at S7 (05 R103 in 04, 06
R168, 15 R428). -/
def State.loadImage (s : State) : State :=
  let k := s.activeSlot
  let i := s.slotImage k
  let x := getN s.cfg.slots k
  let s := s.onCfg fun c => { c with admitted := true, img := i, work := x.image }
  let s := { s with mem := loadWeights s.mem (s.slotWeights k) }
  let s := s.onBeu fun b => { b with stks := b.stks.zipIdx.map fun (y : Stack × Nat) => Stack.plan (i.planOf y.2) y.1 }
  let s := s.onFiu fun f => { f with streams := f.streams.zipIdx.map fun (y : Stream × Nat) => Stream.withRing i y.2 y.1 }
  if i.messages.ring.alone then s else (s.onXwl fun w => { w with phase := .listen, phaseAt := s.now }).ringTrip 0

/-- Without an admitted image, the default plan (11 R317): channel 15 of MS0 in PROC, RECOMPUTE and LOOSE. -/
def State.defaultPlan (s : State) : State := s.onStack 0 fun k => k.setMode 15 true true false

/-- HQ_Qq_STAT.UNBOUND, loaded at S6 (16 R467). -/
def State.loadUnbound (s : State) : State :=
  s.onHq fun h => { h with queues := h.queues.zipIdx.map fun (x : HQueue × Nat) => { x.1 with unbound := (s.img.chanOf x.2).isNone } }

/-- Both copies of the slot role word are invalid: slot 0 stands, and the event log says so (05 Table 5.8). -/
def State.roleLost (s : State) : State :=
  if (s.cfg.role.get max).isNone then s.evOpen 0x13 "SLOT_ROLE_LOST" noSub 0 else s

/-- STAGE_S6: the active slot is admitted, or found absent or not admissible; only a hardware fault fails the stage. -/
def execStageS6 (t : Nat) (r : S6Result) (s : State) : Host.Outcome State Fault Refusal :=
  finish t s (State.stage 6 fun s =>
    if !r.storeReadable then s.stageFail 0x10
    else
      let s := s.recoverEntry.roleLost
      let (code, subject) := s.admitSlot s.activeSlot
      if code = 0 ∧ !r.weightsWritable then s.stageFail 0x11
      else
        let s := (s.onCfg fun c => { c with result := code, subject := subject, atStart := true }).loadIds
        let s := if code = 0 then s.loadImage else s.defaultPlan
        s.loadUnbound.passStage 6)

/-! ## S7 (R104, 05 R148) -/

/-- The SLB takes the transferred parameters: its own contacts read PROGRAM, the CRC is right, every value lies in its range table. -/
def State.slbAccepts (s : State) : Bool :=
  let p := s.img.safety
  s.seals.slb.all id && p.crcGood && !(s.img.badShape.contains 9) && p.admissible

/-- The parameter sets agree, or agree after a transfer; none when they cannot (SLB_PARAM_MISMATCH). -/
def State.slbParams (s : State) : Option State :=
  if !s.cfg.admitted ∨ s.params.crc = s.img.safety.crc then some s
  else if s.sealClass ≠ .program ∨ !s.slbAccepts then none
  else
    let i := s.img
    let s := s.onNvm fun n => { n with params := Copies.put i.safety }
    some (if s.logFree = 0 then s else s.logChange 2 0 0 i.hashes false)

/-- S7 has completed: triggers run (03 R70), and device time is slewed from here on (03 R63). S8 is entered: an unlock request held
in START is decided, and the seals, the debug enable and the image are sampled once (R105, R112). -/
def State.endS7 (s : State) : State :=
  let s := (s.onStart fun x => { x with s7Done := true }).onClk fun c => { c with trigs := c.trigs.map (Trig.arm c.dev) }
  let s := s.unlockHeld
  (s.onStart fun x => { x with dest := s.target }).passStage 7

/-- PTP lock was reached within 5 s of S7's entry, or stood before (R104, 03 R65). -/
def State.ptpInTime (s : State) : Bool := s.clk.sync == .locked && s.clk.lockAt.all fun i => decide (i ≤ s.start.stageAt + 5 * sec)

/-- STAGE_S7. Where lock is required and not yet there, the stage waits for it until 5 s have passed. -/
def execStageS7 (t : Nat) (r : S7Result) (s : State) : Host.Outcome State Fault Refusal :=
  finish t s (State.stage 7 fun s =>
    if !r.handshake then s.stageFail 0x10
    else if r.ptpRequired ∧ s.clk.sync ≠ .locked ∧ s.now < s.start.stageAt + 5 * sec then s
    else
      match s.slbParams with
      | none => s.stageFail 0x11
      | some s =>
        let s := s.onSlb fun b => { b with paramCrc := s.params.crc }
        match r.missingLink with
        | some n => (s.evOpen 0x00 "REQUIRED_LINK" n 0x13).stageFail 0x13
        | none =>
          if r.ptpRequired ∧ !s.ptpInTime then s.stageFail 0x12
          else if s.cfg.admitted ∧ bit s.ring.flags 0 ∧ !s.xwl.up then (s.evOpen 0x00 "REQUIRED_LINK" noSub 0x13).stageFail 0x13
          else s.endS7)

/-! ## S8 (R105, R112, 19 R527, R528, 12 R344, R350) -/

/-- The window slot and the completion of a RESULT entry that a reset left (R350, R527). An entry that reached POSTED has had its
completion and is freed. The submission index is not retained (log entry 42). -/
def State.recoverOne (e : JEntry) (s : State) : State :=
  let vf := leAt e.aux 0 1
  let w : Win := { seq := e.seq, issued := true, verdict := vf % 8, flags := vf / 8, reason := leAt e.aux 1 2, escape := leAt e.aux 3 2 }
  let s := s.onVq e.owner fun v => { v with win := (e.seq % 256, w) :: v.win.filter (·.1 != e.seq % 256) }
  if e.state = 3 then s.jClose jResult e.owner e.seq
  else
    let (idx, s) := s.draw
    let c : Comp := { entry := compEntry e.seq 0 w.verdict w.flags w.reason w.escape (idx % 65536) 0xFFFFFFFE, recovery := true, seq := e.seq }
    s.onQ e.owner fun h => { h with recov := h.recov ++ [c] }

/-- The host queues open, and the failure list is posted to every enabled one. -/
def State.openQueues (s : State) : State :=
  let s := (s.onHq fun h => { h with opened := true }).loadNext
  let s := s.each (s.ret.journal.filter fun e => e.kind == jResult && e.state != 1) State.recoverOne
  s.each (List.range 64) fun q s => s.cqDrain q

/-- The first SEQ of each connection is drawn (14 R399); a port is ACTIVE when its link is up (14 R406; DEDUCED, log entry 51). -/
def State.drawSeqs (s : State) : State :=
  s.each (List.range s.img.messages.conns.length) fun k s =>
    let (v, s) := s.draw
    s.onConn k fun c =>
      { c with seq := v % 65536, statusAt := s.now, ports := s.sml.link, missing := [0, 0], resume := [none, none]
               fresh := [false, false] }

/-- Streams of the image leave OFF (06 R174), resuming their numbers (06 R166). -/
def State.startStreams (s : State) : State :=
  s.onFiu fun f => { f with streams := f.streams.zipIdx.map fun (x : Stream × Nat) =>
    if (s.img.stream x.2).isSome then { x.1 with state := .recovering, seq := getN s.ret.streams x.2, sealAt := s.dev } else x.1 }

/-- Supervision, background deadlines and power states count from S8 (16 R461, 17 R483). -/
def State.startClocks (s : State) : State :=
  let s := s.onTsu fun u => { u with chans := u.chans.map fun c => { c with windowAt := s.now, periodAt := s.now } }
  s.onPsm fun p => { p with bg := p.bg.map fun b => { b with from_ := s.now }, tests := p.tests.map fun b => { b with from_ := s.now } }

/-- The revocation before the first token of the start (12 R344): it carries the resumed number minus 1. -/
def State.startTokens (s : State) : State := (s.onVrd fun v => { v with tokenLast := s.ret.token }).revoke 1

/-- The start has completed (R105, R106, R123): with cores fenced, RUN is left for DEGRADED in the same SP cycle. -/
def State.enterS8 (dest : St) (s : State) : State :=
  let s := s.openQueues.drawSeqs.startStreams.startClocks.fguReset 1
  let s := s.onRet fun r => { r with cleanOff := false }
  let s := (s.setState dest true).startTokens
  let s := if dest = .run ∧ s.fencedCount ≠ 0 then s.toDegraded false else s
  let s := s.onStart fun x => { x with stage := 0xF, ackPending := true, durMs := min ((s.now - x.s0At) / ms) 65535 }
  s.psmChoose

/-- STAGE_S8: the state sampled at its entry is entered (R105). With the seals neither PROGRAM nor RUN an admitted image gave none,
and the stage runs into its limit, whatever the seals do (05 R132). An unlock request that came after the sample is decided
in the state entered (R112). -/
def execStageS8 (t : Nat) (queuesOk : Bool) (s : State) : Host.Outcome State Fault Refusal :=
  finish t s (State.stage 8 fun s =>
    if !queuesOk then s.stageFail 0x10
    else
      match s.start.dest with
      | some st => (s.enterS8 st).unlockHeld
      | none => s)

/-! ## Limits, the hold after a failure, and the counter (R93, R109, R111, R114) -/

/-- STAGE_TIME_LIMIT. -/
def execStageTimeLimit (t : Nat) (s : State) : Host.Outcome State Fault Refusal :=
  finish t s fun s => s.when (s.inStage s.start.stage && decide (s.start.stageAt + stageLimit s.start.stage ≤ s.now)) (State.stageFail 0x01)

/-- START_WATCHDOG: 20 s from S0 without S8. -/
def execStartWatchdog (t : Nat) (s : State) : Host.Outcome State Fault Refusal :=
  finish t s fun s => s.when (s.inStage s.start.stage && decide (s.start.s0At + 20 * sec ≤ s.now)) (State.stageFail 0x02)

/-- What follows the hold after a stage failure: a warm start, or DOLDRUMS when the counter stood at 3 (R108). -/
def State.afterHold (s : State) : State :=
  if s.start.holdLast then (s.resetDie true).toDoldrums (getN s.nvm.hist 0) else s.beginStart true false

/-- STAGE_FAIL_HOLD_EXPIRY: the 1.0 s in reset has passed. While CLK_SP or CLK_FAB is out, the reset lasts (R91). -/
def execStageFailHoldExpiry (t : Nat) (s : State) : Host.Outcome State Fault Refusal :=
  finish t s fun s =>
    s.when (s.sup.on && !s.sys.powerFail && s.sys.state == .start && s.pastOpt s.start.holdAt sec && !s.sys.spHeld && !s.sup.thermal)
      State.afterHold

/-- Nothing that comes in the same SLB cycle stops the clearing of the counter (R111): a trip that waits or that the inputs raise, or a
state report on the link that ends or restarts the hold. -/
def State.clearFree (s : State) : Bool :=
  s.slb.due.isEmpty && (demandTrips s.params s.slb).isEmpty && !s.slb.degDue
    && s.slb.link.all fun f => (s.slb.hold s.now f.state).holdAt == s.slb.holdAt

/-- The copies of the counter as a clearing leaves them (R107, R111): one copy is written after the other, and a power loss in the
first write, or between the two, leaves the second copy with the old value. -/
def clearCopies (x : ClearCut) (c : Copies Nat) : Copies Nat :=
  match x with
  | .whole => Copies.put 0
  | .inFirst => { c with aOk := false }
  | .afterFirst => { c with a := 0, aOk := true }

/-- START_COUNTER_CLEAR: the SLB has seen RUN or COMMISSION held for 60 s; a trip or a report of the same cycle wins (R111). HOLD_S
reads 0 once the hold's timer has done its work (DESIGN CHOICE, log entry 56). -/
def execStartCounterClear (x : CounterClear) (s : State) : Host.Outcome State Fault Refusal :=
  finish x.t s fun s =>
    if s.sup.on ∧ s.pastOpt s.slb.holdAt (60 * sec) ∧ s.clearFree then
      let s := s.onNvm fun n => { n with counter := clearCopies x.cut n.counter }
      if x.cut = .whole then (s.onSlb fun b => { b with holdAt := none }).onStart fun x => { x with breakBy := 0 } else s
    else s

end Sys2Proof.Machine
end

