-- ==== Sys2Proof/Machine/Verdict.lean ====
section
/-! DEFINITION. Result records and the commit engine (12 R326 to R332), the age monitor, the verdict path watchdog and window
queries (R337, R346, R347, 16 R452, R462). -/

namespace Sys2Proof.Machine

/-! ## The record (Tables 12.1 to 12.3) -/

/-- A seal as the record names it (06 Table 6.2). -/
def SealRef.parse (b : Bytes) : SealRef :=
  { seq := leAt b 0 4, stream := leAt b 4 1, flags := leAt b 5 1, capture := leAt b 8 8, crc := leAt b 16 4,
    reservedOk := resOk b [(6, 2), (20, 4)] && decide (leAt b 5 1 < 4) }

/-- A witness descriptor. -/
def Wit.parse (b : Bytes) : Wit :=
  { point := leAt b 0 1, kind := leAt b 1 1, fmtIn := leAt b 2 1, fmtOut := leAt b 3 1, m := leAt b 4 2, n := leAt b 6 2,
    k := leAt b 8 2, addrs := [leAt b 12 5, leAt b 17 5, leAt b 22 5], sizes := [leAt b 28 4, leAt b 32 4, leAt b 36 4],
    crcs := [leAt b 40 4, leAt b 44 4, leAt b 48 4], wcrcOk := crcOk b,
    reservedOk := resOk b [(10, 2), (27, 1), (52, 8)] }

/-- A candidate. -/
def Cand.parse (b : Bytes) : Cand := { pose := fx32s b 0 6, approach := fx32 b 24, opening := fx32 b 28 }

/-- The number of seals, witnesses and candidates of a record, cut to what the layout holds. -/
def recSeals (b : Bytes) : List SealRef := (records b 64 (min (leAt b 10 1) 16) 24).map SealRef.parse
def recWits (b : Bytes) : List Wit := (records b 448 (min (leAt b 11 1) 16) 64).map Wit.parse
def recCands (b : Bytes) : List Cand := (records b 1472 (min (leAt b 12 1) 32) 32).map Cand.parse

/-- RECORD_FORMAT does not apply (R328). -/
def State.formatOk (a : AudChan) (c : ChanRec) (b : Bytes) (s : State) : Bool :=
  let ns := leAt b 10 1
  let nw := leAt b 11 1
  let nc := leAt b 12 1
  let seals := recSeals b
  let wits := recWits b
  let want := s.img.witsOf c.ch
  sub b 0 4 == ascii "RSLT" && crcOk b && decide (1 ≤ ns ∧ ns ≤ 16 ∧ nw = a.points ∧ 1 ≤ nc ∧ nc ≤ 32 ∧ leAt b 13 1 < nc)
    && resOk b [(14, 2), (24, 40), (2496, 60), (64 + 24 * ns, 24 * (16 - ns)), (448 + 64 * nw, 64 * (16 - nw)),
        (1472 + 32 * nc, 32 * (32 - nc))]
    && leAt b 16 8 == a.networkId && seals.all (·.reservedOk) && seals.all (fun x => bit c.streams x.stream)
    && seals.all (fun x => (seals.filter (·.stream == x.stream)).length == 1)
    && wits.all (fun w => w.wcrcOk && w.reservedOk) && wits.length == want.length
    && (wits.zip want).all fun x =>
        x.1.point == x.2.point && x.1.kind == x.2.kind && x.1.fmtIn == x.2.fmtIn && x.1.fmtOut == x.2.fmtOut
          && x.1.m == x.2.m && x.1.n == x.2.n && x.1.k == x.2.k && x.1.sizes == witSizes x.2 a.tileLog2

/-- A range lies in the union of some regions; `fuel` bounds how many of them it crosses. -/
def covered : Nat → List (Nat × Nat) → Nat → Nat → Bool
  | 0, _, _, n => n == 0
  | fuel + 1, regions, a, n =>
    n == 0 || match regions.find? fun g => decide (g.1 ≤ a ∧ a < g.1 + g.2) with
      | some g => covered fuel regions (g.1 + g.2) (a + n - (g.1 + g.2))
      | none => false

/-- The first point with a range outside the channel's witness regions, taken together (R328; log entry 64). -/
def State.boundsFail (c : Nat) (ws : List Wit) (s : State) : Option Nat :=
  let regions := ((s.rulesOf c).filter (·.kind == 2)).map fun g => (g.base, g.pages * 4096)
  (ws.find? fun w => (w.addrs.zip w.sizes).any fun r => !covered regions.length regions r.1 r.2).map (·.point)

/-- What the lookup of a seal gives (06 R167, R330 step 3). -/
inductive SealLook where
  | good | invalid | expired
  deriving DecidableEq, Repr

def State.sealLook (x : SealRef) (s : State) : SealLook :=
  let t := s.strm x.stream
  match t.hist.find? (·.seq == x.seq) with
  | some h => if h.capture = x.capture ∧ h.crc = x.crc ∧ !bit h.flags 1 then .good else .invalid
  | none => if x.seq = 0 ∨ serialAbove x.seq t.seq then .invalid else .expired

/-- The reason that R328 or the seal lookup gives a record: the steps of R330 run in order, and the first found in time is reported
(R339). -/
def State.recordReason (a : AudChan) (c : ChanRec) (b : Bytes) (s : State) : Option Nat :=
  if !s.formatOk a c b then some 0x01
  else
    match s.boundsFail c.ch (recWits b) with
    | some p => some (reasonWord 0x04 p)
    | none => ((recSeals b).find? fun x => s.sealLook x == .invalid).map fun x => reasonWord 0x02 x.stream

/-! ## Submission (R329, R330, 16 R452) -/

/-- The address behind a BAR2 offset (16 R449). -/
def bar2Addr (o : Nat) : Nat := if o < 0x30000000 then 0x1400000000 + o else 0x1440000000 + (o - 0x30000000)

/-- A range of BAR2 that is one range of addresses. -/
def bar2Range (o n : Nat) : Bool := decide (o + n ≤ 0x30000000 ∨ (0x30000000 ≤ o ∧ o + n ≤ 0x40000000))

/-- The descriptor's KIND, reserved bytes and DCRC are as Table 16.6 says (16 R452). -/
def descFormOk (d : Bytes) : Bool := leAt d 0 1 == 1 && resOk d [(1, 3), (8, 52)] && crcOk d

/-- The record lies wholly inside a readable STAGING rule of the channel (16 R452). -/
def State.recordInside (ch : Nat) (d : Bytes) (s : State) : Bool :=
  let o := leAt d 4 4
  bar2Range o 2560 && (s.boundRules ch).any fun r => r.kind == 1 && r.grants false (bar2Addr o) 2560

/-- The results of a queue without a verdict. -/
def State.inFlight (q : Nat) (s : State) : List Result := s.vrd.results.filter (·.q == q)

/-- The head descriptor may be taken (16 R452, R348). -/
def State.canTake (q : Nat) (s : State) : Bool :=
  let h := s.hqueue q
  let v := s.vq q
  s.regsUp && !s.sys.powerFail && decide (q < 64) && s.hq.opened && s.linkUp && h.en && !h.hold && !h.error && !h.resetting
    && h.sqHead != h.sqTail && h.recov.all (!·.recovery) && !(v.win.any fun w => w.1 == v.next % 256 && !w.2.issued)
    && decide ((s.inFlight q).length < h.free) && decide (48 ≤ s.locksFree)

/-- The head descriptor leaves the ring. -/
def State.takeSub (q : Nat) (s : State) : State :=
  s.onQ q fun h => { h with sqHead := if h.sqHead + 1 = 2 ^ h.sqLog then 0 else h.sqHead + 1 }

/-- A queue stops in ERROR with the descriptor at its head: channel fault DESCRIPTOR. -/
def State.queueError (q ch err : Nat) (s : State) : State := (s.onQ q fun h => { h with error := true, err := err }).chFault ch 8

/-- A consumption stops a deadline timer whose END_CP is 0xFF (16 R461); at or after the deadline it counts as late. -/
def State.stopTimer (r : ChanRec) (s : State) : State :=
  match (s.tchan r.ch).timerAt with
  | some i =>
    let s := if r.deadlineUs ≠ 0 ∧ !(s.tchan r.ch).late ∧ s.past i (r.deadlineUs * 1000) then s.chFault r.ch 3 else s
    s.onChan r.ch fun x => { x with used := x.used + (s.now - max i x.periodAt), timerAt := none, late := false }
  | none => s

/-- A sequence is consumed: NEXT, the window slot, the newest number, and its records (R329, R347). -/
def State.acceptSeq (q ch seq : Nat) (w : Win) (s : State) : State :=
  let s := s.onVq q fun v =>
    { v with next := serialNext seq, newest := seq, win := (seq % 256, w) :: v.win.filter (·.1 != seq % 256) }
  let s := s.onRet fun u => { u with results := setN u.results ch seq }
  if seq % 2 ^ 20 = 0 then s.onNvm fun n => { n with cpResult := setN n.cpResult ch seq, cpWrites := n.cpWrites + 1 } else s

/-- VOID with reason DOLDRUMS (04 R118); no challenge was drawn (R334), and no capture time is known, so that AGE_US is open (log
entry 42). No forensic verdict record is written (DESIGN CHOICE, log entry 56). -/
def State.takeDoldrums (q ch seq idx : Nat) (s : State) : State :=
  let s := s.acceptSeq q ch seq { seq := seq, issued := true, verdict := vVoid, reason := 0x36, escape := 65535 }
  let s := s.onVq q fun v => { v with counts := modN v.counts 4 satInc }
  let s := s.onVrd fun v => { v with events := v.events ||| 4 }
  let (age, s) := s.draw
  s.cqPost q (compEntry seq 0 vVoid 0 0x36 65535 idx (age % 2 ^ 32))

/-- The ranges of a result's witnesses, each with its point and CRC. -/
def Result.ranges (r : Result) : List (Nat × Nat × Nat × Nat) :=
  r.wits.flatMap fun w => ((w.addrs.zip w.sizes).zip w.crcs).map fun x => (w.point, x.1.1, x.1.2, x.2)

/-- R330 steps 1 to 4 for an accepted record. -/
def State.accept330 (q : Nat) (c : ChanRec) (b : Bytes) (idx : Nat) (s : State) : State :=
  let seq := leAt b 4 4
  let s := s.acceptSeq q c.ch seq { seq := seq }
  let s := s.jOpen jResult q seq (zeros 6)
  let a := (s.img.audit c.ch).getD {}
  let seals := recSeals b
  let caps := seals.map (·.capture)
  let cap := caps.foldl min (caps.headD s.dev)
  let why := s.recordReason a c b
  let old := (seals.find? fun x => s.sealLook x == .expired).map (·.stream)
  let r : Result :=
    { q := q, ch := c.ch, seq := seq, subIdx := idx, seals := seals, wits := recWits b, cands := recCands b, sel := leAt b 13 1,
      recCrc := leAt b 2556 4, capture := cap, latest := caps.foldl max 0, deadline := cap + c.ageMs * ms, commitAt := s.now,
      acceptAt := s.now, reject := why, expired := old }
  let r := if why.isSome then r else { r with locks := r.ranges.map fun x => (x.2.1, x.2.2.1) }
  let s := s.onVrd fun v => { v with results := v.results ++ [r] }
  let s := s.onFwl fun f => { f with locks := f.locks ++ r.locks.map fun x => widen q seq x.1 x.2 }
  (if c.endCp = 0xFF then s.stopTimer c else s).wake

/-- SUBMISSION_CONSUME (R329, R330, R348, 16 R452, 04 R118): the head descriptor of a queue, whose 64 bytes are `desc`. A refused
submission has no verdict and no reason; its ESCAPE and AGE_US are open (log entry 42). -/
def execSubmissionConsume (t q : Nat) (desc : Bytes) (s : State) : Host.Outcome State Fault Refusal :=
  finish t s fun s =>
    match s.boundChan q with
    | none => s
    | some c =>
      if !s.canTake q then s
      else if !descFormOk (padTo 64 desc) then s.queueError q c.ch 1
      else if !s.recordInside c.ch (padTo 64 desc) then s.queueError q c.ch 2
      else
        let b := s.peekN (bar2Addr (leAt desc 4 4)) 2560
        let idx := (s.hqueue q).sqHead
        let s := s.takeSub q
        let refuse (st : Nat) : State :=
          let (e, s) := s.draw
          let (age, s) := s.draw
          s.cqPost q (compEntry 0 st 0 0 0 (e % 2 ^ 16) idx (age % 2 ^ 32))
        if leAt b 4 4 ≠ (s.vq q).next then refuse 1
        else if leAt b 8 2 ≠ c.ch then refuse 2
        else if s.sys.state = .doldrums then s.takeDoldrums q c.ch (leAt b 4 4) idx
        else (s.accept330 q c b idx).settleWork

/-- WITNESS_LOCK_EFFECTIVE (16 R460): every write that passed the firewall before the lock has reached memory. -/
def execWitnessLockEffective (t q : Nat) (s : State) : Host.Outcome State Fault Refusal :=
  finish t s fun s =>
    s.with (s.vrd.results.find? fun r => r.q == q && r.state == .read) fun r s =>
      s.onResult q r.seq fun r => { r with state := .locked }

/-! ## Commit and challenge (R330 to R332, 15 R438) -/

/-- The first point whose tensors differ from their CRCs (R330 step 5). -/
def State.crcFail (r : Result) (s : State) : Option Nat :=
  (r.ranges.find? fun x => crc32c (s.peekN x.2.1 x.2.2.1) != x.2.2.2).map (·.1)

/-- The borrow window of a lender (15 R438). -/
def lentAddr (ranges : List (Nat × Nat)) (a : Nat) : Nat := 0x100A00000 + Config.lentPlace ranges a % 0x1E0000

/-- A descriptor of a handed-over job with its addresses rewritten (15 R438). -/
def Desc.moveTo (ranges : List (Nat × Nat)) (d : Desc) : Desc :=
  { d with srcA := lentAddr ranges d.srcA, srcB := if d.srcB = 0 then 0 else lentAddr ranges d.srcB, dst := lentAddr ranges d.dst }

/-- The audit job handed to the Crosswind lender in place of the own cores (15 R438): its journal entry opens, and its
descriptors with the addresses rewritten, operands, class record and exchange slot content wait for an owned bulk unit. -/
def State.handOver (r : Result) (descs : List Desc) (s : State) : State :=
  let num := s.aud.nextJob
  let s := s.onAud fun a => { a with nextJob := serialNext a.nextJob }
  let s := s.jOpen jAudit r.ch num (leBytes 4 r.seq ++ [1, 0])
  let ds := descs.zipIdx.map fun d => { d.1 with job := num, index := d.2, cls := 1 }
  let rs := (ds.flatMap Desc.ranges).map (·.2)
  let ops := ds.flatMap fun d => d.ranges.flatMap fun x =>
    if x.1 then [] else leBytes 8 (lentAddr rs x.2.1) ++ leBytes 4 x.2.2 ++ s.peekN x.2.1 x.2.2
  let job : Job := { num := num, kind := .audit, owner := r.ch, seq := r.seq, cls := 1, descs := ds.map ({ desc := ·, rXform := 0 }) }
  let pay := Config.bulkPack [ds.flatMap fun d => (d.moveTo rs).bytes, ops, (s.clsOf 1).bytes, (s.slotFill job).dropLast.dropLast.dropLast.dropLast]
  let s := s.onXwl fun w =>
    { w with bulk := w.bulk ++ [(s.ring.borrowFrom, num, pay)], handed := w.handed ++ [(num, s.now)] }
  s.onResult r.q r.seq fun x => { x with auditJob := some num, lent := true }

/-- The challenge drawn, and the audit job issued. -/
def State.startAudit (r : Result) (s : State) : State :=
  let a := s.audRec r
  let (x, s) := s.challenge r a.tileLog2 (a.log2fFloor - a.log2f) a.log2f
  let x := { x with escape := s.escape r.ch x.k, reduced := decide (a.log2f < x.k) }
  let s := s.onResult r.q r.seq fun _ => x
  let descs := (s.auditDescs x).map (·.2)
  if s.borrows ∧ r.ch < 16 ∧ bit s.ring.shareCh r.ch then s.handOver x descs
  else
    let (n, s) := s.issueJob .audit r.ch r.seq 1 descs []
    s.onResult r.q r.seq fun y => { y with auditJob := some n }

/-- RESULT_COMMIT (R330 steps 5 and 6, R331, R332): the witness CRCs of the queue's oldest locked result are known. -/
def execResultCommit (t q : Nat) (s : State) : Host.Outcome State Fault Refusal :=
  finish t s fun s =>
    s.with (s.vrd.results.find? fun r => r.q == q && r.state == .locked) fun r s =>
      let bad := if r.reject.isSome then none else s.crcFail r
      let poison := r.reject.isNone && r.ranges.any fun x => s.poisoned x.2.1 x.2.2.1
      let r := { r with state := .committed, commitAt := s.now,
                        reject := (match r.reject with | some c => some c | none => bad.map (reasonWord 0x03)),
                        audit := if poison then .failed 0x30 else r.audit }
      let s := s.onResult q r.seq fun _ => r
      let s := if (s.verdictNow r).isSome ∨ poison then s else s.startAudit r
      s.settleWork

/-! ## Age and watchdog (R337, 16 R462) -/

/-- AGE_DEADLINE_EXPIRY (R337, R338): a committed result reaches its deadline. -/
def execAgeDeadlineExpiry (t q seq : Nat) (s : State) : Host.Outcome State Fault Refusal :=
  finish t s fun s =>
    match s.resultOf q seq with
    | some r => if r.state = .committed ∧ r.deadline ≤ s.dev then (s.evalOne q seq).settleWork else s
    | none => s

/-- VERDICT_PATH_WATCHDOG (16 R462): no verdict 1 ms after the deadline; VOID with reason INTERNAL and a channel fault. -/
def execVerdictPathWatchdog (t q seq : Nat) (s : State) : Host.Outcome State Fault Refusal :=
  finish t s fun s =>
    match s.resultOf q seq with
    | some r =>
      if r.state = .committed ∧ r.deadline + ms ≤ s.dev then
        let s := s.issue r vVoid 0x30
        let s := s.onTsu fun u => { u with vpath := satInc u.vpath, events := u.events ||| 2 }
        (s.chFault r.ch 10).settleWork
      else s
    | none => s

/-! ## Queries (R346, R347) -/

/-- The answer of Table 12.7: sequence, verdict word, reason word, and the window with the answer marked. -/
structure Answer where
  seq     : Nat
  verdict : Nat
  first   : Bool
  acc     : Bool
  win     : Win
  deriving DecidableEq, Repr

def VrdQ.answer (v : VrdQ) (seq : Nat) : Answer :=
  let beyond := seq = 0 || v.newest == 0 || serialAbove seq v.newest
  match (v.win.find? (·.1 == seq % 256)).map (·.2) with
  | some w =>
    if w.seq = seq then
      (if w.issued then { seq := seq, verdict := w.verdict, first := !w.answered, acc := true, win := w }
        else { seq := seq, verdict := 0, first := false, acc := true, win := { seq := seq } })
    else if beyond then { seq := seq, verdict := 0, first := false, acc := false, win := { seq := seq } }
    else { seq := w.seq, verdict := 6, first := false, acc := true, win := { seq := seq } }
  | none =>
    if beyond then { seq := seq, verdict := 0, first := false, acc := false, win := { seq := seq } }
    else { seq := 0, verdict := 6, first := false, acc := true, win := { seq := seq } }

/-- The slot of a sequence found uncorrectable (R352): it stays so until it is written again. -/
def VrdQ.loseSlot (seq : Nat) (v : VrdQ) : VrdQ :=
  let k := seq % 256
  let w := ((v.win.find? (·.1 == k)).map (·.2)).getD { seq := 0, issued := true }
  { v with win := (k, { w with lost := true }) :: v.win.filter (·.1 != k) }

/-- A query of a slot with uncorrectable memory answers VOID with reason INTERNAL (R352); the answer's other fields are open (log entry
42). -/
def State.lostAnswer (q n : Nat) (s : State) : State :=
  let (a, s) := s.draw
  let (b, s) := s.draw
  s.onVq q fun v =>
    { v with ansQ := n, ansSeq := a % 2 ^ 32, ansVer := vVoid + fld b 3 7 + fld (b / 2 ^ 7) 16 16,
             ansReason := 0x30 + fld (b / 2 ^ 23) 16 1 }

/-- VRD_QUERY (R346, R347, R352): the answer is latched; the query alone marks a verdict as answered. -/
def execVrdQuery (t q : Nat) (x : VrdAsk) (s : State) : Host.Outcome State Fault Refusal :=
  finish t s fun s =>
    if !s.regsUp ∨ 64 ≤ q then s
    else
      let n := x.seq % 2 ^ 32
      let s := if x.ecc then s.onVq q (VrdQ.loseSlot n) else s
      if (s.vq q).win.any fun w => w.1 == n % 256 && w.2.lost then s.lostAnswer q n
      else
        s.onVq q fun v =>
          let a := v.answer n
          { v with
            ansQ := n
            ansSeq := a.seq
            ansVer := fld a.verdict 0 3 + flg a.first 3 + flg a.acc 4 + fld a.win.flags 5 5 + fld a.win.escape 16 16
            ansReason := fld a.win.reason 0 16 + flg a.win.token 16
            win := v.win.map fun w => if w.2.seq = n ∧ w.2.issued then (w.1, { w.2 with answered := true }) else w }

end Sys2Proof.Machine
end

