-- ==== Sys2Proof/Machine/Xwl.lean ====
section
/-! DEFINITION. The commands of the Crosswind link (15). -/

namespace Sys2Proof.Machine

/-! ## Received frames (R425, R427, R429, R430) -/

/-- Fields of the 64-byte header (Table 15.2). -/
def xKind (m : XwlRx) : Nat := beAt m.data 0 1
def xSrc (m : XwlRx) : Nat := beAt m.data 1 1
def xHops (m : XwlRx) : Nat := beAt m.data 2 1
def xAlive (m : XwlRx) : Nat := beAt m.data 3 1 % 16
def xCycle (m : XwlRx) : Nat := beAt m.data 4 4
def xSerial (m : XwlRx) : Nat := beAt m.data 8 8
def xTime (m : XwlRx) : Nat := beAt m.data 20 8

/-- The header is whole and its CRC, with HOPS taken as 0, is right (R427). -/
def xOk (m : XwlRx) : Bool :=
  !m.garbled && decide (64 ≤ m.data.length)
    && crc32c ((m.data.take 60).set 2 0) == beAt m.data 60 4

/-- Nodes in the roster. -/
def State.rosterSize (s : State) : Nat := ((List.range 8).filter fun n => s.inRoster n).length

/-- The frame goes on, on the opposite lane, with HOPS stepped, unless HOPS equals the roster size less one (R425). -/
def State.xwlForward (m : XwlRx) (s : State) : State :=
  if 0 < s.rosterSize ∧ s.rosterSize ≤ xHops m + 1 then s
  else s.send (.xwl (1 - m.lane) (m.data.set 2 (byte (xHops m + 1))))

/-- A collision: back-off, counted (R429). -/
def State.xwlCollide (s : State) : State :=
  s.onXwl fun w => { w with phase := .backoff, phaseAt := s.now, collisions := satAdd 8 w.collisions 1 }

/-- Listening or claiming. -/
def State.xwlForming (s : State) : Bool := s.xwl.phase == .listen || s.xwl.phase == .claim

/-- A frame that fails its check is counted for its lane and discarded; while forming it is a collision (R429, Table 15.4). -/
def State.xwlBad (m : XwlRx) (s : State) : State :=
  let s := s.onXwl fun w => { w with crcErr := modN w.crcErr m.lane satInc }
  if s.xwlForming then s.xwlCollide else s

/-- A duplicate identity: this node originates nothing more until the next start (R430). -/
def State.xwlDup (m : XwlRx) (s : State) : State :=
  if s.xwl.dup then s
  else
    let s := s.evOpen 0x0C "DUP_ID" (xSrc m) (xSerial m)
    s.onXwl fun w => { w with dup := true, phase := .out, master := false, up := false, upCycles := 0, events := w.events ||| 4 }

/-- A lane receives. -/
def State.xwlLane (lane : Nat) (s : State) : State :=
  s.onXwl fun w => let l := setN w.lanes lane true; { w with lanes := l, line := !(l.all id) }

/-- A valid frame of another member: whether it is the first intact copy without an alive gap on its lane; the other copy is counted
(R425, Table 15.4). -/
def State.xwlFirst (m : XwlRx) (s : State) : Bool × State :=
  let n := xSrc m
  let x := s.node n
  let gap := (getN x.alive m.lane).any fun a => (a + 1) % 16 != xAlive m
  let s := s.onNode n fun x => { x with alive := setN x.alive m.lane (some (xAlive m)) }
  if gap then (false, s.onXwl fun w => { w with gaps := modN w.gaps m.lane satInc })
  else if x.taken = some (xAlive m) then (false, s.onXwl fun w => { w with others := modN w.others m.lane satInc })
  else (true, s.onNode n fun x => { x with taken := some (xAlive m) })

/-- A received frame of the kind `k`: what every kind shares, then `f` on the first copy taken. While forming, a CLAIM is not forwarded
here (R428). -/
def State.xwlRx (k : Nat) (m : XwlRx) (f : State → State) (s : State) : State :=
  if s.xwl.phase = .off ∨ !s.clk.xwlOk ∨ 2 ≤ m.lane then s
  else
    let s := s.xwlLane m.lane
    if !xOk m then s.xwlBad m
    else if xKind m ≠ k then s
    else if xSrc m = s.ring.nodeId then
      (if xSerial m ≠ Config.serial ∧ (k = 2 ∨ k = 3) then s.xwlDup m else s)
    else
      let s := if k = 3 ∧ (s.xwlForming ∨ s.xwl.phase = .backoff) then s else s.xwlForward m
      if !bit s.ring.members (xSrc m) then s.evOpen 0x0C "FOREIGN_NODE" (xSrc m) (xSerial m)
      else
        let (first, s) := s.xwlFirst m
        if first then f s else s

/-! ## Forming (R428, R429) -/

/-- XWL_LISTEN_EXPIRY (R428): nothing was heard for 200 µs + NODE_ID × 50 µs; a CLAIM goes out. -/
def execXwlListenExpiry (t : Nat) (s : State) : Host.Outcome State Fault Refusal :=
  finish t s fun s =>
    if s.xwl.phase = .listen ∧ s.xwlOn ∧ s.past s.xwl.phaseAt (200000 + s.ring.nodeId * 50000) then
      (s.onXwl fun w => { w with phase := .claim, phaseAt := s.now }).xwlSend (s.xwlHeader 3 s.dev)
    else s

/-- XWL_CLAIM_RECEIVED (R428 to R430): a collision within 2 µs of the own claim; else the first claim heard decides. -/
def execXwlClaimReceived (t : Nat) (m : XwlRx) (s : State) : Host.Outcome State Fault Refusal :=
  finish t s fun s => s.xwlRx 3 m (fun s =>
    match s.xwl.phase with
    | .claim => if s.now ≤ s.xwl.phaseAt + 2000 then s.xwlCollide else s
    | .listen | .backoff =>
      (s.onXwl fun w => { w with phase := .integrate, phaseAt := s.now, masterId := xSrc m, master := false, seen := 0,
                                 noSync := 0 }).xwlForward m
    | _ => s)

/-- XWL_BACKOFF_EXPIRY (R429): after 1 ms + NODE_ID × 100 µs the node listens again. -/
def execXwlBackoffExpiry (t : Nat) (s : State) : Host.Outcome State Fault Refusal :=
  finish t s fun s =>
    if s.xwl.phase = .backoff ∧ s.past s.xwl.phaseAt (ms + s.ring.nodeId * 100000) then
      s.onXwl fun w => { w with phase := .listen, phaseAt := s.now }
    else s

/-! ## Cycles (R426, R431, R432) -/

/-- The ring is up once every member has been in the roster for two consecutive cycles (R431). -/
def State.xwlUp (s : State) : State :=
  let all := (List.range 8).all fun n => !bit s.ring.members n || s.inRoster n
  s.onXwl fun w =>
    let k := if all then w.upCycles + 1 else 0
    { w with upCycles := min k 2, up := decide (2 ≤ k) }

/-- The cycle timer starts a cycle. -/
def State.xwlTick (s : State) : State :=
  let s := s.xwlUp
  s.onXwl fun w => { w with cycle := (w.cycle + 1) % 2 ^ 32, cycleAt := s.now, noSync := if w.master then 0 else w.noSync + 1,
                            measured := w.measured + 1, slotDone := false, unitsDone := 0 }

/-- The SYNC of the schedule master, with its device time at the cycle's start. -/
def State.sendSync (s : State) : State := if s.xwl.master ∧ s.xwlOn then s.xwlSend (s.xwlHeader 1 s.dev) else s

/-- XWL_CYCLE_START (R431): a claimant becomes master 100 µs after its CLAIM, in cycle 0; a node with a cycle timer starts its
next cycle, and the master sends SYNC. -/
def execXwlCycleStart (t : Nat) (s : State) : Host.Outcome State Fault Refusal :=
  finish t s fun s =>
    if !s.clk.xwlOk then s
    else
      match s.xwl.phase with
      | .claim =>
        if s.past s.xwl.phaseAt 100000 then
          (s.onXwl fun w => { w with phase := .member, phaseAt := s.now, master := true, masterId := s.ring.nodeId, follow := false, cycle := 0,
                                     cycleAt := s.now, noSync := 0, seen := 3, slotDone := false, unitsDone := 0 }).sendSync
        else s
      | .integrate => if s.xwl.seen ≠ 0 ∧ s.past s.xwl.cycleAt 99900 then s.xwlTick else s
      | .member => if s.past s.xwl.cycleAt 99900 then s.xwlTick.sendSync else s
      | _ => s

/-- The path delay to the master along the lane that delivered the SYNC (R433; log entry 35). -/
def State.pathDelay (m : XwlRx) (s : State) : Nat :=
  getN s.xwl.delays m.lane + if xHops m = 0 then 0 else Config.hopDelays m.lane (xHops m)

/-- The node aligns its cycle timer to the SYNC, less the path delay (R431, R433), and device time follows the master while no
grandmaster is selected (R434). A SYNC that comes before the own timer starts its cycle starts it. -/
def State.align (m : XwlRx) (s : State) : State :=
  let d := s.pathDelay m
  let offset : Int := (xTime m : Int) + d - s.dev
  let newCycle := s.xwl.seen = 0 ∨ xCycle m ≠ s.xwl.cycle
  let s := if newCycle ∧ s.xwl.seen ≠ 0 then s.xwlUp.onXwl fun w => { w with measured := w.measured + 1 } else s
  let s := s.onXwl fun w =>
    { w with cycle := xCycle m, cycleAt := s.now - d, noSync := 0, seen := w.seen + 1, timeOfs := sat32 offset,
             follow := s.clk.gm.isNone,
             slotDone := w.slotDone && !newCycle, unitsDone := if newCycle then 0 else w.unitsDone }
  if s.clk.gm.isNone then s.discipline offset else s

/-- A SYNC of a master (R431, R432): integration, the cycle's alignment, a handover, or two rings merged. -/
def State.takeSync (m : XwlRx) (s : State) : State :=
  let w := s.xwl
  let src := xSrc m
  let merge (s : State) : State := s.onXwl fun w => { w with events := w.events ||| 32 }
  match w.phase with
  | .listen | .claim | .backoff =>
    (s.onXwl fun w => { w with phase := .integrate, phaseAt := s.now, masterId := src, master := false, seen := 0 }).align m
  | .integrate | .member =>
    if w.master then
      if src < s.ring.nodeId then
        ((merge s).onXwl fun w => { w with master := false, masterId := src, phase := .integrate, seen := 0, up := false,
                                           upCycles := 0 }).align m
      else merge s
    else if src = w.masterId then s.align m
    else if 4 ≤ w.noSync then
      (s.onXwl fun w => { w with masterId := src, events := w.events ||| 8 }).align m
    else if src < w.masterId then ((merge s).onXwl fun w => { w with masterId := src }).align m
    else merge s
  | _ => s

/-- XWL_SYNC_RECEIVED (R431, R432). -/
def execXwlSyncReceived (t : Nat) (m : XwlRx) (s : State) : Host.Outcome State Fault Refusal :=
  finish t s fun s => s.xwlRx 1 m (State.takeSync m)

/-- XWL_SYNC_LOSS (R432): at the fourth cycle without SYNC the lowest node of the roster other than the lost master becomes
master; with none left the node listens. -/
def execXwlSyncLoss (t : Nat) (s : State) : Host.Outcome State Fault Refusal :=
  finish t s fun s =>
    let w := s.xwl
    if (w.phase = .member ∨ w.phase = .integrate) ∧ !w.master ∧ 4 ≤ w.noSync then
      match (List.range 8).find? fun n => s.inRoster n && n != w.masterId with
      | some n =>
        let s := s.onXwl fun w =>
          { w with masterId := n, master := decide (n = s.ring.nodeId), follow := w.follow && n != s.ring.nodeId, noSync := 0,
                   events := w.events ||| 8 }
        s.sendSync
      | none => s.onXwl fun w => { w with phase := .listen, phaseAt := s.now }
    else s

/-- XWL_DELAY_MEASURE (R433): at integration and every 1000 cycles after it. -/
def execXwlDelayMeasure (t d0 d1 : Nat) (s : State) : Host.Outcome State Fault Refusal :=
  finish t s fun s =>
    if s.clk.xwlOk ∧ (s.xwl.phase = .integrate ∨ (s.xwl.phase = .member ∧ 1000 ≤ s.xwl.measured)) then
      s.onXwl fun w => { w with delays := [d0, d1], measured := 0 }
    else s

/-! ## Safety slots (R431, R435) -/

/-- XWL_SAFETY_SLOT (R426, R431, R435): from the third cycle observed, the node sends its SAFETY frame in its slot. -/
def execXwlSafetySlot (t : Nat) (s : State) : Host.Outcome State Fault Refusal :=
  finish t s fun s =>
    let w := s.xwl
    if s.xwlOn ∧ (w.phase = .member ∨ (w.phase = .integrate ∧ 3 ≤ w.seen)) ∧ !w.slotDone
        ∧ s.past w.cycleAt ((2 + 2 * s.ring.nodeId) * 1000) then
      let s := s.onXwl fun w => { w with phase := .member, slotDone := true }
      s.xwlSend (s.xwlHeader 2 s.dev)
    else s

/-- What a SAFETY frame says of its node (R431, R435, R437). -/
def Node.hear (now : Nat) (m : XwlRx) (x : Node) : Node :=
  { x with heard := some now, roster := true, stop := beAt m.data 17 1 % 4,
           share := [beAt m.data 28 1, beAt m.data 29 1, beAt m.data 30 1, beAt m.data 31 1],
           load := beAt m.data 32 4, id := beAt m.data 36 8 }

/-- XWL_SAFETY_RECEIVED (R430, R431, R435, R437): the roster, the group stop and the sharing agreement. -/
def execXwlSafetyReceived (t : Nat) (m : XwlRx) (s : State) : Host.Outcome State Fault Refusal :=
  finish t s fun s => s.xwlRx 2 m (fun s =>
    let was := s.ringAsks
    (s.onNode (xSrc m) (Node.hear s.now m)).ringTrip was)

/-- XWL_NODE_TIMEOUT (R431, R435): no SAFETY frame for NODE_TIMEOUT_MS; the node leaves the roster. -/
def execXwlNodeTimeout (t node : Nat) (s : State) : Host.Outcome State Fault Refusal :=
  finish t s fun s =>
    let x := s.node node
    if node < 8 ∧ x.roster ∧ s.pastOpt x.heard (s.ring.nodeTimeout * ms) then
      let was := s.ringAsks
      let s := s.onNode node fun x => { x with roster := false, stop := 0 }
      let s := s.onXwl fun w => { w with events := w.events ||| 1, up := false, upCycles := 0 }
      (s.evOpen 0x0C "NODE_LOST" node 0).ringTrip was
    else s

/-- XWL_LANE_LOSS (R440): a lane receives nothing; LINE is set and the event logged. -/
def execXwlLaneLoss (t lane : Nat) (s : State) : Host.Outcome State Fault Refusal :=
  finish t s fun s =>
    if lane < 2 ∧ s.xwl.phase ≠ .off ∧ getN s.xwl.lanes lane then
      let s := s.onXwl fun w => { w with lanes := setN w.lanes lane false, line := true, events := w.events ||| 2 }
      s.evOpen 0x0C "LANE_LOST" lane 0
    else s

/-! ## Sharing (R426, R437, R438) -/

/-- A BULK frame (R427): the header, destination and job number, the payload and its CRC. -/
def State.bulkFrame (dest job : Nat) (pay : Bytes) (s : State) : Bytes :=
  s.xwlHeader 4 s.dev ++ [byte dest] ++ beBytes 3 job ++ pay ++ beBytes 4 (crc32c pay)

/-- The lender closes its entry when the return has left (R438 step 3). -/
def State.lentSent (dest job : Nat) (s : State) : State :=
  s.with (s.xwl.borrowed.find? fun b => b.2.1 == dest && b.2.2 == job) fun b s =>
    let s := s.jClose jLent dest b.1
    s.onXwl fun w => { w with borrowed := w.borrowed.filter (· ≠ b), lentDone := satInc w.lentDone }

/-- What one owned unit carries: up to 26 000 payload bytes of the waiting transfers, oldest first. A transfer to a node that
has left the roster is discarded (Table 15.3). -/
def State.sendBulk : Nat → Nat → State → State
  | 0, _, s => s
  | n + 1, room, s =>
    match s.xwl.bulk with
    | [] => s
    | (dest, job, pay) :: rest =>
      if !s.inRoster dest then State.sendBulk n room ((s.onXwl fun w => { w with bulk := rest }).lentSent dest job)
      else if room = 0 then s
      else
        let part := pay.take room
        let left := pay.drop room
        let s := s.xwlSend (s.bulkFrame dest job part)
        if left.isEmpty then State.sendBulk n (room - part.length) ((s.onXwl fun w => { w with bulk := rest }).lentSent dest job)
        else s.onXwl fun w => { w with bulk := (dest, job, left) :: rest }

/-- XWL_BULK_UNIT (R426): an owned bulk unit of this cycle begins. -/
def execXwlBulkUnit (t unit : Nat) (s : State) : Host.Outcome State Fault Refusal :=
  finish t s fun s =>
    let w := s.xwl
    if unit < 8 ∧ s.xwlOn ∧ w.phase = .member ∧ bit s.ring.units unit ∧ !bit w.unitsDone unit
        ∧ s.past w.cycleAt ((18 + 10 * unit) * 1000) then
      (s.onXwl fun w => { w with unitsDone := w.unitsDone ||| 2 ^ unit }).sendBulk (w.bulk.length + 1) 26000
    else s

/-- Operand bytes of a lent job that fall in the borrow window, stored there. -/
def State.putOperands (l : List (Nat × Bytes)) (s : State) : State :=
  s.each l fun x s =>
    let a := 0x100A00000 + x.1
    if x.1 + x.2.length ≤ 0x1E0000 then (s.poke a x.2).unpoison a x.2.length else s

/-- A lent job has arrived (R438 step 2): the lender's journal entry opens, and the job is issued with the identity of its
borrower, the class record and the exchange slot content that came with it. -/
def State.takeLent (src job : Nat) (pay : Bytes) (s : State) : State :=
  let (raw, ops, cls, slot) := Config.bulkJob pay
  let ds := raw.map fun b => { Desc.parse b with ident := 560 + src, cls := 1 }
  let s := s.putOperands ops
  let (num, s) := s.issueJob .lent src job 1 ds [] (some (ClassRec.parse cls, slot))
  let s := s.jOpen jLent src num (leBytes 4 job ++ [1, 0])
  (s.onXwl fun w => { w with borrowed := w.borrowed ++ [(num, src, job)] }).wake.settleWork

/-- The audit line that a lender's return leaves (R438 step 4, R282). -/
def State.returnLine (r : Result) (pay : Bytes) (s : State) : LineSt × Bool :=
  let (code, pairs, untr, i) := Config.bulkReturn pay
  if code = 0 then (if pairs.all (fun x => x.1 == x.2) then (s.auditChecks r, false) else (.failed 0x31, true))
  else if code = 1 then (.failed (reasonWord 0x32 1), false)
  else if code = 2 then (.failed 0x31, false)
  else if code = 3 then (s.auditChecks r, false)
  else if untr then (.reject (reasonWord 0x04 (getN ((s.auditDescs r).map (·.1)) i)), false)
  else (.failed 0x30, false)

/-- A handed-over job leaves the list of those awaited; its journal entry closes as its result is used (R438). -/
def State.endHanded (r : Result) (num : Nat) (line : LineSt) (supp : Bool) (s : State) : State :=
  let s := s.onXwl fun w => { w with handed := w.handed.filter (·.1 ≠ num) }
  let s := s.jClose jAudit r.ch num
  s.onResult r.q r.seq fun x => { x with audit := line, suppressed := x.suppressed || supp }

/-- A lender's return has arrived. The borrower's Vane compares each pair of digests again. -/
def State.takeReturn (num : Nat) (pay : Bytes) (s : State) : State :=
  let s := s.onXwl fun w => { w with shareDone := satInc w.shareDone }
  match s.vrd.results.find? fun r => r.auditJob == some num with
  | none => s.onXwl fun w => { w with handed := w.handed.filter (·.1 ≠ num) }
  | some r =>
    let s := s.onVane fun v => { v with compared := satAdd 32 v.compared (Config.bulkReturn pay).2.1.length }
    let (line, bad) := s.returnLine r pay
    let s := if bad then s.checkerFault num none else s
    (s.endHanded r num line (decide ((Config.bulkReturn pay).1 = 3))).settleWork

/-- The payload of a BULK frame joins what its transfer has delivered. -/
def Xwl.collect (src job : Nat) (pay : Bytes) (w : Xwl) : Bytes × Xwl :=
  let old := ((w.bulkRx.find? fun x => x.1 == src && x.2.1 == job).map (·.2.2)).getD []
  let rest := w.bulkRx.filter fun x => !(x.1 == src && x.2.1 == job)
  let all := old ++ pay
  (all, { w with bulkRx := if Config.bulkWhole all then rest else rest ++ [(src, job, all)] })

/-- What a BULK frame for this node delivers. A lender accepts at most 64 lent jobs at once (19 R522). -/
def State.takeBulk (src job : Nat) (pay : Bytes) (s : State) : State :=
  let all := (s.xwl.collect src job pay).1
  let s := s.onXwl fun w => (w.collect src job pay).2
  if !Config.bulkWhole all then s
  else
    match s.xwl.handed.find? fun h => h.1 % 2 ^ 24 == job && src == s.ring.borrowFrom with
    | some h => s.takeReturn h.1 all
    | none =>
      if s.lends ∧ src = s.ring.lendTo ∧ s.sys.state.permits ∧ s.xwl.borrowed.length < 64 then s.takeLent src job all else s

/-- XWL_BULK_RECEIVED (R438): lent work or a return, with its payload CRC right and this node as its destination. -/
def execXwlBulkReceived (t : Nat) (m : XwlRx) (s : State) : Host.Outcome State Fault Refusal :=
  finish t s fun s => s.xwlRx 4 m (fun s =>
    let pay := (m.data.drop 68).dropLast.dropLast.dropLast.dropLast
    if m.data.length < 72 ∨ beAt m.data 64 1 ≠ s.ring.nodeId then s
    else if crc32c pay ≠ beAt m.data (m.data.length - 4) 4 then
      s.onXwl fun w => { w with crcErr := modN w.crcErr m.lane satInc }
    else s.wake.takeBulk (xSrc m) (beAt m.data 65 3) pay)

/-- XWL_RETURN_TIMEOUT (R438): a handed-over job without a return within RETURN_US fails as INTERNAL. -/
def execXwlReturnTimeout (t job : Nat) (s : State) : Host.Outcome State Fault Refusal :=
  finish t s fun s => s.with (s.xwl.handed.find? (·.1 == job)) fun h s =>
    if s.past h.2 (s.ring.returnUs * 1000) then
      let s := s.onXwl fun w =>
        { w with shareTimeout := satInc w.shareTimeout, events := w.events ||| 16,
                 handed := w.handed.filter (·.1 ≠ job), bulk := w.bulk.filter fun b => b.2.1 ≠ job }
      match s.vrd.results.find? fun r => r.auditJob == some job with
      | some r => (s.endHanded r job (.failed 0x30) false).settleWork
      | none => s
    else s

end Sys2Proof.Machine
end

