-- ==== Sys2Proof/Machine/Clocks.lean ====
section
/-! DEFINITION. The clock monitors (03 R77, R78, Table 3.3), and DOLDRUMS on ETH0 (04 R119). -/

namespace Sys2Proof.Machine

/-! ## Clock monitors -/

/-- The clock lies within its window, as last found. -/
def Clk.okOf (k : Clk) : ClockId → Bool
  | .ac => k.acOk
  | .sp => k.spOk
  | .fab => k.fabOk
  | .ms0 => getN k.msOk 0
  | .ms1 => getN k.msOk 1
  | .pcie => k.pcieOk
  | .eth n => getN k.ethOk n
  | .csi n => getN k.csiOk n
  | .xwl => k.xwlOk
  | .ptp => k.ptpOk
  | .rtc => k.rtcOk

/-- The finding recorded. -/
def Clk.setOk (c : ClockId) (ok : Bool) (k : Clk) : Clk :=
  match c with
  | .ac => { k with acOk := ok }
  | .sp => { k with spOk := ok }
  | .fab => { k with fabOk := ok }
  | .ms0 => { k with msOk := setN k.msOk 0 ok }
  | .ms1 => { k with msOk := setN k.msOk 1 ok }
  | .pcie => { k with pcieOk := ok }
  | .eth n => { k with ethOk := setN k.ethOk n ok }
  | .csi n => { k with csiOk := setN k.csiOk n ok }
  | .xwl => { k with xwlOk := ok }
  | .ptp => { k with ptpOk := ok, backup := !ok }
  | .rtc => { k with rtcOk := ok }

/-- CLK_AC fails: every core is fenced, and every item in flight in the cluster fails; an arbitration keeps its outcome, without a
rerun (10 R277, R279). -/
def State.acFail (s : State) : State :=
  let s := s.each (List.range 16) fun n s => s.fence n 7
  let s := s.each s.aud.jobs fun j s => s.with j.arbitrating fun i s => s.arbOutcome j.num i 4 0
  (s.each (s.aud.jobs.map (·.num)) fun j s => s.onJob j (Job.fail 5 false)).settleWork

/-- CLK_SP or CLK_FAB fails: the SP is held in reset by hardware, trip 0x05, and the die stays in reset until both clocks are back
(04 R91). -/
def State.spClockFail (s : State) : State :=
  let s := ((s.slbDrop).onSys fun y => { y with spHeld := true, tqen := false }).trigStop
  if s.sys.powerFail then s
  else
    match s.sys.state with
    | .off | .doldrums => s
    | .start => if s.start.stage = 0 ∨ s.start.holdAt.isSome then s else s.stageFail 0xF1
    | _ => ((s.endRecord false 0xF1).setState .start false).onStart fun x => { x with stage := 0, clkHeld := true }

/-- The streams of a CSI input are LOST, and a frame in intake is dropped. -/
def State.csiFail (n : Nat) (s : State) : State :=
  s.each s.img.streams fun r s =>
    if r.path = 0 ∧ r.port = n ∧ s.streamOn r.stream then
      let s := if (s.strm r.stream).intake.isSome then s.frameDrop r.stream else s
      if (s.strm r.stream).state = .lost then s else s.loseStream r.stream
    else s

/-- CLK_XWL fails: no ring at this node, so that every obeyed node is absent. -/
def State.xwlFail (s : State) : State :=
  let was := s.ringAsks
  if s.xwl.phase = .off then s else s.xwlOff.ringTrip was

/-- What a failure does (Table 3.3). -/
def State.clockFail (c : ClockId) (s : State) : State :=
  match c with
  | .ac => s.acFail
  | .sp | .fab => s.spClockFail
  | .ms0 => s.stackFault 0
  | .ms1 => s.stackFault 1
  | .pcie => s
  | .eth n => s.linkDown n
  | .csi n => s.csiFail n
  | .xwl => s.xwlFail
  | .ptp => (s.onClk fun k => { k with inLock := 0, gm := none, gms := [none, none], addend := 0, slew := 0 }).setSync .free
  | .rtc => s.onRtc fun r => { r with valid := false }

/-- What a return into the window does: completions that waited for the host link are posted, and the instant both processor clocks
are back is noted. -/
def State.clockBack (c : ClockId) (s : State) : State :=
  match c with
  | .pcie => s.each (List.range 64) fun q s => s.cqDrain q
  | .sp | .fab => s.onClk fun k => { k with okSince := if k.spOk && k.fabOk then some s.now else none }
  | _ => s

/-- The check of CLK_AC is suspended in Lull and Calm, and for 10 µs after the cluster is powered (17 R473). -/
def State.acUnchecked (s : State) : Bool := s.psm.state.deep || s.psm.poweredAt.any fun i => decide (s.now < i + 10000)

/-- CLOCK_MONITOR_WINDOW (R77): a window of one clock has been counted. -/
def execClockMonitorWindow (t : Nat) (clk : ClockId) (ok : Bool) (s : State) : Host.Outcome State Fault Refusal :=
  finish t s fun s =>
    if !s.sup.on ∨ s.clk.okOf clk = ok ∨ (clk = .ac ∧ s.acUnchecked) then s
    else
      let s := s.onClk (Clk.setOk clk ok)
      if ok then s.clockBack clk
      else (s.onClk fun k => { k with failSeen := true, okSince := if k.spOk && k.fabOk then k.okSince else none }).clockFail clk

/-- CLOCK_RECOVERY_RELEASE (04 R91): both clocks have been within their windows for 10 ms, and the die leaves reset. -/
def execClockRecoveryRelease (t : Nat) (s : State) : Host.Outcome State Fault Refusal :=
  finish t s fun s =>
    if s.sup.on ∧ s.sys.spHeld ∧ s.clk.spOk ∧ s.clk.fabOk ∧ s.pastOpt s.clk.okSince (10 * ms) then
      let s := s.onSys fun y => { y with spHeld := false }
      if s.sys.powerFail then s
      else if s.start.clkHeld ∧ s.sys.state = .start then s.beginStart true false
      else if s.sys.state = .start ∧ s.pastOpt s.start.holdAt sec then s.afterHold
      else s
    else s

/-- THERMAL_RELEASE (02 R56): Tj has fallen below 95 °C; a cold start. In DOLDRUMS, which only CLEAR_DOLDRUMS leaves (01 Table 1.5, 04
R122), the die is reset as by a cold start and comes up in DOLDRUMS again (DEDUCED, log entry 54). -/
def execThermalRelease (t : Nat) (s : State) : Host.Outcome State Fault Refusal :=
  finish t s fun s =>
    if s.sup.on ∧ s.sup.thermal then
      let s := s.onSup fun u => { u with thermal := false }
      if s.sys.powerFail then s
      else
        match s.sys.state with
        | .start => s.beginStart false false
        | .doldrums => (s.resetDie false).initTime.toDoldrums s.nvm.reason
        | _ => s
    else s

/-! ## DOLDRUMS on ETH0 (04 R119) -/

/-- The payload of the diagnostic frame. -/
def State.diagFrame (s : State) : Bytes :=
  [byte 1] ++ beBytes 8 Config.serial ++ beBytes 4 Config.romVersion ++ beBytes 2 s.start.doldrums
    ++ s.nvm.hist.flatMap (beBytes 2) ++ [byte s.counter] ++ beBytes 8 s.dev ++ beBytes 4 s.slbmSummary

/-- DOLDRUMS_DIAGNOSTIC_FRAME: once per second. -/
def execDoldrumsDiagnosticFrame (t : Nat) (s : State) : Host.Outcome State Fault Refusal :=
  finish t s fun s =>
    let due : Bool := match s.start.diagAt with | some i => s.past i sec | none => true
    if s.spRuns ∧ s.sys.state = .doldrums ∧ due then
      (s.onStart fun x => { x with diagAt := some s.now }).send (.eth 0 0x88B5 s.diagFrame)
    else s

end Sys2Proof.Machine
end

