-- ==== Sys2Proof/Machine/Fusion.lean ====
section
/-! DEFINITION. The commands of the Fusion Grid Unit (07): ego-motion ticks, epochs and the guard job. -/

namespace Sys2Proof.Machine

/-- The estimator and the epoch controller run in the operating states, and not in Calm (17 Table 17.1). -/
def State.fguOn (s : State) : Bool :=
  s.sup.on && !s.sup.thermal && s.psm.state != .calm &&
    (match s.sys.state with
    | .off | .start | .doldrums => false
    | _ => true)

/-! ## Ego-motion (R187, R188, R191) -/

/-- Some joint moved by more than JOINT_STEP_URAD between consecutive samples (Table 7.3 code 2). -/
def jointStep (urad : Nat) : List Int → List JointSample → Bool
  | _, [] => false
  | last, x :: l =>
    ((last.zip x.pos).any fun p => decide (urad * 65536 < (p.2 - p.1).natAbs * 1000000)) || jointStep urad x.pos l

/-- The joint samples of a tick: those with a sample time in (t − 1 ms, t] (R188). -/
def Fgu.samples (tick : Nat) (g : Fgu) : List JointSample :=
  g.joints.filter fun x => decide ((tick - 1) * ms < x.time ∧ x.time ≤ tick * ms)

/-- A lane's difference from the other is within 0.1 mm and 0.1 mrad (R188). -/
def poseSmall (e : Pose) : Bool := poseAgrees ⟨0, 0, 0, 0, 0, 0⟩ e

/-- The two lanes agree on both poses (R188). -/
def lanesAgree (e : EgoIn) : Bool := poseSmall e.flangeErr && poseSmall e.baseErr

/-- The IMU has given a tick its four samples (R187, Table 7.3 code 6). -/
def imuGood (e : EgoIn) : Bool := e.imuOk && e.imu.length == 4

/-- The sum of the tick's samples in one channel of the IMU: 0 to 2 the rates, 3 to 5 the accelerations. -/
def imuSum (e : EgoIn) (k : Nat) : Int := (e.imu.map fun x => getN x k).sum

/-- The averaged gyro magnitude is above a limit in mrad/s (Table 7.3 code 4). -/
def imuTurning (limit : Nat) (e : EgoIn) : Bool :=
  decide (((4000 * limit : Nat) : Int) ^ 2 < imuSum e 0 ^ 2 + imuSum e 1 ^ 2 + imuSum e 2 ^ 2)

/-- The counts of the two odometry inputs as the last SLB cycle forwarded them (R187). -/
def State.qeCounts (s : State) : List Nat :=
  [s.img.fusion.qeLeft, s.img.fusion.qeRight].map fun n => getN (getN s.slb.qe n).counts 0

/-- The counters of a tick: samples taken in, missing joint samples and motion of a still mount. -/
def State.tickCount (e : EgoIn) (s : State) : State :=
  let f := s.img.fusion
  let qe := s.qeCounts
  s.onFgu fun g =>
    let xs := g.samples e.tick
    { g with
      jointGap := if bit f.sources 0 ∧ xs.isEmpty then g.jointGap + 1 else 0
      gyroTicks := if bit f.sources 1 ∧ s.img.modulePose.parent = 0 ∧ imuTurning f.imuStill e then g.gyroTicks + 1 else 0
      lastJoint := (xs.getLast?).elim g.lastJoint (·.pos)
      joints := g.joints.filter fun x => decide (e.tick * ms < x.time)
      lastQe := qe
      lastTick := e.tick }

/-- The causes of Table 7.3 that a tick shows, in code order; `was` is the unit before the tick's counters. -/
def State.egoCauses (was : Fgu) (e : EgoIn) (s : State) : List Nat :=
  let f := s.img.fusion
  let g := s.fgu
  let on (c : Bool) (n : Nat) : List Nat := if c then [n] else []
  on (bit f.sources 0 && decide (3 ≤ g.jointGap)) 1
    ++ on (bit f.sources 0 && jointStep f.jointStep was.lastJoint (was.samples e.tick)) 2
    ++ on (!lanesAgree e) 3
    ++ on (decide (10 ≤ g.gyroTicks)) 4
    ++ on (bit f.sources 2 && ((getN s.slb.qe f.qeLeft).fault || (getN s.slb.qe f.qeRight).fault)) 5
    ++ on (bit f.sources 1 && !imuGood e) 6

/-- The causes of a tick that begin with it: those that the tick before did not show (log entry 78). -/
def newCauses (was : Fgu) (l : List Nat) : List Nat := l.filter fun c => !bit was.causes c

/-- Every enabled source has delivered for the tick, and the lanes agree (R191). -/
def State.tickGood (e : EgoIn) (s : State) : Bool :=
  let f := s.img.fusion
  lanesAgree e && (!bit f.sources 0 || s.fgu.jointGap == 0) && (!bit f.sources 1 || imuGood e)
    && (!bit f.sources 2 || !((getN s.slb.qe f.qeLeft).fault || (getN s.slb.qe f.qeRight).fault))

/-! ### The estimate (R187) -/

/-- A pose as its six numbers, and back. -/
def poseNums (p : Pose) : List Int := [p.x, p.y, p.z, p.roll, p.pitch, p.yaw]
def poseOf (l : List Int) : Pose := ⟨getN l 0, getN l 1, getN l 2, getN l 3, getN l 4, getN l 5⟩

/-- The change from one pose to another (R187). -/
def poseDelta (p q : Pose) : Pose := if p = q then ⟨0, 0, 0, 0, 0, 0⟩ else poseOf (Config.poseChange (poseNums p) (poseNums q))

/-- What the enabled sources give a tick (R187, Table 7.2): the arm model with the joint positions, the averaged IMU samples with the
module's mounting, and the wheels' travel; empty for a source that is off. `was` is the unit before the tick. -/
def State.egoSources (was : Fgu) (e : EgoIn) (s : State) : List (List Int) :=
  let f := s.img.fusion
  let on (k : Nat) (l : List Int) : List Int := if bit f.sources k then l else []
  let qe (i : Nat) : Int := toSigned 32 ((getN s.fgu.lastQe i + 2 ^ 32 - getN was.lastQe i) % 2 ^ 32)
  [on 0 f.armModel, on 0 s.fgu.lastJoint, on 1 ((List.range 6).map (imuSum e)), on 1 (s.img.modulePose.parent :: s.img.modulePose.pose),
   on 2 [f.wheelNm, f.trackUm, qe 0, qe 1]]

/-- The estimate of a tick is recorded, with the change of each pose since the tick before: valid where no discontinuity lasts; the
fifth consecutive good tick after the last declaration ends one (R187, R191). -/
def State.tickRecord (was : Fgu) (e : EgoIn) (declared : Bool) (s : State) : State :=
  let good := s.tickGood e
  let src := s.egoSources was e
  let old := was.poses.headD default
  let fl := poseOf (Config.egoFlange (poseNums old.flange :: src))
  let ba := poseOf (Config.egoBase (poseNums old.base :: src))
  s.onFgu fun g =>
    let n := if declared ∨ !good then 0 else g.goodTicks + 1
    let broken := g.broken && decide (n < 5)
    let v := !broken
    { g with
      broken := broken
      goodTicks := if g.broken then n else 0
      egoValid := v
      poses := ({ tick := e.tick, valid := v, flange := fl, base := ba, dFlange := poseDelta old.flange fl,
                  dBase := poseDelta old.base ba } :: g.poses).take 4096 }

/-- EGO_TICK (R187, R188, R191, R192): the estimate of a tick is final 2 ms after it. -/
def execEgoTick (t : Nat) (e : EgoIn) (s : State) : Host.Outcome State Fault Refusal :=
  finish t s fun s =>
    if s.fguOn ∧ s.fgu.lastTick < e.tick ∧ (e.tick + 2) * ms ≤ s.dev then
      let was := s.fgu
      let s := s.tickCount e
      let l := s.egoCauses was e
      let new := newCauses was l
      let s := (s.each new State.discontinuity).onFgu fun g => { g with causes := (l.map (2 ^ ·)).sum }
      (s.tickRecord was e (!new.isEmpty)).settleWork
    else s

/-! ## Epochs (R194 to R196, R203, R206) -/

/-- EPOCH_OPEN (R194): at the later of the first buffer entry since the last closing and the previous opening plus
1 / EPOCH_RATE. Every member that is awaited may already have arrived. -/
def execEpochOpen (t : Nat) (s : State) : Host.Outcome State Fault Refusal :=
  finish t s fun s =>
    let g := s.fgu
    let due := g.firstEntry.any fun e => decide (max e (g.prevOpen.elim 0 (· + s.epochGap)) ≤ s.dev)
    if s.fguOn ∧ g.openAt.isNone ∧ due then
      ((s.onFgu fun g => { g with openAt := some s.dev }).tryClose).settleWork
    else s

/-- EPOCH_WAIT_EXPIRY (R194, R195): WAIT_NS has passed since the opening. -/
def execEpochWaitExpiry (t : Nat) (s : State) : Host.Outcome State Fault Refusal :=
  finish t s fun s => if s.fguOn ∧ s.epochDue then s.closeEpoch.settleWork else s

/-! ## The guard job (R190, R197, R198, R200) -/

/-- A pose as its six numbers, and as the exchange slot holds it. -/
def FinePose.nums (p : FinePose) : List Int := [p.x, p.y, p.z, p.rot.1, p.rot.2.1, p.rot.2.2]
def FinePose.words (p : FinePose) : List Nat := p.nums.map (ofSigned 64)

/-- The poses written once into the epoch's exchange slot (R190, R198): the capture-time pose of every member on a moving
mount, and for GRID_FRAME MOBILE_BASE the base pose change between the anchor's captures of the previous and of this epoch, zero
where one of them has no estimate (log entry 78). -/
def State.guardAgreed (e : Epoch) (s : State) : List Nat :=
  let f := s.img.fusion
  let cap (x : Epoch) : Option FinePose :=
    (x.members.find? (·.1 == f.anchor)).bind fun m => s.poseAt 2 (s.captureOf m.1 m.2)
  let placed := e.members.flatMap fun m =>
    match s.img.stream m.1 with
    | some r => if r.mount = 0 then [] else (s.poseAt r.mount (s.captureOf m.1 m.2)).elim [] FinePose.words
    | none => []
  let prev := (s.fgu.epochs.filter fun x => decide (x.num < e.num) && x.state != .skipped).head?
  let change : List Nat := match prev.bind cap, cap e with
    | some p, some q => if p = q then List.replicate 6 0 else (poseNums (poseOf (Config.poseChange p.nums q.nums))).map (ofSigned 64)
    | _, _ => List.replicate 6 0
  let base := if f.gridFrame = 1 then change else []
  placed ++ base

/-- GUARD_JOB_START (R197, R200, R203): the waiting epoch's job is issued once its predecessor's state has been committed or
discarded, and the cluster is awake. -/
def execGuardJobStart (t : Nat) (s : State) : Host.Outcome State Fault Refusal :=
  finish t s fun s =>
    match s.fgu.waiting with
    | none => s
    | some w =>
      if s.fguOn ∧ s.fgu.job.isNone ∧ !s.psm.asleep then
        s.with (s.epochOf w) fun e s =>
          let s := s.commitMemory.zeroMemory
          let (n, s) := s.issueJob .guard 0 w 0 (s.img.layers.map fun r => s.layerDesc e r) (s.guardAgreed e)
          (s.onFgu fun g => { g with waiting := none, job := some (w, n) }).settleWork
      else s

end Sys2Proof.Machine
end

