-- ==== Sys2Proof/Machine/Host.lean ====
section
/-! DEFINITION. Host queues, BAR2 and task supervision (16 R446 to R464). -/

namespace Sys2Proof.Machine

/-! ## Queue configuration (R452 to R456) -/

/-- SQ_TAIL_DOORBELL (R452, R455, 17 R480): a value outside the ring sets ERROR DOORBELL, a channel fault, and is not applied. A
queue that is not enabled or is resetting takes none. -/
def execSqTailDoorbell (t q v : Nat) (s : State) : Host.Outcome State Fault Refusal :=
  finish t s fun s =>
    let h := s.hqueue q
    if s.regsUp ∧ q < 64 ∧ h.en ∧ !h.resetting then
      let s := s.wake
      let v := v % 4096
      if 2 ^ h.sqLog ≤ v then
        (s.onQ q fun h => { h with error := true, err := 3 }).with (s.boundChan q) fun c s => s.chFault c.ch 8
      else s.onQ q fun h => { h with sqTail := v }
    else s

/-- A queue may be enabled (R455). -/
def State.queueOk (q : Nat) (s : State) : Bool :=
  let h := s.hqueue q
  within 4 12 h.sqLog && within 4 12 h.cqLog && h.sqBase % 64 == 0 && h.cqBase % 16 == 0 && (s.boundChan q).isSome

/-- HQ_ENABLE_WRITE (R455): EN = 1 takes effect from S8 onward or in DOLDRUMS; recovery completions go first (19 R528). -/
def execHqEnableWrite (t q : Nat) (en : Bool) (s : State) : Host.Outcome State Fault Refusal :=
  finish t s fun s =>
    if !s.regsUp ∨ 64 ≤ q then s
    else if !en then s.onQ q fun h => { h with en := false }
    else if !s.hq.opened ∨ (s.hqueue q).en then s
    else if s.queueOk q then (s.onQ q fun h => { h with en := true, phase := true }).cqDrain q
    else if (s.hqueue q).error then s else s.onQ q fun h => { h with err := 0 }

/-- HQ_RESET (R455): consumption stops at once. -/
def execHqReset (t q : Nat) (s : State) : Host.Outcome State Fault Refusal :=
  finish t s fun s => s.when (s.regsUp && decide (q < 64)) (State.onQ q fun h => { h with resetting := true })

/-- What the end of a reset leaves of a queue. -/
def HQueue.cleared (h : HQueue) : HQueue :=
  { h with sqHead := 0, sqTail := 0, cqHead := 0, cqTail := 0, cqUsed := 0, phase := true, error := false, err := 0, resetting := false,
           en := false, unsig := 0, firstAt := none, recov := h.recov.filter (·.recovery) }

/-- QUEUE_RESET_COMPLETE (R455): no result of the queue is in flight. -/
def execQueueResetComplete (t q : Nat) (s : State) : Host.Outcome State Fault Refusal :=
  finish t s fun s => s.when (s.regsUp && decide (q < 64) && (s.hqueue q).resetting && (s.inFlight q).isEmpty) (State.onQ q HQueue.cleared)

/-- Every stream of a mask is LIVE. -/
def State.allLive (m : Nat) (s : State) : Bool := (List.range 16).all fun n => !bit m n || (s.strm n).state == .live

/-- HQ_RESUME (R464). -/
def execHqResume (t q : Nat) (s : State) : Host.Outcome State Fault Refusal :=
  finish t s fun s =>
    if !s.regsUp ∨ 64 ≤ q then s
    else
      let s := s.wake
      s.with (s.boundChan q) fun c s =>
        if s.allLive c.streams then
          let s := s.onQ q fun h => { h with hold := false, error := false, err := 0, chFault := false }
          s.onChan c.ch fun x => { x with fault := false, free := true, timerAt := none, late := false, used := 0, spent := false }
        else s

/-- CQ_HEAD_WRITE (R453): the 12 bits of HEAD are stored (R467). The entries passed since, counted modulo the ring's size and at most
the entries in use, are free again (DESIGN CHOICE, log entry 68), and completions that waited are posted. -/
def execCqHeadWrite (t q v : Nat) (s : State) : Host.Outcome State Fault Refusal :=
  finish t s fun s =>
    let h := s.hqueue q
    let v := v % 4096
    if s.regsUp ∧ q < 64 then
      (s.onQ q fun h => { h with cqHead := v, cqUsed := h.cqUsed - (v + 2 ^ 16 - h.cqHead) % 2 ^ h.cqLog }).cqDrain q
    else s

/-- HQ_IRQ_WRITE (R454): values outside their ranges are refused (00 R2); clearing MASK signals pending entries at once. -/
def execHqIrqWrite (t q v : Nat) (s : State) : Host.Outcome State Fault Refusal :=
  finish t s fun s =>
    let c := bits v 0 7
    let u := bits v 16 10
    if s.regsUp ∧ q < 64 ∧ 1 ≤ c ∧ c ≤ 64 ∧ u ≤ 1000 then
      let was := (s.hqueue q).irqMask
      let s := s.onQ q fun h => { h with irqCount := c, irqTime := u, irqMask := bit v 31 }
      if was ∧ !bit v 31 ∧ (s.hqueue q).unsig ≠ 0 then s.msi q else s.msiDue q
    else s

/-- IRQ_TIME_EXPIRY (R454). -/
def execIrqTimeExpiry (t q : Nat) (s : State) : Host.Outcome State Fault Refusal :=
  finish t s fun s => s.when (s.regsUp && decide (q < 64)) (State.msiDue q)

/-- DELIVERY_TAIL_WRITE (R457, R468). A TAIL outside the ring, 2 to the SIZE_LOG2 and up, is not taken (DESIGN CHOICE, log entry 68). -/
def execDeliveryTailWrite (t n v : Nat) (s : State) : Host.Outcome State Fault Refusal :=
  finish t s fun s =>
    s.when (s.regsUp && decide (n < 16 ∧ v % 4096 < 2 ^ (getN s.hq.rings n).sizeLog)) (State.onRing n fun d => { d with tail := v % 4096 })

/-- PCIE_FUNCTION_LEVEL_RESET (R456): RESET on every queue and every delivery ring; windows and results stay. -/
def execPcieFunctionLevelReset (t : Nat) (s : State) : Host.Outcome State Fault Refusal :=
  finish t s fun s => s.when s.regsUp fun s =>
    s.onHq fun h =>
      { h with
        queues := h.queues.map fun x => { x with resetting := true }
        rings := h.rings.map fun d => { d with tail := 0, head := 0, phase := true, en := false } }

/-! ## BAR2 (R449, R450, R458, R459) -/

/-- The identity of a request: the first record with its PASID, else the first with its Requester ID; the values that mean "none"
in a record match no request (Table 16.10). -/
def State.bar2Ident (r : Bar2Req) (s : State) : Option Nat :=
  let byPasid := r.pasid.bind fun p => s.img.channels.find? fun c => c.pasid == p && c.pasid != 0xFFFFFFFF
  let byReq := s.img.channels.find? fun c => c.reqId == r.reqId && c.reqId != 0xFFFF
  (byPasid.or byReq).map (·.ch)

/-- PCIe completion status of a read: 0 success, 1 Unsupported Request, 2 Completer Abort, 3 poisoned data. -/
def State.bar2Read (status : Nat) (data : Bytes) (s : State) : State := s.send (.pcieRead status data)

/-- A refusal as PCIe sees it (R459): Completer Abort, or the write discarded; AER logs it. -/
def State.bar2Refuse (r : Bar2Req) (s : State) : State :=
  let s := s.onHq fun h => { h with aer := satInc h.aer }
  match r.write with
  | none => s.bar2Read 2 []
  | some _ => s.send (.pcieWrite 2)

/-- A write leaves part of a poisoned granule as it is (11 R306). -/
def State.partPoisoned (a n : Nat) (s : State) : Bool :=
  s.poison.any fun g => decide (g * 32 < a + n ∧ a < g * 32 + 32 ∧ (g * 32 < a ∨ a + n < g * 32 + 32))

/-- An access that passed the firewall reaches the stack, which leaves self-refresh (17 R474). -/
def State.bar2Reach (r : Bar2Req) (ident a n : Nat) (s : State) : State :=
  let s := s.onBeu fun b => { b with stks := modN b.stks 1 Stack.awake }
  if s.inProc a n then (if (s.stk 1).fault then s else s.busErr ident a).bar2Refuse r
  else
    match r.write with
    | none => if s.poisoned a n then s.bar2Read 3 [] else s.bar2Read 0 (s.peekN a n)
    | some b => if s.partPoisoned a n then s.bar2Refuse r else (s.poke a b).send (.pcieWrite 0)

/-- BAR2_ACCESS. In DOLDRUMS BAR2 answers Unsupported Request (04 R117); without an identity a read does, and a write is
discarded and counted with it. -/
def execBar2Access (t : Nat) (r : Bar2Req) (s : State) : Host.Outcome State Fault Refusal :=
  finish t s fun s =>
    if !s.regsUp then s
    else
      let n := match r.write with | some b => b.length | none => r.length
      let ur (s : State) : State := match r.write with | none => s.bar2Read 1 [] | some _ => s.send (.pcieWrite 1)
      if s.sys.state = .doldrums ∨ 0x40000000 < r.offset + n then ur s
      else
        match s.bar2Ident r with
        | none => ur (s.onFwl fun f => { f with noId := satInc f.noId })
        | some c =>
          let a := bar2Addr r.offset
          let w := r.write.isSome
          if !bar2Range r.offset n then (s.refuse c w false a).bar2Refuse r
          else
            let (ok, s) := s.check c w a n
            if ok then s.bar2Reach r c a n else s.bar2Refuse r

/-! ## Task supervision (R461 to R464) -/

/-- Channels are supervised: from S8, with their image. -/
def State.tsuOn (s : State) : Bool := s.regsUp && s.hq.opened && s.sys.state != .doldrums

/-- The order check of a channel is enabled: some mask of its record is not 0 (log entry 45). -/
def ChanRec.ordered (c : ChanRec) : Bool := c.order.any (· ≠ 0)

/-- The alive and order checks of a checkpoint write. -/
def State.cpChecks (c : ChanRec) (cp : Nat) (s : State) : State :=
  let x := s.tchan c.ch
  let high := c.aliveWindow ≠ 0 ∧ x.alive = c.aliveMax
  let wrong := c.ordered ∧ !x.free ∧ !bit (getN c.order x.lastCp) cp
  let s := s.onChan c.ch fun x => { x with alive := x.alive + 1, lastCp := cp, free := false }
  let s := if high then s.chFault c.ch 2 else s
  if wrong then s.chFault c.ch 5 else s

/-- The timer of a checkpoint write: END_CP stops a running one, START_CP starts one that does not run. -/
def State.cpTimer (c : ChanRec) (cp : Nat) (s : State) : State :=
  if (s.tchan c.ch).timerAt.isSome then (if cp = c.endCp then s.stopTimer c else s)
  else if cp = c.startCp ∧ (c.deadlineUs ≠ 0 ∨ c.budgetUs ≠ 0) then
    s.onChan c.ch fun x => { x with timerAt := some s.now, late := false }
  else s

/-- HQ_CHECKPOINT: CHANNEL in [8:0] and CP in [19:16], stamped on arrival. -/
def execHqCheckpoint (t v : Nat) (s : State) : Host.Outcome State Fault Refusal :=
  finish t s fun s =>
    if s.tsuOn then s.with (s.img.chan (bits v 0 9)) fun c s => (s.cpChecks c (bits v 16 4)).cpTimer c (bits v 16 4) else s

/-- A named stream is FROZEN or LOST: a STREAM cause persists. -/
def State.streamCause (c : ChanRec) (s : State) : Bool :=
  (List.range 16).any fun n => bit c.streams n && ((s.strm n).state == .frozen || (s.strm n).state == .lost)

/-- TSU_ALIVE_WINDOW_END: the fault of a channel without a queue clears at the end of a complete window without a new cause. -/
def execTsuAliveWindowEnd (t c : Nat) (s : State) : Host.Outcome State Fault Refusal :=
  finish t s fun s => s.with (s.img.chan c) fun r s =>
    let x := s.tchan c
    if s.tsuOn ∧ r.aliveWindow ≠ 0 ∧ s.past x.windowAt (r.aliveWindow * ms) then
      let low := decide (x.alive < r.aliveMin)
      let s := if low then s.chFault c 1 else s
      let isOver := !low && r.queue == 0xFF && x.fault && decide (x.causeAt ≤ x.windowAt) && !s.streamCause r
      s.onChan c fun x =>
        { x with windowAt := x.windowAt + r.aliveWindow * ms, alive := 0, fault := x.fault && !isOver, free := x.free || isOver }
    else s

/-- TSU_DEADLINE_EXPIRY. -/
def execTsuDeadlineExpiry (t c : Nat) (s : State) : Host.Outcome State Fault Refusal :=
  finish t s fun s => s.with (s.img.chan c) fun r s =>
    let x := s.tchan c
    if s.tsuOn ∧ r.deadlineUs ≠ 0 ∧ !x.late ∧ s.pastOpt x.timerAt (r.deadlineUs * 1000) then
      (s.onChan c fun x => { x with late := true }).chFault c 3
    else s

/-- The time the deadline timer has run in the current budget period. -/
def State.budgetUsed (c : Nat) (s : State) : Nat :=
  let x := s.tchan c
  x.used + (match x.timerAt with | some i => s.now - max i x.periodAt | none => 0)

/-- TSU_BUDGET_EXCEEDED. -/
def execTsuBudgetExceeded (t c : Nat) (s : State) : Host.Outcome State Fault Refusal :=
  finish t s fun s => s.with (s.img.chan c) fun r s =>
    if s.tsuOn ∧ r.budgetUs ≠ 0 ∧ !(s.tchan c).spent ∧ r.budgetUs * 1000 < s.budgetUsed c then
      (s.onChan c fun x => { x with spent := true }).chFault c 4
    else s

/-- TSU_BUDGET_PERIOD_END. -/
def execTsuBudgetPeriodEnd (t c : Nat) (s : State) : Host.Outcome State Fault Refusal :=
  finish t s fun s => s.with (s.img.chan c) fun r s =>
    let x := s.tchan c
    if s.tsuOn ∧ r.budgetUs ≠ 0 ∧ s.past x.periodAt (r.budgetPeriod * ms) then
      s.onChan c fun x => { x with periodAt := x.periodAt + r.budgetPeriod * ms, used := 0, spent := false }
    else s

end Sys2Proof.Machine
end

