-- ==== Sys2Proof/Machine/PsmCmds.lean ====
section
/-! DEFINITION. The commands of the power state manager and of the background deadlines (17 R471 to R485). -/

namespace Sys2Proof.Machine

/-- The operating states, in which the manager chooses and background deadlines count (17 R475, R483). -/
def State.psmOn (s : State) : Bool :=
  s.regsUp &&
    (match s.sys.state with
    | .commission | .run | .degraded | .halted => true
    | _ => false)

/-! ## Entry and exit (R471 to R474, R478) -/

/-- A stack whose BEUs have nothing to do; a command written during an entry keeps its stack awake (R474, 11 R311). -/
def Stack.restful (k : Stack) : Bool :=
  k.vp.queue.isEmpty && k.bg.queue.isEmpty && k.vp.fence.isNone && k.bg.fence.isNone && k.running.isEmpty

/-- A power state is reached; in a deep one the stacks lie in self-refresh (Table 17.1). -/
def State.enterPower (p : PState) (s : State) : State :=
  let s := s.onPsm fun x => { x with state := p, entering := none }
  if p.deep then s.onBeu fun b => { b with stks := b.stks.map fun k => { k with selfRefresh := k.selfRefresh || k.restful } } else s

/-- PSM_ENTRY_COMPLETE (R471): the entry time of the state has passed. -/
def execPsmEntryComplete (t : Nat) (s : State) : Host.Outcome State Fault Refusal :=
  finish t s fun s =>
    match s.psm.entering with
    | some (p, i) => s.when (s.psmOn && s.past i p.entry) (State.enterPower p)
    | none => s

/-- The waking event of R478 and Table 17.5: E − exit − GUARD has come, or urgent background work needs the cluster. -/
def State.plannedDue (p : PState) (s : State) : Bool :=
  (s.nextEvent.any fun e => decide (e ≤ s.dev + p.exit + s.guardNs))
    || (s.psm.bg.take 2).any (·.urgent) || s.psm.tests.any (·.urgent)

/-- A deep state the device is in, or enters. -/
def Psm.deepest? (p : Psm) : Option PState :=
  match p.entering with
  | some (q, _) => if q.deep then some q else if p.state.deep then some p.state else none
  | none => if p.state.deep then some p.state else none

/-- A planned wake begins; an entry is aborted. -/
def State.planWake (s : State) : State :=
  s.onPsm fun p => { p with entering := none, waking := some (s.now, true), planned := satAdd 16 p.planned 1 }

/-- PSM_PLANNED_WAKE (R478, R480). -/
def execPsmPlannedWake (t : Nat) (s : State) : Host.Outcome State Fault Refusal :=
  finish t s fun s =>
    match s.psm.waking, s.psm.deepest? with
    | none, some p => s.when (s.psmOn && s.plannedDue p) fun s => s.planWake.psmChoose
    | _, _ => s

/-- The exit from a deep state: from Calm, local memory is zeroed, no instant has an estimate until the fifth good tick, and the
recurrent state is reset (R473, 08 R235; the code EGO_STAT shows for this gap: log entry 46). -/
def State.exitDeep (s : State) : State :=
  let calm := decide (s.psm.state = .calm)
  let s := s.onPsm fun p => { p with state := .gale, waking := none, poweredAt := some s.now }
  let s := s.onBeu fun b => { b with stks := b.stks.map Stack.awake }
  let s := s.onAud fun a => { a with cores := a.cores.map fun c => { c with gated := false, idleAt := s.now } }
  if calm then
    let s := s.each (List.range 16) State.zeroLocal
    (s.onFgu fun g => { g with broken := true, goodTicks := 0, egoValid := false }).fguReset 3
  else s

/-- PSM_WAKE_COMPLETE (R472, R473, R485): the admitted cores that do not respond are fenced. -/
def execPsmWakeComplete (t silentCores : Nat) (s : State) : Host.Outcome State Fault Refusal :=
  finish t s fun s =>
    match s.psm.waking with
    | some (i, _) =>
      if s.psmOn then
        let s := (s.latency 0x08 noSub (s.now - i)).exitDeep
        let quiet := (List.range 16).filter fun n => bit silentCores n && (s.acore n).serves
        (s.each quiet fun n s => s.fence n 9).settleWork
      else s
    | none => s

/-- PSM_WAKE_FAULT (R485): the wake is not complete within its exit latency plus 50 µs. -/
def execPsmWakeFault (t : Nat) (s : State) : Host.Outcome State Fault Refusal :=
  finish t s fun s =>
    match s.psm.waking with
    | some (i, _) =>
      if s.psmOn ∧ i + s.psm.state.exit + 50000 < s.now then
        let s := s.exitDeep.onPsm fun p => { p with wakeFault := true, events := p.events ||| 2 }
        (s.evOpen 0x0F "WAKE_FAULT" noSub 0).settleWork
      else s
    | none => s

/-- BREEZE_CORE_GATE (R472): a core that has taken no descriptor for 2 µs. -/
def execBreezeCoreGate (t core : Nat) (s : State) : Host.Outcome State Fault Refusal :=
  finish t s fun s =>
    let c := s.acore core
    if s.psmOn ∧ core < 16 ∧ s.psm.state = .breeze ∧ s.psm.waking.isNone ∧ c.run.isNone ∧ s.past c.idleAt 2000 then
      s.onCore core fun c => { c with gated := true }
    else s

/-! ## Background deadlines (R483, R484) -/

/-- The time left to the deadline of activity `a` is at most its urgency margin. -/
def Bg.near (now a : Nat) (b : Bg) : Bool := decide (b.from_ + bgDeadline a ≤ now + bgMargin a)

/-- The deadline of activity `a` has come. -/
def Bg.due (now a : Nat) (b : Bg) : Bool := decide (b.from_ + bgDeadline a ≤ now)

/-- The cores' deadlines that a predicate selects, changed: admitted cores alone run a rolling self-test (08 R239). -/
def State.onTests (p : Bg → Bool) (f : Bg → Bg) (s : State) : State :=
  s.onPsm fun x => { x with tests := x.tests.zipIdx.map fun (y : Bg × Nat) =>
    if (s.acore y.2).serves ∧ p y.1 then f y.1 else y.1 }

/-- BG_URGENT (R483): the activity moves to rank 3; the scrub and the self-test keep their resource awake (Table 17.5). -/
def execBgUrgent (t a : Nat) (s : State) : Host.Outcome State Fault Refusal :=
  finish t s fun s =>
    if s.psmOn ∧ a < 5 then
      let s :=
        if a = 1 then (s.onTests (Bg.near s.now 1) fun b => { b with urgent := true }).syncTests
        else if (getN s.psm.bg a).near s.now a then s.onBg a fun b => { b with urgent := true }
        else s
      match s.psm.waking, s.psm.deepest? with
      | none, some p => s.when (decide (a < 2) && s.plannedDue p && (getN s.psm.bg a).urgent) State.planWake
      | _, _ => s
    else s

/-- A deadline of activity `a` is missed: the warning, MISSES and MISS_SEEN (R484, R490, R491). -/
def State.bgMissed (a : Nat) (s : State) : State :=
  ((s.onPsm fun p => { p with events := p.events ||| 1 }).ev 0x0F01 2 noSub a).psmChoose

/-- BG_DEADLINE_MISS (R484). -/
def execBgDeadlineMiss (t a : Nat) (s : State) : Host.Outcome State Fault Refusal :=
  finish t s fun s =>
    if s.psmOn ∧ a < 5 then
      if a = 1 then
        let n := ((s.psm.tests.zip s.aud.cores).filter fun x => x.2.serves && x.1.due s.now 1).length
        if n = 0 then s
        else
          let s := (s.onTests (Bg.due s.now 1) (Bg.miss (bgDeadline 1))).syncTests
          (s.onBg 1 fun b => { b with misses := satAdd 8 b.misses n }).bgMissed 1
      else if (getN s.psm.bg a).due s.now a then (s.onBg a (Bg.miss (bgDeadline a))).bgMissed a
      else s
    else s

end Sys2Proof.Machine
end

