-- ==== Sys2Proof/Machine/Retention.lean ====
section
/-! DEFINITION. Retention SRAM as bytes (18 R492, 19 R519 with Tables 19.1 to 19.3): the structured content of `State.ret` at its
addresses. Which slot of its ring an entry takes is open (log entry 48). -/

namespace Sys2Proof.Machine

/-- The header (Table 19.2). -/
def Ret.header (r : Ret) : Bytes :=
  withCrc ([0x4A, 0x52, 0x4E, 0x4C] ++ leBytes 2 1 ++ leBytes 2 r.gen ++ [byte (b2n r.cleanOff)] ++ zeros 7 ++ leBytes 8 r.offTime
    ++ zeros 36)

/-- A sequence cell: a 4-byte value, its CRC-16 and 2 reserved bytes. -/
def retCell (v : Nat) : Bytes := leBytes 4 v ++ leBytes 2 (crc16 (leBytes 4 v)) ++ zeros 2

/-- The last number of a series whose next one is `n`; 0 before the first (19 R531). -/
def lastBefore (none_ : Bool) (n : Nat) : Nat := if n = 1 ∧ !none_ then 0xFFFFFFFF else n - 1

/-- The value of cell `i` of the sequence block: streams, channels, token, FR_NUMBER, log SEQ, LOG_LOST. -/
def Ret.cellValue (r : Ret) (i : Nat) : Option Nat :=
  if i < 16 then some (getN r.streams i)
  else if i < 528 then some (getN r.results (i - 16))
  else if i = 528 then some r.token
  else if i = 529 then some (lastBefore r.frs.isEmpty r.frNext)
  else if i = 530 then some (lastBefore r.log.isEmpty r.logNext)
  else if i = 531 then some r.logLost
  else none

/-- A journal entry (Table 19.3). -/
def JEntry.bytes (e : JEntry) : Bytes :=
  let b := [byte e.kind, byte e.state] ++ leBytes 2 e.owner ++ leBytes 4 e.seq ++ padTo 6 e.aux
  b ++ leBytes 2 (crc16 b)

/-- The byte at an offset of a byte string; 0 past its end. -/
def byteOf (b : Bytes) (o : Nat) : Byte := b.getD o 0

/-- The event log entry in ring slot `k`: its SEQ is congruent to the slot. -/
def Ret.logSlot (r : Ret) (k : Nat) : Bytes := ((r.log.reverse.find? fun e => e.seq % 4096 == k).map LogEntry.bytes).getD []

/-- The forensic record in ring slot `k`. -/
def Ret.frSlot (r : Ret) (k : Nat) : Bytes := ((r.frs.reverse.find? fun e => e.num % 2048 == k).map (·.data)).getD []

/-- The byte of retention SRAM at an offset from 0x00_2000_0000. -/
def State.retByte (s : State) (o : Nat) : Byte :=
  let r := s.ret
  if o < 0x20000 then byteOf (r.logSlot (o / 32)) (o % 32)
  else if o < 0xA0000 then byteOf (r.frSlot ((o - 0x20000) / 256)) ((o - 0x20000) % 256)
  else if o < 0xA0040 then byteOf r.header (o - 0xA0000)
  else if o < 0xA1800 then byteOf (((r.cellValue ((o - 0xA0040) / 8)).map retCell).getD []) ((o - 0xA0040) % 8)
  else if o < 0xB0000 then 0
  else if o < 0xF0000 then byteOf (((r.journal[(o - 0xB0000) / 16]?).map JEntry.bytes).getD []) ((o - 0xB0000) % 16)
  else byteOf (leBytes 2 (ofSigned 16 s.rtc.utc)) (o - 0xF0000)

/-- `n` bytes of retention SRAM from an offset on. -/
def State.retN (s : State) (o n : Nat) : Bytes := (List.range n).map fun i => s.retByte (o + i)

end Sys2Proof.Machine
end

