-- ==== Sys2Proof/Machine/RegRead.lean ====
section
/-! DEFINITION. The registers as they read: one function per block, from the offset of a register to its value (00 R6 to R9 and the
register tables of every chapter). -/

namespace Sys2Proof.Machine

/-- A register at an offset: a word, or two words. -/
inductive Reg where
  | w (v : Nat)
  | d (v : Nat)
  deriving DecidableEq, Repr

/-- A signed 32-bit register. -/
def regInt (i : Int) : Reg := .w (ofSigned 32 i)

/-- Whole seconds left of `len` ns since an instant, rounded up. -/
def State.secsLeft (s : State) (i len : Nat) : Nat := ceilDiv (i + len - s.now) sec

/-! ## SYS, BIST (01 R31, R32; 02 R57; 04 R123 to R126; 19 R533) -/

/-- The supercapacitor's voltage in mV (02 R38, R57): full 90 s after main power came, and on its way there before. -/
def State.backupMv (s : State) : Nat :=
  if !s.sup.on then s.sup.backup
  else if s.sup.onAt + 90 * sec ≤ s.now then Config.backupFull
  else if s.now = s.sup.onAt then s.sup.backup
  else Config.backupCharge s.sup.backup (s.now - s.sup.onAt)

/-- SYS_SUPPLY. -/
def State.regSupply (s : State) : Nat :=
  let u := s.sup
  flg u.mainOk 0 + flg u.ioaOk 1 + flg u.iobOk 2 + flg u.holdup 3
    + flg (decide (Config.backupMin < s.backupMv)) 4 + flg u.lastOffPf 5 + flg u.uvSeen 6 + fld (min (s.backupMv / 20) 255) 8 8
    + fld (min (u.vin / 10) 4095) 16 12

/-- SYS_START. -/
def State.regStart (s : State) : Nat :=
  let x := s.start
  let hold := match s.slb.holdAt with | some i => min ((s.now - i) / sec) 60 | none => 0
  fld x.stage 0 4 + flg x.warm 4 + flg x.ackPending 5 + fld hold 8 6 + fld x.durMs 16 16

/-- SYS. -/
def State.regSys (o : Nat) (s : State) : Option Reg :=
  match o with
  | 0x20 => some (.w s.sysState)
  | 0x24 => some (.w (fld (if s.sys.degHeld then ceilDiv (s.degLimit - s.sys.degElapsed) sec else 0) 0 14 + flg s.sys.degRun 31))
  | 0x30 => some (.w s.regSupply)
  | 0x40 => some (.w s.regStart)
  | 0x44 => some (.w (fld s.start.doldrums 0 16))
  | 0x48 => some (.d (fld (getN s.nvm.hist 0) 0 16 + fld (getN s.nvm.hist 1) 16 16 + fld (getN s.nvm.hist 2) 32 16))
  | 0x50 => some (.w (fld s.ret.journal.length 0 15 + flg s.ret.lost 15 + fld (min s.ret.failed 65535) 16 16))
  | _ => none

/-- BIST. -/
def State.regBist (o : Nat) (s : State) : Option Reg :=
  match o with
  | 0 => some (.w (fld s.start.s3Bits 0 10))
  | 8 => some (.w (fld s.start.coreFail 0 16 + fld s.start.checkOk 16 10))
  | _ => none

/-! ## CLK, RTC (03 R82 to R90) -/

/-- CLK_STAT. -/
def Clk.stat (k : Clk) : Nat :=
  flg k.acOk 0 + flg (getN k.msOk 0) 1 + flg (getN k.msOk 1) 2 + flg k.pcieOk 3 + fld (maskOf k.ethOk) 4 4
    + fld (maskOf k.csiOk) 8 8 + flg k.xwlOk 16 + flg k.rtcOk 17 + flg (k.backup && k.fabOk) 18 + flg k.failSeen 19

/-- CLK_SYNC. -/
def State.regSync (s : State) : Nat :=
  let k := s.clk
  let hold := match k.lostAt with | some i => min ((s.now - i) / sec) 65535 | none => 0
  fld k.sync.code 0 2 + fld k.port 2 1 + flg k.disagree 3 + fld hold 16 16

/-- A trigger's registers, at its own offset. -/
def Trig.reg (o : Nat) (g : Trig) : Option Reg :=
  match o with
  | 0x00 => some (.d (g.startN.getD g.start))
  | 0x08 => some (.d (g.periodN.getD g.period))
  | 0x10 => some (.w (g.widthN.getD g.width))
  | 0x14 => some (.w (flg g.en 0 + flg g.pol 1 + flg g.bad 2))
  | 0x18 => some (.w g.missed)
  | _ => none

/-- CLK. CLK_FREQ: the addend in force in units of 0.001 ppm. -/
def State.regClk (o : Nat) (s : State) : Option Reg :=
  if 0x100 ≤ o ∧ o < 0x200 then (getN s.clk.trigs ((o - 0x100) / 0x20)).reg (o % 0x20)
  else
    match o with
    | 0x00 => some (.w s.clk.stat)
    | 0x10 => some (.d s.dev)
    | 0x20 => some (.w s.regSync)
    | 0x24 => some (regInt (max (-2147483647) (min 2147483647 s.clk.offset)))
    | 0x28 => some (regInt (s.clk.applied * 125000000 / 2 ^ 32))
    | _ => none

/-- A calendar instant in the layout of RTC_TIME. -/
def Cal.word (c : Cal) : Nat :=
  fld c.tenths 0 4 + fld c.second 4 6 + fld c.minute 10 6 + fld c.hour 16 5 + fld c.weekday 21 3 + fld c.day 32 5
    + fld c.month 37 4 + fld c.year 41 8

/-- The bits that RTC_SET holds: its listed RW fields. -/
def rtcSetMask : Nat := 0x1FFFF001FFFFF

/-- RTC. -/
def State.regRtc (o : Nat) (s : State) : Option Reg :=
  let r := s.rtc
  match o with
  | 0x00 => some (.d r.cal.word)
  | 0x08 => some (.d (r.set &&& rtcSetMask))
  | 0x14 => some (.w (flg r.valid 0 + flg r.bad 1 + flg r.ended 2 + flg r.following 3))
  | 0x18 => some (.w (ofSigned 16 r.utc))
  | _ => none

/-! ## CFG (05 R158 to R161) -/

/-- CFG_STAT. -/
def State.regCfgStat (s : State) : Nat :=
  let c := s.cfg
  let x := s.secrets
  let mark := match (getN c.slots s.standby).mark with | .empty => 0 | .verified => 1 | .invalid => 2
  let cls := match s.sealClass with | .other => 0 | .run => 1 | .program => 2
  fld s.activeSlot 0 1 + flg c.admitted 1 + fld mark 2 2 + flg (x.key.isSome && x.pass.isSome && x.run.isSome) 4
    + flg (x.lock != 0) 5 + flg c.hashFail 6 + fld s.sealPattern 8 4 + fld cls 12 2 + flg s.seals.open_ 14
    + fld c.changes.length 16 9 + flg c.exported 25

/-- CFG. -/
def State.regCfg (o : Nat) (s : State) : Option Reg :=
  let c := s.cfg
  match o with
  | 0x00 => some (.w s.regCfgStat)
  | 0x04 => some (.w (fld c.result 0 16 + fld c.subject 16 9 + flg c.atStart 31))
  | 0x08 => some (.w (fld s.secrets.wrong 0 3 + fld (ceilDiv s.secrets.lock sec) 4 10))
  | 0x10 => some (.d (getN c.ids 0))
  | 0x18 => some (.d (getN c.ids 1))
  | 0x20 => some (.d (getN c.ids 2))
  | 0x28 => some (.d (getN c.ids 3))
  | 0x30 => some (.w c.versions)
  | _ => none

/-! ## FIU, FGU (06 R184, R185; 07 R213 to R215) -/

/-- Stream states (Table 6.4). -/
def StreamSt.num : StreamSt → Nat
  | .off => 0 | .recovering => 1 | .live => 2 | .frozen => 3 | .lost => 4

/-- A stream's registers, at its own offset. -/
def Stream.reg (o : Nat) (x : Stream) : Option Reg :=
  match o with
  | 0x00 => some (.w (fld x.state.num 0 3 + fld x.good 4 3 + fld x.calm 8 7 + fld x.cause 16 3))
  | 0x04 => some (.w x.seq)
  | 0x08 => some (.d x.capture)
  | 0x10 => some (.w x.changed)
  | 0x14 => some (.w x.drop)
  | 0x18 => some (.w x.skip)
  | 0x1C => some (.w x.frozenCnt)
  | 0x20 => some (.w (fld x.events 0 4))
  | _ => none

/-- FIU. -/
def State.regFiu (o : Nat) (s : State) : Option Reg :=
  let l := s.fiu.streams
  if 0x100 ≤ o ∧ o < 0x500 then (getN l ((o - 0x100) / 0x40)).reg (o % 0x40)
  else if o = 0 then
    some (.w (fld (maskOf (l.map (·.state == .live))) 0 16 + fld (maskOf (l.map (·.state == .frozen))) 16 16))
  else none

/-- FGU. -/
def State.regFgu (o : Nat) (s : State) : Option Reg :=
  let g := s.fgu
  match o with
  | 0x00 => some (.w (flg g.egoValid 0 + fld g.egoCause 1 3 + flg g.openAt.isSome 4 + fld g.resetCause 5 3
      + fld (maskOf (g.buffer.map (·.isSome))) 16 16))
  | 0x04 => some (.w g.lastClosed)
  | 0x08 => some (.w g.lastLeft)
  | 0x0C => some (.w g.partials)
  | 0x10 => some (.w g.skipped)
  | 0x14 => some (.w g.resets)
  | 0x18 => some (.w g.disconts)
  | 0x1C => some (.w g.jointLate)
  | 0x20 => some (.w (fld g.events 0 4))
  | _ => none

/-! ## AUD, VANE (08 R243 to R247; 10 R287 to R290) -/

/-- AUD_Cn_STAT. -/
def State.coreStat (n : Nat) (s : State) : Nat :=
  let c := s.acore n
  let st := match c.state with | .admitted => 0 | .fenced => 1 | .bist => 2 | .probation => 3 | .testing => 4
  fld (if getN s.dbg.halted n then 5 else st) 0 3 + fld c.cause 8 4 + fld c.attempts 12 2 + fld c.prob 16 9

/-- A core's registers, at its own offset. -/
def State.regCore (n o : Nat) (s : State) : Option Reg :=
  let c := s.acore n
  match o with
  | 0x0 => some (.w (s.coreStat n))
  | 0x4 => some (.w c.done)
  | 0x8 => some (.w c.ecc)
  | 0xC => some (.w (c.testAt.elim 0 fun i => min ((s.now - i) / sec) (2 ^ 32 - 1)))
  | _ => none

/-- The fault recorder (08 R247). -/
def Aud.faultReg (o : Nat) (a : Aud) : Option Reg :=
  match o with
  | 0x40 => some (.w (fld a.fCore 0 4 + fld a.fKind 4 4 + flg a.fUntr 8 + fld a.fPass 9 2 + fld a.fElem 16 16))
  | 0x44 => some (.w a.fJob)
  | 0x48 => some (.d (fld a.fAddr 0 40))
  | 0x50 => some (.w a.fCnt)
  | 0x54 => some (.w (flg a.fSeen 0))
  | _ => if 0x80 ≤ o ∧ o < 0xC0 then some (.w (leAt a.fDesc (o - 0x80) 4)) else none

/-- AUD. -/
def State.regAud (o : Nat) (s : State) : Option Reg :=
  let l := s.aud.cores
  if 0x100 ≤ o ∧ o < 0x200 then s.regCore ((o - 0x100) / 0x10) (o % 0x10)
  else
    match o with
    | 0x00 => some (.w (fld (maskOf (l.map (·.state == .admitted))) 0 16 + fld (maskOf (l.map ACore.fenced)) 16 16))
    | 0x04 => some (.w (fld (maskOf (l.map (·.state == .probation))) 0 16 + fld (maskOf (l.map (·.state == .testing))) 16 16))
    | _ => s.aud.faultReg o

/-- VANE_STAT. -/
def Vane.stat (v : Vane) : Nat :=
  fld (maskOf (v.lanes.map fun l => l.ok && !l.testing)) 0 4 + flg v.reduced 4 + flg v.noLane 5 + flg v.broken 6 + flg v.selftest.isSome 7
    + fld (v.slots.filter fun x => !x.used && !x.retired).length 8 9 + fld (v.slots.filter (·.retired)).length 17 9

/-- VANE. -/
def Vane.reg (o : Nat) (v : Vane) : Option Reg :=
  match o with
  | 0x00 => some (.w v.stat)
  | 0x04 => some (.w v.compared)
  | 0x08 => some (.w v.mismatch)
  | 0x0C => some (.w v.arbitrated)
  | 0x10 => some (.w v.cleared)
  | 0x14 => some (.w v.checker)
  | 0x18 => some (.w v.eccCorr)
  | 0x1C => some (.w v.suppressed)
  | 0x20 => some (.w v.lastArb)
  | 0x24 => some (.w v.lastArbJob)
  | 0x28 => some (.w (fld v.events 0 5))
  | 0x2C => some (.w (leVal (v.lanes.map fun l => byte l.trans)))
  | _ => none

/-! ## BEU (11 R318 to R324) -/

/-- A ring's HEADTAIL. -/
def BRing.headTail (r : BRing) : Nat := fld r.head 0 8 + fld (r.head + r.queue.length) 16 8

/-- BEU_Sn_SWITCH. -/
def Stack.switchReg (x : Stack) : Nat :=
  fld x.swReg 0 7 + fld x.swPhase 9 2 + flg x.swDone 11 + flg x.swRefused 12

/-- A stack's registers, at its own offset. -/
def Stack.reg (o : Nat) (x : Stack) : Option Reg :=
  match o with
  | 0x00 => some (.w (fld (maskOf x.proc) 0 16 + fld (maskOf x.recompute) 16 16))
  | 0x04 => some (.w (flg x.hot 0 + flg x.fault 1 + flg x.swept 2 + fld (min x.temp 255) 8 8 + fld (maskOf x.strict) 16 16))
  | 0x08 => some (.w x.switchReg)
  | 0x10 => some (.d x.vp.base)
  | 0x18 => some (.w x.vp.headTail)
  | 0x20 => some (.d x.bg.base)
  | 0x28 => some (.w x.bg.headTail)
  | 0x30 => some (.d x.cqBase)
  | 0x38 => some (.w (fld x.cqHead 0 9 + fld (x.cqHead + x.cq.length) 16 9))
  | 0x40 => some (.w x.cmds)
  | 0x44 => some (.w x.poisonCmds)
  | 0x48 => some (.w x.eccCorr)
  | 0x4C => some (.w x.eccUncorr)
  | 0x50 => some (.w x.busErr)
  | 0x54 => some (.w x.passS)
  | 0x58 => some (.d x.scrubPtr)
  | 0x60 => some (.d x.busErrAddr)
  | 0x68 => some (.w (fld x.events 0 6))
  | _ => none

/-- BEU. -/
def State.regBeu (o : Nat) (s : State) : Option Reg := if o < 0x200 then (getN s.beu.stks (o / 0x100)).reg (o % 0x100) else none

/-! ## VRD (12 R355 to R357) -/

/-- A queue's verdict registers, at its own offset. -/
def VrdQ.reg (o : Nat) (x : VrdQ) : Option Reg :=
  match o with
  | 0x00 => some (.w 0)
  | 0x04 => some (.w x.ansQ)
  | 0x08 => some (.w x.ansSeq)
  | 0x0C => some (.w x.ansVer)
  | 0x10 => some (.w x.ansReason)
  | 0x14 => some (.w x.next)
  | 0x18 => some (.w (fld x.esc 0 5))
  | _ => if 0x20 ≤ o ∧ o < 0x34 then some (.w (getN x.counts ((o - 0x20) / 4))) else none

/-- VRD. -/
def State.regVrd (o : Nat) (s : State) : Option Reg :=
  let l := s.vrd.results.filter fun r => r.state == .committed
  if 0x1000 ≤ o ∧ o < 0x2000 then (getN s.vrd.queues ((o - 0x1000) / 0x40)).reg (o % 0x40)
  else
    match o with
    | 0x00 => some (.w (fld l.length 0 15 + flg s.sys.state.permits 16 + flg (l.any (·.reduced)) 17))
    | 0x04 => some (.w s.vrd.tokenLast)
    | 0x08 => some (.w s.vrd.revoked)
    | 0x0C => some (.w (fld s.vrd.events 0 4))
    | _ => none

/-! ## SLBM (13 R393, R394) -/

/-- SLBM: the mirror as the last SLB cycle left it; PARAM_CRC as S0 has loaded it. -/
def State.regSlbm (o : Nat) (s : State) : Option Reg :=
  if o = 0xA0 then some (.w s.slb.paramCrc)
  else if o % 4 = 0 ∧ (o < 0x20 ∨ (0x40 ≤ o ∧ o < 0x88) ∨ (0x90 ≤ o ∧ o < 0xAC)) then some (.w (getN s.slb.mirror (o / 4)))
  else none

/-! ## SML, CVU, XWL (14 R422 to R424; 15 R443 to R445) -/

/-- A connection slot's registers, at its own offset; a slot without a record reads 0. PORTS of a connection without PATH_MON shows the
links (14 R406). -/
def State.regConn (k o : Nat) (s : State) : Option Reg :=
  match s.img.slot k with
  | none => none
  | some r =>
    let c := s.conn k
    let st := if r.dir = 1 then 2 else match c.state with | .closed => 0 | .opening => 1 | .open_ => 2 | .failed => 3
    match o with
    | 0x00 => some (.w (fld r.conn 0 12 + fld r.dir 12 1 + fld st 13 2 + fld (maskOf (if r.dir = 0 ∧ bit r.flags 1 then c.ports else s.sml.link)) 15 2 + fld c.fails 24 8))
    | 0x04 => some (.w (fld c.seq 0 16))
    | 0x08 => some (.w c.crcErr)
    | 0x0C => some (.w c.seqErr)
    | 0x10 => some (.w c.timeErr)
    | 0x14 => some (.w c.lost)
    | 0x18 => some (.w (fld c.mismatch 0 16 + fld (min (c.single / 1000) 65535) 16 16))
    | _ => none

/-- SML. -/
def State.regSml (o : Nat) (s : State) : Option Reg :=
  let x := s.sml
  if 0x100 ≤ o ∧ o < 0x500 then s.regConn ((o - 0x100) / 0x20) (o % 0x20)
  else if o = 0 then
    let left := match x.singleAt with | some i => min (s.secsLeft i s.degLimit) 65535 | none => 0
    some (.w (flg (getN x.link 0) 0 + flg (getN x.link 1) 1 + flg s.singlePath 2 + flg x.singleAt.isSome 3 + fld left 16 16))
  else none

/-- A CVU channel's registers, at its own offset. -/
def CvuCh.reg (o : Nat) (c : CvuCh) : Option Reg :=
  match o with
  | 0x00 => some (.w (fld c.poly 0 3 + fld c.alive 3 2 + fld c.user 8 8 + fld c.pos 16 16))
  | 0x04 => some (.w (flg c.service 0 + fld c.now 4 4))
  | 0x08 => some (.w c.crcErr)
  | 0x0C => some (.w c.aliveErr)
  | 0x10 => some (.d c.result)
  | _ => none

/-- CVU. -/
def State.regCvu (o : Nat) (s : State) : Option Reg :=
  if 0x100 ≤ o ∧ o < 0x500 then (getN s.cvu.chans ((o - 0x100) / 0x20)).reg (o % 0x20) else none

/-- XWL_FORM.PHASE. -/
def Phase.num : Phase → Nat
  | .off => 0 | .listen => 1 | .claim => 2 | .backoff => 3 | .integrate => 4 | .member => 5 | .out => 6

/-- XWL_STAT. -/
def State.regXwlStat (s : State) : Nat :=
  let w := s.xwl
  fld s.ring.nodeId 0 3 + flg w.master 3 + fld w.masterId 4 3 + flg w.up 7 + flg w.line 8 + flg w.dup 9
    + flg (s.lends || s.borrows) 10 + flg (w.follow && s.clk.gm.isNone) 11 + fld s.roster 16 8
    + fld (maskOf ((List.range 8).map fun n => if n = s.ring.nodeId then w.stop != 0 else (s.node n).stop != 0)) 24 8

/-- XWL. -/
def State.regXwl (o : Nat) (s : State) : Option Reg :=
  let w := s.xwl
  match o with
  | 0x00 => some (.w s.regXwlStat)
  | 0x04 => some (.w (fld w.phase.num 0 3 + fld w.collisions 8 8))
  | 0x08 => some (.w w.cycle)
  | 0x0C => some (regInt w.timeOfs)
  | 0x10 => some (.w (getN w.crcErr 0))
  | 0x14 => some (.w (getN w.gaps 0))
  | 0x18 => some (.w (getN w.crcErr 1))
  | 0x1C => some (.w (getN w.gaps 1))
  | 0x20 => some (.w w.shareDone)
  | 0x24 => some (.w w.shareTimeout)
  | 0x28 => some (.w w.lentDone)
  | 0x30 => some (.w (fld w.events 0 6))
  | _ => none

/-! ## TSU, FWL, HQ (16 R467 to R470) -/

/-- TSU_CHc_STAT. -/
def TChan.stat (c : TChan) : Nat :=
  fld c.cause 0 4 + flg c.fault 4 + flg c.timerAt.isSome 5 + fld c.lastCp 8 4 + fld (min c.alive 65535) 16 16

/-- TSU. -/
def Tsu.reg (o : Nat) (u : Tsu) : Option Reg :=
  if 0x1000 ≤ o ∧ o < 0x1800 then some (.w (getN u.chans ((o - 0x1000) / 4)).stat)
  else
    match o with
    | 0x00 => some (.w u.faults)
    | 0x04 => some (.w u.vpath)
    | 0x08 => some (.w (fld u.events 0 2))
    | _ => none

/-- FWL. -/
def State.regFwl (o : Nat) (s : State) : Option Reg :=
  let f := s.fwl
  match o with
  | 0x00 => some (.w (fld f.ident 0 10 + flg f.write 10 + flg f.locked 11))
  | 0x08 => some (.d (fld f.addr 0 40))
  | 0x10 => some (.w f.count)
  | 0x14 => some (.w f.noId)
  | 0x18 => some (.w (fld s.locksFree 0 14))
  | 0x1C => some (.w (flg f.seen 0))
  | _ => none

/-- HQ_Qq_STAT. -/
def HQueue.stat (h : HQueue) : Nat :=
  fld h.sqHead 0 12 + flg h.en 12 + flg h.error 13 + flg h.hold 14 + flg h.resetting 15 + flg h.unbound 16 + fld h.err 17 2
    + flg h.chFault 20 + fld h.cause 24 4

/-- A queue's registers, at its own offset. -/
def HQueue.reg (o : Nat) (h : HQueue) : Option Reg :=
  match o with
  | 0x00 => some (.d h.sqBase)
  | 0x08 => some (.d h.cqBase)
  | 0x10 => some (.w (fld h.sqLog 0 4 + fld h.cqLog 4 4))
  | 0x18 => some (.w (fld h.cqHead 0 12))
  | 0x1C => some (.w (flg h.en 0))
  | 0x20 => some (.w h.stat)
  | 0x24 => some (.w (fld h.irqCount 0 7 + fld h.irqTime 16 10 + flg h.irqMask 31))
  | 0x28 => some (.w (fld h.cqTail 0 12))
  | _ => none

/-- A delivery ring's registers, at its own offset. -/
def DRing.reg (o : Nat) (d : DRing) : Option Reg :=
  match o with
  | 0x00 => some (.d d.base)
  | 0x08 => some (.w (fld d.sizeLog 0 4 + fld d.vector 8 6 + flg d.en 16))
  | 0x10 => some (.w (fld d.head 0 12))
  | _ => none

/-- HQ. -/
def Hq.reg (o : Nat) (h : Hq) : Option Reg :=
  if o < 0x1000 then (getN h.queues (o / 0x40)).reg (o % 0x40)
  else if o < 0x1200 then (getN h.rings ((o - 0x1000) / 0x20)).reg (o % 0x20)
  else none

/-! ## PSM (17 R488 to R491) -/

/-- Seconds to the deadline of activity `a`: for the self-test, of the admitted core that is next (R490). -/
def State.bgLeft (a : Nat) (s : State) : Nat :=
  let left (b : Bg) : Nat := (b.from_ + bgDeadline a - s.now) / sec
  let all := if a = 1 then
      (((s.psm.tests.zip s.aud.cores).filter fun x => x.2.serves).map fun x => left x.1)
    else [left (getN s.psm.bg a)]
  all.foldl min 65535

/-- PSM_BGa_STAT. -/
def State.regBg (a : Nat) (s : State) : Nat :=
  let b := getN s.psm.bg a
  flg b.urgent 0 + flg b.twice 1 + fld b.misses 8 8 + fld (s.bgLeft a) 16 16

/-- PSM_STAT: outside the operating states DEEPEST is the fixed state (R475). -/
def State.regPsmStat (s : State) : Nat :=
  let p := s.psm
  fld p.state.idx 0 2 + fld (if s.psmOn then s.psmDeepest.idx else p.state.idx) 2 2
    + fld (if s.psmOn then s.psmLimitCode else 0) 4 3 + flg p.wakeFault 7 + fld (maskOf (s.aud.cores.map (·.gated))) 16 16

/-- PSM. -/
def State.regPsm (o : Nat) (s : State) : Option Reg :=
  let p := s.psm
  if 0x100 ≤ o ∧ o < 0x114 then some (.w (s.regBg ((o - 0x100) / 4)))
  else
    match o with
    | 0x00 => some (.w s.regPsmStat)
    | 0x08 => some (.d p.next)
    | 0x10 => some (.d (getN p.res 0 / 1000))
    | 0x18 => some (.d (getN p.res 1 / 1000))
    | 0x20 => some (.d (getN p.res 2 / 1000))
    | 0x28 => some (.d (getN p.res 3 / 1000))
    | 0x30 => some (.w (fld p.planned 0 16 + fld p.unann 16 16))
    | 0x40 => some (.w (fld p.events 0 2))
    | _ => none

/-! ## MON, LOG, DBG (18 R515 to R518), as the SP's bank shows them -/

/-- A snapshot bank's registers, from 0x100. -/
def SnapBank.reg (o : Nat) (b : SnapBank) : Option Reg :=
  let m := b.slot
  match o with
  | 0x00 => some (regInt m.last)
  | 0x04 => some (regInt m.min)
  | 0x08 => some (regInt m.max)
  | 0x0C => some (.w (flg m.sat 0 + flg m.sumSat 1 + flg m.invalid 2 + flg b.refused 3 + fld b.number 8 6))
  | 0x10 => some (.d m.count)
  | 0x18 => some (.d (ofSigned 64 m.sum))
  | _ => if 0x20 ≤ o ∧ o < 0xA0 then some (.w (getN m.bins ((o - 0x20) / 4))) else none

/-- The telemetry page, from 0x400. -/
def Mon.telemReg (o : Nat) (k : Mon) : Option Reg :=
  match o with
  | 0x00 => some (.w k.telemSeq)
  | 0x08 => some (.d k.telemTime)
  | 0x10 => some (.w k.telemState)
  | _ => if 0x100 ≤ o ∧ o < 0x200 then some (regInt (getN k.telemLast ((o - 0x100) / 4))) else none

/-- MON, with the bank of the reader (R496). -/
def State.regMon (bank : Bank) (o : Nat) (s : State) : Option Reg :=
  let k := s.mon
  if 0x100 ≤ o ∧ o < 0x200 then (match bank with | .host => k.host | .sp => k.sp).reg (o - 0x100)
  else if 0x400 ≤ o ∧ o < 0x600 then k.telemReg (o - 0x400)
  else
    match o with
    | 0x00 => some (.w (flg k.sat 0 + flg k.adcSp 1 + flg k.adcSlb 2 + fld s.img.monitors.slots.length 8 7))
    | 0x08 => some (.w (flg k.satSeen 0 + flg k.adcSeen 1))
    | _ => none

/-- LOG, with the bank of the reader. -/
def State.regLog (bank : Bank) (o : Nat) (s : State) : Option Reg :=
  let b := match bank with | .host => s.log.host | .sp => s.log.sp
  if 0x20 ≤ o ∧ o < 0x40 then some (.w (leAt b.entry (o - 0x20) 4))
  else if 0x200 ≤ o ∧ o < 0x300 then some (.w (leAt b.frEntry (o - 0x200) 4))
  else
    match o with
    | 0x000 => some (.w s.ret.logNext)
    | 0x004 => some (.w ((s.ret.log.head?.map (·.seq)).getD s.ret.logNext))
    | 0x008 => some (.w s.ret.logLost)
    | 0x010 => some (.w b.selStat)
    | 0x014 => some (.w s.log.repeated)
    | 0x100 => some (.w s.ret.frNext)
    | 0x108 => some (.w b.frStat)
    | 0x120 => some (.d s.log.fringNext)
    | 0x128 => some (.d ((s.log.fring.head?.map (·.seq)).getD s.log.fringNext))
    | _ => none

/-- DBG. -/
def Dbg.reg (o : Nat) (d : Dbg) : Option Reg :=
  if 0x10 ≤ o ∧ o < 0x30 then
    let b := getN d.bps ((o - 0x10) / 8)
    some (.w (if o % 8 = 4 then b.job
      else fld b.op 0 8 + fld b.cls 8 8 + fld b.ident 16 10 + flg b.opEn 28 + flg b.clsEn 29 + flg b.identEn 30 + flg b.en 31))
  else
    match o with
    | 0x00 => some (.w (flg d.enabled 0 + fld d.method 1 2 + flg d.pres 3 + flg d.spHalted 4 + fld (maskOf d.halted) 16 16))
    | 0x30 => some (.w (fld d.hitCore 0 4 + fld d.hitBp 4 2 + flg d.hitSafe 6))
    | 0x34 => some (.w d.hitJob)
    | _ => none

/-! ## The register space (16 Table 16.2; 00 R8, R9) -/

/-- The register whose first word lies at an offset of a block. -/
def State.regAt (block o : Nat) (s : State) : Option Reg :=
  match block with
  | 0x00 => s.regSys o
  | 0x01 => s.regClk o
  | 0x02 => s.regRtc o
  | 0x03 => s.regFiu o
  | 0x04 => s.regFgu o
  | 0x05 => s.regAud o
  | 0x06 => s.vane.reg o
  | 0x07 => s.regBeu o
  | 0x08 => s.regVrd o
  | 0x09 => s.regSlbm o
  | 0x0A => s.regSml o
  | 0x0B => s.regCvu o
  | 0x0C => s.regXwl o
  | 0x0D => s.tsu.reg o
  | 0x0E => s.regFwl o
  | 0x0F => s.regPsm o
  | 0x10 => s.regMon .sp o
  | 0x11 => s.regLog .sp o
  | 0x12 => s.dbg.reg o
  | 0x13 => s.regCfg o
  | 0x14 => s.regBist o
  | 0x15 => s.hq.reg o
  | _ => none

/-- The block of a register address. -/
def blockOf (a : Nat) : Nat := (a - 0x200000000) / 0x10000

/-- The offset of a register address in its block. -/
def offOf (a : Nat) : Nat := a % 0x10000

/-- A 64-bit register's current value, where its low word lies at `a`. -/
def State.regWide (a : Nat) (s : State) : Option Nat :=
  match s.regAt (blockOf a) (offOf a) with
  | some (.d v) => some (v % 2 ^ 64)
  | _ => none

/-- The word at `a` as it stands now: 0 where nothing is implemented (R8). -/
def State.regNow (a : Nat) (s : State) : Nat :=
  match s.regAt (blockOf a) (offOf a) with
  | some (.w v) => v % 2 ^ 32
  | some (.d v) => v % 2 ^ 32
  | none => if a % 8 = 4 then ((s.regWide (a - 4)).getD 0) / 2 ^ 32 else 0

/-- What a 32-bit read returns (R9): the low word of a 64-bit register, a captured high word, or the word as it stands. -/
def State.readVal (a : Nat) (s : State) : Nat :=
  match s.regWide a with
  | some v => v % 2 ^ 32
  | none =>
    match s.caps.find? fun c => c.1 + 4 == a with
    | some c => c.2
    | none => s.regNow a

/-- The captures after a 32-bit read (R9): a low word captures its high word, and the next read of the high word uses the capture
up. -/
def State.readCaps (a : Nat) (s : State) : List (Nat × Nat) :=
  match s.regWide a with
  | some v => (a, v / 2 ^ 32) :: s.caps.filter (·.1 != a)
  | none => s.caps.filter fun c => c.1 + 4 != a

/-- A 32-bit read (R9). -/
def State.readWord (a : Nat) (s : State) : Nat × State := (s.readVal a, { s with caps := s.readCaps a })

/-- A 64-bit read, atomic. -/
def State.readWide (a : Nat) (s : State) : Nat := s.regNow a + s.regNow (a + 4) * 2 ^ 32

/-- An address in the register blocks, aligned to words. -/
def regAddr (a : Nat) : Bool := region a == some .regs && a % 4 == 0

end Sys2Proof.Machine
end

