-- ==== Sys2Proof/Machine/Registers.lean ====
section
/-! DEFINITION. Register writes (00 R2, R6, R8, R9; 16 R448), the configuration command READ (05 R136), and the debug port's READ_CORE
and DBG_MEM (18 R509, R510). -/

namespace Sys2Proof.Machine

/-! ## Writes -/

/-- W1C (R6): a written 1 clears its bit. -/
def w1c (old v : Nat) : Nat := old - (old &&& v)

/-- One word of a 64-bit register written; bits outside `mask` keep 0. -/
def putHalf (hi : Bool) (mask old v : Nat) : Nat :=
  (if hi then old % 2 ^ 32 + v % 2 ^ 32 * 2 ^ 32 else old / 2 ^ 32 * 2 ^ 32 + v % 2 ^ 32) &&& mask

/-- HQ configuration (16 R455, R467, R468): no effect on an enabled queue's bases and size; a delivery ring's SIZE_LOG2 outside 4
to 12 is refused (00 R2). -/
def State.putHq (o v : Nat) (s : State) : State :=
  if o < 0x1000 then
    let q := o / 0x40
    let f (h : HQueue) : HQueue :=
      match o % 0x40 with
      | 0x00 => { h with sqBase := putHalf false (2 ^ 64 - 64) h.sqBase v }
      | 0x04 => { h with sqBase := putHalf true (2 ^ 64 - 64) h.sqBase v }
      | 0x08 => { h with cqBase := putHalf false (2 ^ 64 - 16) h.cqBase v }
      | 0x0C => { h with cqBase := putHalf true (2 ^ 64 - 16) h.cqBase v }
      | 0x10 => { h with sqLog := bits v 0 4, cqLog := bits v 4 4 }
      | _ => h
    if (s.hqueue q).en then s else s.onQ q f
  else if o < 0x1200 then
    let f (d : DRing) : DRing :=
      match o % 0x20 with
      | 0x00 => { d with base := putHalf false (2 ^ 64 - 16) d.base v }
      | 0x04 => { d with base := putHalf true (2 ^ 64 - 16) d.base v }
      | 0x08 => if within 4 12 (bits v 0 4) then { d with sizeLog := bits v 0 4, vector := bits v 8 6, en := bit v 16 } else d
      | _ => d
    s.onRing ((o - 0x1000) / 0x20) f
  else s

/-- A stack's ring registers and events (11 R321, R324). A CQ HEAD beyond the entries held consumes them all. -/
def Stack.put (o v : Nat) (x : Stack) : Stack :=
  let m6 := 2 ^ 40 - 64
  match o with
  | 0x10 => { x with vp := { x.vp with base := putHalf false m6 x.vp.base v } }
  | 0x14 => { x with vp := { x.vp with base := putHalf true m6 x.vp.base v } }
  | 0x20 => { x with bg := { x.bg with base := putHalf false m6 x.bg.base v } }
  | 0x24 => { x with bg := { x.bg with base := putHalf true m6 x.bg.base v } }
  | 0x30 => { x with cqBase := putHalf false (2 ^ 40 - 16) x.cqBase v }
  | 0x34 => { x with cqBase := putHalf true (2 ^ 40 - 16) x.cqBase v }
  | 0x38 => { x with cqHead := v % 512, cq := x.cq.drop ((v % 512 + 512 - x.cqHead) % 512) }
  | 0x68 => { x with events := w1c x.events v }
  | _ => x

/-- The RTC's registers (03 R89, R90). RTC_SET and RTC_CMD are written only on a password-authorised configuration command, which is
the row SET_RTC (R81): a write without one has no effect. -/
def State.putRtc (o v : Nat) (s : State) : State :=
  match o with
  | 0x14 => s.onRtc fun r => { r with bad := r.bad && !bit v 1 }
  | 0x18 => s.onRtc fun r => { r with utc := toSigned 16 (v % 65536), followDue := r.following }
  | _ => s

/-- A word written by the SP to a register without a row of its own, and to no other: unlisted offsets and RO registers take no
write (R6, R8). -/
def State.putWord (block o v : Nat) (s : State) : State :=
  match block, o with
  | 0x00, 0x30 => s.onSup fun u => { u with uvSeen := u.uvSeen && !bit v 6 }
  | 0x01, 0x00 => s.onClk fun k => { k with failSeen := k.failSeen && !bit v 19 }
  | 0x02, _ => s.putRtc o v
  | 0x03, _ =>
    if 0x100 ≤ o ∧ o < 0x500 ∧ o % 0x40 = 0x20 then
      s.onFiu fun f => { f with streams := modN f.streams ((o - 0x100) / 0x40) fun x => { x with events := w1c x.events v } }
    else s
  | 0x04, 0x20 => s.onFgu fun g => { g with events := w1c g.events v }
  | 0x05, 0x54 => s.onAud fun a => { a with fSeen := a.fSeen && !bit v 0 }
  | 0x06, 0x28 => s.onVane fun x => { x with events := w1c x.events v }
  | 0x07, _ =>
    if 0x200 ≤ o then s
    else if (o % 0x100 = 0x18 ∨ o % 0x100 = 0x28) then
      s.when (s.beuOn (o / 0x100)) (State.beuTail (o / 0x100) (decide (o % 0x100 = 0x28)) (bits v 16 8))
    else s.onBeu fun b => { b with stks := modN b.stks (o / 0x100) (Stack.put (o % 0x100) v) }
  | 0x08, 0x0C => s.onVrd fun x => { x with events := w1c x.events v }
  | 0x0C, 0x30 => s.onXwl fun w => { w with events := w1c w.events v }
  | 0x0D, 0x08 => s.onTsu fun u => { u with events := w1c u.events v }
  | 0x0E, 0x1C => s.onFwl fun f => { f with seen := f.seen && !bit v 0 }
  | 0x0F, 0x40 => s.onPsm fun p => { p with events := w1c p.events v }
  | 0x10, 0x08 => s.onMon fun k => { k with satSeen := k.satSeen && !bit v 0, adcSeen := k.adcSeen && !bit v 1 }
  | 0x15, _ => s.putHq o v
  | _, _ => s

/-- A word written by host software at an offset of BAR0 (R448, Table 16.4): of the registers without a row of their own it reaches
the HQ block's. -/
def State.putBar0 (a v : Nat) (s : State) : State := if 0x10000 ≤ a ∧ a < 0x20000 then s.putHq (a - 0x10000) v else s

/-- A word written by a writer at an address of its own. -/
def State.putReg (w : Writer) (a v : Nat) (s : State) : State :=
  match w with
  | .host => s.putBar0 a (v % 2 ^ 32)
  | .sp => if regAddr a then s.putWord (blockOf a) (offOf a) (v % 2 ^ 32) else s

/-- REGISTER_WRITE (R6, R9, 16 R448): an aligned 32-bit access, or an aligned 64-bit access of two consecutive words. A misaligned one
is discarded. The address is one of BAR0 for the host, of the internal map for the SP. -/
def execRegisterWrite (t : Nat) (w : Writer) (wide : Bool) (addr v : Nat) (s : State) : Host.Outcome State Fault Refusal :=
  finish t s fun s =>
    if !s.regsUp ∨ addr % (if wide then 8 else 4) ≠ 0 then s
    else if wide then (s.putReg w addr v).putReg w (addr + 4) (v / 2 ^ 32)
    else s.putReg w addr v

/-! ## READ (05 R136) -/

/-- The registers at a list of addresses, most significant byte first. -/
def State.readRegs : List Nat → State → Bytes × State
  | [], s => ([], s)
  | a :: l, s =>
    let (v, s) := s.readWord a
    let (r, s) := s.readRegs l
    (beBytes 4 v ++ r, s)

/-- READ: every state but START and OFF; an address outside the register blocks, or more than a frame holds, is FORMAT (log entry
49). -/
def execRead (t : Nat) (q : CfgReq) (addrs : List Nat) (s : State) : Host.Outcome State Fault Refusal :=
  finish t s fun s => s.serve q 0x01 fun s =>
    if s.sys.state = .start then plain 4 s
    else if 350 < addrs.length ∨ !(addrs.all regAddr) then plain 7 s
    else
      let (b, s) := s.readRegs addrs
      (0, [b], s)

/-! ## READ_CORE (18 R509) -/

/-- AUD_Cn_STAT, the current descriptor (zeros where the core runs none) and the last status entry. -/
def State.coreDump (n : Nat) (s : State) : Bytes :=
  let d := match (s.acore n).run with
    | some r => ({ s.descOf n r with job := r.job }).bytes
    | none => zeros 64
  leBytes 4 (s.coreStat n) ++ padTo 64 d ++ (s.acore n).last.bytes

/-- READ_CORE. -/
def execReadCore (t core : Nat) (s : State) : Host.Outcome State Fault Refusal :=
  finish t s fun s => s.when s.sup.on fun s =>
    let s := s.tapIr 0x13
    if s.dbg.enabled then (if core < 16 then s.shiftOut 0 (s.coreDump core) else s.shiftOut 0 []) else s.shiftOut 4 []

/-! ## DBG_MEM (18 R510) -/

/-- The debug bus (16 Table 16.5). -/
def idDebug : Nat := 1023

/-- A refused access: status FIREWALL, and what R459 states. -/
def State.dbgRefuse (w : Bool) (a : Nat) (s : State) : State := (s.refuse idDebug w false a).shiftOut 5 []

/-- An access to plain memory that may be made. -/
def State.dbgPlain (a n : Nat) (w : Option Nat) (s : State) : State :=
  match w with
  | none => s.shiftOut 0 (s.peekN a n)
  | some v => (s.poke a (leBytes n v)).shiftOut 0 []

/-- An access to a stack, which leaves self-refresh (17 R474): a PROC channel, a faulted stack and a write of part of a poisoned
granule are bus errors; what a read of a poisoned granule returns is open (log entry 50). -/
def State.dbgStack (k a n : Nat) (w : Option Nat) (s : State) : State :=
  let s := s.onBeu fun b => { b with stks := modN b.stks k Stack.awake }
  if s.inProc a n then (if (s.stk k).fault then s else s.busErr idDebug a).shiftOut 5 []
  else
    match w with
    | none =>
      if s.poisoned a n then
        let (b, s) := s.drawBytes n
        s.shiftOut 0 b
      else s.dbgPlain a n w
    | some _ => if s.partPoisoned a n then s.shiftOut 5 [] else s.dbgPlain a n w

/-- A register access for reading. -/
def State.dbgReg (a n : Nat) (s : State) : State :=
  if n = 8 then s.shiftOut 0 (leBytes 8 (s.readWide a))
  else
    let (v, s) := s.readWord a
    s.shiftOut 0 (leBytes 4 v)

/-- An access that the rules of identity 1023 permit; the limits of R510 apply regardless of them, and only internal
engines reach the exchange slots (10 R270). -/
def State.dbgReach (a n : Nat) (w : Option Nat) (s : State) : State :=
  match regionOf a n with
  | none => s.shiftOut 5 []
  | some (.stack k) => s.dbgStack k a n w
  | some .store => if inExch a n then s.dbgRefuse w.isSome a else s.dbgPlain a n w
  | some (.core c) => if getN s.dbg.halted c then s.dbgPlain a n w else s.dbgRefuse w.isSome a
  | some r =>
    if w.isSome then s.dbgRefuse true a
    else
      match r with
      | .retention => s.shiftOut 0 (s.retN (a - 0x20000000) n)
      | .regs => s.dbgReg a n
      | _ => s.dbgPlain a n none

/-- DBG_MEM. -/
def execDbgMem (t : Nat) (r : DbgMemReq) (s : State) : Host.Outcome State Fault Refusal :=
  finish t s fun s => s.when s.sup.on fun s =>
    let s := s.tapIr 0x14
    let w := r.write.isSome
    if !s.dbg.enabled then s.shiftOut 4 []
    else if (r.bytes ≠ 4 ∧ r.bytes ≠ 8) ∨ r.addr % r.bytes ≠ 0 ∨ 2 ^ 40 ≤ r.addr then s.dbgRefuse w r.addr
    else
      let (ok, s) := s.check idDebug w r.addr r.bytes
      if ok then s.dbgReach r.addr r.bytes r.write else s.shiftOut 5 []

end Sys2Proof.Machine
end

