-- ==== Sys2Proof/Machine/Dispatch.lean ====
section
/-! DEFINITION. One arm per command: each is one direct call of its meaning. -/

namespace Sys2Proof.Machine

/-- The effect of a command on everything but the queue. -/
def exec (i : Instr) (s : State) : Host.Outcome State Fault Refusal :=
  match i with
  | .powerGood t vinMv backupMv => Sys2Proof.Machine.execPowerGood t vinMv backupMv s
  | .powerFailWarning t => Sys2Proof.Machine.execPowerFailWarning t s
  | .holdupEnd t => Sys2Proof.Machine.execHoldupEnd t s
  | .stageS0 t r => Sys2Proof.Machine.execStageS0 t r s
  | .stageS1 t r => Sys2Proof.Machine.execStageS1 t r s
  | .stageS2 t r => Sys2Proof.Machine.execStageS2 t r s
  | .stageS3 t r => Sys2Proof.Machine.execStageS3 t r s
  | .stageS4 t r => Sys2Proof.Machine.execStageS4 t r s
  | .stageS5 t r => Sys2Proof.Machine.execStageS5 t r s
  | .stageS6 t r => Sys2Proof.Machine.execStageS6 t r s
  | .stageS7 t r => Sys2Proof.Machine.execStageS7 t r s
  | .stageS8 t queuesOk => Sys2Proof.Machine.execStageS8 t queuesOk s
  | .stageTimeLimit t => Sys2Proof.Machine.execStageTimeLimit t s
  | .startWatchdog t => Sys2Proof.Machine.execStartWatchdog t s
  | .stageFailHoldExpiry t => Sys2Proof.Machine.execStageFailHoldExpiry t s
  | .startCounterClear x => Sys2Proof.Machine.execStartCounterClear x s
  | .doldrumsDiagnosticFrame t => Sys2Proof.Machine.execDoldrumsDiagnosticFrame t s
  | .spCycle t => Sys2Proof.Machine.execSpCycle t s
  | .degradedTimerExpiry t => Sys2Proof.Machine.execDegradedTimerExpiry t s
  | .tqenSs1Overdue t => Sys2Proof.Machine.execTqenSs1Overdue t s
  | .restartArmingLapse t => Sys2Proof.Machine.execRestartArmingLapse t s
  | .sealSwitchChange t sw slbOn spOn => Sys2Proof.Machine.execSealSwitchChange t sw slbOn spOn s
  | .sealContactDisagree t sw => Sys2Proof.Machine.execSealContactDisagree t sw s
  | .tamperLoopOpen t => Sys2Proof.Machine.execTamperLoopOpen t s
  | .dbgPresChange t low => Sys2Proof.Machine.execDbgPresChange t low s
  | .ioSupplyOutOfWindow t supplyB mv => Sys2Proof.Machine.execIoSupplyOutOfWindow t supplyB mv s
  | .ioSupplyRecovered t mvA mvB => Sys2Proof.Machine.execIoSupplyRecovered t mvA mvB s
  | .dieTempWarning t => Sys2Proof.Machine.execDieTempWarning t s
  | .thermalTrip t => Sys2Proof.Machine.execThermalTrip t s
  | .thermalRelease t => Sys2Proof.Machine.execThermalRelease t s
  | .clockMonitorWindow t clk ok => Sys2Proof.Machine.execClockMonitorWindow t clk ok s
  | .clockRecoveryRelease t => Sys2Proof.Machine.execClockRecoveryRelease t s
  | .ptpSyncReceived t sync => Sys2Proof.Machine.execPtpSyncReceived t sync s
  | .ptpGrandmasterLost t port => Sys2Proof.Machine.execPtpGrandmasterLost t port s
  | .ptpHoldoverExpiry t => Sys2Proof.Machine.execPtpHoldoverExpiry t s
  | .ptpPortDisagree t diff => Sys2Proof.Machine.execPtpPortDisagree t diff s
  | .triggerEdge t n => Sys2Proof.Machine.execTriggerEdge t n s
  | .trigStartWrite t n v => Sys2Proof.Machine.execTrigStartWrite t n v s
  | .trigPeriodWrite t n v => Sys2Proof.Machine.execTrigPeriodWrite t n v s
  | .trigWidthWrite t n v => Sys2Proof.Machine.execTrigWidthWrite t n v s
  | .trigCtrlWrite t n v => Sys2Proof.Machine.execTrigCtrlWrite t n v s
  | .rtcTenthTick t => Sys2Proof.Machine.execRtcTenthTick t s
  | .read t q addrs => Sys2Proof.Machine.execRead t q addrs s
  | .exportObject t q object first count => Sys2Proof.Machine.execExportObject t q object first count s
  | .uploadBegin t q => Sys2Proof.Machine.execUploadBegin t q s
  | .uploadData t q reads offset data => Sys2Proof.Machine.execUploadData t q reads offset data s
  | .uploadEnd t q => Sys2Proof.Machine.execUploadEnd t q s
  | .uploadSessionLapse t => Sys2Proof.Machine.execUploadSessionLapse t s
  | .activate t q => Sys2Proof.Machine.execActivate t q s
  | .restart t q => Sys2Proof.Machine.execRestart t q s
  | .enrol t q key newPassword pattern => Sys2Proof.Machine.execEnrol t q key newPassword pattern s
  | .setPassword t q newPassword => Sys2Proof.Machine.execSetPassword t q newPassword s
  | .setRtc t q op => Sys2Proof.Machine.execSetRtc t q op s
  | .setUtcOfs t q ofs => Sys2Proof.Machine.execSetUtcOfs t q ofs s
  | .clearChangeLog t q => Sys2Proof.Machine.execClearChangeLog t q s
  | .clearDoldrums t q => Sys2Proof.Machine.execClearDoldrums t q s
  | .fieldReset t q cert => Sys2Proof.Machine.execFieldReset t q cert s
  | .lockoutEnd t => Sys2Proof.Machine.execLockoutEnd t s
  | .hashReverify t => Sys2Proof.Machine.execHashReverify t s
  | .frameStart t stream => Sys2Proof.Machine.execFrameStart t stream s
  | .frameEnd t stream f => Sys2Proof.Machine.execFrameEnd t stream f s
  | .checkFinalStatus t stream => Sys2Proof.Machine.execCheckFinalStatus t stream s
  | .streamStallExpiry t stream => Sys2Proof.Machine.execStreamStallExpiry t stream s
  | .frameDeliveryComplete t stream buf => Sys2Proof.Machine.execFrameDeliveryComplete t stream buf s
  | .egoTick t e => Sys2Proof.Machine.execEgoTick t e s
  | .epochOpen t => Sys2Proof.Machine.execEpochOpen t s
  | .epochWaitExpiry t => Sys2Proof.Machine.execEpochWaitExpiry t s
  | .guardJobStart t => Sys2Proof.Machine.execGuardJobStart t s
  | .descriptorDispatch t core => Sys2Proof.Machine.execDescriptorDispatch t core s
  | .descriptorComplete t core hw => Sys2Proof.Machine.execDescriptorComplete t core hw s
  | .descriptorHang t core => Sys2Proof.Machine.execDescriptorHang t core s
  | .coreBistComplete t core ok => Sys2Proof.Machine.execCoreBistComplete t core ok s
  | .rollingSelftestSegment t core e => Sys2Proof.Machine.execRollingSelftestSegment t core e s
  | .vaneSelftestComplete t laneOk slotOk => Sys2Proof.Machine.execVaneSelftestComplete t laneOk slotOk s
  | .safeStateJobIssue t cls => Sys2Proof.Machine.execSafeStateJobIssue t cls s
  | .safeStateDeadline t cls => Sys2Proof.Machine.execSafeStateDeadline t cls s
  | .beuCmdSubmit t stack bg cmd => Sys2Proof.Machine.execBeuCmdSubmit t stack bg cmd s
  | .beuCmdStart t stack bg => Sys2Proof.Machine.execBeuCmdStart t stack bg s
  | .beuCmdComplete t stack x => Sys2Proof.Machine.execBeuCmdComplete t stack x s
  | .beuFenceComplete t stack bg => Sys2Proof.Machine.execBeuFenceComplete t stack bg s
  | .beuSwitchGo t stack v => Sys2Proof.Machine.execBeuSwitchGo t stack v s
  | .beuSwitchDrainComplete t stack => Sys2Proof.Machine.execBeuSwitchDrainComplete t stack s
  | .beuSwitchFenceComplete t stack => Sys2Proof.Machine.execBeuSwitchFenceComplete t stack s
  | .beuSwitchComplete t stack => Sys2Proof.Machine.execBeuSwitchComplete t stack s
  | .scrubStep t stack corrected uncorrectable => Sys2Proof.Machine.execScrubStep t stack corrected uncorrectable s
  | .stackTempChange t stack celsius => Sys2Proof.Machine.execStackTempChange t stack celsius s
  | .stackCoolExpiry t stack => Sys2Proof.Machine.execStackCoolExpiry t stack s
  | .sqTailDoorbell t q v => Sys2Proof.Machine.execSqTailDoorbell t q v s
  | .submissionConsume t q desc => Sys2Proof.Machine.execSubmissionConsume t q desc s
  | .witnessLockEffective t q => Sys2Proof.Machine.execWitnessLockEffective t q s
  | .resultCommit t q => Sys2Proof.Machine.execResultCommit t q s
  | .ageDeadlineExpiry t q seq => Sys2Proof.Machine.execAgeDeadlineExpiry t q seq s
  | .verdictPathWatchdog t q seq => Sys2Proof.Machine.execVerdictPathWatchdog t q seq s
  | .vrdQuery t q x => Sys2Proof.Machine.execVrdQuery t q x s
  | .slbCycle t inp => Sys2Proof.Machine.execSlbCycle t inp s
  | .inputFilterSettle t input chB on => Sys2Proof.Machine.execInputFilterSettle t input chB on s
  | .blankingEnd t input chB => Sys2Proof.Machine.execBlankingEnd t input chB s
  | .discrepancyExpiry t input => Sys2Proof.Machine.execDiscrepancyExpiry t input s
  | .testPulse t n p => Sys2Proof.Machine.execTestPulse t n p s
  | .outputOfftest t channel ok => Sys2Proof.Machine.execOutputOfftest t channel ok s
  | .ss1MaxExpiry t group => Sys2Proof.Machine.execSs1MaxExpiry t group s
  | .standstillHeld t group => Sys2Proof.Machine.execStandstillHeld t group s
  | .brakeReleaseDelayExpiry t brake => Sys2Proof.Machine.execBrakeReleaseDelayExpiry t brake s
  | .brakePullinExpiry t brake => Sys2Proof.Machine.execBrakePullinExpiry t brake s
  | .chainPulseExpiry t => Sys2Proof.Machine.execChainPulseExpiry t s
  | .encoderFault t qe present => Sys2Proof.Machine.execEncoderFault t qe present s
  | .slbDegTimerExpiry t => Sys2Proof.Machine.execSlbDegTimerExpiry t s
  | .slbLinkFrame t intact => Sys2Proof.Machine.execSlbLinkFrame t intact s
  | .spstopNChange t active => Sys2Proof.Machine.execSpstopNChange t active s
  | .requestDisagreeExpiry t => Sys2Proof.Machine.execRequestDisagreeExpiry t s
  | .heartbeatTimeout t x => Sys2Proof.Machine.execHeartbeatTimeout t x s
  | .slbOscillatorFault t => Sys2Proof.Machine.execSlbOscillatorFault t s
  | .slbParamCheck t copyAok copyBok => Sys2Proof.Machine.execSlbParamCheck t copyAok copyBok s
  | .jointsMessage t m => Sys2Proof.Machine.execJointsMessage t m s
  | .stopRequest t m => Sys2Proof.Machine.execStopRequest t m s
  | .resetRequest t m => Sys2Proof.Machine.execResetRequest t m s
  | .aliveMessage t m => Sys2Proof.Machine.execAliveMessage t m s
  | .pathAnnounce t m => Sys2Proof.Machine.execPathAnnounce t m s
  | .skewWindowEnd t conn seq => Sys2Proof.Machine.execSkewWindowEnd t conn seq s
  | .smlWatchdogExpiry t conn => Sys2Proof.Machine.execSmlWatchdogExpiry t conn s
  | .smlOpeningExpiry t conn => Sys2Proof.Machine.execSmlOpeningExpiry t conn s
  | .singlePathTimerExpiry t => Sys2Proof.Machine.execSinglePathTimerExpiry t s
  | .statusSend t conn => Sys2Proof.Machine.execStatusSend t conn s
  | .pathAnnounceSend t port => Sys2Proof.Machine.execPathAnnounceSend t port s
  | .ethLinkChange t port up => Sys2Proof.Machine.execEthLinkChange t port up s
  | .cvuComputeComplete t ch r => Sys2Proof.Machine.execCvuComputeComplete t ch r s
  | .xwlListenExpiry t => Sys2Proof.Machine.execXwlListenExpiry t s
  | .xwlClaimReceived t m => Sys2Proof.Machine.execXwlClaimReceived t m s
  | .xwlBackoffExpiry t => Sys2Proof.Machine.execXwlBackoffExpiry t s
  | .xwlCycleStart t => Sys2Proof.Machine.execXwlCycleStart t s
  | .xwlSyncReceived t m => Sys2Proof.Machine.execXwlSyncReceived t m s
  | .xwlSafetySlot t => Sys2Proof.Machine.execXwlSafetySlot t s
  | .xwlSafetyReceived t m => Sys2Proof.Machine.execXwlSafetyReceived t m s
  | .xwlNodeTimeout t node => Sys2Proof.Machine.execXwlNodeTimeout t node s
  | .xwlSyncLoss t => Sys2Proof.Machine.execXwlSyncLoss t s
  | .xwlDelayMeasure t delay0 delay1 => Sys2Proof.Machine.execXwlDelayMeasure t delay0 delay1 s
  | .xwlBulkReceived t m => Sys2Proof.Machine.execXwlBulkReceived t m s
  | .xwlReturnTimeout t job => Sys2Proof.Machine.execXwlReturnTimeout t job s
  | .hqEnableWrite t q en => Sys2Proof.Machine.execHqEnableWrite t q en s
  | .hqReset t q => Sys2Proof.Machine.execHqReset t q s
  | .queueResetComplete t q => Sys2Proof.Machine.execQueueResetComplete t q s
  | .hqResume t q => Sys2Proof.Machine.execHqResume t q s
  | .cqHeadWrite t q v => Sys2Proof.Machine.execCqHeadWrite t q v s
  | .hqIrqWrite t q v => Sys2Proof.Machine.execHqIrqWrite t q v s
  | .irqTimeExpiry t q => Sys2Proof.Machine.execIrqTimeExpiry t q s
  | .deliveryTailWrite t n v => Sys2Proof.Machine.execDeliveryTailWrite t n v s
  | .hqCheckpoint t v => Sys2Proof.Machine.execHqCheckpoint t v s
  | .pcieFunctionLevelReset t => Sys2Proof.Machine.execPcieFunctionLevelReset t s
  | .bar2Access t r => Sys2Proof.Machine.execBar2Access t r s
  | .tsuAliveWindowEnd t c => Sys2Proof.Machine.execTsuAliveWindowEnd t c s
  | .tsuDeadlineExpiry t c => Sys2Proof.Machine.execTsuDeadlineExpiry t c s
  | .tsuBudgetExceeded t c => Sys2Proof.Machine.execTsuBudgetExceeded t c s
  | .psmPlannedWake t => Sys2Proof.Machine.execPsmPlannedWake t s
  | .psmWakeComplete t silentCores => Sys2Proof.Machine.execPsmWakeComplete t silentCores s
  | .psmWakeFault t => Sys2Proof.Machine.execPsmWakeFault t s
  | .bgUrgent t a => Sys2Proof.Machine.execBgUrgent t a s
  | .bgDeadlineMiss t a => Sys2Proof.Machine.execBgDeadlineMiss t a s
  | .adcCalibration t r => Sys2Proof.Machine.execAdcCalibration t r s
  | .telemetrySwap t => Sys2Proof.Machine.execTelemetrySwap t s
  | .monLevelSample t slot v => Sys2Proof.Machine.execMonLevelSample t slot v s
  | .monSnapshot t bank slot => Sys2Proof.Machine.execMonSnapshot t bank slot s
  | .monSnapshotClear t bank slot => Sys2Proof.Machine.execMonSnapshotClear t bank slot s
  | .logSelWrite t bank seq => Sys2Proof.Machine.execLogSelWrite t bank seq s
  | .frSelWrite t bank num => Sys2Proof.Machine.execFrSelWrite t bank num s
  | .logRepeatSecondEnd t => Sys2Proof.Machine.execLogRepeatSecondEnd t s
  | .idcode t => Sys2Proof.Machine.execIdcode t s
  | .samplePreload t pins preload => Sys2Proof.Machine.execSamplePreload t pins preload s
  | .extest t pins => Sys2Proof.Machine.execExtest t pins s
  | .bypass t tdi => Sys2Proof.Machine.execBypass t tdi s
  | .dbgNonce t => Sys2Proof.Machine.execDbgNonce t s
  | .dbgUnlock t r => Sys2Proof.Machine.execDbgUnlock t r s
  | .dbgLock t => Sys2Proof.Machine.execDbgLock t s
  | .halt t mask => Sys2Proof.Machine.execHalt t mask s
  | .dbgResume t mask => Sys2Proof.Machine.execDbgResume t mask s
  | .step t core => Sys2Proof.Machine.execStep t core s
  | .setBp t slot m => Sys2Proof.Machine.execSetBp t slot m s
  | .readCore t core => Sys2Proof.Machine.execReadCore t core s
  | .dbgMem t r => Sys2Proof.Machine.execDbgMem t r s
  | .dbgSp t op => Sys2Proof.Machine.execDbgSp t op s
  | .registerWrite t w wide addr v => Sys2Proof.Machine.execRegisterWrite t w wide addr v s
  | .stackTrainingLoss t stack => Sys2Proof.Machine.execStackTrainingLoss t stack s
  | .safeMessageRefused t m => Sys2Proof.Machine.execSafeMessageRefused t m s
  | .bestMasterClockSelection t sync => Sys2Proof.Machine.execBestMasterClockSelection t sync s
  | .xwlLaneLoss t lane => Sys2Proof.Machine.execXwlLaneLoss t lane s
  | .tsuBudgetPeriodEnd t c => Sys2Proof.Machine.execTsuBudgetPeriodEnd t c s
  | .psmEntryComplete t => Sys2Proof.Machine.execPsmEntryComplete t s
  | .breezeCoreGate t core => Sys2Proof.Machine.execBreezeCoreGate t core s
  | .connectionPause t => Sys2Proof.Machine.execConnectionPause t s
  | .xwlBulkUnit t unit => Sys2Proof.Machine.execXwlBulkUnit t unit s
  | .triggerPulseEnd t n => Sys2Proof.Machine.execTriggerPulseEnd t n s
  | .overcurrentCutOff t output => Sys2Proof.Machine.execOvercurrentCutOff t output s
  | .tamperCoverFitted t => Sys2Proof.Machine.execTamperCoverFitted t s
  | .backupExhausted t => Sys2Proof.Machine.execBackupExhausted t s

end Sys2Proof.Machine
end

