-- ==== Sys2Proof/Safety.lean ====
section
/-! DEFINITION. What a good state is, in the terms the statements use: the wired outputs obey their two series elements, and
memory and the poison list keep their canonical form; and the parts of the state, one name each, in which a statement says what a
command leaves unchanged. -/

namespace Sys2Proof.Machine

/-- A torque or brake pin is energised only while the SLB drives it and TQEN is active (01 R12, R14). -/
def State.outputsOk (s : State) : Prop :=
  (∀ i : Nat, s.slb.stoPin.getD i false = true → s.slb.stoCmd.getD i false = true ∧ s.sys.tqen = true) ∧
    ∀ i : Nat, s.slb.brkPin.getD i false = true → s.slb.brkCmd.getD i false = true ∧ s.sys.tqen = true

/-- Memory is in its canonical form, and the poisoned granules rise strictly. -/
def State.memoryOk (s : State) : Prop := Memory.wf s.mem = true ∧ granWfFrom 0 s.poison = true

/-- The parts of the state that a command may change: the blocks, memory and the model's own counters. Time, the queue and what a
command sends outside are not among them. -/
inductive Part where
  | free | sys | sup | clk | rtc | start | nvm | seals | cfg | fiu | fgu | aud | vane | beu | vrd | slb | sml | cvu | xwl | hq
  | fwl | tsu | psm | mon | log | dbg | ret | mem | poison | caps
  deriving DecidableEq, Repr

/-- A part is the same in two states. -/
def Part.Same (s t : State) : Part → Prop
  | .free => t.free = s.free
  | .sys => t.sys = s.sys
  | .sup => t.sup = s.sup
  | .clk => t.clk = s.clk
  | .rtc => t.rtc = s.rtc
  | .start => t.start = s.start
  | .nvm => t.nvm = s.nvm
  | .seals => t.seals = s.seals
  | .cfg => t.cfg = s.cfg
  | .fiu => t.fiu = s.fiu
  | .fgu => t.fgu = s.fgu
  | .aud => t.aud = s.aud
  | .vane => t.vane = s.vane
  | .beu => t.beu = s.beu
  | .vrd => t.vrd = s.vrd
  | .slb => t.slb = s.slb
  | .sml => t.sml = s.sml
  | .cvu => t.cvu = s.cvu
  | .xwl => t.xwl = s.xwl
  | .hq => t.hq = s.hq
  | .fwl => t.fwl = s.fwl
  | .tsu => t.tsu = s.tsu
  | .psm => t.psm = s.psm
  | .mon => t.mon = s.mon
  | .log => t.log = s.log
  | .dbg => t.dbg = s.dbg
  | .ret => t.ret = s.ret
  | .mem => t.mem = s.mem
  | .poison => t.poison = s.poison
  | .caps => t.caps = s.caps

/-- The fixed lengths of the triggers. -/
@[simp] abbrev Clk.shaped (c : Clk) : Prop :=
  c.trigs.length = 8

/-- The fixed lengths of the seal switches. -/
@[simp] abbrev Seal.shaped (y : Seal) : Prop :=
  y.slb.length = 4 ∧ y.sp.length = 4 ∧ y.agreed.length = 4 ∧ y.since.length = 4 ∧ y.bad.length = 4

/-- The fixed lengths of the image slots. -/
@[simp] abbrev Cfg.shaped (c : Cfg) : Prop :=
  c.slots.length = 2

/-- The fixed lengths of the streams. -/
@[simp] abbrev Fiu.shaped (f : Fiu) : Prop :=
  f.streams.length = 16

/-- The fixed lengths of the audit cores. -/
@[simp] abbrev Aud.shaped (a : Aud) : Prop :=
  a.cores.length = 16

/-- The fixed lengths of the stacks. -/
@[simp] abbrev Beu.shaped (b : Beu) : Prop :=
  b.stks.length = 2

/-- The fixed lengths of the verdict queues. -/
@[simp] abbrev Vrd.shaped (v : Vrd) : Prop :=
  v.queues.length = 64

/-- The fixed lengths of the safety inputs, groups, brakes, encoders and output faults. -/
@[simp] abbrev Slb.shaped (b : Slb) : Prop :=
  b.inputs.length = 16 ∧ b.groups.length = 4 ∧ b.brakes.length = 4 ∧ b.qe.length = 8 ∧ b.outFault.length = 14

/-- The fixed lengths of the connections. -/
@[simp] abbrev Sml.shaped (m : Sml) : Prop :=
  m.conns.length = 32

/-- The fixed lengths of the verification channels. -/
@[simp] abbrev Cvu.shaped (k : Cvu) : Prop :=
  k.chans.length = 32

/-- The fixed lengths of the ring nodes and lanes. -/
@[simp] abbrev Xwl.shaped (w : Xwl) : Prop :=
  w.nodes.length = 8 ∧ w.lanes.length = 2

/-- The fixed lengths of the host queues and delivery rings. -/
@[simp] abbrev Hq.shaped (h : Hq) : Prop :=
  h.queues.length = 64 ∧ h.rings.length = 16

/-- The fixed lengths of the supervised channels. -/
@[simp] abbrev Tsu.shaped (u : Tsu) : Prop :=
  u.chans.length = 512

/-- The fixed lengths of the background activities. -/
@[simp] abbrev Psm.shaped (p : Psm) : Prop :=
  p.bg.length = 5 ∧ p.tests.length = 16

/-- The fixed lengths of the monitor slots. -/
@[simp] abbrev Mon.shaped (k : Mon) : Prop :=
  k.slots.length = 64

/-- The fixed lengths of the halted and stepping cores and the breakpoints. -/
@[simp] abbrev Dbg.shaped (d : Dbg) : Prop :=
  d.halted.length = 16 ∧ d.stepping.length = 16 ∧ d.bps.length = 4

/-- Every register file and other list of fixed length has its length. -/
structure State.shaped (s : State) : Prop where
  clk : s.clk.shaped
  seals : s.seals.shaped
  cfg : s.cfg.shaped
  fiu : s.fiu.shaped
  aud : s.aud.shaped
  beu : s.beu.shaped
  vrd : s.vrd.shaped
  slb : s.slb.shaped
  sml : s.sml.shaped
  cvu : s.cvu.shaped
  xwl : s.xwl.shaped
  hq : s.hq.shaped
  tsu : s.tsu.shaped
  psm : s.psm.shaped
  mon : s.mon.shaped
  dbg : s.dbg.shaped

/-- `t` differs from `s` at most in the parts `w`; the instant and the queue are the same, no free value is drawn twice, and memory
and the register files keep their form. -/
structure Moves (w : List Part) (s t : State) : Prop where
  same : ∀ p : Part, p ∉ w → p.Same s t
  now : t.now = s.now
  pending : t.pending = s.pending
  free : s.free ≤ t.free
  memory : s.memoryOk → t.memoryOk
  shaped : s.shaped → t.shaped

/-- The instant of a command. -/
def timeOf (c : Instr) : Nat :=
  match c with
  | .powerGood t .. => t
  | .powerFailWarning t => t
  | .holdupEnd t => t
  | .stageS0 t .. => t
  | .stageS1 t .. => t
  | .stageS2 t .. => t
  | .stageS3 t .. => t
  | .stageS4 t .. => t
  | .stageS5 t .. => t
  | .stageS6 t .. => t
  | .stageS7 t .. => t
  | .stageS8 t .. => t
  | .stageTimeLimit t => t
  | .startWatchdog t => t
  | .stageFailHoldExpiry t => t
  | .startCounterClear x => x.t
  | .doldrumsDiagnosticFrame t => t
  | .spCycle t => t
  | .degradedTimerExpiry t => t
  | .tqenSs1Overdue t => t
  | .restartArmingLapse t => t
  | .sealSwitchChange t .. => t
  | .sealContactDisagree t .. => t
  | .tamperLoopOpen t => t
  | .dbgPresChange t .. => t
  | .ioSupplyOutOfWindow t .. => t
  | .ioSupplyRecovered t .. => t
  | .dieTempWarning t => t
  | .thermalTrip t => t
  | .thermalRelease t => t
  | .clockMonitorWindow t .. => t
  | .clockRecoveryRelease t => t
  | .ptpSyncReceived t .. => t
  | .ptpGrandmasterLost t .. => t
  | .ptpHoldoverExpiry t => t
  | .ptpPortDisagree t .. => t
  | .triggerEdge t .. => t
  | .trigStartWrite t .. => t
  | .trigPeriodWrite t .. => t
  | .trigWidthWrite t .. => t
  | .trigCtrlWrite t .. => t
  | .rtcTenthTick t => t
  | .read t .. => t
  | .exportObject t .. => t
  | .uploadBegin t .. => t
  | .uploadData t .. => t
  | .uploadEnd t .. => t
  | .uploadSessionLapse t => t
  | .activate t .. => t
  | .restart t .. => t
  | .enrol t .. => t
  | .setPassword t .. => t
  | .setRtc t .. => t
  | .setUtcOfs t .. => t
  | .clearChangeLog t .. => t
  | .clearDoldrums t .. => t
  | .fieldReset t .. => t
  | .lockoutEnd t => t
  | .hashReverify t => t
  | .frameStart t .. => t
  | .frameEnd t .. => t
  | .checkFinalStatus t .. => t
  | .streamStallExpiry t .. => t
  | .frameDeliveryComplete t .. => t
  | .egoTick t .. => t
  | .epochOpen t => t
  | .epochWaitExpiry t => t
  | .guardJobStart t => t
  | .descriptorDispatch t .. => t
  | .descriptorComplete t .. => t
  | .descriptorHang t .. => t
  | .coreBistComplete t .. => t
  | .rollingSelftestSegment t .. => t
  | .vaneSelftestComplete t .. => t
  | .safeStateJobIssue t .. => t
  | .safeStateDeadline t .. => t
  | .beuCmdSubmit t .. => t
  | .beuCmdStart t .. => t
  | .beuCmdComplete t .. => t
  | .beuFenceComplete t .. => t
  | .beuSwitchGo t .. => t
  | .beuSwitchDrainComplete t .. => t
  | .beuSwitchFenceComplete t .. => t
  | .beuSwitchComplete t .. => t
  | .scrubStep t .. => t
  | .stackTempChange t .. => t
  | .stackCoolExpiry t .. => t
  | .sqTailDoorbell t .. => t
  | .submissionConsume t .. => t
  | .witnessLockEffective t .. => t
  | .resultCommit t .. => t
  | .ageDeadlineExpiry t .. => t
  | .verdictPathWatchdog t .. => t
  | .vrdQuery t .. => t
  | .slbCycle t .. => t
  | .inputFilterSettle t .. => t
  | .blankingEnd t .. => t
  | .discrepancyExpiry t .. => t
  | .testPulse t .. => t
  | .outputOfftest t .. => t
  | .ss1MaxExpiry t .. => t
  | .standstillHeld t .. => t
  | .brakeReleaseDelayExpiry t .. => t
  | .brakePullinExpiry t .. => t
  | .chainPulseExpiry t => t
  | .encoderFault t .. => t
  | .slbDegTimerExpiry t => t
  | .slbLinkFrame t .. => t
  | .spstopNChange t .. => t
  | .requestDisagreeExpiry t => t
  | .heartbeatTimeout t .. => t
  | .slbOscillatorFault t => t
  | .slbParamCheck t .. => t
  | .jointsMessage t .. => t
  | .stopRequest t .. => t
  | .resetRequest t .. => t
  | .aliveMessage t .. => t
  | .pathAnnounce t .. => t
  | .skewWindowEnd t .. => t
  | .smlWatchdogExpiry t .. => t
  | .smlOpeningExpiry t .. => t
  | .singlePathTimerExpiry t => t
  | .statusSend t .. => t
  | .pathAnnounceSend t .. => t
  | .ethLinkChange t .. => t
  | .cvuComputeComplete t .. => t
  | .xwlListenExpiry t => t
  | .xwlClaimReceived t .. => t
  | .xwlBackoffExpiry t => t
  | .xwlCycleStart t => t
  | .xwlSyncReceived t .. => t
  | .xwlSafetySlot t => t
  | .xwlSafetyReceived t .. => t
  | .xwlNodeTimeout t .. => t
  | .xwlSyncLoss t => t
  | .xwlDelayMeasure t .. => t
  | .xwlBulkReceived t .. => t
  | .xwlReturnTimeout t .. => t
  | .hqEnableWrite t .. => t
  | .hqReset t .. => t
  | .queueResetComplete t .. => t
  | .hqResume t .. => t
  | .cqHeadWrite t .. => t
  | .hqIrqWrite t .. => t
  | .irqTimeExpiry t .. => t
  | .deliveryTailWrite t .. => t
  | .hqCheckpoint t .. => t
  | .pcieFunctionLevelReset t => t
  | .bar2Access t .. => t
  | .tsuAliveWindowEnd t .. => t
  | .tsuDeadlineExpiry t .. => t
  | .tsuBudgetExceeded t .. => t
  | .psmPlannedWake t => t
  | .psmWakeComplete t .. => t
  | .psmWakeFault t => t
  | .bgUrgent t .. => t
  | .bgDeadlineMiss t .. => t
  | .adcCalibration t .. => t
  | .telemetrySwap t => t
  | .monLevelSample t .. => t
  | .monSnapshot t .. => t
  | .monSnapshotClear t .. => t
  | .logSelWrite t .. => t
  | .frSelWrite t .. => t
  | .logRepeatSecondEnd t => t
  | .idcode t => t
  | .samplePreload t .. => t
  | .extest t .. => t
  | .bypass t .. => t
  | .dbgNonce t => t
  | .dbgUnlock t .. => t
  | .dbgLock t => t
  | .halt t .. => t
  | .dbgResume t .. => t
  | .step t .. => t
  | .setBp t .. => t
  | .readCore t .. => t
  | .dbgMem t .. => t
  | .dbgSp t .. => t
  | .registerWrite t .. => t
  | .stackTrainingLoss t .. => t
  | .safeMessageRefused t .. => t
  | .bestMasterClockSelection t .. => t
  | .xwlLaneLoss t .. => t
  | .tsuBudgetPeriodEnd t .. => t
  | .psmEntryComplete t => t
  | .breezeCoreGate t .. => t
  | .connectionPause t => t
  | .xwlBulkUnit t .. => t
  | .triggerPulseEnd t .. => t
  | .overcurrentCutOff t .. => t
  | .tamperCoverFitted t => t
  | .backupExhausted t => t

/-- The parts that each command may change beside its instant, what it sends outside and the wired outputs, which follow. -/
def writes (c : Instr) : List Part :=
  match c with
  | .powerGood .. | .stageFailHoldExpiry .. | .thermalRelease .. | .clockRecoveryRelease .. | .activate .. | .restart ..
  | .clearDoldrums .. | .slbLinkFrame .. | .heartbeatTimeout .. =>
      [.free, .sys, .sup, .clk, .start, .nvm, .cfg, .fiu, .fgu, .aud, .vane, .beu, .vrd, .slb, .sml, .cvu, .xwl, .hq, .fwl,
       .tsu, .psm, .mon, .log, .dbg, .ret, .mem, .poison, .caps]
  | .powerFailWarning .. =>
      [.free, .sys, .sup, .clk, .start, .nvm, .slb, .log, .ret]
  | .holdupEnd .. =>
      [.sys, .sup, .clk, .start, .vrd, .slb, .sml, .psm, .log, .ret]
  | .stageS0 .. =>
      [.sys, .sup, .clk, .start, .nvm, .vrd, .slb, .sml, .hq, .psm, .log, .ret]
  | .stageS1 .. | .stageTimeLimit .. | .startWatchdog .. =>
      [.clk, .start, .nvm, .slb, .log, .ret]
  | .stageS2 .. =>
      [.sys, .sup, .clk, .rtc, .start, .nvm, .slb, .log, .ret]
  | .stageS3 .. =>
      [.clk, .start, .nvm, .vane, .slb, .cvu, .log, .ret]
  | .stageS4 .. =>
      [.clk, .start, .nvm, .aud, .vane, .slb, .log, .ret, .mem, .poison]
  | .stageS5 .. =>
      [.clk, .start, .nvm, .beu, .slb, .log, .ret, .mem, .poison]
  | .stageS6 .. =>
      [.sys, .clk, .start, .nvm, .cfg, .fiu, .beu, .slb, .xwl, .hq, .log, .ret, .mem]
  | .stageS7 .. =>
      [.sys, .clk, .start, .nvm, .cfg, .slb, .log, .dbg, .ret]
  | .stageS8 .. =>
      [.free, .sys, .clk, .start, .nvm, .fiu, .fgu, .vrd, .slb, .sml, .hq, .tsu, .psm, .log, .dbg, .ret]
  | .startCounterClear .. =>
      [.start, .nvm, .slb]
  | .doldrumsDiagnosticFrame .. =>
      [.start]
  | .spCycle .. =>
      [.sys, .start, .vrd, .slb, .sml, .xwl, .psm, .log, .ret]
  | .degradedTimerExpiry .. | .tqenSs1Overdue .. | .restartArmingLapse .. | .singlePathTimerExpiry .. =>
      [.sys]
  | .sealSwitchChange .. | .sealContactDisagree .. =>
      [.sys, .seals]
  | .tamperLoopOpen .. =>
      [.sys, .seals, .log, .ret]
  | .dbgPresChange .. | .dbgLock .. =>
      [.log, .dbg, .ret]
  | .ioSupplyOutOfWindow .. | .ioSupplyRecovered .. =>
      [.sup, .slb]
  | .dieTempWarning .. | .logRepeatSecondEnd .. =>
      [.log, .ret]
  | .thermalTrip .. =>
      [.sys, .sup, .clk, .start, .nvm, .vrd, .slb, .sml, .psm, .log, .ret]
  | .clockMonitorWindow .. =>
      [.free, .sys, .clk, .rtc, .start, .nvm, .fiu, .fgu, .aud, .vane, .beu, .vrd, .slb, .sml, .xwl, .hq, .fwl, .tsu, .psm,
       .mon, .log, .ret, .mem, .poison]
  | .ptpSyncReceived .. | .ptpGrandmasterLost .. | .bestMasterClockSelection .. =>
      [.free, .clk, .sml, .log, .ret]
  | .ptpHoldoverExpiry .. | .ptpPortDisagree .. =>
      [.clk, .log, .ret]
  | .triggerEdge .. | .trigStartWrite .. | .trigPeriodWrite .. | .trigWidthWrite .. | .trigCtrlWrite ..
  | .triggerPulseEnd .. =>
      [.clk]
  | .rtcTenthTick .. =>
      [.rtc]
  | .read .. =>
      [.cfg, .psm, .caps]
  | .exportObject .. | .uploadData .. | .uploadEnd .. =>
      [.cfg, .psm]
  | .uploadBegin .. | .clearChangeLog .. =>
      [.nvm, .cfg, .psm, .log, .ret]
  | .uploadSessionLapse .. =>
      [.cfg]
  | .enrol .. | .setPassword .. =>
      [.free, .nvm, .cfg, .psm, .log, .ret]
  | .setRtc .. | .setUtcOfs .. =>
      [.rtc, .nvm, .cfg, .psm, .log, .ret]
  | .fieldReset .. =>
      [.nvm, .cfg, .psm]
  | .lockoutEnd .. =>
      [.nvm]
  | .hashReverify .. =>
      [.free, .sys, .nvm, .cfg, .fiu, .fgu, .aud, .vane, .vrd, .xwl, .hq, .fwl, .psm, .mon, .log, .ret]
  | .frameStart .. =>
      [.fiu, .beu, .ret]
  | .frameEnd .. | .beuCmdStart .. =>
      [.free, .sys, .nvm, .fiu, .fgu, .aud, .vane, .beu, .vrd, .xwl, .hq, .fwl, .tsu, .psm, .mon, .log, .ret, .mem, .poison]
  | .checkFinalStatus .. =>
      [.free, .sys, .nvm, .fiu, .fgu, .aud, .vane, .beu, .vrd, .xwl, .hq, .fwl, .tsu, .psm, .mon, .log, .ret]
  | .streamStallExpiry .. | .submissionConsume .. | .verdictPathWatchdog .. =>
      [.free, .sys, .nvm, .fiu, .fgu, .aud, .vane, .vrd, .xwl, .hq, .fwl, .tsu, .psm, .mon, .log, .ret]
  | .frameDeliveryComplete .. =>
      [.fiu, .hq, .ret]
  | .egoTick .. | .epochOpen .. | .epochWaitExpiry .. | .vaneSelftestComplete .. | .safeStateJobIssue .. | .resultCommit ..
  | .ageDeadlineExpiry .. | .xwlReturnTimeout .. =>
      [.free, .sys, .nvm, .fiu, .fgu, .aud, .vane, .vrd, .xwl, .hq, .fwl, .psm, .mon, .log, .ret]
  | .guardJobStart .. | .coreBistComplete .. | .rollingSelftestSegment .. | .xwlBulkReceived .. =>
      [.free, .sys, .nvm, .fiu, .fgu, .aud, .vane, .vrd, .xwl, .hq, .fwl, .psm, .mon, .log, .ret, .mem, .poison]
  | .descriptorDispatch .. | .descriptorHang .. =>
      [.free, .sys, .nvm, .fiu, .fgu, .aud, .vane, .vrd, .xwl, .hq, .fwl, .psm, .mon, .log, .dbg, .ret]
  | .descriptorComplete .. =>
      [.free, .sys, .nvm, .fiu, .fgu, .aud, .vane, .beu, .vrd, .xwl, .hq, .fwl, .tsu, .psm, .mon, .log, .dbg, .ret, .mem,
       .poison]
  | .safeStateDeadline .. =>
      [.sys, .aud]
  | .beuCmdSubmit .. =>
      [.fiu, .beu, .hq, .ret, .mem, .poison]
  | .beuCmdComplete .. | .beuFenceComplete .. | .scrubStep .. | .stackTempChange .. | .psmWakeComplete .. | .psmWakeFault ..
  | .stackTrainingLoss .. =>
      [.free, .sys, .nvm, .fiu, .fgu, .aud, .vane, .beu, .vrd, .xwl, .hq, .fwl, .psm, .mon, .log, .ret, .mem, .poison]
  | .beuSwitchGo .. | .beuSwitchDrainComplete .. | .beuSwitchComplete .. | .stackCoolExpiry .. =>
      [.beu]
  | .beuSwitchFenceComplete .. =>
      [.beu, .mem, .poison]
  | .sqTailDoorbell .. =>
      [.hq, .tsu, .psm, .log, .ret]
  | .witnessLockEffective .. =>
      [.vrd]
  | .vrdQuery .. =>
      [.free, .vrd]
  | .slbCycle .. =>
      [.sup, .start, .slb]
  | .inputFilterSettle .. | .blankingEnd .. | .discrepancyExpiry .. | .testPulse .. | .outputOfftest .. | .ss1MaxExpiry ..
  | .standstillHeld .. | .brakeReleaseDelayExpiry .. | .brakePullinExpiry .. | .chainPulseExpiry .. | .encoderFault ..
  | .slbDegTimerExpiry .. | .spstopNChange .. | .requestDisagreeExpiry .. | .slbOscillatorFault .. | .overcurrentCutOff .. =>
      [.slb]
  | .slbParamCheck .. =>
      [.nvm, .slb, .log, .ret]
  | .jointsMessage .. | .stopRequest .. | .resetRequest .. | .aliveMessage .. | .pathAnnounce .. | .safeMessageRefused .. =>
      [.sys, .fgu, .sml, .cvu, .psm, .mon, .log, .ret]
  | .skewWindowEnd .. =>
      [.sys, .sml, .log, .ret]
  | .smlWatchdogExpiry .. =>
      [.sys, .sml]
  | .smlOpeningExpiry .. | .statusSend .. | .pathAnnounceSend .. | .connectionPause .. =>
      [.sml]
  | .ethLinkChange .. =>
      [.clk, .sml]
  | .cvuComputeComplete .. =>
      [.fiu, .cvu, .log, .ret]
  | .xwlListenExpiry .. | .xwlBackoffExpiry .. | .xwlCycleStart .. | .xwlSafetySlot .. | .xwlSyncLoss ..
  | .xwlDelayMeasure .. =>
      [.xwl]
  | .xwlClaimReceived .. | .xwlLaneLoss .. =>
      [.xwl, .log, .ret]
  | .xwlSyncReceived .. =>
      [.free, .clk, .sml, .xwl, .log, .ret]
  | .xwlSafetyReceived .. | .xwlNodeTimeout .. =>
      [.sys, .xwl, .log, .ret]
  | .hqEnableWrite .. | .cqHeadWrite .. =>
      [.hq, .ret]
  | .hqReset .. | .queueResetComplete .. | .hqIrqWrite .. | .irqTimeExpiry .. | .deliveryTailWrite ..
  | .pcieFunctionLevelReset .. =>
      [.hq]
  | .hqResume .. =>
      [.hq, .tsu, .psm]
  | .hqCheckpoint .. | .tsuAliveWindowEnd .. | .tsuDeadlineExpiry .. | .tsuBudgetExceeded .. =>
      [.hq, .tsu, .log, .ret]
  | .bar2Access .. =>
      [.beu, .hq, .fwl, .tsu, .log, .ret, .mem, .poison]
  | .psmPlannedWake .. | .bgUrgent .. =>
      [.psm]
  | .bgDeadlineMiss .. =>
      [.psm, .log, .ret]
  | .adcCalibration .. =>
      [.psm, .mon, .log, .ret]
  | .telemetrySwap .. =>
      [.psm, .mon]
  | .monLevelSample .. =>
      [.sup, .mon, .log, .ret]
  | .monSnapshot .. | .monSnapshotClear .. =>
      [.mon]
  | .logSelWrite .. | .frSelWrite .. =>
      [.log]
  | .idcode .. | .samplePreload .. | .extest .. | .bypass .. | .dbgNonce .. | .setBp .. | .readCore .. =>
      [.dbg]
  | .dbgUnlock .. =>
      [.free, .sys, .nvm, .psm, .log, .dbg, .ret]
  | .halt .. =>
      [.clk, .start, .nvm, .aud, .vane, .slb, .log, .dbg, .ret]
  | .dbgResume .. =>
      [.aud, .vane, .log, .dbg, .ret]
  | .step .. =>
      [.aud, .log, .dbg, .ret]
  | .dbgMem .. =>
      [.free, .beu, .hq, .fwl, .tsu, .log, .dbg, .ret, .mem, .poison, .caps]
  | .dbgSp .. =>
      [.clk, .start, .nvm, .slb, .log, .dbg, .ret]
  | .registerWrite .. =>
      [.sup, .clk, .rtc, .fiu, .fgu, .aud, .vane, .beu, .vrd, .xwl, .hq, .fwl, .tsu, .psm, .mon, .ret, .mem, .poison]
  | .tsuBudgetPeriodEnd .. =>
      [.tsu]
  | .psmEntryComplete .. =>
      [.beu, .psm]
  | .breezeCoreGate .. =>
      [.aud]
  | .xwlBulkUnit .. =>
      [.xwl, .ret]
  | .tamperCoverFitted .. =>
      [.seals]
  | .backupExhausted .. =>
      [.sup, .rtc, .ret]

/-- Stage `n` of the start is open: in progress, within its limit and within 20 s of S0 (04 R92, R93). -/
def State.inTime (n : Nat) (s : State) : Prop :=
  s.inStage n = true ∧ s.now ≤ s.start.stageAt + stageLimit n ∧ s.now ≤ s.start.s0At + 20 * sec

/-- No STO and no brake output has been found faulty since the start began: such a fault fails a stage after S4 (04 R112). -/
def State.outputsSound (s : State) : Prop := getN s.slb.outSeen 0 = false ∧ getN s.slb.outSeen 1 = false

/-- The command answers a next state, and that state has the property. -/
def Runs (c : Instr) (s : State) (p : State → Prop) : Prop := ∃ v, exec c s = .next v ∧ p v

/-- A configuration request is executed: the service answers on its port, the frame is one of the command and holds what its lengths
announce (05 R136), and the last 5 s hold no response to it (05 R151). -/
def State.takes (q : CfgReq) (cmd : Nat) (s : State) : Prop :=
  s.cfgUp q.port = true ∧ asksFor q cmd = true ∧ q.whole = true ∧
    (s.recentResps.find? fun r => r.source == q.source && r.command == cmd && r.request == q.request) = none

/-- A request carries the password, and no lockout runs (05 R133). -/
def State.knows (q : CfgReq) (s : State) : Prop :=
  s.secrets.lock = 0 ∧ ∃ h, s.secrets.pass = some h ∧ sha256 (h.1 ++ q.password) = h.2

/-- The state in which a command behind the password runs: the die woken, and the count of wrong passwords cleared. -/
def State.entered (s : State) : State := s.wake.putSecrets { s.secrets with wrong := 0 }

/-- The one response frame with an empty or short payload. -/
def answerTo (q : CfgReq) (cmd st : Nat) (pay : Bytes) : List Output := [.eth q.port 0x88B5 (respFrame cmd q.request st pay)]

/-- A Crosswind frame of kind `k` is received and taken: the ring runs, the frame is whole, of another member, with no gap in
its lane's alive counter, and no copy of it was taken before (15 R425, R427, Table 15.4). -/
def State.hears (k : Nat) (m : XwlRx) (s : State) : Prop :=
  s.xwl.phase ≠ .off ∧ s.clk.xwlOk = true ∧ m.lane < 2 ∧ xOk m = true ∧ xKind m = k ∧ xSrc m < 8 ∧ xSrc m ≠ s.ring.nodeId ∧
    bit s.ring.members (xSrc m) = true ∧ (∀ a, getN (s.node (xSrc m)).alive m.lane = some a → (a + 1) % 16 = xAlive m) ∧
    (s.node (xSrc m)).taken ≠ some (xAlive m)

end Sys2Proof.Machine
end

