-- ==== Sys2Proof/Certificates/Slice0/Obligations.lean ====
section
/-! DEFINITION. The statements for the provers. -/

open Sys2Proof Sys2Proof.Machine

/-- A step takes the command at the front of the queue and runs it on the state with the queue's rest. -/
def Obligations.StepRunsTheFrontCommand : Prop :=
  ∀ (c : Instr) (r : List Instr) (s : State), s.pending = c :: r → step s = exec c { s with pending := r }

/-- With an empty queue the block idles: the model's own choice (log entry 4). -/
def Obligations.EmptyQueueIdles : Prop :=
  ∀ s : State, s.pending = [] → step s = .next s

/-- The frame of every command: a next state, never a fault or a refusal, that differs from the state at the command's instant only in the parts `writes` lists, and in the wired outputs that follow. -/
def Obligations.EveryCommandStaysWithinItsParts : Prop :=
  ∀ (c : Instr) (s : State), ∃ u, exec c s = .next (settle u) ∧ Moves (writes c) (s.at (timeOf c)) u

/-- R12 holds after every step: no STO pin and no brake pin is energised unless the SLB drives it and TQEN is active. -/
def Obligations.OutputsAreEnergisedOnlyUnderBothElements : Prop :=
  ∀ s s' : State, s.outputsOk → step s = .next s' → s'.outputsOk

/-- Memory (and the list of poisoned granules) keeps its canonical form in every step, so that equal memories are equal data. -/
def Obligations.MemoryKeepsItsCanonicalForm : Prop :=
  ∀ s s' : State, s.memoryOk → step s = .next s' → s'.memoryOk

/-- The invariant that the other statements assume where they speak of an entry by its number. -/
def Obligations.RegisterFilesKeepTheirLength : Prop :=
  ∀ s s' : State, s.shaped → step s = .next s' → s'.shaped

/-- The invariants hold at reset. -/
def Obligations.ResetMeetsTheInvariants : Prop :=
  State.reset.outputsOk ∧ State.reset.memoryOk ∧ State.reset.shaped ∧ State.reset.pending = []

/-- What reset leaves; that it is the unpowered module as delivered is log entry 6. -/
def Obligations.ResetIsAnUnpoweredModule : Prop :=
  State.reset.sys.state = .off ∧ State.reset.sup.on = false ∧ State.reset.sys.tqen = false ∧
    State.reset.slb.stoPin = List.replicate 8 false ∧ State.reset.slb.brkPin = List.replicate 4 false ∧
    State.reset.slb.chainPin = List.replicate 2 false ∧ State.reset.counter = 0 ∧ State.reset.secrets.key = none ∧
    State.reset.secrets.pass = none ∧ State.reset.secrets.run = none ∧ State.reset.cfg.admitted = false ∧
    State.reset.dbg.enabled = false ∧ State.reset.fgu.resets = 0 ∧ State.reset.vrd.revoked = 0 ∧ State.reset.tsu.faults = 0 ∧
    State.reset.mem = []

/-- Reference time never runs backwards (log entry 1), and a command leaves the waiting ones alone. -/
def Obligations.TimeNeverGoesBack : Prop :=
  ∀ s s' : State, step s = .next s' → s.now ≤ s'.now ∧ ∀ (c : Instr) (r : List Instr), s.pending = c :: r → s'.pending = r

/-- R156: only powered time counts, and a power cycle leaves the remainder. -/
def Obligations.LockoutCountsOnlyWhilePowered : Prop :=
  (∀ (t : Nat) (s : State), s.sup.on = true → (s.at t).secrets.lock = s.secrets.lock - (t - s.now)) ∧
    (∀ (t : Nat) (s : State), s.sup.on = false → (s.at t).secrets = s.secrets) ∧
    (∀ (t vin backup : Nat) (s : State), Runs (.powerGood t vin backup) s fun v => v.secrets = (s.at t).secrets) ∧
    (∀ (t : Nat) (s : State), Runs (.holdupEnd t) s fun v => v.secrets = (s.at t).secrets) ∧
    (∀ s : State, s.sup.on = true → s.secrets.lock = 600 * sec → (s.at (s.now + 180 * sec)).secrets.lock = 420 * sec)

/-- Table 1.5 rows OFF to START and Any to OFF, R19, and Table 2.10. -/
def Obligations.PowerEntersStartAndLeavesToOff : Prop :=
  (∀ (t vin backup : Nat) (s : State), s.sup.on = false → (s.at t).counter < 3 →
      Runs (.powerGood t vin backup) s fun v =>
        v.sup.on = true ∧ v.sup.vin = vin ∧ v.sup.backup = backup ∧ v.sys.state = .start ∧ v.start.stage = 0 ∧
        v.start.warm = false ∧ v.counter = (s.at t).counter + 1 ∧ v.mem = [] ∧ v.sys.tqen = false) ∧
    (∀ (t : Nat) (s : State), s.sup.on = true → s.sys.powerFail = false →
      Runs (.powerFailWarning t) s fun v =>
        v.sup.pfOut = true ∧ v.sys.powerFail = true ∧ v.sys.tqen = false ∧
        (∀ i : Nat, v.slb.stoPin.getD i false = false ∧ v.slb.brkPin.getD i false = false) ∧
        (s.ret.held = true → v.ret.cleanOff = true ∧ v.ret.offTime = (s.at t).dev)) ∧
    (∀ (t : Nat) (s : State), s.sup.on = true → s.sys.powerFail = true →
      Runs (.holdupEnd t) s fun v =>
        v.sys.state = .off ∧ v.sup.on = false ∧ v.sys.tqen = false ∧ v.slb.stoCmd = List.replicate 8 false ∧
        v.slb.brkCmd = List.replicate 4 false ∧ v.slb.chainPin = List.replicate 2 false) ∧
    (∀ (t : Nat) (s : State), s.sup.on = false →
      Runs (.backupExhausted t) s fun v => v.ret.log = [] ∧ v.ret.held = false ∧ v.rtc.valid = false ∧ v.sup.backup = 0)

/-- R55, R56 and the seen bit of R57. -/
def Obligations.SuppliesAndTemperatureTrip : Prop :=
  (∀ (t : Nat) (b : Bool) (mv : Nat) (s : State), s.sup.on = true → mv < 18000 ∨ 32000 < mv →
      Runs (.ioSupplyOutOfWindow t b mv) s fun v =>
        v.sup.uvSeen = true ∧ (if b then v.sup.iobOk = false else v.sup.ioaOk = false) ∧ v.slb.supplyTrip = true ∧
        v.slb.due = s.slb.due ++ [{ src := 0x10, sto := true }]) ∧
    (∀ (t a b : Nat) (s : State), s.sup.on = true → 19200 ≤ a ∧ a ≤ 30000 → 19200 ≤ b ∧ b ≤ 30000 →
      Runs (.ioSupplyRecovered t a b) s fun v => v.slb.supplyTrip = false ∧ v.sup.ioaOk = true ∧ v.sup.iobOk = true) ∧
    (∀ (t : Nat) (s : State), s.sup.on = true →
      exec (.dieTempWarning t) s = .next (settle ((s.at t).evName 0x00 "DIE_TEMP" 2 noSub 100))) ∧
    (∀ (t : Nat) (s : State), s.sup.on = true → s.sup.thermal = false → s.sys.powerFail = false → s.sys.state = .run →
      Runs (.thermalTrip t) s fun v =>
        v.sup.thermal = true ∧ v.sys.state = .start ∧ v.sys.tqen = false ∧ v.slb.permit = false ∧
        v.slb.chainCmd = [false, false] ∧ v.mem = s.mem) ∧
    (∀ (t : Nat) (s : State), s.sup.on = true → s.sup.thermal = true → s.sys.powerFail = false → s.sys.state = .start →
      Runs (.thermalRelease t) s fun v =>
        v.sup.thermal = false ∧ v.sys.state = .start ∧ v.start.stage = 0 ∧ v.start.warm = false ∧ v.mem = [])

/-- R47: the only effect of DBG_PRES_N is an event log entry. -/
def Obligations.ProbePresenceOnlyLogs : Prop :=
  ∀ (t : Nat) (low : Bool) (s : State), s.sup.on = true → s.dbg.pres ≠ low →
    exec (.dbgPresChange t low) s =
        .next (settle (((s.at t).onDbg fun d => { d with pres := low }).ev 0x1201 0 noSub (if low then 0 else 1))) ∧
      Runs (.dbgPresChange t low) s fun v => v.dbg.enabled = s.dbg.enabled ∧ v.sys = (s.at t).sys

/-- R26, R49 and R50. -/
def Obligations.SealChangesTripInRun : Prop :=
  (∀ (t sw : Nat) (on : Bool) (s : State), sw < 4 → s.sys.state = .run → s.sys.pendTrips = [] →
      s.secrets.run ≠ some (maskOf (setN s.seals.agreed sw on)) →
      Runs (.sealSwitchChange t sw on on) s fun v =>
        v.seals.agreed = setN s.seals.agreed sw on ∧ v.sys.pendTrips = [{ src := 0x0D, sto := false }]) ∧
    (∀ (t sw i : Nat) (s : State), sw < 4 → s.sys.state = .run → s.sys.pendTrips = [] → s.shaped →
      getN s.seals.since sw = some i → i + 50 * ms ≤ (s.at t).now →
      Runs (.sealContactDisagree t sw) s fun v =>
        v.seals.bad = setN s.seals.bad sw true ∧ v.sys.pendTrips = [{ src := 0x0D, sto := false }]) ∧
    (∀ (t : Nat) (s : State), s.sup.on = true → s.seals.open_ = false → s.sys.state = .run → s.sys.pendTrips = [] →
      Runs (.tamperLoopOpen t) s fun v =>
        v.seals.open_ = true ∧ v.sys.pendTrips = [{ src := 0x0D, sto := false }]) ∧
    (∀ (t : Nat) (s : State),
      exec (.tamperCoverFitted t) s = .next (settle ((s.at t).onSeals fun y => { y with open_ := false })))

/-- R14, R20, R21 and the heartbeat of R368. -/
def Obligations.SpTimersActAsStated : Prop :=
  (∀ (t : Nat) (s : State), (s.at t).sys.degRun = true → (s.at t).degLimit ≤ (s.at t).sys.degElapsed →
      exec (.degradedTimerExpiry t) s = .next (settle ((s.at t).onSys fun y => { y with degDue := true }))) ∧
    (∀ (t i : Nat) (s : State), s.sys.ss1At = some i → i + ((s.at t).ss1Longest + 10 * ms) ≤ (s.at t).now →
      s.stopped = false →
      Runs (.tqenSs1Overdue t) s fun v =>
        v.sys.tqen = false ∧ ∀ n : Nat, v.slb.stoPin.getD n false = false ∧ v.slb.brkPin.getD n false = false) ∧
    (∀ (t i : Nat) (s : State), s.sys.armedAt = some i → i + 30 * sec ≤ (s.at t).now →
      exec (.restartArmingLapse t) s = .next (settle ((s.at t).onSys fun y => { y with armedAt := none }))) ∧
    (∀ (t : Nat) (s : State), (s.at t).spRuns = true → s.sys.powerFail = true →
      exec (.spCycle t) s = .next (settle ((s.at t).onSys fun y => { y with tqen := false }))) ∧
    (∀ (t : Nat) (s : State), (s.at t).spRuns = true → s.sys.powerFail = false → s.sys.state = .doldrums →
      Runs (.spCycle t) s fun v =>
        v.sys.state = .doldrums ∧ v.sys.tqen = false ∧ v.sys.cycle = (s.sys.cycle + 1) % 2 ^ 32 ∧
        v.slb.link.getLast?.map (·.beat) = some (s.sys.cycle % 256))

/-- R27 and R30, said of the one operation that resolves a trip in an SP cycle. -/
def Obligations.TripSourceIsTheFirst : Prop :=
  (∀ (own : Bool) (x : Trip) (s : State), s.sys.state.permits = true →
      (s.takeTrip own x).sys.state = .halted ∧ (s.takeTrip own x).sys.tripSrc = x.src ∧ (s.takeTrip own x).sys.armedAt = none) ∧
    (∀ (own : Bool) (x : Trip) (s : State), s.sys.state = .halted →
      (s.takeTrip own x).sys.state = .halted ∧ (s.takeTrip own x).sys.tripSrc = s.sys.tripSrc ∧
        (s.takeTrip own x).ret = (s.ev 0x0002 4 noSub x.src).ret) ∧
    (∀ (own : Bool) (x : Trip) (s : State), s.sys.state = .start ∨ s.sys.state = .doldrums →
      s.takeTrip own x = if own then (s.ev 0x0002 4 noSub x.src).holdStop x.sto x.src else s.ev 0x0002 4 noSub x.src) ∧
    (∀ (sto : Bool) (src : Nat) (s : State),
      (s.holdStop sto src).sys.state = s.sys.state ∧ (s.holdStop sto src).sys.tqen = s.sys.tqen ∧
        (s.holdStop sto src).sys.req = max s.sys.req (if sto then 2 else 1))

/-- S0, S1 and S2, while the stage is open (`State.inTime`). -/
def Obligations.StagesS0ToS2PassAndFail : Prop :=
  (∀ (t : Nat) (r : S0Result) (s : State), (s.at t).inTime 0 → s.start.counted = true → r.selfTest = true → r.holdup = true →
      Runs (.stageS0 t r) s fun v => v.start.stage = 1 ∧ v.start.stageAt = (s.at t).now ∧ v.sup.holdup = true) ∧
    (∀ (t : Nat) (r : S0Result) (s : State), (s.at t).inTime 0 → s.start.counted = true → r.selfTest = false →
      Runs (.stageS0 t r) s fun v => v.start.holdAt = some (s.at t).now ∧ v.nvm.hist = (0x0010 :: s.nvm.hist).take 3) ∧
    (∀ (t : Nat) (r : S0Result) (s : State), (s.at t).inTime 0 → s.start.counted = false →
      Runs (.stageS0 t r) s fun v => v.sys.state = .doldrums ∧ v.hq.opened = true ∧ v.psm.state = .calm) ∧
    (∀ (t : Nat) (r : S1Result) (s : State), (s.at t).inTime 1 → r.romCrc = true → r.fwSignature = true →
      s.nvm.floor ≤ r.fwVersion →
      exec (.stageS1 t r) s =
        .next (settle ((s.at t).onStart fun x => { x with fw := r.fwVersion, stage := 2, stageAt := (s.at t).now }))) ∧
    (∀ (t : Nat) (r : S1Result) (s : State), (s.at t).inTime 1 → r.romCrc = false ∨ r.fwSignature = false ∨ r.fwVersion < s.nvm.floor →
      Runs (.stageS1 t r) s fun v => v.start.holdAt = some (s.at t).now ∧ v.start.stage = 1 ∧ v.start.fw = s.start.fw) ∧
    (∀ (t : Nat) (r : S2Result) (s : State), (s.at t).inTime 2 → (s.at t).retValid r = true →
      Runs (.stageS2 t r) s fun v =>
        v.start.stage = 3 ∧ v.ret.gen = (s.ret.gen + 1) % 65536 ∧ v.ret.lost = false ∧ v.ret.streams = s.ret.streams ∧
        v.ret.results = s.ret.results ∧ v.ret.token = s.ret.token) ∧
    (∀ (t : Nat) (r : S2Result) (s : State), (s.at t).inTime 2 → (s.at t).retValid r = false → r.faultAfterZero = false →
      Runs (.stageS2 t r) s fun v =>
        v.start.stage = 3 ∧ v.ret.lost = true ∧ v.ret.journal = [] ∧ v.ret.streams = s.nvm.cpStream.map resumeLast ∧
        v.ret.results = s.nvm.cpResult.map resumeLast ∧ v.ret.token = resumeLast s.nvm.cpToken ∧ v.rtc.utc = 0)

/-- S3, S4 and S5, while the stage is open. -/
def Obligations.StagesS3ToS5PassAndFail : Prop :=
  (∀ (t : Nat) (r : S3Result) (s : State), (s.at t).inTime 3 → r.rows % 1024 = 1023 → s.dbg.halted.any id = false →
      s.dbg.spHalted = false →
      Runs (.stageS3 t r) s fun v =>
        v.start.stage = 4 ∧ (∀ l ∈ v.vane.lanes, l.ok = true) ∧ v.start.s3Bits = 1023 ∧ v.cvu = cvuStart) ∧
    (∀ (t : Nat) (r : S3Result) (s : State), (s.at t).inTime 3 → s.dbg.halted.any id = true ∨ s.dbg.spHalted = true →
      Runs (.stageS3 t r) s fun v => v.start.holdAt = some (s.at t).now ∧ v.nvm.hist = (0x0303 :: s.nvm.hist).take 3) ∧
    (∀ (t : Nat) (r : S4Result) (s : State), (s.at t).inTime 4 → (∀ i < 10, bit r.checks i = true) →
      getN s.slb.outSeen 0 = false → getN s.slb.outSeen 1 = false → s.slb.supplyTrip = false →
      ((List.range 16).filter fun n => bit r.coreFail n).length < 3 → s.dbg.halted.any id = false → s.dbg.spHalted = false →
      s.shaped →
      Runs (.stageS4 t r) s fun v =>
        v.start.stage = 5 ∧ ∀ n < 16, (getN v.aud.cores n).state = if bit r.coreFail n then .fenced else .admitted) ∧
    (∀ (t : Nat) (r : S4Result) (s : State), (s.at t).inTime 4 → (∀ i < 10, bit r.checks i = true) →
      getN s.slb.outSeen 0 = false → getN s.slb.outSeen 1 = false → s.slb.supplyTrip = false →
      3 ≤ ((List.range 16).filter fun n => bit r.coreFail n).length → s.dbg.halted.any id = false → s.dbg.spHalted = false →
      s.shaped →
      Runs (.stageS4 t r) s fun v =>
        v.start.holdAt = some (s.at t).now ∧ v.nvm.hist = (0x0411 :: s.nvm.hist).take 3 ∧
        ∀ n < 16, bit r.coreFail n = true → (getN v.aud.cores n).state = .fenced) ∧
    (∀ (t : Nat) (r : S5Result) (s : State), (s.at t).inTime 5 → s.outputsSound → s.start.warm = false →
      r.trained = true → r.tested = true → r.swept = true → r.beuOk = true →
      Runs (.stageS5 t r) s fun v =>
        v.start.stage = 6 ∧ (∀ k ∈ v.beu.stks, k.swept = true) ∧
        ∀ a : Nat, memGet v.mem a = if 0x1000000000 ≤ a ∧ a < 0x1800000000 then 0 else memGet s.mem a)

/-- S6, S7 and S8, while the stage is open. -/
def Obligations.StagesS6ToS8CompleteTheStart : Prop :=
  (∀ (t : Nat) (r : S6Result) (s : State), (s.at t).inTime 6 → s.outputsSound → r.storeReadable = true →
      r.weightsWritable = true → s.cfg.admitted = false →
      let c := (s.at t).recoverEntry.roleLost.admitSlot s.activeSlot
      Runs (.stageS6 t r) s fun v =>
        v.start.stage = 7 ∧ v.cfg.result = c.1 ∧ v.cfg.subject = c.2 ∧ v.cfg.atStart = true ∧ v.cfg.admitted = decide (c.1 = 0)) ∧
    (∀ (t : Nat) (r : S7Result) (s : State), (s.at t).inTime 7 → s.outputsSound → r.handshake = true → s.cfg.admitted = false →
      r.missingLink = none → r.ptpRequired = false → s.dbg.held = none →
      Runs (.stageS7 t r) s fun v =>
        v.start.stage = 8 ∧ v.start.s7Done = true ∧ v.start.dest = some .commission ∧
        v.slb.paramCrc = (s.at t).params.crc ∧ v.clk.trigs = s.clk.trigs.map (Trig.arm (s.at t).dev)) ∧
    (∀ (t : Nat) (r : S7Result) (s u : State), (s.at t).inTime 7 → s.outputsSound → r.handshake = true → s.cfg.admitted = true →
      r.missingLink = none → r.ptpRequired = false → (s.at t).slbParams = some u → bit u.ring.flags 0 = false ∨ u.xwl.up = true →
      exec (.stageS7 t r) s = .next (settle (u.onSlb fun b => { b with paramCrc := u.params.crc }).endS7)) ∧
    (∀ (t : Nat) (r : S7Result) (s : State), (s.at t).inTime 7 → s.outputsSound → r.handshake = false →
      Runs (.stageS7 t r) s fun v => v.start.holdAt = some (s.at t).now ∧ v.nvm.hist = (0x0710 :: s.nvm.hist).take 3) ∧
    (∀ (t : Nat) (dest : St) (s : State), (s.at t).inTime 8 → s.outputsSound → s.dbg.held = none → s.start.dest = some dest →
      s.fencedCount = 0 →
      Runs (.stageS8 t true) s fun v =>
        v.sys.state = dest ∧ v.start.stage = 0xF ∧ v.start.ackPending = true ∧ v.hq.opened = true ∧ v.ret.cleanOff = false)

/-- R93, R108, R109 and R114, and the diagnostic frame. -/
def Obligations.StartLimitsHoldAndCounter : Prop :=
  (∀ (t : Nat) (s : State), (s.at t).inStage s.start.stage = true → s.start.stageAt + stageLimit s.start.stage ≤ (s.at t).now →
      Runs (.stageTimeLimit t) s fun v =>
        v.start.holdAt = some (s.at t).now ∧ v.nvm.hist = ((s.start.stage * 256 + 0x01) :: s.nvm.hist).take 3) ∧
    (∀ (t : Nat) (s : State), (s.at t).inStage s.start.stage = true → s.start.s0At + 20 * sec ≤ (s.at t).now →
      Runs (.startWatchdog t) s fun v =>
        v.start.holdAt = some (s.at t).now ∧ v.nvm.hist = ((s.start.stage * 256 + 0x02) :: s.nvm.hist).take 3) ∧
    (∀ (t i : Nat) (s : State), s.sup.on = true → s.sys.state = .start → s.start.holdAt = some i → i + sec ≤ (s.at t).now →
      s.sys.powerFail = false → s.sys.spHeld = false → s.sup.thermal = false → s.start.holdLast = false → (s.at t).counter < 3 →
      Runs (.stageFailHoldExpiry t) s fun v =>
        v.sys.state = .start ∧ v.start.stage = 0 ∧ v.start.warm = true ∧ v.counter = (s.at t).counter + 1) ∧
    (∀ (t i : Nat) (s : State), s.sup.on = true → s.sys.state = .start → s.start.holdAt = some i → i + sec ≤ (s.at t).now →
      s.sys.powerFail = false → s.sys.spHeld = false → s.sup.thermal = false → s.start.holdLast = true →
      Runs (.stageFailHoldExpiry t) s fun v => v.sys.state = .doldrums ∧ v.start.holdAt = none) ∧
    (∀ (t i : Nat) (s : State), s.sup.on = true → s.slb.holdAt = some i → i + 60 * sec ≤ (s.at t).now →
      (s.at t).clearFree = true → Runs (.startCounterClear { t := t }) s fun v => v.counter = 0 ∧ v.slb.holdAt = none) ∧
    (∀ (t i : Nat) (x : ClearCut) (s : State), s.sup.on = true → s.slb.holdAt = some i → i + 60 * sec ≤ (s.at t).now →
      (s.at t).clearFree = true → x ≠ .whole → s.nvm.counter.bOk = true →
      Runs (.startCounterClear { t := t, cut := x }) s fun v => v.counter = s.nvm.counter.b ∧ v.slb.holdAt = s.slb.holdAt) ∧
    (∀ (t : Nat) (s : State), (s.at t).spRuns = true → s.sys.state = .doldrums → s.start.diagAt = none →
      Runs (.doldrumsDiagnosticFrame t) s fun v =>
        v.start.diagAt = some (s.at t).now ∧ ∃ b : Bytes, v.out = [.eth 0 0x88B5 b])

/-- R77 with Table 3.3, and the release of R91. -/
def Obligations.ClockMonitorsAct : Prop :=
  (∀ (t : Nat) (s : State), s.sup.on = true → s.clk.rtcOk = true →
      Runs (.clockMonitorWindow t .rtc false) s fun v => v.clk.rtcOk = false ∧ v.clk.failSeen = true ∧ v.rtc.valid = false) ∧
    (∀ (t : Nat) (s : State), s.sup.on = true → s.clk.ptpOk = true →
      Runs (.clockMonitorWindow t .ptp false) s fun v =>
        v.clk.ptpOk = false ∧ v.clk.backup = true ∧ v.clk.gm = none ∧ v.clk.sync = .free) ∧
    (∀ (t : Nat) (s : State), s.sup.on = true → s.clk.acOk = true → (s.at t).acUnchecked = false →
      exec (.clockMonitorWindow t .ac false) s =
        .next (settle ((s.at t).onClk fun k =>
          { k with acOk := false, failSeen := true,
                   okSince := if k.spOk && k.fabOk then k.okSince else none }).acFail)) ∧
    (∀ (n : Nat) (s : State), n < 16 → s.shaped → (getN (s.fence n 7).aud.cores n).state = .fenced) ∧
    (∀ (t : Nat) (s : State), s.sup.on = true → s.clk.spOk = true → s.sys.powerFail = false → s.sys.state = .run →
      Runs (.clockMonitorWindow t .sp false) s fun v =>
        v.clk.spOk = false ∧ v.sys.spHeld = true ∧ v.sys.state = .start ∧ v.sys.tqen = false ∧ v.slb.permit = false ∧
        v.start.clkHeld = true) ∧
    (∀ (t : Nat) (c : ClockId) (s : State), s.sup.on = true → c = .rtc ∨ c = .ptp ∨ c = .xwl → s.clk.okOf c = false →
      exec (.clockMonitorWindow t c true) s = .next (settle ((s.at t).onClk (Clk.setOk c true)))) ∧
    (∀ (t i : Nat) (s : State), s.sup.on = true → s.sys.spHeld = true → s.clk.spOk = true → s.clk.fabOk = true →
      s.clk.okSince = some i → i + 10 * ms ≤ (s.at t).now → s.sys.powerFail = false → s.sys.state = .start →
      s.start.clkHeld = true →
      Runs (.clockRecoveryRelease t) s fun v =>
        v.sys.spHeld = false ∧ v.sys.state = .start ∧ v.start.stage = 0 ∧ v.start.warm = true)

/-- R63 to R65. -/
def Obligations.GptpSelectsLocksAndHoldsOver : Prop :=
  (∀ (t : Nat) (y : PtpSync) (s : State), s.ptpOn y.port = true → s.clk.gm ≠ some y.gm →
      Runs (.bestMasterClockSelection t y) s fun v =>
        v.clk.gm = some y.gm ∧ v.clk.port = y.port ∧ v.clk.offset = sat32 y.offset ∧
        v.clk.inLock = (if y.offset.natAbs ≤ 1000 then 1 else 0) ∧ v.clk.sync = .free) ∧
    (∀ (t : Nat) (y : PtpSync) (s : State), s.ptpOn y.port = true → s.clk.gm = some y.gm → s.clk.port = y.port →
      9 ≤ s.clk.inLock → y.offset.natAbs ≤ 1000 → s.start.s7Done = false →
      Runs (.ptpSyncReceived t y) s fun v =>
        v.clk.sync = .locked ∧ v.clk.gm = some y.gm ∧ v.clk.dev = (((s.at t).clk.dev : Int) + y.offset).toNat) ∧
    (∀ (t port : Nat) (s : State), s.sup.on = true → port < 2 → s.clk.port = port → (getN s.clk.gms port).isSome = true →
      getN s.clk.gms (1 - port) = none → s.clk.sync ≠ .unset →
      Runs (.ptpGrandmasterLost t port) s fun v =>
        v.clk.sync = .holdover ∧ v.clk.gm = none ∧ v.clk.lostAt = some (s.at t).now ∧ v.clk.addend = s.clk.addend) ∧
    (∀ (t i : Nat) (s : State), s.clk.sync = .holdover → s.clk.lostAt = some i → i + 60 * sec ≤ (s.at t).now →
      Runs (.ptpHoldoverExpiry t) s fun v => v.clk.sync = .free) ∧
    (∀ (t i : Nat) (s : State), s.sup.on = true → s.clk.portsDiffer = true → s.clk.disSince = some i → i + 10 * sec ≤ (s.at t).now →
      s.clk.disLogged = false →
      exec (.ptpPortDisagree t (getN s.clk.offs 0 - getN s.clk.offs 1)) s =
        .next (settle (((s.at t).onClk fun c => { c with disLogged := true }).ev 0x0103 1 noSub
          (ofSigned 64 (getN s.clk.offs 0 - getN s.clk.offs 1)))))

/-- R70. -/
def Obligations.TriggersAreDrivenOnlyWhereAllowed : Prop :=
  ∀ (t n d : Nat) (s : State), n < 8 → (getN s.clk.trigs n).en = true → (getN s.clk.trigs n).due = some d →
    d ≤ (s.at t).dev → (s.at t).dev < d + 8 →
    (s.sys.state = .commission ∨ s.sys.state = .run ∨ s.sys.state = .degraded ∨ s.sys.state = .halted ∨
        (s.sys.state = .start ∧ s.start.s7Done = true) →
      Runs (.triggerEdge t n) s fun v => v.out = [.trig n (!(getN s.clk.trigs n).pol)]) ∧
    (s.sys.state = .off ∨ s.sys.state = .doldrums ∨ (s.sys.state = .start ∧ s.start.s7Done = false) →
      Runs (.triggerEdge t n) s fun v => v.out = [] ∧ v.clk = (s.at t).clk)

/-- R67 and R68. -/
def Obligations.TriggerScheduleHolds : Prop :=
  (∀ (t n d : Nat) (s : State), n < 8 → s.shaped → (getN s.clk.trigs n).en = true →
      (getN s.clk.trigs n).due = some d → (s.at t).trigOn = true → d ≤ (s.at t).dev → (s.at t).dev < d + 8 →
      1000000 ≤ (getN s.clk.trigs n).periodV →
      Runs (.triggerEdge t n) s fun v =>
        (getN v.clk.trigs n).last = some d ∧ (getN v.clk.trigs n).pulseEnd = d + (getN s.clk.trigs n).width ∧
        ∃ x k, (getN v.clk.trigs n).due = some x ∧ (s.at t).dev + 1000 ≤ x ∧
          x = (getN v.clk.trigs n).start + k * (getN v.clk.trigs n).period ∧
          ∀ j, (s.at t).dev + 1000 ≤ (getN v.clk.trigs n).start + j * (getN v.clk.trigs n).period → k ≤ j) ∧
    (∀ (t n d : Nat) (s : State), n < 8 → s.shaped → (getN s.clk.trigs n).en = true →
      (getN s.clk.trigs n).due = some d → (s.at t).trigOn = true → d + 8 ≤ (s.at t).dev →
      Runs (.triggerEdge t n) s fun v =>
        v.out = [] ∧ (getN v.clk.trigs n).last = (getN s.clk.trigs n).last ∧
        (getN v.clk.trigs n).due = some ((getN s.clk.trigs n).nextAt (s.at t).dev) ∧
        (getN v.clk.trigs n).missed =
          satAdd 32 (getN s.clk.trigs n).missed (((getN s.clk.trigs n).nextAt (s.at t).dev - d) / (getN s.clk.trigs n).period)) ∧
    (∀ (t n : Nat) (s : State), n < 8 → s.shaped → (getN s.clk.trigs n).pulse = true →
      (getN s.clk.trigs n).pulseEnd ≤ (s.at t).dev →
      Runs (.triggerPulseEnd t n) s fun v =>
        v.out = [.trig n (getN s.clk.trigs n).pol] ∧ (getN v.clk.trigs n).pulse = false)

/-- R69 and R86. -/
def Obligations.TriggerWritesTakeEffectAsStated : Prop :=
  (∀ (t n v : Nat) (s : State), s.regsUp = true → n < 8 → s.shaped →
      Runs (.trigStartWrite t n v) s fun u =>
        (getN u.clk.trigs n).startV = v % 2 ^ 64 ∧
        ((getN s.clk.trigs n).en = true → (getN s.clk.trigs n).due.isSome = true →
          (getN u.clk.trigs n).start = (getN s.clk.trigs n).start) ∧
        ((getN s.clk.trigs n).en = false → (getN u.clk.trigs n).start = v % 2 ^ 64)) ∧
    (∀ (t n v : Nat) (s : State), s.regsUp = true → n < 8 → s.shaped → v < 2 ^ 34 →
      Runs (.trigPeriodWrite t n v) s fun u =>
        if 1000000 ≤ v ∧ v ≤ 10000000000 ∧ (getN s.clk.trigs n).widthV < v then
          (getN u.clk.trigs n).periodV = v ∧ (getN u.clk.trigs n).bad = (getN s.clk.trigs n).bad
        else getN u.clk.trigs n = { getN s.clk.trigs n with bad := true }) ∧
    (∀ (t n v : Nat) (s : State), s.regsUp = true → n < 8 → s.shaped → v < 2 ^ 20 →
      Runs (.trigWidthWrite t n v) s fun u =>
        if 1000 ≤ v ∧ v ≤ 1000000 ∧ v < (getN s.clk.trigs n).periodV then
          (getN u.clk.trigs n).widthV = v ∧ (getN u.clk.trigs n).bad = (getN s.clk.trigs n).bad
        else getN u.clk.trigs n = { getN s.clk.trigs n with bad := true }) ∧
    (∀ (t n v : Nat) (s : State), s.regsUp = true → n < 8 → s.shaped → bit v 0 = true →
      Runs (.trigCtrlWrite t n v) s fun u =>
        if (getN s.clk.trigs n).ranges = true then (getN u.clk.trigs n).en = true ∧ (getN u.clk.trigs n).pol = bit v 1
        else getN u.clk.trigs n = { getN s.clk.trigs n with bad := true }) ∧
    (∀ (t n v : Nat) (s : State), s.regsUp = true → n < 8 → s.shaped → bit v 0 = false →
      Runs (.trigCtrlWrite t n v) s fun u =>
        (getN u.clk.trigs n).en = false ∧ (getN u.clk.trigs n).due = none ∧
        (getN u.clk.trigs n).pulse = (getN s.clk.trigs n).pulse)

/-- R79 and R80. -/
def Obligations.CalendarCountsTenths : Prop :=
  (∀ (t : Nat) (s : State), s.rtc.following = false → s.clk.rtcOk = true → s.rtc.cal ≠ calLast →
      exec (.rtcTenthTick t) s = .next (settle ((s.at t).onRtc fun r =>
        { r with cal := calAt (s.rtc.cal.tenthsOf + 1), ended := decide (calAt (s.rtc.cal.tenthsOf + 1) = calLast) }))) ∧
    (∀ (t : Nat) (s : State), s.rtc.following = false → s.clk.rtcOk = true → s.rtc.cal = calLast →
      exec (.rtcTenthTick t) s = .next (settle ((s.at t).onRtc fun r => { r with ended := true }))) ∧
    (∀ (t : Nat) (s : State), s.clk.rtcOk = true → s.rtc.following = true → s.sup.on = true → s.sys.state ≠ .off →
      Runs (.rtcTenthTick t) s fun v => v.rtc.cal = (s.at t).calFollow ∧ v.rtc.followDue = false) ∧
    (∀ (t : Nat) (s : State), s.clk.rtcOk = false → Runs (.rtcTenthTick t) s fun v => v.rtc = s.rtc)

/-- R138. That a payload out of its order is FORMAT is the model's reading (log entry 57). -/
def Obligations.UploadsWriteTheStandbySlotOnly : Prop :=
  (∀ (t : Nat) (q : CfgReq) (s : State), (s.at t).takes q 0x10 → (s.at t).knows q → s.sys.state ∈ uploadStates →
      s.cfg.session = none → s.shaped →
      Runs (.uploadBegin t q) s fun v =>
        v.cfg.session = some (serialNext s.cfg.sessions, (s.at t).now) ∧
        getN v.cfg.slots s.standby = { getN s.cfg.slots s.standby with mark := .empty } ∧
        v.out = answerTo q 0x10 0 (beBytes 4 (serialNext s.cfg.sessions))) ∧
    (∀ (t : Nat) (q : CfgReq) (s : State), (s.at t).takes q 0x10 → (s.at t).knows q → s.sys.state ∈ uploadStates →
      (s.at t).uploading = true →
      Runs (.uploadBegin t q) s fun v =>
        v.cfg.session = s.cfg.session ∧ v.cfg.slots = s.cfg.slots ∧ v.out = answerTo q 0x10 5 []) ∧
    (∀ (t : Nat) (q : CfgReq) (o : Nat) (d : Bytes) (s : State), (s.at t).takes q 0x11 →
      s.sys.state ∈ uploadStates → (s.at t).inSession q = true → d.length ≤ 1400 → o ≤ s.cfg.upTo → s.shaped →
      let old := getN s.cfg.slots s.standby
      let n := sizeSoFar old.image o d
      o + d.length ≤ n + 268435456 →
      Runs (.uploadData t q true o d) s fun v =>
        v.out = answerTo q 0x11 0 [] ∧ v.cfg.session = s.cfg.session.map (fun x => (x.1, (s.at t).now)) ∧
        let new := getN v.cfg.slots s.standby
        new.mark = old.mark ∧
          (∀ a : Nat, memGet new.image a =
            if o ≤ a ∧ a < o + d.length ∧ a < n then d.getD (a - o) 0 else memGet old.image a) ∧
          ∀ a : Nat, memGet new.weights a =
            if o ≤ n + a ∧ n + a < o + d.length then d.getD (n + a - o) 0 else memGet old.weights a) ∧
    (∀ (t : Nat) (q : CfgReq) (b : Bool) (o : Nat) (d : Bytes) (s : State), (s.at t).takes q 0x11 →
      s.sys.state ∈ uploadStates → (s.at t).inSession q = true → b = false ∨ s.cfg.upTo < o →
      Runs (.uploadData t q b o d) s fun v => v.out = answerTo q 0x11 7 [] ∧ v.cfg.slots = s.cfg.slots) ∧
    (∀ (t : Nat) (q : CfgReq) (s : State), (s.at t).takes q 0x12 → s.sys.state ∈ uploadStates → (s.at t).inSession q = true →
      s.shaped →
      Runs (.uploadEnd t q) s fun v =>
        v.out = answerTo q 0x12 0 [] ∧ v.cfg.session = none ∧
        (getN v.cfg.slots s.standby).mark = if ((s.at t).wake.verifySlot s.standby).1 = 0 then .verified else .invalid) ∧
    (∀ (t : Nat) (x : Nat × Nat) (s : State), s.cfg.session = some x → x.2 + 10 * sec ≤ (s.at t).now →
      exec (.uploadSessionLapse t) s = .next (settle ((s.at t).onCfg fun c => { c with session := none }))) ∧
    (∀ (t : Nat) (q : CfgReq) (b : Bool) (o : Nat) (d : Bytes) (c : Instr) (s : State),
      c = .uploadBegin t q ∨ c = .uploadData t q b o d ∨ c = .uploadEnd t q ∨ c = .uploadSessionLapse t →
      s.activeSlot < 2 →
      Runs c s fun v => v.activeSlot = s.activeSlot ∧ getN v.cfg.slots s.activeSlot = getN s.cfg.slots s.activeSlot)

/-- R139, R140 and the restart of Table 1.5. -/
def Obligations.ActivationAndRestartBeginAWarmStart : Prop :=
  (∀ (t : Nat) (q : CfgReq) (s : State), (s.at t).takes q 0x20 → (s.at t).knows q → s.sys.state = .commission →
      s.cfg.session = none → s.sealClass = .program → 2 ≤ s.logFree → s.slb.toSp = [] → s.sys.pendTrips = [] →
      Runs (.activate t q) s fun v =>
        let r := ((s.at t).entered).admitSlot s.standby
        (∃ e, v.cfg.changes = s.cfg.changes ++ [e] ∧ e.kind = 1 ∧ e.oper = q.oper ∧ e.result = r.1) ∧
          if r.1 = 0 then
            v.activeSlot = s.standby ∧ v.sys.state = .start ∧ v.start.stage = 0 ∧ v.start.warm = true ∧ v.cfg.result = 0 ∧
              v.cfg.slots = s.cfg.slots ∧ ∃ l, v.out = answerTo q 0x20 0 [] ++ l
          else
            v.cfg.role = s.cfg.role ∧ v.sys.state = .commission ∧ v.cfg.result = r.1 ∧ v.cfg.subject = r.2 ∧
              v.out = answerTo q 0x20 8 (beBytes 2 r.1)) ∧
    (∀ (t : Nat) (q : CfgReq) (s : State), (s.at t).takes q 0x21 → (s.at t).knows q → s.sys.state = .commission →
      Runs (.restart t q) s fun v =>
        v.sys.state = .start ∧ v.start.stage = 0 ∧ v.start.warm = true ∧ v.cfg.role = s.cfg.role ∧
        ∃ l, v.out = answerTo q 0x21 0 [] ++ l)

/-- R133 and R134. -/
def Obligations.SecretsChangeAsStated : Prop :=
  (∀ (t p : Nat) (q : CfgReq) (k w : Bytes) (s : State), (s.at t).takes q 0x30 → (s.at t).secrets.pass = none →
      s.sys.state = .commission → s.sealClass = .program → k.length = 32 → passwordOk w = true → 1 ≤ p → p ≤ 14 →
      1 ≤ s.logFree →
      Runs (.enrol t q (some k) (some w) (some p)) s fun v =>
        v.secrets.key = some k ∧ v.secrets.run = some p ∧ v.out = answerTo q 0x30 0 [] ∧
        (∃ salt : Bytes, salt.length = 16 ∧ v.secrets.pass = some (salt, sha256 (salt ++ w))) ∧
        ∃ e, v.cfg.changes = s.cfg.changes ++ [e] ∧ e.kind = 3 ∧ e.oper = q.oper) ∧
    (∀ (t : Nat) (q : CfgReq) (w : Bytes) (s : State), (s.at t).takes q 0x31 → (s.at t).knows q →
      s.sys.state = .commission → s.sealClass = .program → passwordOk w = true → 1 ≤ s.logFree →
      Runs (.setPassword t q w) s fun v =>
        v.secrets.key = (s.at t).secrets.key ∧ v.secrets.run = (s.at t).secrets.run ∧ v.out = answerTo q 0x31 0 [] ∧
        (∃ salt : Bytes, salt.length = 16 ∧ v.secrets.pass = some (salt, sha256 (salt ++ w))) ∧
        ∃ e, v.cfg.changes = s.cfg.changes ++ [e] ∧ e.kind = 4 ∧ e.oper = q.oper) ∧
    (∀ (t : Nat) (q : CfgReq) (h : Bytes × Bytes) (s : State), (s.at t).takes q 0x21 → s.sys.state = .commission →
      (s.at t).secrets.lock = 0 → (s.at t).secrets.pass = some h → sha256 (h.1 ++ q.password) ≠ h.2 →
      (s.at t).secrets.wrong = 4 →
      Runs (.restart t q) s fun v =>
        v.secrets.wrong = 5 ∧ v.secrets.lock = 600 * sec ∧ v.secrets.pass = some h ∧ v.sys.state = .commission ∧
        v.out = answerTo q 0x21 1 []) ∧
    (∀ (t : Nat) (q : CfgReq) (s : State), (s.at t).takes q 0x21 → (s.at t).secrets.lock ≠ 0 →
      Runs (.restart t q) s fun v => v.secrets = (s.at t).secrets ∧ v.sys.state = s.sys.state ∧ v.out = answerTo q 0x21 2 []) ∧
    (∀ (t : Nat) (s : State), s.sup.on = true → (s.at t).secrets.lock = 0 → 5 ≤ (s.at t).secrets.wrong →
      Runs (.lockoutEnd t) s fun v => v.secrets = { (s.at t).secrets with wrong := 0 })

/-- R135 with its caution. -/
def Obligations.FieldResetNeedsItsThreeConditions : Prop :=
  (∀ (t : Nat) (q : CfgReq) (c : Cert) (s : State), (s.at t).takes q 0x70 → s.sys.state = .commission →
      s.sealClass = .program → 1 ≤ s.logFree →
      Runs (.fieldReset t q c) s fun v =>
        v.cfg.slots = s.cfg.slots ∧ v.cfg.role = s.cfg.role ∧
          if (s.at t).certOk c s.dbg.nonce then
            v.secrets.key = none ∧ v.secrets.pass = none ∧ v.secrets.run = none ∧ v.secrets.lock = 0
          else v.secrets = (s.at t).secrets) ∧
    (∀ (t : Nat) (q : CfgReq) (c : Cert) (s : State),
      s.sys.state ≠ .commission ∨ (s.at t).certOk c s.dbg.nonce = false ∨ s.sealClass ≠ .program →
      Runs (.fieldReset t q c) s fun v => v.secrets = (s.at t).secrets ∧ v.cfg.slots = s.cfg.slots) ∧
    (∀ (t : Nat) (q : CfgReq) (s : State), s.sys.state = .doldrums → ¬ (s.at t).knows q →
      Runs (.clearDoldrums t q) s fun v => v.sys.state = .doldrums ∧ v.nvm.counter = s.nvm.counter)

/-- R80, R81, R90, R150 and R121. -/
def Obligations.CalendarAndLogCommandsAct : Prop :=
  (∀ (t x : Nat) (q : CfgReq) (s : State), (s.at t).takes q 0x40 → (s.at t).knows q → s.sys.state ∈ rtcStates →
      (calOf x).ok = true → 1 ≤ s.logFree →
      Runs (.setRtc t q (.load x)) s fun v =>
        v.rtc.cal = calOf x ∧ v.rtc.valid = true ∧ v.rtc.following = false ∧ v.out = answerTo q 0x40 0 [] ∧
        ∃ e, v.cfg.changes = s.cfg.changes ++ [e] ∧ e.kind = 7 ∧ e.oper = q.oper) ∧
    (∀ (t x : Nat) (q : CfgReq) (s : State), (s.at t).takes q 0x40 → (s.at t).knows q → s.sys.state ∈ rtcStates →
      (calOf x).ok = false →
      Runs (.setRtc t q (.load x)) s fun v =>
        v.rtc = { s.rtc with set := x % 2 ^ 64, bad := true } ∧ v.cfg.changes = s.cfg.changes) ∧
    (∀ (t : Nat) (q : CfgReq) (s : State), (s.at t).takes q 0x40 → (s.at t).knows q → s.sys.state ∈ rtcStates →
      Runs (.setRtc t q .follow) s fun v => v.rtc = { s.rtc with following := true, followDue := true }) ∧
    (∀ (t o : Nat) (q : CfgReq) (s : State), (s.at t).takes q 0x41 → (s.at t).knows q → s.sys.state ∈ rtcStates →
      1 ≤ s.logFree →
      Runs (.setUtcOfs t q o) s fun v =>
        v.rtc = { s.rtc with utc := toSigned 16 (o % 65536), followDue := s.rtc.following } ∧ v.out = answerTo q 0x41 0 [] ∧
        ∃ e, v.cfg.changes = s.cfg.changes ++ [e] ∧ e.kind = 7 ∧ e.oper = q.oper) ∧
    (∀ (t : Nat) (q : CfgReq) (s : State), (s.at t).takes q 0x51 → (s.at t).knows q → s.sys.state = .commission →
      s.cfg.exported = true →
      Runs (.clearChangeLog t q) s fun v =>
        v.out = answerTo q 0x51 0 [] ∧ v.cfg.exported = false ∧
        ∃ e, v.cfg.changes = [e] ∧ e.kind = 5 ∧ e.oper = q.oper ∧ e.hashes = [sha256 s.changeBytes]) ∧
    (∀ (t : Nat) (q : CfgReq) (s : State), (s.at t).takes q 0x51 → (s.at t).knows q → s.sys.state = .commission →
      s.cfg.exported = false →
      Runs (.clearChangeLog t q) s fun v => v.cfg.changes = s.cfg.changes ∧ v.out = answerTo q 0x51 4 []) ∧
    (∀ (t : Nat) (q : CfgReq) (s : State), (s.at t).takes q 0x60 → (s.at t).knows q → s.sys.state = .doldrums →
      s.sealClass = .program →
      Runs (.clearDoldrums t q) s fun v =>
        v.sys.state = .start ∧ v.start.stage = 0 ∧ v.start.warm = true ∧ v.counter = 1 ∧ v.nvm.hist = s.nvm.hist ∧
        ∃ l, v.out = answerTo q 0x60 0 [] ++ l)

/-- READ (its payload layout is log entry 49), EXPORT (R505), R151 and R157. -/
def Obligations.ReadExportAndReverifyAnswer : Prop :=
  (∀ (t : Nat) (q : CfgReq) (l : List Nat) (s : State), (s.at t).takes q 0x01 → s.sys.state ≠ .start → l.length ≤ 350 →
      l.all regAddr = true →
      Runs (.read t q l) s fun v => v.out = answerTo q 0x01 0 ((s.at t).readRegs l).1 ∧ v.caps = ((s.at t).readRegs l).2.caps) ∧
    (∀ (t k first n : Nat) (q : CfgReq) (s : State), (s.at t).takes q 0x02 → s.sys.state ≠ .start →
      (s.sys.state = .doldrums → k ≠ 4) → 1 ≤ k → k ≤ 4 →
      Runs (.exportObject t q k first n) s fun v =>
        v.out = (exportFrames k ((s.at t).exportBytes k first n)).map (fun b => .eth q.port 0x88B5 (respFrame 2 q.request 0 b)) ∧
        (k = 3 → first = 0 → n = 0 → v.cfg.exported = true) ∧ v.ret = s.ret) ∧
    (∀ (t : Nat) (s : State), (s.at t).spRuns = true → s.sys.state ∈ rtcStates → (s.at t).hashBad = true →
      s.cfg.hashFail = false →
      exec (.hashReverify t) s = .next (settle
        (((((s.at t).onCfg fun c => { c with hashFail := true }).evOpen 0x13 "HASH_FAIL" noSub 0).bgDone 3).settleWork))) ∧
    (∀ (t : Nat) (q : CfgReq) (l : List Nat) (r : Resp) (s : State), (s.at t).cfgUp q.port = true →
      asksFor q 1 = true →
      ((s.at t).recentResps.find? fun r => r.source == q.source && r.command == 1 && r.request == q.request) = some r →
      exec (.read t q l) s = .next (settle ((s.at t).sendFrames q.port r.frames))) ∧
    (∀ (t : Nat) (q : CfgReq) (w : Bytes) (r : Resp) (s : State), (s.at t).cfgUp q.port = true →
      asksFor q 0x31 = true →
      ((s.at t).recentResps.find? fun r => r.source == q.source && r.command == 0x31 && r.request == q.request) = some r →
      exec (.setPassword t q w) s = .next (settle ((s.at t).sendFrames q.port r.frames)))

/-- R164, R168 and R175. -/
def Obligations.FramesAreStampedSealedOrDropped : Prop :=
  (∀ (t n : Nat) (s : State), (s.at t).streamOn n = true → s.shaped → (s.strm n).slotFor.isSome = true →
      Runs (.frameStart t n) s fun v =>
        (v.strm n).intake.map (·.stamp) = some (s.at t).dev ∧ (v.strm n).seq = (s.strm n).seq ∧
        (v.strm n).drop = (if (s.strm n).intake.isSome then satInc (s.strm n).drop else (s.strm n).drop) ∧ v.mem = s.mem) ∧
    (∀ (t n : Nat) (s : State), (s.at t).streamOn n = true → s.shaped → (s.strm n).slotFor = none → (s.strm n).intake = none →
      Runs (.frameStart t n) s fun v =>
        (v.strm n).intake = none ∧ (v.strm n).drop = satInc (s.strm n).drop ∧ (v.strm n).dropBefore = true) ∧
    (∀ (t n : Nat) (f : FrameIn) (r : StreamRec) (s : State), (s.at t).streamOn n = true → s.shaped → s.img.stream n = some r →
      (s.strm n).intake.isSome = true → f.error = true ∨ f.payload.length ≠ r.frameBytes →
      Runs (.frameEnd t n f) s fun v =>
        (v.strm n).intake = none ∧ (v.strm n).seq = (s.strm n).seq ∧ (v.strm n).drop = satInc (s.strm n).drop ∧
        (v.strm n).dropBefore = true ∧ v.mem = s.mem) ∧
    (∀ (t n k : Nat) (f : FrameIn) (r : StreamRec) (i : Intake) (s : State), (s.at t).streamOn n = true →
      s.img.stream n = some r → (s.strm n).intake = some i → i.lost = false → (s.strm n).slotFor = some k → f.error = false →
      f.payload.length = r.frameBytes → (s.strm n).cvuLost = false → (s.stk 0).fault = false →
      exec (.frameEnd t n f) s = .next (settle ((s.at t).sealFrame n k r i f).settleWork)) ∧
    (∀ (n k : Nat) (r : StreamRec) (i : Intake) (f : FrameIn) (s : State), s.shaped → n < 16 → (s.stk 0).fault = false →
      bit s.img.monitors.fringStreams n = false →
      ((s.sealFrame n k r i f).strm n).seq = serialNext (s.strm n).seq ∧
        getN (s.sealFrame n k r i f).ret.streams n = (if n < s.ret.streams.length then serialNext (s.strm n).seq else 0) ∧
        ∀ a : Nat, a < s.slotAddr n k ∨ s.slotAddr n k + f.payload.length ≤ a →
          ((s.strm n).hist = [] ∨ a < (s.stk 0).vp.base + ((s.stk 0).vp.head + (s.stk 0).vp.queue.length) % 256 * 64 ∨
            (s.stk 0).vp.base + ((s.stk 0).vp.head + (s.stk 0).vp.queue.length) % 256 * 64 + 64 ≤ a) →
          memGet (s.sealFrame n k r i f).mem a = memGet s.mem a)

/-- Table 6.4, R169, R170 and R178. -/
def Obligations.StreamsFollowTable64 : Prop :=
  (∀ (t n : Nat) (r : StreamRec) (p : PendFinal) (l : List PendFinal) (s : State), s.img.stream n = some r →
      (s.strm n).pend = p :: l → (s.at t).streamOn n = true → p.due r ≤ (s.at t).dev →
      exec (.checkFinalStatus t n) s = .next (settle (((s.at t).finalStatus n r p).settleWork))) ∧
    (∀ x : Stream, x.state = .recovering → x.good = 3 →
      (x.afterFrame true).state = .live ∧ (x.afterFrame false).state = .recovering ∧ (x.afterFrame false).good = 0) ∧
    (∀ x : Stream, x.state = .frozen →
      (x.afterFrame true).state = .recovering ∧ (x.afterFrame true).good = 1 ∧ x.afterFrame false = x) ∧
    (∀ (t n : Nat) (r : StreamRec) (s : State), s.img.stream n = some r → (s.at t).streamOn n = true → (s.strm n).state ≠ .lost →
      (s.strm n).sealAt + r.stall * r.period ≤ (s.at t).dev →
      exec (.streamStallExpiry t n) s = .next (settle ((s.at t).loseStream n))) ∧
    (∀ (t n seq : Nat) (l : List Nat) (b : BufDesc) (r : StreamRec) (s : State), s.img.stream n = some r →
      (s.strm n).deliver = seq :: l → (s.at t).streamOn n = true → s.shaped → (s.at t).linkUp = true →
      (getN s.hq.rings n).en = true → (getN s.hq.rings n).head ≠ (getN s.hq.rings n).tail → r.frameBytes + 32 ≤ b.length →
      Runs (.frameDeliveryComplete t n b) s fun v =>
        (v.strm n).deliver = l.filter (· != seq) ∧ (v.strm n).skip = (s.strm n).skip ∧ v.mem = s.mem ∧
        ∃ o h, v.out = .hostWrite (b.addr + 32) (s.peekN (s.slotAddr n ((s.slotOf n seq).getD 0)) r.frameBytes) ::
          .hostWrite b.addr h :: o ∧ crcOk h = true) ∧
    (∀ (t n seq : Nat) (l : List Nat) (b : BufDesc) (r : StreamRec) (s : State), s.img.stream n = some r →
      (s.strm n).deliver = seq :: l → (s.at t).streamOn n = true → s.shaped → (s.at t).linkUp = true →
      (getN s.hq.rings n).en = true → (getN s.hq.rings n).head ≠ (getN s.hq.rings n).tail → b.length < r.frameBytes + 32 →
      Runs (.frameDeliveryComplete t n b) s fun v =>
        (v.strm n).deliver = l.filter (· != seq) ∧ (v.strm n).skip = satInc (s.strm n).skip ∧
        ∀ x d, Output.hostWrite x d ∈ v.out → x = (getN s.hq.rings n).base + (getN s.hq.rings n).head * 16)

/-- R187, R191, R194, R195 and R200. -/
def Obligations.EpochsTicksAndGuardJobsAct : Prop :=
  (∀ (t : Nat) (e : EgoIn) (s : State), (s.at t).fguOn = true → s.fgu.lastTick < e.tick → (e.tick + 2) * ms ≤ (s.at t).dev →
      let u := (s.at t).tickCount e
      let l := u.egoCauses s.fgu e
      let new := newCauses s.fgu l
      exec (.egoTick t e) s = .next (settle ((((u.each new State.discontinuity).onFgu fun g =>
        { g with causes := (l.map (2 ^ ·)).sum }).tickRecord s.fgu e (!new.isEmpty)).settleWork))) ∧
    (∀ (cause : Nat) (s : State),
      let v := s.discontinuity cause
      v.fgu.broken = true ∧ v.fgu.egoValid = false ∧ v.fgu.goodTicks = 0 ∧ v.fgu.egoCause = cause ∧
        v.fgu.disconts = satInc s.fgu.disconts ∧ v.fgu.zeroDue = true ∧ v.fgu.resetCause = 3) ∧
    (∀ (was : Fgu) (e : EgoIn) (declared : Bool) (s : State),
      let v := s.tickRecord was e declared
      (∃ p, v.fgu.poses.head? = some p ∧ p.tick = e.tick ∧ p.valid = v.fgu.egoValid) ∧
        (s.fgu.broken = false → v.fgu.egoValid = true) ∧
        (s.fgu.broken = true → s.fgu.goodTicks < 4 → v.fgu.egoValid = false) ∧
        (s.fgu.broken = true → declared = true ∨ s.tickGood e = false → v.fgu.egoValid = false ∧ v.fgu.goodTicks = 0) ∧
        (s.fgu.broken = true → declared = false → s.tickGood e = true → v.fgu.goodTicks = s.fgu.goodTicks + 1 ∧
          (4 ≤ s.fgu.goodTicks → v.fgu.egoValid = true ∧ v.fgu.broken = false))) ∧
    (∀ (t x : Nat) (s : State), (s.at t).fguOn = true → s.fgu.openAt = none → s.fgu.firstEntry = some x → x ≤ (s.at t).dev →
      s.fgu.prevOpen = none →
      exec (.epochOpen t) s = .next (settle ((((s.at t).onFgu fun g => { g with openAt := some (s.at t).dev }).tryClose).settleWork))) ∧
    (∀ (t : Nat) (s : State), (s.at t).fguOn = true → (s.at t).epochDue = true →
      exec (.epochWaitExpiry t) s = .next (settle (s.at t).closeEpoch.settleWork)) ∧
    (∀ s : State, s.fgu.openAt.isSome = true →
      s.closeEpoch.fgu.openAt = none ∧ s.closeEpoch.fgu.prevOpen = s.fgu.openAt ∧ s.closeEpoch.fgu.firstEntry = none ∧
        s.closeEpoch.fgu.nextEpoch = serialNext s.fgu.nextEpoch ∧ s.closeEpoch.fgu.lastClosed = s.fgu.nextEpoch ∧
        s.closeEpoch.fgu.arrived = List.replicate 16 false ∧
        (s.closeEpoch.fgu.epochs.head?.map fun e => (e.num, e.members)) =
          some (s.fgu.nextEpoch, s.members.filterMap fun n => (s.taken n).map fun q => (n, q))) ∧
    (∀ (t w : Nat) (e : Epoch) (s : State), (s.at t).fguOn = true → s.fgu.waiting = some w → s.fgu.job = none →
      (s.at t).psm.asleep = false → (s.at t).epochOf w = some e →
      let u := (s.at t).commitMemory.zeroMemory
      let j := u.issueJob .guard 0 w 0 (u.img.layers.map fun r => u.layerDesc e r) (u.guardAgreed e)
      exec (.guardJobStart t) s =
        .next (settle ((j.2.onFgu fun g => { g with waiting := none, job := some (w, j.1) }).settleWork)))

/-- R225, R236, R238 to R241, and the core gate of R472. -/
def Obligations.DescriptorsRunOnAdmittedCores : Prop :=
  (∀ (t n j i p : Nat) (s : State), n < 16 → (s.at t).dieRuns = true → (s.at t).coreReady n = true →
      (s.acore n).state = .admitted → (s.at t).nextFor n = some (j, i, p) →
      exec (.descriptorDispatch t n) s = .next (settle ((s.at t).takePass n j i p).settleWork)) ∧
    (∀ (t n j i : Nat) (s : State), n < 16 → (s.at t).dieRuns = true → (s.at t).coreReady n = true →
      (s.acore n).state = .probation → (s.at t).copyable = some (j, i) →
      exec (.descriptorDispatch t n) s = .next (settle ((s.at t).takeCopy n j i))) ∧
    (∀ (t n : Nat) (s : State), (s.acore n).bistDue = true ∨ (s.acore n).run.isSome = true ∨
        (s.acore n).state = .fenced ∨ (s.acore n).state = .bist ∨ (s.acore n).state = .testing →
      exec (.descriptorDispatch t n) s = .next (settle (s.at t))) ∧
    (∀ (n j i p : Nat) (x : Job) (s : State), s.shaped → n < 16 → s.dbg.enabled = false → s.jobOf j = some x →
      (∃ l, ((s.takePass n j i p).acore n).run = some { job := j, index := i, pass := p, start := s.now, reads := l }) ∧
        ((s.takePass n j i p).acore n).gated = false) ∧
    (∀ (t n : Nat) (hw : CoreHw) (r : Run) (s : State), (s.at t).running n = some r →
      exec (.descriptorComplete t n hw) s = .next (settle (
        let u := (((s.at t).coreErrors n r hw).onCore n fun c => { c with ecc := satAdd 32 c.ecc hw.corrected }).onFgu
          fun g => { g with copyEcc := hw.copyEcc }
        let v := if r.pass = 3 then u.endCopy n r hw else u.endPass n r hw
        let w := if hw.uncorrectable then v.toBist n 5 false else v
        (((w.latency 0x07 n (w.now - r.start - r.halt)).coreFree n).settleWork.commitMemory).onFgu
          fun g => { g with copyEcc := false }))) ∧
    (∀ (n : Nat) (hw : CoreHw) (r : Run) (x : Job) (s : State), s.shaped → n < 16 → s.jobOf r.job = some x → x.res = none →
      x.arbitrating = none → r.pass < 2 →
      let d := ((x.descs[r.index]?).getD default).desc
      let o := s.coreOut n r hw x d
      o.status = 2 →
      let v := s.endPass n r hw
      (v.acore n).last.status = 2 ∧ (v.acore n).last.job = r.job ∧ (v.acore n).last.elem = o.elem ∧
        (v.acore n).done = satInc (s.acore n).done ∧ v.aud.fCore = n ∧ v.aud.fKind = o.kind ∧ v.aud.fAddr = o.addr ∧
        v.aud.fElem = o.elem ∧ v.aud.fCnt = satInc s.aud.fCnt ∧ (v.jobOf r.job).map (·.res) = some (some .failed)) ∧
    (∀ (t n : Nat) (r : Run) (s : State), (s.at t).running n = some r → r.start + r.halt + (s.at t).watchdogOf n r < (s.at t).now →
      exec (.descriptorHang t n) s = .next (settle (((((s.at t).hangPass n r).toBist n 4 false).coreFree n).settleWork))) ∧
    (∀ (n : Nat) (r : Run) (s : State), s.shaped → n < 16 → (s.acore n).state = .admitted → (s.acore n).run = some r →
      let v := ((s.hangPass n r).toBist n 4 false).coreFree n
      (v.acore n).state = .bist ∧ (v.acore n).bistFor = 4 ∧ (v.acore n).run = none ∧ (v.acore n).last.status = 4) ∧
    (∀ (t n : Nat) (s : State), (s.at t).dieRuns = true → (s.acore n).state = .bist →
      exec (.coreBistComplete t n false) s = .next (settle ((((s.at t).zeroLocal n).fence n (s.acore n).bistFor).settleWork))) ∧
    (∀ (t n : Nat) (s : State), s.shaped → n < 16 → (s.at t).dieRuns = true → (s.acore n).state = .bist →
      ∃ u : State, exec (.coreBistComplete t n true) s = .next (settle u.settleWork) ∧ (u.acore n).prob = 0 ∧
        (u.acore n).state = if (s.acore n).readmit then .probation else .admitted) ∧
    (∀ (n cause : Nat) (s : State), s.shaped → n < 16 →
      ((s.fence n cause).acore n).state = .fenced ∧ ((s.fence n cause).acore n).cause = cause ∧
        ((s.fence n cause).acore n).run = none) ∧
    (∀ (t n : Nat) (e : SegEnd) (s : State), s.shaped → n < 16 → (s.at t).dieRuns = true → (s.at t).coreReady n = true →
      s.sys.state.permits = true ∨ s.sys.state = .halted →
      ((s.acore n).state = .admitted → (s.at t).vpReady = false →
        Runs (.rollingSelftestSegment t n .started) s fun v => (v.acore n).state = .testing ∧ v.mem = s.mem) ∧
      ((s.acore n).state = .admitted → e ≠ .started ∨ (s.at t).vpReady = true →
        exec (.rollingSelftestSegment t n e) s = .next (settle (s.at t))) ∧
      ((s.acore n).state = .testing → (s.acore n).seg + 1 < 16 →
        Runs (.rollingSelftestSegment t n .done) s fun v =>
          (v.acore n).state = .admitted ∧ (v.acore n).seg = (s.acore n).seg + 1 ∧ v.mem = s.mem) ∧
      ((s.acore n).state = .testing → 16 ≤ (s.acore n).seg + 1 →
        Runs (.rollingSelftestSegment t n .done) s fun v =>
          (v.acore n).state = .admitted ∧ (v.acore n).seg = 0 ∧ (v.acore n).testAt = some (s.at t).now) ∧
      ((s.acore n).state = .testing →
        exec (.rollingSelftestSegment t n .failed) s = .next (settle (((s.at t).zeroLocal n).fence n 2).settleWork)) ∧
      ((s.acore n).state = .fenced → (s.at t).vpReady = false →
        Runs (.rollingSelftestSegment t n .started) s fun v =>
          (v.acore n).attempts = (if (s.acore n).attempts < 3 then (s.acore n).attempts + 1 else (s.acore n).attempts) ∧
          (v.acore n).state = if (s.acore n).attempts < 3 then .bist else .fenced)) ∧
    (∀ (t n : Nat) (s : State), s.shaped → n < 16 → (s.at t).psmOn = true → s.psm.state = .breeze → s.psm.waking = none →
      (s.acore n).run = none → (s.acore n).idleAt + 2000 ≤ (s.at t).now →
      Runs (.breezeCoreGate t n) s fun v => (v.acore n).gated = true ∧ (v.acore n).state = (s.acore n).state)

/-- R265, R271, R282 with Table 10.5, and R283. -/
def Obligations.VaneSelfTestsAndSafeStateJobsAct : Prop :=
  (∀ (t k : Nat) (slot : Option Nat) (laneOk slotOk : Bool) (s : State), s.vane.selftest = some (k, slot) →
      exec (.vaneSelftestComplete t laneOk slotOk) s = .next (settle (
        let u := (s.at t).onVane fun v =>
          { v with
            lanes := modN v.lanes k (Lane.tested (s.at t).now laneOk slotOk)
            slots := (match slot, slotOk with | some x, false => modN v.slots x fun y => { y with retired := true } | _, _ => v.slots)
            selftest := none }
        let lost : Bool := !(getN u.vane.lanes k).ok
        let retired : Bool := slot.isSome && !slotOk
        (u.onVane fun v => { v with selftest := v.nextTest, events := v.events ||| (flg lost 2 + flg retired 3) }).settleWork))) ∧
    (∀ (now : Nat) (slotOk : Bool) (l : Lane), (l.tested now false slotOk).ok = false ∧ (l.tested now false slotOk).testing = false) ∧
    (∀ (now : Nat) (l : Lane), (l.tested now true false).ok = l.ok ∧ (l.tested now true false).trans = l.trans) ∧
    (∀ (now : Nat) (l : Lane),
      let old := (l.times.filter fun i => decide (now ≤ i + 3600 * sec)).length
      (l.tested now true true).trans = satAdd 8 l.trans 1 ∧ (l.tested now true true).testing = false ∧
        (l.tested now true true).ok = (l.ok && decide (old < 2))) ∧
    (∀ (t cls : Nat) (r : ClassRec) (s : State), (s.at t).dieRuns = true → s.sys.state.permits = true → s.img.cls cls = some r →
      r.safeState = true →
      exec (.safeStateJobIssue t cls) s = .next (settle ((((s.at t).issueSafe cls).wake).settleWork))) ∧
    (∀ (cls : Nat) (s : State),
      (s.issueSafe cls).aud.nextJob = serialNext s.aud.nextJob ∧
        (s.issueSafe cls).aud.jobs.map (·.num) = s.aud.jobs.map (·.num) ++ [s.aud.nextJob] ∧
        (s.issueSafe cls).aud.jobs.map (·.xform) = s.aud.jobs.map (·.xform) ++
          [(s.clsOf cls).codes.getD (getN s.aud.rot cls % max (s.clsOf cls).codes.length 1) 1]) ∧
    (∀ (t cls i : Nat) (r : ClassRec) (s : State), (s.aud.orig[cls]?).join = some i → s.img.cls cls = some r →
      i + r.deadlineUs * 1000 ≤ (s.at t).now →
      Runs (.safeStateDeadline t cls) s fun v => v.sys.pendTrips = s.sys.pendTrips ++ [{ src := 0x0A, sto := false }]) ∧
    (∀ (t cls i : Nat) (r : ClassRec) (s : State), (s.aud.orig[cls]?).join = some i → s.img.cls cls = some r →
      (s.at t).now < i + r.deadlineUs * 1000 →
      exec (.safeStateDeadline t cls) s = .next (settle (s.at t)))

/-- R296, R298 to R301 and R303. -/
def Obligations.CommandRingsStartAndCompleteAsStated : Prop :=
  (∀ (t k : Nat) (bg : Bool) (b : Bytes) (s : State), s.shaped → (s.at t).beuOn k = true → (s.stk k).fault = false →
      let r := (s.stk k).ring bg
      let slot := r.base + (r.head + r.queue.length) % 256 * 64
      r.queue.length < 255 →
      Runs (.beuCmdSubmit t k bg b) s fun v =>
        ((v.stk k).ring bg).queue = r.queue ++ [BCmd.parse (padTo 64 b)] ∧ (v.stk k).running = (s.stk k).running ∧
        (v.stk k).cq = (s.stk k).cq ∧ (v.stk k).selfRefresh = false ∧
        ∀ a : Nat, a < slot ∨ slot + 64 ≤ a → memGet v.mem a = memGet s.mem a) ∧
    (∀ (t k : Nat) (bg : Bool) (b : Bytes) (s : State), 255 ≤ ((s.stk k).ring bg).queue.length →
      exec (.beuCmdSubmit t k bg b) s = .next (settle (s.at t))) ∧
    (∀ (k : Nat) (bg : Bool) (c : BCmd) (l : List BCmd) (s : State), ((s.stk k).ring bg).fence = none →
      ((s.stk k).ring bg).queue = c :: l →
      s.headAct k bg = if s.cmdError k c then .finish 3 else if c.kind = 2 then .fence
        else if (s.stk k).protects k c then .finish 2 else if (s.cmdWall c).isSome then .finish 4
        else if (s.stk k).leaves c.channel then .finish 5 else if (s.stk k).ready c then .start else .wait) ∧
    (∀ (t k : Nat) (bg : Bool) (s : State), s.shaped → (s.at t).beuOn k = true → (s.stk k).fault = false →
      (s.stk k).selfRefresh = false → bg = false ∨ (s.at t).headAct k false = .wait → (s.at t).headAct k bg = .start →
      Runs (.beuCmdStart t k bg) s fun v =>
        ∃ c l, ((s.stk k).ring bg).queue = c :: l ∧ ((v.stk k).ring bg).queue = l ∧ v.mem = s.mem ∧ (v.stk k).cq = (s.stk k).cq ∧
          (v.stk k).running = (s.stk k).running ++
            [{ cmd := c, bg := bg, order := (s.stk k).order, start := (s.at t).now, hot := (s.stk k).hot }]) ∧
    (∀ (t k n : Nat) (bg : Bool) (s : State), s.shaped → (s.at t).beuOn k = true → (s.stk k).fault = false →
      (s.stk k).selfRefresh = false → bg = false ∨ (s.at t).headAct k false = .wait → (s.at t).headAct k bg = .finish n →
      Runs (.beuCmdStart t k bg) s fun v =>
        ((v.stk k).ring bg).queue = ((s.stk k).ring bg).queue.drop 1 ∧ (v.stk k).running = (s.stk k).running ∧
        ∃ e, (v.stk k).cq = (s.stk k).cq ++ [e] ∧ e.length = 16 ∧ e.getD 4 0 = byte n) ∧
    (∀ (t k c n : Nat) (bad : List Nat) (r : BRun) (s : State), s.shaped → (s.at t).beuOn k = true →
      (s.stk k).running.find? (fun r => r.cmd.channel == c) = some r → (s.stk k).fault = false →
      (s.stk k).uncorrAt.length + bad.length ≤ 64 →
      let slot := (s.stk k).cqBase + ((s.stk k).cqHead + (s.stk k).cq.length) % 512 * 16
      Runs (.beuCmdComplete t k { channel := c, corrected := n, bad := bad }) s fun v =>
        (v.stk k).cq.length = (s.stk k).cq.length + 1 ∧ (∀ x ∈ (v.stk k).running, x.order ≠ r.order) ∧
        ∀ a : Nat, a < slot ∨ slot + 16 ≤ a → r.cmd.countOnly = true ∨ a < r.cmd.dst ∨ r.cmd.dst + r.cmd.outBytes ≤ a →
          memGet v.mem a = memGet s.mem a) ∧
    (∀ (t k : Nat) (bg : Bool) (c : BCmd) (s : State), s.shaped → (s.at t).beuOn k = true →
      ((s.stk k).ring bg).fence = some c → (s.stk k).running.any (fun r => r.bg == bg) = false →
      Runs (.beuFenceComplete t k bg) s fun v =>
        ((v.stk k).ring bg).fence = none ∧ ((v.stk k).ring bg).queue = ((s.stk k).ring bg).queue ∧
        ∃ e, (v.stk k).cq = (s.stk k).cq ++ [e] ∧ e.length = 16 ∧ e.getD 4 0 = 0) ∧
    (∀ (c : BCmd) (a b : Int) (s : State), c.acts = [0, 0, 0] → 1 ≤ c.op → c.op ≤ 3 →
      let x := if c.op = 1 then a + b else if c.op = 2 then a - b else a * b
      (s.beuI c a b).1 = if 2147483647 < x then 2147483647 else if x < -2147483648 then -2147483648 else x)

/-- R294, R304, R305, R307 and R314. -/
def Obligations.StacksSwitchScrubAndFaultAsStated : Prop :=
  (∀ (t k w : Nat) (s : State), s.shaped → (s.at t).beuOn k = true → (s.stk k).swPhase = 0 → bit w 8 = true →
      Runs (.beuSwitchGo t k w) s fun v =>
        (v.stk k).swReg = bits w 0 7 ∧ (v.stk k).proc = (s.stk k).proc ∧
        if s.sys.state = .start ∧
            ¬(bit w 4 = true ∧ getN (s.stk k).proc (bits w 0 4) = false ∧ 8 ≤ ((s.stk k).proc.filter id).length) then
          (v.stk k).swPhase = 1 ∧ (v.stk k).swChannel = bits w 0 4 ∧ (v.stk k).swProc = bit w 4 ∧ (v.stk k).swCheck = bit w 5 ∧
            (v.stk k).swVis = bit w 6
        else (v.stk k).swPhase = 0 ∧ (v.stk k).swRefused = true) ∧
    (∀ (t k w : Nat) (s : State), s.shaped → (s.at t).beuOn k = true → (s.stk k).swPhase ≠ 0 → bit w 8 = true →
      Runs (.beuSwitchGo t k w) s fun v =>
        (v.stk k).swRefused = true ∧ (v.stk k).swPhase = (s.stk k).swPhase ∧ (v.stk k).swChannel = (s.stk k).swChannel ∧
        (v.stk k).proc = (s.stk k).proc) ∧
    (∀ (t k : Nat) (s : State), s.shaped → (s.at t).beuOn k = true → (s.stk k).swPhase = 1 →
      (s.stk k).running.any (fun r => r.cmd.channel == (s.stk k).swChannel) = false →
      Runs (.beuSwitchDrainComplete t k) s fun v => (v.stk k).swPhase = 2 ∧ (v.stk k).proc = (s.stk k).proc ∧ v.mem = s.mem) ∧
    (∀ (t k : Nat) (s : State), s.shaped → (s.at t).beuOn k = true → (s.stk k).swPhase = 2 →
      let base := stackBase k + (s.stk k).swChannel * 0x40000000
      let fill := (s.stk k).swProc = false ∧ getN (s.stk k).proc (s.stk k).swChannel = true ∧
        getN (s.stk k).recompute (s.stk k).swChannel = false
      Runs (.beuSwitchFenceComplete t k) s fun v =>
        (v.stk k).swPhase = 3 ∧
        (v.stk k).proc = setN (s.stk k).proc (s.stk k).swChannel (s.stk k).swProc ∧
        (v.stk k).recompute = setN (s.stk k).recompute (s.stk k).swChannel ((s.stk k).swProc && (s.stk k).swCheck) ∧
        (v.stk k).strict = setN (s.stk k).strict (s.stk k).swChannel ((s.stk k).swProc && (s.stk k).swVis) ∧
        ∀ a : Nat, memGet v.mem a = if fill ∧ base ≤ a ∧ a < base + 0x40000000 then 0 else memGet s.mem a) ∧
    (∀ (t k : Nat) (s : State), s.shaped → (s.at t).beuOn k = true → (s.stk k).swPhase = 3 →
      Runs (.beuSwitchComplete t k) s fun v =>
        (v.stk k).swPhase = 0 ∧ (v.stk k).swDone = true ∧ v.mem = s.mem ∧ (v.stk k).proc = (s.stk k).proc ∧
        (v.stk k).recompute = (s.stk k).recompute ∧ (v.stk k).strict = (s.stk k).strict) ∧
    (∀ (t k n o : Nat) (s : State), s.shaped → (s.at t).scrubOn k = true → (s.stk k).uncorrAt.length ≤ 64 →
      (s.stk k).nextBlock (max (s.stk k).scrubPtr (stackBase k) - stackBase k) = some o →
      Runs (.scrubStep t k n []) s fun v =>
        v.mem = s.mem ∧ v.poison = s.poison ∧ (v.stk k).eccCorr = satAdd 32 (s.stk k).eccCorr n ∧ (v.stk k).fault = false ∧
        (v.stk k).scrubPtr = stackBase k + ((s.stk k).nextBlock (o + 4096)).getD 0) ∧
    (∀ (t k c : Nat) (s : State), s.shaped → s.sup.on = true → k < 2 → c ≤ 105 →
      Runs (.stackTempChange t k c) s fun v =>
        (v.stk k).temp = c ∧ (v.stk k).hot = ((s.stk k).hot || (decide (95 < c) && !(s.stk k).selfRefresh)) ∧ (v.stk k).fault = (s.stk k).fault ∧
        (v.stk k).cq = (s.stk k).cq ∧ ((v.stk k).coolAt = none ↔ 90 < c)) ∧
    (∀ (t k i : Nat) (s : State), s.shaped → k < 2 → (s.stk k).coolAt = some i → i + 10 * ms ≤ (s.at t).now →
      Runs (.stackCoolExpiry t k) s fun v => (v.stk k).hot = false) ∧
    (∀ (t k c : Nat) (i : Instr) (s : State), s.shaped → k < 2 → (s.stk k).fault = false →
      (i = .stackTempChange t k c ∧ s.sup.on = true ∧ 105 < c) ∨
        (i = .stackTrainingLoss t k ∧ (s.at t).beuOn k = true ∧ (s.stk k).swept = true) →
      Runs i s fun v =>
        (v.stk k).fault = true ∧ (v.stk k).running = [] ∧ (v.stk k).vp.queue = [] ∧ (v.stk k).bg.queue = [] ∧
        (v.stk k).vp.fence = none ∧ (v.stk k).bg.fence = none ∧
        (v.stk k).cq.length = (s.stk k).cq.length + (s.stk k).running.length + (s.stk k).vp.queue.length +
          (s.stk k).bg.queue.length + (s.stk k).vp.fence.toList.length + (s.stk k).bg.fence.toList.length)

/-- R329, R330 steps 1 to 4, R452, R460 and the VOID of R118. -/
def Obligations.SubmissionsAreConsumedOrRefused : Prop :=
  (∀ (t q : Nat) (d : Bytes) (c : ChanRec) (s : State), s.boundChan q = some c → (s.at t).canTake q = false →
      exec (.submissionConsume t q d) s = .next (settle (s.at t))) ∧
    (∀ (t q : Nat) (d : Bytes) (c : ChanRec) (s : State), s.shaped → s.boundChan q = some c → (s.at t).canTake q = true →
      descFormOk (padTo 64 d) = false ∨ s.recordInside c.ch (padTo 64 d) = false →
      Runs (.submissionConsume t q d) s fun v =>
        (v.hqueue q).error = true ∧ (v.hqueue q).sqHead = (s.hqueue q).sqHead ∧ v.vrd = s.vrd ∧
        (c.ch < 512 → (v.tchan c.ch).fault = true)) ∧
    (∀ (t q : Nat) (d : Bytes) (c : ChanRec) (s : State), s.shaped → s.boundChan q = some c → (s.at t).canTake q = true →
      descFormOk (padTo 64 d) = true → s.recordInside c.ch (padTo 64 d) = true →
      let b := s.peekN (bar2Addr (leAt d 4 4)) 2560
      leAt b 4 4 ≠ (s.vq q).next ∨ leAt b 8 2 ≠ c.ch →
      Runs (.submissionConsume t q d) s fun v =>
        v.vrd = s.vrd ∧ v.fwl = s.fwl ∧
        (v.hqueue q).sqHead = if (s.hqueue q).sqHead + 1 = 2 ^ (s.hqueue q).sqLog then 0 else (s.hqueue q).sqHead + 1) ∧
    (∀ (t q : Nat) (d : Bytes) (c : ChanRec) (s : State), s.boundChan q = some c → (s.at t).canTake q = true →
      descFormOk (padTo 64 d) = true → s.recordInside c.ch (padTo 64 d) = true →
      let b := s.peekN (bar2Addr (leAt d 4 4)) 2560
      leAt b 4 4 = (s.vq q).next → leAt b 8 2 = c.ch →
      exec (.submissionConsume t q d) s = .next (settle (
        if s.sys.state = .doldrums then ((s.at t).takeSub q).takeDoldrums q c.ch (leAt b 4 4) (s.hqueue q).sqHead
        else (((s.at t).takeSub q).accept330 q c b (s.hqueue q).sqHead).settleWork))) ∧
    (∀ (q idx : Nat) (c : ChanRec) (b : Bytes) (s : State), s.shaped → q < 64 →
      let seq := leAt b 4 4
      let v := s.accept330 q c b idx
      (v.vq q).next = serialNext seq ∧ (v.vq q).newest = seq ∧
        (v.vq q).win.find? (·.1 == seq % 256) = some (seq % 256, { seq := seq }) ∧
        ∃ r, v.vrd.results = s.vrd.results ++ [r] ∧ r.q = q ∧ r.seq = seq ∧ r.state = .read ∧
          (r.reject.isSome = true ∨
            ∀ w ∈ recWits b, ∀ x ∈ w.addrs.zip w.sizes, 0 < x.2 → v.lockHit x.1 x.2 = true)) ∧
    (∀ (q ch seq idx : Nat) (s : State), s.shaped → q < 64 →
      let v := s.takeDoldrums q ch seq idx
      (v.vq q).win.find? (·.1 == seq % 256) =
          some (seq % 256, { seq := seq, issued := true, verdict := vVoid, reason := 0x36, escape := 65535 }) ∧
        v.vrd.results = s.vrd.results ∧ v.aud = s.aud) ∧
    (∀ (t q : Nat) (r : Result) (s : State),
      s.vrd.results.find? (fun r => r.q == q && r.state == .read) = some r →
      Runs (.witnessLockEffective t q) s fun v =>
        v.vrd.results = s.vrd.results.map fun x => if x.q = q ∧ x.seq = r.seq then { x with state := .locked } else x)

/-- R330 steps 5 and 6, R331 and R332. -/
def Obligations.ChallengesAreDrawnAfterCommit : Prop :=
  (∀ (t q : Nat) (r : Result) (s : State), s.vrd.results.find? (fun r => r.q == q && r.state == .locked) = some r →
      let u := s.at t
      let bad := if r.reject.isSome then none else u.crcFail r
      let poison := r.reject.isNone && r.ranges.any fun x => u.poisoned x.2.1 x.2.2.1
      let c := { r with
        state := .committed, commitAt := u.now, audit := if poison then .failed 0x30 else r.audit
        reject := (match r.reject with | some c => some c | none => bad.map (reasonWord 0x03)) }
      let v := u.onResult q r.seq fun _ => c
      exec (.resultCommit t q) s =
        .next (settle ((if (v.verdictNow c).isSome ∨ poison = true then v else v.startAudit c).settleWork))) ∧
    (∀ (r : Result) (s : State), s.crcFail r = none ↔ ∀ x ∈ r.ranges, crc32c (s.peekN x.2.1 x.2.2.1) = x.2.2.2) ∧
    (∀ (r : Result) (t n k : Nat) (s : State),
      let x := (State.challenge r t n k s).1
      k ≤ x.k ∧ x.k ≤ k + n ∧ x.tiles.map (·.1) = (s.tiled r.ch).map (·.point) ∧
        ∀ p ∈ x.tiles, p.2.Nodup ∧ ∃ w ∈ s.tiled r.ch, w.point = p.1 ∧ p.2.length = w.sample t x.k ∧ ∀ i ∈ p.2, i < w.tiles t) ∧
    (∀ (r : Result) (s : State), s.borrows = false →
      let a := s.audRec r
      let x := (State.challenge r a.tileLog2 (a.log2fFloor - a.log2f) a.log2f s).1
      (s.startAudit r).vrd.results = s.vrd.results.map fun z => if z.is r.q r.seq then
        { x with escape := s.escape r.ch x.k, reduced := decide (a.log2f < x.k), auditJob := some s.aud.nextJob } else z) ∧
    (∀ (ch k : Nat) (s : State), s.escape ch k ≤ 65535 ∧ (s.tiled ch = [] → s.escape ch k = 0))

/-- R337, R338, R342, R347, R349 and R462. -/
def Obligations.VerdictsFollowTheDecision : Prop :=
  (∀ (r : Result) (n : Nat) (s : State), s.verdictNow r = some (vBelieve, n) →
      n = 0 ∧ s.voidAll = none ∧ s.rejectOf r = none ∧ r.expired = none ∧ s.dev < r.deadline ∧ s.linesOpen r = false ∧
        s.failedOf r = none ∧ s.doubtOf r = none) ∧
    (∀ (r : Result) (c : Nat) (s : State), s.voidAll = none → s.rejectOf r = some c → s.verdictNow r = some (vReject, c)) ∧
    (∀ (r : Result) (s : State), r.deadline ≤ s.dev →
      ∃ v c, s.verdictNow r = some (v, c) ∧ (v = vVoid ∨ v = vReject ∨ v = vLate)) ∧
    (∀ (t q seq : Nat) (r : Result) (s : State), s.resultOf q seq = some r → r.state = .committed → r.deadline ≤ (s.at t).dev →
      exec (.ageDeadlineExpiry t q seq) s = .next (settle ((s.at t).evalOne q seq).settleWork)) ∧
    (∀ (t q seq : Nat) (r : Result) (s : State), s.resultOf q seq = some r → r.state = .committed →
      r.deadline + ms ≤ (s.at t).dev →
      exec (.verdictPathWatchdog t q seq) s = .next (settle (
        (((s.at t).issue r vVoid 0x30).onTsu fun u => { u with vpath := satInc u.vpath, events := u.events ||| 2 }).chFault r.ch 10
          ).settleWork)) ∧
    (∀ (r : Result) (verdict reason : Nat) (s : State), s.shaped → r.q < 64 →
      let v := s.issue r verdict reason
      (∃ w : Win, (v.vq r.q).win.find? (·.1 == r.seq % 256) = some (r.seq % 256, w) ∧ w.seq = r.seq ∧ w.issued = true ∧
          w.verdict = verdict ∧ w.reason = reason ∧ w.escape = r.escape ∧ w.answered = false) ∧
        v.vrd.results = s.vrd.results.filter (fun x => !x.is r.q r.seq) ∧
        (∀ l ∈ v.fwl.locks, ¬(l.q = r.q ∧ l.seq = r.seq)) ∧ v.ret.frNext = serialNext s.ret.frNext ∧
        (verdict ≠ vBelieve ∨ s.sys.state.permits = false → v.vrd.tokens = s.vrd.tokens ∧ v.ret.token = s.ret.token)) ∧
    (∀ (r : Result) (s : State), s.shaped → r.q < 64 →
      (((s.escalate r vBelieve).vq r.q).esc = 0 ∧ ((s.escalate r vDoubt).vq r.q).esc = 0) ∧
        s.escalate r vLate = s ∧ s.escalate r vVoid = s ∧
        let n := (s.vq r.q).esc + 1
        if (s.audRec r).escCount ≤ n then
          ((s.escalate r vReject).vq r.q).esc = 0 ∧
            (s.escalate r vReject).sys.pendTrips = s.sys.pendTrips ++ [{ src := 0x09, sto := false }]
        else ((s.escalate r vReject).vq r.q).esc = n ∧ (s.escalate r vReject).sys = s.sys) ∧
    (∀ (t q seq : Nat) (s : State), s.shaped → q < 64 → (s.at t).regsUp = true → seq < 2 ^ 32 →
      (s.vq q).win.any (fun w => w.1 == seq % 256 && w.2.lost) = false →
      Runs (.vrdQuery t q { seq := seq }) s fun v =>
        (v.vq q).ansQ = seq ∧ (v.vq q).ansSeq = ((s.vq q).answer seq).seq ∧
        bits (v.vq q).ansVer 0 3 = ((s.vq q).answer seq).verdict % 8 ∧ bit (v.vq q).ansVer 3 = ((s.vq q).answer seq).first ∧
        bit (v.vq q).ansVer 4 = ((s.vq q).answer seq).acc ∧ v.vrd.results = s.vrd.results ∧
        (v.vq q).win = (s.vq q).win.map fun w =>
          if w.2.seq = seq ∧ w.2.issued = true then (w.1, { w.2 with answered := true }) else w) ∧
    (∀ (t q seq : Nat) (s : State), s.shaped → q < 64 → (s.at t).regsUp = true → seq < 2 ^ 32 →
      Runs (.vrdQuery t q { seq := seq, ecc := true }) s fun v =>
        (v.vq q).ansQ = seq ∧ bits (v.vq q).ansVer 0 3 = vVoid ∧ bits (v.vq q).ansReason 0 16 = 0x30 ∧
        v.vrd.results = s.vrd.results ∧ v.free = s.free + 2 ∧
        (v.vq q).win.any (fun w => w.1 == seq % 256 && w.2.lost) = true) ∧
    (∀ (v : VrdQ) (seq k : Nat) (w : Win), v.win.find? (·.1 == seq % 256) = some (k, w) → w.seq = seq →
      let a := v.answer seq
      a.seq = seq ∧ a.acc = true ∧ a.verdict = (if w.issued then w.verdict else 0) ∧ a.first = (w.issued && !w.answered)) ∧
    (∀ (v : VrdQ) (seq k : Nat) (w : Win), v.win.find? (·.1 == seq % 256) = some (k, w) → w.seq ≠ seq → seq ≠ 0 →
      v.newest ≠ 0 → serialAbove seq v.newest = false →
      (v.answer seq).verdict = 6 ∧ (v.answer seq).seq = w.seq ∧ (v.answer seq).first = false ∧ (v.answer seq).acc = true) ∧
    (∀ (v : VrdQ) (seq : Nat), v.win.find? (·.1 == seq % 256) = none → seq ≠ 0 → v.newest ≠ 0 →
      serialAbove seq v.newest = false →
      (v.answer seq).verdict = 6 ∧ (v.answer seq).seq = 0 ∧ (v.answer seq).acc = true) ∧
    (∀ (v : VrdQ) (seq : Nat), seq = 0 ∨ serialAbove seq v.newest = true →
      (∀ k w, v.win.find? (·.1 == seq % 256) = some (k, w) → w.seq ≠ seq) →
      (v.answer seq).verdict = 0 ∧ (v.answer seq).seq = seq ∧ (v.answer seq).acc = false)

/-- R13, R14, R359, R370 to R372 and R374: what one cycle does to the groups and their STO outputs. -/
def Obligations.CyclesRemoveAndPermitTorqueAsStated : Prop :=
  (∀ (t : Nat) (i : SlbIn) (s : State), s.sup.on = true →
      Runs (.slbCycle t i) s fun v =>
        let c := (s.at t).slb.cycle (s.at t).params (s.at t).nvm.params (s.at t).now s.sys.tqen s.sup.pfOut (s.at t).restartOk i
        v.slb.groups = c.1.groups ∧ v.slb.stoCmd = c.1.stoCmd ∧ v.slb.brkCmd = c.1.brkCmd ∧ v.slb.chainCmd = c.1.chainCmd ∧
          v.slb.permit = c.1.permit ∧ v.slb.toSp = c.1.toSp ∧ v.sys = (s.at t).sys ∧ v.mem = s.mem ∧
          v.sup.ioaOk = supplyOk i.ioA ∧ v.sup.iobOk = supplyOk i.ioB) ∧
    (∀ (p : Safety) (q : Copies Safety) (now : Nat) (tqen pf ok : Bool) (i : SlbIn) (b : Slb), b.shaped →
      let b' := b.takeIn p now i
      let trips := (b'.findTrips p now i b.outFault).1
      let c := (b.cycle p q now tqen pf ok i).1
      trips.any (·.sto) = true ∨ b'.request = 2 ∨ b.report.idle = true ∨ pf = true →
      (∀ g ∈ c.groups, g.state = .off) ∧ (∀ x ∈ c.stoCmd, x = false) ∧ c.permit = false ∧ c.toSp = b.toSp ++ trips) ∧
    (∀ (p : Safety) (q : Copies Safety) (now k : Nat) (tqen pf ok : Bool) (i : SlbIn) (b : Slb), b.shaped → k < 4 →
      let b' := b.takeIn p now i
      let trips := (b'.findTrips p now i b.outFault).1
      let g := getN (b.cycle p q now tqen pf ok i).1.groups k
      trips.any (·.sto) = false → b'.request ≠ 2 → b.report.idle = false → pf = false →
      trips.any (!·.sto) = true ∨ b'.request = 1 → (getN b.groups k).state = .on →
      g.state = (if (getN p.groups k).ss1Kind = 0 then .time else .ramp) ∧ g.ss1At = some now) ∧
    (∀ (p : Safety) (q : Copies Safety) (now n : Nat) (tqen pf ok : Bool) (i : SlbIn) (b : Slb), b.shaped → n < 8 →
      let c := (b.cycle p q now tqen pf ok i).1
      c.stoCmd.getD n false = true → (getN c.groups (n / 2)).state.live = true ∧ c.outFault.getD n false = false) ∧
    (∀ (p : Safety) (q : Copies Safety) (now k : Nat) (tqen pf ok : Bool) (i : SlbIn) (b : Slb), b.shaped → k < 4 →
      let b' := b.takeIn p now i
      let c := (b.cycle p q now tqen pf ok i).1
      (getN b.groups k).state = .off → (getN c.groups k).state.live = true →
      c.permit = true ∧ b.report.permits = true ∧ b.beatOk = true ∧ (b'.findTrips p now i b.outFault).1 = [] ∧
        b'.sources p q = [] ∧ b'.request = 0 ∧ pf = false ∧ (getN p.groups k).used = 1) ∧
    (∀ (p : Safety) (q : Copies Safety) (now : Nat) (tqen pf ok : Bool) (i : SlbIn) (b : Slb), b.permit = false →
      (b.cycle p q now tqen pf ok i).1.permit = true →
      b.ackEdge = true ∧ b.beatOk = true ∧ (b.takeIn p now i).inputsOk p = true ∧ (∀ g ∈ b.groups, g.state = .off) ∧
        ((ok = true ∧ b.armed = true ∧ b.report = .halted) ∨ (b.report.permits = true ∧ tqen = true)))

/-- R43, R362 to R364, R366, R367, R373, R378 and R384. -/
def Obligations.SafeInputsAndOutputChecksAct : Prop :=
  (∀ (t n : Nat) (chB on : Bool) (s : State), s.shaped → s.sup.on = true → n < 16 →
      Runs (.inputFilterSettle t n chB on) s fun v =>
        let x := s.sinput n
        let y := v.sinput n
        (if chB then y.b = on ∧ y.a = x.a else y.a = on ∧ y.b = x.b) ∧ y.pulse = x.pulse ∧ v.slb.groups = s.slb.groups ∧
          v.slb.stoCmd = s.slb.stoCmd ∧ v.slb.due = s.slb.due ∧
          (v.slb.ackEdge = true → s.slb.ackEdge = true ∨
            ((s.at t).params.input n).kind = 2 ∧ y.a = true ∧ y.b = true ∧ x.offSeen = true ∧ y.disc = false ∧ y.pulse = false)) ∧
    (∀ (now disc : Nat) (x : SInput), x.disc = true →
      (x.settle now disc).1.disc = !(x.discOff && x.a && x.b)) ∧
    (∀ (now disc : Nat) (x : SInput), x.a = true → x.b = true → x.offSeen = true →
      (x.settle now disc).2 = (match x.firstOn with | some i => decide (now ≤ i + disc) | none => true) ∧
        (x.settle now disc).1.offSeen = false) ∧
    (∀ (t n : Nat) (chB : Bool) (s : State), s.shaped → s.sup.on = true → n ≤ 16 →
      Runs (.blankingEnd t n chB) s fun v =>
        (if chB then (v.sinput n).blankB else (v.sinput n).blankA) = true ∧ (v.sinput n).a = (s.sinput n).a ∧
        (v.sinput n).b = (s.sinput n).b) ∧
    (∀ (t n i : Nat) (s : State), s.shaped → s.sup.on = true → n < 16 → ((s.at t).params.input n).kind ≠ 0 →
      (s.sinput n).disc = false → (s.sinput n).a ≠ (s.sinput n).b → (s.sinput n).differ = some i →
      i + (s.at t).discNs n ≤ (s.at t).now →
      Runs (.discrepancyExpiry t n) s fun v =>
        (v.sinput n).disc = true ∧ v.slb.due = s.slb.due ++ [{ src := 0x02, sto := true }]) ∧
    (∀ (t k n : Nat) (q : PulseIn) (s : State), s.shaped → s.sup.on = true → k < 8 → s.sys.state ≠ .off → n < 16 →
      let r := (s.at t).params.input n
      r.tpA < 8 → r.tpB < 8 → r.kind ≠ 0 → (s.sinput n).a = true → (s.sinput n).pulse = false →
      (r.tpA = k ∧ bit q.stuckOn (2 * n) = true) ∨ (r.tpA ≠ k ∧ bit q.crossed (2 * n) = true) →
      Runs (.testPulse t k q) s fun v =>
        (v.sinput n).pulse = true ∧ (v.sinput n).passes = 0 ∧ ({ src := 0x02, sto := true } : Trip) ∈ v.slb.due) ∧
    (∀ (t k : Nat) (q : PulseIn) (s : State), q.stuckOn = 0 → q.crossed = 0 → (∀ x ∈ s.slb.inputs, x.pulse = false) →
      s.shaped → exec (.testPulse t k q) s = .next (settle (s.at t))) ∧
    (∀ (t n : Nat) (s : State), s.shaped → s.sup.on = true → n < 8 → s.slb.stoCmd.getD n false = true →
      Runs (.outputOfftest t n false) s fun v =>
        v.slb.outFault.getD n false = true ∧ v.slb.due = s.slb.due ++ [{ src := 0x06, sto := true }]) ∧
    (∀ (t n : Nat) (s : State), exec (.outputOfftest t n true) s = .next (settle (s.at t))) ∧
    (∀ (t n : Nat) (s : State), s.shaped → s.sup.on = true → n < 14 →
      Runs (.overcurrentCutOff t n) s fun v =>
        v.slb.outFault.getD n false = true ∧ v.slb.due = s.slb.due ++ [{ src := 0x06, sto := true }] ∧
        (n < 8 → v.slb.stoCmd.getD n false = false ∧ v.slb.stoPin.getD n false = false) ∧
        (8 ≤ n → n < 12 → v.slb.brkCmd.getD (n - 8) false = false ∧ v.slb.brkPin.getD (n - 8) false = false) ∧
        (12 ≤ n → v.slb.chainPin.getD (n - 12) false = false)) ∧
    (∀ (t n : Nat) (on : Bool) (s : State), s.shaped → s.sup.on = true → n < 8 →
      Runs (.encoderFault t n on) s fun v =>
        (getN v.slb.qe n).fault = on ∧
        v.slb.due = s.slb.due ++ (if on = true ∧ (getN s.slb.qe n).fault = false ∧
          (s.at t).params.groups.any (fun g => bit g.axes n) = true then [{ src := 0x02, sto := true }] else []))

/-- R72, R73, R368, R369, R375, R376, R380, R383, R386 and R390. -/
def Obligations.StopEnginesBrakesAndLinkAct : Prop :=
  (∀ (t n i : Nat) (s : State), s.shaped → s.sup.on = true → n < 4 → (getN s.slb.groups n).ss1At = some i →
      i + (getN (s.at t).params.groups n).ss1Max * ms ≤ (s.at t).now →
      (getN s.slb.groups n).state = .time ∨ ((getN s.slb.groups n).state = .ramp ∧ (getN s.slb.groups n).still = none) →
      Runs (.ss1MaxExpiry t n) s fun v =>
        (getN v.slb.groups n).state = .off ∧ (getN v.slb.groups n).end_ = (if (getN s.slb.groups n).state = .time then 4 else 2) ∧
        v.slb.stoPin.getD (2 * n) false = false ∧ v.slb.stoPin.getD (2 * n + 1) false = false ∧
        ∀ m, m ≠ n → getN v.slb.groups m = getN s.slb.groups m) ∧
    (∀ (t n i : Nat) (s : State), s.shaped → s.sup.on = true → n < 4 → (getN s.slb.groups n).state = .ramp →
      (getN s.slb.groups n).still = some i → i + (getN (s.at t).params.groups n).stillTime * ms ≤ (s.at t).now →
      Runs (.standstillHeld t n) s fun v =>
        (getN v.slb.groups n).state = .off ∧ (getN v.slb.groups n).end_ = 1 ∧
        v.slb.stoPin.getD (2 * n) false = false ∧ v.slb.stoPin.getD (2 * n + 1) false = false) ∧
    (∀ (t n : Nat) (s : State), s.shaped → s.sup.on = true → n < 4 → (getN s.slb.brakes n).phase = .wait →
      let r := getN (s.at t).params.brakes n
      (getN s.slb.brakes n).since + r.releaseMs * ms ≤ (s.at t).now → 0 < r.pullinMs →
      Runs (.brakeReleaseDelayExpiry t n) s fun v =>
        (getN v.slb.brakes n).phase = .pullin ∧ (getN v.slb.brakes n).onTime = 1600 ∧
        (n < s.slb.brkCmd.length → v.slb.brkCmd.getD n false = !(s.slb.outFault.getD (8 + n) false))) ∧
    (∀ (t n : Nat) (s : State), s.shaped → s.sup.on = true → n < 4 → (getN s.slb.brakes n).phase = .pullin →
      let r := getN (s.at t).params.brakes n
      (getN s.slb.brakes n).since + r.pullinMs * ms ≤ (s.at t).now →
      Runs (.brakePullinExpiry t n) s fun v =>
        (getN v.slb.brakes n).phase = .hold ∧ (getN v.slb.brakes n).onTime = pwmSteps r (getN s.slb.io (n % 2))) ∧
    (∀ (t i : Nat) (s : State), s.sup.on = true → s.slb.chainAt = some i → i + (s.at t).params.chainPulseMs * ms ≤ (s.at t).now →
      Runs (.chainPulseExpiry t) s fun v => v.slb.chainAt = none ∧ v.slb.groups = s.slb.groups) ∧
    (∀ (t : Nat) (s : State), s.sup.on = true → (s.at t).slb.degRun = true →
      (s.at t).params.degTimerS * 1010 * ms + sec ≤ (s.at t).slb.degElapsed →
      Runs (.slbDegTimerExpiry t) s fun v => v.slb.degDue = true ∧ v.slb.degRun = false) ∧
    (∀ (t : Nat) (f : LinkFrame) (l : List LinkFrame) (s : State), s.sup.on = true → s.slb.link = f :: l →
      (∀ p, s.slb.beat = some p → f.beat = (p + 1) % 256) →
      Runs (.slbLinkFrame t true) s fun v =>
        v.slb.link = l ∧ v.slb.report = f.state ∧ v.slb.reqA = f.stop ∧ v.slb.beat = some f.beat ∧ v.slb.beatAt = (s.at t).now ∧
        v.slb.beatOk = true ∧ v.slb.armed = f.armed ∧ v.slb.due = s.slb.due) ∧
    (∀ (t p : Nat) (f : LinkFrame) (l : List LinkFrame) (s : State), s.sup.on = true → s.slb.link = f :: l →
      s.slb.beat = some p → f.beat ≠ (p + 1) % 256 →
      exec (.slbLinkFrame t true) s = .next (settle (((s.at t).onSlb fun b => { b with link := l }).slbDrop.dieReset))) ∧
    (∀ (t : Nat) (f : LinkFrame) (l : List LinkFrame) (s : State), s.sup.on = true → s.slb.link = f :: l →
      Runs (.slbLinkFrame t false) s fun v =>
        v.slb.link = l ∧ v.slb.report = s.slb.report ∧ v.slb.reqA = s.slb.reqA ∧ v.slb.beatAt = s.slb.beatAt ∧
        v.slb.due = s.slb.due) ∧
    (∀ (t : Nat) (on : Bool) (s : State), s.sup.on = true →
      Runs (.spstopNChange t on) s fun v =>
        v.slb.reqB = on ∧ v.slb.reqBSince = (if s.slb.reqB = on then s.slb.reqBSince else (s.at t).now) ∧
        (v.slb.disagree = none ↔ (on = decide (s.slb.reqA ≠ 0)))) ∧
    (∀ (t i : Nat) (s : State), s.sup.on = true → s.slb.disagree = some i → i + 10 * ms ≤ (s.at t).now →
      Runs (.requestDisagreeExpiry t) s fun v => v.slb.due = s.slb.due ++ [{ src := 0x05, sto := true }]) ∧
    (∀ (t : Nat) (s : State), s.sup.on = true → s.sys.state ≠ .off →
      exec (.heartbeatTimeout t .noEdge) s = .next (settle (s.at t).slbDrop.dieReset)) ∧
    (∀ (t p : Nat) (s : State), s.sup.on = true → s.sys.state ≠ .off → s.slb.beat = some p → s.slb.beatAt + 2 * ms ≤ (s.at t).now →
      exec (.heartbeatTimeout t .noValue) s = .next (settle (s.at t).slbDrop.dieReset)) ∧
    (∀ (t n : Nat) (s : State), s.sup.on = true → s.sys.state ≠ .off →
      let u := (s.at t).onSlb fun b => { b with hbOut := !(decide (2076 ≤ n ∧ n ≤ 2118)) }
      exec (.heartbeatTimeout t (.count n)) s =
        .next (settle (if s.slb.hbOut = true ∧ (n < 2076 ∨ 2118 < n) then u.slbDrop.dieReset else u))) ∧
    (∀ s : State, s.sys.powerFail = false → s.sys.state.permits = true ∨ s.sys.state = .halted →
      s.dieReset = (s.endRecord false 0xF1).beginStart true false) ∧
    (∀ s : State, s.shaped →
      (∀ g ∈ s.slbDrop.slb.groups, g.state = .off) ∧ (∀ n < 8, s.slbDrop.slb.stoCmd.getD n false = false) ∧
        s.slbDrop.slb.permit = false ∧ s.slbDrop.slb.beatOk = false ∧
        s.slbDrop.slb.due = s.slb.due ++ [{ src := 0x05, sto := true }]) ∧
    (∀ (t : Nat) (s : State), s.sup.on = true →
      Runs (.slbOscillatorFault t) s fun v => v.slb.due = s.slb.due ++ [{ src := 0x10, sto := true }]) ∧
    (∀ (t : Nat) (s : State), s.sup.on = true → s.nvm.params.aOk = true → s.nvm.params.bOk = true →
      (Runs (.slbParamCheck t true true) s fun v => v.nvm.params = s.nvm.params ∧ v.slb.due = s.slb.due) ∧
      (Runs (.slbParamCheck t true false) s fun v => v.nvm.params = Copies.put s.nvm.params.a ∧ v.slb.due = s.slb.due) ∧
      (Runs (.slbParamCheck t false true) s fun v => v.nvm.params = Copies.put s.nvm.params.b ∧ v.slb.due = s.slb.due) ∧
      (Runs (.slbParamCheck t false false) s fun v => v.slb.due = s.slb.due ++ [{ src := 0x10, sto := true }]))

/-- R398, R400, R401, R403 to R405 and R407. -/
def Obligations.SafeMessagesAreReceivedAsStated : Prop :=
  (∀ (t : Nat) (m : SafeRx) (i : Instr) (s : State),
      (i = .jointsMessage t m ∧ rxType m = 0x8) ∨ (i = .stopRequest t m ∧ rxType m = 0x9) ∨
        (i = .resetRequest t m ∧ rxType m = 0xA) ∨ (i = .aliveMessage t m ∧ rxType m = 0xB) ∨
        (i = .pathAnnounce t m ∧ rxType m = 0xE) ∨ (i = .safeMessageRefused t m ∧ ((s.at t).rxClass m).refused = true) →
      exec i s = .next (settle ((s.at t).rxAct m))) ∧
    (∀ (t : Nat) (m : SafeRx) (s : State), ((s.at t).rxClass m).refused = false →
      exec (.safeMessageRefused t m) s = .next (settle (s.at t))) ∧
    (∀ (m : SafeRx) (x : RxMsg) (d : Nat) (s : State), s.rxClass m = .first x d →
      ((s.conn x.k).state = .opening ∨ (s.conn x.k).state = .open_) ∧ d ≤ x.cr.window ∧
        d = (rxSeq m + 65536 - (s.conn x.k).seq % 65536) % 65536 ∧
        beAt m.data (8 + x.len) 4 = safeCrc x.cr.vcid (m.data.take (8 + x.len)) ∧
        -1000 ≤ s.msgAge (beAt m.data (4 + x.len) 4) ∧ s.msgAge (beAt m.data (4 + x.len) 4) ≤ s.ageMax x.cr ∧
        s.portOn x.k m.port x.cr = true ∧ rxFlagOk x.cr.flags (rxType m) = true ∧ m.mac = x.cr.mac) ∧
    (∀ (m : SafeRx) (x : RxMsg) (d : Nat) (s : State), s.shaped → x.k < 32 → s.rxClass m = .first x d →
      (s.conn x.k).state = .open_ →
      let v := s.rxAct m
      (v.conn x.k).state = .open_ ∧ (v.conn x.k).seq = (rxSeq m + 1) % 65536 ∧ (v.conn x.k).dogAt = s.now ∧
        (v.conn x.k).lost = satAdd 32 (s.conn x.k).lost d) ∧
    (∀ (m : SafeRx) (x : RxMsg) (s : State), s.shaped → x.k < 32 → s.rxClass m = .opening x →
      let v := s.rxAct m
      (v.conn x.k).state = .opening ∧ (v.conn x.k).seq = (rxSeq m + 1) % 65536 ∧ (v.conn x.k).dogAt = s.now) ∧
    (∀ (m : SafeRx) (k : Nat) (s : State), (s.rxClass m).refused = true →
      let v := s.rxAct m
      (v.conn k).state = (s.conn k).state ∧ (v.conn k).seq = (s.conn k).seq ∧ (v.conn k).dogAt = (s.conn k).dogAt ∧
        (v.conn k).ports = (s.conn k).ports ∧ v.fgu = s.fgu ∧ v.slb = s.slb ∧ v.sys.armedAt = s.sys.armedAt) ∧
    (∀ (m : SafeRx) (x : RxMsg) (s : State), (s.rxClass m).good = some x → rxType m = 0x9 →
      ({ src := 0x0E, sto := false } : Trip) ∈ (s.rxAct m).sys.pendTrips) ∧
    (∀ (conn : Nat) (p : Pair) (act : Bool) (s : State),
      (s.resetDecided conn p act).sys.armedAt =
        if act = true ∧ beAt p.data 4 4 = s.vrd.revoked ∧ s.sys.state = .halted then some s.now else s.sys.armedAt) ∧
    (∀ (m : SafeRx) (x : RxMsg) (s : State), s.shaped → x.k < 32 → m.port < 2 → (s.conn x.k).ports.length = 2 →
      s.rxClass m = .announce x → getN (s.conn x.k).ports m.port = false →
      getN ((s.rxAct m).conn x.k).ports m.port = true →
      beAt m.data 4 1 = m.port ∧ bit x.cr.flags 1 = true ∧
        ((s.conn x.k).state = .opening ∨ (s.conn x.k).state = .open_)) ∧
    (∀ (m : SafeRx) (x : RxMsg) (s : State), s.shaped → x.k < 32 → s.rxClass m = .second x false →
      let v := s.rxAct m
      (v.conn x.k).state = .failed ∧ (v.conn x.k).pairs = [] ∧ (v.conn x.k).mismatch = satAdd 16 (s.conn x.k).mismatch 1)

/-- R399, R402, R403, R405, R406, R408, R415, R416, R418 and R479. -/
def Obligations.ConnectionsTimersAndCheckValuesAct : Prop :=
  (∀ (t n q k : Nat) (r : ConnRec) (p : Pair) (s : State), s.shaped → k < 32 → s.img.conn n = some (k, r) →
      (s.conn k).pairs.find? (fun p => p.seq == q && !p.decided && (s.at t).past p.at_ (s.img.messages.skewUs * 1000)) = some p →
      (s.at t).smlOn = true →
      Runs (.skewWindowEnd t n q) s fun v =>
        (v.conn k).single = (s.conn k).single + 1 ∧ (v.conn k).seq = (s.conn k).seq ∧ (v.conn k).state = (s.conn k).state) ∧
    (∀ (q p : Nat) (got : List Bool) (c : Conn), p < 2 → getN got p = false → getN c.ports p = true → c.counts p q = true →
      getN (c.monitor q got).missing p = getN c.missing p + 1 ∧
        getN (c.monitor q got).ports p = decide (getN c.missing p + 1 < 3)) ∧
    (∀ (t n k : Nat) (r : ConnRec) (s : State), s.shaped → k < 32 → s.img.conn n = some (k, r) → s.img.slot k = some r →
      (s.at t).smlOn = true → r.dir = 0 → (s.conn k).state = .open_ → (s.conn k).dogAt + r.watchdog * ms ≤ (s.at t).now →
      Runs (.smlWatchdogExpiry t n) s fun v =>
        (v.conn k).state = .failed ∧ (v.conn k).fails = satAdd 8 (s.conn k).fails 1 ∧
        v.sys.pendTrips = s.sys.pendTrips ++ (if bit r.flags 0 = true then [{ src := 0x08, sto := false }] else [])) ∧
    (∀ (t n k : Nat) (r : ConnRec) (s : State), s.shaped → k < 32 → s.img.conn n = some (k, r) →
      (s.at t).smlOn = true → r.dir = 0 → (s.conn k).state = .opening → (s.conn k).dogAt + r.watchdog * ms ≤ (s.at t).now →
      Runs (.smlOpeningExpiry t n) s fun v => (v.conn k).state = .closed ∧ v.sys.pendTrips = s.sys.pendTrips) ∧
    (∀ (t : Nat) (s : State), (s.at t).smlOn = true → (s.at t).singleExpired = true →
      Runs (.singlePathTimerExpiry t) s fun v => v.sys.pendTrips = s.sys.pendTrips ++ [{ src := 0x0C, sto := false }]) ∧
    (∀ (t n k : Nat) (r : ConnRec) (s : State), s.shaped → k < 32 → s.img.conn n = some (k, r) → s.img.slot k = some r →
      (s.at t).smlOn = true → r.dir = 1 → (s.conn k).statusAt + r.period * ms ≤ (s.at t).now →
      Runs (.statusSend t n) s fun v =>
        (v.conn k).seq = ((s.conn k).seq + 1) % 65536 ∧ (v.conn k).statusAt = (s.at t).now ∧
        ∃ pay, pay.length = 24 ∧ v.out = (([0, 1].filter fun p => s.sml.link.getD p false).map fun p =>
          .safe p r.mac r.vid r.pcp (safeFrame r 1 (s.conn k).seq pay (s.at t).devUs))) ∧
    (∀ (t p : Nat) (s : State), (s.at t).smlOn = true → p < 2 → getN s.sml.link p = true →
      (∀ i, getN s.sml.annAt p = some i → i + 100 * ms ≤ (s.at t).now) →
      Runs (.pathAnnounceSend t p) s fun v =>
        v.sml.conns = s.sml.conns ∧ v.sml.annAt = setN s.sml.annAt p (some (s.at t).now) ∧ ∀ o ∈ v.out, ∃ k r, s.img.slot k = some r ∧ r.dir = 1 ∧
          o = .safe p r.mac r.vid r.pcp
            (safeFrame r 0xE (((s.conn k).seq + 65535) % 65536) [byte p, 0, 0, 0] (s.at t).devUs)) ∧
    (∀ (t p : Nat) (s : State), s.shaped → (s.at t).regsUp = true → p < 2 →
      Runs (.ethLinkChange t p false) s fun v =>
        getN v.sml.link p = false ∧ (∀ k < 32, getN (v.conn k).ports p = false) ∧ (v.singlePath = true ∨ s.sml.link.length ≤ p) ∧
        (s.sys.state.idle = false → p < s.sml.link.length → v.sml.singleAt = some (s.sml.singleAt.getD (s.at t).now))) ∧
    (∀ (t p : Nat) (s : State), (s.at t).regsUp = true → p < 2 → p < s.sml.link.length →
      Runs (.ethLinkChange t p true) s fun v => getN v.sml.link p = true ∧ v.sml.conns = s.sml.conns) ∧
    (∀ (t n : Nat) (r : CvuReq) (s : State), s.shaped → (s.at t).regsUp = true → n < 32 → (getN s.cvu.chans n).service = true →
      r.disagree = false → (getN s.cvu.chans n).alive ≠ 1 →
      Runs (.cvuComputeComplete t n r) s fun v =>
        let c := getN s.cvu.chans n
        let w := getN v.cvu.chans n
        w.result = crcOf c.poly r.input ∧
          w.crcErr = (if r.expected.any (· ≠ crcOf c.poly r.input) = true then satInc c.crcErr else c.crcErr) ∧
          w.aliveErr = if c.alive = 2 ∧ c.primed = true ∧ aliveAt r.input c.pos ≠ (c.now + 1) % 16 then satInc c.aliveErr
            else c.aliveErr) ∧
    (∀ (t n m : Nat) (r : CvuReq) (s : State), s.shaped → (s.at t).regsUp = true → n < 28 → (getN s.cvu.chans n).service = true →
      r.disagree = true → (getN s.cvu.chans n).user ≠ 0xFF → (s.at t).cvuSpare = some m →
      Runs (.cvuComputeComplete t n r) s fun v =>
        (getN v.cvu.chans n).service = false ∧ 28 ≤ m ∧ (getN v.cvu.chans m).user = (getN s.cvu.chans n).user ∧
        (getN v.cvu.chans m).poly = (getN s.cvu.chans n).poly) ∧
    (∀ (t : Nat) (s : State), (s.at t).smlOn = true →
      (∀ k ∈ s.rxSlots 4, ∃ i, (s.conn k).aliveSince = some i ∧ i + 100 * ms ≤ (s.at t).now) →
      (∀ k ∈ s.rxSlots 0, (s.conn k).state = .open_) →
      Runs (.connectionPause t) s fun v =>
        ∀ k ∈ s.rxSlots 4, k < s.sml.conns.length → (v.conn k).paused = true ∧ (v.conn k).dogAt = (s.conn k).dogAt)

/-- R425, R428, R429, R431 to R433 and R440; the delay of a hop beyond the neighbour is a free value (log entry 35). -/
def Obligations.RingFormsAndKeepsItsCycle : Prop :=
  (∀ (t : Nat) (s : State), s.xwl.phase = .listen → (s.at t).xwlOn = true →
      s.xwl.phaseAt + (200000 + s.ring.nodeId * 50000) ≤ (s.at t).now →
      Runs (.xwlListenExpiry t) s fun v =>
        v.xwl.phase = .claim ∧ v.xwl.phaseAt = (s.at t).now ∧ v.xwl.alive = (s.xwl.alive + 1) % 16 ∧
        v.out = [.xwl 0 ((s.at t).xwlHeader 3 (s.at t).dev), .xwl 1 ((s.at t).xwlHeader 3 (s.at t).dev)]) ∧
    (∀ (t : Nat) (m : XwlRx) (s : State), s.shaped → (s.at t).hears 3 m →
      Runs (.xwlClaimReceived t m) s fun v =>
        (s.xwl.phase = .claim → (s.at t).now ≤ s.xwl.phaseAt + 2000 →
          v.xwl.phase = .backoff ∧ v.xwl.phaseAt = (s.at t).now ∧ v.xwl.collisions = satAdd 8 s.xwl.collisions 1) ∧
        (s.xwl.phase = .listen ∨ s.xwl.phase = .backoff →
          v.xwl.phase = .integrate ∧ v.xwl.masterId = xSrc m ∧ v.xwl.master = false) ∧
        (s.xwl.phase = .member ∨ s.xwl.phase = .integrate → v.xwl.phase = s.xwl.phase ∧ v.xwl.masterId = s.xwl.masterId)) ∧
    (∀ (t : Nat) (s : State), s.xwl.phase = .backoff → s.xwl.phaseAt + (ms + s.ring.nodeId * 100000) ≤ (s.at t).now →
      Runs (.xwlBackoffExpiry t) s fun v => v.xwl.phase = .listen ∧ v.xwl.phaseAt = (s.at t).now) ∧
    (∀ (t : Nat) (s : State), s.clk.xwlOk = true → s.xwl.phase = .claim → s.xwl.phaseAt + 100000 ≤ (s.at t).now →
      Runs (.xwlCycleStart t) s fun v =>
        v.xwl.phase = .member ∧ v.xwl.master = true ∧ v.xwl.masterId = s.ring.nodeId ∧ v.xwl.cycle = 0 ∧
        v.xwl.cycleAt = (s.at t).now ∧ (s.xwl.dup = false → ∃ f, v.out = [.xwl 0 f, .xwl 1 f] ∧ f.getD 0 0 = 1)) ∧
    (∀ (t : Nat) (s : State), s.clk.xwlOk = true → s.xwl.phase = .member → s.xwl.cycleAt + 99900 ≤ (s.at t).now →
      Runs (.xwlCycleStart t) s fun v =>
        v.xwl.cycle = (s.xwl.cycle + 1) % 2 ^ 32 ∧ v.xwl.cycleAt = (s.at t).now ∧ v.xwl.slotDone = false ∧
        v.xwl.noSync = (if s.xwl.master then 0 else s.xwl.noSync + 1) ∧ (s.xwl.master = false → v.out = []) ∧
        (s.xwl.master = true → s.xwl.dup = false → ∃ f, v.out = [.xwl 0 f, .xwl 1 f] ∧ f.getD 0 0 = 1)) ∧
    (∀ (t : Nat) (m : XwlRx) (s : State), s.shaped → (s.at t).hears 1 m → s.xwl.phase = .member ∨ s.xwl.phase = .integrate →
      s.xwl.master = false → xSrc m = s.xwl.masterId →
      Runs (.xwlSyncReceived t m) s fun v =>
        let d := s.pathDelay m
        v.xwl.cycle = xCycle m ∧ v.xwl.cycleAt = (s.at t).now - d ∧ v.xwl.noSync = 0 ∧ v.xwl.masterId = s.xwl.masterId ∧
          v.xwl.timeOfs = sat32 ((xTime m : Int) + d - (s.at t).dev)) ∧
    (∀ (t : Nat) (m : XwlRx) (s : State), s.shaped → (s.at t).hears 1 m → s.xwl.phase = .member → s.xwl.master = true →
      Runs (.xwlSyncReceived t m) s fun v =>
        v.xwl.master = !(decide (xSrc m < s.ring.nodeId)) ∧
        v.xwl.masterId = if xSrc m < s.ring.nodeId then xSrc m else s.xwl.masterId) ∧
    (∀ (k : Nat) (m : XwlRx) (f : State → State) (s : State), s.xwl.phase ≠ .off → s.clk.xwlOk = true → m.lane < 2 →
      xOk m = false → s.xwlRx k m f = (s.xwlLane m.lane).xwlBad m) ∧
    (∀ (t : Nat) (s : State), s.xwl.phase = .member → s.xwl.master = false → 4 ≤ s.xwl.noSync →
      Runs (.xwlSyncLoss t) s fun v =>
        match (List.range 8).find? fun n => s.inRoster n && n != s.xwl.masterId with
        | some n => v.xwl.masterId = n ∧ v.xwl.master = decide (n = s.ring.nodeId) ∧ v.xwl.noSync = 0
        | none => v.xwl.phase = .listen ∧ v.xwl.phaseAt = (s.at t).now) ∧
    (∀ (t a b : Nat) (s : State), s.clk.xwlOk = true →
      s.xwl.phase = .integrate ∨ (s.xwl.phase = .member ∧ 1000 ≤ s.xwl.measured) →
      Runs (.xwlDelayMeasure t a b) s fun v => v.xwl.delays = [a, b] ∧ v.xwl.measured = 0) ∧
    (∀ (t n : Nat) (s : State), s.shaped → n < 2 → s.xwl.phase ≠ .off → getN s.xwl.lanes n = true →
      Runs (.xwlLaneLoss t n) s fun v =>
        getN v.xwl.lanes n = false ∧ v.xwl.line = true ∧ v.xwl.phase = s.xwl.phase ∧ bit v.xwl.events 1 = true)

/-- R426, R431, R435 and R438; what a BULK payload holds beyond Table 15.2 is open (log entry 30). -/
def Obligations.RingStopsAndSharesAsStated : Prop :=
  (∀ (t : Nat) (s : State), (s.at t).xwlOn = true → s.xwl.phase = .member ∨ (s.xwl.phase = .integrate ∧ 3 ≤ s.xwl.seen) →
      s.xwl.slotDone = false → s.xwl.cycleAt + (2 + 2 * s.ring.nodeId) * 1000 ≤ (s.at t).now →
      Runs (.xwlSafetySlot t) s fun v =>
        v.xwl.phase = .member ∧ v.xwl.slotDone = true ∧ ∃ f, v.out = [.xwl 0 f, .xwl 1 f] ∧ f.getD 0 0 = 2) ∧
    (∀ (t : Nat) (m : XwlRx) (s : State), s.shaped → (s.at t).hears 2 m →
      Runs (.xwlSafetyReceived t m) s fun v =>
        (v.node (xSrc m)).roster = true ∧ (v.node (xSrc m)).heard = some (s.at t).now ∧
        (v.node (xSrc m)).stop = beAt m.data 17 1 % 4 ∧
        v.sys.pendTrips = s.sys.pendTrips ++
          (if s.ringAsks < v.ringAsks then [{ src := 0x0F, sto := decide (v.ringAsks = 2) }] else [])) ∧
    (∀ (t n i : Nat) (s : State), s.shaped → n < 8 → (s.node n).roster = true → (s.node n).heard = some i →
      i + s.ring.nodeTimeout * ms ≤ (s.at t).now →
      Runs (.xwlNodeTimeout t n) s fun v =>
        (v.node n).roster = false ∧ v.xwl.up = false ∧
        v.sys.pendTrips = s.sys.pendTrips ++
          (if s.ringAsks < v.ringAsks then [{ src := 0x0F, sto := decide (v.ringAsks = 2) }] else [])) ∧
    (∀ (t n : Nat) (s : State), n < 8 → (s.at t).xwlOn = true → s.xwl.phase = .member → bit s.ring.units n = true →
      bit s.xwl.unitsDone n = false → s.xwl.cycleAt + (18 + 10 * n) * 1000 ≤ (s.at t).now →
      exec (.xwlBulkUnit t n) s = .next (settle (
        ((s.at t).onXwl fun w => { w with unitsDone := w.unitsDone ||| 2 ^ n }).sendBulk (s.xwl.bulk.length + 1) 26000))) ∧
    (∀ (n room dest job : Nat) (pay : Bytes) (l : List (Nat × Nat × Bytes)) (s : State), s.xwl.bulk = (dest, job, pay) :: l →
      s.inRoster dest = true → 0 < room → room < pay.length →
      let v := State.sendBulk (n + 1) room s
      v.xwl.bulk = (dest, job, pay.drop room) :: l ∧
        v.out = s.out ++ [.xwl 0 (s.bulkFrame dest job (pay.take room)), .xwl 1 (s.bulkFrame dest job (pay.take room))]) ∧
    (∀ (t : Nat) (m : XwlRx) (s : State), s.shaped → (s.at t).hears 4 m → beAt m.data 64 1 ≠ s.ring.nodeId →
      Runs (.xwlBulkReceived t m) s fun v =>
        v.vrd = s.vrd ∧ v.aud = s.aud ∧ v.mem = s.mem ∧ v.xwl.bulkRx = s.xwl.bulkRx ∧
        v.out = if 0 < s.rosterSize ∧ s.rosterSize ≤ xHops m + 1 then [] else [.xwl (1 - m.lane) (m.data.set 2 (byte (xHops m + 1)))]) ∧
    (∀ (t : Nat) (m : XwlRx) (s : State), s.shaped → (s.at t).hears 4 m → beAt m.data 64 1 = s.ring.nodeId →
      72 ≤ m.data.length →
      let pay := (m.data.drop 68).dropLast.dropLast.dropLast.dropLast
      crc32c pay = beAt m.data (m.data.length - 4) 4 →
      exec (.xwlBulkReceived t m) s = .next (settle (
        (((((s.at t).xwlLane m.lane).xwlForward m).xwlFirst m).2.wake).takeBulk (xSrc m) (beAt m.data 65 3) pay))) ∧
    (∀ (t job i : Nat) (r : Result) (s : State), s.xwl.handed.find? (·.1 == job) = some (job, i) →
      i + s.ring.returnUs * 1000 ≤ (s.at t).now → s.vrd.results.find? (fun r => r.auditJob == some job) = some r →
      let u := (s.at t).onXwl fun w =>
        { w with shareTimeout := satInc w.shareTimeout, events := w.events ||| 16,
                 handed := w.handed.filter (·.1 ≠ job), bulk := w.bulk.filter fun b => b.2.1 ≠ job }
      exec (.xwlReturnTimeout t job) s = .next (settle (u.endHanded r job (.failed 0x30) false).settleWork) ∧
        (u.endHanded r job (.failed 0x30) false).vrd.results =
          s.vrd.results.map fun x => if x.is r.q r.seq then { x with audit := .failed 0x30 } else x)

/-- R453 to R457 and R464. -/
def Obligations.QueuesAreConfiguredAndSignalledAsStated : Prop :=
  (∀ (t q x : Nat) (s : State), s.shaped → q < 64 → (s.at t).regsUp = true → (s.hqueue q).en = true →
      (s.hqueue q).resetting = false → x < 4096 →
      Runs (.sqTailDoorbell t q x) s fun v =>
        if x < 2 ^ (s.hqueue q).sqLog then (v.hqueue q).sqTail = x ∧ (v.hqueue q).error = (s.hqueue q).error
        else (v.hqueue q).sqTail = (s.hqueue q).sqTail ∧ (v.hqueue q).error = true ∧ (v.hqueue q).err = 3) ∧
    (∀ (t q : Nat) (s : State), s.shaped → q < 64 → (s.at t).regsUp = true →
      (Runs (.hqEnableWrite t q false) s fun v => (v.hqueue q).en = false) ∧
      (s.hq.opened = true → (s.hqueue q).en = false → Runs (.hqEnableWrite t q true) s fun v =>
        (v.hqueue q).en = s.queueOk q ∧ (s.queueOk q = false → (s.hqueue q).error = false → (v.hqueue q).err = 0)) ∧
      (s.hq.opened = false → exec (.hqEnableWrite t q true) s = .next (settle (s.at t)))) ∧
    (∀ (t q : Nat) (s : State), s.shaped → q < 64 → (s.at t).regsUp = true →
      Runs (.hqReset t q) s fun v =>
        (v.hqueue q).resetting = true ∧ (v.hqueue q).sqTail = (s.hqueue q).sqTail ∧ v.vrd = s.vrd) ∧
    (∀ (t q : Nat) (s : State), s.shaped → q < 64 → (s.at t).regsUp = true → (s.hqueue q).resetting = true →
      s.inFlight q = [] →
      Runs (.queueResetComplete t q) s fun v =>
        let h := v.hqueue q
        h.sqHead = 0 ∧ h.sqTail = 0 ∧ h.cqHead = 0 ∧ h.cqTail = 0 ∧ h.phase = true ∧ h.error = false ∧ h.resetting = false ∧
          h.en = false ∧ h.sqBase = (s.hqueue q).sqBase ∧ h.sqLog = (s.hqueue q).sqLog ∧ v.vrd = s.vrd) ∧
    (∀ (t q : Nat) (r : Result) (l : List Result) (s : State), s.inFlight q = r :: l →
      exec (.queueResetComplete t q) s = .next (settle (s.at t))) ∧
    (∀ (t q : Nat) (c : ChanRec) (s : State), s.shaped → q < 64 → (s.at t).regsUp = true → s.boundChan q = some c → c.ch < 512 →
      Runs (.hqResume t q) s fun v =>
        if s.allLive c.streams = true then
          (v.hqueue q).hold = false ∧ (v.hqueue q).error = false ∧ (v.hqueue q).chFault = false ∧
            (v.tchan c.ch).fault = false ∧ (v.tchan c.ch).free = true ∧ (v.tchan c.ch).timerAt = none
        else v.hq = s.hq ∧ v.tsu = s.tsu) ∧
    (∀ (t q x : Nat) (s : State), s.shaped → q < 64 → (s.at t).regsUp = true → x < 4096 →
      Runs (.cqHeadWrite t q x) s fun v => (v.hqueue q).cqHead = x ∧ v.vrd = s.vrd) ∧
    (∀ (q : Nat) (e : Bytes) (s : State), s.shaped → q < 64 → (s.hqueue q).free = 0 →
      (s.cqPost q e).out = s.out ∧ ((s.cqPost q e).hqueue q).cqTail = (s.hqueue q).cqTail ∧
        ((s.cqPost q e).hqueue q).recov.length = (s.hqueue q).recov.length + 1) ∧
    (∀ (t q c u : Nat) (m : Bool) (s : State), s.shaped → q < 64 → (s.at t).regsUp = true → 1 ≤ c → c ≤ 64 → u ≤ 1000 →
      Runs (.hqIrqWrite t q (c + u * 2 ^ 16 + flg m 31)) s fun v =>
        (v.hqueue q).irqCount = c ∧ (v.hqueue q).irqTime = u ∧ (v.hqueue q).irqMask = m ∧
        ((s.hqueue q).irqMask = true → m = false → (s.hqueue q).unsig ≠ 0 → v.out = [.msix q] ∧ (v.hqueue q).unsig = 0)) ∧
    (∀ (t q i : Nat) (s : State), s.shaped → q < 64 → (s.at t).regsUp = true → (s.hqueue q).unsig ≠ 0 →
      (s.hqueue q).firstAt = some i → i + (s.hqueue q).irqTime * 1000 ≤ (s.at t).now →
      Runs (.irqTimeExpiry t q) s fun v =>
        if (s.hqueue q).irqMask then v.out = [] ∧ (v.hqueue q).unsig = (s.hqueue q).unsig
        else v.out = [.msix q] ∧ (v.hqueue q).unsig = 0 ∧ (v.hqueue q).firstAt = none) ∧
    (∀ (t n x : Nat) (s : State), s.shaped → n < 16 → (s.at t).regsUp = true → x < 4096 → x < 2 ^ (getN s.hq.rings n).sizeLog →
      Runs (.deliveryTailWrite t n x) s fun v =>
        (getN v.hq.rings n).tail = x ∧ (getN v.hq.rings n).head = (getN s.hq.rings n).head) ∧
    (∀ (t : Nat) (s : State), (s.at t).regsUp = true →
      Runs (.pcieFunctionLevelReset t) s fun v =>
        (∀ h ∈ v.hq.queues, h.resetting = true) ∧ (∀ d ∈ v.hq.rings, d.head = 0 ∧ d.tail = 0 ∧ d.phase = true) ∧
        v.hq.queues.length = s.hq.queues.length ∧ v.vrd = s.vrd ∧ v.mem = s.mem)

/-- R449, R450, R458 to R460; that an access across the split of BAR2 is refused is the model's choice (NOTES.md). -/
def Obligations.HostWritesReachOnlyGrantedUnlockedBytes : Prop :=
  (∀ (t a : Nat) (r : Bar2Req) (s v : State), exec (.bar2Access t r) s = .next v → memGet v.mem a ≠ memGet s.mem a →
      ∃ b c rule, r.write = some b ∧ s.bar2Ident r = some c ∧ rule ∈ s.rulesOf c ∧ bit rule.perm 1 = true ∧
        rule.base ≤ bar2Addr r.offset ∧ bar2Addr r.offset + b.length ≤ rule.base + rule.pages * 4096 ∧
        bar2Addr r.offset ≤ a ∧ a < bar2Addr r.offset + b.length ∧ ∀ l ∈ s.fwl.locks, ¬(l.lo ≤ a ∧ a < l.lo + l.len)) ∧
    (∀ (t c : Nat) (r : Bar2Req) (s : State), s.shaped → (s.at t).regsUp = true → s.sys.state ≠ .doldrums →
      let n := match r.write with | some b => b.length | none => r.length
      r.offset + n ≤ 0x40000000 → bar2Range r.offset n = true → s.bar2Ident r = some c → c < 512 →
      s.wall c r.write.isSome (bar2Addr r.offset) n ≠ .pass →
      Runs (.bar2Access t r) s fun v =>
        v.mem = s.mem ∧ v.out = [if r.write.isSome then .pcieWrite 2 else .pcieRead 2 []] ∧ v.fwl.ident = c ∧
        v.fwl.addr = bar2Addr r.offset ∧ v.fwl.write = r.write.isSome ∧ v.fwl.count = satInc s.fwl.count ∧
        v.fwl.locked = decide (s.wall c r.write.isSome (bar2Addr r.offset) n = .locked) ∧ v.hq.aer = satInc s.hq.aer ∧
        (v.tchan c).fault = true ∧
        ((s.tchan c).fault = false → (v.tchan c).cause = if s.wall c r.write.isSome (bar2Addr r.offset) n = .locked then 7 else 6)) ∧
    (∀ (t c : Nat) (b : Bytes) (r : Bar2Req) (s : State), (s.at t).regsUp = true → s.sys.state ≠ .doldrums → r.write = some b →
      let a := bar2Addr r.offset
      r.offset + b.length ≤ 0x40000000 → bar2Range r.offset b.length = true → s.bar2Ident r = some c →
      s.wall c true a b.length = .pass → s.inProc a b.length = false → s.partPoisoned a b.length = false →
      Runs (.bar2Access t r) s fun v =>
        v.out = [.pcieWrite 0] ∧
        ∀ x : Nat, memGet v.mem x = if a ≤ x ∧ x < a + b.length then b.getD (x - a) 0 else memGet s.mem x) ∧
    (∀ (t c : Nat) (r : Bar2Req) (s : State), (s.at t).regsUp = true → s.sys.state ≠ .doldrums → r.write = none →
      let a := bar2Addr r.offset
      r.offset + r.length ≤ 0x40000000 → bar2Range r.offset r.length = true → s.bar2Ident r = some c →
      s.wall c false a r.length = .pass → s.inProc a r.length = false → s.poisoned a r.length = false →
      Runs (.bar2Access t r) s fun v => v.out = [.pcieRead 0 (s.peekN a r.length)] ∧ v.mem = s.mem) ∧
    (∀ (t : Nat) (r : Bar2Req) (s : State), (s.at t).regsUp = true → s.sys.state ≠ .doldrums →
      r.offset + (match r.write with | some b => b.length | none => r.length) ≤ 0x40000000 → s.bar2Ident r = none →
      Runs (.bar2Access t r) s fun v =>
        v.fwl.noId = satInc s.fwl.noId ∧ v.mem = s.mem ∧
        v.out = [if r.write.isSome then .pcieWrite 1 else .pcieRead 1 []]) ∧
    (∀ (t : Nat) (r : Bar2Req) (s : State), (s.at t).regsUp = true → s.sys.state = .doldrums →
      Runs (.bar2Access t r) s fun v =>
        v.mem = s.mem ∧ v.fwl = s.fwl ∧ v.out = [if r.write.isSome then .pcieWrite 1 else .pcieRead 1 []]) ∧
    (∀ (c a n : Nat) (w : Bool) (s : State), 0 < n → (∀ l ∈ s.fwl.locks, 0 < l.len) →
      (s.wall c w a n = .pass ↔
        (∃ rule ∈ s.rulesOf c, bit rule.perm (b2n w) = true ∧ rule.base ≤ a ∧ a + n ≤ rule.base + rule.pages * 4096) ∧
          (w = true → ∀ x, a ≤ x → x < a + n → ∀ l ∈ s.fwl.locks, ¬(l.lo ≤ x ∧ x < l.lo + l.len))))

/-- R461, R463 and R464; that the order check is enabled by a mask other than 0 is the model's choice (log entry 45). -/
def Obligations.ChannelsAreSupervisedAsStated : Prop :=
  (∀ (t c cp : Nat) (r : ChanRec) (s : State), s.shaped → c < 512 → cp < 16 → (s.at t).tsuOn = true → s.img.chan c = some r →
      Runs (.hqCheckpoint t (c + cp * 65536)) s fun v =>
        let x := s.tchan c
        let y := v.tchan c
        y.lastCp = cp ∧ y.free = false ∧ y.alive = x.alive + 1 ∧
          (r.ordered = true → x.free = false → bit (getN r.order x.lastCp) cp = false → y.fault = true) ∧
          (r.aliveWindow ≠ 0 → x.alive = r.aliveMax → y.fault = true) ∧
          (x.timerAt = none → cp = r.startCp → r.deadlineUs ≠ 0 → y.timerAt = some (s.at t).now) ∧
          (x.timerAt.isSome = true → y.timerAt = if cp = r.endCp then none else x.timerAt)) ∧
    (∀ (t c : Nat) (r : ChanRec) (s : State), s.shaped → c < 512 → (s.at t).tsuOn = true → s.img.chan c = some r →
      r.aliveWindow ≠ 0 → (s.tchan c).windowAt + r.aliveWindow * ms ≤ (s.at t).now →
      Runs (.tsuAliveWindowEnd t c) s fun v =>
        let x := s.tchan c
        let y := v.tchan c
        y.windowAt = x.windowAt + r.aliveWindow * ms ∧ y.alive = 0 ∧
          (x.alive < r.aliveMin → y.fault = true ∧ (x.fault = false → y.cause = 1) ∧ v.tsu.faults = satInc s.tsu.faults) ∧
          (r.aliveMin ≤ x.alive → r.queue ≠ 0xFF → y.fault = x.fault ∧ v.tsu.faults = s.tsu.faults)) ∧
    (∀ (t c i : Nat) (r : ChanRec) (s : State), s.shaped → c < 512 → (s.at t).tsuOn = true → s.img.chan c = some r →
      r.deadlineUs ≠ 0 → (s.tchan c).late = false → (s.tchan c).timerAt = some i → i + r.deadlineUs * 1000 ≤ (s.at t).now →
      Runs (.tsuDeadlineExpiry t c) s fun v =>
        (v.tchan c).fault = true ∧ (v.tchan c).late = true ∧ (v.tchan c).timerAt = some i ∧
        ((s.tchan c).fault = false → (v.tchan c).cause = 3) ∧ ((s.tchan c).fault = true → (v.tchan c).cause = (s.tchan c).cause)) ∧
    (∀ (t c : Nat) (r : ChanRec) (s : State), s.shaped → c < 512 → (s.at t).tsuOn = true → s.img.chan c = some r →
      r.budgetUs ≠ 0 → (s.tchan c).spent = false → r.budgetUs * 1000 < (s.at t).budgetUsed c →
      Runs (.tsuBudgetExceeded t c) s fun v =>
        (v.tchan c).fault = true ∧ (v.tchan c).spent = true ∧ ((s.tchan c).fault = false → (v.tchan c).cause = 4)) ∧
    (∀ (t c : Nat) (r : ChanRec) (s : State), s.shaped → c < 512 → (s.at t).tsuOn = true → s.img.chan c = some r →
      r.budgetUs ≠ 0 → (s.tchan c).periodAt + r.budgetPeriod * ms ≤ (s.at t).now →
      Runs (.tsuBudgetPeriodEnd t c) s fun v =>
        (v.tchan c).used = 0 ∧ (v.tchan c).spent = false ∧ (v.tchan c).fault = (s.tchan c).fault ∧
        (v.tchan c).periodAt = (s.tchan c).periodAt + r.budgetPeriod * ms) ∧
    (∀ (c cause : Nat) (r : ChanRec) (s : State), s.shaped → c < 512 → s.img.chan c = some r → r.queue < 64 →
      let v := s.chFault c cause
      (v.hqueue r.queue).chFault = true ∧ (bit r.flags 0 = true → (v.hqueue r.queue).hold = true) ∧
        (v.tchan c).cause = (if (s.tchan c).fault then (s.tchan c).cause else cause) ∧ v.sys = s.sys ∧ v.vrd = s.vrd)

/-- R471 to R474, R478, R480 and R483 to R485. -/
def Obligations.PowerStatesAndBackgroundDeadlinesAct : Prop :=
  (∀ (t i : Nat) (p : PState) (s : State), (s.at t).psmOn = true → s.psm.entering = some (p, i) → i + p.entry ≤ (s.at t).now →
      Runs (.psmEntryComplete t) s fun v =>
        v.psm.state = p ∧ v.psm.entering = none ∧ v.mem = s.mem ∧
        (p.deep = true → v.beu.stks = s.beu.stks.map fun k => { k with selfRefresh := k.selfRefresh || k.restful }) ∧ (p.deep = false → v.beu = s.beu)) ∧
    (∀ (t : Nat) (p : PState) (s : State), (s.at t).psmOn = true → s.psm.waking = none → s.psm.deepest? = some p →
      (s.at t).plannedDue p = true →
      Runs (.psmPlannedWake t) s fun v =>
        v.psm.waking = some ((s.at t).now, true) ∧ v.psm.entering = none ∧ v.psm.planned = satAdd 16 s.psm.planned 1 ∧
        v.psm.state = s.psm.state) ∧
    (∀ (t m i : Nat) (b : Bool) (s : State), (s.at t).psmOn = true → s.psm.waking = some (i, b) →
      exec (.psmWakeComplete t m) s = .next (settle (
        let u := ((s.at t).latency 0x08 noSub ((s.at t).now - i)).exitDeep
        (u.each ((List.range 16).filter fun n => bit m n && (u.acore n).serves) fun n s => s.fence n 9).settleWork))) ∧
    (∀ s : State, s.exitDeep.psm.state = .gale ∧ s.exitDeep.psm.waking = none ∧
      (∀ k ∈ s.exitDeep.beu.stks, k.selfRefresh = false) ∧ (∀ c ∈ s.exitDeep.aud.cores, c.gated = false) ∧
      (s.psm.state = .calm → s.exitDeep.fgu.broken = true ∧ s.exitDeep.fgu.egoValid = false) ∧
      ∀ a : Nat, memGet s.exitDeep.mem a =
        if s.psm.state = .calm ∧ ((List.range 16).any fun n => decide (coreBase n ≤ a ∧ a < coreBase n + 0x200000)) = true then 0
        else memGet s.mem a) ∧
    (∀ (t i : Nat) (b : Bool) (s : State), (s.at t).psmOn = true → s.psm.waking = some (i, b) →
      i + s.psm.state.exit + 50000 < (s.at t).now →
      exec (.psmWakeFault t) s = .next (settle (
        ((((s.at t).exitDeep.onPsm fun p => { p with wakeFault := true, events := p.events ||| 2 }).evOpen 0x0F "WAKE_FAULT" noSub 0
          ).settleWork)))) ∧
    (∀ (t a : Nat) (s : State), s.shaped → a < 5 → a ≠ 1 → (s.at t).psmOn = true →
      (getN s.psm.bg a).near (s.at t).now a = true →
      Runs (.bgUrgent t a) s fun v =>
        (getN v.psm.bg a).urgent = true ∧ (getN v.psm.bg a).from_ = (getN s.psm.bg a).from_ ∧ v.psm.state = s.psm.state) ∧
    (∀ (t n : Nat) (s : State), s.shaped → n < 16 → (s.at t).psmOn = true → (s.acore n).state = .admitted →
      (getN s.psm.tests n).near (s.at t).now 1 = true →
      Runs (.bgUrgent t 1) s fun v => (getN v.psm.tests n).urgent = true ∧ (getN v.psm.bg 1).urgent = true) ∧
    (∀ (t a : Nat) (s : State), s.shaped → a < 5 → a ≠ 1 → (s.at t).psmOn = true →
      (getN s.psm.bg a).from_ + bgDeadline a ≤ (s.at t).now →
      Runs (.bgDeadlineMiss t a) s fun v =>
        let x := getN s.psm.bg a
        let y := getN v.psm.bg a
        y.misses = satAdd 8 x.misses 1 ∧ y.urgent = true ∧ y.from_ = x.from_ + bgDeadline a ∧
          (1 ≤ x.row → y.twice = true) ∧ bit v.psm.events 0 = true) ∧
    (∀ (t a : Nat) (s : State), a < 5 → a ≠ 1 → (s.at t).now < (getN s.psm.bg a).from_ + bgDeadline a →
      exec (.bgDeadlineMiss t a) s = .next (settle (s.at t))) ∧
    (∀ (now : Nat) (b : Bg), b.late = false →
      (b.done now).from_ = now ∧ (b.done now).row = 0 ∧ (b.done now).urgent = false ∧
        (b.twice = true → 2 ≤ b.good + 1 → (b.done now).twice = false))

/-- R493, R496 to R498 and R501 to R503. -/
def Obligations.MonitorsTelemetryAndLogsAct : Prop :=
  (∀ (t n : Nat) (x : Int) (r : MonRec) (s : State), s.shaped → n < 64 → (s.at t).regsUp = true →
      s.img.monitors.slots.find? (·.slot == n) = some r → r.level = true → r.source ≠ 0x24 → -(2 ^ 31) ≤ x → x ≤ 2 ^ 31 - 1 →
      Runs (.monLevelSample t n x) s fun v =>
        let a := getN s.mon.slots n
        let b := getN v.mon.slots n
        b.last = x ∧
          if s.adcBad r then b = { a with last := x, invalid := true }
          else b.count = satAdd 64 a.count 1 ∧ b.min = (if a.count = 0 then x else min a.min x) ∧
            b.max = (if a.count = 0 then x else max a.max x) ∧ b.bins = modN a.bins (r.bin x) (fun y => satAdd 32 y 1)) ∧
    (∀ (r : MonRec) (x : Int), r.bin x < 32) ∧
    (∀ (t n : Nat) (b : Bank) (s : State), (s.at t).bankUp b = true →
      Runs (.monSnapshot t b n) s fun v =>
        v.mon.slots = s.mon.slots ∧
        match b with
        | .host => v.mon.host = { slot := getN s.mon.slots (n % 64), refused := false, number := n % 64 } ∧ v.mon.sp = s.mon.sp
        | .sp => v.mon.sp = { slot := getN s.mon.slots (n % 64), refused := false, number := n % 64 } ∧ v.mon.host = s.mon.host) ∧
    (∀ (t n : Nat) (s : State), s.shaped → (s.at t).regsUp = true →
      (Runs (.monSnapshotClear t .sp n) s fun v =>
        v.mon.sp.slot = getN s.mon.slots (n % 64) ∧
        (getN v.mon.slots (n % 64)).count = 0 ∧ (getN v.mon.slots (n % 64)).last = (getN s.mon.slots (n % 64)).last) ∧
      (s.sys.state ≠ .doldrums → (s.img.monitors.slots.any fun r => r.slot == n % 64 && bit r.flags 0) = false →
        Runs (.monSnapshotClear t .host n) s fun v =>
          v.mon.slots = s.mon.slots ∧ v.mon.host.refused = true ∧ v.mon.host.slot = getN s.mon.slots (n % 64))) ∧
    (∀ (t : Nat) (r : AdcCal) (s : State), (s.at t).regsUp = true →
      Runs (.adcCalibration t r) s fun v =>
        v.mon.adcSp = (!r.spOk || r.disagree) ∧ v.mon.adcSlb = (!r.slbOk || r.disagree) ∧ v.mon.slots = s.mon.slots ∧
        (v.mon.adcSeen = (s.mon.adcSeen || v.mon.adcSp || v.mon.adcSlb))) ∧
    (∀ (t : Nat) (s : State), (s.at t).regsUp = true →
      Runs (.telemetrySwap t) s fun v =>
        v.mon.telemSeq = (s.mon.telemSeq + 1) % 2 ^ 32 ∧ v.mon.telemTime = (s.at t).dev ∧
        v.mon.telemState = (s.at t).sysState ∧ v.mon.telemLast = s.mon.slots.map (·.last)) ∧
    (∀ (t seq : Nat) (s : State), (s.at t).regsUp = true → s.sys.state ≠ .doldrums → seq < 2 ^ 32 →
      Runs (.logSelWrite t .host seq) s fun v =>
        v.log.sp = s.log.sp ∧ v.ret = s.ret ∧
        match s.ret.log.find? (·.seq == seq) with
        | some e => v.log.host.entry = e.bytes ∧ v.log.host.selStat = if e.good then 1 else 4
        | none => v.log.host.selStat = if seq = s.ret.logNext ∨ serialAbove seq s.ret.logNext then 3 else 2) ∧
    (∀ (t num : Nat) (s : State), (s.at t).regsUp = true → num < 2 ^ 32 →
      Runs (.frSelWrite t .sp num) s fun v =>
        v.log.host = s.log.host ∧ v.ret = s.ret ∧
        match s.ret.frs.find? (·.num == num) with
        | some e => v.log.sp.frEntry = e.data ∧ v.log.sp.frStat = if crcOk e.data then 1 else 4
        | none => v.log.sp.frStat = if num = s.ret.frNext ∨ serialAbove num s.ret.frNext then 3 else 2) ∧
    (∀ (t : Nat) (s : State), (s.at t).regsUp = true → s.log.second < (s.at t).dev / sec →
      Runs (.logRepeatSecondEnd t) s fun v =>
        v.log.reps = [] ∧ v.log.second = (s.at t).dev / sec ∧ v.mon = s.mon ∧
        ((s.log.reps.filter fun r => r.held ≠ 0) = [] → v.ret = s.ret))

/-- R506 to R508 and R511; how many bits an EXTEST or BYPASS command shifts is the model's convention (NOTES.md). -/
def Obligations.DebugIsUnlockedAndUsedAsStated : Prop :=
  (∀ (t : Nat) (s : State), s.sup.on = true →
      (Runs (.idcode t) s fun v => v.out = [.tdo 0 (leBytes 4 0x0480D0A5)] ∧ v.dbg = { s.dbg with ir := 0x01, extest := false }) ∧
      (Runs (.dbgNonce t) s fun v => v.out = [.tdo 0 s.dbg.nonce] ∧ v.dbg.nonce = s.dbg.nonce) ∧
      (Runs (.dbgLock t) s fun v => v.dbg.enabled = false ∧ v.out = [.tdo 0 []] ∧ v.sys = (s.at t).sys)) ∧
    (∀ (t a b : Nat) (s : State), s.sup.on = true →
      (Runs (.samplePreload t a b) s fun v =>
        v.dbg.capture = a ∧ v.dbg.preload = b ∧ v.dbg.extest = false ∧ v.out = [.tdo 0 (leBytes 8 a)]) ∧
      (Runs (.bypass t a) s fun v => v.out = [.tdo 0 (leBytes 8 (a * 2))] ∧ v.dbg.bypass = bits a 63 1) ∧
      (Runs (.extest t a) s fun v =>
        v.dbg.extest = (s.dbg.enabled && !s.torque) ∧
        v.out = [.tdo 0 (if s.dbg.enabled = true ∧ s.torque = false then leBytes 8 a else leBytes 8 0)])) ∧
    (∀ (t : Nat) (r : UnlockReq) (s : State), s.sup.on = true → s.sys.state = .off ∨ s.sys.state = .doldrums →
      Runs (.dbgUnlock t r) s fun v =>
        v.dbg.enabled = s.dbg.enabled ∧ v.dbg.held = s.dbg.held ∧ v.out = [.tdo 4 []] ∧ s.free < v.free) ∧
    (∀ (t : Nat) (r : UnlockReq) (s : State), s.sup.on = true → s.sys.state = .start →
      Runs (.dbgUnlock t r) s fun v =>
        v.dbg.held = some { req := r, nonce := s.dbg.nonce } ∧ v.dbg.enabled = s.dbg.enabled ∧ v.out = [.tdo 6 []] ∧
        s.free < v.free) ∧
    (∀ (t : Nat) (c : Cert) (s : State), s.sup.on = true → s.sys.state ≠ .off → s.sys.state ≠ .doldrums → s.sys.state ≠ .start →
      Runs (.dbgUnlock t (.certificate c)) s fun v =>
        s.free < v.free ∧
        if (s.at t).certOk c s.dbg.nonce then
          v.dbg.enabled = true ∧ v.dbg.method = 2 ∧ v.dbg.scopeSp = c.scopeSp ∧ v.out = [.tdo 0 []] ∧
            (s.sys.state = .run ∨ s.sys.state = .degraded → v.sys.dbgDue = true)
        else v.dbg.enabled = s.dbg.enabled ∧ v.dbg.method = s.dbg.method ∧ v.out = [.tdo 1 []]) ∧
    (∀ (t : Nat) (p : Bytes) (s : State), s.sup.on = true → s.sys.state ≠ .off → s.sys.state ≠ .doldrums → s.sys.state ≠ .start →
      s.sealClass ≠ .program →
      Runs (.dbgUnlock t (.password p)) s fun v => v.dbg.enabled = s.dbg.enabled ∧ v.dbg.method = s.dbg.method ∧ s.free < v.free) ∧
    (∀ (t a : Nat) (m : BpMatch) (i : Instr) (s : State), s.sup.on = true → s.dbg.enabled = false →
      i = .halt t a ∨ i = .dbgResume t a ∨ i = .step t a ∨ i = .setBp t a m ∨ i = .readCore t a →
      Runs i s fun v => v.out = [.tdo 4 []] ∧ v.dbg = { s.dbg with ir := 0x13, extest := false } ∧ v.aud = s.aud ∧ v.vane = s.vane) ∧
    (∀ (t : Nat) (op : DbgSpOp) (s : State), s.sup.on = true → s.sys.state ≠ .start →
      Runs (.dbgSp t op) s fun v =>
        if s.dbg.enabled = true ∧ s.dbg.method = 2 ∧ s.dbg.scopeSp = true then
          v.dbg.spHalted = (op == .halt) ∧ v.out = [.tdo 0 []]
        else v.dbg.spHalted = s.dbg.spHalted ∧ v.out = [.tdo 4 []])

/-- R509 and R510; what a read of a poisoned granule returns is open (log entry 50). -/
def Obligations.DebugReachesCoresAndMemoryAsStated : Prop :=
  (∀ (t m : Nat) (s : State), s.shaped → s.sup.on = true → s.dbg.enabled = true → m % 2 ^ 16 ≠ 0 → s.sys.state ≠ .start →
      Runs (.halt t m) s fun v =>
        (∀ n < 16, getN v.dbg.halted n = (getN s.dbg.halted n || bit m n)) ∧ v.vane.broken = true ∧ v.out = [.tdo 0 []]) ∧
    (∀ (t m : Nat) (s : State), s.shaped → s.sup.on = true → s.dbg.enabled = true →
      Runs (.dbgResume t m) s fun v =>
        (∀ n < 16, getN v.dbg.halted n = (getN s.dbg.halted n && !bit m n)) ∧ v.dbg.stepping = s.dbg.stepping ∧
        (s.vane.broken = true → (∀ n < 16, getN s.dbg.halted n = true → bit m n = true) → (∀ x ∈ s.dbg.stepping, x = false) →
          (∀ j ∈ s.aud.jobs, j.broken = false) → v.vane.broken = false)) ∧
    (∀ (t n : Nat) (s : State), s.shaped → s.sup.on = true → s.dbg.enabled = true → n < 16 → getN s.dbg.halted n = true →
      Runs (.step t n) s fun v => getN v.dbg.halted n = false ∧ getN v.dbg.stepping n = true) ∧
    (∀ (n : Nat) (s : State), s.shaped → n < 16 → getN s.dbg.stepping n = true →
      getN (s.coreFree n).dbg.halted n = true ∧ getN (s.coreFree n).dbg.stepping n = false) ∧
    (∀ (t n : Nat) (m : BpMatch) (s : State), s.shaped → s.sup.on = true → s.dbg.enabled = true → n < 4 →
      Runs (.setBp t n m) s fun v => getN v.dbg.bps n = m ∧ (∀ k, k ≠ n → getN v.dbg.bps k = getN s.dbg.bps k)) ∧
    (∀ (t n : Nat) (s : State), s.sup.on = true → s.dbg.enabled = true → n < 16 →
      Runs (.readCore t n) s fun v => ∃ b, v.out = [.tdo 0 b] ∧ b.take 4 = leBytes 4 ((s.at t).coreStat n) ∧ v.aud = s.aud) ∧
    (∀ (t a : Nat) (r : DbgMemReq) (s v : State), exec (.dbgMem t r) s = .next v → memGet v.mem a ≠ memGet s.mem a →
      s.dbg.enabled = true ∧ r.write.isSome = true ∧ r.addr ≤ a ∧ a < r.addr + r.bytes ∧ s.wall idDebug true r.addr r.bytes = .pass ∧
        (regionOf r.addr r.bytes = some .store ∨ (∃ k, regionOf r.addr r.bytes = some (.stack k)) ∨
          ∃ c, regionOf r.addr r.bytes = some (.core c) ∧ getN s.dbg.halted c = true)) ∧
    (∀ (t x : Nat) (r : DbgMemReq) (s : State), s.sup.on = true → s.dbg.enabled = true → r.bytes = 4 ∨ r.bytes = 8 →
      r.addr % r.bytes = 0 → r.addr < 2 ^ 40 → r.write = some x → s.wall idDebug true r.addr r.bytes = .pass →
      regionOf r.addr r.bytes = some .store → inExch r.addr r.bytes = false →
      Runs (.dbgMem t r) s fun v =>
        v.out = [.tdo 0 []] ∧ ∀ a : Nat, memGet v.mem a =
          if r.addr ≤ a ∧ a < r.addr + r.bytes then (leBytes r.bytes x).getD (a - r.addr) 0 else memGet s.mem a) ∧
    (∀ (t : Nat) (r : DbgMemReq) (s : State), s.sup.on = true → s.dbg.enabled = true →
      ((r.bytes ≠ 4 ∧ r.bytes ≠ 8) ∨ r.addr % r.bytes ≠ 0 ∨ 2 ^ 40 ≤ r.addr ∨ s.wall idDebug r.write.isSome r.addr r.bytes ≠ .pass) →
      Runs (.dbgMem t r) s fun v => v.out = [.tdo 5 []] ∧ v.mem = s.mem ∧ v.fwl.count = satInc s.fwl.count ∧ v.fwl.ident = idDebug) ∧
    (∀ (t : Nat) (r : DbgMemReq) (s : State), s.sup.on = true → s.dbg.enabled = false →
      Runs (.dbgMem t r) s fun v => v.out = [.tdo 4 []] ∧ v.mem = s.mem ∧ v.fwl = s.fwl)

/-- R6, R8, R9 and R448; that a ring size outside the table is refused follows R2, and a register that has a command of its own is left to that command (log entry 3). -/
def Obligations.RegisterWritesActAsStated : Prop :=
  (∀ (t addr x : Nat) (w : Writer) (wide : Bool) (s : State), addr % (if wide then 8 else 4) ≠ 0 →
      exec (.registerWrite t w wide addr x) s = .next (settle (s.at t))) ∧
    (∀ (t addr x : Nat) (s : State), addr < 0x10000 ∨ 0x20000 ≤ addr →
      exec (.registerWrite t .host false addr x) s = .next (settle (s.at t))) ∧
    (∀ (t addr x : Nat) (s : State), region addr ≠ some .regs →
      exec (.registerWrite t .sp false addr x) s = .next (settle (s.at t))) ∧
    (∀ (t q x : Nat) (s : State), s.shaped → (s.at t).regsUp = true → q < 64 → x < 2 ^ 32 → (s.hqueue q).sqBase < 2 ^ 64 →
      Runs (.registerWrite t .host false (0x10000 + q * 0x40) x) s fun v =>
        (∀ k, k ≠ q → v.hqueue k = s.hqueue k) ∧ v.hq.rings = s.hq.rings ∧
        if (s.hqueue q).en then v.hqueue q = s.hqueue q
        else v.hqueue q = { s.hqueue q with sqBase := (s.hqueue q).sqBase / 2 ^ 32 * 2 ^ 32 + x / 64 * 64 }) ∧
    (∀ (t q x : Nat) (s : State), s.shaped → (s.at t).regsUp = true → q < 64 →
      Runs (.registerWrite t .host false (0x10000 + q * 0x40 + 0x10) x) s fun v =>
        v.hqueue q = if (s.hqueue q).en then s.hqueue q else { s.hqueue q with sqLog := bits x 0 4, cqLog := bits x 4 4 }) ∧
    (∀ (t n x : Nat) (s : State), s.shaped → (s.at t).regsUp = true → n < 16 → x < 2 ^ 32 →
      Runs (.registerWrite t .host false (0x11000 + n * 0x20 + 8) x) s fun v =>
        v.hq.queues = s.hq.queues ∧
        getN v.hq.rings n =
          if 4 ≤ bits x 0 4 ∧ bits x 0 4 ≤ 12 then
            { getN s.hq.rings n with sizeLog := bits x 0 4, vector := bits x 8 6, en := bit x 16 }
          else getN s.hq.rings n) ∧
    (∀ (t x k : Nat) (s : State), (s.at t).regsUp = true → k < 32 →
      (Runs (.registerWrite t .sp false 0x2000F0040 x) s fun v =>
        bit v.psm.events k = (bit s.psm.events k && !bit x k) ∧ v.mon = s.mon ∧ v.vrd = s.vrd) ∧
      (Runs (.registerWrite t .sp false 0x20008000C x) s fun v =>
        bit v.vrd.events k = (bit s.vrd.events k && !bit x k) ∧ v.vrd.queues = s.vrd.queues)) ∧
    (∀ (t o x : Nat) (s : State), o < 0x10000 → exec (.registerWrite t .sp false (0x200090000 + o) x) s = .next (settle (s.at t)))

/-- Where each command of power, start, the safety states, seals, clocks, triggers, the calendar and configuration completes with its own effect. -/
def Obligations.PowerStartClocksAndConfigurationComplete : Prop :=
  -- POWER_GOOD: 01 Table 1.5, 04 R91
  (∀ (t vin backup : Nat) (s : State), s.sup.on = false →
      Runs (.powerGood t vin backup) s fun v =>
        v.sup.on = true ∧ v.sup.vin = vin ∧ v.sys.state = .start ∧ v.start.stage = 0 ∧ v.start.warm = false ∧ v.sys.tqen = false) ∧
  -- POWER_FAIL_WARNING: 02 R52, R53
  (∀ (t : Nat) (s : State), s.sup.on = true → s.sys.powerFail = false →
      Runs (.powerFailWarning t) s fun v => v.sup.pfOut = true ∧ v.sys.powerFail = true ∧ v.sys.tqen = false) ∧
  -- HOLDUP_END: 01 Table 1.5 (Any to OFF), 02 R52
  (∀ (t : Nat) (s : State), s.sup.on = true → s.sys.powerFail = true →
      Runs (.holdupEnd t) s fun v => v.sys.state = .off ∧ v.sup.on = false ∧ v.sys.tqen = false) ∧
  -- STAGE_S0: 04 R94
  (∀ (t : Nat) (r : S0Result) (s : State), (s.at t).inTime 0 → s.start.counted = true → r.selfTest = true → r.holdup = true →
      Runs (.stageS0 t r) s fun v => v.start.stage = 1 ∧ v.start.stageAt = (s.at t).now ∧ v.sup.holdup = true) ∧
  -- STAGE_S1: 04 R95
  (∀ (t : Nat) (r : S1Result) (s : State), (s.at t).inTime 1 → r.romCrc = true → r.fwSignature = true → s.nvm.floor ≤ r.fwVersion →
      Runs (.stageS1 t r) s fun v => v.start.stage = 2 ∧ v.start.stageAt = (s.at t).now ∧ v.start.fw = r.fwVersion) ∧
  -- STAGE_S2: 04 R96, 19 R521
  (∀ (t : Nat) (r : S2Result) (s : State), (s.at t).inTime 2 → (s.at t).retValid r = true ∨ r.faultAfterZero = false →
      Runs (.stageS2 t r) s fun v => v.start.stage = 3 ∧ v.start.stageAt = (s.at t).now) ∧
  -- STAGE_S3: 04 R97, R112
  (∀ (t : Nat) (r : S3Result) (s : State), (s.at t).inTime 3 → r.rows % 1024 = 1023 → s.dbg.halted.any id = false →
      s.dbg.spHalted = false →
      Runs (.stageS3 t r) s fun v => v.start.stage = 4 ∧ v.start.s3Bits = 1023 ∧ v.cvu = cvuStart ∧ ∀ l ∈ v.vane.lanes, l.ok = true) ∧
  -- STAGE_S4: 04 R98, R100, R112
  (∀ (t : Nat) (r : S4Result) (s : State), (s.at t).inTime 4 → (∀ i < 10, bit r.checks i = true) → (∀ n < 16, bit r.coreFail n = false) →
      getN s.slb.outSeen 0 = false → getN s.slb.outSeen 1 = false → s.slb.supplyTrip = false → s.dbg.halted.any id = false →
      s.dbg.spHalted = false →
      Runs (.stageS4 t r) s fun v => v.start.stage = 5 ∧ v.start.stageAt = (s.at t).now) ∧
  -- STAGE_S5: 04 R102
  (∀ (t : Nat) (r : S5Result) (s : State), (s.at t).inTime 5 → s.outputsSound → r.trained = true → r.tested = true →
      r.swept = true → r.beuOk = true →
      Runs (.stageS5 t r) s fun v => v.start.stage = 6 ∧ v.start.stageAt = (s.at t).now ∧ ∀ k ∈ v.beu.stks, k.swept = true) ∧
  -- STAGE_S6: 04 R103, 05 R140
  (∀ (t : Nat) (r : S6Result) (s : State), (s.at t).inTime 6 → s.outputsSound → r.storeReadable = true → r.weightsWritable = true →
      Runs (.stageS6 t r) s fun v => v.start.stage = 7 ∧ v.start.stageAt = (s.at t).now) ∧
  -- STAGE_S7: 04 R104
  (∀ (t : Nat) (r : S7Result) (s : State), (s.at t).inTime 7 → s.outputsSound → r.handshake = true → s.cfg.admitted = false →
      r.missingLink = none → r.ptpRequired = false →
      Runs (.stageS7 t r) s fun v => v.start.stage = 8) ∧
  -- STAGE_S8: 04 R105
  (∀ (t : Nat) (dest : St) (s : State), (s.at t).inTime 8 → s.outputsSound → s.dbg.held = none → s.start.dest = some dest →
      s.fencedCount = 0 →
      Runs (.stageS8 t true) s fun v => v.sys.state = dest ∧ v.start.stage = 0xF ∧ v.start.ackPending = true) ∧
  -- STAGE_TIME_LIMIT: 04 R93
  (∀ (t : Nat) (s : State), (s.at t).inStage s.start.stage = true → s.start.stageAt + stageLimit s.start.stage ≤ (s.at t).now →
      Runs (.stageTimeLimit t) s fun v =>
        v.start.holdAt = some (s.at t).now ∧ v.nvm.hist = ((s.start.stage * 256 + 0x01) :: s.nvm.hist).take 3) ∧
  -- START_WATCHDOG: 04 R93
  (∀ (t : Nat) (s : State), (s.at t).inStage s.start.stage = true → s.start.s0At + 20 * sec ≤ (s.at t).now →
      Runs (.startWatchdog t) s fun v =>
        v.start.holdAt = some (s.at t).now ∧ v.nvm.hist = ((s.start.stage * 256 + 0x02) :: s.nvm.hist).take 3) ∧
  -- STAGE_FAIL_HOLD_EXPIRY: 04 R109, R114
  (∀ (t i : Nat) (s : State), s.sup.on = true → s.sys.state = .start → s.start.holdAt = some i → i + sec ≤ (s.at t).now →
      s.sys.powerFail = false → s.sys.spHeld = false → s.sup.thermal = false → s.start.holdLast = false →
      Runs (.stageFailHoldExpiry t) s fun v => v.sys.state = .start ∧ v.start.stage = 0 ∧ v.start.warm = true) ∧
  -- START_COUNTER_CLEAR: 04 R111
  (∀ (t i : Nat) (s : State), s.sup.on = true → s.slb.holdAt = some i → i + 60 * sec ≤ (s.at t).now → (s.at t).clearFree = true →
      Runs (.startCounterClear { t := t }) s fun v => v.counter = 0 ∧ v.slb.holdAt = none) ∧
  -- DOLDRUMS_DIAGNOSTIC_FRAME: 04 R119
  (∀ (t : Nat) (s : State), (s.at t).spRuns = true → s.sys.state = .doldrums → s.start.diagAt = none →
      Runs (.doldrumsDiagnosticFrame t) s fun v => v.start.diagAt = some (s.at t).now ∧ ∃ b : Bytes, v.out = [.eth 0 0x88B5 b]) ∧
  -- SP_CYCLE: 01 R25, 13 R368
  (∀ (t : Nat) (s : State), (s.at t).spRuns = true → s.sys.powerFail = false →
      Runs (.spCycle t) s fun v =>
        ∃ f, v.slb.link.getLast? = some f ∧ f.state = v.sys.state ∧ f.stop = v.sys.req ∧ f.armed = v.sys.armedAt.isSome) ∧
  -- DEGRADED_TIMER_EXPIRY: 01 R20
  (∀ (t : Nat) (s : State), (s.at t).sys.degRun = true → (s.at t).degLimit ≤ (s.at t).sys.degElapsed →
      Runs (.degradedTimerExpiry t) s fun v => v.sys.degDue = true) ∧
  -- TQEN_SS1_OVERDUE: 01 R14
  (∀ (t i : Nat) (s : State), s.sys.ss1At = some i → i + ((s.at t).ss1Longest + 10 * ms) ≤ (s.at t).now → s.stopped = false →
      Runs (.tqenSs1Overdue t) s fun v => v.sys.tqen = false ∧ v.sys.cut = true) ∧
  -- RESTART_ARMING_LAPSE: 01 R21
  (∀ (t i : Nat) (s : State), s.sys.armedAt = some i → i + 30 * sec ≤ (s.at t).now →
      Runs (.restartArmingLapse t) s fun v => v.sys.armedAt = none) ∧
  -- SEAL_SWITCH_CHANGE: 02 R49
  (∀ (t sw : Nat) (on : Bool) (s : State), sw < 4 →
      Runs (.sealSwitchChange t sw on on) s fun v => v.seals.agreed = setN s.seals.agreed sw on ∧ v.seals.bad = setN s.seals.bad sw false) ∧
  -- SEAL_CONTACT_DISAGREE: 02 R49
  (∀ (t sw i : Nat) (s : State), sw < 4 → getN s.seals.since sw = some i → i + 50 * ms ≤ (s.at t).now →
      Runs (.sealContactDisagree t sw) s fun v => v.seals.bad = setN s.seals.bad sw true) ∧
  -- TAMPER_LOOP_OPEN: 02 R50
  (∀ (t : Nat) (s : State), s.sup.on = true → s.seals.open_ = false → s.sys.state = .run → s.sys.pendTrips = [] →
      Runs (.tamperLoopOpen t) s fun v => v.seals.open_ = true ∧ v.sys.pendTrips = [{ src := 0x0D, sto := false }]) ∧
  -- DBG_PRES_CHANGE: 02 R47
  (∀ (t : Nat) (low : Bool) (s : State), s.sup.on = true → s.dbg.pres ≠ low →
      exec (.dbgPresChange t low) s =
        .next (settle (((s.at t).onDbg fun d => { d with pres := low }).ev 0x1201 0 noSub (if low then 0 else 1)))) ∧
  -- IO_SUPPLY_OUT_OF_WINDOW: 02 R55
  (∀ (t : Nat) (b : Bool) (mv : Nat) (s : State), s.sup.on = true → mv < 18000 ∨ 32000 < mv →
      Runs (.ioSupplyOutOfWindow t b mv) s fun v =>
        v.sup.uvSeen = true ∧ v.slb.supplyTrip = true ∧ v.slb.due = s.slb.due ++ [{ src := 0x10, sto := true }]) ∧
  -- IO_SUPPLY_RECOVERED: 02 R55
  (∀ (t a b : Nat) (s : State), s.sup.on = true → 19200 ≤ a ∧ a ≤ 30000 → 19200 ≤ b ∧ b ≤ 30000 →
      Runs (.ioSupplyRecovered t a b) s fun v => v.slb.supplyTrip = false ∧ v.sup.ioaOk = true ∧ v.sup.iobOk = true) ∧
  -- DIE_TEMP_WARNING: 02 R56
  (∀ (t : Nat) (s : State), s.sup.on = true →
      exec (.dieTempWarning t) s = .next (settle ((s.at t).evName 0x00 "DIE_TEMP" 2 noSub 100))) ∧
  -- THERMAL_TRIP: 02 R56
  (∀ (t : Nat) (s : State), s.sup.on = true → s.sup.thermal = false → s.sys.powerFail = false → s.sys.state = .run →
      Runs (.thermalTrip t) s fun v => v.sup.thermal = true ∧ v.sys.state = .start ∧ v.sys.tqen = false) ∧
  -- THERMAL_RELEASE: 02 R56
  (∀ (t : Nat) (s : State), s.sup.on = true → s.sup.thermal = true → s.sys.powerFail = false → s.sys.state = .start →
      Runs (.thermalRelease t) s fun v => v.sup.thermal = false ∧ v.sys.state = .start ∧ v.start.stage = 0 ∧ v.start.warm = false) ∧
  -- CLOCK_MONITOR_WINDOW: 03 R77 Table 3.3
  (∀ (t : Nat) (s : State), s.sup.on = true → s.clk.rtcOk = true →
      Runs (.clockMonitorWindow t .rtc false) s fun v => v.clk.rtcOk = false ∧ v.clk.failSeen = true ∧ v.rtc.valid = false) ∧
  -- CLOCK_RECOVERY_RELEASE: 04 R91
  (∀ (t i : Nat) (s : State), s.sup.on = true → s.sys.spHeld = true → s.clk.spOk = true → s.clk.fabOk = true →
      s.clk.okSince = some i → i + 10 * ms ≤ (s.at t).now → s.sys.powerFail = false → s.sys.state = .start → s.start.clkHeld = true →
      Runs (.clockRecoveryRelease t) s fun v => v.sys.spHeld = false ∧ v.sys.state = .start ∧ v.start.stage = 0 ∧ v.start.warm = true) ∧
  -- PTP_SYNC_RECEIVED: 03 R63, R64, R65
  (∀ (t : Nat) (y : PtpSync) (s : State), (s.at t).ptpOn y.port = true → s.clk.gm = some y.gm → s.clk.port = y.port →
      Runs (.ptpSyncReceived t y) s fun v =>
        v.clk.gm = some y.gm ∧ v.clk.offset = sat32 y.offset ∧
          v.clk.inLock = min (if y.offset.natAbs ≤ 1000 then s.clk.inLock + 1 else 0) 10) ∧
  -- BEST_MASTER_CLOCK_SELECTION: 03 R63, R65
  (∀ (t : Nat) (y : PtpSync) (s : State), (s.at t).ptpOn y.port = true → s.clk.gm ≠ some y.gm →
      Runs (.bestMasterClockSelection t y) s fun v =>
        v.clk.gm = some y.gm ∧ v.clk.port = y.port ∧ v.clk.offset = sat32 y.offset) ∧
  -- PTP_GRANDMASTER_LOST: 03 R64, R65
  (∀ (t port : Nat) (s : State), s.sup.on = true → port < 2 → s.clk.port = port → (getN s.clk.gms port).isSome = true →
      getN s.clk.gms (1 - port) = none → s.clk.sync ≠ .unset →
      Runs (.ptpGrandmasterLost t port) s fun v =>
        v.clk.sync = .holdover ∧ v.clk.gm = none ∧ v.clk.lostAt = some (s.at t).now) ∧
  -- PTP_HOLDOVER_EXPIRY: 03 R64
  (∀ (t i : Nat) (s : State), s.clk.sync = .holdover → s.clk.lostAt = some i → i + 60 * sec ≤ (s.at t).now →
      Runs (.ptpHoldoverExpiry t) s fun v => v.clk.sync = .free) ∧
  -- PTP_PORT_DISAGREE: 03 R65
  (∀ (t i : Nat) (s : State), s.sup.on = true → (s.at t).clk.portsDiffer = true → s.clk.disSince = some i → i + 10 * sec ≤ (s.at t).now →
      s.clk.disLogged = false →
      exec (.ptpPortDisagree t (getN s.clk.offs 0 - getN s.clk.offs 1)) s =
        .next (settle (((s.at t).onClk fun c => { c with disLogged := true }).ev 0x0103 1 noSub
          (ofSigned 64 (getN s.clk.offs 0 - getN s.clk.offs 1))))) ∧
  -- TRIGGER_EDGE: 03 R67, R75
  (∀ (t n d : Nat) (s : State), n < 8 → (getN s.clk.trigs n).en = true → (getN s.clk.trigs n).due = some d → (s.at t).trigOn = true →
      d ≤ (s.at t).dev → (s.at t).dev < d + 8 → s.shaped →
      Runs (.triggerEdge t n) s fun v =>
        v.out = [.trig n (!(getN s.clk.trigs n).pol)] ∧ (getN v.clk.trigs n).last = some d ∧ (getN v.clk.trigs n).pulse = true) ∧
  -- TRIG_START_WRITE: 03 R69, R86
  (∀ (t n x : Nat) (s : State), (s.at t).regsUp = true → n < 8 → s.shaped →
      Runs (.trigStartWrite t n x) s fun v => (getN v.clk.trigs n).startV = x % 2 ^ 64) ∧
  -- TRIG_PERIOD_WRITE: 03 R69, R86
  (∀ (t n x : Nat) (s : State), (s.at t).regsUp = true → n < 8 → s.shaped → 1000000 ≤ x → x ≤ 10000000000 →
      (getN s.clk.trigs n).widthV < x →
      Runs (.trigPeriodWrite t n x) s fun v => (getN v.clk.trigs n).periodV = x) ∧
  -- TRIG_WIDTH_WRITE: 03 R69, R86
  (∀ (t n x : Nat) (s : State), (s.at t).regsUp = true → n < 8 → s.shaped → 1000 ≤ x → x ≤ 1000000 → x < (getN s.clk.trigs n).periodV →
      Runs (.trigWidthWrite t n x) s fun v => (getN v.clk.trigs n).widthV = x) ∧
  -- TRIG_CTRL_WRITE: 03 R68, R69, R86
  (∀ (t n x : Nat) (s : State), (s.at t).regsUp = true → n < 8 → s.shaped → bit x 0 = false ∨ (getN s.clk.trigs n).ranges = true →
      Runs (.trigCtrlWrite t n x) s fun v => (getN v.clk.trigs n).en = bit x 0 ∧ (getN v.clk.trigs n).pol = bit x 1) ∧
  -- RTC_TENTH_TICK: 03 R79
  (∀ (t : Nat) (s : State), s.rtc.following = false → s.clk.rtcOk = true → s.rtc.cal ≠ calLast →
      Runs (.rtcTenthTick t) s fun v => v.rtc.cal = calAt (s.rtc.cal.tenthsOf + 1)) ∧
  -- EXPORT: 18 R505
  (∀ (t k first n : Nat) (q : CfgReq) (s : State), (s.at t).takes q 0x02 → s.sys.state ≠ .start → (s.sys.state = .doldrums → k ≠ 4) →
      1 ≤ k → k ≤ 4 →
      Runs (.exportObject t q k first n) s fun v =>
        v.out = (exportFrames k ((s.at t).exportBytes k first n)).map (fun b => .eth q.port 0x88B5 (respFrame 2 q.request 0 b))) ∧
  -- UPLOAD_BEGIN: 05 R138
  (∀ (t : Nat) (q : CfgReq) (s : State), (s.at t).takes q 0x10 → (s.at t).knows q → s.sys.state ∈ uploadStates → s.cfg.session = none →
      Runs (.uploadBegin t q) s fun v =>
        v.cfg.session = some (serialNext s.cfg.sessions, (s.at t).now) ∧ v.out = answerTo q 0x10 0 (beBytes 4 (serialNext s.cfg.sessions))) ∧
  -- UPLOAD_DATA: 05 R138
  (∀ (t : Nat) (q : CfgReq) (o : Nat) (d : Bytes) (s : State), (s.at t).takes q 0x11 → s.sys.state ∈ uploadStates →
      (s.at t).inSession q = true → d.length ≤ 1400 → o ≤ s.cfg.upTo →
      o + d.length ≤ sizeSoFar (getN s.cfg.slots s.standby).image o d + 268435456 →
      Runs (.uploadData t q true o d) s fun v =>
        v.out = answerTo q 0x11 0 [] ∧ v.cfg.slots = modN s.cfg.slots s.standby (Slot.write o d)) ∧
  -- UPLOAD_END: 05 R138
  (∀ (t : Nat) (q : CfgReq) (s : State), (s.at t).takes q 0x12 → s.sys.state ∈ uploadStates → (s.at t).inSession q = true →
      Runs (.uploadEnd t q) s fun v => v.out = answerTo q 0x12 0 [] ∧ v.cfg.session = none) ∧
  -- UPLOAD_SESSION_LAPSE: 05 R138
  (∀ (t : Nat) (x : Nat × Nat) (s : State), s.cfg.session = some x → x.2 + 10 * sec ≤ (s.at t).now →
      Runs (.uploadSessionLapse t) s fun v => v.cfg.session = none ∧ v.cfg.slots = s.cfg.slots) ∧
  -- SET_PASSWORD: 05 R133
  (∀ (t : Nat) (q : CfgReq) (w : Bytes) (s : State), (s.at t).takes q 0x31 → (s.at t).knows q → s.sys.state = .commission →
      (s.at t).sealClass = .program → passwordOk w = true → 1 ≤ (s.at t).logFree →
      Runs (.setPassword t q w) s fun v =>
        v.out = answerTo q 0x31 0 [] ∧ ∃ salt : Bytes, v.secrets.pass = some (salt, sha256 (salt ++ w))) ∧
  -- ACTIVATE: 05 R139, R140
  (∀ (t : Nat) (q : CfgReq) (s : State), (s.at t).takes q 0x20 → (s.at t).knows q → s.sys.state = .commission → s.cfg.session = none →
      (s.at t).sealClass = .program → 2 ≤ (s.at t).logFree → s.slb.toSp = [] → s.sys.pendTrips = [] →
      Runs (.activate t q) s fun v => ((s.at t).entered.admitSlot s.standby).1 = 0 →
        v.activeSlot = s.standby ∧ v.sys.state = .start ∧ v.start.stage = 0 ∧ v.start.warm = true) ∧
  -- RESTART: 01 R18 Table 1.5, 05 Table 5.4
  (∀ (t : Nat) (q : CfgReq) (s : State), (s.at t).takes q 0x21 → (s.at t).knows q → s.sys.state = .commission →
      Runs (.restart t q) s fun v => v.sys.state = .start ∧ v.start.stage = 0 ∧ v.start.warm = true) ∧
  -- ENROL: 05 R134
  (∀ (t p : Nat) (q : CfgReq) (k w : Bytes) (s : State), (s.at t).takes q 0x30 → (s.at t).secrets.pass = none → s.sys.state = .commission →
      (s.at t).sealClass = .program → k.length = 32 → passwordOk w = true → 1 ≤ p → p ≤ 14 → 1 ≤ (s.at t).logFree →
      Runs (.enrol t q (some k) (some w) (some p)) s fun v =>
        v.secrets.key = some k ∧ v.secrets.run = some p ∧ v.out = answerTo q 0x30 0 []) ∧
  -- SET_RTC: 03 R80, R81
  (∀ (t x : Nat) (q : CfgReq) (s : State), (s.at t).takes q 0x40 → (s.at t).knows q → s.sys.state ∈ rtcStates → (calOf x).ok = true →
      1 ≤ (s.at t).logFree →
      Runs (.setRtc t q (.load x)) s fun v => v.rtc.cal = calOf x ∧ v.rtc.valid = true ∧ v.out = answerTo q 0x40 0 []) ∧
  -- SET_UTC_OFS: 03 R80, R90
  (∀ (t o : Nat) (q : CfgReq) (s : State), (s.at t).takes q 0x41 → (s.at t).knows q → s.sys.state ∈ rtcStates → 1 ≤ (s.at t).logFree →
      Runs (.setUtcOfs t q o) s fun v => v.rtc.utc = toSigned 16 (o % 65536) ∧ v.out = answerTo q 0x41 0 []) ∧
  -- CLEAR_CHANGE_LOG: 05 R150
  (∀ (t : Nat) (q : CfgReq) (s : State), (s.at t).takes q 0x51 → (s.at t).knows q → s.sys.state = .commission → s.cfg.exported = true →
      Runs (.clearChangeLog t q) s fun v => v.out = answerTo q 0x51 0 [] ∧ v.cfg.exported = false ∧ v.cfg.changes.length = 1) ∧
  -- CLEAR_DOLDRUMS: 04 R121
  (∀ (t : Nat) (q : CfgReq) (s : State), (s.at t).takes q 0x60 → (s.at t).knows q → s.sys.state = .doldrums → (s.at t).sealClass = .program →
      Runs (.clearDoldrums t q) s fun v => v.sys.state = .start ∧ v.start.stage = 0 ∧ v.start.warm = true) ∧
  -- FIELD_RESET: 05 R135
  (∀ (t : Nat) (q : CfgReq) (c : Cert) (s : State), (s.at t).takes q 0x70 → s.sys.state = .commission →
      (s.at t).sealClass = .program → 1 ≤ (s.at t).logFree →
      Runs (.fieldReset t q c) s fun v => (s.at t).certOk c s.dbg.nonce = true →
        v.secrets.key = none ∧ v.secrets.pass = none ∧ v.secrets.run = none ∧ v.cfg.slots = s.cfg.slots) ∧
  -- LOCKOUT_END: 05 R133
  (∀ (t : Nat) (s : State), s.sup.on = true → (s.at t).secrets.lock = 0 → 5 ≤ (s.at t).secrets.wrong →
      Runs (.lockoutEnd t) s fun v => v.secrets.wrong = 0) ∧
  -- HASH_REVERIFY: 05 R157, 17 R483
  (∀ (t : Nat) (s : State), (s.at t).spRuns = true → s.sys.state ∈ rtcStates → (s.at t).hashBad = true → s.cfg.hashFail = false →
      Runs (.hashReverify t) s fun v => v.cfg.hashFail = true) ∧
  -- READ: 05 Table 5.4
  (∀ (t : Nat) (q : CfgReq) (l : List Nat) (s : State), (s.at t).takes q 0x01 → s.sys.state ≠ .start → l.length ≤ 350 →
      l.all regAddr = true →
      Runs (.read t q l) s fun v => v.out = answerTo q 0x01 0 ((s.at t).readRegs l).1)

/-- Where each command of intake, fusion, the cores, the Vane, the stacks, verdicts and the SLB completes with its own effect. -/
def Obligations.IntakeComputeVerdictAndSlbCommandsComplete : Prop :=
  -- TRIGGER_PULSE_END: 03 R67
  (∀ (t n : Nat) (s : State), n < 8 → s.shaped → (getN s.clk.trigs n).pulse = true → (getN s.clk.trigs n).pulseEnd ≤ (s.at t).dev →
      Runs (.triggerPulseEnd t n) s fun v => v.out = [.trig n (getN s.clk.trigs n).pol] ∧ (getN v.clk.trigs n).pulse = false) ∧
  -- TAMPER_COVER_FITTED: 02 R50
  (∀ (t : Nat) (s : State), Runs (.tamperCoverFitted t) s fun v => v.seals = { s.seals with open_ := false }) ∧
  -- BACKUP_EXHAUSTED: 02 R38, 03 R89
  (∀ (t : Nat) (s : State), s.sup.on = false →
      Runs (.backupExhausted t) s fun v => v.ret.log = [] ∧ v.ret.held = false ∧ v.rtc.valid = false ∧ v.sup.backup = 0) ∧
  -- FRAME_START: 06 R164, R66
  (∀ (t n : Nat) (s : State), (s.at t).streamOn n = true → s.shaped → (s.strm n).intake = none → (s.strm n).slotFor.isSome = true →
      Runs (.frameStart t n) s fun v => (v.strm n).intake.map (·.stamp) = some (s.at t).dev ∧ (v.strm n).seq = (s.strm n).seq) ∧
  -- FRAME_END: 06 R164, R165
  (∀ (t n k : Nat) (f : FrameIn) (r : StreamRec) (i : Intake) (s : State), (s.at t).streamOn n = true → s.img.stream n = some r →
      (s.strm n).intake = some i → (s.strm n).slotFor = some k → f.error = false → f.payload.length = r.frameBytes →
      (s.strm n).cvuLost = false → i.lost = false → (s.stk 0).fault = false →
      exec (.frameEnd t n f) s = .next (settle ((s.at t).sealFrame n k r i f).settleWork)) ∧
  -- CHECK_FINAL_STATUS: 06 R170
  (∀ (t n : Nat) (r : StreamRec) (p : PendFinal) (l : List PendFinal) (s : State), s.img.stream n = some r → (s.strm n).pend = p :: l →
      (s.at t).streamOn n = true → p.due r ≤ (s.at t).dev →
      exec (.checkFinalStatus t n) s = .next (settle ((s.at t).finalStatus n r p).settleWork)) ∧
  -- STREAM_STALL_EXPIRY: 06 R174, R178
  (∀ (t n : Nat) (r : StreamRec) (s : State), s.img.stream n = some r → (s.at t).streamOn n = true → (s.strm n).state ≠ .lost →
      (s.strm n).sealAt + r.stall * r.period ≤ (s.at t).dev →
      exec (.streamStallExpiry t n) s = .next (settle ((s.at t).loseStream n))) ∧
  -- FRAME_DELIVERY_COMPLETE: 06 R169, 16 R457
  (∀ (t n seq : Nat) (l : List Nat) (b : BufDesc) (r : StreamRec) (s : State), s.img.stream n = some r → (s.strm n).deliver = seq :: l →
      (s.at t).streamOn n = true → s.shaped → (s.at t).linkUp = true → (getN s.hq.rings n).en = true →
      (getN s.hq.rings n).head ≠ (getN s.hq.rings n).tail → r.frameBytes + 32 ≤ b.length →
      Runs (.frameDeliveryComplete t n b) s fun v => (v.strm n).deliver = l.filter (· != seq) ∧ (v.strm n).skip = (s.strm n).skip) ∧
  -- EGO_TICK: 07 R187, R188, R191
  (∀ (t : Nat) (e : EgoIn) (s : State), (s.at t).fguOn = true → s.fgu.lastTick < e.tick → (e.tick + 2) * ms ≤ (s.at t).dev →
      exec (.egoTick t e) s = .next (settle ((((((s.at t).tickCount e).each (newCauses s.fgu (((s.at t).tickCount e).egoCauses s.fgu e))
        State.discontinuity).onFgu fun g => { g with causes := ((((s.at t).tickCount e).egoCauses s.fgu e).map (2 ^ ·)).sum }).tickRecord
          s.fgu e (!(newCauses s.fgu (((s.at t).tickCount e).egoCauses s.fgu e)).isEmpty)).settleWork))) ∧
  -- EPOCH_OPEN: 07 R194
  (∀ (t x : Nat) (s : State), (s.at t).fguOn = true → s.fgu.openAt = none → s.fgu.firstEntry = some x → x ≤ (s.at t).dev →
      s.fgu.prevOpen = none →
      exec (.epochOpen t) s = .next (settle ((((s.at t).onFgu fun g => { g with openAt := some (s.at t).dev }).tryClose).settleWork))) ∧
  -- EPOCH_WAIT_EXPIRY: 07 R194, R195
  (∀ (t : Nat) (s : State), (s.at t).fguOn = true → (s.at t).epochDue = true →
      exec (.epochWaitExpiry t) s = .next (settle (s.at t).closeEpoch.settleWork)) ∧
  -- GUARD_JOB_START: 07 R197, R200
  (∀ (t w : Nat) (e : Epoch) (s : State), (s.at t).fguOn = true → s.fgu.waiting = some w → s.fgu.job = none →
      (s.at t).psm.asleep = false → (s.at t).epochOf w = some e →
      let u := (s.at t).commitMemory.zeroMemory
      let j := u.issueJob .guard 0 w 0 (u.img.layers.map fun r => u.layerDesc e r) (u.guardAgreed e)
      exec (.guardJobStart t) s = .next (settle ((j.2.onFgu fun g => { g with waiting := none, job := some (w, j.1) }).settleWork))) ∧
  -- DESCRIPTOR_DISPATCH: 08 R225
  (∀ (t n j i p : Nat) (s : State), n < 16 → (s.at t).dieRuns = true → (s.at t).coreReady n = true → (s.acore n).state = .admitted →
      (s.at t).nextFor n = some (j, i, p) →
      exec (.descriptorDispatch t n) s = .next (settle ((s.at t).takePass n j i p).settleWork)) ∧
  -- DESCRIPTOR_COMPLETE: 08 R227, R237
  (∀ (t n : Nat) (hw : CoreHw) (r : Run) (s : State), (s.at t).running n = some r →
      exec (.descriptorComplete t n hw) s = .next (settle (
        let u := (((s.at t).coreErrors n r hw).onCore n fun c => { c with ecc := satAdd 32 c.ecc hw.corrected }).onFgu
          fun g => { g with copyEcc := hw.copyEcc }
        let v := if r.pass = 3 then u.endCopy n r hw else u.endPass n r hw
        let w := if hw.uncorrectable then v.toBist n 5 false else v
        (((w.latency 0x07 n (w.now - r.start - r.halt)).coreFree n).settleWork.commitMemory).onFgu fun g => { g with copyEcc := false }))) ∧
  -- DESCRIPTOR_HANG: 08 R236
  (∀ (t n : Nat) (r : Run) (s : State), (s.at t).running n = some r → r.start + r.halt + (s.at t).watchdogOf n r < (s.at t).now →
      exec (.descriptorHang t n) s = .next (settle (((((s.at t).hangPass n r).toBist n 4 false).coreFree n).settleWork))) ∧
  -- CORE_BIST_COMPLETE: 08 R238, R240
  (∀ (t n : Nat) (s : State), s.shaped → n < 16 → (s.at t).dieRuns = true → (s.acore n).state = .bist →
      ∃ u : State, exec (.coreBistComplete t n true) s = .next (settle u.settleWork) ∧ (u.acore n).prob = 0 ∧
        (u.acore n).state = if (s.acore n).readmit then .probation else .admitted) ∧
  -- ROLLING_SELFTEST_SEGMENT: 08 R239
  (∀ (t n : Nat) (s : State), s.shaped → n < 16 → (s.at t).dieRuns = true → (s.at t).coreReady n = true → s.sys.state.permits = true →
      (s.acore n).state = .admitted → (s.at t).vpReady = false →
      Runs (.rollingSelftestSegment t n .started) s fun v => (v.acore n).state = .testing) ∧
  -- VANE_SELFTEST_COMPLETE: 10 R282
  (∀ (t k : Nat) (slot : Option Nat) (laneOk slotOk : Bool) (s : State), s.vane.selftest = some (k, slot) →
      ∃ u : State, exec (.vaneSelftestComplete t laneOk slotOk) s = .next (settle u.settleWork) ∧
        u.vane.lanes = modN s.vane.lanes k (Lane.tested (s.at t).now laneOk slotOk)) ∧
  -- SAFE_STATE_JOB_ISSUE: 10 R271
  (∀ (t cls : Nat) (r : ClassRec) (s : State), (s.at t).dieRuns = true → s.sys.state.permits = true → s.img.cls cls = some r →
      r.safeState = true →
      exec (.safeStateJobIssue t cls) s = .next (settle ((((s.at t).issueSafe cls).wake).settleWork))) ∧
  -- SAFE_STATE_DEADLINE: 10 R283
  (∀ (t cls i : Nat) (r : ClassRec) (s : State), (s.aud.orig[cls]?).join = some i → s.img.cls cls = some r →
      i + r.deadlineUs * 1000 ≤ (s.at t).now →
      Runs (.safeStateDeadline t cls) s fun v => v.sys.pendTrips = s.sys.pendTrips ++ [{ src := 0x0A, sto := false }]) ∧
  -- BEU_CMD_SUBMIT: 11 R299
  (∀ (t k : Nat) (bg : Bool) (b : Bytes) (s : State), s.shaped → (s.at t).beuOn k = true → (s.stk k).fault = false →
      ((s.stk k).ring bg).queue.length < 255 →
      Runs (.beuCmdSubmit t k bg b) s fun v => ((v.stk k).ring bg).queue = ((s.stk k).ring bg).queue ++ [BCmd.parse (padTo 64 b)]) ∧
  -- BEU_CMD_START: 11 R300
  (∀ (t k : Nat) (c : BCmd) (l : List BCmd) (s : State), s.shaped → (s.at t).beuOn k = true → (s.stk k).fault = false →
      (s.stk k).selfRefresh = false → ((s.stk k).ring false).queue = c :: l → (s.at t).headAct k false = .start →
      Runs (.beuCmdStart t k false) s fun v =>
        ((v.stk k).ring false).queue = l ∧ (v.stk k).running.length = (s.stk k).running.length + 1) ∧
  -- BEU_CMD_COMPLETE: 11 R303
  (∀ (t k c n : Nat) (r : BRun) (s : State), s.shaped → (s.at t).beuOn k = true → (s.stk k).fault = false →
      (s.stk k).running.find? (fun r => r.cmd.channel == c) = some r → (s.stk k).uncorrAt.length ≤ 64 →
      exec (.beuCmdComplete t k { channel := c, corrected := n }) s =
        .next (settle (((s.at t).onStack k fun x => { x with eccCorr := satAdd 32 x.eccCorr n }).beuFinish k r))) ∧
  -- BEU_FENCE_COMPLETE: 11 R301
  (∀ (t k : Nat) (bg : Bool) (c : BCmd) (s : State), (s.at t).beuOn k = true → ((s.stk k).ring bg).fence = some c →
      (s.stk k).running.any (fun r => r.bg == bg) = false →
      exec (.beuFenceComplete t k bg) s = .next (settle
        (((s.at t).onStack k fun x => x.onRing bg fun r => { r with fence := none }).beuEnd k bg (s.stk k).hot c 0 {}).settleWork)) ∧
  -- BEU_SWITCH_GO: 11 R304
  (∀ (t k w : Nat) (s : State), s.shaped → (s.at t).beuOn k = true → (s.stk k).swPhase = 0 → s.sys.state = .start → bit w 8 = true →
      bit w 4 = false →
      Runs (.beuSwitchGo t k w) s fun v =>
        (v.stk k).swPhase = 1 ∧ (v.stk k).swChannel = bits w 0 4 ∧ (v.stk k).swProc = false) ∧
  -- BEU_SWITCH_DRAIN_COMPLETE: 11 R304
  (∀ (t k : Nat) (s : State), s.shaped → (s.at t).beuOn k = true → (s.stk k).swPhase = 1 →
      (s.stk k).running.any (fun r => r.cmd.channel == (s.stk k).swChannel) = false →
      Runs (.beuSwitchDrainComplete t k) s fun v => (v.stk k).swPhase = 2) ∧
  -- BEU_SWITCH_FENCE_COMPLETE: 11 R304, R305
  (∀ (t k : Nat) (s : State), s.shaped → (s.at t).beuOn k = true → (s.stk k).swPhase = 2 →
      Runs (.beuSwitchFenceComplete t k) s fun v =>
        (v.stk k).swPhase = 3 ∧ (v.stk k).proc = setN (s.stk k).proc (s.stk k).swChannel (s.stk k).swProc) ∧
  -- BEU_SWITCH_COMPLETE: 11 R304
  (∀ (t k : Nat) (s : State), s.shaped → (s.at t).beuOn k = true → (s.stk k).swPhase = 3 →
      Runs (.beuSwitchComplete t k) s fun v => (v.stk k).swPhase = 0 ∧ (v.stk k).swDone = true) ∧
  -- SCRUB_STEP: 11 R307
  (∀ (t k n o : Nat) (s : State), (s.at t).scrubOn k = true →
      (s.stk k).nextBlock (max (s.stk k).scrubPtr (stackBase k) - stackBase k) = some o →
      exec (.scrubStep t k n []) s = .next (settle ((s.at t).scrubBlock k n [] o))) ∧
  -- STACK_TEMP_CHANGE: 11 R294
  (∀ (t k c : Nat) (s : State), s.shaped → s.sup.on = true → k < 2 → c ≤ 105 →
      Runs (.stackTempChange t k c) s fun v =>
        (v.stk k).temp = c ∧ (v.stk k).hot = ((s.stk k).hot || (decide (95 < c) && !(s.stk k).selfRefresh))) ∧
  -- STACK_COOL_EXPIRY: 11 R294
  (∀ (t k i : Nat) (s : State), s.shaped → k < 2 → (s.stk k).coolAt = some i → i + 10 * ms ≤ (s.at t).now →
      Runs (.stackCoolExpiry t k) s fun v => (v.stk k).hot = false) ∧
  -- STACK_TRAINING_LOSS: 11 R314
  (∀ (t k : Nat) (s : State), (s.at t).beuOn k = true → (s.stk k).swept = true →
      exec (.stackTrainingLoss t k) s = .next (settle ((s.at t).stackFault k))) ∧
  -- SQ_TAIL_DOORBELL: 16 R452, R455
  (∀ (t q v : Nat) (s u : State), s.at t = u → u.regsUp = true → q < 64 → (u.hqueue q).en = true → (u.hqueue q).resetting = false →
      v % 4096 < 2 ^ (u.hqueue q).sqLog →
      exec (.sqTailDoorbell t q v) s = .next (settle (u.wake.onQ q fun h => { h with sqTail := v % 4096 }))) ∧
  -- SUBMISSION_CONSUME: 12 R329, R330
  (∀ (t q : Nat) (desc : Bytes) (c : ChanRec) (b : Bytes) (s u : State), s.at t = u → desc.length = 64 → u.boundChan q = some c →
      u.canTake q = true → descFormOk desc = true → u.recordInside c.ch desc = true → u.peekN (bar2Addr (leAt desc 4 4)) 2560 = b →
      leAt b 4 4 = (u.vq q).next → leAt b 8 2 = c.ch → u.sys.state ≠ .doldrums →
      exec (.submissionConsume t q desc) s = .next (settle ((u.takeSub q).accept330 q c b (u.hqueue q).sqHead).settleWork)) ∧
  -- WITNESS_LOCK_EFFECTIVE: 16 R460
  (∀ (t q : Nat) (r : Result) (s u : State), s.at t = u → (u.vrd.results.find? fun r => r.q == q && r.state == .read) = some r →
      exec (.witnessLockEffective t q) s = .next (settle (u.onResult q r.seq fun r => { r with state := .locked }))) ∧
  -- RESULT_COMMIT: 12 R330, R331, R332
  (∀ (t q : Nat) (r : Result) (s u : State), s.at t = u → (u.vrd.results.find? fun r => r.q == q && r.state == .locked) = some r →
      r.reject = none → u.crcFail r = none → (r.ranges.any fun x => u.poisoned x.2.1 x.2.2.1) = false →
      let k := { r with state := .committed, commitAt := u.now }
      let v := u.onResult q r.seq fun _ => k
      exec (.resultCommit t q) s = .next (settle (if (v.verdictNow k).isSome then v else v.startAudit k).settleWork)) ∧
  -- AGE_DEADLINE_EXPIRY: 12 R337, R338
  (∀ (t q seq : Nat) (r : Result) (s u : State), s.at t = u → u.resultOf q seq = some r → r.state = .committed → r.deadline ≤ u.dev →
      exec (.ageDeadlineExpiry t q seq) s = .next (settle (u.evalOne q seq).settleWork)) ∧
  -- VERDICT_PATH_WATCHDOG: 16 R462
  (∀ (t q seq : Nat) (r : Result) (s u : State), s.at t = u → u.resultOf q seq = some r → r.state = .committed → r.deadline + ms ≤ u.dev →
      exec (.verdictPathWatchdog t q seq) s = .next (settle
        ((((u.issue r vVoid 0x30).onTsu fun u => { u with vpath := satInc u.vpath, events := u.events ||| 2 }).chFault r.ch 10).settleWork))) ∧
  -- VRD_QUERY: 12 R346, R347
  (∀ (t q seq : Nat) (s u : State), s.at t = u → s.shaped → u.regsUp = true → q < 64 →
      ((u.vq q).win.any fun w => w.1 == seq % 2 ^ 32 % 256 && w.2.lost) = false →
      Runs (.vrdQuery t q { seq := seq }) s fun v =>
        (v.vq q).ansQ = seq % 2 ^ 32 ∧ (v.vq q).ansSeq = ((u.vq q).answer (seq % 2 ^ 32)).seq) ∧
  -- SLB_CYCLE: 13 R359
  (∀ (t : Nat) (i : SlbIn) (s u : State), s.at t = u → u.sup.on = true →
      ∃ v : State, exec (.slbCycle t i) s = .next (settle v.mirrorSlb) ∧ v.sup.ioaOk = supplyOk i.ioA ∧ v.sup.iobOk = supplyOk i.ioB ∧
        v.slb.active = (u.slb.cycle u.params u.nvm.params u.now u.sys.tqen u.sup.pfOut u.restartOk i).1.active) ∧
  -- INPUT_FILTER_SETTLE: 13 R362
  (∀ (t n : Nat) (on : Bool) (s u : State), s.at t = u → u.sup.on = true → n ≤ 16 → (u.params.input n).kind ≠ 2 →
      exec (.inputFilterSettle t n false on) s = .next (settle (u.onInput n fun _ =>
        ({ u.sinput n with a := on, blankA := (u.sinput n).blankA && !on }.settle u.now (u.discNs n)).1))) ∧
  -- BLANKING_END: 13 R363
  (∀ (t n : Nat) (s u : State), s.at t = u → u.sup.on = true → n ≤ 16 →
      exec (.blankingEnd t n false) s = .next (settle (u.onInput n fun x => { x with blankA := true }))) ∧
  -- DISCREPANCY_EXPIRY: 13 R364
  (∀ (t n : Nat) (s u : State), s.at t = u → u.sup.on = true → n < 16 → (u.params.input n).kind ≠ 0 → (u.sinput n).disc = false →
      (u.sinput n).a ≠ (u.sinput n).b → u.pastOpt (u.sinput n).differ (u.discNs n) = true →
      exec (.discrepancyExpiry t n) s = .next (settle ((u.onInput n fun x => { x with disc := true, discOff := false }).slbTrip 0x02 true))) ∧
  -- TEST_PULSE: 13 R366, R367
  (∀ (t tp : Nat) (s u : State), s.at t = u → u.sup.on = true → tp < 8 → u.sys.state ≠ .off → (∀ n < 16, (u.sinput n).pulse = false) →
      exec (.testPulse t tp { stuckOn := 0, crossed := 0 }) s = .next (settle u)) ∧
  -- OUTPUT_OFFTEST: 13 R373
  (∀ (t ch : Nat) (s u : State), s.at t = u → u.sup.on = true → ch < 8 → u.slb.stoCmd.getD ch false = true →
      exec (.outputOfftest t ch false) s = .next (settle
        ((u.onSlb fun b => { b with outFault := setN b.outFault ch true }.seeOut ch).slbTrip 0x06 true))) ∧
  -- SS1_MAX_EXPIRY: 13 R375, R376
  (∀ (t n k : Nat) (s u : State), s.at t = u → u.sup.on = true → n < 4 →
      (getN u.slb.groups n).ss1End u.now (getN u.params.groups n) = some k →
      u.past ((getN u.slb.groups n).ss1At.getD u.now) ((getN u.params.groups n).ss1Max * ms) = true →
      exec (.ss1MaxExpiry t n) s = .next (settle (u.groupOff n k))) ∧
  -- STANDSTILL_HELD: 13 R376
  (∀ (t n : Nat) (s u : State), s.at t = u → u.sup.on = true → n < 4 →
      (getN u.slb.groups n).ss1End u.now (getN u.params.groups n) = some 1 →
      exec (.standstillHeld t n) s = .next (settle (u.groupOff n 1))) ∧
  -- BRAKE_RELEASE_DELAY_EXPIRY: 13 R380
  (∀ (t n : Nat) (s u : State), s.at t = u → u.sup.on = true → n < 4 → (getN u.slb.brakes n).phase = .wait →
      u.past (getN u.slb.brakes n).since ((getN u.params.brakes n).releaseMs * ms) = true →
      exec (.brakeReleaseDelayExpiry t n) s = .next (settle (u.brakeTick n))) ∧
  -- BRAKE_PULLIN_EXPIRY: 13 R380
  (∀ (t n : Nat) (s u : State), s.at t = u → u.sup.on = true → n < 4 → (getN u.slb.brakes n).phase = .pullin →
      u.past (getN u.slb.brakes n).since ((getN u.params.brakes n).pullinMs * ms) = true →
      exec (.brakePullinExpiry t n) s = .next (settle (u.brakeTick n))) ∧
  -- CHAIN_PULSE_EXPIRY: 13 R386
  (∀ (t : Nat) (s u : State), s.at t = u → u.sup.on = true → u.pastOpt u.slb.chainAt (u.params.chainPulseMs * ms) = true →
      Runs (.chainPulseExpiry t) s fun v => v.slb.chainAt = none ∧ v.slb.chainCmd = (List.range 2).map fun n =>
        (u.params.chain == 1 && !u.slb.report.idle && !u.sup.pfOut && (u.slb.sources u.params u.nvm.params).all (· == 0x07)) &&
          !u.slb.outFault.getD (12 + n) false) ∧
  -- ENCODER_FAULT: 02 R45; 13 R378
  (∀ (t qe : Nat) (s u : State), s.at t = u → u.sup.on = true → qe < 8 → (getN u.slb.qe qe).fault = false →
      (u.params.groups.any fun g => bit g.axes qe) = true →
      exec (.encoderFault t qe true) s = .next (settle
        ((u.onSlb fun b => { b with qe := modN b.qe qe fun e => { e with fault := true } }).slbTrip 0x02 true))) ∧
  -- SLB_DEG_TIMER_EXPIRY: 13 R383
  (∀ (t : Nat) (s u : State), s.at t = u → u.sup.on = true → u.slb.degRun = true →
      u.params.degTimerS * 1010 * ms + sec ≤ u.slb.degElapsed →
      Runs (.slbDegTimerExpiry t) s fun v => v.slb.degDue = true ∧ v.slb.degRun = false) ∧
  -- SLB_LINK_FRAME: 13 R368
  (∀ (t : Nat) (f : LinkFrame) (r : List LinkFrame) (s u : State), s.at t = u → u.sup.on = true → u.slb.link = f :: r →
      (u.slb.beat.any fun p => f.beat ≠ (p + 1) % 256) = false →
      exec (.slbLinkFrame t true) s = .next (settle ((u.onSlb fun b => { b with link := r }).onSlb (Slb.frame u.now f)))) ∧
  -- SPSTOP_N_CHANGE: 13 R368, R369
  (∀ (t : Nat) (active : Bool) (s u : State), s.at t = u → u.sup.on = true →
      Runs (.spstopNChange t active) s fun v => v.slb.reqB = active) ∧
  -- REQUEST_DISAGREE_EXPIRY: 13 R369
  (∀ (t : Nat) (s u : State), s.at t = u → u.sup.on = true → u.pastOpt u.slb.disagree (10 * ms) = true →
      exec (.requestDisagreeExpiry t) s = .next (settle ((u.onSlb fun b => { b with disagree := none }).slbTrip 0x05 true))) ∧
  -- HEARTBEAT_TIMEOUT: 03 R72
  (∀ (t : Nat) (s u : State), s.at t = u → u.sup.on = true → u.sys.state ≠ .off →
      exec (.heartbeatTimeout t .noEdge) s = .next (settle u.slbDrop.dieReset)) ∧
  -- SLB_OSCILLATOR_FAULT: 03 R73
  (∀ (t : Nat) (s u : State), s.at t = u → u.sup.on = true → exec (.slbOscillatorFault t) s = .next (settle (u.slbTrip 0x10 true))) ∧
  -- SLB_PARAM_CHECK: 13 R390
  (∀ (t : Nat) (s u : State), s.at t = u → u.sup.on = true → u.nvm.params.aOk = true → u.nvm.params.bOk = true →
      ∃ v : State, exec (.slbParamCheck t true false) s = .next (settle (v.evOpen 0x20 "SLB_PARAM_REWRITTEN" noSub 1)) ∧
        v.nvm.params = Copies.put u.nvm.params.a)

/-- Where each command of the safe messages, the ring, the host, supervision, the power states, monitors, logs and debug completes with its own effect. -/
def Obligations.MessageRingHostAndDebugCommandsComplete : Prop :=
  -- JOINTS_MESSAGE: 14 R398, R400, R402, R403
  (∀ (t : Nat) (m : SafeRx) (x : RxMsg) (d : Nat) (s u : State), s.at t = u → u.rxClass m = .first x d → rxType m = 0x8 →
      exec (.jointsMessage t m) s = .next (settle ((u.cvuNote (17 + m.port) (beAt m.data (8 + x.len) 4) true).accept x m d))) ∧
  -- STOP_REQUEST: 14 R404
  (∀ (t : Nat) (m : SafeRx) (x : RxMsg) (d : Nat) (s u : State), s.at t = u → u.rxClass m = .first x d → rxType m = 0x9 →
      exec (.stopRequest t m) s = .next (settle
        (((u.remoteStop m x.cr.conn).cvuNote (17 + m.port) (beAt m.data (8 + x.len) 4) true).accept x m d))) ∧
  -- RESET_REQUEST: 14 R405
  (∀ (t : Nat) (m : SafeRx) (x : RxMsg) (d : Nat) (s u : State), s.at t = u → u.rxClass m = .first x d → rxType m = 0xA →
      exec (.resetRequest t m) s = .next (settle ((u.cvuNote (17 + m.port) (beAt m.data (8 + x.len) 4) true).accept x m d))) ∧
  -- ALIVE_MESSAGE: 14 R402
  (∀ (t : Nat) (m : SafeRx) (x : RxMsg) (d : Nat) (s u : State), s.at t = u → u.rxClass m = .first x d → rxType m = 0xB →
      exec (.aliveMessage t m) s = .next (settle ((u.cvuNote (17 + m.port) (beAt m.data (8 + x.len) 4) true).accept x m d))) ∧
  -- PATH_ANNOUNCE: 14 R407
  (∀ (t : Nat) (m : SafeRx) (x : RxMsg) (s u : State), s.at t = u → u.rxClass m = .announce x → rxType m = 0xE →
      exec (.pathAnnounce t m) s = .next (settle ((u.cvuNote (17 + m.port) (beAt m.data (8 + x.len) 4) true).pathRestore x m))) ∧
  -- SKEW_WINDOW_END: 14 R405
  (∀ (t conn seq k : Nat) (r : ConnRec) (p : Pair) (s u : State), s.at t = u → u.smlOn = true → u.img.conn conn = some (k, r) →
      ((u.conn k).pairs.find? fun p => p.seq == seq && !p.decided && u.past p.at_ (u.img.messages.skewUs * 1000)) = some p →
      exec (.skewWindowEnd t conn seq) s = .next (settle (u.pairSingle k r p))) ∧
  -- SML_WATCHDOG_EXPIRY: 14 R402
  (∀ (t conn k : Nat) (r : ConnRec) (s u : State), s.at t = u → u.smlOn = true → u.img.conn conn = some (k, r) → u.dogDue k = true →
      exec (.smlWatchdogExpiry t conn) s = .next (settle (u.connFail k))) ∧
  -- SML_OPENING_EXPIRY: 14 R403
  (∀ (t conn k : Nat) (r : ConnRec) (s u : State), s.at t = u → u.smlOn = true → u.img.conn conn = some (k, r) → r.dir = 0 →
      (u.conn k).state = .opening → u.past (u.conn k).dogAt (r.watchdog * ms) = true →
      exec (.smlOpeningExpiry t conn) s = .next (settle (u.onConn k fun c => { c with state := .closed }))) ∧
  -- SINGLE_PATH_TIMER_EXPIRY: 14 R408
  (∀ (t : Nat) (s u : State), s.at t = u → u.smlOn = true → u.singleExpired = true →
      exec (.singlePathTimerExpiry t) s = .next (settle (u.spTrip 0x0C false))) ∧
  -- STATUS_SEND: 14 R399
  (∀ (t conn k : Nat) (r : ConnRec) (s u : State), s.at t = u → u.smlOn = true → u.img.conn conn = some (k, r) → r.dir = 1 →
      u.past (u.conn k).statusAt (r.period * ms) = true →
      exec (.statusSend t conn) s = .next (settle (u.sendStatus k))) ∧
  -- PATH_ANNOUNCE_SEND: 14 R407
  (∀ (t port : Nat) (s u : State), s.at t = u → u.smlOn = true → port < 2 → getN u.sml.link port = true →
      (getN u.sml.annAt port).all (u.past · (100 * ms)) = true →
      exec (.pathAnnounceSend t port) s = .next (settle
        ((u.onSml fun m => { m with annAt := setN m.annAt port (some u.now) }).each u.txSlots fun k s =>
          s.with (s.img.slot k) fun r s => s.send (.safe port r.mac r.vid r.pcp
            (safeFrame r 0xE (((s.conn k).seq + 65535) % 65536) [byte port, 0, 0, 0] s.devUs))))) ∧
  -- ETH_LINK_CHANGE: 14 R406, R408
  (∀ (t port : Nat) (up : Bool) (s u : State), s.at t = u → u.regsUp = true → port < 4 →
      exec (.ethLinkChange t port up) s = .next (settle (if up then u.linkRise port else u.linkDown port))) ∧
  -- CVU_COMPUTE_COMPLETE: 14 R415, R416
  (∀ (t n : Nat) (r : CvuReq) (s u : State), s.at t = u → u.regsUp = true → n < 32 → (getN u.cvu.chans n).service = true →
      r.disagree = false →
      exec (.cvuComputeComplete t n r) s = .next (settle (u.onCvu fun k => { k with chans := modN k.chans n (CvuCh.run r) }))) ∧
  -- SAFE_MESSAGE_REFUSED: 14 R398, R400, R401
  (∀ (t : Nat) (m : SafeRx) (s u : State), s.at t = u → (u.rxClass m).refused = true →
      exec (.safeMessageRefused t m) s = .next (settle (u.rxAct m))) ∧
  -- CONNECTION_PAUSE: 17 R479
  (∀ (t : Nat) (s u : State), s.at t = u → u.smlOn = true →
      ((u.rxSlots 4).all fun k => u.pastOpt (u.conn k).aliveSince (100 * ms)) = true →
      ((u.rxSlots 0).all fun k => (u.conn k).state == .open_) = true →
      exec (.connectionPause t) s = .next (settle (u.each (u.rxSlots 4) fun k s => s.onConn k fun c => { c with paused := true }))) ∧
  -- XWL_LISTEN_EXPIRY: 15 R428
  (∀ (t : Nat) (s u : State), s.at t = u → u.xwl.phase = .listen → u.xwlOn = true →
      u.past u.xwl.phaseAt (200000 + u.ring.nodeId * 50000) = true →
      exec (.xwlListenExpiry t) s = .next (settle
        ((u.onXwl fun w => { w with phase := .claim, phaseAt := u.now }).xwlSend
          ((u.onXwl fun w => { w with phase := .claim, phaseAt := u.now }).xwlHeader 3 u.dev)))) ∧
  -- XWL_CLAIM_RECEIVED: 15 R428
  (∀ (t : Nat) (m : XwlRx) (s u : State), s.at t = u → u.xwl.phase = .listen → u.clk.xwlOk = true → m.lane < 2 → xOk m = true →
      xKind m = 3 → xSrc m ≠ u.ring.nodeId → bit u.ring.members (xSrc m) = true → ((u.xwlLane m.lane).xwlFirst m).1 = true →
      exec (.xwlClaimReceived t m) s = .next (settle
        ((((u.xwlLane m.lane).xwlFirst m).2.onXwl fun w =>
          { w with phase := .integrate, phaseAt := u.now, masterId := xSrc m, master := false, seen := 0, noSync := 0 }).xwlForward m))) ∧
  -- XWL_BACKOFF_EXPIRY: 15 R429
  (∀ (t : Nat) (s u : State), s.at t = u → u.xwl.phase = .backoff → u.past u.xwl.phaseAt (ms + u.ring.nodeId * 100000) = true →
      exec (.xwlBackoffExpiry t) s = .next (settle (u.onXwl fun w => { w with phase := .listen, phaseAt := u.now }))) ∧
  -- XWL_CYCLE_START: 15 R431
  (∀ (t : Nat) (s u : State), s.at t = u → u.clk.xwlOk = true →
      (u.xwl.phase = .claim → u.past u.xwl.phaseAt 100000 = true →
        exec (.xwlCycleStart t) s = .next (settle
          (u.onXwl fun w => { w with phase := .member, phaseAt := u.now, master := true, masterId := u.ring.nodeId, follow := false,
                                     cycle := 0, cycleAt := u.now, noSync := 0, seen := 3, slotDone := false, unitsDone := 0 }).sendSync)) ∧
      (u.xwl.phase = .member → u.past u.xwl.cycleAt 99900 = true →
        exec (.xwlCycleStart t) s = .next (settle u.xwlTick.sendSync))) ∧
  -- XWL_SYNC_RECEIVED: 15 R431, R432
  (∀ (t : Nat) (m : XwlRx) (s u : State), s.at t = u → u.xwl.phase ≠ .off → u.clk.xwlOk = true → m.lane < 2 → xOk m = true →
      xKind m = 1 → xSrc m ≠ u.ring.nodeId → bit u.ring.members (xSrc m) = true →
      (((u.xwlLane m.lane).xwlForward m).xwlFirst m).1 = true →
      exec (.xwlSyncReceived t m) s = .next (settle ((((u.xwlLane m.lane).xwlForward m).xwlFirst m).2.takeSync m))) ∧
  -- XWL_SAFETY_SLOT: 15 R426, R431
  (∀ (t : Nat) (s u : State), s.at t = u → u.xwlOn = true → u.xwl.phase = .member → u.xwl.slotDone = false →
      u.past u.xwl.cycleAt ((2 + 2 * u.ring.nodeId) * 1000) = true →
      exec (.xwlSafetySlot t) s = .next (settle
        ((u.onXwl fun w => { w with phase := .member, slotDone := true }).xwlSend
          ((u.onXwl fun w => { w with phase := .member, slotDone := true }).xwlHeader 2 u.dev)))) ∧
  -- XWL_SAFETY_RECEIVED: 15 R431, R435, R437
  (∀ (t : Nat) (m : XwlRx) (s u : State), s.at t = u → u.xwl.phase ≠ .off → u.clk.xwlOk = true → m.lane < 2 → xOk m = true →
      xKind m = 2 → xSrc m ≠ u.ring.nodeId → bit u.ring.members (xSrc m) = true →
      (((u.xwlLane m.lane).xwlForward m).xwlFirst m).1 = true →
      let w := (((u.xwlLane m.lane).xwlForward m).xwlFirst m).2
      exec (.xwlSafetyReceived t m) s = .next (settle ((w.onNode (xSrc m) (Node.hear w.now m)).ringTrip w.ringAsks))) ∧
  -- XWL_NODE_TIMEOUT: 15 R431, R435
  (∀ (t node : Nat) (s u : State), s.at t = u → node < 8 → (u.node node).roster = true →
      u.pastOpt (u.node node).heard (u.ring.nodeTimeout * ms) = true →
      exec (.xwlNodeTimeout t node) s = .next (settle
        ((((u.onNode node fun x => { x with roster := false, stop := 0 }).onXwl fun w =>
          { w with events := w.events ||| 1, up := false, upCycles := 0 }).evOpen 0x0C "NODE_LOST" node 0).ringTrip u.ringAsks))) ∧
  -- XWL_SYNC_LOSS: 15 R432
  (∀ (t n : Nat) (s u : State), s.at t = u → u.xwl.phase = .member → u.xwl.master = false → 4 ≤ u.xwl.noSync →
      ((List.range 8).find? fun n => u.inRoster n && n != u.xwl.masterId) = some n →
      exec (.xwlSyncLoss t) s = .next (settle (u.onXwl fun w =>
        { w with masterId := n, master := decide (n = u.ring.nodeId), follow := w.follow && n != u.ring.nodeId, noSync := 0,
                 events := w.events ||| 8 }).sendSync)) ∧
  -- XWL_DELAY_MEASURE: 15 R433
  (∀ (t a b : Nat) (s u : State), s.at t = u → u.clk.xwlOk = true → u.xwl.phase = .integrate →
      exec (.xwlDelayMeasure t a b) s = .next (settle (u.onXwl fun w => { w with delays := [a, b], measured := 0 }))) ∧
  -- XWL_BULK_RECEIVED: 15 R438
  (∀ (t : Nat) (m : XwlRx) (s u : State), s.at t = u → u.xwl.phase ≠ .off → u.clk.xwlOk = true → m.lane < 2 → xOk m = true →
      xKind m = 4 → xSrc m ≠ u.ring.nodeId → bit u.ring.members (xSrc m) = true →
      (((u.xwlLane m.lane).xwlForward m).xwlFirst m).1 = true → 72 ≤ m.data.length →
      let w := (((u.xwlLane m.lane).xwlForward m).xwlFirst m).2
      let pay := (m.data.drop 68).dropLast.dropLast.dropLast.dropLast
      beAt m.data 64 1 = w.ring.nodeId → crc32c pay = beAt m.data (m.data.length - 4) 4 →
      exec (.xwlBulkReceived t m) s = .next (settle (w.wake.takeBulk (xSrc m) (beAt m.data 65 3) pay))) ∧
  -- XWL_RETURN_TIMEOUT: 15 R438
  (∀ (t job : Nat) (h : Nat × Nat) (s u : State), s.at t = u → u.xwl.handed.find? (·.1 == job) = some h →
      u.past h.2 (u.ring.returnUs * 1000) = true → (u.vrd.results.find? fun r => r.auditJob == some job) = none →
      exec (.xwlReturnTimeout t job) s = .next (settle (u.onXwl fun w =>
        { w with shareTimeout := satInc w.shareTimeout, events := w.events ||| 16, handed := w.handed.filter (·.1 ≠ job),
                 bulk := w.bulk.filter fun b => b.2.1 ≠ job }))) ∧
  -- XWL_LANE_LOSS: 15 R440
  (∀ (t lane : Nat) (s u : State), s.at t = u → lane < 2 → u.xwl.phase ≠ .off → getN u.xwl.lanes lane = true →
      exec (.xwlLaneLoss t lane) s = .next (settle
        ((u.onXwl fun w => { w with lanes := setN w.lanes lane false, line := true, events := w.events ||| 2 }).evOpen 0x0C "LANE_LOST"
          lane 0))) ∧
  -- XWL_BULK_UNIT: 15 R426
  (∀ (t unit : Nat) (s u : State), s.at t = u → unit < 8 → u.xwlOn = true → u.xwl.phase = .member → bit u.ring.units unit = true →
      bit u.xwl.unitsDone unit = false → u.past u.xwl.cycleAt ((18 + 10 * unit) * 1000) = true →
      exec (.xwlBulkUnit t unit) s = .next (settle
        ((u.onXwl fun w => { w with unitsDone := w.unitsDone ||| 2 ^ unit }).sendBulk (u.xwl.bulk.length + 1) 26000))) ∧
  -- HQ_ENABLE_WRITE: 16 R455
  (∀ (t q : Nat) (s u : State), s.at t = u → u.regsUp = true → q < 64 →
      exec (.hqEnableWrite t q false) s = .next (settle (u.onQ q fun h => { h with en := false })) ∧
      (u.hq.opened = true → (u.hqueue q).en = false → u.queueOk q = true →
        exec (.hqEnableWrite t q true) s = .next (settle ((u.onQ q fun h => { h with en := true, phase := true }).cqDrain q)))) ∧
  -- HQ_RESET: 16 R455
  (∀ (t q : Nat) (s u : State), s.at t = u → u.regsUp = true → q < 64 →
      exec (.hqReset t q) s = .next (settle (u.onQ q fun h => { h with resetting := true }))) ∧
  -- QUEUE_RESET_COMPLETE: 16 R455
  (∀ (t q : Nat) (s u : State), s.at t = u → u.regsUp = true → q < 64 → (u.hqueue q).resetting = true → u.inFlight q = [] →
      exec (.queueResetComplete t q) s = .next (settle (u.onQ q HQueue.cleared))) ∧
  -- HQ_RESUME: 16 R464
  (∀ (t q : Nat) (c : ChanRec) (s u : State), s.at t = u → u.regsUp = true → q < 64 → u.wake.boundChan q = some c →
      u.wake.allLive c.streams = true →
      exec (.hqResume t q) s = .next (settle
        ((u.wake.onQ q fun h => { h with hold := false, error := false, err := 0, chFault := false }).onChan c.ch fun x =>
          { x with fault := false, free := true, timerAt := none, late := false, used := 0, spent := false }))) ∧
  -- CQ_HEAD_WRITE: 16 R453, R467
  (∀ (t q v : Nat) (s u : State), s.at t = u → u.regsUp = true → q < 64 →
      exec (.cqHeadWrite t q v) s = .next (settle ((u.onQ q fun h =>
        { h with cqHead := v % 4096, cqUsed := h.cqUsed - (v % 4096 + 2 ^ 16 - h.cqHead) % 2 ^ h.cqLog }).cqDrain q))) ∧
  -- HQ_IRQ_WRITE: 16 R454
  (∀ (t q v : Nat) (s u : State), s.at t = u → u.regsUp = true → q < 64 → 1 ≤ bits v 0 7 → bits v 0 7 ≤ 64 → bits v 16 10 ≤ 1000 →
      bit v 31 = true →
      exec (.hqIrqWrite t q v) s = .next (settle
        ((u.onQ q fun h => { h with irqCount := bits v 0 7, irqTime := bits v 16 10, irqMask := true }).msiDue q))) ∧
  -- IRQ_TIME_EXPIRY: 16 R454
  (∀ (t q : Nat) (s u : State), s.at t = u → u.regsUp = true → q < 64 →
      exec (.irqTimeExpiry t q) s = .next (settle (u.msiDue q))) ∧
  -- DELIVERY_TAIL_WRITE: 16 R457, R468
  (∀ (t n v : Nat) (s u : State), s.at t = u → u.regsUp = true → n < 16 → v % 4096 < 2 ^ (getN u.hq.rings n).sizeLog →
      exec (.deliveryTailWrite t n v) s = .next (settle (u.onRing n fun d => { d with tail := v % 4096 }))) ∧
  -- HQ_CHECKPOINT: 16 R463
  (∀ (t v : Nat) (c : ChanRec) (s u : State), s.at t = u → u.tsuOn = true → u.img.chan (bits v 0 9) = some c →
      exec (.hqCheckpoint t v) s = .next (settle ((u.cpChecks c (bits v 16 4)).cpTimer c (bits v 16 4)))) ∧
  -- PCIE_FUNCTION_LEVEL_RESET: 16 R456
  (∀ (t : Nat) (s u : State), s.at t = u → u.regsUp = true →
      exec (.pcieFunctionLevelReset t) s = .next (settle (u.onHq fun h =>
        { h with queues := h.queues.map fun x => { x with resetting := true }
                 rings := h.rings.map fun d => { d with tail := 0, head := 0, phase := true, en := false } }))) ∧
  -- BAR2_ACCESS: 16 R449, R450
  (∀ (t c : Nat) (r : Bar2Req) (s u : State), s.at t = u → u.regsUp = true → u.sys.state ≠ .doldrums →
      let n := match r.write with | some b => b.length | none => r.length
      r.offset + n ≤ 0x40000000 → u.bar2Ident r = some c → bar2Range r.offset n = true →
      u.check c r.write.isSome (bar2Addr r.offset) n = (true, u) →
      exec (.bar2Access t r) s = .next (settle (u.bar2Reach r c (bar2Addr r.offset) n))) ∧
  -- TSU_ALIVE_WINDOW_END: 16 R461, R463
  (∀ (t c : Nat) (r : ChanRec) (s u : State), s.at t = u → u.img.chan c = some r → u.tsuOn = true → r.aliveWindow ≠ 0 →
      u.past (u.tchan c).windowAt (r.aliveWindow * ms) = true → r.aliveMin ≤ (u.tchan c).alive → r.queue ≠ 0xFF →
      exec (.tsuAliveWindowEnd t c) s = .next (settle
        (u.onChan c fun x => { x with windowAt := x.windowAt + r.aliveWindow * ms, alive := 0 }))) ∧
  -- TSU_DEADLINE_EXPIRY: 16 R463
  (∀ (t c : Nat) (r : ChanRec) (s u : State), s.at t = u → u.img.chan c = some r → u.tsuOn = true → r.deadlineUs ≠ 0 →
      (u.tchan c).late = false → u.pastOpt (u.tchan c).timerAt (r.deadlineUs * 1000) = true →
      exec (.tsuDeadlineExpiry t c) s = .next (settle ((u.onChan c fun x => { x with late := true }).chFault c 3))) ∧
  -- TSU_BUDGET_EXCEEDED: 16 R463
  (∀ (t c : Nat) (r : ChanRec) (s u : State), s.at t = u → u.img.chan c = some r → u.tsuOn = true → r.budgetUs ≠ 0 →
      (u.tchan c).spent = false → r.budgetUs * 1000 < u.budgetUsed c →
      exec (.tsuBudgetExceeded t c) s = .next (settle ((u.onChan c fun x => { x with spent := true }).chFault c 4))) ∧
  -- TSU_BUDGET_PERIOD_END: 16 R463
  (∀ (t c : Nat) (r : ChanRec) (s u : State), s.at t = u → u.img.chan c = some r → u.tsuOn = true → r.budgetUs ≠ 0 →
      u.past (u.tchan c).periodAt (r.budgetPeriod * ms) = true →
      exec (.tsuBudgetPeriodEnd t c) s = .next (settle
        (u.onChan c fun x => { x with periodAt := x.periodAt + r.budgetPeriod * ms, used := 0, spent := false }))) ∧
  -- PSM_PLANNED_WAKE: 17 R478, R480
  (∀ (t : Nat) (p : PState) (s u : State), s.at t = u → u.psmOn = true → u.psm.waking = none → u.psm.deepest? = some p →
      u.plannedDue p = true →
      exec (.psmPlannedWake t) s = .next (settle u.planWake.psmChoose)) ∧
  -- PSM_WAKE_COMPLETE: 17 R472, R473
  (∀ (t i : Nat) (p : Bool) (s u : State), s.at t = u → u.psmOn = true → u.psm.waking = some (i, p) →
      exec (.psmWakeComplete t 0) s = .next (settle ((u.latency 0x08 noSub (u.now - i)).exitDeep).settleWork)) ∧
  -- PSM_WAKE_FAULT: 17 R485
  (∀ (t i : Nat) (p : Bool) (s u : State), s.at t = u → u.psmOn = true → u.psm.waking = some (i, p) →
      i + u.psm.state.exit + 50000 < u.now →
      exec (.psmWakeFault t) s = .next (settle (((u.exitDeep.onPsm fun p =>
        { p with wakeFault := true, events := p.events ||| 2 }).evOpen 0x0F "WAKE_FAULT" noSub 0).settleWork))) ∧
  -- PSM_ENTRY_COMPLETE: 17 R471
  (∀ (t i : Nat) (p : PState) (s u : State), s.at t = u → u.psmOn = true → u.psm.entering = some (p, i) → u.past i p.entry = true →
      exec (.psmEntryComplete t) s = .next (settle (u.enterPower p))) ∧
  -- BREEZE_CORE_GATE: 17 R472
  (∀ (t n : Nat) (s u : State), s.at t = u → u.psmOn = true → n < 16 → u.psm.state = .breeze → u.psm.waking = none →
      (u.acore n).run = none → u.past (u.acore n).idleAt 2000 = true →
      exec (.breezeCoreGate t n) s = .next (settle (u.onCore n fun c => { c with gated := true }))) ∧
  -- BG_URGENT: 17 R483
  (∀ (t a : Nat) (s u : State), s.at t = u → u.psmOn = true → 2 ≤ a → a < 5 → (getN u.psm.bg a).near u.now a = true →
      exec (.bgUrgent t a) s = .next (settle (u.onBg a fun b => { b with urgent := true }))) ∧
  -- BG_DEADLINE_MISS: 17 R484
  (∀ (t a : Nat) (s u : State), s.at t = u → u.psmOn = true → a < 5 → a ≠ 1 → (getN u.psm.bg a).due u.now a = true →
      exec (.bgDeadlineMiss t a) s = .next (settle ((u.onBg a (Bg.miss (bgDeadline a))).bgMissed a))) ∧
  -- OVERCURRENT_CUT_OFF: 02 R43
  (∀ (t n : Nat) (s u : State), s.at t = u → u.sup.on = true → n < 8 →
      ∃ v : State, exec (.overcurrentCutOff t n) s = .next (settle (v.slbTrip 0x06 true)) ∧ v.slb.stoCmd = setN u.slb.stoCmd n false) ∧
  -- ADC_CALIBRATION: 18 R497
  (∀ (t : Nat) (s u : State), s.at t = u → u.regsUp = true →
      exec (.adcCalibration t { spOk := true, slbOk := true, disagree := false }) s = .next (settle
        ((u.onMon fun k => { k with adcSp := false, adcSlb := false }).bgDone 2))) ∧
  -- TELEMETRY_SWAP: 18 R498
  (∀ (t : Nat) (s u : State), s.at t = u → u.regsUp = true →
      exec (.telemetrySwap t) s = .next (settle ((u.onMon fun k =>
        { k with telemSeq := (k.telemSeq + 1) % 2 ^ 32, telemTime := u.dev, telemState := u.sysState,
                 telemLast := k.slots.map (·.last) }).bgDone 4))) ∧
  -- MON_LEVEL_SAMPLE: 18 R493
  (∀ (t n : Nat) (v : Int) (r : MonRec) (s u : State), s.at t = u → (u.img.monitors.slots.find? (·.slot == n)) = some r →
      u.regsUp = true → r.level = true → n < 64 → r.source ≠ 0x24 → r.vin = false → u.adcBad r = false →
      exec (.monLevelSample t n v) s = .next (settle (u.sample n r (max (-(2 ^ 31)) (min (2 ^ 31 - 1) v))))) ∧
  -- MON_SNAPSHOT: 18 R496
  (∀ (t n : Nat) (b : Bank) (s u : State), s.at t = u → u.bankUp b = true →
      exec (.monSnapshot t b n) s = .next (settle (u.snap b n))) ∧
  -- MON_SNAPSHOT_CLEAR: 18 R496
  (∀ (t n : Nat) (s u : State), s.at t = u → u.bankUp .sp = true →
      ∃ v : State, exec (.monSnapshotClear t .sp n) s = .next (settle v) ∧ v.mon.sp = (u.snap .sp n).mon.sp ∧
        v.mon.slots = modN u.mon.slots (n % 64) MonSlot.clear) ∧
  -- LOG_SEL_WRITE: 18 R502
  (∀ (t seq : Nat) (b : Bank) (s u : State), s.at t = u → u.bankUp b = true →
      (∀ e, u.ret.log.find? (·.seq == seq % 2 ^ 32) = some e → exec (.logSelWrite t b seq) s =
        .next (settle (u.onBank b fun l => { l with selStat := if e.good then 1 else 4, entry := e.bytes }))) ∧
      (u.ret.log.find? (·.seq == seq % 2 ^ 32) = none → exec (.logSelWrite t b seq) s =
        .next (settle (u.onBank b fun l =>
          { l with selStat := (selMiss u.ret.logNext (seq % 2 ^ 32) false).getD 2, entry := zeros 32 })))) ∧
  -- FR_SEL_WRITE: 18 R503
  (∀ (t num : Nat) (b : Bank) (s u : State), s.at t = u → u.bankUp b = true →
      (∀ e, u.ret.frs.find? (·.num == num % 2 ^ 32) = some e → exec (.frSelWrite t b num) s =
        .next (settle (u.onBank b fun l => { l with frStat := if crcOk e.data then 1 else 4, frEntry := e.data }))) ∧
      (u.ret.frs.find? (·.num == num % 2 ^ 32) = none → exec (.frSelWrite t b num) s =
        .next (settle (u.onBank b fun l =>
          { l with frStat := (selMiss u.ret.frNext (num % 2 ^ 32) false).getD 2, frEntry := zeros 256 })))) ∧
  -- LOG_REPEAT_SECOND_END: 18 R501
  (∀ (t : Nat) (s u : State), s.at t = u → u.regsUp = true → u.log.second < u.dev / sec →
      exec (.logRepeatSecondEnd t) s = .next (settle u.flushRepeats)) ∧
  -- IDCODE: 18 Table 18.8
  (∀ (t : Nat) (s u : State), s.at t = u → u.sup.on = true →
      exec (.idcode t) s = .next (settle ((u.tapIr 0x01).shiftOut 0 (leBytes 4 0x0480D0A5)))) ∧
  -- SAMPLE_PRELOAD: 18 Table 18.8
  (∀ (t p q : Nat) (s u : State), s.at t = u → u.sup.on = true →
      exec (.samplePreload t p q) s = .next (settle
        (((u.tapIr 0x02).onDbg fun d => { d with capture := p, preload := q }).shiftOut 0 (leBytes 8 p)))) ∧
  -- EXTEST: 18 Table 18.8
  (∀ (t p : Nat) (s u : State), s.at t = u → u.sup.on = true → u.dbg.enabled = true → u.torque = false →
      exec (.extest t p) s = .next (settle
        (((u.tapIr 0x03).onDbg fun d => { d with extest := true, capture := p }).shiftOut 0 (leBytes 8 p)))) ∧
  -- BYPASS: 18 Table 18.8
  (∀ (t d : Nat) (s u : State), s.at t = u → u.sup.on = true → exec (.bypass t d) s = .next (settle (u.bypassShift 0x3F d))) ∧
  -- DBG_NONCE: 18 R507
  (∀ (t : Nat) (s u : State), s.at t = u → u.sup.on = true →
      exec (.dbgNonce t) s = .next (settle ((u.tapIr 0x10).shiftOut 0 u.dbg.nonce))) ∧
  -- DBG_UNLOCK: 18 R507
  (∀ (t : Nat) (r : UnlockReq) (s u : State), s.at t = u → u.sup.on = true →
      exec (.dbgUnlock t r) s = .next (settle
        ((((u.tapIr 0x11).unlockAnswer r).2.unlockNote ((u.tapIr 0x11).unlockAnswer r).1).newNonce.shiftOut
          ((u.tapIr 0x11).unlockAnswer r).1 []))) ∧
  -- DBG_LOCK: 18 R508
  (∀ (t : Nat) (s u : State), s.at t = u → u.sup.on = true →
      exec (.dbgLock t) s = .next (settle ((u.tapIr 0x12).dbgOff.shiftOut 0 []))) ∧
  -- HALT: 18 R509
  (∀ (t m : Nat) (s u : State), s.at t = u → u.sup.on = true → u.dbg.enabled = true → m % 2 ^ 16 ≠ 0 →
      exec (.halt t m) s = .next (settle
        (((((u.tapIr 0x13).onDbg fun d => { d with stepping := d.stepping.zipIdx.map fun x => x.1 && !bit m x.2 }).haltMask
          (u.dbg.mask m true)).breakPairs).haltFails.shiftOut 0 []))) ∧
  -- DBG_RESUME: 18 R509
  (∀ (t m : Nat) (s u : State), s.at t = u → u.sup.on = true → u.dbg.enabled = true →
      exec (.dbgResume t m) s = .next (settle ((((u.tapIr 0x13).haltMask (u.dbg.mask m false)).settleBreak).shiftOut 0 []))) ∧
  -- STEP: 18 R509
  (∀ (t n : Nat) (s u : State), s.at t = u → u.sup.on = true → u.dbg.enabled = true → n < 16 → getN u.dbg.halted n = true →
      exec (.step t n) s = .next (settle
        (((((u.tapIr 0x13).onDbg fun d => { d with stepping := setN d.stepping n true }).haltMask (setN u.dbg.halted n false))).shiftOut
          0 []))) ∧
  -- SET_BP: 18 R509
  (∀ (t n : Nat) (m : BpMatch) (s u : State), s.at t = u → u.sup.on = true → u.dbg.enabled = true → n < 4 →
      exec (.setBp t n m) s = .next (settle (((u.tapIr 0x13).onDbg fun d => { d with bps := setN d.bps n m }).shiftOut 0 []))) ∧
  -- READ_CORE: 18 R509
  (∀ (t n : Nat) (s u : State), s.at t = u → u.sup.on = true → u.dbg.enabled = true → n < 16 →
      exec (.readCore t n) s = .next (settle ((u.tapIr 0x13).shiftOut 0 ((u.tapIr 0x13).coreDump n)))) ∧
  -- DBG_MEM: 18 R510
  (∀ (t : Nat) (r : DbgMemReq) (s u : State), s.at t = u → u.sup.on = true → u.dbg.enabled = true → r.bytes = 4 ∨ r.bytes = 8 →
      r.addr % r.bytes = 0 → r.addr < 2 ^ 40 → (u.tapIr 0x14).check idDebug r.write.isSome r.addr r.bytes = (true, u.tapIr 0x14) →
      exec (.dbgMem t r) s = .next (settle ((u.tapIr 0x14).dbgReach r.addr r.bytes r.write))) ∧
  -- DBG_SP: 18 R511
  (∀ (t : Nat) (s u : State), s.at t = u → u.sup.on = true → u.dbg.enabled = true → u.dbg.method = 2 → u.dbg.scopeSp = true →
      exec (.dbgSp t .halt) s = .next (settle ((((u.tapIr 0x15).onDbg fun d => { d with spHalted := true }).haltFails).shiftOut 0 [])) ∧
      exec (.dbgSp t .resume) s = .next (settle (((u.tapIr 0x15).onDbg fun d => { d with spHalted := false }).shiftOut 0 []))) ∧
  -- REGISTER_WRITE: 00 R6, R9
  (∀ (t a v : Nat) (w : Writer) (s u : State), s.at t = u → u.regsUp = true →
      (a % 4 = 0 → exec (.registerWrite t w false a v) s = .next (settle (u.putReg w a v))) ∧
      (a % 8 = 0 → exec (.registerWrite t w true a v) s =
        .next (settle ((u.putReg w a v).putReg w (a + 4) (v / 2 ^ 32)))))
end

