-- ==== Sys2Proof/Laws/Memory.lean ====
section
/-! SUPPORT. Memory: every operation keeps the canonical form, and what a read gives after a write. -/

namespace Sys2Proof.Machine

/-- The canonical form said with the list's own order: no byte 0, and addresses rise strictly from `lo` on. -/
theorem memWfFrom_iff (lo : Nat) (m : List Host.Cell) :
    memWfFrom lo m = true ↔ (∀ c ∈ m, lo ≤ c.1 ∧ c.2 ≠ 0) ∧ m.Pairwise (fun c d => c.1 < d.1) := by
  induction m generalizing lo with
  | nil => simp [memWfFrom]
  | cons c r ih =>
    simp only [memWfFrom, Bool.and_eq_true, decide_eq_true_eq, bne_iff_ne, ih, List.mem_cons, List.pairwise_cons,
      forall_eq_or_imp]
    constructor
    · rintro ⟨⟨h1, h2⟩, h3, h4⟩
      exact ⟨⟨⟨h1, h2⟩, fun d hd => ⟨by have := (h3 d hd).1; omega, (h3 d hd).2⟩⟩, fun d hd => (h3 d hd).1, h4⟩
    · rintro ⟨⟨h1, h3⟩, h2, h4⟩
      exact ⟨h1, fun d hd => ⟨h2 d hd, (h3 d hd).2⟩, h4⟩

theorem memory_wf_iff (m : List Host.Cell) :
    Memory.wf m = true ↔ (∀ c ∈ m, c.2 ≠ 0) ∧ m.Pairwise (fun c d => c.1 < d.1) := by
  simp [Memory.wf, memWfFrom_iff]

/-- Leaving cells out keeps the form. -/
theorem filter_wf {m : List Host.Cell} (p : Host.Cell → Bool) (h : Memory.wf m = true) : Memory.wf (m.filter p) = true := by
  rw [memory_wf_iff] at h ⊢
  exact ⟨fun c hc => h.1 c (List.mem_filter.1 hc).1, h.2.filter p⟩

theorem memErase_wf {m : List Host.Cell} (lo len : Nat) (h : Memory.wf m = true) : Memory.wf (memErase m lo len) = true :=
  filter_wf _ h

theorem mem_memCells {a : Nat} {bs : Bytes} {c : Host.Cell} (h : c ∈ memCells a bs) :
    a ≤ c.1 ∧ c.1 < a + bs.length ∧ c.2 ≠ 0 := by
  induction bs generalizing a with
  | nil => simp [memCells] at h
  | cons b r ih =>
    simp only [memCells] at h
    split at h
    · have := ih h; simp only [List.length_cons]; exact ⟨by omega, by omega, this.2.2⟩
    · rcases List.mem_cons.1 h with rfl | h
      · simp only [List.length_cons]; exact ⟨Nat.le_refl _, by omega, by assumption⟩
      · have := ih h; simp only [List.length_cons]; exact ⟨by omega, by omega, this.2.2⟩

theorem memCells_pairwise (a : Nat) (bs : Bytes) : (memCells a bs).Pairwise (fun c d => c.1 < d.1) := by
  induction bs generalizing a with
  | nil => simp [memCells]
  | cons b r ih =>
    simp only [memCells]
    split
    · exact ih _
    · exact List.pairwise_cons.2 ⟨fun d hd => (mem_memCells hd).1, ih _⟩

/-- A byte sequence written keeps the form. -/
theorem memPutAll_wf {m : List Host.Cell} (a : Nat) (bs : Bytes) (h : Memory.wf m = true) :
    Memory.wf (memPutAll m a bs) = true := by
  rw [memory_wf_iff] at h ⊢
  simp only [memPutAll]
  refine ⟨fun c hc => ?_, ?_⟩
  · rcases List.mem_append.1 hc with hc | hc
    · rcases List.mem_append.1 hc with hc | hc
      · exact h.1 c (List.mem_filter.1 hc).1
      · exact (mem_memCells hc).2.2
    · exact h.1 c (List.mem_filter.1 hc).1
  · rw [List.pairwise_append, List.pairwise_append]
    refine ⟨⟨h.2.filter _, memCells_pairwise _ _, fun c hc d hd => ?_⟩, h.2.filter _, fun c hc d hd => ?_⟩
    · have h1 := (List.mem_filter.1 hc).2
      have h2 := mem_memCells hd
      simp only [decide_eq_true_eq] at h1; omega
    · have h2 := (List.mem_filter.1 hd).2
      simp only [decide_eq_true_eq] at h2
      rcases List.mem_append.1 hc with hc | hc
      · have h1 := (List.mem_filter.1 hc).2
        simp only [decide_eq_true_eq] at h1; omega
      · have := mem_memCells hc; omega

theorem memPut_mem {m : List Host.Cell} {a : Nat} {v : Byte} {c : Host.Cell} (h : c ∈ memPut m a v) :
    c ∈ m ∨ (c = (a, v) ∧ v ≠ 0) := by
  induction m with
  | nil => simp only [memPut] at h; split at h <;> simp_all
  | cons d r ih =>
    simp only [memPut] at h
    split at h
    · split at h <;> simp_all
      grind
    · split at h
      · split at h <;> simp_all
        grind
      · rcases List.mem_cons.1 h with rfl | h
        · simp
        · rcases ih h with h | h
          · exact .inl (List.mem_cons_of_mem _ h)
          · exact .inr h

/-- One byte written keeps the form. -/
theorem memPut_wf {m : List Host.Cell} (a : Nat) (v : Byte) (h : Memory.wf m = true) : Memory.wf (memPut m a v) = true := by
  rw [memory_wf_iff] at h ⊢
  refine ⟨fun c hc => ?_, ?_⟩
  · rcases memPut_mem hc with hc | ⟨rfl, hv⟩
    · exact h.1 c hc
    · exact hv
  · obtain ⟨-, h⟩ := h
    induction m with
    | nil => simp only [memPut]; split <;> simp
    | cons d r ih =>
      obtain ⟨h1, h2⟩ := List.pairwise_cons.1 h
      simp only [memPut]
      split
      · rename_i ha
        split
        · exact h
        · refine List.pairwise_cons.2 ⟨fun e he => ?_, h⟩
          rcases List.mem_cons.1 he with rfl | he
          · exact ha
          · exact Nat.lt_trans ha (h1 e he)
      · split
        · rename_i ha
          split
          · exact h2
          · exact List.pairwise_cons.2 ⟨fun e he => by have := h1 e he; simp only; omega, h2⟩
        · refine List.pairwise_cons.2 ⟨fun e he => ?_, ih h2⟩
          rcases memPut_mem he with he | ⟨rfl, -⟩
          · exact h1 e he
          · simp only; omega

/-! ## Poisoned granules -/

theorem granWfFrom_iff (lo : Nat) (l : List Nat) :
    granWfFrom lo l = true ↔ (∀ g ∈ l, lo ≤ g) ∧ l.Pairwise (· < ·) := by
  induction l generalizing lo with
  | nil => simp [granWfFrom]
  | cons x r ih =>
    simp only [granWfFrom, Bool.and_eq_true, decide_eq_true_eq, ih, List.mem_cons, List.pairwise_cons, forall_eq_or_imp]
    constructor
    · rintro ⟨h1, h3, h4⟩
      exact ⟨⟨h1, fun d hd => by have := h3 d hd; omega⟩, fun d hd => h3 d hd, h4⟩
    · rintro ⟨⟨h1, h3⟩, h2, h4⟩
      exact ⟨h1, fun d hd => h2 d hd, h4⟩

theorem gran_filter_wf {l : List Nat} (p : Nat → Bool) (h : granWfFrom 0 l = true) : granWfFrom 0 (l.filter p) = true := by
  rw [granWfFrom_iff] at h ⊢
  exact ⟨fun _ _ => Nat.zero_le _, h.2.filter p⟩

theorem granPut_mem {l : List Nat} {g x : Nat} (h : x ∈ granPut l g) : x ∈ l ∨ x = g := by
  induction l with
  | nil => simpa [granPut] using h
  | cons y r ih =>
    simp only [granPut] at h
    split at h
    · rcases List.mem_cons.1 h with h | h
      · exact .inr h
      · exact .inl h
    · split at h
      · exact .inl h
      · rcases List.mem_cons.1 h with h | h
        · exact .inl (by simp [h])
        · rcases ih h with h | h
          · exact .inl (by simp [h])
          · exact .inr h

theorem granPut_wf {l : List Nat} (g : Nat) (h : granWfFrom 0 l = true) : granWfFrom 0 (granPut l g) = true := by
  rw [granWfFrom_iff] at h ⊢
  refine ⟨fun _ _ => Nat.zero_le _, ?_⟩
  obtain ⟨-, h⟩ := h
  induction l with
  | nil => simp [granPut]
  | cons y r ih =>
    obtain ⟨h1, h2⟩ := List.pairwise_cons.1 h
    simp only [granPut]
    split
    · rename_i hg
      refine List.pairwise_cons.2 ⟨fun e he => ?_, h⟩
      rcases List.mem_cons.1 he with rfl | he
      · exact hg
      · exact Nat.lt_trans hg (h1 e he)
    · split
      · exact h
      · refine List.pairwise_cons.2 ⟨fun e he => ?_, ih h2⟩
        rcases granPut_mem he with he | rfl
        · exact h1 e he
        · omega

/-! ## Reads after writes -/

/-- One byte written: the address reads as the byte, and every other address as before. -/
theorem memGet_memPut (m : List Host.Cell) (a b : Nat) (v : Byte) (h : Memory.wf m = true) :
    memGet (memPut m a v) b = if b = a then v else memGet m b := by
  rw [memory_wf_iff] at h
  obtain ⟨-, h⟩ := h
  have none_ : ∀ (r : List Host.Cell) (x : Nat), (∀ c ∈ r, c.1 ≠ x) → memGet r x = 0 := by
    intro r x hx
    induction r with
    | nil => rfl
    | cons d r ih =>
      simp only [memGet, if_neg (hx d (by simp))]
      exact ih fun c hc => hx c (by simp [hc])
  induction m with
  | nil =>
    simp only [memPut]
    split
    · rename_i hv; split <;> simp [memGet, hv]
    · simp only [memGet]; split <;> split <;> simp_all
  | cons d r ih =>
    obtain ⟨h1, h2⟩ := List.pairwise_cons.1 h
    simp only [memPut]
    split
    · rename_i ha
      split
      · rename_i hv
        by_cases hb : b = a
        · subst hb
          rw [none_ (d :: r) b]
          · simp [hv]
          · intro c hc
            rcases List.mem_cons.1 hc with rfl | hc
            · omega
            · have := h1 c hc; omega
        · simp [hb]
      · by_cases hb : b = a <;> simp [memGet, hb] <;> grind
    · split
      · rename_i ha
        split
        · rename_i hv
          by_cases hb : b = a
          · subst hb
            rw [none_ r b]
            · simp [hv]
            · intro c hc; have := h1 c hc; omega
          · simp only [memGet, hb, if_false]
            rw [if_neg (by omega)]
        · by_cases hb : b = a
          · simp [memGet, hb]
          · simp only [memGet, hb, if_false]
            rw [if_neg (by omega), if_neg (by omega)]
      · simp only [memGet]
        by_cases hb : d.1 = b
        · rw [if_pos hb, if_pos hb, if_neg (by omega)]
        · rw [if_neg hb, if_neg hb, ih h2]

theorem memGet_filter_pos {m : List Host.Cell} {p : Host.Cell → Bool} {a : Nat} (h : ∀ c : Host.Cell, c.1 = a → p c = true) :
    memGet (m.filter p) a = memGet m a := by
  induction m with
  | nil => rfl
  | cons c m ih =>
    by_cases hc : c.1 = a
    · simp [List.filter, h c hc, memGet, hc]
    · rcases hp : p c with _ | _ <;> simp [List.filter, hp, memGet, hc, ih]

theorem memGet_none {m : List Host.Cell} {a : Nat} (h : ∀ c ∈ m, c.1 ≠ a) : memGet m a = 0 := by
  induction m with
  | nil => rfl
  | cons c m ih =>
    simp only [memGet, h c (List.mem_cons_self ..), if_false]
    exact ih fun d hd => h d (List.mem_cons_of_mem _ hd)

theorem memGet_append {m n : List Host.Cell} {a : Nat} (h : ∀ c ∈ m, c.1 ≠ a) : memGet (m ++ n) a = memGet n a := by
  induction m with
  | nil => rfl
  | cons c m ih =>
    simp only [List.cons_append, memGet, h c (List.mem_cons_self ..), if_false]
    exact ih fun d hd => h d (List.mem_cons_of_mem _ hd)

theorem memGet_append_left {m n : List Host.Cell} {a : Nat} (h : ∀ c ∈ n, c.1 ≠ a) : memGet (m ++ n) a = memGet m a := by
  induction m with
  | nil => exact memGet_none h
  | cons c m ih => by_cases hc : c.1 = a <;> simp [memGet, hc, ih]

/-- A read of erased memory: zero inside the range, as before outside it. -/
theorem memGet_memErase (m : List Host.Cell) (lo len a : Nat) :
    memGet (memErase m lo len) a = if lo ≤ a ∧ a < lo + len then 0 else memGet m a := by
  unfold memErase
  split
  · apply memGet_none
    intro c hc e
    have := (List.mem_filter.1 hc).2
    simp only [decide_eq_true_eq] at this
    omega
  · apply memGet_filter_pos
    intro c e
    simp only [decide_eq_true_eq]
    omega

theorem memGet_memCells (a : Nat) (bs : Bytes) (x : Nat) :
    memGet (memCells a bs) x = if a ≤ x ∧ x < a + bs.length then bs.getD (x - a) 0 else 0 := by
  induction bs generalizing a with
  | nil => simp [memCells, memGet]
  | cons b bs ih =>
    unfold memCells
    by_cases hx : a = x
    · subst hx
      split
      · rename_i h
        rw [ih, if_neg (by omega), if_pos ⟨Nat.le_refl _, by simp⟩]; simp [h]
      · simp [memGet]
    · have e : (x - a) = (x - (a + 1)) + 1 ∨ x < a := by omega
      have key : (if a + 1 ≤ x ∧ x < a + 1 + bs.length then bs.getD (x - (a + 1)) 0 else 0)
          = if a ≤ x ∧ x < a + (b :: bs).length then (b :: bs).getD (x - a) 0 else 0 := by
        rcases e with e | e
        · rw [e]; simp only [List.getD_cons_succ, List.length_cons]
          by_cases h : a + 1 ≤ x ∧ x < a + 1 + bs.length
          · rw [if_pos h, if_pos (by omega)]
          · rw [if_neg h, if_neg (by omega)]
        · rw [if_neg (by omega), if_neg (by omega)]
      split
      · rw [ih, key]
      · simp only [memGet, hx, if_false]; rw [ih, key]

/-- A read after bytes are written: those bytes inside the range, as before outside it. -/
theorem memGet_memPutAll (m : List Host.Cell) (a : Nat) (bs : Bytes) (x : Nat) :
    memGet (memPutAll m a bs) x = if a ≤ x ∧ x < a + bs.length then bs.getD (x - a) 0 else memGet m x := by
  unfold memPutAll
  by_cases h : a ≤ x ∧ x < a + bs.length
  · rw [if_pos h, memGet_append_left, memGet_append, memGet_memCells, if_pos h]
    · intro c hc e; have := (List.mem_filter.1 hc).2; simp only [decide_eq_true_eq] at this; omega
    · intro c hc e; have := (List.mem_filter.1 hc).2; simp only [decide_eq_true_eq] at this; omega
  · rw [if_neg h]
    have hm : ∀ c ∈ memCells a bs, c.1 ≠ x := by
      intro c hc e; have := mem_memCells hc; omega
    by_cases hx : x < a
    · rw [memGet_append_left, memGet_append_left hm]
      · apply memGet_filter_pos; intro c e; simp only [decide_eq_true_eq]; omega
      · intro c hc e; have := (List.mem_filter.1 hc).2; simp only [decide_eq_true_eq] at this; omega
    · rw [memGet_append]
      · apply memGet_filter_pos; intro c e; simp only [decide_eq_true_eq]; omega
      · intro c hc
        rcases List.mem_append.1 hc with hc | hc
        · intro e; have := (List.mem_filter.1 hc).2; simp only [decide_eq_true_eq] at this; omega
        · exact hm c hc

end Sys2Proof.Machine
end

