-- ==== Sys2Proof/Laws/State.lean ====
section
/-! SUPPORT. One lemma per field and per update of the state, so that no proof unfolds a record update. -/

namespace Sys2Proof.Machine

/-! ## onSys -/

@[simp] theorem onSys_now (s : State) (g : Sys → Sys) : (s.onSys g).now = s.now := rfl
@[simp] theorem onSys_free (s : State) (g : Sys → Sys) : (s.onSys g).free = s.free := rfl
@[simp] theorem onSys_sys (s : State) (g : Sys → Sys) : (s.onSys g).sys = g s.sys := rfl
@[simp] theorem onSys_sup (s : State) (g : Sys → Sys) : (s.onSys g).sup = s.sup := rfl
@[simp] theorem onSys_clk (s : State) (g : Sys → Sys) : (s.onSys g).clk = s.clk := rfl
@[simp] theorem onSys_rtc (s : State) (g : Sys → Sys) : (s.onSys g).rtc = s.rtc := rfl
@[simp] theorem onSys_start (s : State) (g : Sys → Sys) : (s.onSys g).start = s.start := rfl
@[simp] theorem onSys_nvm (s : State) (g : Sys → Sys) : (s.onSys g).nvm = s.nvm := rfl
@[simp] theorem onSys_seals (s : State) (g : Sys → Sys) : (s.onSys g).seals = s.seals := rfl
@[simp] theorem onSys_cfg (s : State) (g : Sys → Sys) : (s.onSys g).cfg = s.cfg := rfl
@[simp] theorem onSys_fiu (s : State) (g : Sys → Sys) : (s.onSys g).fiu = s.fiu := rfl
@[simp] theorem onSys_fgu (s : State) (g : Sys → Sys) : (s.onSys g).fgu = s.fgu := rfl
@[simp] theorem onSys_aud (s : State) (g : Sys → Sys) : (s.onSys g).aud = s.aud := rfl
@[simp] theorem onSys_vane (s : State) (g : Sys → Sys) : (s.onSys g).vane = s.vane := rfl
@[simp] theorem onSys_beu (s : State) (g : Sys → Sys) : (s.onSys g).beu = s.beu := rfl
@[simp] theorem onSys_vrd (s : State) (g : Sys → Sys) : (s.onSys g).vrd = s.vrd := rfl
@[simp] theorem onSys_slb (s : State) (g : Sys → Sys) : (s.onSys g).slb = s.slb := rfl
@[simp] theorem onSys_sml (s : State) (g : Sys → Sys) : (s.onSys g).sml = s.sml := rfl
@[simp] theorem onSys_cvu (s : State) (g : Sys → Sys) : (s.onSys g).cvu = s.cvu := rfl
@[simp] theorem onSys_xwl (s : State) (g : Sys → Sys) : (s.onSys g).xwl = s.xwl := rfl
@[simp] theorem onSys_hq (s : State) (g : Sys → Sys) : (s.onSys g).hq = s.hq := rfl
@[simp] theorem onSys_fwl (s : State) (g : Sys → Sys) : (s.onSys g).fwl = s.fwl := rfl
@[simp] theorem onSys_tsu (s : State) (g : Sys → Sys) : (s.onSys g).tsu = s.tsu := rfl
@[simp] theorem onSys_psm (s : State) (g : Sys → Sys) : (s.onSys g).psm = s.psm := rfl
@[simp] theorem onSys_mon (s : State) (g : Sys → Sys) : (s.onSys g).mon = s.mon := rfl
@[simp] theorem onSys_log (s : State) (g : Sys → Sys) : (s.onSys g).log = s.log := rfl
@[simp] theorem onSys_dbg (s : State) (g : Sys → Sys) : (s.onSys g).dbg = s.dbg := rfl
@[simp] theorem onSys_ret (s : State) (g : Sys → Sys) : (s.onSys g).ret = s.ret := rfl
@[simp] theorem onSys_mem (s : State) (g : Sys → Sys) : (s.onSys g).mem = s.mem := rfl
@[simp] theorem onSys_poison (s : State) (g : Sys → Sys) : (s.onSys g).poison = s.poison := rfl
@[simp] theorem onSys_caps (s : State) (g : Sys → Sys) : (s.onSys g).caps = s.caps := rfl
@[simp] theorem onSys_out (s : State) (g : Sys → Sys) : (s.onSys g).out = s.out := rfl
@[simp] theorem onSys_pending (s : State) (g : Sys → Sys) : (s.onSys g).pending = s.pending := rfl

/-! ## onSup -/

@[simp] theorem onSup_now (s : State) (g : Supply → Supply) : (s.onSup g).now = s.now := rfl
@[simp] theorem onSup_free (s : State) (g : Supply → Supply) : (s.onSup g).free = s.free := rfl
@[simp] theorem onSup_sys (s : State) (g : Supply → Supply) : (s.onSup g).sys = s.sys := rfl
@[simp] theorem onSup_sup (s : State) (g : Supply → Supply) : (s.onSup g).sup = g s.sup := rfl
@[simp] theorem onSup_clk (s : State) (g : Supply → Supply) : (s.onSup g).clk = s.clk := rfl
@[simp] theorem onSup_rtc (s : State) (g : Supply → Supply) : (s.onSup g).rtc = s.rtc := rfl
@[simp] theorem onSup_start (s : State) (g : Supply → Supply) : (s.onSup g).start = s.start := rfl
@[simp] theorem onSup_nvm (s : State) (g : Supply → Supply) : (s.onSup g).nvm = s.nvm := rfl
@[simp] theorem onSup_seals (s : State) (g : Supply → Supply) : (s.onSup g).seals = s.seals := rfl
@[simp] theorem onSup_cfg (s : State) (g : Supply → Supply) : (s.onSup g).cfg = s.cfg := rfl
@[simp] theorem onSup_fiu (s : State) (g : Supply → Supply) : (s.onSup g).fiu = s.fiu := rfl
@[simp] theorem onSup_fgu (s : State) (g : Supply → Supply) : (s.onSup g).fgu = s.fgu := rfl
@[simp] theorem onSup_aud (s : State) (g : Supply → Supply) : (s.onSup g).aud = s.aud := rfl
@[simp] theorem onSup_vane (s : State) (g : Supply → Supply) : (s.onSup g).vane = s.vane := rfl
@[simp] theorem onSup_beu (s : State) (g : Supply → Supply) : (s.onSup g).beu = s.beu := rfl
@[simp] theorem onSup_vrd (s : State) (g : Supply → Supply) : (s.onSup g).vrd = s.vrd := rfl
@[simp] theorem onSup_slb (s : State) (g : Supply → Supply) : (s.onSup g).slb = s.slb := rfl
@[simp] theorem onSup_sml (s : State) (g : Supply → Supply) : (s.onSup g).sml = s.sml := rfl
@[simp] theorem onSup_cvu (s : State) (g : Supply → Supply) : (s.onSup g).cvu = s.cvu := rfl
@[simp] theorem onSup_xwl (s : State) (g : Supply → Supply) : (s.onSup g).xwl = s.xwl := rfl
@[simp] theorem onSup_hq (s : State) (g : Supply → Supply) : (s.onSup g).hq = s.hq := rfl
@[simp] theorem onSup_fwl (s : State) (g : Supply → Supply) : (s.onSup g).fwl = s.fwl := rfl
@[simp] theorem onSup_tsu (s : State) (g : Supply → Supply) : (s.onSup g).tsu = s.tsu := rfl
@[simp] theorem onSup_psm (s : State) (g : Supply → Supply) : (s.onSup g).psm = s.psm := rfl
@[simp] theorem onSup_mon (s : State) (g : Supply → Supply) : (s.onSup g).mon = s.mon := rfl
@[simp] theorem onSup_log (s : State) (g : Supply → Supply) : (s.onSup g).log = s.log := rfl
@[simp] theorem onSup_dbg (s : State) (g : Supply → Supply) : (s.onSup g).dbg = s.dbg := rfl
@[simp] theorem onSup_ret (s : State) (g : Supply → Supply) : (s.onSup g).ret = s.ret := rfl
@[simp] theorem onSup_mem (s : State) (g : Supply → Supply) : (s.onSup g).mem = s.mem := rfl
@[simp] theorem onSup_poison (s : State) (g : Supply → Supply) : (s.onSup g).poison = s.poison := rfl
@[simp] theorem onSup_caps (s : State) (g : Supply → Supply) : (s.onSup g).caps = s.caps := rfl
@[simp] theorem onSup_out (s : State) (g : Supply → Supply) : (s.onSup g).out = s.out := rfl
@[simp] theorem onSup_pending (s : State) (g : Supply → Supply) : (s.onSup g).pending = s.pending := rfl

/-! ## onClk -/

@[simp] theorem onClk_now (s : State) (g : Clk → Clk) : (s.onClk g).now = s.now := rfl
@[simp] theorem onClk_free (s : State) (g : Clk → Clk) : (s.onClk g).free = s.free := rfl
@[simp] theorem onClk_sys (s : State) (g : Clk → Clk) : (s.onClk g).sys = s.sys := rfl
@[simp] theorem onClk_sup (s : State) (g : Clk → Clk) : (s.onClk g).sup = s.sup := rfl
@[simp] theorem onClk_clk (s : State) (g : Clk → Clk) : (s.onClk g).clk = g s.clk := rfl
@[simp] theorem onClk_rtc (s : State) (g : Clk → Clk) : (s.onClk g).rtc = s.rtc := rfl
@[simp] theorem onClk_start (s : State) (g : Clk → Clk) : (s.onClk g).start = s.start := rfl
@[simp] theorem onClk_nvm (s : State) (g : Clk → Clk) : (s.onClk g).nvm = s.nvm := rfl
@[simp] theorem onClk_seals (s : State) (g : Clk → Clk) : (s.onClk g).seals = s.seals := rfl
@[simp] theorem onClk_cfg (s : State) (g : Clk → Clk) : (s.onClk g).cfg = s.cfg := rfl
@[simp] theorem onClk_fiu (s : State) (g : Clk → Clk) : (s.onClk g).fiu = s.fiu := rfl
@[simp] theorem onClk_fgu (s : State) (g : Clk → Clk) : (s.onClk g).fgu = s.fgu := rfl
@[simp] theorem onClk_aud (s : State) (g : Clk → Clk) : (s.onClk g).aud = s.aud := rfl
@[simp] theorem onClk_vane (s : State) (g : Clk → Clk) : (s.onClk g).vane = s.vane := rfl
@[simp] theorem onClk_beu (s : State) (g : Clk → Clk) : (s.onClk g).beu = s.beu := rfl
@[simp] theorem onClk_vrd (s : State) (g : Clk → Clk) : (s.onClk g).vrd = s.vrd := rfl
@[simp] theorem onClk_slb (s : State) (g : Clk → Clk) : (s.onClk g).slb = s.slb := rfl
@[simp] theorem onClk_sml (s : State) (g : Clk → Clk) : (s.onClk g).sml = s.sml := rfl
@[simp] theorem onClk_cvu (s : State) (g : Clk → Clk) : (s.onClk g).cvu = s.cvu := rfl
@[simp] theorem onClk_xwl (s : State) (g : Clk → Clk) : (s.onClk g).xwl = s.xwl := rfl
@[simp] theorem onClk_hq (s : State) (g : Clk → Clk) : (s.onClk g).hq = s.hq := rfl
@[simp] theorem onClk_fwl (s : State) (g : Clk → Clk) : (s.onClk g).fwl = s.fwl := rfl
@[simp] theorem onClk_tsu (s : State) (g : Clk → Clk) : (s.onClk g).tsu = s.tsu := rfl
@[simp] theorem onClk_psm (s : State) (g : Clk → Clk) : (s.onClk g).psm = s.psm := rfl
@[simp] theorem onClk_mon (s : State) (g : Clk → Clk) : (s.onClk g).mon = s.mon := rfl
@[simp] theorem onClk_log (s : State) (g : Clk → Clk) : (s.onClk g).log = s.log := rfl
@[simp] theorem onClk_dbg (s : State) (g : Clk → Clk) : (s.onClk g).dbg = s.dbg := rfl
@[simp] theorem onClk_ret (s : State) (g : Clk → Clk) : (s.onClk g).ret = s.ret := rfl
@[simp] theorem onClk_mem (s : State) (g : Clk → Clk) : (s.onClk g).mem = s.mem := rfl
@[simp] theorem onClk_poison (s : State) (g : Clk → Clk) : (s.onClk g).poison = s.poison := rfl
@[simp] theorem onClk_caps (s : State) (g : Clk → Clk) : (s.onClk g).caps = s.caps := rfl
@[simp] theorem onClk_out (s : State) (g : Clk → Clk) : (s.onClk g).out = s.out := rfl
@[simp] theorem onClk_pending (s : State) (g : Clk → Clk) : (s.onClk g).pending = s.pending := rfl

/-! ## onRtc -/

@[simp] theorem onRtc_now (s : State) (g : Rtc → Rtc) : (s.onRtc g).now = s.now := rfl
@[simp] theorem onRtc_free (s : State) (g : Rtc → Rtc) : (s.onRtc g).free = s.free := rfl
@[simp] theorem onRtc_sys (s : State) (g : Rtc → Rtc) : (s.onRtc g).sys = s.sys := rfl
@[simp] theorem onRtc_sup (s : State) (g : Rtc → Rtc) : (s.onRtc g).sup = s.sup := rfl
@[simp] theorem onRtc_clk (s : State) (g : Rtc → Rtc) : (s.onRtc g).clk = s.clk := rfl
@[simp] theorem onRtc_rtc (s : State) (g : Rtc → Rtc) : (s.onRtc g).rtc = g s.rtc := rfl
@[simp] theorem onRtc_start (s : State) (g : Rtc → Rtc) : (s.onRtc g).start = s.start := rfl
@[simp] theorem onRtc_nvm (s : State) (g : Rtc → Rtc) : (s.onRtc g).nvm = s.nvm := rfl
@[simp] theorem onRtc_seals (s : State) (g : Rtc → Rtc) : (s.onRtc g).seals = s.seals := rfl
@[simp] theorem onRtc_cfg (s : State) (g : Rtc → Rtc) : (s.onRtc g).cfg = s.cfg := rfl
@[simp] theorem onRtc_fiu (s : State) (g : Rtc → Rtc) : (s.onRtc g).fiu = s.fiu := rfl
@[simp] theorem onRtc_fgu (s : State) (g : Rtc → Rtc) : (s.onRtc g).fgu = s.fgu := rfl
@[simp] theorem onRtc_aud (s : State) (g : Rtc → Rtc) : (s.onRtc g).aud = s.aud := rfl
@[simp] theorem onRtc_vane (s : State) (g : Rtc → Rtc) : (s.onRtc g).vane = s.vane := rfl
@[simp] theorem onRtc_beu (s : State) (g : Rtc → Rtc) : (s.onRtc g).beu = s.beu := rfl
@[simp] theorem onRtc_vrd (s : State) (g : Rtc → Rtc) : (s.onRtc g).vrd = s.vrd := rfl
@[simp] theorem onRtc_slb (s : State) (g : Rtc → Rtc) : (s.onRtc g).slb = s.slb := rfl
@[simp] theorem onRtc_sml (s : State) (g : Rtc → Rtc) : (s.onRtc g).sml = s.sml := rfl
@[simp] theorem onRtc_cvu (s : State) (g : Rtc → Rtc) : (s.onRtc g).cvu = s.cvu := rfl
@[simp] theorem onRtc_xwl (s : State) (g : Rtc → Rtc) : (s.onRtc g).xwl = s.xwl := rfl
@[simp] theorem onRtc_hq (s : State) (g : Rtc → Rtc) : (s.onRtc g).hq = s.hq := rfl
@[simp] theorem onRtc_fwl (s : State) (g : Rtc → Rtc) : (s.onRtc g).fwl = s.fwl := rfl
@[simp] theorem onRtc_tsu (s : State) (g : Rtc → Rtc) : (s.onRtc g).tsu = s.tsu := rfl
@[simp] theorem onRtc_psm (s : State) (g : Rtc → Rtc) : (s.onRtc g).psm = s.psm := rfl
@[simp] theorem onRtc_mon (s : State) (g : Rtc → Rtc) : (s.onRtc g).mon = s.mon := rfl
@[simp] theorem onRtc_log (s : State) (g : Rtc → Rtc) : (s.onRtc g).log = s.log := rfl
@[simp] theorem onRtc_dbg (s : State) (g : Rtc → Rtc) : (s.onRtc g).dbg = s.dbg := rfl
@[simp] theorem onRtc_ret (s : State) (g : Rtc → Rtc) : (s.onRtc g).ret = s.ret := rfl
@[simp] theorem onRtc_mem (s : State) (g : Rtc → Rtc) : (s.onRtc g).mem = s.mem := rfl
@[simp] theorem onRtc_poison (s : State) (g : Rtc → Rtc) : (s.onRtc g).poison = s.poison := rfl
@[simp] theorem onRtc_caps (s : State) (g : Rtc → Rtc) : (s.onRtc g).caps = s.caps := rfl
@[simp] theorem onRtc_out (s : State) (g : Rtc → Rtc) : (s.onRtc g).out = s.out := rfl
@[simp] theorem onRtc_pending (s : State) (g : Rtc → Rtc) : (s.onRtc g).pending = s.pending := rfl

/-! ## onStart -/

@[simp] theorem onStart_now (s : State) (g : Start → Start) : (s.onStart g).now = s.now := rfl
@[simp] theorem onStart_free (s : State) (g : Start → Start) : (s.onStart g).free = s.free := rfl
@[simp] theorem onStart_sys (s : State) (g : Start → Start) : (s.onStart g).sys = s.sys := rfl
@[simp] theorem onStart_sup (s : State) (g : Start → Start) : (s.onStart g).sup = s.sup := rfl
@[simp] theorem onStart_clk (s : State) (g : Start → Start) : (s.onStart g).clk = s.clk := rfl
@[simp] theorem onStart_rtc (s : State) (g : Start → Start) : (s.onStart g).rtc = s.rtc := rfl
@[simp] theorem onStart_start (s : State) (g : Start → Start) : (s.onStart g).start = g s.start := rfl
@[simp] theorem onStart_nvm (s : State) (g : Start → Start) : (s.onStart g).nvm = s.nvm := rfl
@[simp] theorem onStart_seals (s : State) (g : Start → Start) : (s.onStart g).seals = s.seals := rfl
@[simp] theorem onStart_cfg (s : State) (g : Start → Start) : (s.onStart g).cfg = s.cfg := rfl
@[simp] theorem onStart_fiu (s : State) (g : Start → Start) : (s.onStart g).fiu = s.fiu := rfl
@[simp] theorem onStart_fgu (s : State) (g : Start → Start) : (s.onStart g).fgu = s.fgu := rfl
@[simp] theorem onStart_aud (s : State) (g : Start → Start) : (s.onStart g).aud = s.aud := rfl
@[simp] theorem onStart_vane (s : State) (g : Start → Start) : (s.onStart g).vane = s.vane := rfl
@[simp] theorem onStart_beu (s : State) (g : Start → Start) : (s.onStart g).beu = s.beu := rfl
@[simp] theorem onStart_vrd (s : State) (g : Start → Start) : (s.onStart g).vrd = s.vrd := rfl
@[simp] theorem onStart_slb (s : State) (g : Start → Start) : (s.onStart g).slb = s.slb := rfl
@[simp] theorem onStart_sml (s : State) (g : Start → Start) : (s.onStart g).sml = s.sml := rfl
@[simp] theorem onStart_cvu (s : State) (g : Start → Start) : (s.onStart g).cvu = s.cvu := rfl
@[simp] theorem onStart_xwl (s : State) (g : Start → Start) : (s.onStart g).xwl = s.xwl := rfl
@[simp] theorem onStart_hq (s : State) (g : Start → Start) : (s.onStart g).hq = s.hq := rfl
@[simp] theorem onStart_fwl (s : State) (g : Start → Start) : (s.onStart g).fwl = s.fwl := rfl
@[simp] theorem onStart_tsu (s : State) (g : Start → Start) : (s.onStart g).tsu = s.tsu := rfl
@[simp] theorem onStart_psm (s : State) (g : Start → Start) : (s.onStart g).psm = s.psm := rfl
@[simp] theorem onStart_mon (s : State) (g : Start → Start) : (s.onStart g).mon = s.mon := rfl
@[simp] theorem onStart_log (s : State) (g : Start → Start) : (s.onStart g).log = s.log := rfl
@[simp] theorem onStart_dbg (s : State) (g : Start → Start) : (s.onStart g).dbg = s.dbg := rfl
@[simp] theorem onStart_ret (s : State) (g : Start → Start) : (s.onStart g).ret = s.ret := rfl
@[simp] theorem onStart_mem (s : State) (g : Start → Start) : (s.onStart g).mem = s.mem := rfl
@[simp] theorem onStart_poison (s : State) (g : Start → Start) : (s.onStart g).poison = s.poison := rfl
@[simp] theorem onStart_caps (s : State) (g : Start → Start) : (s.onStart g).caps = s.caps := rfl
@[simp] theorem onStart_out (s : State) (g : Start → Start) : (s.onStart g).out = s.out := rfl
@[simp] theorem onStart_pending (s : State) (g : Start → Start) : (s.onStart g).pending = s.pending := rfl

/-! ## onNvm -/

@[simp] theorem onNvm_now (s : State) (g : Nvm → Nvm) : (s.onNvm g).now = s.now := rfl
@[simp] theorem onNvm_free (s : State) (g : Nvm → Nvm) : (s.onNvm g).free = s.free := rfl
@[simp] theorem onNvm_sys (s : State) (g : Nvm → Nvm) : (s.onNvm g).sys = s.sys := rfl
@[simp] theorem onNvm_sup (s : State) (g : Nvm → Nvm) : (s.onNvm g).sup = s.sup := rfl
@[simp] theorem onNvm_clk (s : State) (g : Nvm → Nvm) : (s.onNvm g).clk = s.clk := rfl
@[simp] theorem onNvm_rtc (s : State) (g : Nvm → Nvm) : (s.onNvm g).rtc = s.rtc := rfl
@[simp] theorem onNvm_start (s : State) (g : Nvm → Nvm) : (s.onNvm g).start = s.start := rfl
@[simp] theorem onNvm_nvm (s : State) (g : Nvm → Nvm) : (s.onNvm g).nvm = g s.nvm := rfl
@[simp] theorem onNvm_seals (s : State) (g : Nvm → Nvm) : (s.onNvm g).seals = s.seals := rfl
@[simp] theorem onNvm_cfg (s : State) (g : Nvm → Nvm) : (s.onNvm g).cfg = s.cfg := rfl
@[simp] theorem onNvm_fiu (s : State) (g : Nvm → Nvm) : (s.onNvm g).fiu = s.fiu := rfl
@[simp] theorem onNvm_fgu (s : State) (g : Nvm → Nvm) : (s.onNvm g).fgu = s.fgu := rfl
@[simp] theorem onNvm_aud (s : State) (g : Nvm → Nvm) : (s.onNvm g).aud = s.aud := rfl
@[simp] theorem onNvm_vane (s : State) (g : Nvm → Nvm) : (s.onNvm g).vane = s.vane := rfl
@[simp] theorem onNvm_beu (s : State) (g : Nvm → Nvm) : (s.onNvm g).beu = s.beu := rfl
@[simp] theorem onNvm_vrd (s : State) (g : Nvm → Nvm) : (s.onNvm g).vrd = s.vrd := rfl
@[simp] theorem onNvm_slb (s : State) (g : Nvm → Nvm) : (s.onNvm g).slb = s.slb := rfl
@[simp] theorem onNvm_sml (s : State) (g : Nvm → Nvm) : (s.onNvm g).sml = s.sml := rfl
@[simp] theorem onNvm_cvu (s : State) (g : Nvm → Nvm) : (s.onNvm g).cvu = s.cvu := rfl
@[simp] theorem onNvm_xwl (s : State) (g : Nvm → Nvm) : (s.onNvm g).xwl = s.xwl := rfl
@[simp] theorem onNvm_hq (s : State) (g : Nvm → Nvm) : (s.onNvm g).hq = s.hq := rfl
@[simp] theorem onNvm_fwl (s : State) (g : Nvm → Nvm) : (s.onNvm g).fwl = s.fwl := rfl
@[simp] theorem onNvm_tsu (s : State) (g : Nvm → Nvm) : (s.onNvm g).tsu = s.tsu := rfl
@[simp] theorem onNvm_psm (s : State) (g : Nvm → Nvm) : (s.onNvm g).psm = s.psm := rfl
@[simp] theorem onNvm_mon (s : State) (g : Nvm → Nvm) : (s.onNvm g).mon = s.mon := rfl
@[simp] theorem onNvm_log (s : State) (g : Nvm → Nvm) : (s.onNvm g).log = s.log := rfl
@[simp] theorem onNvm_dbg (s : State) (g : Nvm → Nvm) : (s.onNvm g).dbg = s.dbg := rfl
@[simp] theorem onNvm_ret (s : State) (g : Nvm → Nvm) : (s.onNvm g).ret = s.ret := rfl
@[simp] theorem onNvm_mem (s : State) (g : Nvm → Nvm) : (s.onNvm g).mem = s.mem := rfl
@[simp] theorem onNvm_poison (s : State) (g : Nvm → Nvm) : (s.onNvm g).poison = s.poison := rfl
@[simp] theorem onNvm_caps (s : State) (g : Nvm → Nvm) : (s.onNvm g).caps = s.caps := rfl
@[simp] theorem onNvm_out (s : State) (g : Nvm → Nvm) : (s.onNvm g).out = s.out := rfl
@[simp] theorem onNvm_pending (s : State) (g : Nvm → Nvm) : (s.onNvm g).pending = s.pending := rfl

/-! ## onSeals -/

@[simp] theorem onSeals_now (s : State) (g : Seal → Seal) : (s.onSeals g).now = s.now := rfl
@[simp] theorem onSeals_free (s : State) (g : Seal → Seal) : (s.onSeals g).free = s.free := rfl
@[simp] theorem onSeals_sys (s : State) (g : Seal → Seal) : (s.onSeals g).sys = s.sys := rfl
@[simp] theorem onSeals_sup (s : State) (g : Seal → Seal) : (s.onSeals g).sup = s.sup := rfl
@[simp] theorem onSeals_clk (s : State) (g : Seal → Seal) : (s.onSeals g).clk = s.clk := rfl
@[simp] theorem onSeals_rtc (s : State) (g : Seal → Seal) : (s.onSeals g).rtc = s.rtc := rfl
@[simp] theorem onSeals_start (s : State) (g : Seal → Seal) : (s.onSeals g).start = s.start := rfl
@[simp] theorem onSeals_nvm (s : State) (g : Seal → Seal) : (s.onSeals g).nvm = s.nvm := rfl
@[simp] theorem onSeals_seals (s : State) (g : Seal → Seal) : (s.onSeals g).seals = g s.seals := rfl
@[simp] theorem onSeals_cfg (s : State) (g : Seal → Seal) : (s.onSeals g).cfg = s.cfg := rfl
@[simp] theorem onSeals_fiu (s : State) (g : Seal → Seal) : (s.onSeals g).fiu = s.fiu := rfl
@[simp] theorem onSeals_fgu (s : State) (g : Seal → Seal) : (s.onSeals g).fgu = s.fgu := rfl
@[simp] theorem onSeals_aud (s : State) (g : Seal → Seal) : (s.onSeals g).aud = s.aud := rfl
@[simp] theorem onSeals_vane (s : State) (g : Seal → Seal) : (s.onSeals g).vane = s.vane := rfl
@[simp] theorem onSeals_beu (s : State) (g : Seal → Seal) : (s.onSeals g).beu = s.beu := rfl
@[simp] theorem onSeals_vrd (s : State) (g : Seal → Seal) : (s.onSeals g).vrd = s.vrd := rfl
@[simp] theorem onSeals_slb (s : State) (g : Seal → Seal) : (s.onSeals g).slb = s.slb := rfl
@[simp] theorem onSeals_sml (s : State) (g : Seal → Seal) : (s.onSeals g).sml = s.sml := rfl
@[simp] theorem onSeals_cvu (s : State) (g : Seal → Seal) : (s.onSeals g).cvu = s.cvu := rfl
@[simp] theorem onSeals_xwl (s : State) (g : Seal → Seal) : (s.onSeals g).xwl = s.xwl := rfl
@[simp] theorem onSeals_hq (s : State) (g : Seal → Seal) : (s.onSeals g).hq = s.hq := rfl
@[simp] theorem onSeals_fwl (s : State) (g : Seal → Seal) : (s.onSeals g).fwl = s.fwl := rfl
@[simp] theorem onSeals_tsu (s : State) (g : Seal → Seal) : (s.onSeals g).tsu = s.tsu := rfl
@[simp] theorem onSeals_psm (s : State) (g : Seal → Seal) : (s.onSeals g).psm = s.psm := rfl
@[simp] theorem onSeals_mon (s : State) (g : Seal → Seal) : (s.onSeals g).mon = s.mon := rfl
@[simp] theorem onSeals_log (s : State) (g : Seal → Seal) : (s.onSeals g).log = s.log := rfl
@[simp] theorem onSeals_dbg (s : State) (g : Seal → Seal) : (s.onSeals g).dbg = s.dbg := rfl
@[simp] theorem onSeals_ret (s : State) (g : Seal → Seal) : (s.onSeals g).ret = s.ret := rfl
@[simp] theorem onSeals_mem (s : State) (g : Seal → Seal) : (s.onSeals g).mem = s.mem := rfl
@[simp] theorem onSeals_poison (s : State) (g : Seal → Seal) : (s.onSeals g).poison = s.poison := rfl
@[simp] theorem onSeals_caps (s : State) (g : Seal → Seal) : (s.onSeals g).caps = s.caps := rfl
@[simp] theorem onSeals_out (s : State) (g : Seal → Seal) : (s.onSeals g).out = s.out := rfl
@[simp] theorem onSeals_pending (s : State) (g : Seal → Seal) : (s.onSeals g).pending = s.pending := rfl

/-! ## onCfg -/

@[simp] theorem onCfg_now (s : State) (g : Cfg → Cfg) : (s.onCfg g).now = s.now := rfl
@[simp] theorem onCfg_free (s : State) (g : Cfg → Cfg) : (s.onCfg g).free = s.free := rfl
@[simp] theorem onCfg_sys (s : State) (g : Cfg → Cfg) : (s.onCfg g).sys = s.sys := rfl
@[simp] theorem onCfg_sup (s : State) (g : Cfg → Cfg) : (s.onCfg g).sup = s.sup := rfl
@[simp] theorem onCfg_clk (s : State) (g : Cfg → Cfg) : (s.onCfg g).clk = s.clk := rfl
@[simp] theorem onCfg_rtc (s : State) (g : Cfg → Cfg) : (s.onCfg g).rtc = s.rtc := rfl
@[simp] theorem onCfg_start (s : State) (g : Cfg → Cfg) : (s.onCfg g).start = s.start := rfl
@[simp] theorem onCfg_nvm (s : State) (g : Cfg → Cfg) : (s.onCfg g).nvm = s.nvm := rfl
@[simp] theorem onCfg_seals (s : State) (g : Cfg → Cfg) : (s.onCfg g).seals = s.seals := rfl
@[simp] theorem onCfg_cfg (s : State) (g : Cfg → Cfg) : (s.onCfg g).cfg = g s.cfg := rfl
@[simp] theorem onCfg_fiu (s : State) (g : Cfg → Cfg) : (s.onCfg g).fiu = s.fiu := rfl
@[simp] theorem onCfg_fgu (s : State) (g : Cfg → Cfg) : (s.onCfg g).fgu = s.fgu := rfl
@[simp] theorem onCfg_aud (s : State) (g : Cfg → Cfg) : (s.onCfg g).aud = s.aud := rfl
@[simp] theorem onCfg_vane (s : State) (g : Cfg → Cfg) : (s.onCfg g).vane = s.vane := rfl
@[simp] theorem onCfg_beu (s : State) (g : Cfg → Cfg) : (s.onCfg g).beu = s.beu := rfl
@[simp] theorem onCfg_vrd (s : State) (g : Cfg → Cfg) : (s.onCfg g).vrd = s.vrd := rfl
@[simp] theorem onCfg_slb (s : State) (g : Cfg → Cfg) : (s.onCfg g).slb = s.slb := rfl
@[simp] theorem onCfg_sml (s : State) (g : Cfg → Cfg) : (s.onCfg g).sml = s.sml := rfl
@[simp] theorem onCfg_cvu (s : State) (g : Cfg → Cfg) : (s.onCfg g).cvu = s.cvu := rfl
@[simp] theorem onCfg_xwl (s : State) (g : Cfg → Cfg) : (s.onCfg g).xwl = s.xwl := rfl
@[simp] theorem onCfg_hq (s : State) (g : Cfg → Cfg) : (s.onCfg g).hq = s.hq := rfl
@[simp] theorem onCfg_fwl (s : State) (g : Cfg → Cfg) : (s.onCfg g).fwl = s.fwl := rfl
@[simp] theorem onCfg_tsu (s : State) (g : Cfg → Cfg) : (s.onCfg g).tsu = s.tsu := rfl
@[simp] theorem onCfg_psm (s : State) (g : Cfg → Cfg) : (s.onCfg g).psm = s.psm := rfl
@[simp] theorem onCfg_mon (s : State) (g : Cfg → Cfg) : (s.onCfg g).mon = s.mon := rfl
@[simp] theorem onCfg_log (s : State) (g : Cfg → Cfg) : (s.onCfg g).log = s.log := rfl
@[simp] theorem onCfg_dbg (s : State) (g : Cfg → Cfg) : (s.onCfg g).dbg = s.dbg := rfl
@[simp] theorem onCfg_ret (s : State) (g : Cfg → Cfg) : (s.onCfg g).ret = s.ret := rfl
@[simp] theorem onCfg_mem (s : State) (g : Cfg → Cfg) : (s.onCfg g).mem = s.mem := rfl
@[simp] theorem onCfg_poison (s : State) (g : Cfg → Cfg) : (s.onCfg g).poison = s.poison := rfl
@[simp] theorem onCfg_caps (s : State) (g : Cfg → Cfg) : (s.onCfg g).caps = s.caps := rfl
@[simp] theorem onCfg_out (s : State) (g : Cfg → Cfg) : (s.onCfg g).out = s.out := rfl
@[simp] theorem onCfg_pending (s : State) (g : Cfg → Cfg) : (s.onCfg g).pending = s.pending := rfl

/-! ## onFiu -/

@[simp] theorem onFiu_now (s : State) (g : Fiu → Fiu) : (s.onFiu g).now = s.now := rfl
@[simp] theorem onFiu_free (s : State) (g : Fiu → Fiu) : (s.onFiu g).free = s.free := rfl
@[simp] theorem onFiu_sys (s : State) (g : Fiu → Fiu) : (s.onFiu g).sys = s.sys := rfl
@[simp] theorem onFiu_sup (s : State) (g : Fiu → Fiu) : (s.onFiu g).sup = s.sup := rfl
@[simp] theorem onFiu_clk (s : State) (g : Fiu → Fiu) : (s.onFiu g).clk = s.clk := rfl
@[simp] theorem onFiu_rtc (s : State) (g : Fiu → Fiu) : (s.onFiu g).rtc = s.rtc := rfl
@[simp] theorem onFiu_start (s : State) (g : Fiu → Fiu) : (s.onFiu g).start = s.start := rfl
@[simp] theorem onFiu_nvm (s : State) (g : Fiu → Fiu) : (s.onFiu g).nvm = s.nvm := rfl
@[simp] theorem onFiu_seals (s : State) (g : Fiu → Fiu) : (s.onFiu g).seals = s.seals := rfl
@[simp] theorem onFiu_cfg (s : State) (g : Fiu → Fiu) : (s.onFiu g).cfg = s.cfg := rfl
@[simp] theorem onFiu_fiu (s : State) (g : Fiu → Fiu) : (s.onFiu g).fiu = g s.fiu := rfl
@[simp] theorem onFiu_fgu (s : State) (g : Fiu → Fiu) : (s.onFiu g).fgu = s.fgu := rfl
@[simp] theorem onFiu_aud (s : State) (g : Fiu → Fiu) : (s.onFiu g).aud = s.aud := rfl
@[simp] theorem onFiu_vane (s : State) (g : Fiu → Fiu) : (s.onFiu g).vane = s.vane := rfl
@[simp] theorem onFiu_beu (s : State) (g : Fiu → Fiu) : (s.onFiu g).beu = s.beu := rfl
@[simp] theorem onFiu_vrd (s : State) (g : Fiu → Fiu) : (s.onFiu g).vrd = s.vrd := rfl
@[simp] theorem onFiu_slb (s : State) (g : Fiu → Fiu) : (s.onFiu g).slb = s.slb := rfl
@[simp] theorem onFiu_sml (s : State) (g : Fiu → Fiu) : (s.onFiu g).sml = s.sml := rfl
@[simp] theorem onFiu_cvu (s : State) (g : Fiu → Fiu) : (s.onFiu g).cvu = s.cvu := rfl
@[simp] theorem onFiu_xwl (s : State) (g : Fiu → Fiu) : (s.onFiu g).xwl = s.xwl := rfl
@[simp] theorem onFiu_hq (s : State) (g : Fiu → Fiu) : (s.onFiu g).hq = s.hq := rfl
@[simp] theorem onFiu_fwl (s : State) (g : Fiu → Fiu) : (s.onFiu g).fwl = s.fwl := rfl
@[simp] theorem onFiu_tsu (s : State) (g : Fiu → Fiu) : (s.onFiu g).tsu = s.tsu := rfl
@[simp] theorem onFiu_psm (s : State) (g : Fiu → Fiu) : (s.onFiu g).psm = s.psm := rfl
@[simp] theorem onFiu_mon (s : State) (g : Fiu → Fiu) : (s.onFiu g).mon = s.mon := rfl
@[simp] theorem onFiu_log (s : State) (g : Fiu → Fiu) : (s.onFiu g).log = s.log := rfl
@[simp] theorem onFiu_dbg (s : State) (g : Fiu → Fiu) : (s.onFiu g).dbg = s.dbg := rfl
@[simp] theorem onFiu_ret (s : State) (g : Fiu → Fiu) : (s.onFiu g).ret = s.ret := rfl
@[simp] theorem onFiu_mem (s : State) (g : Fiu → Fiu) : (s.onFiu g).mem = s.mem := rfl
@[simp] theorem onFiu_poison (s : State) (g : Fiu → Fiu) : (s.onFiu g).poison = s.poison := rfl
@[simp] theorem onFiu_caps (s : State) (g : Fiu → Fiu) : (s.onFiu g).caps = s.caps := rfl
@[simp] theorem onFiu_out (s : State) (g : Fiu → Fiu) : (s.onFiu g).out = s.out := rfl
@[simp] theorem onFiu_pending (s : State) (g : Fiu → Fiu) : (s.onFiu g).pending = s.pending := rfl

/-! ## onFgu -/

@[simp] theorem onFgu_now (s : State) (g : Fgu → Fgu) : (s.onFgu g).now = s.now := rfl
@[simp] theorem onFgu_free (s : State) (g : Fgu → Fgu) : (s.onFgu g).free = s.free := rfl
@[simp] theorem onFgu_sys (s : State) (g : Fgu → Fgu) : (s.onFgu g).sys = s.sys := rfl
@[simp] theorem onFgu_sup (s : State) (g : Fgu → Fgu) : (s.onFgu g).sup = s.sup := rfl
@[simp] theorem onFgu_clk (s : State) (g : Fgu → Fgu) : (s.onFgu g).clk = s.clk := rfl
@[simp] theorem onFgu_rtc (s : State) (g : Fgu → Fgu) : (s.onFgu g).rtc = s.rtc := rfl
@[simp] theorem onFgu_start (s : State) (g : Fgu → Fgu) : (s.onFgu g).start = s.start := rfl
@[simp] theorem onFgu_nvm (s : State) (g : Fgu → Fgu) : (s.onFgu g).nvm = s.nvm := rfl
@[simp] theorem onFgu_seals (s : State) (g : Fgu → Fgu) : (s.onFgu g).seals = s.seals := rfl
@[simp] theorem onFgu_cfg (s : State) (g : Fgu → Fgu) : (s.onFgu g).cfg = s.cfg := rfl
@[simp] theorem onFgu_fiu (s : State) (g : Fgu → Fgu) : (s.onFgu g).fiu = s.fiu := rfl
@[simp] theorem onFgu_fgu (s : State) (g : Fgu → Fgu) : (s.onFgu g).fgu = g s.fgu := rfl
@[simp] theorem onFgu_aud (s : State) (g : Fgu → Fgu) : (s.onFgu g).aud = s.aud := rfl
@[simp] theorem onFgu_vane (s : State) (g : Fgu → Fgu) : (s.onFgu g).vane = s.vane := rfl
@[simp] theorem onFgu_beu (s : State) (g : Fgu → Fgu) : (s.onFgu g).beu = s.beu := rfl
@[simp] theorem onFgu_vrd (s : State) (g : Fgu → Fgu) : (s.onFgu g).vrd = s.vrd := rfl
@[simp] theorem onFgu_slb (s : State) (g : Fgu → Fgu) : (s.onFgu g).slb = s.slb := rfl
@[simp] theorem onFgu_sml (s : State) (g : Fgu → Fgu) : (s.onFgu g).sml = s.sml := rfl
@[simp] theorem onFgu_cvu (s : State) (g : Fgu → Fgu) : (s.onFgu g).cvu = s.cvu := rfl
@[simp] theorem onFgu_xwl (s : State) (g : Fgu → Fgu) : (s.onFgu g).xwl = s.xwl := rfl
@[simp] theorem onFgu_hq (s : State) (g : Fgu → Fgu) : (s.onFgu g).hq = s.hq := rfl
@[simp] theorem onFgu_fwl (s : State) (g : Fgu → Fgu) : (s.onFgu g).fwl = s.fwl := rfl
@[simp] theorem onFgu_tsu (s : State) (g : Fgu → Fgu) : (s.onFgu g).tsu = s.tsu := rfl
@[simp] theorem onFgu_psm (s : State) (g : Fgu → Fgu) : (s.onFgu g).psm = s.psm := rfl
@[simp] theorem onFgu_mon (s : State) (g : Fgu → Fgu) : (s.onFgu g).mon = s.mon := rfl
@[simp] theorem onFgu_log (s : State) (g : Fgu → Fgu) : (s.onFgu g).log = s.log := rfl
@[simp] theorem onFgu_dbg (s : State) (g : Fgu → Fgu) : (s.onFgu g).dbg = s.dbg := rfl
@[simp] theorem onFgu_ret (s : State) (g : Fgu → Fgu) : (s.onFgu g).ret = s.ret := rfl
@[simp] theorem onFgu_mem (s : State) (g : Fgu → Fgu) : (s.onFgu g).mem = s.mem := rfl
@[simp] theorem onFgu_poison (s : State) (g : Fgu → Fgu) : (s.onFgu g).poison = s.poison := rfl
@[simp] theorem onFgu_caps (s : State) (g : Fgu → Fgu) : (s.onFgu g).caps = s.caps := rfl
@[simp] theorem onFgu_out (s : State) (g : Fgu → Fgu) : (s.onFgu g).out = s.out := rfl
@[simp] theorem onFgu_pending (s : State) (g : Fgu → Fgu) : (s.onFgu g).pending = s.pending := rfl

/-! ## onAud -/

@[simp] theorem onAud_now (s : State) (g : Aud → Aud) : (s.onAud g).now = s.now := rfl
@[simp] theorem onAud_free (s : State) (g : Aud → Aud) : (s.onAud g).free = s.free := rfl
@[simp] theorem onAud_sys (s : State) (g : Aud → Aud) : (s.onAud g).sys = s.sys := rfl
@[simp] theorem onAud_sup (s : State) (g : Aud → Aud) : (s.onAud g).sup = s.sup := rfl
@[simp] theorem onAud_clk (s : State) (g : Aud → Aud) : (s.onAud g).clk = s.clk := rfl
@[simp] theorem onAud_rtc (s : State) (g : Aud → Aud) : (s.onAud g).rtc = s.rtc := rfl
@[simp] theorem onAud_start (s : State) (g : Aud → Aud) : (s.onAud g).start = s.start := rfl
@[simp] theorem onAud_nvm (s : State) (g : Aud → Aud) : (s.onAud g).nvm = s.nvm := rfl
@[simp] theorem onAud_seals (s : State) (g : Aud → Aud) : (s.onAud g).seals = s.seals := rfl
@[simp] theorem onAud_cfg (s : State) (g : Aud → Aud) : (s.onAud g).cfg = s.cfg := rfl
@[simp] theorem onAud_fiu (s : State) (g : Aud → Aud) : (s.onAud g).fiu = s.fiu := rfl
@[simp] theorem onAud_fgu (s : State) (g : Aud → Aud) : (s.onAud g).fgu = s.fgu := rfl
@[simp] theorem onAud_aud (s : State) (g : Aud → Aud) : (s.onAud g).aud = g s.aud := rfl
@[simp] theorem onAud_vane (s : State) (g : Aud → Aud) : (s.onAud g).vane = s.vane := rfl
@[simp] theorem onAud_beu (s : State) (g : Aud → Aud) : (s.onAud g).beu = s.beu := rfl
@[simp] theorem onAud_vrd (s : State) (g : Aud → Aud) : (s.onAud g).vrd = s.vrd := rfl
@[simp] theorem onAud_slb (s : State) (g : Aud → Aud) : (s.onAud g).slb = s.slb := rfl
@[simp] theorem onAud_sml (s : State) (g : Aud → Aud) : (s.onAud g).sml = s.sml := rfl
@[simp] theorem onAud_cvu (s : State) (g : Aud → Aud) : (s.onAud g).cvu = s.cvu := rfl
@[simp] theorem onAud_xwl (s : State) (g : Aud → Aud) : (s.onAud g).xwl = s.xwl := rfl
@[simp] theorem onAud_hq (s : State) (g : Aud → Aud) : (s.onAud g).hq = s.hq := rfl
@[simp] theorem onAud_fwl (s : State) (g : Aud → Aud) : (s.onAud g).fwl = s.fwl := rfl
@[simp] theorem onAud_tsu (s : State) (g : Aud → Aud) : (s.onAud g).tsu = s.tsu := rfl
@[simp] theorem onAud_psm (s : State) (g : Aud → Aud) : (s.onAud g).psm = s.psm := rfl
@[simp] theorem onAud_mon (s : State) (g : Aud → Aud) : (s.onAud g).mon = s.mon := rfl
@[simp] theorem onAud_log (s : State) (g : Aud → Aud) : (s.onAud g).log = s.log := rfl
@[simp] theorem onAud_dbg (s : State) (g : Aud → Aud) : (s.onAud g).dbg = s.dbg := rfl
@[simp] theorem onAud_ret (s : State) (g : Aud → Aud) : (s.onAud g).ret = s.ret := rfl
@[simp] theorem onAud_mem (s : State) (g : Aud → Aud) : (s.onAud g).mem = s.mem := rfl
@[simp] theorem onAud_poison (s : State) (g : Aud → Aud) : (s.onAud g).poison = s.poison := rfl
@[simp] theorem onAud_caps (s : State) (g : Aud → Aud) : (s.onAud g).caps = s.caps := rfl
@[simp] theorem onAud_out (s : State) (g : Aud → Aud) : (s.onAud g).out = s.out := rfl
@[simp] theorem onAud_pending (s : State) (g : Aud → Aud) : (s.onAud g).pending = s.pending := rfl

/-! ## onVane -/

@[simp] theorem onVane_now (s : State) (g : Vane → Vane) : (s.onVane g).now = s.now := rfl
@[simp] theorem onVane_free (s : State) (g : Vane → Vane) : (s.onVane g).free = s.free := rfl
@[simp] theorem onVane_sys (s : State) (g : Vane → Vane) : (s.onVane g).sys = s.sys := rfl
@[simp] theorem onVane_sup (s : State) (g : Vane → Vane) : (s.onVane g).sup = s.sup := rfl
@[simp] theorem onVane_clk (s : State) (g : Vane → Vane) : (s.onVane g).clk = s.clk := rfl
@[simp] theorem onVane_rtc (s : State) (g : Vane → Vane) : (s.onVane g).rtc = s.rtc := rfl
@[simp] theorem onVane_start (s : State) (g : Vane → Vane) : (s.onVane g).start = s.start := rfl
@[simp] theorem onVane_nvm (s : State) (g : Vane → Vane) : (s.onVane g).nvm = s.nvm := rfl
@[simp] theorem onVane_seals (s : State) (g : Vane → Vane) : (s.onVane g).seals = s.seals := rfl
@[simp] theorem onVane_cfg (s : State) (g : Vane → Vane) : (s.onVane g).cfg = s.cfg := rfl
@[simp] theorem onVane_fiu (s : State) (g : Vane → Vane) : (s.onVane g).fiu = s.fiu := rfl
@[simp] theorem onVane_fgu (s : State) (g : Vane → Vane) : (s.onVane g).fgu = s.fgu := rfl
@[simp] theorem onVane_aud (s : State) (g : Vane → Vane) : (s.onVane g).aud = s.aud := rfl
@[simp] theorem onVane_vane (s : State) (g : Vane → Vane) : (s.onVane g).vane = g s.vane := rfl
@[simp] theorem onVane_beu (s : State) (g : Vane → Vane) : (s.onVane g).beu = s.beu := rfl
@[simp] theorem onVane_vrd (s : State) (g : Vane → Vane) : (s.onVane g).vrd = s.vrd := rfl
@[simp] theorem onVane_slb (s : State) (g : Vane → Vane) : (s.onVane g).slb = s.slb := rfl
@[simp] theorem onVane_sml (s : State) (g : Vane → Vane) : (s.onVane g).sml = s.sml := rfl
@[simp] theorem onVane_cvu (s : State) (g : Vane → Vane) : (s.onVane g).cvu = s.cvu := rfl
@[simp] theorem onVane_xwl (s : State) (g : Vane → Vane) : (s.onVane g).xwl = s.xwl := rfl
@[simp] theorem onVane_hq (s : State) (g : Vane → Vane) : (s.onVane g).hq = s.hq := rfl
@[simp] theorem onVane_fwl (s : State) (g : Vane → Vane) : (s.onVane g).fwl = s.fwl := rfl
@[simp] theorem onVane_tsu (s : State) (g : Vane → Vane) : (s.onVane g).tsu = s.tsu := rfl
@[simp] theorem onVane_psm (s : State) (g : Vane → Vane) : (s.onVane g).psm = s.psm := rfl
@[simp] theorem onVane_mon (s : State) (g : Vane → Vane) : (s.onVane g).mon = s.mon := rfl
@[simp] theorem onVane_log (s : State) (g : Vane → Vane) : (s.onVane g).log = s.log := rfl
@[simp] theorem onVane_dbg (s : State) (g : Vane → Vane) : (s.onVane g).dbg = s.dbg := rfl
@[simp] theorem onVane_ret (s : State) (g : Vane → Vane) : (s.onVane g).ret = s.ret := rfl
@[simp] theorem onVane_mem (s : State) (g : Vane → Vane) : (s.onVane g).mem = s.mem := rfl
@[simp] theorem onVane_poison (s : State) (g : Vane → Vane) : (s.onVane g).poison = s.poison := rfl
@[simp] theorem onVane_caps (s : State) (g : Vane → Vane) : (s.onVane g).caps = s.caps := rfl
@[simp] theorem onVane_out (s : State) (g : Vane → Vane) : (s.onVane g).out = s.out := rfl
@[simp] theorem onVane_pending (s : State) (g : Vane → Vane) : (s.onVane g).pending = s.pending := rfl

/-! ## onBeu -/

@[simp] theorem onBeu_now (s : State) (g : Beu → Beu) : (s.onBeu g).now = s.now := rfl
@[simp] theorem onBeu_free (s : State) (g : Beu → Beu) : (s.onBeu g).free = s.free := rfl
@[simp] theorem onBeu_sys (s : State) (g : Beu → Beu) : (s.onBeu g).sys = s.sys := rfl
@[simp] theorem onBeu_sup (s : State) (g : Beu → Beu) : (s.onBeu g).sup = s.sup := rfl
@[simp] theorem onBeu_clk (s : State) (g : Beu → Beu) : (s.onBeu g).clk = s.clk := rfl
@[simp] theorem onBeu_rtc (s : State) (g : Beu → Beu) : (s.onBeu g).rtc = s.rtc := rfl
@[simp] theorem onBeu_start (s : State) (g : Beu → Beu) : (s.onBeu g).start = s.start := rfl
@[simp] theorem onBeu_nvm (s : State) (g : Beu → Beu) : (s.onBeu g).nvm = s.nvm := rfl
@[simp] theorem onBeu_seals (s : State) (g : Beu → Beu) : (s.onBeu g).seals = s.seals := rfl
@[simp] theorem onBeu_cfg (s : State) (g : Beu → Beu) : (s.onBeu g).cfg = s.cfg := rfl
@[simp] theorem onBeu_fiu (s : State) (g : Beu → Beu) : (s.onBeu g).fiu = s.fiu := rfl
@[simp] theorem onBeu_fgu (s : State) (g : Beu → Beu) : (s.onBeu g).fgu = s.fgu := rfl
@[simp] theorem onBeu_aud (s : State) (g : Beu → Beu) : (s.onBeu g).aud = s.aud := rfl
@[simp] theorem onBeu_vane (s : State) (g : Beu → Beu) : (s.onBeu g).vane = s.vane := rfl
@[simp] theorem onBeu_beu (s : State) (g : Beu → Beu) : (s.onBeu g).beu = g s.beu := rfl
@[simp] theorem onBeu_vrd (s : State) (g : Beu → Beu) : (s.onBeu g).vrd = s.vrd := rfl
@[simp] theorem onBeu_slb (s : State) (g : Beu → Beu) : (s.onBeu g).slb = s.slb := rfl
@[simp] theorem onBeu_sml (s : State) (g : Beu → Beu) : (s.onBeu g).sml = s.sml := rfl
@[simp] theorem onBeu_cvu (s : State) (g : Beu → Beu) : (s.onBeu g).cvu = s.cvu := rfl
@[simp] theorem onBeu_xwl (s : State) (g : Beu → Beu) : (s.onBeu g).xwl = s.xwl := rfl
@[simp] theorem onBeu_hq (s : State) (g : Beu → Beu) : (s.onBeu g).hq = s.hq := rfl
@[simp] theorem onBeu_fwl (s : State) (g : Beu → Beu) : (s.onBeu g).fwl = s.fwl := rfl
@[simp] theorem onBeu_tsu (s : State) (g : Beu → Beu) : (s.onBeu g).tsu = s.tsu := rfl
@[simp] theorem onBeu_psm (s : State) (g : Beu → Beu) : (s.onBeu g).psm = s.psm := rfl
@[simp] theorem onBeu_mon (s : State) (g : Beu → Beu) : (s.onBeu g).mon = s.mon := rfl
@[simp] theorem onBeu_log (s : State) (g : Beu → Beu) : (s.onBeu g).log = s.log := rfl
@[simp] theorem onBeu_dbg (s : State) (g : Beu → Beu) : (s.onBeu g).dbg = s.dbg := rfl
@[simp] theorem onBeu_ret (s : State) (g : Beu → Beu) : (s.onBeu g).ret = s.ret := rfl
@[simp] theorem onBeu_mem (s : State) (g : Beu → Beu) : (s.onBeu g).mem = s.mem := rfl
@[simp] theorem onBeu_poison (s : State) (g : Beu → Beu) : (s.onBeu g).poison = s.poison := rfl
@[simp] theorem onBeu_caps (s : State) (g : Beu → Beu) : (s.onBeu g).caps = s.caps := rfl
@[simp] theorem onBeu_out (s : State) (g : Beu → Beu) : (s.onBeu g).out = s.out := rfl
@[simp] theorem onBeu_pending (s : State) (g : Beu → Beu) : (s.onBeu g).pending = s.pending := rfl

/-! ## onVrd -/

@[simp] theorem onVrd_now (s : State) (g : Vrd → Vrd) : (s.onVrd g).now = s.now := rfl
@[simp] theorem onVrd_free (s : State) (g : Vrd → Vrd) : (s.onVrd g).free = s.free := rfl
@[simp] theorem onVrd_sys (s : State) (g : Vrd → Vrd) : (s.onVrd g).sys = s.sys := rfl
@[simp] theorem onVrd_sup (s : State) (g : Vrd → Vrd) : (s.onVrd g).sup = s.sup := rfl
@[simp] theorem onVrd_clk (s : State) (g : Vrd → Vrd) : (s.onVrd g).clk = s.clk := rfl
@[simp] theorem onVrd_rtc (s : State) (g : Vrd → Vrd) : (s.onVrd g).rtc = s.rtc := rfl
@[simp] theorem onVrd_start (s : State) (g : Vrd → Vrd) : (s.onVrd g).start = s.start := rfl
@[simp] theorem onVrd_nvm (s : State) (g : Vrd → Vrd) : (s.onVrd g).nvm = s.nvm := rfl
@[simp] theorem onVrd_seals (s : State) (g : Vrd → Vrd) : (s.onVrd g).seals = s.seals := rfl
@[simp] theorem onVrd_cfg (s : State) (g : Vrd → Vrd) : (s.onVrd g).cfg = s.cfg := rfl
@[simp] theorem onVrd_fiu (s : State) (g : Vrd → Vrd) : (s.onVrd g).fiu = s.fiu := rfl
@[simp] theorem onVrd_fgu (s : State) (g : Vrd → Vrd) : (s.onVrd g).fgu = s.fgu := rfl
@[simp] theorem onVrd_aud (s : State) (g : Vrd → Vrd) : (s.onVrd g).aud = s.aud := rfl
@[simp] theorem onVrd_vane (s : State) (g : Vrd → Vrd) : (s.onVrd g).vane = s.vane := rfl
@[simp] theorem onVrd_beu (s : State) (g : Vrd → Vrd) : (s.onVrd g).beu = s.beu := rfl
@[simp] theorem onVrd_vrd (s : State) (g : Vrd → Vrd) : (s.onVrd g).vrd = g s.vrd := rfl
@[simp] theorem onVrd_slb (s : State) (g : Vrd → Vrd) : (s.onVrd g).slb = s.slb := rfl
@[simp] theorem onVrd_sml (s : State) (g : Vrd → Vrd) : (s.onVrd g).sml = s.sml := rfl
@[simp] theorem onVrd_cvu (s : State) (g : Vrd → Vrd) : (s.onVrd g).cvu = s.cvu := rfl
@[simp] theorem onVrd_xwl (s : State) (g : Vrd → Vrd) : (s.onVrd g).xwl = s.xwl := rfl
@[simp] theorem onVrd_hq (s : State) (g : Vrd → Vrd) : (s.onVrd g).hq = s.hq := rfl
@[simp] theorem onVrd_fwl (s : State) (g : Vrd → Vrd) : (s.onVrd g).fwl = s.fwl := rfl
@[simp] theorem onVrd_tsu (s : State) (g : Vrd → Vrd) : (s.onVrd g).tsu = s.tsu := rfl
@[simp] theorem onVrd_psm (s : State) (g : Vrd → Vrd) : (s.onVrd g).psm = s.psm := rfl
@[simp] theorem onVrd_mon (s : State) (g : Vrd → Vrd) : (s.onVrd g).mon = s.mon := rfl
@[simp] theorem onVrd_log (s : State) (g : Vrd → Vrd) : (s.onVrd g).log = s.log := rfl
@[simp] theorem onVrd_dbg (s : State) (g : Vrd → Vrd) : (s.onVrd g).dbg = s.dbg := rfl
@[simp] theorem onVrd_ret (s : State) (g : Vrd → Vrd) : (s.onVrd g).ret = s.ret := rfl
@[simp] theorem onVrd_mem (s : State) (g : Vrd → Vrd) : (s.onVrd g).mem = s.mem := rfl
@[simp] theorem onVrd_poison (s : State) (g : Vrd → Vrd) : (s.onVrd g).poison = s.poison := rfl
@[simp] theorem onVrd_caps (s : State) (g : Vrd → Vrd) : (s.onVrd g).caps = s.caps := rfl
@[simp] theorem onVrd_out (s : State) (g : Vrd → Vrd) : (s.onVrd g).out = s.out := rfl
@[simp] theorem onVrd_pending (s : State) (g : Vrd → Vrd) : (s.onVrd g).pending = s.pending := rfl

/-! ## onSlb -/

@[simp] theorem onSlb_now (s : State) (g : Slb → Slb) : (s.onSlb g).now = s.now := rfl
@[simp] theorem onSlb_free (s : State) (g : Slb → Slb) : (s.onSlb g).free = s.free := rfl
@[simp] theorem onSlb_sys (s : State) (g : Slb → Slb) : (s.onSlb g).sys = s.sys := rfl
@[simp] theorem onSlb_sup (s : State) (g : Slb → Slb) : (s.onSlb g).sup = s.sup := rfl
@[simp] theorem onSlb_clk (s : State) (g : Slb → Slb) : (s.onSlb g).clk = s.clk := rfl
@[simp] theorem onSlb_rtc (s : State) (g : Slb → Slb) : (s.onSlb g).rtc = s.rtc := rfl
@[simp] theorem onSlb_start (s : State) (g : Slb → Slb) : (s.onSlb g).start = s.start := rfl
@[simp] theorem onSlb_nvm (s : State) (g : Slb → Slb) : (s.onSlb g).nvm = s.nvm := rfl
@[simp] theorem onSlb_seals (s : State) (g : Slb → Slb) : (s.onSlb g).seals = s.seals := rfl
@[simp] theorem onSlb_cfg (s : State) (g : Slb → Slb) : (s.onSlb g).cfg = s.cfg := rfl
@[simp] theorem onSlb_fiu (s : State) (g : Slb → Slb) : (s.onSlb g).fiu = s.fiu := rfl
@[simp] theorem onSlb_fgu (s : State) (g : Slb → Slb) : (s.onSlb g).fgu = s.fgu := rfl
@[simp] theorem onSlb_aud (s : State) (g : Slb → Slb) : (s.onSlb g).aud = s.aud := rfl
@[simp] theorem onSlb_vane (s : State) (g : Slb → Slb) : (s.onSlb g).vane = s.vane := rfl
@[simp] theorem onSlb_beu (s : State) (g : Slb → Slb) : (s.onSlb g).beu = s.beu := rfl
@[simp] theorem onSlb_vrd (s : State) (g : Slb → Slb) : (s.onSlb g).vrd = s.vrd := rfl
@[simp] theorem onSlb_slb (s : State) (g : Slb → Slb) : (s.onSlb g).slb = g s.slb := rfl
@[simp] theorem onSlb_sml (s : State) (g : Slb → Slb) : (s.onSlb g).sml = s.sml := rfl
@[simp] theorem onSlb_cvu (s : State) (g : Slb → Slb) : (s.onSlb g).cvu = s.cvu := rfl
@[simp] theorem onSlb_xwl (s : State) (g : Slb → Slb) : (s.onSlb g).xwl = s.xwl := rfl
@[simp] theorem onSlb_hq (s : State) (g : Slb → Slb) : (s.onSlb g).hq = s.hq := rfl
@[simp] theorem onSlb_fwl (s : State) (g : Slb → Slb) : (s.onSlb g).fwl = s.fwl := rfl
@[simp] theorem onSlb_tsu (s : State) (g : Slb → Slb) : (s.onSlb g).tsu = s.tsu := rfl
@[simp] theorem onSlb_psm (s : State) (g : Slb → Slb) : (s.onSlb g).psm = s.psm := rfl
@[simp] theorem onSlb_mon (s : State) (g : Slb → Slb) : (s.onSlb g).mon = s.mon := rfl
@[simp] theorem onSlb_log (s : State) (g : Slb → Slb) : (s.onSlb g).log = s.log := rfl
@[simp] theorem onSlb_dbg (s : State) (g : Slb → Slb) : (s.onSlb g).dbg = s.dbg := rfl
@[simp] theorem onSlb_ret (s : State) (g : Slb → Slb) : (s.onSlb g).ret = s.ret := rfl
@[simp] theorem onSlb_mem (s : State) (g : Slb → Slb) : (s.onSlb g).mem = s.mem := rfl
@[simp] theorem onSlb_poison (s : State) (g : Slb → Slb) : (s.onSlb g).poison = s.poison := rfl
@[simp] theorem onSlb_caps (s : State) (g : Slb → Slb) : (s.onSlb g).caps = s.caps := rfl
@[simp] theorem onSlb_out (s : State) (g : Slb → Slb) : (s.onSlb g).out = s.out := rfl
@[simp] theorem onSlb_pending (s : State) (g : Slb → Slb) : (s.onSlb g).pending = s.pending := rfl

/-! ## onSml -/

@[simp] theorem onSml_now (s : State) (g : Sml → Sml) : (s.onSml g).now = s.now := rfl
@[simp] theorem onSml_free (s : State) (g : Sml → Sml) : (s.onSml g).free = s.free := rfl
@[simp] theorem onSml_sys (s : State) (g : Sml → Sml) : (s.onSml g).sys = s.sys := rfl
@[simp] theorem onSml_sup (s : State) (g : Sml → Sml) : (s.onSml g).sup = s.sup := rfl
@[simp] theorem onSml_clk (s : State) (g : Sml → Sml) : (s.onSml g).clk = s.clk := rfl
@[simp] theorem onSml_rtc (s : State) (g : Sml → Sml) : (s.onSml g).rtc = s.rtc := rfl
@[simp] theorem onSml_start (s : State) (g : Sml → Sml) : (s.onSml g).start = s.start := rfl
@[simp] theorem onSml_nvm (s : State) (g : Sml → Sml) : (s.onSml g).nvm = s.nvm := rfl
@[simp] theorem onSml_seals (s : State) (g : Sml → Sml) : (s.onSml g).seals = s.seals := rfl
@[simp] theorem onSml_cfg (s : State) (g : Sml → Sml) : (s.onSml g).cfg = s.cfg := rfl
@[simp] theorem onSml_fiu (s : State) (g : Sml → Sml) : (s.onSml g).fiu = s.fiu := rfl
@[simp] theorem onSml_fgu (s : State) (g : Sml → Sml) : (s.onSml g).fgu = s.fgu := rfl
@[simp] theorem onSml_aud (s : State) (g : Sml → Sml) : (s.onSml g).aud = s.aud := rfl
@[simp] theorem onSml_vane (s : State) (g : Sml → Sml) : (s.onSml g).vane = s.vane := rfl
@[simp] theorem onSml_beu (s : State) (g : Sml → Sml) : (s.onSml g).beu = s.beu := rfl
@[simp] theorem onSml_vrd (s : State) (g : Sml → Sml) : (s.onSml g).vrd = s.vrd := rfl
@[simp] theorem onSml_slb (s : State) (g : Sml → Sml) : (s.onSml g).slb = s.slb := rfl
@[simp] theorem onSml_sml (s : State) (g : Sml → Sml) : (s.onSml g).sml = g s.sml := rfl
@[simp] theorem onSml_cvu (s : State) (g : Sml → Sml) : (s.onSml g).cvu = s.cvu := rfl
@[simp] theorem onSml_xwl (s : State) (g : Sml → Sml) : (s.onSml g).xwl = s.xwl := rfl
@[simp] theorem onSml_hq (s : State) (g : Sml → Sml) : (s.onSml g).hq = s.hq := rfl
@[simp] theorem onSml_fwl (s : State) (g : Sml → Sml) : (s.onSml g).fwl = s.fwl := rfl
@[simp] theorem onSml_tsu (s : State) (g : Sml → Sml) : (s.onSml g).tsu = s.tsu := rfl
@[simp] theorem onSml_psm (s : State) (g : Sml → Sml) : (s.onSml g).psm = s.psm := rfl
@[simp] theorem onSml_mon (s : State) (g : Sml → Sml) : (s.onSml g).mon = s.mon := rfl
@[simp] theorem onSml_log (s : State) (g : Sml → Sml) : (s.onSml g).log = s.log := rfl
@[simp] theorem onSml_dbg (s : State) (g : Sml → Sml) : (s.onSml g).dbg = s.dbg := rfl
@[simp] theorem onSml_ret (s : State) (g : Sml → Sml) : (s.onSml g).ret = s.ret := rfl
@[simp] theorem onSml_mem (s : State) (g : Sml → Sml) : (s.onSml g).mem = s.mem := rfl
@[simp] theorem onSml_poison (s : State) (g : Sml → Sml) : (s.onSml g).poison = s.poison := rfl
@[simp] theorem onSml_caps (s : State) (g : Sml → Sml) : (s.onSml g).caps = s.caps := rfl
@[simp] theorem onSml_out (s : State) (g : Sml → Sml) : (s.onSml g).out = s.out := rfl
@[simp] theorem onSml_pending (s : State) (g : Sml → Sml) : (s.onSml g).pending = s.pending := rfl

/-! ## onCvu -/

@[simp] theorem onCvu_now (s : State) (g : Cvu → Cvu) : (s.onCvu g).now = s.now := rfl
@[simp] theorem onCvu_free (s : State) (g : Cvu → Cvu) : (s.onCvu g).free = s.free := rfl
@[simp] theorem onCvu_sys (s : State) (g : Cvu → Cvu) : (s.onCvu g).sys = s.sys := rfl
@[simp] theorem onCvu_sup (s : State) (g : Cvu → Cvu) : (s.onCvu g).sup = s.sup := rfl
@[simp] theorem onCvu_clk (s : State) (g : Cvu → Cvu) : (s.onCvu g).clk = s.clk := rfl
@[simp] theorem onCvu_rtc (s : State) (g : Cvu → Cvu) : (s.onCvu g).rtc = s.rtc := rfl
@[simp] theorem onCvu_start (s : State) (g : Cvu → Cvu) : (s.onCvu g).start = s.start := rfl
@[simp] theorem onCvu_nvm (s : State) (g : Cvu → Cvu) : (s.onCvu g).nvm = s.nvm := rfl
@[simp] theorem onCvu_seals (s : State) (g : Cvu → Cvu) : (s.onCvu g).seals = s.seals := rfl
@[simp] theorem onCvu_cfg (s : State) (g : Cvu → Cvu) : (s.onCvu g).cfg = s.cfg := rfl
@[simp] theorem onCvu_fiu (s : State) (g : Cvu → Cvu) : (s.onCvu g).fiu = s.fiu := rfl
@[simp] theorem onCvu_fgu (s : State) (g : Cvu → Cvu) : (s.onCvu g).fgu = s.fgu := rfl
@[simp] theorem onCvu_aud (s : State) (g : Cvu → Cvu) : (s.onCvu g).aud = s.aud := rfl
@[simp] theorem onCvu_vane (s : State) (g : Cvu → Cvu) : (s.onCvu g).vane = s.vane := rfl
@[simp] theorem onCvu_beu (s : State) (g : Cvu → Cvu) : (s.onCvu g).beu = s.beu := rfl
@[simp] theorem onCvu_vrd (s : State) (g : Cvu → Cvu) : (s.onCvu g).vrd = s.vrd := rfl
@[simp] theorem onCvu_slb (s : State) (g : Cvu → Cvu) : (s.onCvu g).slb = s.slb := rfl
@[simp] theorem onCvu_sml (s : State) (g : Cvu → Cvu) : (s.onCvu g).sml = s.sml := rfl
@[simp] theorem onCvu_cvu (s : State) (g : Cvu → Cvu) : (s.onCvu g).cvu = g s.cvu := rfl
@[simp] theorem onCvu_xwl (s : State) (g : Cvu → Cvu) : (s.onCvu g).xwl = s.xwl := rfl
@[simp] theorem onCvu_hq (s : State) (g : Cvu → Cvu) : (s.onCvu g).hq = s.hq := rfl
@[simp] theorem onCvu_fwl (s : State) (g : Cvu → Cvu) : (s.onCvu g).fwl = s.fwl := rfl
@[simp] theorem onCvu_tsu (s : State) (g : Cvu → Cvu) : (s.onCvu g).tsu = s.tsu := rfl
@[simp] theorem onCvu_psm (s : State) (g : Cvu → Cvu) : (s.onCvu g).psm = s.psm := rfl
@[simp] theorem onCvu_mon (s : State) (g : Cvu → Cvu) : (s.onCvu g).mon = s.mon := rfl
@[simp] theorem onCvu_log (s : State) (g : Cvu → Cvu) : (s.onCvu g).log = s.log := rfl
@[simp] theorem onCvu_dbg (s : State) (g : Cvu → Cvu) : (s.onCvu g).dbg = s.dbg := rfl
@[simp] theorem onCvu_ret (s : State) (g : Cvu → Cvu) : (s.onCvu g).ret = s.ret := rfl
@[simp] theorem onCvu_mem (s : State) (g : Cvu → Cvu) : (s.onCvu g).mem = s.mem := rfl
@[simp] theorem onCvu_poison (s : State) (g : Cvu → Cvu) : (s.onCvu g).poison = s.poison := rfl
@[simp] theorem onCvu_caps (s : State) (g : Cvu → Cvu) : (s.onCvu g).caps = s.caps := rfl
@[simp] theorem onCvu_out (s : State) (g : Cvu → Cvu) : (s.onCvu g).out = s.out := rfl
@[simp] theorem onCvu_pending (s : State) (g : Cvu → Cvu) : (s.onCvu g).pending = s.pending := rfl

/-! ## onXwl -/

@[simp] theorem onXwl_now (s : State) (g : Xwl → Xwl) : (s.onXwl g).now = s.now := rfl
@[simp] theorem onXwl_free (s : State) (g : Xwl → Xwl) : (s.onXwl g).free = s.free := rfl
@[simp] theorem onXwl_sys (s : State) (g : Xwl → Xwl) : (s.onXwl g).sys = s.sys := rfl
@[simp] theorem onXwl_sup (s : State) (g : Xwl → Xwl) : (s.onXwl g).sup = s.sup := rfl
@[simp] theorem onXwl_clk (s : State) (g : Xwl → Xwl) : (s.onXwl g).clk = s.clk := rfl
@[simp] theorem onXwl_rtc (s : State) (g : Xwl → Xwl) : (s.onXwl g).rtc = s.rtc := rfl
@[simp] theorem onXwl_start (s : State) (g : Xwl → Xwl) : (s.onXwl g).start = s.start := rfl
@[simp] theorem onXwl_nvm (s : State) (g : Xwl → Xwl) : (s.onXwl g).nvm = s.nvm := rfl
@[simp] theorem onXwl_seals (s : State) (g : Xwl → Xwl) : (s.onXwl g).seals = s.seals := rfl
@[simp] theorem onXwl_cfg (s : State) (g : Xwl → Xwl) : (s.onXwl g).cfg = s.cfg := rfl
@[simp] theorem onXwl_fiu (s : State) (g : Xwl → Xwl) : (s.onXwl g).fiu = s.fiu := rfl
@[simp] theorem onXwl_fgu (s : State) (g : Xwl → Xwl) : (s.onXwl g).fgu = s.fgu := rfl
@[simp] theorem onXwl_aud (s : State) (g : Xwl → Xwl) : (s.onXwl g).aud = s.aud := rfl
@[simp] theorem onXwl_vane (s : State) (g : Xwl → Xwl) : (s.onXwl g).vane = s.vane := rfl
@[simp] theorem onXwl_beu (s : State) (g : Xwl → Xwl) : (s.onXwl g).beu = s.beu := rfl
@[simp] theorem onXwl_vrd (s : State) (g : Xwl → Xwl) : (s.onXwl g).vrd = s.vrd := rfl
@[simp] theorem onXwl_slb (s : State) (g : Xwl → Xwl) : (s.onXwl g).slb = s.slb := rfl
@[simp] theorem onXwl_sml (s : State) (g : Xwl → Xwl) : (s.onXwl g).sml = s.sml := rfl
@[simp] theorem onXwl_cvu (s : State) (g : Xwl → Xwl) : (s.onXwl g).cvu = s.cvu := rfl
@[simp] theorem onXwl_xwl (s : State) (g : Xwl → Xwl) : (s.onXwl g).xwl = g s.xwl := rfl
@[simp] theorem onXwl_hq (s : State) (g : Xwl → Xwl) : (s.onXwl g).hq = s.hq := rfl
@[simp] theorem onXwl_fwl (s : State) (g : Xwl → Xwl) : (s.onXwl g).fwl = s.fwl := rfl
@[simp] theorem onXwl_tsu (s : State) (g : Xwl → Xwl) : (s.onXwl g).tsu = s.tsu := rfl
@[simp] theorem onXwl_psm (s : State) (g : Xwl → Xwl) : (s.onXwl g).psm = s.psm := rfl
@[simp] theorem onXwl_mon (s : State) (g : Xwl → Xwl) : (s.onXwl g).mon = s.mon := rfl
@[simp] theorem onXwl_log (s : State) (g : Xwl → Xwl) : (s.onXwl g).log = s.log := rfl
@[simp] theorem onXwl_dbg (s : State) (g : Xwl → Xwl) : (s.onXwl g).dbg = s.dbg := rfl
@[simp] theorem onXwl_ret (s : State) (g : Xwl → Xwl) : (s.onXwl g).ret = s.ret := rfl
@[simp] theorem onXwl_mem (s : State) (g : Xwl → Xwl) : (s.onXwl g).mem = s.mem := rfl
@[simp] theorem onXwl_poison (s : State) (g : Xwl → Xwl) : (s.onXwl g).poison = s.poison := rfl
@[simp] theorem onXwl_caps (s : State) (g : Xwl → Xwl) : (s.onXwl g).caps = s.caps := rfl
@[simp] theorem onXwl_out (s : State) (g : Xwl → Xwl) : (s.onXwl g).out = s.out := rfl
@[simp] theorem onXwl_pending (s : State) (g : Xwl → Xwl) : (s.onXwl g).pending = s.pending := rfl

/-! ## onHq -/

@[simp] theorem onHq_now (s : State) (g : Hq → Hq) : (s.onHq g).now = s.now := rfl
@[simp] theorem onHq_free (s : State) (g : Hq → Hq) : (s.onHq g).free = s.free := rfl
@[simp] theorem onHq_sys (s : State) (g : Hq → Hq) : (s.onHq g).sys = s.sys := rfl
@[simp] theorem onHq_sup (s : State) (g : Hq → Hq) : (s.onHq g).sup = s.sup := rfl
@[simp] theorem onHq_clk (s : State) (g : Hq → Hq) : (s.onHq g).clk = s.clk := rfl
@[simp] theorem onHq_rtc (s : State) (g : Hq → Hq) : (s.onHq g).rtc = s.rtc := rfl
@[simp] theorem onHq_start (s : State) (g : Hq → Hq) : (s.onHq g).start = s.start := rfl
@[simp] theorem onHq_nvm (s : State) (g : Hq → Hq) : (s.onHq g).nvm = s.nvm := rfl
@[simp] theorem onHq_seals (s : State) (g : Hq → Hq) : (s.onHq g).seals = s.seals := rfl
@[simp] theorem onHq_cfg (s : State) (g : Hq → Hq) : (s.onHq g).cfg = s.cfg := rfl
@[simp] theorem onHq_fiu (s : State) (g : Hq → Hq) : (s.onHq g).fiu = s.fiu := rfl
@[simp] theorem onHq_fgu (s : State) (g : Hq → Hq) : (s.onHq g).fgu = s.fgu := rfl
@[simp] theorem onHq_aud (s : State) (g : Hq → Hq) : (s.onHq g).aud = s.aud := rfl
@[simp] theorem onHq_vane (s : State) (g : Hq → Hq) : (s.onHq g).vane = s.vane := rfl
@[simp] theorem onHq_beu (s : State) (g : Hq → Hq) : (s.onHq g).beu = s.beu := rfl
@[simp] theorem onHq_vrd (s : State) (g : Hq → Hq) : (s.onHq g).vrd = s.vrd := rfl
@[simp] theorem onHq_slb (s : State) (g : Hq → Hq) : (s.onHq g).slb = s.slb := rfl
@[simp] theorem onHq_sml (s : State) (g : Hq → Hq) : (s.onHq g).sml = s.sml := rfl
@[simp] theorem onHq_cvu (s : State) (g : Hq → Hq) : (s.onHq g).cvu = s.cvu := rfl
@[simp] theorem onHq_xwl (s : State) (g : Hq → Hq) : (s.onHq g).xwl = s.xwl := rfl
@[simp] theorem onHq_hq (s : State) (g : Hq → Hq) : (s.onHq g).hq = g s.hq := rfl
@[simp] theorem onHq_fwl (s : State) (g : Hq → Hq) : (s.onHq g).fwl = s.fwl := rfl
@[simp] theorem onHq_tsu (s : State) (g : Hq → Hq) : (s.onHq g).tsu = s.tsu := rfl
@[simp] theorem onHq_psm (s : State) (g : Hq → Hq) : (s.onHq g).psm = s.psm := rfl
@[simp] theorem onHq_mon (s : State) (g : Hq → Hq) : (s.onHq g).mon = s.mon := rfl
@[simp] theorem onHq_log (s : State) (g : Hq → Hq) : (s.onHq g).log = s.log := rfl
@[simp] theorem onHq_dbg (s : State) (g : Hq → Hq) : (s.onHq g).dbg = s.dbg := rfl
@[simp] theorem onHq_ret (s : State) (g : Hq → Hq) : (s.onHq g).ret = s.ret := rfl
@[simp] theorem onHq_mem (s : State) (g : Hq → Hq) : (s.onHq g).mem = s.mem := rfl
@[simp] theorem onHq_poison (s : State) (g : Hq → Hq) : (s.onHq g).poison = s.poison := rfl
@[simp] theorem onHq_caps (s : State) (g : Hq → Hq) : (s.onHq g).caps = s.caps := rfl
@[simp] theorem onHq_out (s : State) (g : Hq → Hq) : (s.onHq g).out = s.out := rfl
@[simp] theorem onHq_pending (s : State) (g : Hq → Hq) : (s.onHq g).pending = s.pending := rfl

/-! ## onFwl -/

@[simp] theorem onFwl_now (s : State) (g : Fwl → Fwl) : (s.onFwl g).now = s.now := rfl
@[simp] theorem onFwl_free (s : State) (g : Fwl → Fwl) : (s.onFwl g).free = s.free := rfl
@[simp] theorem onFwl_sys (s : State) (g : Fwl → Fwl) : (s.onFwl g).sys = s.sys := rfl
@[simp] theorem onFwl_sup (s : State) (g : Fwl → Fwl) : (s.onFwl g).sup = s.sup := rfl
@[simp] theorem onFwl_clk (s : State) (g : Fwl → Fwl) : (s.onFwl g).clk = s.clk := rfl
@[simp] theorem onFwl_rtc (s : State) (g : Fwl → Fwl) : (s.onFwl g).rtc = s.rtc := rfl
@[simp] theorem onFwl_start (s : State) (g : Fwl → Fwl) : (s.onFwl g).start = s.start := rfl
@[simp] theorem onFwl_nvm (s : State) (g : Fwl → Fwl) : (s.onFwl g).nvm = s.nvm := rfl
@[simp] theorem onFwl_seals (s : State) (g : Fwl → Fwl) : (s.onFwl g).seals = s.seals := rfl
@[simp] theorem onFwl_cfg (s : State) (g : Fwl → Fwl) : (s.onFwl g).cfg = s.cfg := rfl
@[simp] theorem onFwl_fiu (s : State) (g : Fwl → Fwl) : (s.onFwl g).fiu = s.fiu := rfl
@[simp] theorem onFwl_fgu (s : State) (g : Fwl → Fwl) : (s.onFwl g).fgu = s.fgu := rfl
@[simp] theorem onFwl_aud (s : State) (g : Fwl → Fwl) : (s.onFwl g).aud = s.aud := rfl
@[simp] theorem onFwl_vane (s : State) (g : Fwl → Fwl) : (s.onFwl g).vane = s.vane := rfl
@[simp] theorem onFwl_beu (s : State) (g : Fwl → Fwl) : (s.onFwl g).beu = s.beu := rfl
@[simp] theorem onFwl_vrd (s : State) (g : Fwl → Fwl) : (s.onFwl g).vrd = s.vrd := rfl
@[simp] theorem onFwl_slb (s : State) (g : Fwl → Fwl) : (s.onFwl g).slb = s.slb := rfl
@[simp] theorem onFwl_sml (s : State) (g : Fwl → Fwl) : (s.onFwl g).sml = s.sml := rfl
@[simp] theorem onFwl_cvu (s : State) (g : Fwl → Fwl) : (s.onFwl g).cvu = s.cvu := rfl
@[simp] theorem onFwl_xwl (s : State) (g : Fwl → Fwl) : (s.onFwl g).xwl = s.xwl := rfl
@[simp] theorem onFwl_hq (s : State) (g : Fwl → Fwl) : (s.onFwl g).hq = s.hq := rfl
@[simp] theorem onFwl_fwl (s : State) (g : Fwl → Fwl) : (s.onFwl g).fwl = g s.fwl := rfl
@[simp] theorem onFwl_tsu (s : State) (g : Fwl → Fwl) : (s.onFwl g).tsu = s.tsu := rfl
@[simp] theorem onFwl_psm (s : State) (g : Fwl → Fwl) : (s.onFwl g).psm = s.psm := rfl
@[simp] theorem onFwl_mon (s : State) (g : Fwl → Fwl) : (s.onFwl g).mon = s.mon := rfl
@[simp] theorem onFwl_log (s : State) (g : Fwl → Fwl) : (s.onFwl g).log = s.log := rfl
@[simp] theorem onFwl_dbg (s : State) (g : Fwl → Fwl) : (s.onFwl g).dbg = s.dbg := rfl
@[simp] theorem onFwl_ret (s : State) (g : Fwl → Fwl) : (s.onFwl g).ret = s.ret := rfl
@[simp] theorem onFwl_mem (s : State) (g : Fwl → Fwl) : (s.onFwl g).mem = s.mem := rfl
@[simp] theorem onFwl_poison (s : State) (g : Fwl → Fwl) : (s.onFwl g).poison = s.poison := rfl
@[simp] theorem onFwl_caps (s : State) (g : Fwl → Fwl) : (s.onFwl g).caps = s.caps := rfl
@[simp] theorem onFwl_out (s : State) (g : Fwl → Fwl) : (s.onFwl g).out = s.out := rfl
@[simp] theorem onFwl_pending (s : State) (g : Fwl → Fwl) : (s.onFwl g).pending = s.pending := rfl

/-! ## onTsu -/

@[simp] theorem onTsu_now (s : State) (g : Tsu → Tsu) : (s.onTsu g).now = s.now := rfl
@[simp] theorem onTsu_free (s : State) (g : Tsu → Tsu) : (s.onTsu g).free = s.free := rfl
@[simp] theorem onTsu_sys (s : State) (g : Tsu → Tsu) : (s.onTsu g).sys = s.sys := rfl
@[simp] theorem onTsu_sup (s : State) (g : Tsu → Tsu) : (s.onTsu g).sup = s.sup := rfl
@[simp] theorem onTsu_clk (s : State) (g : Tsu → Tsu) : (s.onTsu g).clk = s.clk := rfl
@[simp] theorem onTsu_rtc (s : State) (g : Tsu → Tsu) : (s.onTsu g).rtc = s.rtc := rfl
@[simp] theorem onTsu_start (s : State) (g : Tsu → Tsu) : (s.onTsu g).start = s.start := rfl
@[simp] theorem onTsu_nvm (s : State) (g : Tsu → Tsu) : (s.onTsu g).nvm = s.nvm := rfl
@[simp] theorem onTsu_seals (s : State) (g : Tsu → Tsu) : (s.onTsu g).seals = s.seals := rfl
@[simp] theorem onTsu_cfg (s : State) (g : Tsu → Tsu) : (s.onTsu g).cfg = s.cfg := rfl
@[simp] theorem onTsu_fiu (s : State) (g : Tsu → Tsu) : (s.onTsu g).fiu = s.fiu := rfl
@[simp] theorem onTsu_fgu (s : State) (g : Tsu → Tsu) : (s.onTsu g).fgu = s.fgu := rfl
@[simp] theorem onTsu_aud (s : State) (g : Tsu → Tsu) : (s.onTsu g).aud = s.aud := rfl
@[simp] theorem onTsu_vane (s : State) (g : Tsu → Tsu) : (s.onTsu g).vane = s.vane := rfl
@[simp] theorem onTsu_beu (s : State) (g : Tsu → Tsu) : (s.onTsu g).beu = s.beu := rfl
@[simp] theorem onTsu_vrd (s : State) (g : Tsu → Tsu) : (s.onTsu g).vrd = s.vrd := rfl
@[simp] theorem onTsu_slb (s : State) (g : Tsu → Tsu) : (s.onTsu g).slb = s.slb := rfl
@[simp] theorem onTsu_sml (s : State) (g : Tsu → Tsu) : (s.onTsu g).sml = s.sml := rfl
@[simp] theorem onTsu_cvu (s : State) (g : Tsu → Tsu) : (s.onTsu g).cvu = s.cvu := rfl
@[simp] theorem onTsu_xwl (s : State) (g : Tsu → Tsu) : (s.onTsu g).xwl = s.xwl := rfl
@[simp] theorem onTsu_hq (s : State) (g : Tsu → Tsu) : (s.onTsu g).hq = s.hq := rfl
@[simp] theorem onTsu_fwl (s : State) (g : Tsu → Tsu) : (s.onTsu g).fwl = s.fwl := rfl
@[simp] theorem onTsu_tsu (s : State) (g : Tsu → Tsu) : (s.onTsu g).tsu = g s.tsu := rfl
@[simp] theorem onTsu_psm (s : State) (g : Tsu → Tsu) : (s.onTsu g).psm = s.psm := rfl
@[simp] theorem onTsu_mon (s : State) (g : Tsu → Tsu) : (s.onTsu g).mon = s.mon := rfl
@[simp] theorem onTsu_log (s : State) (g : Tsu → Tsu) : (s.onTsu g).log = s.log := rfl
@[simp] theorem onTsu_dbg (s : State) (g : Tsu → Tsu) : (s.onTsu g).dbg = s.dbg := rfl
@[simp] theorem onTsu_ret (s : State) (g : Tsu → Tsu) : (s.onTsu g).ret = s.ret := rfl
@[simp] theorem onTsu_mem (s : State) (g : Tsu → Tsu) : (s.onTsu g).mem = s.mem := rfl
@[simp] theorem onTsu_poison (s : State) (g : Tsu → Tsu) : (s.onTsu g).poison = s.poison := rfl
@[simp] theorem onTsu_caps (s : State) (g : Tsu → Tsu) : (s.onTsu g).caps = s.caps := rfl
@[simp] theorem onTsu_out (s : State) (g : Tsu → Tsu) : (s.onTsu g).out = s.out := rfl
@[simp] theorem onTsu_pending (s : State) (g : Tsu → Tsu) : (s.onTsu g).pending = s.pending := rfl

/-! ## onPsm -/

@[simp] theorem onPsm_now (s : State) (g : Psm → Psm) : (s.onPsm g).now = s.now := rfl
@[simp] theorem onPsm_free (s : State) (g : Psm → Psm) : (s.onPsm g).free = s.free := rfl
@[simp] theorem onPsm_sys (s : State) (g : Psm → Psm) : (s.onPsm g).sys = s.sys := rfl
@[simp] theorem onPsm_sup (s : State) (g : Psm → Psm) : (s.onPsm g).sup = s.sup := rfl
@[simp] theorem onPsm_clk (s : State) (g : Psm → Psm) : (s.onPsm g).clk = s.clk := rfl
@[simp] theorem onPsm_rtc (s : State) (g : Psm → Psm) : (s.onPsm g).rtc = s.rtc := rfl
@[simp] theorem onPsm_start (s : State) (g : Psm → Psm) : (s.onPsm g).start = s.start := rfl
@[simp] theorem onPsm_nvm (s : State) (g : Psm → Psm) : (s.onPsm g).nvm = s.nvm := rfl
@[simp] theorem onPsm_seals (s : State) (g : Psm → Psm) : (s.onPsm g).seals = s.seals := rfl
@[simp] theorem onPsm_cfg (s : State) (g : Psm → Psm) : (s.onPsm g).cfg = s.cfg := rfl
@[simp] theorem onPsm_fiu (s : State) (g : Psm → Psm) : (s.onPsm g).fiu = s.fiu := rfl
@[simp] theorem onPsm_fgu (s : State) (g : Psm → Psm) : (s.onPsm g).fgu = s.fgu := rfl
@[simp] theorem onPsm_aud (s : State) (g : Psm → Psm) : (s.onPsm g).aud = s.aud := rfl
@[simp] theorem onPsm_vane (s : State) (g : Psm → Psm) : (s.onPsm g).vane = s.vane := rfl
@[simp] theorem onPsm_beu (s : State) (g : Psm → Psm) : (s.onPsm g).beu = s.beu := rfl
@[simp] theorem onPsm_vrd (s : State) (g : Psm → Psm) : (s.onPsm g).vrd = s.vrd := rfl
@[simp] theorem onPsm_slb (s : State) (g : Psm → Psm) : (s.onPsm g).slb = s.slb := rfl
@[simp] theorem onPsm_sml (s : State) (g : Psm → Psm) : (s.onPsm g).sml = s.sml := rfl
@[simp] theorem onPsm_cvu (s : State) (g : Psm → Psm) : (s.onPsm g).cvu = s.cvu := rfl
@[simp] theorem onPsm_xwl (s : State) (g : Psm → Psm) : (s.onPsm g).xwl = s.xwl := rfl
@[simp] theorem onPsm_hq (s : State) (g : Psm → Psm) : (s.onPsm g).hq = s.hq := rfl
@[simp] theorem onPsm_fwl (s : State) (g : Psm → Psm) : (s.onPsm g).fwl = s.fwl := rfl
@[simp] theorem onPsm_tsu (s : State) (g : Psm → Psm) : (s.onPsm g).tsu = s.tsu := rfl
@[simp] theorem onPsm_psm (s : State) (g : Psm → Psm) : (s.onPsm g).psm = g s.psm := rfl
@[simp] theorem onPsm_mon (s : State) (g : Psm → Psm) : (s.onPsm g).mon = s.mon := rfl
@[simp] theorem onPsm_log (s : State) (g : Psm → Psm) : (s.onPsm g).log = s.log := rfl
@[simp] theorem onPsm_dbg (s : State) (g : Psm → Psm) : (s.onPsm g).dbg = s.dbg := rfl
@[simp] theorem onPsm_ret (s : State) (g : Psm → Psm) : (s.onPsm g).ret = s.ret := rfl
@[simp] theorem onPsm_mem (s : State) (g : Psm → Psm) : (s.onPsm g).mem = s.mem := rfl
@[simp] theorem onPsm_poison (s : State) (g : Psm → Psm) : (s.onPsm g).poison = s.poison := rfl
@[simp] theorem onPsm_caps (s : State) (g : Psm → Psm) : (s.onPsm g).caps = s.caps := rfl
@[simp] theorem onPsm_out (s : State) (g : Psm → Psm) : (s.onPsm g).out = s.out := rfl
@[simp] theorem onPsm_pending (s : State) (g : Psm → Psm) : (s.onPsm g).pending = s.pending := rfl

/-! ## onMon -/

@[simp] theorem onMon_now (s : State) (g : Mon → Mon) : (s.onMon g).now = s.now := rfl
@[simp] theorem onMon_free (s : State) (g : Mon → Mon) : (s.onMon g).free = s.free := rfl
@[simp] theorem onMon_sys (s : State) (g : Mon → Mon) : (s.onMon g).sys = s.sys := rfl
@[simp] theorem onMon_sup (s : State) (g : Mon → Mon) : (s.onMon g).sup = s.sup := rfl
@[simp] theorem onMon_clk (s : State) (g : Mon → Mon) : (s.onMon g).clk = s.clk := rfl
@[simp] theorem onMon_rtc (s : State) (g : Mon → Mon) : (s.onMon g).rtc = s.rtc := rfl
@[simp] theorem onMon_start (s : State) (g : Mon → Mon) : (s.onMon g).start = s.start := rfl
@[simp] theorem onMon_nvm (s : State) (g : Mon → Mon) : (s.onMon g).nvm = s.nvm := rfl
@[simp] theorem onMon_seals (s : State) (g : Mon → Mon) : (s.onMon g).seals = s.seals := rfl
@[simp] theorem onMon_cfg (s : State) (g : Mon → Mon) : (s.onMon g).cfg = s.cfg := rfl
@[simp] theorem onMon_fiu (s : State) (g : Mon → Mon) : (s.onMon g).fiu = s.fiu := rfl
@[simp] theorem onMon_fgu (s : State) (g : Mon → Mon) : (s.onMon g).fgu = s.fgu := rfl
@[simp] theorem onMon_aud (s : State) (g : Mon → Mon) : (s.onMon g).aud = s.aud := rfl
@[simp] theorem onMon_vane (s : State) (g : Mon → Mon) : (s.onMon g).vane = s.vane := rfl
@[simp] theorem onMon_beu (s : State) (g : Mon → Mon) : (s.onMon g).beu = s.beu := rfl
@[simp] theorem onMon_vrd (s : State) (g : Mon → Mon) : (s.onMon g).vrd = s.vrd := rfl
@[simp] theorem onMon_slb (s : State) (g : Mon → Mon) : (s.onMon g).slb = s.slb := rfl
@[simp] theorem onMon_sml (s : State) (g : Mon → Mon) : (s.onMon g).sml = s.sml := rfl
@[simp] theorem onMon_cvu (s : State) (g : Mon → Mon) : (s.onMon g).cvu = s.cvu := rfl
@[simp] theorem onMon_xwl (s : State) (g : Mon → Mon) : (s.onMon g).xwl = s.xwl := rfl
@[simp] theorem onMon_hq (s : State) (g : Mon → Mon) : (s.onMon g).hq = s.hq := rfl
@[simp] theorem onMon_fwl (s : State) (g : Mon → Mon) : (s.onMon g).fwl = s.fwl := rfl
@[simp] theorem onMon_tsu (s : State) (g : Mon → Mon) : (s.onMon g).tsu = s.tsu := rfl
@[simp] theorem onMon_psm (s : State) (g : Mon → Mon) : (s.onMon g).psm = s.psm := rfl
@[simp] theorem onMon_mon (s : State) (g : Mon → Mon) : (s.onMon g).mon = g s.mon := rfl
@[simp] theorem onMon_log (s : State) (g : Mon → Mon) : (s.onMon g).log = s.log := rfl
@[simp] theorem onMon_dbg (s : State) (g : Mon → Mon) : (s.onMon g).dbg = s.dbg := rfl
@[simp] theorem onMon_ret (s : State) (g : Mon → Mon) : (s.onMon g).ret = s.ret := rfl
@[simp] theorem onMon_mem (s : State) (g : Mon → Mon) : (s.onMon g).mem = s.mem := rfl
@[simp] theorem onMon_poison (s : State) (g : Mon → Mon) : (s.onMon g).poison = s.poison := rfl
@[simp] theorem onMon_caps (s : State) (g : Mon → Mon) : (s.onMon g).caps = s.caps := rfl
@[simp] theorem onMon_out (s : State) (g : Mon → Mon) : (s.onMon g).out = s.out := rfl
@[simp] theorem onMon_pending (s : State) (g : Mon → Mon) : (s.onMon g).pending = s.pending := rfl

/-! ## onLog -/

@[simp] theorem onLog_now (s : State) (g : Log → Log) : (s.onLog g).now = s.now := rfl
@[simp] theorem onLog_free (s : State) (g : Log → Log) : (s.onLog g).free = s.free := rfl
@[simp] theorem onLog_sys (s : State) (g : Log → Log) : (s.onLog g).sys = s.sys := rfl
@[simp] theorem onLog_sup (s : State) (g : Log → Log) : (s.onLog g).sup = s.sup := rfl
@[simp] theorem onLog_clk (s : State) (g : Log → Log) : (s.onLog g).clk = s.clk := rfl
@[simp] theorem onLog_rtc (s : State) (g : Log → Log) : (s.onLog g).rtc = s.rtc := rfl
@[simp] theorem onLog_start (s : State) (g : Log → Log) : (s.onLog g).start = s.start := rfl
@[simp] theorem onLog_nvm (s : State) (g : Log → Log) : (s.onLog g).nvm = s.nvm := rfl
@[simp] theorem onLog_seals (s : State) (g : Log → Log) : (s.onLog g).seals = s.seals := rfl
@[simp] theorem onLog_cfg (s : State) (g : Log → Log) : (s.onLog g).cfg = s.cfg := rfl
@[simp] theorem onLog_fiu (s : State) (g : Log → Log) : (s.onLog g).fiu = s.fiu := rfl
@[simp] theorem onLog_fgu (s : State) (g : Log → Log) : (s.onLog g).fgu = s.fgu := rfl
@[simp] theorem onLog_aud (s : State) (g : Log → Log) : (s.onLog g).aud = s.aud := rfl
@[simp] theorem onLog_vane (s : State) (g : Log → Log) : (s.onLog g).vane = s.vane := rfl
@[simp] theorem onLog_beu (s : State) (g : Log → Log) : (s.onLog g).beu = s.beu := rfl
@[simp] theorem onLog_vrd (s : State) (g : Log → Log) : (s.onLog g).vrd = s.vrd := rfl
@[simp] theorem onLog_slb (s : State) (g : Log → Log) : (s.onLog g).slb = s.slb := rfl
@[simp] theorem onLog_sml (s : State) (g : Log → Log) : (s.onLog g).sml = s.sml := rfl
@[simp] theorem onLog_cvu (s : State) (g : Log → Log) : (s.onLog g).cvu = s.cvu := rfl
@[simp] theorem onLog_xwl (s : State) (g : Log → Log) : (s.onLog g).xwl = s.xwl := rfl
@[simp] theorem onLog_hq (s : State) (g : Log → Log) : (s.onLog g).hq = s.hq := rfl
@[simp] theorem onLog_fwl (s : State) (g : Log → Log) : (s.onLog g).fwl = s.fwl := rfl
@[simp] theorem onLog_tsu (s : State) (g : Log → Log) : (s.onLog g).tsu = s.tsu := rfl
@[simp] theorem onLog_psm (s : State) (g : Log → Log) : (s.onLog g).psm = s.psm := rfl
@[simp] theorem onLog_mon (s : State) (g : Log → Log) : (s.onLog g).mon = s.mon := rfl
@[simp] theorem onLog_log (s : State) (g : Log → Log) : (s.onLog g).log = g s.log := rfl
@[simp] theorem onLog_dbg (s : State) (g : Log → Log) : (s.onLog g).dbg = s.dbg := rfl
@[simp] theorem onLog_ret (s : State) (g : Log → Log) : (s.onLog g).ret = s.ret := rfl
@[simp] theorem onLog_mem (s : State) (g : Log → Log) : (s.onLog g).mem = s.mem := rfl
@[simp] theorem onLog_poison (s : State) (g : Log → Log) : (s.onLog g).poison = s.poison := rfl
@[simp] theorem onLog_caps (s : State) (g : Log → Log) : (s.onLog g).caps = s.caps := rfl
@[simp] theorem onLog_out (s : State) (g : Log → Log) : (s.onLog g).out = s.out := rfl
@[simp] theorem onLog_pending (s : State) (g : Log → Log) : (s.onLog g).pending = s.pending := rfl

/-! ## onDbg -/

@[simp] theorem onDbg_now (s : State) (g : Dbg → Dbg) : (s.onDbg g).now = s.now := rfl
@[simp] theorem onDbg_free (s : State) (g : Dbg → Dbg) : (s.onDbg g).free = s.free := rfl
@[simp] theorem onDbg_sys (s : State) (g : Dbg → Dbg) : (s.onDbg g).sys = s.sys := rfl
@[simp] theorem onDbg_sup (s : State) (g : Dbg → Dbg) : (s.onDbg g).sup = s.sup := rfl
@[simp] theorem onDbg_clk (s : State) (g : Dbg → Dbg) : (s.onDbg g).clk = s.clk := rfl
@[simp] theorem onDbg_rtc (s : State) (g : Dbg → Dbg) : (s.onDbg g).rtc = s.rtc := rfl
@[simp] theorem onDbg_start (s : State) (g : Dbg → Dbg) : (s.onDbg g).start = s.start := rfl
@[simp] theorem onDbg_nvm (s : State) (g : Dbg → Dbg) : (s.onDbg g).nvm = s.nvm := rfl
@[simp] theorem onDbg_seals (s : State) (g : Dbg → Dbg) : (s.onDbg g).seals = s.seals := rfl
@[simp] theorem onDbg_cfg (s : State) (g : Dbg → Dbg) : (s.onDbg g).cfg = s.cfg := rfl
@[simp] theorem onDbg_fiu (s : State) (g : Dbg → Dbg) : (s.onDbg g).fiu = s.fiu := rfl
@[simp] theorem onDbg_fgu (s : State) (g : Dbg → Dbg) : (s.onDbg g).fgu = s.fgu := rfl
@[simp] theorem onDbg_aud (s : State) (g : Dbg → Dbg) : (s.onDbg g).aud = s.aud := rfl
@[simp] theorem onDbg_vane (s : State) (g : Dbg → Dbg) : (s.onDbg g).vane = s.vane := rfl
@[simp] theorem onDbg_beu (s : State) (g : Dbg → Dbg) : (s.onDbg g).beu = s.beu := rfl
@[simp] theorem onDbg_vrd (s : State) (g : Dbg → Dbg) : (s.onDbg g).vrd = s.vrd := rfl
@[simp] theorem onDbg_slb (s : State) (g : Dbg → Dbg) : (s.onDbg g).slb = s.slb := rfl
@[simp] theorem onDbg_sml (s : State) (g : Dbg → Dbg) : (s.onDbg g).sml = s.sml := rfl
@[simp] theorem onDbg_cvu (s : State) (g : Dbg → Dbg) : (s.onDbg g).cvu = s.cvu := rfl
@[simp] theorem onDbg_xwl (s : State) (g : Dbg → Dbg) : (s.onDbg g).xwl = s.xwl := rfl
@[simp] theorem onDbg_hq (s : State) (g : Dbg → Dbg) : (s.onDbg g).hq = s.hq := rfl
@[simp] theorem onDbg_fwl (s : State) (g : Dbg → Dbg) : (s.onDbg g).fwl = s.fwl := rfl
@[simp] theorem onDbg_tsu (s : State) (g : Dbg → Dbg) : (s.onDbg g).tsu = s.tsu := rfl
@[simp] theorem onDbg_psm (s : State) (g : Dbg → Dbg) : (s.onDbg g).psm = s.psm := rfl
@[simp] theorem onDbg_mon (s : State) (g : Dbg → Dbg) : (s.onDbg g).mon = s.mon := rfl
@[simp] theorem onDbg_log (s : State) (g : Dbg → Dbg) : (s.onDbg g).log = s.log := rfl
@[simp] theorem onDbg_dbg (s : State) (g : Dbg → Dbg) : (s.onDbg g).dbg = g s.dbg := rfl
@[simp] theorem onDbg_ret (s : State) (g : Dbg → Dbg) : (s.onDbg g).ret = s.ret := rfl
@[simp] theorem onDbg_mem (s : State) (g : Dbg → Dbg) : (s.onDbg g).mem = s.mem := rfl
@[simp] theorem onDbg_poison (s : State) (g : Dbg → Dbg) : (s.onDbg g).poison = s.poison := rfl
@[simp] theorem onDbg_caps (s : State) (g : Dbg → Dbg) : (s.onDbg g).caps = s.caps := rfl
@[simp] theorem onDbg_out (s : State) (g : Dbg → Dbg) : (s.onDbg g).out = s.out := rfl
@[simp] theorem onDbg_pending (s : State) (g : Dbg → Dbg) : (s.onDbg g).pending = s.pending := rfl

/-! ## onRet -/

@[simp] theorem onRet_now (s : State) (g : Ret → Ret) : (s.onRet g).now = s.now := rfl
@[simp] theorem onRet_free (s : State) (g : Ret → Ret) : (s.onRet g).free = s.free := rfl
@[simp] theorem onRet_sys (s : State) (g : Ret → Ret) : (s.onRet g).sys = s.sys := rfl
@[simp] theorem onRet_sup (s : State) (g : Ret → Ret) : (s.onRet g).sup = s.sup := rfl
@[simp] theorem onRet_clk (s : State) (g : Ret → Ret) : (s.onRet g).clk = s.clk := rfl
@[simp] theorem onRet_rtc (s : State) (g : Ret → Ret) : (s.onRet g).rtc = s.rtc := rfl
@[simp] theorem onRet_start (s : State) (g : Ret → Ret) : (s.onRet g).start = s.start := rfl
@[simp] theorem onRet_nvm (s : State) (g : Ret → Ret) : (s.onRet g).nvm = s.nvm := rfl
@[simp] theorem onRet_seals (s : State) (g : Ret → Ret) : (s.onRet g).seals = s.seals := rfl
@[simp] theorem onRet_cfg (s : State) (g : Ret → Ret) : (s.onRet g).cfg = s.cfg := rfl
@[simp] theorem onRet_fiu (s : State) (g : Ret → Ret) : (s.onRet g).fiu = s.fiu := rfl
@[simp] theorem onRet_fgu (s : State) (g : Ret → Ret) : (s.onRet g).fgu = s.fgu := rfl
@[simp] theorem onRet_aud (s : State) (g : Ret → Ret) : (s.onRet g).aud = s.aud := rfl
@[simp] theorem onRet_vane (s : State) (g : Ret → Ret) : (s.onRet g).vane = s.vane := rfl
@[simp] theorem onRet_beu (s : State) (g : Ret → Ret) : (s.onRet g).beu = s.beu := rfl
@[simp] theorem onRet_vrd (s : State) (g : Ret → Ret) : (s.onRet g).vrd = s.vrd := rfl
@[simp] theorem onRet_slb (s : State) (g : Ret → Ret) : (s.onRet g).slb = s.slb := rfl
@[simp] theorem onRet_sml (s : State) (g : Ret → Ret) : (s.onRet g).sml = s.sml := rfl
@[simp] theorem onRet_cvu (s : State) (g : Ret → Ret) : (s.onRet g).cvu = s.cvu := rfl
@[simp] theorem onRet_xwl (s : State) (g : Ret → Ret) : (s.onRet g).xwl = s.xwl := rfl
@[simp] theorem onRet_hq (s : State) (g : Ret → Ret) : (s.onRet g).hq = s.hq := rfl
@[simp] theorem onRet_fwl (s : State) (g : Ret → Ret) : (s.onRet g).fwl = s.fwl := rfl
@[simp] theorem onRet_tsu (s : State) (g : Ret → Ret) : (s.onRet g).tsu = s.tsu := rfl
@[simp] theorem onRet_psm (s : State) (g : Ret → Ret) : (s.onRet g).psm = s.psm := rfl
@[simp] theorem onRet_mon (s : State) (g : Ret → Ret) : (s.onRet g).mon = s.mon := rfl
@[simp] theorem onRet_log (s : State) (g : Ret → Ret) : (s.onRet g).log = s.log := rfl
@[simp] theorem onRet_dbg (s : State) (g : Ret → Ret) : (s.onRet g).dbg = s.dbg := rfl
@[simp] theorem onRet_ret (s : State) (g : Ret → Ret) : (s.onRet g).ret = g s.ret := rfl
@[simp] theorem onRet_mem (s : State) (g : Ret → Ret) : (s.onRet g).mem = s.mem := rfl
@[simp] theorem onRet_poison (s : State) (g : Ret → Ret) : (s.onRet g).poison = s.poison := rfl
@[simp] theorem onRet_caps (s : State) (g : Ret → Ret) : (s.onRet g).caps = s.caps := rfl
@[simp] theorem onRet_out (s : State) (g : Ret → Ret) : (s.onRet g).out = s.out := rfl
@[simp] theorem onRet_pending (s : State) (g : Ret → Ret) : (s.onRet g).pending = s.pending := rfl

/-! ## send, draw and settle -/

@[simp] theorem send_now (s : State) (o : Output) : (s.send o).now = s.now := rfl
@[simp] theorem send_free (s : State) (o : Output) : (s.send o).free = s.free := rfl
@[simp] theorem send_sys (s : State) (o : Output) : (s.send o).sys = s.sys := rfl
@[simp] theorem send_sup (s : State) (o : Output) : (s.send o).sup = s.sup := rfl
@[simp] theorem send_clk (s : State) (o : Output) : (s.send o).clk = s.clk := rfl
@[simp] theorem send_rtc (s : State) (o : Output) : (s.send o).rtc = s.rtc := rfl
@[simp] theorem send_start (s : State) (o : Output) : (s.send o).start = s.start := rfl
@[simp] theorem send_nvm (s : State) (o : Output) : (s.send o).nvm = s.nvm := rfl
@[simp] theorem send_seals (s : State) (o : Output) : (s.send o).seals = s.seals := rfl
@[simp] theorem send_cfg (s : State) (o : Output) : (s.send o).cfg = s.cfg := rfl
@[simp] theorem send_fiu (s : State) (o : Output) : (s.send o).fiu = s.fiu := rfl
@[simp] theorem send_fgu (s : State) (o : Output) : (s.send o).fgu = s.fgu := rfl
@[simp] theorem send_aud (s : State) (o : Output) : (s.send o).aud = s.aud := rfl
@[simp] theorem send_vane (s : State) (o : Output) : (s.send o).vane = s.vane := rfl
@[simp] theorem send_beu (s : State) (o : Output) : (s.send o).beu = s.beu := rfl
@[simp] theorem send_vrd (s : State) (o : Output) : (s.send o).vrd = s.vrd := rfl
@[simp] theorem send_slb (s : State) (o : Output) : (s.send o).slb = s.slb := rfl
@[simp] theorem send_sml (s : State) (o : Output) : (s.send o).sml = s.sml := rfl
@[simp] theorem send_cvu (s : State) (o : Output) : (s.send o).cvu = s.cvu := rfl
@[simp] theorem send_xwl (s : State) (o : Output) : (s.send o).xwl = s.xwl := rfl
@[simp] theorem send_hq (s : State) (o : Output) : (s.send o).hq = s.hq := rfl
@[simp] theorem send_fwl (s : State) (o : Output) : (s.send o).fwl = s.fwl := rfl
@[simp] theorem send_tsu (s : State) (o : Output) : (s.send o).tsu = s.tsu := rfl
@[simp] theorem send_psm (s : State) (o : Output) : (s.send o).psm = s.psm := rfl
@[simp] theorem send_mon (s : State) (o : Output) : (s.send o).mon = s.mon := rfl
@[simp] theorem send_log (s : State) (o : Output) : (s.send o).log = s.log := rfl
@[simp] theorem send_dbg (s : State) (o : Output) : (s.send o).dbg = s.dbg := rfl
@[simp] theorem send_ret (s : State) (o : Output) : (s.send o).ret = s.ret := rfl
@[simp] theorem send_mem (s : State) (o : Output) : (s.send o).mem = s.mem := rfl
@[simp] theorem send_poison (s : State) (o : Output) : (s.send o).poison = s.poison := rfl
@[simp] theorem send_caps (s : State) (o : Output) : (s.send o).caps = s.caps := rfl
@[simp] theorem send_out (s : State) (o : Output) : (s.send o).out = s.out ++ [o] := rfl
@[simp] theorem send_pending (s : State) (o : Output) : (s.send o).pending = s.pending := rfl

@[simp] theorem draw_value (s : State) : s.draw.1 = Config.freeValue s.free := rfl

@[simp] theorem draw_now (s : State) : s.draw.2.now = s.now := rfl
@[simp] theorem draw_free (s : State) : s.draw.2.free = s.free + 1 := rfl
@[simp] theorem draw_sys (s : State) : s.draw.2.sys = s.sys := rfl
@[simp] theorem draw_sup (s : State) : s.draw.2.sup = s.sup := rfl
@[simp] theorem draw_clk (s : State) : s.draw.2.clk = s.clk := rfl
@[simp] theorem draw_rtc (s : State) : s.draw.2.rtc = s.rtc := rfl
@[simp] theorem draw_start (s : State) : s.draw.2.start = s.start := rfl
@[simp] theorem draw_nvm (s : State) : s.draw.2.nvm = s.nvm := rfl
@[simp] theorem draw_seals (s : State) : s.draw.2.seals = s.seals := rfl
@[simp] theorem draw_cfg (s : State) : s.draw.2.cfg = s.cfg := rfl
@[simp] theorem draw_fiu (s : State) : s.draw.2.fiu = s.fiu := rfl
@[simp] theorem draw_fgu (s : State) : s.draw.2.fgu = s.fgu := rfl
@[simp] theorem draw_aud (s : State) : s.draw.2.aud = s.aud := rfl
@[simp] theorem draw_vane (s : State) : s.draw.2.vane = s.vane := rfl
@[simp] theorem draw_beu (s : State) : s.draw.2.beu = s.beu := rfl
@[simp] theorem draw_vrd (s : State) : s.draw.2.vrd = s.vrd := rfl
@[simp] theorem draw_slb (s : State) : s.draw.2.slb = s.slb := rfl
@[simp] theorem draw_sml (s : State) : s.draw.2.sml = s.sml := rfl
@[simp] theorem draw_cvu (s : State) : s.draw.2.cvu = s.cvu := rfl
@[simp] theorem draw_xwl (s : State) : s.draw.2.xwl = s.xwl := rfl
@[simp] theorem draw_hq (s : State) : s.draw.2.hq = s.hq := rfl
@[simp] theorem draw_fwl (s : State) : s.draw.2.fwl = s.fwl := rfl
@[simp] theorem draw_tsu (s : State) : s.draw.2.tsu = s.tsu := rfl
@[simp] theorem draw_psm (s : State) : s.draw.2.psm = s.psm := rfl
@[simp] theorem draw_mon (s : State) : s.draw.2.mon = s.mon := rfl
@[simp] theorem draw_log (s : State) : s.draw.2.log = s.log := rfl
@[simp] theorem draw_dbg (s : State) : s.draw.2.dbg = s.dbg := rfl
@[simp] theorem draw_ret (s : State) : s.draw.2.ret = s.ret := rfl
@[simp] theorem draw_mem (s : State) : s.draw.2.mem = s.mem := rfl
@[simp] theorem draw_poison (s : State) : s.draw.2.poison = s.poison := rfl
@[simp] theorem draw_caps (s : State) : s.draw.2.caps = s.caps := rfl
@[simp] theorem draw_out (s : State) : s.draw.2.out = s.out := rfl
@[simp] theorem draw_pending (s : State) : s.draw.2.pending = s.pending := rfl

@[simp] theorem settle_now (s : State) : (settle s).now = s.now := rfl
@[simp] theorem settle_free (s : State) : (settle s).free = s.free := rfl
@[simp] theorem settle_sys (s : State) : (settle s).sys = s.sys := rfl
@[simp] theorem settle_sup (s : State) : (settle s).sup = s.sup := rfl
@[simp] theorem settle_clk (s : State) : (settle s).clk = s.clk := rfl
@[simp] theorem settle_rtc (s : State) : (settle s).rtc = s.rtc := rfl
@[simp] theorem settle_start (s : State) : (settle s).start = s.start := rfl
@[simp] theorem settle_nvm (s : State) : (settle s).nvm = s.nvm := rfl
@[simp] theorem settle_seals (s : State) : (settle s).seals = s.seals := rfl
@[simp] theorem settle_cfg (s : State) : (settle s).cfg = s.cfg := rfl
@[simp] theorem settle_fiu (s : State) : (settle s).fiu = s.fiu := rfl
@[simp] theorem settle_fgu (s : State) : (settle s).fgu = s.fgu := rfl
@[simp] theorem settle_aud (s : State) : (settle s).aud = s.aud := rfl
@[simp] theorem settle_vane (s : State) : (settle s).vane = s.vane := rfl
@[simp] theorem settle_beu (s : State) : (settle s).beu = s.beu := rfl
@[simp] theorem settle_vrd (s : State) : (settle s).vrd = s.vrd := rfl
@[simp] theorem settle_sml (s : State) : (settle s).sml = s.sml := rfl
@[simp] theorem settle_cvu (s : State) : (settle s).cvu = s.cvu := rfl
@[simp] theorem settle_xwl (s : State) : (settle s).xwl = s.xwl := rfl
@[simp] theorem settle_hq (s : State) : (settle s).hq = s.hq := rfl
@[simp] theorem settle_fwl (s : State) : (settle s).fwl = s.fwl := rfl
@[simp] theorem settle_tsu (s : State) : (settle s).tsu = s.tsu := rfl
@[simp] theorem settle_psm (s : State) : (settle s).psm = s.psm := rfl
@[simp] theorem settle_mon (s : State) : (settle s).mon = s.mon := rfl
@[simp] theorem settle_log (s : State) : (settle s).log = s.log := rfl
@[simp] theorem settle_dbg (s : State) : (settle s).dbg = s.dbg := rfl
@[simp] theorem settle_ret (s : State) : (settle s).ret = s.ret := rfl
@[simp] theorem settle_mem (s : State) : (settle s).mem = s.mem := rfl
@[simp] theorem settle_poison (s : State) : (settle s).poison = s.poison := rfl
@[simp] theorem settle_caps (s : State) : (settle s).caps = s.caps := rfl
@[simp] theorem settle_out (s : State) : (settle s).out = s.out := rfl
@[simp] theorem settle_pending (s : State) : (settle s).pending = s.pending := rfl

@[simp] theorem settle_stoPin (s : State) : (settle s).slb.stoPin = s.slb.stoCmd.map (· && s.sys.tqen) := rfl
@[simp] theorem settle_brkPin (s : State) : (settle s).slb.brkPin = s.slb.brkCmd.map (· && s.sys.tqen) := rfl
@[simp] theorem settle_chainPin (s : State) : (settle s).slb.chainPin = s.slb.chainCmd := rfl

@[simp] theorem settle_slb_inputs (s : State) : (settle s).slb.inputs = s.slb.inputs := rfl
@[simp] theorem settle_slb_chain (s : State) : (settle s).slb.chain = s.slb.chain := rfl
@[simp] theorem settle_slb_groups (s : State) : (settle s).slb.groups = s.slb.groups := rfl
@[simp] theorem settle_slb_qe (s : State) : (settle s).slb.qe = s.slb.qe := rfl
@[simp] theorem settle_slb_brakes (s : State) : (settle s).slb.brakes = s.slb.brakes := rfl
@[simp] theorem settle_slb_stoCmd (s : State) : (settle s).slb.stoCmd = s.slb.stoCmd := rfl
@[simp] theorem settle_slb_brkCmd (s : State) : (settle s).slb.brkCmd = s.slb.brkCmd := rfl
@[simp] theorem settle_slb_chainCmd (s : State) : (settle s).slb.chainCmd = s.slb.chainCmd := rfl
@[simp] theorem settle_slb_chainAt (s : State) : (settle s).slb.chainAt = s.slb.chainAt := rfl
@[simp] theorem settle_slb_active (s : State) : (settle s).slb.active = s.slb.active := rfl
@[simp] theorem settle_slb_first (s : State) : (settle s).slb.first = s.slb.first := rfl
@[simp] theorem settle_slb_latest (s : State) : (settle s).slb.latest = s.slb.latest := rfl
@[simp] theorem settle_slb_toSp (s : State) : (settle s).slb.toSp = s.slb.toSp := rfl
@[simp] theorem settle_slb_stops (s : State) : (settle s).slb.stops = s.slb.stops := rfl
@[simp] theorem settle_slb_due (s : State) : (settle s).slb.due = s.slb.due := rfl
@[simp] theorem settle_slb_report (s : State) : (settle s).slb.report = s.slb.report := rfl
@[simp] theorem settle_slb_before (s : State) : (settle s).slb.before = s.slb.before := rfl
@[simp] theorem settle_slb_permit (s : State) : (settle s).slb.permit = s.slb.permit := rfl
@[simp] theorem settle_slb_restarted (s : State) : (settle s).slb.restarted = s.slb.restarted := rfl
@[simp] theorem settle_slb_armed (s : State) : (settle s).slb.armed = s.slb.armed := rfl
@[simp] theorem settle_slb_ackEdge (s : State) : (settle s).slb.ackEdge = s.slb.ackEdge := rfl
@[simp] theorem settle_slb_reqA (s : State) : (settle s).slb.reqA = s.slb.reqA := rfl
@[simp] theorem settle_slb_reqSrc (s : State) : (settle s).slb.reqSrc = s.slb.reqSrc := rfl
@[simp] theorem settle_slb_reqASince (s : State) : (settle s).slb.reqASince = s.slb.reqASince := rfl
@[simp] theorem settle_slb_reqB (s : State) : (settle s).slb.reqB = s.slb.reqB := rfl
@[simp] theorem settle_slb_reqBSince (s : State) : (settle s).slb.reqBSince = s.slb.reqBSince := rfl
@[simp] theorem settle_slb_filtA (s : State) : (settle s).slb.filtA = s.slb.filtA := rfl
@[simp] theorem settle_slb_filtB (s : State) : (settle s).slb.filtB = s.slb.filtB := rfl
@[simp] theorem settle_slb_disagree (s : State) : (settle s).slb.disagree = s.slb.disagree := rfl
@[simp] theorem settle_slb_beat (s : State) : (settle s).slb.beat = s.slb.beat := rfl
@[simp] theorem settle_slb_beatAt (s : State) : (settle s).slb.beatAt = s.slb.beatAt := rfl
@[simp] theorem settle_slb_beatOk (s : State) : (settle s).slb.beatOk = s.slb.beatOk := rfl
@[simp] theorem settle_slb_link (s : State) : (settle s).slb.link = s.slb.link := rfl
@[simp] theorem settle_slb_degElapsed (s : State) : (settle s).slb.degElapsed = s.slb.degElapsed := rfl
@[simp] theorem settle_slb_degRun (s : State) : (settle s).slb.degRun = s.slb.degRun := rfl
@[simp] theorem settle_slb_degDue (s : State) : (settle s).slb.degDue = s.slb.degDue := rfl
@[simp] theorem settle_slb_holdAt (s : State) : (settle s).slb.holdAt = s.slb.holdAt := rfl
@[simp] theorem settle_slb_io (s : State) : (settle s).slb.io = s.slb.io := rfl
@[simp] theorem settle_slb_supplyTrip (s : State) : (settle s).slb.supplyTrip = s.slb.supplyTrip := rfl
@[simp] theorem settle_slb_laneDiff (s : State) : (settle s).slb.laneDiff = s.slb.laneDiff := rfl
@[simp] theorem settle_slb_outFault (s : State) : (settle s).slb.outFault = s.slb.outFault := rfl
@[simp] theorem settle_slb_paramCrc (s : State) : (settle s).slb.paramCrc = s.slb.paramCrc := rfl
@[simp] theorem settle_slb_hbOut (s : State) : (settle s).slb.hbOut = s.slb.hbOut := rfl
@[simp] theorem settle_slb_outSeen (s : State) : (settle s).slb.outSeen = s.slb.outSeen := rfl
@[simp] theorem settle_slb_mirror (s : State) : (settle s).slb.mirror = s.slb.mirror := rfl

/-! ## The instant of a command -/

@[simp] theorem at_out (s : State) (t : Nat) : (s.at t).out = [] := by
  simp only [State.at]; split <;> rfl
@[simp] theorem at_pending (s : State) (t : Nat) : (s.at t).pending = s.pending := by
  simp only [State.at]; split <;> rfl
/-- An instant never lies before the last one. -/
@[simp] theorem at_now (s : State) (t : Nat) : (s.at t).now = max s.now t := by
  simp only [State.at]; split <;> simp only <;> omega
@[simp] theorem at_free (s : State) (t : Nat) : (s.at t).free = s.free := by
  simp only [State.at]; split <;> rfl
@[simp] theorem at_sup (s : State) (t : Nat) : (s.at t).sup = s.sup := by
  simp only [State.at]; split <;> rfl
@[simp] theorem at_rtc (s : State) (t : Nat) : (s.at t).rtc = s.rtc := by
  simp only [State.at]; split <;> rfl
@[simp] theorem at_start (s : State) (t : Nat) : (s.at t).start = s.start := by
  simp only [State.at]; split <;> rfl
@[simp] theorem at_seals (s : State) (t : Nat) : (s.at t).seals = s.seals := by
  simp only [State.at]; split <;> rfl
@[simp] theorem at_cfg (s : State) (t : Nat) : (s.at t).cfg = s.cfg := by
  simp only [State.at]; split <;> rfl
@[simp] theorem at_fiu (s : State) (t : Nat) : (s.at t).fiu = s.fiu := by
  simp only [State.at]; split <;> rfl
@[simp] theorem at_fgu (s : State) (t : Nat) : (s.at t).fgu = s.fgu := by
  simp only [State.at]; split <;> rfl
@[simp] theorem at_aud (s : State) (t : Nat) : (s.at t).aud = s.aud := by
  simp only [State.at]; split <;> rfl
@[simp] theorem at_vane (s : State) (t : Nat) : (s.at t).vane = s.vane := by
  simp only [State.at]; split <;> rfl
@[simp] theorem at_beu (s : State) (t : Nat) : (s.at t).beu = s.beu := by
  simp only [State.at]; split <;> rfl
@[simp] theorem at_vrd (s : State) (t : Nat) : (s.at t).vrd = s.vrd := by
  simp only [State.at]; split <;> rfl
@[simp] theorem at_sml (s : State) (t : Nat) : (s.at t).sml = s.sml := by
  simp only [State.at]; split <;> rfl
@[simp] theorem at_cvu (s : State) (t : Nat) : (s.at t).cvu = s.cvu := by
  simp only [State.at]; split <;> rfl
@[simp] theorem at_xwl (s : State) (t : Nat) : (s.at t).xwl = s.xwl := by
  simp only [State.at]; split <;> rfl
@[simp] theorem at_hq (s : State) (t : Nat) : (s.at t).hq = s.hq := by
  simp only [State.at]; split <;> rfl
@[simp] theorem at_fwl (s : State) (t : Nat) : (s.at t).fwl = s.fwl := by
  simp only [State.at]; split <;> rfl
@[simp] theorem at_tsu (s : State) (t : Nat) : (s.at t).tsu = s.tsu := by
  simp only [State.at]; split <;> rfl
@[simp] theorem at_mon (s : State) (t : Nat) : (s.at t).mon = s.mon := by
  simp only [State.at]; split <;> rfl
@[simp] theorem at_log (s : State) (t : Nat) : (s.at t).log = s.log := by
  simp only [State.at]; split <;> rfl
@[simp] theorem at_dbg (s : State) (t : Nat) : (s.at t).dbg = s.dbg := by
  simp only [State.at]; split <;> rfl
@[simp] theorem at_ret (s : State) (t : Nat) : (s.at t).ret = s.ret := by
  simp only [State.at]; split <;> rfl
@[simp] theorem at_mem (s : State) (t : Nat) : (s.at t).mem = s.mem := by
  simp only [State.at]; split <;> rfl
@[simp] theorem at_poison (s : State) (t : Nat) : (s.at t).poison = s.poison := by
  simp only [State.at]; split <;> rfl
@[simp] theorem at_caps (s : State) (t : Nat) : (s.at t).caps = s.caps := by
  simp only [State.at]; split <;> rfl

/-! ## Lists used as register files -/

@[simp] theorem modN_length {α : Type} (l : List α) (i : Nat) (f : α → α) : (modN l i f).length = l.length := by
  induction l generalizing i with
  | nil => rfl
  | cons a r ih => cases i <;> simp [modN, ih]

@[simp] theorem getN_modN_self {α : Type} [Inhabited α] (l : List α) (i : Nat) (f : α → α) (h : i < l.length) :
    getN (modN l i f) i = f (getN l i) := by
  induction l generalizing i with
  | nil => simp at h
  | cons a r ih =>
    cases i with
    | zero => rfl
    | succ n => simpa [getN, modN] using ih n (by simpa using h)

@[simp] theorem getN_modN_ne {α : Type} [Inhabited α] (l : List α) (i j : Nat) (f : α → α) (h : j ≠ i) :
    getN (modN l i f) j = getN l j := by
  induction l generalizing i j with
  | nil => rfl
  | cons a r ih =>
    cases i <;> cases j
    · exact absurd rfl h
    · rfl
    · rfl
    · rename_i n k
      simpa [getN, modN] using ih n k (by omega)

/-! ## Fields that the passage of time leaves -/

@[simp] theorem at_sys_state (s : State) (t : Nat) : (s.at t).sys.state = s.sys.state := by
  unfold State.at; dsimp only; split <;> rfl

@[simp] theorem at_sys_tripSrc (s : State) (t : Nat) : (s.at t).sys.tripSrc = s.sys.tripSrc := by
  unfold State.at; dsimp only; split <;> rfl

@[simp] theorem at_sys_tqen (s : State) (t : Nat) : (s.at t).sys.tqen = s.sys.tqen := by
  unfold State.at; dsimp only; split <;> rfl

@[simp] theorem at_sys_armedAt (s : State) (t : Nat) : (s.at t).sys.armedAt = s.sys.armedAt := by
  unfold State.at; dsimp only; split <;> rfl

@[simp] theorem at_sys_pendTrips (s : State) (t : Nat) : (s.at t).sys.pendTrips = s.sys.pendTrips := by
  unfold State.at; dsimp only; split <;> rfl

@[simp] theorem at_sys_active (s : State) (t : Nat) : (s.at t).sys.active = s.sys.active := by
  unfold State.at; dsimp only; split <;> rfl

@[simp] theorem at_sys_tolSeen (s : State) (t : Nat) : (s.at t).sys.tolSeen = s.sys.tolSeen := by
  unfold State.at; dsimp only; split <;> rfl

@[simp] theorem at_sys_degRun (s : State) (t : Nat) : (s.at t).sys.degRun = s.sys.degRun := by
  unfold State.at; dsimp only; split <;> rfl

@[simp] theorem at_sys_degDue (s : State) (t : Nat) : (s.at t).sys.degDue = s.sys.degDue := by
  unfold State.at; dsimp only; split <;> rfl

@[simp] theorem at_sys_ss1At (s : State) (t : Nat) : (s.at t).sys.ss1At = s.sys.ss1At := by
  unfold State.at; dsimp only; split <;> rfl

@[simp] theorem at_sys_req (s : State) (t : Nat) : (s.at t).sys.req = s.sys.req := by
  unfold State.at; dsimp only; split <;> rfl

@[simp] theorem at_sys_reqSrc (s : State) (t : Nat) : (s.at t).sys.reqSrc = s.sys.reqSrc := by
  unfold State.at; dsimp only; split <;> rfl

@[simp] theorem at_sys_reqAt (s : State) (t : Nat) : (s.at t).sys.reqAt = s.sys.reqAt := by
  unfold State.at; dsimp only; split <;> rfl

@[simp] theorem at_sys_cut (s : State) (t : Nat) : (s.at t).sys.cut = s.sys.cut := by
  unfold State.at; dsimp only; split <;> rfl

@[simp] theorem at_sys_dbgDue (s : State) (t : Nat) : (s.at t).sys.dbgDue = s.sys.dbgDue := by
  unfold State.at; dsimp only; split <;> rfl

@[simp] theorem at_sys_powerFail (s : State) (t : Nat) : (s.at t).sys.powerFail = s.sys.powerFail := by
  unfold State.at; dsimp only; split <;> rfl

@[simp] theorem at_sys_internal (s : State) (t : Nat) : (s.at t).sys.internal = s.sys.internal := by
  unfold State.at; dsimp only; split <;> rfl

@[simp] theorem at_sys_cycle (s : State) (t : Nat) : (s.at t).sys.cycle = s.sys.cycle := by
  unfold State.at; dsimp only; split <;> rfl

@[simp] theorem at_sys_spHeld (s : State) (t : Nat) : (s.at t).sys.spHeld = s.sys.spHeld := by
  unfold State.at; dsimp only; split <;> rfl

@[simp] theorem at_slb_inputs (s : State) (t : Nat) : (s.at t).slb.inputs = s.slb.inputs := by
  unfold State.at; dsimp only; split <;> rfl

@[simp] theorem at_slb_chain (s : State) (t : Nat) : (s.at t).slb.chain = s.slb.chain := by
  unfold State.at; dsimp only; split <;> rfl

@[simp] theorem at_slb_groups (s : State) (t : Nat) : (s.at t).slb.groups = s.slb.groups := by
  unfold State.at; dsimp only; split <;> rfl

@[simp] theorem at_slb_qe (s : State) (t : Nat) : (s.at t).slb.qe = s.slb.qe := by
  unfold State.at; dsimp only; split <;> rfl

@[simp] theorem at_slb_brakes (s : State) (t : Nat) : (s.at t).slb.brakes = s.slb.brakes := by
  unfold State.at; dsimp only; split <;> rfl

@[simp] theorem at_slb_stoCmd (s : State) (t : Nat) : (s.at t).slb.stoCmd = s.slb.stoCmd := by
  unfold State.at; dsimp only; split <;> rfl

@[simp] theorem at_slb_stoPin (s : State) (t : Nat) : (s.at t).slb.stoPin = s.slb.stoPin := by
  unfold State.at; dsimp only; split <;> rfl

@[simp] theorem at_slb_brkCmd (s : State) (t : Nat) : (s.at t).slb.brkCmd = s.slb.brkCmd := by
  unfold State.at; dsimp only; split <;> rfl

@[simp] theorem at_slb_brkPin (s : State) (t : Nat) : (s.at t).slb.brkPin = s.slb.brkPin := by
  unfold State.at; dsimp only; split <;> rfl

@[simp] theorem at_slb_chainCmd (s : State) (t : Nat) : (s.at t).slb.chainCmd = s.slb.chainCmd := by
  unfold State.at; dsimp only; split <;> rfl

@[simp] theorem at_slb_chainPin (s : State) (t : Nat) : (s.at t).slb.chainPin = s.slb.chainPin := by
  unfold State.at; dsimp only; split <;> rfl

@[simp] theorem at_slb_chainAt (s : State) (t : Nat) : (s.at t).slb.chainAt = s.slb.chainAt := by
  unfold State.at; dsimp only; split <;> rfl

@[simp] theorem at_slb_active (s : State) (t : Nat) : (s.at t).slb.active = s.slb.active := by
  unfold State.at; dsimp only; split <;> rfl

@[simp] theorem at_slb_first (s : State) (t : Nat) : (s.at t).slb.first = s.slb.first := by
  unfold State.at; dsimp only; split <;> rfl

@[simp] theorem at_slb_latest (s : State) (t : Nat) : (s.at t).slb.latest = s.slb.latest := by
  unfold State.at; dsimp only; split <;> rfl

@[simp] theorem at_slb_toSp (s : State) (t : Nat) : (s.at t).slb.toSp = s.slb.toSp := by
  unfold State.at; dsimp only; split <;> rfl

@[simp] theorem at_slb_stops (s : State) (t : Nat) : (s.at t).slb.stops = s.slb.stops := by
  unfold State.at; dsimp only; split <;> rfl

@[simp] theorem at_slb_due (s : State) (t : Nat) : (s.at t).slb.due = s.slb.due := by
  unfold State.at; dsimp only; split <;> rfl

@[simp] theorem at_slb_report (s : State) (t : Nat) : (s.at t).slb.report = s.slb.report := by
  unfold State.at; dsimp only; split <;> rfl

@[simp] theorem at_slb_before (s : State) (t : Nat) : (s.at t).slb.before = s.slb.before := by
  unfold State.at; dsimp only; split <;> rfl

@[simp] theorem at_slb_permit (s : State) (t : Nat) : (s.at t).slb.permit = s.slb.permit := by
  unfold State.at; dsimp only; split <;> rfl

@[simp] theorem at_slb_restarted (s : State) (t : Nat) : (s.at t).slb.restarted = s.slb.restarted := by
  unfold State.at; dsimp only; split <;> rfl

@[simp] theorem at_slb_armed (s : State) (t : Nat) : (s.at t).slb.armed = s.slb.armed := by
  unfold State.at; dsimp only; split <;> rfl

@[simp] theorem at_slb_ackEdge (s : State) (t : Nat) : (s.at t).slb.ackEdge = s.slb.ackEdge := by
  unfold State.at; dsimp only; split <;> rfl

@[simp] theorem at_slb_reqA (s : State) (t : Nat) : (s.at t).slb.reqA = s.slb.reqA := by
  unfold State.at; dsimp only; split <;> rfl

@[simp] theorem at_slb_reqSrc (s : State) (t : Nat) : (s.at t).slb.reqSrc = s.slb.reqSrc := by
  unfold State.at; dsimp only; split <;> rfl

@[simp] theorem at_slb_reqASince (s : State) (t : Nat) : (s.at t).slb.reqASince = s.slb.reqASince := by
  unfold State.at; dsimp only; split <;> rfl

@[simp] theorem at_slb_reqB (s : State) (t : Nat) : (s.at t).slb.reqB = s.slb.reqB := by
  unfold State.at; dsimp only; split <;> rfl

@[simp] theorem at_slb_reqBSince (s : State) (t : Nat) : (s.at t).slb.reqBSince = s.slb.reqBSince := by
  unfold State.at; dsimp only; split <;> rfl

@[simp] theorem at_slb_filtA (s : State) (t : Nat) : (s.at t).slb.filtA = s.slb.filtA := by
  unfold State.at; dsimp only; split <;> rfl

@[simp] theorem at_slb_filtB (s : State) (t : Nat) : (s.at t).slb.filtB = s.slb.filtB := by
  unfold State.at; dsimp only; split <;> rfl

@[simp] theorem at_slb_disagree (s : State) (t : Nat) : (s.at t).slb.disagree = s.slb.disagree := by
  unfold State.at; dsimp only; split <;> rfl

@[simp] theorem at_slb_beat (s : State) (t : Nat) : (s.at t).slb.beat = s.slb.beat := by
  unfold State.at; dsimp only; split <;> rfl

@[simp] theorem at_slb_beatAt (s : State) (t : Nat) : (s.at t).slb.beatAt = s.slb.beatAt := by
  unfold State.at; dsimp only; split <;> rfl

@[simp] theorem at_slb_beatOk (s : State) (t : Nat) : (s.at t).slb.beatOk = s.slb.beatOk := by
  unfold State.at; dsimp only; split <;> rfl

@[simp] theorem at_slb_link (s : State) (t : Nat) : (s.at t).slb.link = s.slb.link := by
  unfold State.at; dsimp only; split <;> rfl

@[simp] theorem at_slb_degRun (s : State) (t : Nat) : (s.at t).slb.degRun = s.slb.degRun := by
  unfold State.at; dsimp only; split <;> rfl

@[simp] theorem at_slb_degDue (s : State) (t : Nat) : (s.at t).slb.degDue = s.slb.degDue := by
  unfold State.at; dsimp only; split <;> rfl

@[simp] theorem at_slb_holdAt (s : State) (t : Nat) : (s.at t).slb.holdAt = s.slb.holdAt := by
  unfold State.at; dsimp only; split <;> rfl

@[simp] theorem at_slb_io (s : State) (t : Nat) : (s.at t).slb.io = s.slb.io := by
  unfold State.at; dsimp only; split <;> rfl

@[simp] theorem at_slb_supplyTrip (s : State) (t : Nat) : (s.at t).slb.supplyTrip = s.slb.supplyTrip := by
  unfold State.at; dsimp only; split <;> rfl

@[simp] theorem at_slb_laneDiff (s : State) (t : Nat) : (s.at t).slb.laneDiff = s.slb.laneDiff := by
  unfold State.at; dsimp only; split <;> rfl

@[simp] theorem at_slb_outFault (s : State) (t : Nat) : (s.at t).slb.outFault = s.slb.outFault := by
  unfold State.at; dsimp only; split <;> rfl

@[simp] theorem at_slb_paramCrc (s : State) (t : Nat) : (s.at t).slb.paramCrc = s.slb.paramCrc := by
  unfold State.at; dsimp only; split <;> rfl

@[simp] theorem at_clk_addend (s : State) (t : Nat) : (s.at t).clk.addend = s.clk.addend := by
  unfold State.at; dsimp only; split <;> first | rfl | (simp only [Clk.advance]; split <;> rfl)

@[simp] theorem at_clk_sync (s : State) (t : Nat) : (s.at t).clk.sync = s.clk.sync := by
  unfold State.at; dsimp only; split <;> first | rfl | (simp only [Clk.advance]; split <;> rfl)

@[simp] theorem at_clk_port (s : State) (t : Nat) : (s.at t).clk.port = s.clk.port := by
  unfold State.at; dsimp only; split <;> first | rfl | (simp only [Clk.advance]; split <;> rfl)

@[simp] theorem at_clk_disagree (s : State) (t : Nat) : (s.at t).clk.disagree = s.clk.disagree := by
  unfold State.at; dsimp only; split <;> first | rfl | (simp only [Clk.advance]; split <;> rfl)

@[simp] theorem at_clk_lostAt (s : State) (t : Nat) : (s.at t).clk.lostAt = s.clk.lostAt := by
  unfold State.at; dsimp only; split <;> first | rfl | (simp only [Clk.advance]; split <;> rfl)

@[simp] theorem at_clk_offset (s : State) (t : Nat) : (s.at t).clk.offset = s.clk.offset := by
  unfold State.at; dsimp only; split <;> first | rfl | (simp only [Clk.advance]; split <;> rfl)

@[simp] theorem at_clk_gms (s : State) (t : Nat) : (s.at t).clk.gms = s.clk.gms := by
  unfold State.at; dsimp only; split <;> first | rfl | (simp only [Clk.advance]; split <;> rfl)

@[simp] theorem at_clk_offs (s : State) (t : Nat) : (s.at t).clk.offs = s.clk.offs := by
  unfold State.at; dsimp only; split <;> first | rfl | (simp only [Clk.advance]; split <;> rfl)

@[simp] theorem at_clk_gm (s : State) (t : Nat) : (s.at t).clk.gm = s.clk.gm := by
  unfold State.at; dsimp only; split <;> first | rfl | (simp only [Clk.advance]; split <;> rfl)

@[simp] theorem at_clk_inLock (s : State) (t : Nat) : (s.at t).clk.inLock = s.clk.inLock := by
  unfold State.at; dsimp only; split <;> first | rfl | (simp only [Clk.advance]; split <;> rfl)

@[simp] theorem at_clk_disSince (s : State) (t : Nat) : (s.at t).clk.disSince = s.clk.disSince := by
  unfold State.at; dsimp only; split <;> first | rfl | (simp only [Clk.advance]; split <;> rfl)

@[simp] theorem at_clk_acOk (s : State) (t : Nat) : (s.at t).clk.acOk = s.clk.acOk := by
  unfold State.at; dsimp only; split <;> first | rfl | (simp only [Clk.advance]; split <;> rfl)

@[simp] theorem at_clk_spOk (s : State) (t : Nat) : (s.at t).clk.spOk = s.clk.spOk := by
  unfold State.at; dsimp only; split <;> first | rfl | (simp only [Clk.advance]; split <;> rfl)

@[simp] theorem at_clk_fabOk (s : State) (t : Nat) : (s.at t).clk.fabOk = s.clk.fabOk := by
  unfold State.at; dsimp only; split <;> first | rfl | (simp only [Clk.advance]; split <;> rfl)

@[simp] theorem at_clk_msOk (s : State) (t : Nat) : (s.at t).clk.msOk = s.clk.msOk := by
  unfold State.at; dsimp only; split <;> first | rfl | (simp only [Clk.advance]; split <;> rfl)

@[simp] theorem at_clk_pcieOk (s : State) (t : Nat) : (s.at t).clk.pcieOk = s.clk.pcieOk := by
  unfold State.at; dsimp only; split <;> first | rfl | (simp only [Clk.advance]; split <;> rfl)

@[simp] theorem at_clk_ethOk (s : State) (t : Nat) : (s.at t).clk.ethOk = s.clk.ethOk := by
  unfold State.at; dsimp only; split <;> first | rfl | (simp only [Clk.advance]; split <;> rfl)

@[simp] theorem at_clk_csiOk (s : State) (t : Nat) : (s.at t).clk.csiOk = s.clk.csiOk := by
  unfold State.at; dsimp only; split <;> first | rfl | (simp only [Clk.advance]; split <;> rfl)

@[simp] theorem at_clk_xwlOk (s : State) (t : Nat) : (s.at t).clk.xwlOk = s.clk.xwlOk := by
  unfold State.at; dsimp only; split <;> first | rfl | (simp only [Clk.advance]; split <;> rfl)

@[simp] theorem at_clk_rtcOk (s : State) (t : Nat) : (s.at t).clk.rtcOk = s.clk.rtcOk := by
  unfold State.at; dsimp only; split <;> first | rfl | (simp only [Clk.advance]; split <;> rfl)

@[simp] theorem at_clk_ptpOk (s : State) (t : Nat) : (s.at t).clk.ptpOk = s.clk.ptpOk := by
  unfold State.at; dsimp only; split <;> first | rfl | (simp only [Clk.advance]; split <;> rfl)

@[simp] theorem at_clk_backup (s : State) (t : Nat) : (s.at t).clk.backup = s.clk.backup := by
  unfold State.at; dsimp only; split <;> first | rfl | (simp only [Clk.advance]; split <;> rfl)

@[simp] theorem at_clk_failSeen (s : State) (t : Nat) : (s.at t).clk.failSeen = s.clk.failSeen := by
  unfold State.at; dsimp only; split <;> first | rfl | (simp only [Clk.advance]; split <;> rfl)

@[simp] theorem at_clk_okSince (s : State) (t : Nat) : (s.at t).clk.okSince = s.clk.okSince := by
  unfold State.at; dsimp only; split <;> first | rfl | (simp only [Clk.advance]; split <;> rfl)

@[simp] theorem at_clk_trigs (s : State) (t : Nat) : (s.at t).clk.trigs = s.clk.trigs := by
  unfold State.at; dsimp only; split <;> first | rfl | (simp only [Clk.advance]; split <;> rfl)

@[simp] theorem at_sys_degHeld (s : State) (t : Nat) : (s.at t).sys.degHeld = s.sys.degHeld := by
  unfold State.at; dsimp only; split <;> rfl

@[simp] theorem at_slb_hbOut (s : State) (t : Nat) : (s.at t).slb.hbOut = s.slb.hbOut := by
  unfold State.at; dsimp only; split <;> rfl

@[simp] theorem at_slb_outSeen (s : State) (t : Nat) : (s.at t).slb.outSeen = s.slb.outSeen := by
  unfold State.at; dsimp only; split <;> rfl

@[simp] theorem at_slb_mirror (s : State) (t : Nat) : (s.at t).slb.mirror = s.slb.mirror := by
  unfold State.at; dsimp only; split <;> rfl

@[simp] theorem at_clk_disLogged (s : State) (t : Nat) : (s.at t).clk.disLogged = s.clk.disLogged := by
  unfold State.at; dsimp only; split <;> first | rfl | (simp only [Clk.advance]; split <;> rfl)

@[simp] theorem at_clk_lockAt (s : State) (t : Nat) : (s.at t).clk.lockAt = s.clk.lockAt := by
  unfold State.at; dsimp only; split <;> first | rfl | (simp only [Clk.advance]; split <;> rfl)

@[simp] theorem at_psm_poweredAt (s : State) (t : Nat) : (s.at t).psm.poweredAt = s.psm.poweredAt := by
  unfold State.at; dsimp only; split <;> rfl

@[simp] theorem at_nvm_counter (s : State) (t : Nat) : (s.at t).nvm.counter = s.nvm.counter := by
  unfold State.at; dsimp only; split <;> rfl

@[simp] theorem at_nvm_hist (s : State) (t : Nat) : (s.at t).nvm.hist = s.nvm.hist := by
  unfold State.at; dsimp only; split <;> rfl

@[simp] theorem at_nvm_cpStream (s : State) (t : Nat) : (s.at t).nvm.cpStream = s.nvm.cpStream := by
  unfold State.at; dsimp only; split <;> rfl

@[simp] theorem at_nvm_cpResult (s : State) (t : Nat) : (s.at t).nvm.cpResult = s.nvm.cpResult := by
  unfold State.at; dsimp only; split <;> rfl

@[simp] theorem at_nvm_cpToken (s : State) (t : Nat) : (s.at t).nvm.cpToken = s.nvm.cpToken := by
  unfold State.at; dsimp only; split <;> rfl

@[simp] theorem at_nvm_cpWrites (s : State) (t : Nat) : (s.at t).nvm.cpWrites = s.nvm.cpWrites := by
  unfold State.at; dsimp only; split <;> rfl

@[simp] theorem at_nvm_params (s : State) (t : Nat) : (s.at t).nvm.params = s.nvm.params := by
  unfold State.at; dsimp only; split <;> rfl

@[simp] theorem at_nvm_floor (s : State) (t : Nat) : (s.at t).nvm.floor = s.nvm.floor := by
  unfold State.at; dsimp only; split <;> rfl

@[simp] theorem at_nvm_reason (s : State) (t : Nat) : (s.at t).nvm.reason = s.nvm.reason := by
  unfold State.at; dsimp only; split <;> rfl

@[simp] theorem at_psm_state (s : State) (t : Nat) : (s.at t).psm.state = s.psm.state := by
  unfold State.at; dsimp only; split <;> rfl

@[simp] theorem at_psm_entering (s : State) (t : Nat) : (s.at t).psm.entering = s.psm.entering := by
  unfold State.at; dsimp only; split <;> rfl

@[simp] theorem at_psm_waking (s : State) (t : Nat) : (s.at t).psm.waking = s.psm.waking := by
  unfold State.at; dsimp only; split <;> rfl

@[simp] theorem at_psm_wakeFault (s : State) (t : Nat) : (s.at t).psm.wakeFault = s.psm.wakeFault := by
  unfold State.at; dsimp only; split <;> rfl

@[simp] theorem at_psm_next (s : State) (t : Nat) : (s.at t).psm.next = s.psm.next := by
  unfold State.at; dsimp only; split <;> rfl

@[simp] theorem at_psm_planned (s : State) (t : Nat) : (s.at t).psm.planned = s.psm.planned := by
  unfold State.at; dsimp only; split <;> rfl

@[simp] theorem at_psm_unann (s : State) (t : Nat) : (s.at t).psm.unann = s.psm.unann := by
  unfold State.at; dsimp only; split <;> rfl

@[simp] theorem at_psm_bg (s : State) (t : Nat) : (s.at t).psm.bg = s.psm.bg := by
  unfold State.at; dsimp only; split <;> rfl

@[simp] theorem at_psm_tests (s : State) (t : Nat) : (s.at t).psm.tests = s.psm.tests := by
  unfold State.at; dsimp only; split <;> rfl

@[simp] theorem at_psm_events (s : State) (t : Nat) : (s.at t).psm.events = s.psm.events := by
  unfold State.at; dsimp only; split <;> rfl

@[simp] theorem Xwl.collect_nodes (a b : Nat) (p : Bytes) (w : Xwl) : (w.collect a b p).2.nodes = w.nodes := rfl
@[simp] theorem Xwl.collect_lanes (a b : Nat) (p : Bytes) (w : Xwl) : (w.collect a b p).2.lanes = w.lanes := rfl

end Sys2Proof.Machine
end

