-- ==== Sys2Proof/Laws/Frame.lean ====
section
/-! SUPPORT. Frames: `Moves w s t` says that `t` differs from `s` at most in the parts `w`, at the same instant, with the queue
untouched, no free value taken back, and memory still canonical. One lemma per shared operation says which parts it may change
(the other Laws/Frame*.lean files); here are the rules they are made of. -/

namespace Sys2Proof.Machine

theorem Part.Same.refl (s : State) (p : Part) : p.Same s s := by cases p <;> rfl

theorem Part.Same.trans {s t u : State} {p : Part} (h : p.Same s t) (k : p.Same t u) : p.Same s u := by
  cases p <;> exact Eq.trans k h

theorem Moves.refl (w : List Part) (s : State) : Moves w s s :=
  ⟨fun p _ => Part.Same.refl s p, rfl, rfl, Nat.le_refl _, id, id⟩

theorem Moves.trans {w : List Part} {s t u : State} (h : Moves w s t) (k : Moves w t u) : Moves w s u :=
  ⟨fun p hp => (h.same p hp).trans (k.same p hp), k.now.trans h.now, k.pending.trans h.pending, Nat.le_trans h.free k.free,
    fun m => k.memory (h.memory m), fun m => k.shaped (h.shaped m)⟩

theorem Moves.mono {v w : List Part} {s t : State} (h : Moves v s t) (hv : v ⊆ w) : Moves w s t :=
  ⟨fun p hp => h.same p fun hq => hp (hv hq), h.now, h.pending, h.free, h.memory, h.shaped⟩

/-- A change of one part: every other part, the instant, the queue and memory are the same. -/
theorem Moves.of_part {w : List Part} {s t : State} (p : Part) (hp : p ∈ w) (hs : ∀ q : Part, q ≠ p → q.Same s t)
    (hn : t.now = s.now) (hq : t.pending = s.pending) (hf : s.free ≤ t.free) (hm : s.memoryOk → t.memoryOk)
    (hk : s.shaped → t.shaped) : Moves w s t :=
  ⟨fun q hq' => hs q fun e => hq' (e ▸ hp), hn, hq, hf, hm, hk⟩

/-- A change of a block keeps a property of it. -/
def Keeps {α : Type} (P : α → Prop) (g : α → α) : Prop := ∀ x : α, P x → P (g x)

theorem Keeps.of {α : Type} {P : α → Prop} {g : α → α} (h : ∀ x : α, P x → P (g x)) : Keeps P g := h

@[simp] theorem setN_length {α : Type} (l : List α) (i : Nat) (a : α) : (setN l i a).length = l.length := by
  unfold setN; simp

/-! ## The modifiers -/

theorem moves_onSys {w : List Part} {s u : State} {g : Sys → Sys} (h : Moves w s u) (hw : [.sys] ⊆ w) :
    Moves w s (u.onSys g) :=
  h.trans (.of_part .sys (hw (by decide)) (fun q hq => by cases q <;> first | rfl | exact absurd rfl hq) rfl rfl (Nat.le_refl _) id
    fun k => { k with })

theorem moves_onSup {w : List Part} {s u : State} {g : Supply → Supply} (h : Moves w s u) (hw : [.sup] ⊆ w) :
    Moves w s (u.onSup g) :=
  h.trans (.of_part .sup (hw (by decide)) (fun q hq => by cases q <;> first | rfl | exact absurd rfl hq) rfl rfl (Nat.le_refl _) id
    fun k => { k with })

theorem moves_onClk {w : List Part} {s u : State} {g : Clk → Clk} (h : Moves w s u) (hw : [.clk] ⊆ w)
    (hg : Keeps Clk.shaped g) : Moves w s (u.onClk g) :=
  h.trans (.of_part .clk (hw (by decide)) (fun q hq => by cases q <;> first | rfl | exact absurd rfl hq) rfl rfl (Nat.le_refl _) id
    fun k => { k with clk := hg _ k.clk })

theorem moves_onRtc {w : List Part} {s u : State} {g : Rtc → Rtc} (h : Moves w s u) (hw : [.rtc] ⊆ w) :
    Moves w s (u.onRtc g) :=
  h.trans (.of_part .rtc (hw (by decide)) (fun q hq => by cases q <;> first | rfl | exact absurd rfl hq) rfl rfl (Nat.le_refl _) id
    fun k => { k with })

theorem moves_onStart {w : List Part} {s u : State} {g : Start → Start} (h : Moves w s u) (hw : [.start] ⊆ w) :
    Moves w s (u.onStart g) :=
  h.trans (.of_part .start (hw (by decide)) (fun q hq => by cases q <;> first | rfl | exact absurd rfl hq) rfl rfl (Nat.le_refl _) id
    fun k => { k with })

theorem moves_onNvm {w : List Part} {s u : State} {g : Nvm → Nvm} (h : Moves w s u) (hw : [.nvm] ⊆ w) :
    Moves w s (u.onNvm g) :=
  h.trans (.of_part .nvm (hw (by decide)) (fun q hq => by cases q <;> first | rfl | exact absurd rfl hq) rfl rfl (Nat.le_refl _) id
    fun k => { k with })

theorem moves_onSeals {w : List Part} {s u : State} {g : Seal → Seal} (h : Moves w s u) (hw : [.seals] ⊆ w)
    (hg : Keeps Seal.shaped g) : Moves w s (u.onSeals g) :=
  h.trans (.of_part .seals (hw (by decide)) (fun q hq => by cases q <;> first | rfl | exact absurd rfl hq) rfl rfl (Nat.le_refl _) id
    fun k => { k with seals := hg _ k.seals })

theorem moves_onCfg {w : List Part} {s u : State} {g : Cfg → Cfg} (h : Moves w s u) (hw : [.cfg] ⊆ w)
    (hg : Keeps Cfg.shaped g) : Moves w s (u.onCfg g) :=
  h.trans (.of_part .cfg (hw (by decide)) (fun q hq => by cases q <;> first | rfl | exact absurd rfl hq) rfl rfl (Nat.le_refl _) id
    fun k => { k with cfg := hg _ k.cfg })

theorem moves_onFiu {w : List Part} {s u : State} {g : Fiu → Fiu} (h : Moves w s u) (hw : [.fiu] ⊆ w)
    (hg : Keeps Fiu.shaped g) : Moves w s (u.onFiu g) :=
  h.trans (.of_part .fiu (hw (by decide)) (fun q hq => by cases q <;> first | rfl | exact absurd rfl hq) rfl rfl (Nat.le_refl _) id
    fun k => { k with fiu := hg _ k.fiu })

theorem moves_onFgu {w : List Part} {s u : State} {g : Fgu → Fgu} (h : Moves w s u) (hw : [.fgu] ⊆ w) :
    Moves w s (u.onFgu g) :=
  h.trans (.of_part .fgu (hw (by decide)) (fun q hq => by cases q <;> first | rfl | exact absurd rfl hq) rfl rfl (Nat.le_refl _) id
    fun k => { k with })

theorem moves_onAud {w : List Part} {s u : State} {g : Aud → Aud} (h : Moves w s u) (hw : [.aud] ⊆ w)
    (hg : Keeps Aud.shaped g) : Moves w s (u.onAud g) :=
  h.trans (.of_part .aud (hw (by decide)) (fun q hq => by cases q <;> first | rfl | exact absurd rfl hq) rfl rfl (Nat.le_refl _) id
    fun k => { k with aud := hg _ k.aud })

theorem moves_onVane {w : List Part} {s u : State} {g : Vane → Vane} (h : Moves w s u) (hw : [.vane] ⊆ w) :
    Moves w s (u.onVane g) :=
  h.trans (.of_part .vane (hw (by decide)) (fun q hq => by cases q <;> first | rfl | exact absurd rfl hq) rfl rfl (Nat.le_refl _) id
    fun k => { k with })

theorem moves_onBeu {w : List Part} {s u : State} {g : Beu → Beu} (h : Moves w s u) (hw : [.beu] ⊆ w)
    (hg : Keeps Beu.shaped g) : Moves w s (u.onBeu g) :=
  h.trans (.of_part .beu (hw (by decide)) (fun q hq => by cases q <;> first | rfl | exact absurd rfl hq) rfl rfl (Nat.le_refl _) id
    fun k => { k with beu := hg _ k.beu })

theorem moves_onVrd {w : List Part} {s u : State} {g : Vrd → Vrd} (h : Moves w s u) (hw : [.vrd] ⊆ w)
    (hg : Keeps Vrd.shaped g) : Moves w s (u.onVrd g) :=
  h.trans (.of_part .vrd (hw (by decide)) (fun q hq => by cases q <;> first | rfl | exact absurd rfl hq) rfl rfl (Nat.le_refl _) id
    fun k => { k with vrd := hg _ k.vrd })

theorem moves_onSlb {w : List Part} {s u : State} {g : Slb → Slb} (h : Moves w s u) (hw : [.slb] ⊆ w)
    (hg : Keeps Slb.shaped g) : Moves w s (u.onSlb g) :=
  h.trans (.of_part .slb (hw (by decide)) (fun q hq => by cases q <;> first | rfl | exact absurd rfl hq) rfl rfl (Nat.le_refl _) id
    fun k => { k with slb := hg _ k.slb })

theorem moves_onSml {w : List Part} {s u : State} {g : Sml → Sml} (h : Moves w s u) (hw : [.sml] ⊆ w)
    (hg : Keeps Sml.shaped g) : Moves w s (u.onSml g) :=
  h.trans (.of_part .sml (hw (by decide)) (fun q hq => by cases q <;> first | rfl | exact absurd rfl hq) rfl rfl (Nat.le_refl _) id
    fun k => { k with sml := hg _ k.sml })

theorem moves_onCvu {w : List Part} {s u : State} {g : Cvu → Cvu} (h : Moves w s u) (hw : [.cvu] ⊆ w)
    (hg : Keeps Cvu.shaped g) : Moves w s (u.onCvu g) :=
  h.trans (.of_part .cvu (hw (by decide)) (fun q hq => by cases q <;> first | rfl | exact absurd rfl hq) rfl rfl (Nat.le_refl _) id
    fun k => { k with cvu := hg _ k.cvu })

theorem moves_onXwl {w : List Part} {s u : State} {g : Xwl → Xwl} (h : Moves w s u) (hw : [.xwl] ⊆ w)
    (hg : Keeps Xwl.shaped g) : Moves w s (u.onXwl g) :=
  h.trans (.of_part .xwl (hw (by decide)) (fun q hq => by cases q <;> first | rfl | exact absurd rfl hq) rfl rfl (Nat.le_refl _) id
    fun k => { k with xwl := hg _ k.xwl })

theorem moves_onHq {w : List Part} {s u : State} {g : Hq → Hq} (h : Moves w s u) (hw : [.hq] ⊆ w)
    (hg : Keeps Hq.shaped g) : Moves w s (u.onHq g) :=
  h.trans (.of_part .hq (hw (by decide)) (fun q hq => by cases q <;> first | rfl | exact absurd rfl hq) rfl rfl (Nat.le_refl _) id
    fun k => { k with hq := hg _ k.hq })

theorem moves_onFwl {w : List Part} {s u : State} {g : Fwl → Fwl} (h : Moves w s u) (hw : [.fwl] ⊆ w) :
    Moves w s (u.onFwl g) :=
  h.trans (.of_part .fwl (hw (by decide)) (fun q hq => by cases q <;> first | rfl | exact absurd rfl hq) rfl rfl (Nat.le_refl _) id
    fun k => { k with })

theorem moves_onTsu {w : List Part} {s u : State} {g : Tsu → Tsu} (h : Moves w s u) (hw : [.tsu] ⊆ w)
    (hg : Keeps Tsu.shaped g) : Moves w s (u.onTsu g) :=
  h.trans (.of_part .tsu (hw (by decide)) (fun q hq => by cases q <;> first | rfl | exact absurd rfl hq) rfl rfl (Nat.le_refl _) id
    fun k => { k with tsu := hg _ k.tsu })

theorem moves_onPsm {w : List Part} {s u : State} {g : Psm → Psm} (h : Moves w s u) (hw : [.psm] ⊆ w)
    (hg : Keeps Psm.shaped g) : Moves w s (u.onPsm g) :=
  h.trans (.of_part .psm (hw (by decide)) (fun q hq => by cases q <;> first | rfl | exact absurd rfl hq) rfl rfl (Nat.le_refl _) id
    fun k => { k with psm := hg _ k.psm })

theorem moves_onMon {w : List Part} {s u : State} {g : Mon → Mon} (h : Moves w s u) (hw : [.mon] ⊆ w)
    (hg : Keeps Mon.shaped g) : Moves w s (u.onMon g) :=
  h.trans (.of_part .mon (hw (by decide)) (fun q hq => by cases q <;> first | rfl | exact absurd rfl hq) rfl rfl (Nat.le_refl _) id
    fun k => { k with mon := hg _ k.mon })

theorem moves_onLog {w : List Part} {s u : State} {g : Log → Log} (h : Moves w s u) (hw : [.log] ⊆ w) :
    Moves w s (u.onLog g) :=
  h.trans (.of_part .log (hw (by decide)) (fun q hq => by cases q <;> first | rfl | exact absurd rfl hq) rfl rfl (Nat.le_refl _) id
    fun k => { k with })

theorem moves_onDbg {w : List Part} {s u : State} {g : Dbg → Dbg} (h : Moves w s u) (hw : [.dbg] ⊆ w)
    (hg : Keeps Dbg.shaped g) : Moves w s (u.onDbg g) :=
  h.trans (.of_part .dbg (hw (by decide)) (fun q hq => by cases q <;> first | rfl | exact absurd rfl hq) rfl rfl (Nat.le_refl _) id
    fun k => { k with dbg := hg _ k.dbg })

theorem moves_onRet {w : List Part} {s u : State} {g : Ret → Ret} (h : Moves w s u) (hw : [.ret] ⊆ w) :
    Moves w s (u.onRet g) :=
  h.trans (.of_part .ret (hw (by decide)) (fun q hq => by cases q <;> first | rfl | exact absurd rfl hq) rfl rfl (Nat.le_refl _) id
    fun k => { k with })

theorem moves_send {w : List Part} {s u : State} {o : Output} (h : Moves w s u) : Moves w s (u.send o) :=
  h.trans ⟨fun p _ => by cases p <;> rfl, rfl, rfl, Nat.le_refl _, id, fun k => { k with }⟩

theorem moves_caps {w : List Part} {s u : State} (c : List (Nat × Nat)) (h : Moves w s u) (hw : [.caps] ⊆ w) :
    Moves w s { u with caps := c } :=
  h.trans (.of_part .caps (hw (by decide)) (fun q hq => by cases q <;> first | rfl | exact absurd rfl hq) rfl rfl (Nat.le_refl _) id
    fun k => { k with })

/-! ## Free values -/

theorem State.draw_moves {w : List Part} {s u t : State} {v : Nat} (e : u.draw = (v, t)) (h : Moves w s u) (hw : [.free] ⊆ w) :
    Moves w s t := by
  cases e
  exact h.trans (.of_part .free (hw (by decide)) (fun q hq => by cases q <;> first | rfl | exact absurd rfl hq) rfl rfl
    (Nat.le_succ _) id fun k => { k with })

theorem State.draws_moves {w : List Part} {n : Nat} {s u t : State} {v : List Nat} (e : State.draws n u = (v, t))
    (h : Moves w s u) (hw : [.free] ⊆ w) : Moves w s t := by
  induction n generalizing u t v with
  | zero => cases e; exact h
  | succ n ih =>
    simp only [State.draws] at e
    cases e
    exact ih rfl (State.draw_moves rfl h hw)

theorem State.drawBytes_moves {w : List Part} {n : Nat} {s u t : State} {v : Bytes} (e : u.drawBytes n = (v, t))
    (h : Moves w s u) (hw : [.free] ⊆ w) : Moves w s t := by
  cases e
  exact State.draw_moves rfl h hw

theorem State.draw_snd {w : List Part} {s u : State} (h : Moves w s u) (hw : [.free] ⊆ w) : Moves w s u.draw.2 :=
  State.draw_moves rfl h hw

theorem State.draws_snd {w : List Part} {n : Nat} {s u : State} (h : Moves w s u) (hw : [.free] ⊆ w) :
    Moves w s (State.draws n u).2 := State.draws_moves rfl h hw

theorem State.drawBytes_snd {w : List Part} {n : Nat} {s u : State} (h : Moves w s u) (hw : [.free] ⊆ w) :
    Moves w s (u.drawBytes n).2 := State.drawBytes_moves (n := n) rfl h hw

/-! ## Conditions, lists and options -/

theorem moves_when {w : List Part} {s u : State} {c : Bool} {f : State → State} (h : Moves w s u) (hf : Moves w s (f u)) :
    Moves w s (u.when c f) := by
  unfold State.when; split <;> assumption

theorem moves_ite {w : List Part} {s u v : State} {c : Prop} [Decidable c] (h : Moves w s u) (k : Moves w s v) :
    Moves w s (if c then u else v) := by
  split <;> assumption

theorem moves_each {α : Type} {w : List Part} {s u : State} {l : List α} {f : α → State → State} (h : Moves w s u)
    (hf : ∀ a v, Moves w s v → Moves w s (f a v)) : Moves w s (u.each l f) := by
  unfold State.each
  induction l generalizing u with
  | nil => exact h
  | cons a l ih => exact ih (hf a u h)

theorem moves_with {α : Type} {w : List Part} {s u : State} {o : Option α} {f : α → State → State} (h : Moves w s u)
    (hf : ∀ a, Moves w s (f a u)) : Moves w s (u.with o f) := by
  unfold State.with; split
  · exact hf _
  · exact h

/-! ## Memory -/

theorem State.poke_moves {w : List Part} {a : Nat} {bs : Bytes} {s u : State} (h : Moves w s u) (hw : [.mem, .poison] ⊆ w) :
    Moves w s (u.poke a bs) := by
  unfold State.poke State.unpoison
  split
  · exact h
  · refine h.trans ⟨fun p hp => ?_, rfl, rfl, Nat.le_refl _, fun m => ⟨memPutAll_wf _ _ m.1, gran_filter_wf _ m.2⟩, fun k => { k with }⟩
    cases p <;> first | rfl | exact absurd (hw (by decide)) hp

theorem State.wipe_moves {w : List Part} {lo len : Nat} {s u : State} (h : Moves w s u) (hw : [.mem, .poison] ⊆ w) :
    Moves w s (u.wipe lo len) := by
  unfold State.wipe
  refine h.trans ⟨fun p hp => ?_, rfl, rfl, Nat.le_refl _, fun m => ⟨memErase_wf _ _ m.1, gran_filter_wf _ m.2⟩, fun k => { k with }⟩
  cases p <;> first | rfl | exact absurd (hw (by decide)) hp

theorem State.unpoison_moves {w : List Part} {a n : Nat} {s u : State} (h : Moves w s u) (hw : [.poison] ⊆ w) :
    Moves w s (u.unpoison a n) := by
  unfold State.unpoison
  refine h.trans ⟨fun p hp => ?_, rfl, rfl, Nat.le_refl _, fun m => ⟨m.1, gran_filter_wf _ m.2⟩, fun k => { k with }⟩
  cases p <;> first | rfl | exact absurd (hw (by decide)) hp

theorem State.markPoison_moves {w : List Part} {g : Nat} {s u : State} (h : Moves w s u) (hw : [.poison] ⊆ w) :
    Moves w s (u.markPoison g) := by
  unfold State.markPoison
  refine h.trans ⟨fun p hp => ?_, rfl, rfl, Nat.le_refl _, fun m => ⟨m.1, granPut_wf _ m.2⟩, fun k => { k with }⟩
  cases p <;> first | rfl | exact absurd (hw (by decide)) hp

end Sys2Proof.Machine
end

