-- ==== Sys2Proof/Laws/FrameOps.lean ====
section
/-! SUPPORT. Frames of the operations of Machine/Ops.lean. -/

namespace Sys2Proof.Machine

theorem State.putSecrets_moves {w : List Part} {s u : State} (v : Secrets) (hmv : Moves w s u) (hsub : [.nvm] ⊆ w) :
    Moves w s (State.putSecrets v u) := by
  unfold State.putSecrets
  repeat' first
    | with_reducible assumption
    | (with_reducible refine List.Subset.trans ?_ hsub; decide)
    | ((with_reducible apply Keeps.of); intro x h; first | exact h | (simp at h ⊢; try simp [h]; done) | (split <;> simp_all; done))
    | intro _
    | with_reducible apply moves_onNvm
    | with_reducible apply moves_ite
    | split
    | dsimp only

theorem State.logPut_moves {w : List Part} {s u : State} (code sev subject data : Nat) (hmv : Moves w s u) (hsub : [.ret] ⊆ w) :
    Moves w s (State.logPut code sev subject data u) := by
  unfold State.logPut
  repeat' first
    | with_reducible assumption
    | (with_reducible refine List.Subset.trans ?_ hsub; decide)
    | ((with_reducible apply Keeps.of); intro x h; first | exact h | (simp at h ⊢; try simp [h]; done) | (split <;> simp_all; done))
    | intro _
    | with_reducible apply moves_onRet
    | with_reducible apply moves_ite
    | split
    | dsimp only

theorem State.flushRepeats_moves {w : List Part} {s u : State}  (hmv : Moves w s u) (hsub : [.log, .ret] ⊆ w) :
    Moves w s (State.flushRepeats u) := by
  unfold State.flushRepeats
  repeat' first
    | with_reducible assumption
    | (with_reducible refine List.Subset.trans ?_ hsub; decide)
    | ((with_reducible apply Keeps.of); intro x h; first | exact h | (simp at h ⊢; try simp [h]; done) | (split <;> simp_all; done))
    | intro _
    | with_reducible apply moves_onLog
    | with_reducible apply moves_each
    | with_reducible apply State.logPut_moves
    | with_reducible apply moves_ite
    | split
    | dsimp only

theorem State.ev_moves {w : List Part} {s u : State} (code sev subject data : Nat) (hmv : Moves w s u) (hsub : [.log, .ret] ⊆ w) :
    Moves w s (State.ev code sev subject data u) := by
  unfold State.ev
  repeat' first
    | with_reducible assumption
    | (with_reducible refine List.Subset.trans ?_ hsub; decide)
    | ((with_reducible apply Keeps.of); intro x h; first | exact h | (simp at h ⊢; try simp [h]; done) | (split <;> simp_all; done))
    | intro _
    | with_reducible apply State.flushRepeats_moves
    | with_reducible apply moves_onLog
    | with_reducible apply State.logPut_moves
    | with_reducible apply moves_ite
    | split
    | dsimp only

theorem State.evName_moves {w : List Part} {s u : State} (block : Nat) (name : String) (sev subject data : Nat) (hmv : Moves w s u) (hsub : [.log, .ret] ⊆ w) :
    Moves w s (State.evName block name sev subject data u) := by
  unfold State.evName
  repeat' first
    | with_reducible assumption
    | (with_reducible refine List.Subset.trans ?_ hsub; decide)
    | ((with_reducible apply Keeps.of); intro x h; first | exact h | (simp at h ⊢; try simp [h]; done) | (split <;> simp_all; done))
    | intro _
    | with_reducible apply State.ev_moves
    | with_reducible apply moves_ite
    | split
    | dsimp only

theorem State.jOpen_moves {w : List Part} {s u : State} (kind owner seq : Nat) (aux : Bytes) (hmv : Moves w s u) (hsub : [.ret] ⊆ w) :
    Moves w s (State.jOpen kind owner seq aux u) := by
  unfold State.jOpen
  repeat' first
    | with_reducible assumption
    | (with_reducible refine List.Subset.trans ?_ hsub; decide)
    | ((with_reducible apply Keeps.of); intro x h; first | exact h | (simp at h ⊢; try simp [h]; done) | (split <;> simp_all; done))
    | intro _
    | with_reducible apply moves_onRet
    | with_reducible apply moves_ite
    | split
    | dsimp only

theorem State.jClose_moves {w : List Part} {s u : State} (kind owner seq : Nat) (hmv : Moves w s u) (hsub : [.ret] ⊆ w) :
    Moves w s (State.jClose kind owner seq u) := by
  unfold State.jClose
  repeat' first
    | with_reducible assumption
    | (with_reducible refine List.Subset.trans ?_ hsub; decide)
    | ((with_reducible apply Keeps.of); intro x h; first | exact h | (simp at h ⊢; try simp [h]; done) | (split <;> simp_all; done))
    | intro _
    | with_reducible apply moves_onRet
    | with_reducible apply moves_ite
    | split
    | dsimp only

theorem State.jMod_moves {w : List Part} {s u : State} (kind owner seq : Nat) (f : JEntry → JEntry) (hmv : Moves w s u) (hsub : [.ret] ⊆ w) :
    Moves w s (State.jMod kind owner seq f u) := by
  unfold State.jMod
  repeat' first
    | with_reducible assumption
    | (with_reducible refine List.Subset.trans ?_ hsub; decide)
    | ((with_reducible apply Keeps.of); intro x h; first | exact h | (simp at h ⊢; try simp [h]; done) | (split <;> simp_all; done))
    | intro _
    | with_reducible apply moves_onRet
    | with_reducible apply moves_ite
    | split
    | dsimp only

end Sys2Proof.Machine
end

