-- ==== Sys2Proof/Laws/FrameHostOps.lean ====
section
/-! SUPPORT. Frames of the operations of Machine/HostOps.lean. -/

namespace Sys2Proof.Machine

theorem State.evOpen_moves {w : List Part} {s u : State} (block : Nat) (name : String) (subject data : Nat) (hmv : Moves w s u) (hsub : [.log, .ret] ⊆ w) :
    Moves w s (State.evOpen block name subject data u) := by
  unfold State.evOpen
  repeat' first
    | with_reducible assumption
    | (with_reducible refine List.Subset.trans ?_ hsub; decide)
    | ((with_reducible apply Keeps.of); intro x h; first | exact h | (simp at h ⊢; try simp [h]; done) | (split <;> simp_all; done))
    | intro _
    | with_reducible apply State.evName_moves
    | with_reducible apply moves_ite
    | split
    | dsimp only

theorem State.onQ_moves {w : List Part} {s u : State} (q : Nat) (f : HQueue → HQueue) (hmv : Moves w s u) (hsub : [.hq] ⊆ w) :
    Moves w s (State.onQ q f u) := by
  unfold State.onQ
  repeat' first
    | with_reducible assumption
    | (with_reducible refine List.Subset.trans ?_ hsub; decide)
    | ((with_reducible apply Keeps.of); intro x h; first | exact h | (simp at h ⊢; try simp [h]; done) | (split <;> simp_all; done))
    | intro _
    | with_reducible apply moves_onHq
    | with_reducible apply moves_ite
    | split
    | dsimp only

theorem State.onRing_moves {w : List Part} {s u : State} (n : Nat) (f : DRing → DRing) (hmv : Moves w s u) (hsub : [.hq] ⊆ w) :
    Moves w s (State.onRing n f u) := by
  unfold State.onRing
  repeat' first
    | with_reducible assumption
    | (with_reducible refine List.Subset.trans ?_ hsub; decide)
    | ((with_reducible apply Keeps.of); intro x h; first | exact h | (simp at h ⊢; try simp [h]; done) | (split <;> simp_all; done))
    | intro _
    | with_reducible apply moves_onHq
    | with_reducible apply moves_ite
    | split
    | dsimp only

theorem State.onChan_moves {w : List Part} {s u : State} (c : Nat) (f : TChan → TChan) (hmv : Moves w s u) (hsub : [.tsu] ⊆ w) :
    Moves w s (State.onChan c f u) := by
  unfold State.onChan
  repeat' first
    | with_reducible assumption
    | (with_reducible refine List.Subset.trans ?_ hsub; decide)
    | ((with_reducible apply Keeps.of); intro x h; first | exact h | (simp at h ⊢; try simp [h]; done) | (split <;> simp_all; done))
    | intro _
    | with_reducible apply moves_onTsu
    | with_reducible apply moves_ite
    | split
    | dsimp only

theorem State.wake_moves {w : List Part} {s u : State}  (hmv : Moves w s u) (hsub : [.psm] ⊆ w) :
    Moves w s (State.wake u) := by
  unfold State.wake
  repeat' first
    | with_reducible assumption
    | (with_reducible refine List.Subset.trans ?_ hsub; decide)
    | ((with_reducible apply Keeps.of); intro x h; first | exact h | (simp at h ⊢; try simp [h]; done) | (split <;> simp_all; done))
    | intro _
    | with_reducible apply moves_onPsm
    | with_reducible apply moves_ite
    | split
    | dsimp only

theorem State.chFault_moves {w : List Part} {s u : State} (c cause : Nat) (hmv : Moves w s u) (hsub : [.hq, .tsu, .log, .ret] ⊆ w) :
    Moves w s (State.chFault c cause u) := by
  unfold State.chFault
  repeat' first
    | with_reducible assumption
    | (with_reducible refine List.Subset.trans ?_ hsub; decide)
    | ((with_reducible apply Keeps.of); intro x h; first | exact h | (simp at h ⊢; try simp [h]; done) | (split <;> simp_all; done))
    | intro _
    | with_reducible apply moves_onTsu
    | with_reducible apply State.onChan_moves
    | with_reducible apply State.evOpen_moves
    | with_reducible apply moves_with
    | with_reducible apply State.onQ_moves
    | with_reducible apply moves_ite
    | split
    | dsimp only

theorem State.refuse_moves {w : List Part} {s u : State} (ident : Nat) (write locked : Bool) (a : Nat) (hmv : Moves w s u) (hsub : [.hq, .fwl, .tsu, .log, .ret] ⊆ w) :
    Moves w s (State.refuse ident write locked a u) := by
  unfold State.refuse
  repeat' first
    | with_reducible assumption
    | (with_reducible refine List.Subset.trans ?_ hsub; decide)
    | ((with_reducible apply Keeps.of); intro x h; first | exact h | (simp at h ⊢; try simp [h]; done) | (split <;> simp_all; done))
    | intro _
    | with_reducible apply moves_onFwl
    | with_reducible apply State.ev_moves
    | with_reducible apply State.chFault_moves
    | with_reducible apply moves_ite
    | split
    | dsimp only

theorem State.check_snd {w : List Part} {s u : State} {ident : Nat} {write : Bool} {a n : Nat} (hmv : Moves w s u) (hsub : [.hq, .fwl, .tsu, .log, .ret] ⊆ w) :
    Moves w s (State.check ident write a n u).2 := by
  unfold State.check
  repeat' first
    | with_reducible assumption
    | (with_reducible refine List.Subset.trans ?_ hsub; decide)
    | ((with_reducible apply Keeps.of); intro x h; first | exact h | (simp at h ⊢; try simp [h]; done) | (split <;> simp_all; done))
    | intro _
    | with_reducible apply State.refuse_moves
    | with_reducible apply moves_ite
    | split
    | dsimp only

theorem State.check_moves {w : List Part} {s u t : State} {ident : Nat} {write : Bool} {a n : Nat} {x0}
    (e : State.check ident write a n u = (x0, t)) (hmv : Moves w s u) (hsub : [.hq, .fwl, .tsu, .log, .ret] ⊆ w) : Moves w s t := by
  have k := State.check_snd hmv hsub (w := w) (s := s) (ident := ident) (write := write) (a := a) (n := n)
  rw [e] at k; exact k

theorem State.unlock_moves {w : List Part} {s u : State} (q seq : Nat) (hmv : Moves w s u) (hsub : [.fwl] ⊆ w) :
    Moves w s (State.unlock q seq u) := by
  unfold State.unlock
  repeat' first
    | with_reducible assumption
    | (with_reducible refine List.Subset.trans ?_ hsub; decide)
    | ((with_reducible apply Keeps.of); intro x h; first | exact h | (simp at h ⊢; try simp [h]; done) | (split <;> simp_all; done))
    | intro _
    | with_reducible apply moves_onFwl
    | with_reducible apply moves_ite
    | split
    | dsimp only

theorem State.msi_moves {w : List Part} {s u : State} (q : Nat) (hmv : Moves w s u) (hsub : [.hq] ⊆ w) :
    Moves w s (State.msi q u) := by
  unfold State.msi
  repeat' first
    | with_reducible assumption
    | (with_reducible refine List.Subset.trans ?_ hsub; decide)
    | ((with_reducible apply Keeps.of); intro x h; first | exact h | (simp at h ⊢; try simp [h]; done) | (split <;> simp_all; done))
    | intro _
    | with_reducible apply State.onQ_moves
    | with_reducible apply moves_send
    | with_reducible apply moves_ite
    | split
    | dsimp only

theorem State.msiDue_moves {w : List Part} {s u : State} (q : Nat) (hmv : Moves w s u) (hsub : [.hq] ⊆ w) :
    Moves w s (State.msiDue q u) := by
  unfold State.msiDue
  repeat' first
    | with_reducible assumption
    | (with_reducible refine List.Subset.trans ?_ hsub; decide)
    | ((with_reducible apply Keeps.of); intro x h; first | exact h | (simp at h ⊢; try simp [h]; done) | (split <;> simp_all; done))
    | intro _
    | with_reducible apply State.msi_moves
    | with_reducible apply moves_ite
    | split
    | dsimp only

theorem State.msiPost_moves {w : List Part} {s u : State} (q : Nat) (hmv : Moves w s u) (hsub : [.hq] ⊆ w) :
    Moves w s (State.msiPost q u) := by
  unfold State.msiPost
  repeat' first
    | with_reducible assumption
    | (with_reducible refine List.Subset.trans ?_ hsub; decide)
    | ((with_reducible apply Keeps.of); intro x h; first | exact h | (simp at h ⊢; try simp [h]; done) | (split <;> simp_all; done))
    | intro _
    | with_reducible apply State.onQ_moves
    | with_reducible apply State.msiDue_moves
    | with_reducible apply moves_ite
    | split
    | dsimp only

theorem State.cqWrite_moves {w : List Part} {s u : State} (q : Nat) (entry : Bytes) (hmv : Moves w s u) (hsub : [.hq] ⊆ w) :
    Moves w s (State.cqWrite q entry u) := by
  unfold State.cqWrite
  repeat' first
    | with_reducible assumption
    | (with_reducible refine List.Subset.trans ?_ hsub; decide)
    | ((with_reducible apply Keeps.of); intro x h; first | exact h | (simp at h ⊢; try simp [h]; done) | (split <;> simp_all; done))
    | intro _
    | with_reducible apply State.onQ_moves
    | with_reducible apply moves_send
    | with_reducible apply State.msiPost_moves
    | with_reducible apply moves_ite
    | split
    | dsimp only

theorem State.cqDrainN_moves {w : List Part} {s : State} (n q : Nat) {u : State} (hmv : Moves w s u) (hsub : [.hq, .ret] ⊆ w) :
    Moves w s (State.cqDrainN n q u) := by
  induction n generalizing u with
  | zero => exact hmv
  | succ n ih =>
    unfold State.cqDrainN
    repeat' first
      | with_reducible assumption
      | (with_reducible refine List.Subset.trans ?_ hsub; decide)
      | ((with_reducible apply Keeps.of); intro x h; first | exact h | (simp at h ⊢; try simp [h]; done) | (split <;> simp_all; done))
      | intro _
      | with_reducible apply ih
      | with_reducible apply State.jClose_moves
      | with_reducible apply State.cqWrite_moves
      | with_reducible apply State.onQ_moves
      | with_reducible apply moves_ite
      | split
      | dsimp only

theorem State.cqDrain_moves {w : List Part} {s u : State} (q : Nat) (hmv : Moves w s u) (hsub : [.hq, .ret] ⊆ w) :
    Moves w s (State.cqDrain q u) := by
  unfold State.cqDrain
  repeat' first
    | with_reducible assumption
    | (with_reducible refine List.Subset.trans ?_ hsub; decide)
    | ((with_reducible apply Keeps.of); intro x h; first | exact h | (simp at h ⊢; try simp [h]; done) | (split <;> simp_all; done))
    | intro _
    | with_reducible apply State.cqDrainN_moves
    | with_reducible apply moves_ite
    | split
    | dsimp only

theorem State.cqPost_moves {w : List Part} {s u : State} (q : Nat) (entry : Bytes) (hmv : Moves w s u) (hsub : [.hq, .ret] ⊆ w) :
    Moves w s (State.cqPost q entry u) := by
  unfold State.cqPost
  repeat' first
    | with_reducible assumption
    | (with_reducible refine List.Subset.trans ?_ hsub; decide)
    | ((with_reducible apply Keeps.of); intro x h; first | exact h | (simp at h ⊢; try simp [h]; done) | (split <;> simp_all; done))
    | intro _
    | with_reducible apply State.onQ_moves
    | with_reducible apply State.cqDrain_moves
    | with_reducible apply moves_ite
    | split
    | dsimp only

end Sys2Proof.Machine
end

