-- ==== Sys2Proof/Laws/FrameArith.lean ====
section
/-! SUPPORT. Frames of the operations of Machine/Arith.lean. -/

namespace Sys2Proof.Machine

theorem State.commitWrites_moves {w : List Part} {s u : State} (ws : List (Nat × Bytes × Bool)) (hmv : Moves w s u) (hsub : [.mem, .poison] ⊆ w) :
    Moves w s (State.commitWrites ws u) := by
  unfold State.commitWrites
  repeat' first
    | with_reducible assumption
    | (with_reducible refine List.Subset.trans ?_ hsub; decide)
    | ((with_reducible apply Keeps.of); intro x h; first | exact h | (simp at h ⊢; try simp [h]; done) | (split <;> simp_all; done))
    | intro _
    | with_reducible apply moves_each
    | with_reducible apply State.poke_moves
    | with_reducible apply State.markPoison_moves
    | with_reducible apply moves_ite
    | split
    | dsimp only

end Sys2Proof.Machine
end

