-- ==== Sys2Proof/Laws/FrameSmlSend.lean ====
section
/-! SUPPORT. Frames of the operations of Machine/SmlSend.lean. -/

namespace Sys2Proof.Machine

theorem State.onConn_moves {w : List Part} {s u : State} (k0 : Nat) (f : Conn → Conn) (hmv : Moves w s u) (hsub : [.sml] ⊆ w) :
    Moves w s (State.onConn k0 f u) := by
  unfold State.onConn
  repeat' first
    | with_reducible assumption
    | (with_reducible refine List.Subset.trans ?_ hsub; decide)
    | ((with_reducible apply Keeps.of); intro x h; first | exact h | (simp at h ⊢; try simp [h]; done) | (split <;> simp_all; done))
    | intro _
    | with_reducible apply moves_onSml
    | with_reducible apply moves_ite
    | split
    | dsimp only

theorem State.sendBoth_moves {w : List Part} {s u : State} (r : ConnRec) (data : Bytes) (hmv : Moves w s u) (hsub : [] ⊆ w) :
    Moves w s (State.sendBoth r data u) := by
  unfold State.sendBoth
  repeat' first
    | with_reducible assumption
    | (with_reducible refine List.Subset.trans ?_ hsub; decide)
    | ((with_reducible apply Keeps.of); intro x h; first | exact h | (simp at h ⊢; try simp [h]; done) | (split <;> simp_all; done))
    | intro _
    | with_reducible apply moves_each
    | with_reducible apply moves_send
    | with_reducible apply moves_ite
    | split
    | dsimp only

theorem State.sendMsg_moves {w : List Part} {s u : State} (k0 : Nat) (type : Nat) (payload : Bytes) (hmv : Moves w s u) (hsub : [.sml] ⊆ w) :
    Moves w s (State.sendMsg k0 type payload u) := by
  unfold State.sendMsg
  repeat' first
    | with_reducible assumption
    | (with_reducible refine List.Subset.trans ?_ hsub; decide)
    | ((with_reducible apply Keeps.of); intro x h; first | exact h | (simp at h ⊢; try simp [h]; done) | (split <;> simp_all; done))
    | intro _
    | with_reducible apply moves_with
    | with_reducible apply State.onConn_moves
    | with_reducible apply State.sendBoth_moves
    | with_reducible apply moves_ite
    | split
    | dsimp only

theorem State.sendStatus_moves {w : List Part} {s u : State} (k0 : Nat) (hmv : Moves w s u) (hsub : [.sml] ⊆ w) :
    Moves w s (State.sendStatus k0 u) := by
  unfold State.sendStatus
  repeat' first
    | with_reducible assumption
    | (with_reducible refine List.Subset.trans ?_ hsub; decide)
    | ((with_reducible apply Keeps.of); intro x h; first | exact h | (simp at h ⊢; try simp [h]; done) | (split <;> simp_all; done))
    | intro _
    | with_reducible apply State.sendMsg_moves
    | with_reducible apply State.onConn_moves
    | with_reducible apply moves_ite
    | split
    | dsimp only

theorem State.revoke_moves {w : List Part} {s u : State} (cause : Nat) (hmv : Moves w s u) (hsub : [.vrd, .sml] ⊆ w) :
    Moves w s (State.revoke cause u) := by
  unfold State.revoke
  repeat' first
    | with_reducible assumption
    | (with_reducible refine List.Subset.trans ?_ hsub; decide)
    | ((with_reducible apply Keeps.of); intro x h; first | exact h | (simp at h ⊢; try simp [h]; done) | (split <;> simp_all; done))
    | intro _
    | with_reducible apply moves_onVrd
    | with_reducible apply moves_each
    | with_reducible apply State.sendMsg_moves
    | with_reducible apply moves_ite
    | split
    | dsimp only

theorem State.stopCommand_moves {w : List Part} {s u : State} (kind groups src : Nat) (hmv : Moves w s u) (hsub : [.sml] ⊆ w) :
    Moves w s (State.stopCommand kind groups src u) := by
  unfold State.stopCommand
  repeat' first
    | with_reducible assumption
    | (with_reducible refine List.Subset.trans ?_ hsub; decide)
    | ((with_reducible apply Keeps.of); intro x h; first | exact h | (simp at h ⊢; try simp [h]; done) | (split <;> simp_all; done))
    | intro _
    | with_reducible apply moves_each
    | with_reducible apply State.sendMsg_moves
    | with_reducible apply moves_ite
    | split
    | dsimp only

end Sys2Proof.Machine
end

