-- ==== Sys2Proof/Laws/FrameStates.lean ====
section
/-! SUPPORT. Frames of the operations of Machine/States.lean. -/

namespace Sys2Proof.Machine

theorem State.setState_moves {w : List Part} {s u : State} (dest : St) (spAlive : Bool) (hmv : Moves w s u) (hsub : [.sys, .vrd, .sml, .psm, .log, .ret] ⊆ w) :
    Moves w s (State.setState dest spAlive u) := by
  unfold State.setState
  repeat' first
    | with_reducible assumption
    | (with_reducible refine List.Subset.trans ?_ hsub; decide)
    | ((with_reducible apply Keeps.of); intro x h; first | exact h | (simp at h ⊢; try simp [h]; done) | (split <;> simp_all; done))
    | intro _
    | with_reducible apply moves_onSys
    | with_reducible apply State.ev_moves
    | with_reducible apply State.revoke_moves
    | with_reducible apply moves_onVrd
    | with_reducible apply State.wake_moves
    | with_reducible apply moves_ite
    | split
    | dsimp only

theorem State.trigStop_moves {w : List Part} {s u : State}  (hmv : Moves w s u) (hsub : [.clk, .start] ⊆ w) :
    Moves w s (State.trigStop u) := by
  unfold State.trigStop
  repeat' first
    | with_reducible assumption
    | (with_reducible refine List.Subset.trans ?_ hsub; decide)
    | ((with_reducible apply Keeps.of); intro x h; first | exact h | (simp at h ⊢; try simp [h]; done) | (split <;> simp_all; done))
    | intro _
    | with_reducible apply moves_onClk
    | with_reducible apply moves_onStart
    | with_reducible apply moves_each
    | with_reducible apply moves_send
    | with_reducible apply moves_ite
    | split
    | dsimp only

theorem State.resetBlocks_moves {w : List Part} {s u : State} (warm : Bool) (hmv : Moves w s u)
    (hsub : [.sys, .sup, .clk, .cfg, .fiu, .fgu, .aud, .vane, .beu, .vrd, .sml, .cvu, .xwl, .hq, .fwl, .tsu, .psm, .mon, .log, .dbg, .mem, .caps] ⊆ w) :
    Moves w s (State.resetBlocks warm u) := by
  refine hmv.trans ⟨fun p hp => ?_, rfl, rfl, Nat.le_refl _, fun m => ⟨?_, m.2⟩, fun k => ?_⟩
  · cases p <;> first | rfl | exact absurd (hsub (by decide)) hp
  · unfold State.resetBlocks
    cases warm
    · rfl
    · exact memErase_wf _ _ m.1
  · have c1 : (State.resetBlocks warm u).clk.shaped := by
      cases warm
      · exact List.length_replicate
      · exact (List.length_map _).trans k.clk
    have c2 : (State.resetBlocks warm u).hq.shaped := by
      cases warm
      · exact ⟨List.length_replicate, List.length_replicate⟩
      · exact ⟨(List.length_map _).trans k.hq.1, List.length_replicate⟩
    exact ⟨c1, k.seals, k.cfg, List.length_replicate, List.length_replicate, (List.length_map _).trans k.beu, List.length_replicate, k.slb, List.length_replicate, List.length_replicate,
      ⟨List.length_replicate, rfl⟩, c2, List.length_replicate, ⟨List.length_replicate, List.length_replicate⟩, List.length_replicate, ⟨List.length_replicate, List.length_replicate, List.length_replicate⟩⟩

theorem State.startRecord_moves {w : List Part} {s u : State} (able : Bool) (code : Nat) (hmv : Moves w s u) (hsub : [.start, .nvm, .log, .ret] ⊆ w) :
    Moves w s (State.startRecord able code u) := by
  unfold State.startRecord
  repeat' first
    | with_reducible assumption
    | (with_reducible refine List.Subset.trans ?_ hsub; decide)
    | ((with_reducible apply Keeps.of); intro x h; first | exact h | (simp at h ⊢; try simp [h]; done) | (split <;> simp_all; done))
    | intro _
    | with_reducible apply moves_onNvm
    | with_reducible apply State.ev_moves
    | with_reducible apply moves_onStart
    | with_reducible apply moves_ite
    | split
    | dsimp only

theorem State.stageFail_moves {w : List Part} {s u : State} (cause : Nat) (hmv : Moves w s u) (hsub : [.clk, .start, .nvm, .slb, .log, .ret] ⊆ w) :
    Moves w s (State.stageFail cause u) := by
  unfold State.stageFail
  repeat' first
    | with_reducible assumption
    | (with_reducible refine List.Subset.trans ?_ hsub; decide)
    | ((with_reducible apply Keeps.of); intro x h; first | exact h | (simp at h ⊢; try simp [h]; done) | (split <;> simp_all; done))
    | intro _
    | with_reducible apply State.startRecord_moves
    | with_reducible apply State.stage_moves
    | with_reducible apply State.trigStop_moves
    | with_reducible apply moves_onSlb
    | with_reducible apply moves_onStart
    | with_reducible apply moves_ite
    | split
    | dsimp only

theorem State.endRecord_moves {w : List Part} {s u : State} (able : Bool) (cause : Nat) (hmv : Moves w s u) (hsub : [.clk, .start, .nvm, .slb, .log, .ret] ⊆ w) :
    Moves w s (State.endRecord able cause u) := by
  unfold State.endRecord
  repeat' first
    | with_reducible assumption
    | (with_reducible refine List.Subset.trans ?_ hsub; decide)
    | ((with_reducible apply Keeps.of); intro x h; first | exact h | (simp at h ⊢; try simp [h]; done) | (split <;> simp_all; done))
    | intro _
    | with_reducible apply State.startRecord_moves
    | with_reducible apply State.stage_moves
    | with_reducible apply moves_onStart
    | with_reducible apply moves_ite
    | split
    | dsimp only

theorem State.restartRecord_moves {w : List Part} {s u : State}  (hmv : Moves w s u) (hsub : [.start, .nvm, .log, .ret] ⊆ w) :
    Moves w s (State.restartRecord u) := by
  unfold State.restartRecord
  repeat' first
    | with_reducible assumption
    | (with_reducible refine List.Subset.trans ?_ hsub; decide)
    | ((with_reducible apply Keeps.of); intro x h; first | exact h | (simp at h ⊢; try simp [h]; done) | (split <;> simp_all; done))
    | intro _
    | with_reducible apply State.startRecord_moves
    | with_reducible apply moves_ite
    | split
    | dsimp only

theorem State.countStart_moves {w : List Part} {s u : State}  (hmv : Moves w s u) (hsub : [.start, .nvm] ⊆ w) :
    Moves w s (State.countStart u) := by
  unfold State.countStart
  repeat' first
    | with_reducible assumption
    | (with_reducible refine List.Subset.trans ?_ hsub; decide)
    | ((with_reducible apply Keeps.of); intro x h; first | exact h | (simp at h ⊢; try simp [h]; done) | (split <;> simp_all; done))
    | intro _
    | with_reducible apply moves_onStart
    | with_reducible apply moves_onNvm
    | with_reducible apply moves_ite
    | split
    | dsimp only

theorem State.loseDests_moves {w : List Part} {s u : State}  (hmv : Moves w s u) (hsub : [.free, .mem, .poison] ⊆ w) :
    Moves w s (State.loseDests u) := by
  unfold State.loseDests
  repeat' first
    | with_reducible assumption
    | (with_reducible refine List.Subset.trans ?_ hsub; decide)
    | ((with_reducible apply Keeps.of); intro x h; first | exact h | (simp at h ⊢; try simp [h]; done) | (split <;> simp_all; done))
    | intro _
    | with_reducible apply moves_each
    | with_reducible apply State.drawBytes_snd
    | (with_reducible refine State.drawBytes_moves (by assumption) ?_ ?_)
    | with_reducible apply State.poke_moves
    | with_reducible apply moves_ite
    | split
    | dsimp only

theorem State.resetDie_moves {w : List Part} {s u : State} (warm : Bool) (hmv : Moves w s u)
    (hsub : [.free, .sys, .sup, .clk, .start, .cfg, .fiu, .fgu, .aud, .vane, .beu, .vrd, .sml, .cvu, .xwl, .hq, .fwl, .tsu, .psm, .mon, .log, .dbg, .mem, .poison, .caps] ⊆ w) :
    Moves w s (State.resetDie warm u) := by
  have k : ∀ v : State, Moves w s v → Moves w s { v with poison := if warm then v.poison else [] } := fun v h =>
    h.trans (.of_part .poison (hsub (by decide)) (fun q hq => by cases q <;> first | rfl | exact absurd rfl hq) rfl rfl
      (Nat.le_refl _) (fun m => ⟨m.1, by cases warm; exact rfl; exact m.2⟩) fun k => { k with })
  unfold State.resetDie
  refine moves_onStart (moves_onDbg (State.drawBytes_snd (n := 16) (k _ (State.resetBlocks_moves _ ?_ ?_)) ?_) ?_ ?_) ?_
  · exact moves_ite (State.loseDests_moves hmv (List.Subset.trans (by decide) hsub)) hmv
  all_goals first | exact List.Subset.trans (by decide) hsub | exact Keeps.of fun x h => h

theorem State.beginStart_moves {w : List Part} {s u : State} (warm spAlive : Bool) (hmv : Moves w s u) (hsub : [.free, .sys, .sup, .clk, .start, .nvm, .cfg, .fiu, .fgu, .aud, .vane, .beu, .vrd, .slb, .sml, .cvu, .xwl, .hq, .fwl, .tsu, .psm, .mon, .log, .dbg, .ret, .mem, .poison, .caps] ⊆ w) :
    Moves w s (State.beginStart warm spAlive u) := by
  unfold State.beginStart
  repeat' first
    | with_reducible assumption
    | (with_reducible refine List.Subset.trans ?_ hsub; decide)
    | ((with_reducible apply Keeps.of); intro x h; first | exact h | (simp at h ⊢; try simp [h]; done) | (split <;> simp_all; done))
    | intro _
    | with_reducible apply State.restartRecord_moves
    | with_reducible apply State.setState_moves
    | with_reducible apply State.trigStop_moves
    | with_reducible apply State.resetDie_moves
    | with_reducible apply State.countStart_moves
    | with_reducible apply moves_onSlb
    | with_reducible apply moves_ite
    | split
    | dsimp only

theorem State.enterDoldrums_moves {w : List Part} {s u : State} (reason : Nat) (hmv : Moves w s u) (hsub : [.sys, .clk, .start, .nvm, .vrd, .sml, .hq, .psm, .log, .ret] ⊆ w) :
    Moves w s (State.enterDoldrums reason u) := by
  unfold State.enterDoldrums
  repeat' first
    | with_reducible assumption
    | (with_reducible refine List.Subset.trans ?_ hsub; decide)
    | ((with_reducible apply Keeps.of); intro x h; first | exact h | (simp at h ⊢; try simp [h]; done) | (split <;> simp_all; done))
    | intro _
    | with_reducible apply State.setState_moves
    | with_reducible apply State.trigStop_moves
    | with_reducible apply moves_onStart
    | with_reducible apply moves_onNvm
    | with_reducible apply State.evOpen_moves
    | with_reducible apply moves_onHq
    | with_reducible apply moves_onPsm
    | with_reducible apply moves_ite
    | split
    | dsimp only

theorem State.enterOff_moves {w : List Part} {s u : State}  (hmv : Moves w s u) (hsub : [.sys, .sup, .clk, .start, .vrd, .slb, .sml, .psm, .log, .ret] ⊆ w) :
    Moves w s (State.enterOff u) := by
  unfold State.enterOff
  repeat' first
    | with_reducible assumption
    | (with_reducible refine List.Subset.trans ?_ hsub; decide)
    | ((with_reducible apply Keeps.of); intro x h; first | exact h | (simp at h ⊢; try simp [h]; done) | (split <;> simp_all; done))
    | intro _
    | with_reducible apply State.setState_moves
    | with_reducible apply State.trigStop_moves
    | with_reducible apply moves_onSup
    | with_reducible apply moves_onSys
    | with_reducible apply moves_onSlb
    | with_reducible apply moves_ite
    | split
    | dsimp only

theorem State.spTrip_moves {w : List Part} {s u : State} (src : Nat) (sto : Bool) (hmv : Moves w s u) (hsub : [.sys] ⊆ w) :
    Moves w s (State.spTrip src sto u) := by
  unfold State.spTrip
  repeat' first
    | with_reducible assumption
    | (with_reducible refine List.Subset.trans ?_ hsub; decide)
    | ((with_reducible apply Keeps.of); intro x h; first | exact h | (simp at h ⊢; try simp [h]; done) | (split <;> simp_all; done))
    | intro _
    | with_reducible apply moves_onSys
    | with_reducible apply moves_ite
    | split
    | dsimp only

theorem State.slbTrip_moves {w : List Part} {s u : State} (src : Nat) (sto : Bool) (hmv : Moves w s u) (hsub : [.slb] ⊆ w) :
    Moves w s (State.slbTrip src sto u) := by
  unfold State.slbTrip
  repeat' first
    | with_reducible assumption
    | (with_reducible refine List.Subset.trans ?_ hsub; decide)
    | ((with_reducible apply Keeps.of); intro x h; first | exact h | (simp at h ⊢; try simp [h]; done) | (split <;> simp_all; done))
    | intro _
    | with_reducible apply moves_onSlb
    | with_reducible apply moves_ite
    | split
    | dsimp only

theorem State.request_moves {w : List Part} {s u : State} (sto : Bool) (src : Nat) (hmv : Moves w s u) (hsub : [.sys] ⊆ w) :
    Moves w s (State.request sto src u) := by
  unfold State.request
  repeat' first
    | with_reducible assumption
    | (with_reducible refine List.Subset.trans ?_ hsub; decide)
    | ((with_reducible apply Keeps.of); intro x h; first | exact h | (simp at h ⊢; try simp [h]; done) | (split <;> simp_all; done))
    | intro _
    | with_reducible apply moves_onSys
    | with_reducible apply moves_ite
    | split
    | dsimp only

theorem State.holdStop_moves {w : List Part} {s u : State} (sto : Bool) (src : Nat) (hmv : Moves w s u) (hsub : [.sys] ⊆ w) :
    Moves w s (State.holdStop sto src u) := by
  unfold State.holdStop
  repeat' first
    | with_reducible assumption
    | (with_reducible refine List.Subset.trans ?_ hsub; decide)
    | ((with_reducible apply Keeps.of); intro x h; first | exact h | (simp at h ⊢; try simp [h]; done) | (split <;> simp_all; done))
    | intro _
    | with_reducible apply moves_onSys
    | with_reducible apply moves_ite
    | split
    | dsimp only

theorem State.takeTrip_moves {w : List Part} {s u : State} (own : Bool) (x : Trip) (hmv : Moves w s u) (hsub : [.sys, .start, .vrd, .sml, .psm, .log, .ret] ⊆ w) :
    Moves w s (State.takeTrip own x u) := by
  unfold State.takeTrip
  repeat' first
    | with_reducible assumption
    | (with_reducible refine List.Subset.trans ?_ hsub; decide)
    | ((with_reducible apply Keeps.of); intro x h; first | exact h | (simp at h ⊢; try simp [h]; done) | (split <;> simp_all; done))
    | intro _
    | with_reducible apply State.ev_moves
    | with_reducible apply State.holdStop_moves
    | with_reducible apply moves_onSys
    | with_reducible apply moves_onStart
    | with_reducible apply State.request_moves
    | with_reducible apply State.setState_moves
    | with_reducible apply moves_ite
    | split
    | dsimp only

theorem State.debugToCommission_moves {w : List Part} {s u : State}  (hmv : Moves w s u) (hsub : [.sys, .vrd, .sml, .psm, .log, .ret] ⊆ w) :
    Moves w s (State.debugToCommission u) := by
  unfold State.debugToCommission
  repeat' first
    | with_reducible assumption
    | (with_reducible refine List.Subset.trans ?_ hsub; decide)
    | ((with_reducible apply Keeps.of); intro x h; first | exact h | (simp at h ⊢; try simp [h]; done) | (split <;> simp_all; done))
    | intro _
    | with_reducible apply State.request_moves
    | with_reducible apply moves_onSys
    | with_reducible apply State.setState_moves
    | with_reducible apply moves_ite
    | split
    | dsimp only

theorem State.degClear_moves {w : List Part} {s u : State}  (hmv : Moves w s u) (hsub : [.sys] ⊆ w) :
    Moves w s (State.degClear u) := by
  unfold State.degClear
  repeat' first
    | with_reducible assumption
    | (with_reducible refine List.Subset.trans ?_ hsub; decide)
    | ((with_reducible apply Keeps.of); intro x h; first | exact h | (simp at h ⊢; try simp [h]; done) | (split <;> simp_all; done))
    | intro _
    | with_reducible apply moves_onSys
    | with_reducible apply moves_ite
    | split
    | dsimp only

theorem State.toDegraded_moves {w : List Part} {s u : State} (resume : Bool) (hmv : Moves w s u) (hsub : [.sys, .vrd, .sml, .psm, .log, .ret] ⊆ w) :
    Moves w s (State.toDegraded resume u) := by
  unfold State.toDegraded
  repeat' first
    | with_reducible assumption
    | (with_reducible refine List.Subset.trans ?_ hsub; decide)
    | ((with_reducible apply Keeps.of); intro x h; first | exact h | (simp at h ⊢; try simp [h]; done) | (split <;> simp_all; done))
    | intro _
    | with_reducible apply State.setState_moves
    | with_reducible apply moves_onSys
    | with_reducible apply moves_ite
    | split
    | dsimp only

theorem State.toRun_moves {w : List Part} {s u : State}  (hmv : Moves w s u) (hsub : [.sys, .vrd, .sml, .psm, .log, .ret] ⊆ w) :
    Moves w s (State.toRun u) := by
  unfold State.toRun
  repeat' first
    | with_reducible assumption
    | (with_reducible refine List.Subset.trans ?_ hsub; decide)
    | ((with_reducible apply Keeps.of); intro x h; first | exact h | (simp at h ⊢; try simp [h]; done) | (split <;> simp_all; done))
    | intro _
    | with_reducible apply State.setState_moves
    | with_reducible apply State.degClear_moves
    | with_reducible apply moves_ite
    | split
    | dsimp only

theorem State.endStop_moves {w : List Part} {s u : State}  (hmv : Moves w s u) (hsub : [.sys] ⊆ w) :
    Moves w s (State.endStop u) := by
  unfold State.endStop
  repeat' first
    | with_reducible assumption
    | (with_reducible refine List.Subset.trans ?_ hsub; decide)
    | ((with_reducible apply Keeps.of); intro x h; first | exact h | (simp at h ⊢; try simp [h]; done) | (split <;> simp_all; done))
    | intro _
    | with_reducible apply moves_onSys
    | with_reducible apply moves_ite
    | split
    | dsimp only

theorem State.restartFrom_moves {w : List Part} {s u : State}  (hmv : Moves w s u) (hsub : [.sys, .vrd, .slb, .sml, .psm, .log, .ret] ⊆ w) :
    Moves w s (State.restartFrom u) := by
  unfold State.restartFrom
  repeat' first
    | with_reducible assumption
    | (with_reducible refine List.Subset.trans ?_ hsub; decide)
    | ((with_reducible apply Keeps.of); intro x h; first | exact h | (simp at h ⊢; try simp [h]; done) | (split <;> simp_all; done))
    | intro _
    | with_reducible apply State.endStop_moves
    | with_reducible apply State.setState_moves
    | with_reducible apply State.degClear_moves
    | with_reducible apply State.toDegraded_moves
    | with_reducible apply moves_onSlb
    | with_reducible apply moves_ite
    | split
    | dsimp only

theorem State.settleTqen_moves {w : List Part} {s u : State}  (hmv : Moves w s u) (hsub : [.sys] ⊆ w) :
    Moves w s (State.settleTqen u) := by
  unfold State.settleTqen
  repeat' first
    | with_reducible assumption
    | (with_reducible refine List.Subset.trans ?_ hsub; decide)
    | ((with_reducible apply Keeps.of); intro x h; first | exact h | (simp at h ⊢; try simp [h]; done) | (split <;> simp_all; done))
    | intro _
    | with_reducible apply moves_onSys
    | with_reducible apply moves_ite
    | split
    | dsimp only

theorem State.settleReq_moves {w : List Part} {s u : State}  (hmv : Moves w s u) (hsub : [.sys] ⊆ w) :
    Moves w s (State.settleReq u) := by
  unfold State.settleReq
  repeat' first
    | with_reducible assumption
    | (with_reducible refine List.Subset.trans ?_ hsub; decide)
    | ((with_reducible apply Keeps.of); intro x h; first | exact h | (simp at h ⊢; try simp [h]; done) | (split <;> simp_all; done))
    | intro _
    | with_reducible apply moves_onSys
    | with_reducible apply moves_ite
    | split
    | dsimp only

end Sys2Proof.Machine
end

