-- ==== Sys2Proof/Laws/FrameSlb.lean ====
section
/-! SUPPORT. Frames of the operations of Machine/Slb.lean. -/

namespace Sys2Proof.Machine

theorem State.mirrorSlb_moves {w : List Part} {s u : State}  (hmv : Moves w s u) (hsub : [.slb] ⊆ w) :
    Moves w s (State.mirrorSlb u) := by
  unfold State.mirrorSlb
  repeat' first
    | with_reducible assumption
    | (with_reducible refine List.Subset.trans ?_ hsub; decide)
    | ((with_reducible apply Keeps.of); intro x h; first | exact h | (simp at h ⊢; try simp [h]; done) | (split <;> simp_all; done))
    | intro _
    | with_reducible apply moves_onSlb
    | with_reducible apply moves_ite
    | split
    | dsimp only

theorem State.onInput_moves {w : List Part} {s u : State} (n : Nat) (f : SInput → SInput) (hmv : Moves w s u) (hsub : [.slb] ⊆ w) :
    Moves w s (State.onInput n f u) := by
  unfold State.onInput
  repeat' first
    | with_reducible assumption
    | (with_reducible refine List.Subset.trans ?_ hsub; decide)
    | ((with_reducible apply Keeps.of); intro x h; first | exact h | (simp at h ⊢; try simp [h]; done) | (split <;> simp_all; done))
    | intro _
    | with_reducible apply moves_onSlb
    | with_reducible apply moves_ite
    | split
    | dsimp only

theorem State.groupOff_moves {w : List Part} {s u : State} (n why : Nat) (hmv : Moves w s u) (hsub : [.slb] ⊆ w) :
    Moves w s (State.groupOff n why u) := by
  unfold State.groupOff
  repeat' first
    | with_reducible assumption
    | (with_reducible refine List.Subset.trans ?_ hsub; decide)
    | ((with_reducible apply Keeps.of); intro x h; first | exact h | (simp at h ⊢; try simp [h]; done) | (split <;> simp_all; done))
    | intro _
    | with_reducible apply moves_onSlb
    | with_reducible apply moves_ite
    | split
    | dsimp only

theorem State.brakeTick_moves {w : List Part} {s u : State} (n : Nat) (hmv : Moves w s u) (hsub : [.slb] ⊆ w) :
    Moves w s (State.brakeTick n u) := by
  unfold State.brakeTick
  repeat' first
    | with_reducible assumption
    | (with_reducible refine List.Subset.trans ?_ hsub; decide)
    | ((with_reducible apply Keeps.of); intro x h; first | exact h | (simp at h ⊢; try simp [h]; done) | (split <;> simp_all; done))
    | intro _
    | with_reducible apply moves_onSlb
    | with_reducible apply moves_ite
    | split
    | dsimp only

theorem State.beatLost_moves {w : List Part} {s u : State}  (hmv : Moves w s u) (hsub : [.slb] ⊆ w) :
    Moves w s (State.beatLost u) := by
  unfold State.beatLost
  repeat' first
    | with_reducible assumption
    | (with_reducible refine List.Subset.trans ?_ hsub; decide)
    | ((with_reducible apply Keeps.of); intro x h; first | exact h | (simp at h ⊢; try simp [h]; done) | (split <;> simp_all; done))
    | intro _
    | with_reducible apply moves_onSlb
    | with_reducible apply State.slbTrip_moves
    | with_reducible apply moves_ite
    | split
    | dsimp only

theorem State.slbDrop_moves {w : List Part} {s u : State}  (hmv : Moves w s u) (hsub : [.slb] ⊆ w) :
    Moves w s (State.slbDrop u) := by
  unfold State.slbDrop
  repeat' first
    | with_reducible assumption
    | (with_reducible refine List.Subset.trans ?_ hsub; decide)
    | ((with_reducible apply Keeps.of); intro x h; first | exact h | (simp at h ⊢; try simp [h]; done) | (split <;> simp_all; done))
    | intro _
    | with_reducible apply State.beatLost_moves
    | with_reducible apply moves_each
    | with_reducible apply State.groupOff_moves
    | with_reducible apply moves_onSlb
    | with_reducible apply moves_ite
    | split
    | dsimp only

theorem State.dieReset_moves {w : List Part} {s u : State}  (hmv : Moves w s u) (hsub : [.free, .sys, .sup, .clk, .start, .nvm, .cfg, .fiu, .fgu, .aud, .vane, .beu, .vrd, .slb, .sml, .cvu, .xwl, .hq, .fwl, .tsu, .psm, .mon, .log, .dbg, .ret, .mem, .poison, .caps] ⊆ w) :
    Moves w s (State.dieReset u) := by
  unfold State.dieReset
  repeat' first
    | with_reducible assumption
    | (with_reducible refine List.Subset.trans ?_ hsub; decide)
    | ((with_reducible apply Keeps.of); intro x h; first | exact h | (simp at h ⊢; try simp [h]; done) | (split <;> simp_all; done))
    | intro _
    | with_reducible apply State.stage_moves
    | with_reducible apply State.stageFail_moves
    | with_reducible apply State.endRecord_moves
    | with_reducible apply State.beginStart_moves
    | with_reducible apply moves_ite
    | split
    | dsimp only

end Sys2Proof.Machine
end

