-- ==== Sys2Proof/Laws/FrameSp.lean ====
section
/-! SUPPORT. Frames of the operations of Machine/Sp.lean. -/

namespace Sys2Proof.Machine

theorem State.connFail_moves {w : List Part} {s u : State} (k0 : Nat) (hmv : Moves w s u) (hsub : [.sys, .sml] ⊆ w) :
    Moves w s (State.connFail k0 u) := by
  unfold State.connFail
  repeat' first
    | with_reducible assumption
    | (with_reducible refine List.Subset.trans ?_ hsub; decide)
    | ((with_reducible apply Keeps.of); intro x h; first | exact h | (simp at h ⊢; try simp [h]; done) | (split <;> simp_all; done))
    | intro _
    | with_reducible apply State.onConn_moves
    | with_reducible apply State.spTrip_moves
    | with_reducible apply moves_ite
    | split
    | dsimp only

theorem State.dogs_moves {w : List Part} {s u : State}  (hmv : Moves w s u) (hsub : [.sys, .sml] ⊆ w) :
    Moves w s (State.dogs u) := by
  unfold State.dogs
  repeat' first
    | with_reducible assumption
    | (with_reducible refine List.Subset.trans ?_ hsub; decide)
    | ((with_reducible apply Keeps.of); intro x h; first | exact h | (simp at h ⊢; try simp [h]; done) | (split <;> simp_all; done))
    | intro _
    | with_reducible apply moves_onSml
    | with_reducible apply moves_each
    | with_reducible apply moves_when
    | with_reducible apply State.connFail_moves
    | with_reducible apply moves_ite
    | split
    | dsimp only

theorem State.settleSingle_moves {w : List Part} {s u : State}  (hmv : Moves w s u) (hsub : [.sml] ⊆ w) :
    Moves w s (State.settleSingle u) := by
  unfold State.settleSingle
  repeat' first
    | with_reducible assumption
    | (with_reducible refine List.Subset.trans ?_ hsub; decide)
    | ((with_reducible apply Keeps.of); intro x h; first | exact h | (simp at h ⊢; try simp [h]; done) | (split <;> simp_all; done))
    | intro _
    | with_reducible apply moves_onSml
    | with_reducible apply moves_ite
    | split
    | dsimp only

theorem State.sealTrip_moves {w : List Part} {s u : State}  (hmv : Moves w s u) (hsub : [.sys] ⊆ w) :
    Moves w s (State.sealTrip u) := by
  unfold State.sealTrip
  repeat' first
    | with_reducible assumption
    | (with_reducible refine List.Subset.trans ?_ hsub; decide)
    | ((with_reducible apply Keeps.of); intro x h; first | exact h | (simp at h ⊢; try simp [h]; done) | (split <;> simp_all; done))
    | intro _
    | with_reducible apply State.spTrip_moves
    | with_reducible apply moves_ite
    | split
    | dsimp only

theorem State.ringStop_moves {w : List Part} {s u : State} (x : Trip) (hmv : Moves w s u) (hsub : [.xwl] ⊆ w) :
    Moves w s (State.ringStop x u) := by
  unfold State.ringStop
  repeat' first
    | with_reducible assumption
    | (with_reducible refine List.Subset.trans ?_ hsub; decide)
    | ((with_reducible apply Keeps.of); intro x h; first | exact h | (simp at h ⊢; try simp [h]; done) | (split <;> simp_all; done))
    | intro _
    | with_reducible apply moves_send
    | with_reducible apply moves_onXwl
    | with_reducible apply moves_ite
    | split
    | dsimp only

theorem State.oneTrip_moves {w : List Part} {s u : State} (own : Bool) (x : Trip) (hmv : Moves w s u) (hsub : [.sys, .start, .vrd, .sml, .xwl, .psm, .log, .ret] ⊆ w) :
    Moves w s (State.oneTrip own x u) := by
  unfold State.oneTrip
  repeat' first
    | with_reducible assumption
    | (with_reducible refine List.Subset.trans ?_ hsub; decide)
    | ((with_reducible apply Keeps.of); intro x h; first | exact h | (simp at h ⊢; try simp [h]; done) | (split <;> simp_all; done))
    | intro _
    | with_reducible apply State.ringStop_moves
    | with_reducible apply State.takeTrip_moves
    | with_reducible apply moves_ite
    | split
    | dsimp only

theorem State.sendTokens_moves {w : List Part} {s u : State}  (hmv : Moves w s u) (hsub : [.vrd, .sml] ⊆ w) :
    Moves w s (State.sendTokens u) := by
  unfold State.sendTokens
  repeat' first
    | with_reducible assumption
    | (with_reducible refine List.Subset.trans ?_ hsub; decide)
    | ((with_reducible apply Keeps.of); intro x h; first | exact h | (simp at h ⊢; try simp [h]; done) | (split <;> simp_all; done))
    | intro _
    | with_reducible apply moves_onVrd
    | with_reducible apply moves_each
    | with_reducible apply moves_with
    | with_reducible apply State.sendMsg_moves
    | with_reducible apply moves_ite
    | split
    | dsimp only

theorem State.sendStops_moves {w : List Part} {s u : State}  (hmv : Moves w s u) (hsub : [.slb, .sml] ⊆ w) :
    Moves w s (State.sendStops u) := by
  unfold State.sendStops
  repeat' first
    | with_reducible assumption
    | (with_reducible refine List.Subset.trans ?_ hsub; decide)
    | ((with_reducible apply Keeps.of); intro x h; first | exact h | (simp at h ⊢; try simp [h]; done) | (split <;> simp_all; done))
    | intro _
    | with_reducible apply moves_onSlb
    | with_reducible apply moves_each
    | with_reducible apply State.stopCommand_moves
    | with_reducible apply moves_ite
    | split
    | dsimp only

theorem State.cycleTrips_moves {w : List Part} {s u : State}  (hmv : Moves w s u) (hsub : [.sys, .start, .vrd, .slb, .sml, .xwl, .psm, .log, .ret] ⊆ w) :
    Moves w s (State.cycleTrips u) := by
  unfold State.cycleTrips
  repeat' first
    | with_reducible assumption
    | (with_reducible refine List.Subset.trans ?_ hsub; decide)
    | ((with_reducible apply Keeps.of); intro x h; first | exact h | (simp at h ⊢; try simp [h]; done) | (split <;> simp_all; done))
    | intro _
    | with_reducible apply moves_onSlb
    | with_reducible apply moves_onSys
    | with_reducible apply moves_each
    | with_reducible apply State.oneTrip_moves
    | with_reducible apply moves_ite
    | split
    | dsimp only

theorem State.cycleChanges_moves {w : List Part} {s u : State} (tripped : Bool) (hmv : Moves w s u) (hsub : [.sys, .start, .vrd, .slb, .sml, .xwl, .psm, .log, .ret] ⊆ w) :
    Moves w s (State.cycleChanges tripped u) := by
  unfold State.cycleChanges
  repeat' first
    | with_reducible assumption
    | (with_reducible refine List.Subset.trans ?_ hsub; decide)
    | ((with_reducible apply Keeps.of); intro x h; first | exact h | (simp at h ⊢; try simp [h]; done) | (split <;> simp_all; done))
    | intro _
    | with_reducible apply State.oneTrip_moves
    | with_reducible apply State.debugToCommission_moves
    | with_reducible apply moves_onSys
    | with_reducible apply moves_onSlb
    | with_reducible apply State.restartFrom_moves
    | with_reducible apply State.toRun_moves
    | with_reducible apply State.toDegraded_moves
    | with_reducible apply moves_ite
    | split
    | dsimp only

theorem State.lapseArming_moves {w : List Part} {s u : State}  (hmv : Moves w s u) (hsub : [.sys] ⊆ w) :
    Moves w s (State.lapseArming u) := by
  unfold State.lapseArming
  repeat' first
    | with_reducible assumption
    | (with_reducible refine List.Subset.trans ?_ hsub; decide)
    | ((with_reducible apply Keeps.of); intro x h; first | exact h | (simp at h ⊢; try simp [h]; done) | (split <;> simp_all; done))
    | intro _
    | with_reducible apply moves_onSys
    | with_reducible apply moves_ite
    | split
    | dsimp only

theorem State.sendFrame_moves {w : List Part} {s u : State}  (hmv : Moves w s u) (hsub : [.sys, .slb] ⊆ w) :
    Moves w s (State.sendFrame u) := by
  unfold State.sendFrame
  repeat' first
    | with_reducible assumption
    | (with_reducible refine List.Subset.trans ?_ hsub; decide)
    | ((with_reducible apply Keeps.of); intro x h; first | exact h | (simp at h ⊢; try simp [h]; done) | (split <;> simp_all; done))
    | intro _
    | with_reducible apply moves_onSlb
    | with_reducible apply moves_onSys
    | with_reducible apply moves_ite
    | split
    | dsimp only

theorem State.endRingStop_moves {w : List Part} {s u : State}  (hmv : Moves w s u) (hsub : [.xwl] ⊆ w) :
    Moves w s (State.endRingStop u) := by
  unfold State.endRingStop
  repeat' first
    | with_reducible assumption
    | (with_reducible refine List.Subset.trans ?_ hsub; decide)
    | ((with_reducible apply Keeps.of); intro x h; first | exact h | (simp at h ⊢; try simp [h]; done) | (split <;> simp_all; done))
    | intro _
    | with_reducible apply moves_onXwl
    | with_reducible apply moves_ite
    | split
    | dsimp only

theorem State.spCycle_moves {w : List Part} {s u : State}  (hmv : Moves w s u) (hsub : [.sys, .start, .vrd, .slb, .sml, .xwl, .psm, .log, .ret] ⊆ w) :
    Moves w s (State.spCycle u) := by
  unfold State.spCycle
  repeat' first
    | with_reducible assumption
    | (with_reducible refine List.Subset.trans ?_ hsub; decide)
    | ((with_reducible apply Keeps.of); intro x h; first | exact h | (simp at h ⊢; try simp [h]; done) | (split <;> simp_all; done))
    | intro _
    | with_reducible apply State.sendStops_moves
    | with_reducible apply State.dogs_moves
    | with_reducible apply State.cycleTrips_moves
    | with_reducible apply State.cycleChanges_moves
    | with_reducible apply State.sealTrip_moves
    | with_reducible apply State.lapseArming_moves
    | with_reducible apply State.settleSingle_moves
    | with_reducible apply State.settleReq_moves
    | with_reducible apply State.settleTqen_moves
    | with_reducible apply State.endRingStop_moves
    | with_reducible apply moves_onSys
    | with_reducible apply State.sendFrame_moves
    | with_reducible apply State.sendTokens_moves
    | with_reducible apply moves_ite
    | split
    | dsimp only

end Sys2Proof.Machine
end

