-- ==== Sys2Proof/Laws/FrameTime.lean ====
section
/-! SUPPORT. Frames of the operations of Machine/Time.lean. -/

namespace Sys2Proof.Machine

theorem State.rtcLoad_moves {w : List Part} {s u : State} (v : Nat) (hmv : Moves w s u) (hsub : [.rtc] ⊆ w) :
    Moves w s (State.rtcLoad v u) := by
  unfold State.rtcLoad
  repeat' first
    | with_reducible assumption
    | (with_reducible refine List.Subset.trans ?_ hsub; decide)
    | ((with_reducible apply Keeps.of); intro x h; first | exact h | (simp at h ⊢; try simp [h]; done) | (split <;> simp_all; done))
    | intro _
    | with_reducible apply moves_onRtc
    | with_reducible apply moves_ite
    | split
    | dsimp only

theorem State.rtcFollow_moves {w : List Part} {s u : State}  (hmv : Moves w s u) (hsub : [.rtc] ⊆ w) :
    Moves w s (State.rtcFollow u) := by
  unfold State.rtcFollow
  repeat' first
    | with_reducible assumption
    | (with_reducible refine List.Subset.trans ?_ hsub; decide)
    | ((with_reducible apply Keeps.of); intro x h; first | exact h | (simp at h ⊢; try simp [h]; done) | (split <;> simp_all; done))
    | intro _
    | with_reducible apply moves_onRtc
    | with_reducible apply moves_ite
    | split
    | dsimp only

theorem State.setSync_moves {w : List Part} {s u : State} (x : Sync) (hmv : Moves w s u) (hsub : [.clk, .log, .ret] ⊆ w) :
    Moves w s (State.setSync x u) := by
  unfold State.setSync
  repeat' first
    | with_reducible assumption
    | (with_reducible refine List.Subset.trans ?_ hsub; decide)
    | ((with_reducible apply Keeps.of); intro x h; first | exact h | (simp at h ⊢; try simp [h]; done) | (split <;> simp_all; done))
    | intro _
    | with_reducible apply moves_onClk
    | with_reducible apply State.ev_moves
    | with_reducible apply moves_ite
    | split
    | dsimp only

theorem State.initTime_moves {w : List Part} {s u : State}  (hmv : Moves w s u) (hsub : [.clk] ⊆ w) :
    Moves w s (State.initTime u) := by
  unfold State.initTime
  repeat' first
    | with_reducible assumption
    | (with_reducible refine List.Subset.trans ?_ hsub; decide)
    | ((with_reducible apply Keeps.of); intro x h; first | exact h | (simp at h ⊢; try simp [h]; done) | (split <;> simp_all; done))
    | intro _
    | with_reducible apply moves_onClk
    | with_reducible apply moves_ite
    | split
    | dsimp only

theorem State.servoDraw_moves {w : List Part} {s u : State}  (hmv : Moves w s u) (hsub : [.free, .clk] ⊆ w) :
    Moves w s (State.servoDraw u) := by
  unfold State.servoDraw
  repeat' first
    | with_reducible assumption
    | (with_reducible refine List.Subset.trans ?_ hsub; decide)
    | ((with_reducible apply Keeps.of); intro x h; first | exact h | (simp at h ⊢; try simp [h]; done) | (split <;> simp_all; done))
    | intro _
    | with_reducible apply State.draw_snd
    | (with_reducible refine State.draw_moves (by assumption) ?_ ?_)
    | with_reducible apply moves_onClk
    | with_reducible apply moves_ite
    | split
    | dsimp only

theorem State.discipline_moves {w : List Part} {s u : State} (offset : Int) (hmv : Moves w s u) (hsub : [.free, .clk, .sml, .log, .ret] ⊆ w) :
    Moves w s (State.discipline offset u) := by
  unfold State.discipline
  repeat' first
    | with_reducible assumption
    | (with_reducible refine List.Subset.trans ?_ hsub; decide)
    | ((with_reducible apply Keeps.of); intro x h; first | exact h | (simp at h ⊢; try simp [h]; done) | (split <;> simp_all; done))
    | intro _
    | with_reducible apply State.servoDraw_moves
    | with_reducible apply moves_onClk
    | with_reducible apply moves_onSml
    | with_reducible apply State.ev_moves
    | with_reducible apply moves_ite
    | split
    | dsimp only

theorem State.countLock_moves {w : List Part} {s u : State} (offset : Int) (hmv : Moves w s u) (hsub : [.clk, .log, .ret] ⊆ w) :
    Moves w s (State.countLock offset u) := by
  unfold State.countLock
  repeat' first
    | with_reducible assumption
    | (with_reducible refine List.Subset.trans ?_ hsub; decide)
    | ((with_reducible apply Keeps.of); intro x h; first | exact h | (simp at h ⊢; try simp [h]; done) | (split <;> simp_all; done))
    | intro _
    | with_reducible apply moves_onClk
    | with_reducible apply State.setSync_moves
    | with_reducible apply moves_ite
    | split
    | dsimp only

theorem State.select_moves {w : List Part} {s u : State} (y : PtpSync) (hmv : Moves w s u) (hsub : [.free, .clk, .sml, .log, .ret] ⊆ w) :
    Moves w s (State.select y u) := by
  unfold State.select
  repeat' first
    | with_reducible assumption
    | (with_reducible refine List.Subset.trans ?_ hsub; decide)
    | ((with_reducible apply Keeps.of); intro x h; first | exact h | (simp at h ⊢; try simp [h]; done) | (split <;> simp_all; done))
    | intro _
    | with_reducible apply moves_onClk
    | with_reducible apply State.countLock_moves
    | with_reducible apply State.discipline_moves
    | with_reducible apply moves_ite
    | split
    | dsimp only

theorem State.noteSync_moves {w : List Part} {s u : State} (y : PtpSync) (hmv : Moves w s u) (hsub : [.clk] ⊆ w) :
    Moves w s (State.noteSync y u) := by
  unfold State.noteSync
  repeat' first
    | with_reducible assumption
    | (with_reducible refine List.Subset.trans ?_ hsub; decide)
    | ((with_reducible apply Keeps.of); intro x h; first | exact h | (simp at h ⊢; try simp [h]; done) | (split <;> simp_all; done))
    | intro _
    | with_reducible apply moves_onClk
    | with_reducible apply moves_ite
    | split
    | dsimp only

theorem State.onTrig_moves {w : List Part} {s u : State} (n : Nat) (f : Trig → Trig) (hmv : Moves w s u) (hsub : [.clk] ⊆ w) :
    Moves w s (State.onTrig n f u) := by
  unfold State.onTrig
  repeat' first
    | with_reducible assumption
    | (with_reducible refine List.Subset.trans ?_ hsub; decide)
    | ((with_reducible apply Keeps.of); intro x h; first | exact h | (simp at h ⊢; try simp [h]; done) | (split <;> simp_all; done))
    | intro _
    | with_reducible apply moves_onClk
    | with_reducible apply moves_ite
    | split
    | dsimp only

end Sys2Proof.Machine
end

