-- ==== Sys2Proof/Laws/FrameMonLog.lean ====
section
/-! SUPPORT. Frames of the operations of Machine/MonLog.lean. -/

namespace Sys2Proof.Machine

theorem State.onBg_moves {w : List Part} {s u : State} (a : Nat) (f : Bg → Bg) (hmv : Moves w s u) (hsub : [.psm] ⊆ w) :
    Moves w s (State.onBg a f u) := by
  unfold State.onBg
  repeat' first
    | with_reducible assumption
    | (with_reducible refine List.Subset.trans ?_ hsub; decide)
    | ((with_reducible apply Keeps.of); intro x h; first | exact h | (simp at h ⊢; try simp [h]; done) | (split <;> simp_all; done))
    | intro _
    | with_reducible apply moves_onPsm
    | with_reducible apply moves_ite
    | split
    | dsimp only

theorem State.bgDone_moves {w : List Part} {s u : State} (a : Nat) (hmv : Moves w s u) (hsub : [.psm] ⊆ w) :
    Moves w s (State.bgDone a u) := by
  unfold State.bgDone
  repeat' first
    | with_reducible assumption
    | (with_reducible refine List.Subset.trans ?_ hsub; decide)
    | ((with_reducible apply Keeps.of); intro x h; first | exact h | (simp at h ⊢; try simp [h]; done) | (split <;> simp_all; done))
    | intro _
    | with_reducible apply State.onBg_moves
    | with_reducible apply moves_ite
    | split
    | dsimp only

theorem State.sample_moves {w : List Part} {s u : State} (n : Nat) (r : MonRec) (v : Int) (hmv : Moves w s u) (hsub : [.mon, .log, .ret] ⊆ w) :
    Moves w s (State.sample n r v u) := by
  unfold State.sample
  repeat' first
    | with_reducible assumption
    | (with_reducible refine List.Subset.trans ?_ hsub; decide)
    | ((with_reducible apply Keeps.of); intro x h; first | exact h | (simp at h ⊢; try simp [h]; done) | (split <;> simp_all; done))
    | intro _
    | with_reducible apply moves_onMon
    | with_reducible apply State.ev_moves
    | with_reducible apply moves_ite
    | split
    | dsimp only

theorem State.latency_moves {w : List Part} {s u : State} (source subject ns : Nat) (hmv : Moves w s u) (hsub : [.mon, .log, .ret] ⊆ w) :
    Moves w s (State.latency source subject ns u) := by
  unfold State.latency
  repeat' first
    | with_reducible assumption
    | (with_reducible refine List.Subset.trans ?_ hsub; decide)
    | ((with_reducible apply Keeps.of); intro x h; first | exact h | (simp at h ⊢; try simp [h]; done) | (split <;> simp_all; done))
    | intro _
    | with_reducible apply moves_each
    | with_reducible apply State.sample_moves
    | with_reducible apply moves_ite
    | split
    | dsimp only

theorem State.onSnap_moves {w : List Part} {s u : State} (b : Bank) (f : SnapBank → SnapBank) (hmv : Moves w s u) (hsub : [.mon] ⊆ w) :
    Moves w s (State.onSnap b f u) := by
  unfold State.onSnap
  repeat' first
    | with_reducible assumption
    | (with_reducible refine List.Subset.trans ?_ hsub; decide)
    | ((with_reducible apply Keeps.of); intro x h; first | exact h | (simp at h ⊢; try simp [h]; done) | (split <;> simp_all; done))
    | intro _
    | with_reducible apply moves_onMon
    | with_reducible apply moves_ite
    | split
    | dsimp only

theorem State.snap_moves {w : List Part} {s u : State} (b : Bank) (n : Nat) (hmv : Moves w s u) (hsub : [.mon] ⊆ w) :
    Moves w s (State.snap b n u) := by
  unfold State.snap
  repeat' first
    | with_reducible assumption
    | (with_reducible refine List.Subset.trans ?_ hsub; decide)
    | ((with_reducible apply Keeps.of); intro x h; first | exact h | (simp at h ⊢; try simp [h]; done) | (split <;> simp_all; done))
    | intro _
    | with_reducible apply State.onSnap_moves
    | with_reducible apply moves_ite
    | split
    | dsimp only

theorem State.onBank_moves {w : List Part} {s u : State} (b : Bank) (f : LogBank → LogBank) (hmv : Moves w s u) (hsub : [.log] ⊆ w) :
    Moves w s (State.onBank b f u) := by
  unfold State.onBank
  repeat' first
    | with_reducible assumption
    | (with_reducible refine List.Subset.trans ?_ hsub; decide)
    | ((with_reducible apply Keeps.of); intro x h; first | exact h | (simp at h ⊢; try simp [h]; done) | (split <;> simp_all; done))
    | intro _
    | with_reducible apply moves_onLog
    | with_reducible apply moves_ite
    | split
    | dsimp only

end Sys2Proof.Machine
end

