-- ==== Sys2Proof/Laws/FrameSml.lean ====
section
/-! SUPPORT. Frames of the operations of Machine/Sml.lean. -/

namespace Sys2Proof.Machine

theorem State.cvuNote_moves {w : List Part} {s u : State} (u0 v : Nat) (ok : Bool) (hmv : Moves w s u) (hsub : [.cvu] ⊆ w) :
    Moves w s (State.cvuNote u0 v ok u) := by
  unfold State.cvuNote
  repeat' first
    | with_reducible assumption
    | (with_reducible refine List.Subset.trans ?_ hsub; decide)
    | ((with_reducible apply Keeps.of); intro x h; first | exact h | (simp at h ⊢; try simp [h]; done) | (split <;> simp_all; done))
    | intro _
    | with_reducible apply moves_with
    | with_reducible apply moves_onCvu
    | with_reducible apply moves_ite
    | split
    | dsimp only

theorem State.cvuFrameLost_moves {w : List Part} {s u : State} (n : Nat) (hmv : Moves w s u) (hsub : [.fiu] ⊆ w) :
    Moves w s (State.cvuFrameLost n u) := by
  unfold State.cvuFrameLost
  repeat' first
    | with_reducible assumption
    | (with_reducible refine List.Subset.trans ?_ hsub; decide)
    | ((with_reducible apply Keeps.of); intro x h; first | exact h | (simp at h ⊢; try simp [h]; done) | (split <;> simp_all; done))
    | intro _
    | with_reducible apply moves_onFiu
    | with_reducible apply moves_ite
    | split
    | dsimp only

theorem State.cvuStreamLost_moves {w : List Part} {s u : State} (n : Nat) (hmv : Moves w s u) (hsub : [.fiu] ⊆ w) :
    Moves w s (State.cvuStreamLost n u) := by
  unfold State.cvuStreamLost
  repeat' first
    | with_reducible assumption
    | (with_reducible refine List.Subset.trans ?_ hsub; decide)
    | ((with_reducible apply Keeps.of); intro x h; first | exact h | (simp at h ⊢; try simp [h]; done) | (split <;> simp_all; done))
    | intro _
    | with_reducible apply moves_onFiu
    | with_reducible apply moves_ite
    | split
    | dsimp only

theorem State.cvuFault_moves {w : List Part} {s u : State} (n : Nat) (hmv : Moves w s u) (hsub : [.fiu, .cvu, .log, .ret] ⊆ w) :
    Moves w s (State.cvuFault n u) := by
  unfold State.cvuFault
  repeat' first
    | with_reducible assumption
    | (with_reducible refine List.Subset.trans ?_ hsub; decide)
    | ((with_reducible apply Keeps.of); intro x h; first | exact h | (simp at h ⊢; try simp [h]; done) | (split <;> simp_all; done))
    | intro _
    | with_reducible apply moves_onCvu
    | with_reducible apply State.cvuFrameLost_moves
    | with_reducible apply State.evOpen_moves
    | with_reducible apply State.cvuStreamLost_moves
    | with_reducible apply moves_ite
    | split
    | dsimp only

theorem State.resetDecided_moves {w : List Part} {s u : State} (conn : Nat) (p : Pair) (act : Bool) (hmv : Moves w s u) (hsub : [.sys, .log, .ret] ⊆ w) :
    Moves w s (State.resetDecided conn p act u) := by
  unfold State.resetDecided
  repeat' first
    | with_reducible assumption
    | (with_reducible refine List.Subset.trans ?_ hsub; decide)
    | ((with_reducible apply Keeps.of); intro x h; first | exact h | (simp at h ⊢; try simp [h]; done) | (split <;> simp_all; done))
    | intro _
    | with_reducible apply State.jClose_moves
    | with_reducible apply State.evOpen_moves
    | with_reducible apply moves_onSys
    | with_reducible apply moves_ite
    | split
    | dsimp only

theorem State.pairSingle_moves {w : List Part} {s u : State} (k0 : Nat) (r : ConnRec) (p : Pair) (hmv : Moves w s u) (hsub : [.sys, .sml, .log, .ret] ⊆ w) :
    Moves w s (State.pairSingle k0 r p u) := by
  unfold State.pairSingle
  repeat' first
    | with_reducible assumption
    | (with_reducible refine List.Subset.trans ?_ hsub; decide)
    | ((with_reducible apply Keeps.of); intro x h; first | exact h | (simp at h ⊢; try simp [h]; done) | (split <;> simp_all; done))
    | intro _
    | with_reducible apply State.onConn_moves
    | with_reducible apply State.resetDecided_moves
    | with_reducible apply State.settleSingle_moves
    | with_reducible apply moves_ite
    | split
    | dsimp only

theorem State.joints_moves {w : List Part} {s u : State} (m : SafeRx) (conn : Nat) (hmv : Moves w s u) (hsub : [.fgu] ⊆ w) :
    Moves w s (State.joints m conn u) := by
  unfold State.joints
  repeat' first
    | with_reducible assumption
    | (with_reducible refine List.Subset.trans ?_ hsub; decide)
    | ((with_reducible apply Keeps.of); intro x h; first | exact h | (simp at h ⊢; try simp [h]; done) | (split <;> simp_all; done))
    | intro _
    | with_reducible apply moves_onFgu
    | with_reducible apply moves_ite
    | split
    | dsimp only

theorem State.endPause_moves {w : List Part} {s u : State} (k0 : Nat) (hmv : Moves w s u) (hsub : [.sml, .psm] ⊆ w) :
    Moves w s (State.endPause k0 u) := by
  unfold State.endPause
  repeat' first
    | with_reducible assumption
    | (with_reducible refine List.Subset.trans ?_ hsub; decide)
    | ((with_reducible apply Keeps.of); intro x h; first | exact h | (simp at h ⊢; try simp [h]; done) | (split <;> simp_all; done))
    | intro _
    | with_reducible apply State.onConn_moves
    | with_reducible apply State.wake_moves
    | with_reducible apply moves_ite
    | split
    | dsimp only

theorem State.firstCopy_moves {w : List Part} {s u : State} (x : RxMsg) (m : SafeRx) (hmv : Moves w s u) (hsub : [.fgu, .sml, .psm, .ret] ⊆ w) :
    Moves w s (State.firstCopy x m u) := by
  unfold State.firstCopy
  repeat' first
    | with_reducible assumption
    | (with_reducible refine List.Subset.trans ?_ hsub; decide)
    | ((with_reducible apply Keeps.of); intro x h; first | exact h | (simp at h ⊢; try simp [h]; done) | (split <;> simp_all; done))
    | intro _
    | with_reducible apply State.joints_moves
    | with_reducible apply State.endPause_moves
    | with_reducible apply State.jOpen_moves
    | with_reducible apply State.wake_moves
    | with_reducible apply State.onConn_moves
    | with_reducible apply moves_ite
    | split
    | dsimp only

theorem State.releasePair_moves {w : List Part} {s u : State} (k0 : Nat) (r : ConnRec) (hmv : Moves w s u) (hsub : [.sys, .sml, .log, .ret] ⊆ w) :
    Moves w s (State.releasePair k0 r u) := by
  unfold State.releasePair
  repeat' first
    | with_reducible assumption
    | (with_reducible refine List.Subset.trans ?_ hsub; decide)
    | ((with_reducible apply Keeps.of); intro x h; first | exact h | (simp at h ⊢; try simp [h]; done) | (split <;> simp_all; done))
    | intro _
    | with_reducible apply moves_with
    | with_reducible apply State.pairSingle_moves
    | with_reducible apply State.onConn_moves
    | with_reducible apply moves_ite
    | split
    | dsimp only

theorem State.accept_moves {w : List Part} {s u : State} (x : RxMsg) (m : SafeRx) (d : Nat) (hmv : Moves w s u) (hsub : [.sys, .fgu, .sml, .psm, .mon, .log, .ret] ⊆ w) :
    Moves w s (State.accept x m d u) := by
  unfold State.accept
  repeat' first
    | with_reducible assumption
    | (with_reducible refine List.Subset.trans ?_ hsub; decide)
    | ((with_reducible apply Keeps.of); intro x h; first | exact h | (simp at h ⊢; try simp [h]; done) | (split <;> simp_all; done))
    | intro _
    | with_reducible apply State.releasePair_moves
    | with_reducible apply State.onConn_moves
    | with_reducible apply State.latency_moves
    | with_reducible apply State.firstCopy_moves
    | with_reducible apply moves_ite
    | split
    | dsimp only

theorem State.copiesDiffer_moves {w : List Part} {s u : State} (x : RxMsg) (m : SafeRx) (hmv : Moves w s u) (hsub : [.sys, .sml, .log, .ret] ⊆ w) :
    Moves w s (State.copiesDiffer x m u) := by
  unfold State.copiesDiffer
  repeat' first
    | with_reducible assumption
    | (with_reducible refine List.Subset.trans ?_ hsub; decide)
    | ((with_reducible apply Keeps.of); intro x h; first | exact h | (simp at h ⊢; try simp [h]; done) | (split <;> simp_all; done))
    | intro _
    | with_reducible apply State.onConn_moves
    | with_reducible apply State.evOpen_moves
    | with_reducible apply moves_each
    | with_reducible apply State.jClose_moves
    | with_reducible apply State.connFail_moves
    | with_reducible apply State.settleSingle_moves
    | with_reducible apply moves_ite
    | split
    | dsimp only

theorem State.dual_moves {w : List Part} {s u : State} (x : RxMsg) (m : SafeRx) (hmv : Moves w s u) (hsub : [.sys, .sml, .log, .ret] ⊆ w) :
    Moves w s (State.dual x m u) := by
  unfold State.dual
  repeat' first
    | with_reducible assumption
    | (with_reducible refine List.Subset.trans ?_ hsub; decide)
    | ((with_reducible apply Keeps.of); intro x h; first | exact h | (simp at h ⊢; try simp [h]; done) | (split <;> simp_all; done))
    | intro _
    | with_reducible apply State.onConn_moves
    | with_reducible apply State.resetDecided_moves
    | with_reducible apply moves_ite
    | split
    | dsimp only

theorem State.pathRestore_moves {w : List Part} {s u : State} (x : RxMsg) (m : SafeRx) (hmv : Moves w s u) (hsub : [.sml] ⊆ w) :
    Moves w s (State.pathRestore x m u) := by
  unfold State.pathRestore
  repeat' first
    | with_reducible assumption
    | (with_reducible refine List.Subset.trans ?_ hsub; decide)
    | ((with_reducible apply Keeps.of); intro x h; first | exact h | (simp at h ⊢; try simp [h]; done) | (split <;> simp_all; done))
    | intro _
    | with_reducible apply State.onConn_moves
    | with_reducible apply State.settleSingle_moves
    | with_reducible apply moves_ite
    | split
    | dsimp only

theorem State.remoteStop_moves {w : List Part} {s u : State} (m : SafeRx) (conn : Nat) (hmv : Moves w s u) (hsub : [.sys, .psm, .log, .ret] ⊆ w) :
    Moves w s (State.remoteStop m conn u) := by
  unfold State.remoteStop
  repeat' first
    | with_reducible assumption
    | (with_reducible refine List.Subset.trans ?_ hsub; decide)
    | ((with_reducible apply Keeps.of); intro x h; first | exact h | (simp at h ⊢; try simp [h]; done) | (split <;> simp_all; done))
    | intro _
    | with_reducible apply State.evOpen_moves
    | with_reducible apply State.spTrip_moves
    | with_reducible apply State.wake_moves
    | with_reducible apply moves_ite
    | split
    | dsimp only

theorem State.rxAct_moves {w : List Part} {s u : State} (m : SafeRx) (hmv : Moves w s u) (hsub : [.sys, .fgu, .sml, .cvu, .psm, .mon, .log, .ret] ⊆ w) :
    Moves w s (State.rxAct m u) := by
  unfold State.rxAct
  repeat' first
    | with_reducible assumption
    | (with_reducible refine List.Subset.trans ?_ hsub; decide)
    | ((with_reducible apply Keeps.of); intro x h; first | exact h | (simp at h ⊢; try simp [h]; done) | (split <;> simp_all; done))
    | intro _
    | with_reducible apply moves_with
    | with_reducible apply State.remoteStop_moves
    | with_reducible apply State.cvuNote_moves
    | with_reducible apply moves_onSml
    | with_reducible apply State.onConn_moves
    | with_reducible apply State.connFail_moves
    | with_reducible apply State.pathRestore_moves
    | with_reducible apply State.accept_moves
    | with_reducible apply State.dual_moves
    | with_reducible apply State.copiesDiffer_moves
    | with_reducible apply moves_ite
    | split
    | dsimp only

theorem State.rxOf_moves {w : List Part} {s u : State} (ty : Nat) (m : SafeRx) (hmv : Moves w s u) (hsub : [.sys, .fgu, .sml, .cvu, .psm, .mon, .log, .ret] ⊆ w) :
    Moves w s (State.rxOf ty m u) := by
  unfold State.rxOf
  repeat' first
    | with_reducible assumption
    | (with_reducible refine List.Subset.trans ?_ hsub; decide)
    | ((with_reducible apply Keeps.of); intro x h; first | exact h | (simp at h ⊢; try simp [h]; done) | (split <;> simp_all; done))
    | intro _
    | with_reducible apply State.rxAct_moves
    | with_reducible apply moves_ite
    | split
    | dsimp only

theorem State.linkDown_moves {w : List Part} {s u : State} (p : Nat) (hmv : Moves w s u) (hsub : [.clk, .sml] ⊆ w) :
    Moves w s (State.linkDown p u) := by
  unfold State.linkDown
  repeat' first
    | with_reducible assumption
    | (with_reducible refine List.Subset.trans ?_ hsub; decide)
    | ((with_reducible apply Keeps.of); intro x h; first | exact h | (simp at h ⊢; try simp [h]; done) | (split <;> simp_all; done))
    | intro _
    | with_reducible apply moves_onClk
    | with_reducible apply moves_onSml
    | with_reducible apply State.settleSingle_moves
    | with_reducible apply moves_ite
    | split
    | dsimp only

theorem State.linkRise_moves {w : List Part} {s u : State} (p : Nat) (hmv : Moves w s u) (hsub : [.clk, .sml] ⊆ w) :
    Moves w s (State.linkRise p u) := by
  unfold State.linkRise
  repeat' first
    | with_reducible assumption
    | (with_reducible refine List.Subset.trans ?_ hsub; decide)
    | ((with_reducible apply Keeps.of); intro x h; first | exact h | (simp at h ⊢; try simp [h]; done) | (split <;> simp_all; done))
    | intro _
    | with_reducible apply moves_onClk
    | with_reducible apply moves_onSml
    | with_reducible apply State.settleSingle_moves
    | with_reducible apply moves_ite
    | split
    | dsimp only

end Sys2Proof.Machine
end

