-- ==== Sys2Proof/Laws/FrameJobs.lean ====
section
/-! SUPPORT. Frames of the operations of Machine/Jobs.lean. -/

namespace Sys2Proof.Machine

theorem State.onCore_moves {w : List Part} {s u : State} (n : Nat) (f : ACore → ACore) (hmv : Moves w s u) (hsub : [.aud] ⊆ w) :
    Moves w s (State.onCore n f u) := by
  unfold State.onCore
  repeat' first
    | with_reducible assumption
    | (with_reducible refine List.Subset.trans ?_ hsub; decide)
    | ((with_reducible apply Keeps.of); intro x h; first | exact h | (simp at h ⊢; try simp [h]; done) | (split <;> simp_all; done))
    | intro _
    | with_reducible apply moves_onAud
    | with_reducible apply moves_ite
    | split
    | dsimp only

theorem State.onJob_moves {w : List Part} {s u : State} (num : Nat) (f : Job → Job) (hmv : Moves w s u) (hsub : [.aud] ⊆ w) :
    Moves w s (State.onJob num f u) := by
  unfold State.onJob
  repeat' first
    | with_reducible assumption
    | (with_reducible refine List.Subset.trans ?_ hsub; decide)
    | ((with_reducible apply Keeps.of); intro x h; first | exact h | (simp at h ⊢; try simp [h]; done) | (split <;> simp_all; done))
    | intro _
    | with_reducible apply moves_onAud
    | with_reducible apply moves_ite
    | split
    | dsimp only

theorem State.zeroLocal_moves {w : List Part} {s u : State} (n : Nat) (hmv : Moves w s u) (hsub : [.mem, .poison] ⊆ w) :
    Moves w s (State.zeroLocal n u) := by
  unfold State.zeroLocal
  repeat' first
    | with_reducible assumption
    | (with_reducible refine List.Subset.trans ?_ hsub; decide)
    | ((with_reducible apply Keeps.of); intro x h; first | exact h | (simp at h ⊢; try simp [h]; done) | (split <;> simp_all; done))
    | intro _
    | with_reducible apply State.wipe_moves
    | with_reducible apply moves_ite
    | split
    | dsimp only

theorem State.statEntry_moves {w : List Part} {s u : State} (core : Nat) (e0 : StatEntry) (hmv : Moves w s u) (hsub : [.aud] ⊆ w) :
    Moves w s (State.statEntry core e0 u) := by
  unfold State.statEntry
  repeat' first
    | with_reducible assumption
    | (with_reducible refine List.Subset.trans ?_ hsub; decide)
    | ((with_reducible apply Keeps.of); intro x h; first | exact h | (simp at h ⊢; try simp [h]; done) | (split <;> simp_all; done))
    | intro _
    | with_reducible apply State.onCore_moves
    | with_reducible apply moves_onAud
    | with_reducible apply moves_ite
    | split
    | dsimp only

theorem State.freeSlots_moves {w : List Part} {s u : State} (ks : List (Option Nat)) (hmv : Moves w s u) (hsub : [.vane] ⊆ w) :
    Moves w s (State.freeSlots ks u) := by
  unfold State.freeSlots
  repeat' first
    | with_reducible assumption
    | (with_reducible refine List.Subset.trans ?_ hsub; decide)
    | ((with_reducible apply Keeps.of); intro x h; first | exact h | (simp at h ⊢; try simp [h]; done) | (split <;> simp_all; done))
    | intro _
    | with_reducible apply moves_each
    | with_reducible apply moves_with
    | with_reducible apply moves_onVane
    | with_reducible apply moves_ite
    | split
    | dsimp only

theorem State.loseCopies_moves {w : List Part} {s u : State} (p : PCopy → Bool) (hmv : Moves w s u) (hsub : [.aud, .vane] ⊆ w) :
    Moves w s (State.loseCopies p u) := by
  unfold State.loseCopies
  repeat' first
    | with_reducible assumption
    | (with_reducible refine List.Subset.trans ?_ hsub; decide)
    | ((with_reducible apply Keeps.of); intro x h; first | exact h | (simp at h ⊢; try simp [h]; done) | (split <;> simp_all; done))
    | intro _
    | with_reducible apply State.freeSlots_moves
    | with_reducible apply moves_onAud
    | with_reducible apply moves_ite
    | split
    | dsimp only

theorem State.dropCopies_moves {w : List Part} {s u : State} (job index : Nat) (hmv : Moves w s u) (hsub : [.aud, .vane] ⊆ w) :
    Moves w s (State.dropCopies job index u) := by
  unfold State.dropCopies
  repeat' first
    | with_reducible assumption
    | (with_reducible refine List.Subset.trans ?_ hsub; decide)
    | ((with_reducible apply Keeps.of); intro x h; first | exact h | (simp at h ⊢; try simp [h]; done) | (split <;> simp_all; done))
    | intro _
    | with_reducible apply State.loseCopies_moves
    | with_reducible apply moves_ite
    | split
    | dsimp only

theorem State.arbFenced_moves {w : List Part} {s u : State} (core : Nat) (hmv : Moves w s u) (hsub : [.vane] ⊆ w) :
    Moves w s (State.arbFenced core u) := by
  unfold State.arbFenced
  repeat' first
    | with_reducible assumption
    | (with_reducible refine List.Subset.trans ?_ hsub; decide)
    | ((with_reducible apply Keeps.of); intro x h; first | exact h | (simp at h ⊢; try simp [h]; done) | (split <;> simp_all; done))
    | intro _
    | with_reducible apply moves_onVane
    | with_reducible apply moves_ite
    | split
    | dsimp only

theorem State.fence_moves {w : List Part} {s u : State} (core cause : Nat) (hmv : Moves w s u) (hsub : [.aud, .vane, .log, .ret] ⊆ w) :
    Moves w s (State.fence core cause u) := by
  unfold State.fence
  repeat' first
    | with_reducible assumption
    | (with_reducible refine List.Subset.trans ?_ hsub; decide)
    | ((with_reducible apply Keeps.of); intro x h; first | exact h | (simp at h ⊢; try simp [h]; done) | (split <;> simp_all; done))
    | intro _
    | with_reducible apply State.onCore_moves
    | with_reducible apply State.loseCopies_moves
    | with_reducible apply moves_with
    | with_reducible apply State.statEntry_moves
    | with_reducible apply State.onJob_moves
    | with_reducible apply State.dropCopies_moves
    | with_reducible apply State.arbFenced_moves
    | with_reducible apply State.ev_moves
    | with_reducible apply moves_ite
    | split
    | dsimp only

theorem State.toBist_moves {w : List Part} {s u : State} (core why : Nat) (suspect : Bool) (hmv : Moves w s u) (hsub : [.aud] ⊆ w) :
    Moves w s (State.toBist core why suspect u) := by
  unfold State.toBist
  repeat' first
    | with_reducible assumption
    | (with_reducible refine List.Subset.trans ?_ hsub; decide)
    | ((with_reducible apply Keeps.of); intro x h; first | exact h | (simp at h ⊢; try simp [h]; done) | (split <;> simp_all; done))
    | intro _
    | with_reducible apply State.onCore_moves
    | with_reducible apply moves_ite
    | split
    | dsimp only

theorem State.registerOne_moves {w : List Part} {s u : State} (num : Nat) (hmv : Moves w s u) (hsub : [.aud, .vane, .ret] ⊆ w) :
    Moves w s (State.registerOne num u) := by
  unfold State.registerOne
  repeat' first
    | with_reducible assumption
    | (with_reducible refine List.Subset.trans ?_ hsub; decide)
    | ((with_reducible apply Keeps.of); intro x h; first | exact h | (simp at h ⊢; try simp [h]; done) | (split <;> simp_all; done))
    | intro _
    | with_reducible apply moves_onVane
    | with_reducible apply State.onJob_moves
    | with_reducible apply moves_onAud
    | with_reducible apply State.jOpen_moves
    | with_reducible apply moves_ite
    | split
    | dsimp only

theorem State.register_moves {w : List Part} {s u : State}  (hmv : Moves w s u) (hsub : [.aud, .vane, .ret] ⊆ w) :
    Moves w s (State.register u) := by
  unfold State.register
  repeat' first
    | with_reducible assumption
    | (with_reducible refine List.Subset.trans ?_ hsub; decide)
    | ((with_reducible apply Keeps.of); intro x h; first | exact h | (simp at h ⊢; try simp [h]; done) | (split <;> simp_all; done))
    | intro _
    | with_reducible apply moves_each
    | with_reducible apply State.registerOne_moves
    | with_reducible apply moves_ite
    | split
    | dsimp only

theorem State.issueJob_snd {w : List Part} {s u : State} {kind : JobKind} {owner seq cls : Nat} {descs : List Desc} {poses : List Nat} {lent : Option (ClassRec × Bytes)} (hmv : Moves w s u) (hsub : [.free, .aud, .vane, .ret] ⊆ w) :
    Moves w s (State.issueJob kind owner seq cls descs poses u lent).2 := by
  unfold State.issueJob
  repeat' first
    | with_reducible assumption
    | (with_reducible refine List.Subset.trans ?_ hsub; decide)
    | ((with_reducible apply Keeps.of); intro x h; first | exact h | (simp at h ⊢; try simp [h]; done) | (split <;> simp_all; done))
    | intro _
    | with_reducible apply State.draw_snd
    | (with_reducible refine State.draw_moves (by assumption) ?_ ?_)
    | with_reducible apply moves_onAud
    | with_reducible apply State.register_moves
    | with_reducible apply moves_ite
    | split
    | dsimp only

theorem State.issueJob_moves {w : List Part} {s u t : State} {kind : JobKind} {owner seq cls : Nat} {descs : List Desc} {poses : List Nat} {lent : Option (ClassRec × Bytes)} {x0}
    (e : State.issueJob kind owner seq cls descs poses u lent = (x0, t)) (hmv : Moves w s u) (hsub : [.free, .aud, .vane, .ret] ⊆ w) : Moves w s t := by
  have k := State.issueJob_snd hmv hsub (w := w) (s := s) (kind := kind) (owner := owner) (seq := seq) (cls := cls) (descs := descs) (poses := poses) (lent := lent)
  rw [e] at k; exact k

theorem State.startPass_moves {w : List Part} {s u : State} (core job i pass : Nat) (hmv : Moves w s u) (hsub : [.aud, .vane] ⊆ w) :
    Moves w s (State.startPass core job i pass u) := by
  unfold State.startPass
  repeat' first
    | with_reducible assumption
    | (with_reducible refine List.Subset.trans ?_ hsub; decide)
    | ((with_reducible apply Keeps.of); intro x h; first | exact h | (simp at h ⊢; try simp [h]; done) | (split <;> simp_all; done))
    | intro _
    | with_reducible apply moves_with
    | with_reducible apply moves_onVane
    | with_reducible apply State.onJob_moves
    | with_reducible apply State.onCore_moves
    | with_reducible apply moves_ite
    | split
    | dsimp only

theorem State.checkerLane_moves {w : List Part} {s u : State} (slot : Option Nat) (hmv : Moves w s u) (hsub : [.vane, .log, .ret] ⊆ w) :
    Moves w s (State.checkerLane slot u) := by
  unfold State.checkerLane
  repeat' first
    | with_reducible assumption
    | (with_reducible refine List.Subset.trans ?_ hsub; decide)
    | ((with_reducible apply Keeps.of); intro x h; first | exact h | (simp at h ⊢; try simp [h]; done) | (split <;> simp_all; done))
    | intro _
    | with_reducible apply moves_onVane
    | with_reducible apply State.evOpen_moves
    | with_reducible apply moves_ite
    | split
    | dsimp only

theorem State.checkerFault_moves {w : List Part} {s u : State} (job : Nat) (slot : Option Nat) (hmv : Moves w s u) (hsub : [.aud, .vane, .log, .ret] ⊆ w) :
    Moves w s (State.checkerFault job slot u) := by
  unfold State.checkerFault
  repeat' first
    | with_reducible assumption
    | (with_reducible refine List.Subset.trans ?_ hsub; decide)
    | ((with_reducible apply Keeps.of); intro x h; first | exact h | (simp at h ⊢; try simp [h]; done) | (split <;> simp_all; done))
    | intro _
    | with_reducible apply State.onJob_moves
    | with_reducible apply State.checkerLane_moves
    | with_reducible apply moves_ite
    | split
    | dsimp only

theorem State.checkerHw_snd {w : List Part} {s u : State} {hw : CoreHw} (hmv : Moves w s u) (hsub : [.vane] ⊆ w) :
    Moves w s (State.checkerHw hw u).2 := by
  unfold State.checkerHw
  repeat' first
    | with_reducible assumption
    | (with_reducible refine List.Subset.trans ?_ hsub; decide)
    | ((with_reducible apply Keeps.of); intro x h; first | exact h | (simp at h ⊢; try simp [h]; done) | (split <;> simp_all; done))
    | intro _
    | with_reducible apply moves_onVane
    | with_reducible apply moves_ite
    | split
    | dsimp only

theorem State.checkerHw_moves {w : List Part} {s u t : State} {hw : CoreHw} {x0}
    (e : State.checkerHw hw u = (x0, t)) (hmv : Moves w s u) (hsub : [.vane] ⊆ w) : Moves w s t := by
  have k := State.checkerHw_snd hmv hsub (w := w) (s := s) (hw := hw)
  rw [e] at k; exact k

theorem State.arbOutcome_moves {w : List Part} {s u : State} (job i outcome coreR : Nat) (hmv : Moves w s u) (hsub : [.aud, .vane, .log, .ret] ⊆ w) :
    Moves w s (State.arbOutcome job i outcome coreR u) := by
  unfold State.arbOutcome
  repeat' first
    | with_reducible assumption
    | (with_reducible refine List.Subset.trans ?_ hsub; decide)
    | ((with_reducible apply Keeps.of); intro x h; first | exact h | (simp at h ⊢; try simp [h]; done) | (split <;> simp_all; done))
    | intro _
    | with_reducible apply State.onJob_moves
    | with_reducible apply moves_onVane
    | with_reducible apply State.ev_moves
    | with_reducible apply State.toBist_moves
    | with_reducible apply moves_ite
    | split
    | dsimp only

theorem State.mismatch_moves {w : List Part} {s u : State} (job i : Nat) (hmv : Moves w s u) (hsub : [.sys, .aud, .vane, .log, .ret] ⊆ w) :
    Moves w s (State.mismatch job i u) := by
  unfold State.mismatch
  repeat' first
    | with_reducible assumption
    | (with_reducible refine List.Subset.trans ?_ hsub; decide)
    | ((with_reducible apply Keeps.of); intro x h; first | exact h | (simp at h ⊢; try simp [h]; done) | (split <;> simp_all; done))
    | intro _
    | with_reducible apply moves_onVane
    | with_reducible apply State.onJob_moves
    | with_reducible apply State.spTrip_moves
    | with_reducible apply State.arbOutcome_moves
    | with_reducible apply moves_ite
    | split
    | dsimp only

theorem State.noReruns_moves {w : List Part} {s u : State}  (hmv : Moves w s u) (hsub : [.aud, .vane, .log, .ret] ⊆ w) :
    Moves w s (State.noReruns u) := by
  unfold State.noReruns
  repeat' first
    | with_reducible assumption
    | (with_reducible refine List.Subset.trans ?_ hsub; decide)
    | ((with_reducible apply Keeps.of); intro x h; first | exact h | (simp at h ⊢; try simp [h]; done) | (split <;> simp_all; done))
    | intro _
    | with_reducible apply moves_each
    | with_reducible apply moves_with
    | with_reducible apply State.arbOutcome_moves
    | with_reducible apply moves_ite
    | split
    | dsimp only

theorem State.settleCopy_moves {w : List Part} {s u : State} (hw : CoreHw) (c : PCopy) (hmv : Moves w s u) (hsub : [.aud, .vane, .log, .ret] ⊆ w) :
    Moves w s (State.settleCopy hw c u) := by
  unfold State.settleCopy
  repeat' first
    | with_reducible assumption
    | (with_reducible refine List.Subset.trans ?_ hsub; decide)
    | ((with_reducible apply Keeps.of); intro x h; first | exact h | (simp at h ⊢; try simp [h]; done) | (split <;> simp_all; done))
    | intro _
    | with_reducible apply State.checkerHw_snd
    | (with_reducible refine State.checkerHw_moves (by assumption) ?_ ?_)
    | with_reducible apply moves_onVane
    | with_reducible apply State.checkerFault_moves
    | with_reducible apply State.loseCopies_moves
    | with_reducible apply State.fence_moves
    | with_reducible apply State.onCore_moves
    | with_reducible apply State.evOpen_moves
    | with_reducible apply moves_ite
    | split
    | dsimp only

theorem State.settleCopies_moves {w : List Part} {s u : State} (hw : CoreHw) (hmv : Moves w s u) (hsub : [.aud, .vane, .log, .ret] ⊆ w) :
    Moves w s (State.settleCopies hw u) := by
  unfold State.settleCopies
  repeat' first
    | with_reducible assumption
    | (with_reducible refine List.Subset.trans ?_ hsub; decide)
    | ((with_reducible apply Keeps.of); intro x h; first | exact h | (simp at h ⊢; try simp [h]; done) | (split <;> simp_all; done))
    | intro _
    | with_reducible apply moves_each
    | with_reducible apply State.settleCopy_moves
    | with_reducible apply moves_ite
    | split
    | dsimp only

theorem State.matched_moves {w : List Part} {s u : State} (hw : CoreHw) (job i : Nat) (hmv : Moves w s u) (hsub : [.aud, .vane, .log, .ret] ⊆ w) :
    Moves w s (State.matched hw job i u) := by
  unfold State.matched
  repeat' first
    | with_reducible assumption
    | (with_reducible refine List.Subset.trans ?_ hsub; decide)
    | ((with_reducible apply Keeps.of); intro x h; first | exact h | (simp at h ⊢; try simp [h]; done) | (split <;> simp_all; done))
    | intro _
    | with_reducible apply State.onJob_moves
    | with_reducible apply moves_with
    | with_reducible apply moves_onVane
    | with_reducible apply State.freeSlots_moves
    | with_reducible apply moves_onAud
    | with_reducible apply State.settleCopies_moves
    | with_reducible apply moves_ite
    | split
    | dsimp only

theorem State.compare_moves {w : List Part} {s u : State} (hw : CoreHw) (core job i payload fp : Nat) (hmv : Moves w s u) (hsub : [.sys, .aud, .vane, .log, .ret] ⊆ w) :
    Moves w s (State.compare hw core job i payload fp u) := by
  unfold State.compare
  repeat' first
    | with_reducible assumption
    | (with_reducible refine List.Subset.trans ?_ hsub; decide)
    | ((with_reducible apply Keeps.of); intro x h; first | exact h | (simp at h ⊢; try simp [h]; done) | (split <;> simp_all; done))
    | intro _
    | with_reducible apply State.checkerHw_snd
    | (with_reducible refine State.checkerHw_moves (by assumption) ?_ ?_)
    | with_reducible apply moves_onVane
    | with_reducible apply State.checkerFault_moves
    | with_reducible apply State.matched_moves
    | with_reducible apply moves_with
    | with_reducible apply State.dropCopies_moves
    | with_reducible apply State.mismatch_moves
    | with_reducible apply moves_ite
    | split
    | dsimp only

theorem State.compareLate_moves {w : List Part} {s u : State} (hw : CoreHw) (j : Job) (slot : Option Nat) (a b : Nat × Nat) (hmv : Moves w s u) (hsub : [.sys, .aud, .vane, .log, .ret] ⊆ w) :
    Moves w s (State.compareLate hw j slot a b u) := by
  unfold State.compareLate
  repeat' first
    | with_reducible assumption
    | (with_reducible refine List.Subset.trans ?_ hsub; decide)
    | ((with_reducible apply Keeps.of); intro x h; first | exact h | (simp at h ⊢; try simp [h]; done) | (split <;> simp_all; done))
    | intro _
    | with_reducible apply State.checkerHw_snd
    | (with_reducible refine State.checkerHw_moves (by assumption) ?_ ?_)
    | with_reducible apply moves_onVane
    | with_reducible apply State.checkerLane_moves
    | with_reducible apply State.mismatch_moves
    | with_reducible apply moves_ite
    | split
    | dsimp only

theorem State.storeFirst_moves {w : List Part} {s u : State} (k0 job i cls pass core payload fp : Nat) (hmv : Moves w s u) (hsub : [.vane] ⊆ w) :
    Moves w s (State.storeFirst k0 job i cls pass core payload fp u) := by
  unfold State.storeFirst
  repeat' first
    | with_reducible assumption
    | (with_reducible refine List.Subset.trans ?_ hsub; decide)
    | ((with_reducible apply Keeps.of); intro x h; first | exact h | (simp at h ⊢; try simp [h]; done) | (split <;> simp_all; done))
    | intro _
    | with_reducible apply moves_onVane
    | with_reducible apply moves_ite
    | split
    | dsimp only

theorem State.judgeRerun_moves {w : List Part} {s u : State} (hw : CoreHw) (core job i payload fp : Nat) (hmv : Moves w s u) (hsub : [.aud, .vane, .log, .ret] ⊆ w) :
    Moves w s (State.judgeRerun hw core job i payload fp u) := by
  unfold State.judgeRerun
  repeat' first
    | with_reducible assumption
    | (with_reducible refine List.Subset.trans ?_ hsub; decide)
    | ((with_reducible apply Keeps.of); intro x h; first | exact h | (simp at h ⊢; try simp [h]; done) | (split <;> simp_all; done))
    | intro _
    | with_reducible apply State.checkerHw_snd
    | (with_reducible refine State.checkerHw_moves (by assumption) ?_ ?_)
    | with_reducible apply State.onJob_moves
    | with_reducible apply State.checkerFault_moves
    | with_reducible apply moves_onVane
    | with_reducible apply State.arbOutcome_moves
    | with_reducible apply moves_ite
    | split
    | dsimp only

theorem State.busErr_moves {w : List Part} {s u : State} (ident a : Nat) (hmv : Moves w s u) (hsub : [.beu] ⊆ w) :
    Moves w s (State.busErr ident a u) := by
  unfold State.busErr
  repeat' first
    | with_reducible assumption
    | (with_reducible refine List.Subset.trans ?_ hsub; decide)
    | ((with_reducible apply Keeps.of); intro x h; first | exact h | (simp at h ⊢; try simp [h]; done) | (split <;> simp_all; done))
    | intro _
    | with_reducible apply moves_onBeu
    | with_reducible apply moves_ite
    | split
    | dsimp only

theorem State.recordFault_moves {w : List Part} {s u : State} (core pass : Nat) (d : Desc) (o : DOut) (hmv : Moves w s u) (hsub : [.aud, .beu, .hq, .fwl, .tsu, .log, .ret] ⊆ w) :
    Moves w s (State.recordFault core pass d o u) := by
  unfold State.recordFault
  repeat' first
    | with_reducible assumption
    | (with_reducible refine List.Subset.trans ?_ hsub; decide)
    | ((with_reducible apply Keeps.of); intro x h; first | exact h | (simp at h ⊢; try simp [h]; done) | (split <;> simp_all; done))
    | intro _
    | with_reducible apply moves_onAud
    | with_reducible apply State.evOpen_moves
    | with_reducible apply State.refuse_moves
    | with_reducible apply State.busErr_moves
    | with_reducible apply moves_ite
    | split
    | dsimp only

theorem State.haltMask_moves {w : List Part} {s u : State} (l : List Bool) (hmv : Moves w s u) (hsub : [.aud, .log, .dbg, .ret] ⊆ w) :
    Moves w s (State.haltMask l u) := by
  unfold State.haltMask
  repeat' first
    | with_reducible assumption
    | (with_reducible refine List.Subset.trans ?_ hsub; decide)
    | ((with_reducible apply Keeps.of); intro x h; first | exact h | (simp at h ⊢; try simp [h]; done) | (split <;> simp_all; done))
    | intro _
    | with_reducible apply moves_onDbg
    | with_reducible apply moves_onAud
    | with_reducible apply State.ev_moves
    | with_reducible apply moves_ite
    | split
    | dsimp only

theorem State.breakPairs_moves {w : List Part} {s u : State}  (hmv : Moves w s u) (hsub : [.aud, .vane] ⊆ w) :
    Moves w s (State.breakPairs u) := by
  unfold State.breakPairs
  repeat' first
    | with_reducible assumption
    | (with_reducible refine List.Subset.trans ?_ hsub; decide)
    | ((with_reducible apply Keeps.of); intro x h; first | exact h | (simp at h ⊢; try simp [h]; done) | (split <;> simp_all; done))
    | intro _
    | with_reducible apply moves_onVane
    | with_reducible apply moves_onAud
    | with_reducible apply moves_ite
    | split
    | dsimp only

theorem State.coreFree_moves {w : List Part} {s u : State} (core : Nat) (hmv : Moves w s u) (hsub : [.aud, .log, .dbg, .ret] ⊆ w) :
    Moves w s (State.coreFree core u) := by
  unfold State.coreFree
  repeat' first
    | with_reducible assumption
    | (with_reducible refine List.Subset.trans ?_ hsub; decide)
    | ((with_reducible apply Keeps.of); intro x h; first | exact h | (simp at h ⊢; try simp [h]; done) | (split <;> simp_all; done))
    | intro _
    | with_reducible apply State.onCore_moves
    | with_reducible apply moves_onDbg
    | with_reducible apply State.haltMask_moves
    | with_reducible apply moves_ite
    | split
    | dsimp only

theorem State.keepBefore_moves {w : List Part} {s u : State} (job i : Nat) (d : Desc) (hmv : Moves w s u) (hsub : [.aud] ⊆ w) :
    Moves w s (State.keepBefore job i d u) := by
  unfold State.keepBefore
  repeat' first
    | with_reducible assumption
    | (with_reducible refine List.Subset.trans ?_ hsub; decide)
    | ((with_reducible apply Keeps.of); intro x h; first | exact h | (simp at h ⊢; try simp [h]; done) | (split <;> simp_all; done))
    | intro _
    | with_reducible apply moves_with
    | with_reducible apply State.onJob_moves
    | with_reducible apply moves_ite
    | split
    | dsimp only

theorem State.endPass_moves {w : List Part} {s u : State} (core : Nat) (r : Run) (hw : CoreHw) (hmv : Moves w s u) (hsub : [.sys, .aud, .vane, .beu, .hq, .fwl, .tsu, .log, .ret, .mem, .poison] ⊆ w) :
    Moves w s (State.endPass core r hw u) := by
  unfold State.endPass
  repeat' first
    | with_reducible assumption
    | (with_reducible refine List.Subset.trans ?_ hsub; decide)
    | ((with_reducible apply Keeps.of); intro x h; first | exact h | (simp at h ⊢; try simp [h]; done) | (split <;> simp_all; done))
    | intro _
    | with_reducible apply State.recordFault_moves
    | with_reducible apply State.keepBefore_moves
    | with_reducible apply State.commitWrites_moves
    | with_reducible apply State.statEntry_moves
    | with_reducible apply State.onJob_moves
    | with_reducible apply State.compareLate_moves
    | with_reducible apply State.dropCopies_moves
    | with_reducible apply State.judgeRerun_moves
    | with_reducible apply State.arbOutcome_moves
    | with_reducible apply State.compare_moves
    | with_reducible apply moves_with
    | with_reducible apply State.storeFirst_moves
    | with_reducible apply moves_ite
    | split
    | dsimp only

theorem State.endCopy_moves {w : List Part} {s u : State} (core : Nat) (r : Run) (hw : CoreHw) (hmv : Moves w s u) (hsub : [.aud, .vane, .beu, .hq, .fwl, .tsu, .log, .ret, .mem, .poison] ⊆ w) :
    Moves w s (State.endCopy core r hw u) := by
  unfold State.endCopy
  repeat' first
    | with_reducible assumption
    | (with_reducible refine List.Subset.trans ?_ hsub; decide)
    | ((with_reducible apply Keeps.of); intro x h; first | exact h | (simp at h ⊢; try simp [h]; done) | (split <;> simp_all; done))
    | intro _
    | with_reducible apply State.recordFault_moves
    | with_reducible apply State.commitWrites_moves
    | with_reducible apply State.statEntry_moves
    | with_reducible apply State.loseCopies_moves
    | with_reducible apply moves_onAud
    | with_reducible apply State.settleCopies_moves
    | with_reducible apply moves_ite
    | split
    | dsimp only

theorem State.settleBreak_moves {w : List Part} {s u : State}  (hmv : Moves w s u) (hsub : [.vane] ⊆ w) :
    Moves w s (State.settleBreak u) := by
  unfold State.settleBreak
  repeat' first
    | with_reducible assumption
    | (with_reducible refine List.Subset.trans ?_ hsub; decide)
    | ((with_reducible apply Keeps.of); intro x h; first | exact h | (simp at h ⊢; try simp [h]; done) | (split <;> simp_all; done))
    | intro _
    | with_reducible apply moves_onVane
    | with_reducible apply moves_ite
    | split
    | dsimp only

theorem State.retireJob_moves {w : List Part} {s u : State} (j : Job) (hmv : Moves w s u) (hsub : [.aud, .vane, .ret] ⊆ w) :
    Moves w s (State.retireJob j u) := by
  unfold State.retireJob
  repeat' first
    | with_reducible assumption
    | (with_reducible refine List.Subset.trans ?_ hsub; decide)
    | ((with_reducible apply Keeps.of); intro x h; first | exact h | (simp at h ⊢; try simp [h]; done) | (split <;> simp_all; done))
    | intro _
    | with_reducible apply State.freeSlots_moves
    | with_reducible apply moves_onVane
    | with_reducible apply moves_onAud
    | with_reducible apply State.jClose_moves
    | with_reducible apply State.register_moves
    | with_reducible apply State.settleBreak_moves
    | with_reducible apply moves_ite
    | split
    | dsimp only

end Sys2Proof.Machine
end

