-- ==== Sys2Proof/Laws/FrameXwlOps.lean ====
section
/-! SUPPORT. Frames of the operations of Machine/XwlOps.lean. -/

namespace Sys2Proof.Machine

theorem State.onNode_moves {w : List Part} {s u : State} (n : Nat) (f : Node → Node) (hmv : Moves w s u) (hsub : [.xwl] ⊆ w) :
    Moves w s (State.onNode n f u) := by
  unfold State.onNode
  repeat' first
    | with_reducible assumption
    | (with_reducible refine List.Subset.trans ?_ hsub; decide)
    | ((with_reducible apply Keeps.of); intro x h; first | exact h | (simp at h ⊢; try simp [h]; done) | (split <;> simp_all; done))
    | intro _
    | with_reducible apply moves_onXwl
    | with_reducible apply moves_ite
    | split
    | dsimp only

theorem State.xwlSend_moves {w : List Part} {s u : State} (data : Bytes) (hmv : Moves w s u) (hsub : [.xwl] ⊆ w) :
    Moves w s (State.xwlSend data u) := by
  unfold State.xwlSend
  repeat' first
    | with_reducible assumption
    | (with_reducible refine List.Subset.trans ?_ hsub; decide)
    | ((with_reducible apply Keeps.of); intro x h; first | exact h | (simp at h ⊢; try simp [h]; done) | (split <;> simp_all; done))
    | intro _
    | with_reducible apply moves_send
    | with_reducible apply moves_onXwl
    | with_reducible apply moves_ite
    | split
    | dsimp only

theorem State.xwlOff_moves {w : List Part} {s u : State}  (hmv : Moves w s u) (hsub : [.xwl] ⊆ w) :
    Moves w s (State.xwlOff u) := by
  unfold State.xwlOff
  repeat' first
    | with_reducible assumption
    | (with_reducible refine List.Subset.trans ?_ hsub; decide)
    | ((with_reducible apply Keeps.of); intro x h; first | exact h | (simp at h ⊢; try simp [h]; done) | (split <;> simp_all; done))
    | intro _
    | with_reducible apply moves_onXwl
    | with_reducible apply moves_ite
    | split
    | dsimp only

theorem State.ringTrip_moves {w : List Part} {s u : State} (was : Nat) (hmv : Moves w s u) (hsub : [.sys] ⊆ w) :
    Moves w s (State.ringTrip was u) := by
  unfold State.ringTrip
  repeat' first
    | with_reducible assumption
    | (with_reducible refine List.Subset.trans ?_ hsub; decide)
    | ((with_reducible apply Keeps.of); intro x h; first | exact h | (simp at h ⊢; try simp [h]; done) | (split <;> simp_all; done))
    | intro _
    | with_reducible apply moves_onSys
    | with_reducible apply State.spTrip_moves
    | with_reducible apply moves_ite
    | split
    | dsimp only

end Sys2Proof.Machine
end

