-- ==== Sys2Proof/Laws/FramePower.lean ====
section
/-! SUPPORT. Frames of the operations of Machine/Power.lean. -/

namespace Sys2Proof.Machine

theorem State.psmChoose_moves {w : List Part} {s u : State}  (hmv : Moves w s u) (hsub : [.psm] ⊆ w) :
    Moves w s (State.psmChoose u) := by
  unfold State.psmChoose
  repeat' first
    | with_reducible assumption
    | (with_reducible refine List.Subset.trans ?_ hsub; decide)
    | ((with_reducible apply Keeps.of); intro x h; first | exact h | (simp at h ⊢; try simp [h]; done) | (split <;> simp_all; done))
    | intro _
    | with_reducible apply moves_onPsm
    | with_reducible apply moves_ite
    | split
    | dsimp only

end Sys2Proof.Machine
end

