-- ==== Sys2Proof/Laws/FrameFguOps.lean ====
section
/-! SUPPORT. Frames of the operations of Machine/FguOps.lean. -/

namespace Sys2Proof.Machine

theorem State.onStream_moves {w : List Part} {s u : State} (n : Nat) (f : Stream → Stream) (hmv : Moves w s u) (hsub : [.fiu] ⊆ w) :
    Moves w s (State.onStream n f u) := by
  unfold State.onStream
  repeat' first
    | with_reducible assumption
    | (with_reducible refine List.Subset.trans ?_ hsub; decide)
    | ((with_reducible apply Keeps.of); intro x h; first | exact h | (simp at h ⊢; try simp [h]; done) | (split <;> simp_all; done))
    | intro _
    | with_reducible apply moves_onFiu
    | with_reducible apply moves_ite
    | split
    | dsimp only

theorem State.onSlot_moves {w : List Part} {s u : State} (n seq : Nat) (f : RingSlot → RingSlot) (hmv : Moves w s u) (hsub : [.fiu] ⊆ w) :
    Moves w s (State.onSlot n seq f u) := by
  unfold State.onSlot
  repeat' first
    | with_reducible assumption
    | (with_reducible refine List.Subset.trans ?_ hsub; decide)
    | ((with_reducible apply Keeps.of); intro x h; first | exact h | (simp at h ⊢; try simp [h]; done) | (split <;> simp_all; done))
    | intro _
    | with_reducible apply State.onStream_moves
    | with_reducible apply moves_ite
    | split
    | dsimp only

theorem State.fguReset_moves {w : List Part} {s u : State} (cause : Nat) (hmv : Moves w s u) (hsub : [.fgu] ⊆ w) :
    Moves w s (State.fguReset cause u) := by
  unfold State.fguReset
  repeat' first
    | with_reducible assumption
    | (with_reducible refine List.Subset.trans ?_ hsub; decide)
    | ((with_reducible apply Keeps.of); intro x h; first | exact h | (simp at h ⊢; try simp [h]; done) | (split <;> simp_all; done))
    | intro _
    | with_reducible apply moves_onFgu
    | with_reducible apply moves_ite
    | split
    | dsimp only

theorem State.discontinuity_moves {w : List Part} {s u : State} (cause : Nat) (hmv : Moves w s u) (hsub : [.fgu, .log, .ret] ⊆ w) :
    Moves w s (State.discontinuity cause u) := by
  unfold State.discontinuity
  repeat' first
    | with_reducible assumption
    | (with_reducible refine List.Subset.trans ?_ hsub; decide)
    | ((with_reducible apply Keeps.of); intro x h; first | exact h | (simp at h ⊢; try simp [h]; done) | (split <;> simp_all; done))
    | intro _
    | with_reducible apply moves_onFgu
    | with_reducible apply State.evOpen_moves
    | with_reducible apply State.fguReset_moves
    | with_reducible apply moves_ite
    | split
    | dsimp only

theorem State.unbuffer_moves {w : List Part} {s u : State} (n : Nat) (hmv : Moves w s u) (hsub : [.fiu, .fgu] ⊆ w) :
    Moves w s (State.unbuffer n u) := by
  unfold State.unbuffer
  repeat' first
    | with_reducible assumption
    | (with_reducible refine List.Subset.trans ?_ hsub; decide)
    | ((with_reducible apply Keeps.of); intro x h; first | exact h | (simp at h ⊢; try simp [h]; done) | (split <;> simp_all; done))
    | intro _
    | with_reducible apply moves_with
    | with_reducible apply State.onSlot_moves
    | with_reducible apply moves_onFgu
    | with_reducible apply moves_ite
    | split
    | dsimp only

theorem State.bufferIn_moves {w : List Part} {s u : State} (n seq : Nat) (hmv : Moves w s u) (hsub : [.fiu, .fgu] ⊆ w) :
    Moves w s (State.bufferIn n seq u) := by
  unfold State.bufferIn
  repeat' first
    | with_reducible assumption
    | (with_reducible refine List.Subset.trans ?_ hsub; decide)
    | ((with_reducible apply Keeps.of); intro x h; first | exact h | (simp at h ⊢; try simp [h]; done) | (split <;> simp_all; done))
    | intro _
    | with_reducible apply State.unbuffer_moves
    | with_reducible apply State.onSlot_moves
    | with_reducible apply moves_onFgu
    | with_reducible apply moves_ite
    | split
    | dsimp only

theorem State.onEpoch_moves {w : List Part} {s u : State} (num : Nat) (f : Epoch → Epoch) (hmv : Moves w s u) (hsub : [.fgu] ⊆ w) :
    Moves w s (State.onEpoch num f u) := by
  unfold State.onEpoch
  repeat' first
    | with_reducible assumption
    | (with_reducible refine List.Subset.trans ?_ hsub; decide)
    | ((with_reducible apply Keeps.of); intro x h; first | exact h | (simp at h ⊢; try simp [h]; done) | (split <;> simp_all; done))
    | intro _
    | with_reducible apply moves_onFgu
    | with_reducible apply moves_ite
    | split
    | dsimp only

theorem State.releaseEpoch_moves {w : List Part} {s u : State} (num : Nat) (hmv : Moves w s u) (hsub : [.fiu] ⊆ w) :
    Moves w s (State.releaseEpoch num u) := by
  unfold State.releaseEpoch
  repeat' first
    | with_reducible assumption
    | (with_reducible refine List.Subset.trans ?_ hsub; decide)
    | ((with_reducible apply Keeps.of); intro x h; first | exact h | (simp at h ⊢; try simp [h]; done) | (split <;> simp_all; done))
    | intro _
    | with_reducible apply moves_with
    | with_reducible apply moves_each
    | with_reducible apply State.onSlot_moves
    | with_reducible apply moves_ite
    | split
    | dsimp only

theorem State.closeEpoch_moves {w : List Part} {s u : State}  (hmv : Moves w s u) (hsub : [.fiu, .fgu, .vrd, .psm] ⊆ w) :
    Moves w s (State.closeEpoch u) := by
  unfold State.closeEpoch
  repeat' first
    | with_reducible assumption
    | (with_reducible refine List.Subset.trans ?_ hsub; decide)
    | ((with_reducible apply Keeps.of); intro x h; first | exact h | (simp at h ⊢; try simp [h]; done) | (split <;> simp_all; done))
    | intro _
    | with_reducible apply moves_with
    | with_reducible apply State.releaseEpoch_moves
    | with_reducible apply State.onEpoch_moves
    | with_reducible apply moves_onFgu
    | with_reducible apply State.wake_moves
    | with_reducible apply moves_onVrd
    | with_reducible apply moves_ite
    | split
    | dsimp only

theorem State.tryClose_moves {w : List Part} {s u : State}  (hmv : Moves w s u) (hsub : [.fiu, .fgu, .vrd, .psm] ⊆ w) :
    Moves w s (State.tryClose u) := by
  unfold State.tryClose
  repeat' first
    | with_reducible assumption
    | (with_reducible refine List.Subset.trans ?_ hsub; decide)
    | ((with_reducible apply Keeps.of); intro x h; first | exact h | (simp at h ⊢; try simp [h]; done) | (split <;> simp_all; done))
    | intro _
    | with_reducible apply State.closeEpoch_moves
    | with_reducible apply moves_ite
    | split
    | dsimp only

theorem State.fguFrozen_moves {w : List Part} {s u : State} (n : Nat) (hmv : Moves w s u) (hsub : [.fgu] ⊆ w) :
    Moves w s (State.fguFrozen n u) := by
  unfold State.fguFrozen
  repeat' first
    | with_reducible assumption
    | (with_reducible refine List.Subset.trans ?_ hsub; decide)
    | ((with_reducible apply Keeps.of); intro x h; first | exact h | (simp at h ⊢; try simp [h]; done) | (split <;> simp_all; done))
    | intro _
    | with_reducible apply State.fguReset_moves
    | with_reducible apply moves_onFgu
    | with_reducible apply moves_ite
    | split
    | dsimp only

theorem State.guardEnd_moves {w : List Part} {s u : State} (j : Job) (hmv : Moves w s u) (hsub : [.fiu, .fgu, .aud, .vane, .log, .ret] ⊆ w) :
    Moves w s (State.guardEnd j u) := by
  unfold State.guardEnd
  repeat' first
    | with_reducible assumption
    | (with_reducible refine List.Subset.trans ?_ hsub; decide)
    | ((with_reducible apply Keeps.of); intro x h; first | exact h | (simp at h ⊢; try simp [h]; done) | (split <;> simp_all; done))
    | intro _
    | with_reducible apply State.matched_moves
    | with_reducible apply State.onEpoch_moves
    | with_reducible apply moves_onFgu
    | with_reducible apply State.releaseEpoch_moves
    | with_reducible apply State.fguReset_moves
    | with_reducible apply moves_ite
    | split
    | dsimp only

theorem State.commitMemory_moves {w : List Part} {s u : State}  (hmv : Moves w s u) (hsub : [.fgu, .mem, .poison] ⊆ w) :
    Moves w s (State.commitMemory u) := by
  unfold State.commitMemory
  repeat' first
    | with_reducible assumption
    | (with_reducible refine List.Subset.trans ?_ hsub; decide)
    | ((with_reducible apply Keeps.of); intro x h; first | exact h | (simp at h ⊢; try simp [h]; done) | (split <;> simp_all; done))
    | intro _
    | with_reducible apply State.poke_moves
    | with_reducible apply moves_onFgu
    | with_reducible apply moves_ite
    | split
    | dsimp only

theorem State.zeroMemory_moves {w : List Part} {s u : State}  (hmv : Moves w s u) (hsub : [.fgu, .mem, .poison] ⊆ w) :
    Moves w s (State.zeroMemory u) := by
  unfold State.zeroMemory
  repeat' first
    | with_reducible assumption
    | (with_reducible refine List.Subset.trans ?_ hsub; decide)
    | ((with_reducible apply Keeps.of); intro x h; first | exact h | (simp at h ⊢; try simp [h]; done) | (split <;> simp_all; done))
    | intro _
    | with_reducible apply State.wipe_moves
    | with_reducible apply moves_onFgu
    | with_reducible apply moves_ite
    | split
    | dsimp only

end Sys2Proof.Machine
end

