-- ==== Sys2Proof/Laws/FrameVrdOps.lean ====
section
/-! SUPPORT. Frames of the operations of Machine/VrdOps.lean. -/

namespace Sys2Proof.Machine

theorem State.onVq_moves {w : List Part} {s u : State} (q : Nat) (f : VrdQ → VrdQ) (hmv : Moves w s u) (hsub : [.vrd] ⊆ w) :
    Moves w s (State.onVq q f u) := by
  unfold State.onVq
  repeat' first
    | with_reducible assumption
    | (with_reducible refine List.Subset.trans ?_ hsub; decide)
    | ((with_reducible apply Keeps.of); intro x h; first | exact h | (simp at h ⊢; try simp [h]; done) | (split <;> simp_all; done))
    | intro _
    | with_reducible apply moves_onVrd
    | with_reducible apply moves_ite
    | split
    | dsimp only

theorem State.onResult_moves {w : List Part} {s u : State} (q seq : Nat) (f : Result → Result) (hmv : Moves w s u) (hsub : [.vrd] ⊆ w) :
    Moves w s (State.onResult q seq f u) := by
  unfold State.onResult
  repeat' first
    | with_reducible assumption
    | (with_reducible refine List.Subset.trans ?_ hsub; decide)
    | ((with_reducible apply Keeps.of); intro x h; first | exact h | (simp at h ⊢; try simp [h]; done) | (split <;> simp_all; done))
    | intro _
    | with_reducible apply moves_onVrd
    | with_reducible apply moves_ite
    | split
    | dsimp only

theorem State.frPut_moves {w : List Part} {s u : State} (data : Bytes) (hmv : Moves w s u) (hsub : [.ret] ⊆ w) :
    Moves w s (State.frPut data u) := by
  unfold State.frPut
  repeat' first
    | with_reducible assumption
    | (with_reducible refine List.Subset.trans ?_ hsub; decide)
    | ((with_reducible apply Keeps.of); intro x h; first | exact h | (simp at h ⊢; try simp [h]; done) | (split <;> simp_all; done))
    | intro _
    | with_reducible apply moves_onRet
    | with_reducible apply moves_ite
    | split
    | dsimp only

theorem State.issueToken_snd {w : List Part} {s u : State} {r : Result} {verdict : Nat} (hmv : Moves w s u) (hsub : [.nvm, .vrd, .ret] ⊆ w) :
    Moves w s (State.issueToken r verdict u).2 := by
  unfold State.issueToken
  repeat' first
    | with_reducible assumption
    | (with_reducible refine List.Subset.trans ?_ hsub; decide)
    | ((with_reducible apply Keeps.of); intro x h; first | exact h | (simp at h ⊢; try simp [h]; done) | (split <;> simp_all; done))
    | intro _
    | with_reducible apply moves_onRet
    | with_reducible apply moves_onNvm
    | with_reducible apply moves_onVrd
    | with_reducible apply moves_ite
    | split
    | dsimp only

theorem State.issueToken_moves {w : List Part} {s u t : State} {r : Result} {verdict : Nat} {x0}
    (e : State.issueToken r verdict u = (x0, t)) (hmv : Moves w s u) (hsub : [.nvm, .vrd, .ret] ⊆ w) : Moves w s t := by
  have k := State.issueToken_snd hmv hsub (w := w) (s := s) (r := r) (verdict := verdict)
  rw [e] at k; exact k

theorem State.escalate_moves {w : List Part} {s u : State} (r : Result) (verdict : Nat) (hmv : Moves w s u) (hsub : [.sys, .vrd] ⊆ w) :
    Moves w s (State.escalate r verdict u) := by
  unfold State.escalate
  repeat' first
    | with_reducible assumption
    | (with_reducible refine List.Subset.trans ?_ hsub; decide)
    | ((with_reducible apply Keeps.of); intro x h; first | exact h | (simp at h ⊢; try simp [h]; done) | (split <;> simp_all; done))
    | intro _
    | with_reducible apply State.onVq_moves
    | with_reducible apply moves_onVrd
    | with_reducible apply State.spTrip_moves
    | with_reducible apply moves_ite
    | split
    | dsimp only

theorem State.cancelJobs_moves {w : List Part} {s u : State} (r : Result) (hmv : Moves w s u) (hsub : [.aud] ⊆ w) :
    Moves w s (State.cancelJobs r u) := by
  unfold State.cancelJobs
  repeat' first
    | with_reducible assumption
    | (with_reducible refine List.Subset.trans ?_ hsub; decide)
    | ((with_reducible apply Keeps.of); intro x h; first | exact h | (simp at h ⊢; try simp [h]; done) | (split <;> simp_all; done))
    | intro _
    | with_reducible apply moves_each
    | with_reducible apply State.onJob_moves
    | with_reducible apply moves_ite
    | split
    | dsimp only

theorem State.issue_moves {w : List Part} {s u : State} (r : Result) (verdict reason : Nat) (hmv : Moves w s u) (hsub : [.sys, .nvm, .aud, .vrd, .hq, .fwl, .mon, .log, .ret] ⊆ w) :
    Moves w s (State.issue r verdict reason u) := by
  unfold State.issue
  repeat' first
    | with_reducible assumption
    | (with_reducible refine List.Subset.trans ?_ hsub; decide)
    | ((with_reducible apply Keeps.of); intro x h; first | exact h | (simp at h ⊢; try simp [h]; done) | (split <;> simp_all; done))
    | intro _
    | with_reducible apply State.jMod_moves
    | with_reducible apply State.issueToken_snd
    | (with_reducible refine State.issueToken_moves (by assumption) ?_ ?_)
    | with_reducible apply State.onVq_moves
    | with_reducible apply State.cqPost_moves
    | with_reducible apply State.frPut_moves
    | with_reducible apply State.jClose_moves
    | with_reducible apply moves_onVrd
    | with_reducible apply State.unlock_moves
    | with_reducible apply State.escalate_moves
    | with_reducible apply State.cancelJobs_moves
    | with_reducible apply State.latency_moves
    | with_reducible apply moves_ite
    | split
    | dsimp only

theorem State.evalOne_moves {w : List Part} {s u : State} (q seq : Nat) (hmv : Moves w s u) (hsub : [.sys, .nvm, .aud, .vrd, .hq, .fwl, .mon, .log, .ret] ⊆ w) :
    Moves w s (State.evalOne q seq u) := by
  unfold State.evalOne
  repeat' first
    | with_reducible assumption
    | (with_reducible refine List.Subset.trans ?_ hsub; decide)
    | ((with_reducible apply Keeps.of); intro x h; first | exact h | (simp at h ⊢; try simp [h]; done) | (split <;> simp_all; done))
    | intro _
    | with_reducible apply State.issue_moves
    | with_reducible apply moves_ite
    | split
    | dsimp only

theorem State.evalResults_moves {w : List Part} {s u : State}  (hmv : Moves w s u) (hsub : [.sys, .nvm, .aud, .vrd, .hq, .fwl, .mon, .log, .ret] ⊆ w) :
    Moves w s (State.evalResults u) := by
  unfold State.evalResults
  repeat' first
    | with_reducible assumption
    | (with_reducible refine List.Subset.trans ?_ hsub; decide)
    | ((with_reducible apply Keeps.of); intro x h; first | exact h | (simp at h ⊢; try simp [h]; done) | (split <;> simp_all; done))
    | intro _
    | with_reducible apply moves_each
    | with_reducible apply State.evalOne_moves
    | with_reducible apply moves_ite
    | split
    | dsimp only

theorem State.vrdFrozen_moves {w : List Part} {s u : State} (n : Nat) (hmv : Moves w s u) (hsub : [.vrd] ⊆ w) :
    Moves w s (State.vrdFrozen n u) := by
  unfold State.vrdFrozen
  repeat' first
    | with_reducible assumption
    | (with_reducible refine List.Subset.trans ?_ hsub; decide)
    | ((with_reducible apply Keeps.of); intro x h; first | exact h | (simp at h ⊢; try simp [h]; done) | (split <;> simp_all; done))
    | intro _
    | with_reducible apply moves_onVrd
    | with_reducible apply moves_ite
    | split
    | dsimp only

end Sys2Proof.Machine
end

