-- ==== Sys2Proof/Laws/FrameAuditOps.lean ====
section
/-! SUPPORT. Frames of the operations of Machine/AuditOps.lean. -/

namespace Sys2Proof.Machine

theorem State.pick_snd {w : List Part} {s : State} {n : Nat} {l : List Nat} {u : State} (hmv : Moves w s u) (hsub : [.free] ⊆ w) :
    Moves w s (State.pick n l u).2 := by
  induction n generalizing l u with
  | zero => exact hmv
  | succ n ih =>
    unfold State.pick
    split
    · exact hmv
    · exact ih (State.draw_snd hmv hsub)

theorem State.pick_moves {w : List Part} {s u t : State} {n : Nat} {l x : List Nat}
    (e : State.pick n l u = (x, t)) (hmv : Moves w s u) (hsub : [.free] ⊆ w) : Moves w s t := by
  have k := State.pick_snd (n := n) (l := l) hmv hsub
  rw [e] at k; exact k

theorem State.drawTiles_snd {w : List Part} {s : State} {m k : Nat} {l : List WitRec} {u : State} (hmv : Moves w s u)
    (hsub : [.free] ⊆ w) : Moves w s (State.drawTiles m k l u).2 := by
  induction l generalizing u with
  | nil => exact hmv
  | cons a l ih =>
    unfold State.drawTiles
    exact ih (State.pick_snd hmv hsub)

theorem State.drawTiles_moves {w : List Part} {s u t : State} {m k : Nat} {l : List WitRec} {x : List (Nat × List Nat)}
    (e : State.drawTiles m k l u = (x, t)) (hmv : Moves w s u) (hsub : [.free] ⊆ w) : Moves w s t := by
  have k := State.drawTiles_snd (m := m) (k := k) (l := l) hmv hsub
  rw [e] at k; exact k

theorem State.challenge_snd {w : List Part} {s : State} {r : Result} {t n k : Nat} {u : State} (hmv : Moves w s u)
    (hsub : [.free] ⊆ w) : Moves w s (State.challenge r t n k u).2 := by
  induction n generalizing k u with
  | zero => unfold State.challenge; exact State.drawTiles_snd hmv hsub
  | succ n ih =>
    unfold State.challenge
    dsimp only
    split
    · exact ih (State.drawTiles_snd hmv hsub)
    · exact State.drawTiles_snd hmv hsub

theorem State.challenge_moves {w : List Part} {s u t : State} {r x : Result} {m n k : Nat}
    (e : State.challenge r m n k u = (x, t)) (hmv : Moves w s u) (hsub : [.free] ⊆ w) : Moves w s t := by
  have k := State.challenge_snd (r := r) (t := m) (n := n) (k := k) hmv hsub
  rw [e] at k; exact k

theorem State.startGeom_moves {w : List Part} {s u : State} (r : Result) (hmv : Moves w s u) (hsub : [.free, .aud, .vane, .vrd, .ret] ⊆ w) :
    Moves w s (State.startGeom r u) := by
  unfold State.startGeom
  repeat' first
    | with_reducible assumption
    | (with_reducible refine List.Subset.trans ?_ hsub; decide)
    | ((with_reducible apply Keeps.of); intro x h; first | exact h | (simp at h ⊢; try simp [h]; done) | (split <;> simp_all; done))
    | intro _
    | with_reducible apply State.issueJob_snd
    | (with_reducible refine State.issueJob_moves (by assumption) ?_ ?_)
    | with_reducible apply State.onResult_moves
    | with_reducible apply moves_ite
    | split
    | dsimp only

theorem State.startGeoms_moves {w : List Part} {s u : State}  (hmv : Moves w s u) (hsub : [.free, .aud, .vane, .vrd, .ret] ⊆ w) :
    Moves w s (State.startGeoms u) := by
  unfold State.startGeoms
  repeat' first
    | with_reducible assumption
    | (with_reducible refine List.Subset.trans ?_ hsub; decide)
    | ((with_reducible apply Keeps.of); intro x h; first | exact h | (simp at h ⊢; try simp [h]; done) | (split <;> simp_all; done))
    | intro _
    | with_reducible apply moves_each
    | with_reducible apply State.startGeom_moves
    | with_reducible apply moves_ite
    | split
    | dsimp only

theorem State.auditEnd_moves {w : List Part} {s u : State} (j : Job) (hmv : Moves w s u) (hsub : [.vrd] ⊆ w) :
    Moves w s (State.auditEnd j u) := by
  unfold State.auditEnd
  repeat' first
    | with_reducible assumption
    | (with_reducible refine List.Subset.trans ?_ hsub; decide)
    | ((with_reducible apply Keeps.of); intro x h; first | exact h | (simp at h ⊢; try simp [h]; done) | (split <;> simp_all; done))
    | intro _
    | with_reducible apply moves_with
    | with_reducible apply State.onResult_moves
    | with_reducible apply moves_ite
    | split
    | dsimp only

theorem State.geomEnd_moves {w : List Part} {s u : State} (j : Job) (hmv : Moves w s u) (hsub : [.vrd] ⊆ w) :
    Moves w s (State.geomEnd j u) := by
  unfold State.geomEnd
  repeat' first
    | with_reducible assumption
    | (with_reducible refine List.Subset.trans ?_ hsub; decide)
    | ((with_reducible apply Keeps.of); intro x h; first | exact h | (simp at h ⊢; try simp [h]; done) | (split <;> simp_all; done))
    | intro _
    | with_reducible apply moves_with
    | with_reducible apply State.onResult_moves
    | with_reducible apply moves_ite
    | split
    | dsimp only

theorem State.issueSafe_moves {w : List Part} {s u : State} (cls : Nat) (hmv : Moves w s u) (hsub : [.free, .aud, .vane, .ret] ⊆ w) :
    Moves w s (State.issueSafe cls u) := by
  unfold State.issueSafe
  repeat' first
    | with_reducible assumption
    | (with_reducible refine List.Subset.trans ?_ hsub; decide)
    | ((with_reducible apply Keeps.of); intro x h; first | exact h | (simp at h ⊢; try simp [h]; done) | (split <;> simp_all; done))
    | intro _
    | with_reducible apply State.issueJob_snd
    | (with_reducible refine State.issueJob_moves (by assumption) ?_ ?_)
    | with_reducible apply moves_ite
    | split
    | dsimp only

theorem State.safeEnd_moves {w : List Part} {s u : State} (j : Job) (hmv : Moves w s u) (hsub : [.free, .aud, .vane, .log, .ret] ⊆ w) :
    Moves w s (State.safeEnd j u) := by
  unfold State.safeEnd
  repeat' first
    | with_reducible assumption
    | (with_reducible refine List.Subset.trans ?_ hsub; decide)
    | ((with_reducible apply Keeps.of); intro x h; first | exact h | (simp at h ⊢; try simp [h]; done) | (split <;> simp_all; done))
    | intro _
    | with_reducible apply State.matched_moves
    | with_reducible apply moves_onAud
    | with_reducible apply State.issueSafe_moves
    | with_reducible apply moves_ite
    | split
    | dsimp only

theorem State.lentEnd_moves {w : List Part} {s u : State} (j : Job) (hmv : Moves w s u) (hsub : [.sys, .aud, .vane, .xwl, .log, .ret] ⊆ w) :
    Moves w s (State.lentEnd j u) := by
  unfold State.lentEnd
  repeat' first
    | with_reducible assumption
    | (with_reducible refine List.Subset.trans ?_ hsub; decide)
    | ((with_reducible apply Keeps.of); intro x h; first | exact h | (simp at h ⊢; try simp [h]; done) | (split <;> simp_all; done))
    | intro _
    | with_reducible apply moves_with
    | with_reducible apply State.matched_moves
    | with_reducible apply State.mismatch_moves
    | with_reducible apply moves_onXwl
    | with_reducible apply moves_ite
    | split
    | dsimp only

theorem State.jobEnd_moves {w : List Part} {s u : State} (j : Job) (hmv : Moves w s u) (hsub : [.free, .sys, .fiu, .fgu, .aud, .vane, .vrd, .xwl, .mon, .log, .ret] ⊆ w) :
    Moves w s (State.jobEnd j u) := by
  unfold State.jobEnd
  repeat' first
    | with_reducible assumption
    | (with_reducible refine List.Subset.trans ?_ hsub; decide)
    | ((with_reducible apply Keeps.of); intro x h; first | exact h | (simp at h ⊢; try simp [h]; done) | (split <;> simp_all; done))
    | intro _
    | with_reducible apply State.auditEnd_moves
    | with_reducible apply State.geomEnd_moves
    | with_reducible apply State.guardEnd_moves
    | with_reducible apply State.latency_moves
    | with_reducible apply State.safeEnd_moves
    | with_reducible apply State.lentEnd_moves
    | with_reducible apply moves_ite
    | split
    | dsimp only

theorem State.reapN_moves {w : List Part} {s : State} (n : Nat) {u : State} (hmv : Moves w s u) (hsub : [.free, .sys, .fiu, .fgu, .aud, .vane, .vrd, .xwl, .mon, .log, .ret] ⊆ w) :
    Moves w s (State.reapN n u) := by
  induction n generalizing u with
  | zero => exact hmv
  | succ n ih =>
    unfold State.reapN
    repeat' first
      | with_reducible assumption
      | (with_reducible refine List.Subset.trans ?_ hsub; decide)
      | ((with_reducible apply Keeps.of); intro x h; first | exact h | (simp at h ⊢; try simp [h]; done) | (split <;> simp_all; done))
      | intro _
      | with_reducible apply ih
      | with_reducible apply State.jobEnd_moves
      | with_reducible apply State.retireJob_moves
      | with_reducible apply moves_onAud
      | with_reducible apply moves_ite
      | split
      | dsimp only

theorem State.reap_moves {w : List Part} {s u : State}  (hmv : Moves w s u) (hsub : [.free, .sys, .fiu, .fgu, .aud, .vane, .vrd, .xwl, .mon, .log, .ret] ⊆ w) :
    Moves w s (State.reap u) := by
  unfold State.reap
  repeat' first
    | with_reducible assumption
    | (with_reducible refine List.Subset.trans ?_ hsub; decide)
    | ((with_reducible apply Keeps.of); intro x h; first | exact h | (simp at h ⊢; try simp [h]; done) | (split <;> simp_all; done))
    | intro _
    | with_reducible apply State.reapN_moves
    | with_reducible apply moves_ite
    | split
    | dsimp only

theorem State.settleWork_moves {w : List Part} {s u : State}  (hmv : Moves w s u) (hsub : [.free, .sys, .nvm, .fiu, .fgu, .aud, .vane, .vrd, .xwl, .hq, .fwl, .psm, .mon, .log, .ret] ⊆ w) :
    Moves w s (State.settleWork u) := by
  unfold State.settleWork
  repeat' first
    | with_reducible assumption
    | (with_reducible refine List.Subset.trans ?_ hsub; decide)
    | ((with_reducible apply Keeps.of); intro x h; first | exact h | (simp at h ⊢; try simp [h]; done) | (split <;> simp_all; done))
    | intro _
    | with_reducible apply State.noReruns_moves
    | with_reducible apply State.reap_moves
    | with_reducible apply State.startGeoms_moves
    | with_reducible apply State.evalResults_moves
    | with_reducible apply State.psmChoose_moves
    | with_reducible apply moves_ite
    | split
    | dsimp only

end Sys2Proof.Machine
end

