-- ==== Sys2Proof/Laws/FrameStacks.lean ====
section
/-! SUPPORT. Frames of the operations of Machine/Stacks.lean. -/

namespace Sys2Proof.Machine

theorem State.onStack_moves {w : List Part} {s u : State} (k0 : Nat) (f : Stack → Stack) (hmv : Moves w s u) (hsub : [.beu] ⊆ w) :
    Moves w s (State.onStack k0 f u) := by
  unfold State.onStack
  repeat' first
    | with_reducible assumption
    | (with_reducible refine List.Subset.trans ?_ hsub; decide)
    | ((with_reducible apply Keeps.of); intro x h; first | exact h | (simp at h ⊢; try simp [h]; done) | (split <;> simp_all; done))
    | intro _
    | with_reducible apply moves_onBeu
    | with_reducible apply moves_ite
    | split
    | dsimp only

theorem chooseSome_snd {w : List Part} {s : State} {l : List (Nat × Bytes)} {u : State} (hmv : Moves w s u) (hsub : [.free] ⊆ w) :
    Moves w s (chooseSome l u).2 := by
  induction l generalizing u with
  | nil => exact hmv
  | cons a l ih =>
    unfold chooseSome
    exact ih (State.draw_snd hmv hsub)

theorem chooseSome_moves {w : List Part} {s u t : State} {l x : List (Nat × Bytes)}
    (e : chooseSome l u = (x, t)) (hmv : Moves w s u) (hsub : [.free] ⊆ w) : Moves w s t := by
  have k := chooseSome_snd (l := l) hmv hsub
  rw [e] at k; exact k

theorem State.beuEval_snd {w : List Part} {s u : State} {k0 : Nat} {r : BRun} (hmv : Moves w s u) (hsub : [.free] ⊆ w) :
    Moves w s (State.beuEval k0 r u).2 := by
  unfold State.beuEval
  repeat' first
    | with_reducible assumption
    | (with_reducible refine List.Subset.trans ?_ hsub; decide)
    | ((with_reducible apply Keeps.of); intro x h; first | exact h | (simp at h ⊢; try simp [h]; done) | (split <;> simp_all; done))
    | intro _
    | with_reducible apply chooseSome_snd
    | (with_reducible refine chooseSome_moves (by assumption) ?_ ?_)
    | with_reducible apply moves_ite
    | split
    | dsimp only

theorem State.beuEval_moves {w : List Part} {s u t : State} {k0 : Nat} {r : BRun} {x0}
    (e : State.beuEval k0 r u = (x0, t)) (hmv : Moves w s u) (hsub : [.free] ⊆ w) : Moves w s t := by
  have k := State.beuEval_snd hmv hsub (w := w) (s := s) (k0 := k0) (r := r)
  rw [e] at k; exact k

theorem State.beuStore_moves {w : List Part} {s u : State} (k0 : Nat) (c : BCmd) (o : BOut) (hmv : Moves w s u) (hsub : [.mem, .poison] ⊆ w) :
    Moves w s (State.beuStore k0 c o u) := by
  unfold State.beuStore
  repeat' first
    | with_reducible assumption
    | (with_reducible refine List.Subset.trans ?_ hsub; decide)
    | ((with_reducible apply Keeps.of); intro x h; first | exact h | (simp at h ⊢; try simp [h]; done) | (split <;> simp_all; done))
    | intro _
    | with_reducible apply State.poke_moves
    | with_reducible apply moves_each
    | with_reducible apply State.markPoison_moves
    | with_reducible apply moves_ite
    | split
    | dsimp only

theorem State.beuPost_moves {w : List Part} {s u : State} (k0 : Nat) (bg hot : Bool) (c : BCmd) (status : Nat) (o : BOut) (hmv : Moves w s u) (hsub : [.beu, .ret, .mem, .poison] ⊆ w) :
    Moves w s (State.beuPost k0 bg hot c status o u) := by
  unfold State.beuPost
  repeat' first
    | with_reducible assumption
    | (with_reducible refine List.Subset.trans ?_ hsub; decide)
    | ((with_reducible apply Keeps.of); intro x h; first | exact h | (simp at h ⊢; try simp [h]; done) | (split <;> simp_all; done))
    | intro _
    | with_reducible apply State.poke_moves
    | with_reducible apply State.onStack_moves
    | with_reducible apply State.jClose_moves
    | with_reducible apply moves_ite
    | split
    | dsimp only

theorem State.fiuDone_moves {w : List Part} {s u : State} (c : BCmd) (status : Nat) (o : BOut) (hmv : Moves w s u) (hsub : [.fiu] ⊆ w) :
    Moves w s (State.fiuDone c status o u) := by
  unfold State.fiuDone
  repeat' first
    | with_reducible assumption
    | (with_reducible refine List.Subset.trans ?_ hsub; decide)
    | ((with_reducible apply Keeps.of); intro x h; first | exact h | (simp at h ⊢; try simp [h]; done) | (split <;> simp_all; done))
    | intro _
    | with_reducible apply moves_with
    | with_reducible apply State.onSlot_moves
    | with_reducible apply State.onStream_moves
    | with_reducible apply moves_ite
    | split
    | dsimp only

theorem State.beuEnd_moves {w : List Part} {s u : State} (k0 : Nat) (bg hot : Bool) (c : BCmd) (status : Nat) (o : BOut) (hmv : Moves w s u) (hsub : [.fiu, .beu, .ret, .mem, .poison] ⊆ w) :
    Moves w s (State.beuEnd k0 bg hot c status o u) := by
  unfold State.beuEnd
  repeat' first
    | with_reducible assumption
    | (with_reducible refine List.Subset.trans ?_ hsub; decide)
    | ((with_reducible apply Keeps.of); intro x h; first | exact h | (simp at h ⊢; try simp [h]; done) | (split <;> simp_all; done))
    | intro _
    | with_reducible apply State.beuPost_moves
    | with_reducible apply State.fiuDone_moves
    | with_reducible apply moves_ite
    | split
    | dsimp only

theorem State.stackFault_moves {w : List Part} {s u : State} (k0 : Nat) (hmv : Moves w s u) (hsub : [.free, .sys, .nvm, .fiu, .fgu, .aud, .vane, .beu, .vrd, .xwl, .hq, .fwl, .psm, .mon, .log, .ret, .mem, .poison] ⊆ w) :
    Moves w s (State.stackFault k0 u) := by
  unfold State.stackFault
  repeat' first
    | with_reducible assumption
    | (with_reducible refine List.Subset.trans ?_ hsub; decide)
    | ((with_reducible apply Keeps.of); intro x h; first | exact h | (simp at h ⊢; try simp [h]; done) | (split <;> simp_all; done))
    | intro _
    | with_reducible apply State.onStack_moves
    | with_reducible apply moves_each
    | with_reducible apply State.beuEnd_moves
    | with_reducible apply State.evOpen_moves
    | with_reducible apply State.settleWork_moves
    | with_reducible apply moves_ite
    | split
    | dsimp only

theorem State.uncorrectable_moves {w : List Part} {s u : State} (k0 g : Nat) (hmv : Moves w s u) (hsub : [.beu, .log, .ret, .poison] ⊆ w) :
    Moves w s (State.uncorrectable k0 g u) := by
  unfold State.uncorrectable
  repeat' first
    | with_reducible assumption
    | (with_reducible refine List.Subset.trans ?_ hsub; decide)
    | ((with_reducible apply Keeps.of); intro x h; first | exact h | (simp at h ⊢; try simp [h]; done) | (split <;> simp_all; done))
    | intro _
    | with_reducible apply State.markPoison_moves
    | with_reducible apply State.onStack_moves
    | with_reducible apply State.evOpen_moves
    | with_reducible apply moves_ite
    | split
    | dsimp only

theorem State.readErrors_moves {w : List Part} {s u : State} (k0 corrected : Nat) (bad : List Nat) (hmv : Moves w s u) (hsub : [.free, .sys, .nvm, .fiu, .fgu, .aud, .vane, .beu, .vrd, .xwl, .hq, .fwl, .psm, .mon, .log, .ret, .mem, .poison] ⊆ w) :
    Moves w s (State.readErrors k0 corrected bad u) := by
  unfold State.readErrors
  repeat' first
    | with_reducible assumption
    | (with_reducible refine List.Subset.trans ?_ hsub; decide)
    | ((with_reducible apply Keeps.of); intro x h; first | exact h | (simp at h ⊢; try simp [h]; done) | (split <;> simp_all; done))
    | intro _
    | with_reducible apply State.onStack_moves
    | with_reducible apply moves_each
    | with_reducible apply State.uncorrectable_moves
    | with_reducible apply State.stackFault_moves
    | with_reducible apply moves_ite
    | split
    | dsimp only

theorem State.beuSubmit_moves {w : List Part} {s u : State} (k0 : Nat) (bg : Bool) (c : BCmd) (raw : Bytes) (hmv : Moves w s u) (hsub : [.fiu, .beu, .hq, .ret, .mem, .poison] ⊆ w) :
    Moves w s (State.beuSubmit k0 bg c raw u) := by
  unfold State.beuSubmit
  repeat' first
    | with_reducible assumption
    | (with_reducible refine List.Subset.trans ?_ hsub; decide)
    | ((with_reducible apply Keeps.of); intro x h; first | exact h | (simp at h ⊢; try simp [h]; done) | (split <;> simp_all; done))
    | intro _
    | with_reducible apply State.poke_moves
    | with_reducible apply State.onStack_moves
    | with_reducible apply State.onRing_moves
    | with_reducible apply State.jOpen_moves
    | with_reducible apply State.beuEnd_moves
    | with_reducible apply moves_ite
    | split
    | dsimp only

theorem State.beuTail_moves {w : List Part} {s u : State} (k0 : Nat) (bg : Bool) (tail : Nat) (hmv : Moves w s u) (hsub : [.fiu, .beu, .hq, .ret, .mem, .poison] ⊆ w) :
    Moves w s (State.beuTail k0 bg tail u) := by
  unfold State.beuTail
  repeat' first
    | with_reducible assumption
    | (with_reducible refine List.Subset.trans ?_ hsub; decide)
    | ((with_reducible apply Keeps.of); intro x h; first | exact h | (simp at h ⊢; try simp [h]; done) | (split <;> simp_all; done))
    | intro _
    | with_reducible apply moves_each
    | with_reducible apply State.beuSubmit_moves
    | with_reducible apply moves_ite
    | split
    | dsimp only

theorem State.takeHead_moves {w : List Part} {s u : State} (k0 : Nat) (bg : Bool) (hmv : Moves w s u) (hsub : [.beu] ⊆ w) :
    Moves w s (State.takeHead k0 bg u) := by
  unfold State.takeHead
  repeat' first
    | with_reducible assumption
    | (with_reducible refine List.Subset.trans ?_ hsub; decide)
    | ((with_reducible apply Keeps.of); intro x h; first | exact h | (simp at h ⊢; try simp [h]; done) | (split <;> simp_all; done))
    | intro _
    | with_reducible apply State.onStack_moves
    | with_reducible apply moves_ite
    | split
    | dsimp only

theorem State.keepOld_moves {w : List Part} {s u : State} (k0 : Nat) (w0 : BRun) (hmv : Moves w s u) (hsub : [.beu] ⊆ w) :
    Moves w s (State.keepOld k0 w0 u) := by
  unfold State.keepOld
  repeat' first
    | with_reducible assumption
    | (with_reducible refine List.Subset.trans ?_ hsub; decide)
    | ((with_reducible apply Keeps.of); intro x h; first | exact h | (simp at h ⊢; try simp [h]; done) | (split <;> simp_all; done))
    | intro _
    | with_reducible apply State.onStack_moves
    | with_reducible apply moves_ite
    | split
    | dsimp only

theorem State.beuFinish_moves {w : List Part} {s u : State} (k0 : Nat) (r : BRun) (hmv : Moves w s u) (hsub : [.free, .sys, .nvm, .fiu, .fgu, .aud, .vane, .beu, .vrd, .xwl, .hq, .fwl, .psm, .mon, .log, .ret, .mem, .poison] ⊆ w) :
    Moves w s (State.beuFinish k0 r u) := by
  unfold State.beuFinish
  repeat' first
    | with_reducible assumption
    | (with_reducible refine List.Subset.trans ?_ hsub; decide)
    | ((with_reducible apply Keeps.of); intro x h; first | exact h | (simp at h ⊢; try simp [h]; done) | (split <;> simp_all; done))
    | intro _
    | with_reducible apply State.keepOld_moves
    | with_reducible apply State.beuEval_snd
    | (with_reducible refine State.beuEval_moves (by assumption) ?_ ?_)
    | with_reducible apply State.beuStore_moves
    | with_reducible apply State.onStack_moves
    | with_reducible apply State.beuEnd_moves
    | with_reducible apply State.latency_moves
    | with_reducible apply State.settleWork_moves
    | with_reducible apply moves_ite
    | split
    | dsimp only

theorem State.scrubPass_moves {w : List Part} {s u : State} (k0 : Nat) (hmv : Moves w s u) (hsub : [.beu, .psm] ⊆ w) :
    Moves w s (State.scrubPass k0 u) := by
  unfold State.scrubPass
  repeat' first
    | with_reducible assumption
    | (with_reducible refine List.Subset.trans ?_ hsub; decide)
    | ((with_reducible apply Keeps.of); intro x h; first | exact h | (simp at h ⊢; try simp [h]; done) | (split <;> simp_all; done))
    | intro _
    | with_reducible apply State.onStack_moves
    | with_reducible apply State.bgDone_moves
    | with_reducible apply moves_ite
    | split
    | dsimp only

theorem State.scrubNext_moves {w : List Part} {s u : State} (k0 o : Nat) (hmv : Moves w s u) (hsub : [.beu, .psm] ⊆ w) :
    Moves w s (State.scrubNext k0 o u) := by
  unfold State.scrubNext
  repeat' first
    | with_reducible assumption
    | (with_reducible refine List.Subset.trans ?_ hsub; decide)
    | ((with_reducible apply Keeps.of); intro x h; first | exact h | (simp at h ⊢; try simp [h]; done) | (split <;> simp_all; done))
    | intro _
    | with_reducible apply State.onStack_moves
    | with_reducible apply State.scrubPass_moves
    | with_reducible apply moves_ite
    | split
    | dsimp only

theorem State.scrubBlock_moves {w : List Part} {s u : State} (k0 corrected : Nat) (bad : List Nat) (o : Nat) (hmv : Moves w s u) (hsub : [.free, .sys, .nvm, .fiu, .fgu, .aud, .vane, .beu, .vrd, .xwl, .hq, .fwl, .psm, .mon, .log, .ret, .mem, .poison] ⊆ w) :
    Moves w s (State.scrubBlock k0 corrected bad o u) := by
  unfold State.scrubBlock
  repeat' first
    | with_reducible assumption
    | (with_reducible refine List.Subset.trans ?_ hsub; decide)
    | ((with_reducible apply Keeps.of); intro x h; first | exact h | (simp at h ⊢; try simp [h]; done) | (split <;> simp_all; done))
    | intro _
    | with_reducible apply State.onStack_moves
    | with_reducible apply State.scrubNext_moves
    | with_reducible apply State.readErrors_moves
    | with_reducible apply moves_ite
    | split
    | dsimp only

end Sys2Proof.Machine
end

