-- ==== Sys2Proof/Laws/FrameIntake.lean ====
section
/-! SUPPORT. Frames of the operations of Machine/Intake.lean. -/

namespace Sys2Proof.Machine

theorem State.frameDrop_moves {w : List Part} {s u : State} (n : Nat) (hmv : Moves w s u) (hsub : [.fiu, .ret] ⊆ w) :
    Moves w s (State.frameDrop n u) := by
  unfold State.frameDrop
  repeat' first
    | with_reducible assumption
    | (with_reducible refine List.Subset.trans ?_ hsub; decide)
    | ((with_reducible apply Keeps.of); intro x h; first | exact h | (simp at h ⊢; try simp [h]; done) | (split <;> simp_all; done))
    | intro _
    | with_reducible apply State.jClose_moves
    | with_reducible apply State.onStream_moves
    | with_reducible apply moves_ite
    | split
    | dsimp only

theorem State.freeze_moves {w : List Part} {s u : State} (n cause seq : Nat) (hmv : Moves w s u) (hsub : [.fiu, .fgu, .vrd, .hq, .tsu, .log, .ret] ⊆ w) :
    Moves w s (State.freeze n cause seq u) := by
  unfold State.freeze
  repeat' first
    | with_reducible assumption
    | (with_reducible refine List.Subset.trans ?_ hsub; decide)
    | ((with_reducible apply Keeps.of); intro x h; first | exact h | (simp at h ⊢; try simp [h]; done) | (split <;> simp_all; done))
    | intro _
    | with_reducible apply State.onStream_moves
    | with_reducible apply State.unbuffer_moves
    | with_reducible apply State.ev_moves
    | with_reducible apply moves_each
    | with_reducible apply State.chFault_moves
    | with_reducible apply State.fguFrozen_moves
    | with_reducible apply State.vrdFrozen_moves
    | with_reducible apply moves_ite
    | split
    | dsimp only

theorem State.captureTime_snd {w : List Part} {s u : State} {r : StreamRec} {i : Intake} (hmv : Moves w s u) (hsub : [.free] ⊆ w) :
    Moves w s (State.captureTime r i u).2 := by
  unfold State.captureTime
  repeat' first
    | with_reducible assumption
    | (with_reducible refine List.Subset.trans ?_ hsub; decide)
    | ((with_reducible apply Keeps.of); intro x h; first | exact h | (simp at h ⊢; try simp [h]; done) | (split <;> simp_all; done))
    | intro _
    | with_reducible apply State.draw_snd
    | (with_reducible refine State.draw_moves (by assumption) ?_ ?_)
    | with_reducible apply moves_ite
    | split
    | dsimp only

theorem State.captureTime_moves {w : List Part} {s u t : State} {r : StreamRec} {i : Intake} {x0}
    (e : State.captureTime r i u = (x0, t)) (hmv : Moves w s u) (hsub : [.free] ⊆ w) : Moves w s t := by
  have k := State.captureTime_snd hmv hsub (w := w) (s := s) (r := r) (i := i)
  rw [e] at k; exact k

theorem State.fringWrite_moves {w : List Part} {s u : State} (n : Nat) (x : SealRec) (payload : Bytes) (hmv : Moves w s u) (hsub : [.fiu, .log, .mem, .poison] ⊆ w) :
    Moves w s (State.fringWrite n x payload u) := by
  unfold State.fringWrite
  repeat' first
    | with_reducible assumption
    | (with_reducible refine List.Subset.trans ?_ hsub; decide)
    | ((with_reducible apply Keeps.of); intro x h; first | exact h | (simp at h ⊢; try simp [h]; done) | (split <;> simp_all; done))
    | intro _
    | with_reducible apply State.onStream_moves
    | with_reducible apply State.poke_moves
    | with_reducible apply moves_onLog
    | with_reducible apply moves_ite
    | split
    | dsimp only

theorem State.issueDiff_moves {w : List Part} {s u : State} (n : Nat) (r : StreamRec) (prev seq : Nat) (hmv : Moves w s u) (hsub : [.fiu, .beu, .hq, .ret, .mem, .poison] ⊆ w) :
    Moves w s (State.issueDiff n r prev seq u) := by
  unfold State.issueDiff
  repeat' first
    | with_reducible assumption
    | (with_reducible refine List.Subset.trans ?_ hsub; decide)
    | ((with_reducible apply Keeps.of); intro x h; first | exact h | (simp at h ⊢; try simp [h]; done) | (split <;> simp_all; done))
    | intro _
    | with_reducible apply State.onSlot_moves
    | with_reducible apply State.beuSubmit_moves
    | with_reducible apply moves_ite
    | split
    | dsimp only

theorem State.queueDelivery_moves {w : List Part} {s u : State} (n : Nat) (r : StreamRec) (seq : Nat) (hmv : Moves w s u) (hsub : [.fiu] ⊆ w) :
    Moves w s (State.queueDelivery n r seq u) := by
  unfold State.queueDelivery
  repeat' first
    | with_reducible assumption
    | (with_reducible refine List.Subset.trans ?_ hsub; decide)
    | ((with_reducible apply Keeps.of); intro x h; first | exact h | (simp at h ⊢; try simp [h]; done) | (split <;> simp_all; done))
    | intro _
    | with_reducible apply State.onSlot_moves
    | with_reducible apply State.onStream_moves
    | with_reducible apply moves_ite
    | split
    | dsimp only

theorem State.sealFrame_moves {w : List Part} {s u : State} (n slot : Nat) (r : StreamRec) (i : Intake) (f : FrameIn) (hmv : Moves w s u) (hsub : [.free, .nvm, .fiu, .fgu, .beu, .vrd, .hq, .tsu, .log, .ret, .mem, .poison] ⊆ w) :
    Moves w s (State.sealFrame n slot r i f u) := by
  unfold State.sealFrame
  repeat' first
    | with_reducible assumption
    | (with_reducible refine List.Subset.trans ?_ hsub; decide)
    | ((with_reducible apply Keeps.of); intro x h; first | exact h | (simp at h ⊢; try simp [h]; done) | (split <;> simp_all; done))
    | intro _
    | with_reducible apply State.captureTime_snd
    | (with_reducible refine State.captureTime_moves (by assumption) ?_ ?_)
    | with_reducible apply State.poke_moves
    | with_reducible apply State.jMod_moves
    | with_reducible apply moves_onRet
    | with_reducible apply moves_onNvm
    | with_reducible apply State.onStream_moves
    | with_reducible apply State.freeze_moves
    | with_reducible apply State.fringWrite_moves
    | with_reducible apply State.queueDelivery_moves
    | with_reducible apply moves_with
    | with_reducible apply State.issueDiff_moves
    | with_reducible apply moves_ite
    | split
    | dsimp only

theorem State.finalStatus_moves {w : List Part} {s u : State} (n : Nat) (r : StreamRec) (p : PendFinal) (hmv : Moves w s u) (hsub : [.fiu, .fgu, .beu, .vrd, .hq, .tsu, .psm, .mon, .log, .ret] ⊆ w) :
    Moves w s (State.finalStatus n r p u) := by
  unfold State.finalStatus
  repeat' first
    | with_reducible assumption
    | (with_reducible refine List.Subset.trans ?_ hsub; decide)
    | ((with_reducible apply Keeps.of); intro x h; first | exact h | (simp at h ⊢; try simp [h]; done) | (split <;> simp_all; done))
    | intro _
    | with_reducible apply State.onStream_moves
    | with_reducible apply State.onStack_moves
    | with_reducible apply State.freeze_moves
    | with_reducible apply State.bufferIn_moves
    | with_reducible apply State.tryClose_moves
    | with_reducible apply State.latency_moves
    | with_reducible apply State.jClose_moves
    | with_reducible apply moves_ite
    | split
    | dsimp only

theorem State.loseStream_moves {w : List Part} {s u : State} (n : Nat) (hmv : Moves w s u) (hsub : [.free, .sys, .nvm, .fiu, .fgu, .aud, .vane, .vrd, .xwl, .hq, .fwl, .tsu, .psm, .mon, .log, .ret] ⊆ w) :
    Moves w s (State.loseStream n u) := by
  unfold State.loseStream
  repeat' first
    | with_reducible assumption
    | (with_reducible refine List.Subset.trans ?_ hsub; decide)
    | ((with_reducible apply Keeps.of); intro x h; first | exact h | (simp at h ⊢; try simp [h]; done) | (split <;> simp_all; done))
    | intro _
    | with_reducible apply State.onStream_moves
    | with_reducible apply State.unbuffer_moves
    | with_reducible apply State.evOpen_moves
    | with_reducible apply moves_each
    | with_reducible apply State.chFault_moves
    | with_reducible apply State.settleWork_moves
    | with_reducible apply moves_ite
    | split
    | dsimp only

theorem State.deliveryEnd_moves {w : List Part} {s u : State} (n seq : Nat) (hmv : Moves w s u) (hsub : [.fiu, .ret] ⊆ w) :
    Moves w s (State.deliveryEnd n seq u) := by
  unfold State.deliveryEnd
  repeat' first
    | with_reducible assumption
    | (with_reducible refine List.Subset.trans ?_ hsub; decide)
    | ((with_reducible apply Keeps.of); intro x h; first | exact h | (simp at h ⊢; try simp [h]; done) | (split <;> simp_all; done))
    | intro _
    | with_reducible apply State.onSlot_moves
    | with_reducible apply State.onStream_moves
    | with_reducible apply State.jClose_moves
    | with_reducible apply moves_ite
    | split
    | dsimp only

theorem State.deliveryDone_moves {w : List Part} {s u : State} (n seq bytes : Nat) (ok : Bool) (hmv : Moves w s u) (hsub : [.hq] ⊆ w) :
    Moves w s (State.deliveryDone n seq bytes ok u) := by
  unfold State.deliveryDone
  repeat' first
    | with_reducible assumption
    | (with_reducible refine List.Subset.trans ?_ hsub; decide)
    | ((with_reducible apply Keeps.of); intro x h; first | exact h | (simp at h ⊢; try simp [h]; done) | (split <;> simp_all; done))
    | intro _
    | with_reducible apply moves_send
    | with_reducible apply State.onRing_moves
    | with_reducible apply State.msiPost_moves
    | with_reducible apply moves_ite
    | split
    | dsimp only

end Sys2Proof.Machine
end

