-- ==== Sys2Proof/Laws/FrameConfigSvc.lean ====
section
/-! SUPPORT. Frames of the operations of Machine/ConfigSvc.lean. -/

namespace Sys2Proof.Machine

theorem State.checkPass_snd {w : List Part} {s u : State} {p : Bytes} (hmv : Moves w s u) (hsub : [.nvm, .log, .ret] ⊆ w) :
    Moves w s (State.checkPass p u).2 := by
  unfold State.checkPass
  repeat' first
    | with_reducible assumption
    | (with_reducible refine List.Subset.trans ?_ hsub; decide)
    | ((with_reducible apply Keeps.of); intro x h; first | exact h | (simp at h ⊢; try simp [h]; done) | (split <;> simp_all; done))
    | intro _
    | with_reducible apply State.putSecrets_moves
    | with_reducible apply State.ev_moves
    | with_reducible apply moves_ite
    | split
    | dsimp only

theorem State.checkPass_moves {w : List Part} {s u t : State} {p : Bytes} {x0}
    (e : State.checkPass p u = (x0, t)) (hmv : Moves w s u) (hsub : [.nvm, .log, .ret] ⊆ w) : Moves w s t := by
  have k := State.checkPass_snd hmv hsub (w := w) (s := s) (p := p)
  rw [e] at k; exact k

theorem State.newPass_snd {w : List Part} {s u : State} {p : Bytes} (hmv : Moves w s u) (hsub : [.free] ⊆ w) :
    Moves w s (State.newPass p u).2 := by
  unfold State.newPass
  repeat' first
    | with_reducible assumption
    | (with_reducible refine List.Subset.trans ?_ hsub; decide)
    | ((with_reducible apply Keeps.of); intro x h; first | exact h | (simp at h ⊢; try simp [h]; done) | (split <;> simp_all; done))
    | intro _
    | with_reducible apply State.drawBytes_snd
    | (with_reducible refine State.drawBytes_moves (by assumption) ?_ ?_)
    | with_reducible apply moves_ite
    | split
    | dsimp only

theorem State.newPass_moves {w : List Part} {s u t : State} {p : Bytes} {x0}
    (e : State.newPass p u = (x0, t)) (hmv : Moves w s u) (hsub : [.free] ⊆ w) : Moves w s t := by
  have k := State.newPass_snd hmv hsub (w := w) (s := s) (p := p)
  rw [e] at k; exact k

theorem State.sendFrames_moves {w : List Part} {s u : State} (port : Nat) (l : List Bytes) (hmv : Moves w s u) (hsub : [] ⊆ w) :
    Moves w s (State.sendFrames port l u) := by
  unfold State.sendFrames
  repeat' first
    | with_reducible assumption
    | (with_reducible refine List.Subset.trans ?_ hsub; decide)
    | ((with_reducible apply Keeps.of); intro x h; first | exact h | (simp at h ⊢; try simp [h]; done) | (split <;> simp_all; done))
    | intro _
    | with_reducible apply moves_each
    | with_reducible apply moves_send
    | with_reducible apply moves_ite
    | split
    | dsimp only

theorem State.answer_moves {w : List Part} {s u : State} (q : CfgReq) (cmd st : Nat) (pays : List Bytes) (hmv : Moves w s u) (hsub : [.cfg] ⊆ w) :
    Moves w s (State.answer q cmd st pays u) := by
  unfold State.answer
  repeat' first
    | with_reducible assumption
    | (with_reducible refine List.Subset.trans ?_ hsub; decide)
    | ((with_reducible apply Keeps.of); intro x h; first | exact h | (simp at h ⊢; try simp [h]; done) | (split <;> simp_all; done))
    | intro _
    | with_reducible apply moves_onCfg
    | with_reducible apply State.sendFrames_moves
    | with_reducible apply moves_ite
    | split
    | dsimp only

theorem plain_snd {w : List Part} {s u : State} {st : Nat} (hmv : Moves w s u) (hsub : [] ⊆ w) :
    Moves w s (plain st u).2.2 := by
  unfold plain
  repeat' first
    | with_reducible assumption
    | (with_reducible refine List.Subset.trans ?_ hsub; decide)
    | ((with_reducible apply Keeps.of); intro x h; first | exact h | (simp at h ⊢; try simp [h]; done) | (split <;> simp_all; done))
    | intro _
    | with_reducible apply moves_ite
    | split
    | dsimp only

theorem plain_moves {w : List Part} {s u t : State} {st : Nat} {x0 x1}
    (e : plain st u = (x0, x1, t)) (hmv : Moves w s u) (hsub : [] ⊆ w) : Moves w s t := by
  have k := plain_snd hmv hsub (w := w) (s := s) (st := st)
  rw [e] at k; exact k

theorem State.serve_moves {w : List Part} {s u : State} (q : CfgReq) (cmd : Nat) (f : State → Nat × List Bytes × State) (hmv : Moves w s u) (hff : ∀ v, Moves w s v → Moves w s (f v).2.2) (hsub : [.cfg, .psm] ⊆ w) :
    Moves w s (State.serve q cmd f u) := by
  unfold State.serve
  repeat' first
    | with_reducible assumption
    | (with_reducible refine List.Subset.trans ?_ hsub; decide)
    | ((with_reducible apply Keeps.of); intro x h; first | exact h | (simp at h ⊢; try simp [h]; done) | (split <;> simp_all; done))
    | intro _
    | with_reducible apply hff
    | with_reducible apply State.sendFrames_moves
    | with_reducible apply State.wake_moves
    | with_reducible apply plain_snd
    | (with_reducible refine plain_moves (by assumption) ?_ ?_)
    | with_reducible apply State.answer_moves
    | with_reducible apply moves_ite
    | split
    | dsimp only

theorem State.gate_snd {w : List Part} {s u : State} {q : CfgReq} {states : List St} {seals : Bool} (hmv : Moves w s u) (hsub : [.nvm, .log, .ret] ⊆ w) :
    Moves w s (State.gate q states seals u).2 := by
  unfold State.gate
  repeat' first
    | with_reducible assumption
    | (with_reducible refine List.Subset.trans ?_ hsub; decide)
    | ((with_reducible apply Keeps.of); intro x h; first | exact h | (simp at h ⊢; try simp [h]; done) | (split <;> simp_all; done))
    | intro _
    | with_reducible apply State.checkPass_snd
    | (with_reducible refine State.checkPass_moves (by assumption) ?_ ?_)
    | with_reducible apply moves_ite
    | split
    | dsimp only

theorem State.gate_moves {w : List Part} {s u t : State} {q : CfgReq} {states : List St} {seals : Bool} {x0}
    (e : State.gate q states seals u = (x0, t)) (hmv : Moves w s u) (hsub : [.nvm, .log, .ret] ⊆ w) : Moves w s t := by
  have k := State.gate_snd hmv hsub (w := w) (s := s) (q := q) (states := states) (seals := seals)
  rw [e] at k; exact k

theorem State.gated_snd {w : List Part} {s u : State} {q : CfgReq} {states : List St} {seals : Bool} {f : State → Nat × List Bytes × State} (hmv : Moves w s u) (hff : ∀ v, Moves w s v → Moves w s (f v).2.2) (hsub : [.nvm, .log, .ret] ⊆ w) :
    Moves w s (State.gated q states seals f u).2.2 := by
  unfold State.gated
  repeat' first
    | with_reducible assumption
    | (with_reducible refine List.Subset.trans ?_ hsub; decide)
    | ((with_reducible apply Keeps.of); intro x h; first | exact h | (simp at h ⊢; try simp [h]; done) | (split <;> simp_all; done))
    | intro _
    | with_reducible apply hff
    | with_reducible apply State.gate_snd
    | (with_reducible refine State.gate_moves (by assumption) ?_ ?_)
    | with_reducible apply plain_snd
    | (with_reducible refine plain_moves (by assumption) ?_ ?_)
    | with_reducible apply moves_ite
    | split
    | dsimp only

theorem State.gated_moves {w : List Part} {s u t : State} {q : CfgReq} {states : List St} {seals : Bool} {f : State → Nat × List Bytes × State} {x0 x1}
    (e : State.gated q states seals f u = (x0, x1, t)) (hmv : Moves w s u) (hff : ∀ v, Moves w s v → Moves w s (f v).2.2) (hsub : [.nvm, .log, .ret] ⊆ w) : Moves w s t := by
  have k := State.gated_snd hmv hff hsub (w := w) (s := s) (q := q) (states := states) (seals := seals) (f := f)
  rw [e] at k; exact k

theorem State.logChange_moves {w : List Part} {s u : State} (kind oper result : Nat) (hashes : List Bytes) (recovered : Bool) (hmv : Moves w s u) (hsub : [.cfg] ⊆ w) :
    Moves w s (State.logChange kind oper result hashes recovered u) := by
  unfold State.logChange
  repeat' first
    | with_reducible assumption
    | (with_reducible refine List.Subset.trans ?_ hsub; decide)
    | ((with_reducible apply Keeps.of); intro x h; first | exact h | (simp at h ⊢; try simp [h]; done) | (split <;> simp_all; done))
    | intro _
    | with_reducible apply moves_onCfg
    | with_reducible apply moves_ite
    | split
    | dsimp only

theorem State.onImgSlot_moves {w : List Part} {s u : State} (k0 : Nat) (f : Slot → Slot) (hmv : Moves w s u) (hsub : [.cfg] ⊆ w) :
    Moves w s (State.onImgSlot k0 f u) := by
  unfold State.onImgSlot
  repeat' first
    | with_reducible assumption
    | (with_reducible refine List.Subset.trans ?_ hsub; decide)
    | ((with_reducible apply Keeps.of); intro x h; first | exact h | (simp at h ⊢; try simp [h]; done) | (split <;> simp_all; done))
    | intro _
    | with_reducible apply moves_onCfg
    | with_reducible apply moves_ite
    | split
    | dsimp only

theorem State.loadIds_moves {w : List Part} {s u : State}  (hmv : Moves w s u) (hsub : [.cfg] ⊆ w) :
    Moves w s (State.loadIds u) := by
  unfold State.loadIds
  repeat' first
    | with_reducible assumption
    | (with_reducible refine List.Subset.trans ?_ hsub; decide)
    | ((with_reducible apply Keeps.of); intro x h; first | exact h | (simp at h ⊢; try simp [h]; done) | (split <;> simp_all; done))
    | intro _
    | with_reducible apply moves_onCfg
    | with_reducible apply moves_ite
    | split
    | dsimp only

theorem State.activateNow_snd {w : List Part} {s u : State} {q : CfgReq} (hmv : Moves w s u) (hsub : [.cfg] ⊆ w) :
    Moves w s (State.activateNow q u).2.2 := by
  unfold State.activateNow
  repeat' first
    | with_reducible assumption
    | (with_reducible refine List.Subset.trans ?_ hsub; decide)
    | ((with_reducible apply Keeps.of); intro x h; first | exact h | (simp at h ⊢; try simp [h]; done) | (split <;> simp_all; done))
    | intro _
    | with_reducible apply plain_snd
    | (with_reducible refine plain_moves (by assumption) ?_ ?_)
    | with_reducible apply moves_onCfg
    | with_reducible apply State.logChange_moves
    | with_reducible apply State.loadIds_moves
    | with_reducible apply moves_ite
    | split
    | dsimp only

theorem State.activateNow_moves {w : List Part} {s u t : State} {q : CfgReq} {x0 x1}
    (e : State.activateNow q u = (x0, x1, t)) (hmv : Moves w s u) (hsub : [.cfg] ⊆ w) : Moves w s t := by
  have k := State.activateNow_snd hmv hsub (w := w) (s := s) (q := q)
  rw [e] at k; exact k

theorem State.dbgOff_moves {w : List Part} {s u : State}  (hmv : Moves w s u) (hsub : [.log, .dbg, .ret] ⊆ w) :
    Moves w s (State.dbgOff u) := by
  unfold State.dbgOff
  repeat' first
    | with_reducible assumption
    | (with_reducible refine List.Subset.trans ?_ hsub; decide)
    | ((with_reducible apply Keeps.of); intro x h; first | exact h | (simp at h ⊢; try simp [h]; done) | (split <;> simp_all; done))
    | intro _
    | with_reducible apply moves_onDbg
    | with_reducible apply State.ev_moves
    | with_reducible apply moves_ite
    | split
    | dsimp only

theorem State.enrolNow_snd {w : List Part} {s u : State} {q : CfgReq} {first : Bool} {key newPassword : Option Bytes} {pattern : Option Nat} (hmv : Moves w s u) (hsub : [.free, .nvm, .cfg] ⊆ w) :
    Moves w s (State.enrolNow q first key newPassword pattern u).2.2 := by
  unfold State.enrolNow
  repeat' first
    | with_reducible assumption
    | (with_reducible refine List.Subset.trans ?_ hsub; decide)
    | ((with_reducible apply Keeps.of); intro x h; first | exact h | (simp at h ⊢; try simp [h]; done) | (split <;> simp_all; done))
    | intro _
    | with_reducible apply plain_snd
    | (with_reducible refine plain_moves (by assumption) ?_ ?_)
    | with_reducible apply State.newPass_snd
    | (with_reducible refine State.newPass_moves (by assumption) ?_ ?_)
    | with_reducible apply State.putSecrets_moves
    | with_reducible apply State.logChange_moves
    | with_reducible apply moves_ite
    | split
    | dsimp only

theorem State.enrolNow_moves {w : List Part} {s u t : State} {q : CfgReq} {first : Bool} {key newPassword : Option Bytes} {pattern : Option Nat} {x0 x1}
    (e : State.enrolNow q first key newPassword pattern u = (x0, x1, t)) (hmv : Moves w s u) (hsub : [.free, .nvm, .cfg] ⊆ w) : Moves w s t := by
  have k := State.enrolNow_snd hmv hsub (w := w) (s := s) (q := q) (first := first) (key := key) (newPassword := newPassword) (pattern := pattern)
  rw [e] at k; exact k

end Sys2Proof.Machine
end

