-- ==== Sys2Proof/Laws/FrameCores.lean ====
section
/-! SUPPORT. Frames of the operations of Machine/Cores.lean. -/

namespace Sys2Proof.Machine

theorem State.noteHit_moves {w : List Part} {s u : State} (core bp job : Nat) (safe : Bool) (hmv : Moves w s u) (hsub : [.dbg] ⊆ w) :
    Moves w s (State.noteHit core bp job safe u) := by
  unfold State.noteHit
  repeat' first
    | with_reducible assumption
    | (with_reducible refine List.Subset.trans ?_ hsub; decide)
    | ((with_reducible apply Keeps.of); intro x h; first | exact h | (simp at h ⊢; try simp [h]; done) | (split <;> simp_all; done))
    | intro _
    | with_reducible apply moves_onDbg
    | with_reducible apply moves_ite
    | split
    | dsimp only

theorem State.bpHalt_moves {w : List Part} {s u : State} (core : Nat) (hmv : Moves w s u) (hsub : [.aud, .vane, .log, .dbg, .ret] ⊆ w) :
    Moves w s (State.bpHalt core u) := by
  unfold State.bpHalt
  repeat' first
    | with_reducible assumption
    | (with_reducible refine List.Subset.trans ?_ hsub; decide)
    | ((with_reducible apply Keeps.of); intro x h; first | exact h | (simp at h ⊢; try simp [h]; done) | (split <;> simp_all; done))
    | intro _
    | with_reducible apply moves_onDbg
    | with_reducible apply State.haltMask_moves
    | with_reducible apply State.breakPairs_moves
    | with_reducible apply moves_ite
    | split
    | dsimp only

theorem State.takePass_moves {w : List Part} {s u : State} (core job i pass : Nat) (hmv : Moves w s u) (hsub : [.aud, .vane, .log, .dbg, .ret] ⊆ w) :
    Moves w s (State.takePass core job i pass u) := by
  unfold State.takePass
  repeat' first
    | with_reducible assumption
    | (with_reducible refine List.Subset.trans ?_ hsub; decide)
    | ((with_reducible apply Keeps.of); intro x h; first | exact h | (simp at h ⊢; try simp [h]; done) | (split <;> simp_all; done))
    | intro _
    | with_reducible apply State.startPass_moves
    | with_reducible apply State.noteHit_moves
    | with_reducible apply State.bpHalt_moves
    | with_reducible apply moves_ite
    | split
    | dsimp only

theorem State.takeCopy_moves {w : List Part} {s u : State} (core job i : Nat) (hmv : Moves w s u) (hsub : [.aud] ⊆ w) :
    Moves w s (State.takeCopy core job i u) := by
  unfold State.takeCopy
  repeat' first
    | with_reducible assumption
    | (with_reducible refine List.Subset.trans ?_ hsub; decide)
    | ((with_reducible apply Keeps.of); intro x h; first | exact h | (simp at h ⊢; try simp [h]; done) | (split <;> simp_all; done))
    | intro _
    | with_reducible apply moves_onAud
    | with_reducible apply State.onCore_moves
    | with_reducible apply moves_ite
    | split
    | dsimp only

theorem State.coreErrors_moves {w : List Part} {s u : State} (core : Nat) (r : Run) (hw : CoreHw) (hmv : Moves w s u) (hsub : [.free, .sys, .nvm, .fiu, .fgu, .aud, .vane, .beu, .vrd, .xwl, .hq, .fwl, .psm, .mon, .log, .ret, .mem, .poison] ⊆ w) :
    Moves w s (State.coreErrors core r hw u) := by
  unfold State.coreErrors
  repeat' first
    | with_reducible assumption
    | (with_reducible refine List.Subset.trans ?_ hsub; decide)
    | ((with_reducible apply Keeps.of); intro x h; first | exact h | (simp at h ⊢; try simp [h]; done) | (split <;> simp_all; done))
    | intro _
    | with_reducible apply moves_each
    | with_reducible apply State.readErrors_moves
    | with_reducible apply moves_ite
    | split
    | dsimp only

theorem State.hangPass_moves {w : List Part} {s u : State} (core : Nat) (r : Run) (hmv : Moves w s u) (hsub : [.aud, .vane, .log, .ret] ⊆ w) :
    Moves w s (State.hangPass core r u) := by
  unfold State.hangPass
  repeat' first
    | with_reducible assumption
    | (with_reducible refine List.Subset.trans ?_ hsub; decide)
    | ((with_reducible apply Keeps.of); intro x h; first | exact h | (simp at h ⊢; try simp [h]; done) | (split <;> simp_all; done))
    | intro _
    | with_reducible apply State.statEntry_moves
    | with_reducible apply State.loseCopies_moves
    | with_reducible apply State.onJob_moves
    | with_reducible apply State.arbOutcome_moves
    | with_reducible apply State.dropCopies_moves
    | with_reducible apply moves_ite
    | split
    | dsimp only

theorem State.syncTests_moves {w : List Part} {s u : State}  (hmv : Moves w s u) (hsub : [.psm] ⊆ w) :
    Moves w s (State.syncTests u) := by
  unfold State.syncTests
  repeat' first
    | with_reducible assumption
    | (with_reducible refine List.Subset.trans ?_ hsub; decide)
    | ((with_reducible apply Keeps.of); intro x h; first | exact h | (simp at h ⊢; try simp [h]; done) | (split <;> simp_all; done))
    | intro _
    | with_reducible apply State.onBg_moves
    | with_reducible apply moves_ite
    | split
    | dsimp only

theorem State.testDone_moves {w : List Part} {s u : State} (core : Nat) (hmv : Moves w s u) (hsub : [.aud, .psm] ⊆ w) :
    Moves w s (State.testDone core u) := by
  unfold State.testDone
  repeat' first
    | with_reducible assumption
    | (with_reducible refine List.Subset.trans ?_ hsub; decide)
    | ((with_reducible apply Keeps.of); intro x h; first | exact h | (simp at h ⊢; try simp [h]; done) | (split <;> simp_all; done))
    | intro _
    | with_reducible apply State.onCore_moves
    | with_reducible apply moves_onPsm
    | with_reducible apply State.syncTests_moves
    | with_reducible apply moves_ite
    | split
    | dsimp only

theorem State.endSegment_moves {w : List Part} {s u : State} (core : Nat) (hmv : Moves w s u) (hsub : [.aud] ⊆ w) :
    Moves w s (State.endSegment core u) := by
  unfold State.endSegment
  repeat' first
    | with_reducible assumption
    | (with_reducible refine List.Subset.trans ?_ hsub; decide)
    | ((with_reducible apply Keeps.of); intro x h; first | exact h | (simp at h ⊢; try simp [h]; done) | (split <;> simp_all; done))
    | intro _
    | with_reducible apply State.onCore_moves
    | with_reducible apply moves_ite
    | split
    | dsimp only

end Sys2Proof.Machine
end

