-- ==== Sys2Proof/Laws/FrameTap.lean ====
section
/-! SUPPORT. Frames of the operations of Machine/Tap.lean. -/

namespace Sys2Proof.Machine

theorem State.tapIr_moves {w : List Part} {s u : State} (code : Nat) (hmv : Moves w s u) (hsub : [.dbg] ⊆ w) :
    Moves w s (State.tapIr code u) := by
  unfold State.tapIr
  repeat' first
    | with_reducible assumption
    | (with_reducible refine List.Subset.trans ?_ hsub; decide)
    | ((with_reducible apply Keeps.of); intro x h; first | exact h | (simp at h ⊢; try simp [h]; done) | (split <;> simp_all; done))
    | intro _
    | with_reducible apply moves_onDbg
    | with_reducible apply moves_ite
    | split
    | dsimp only

theorem State.shiftOut_moves {w : List Part} {s u : State} (status : Nat) (data : Bytes) (hmv : Moves w s u) (hsub : [] ⊆ w) :
    Moves w s (State.shiftOut status data u) := by
  unfold State.shiftOut
  repeat' first
    | with_reducible assumption
    | (with_reducible refine List.Subset.trans ?_ hsub; decide)
    | ((with_reducible apply Keeps.of); intro x h; first | exact h | (simp at h ⊢; try simp [h]; done) | (split <;> simp_all; done))
    | intro _
    | with_reducible apply moves_send
    | with_reducible apply moves_ite
    | split
    | dsimp only

theorem State.bypassShift_moves {w : List Part} {s u : State} (code tdi : Nat) (hmv : Moves w s u) (hsub : [.dbg] ⊆ w) :
    Moves w s (State.bypassShift code tdi u) := by
  unfold State.bypassShift
  repeat' first
    | with_reducible assumption
    | (with_reducible refine List.Subset.trans ?_ hsub; decide)
    | ((with_reducible apply Keeps.of); intro x h; first | exact h | (simp at h ⊢; try simp [h]; done) | (split <;> simp_all; done))
    | intro _
    | with_reducible apply State.tapIr_moves
    | with_reducible apply moves_onDbg
    | with_reducible apply State.shiftOut_moves
    | with_reducible apply moves_ite
    | split
    | dsimp only

theorem State.newNonce_moves {w : List Part} {s u : State}  (hmv : Moves w s u) (hsub : [.free, .dbg] ⊆ w) :
    Moves w s (State.newNonce u) := by
  unfold State.newNonce
  repeat' first
    | with_reducible assumption
    | (with_reducible refine List.Subset.trans ?_ hsub; decide)
    | ((with_reducible apply Keeps.of); intro x h; first | exact h | (simp at h ⊢; try simp [h]; done) | (split <;> simp_all; done))
    | intro _
    | with_reducible apply State.drawBytes_snd
    | (with_reducible refine State.drawBytes_moves (by assumption) ?_ ?_)
    | with_reducible apply moves_onDbg
    | with_reducible apply moves_ite
    | split
    | dsimp only

theorem State.dbgOn_moves {w : List Part} {s u : State} (method : Nat) (scopeSp : Bool) (hmv : Moves w s u) (hsub : [.sys, .log, .dbg, .ret] ⊆ w) :
    Moves w s (State.dbgOn method scopeSp u) := by
  unfold State.dbgOn
  repeat' first
    | with_reducible assumption
    | (with_reducible refine List.Subset.trans ?_ hsub; decide)
    | ((with_reducible apply Keeps.of); intro x h; first | exact h | (simp at h ⊢; try simp [h]; done) | (split <;> simp_all; done))
    | intro _
    | with_reducible apply moves_onDbg
    | with_reducible apply State.ev_moves
    | with_reducible apply moves_onSys
    | with_reducible apply moves_ite
    | split
    | dsimp only

theorem State.unlockNow_snd {w : List Part} {s u : State} {r : UnlockReq} {nonce : Bytes} (hmv : Moves w s u) (hsub : [.sys, .nvm, .log, .dbg, .ret] ⊆ w) :
    Moves w s (State.unlockNow r nonce u).2 := by
  unfold State.unlockNow
  repeat' first
    | with_reducible assumption
    | (with_reducible refine List.Subset.trans ?_ hsub; decide)
    | ((with_reducible apply Keeps.of); intro x h; first | exact h | (simp at h ⊢; try simp [h]; done) | (split <;> simp_all; done))
    | intro _
    | with_reducible apply State.checkPass_snd
    | (with_reducible refine State.checkPass_moves (by assumption) ?_ ?_)
    | with_reducible apply State.dbgOn_moves
    | with_reducible apply moves_ite
    | split
    | dsimp only

theorem State.unlockNow_moves {w : List Part} {s u t : State} {r : UnlockReq} {nonce : Bytes} {x0}
    (e : State.unlockNow r nonce u = (x0, t)) (hmv : Moves w s u) (hsub : [.sys, .nvm, .log, .dbg, .ret] ⊆ w) : Moves w s t := by
  have k := State.unlockNow_snd hmv hsub (w := w) (s := s) (r := r) (nonce := nonce)
  rw [e] at k; exact k

theorem State.unlockNote_moves {w : List Part} {s u : State} (status : Nat) (hmv : Moves w s u) (hsub : [.log, .ret] ⊆ w) :
    Moves w s (State.unlockNote status u) := by
  unfold State.unlockNote
  repeat' first
    | with_reducible assumption
    | (with_reducible refine List.Subset.trans ?_ hsub; decide)
    | ((with_reducible apply Keeps.of); intro x h; first | exact h | (simp at h ⊢; try simp [h]; done) | (split <;> simp_all; done))
    | intro _
    | with_reducible apply State.ev_moves
    | with_reducible apply moves_ite
    | split
    | dsimp only

theorem State.unlockHeld_moves {w : List Part} {s u : State}  (hmv : Moves w s u) (hsub : [.sys, .nvm, .log, .dbg, .ret] ⊆ w) :
    Moves w s (State.unlockHeld u) := by
  unfold State.unlockHeld
  repeat' first
    | with_reducible assumption
    | (with_reducible refine List.Subset.trans ?_ hsub; decide)
    | ((with_reducible apply Keeps.of); intro x h; first | exact h | (simp at h ⊢; try simp [h]; done) | (split <;> simp_all; done))
    | intro _
    | with_reducible apply moves_onDbg
    | with_reducible apply State.unlockNow_snd
    | (with_reducible refine State.unlockNow_moves (by assumption) ?_ ?_)
    | with_reducible apply State.unlockNote_moves
    | with_reducible apply moves_ite
    | split
    | dsimp only

theorem State.unlockAnswer_snd {w : List Part} {s u : State} {r : UnlockReq} (hmv : Moves w s u) (hsub : [.sys, .nvm, .psm, .log, .dbg, .ret] ⊆ w) :
    Moves w s (State.unlockAnswer r u).2 := by
  unfold State.unlockAnswer
  repeat' first
    | with_reducible assumption
    | (with_reducible refine List.Subset.trans ?_ hsub; decide)
    | ((with_reducible apply Keeps.of); intro x h; first | exact h | (simp at h ⊢; try simp [h]; done) | (split <;> simp_all; done))
    | intro _
    | with_reducible apply moves_onDbg
    | with_reducible apply State.wake_moves
    | with_reducible apply State.unlockNow_snd
    | (with_reducible refine State.unlockNow_moves (by assumption) ?_ ?_)
    | with_reducible apply moves_ite
    | split
    | dsimp only

theorem State.unlockAnswer_moves {w : List Part} {s u t : State} {r : UnlockReq} {x0}
    (e : State.unlockAnswer r u = (x0, t)) (hmv : Moves w s u) (hsub : [.sys, .nvm, .psm, .log, .dbg, .ret] ⊆ w) : Moves w s t := by
  have k := State.unlockAnswer_snd hmv hsub (w := w) (s := s) (r := r)
  rw [e] at k; exact k

theorem State.dbgCmd_moves {w : List Part} {s u : State} (f : State → State) (hmv : Moves w s u) (hff : ∀ v, Moves w s v → Moves w s (f v)) (hsub : [.dbg] ⊆ w) :
    Moves w s (State.dbgCmd u f) := by
  unfold State.dbgCmd
  repeat' first
    | with_reducible assumption
    | (with_reducible refine List.Subset.trans ?_ hsub; decide)
    | ((with_reducible apply Keeps.of); intro x h; first | exact h | (simp at h ⊢; try simp [h]; done) | (split <;> simp_all; done))
    | intro _
    | with_reducible apply hff
    | with_reducible apply moves_when
    | with_reducible apply State.tapIr_moves
    | with_reducible apply State.shiftOut_moves
    | with_reducible apply moves_ite
    | split
    | dsimp only

theorem State.haltFails_moves {w : List Part} {s u : State}  (hmv : Moves w s u) (hsub : [.clk, .start, .nvm, .slb, .log, .ret] ⊆ w) :
    Moves w s (State.haltFails u) := by
  unfold State.haltFails
  repeat' first
    | with_reducible assumption
    | (with_reducible refine List.Subset.trans ?_ hsub; decide)
    | ((with_reducible apply Keeps.of); intro x h; first | exact h | (simp at h ⊢; try simp [h]; done) | (split <;> simp_all; done))
    | intro _
    | with_reducible apply State.stage_moves
    | with_reducible apply State.stageFail_moves
    | with_reducible apply moves_ite
    | split
    | dsimp only

end Sys2Proof.Machine
end

