-- ==== Sys2Proof/Laws/FrameStart.lean ====
section
/-! SUPPORT. Frames of the operations of Machine/Start.lean. -/

namespace Sys2Proof.Machine

theorem State.stage_moves {w : List Part} {s u : State} (n : Nat) (f : State → State) (hmv : Moves w s u) (hff : ∀ v, Moves w s v → Moves w s (f v)) (hsub : [.clk, .start, .nvm, .slb, .log, .ret] ⊆ w) :
    Moves w s (State.stage n f u) := by
  unfold State.stage
  repeat' first
    | with_reducible assumption
    | (with_reducible refine List.Subset.trans ?_ hsub; decide)
    | ((with_reducible apply Keeps.of); intro x h; first | exact h | (simp at h ⊢; try simp [h]; done) | (split <;> simp_all; done))
    | intro _
    | with_reducible apply hff
    | with_reducible apply State.stageFail_moves
    | with_reducible apply moves_ite
    | split
    | dsimp only

theorem State.passStage_moves {w : List Part} {s u : State} (n : Nat) (hmv : Moves w s u) (hsub : [.start] ⊆ w) :
    Moves w s (State.passStage n u) := by
  unfold State.passStage
  repeat' first
    | with_reducible assumption
    | (with_reducible refine List.Subset.trans ?_ hsub; decide)
    | ((with_reducible apply Keeps.of); intro x h; first | exact h | (simp at h ⊢; try simp [h]; done) | (split <;> simp_all; done))
    | intro _
    | with_reducible apply moves_onStart
    | with_reducible apply moves_ite
    | split
    | dsimp only

theorem State.flushOwed_moves {w : List Part} {s u : State}  (hmv : Moves w s u) (hsub : [.start, .log, .ret] ⊆ w) :
    Moves w s (State.flushOwed u) := by
  unfold State.flushOwed
  repeat' first
    | with_reducible assumption
    | (with_reducible refine List.Subset.trans ?_ hsub; decide)
    | ((with_reducible apply Keeps.of); intro x h; first | exact h | (simp at h ⊢; try simp [h]; done) | (split <;> simp_all; done))
    | intro _
    | with_reducible apply moves_onStart
    | with_reducible apply moves_each
    | with_reducible apply State.ev_moves
    | with_reducible apply moves_ite
    | split
    | dsimp only

theorem State.loadNext_moves {w : List Part} {s u : State}  (hmv : Moves w s u) (hsub : [.vrd] ⊆ w) :
    Moves w s (State.loadNext u) := by
  unfold State.loadNext
  repeat' first
    | with_reducible assumption
    | (with_reducible refine List.Subset.trans ?_ hsub; decide)
    | ((with_reducible apply Keeps.of); intro x h; first | exact h | (simp at h ⊢; try simp [h]; done) | (split <;> simp_all; done))
    | intro _
    | with_reducible apply moves_each
    | with_reducible apply moves_with
    | with_reducible apply State.onVq_moves
    | with_reducible apply moves_ite
    | split
    | dsimp only

theorem State.toDoldrums_moves {w : List Part} {s u : State} (reason : Nat) (hmv : Moves w s u) (hsub : [.sys, .clk, .start, .nvm, .vrd, .sml, .hq, .psm, .log, .ret] ⊆ w) :
    Moves w s (State.toDoldrums reason u) := by
  unfold State.toDoldrums
  repeat' first
    | with_reducible assumption
    | (with_reducible refine List.Subset.trans ?_ hsub; decide)
    | ((with_reducible apply Keeps.of); intro x h; first | exact h | (simp at h ⊢; try simp [h]; done) | (split <;> simp_all; done))
    | intro _
    | with_reducible apply State.enterDoldrums_moves
    | with_reducible apply State.flushOwed_moves
    | with_reducible apply State.loadNext_moves
    | with_reducible apply moves_ite
    | split
    | dsimp only

theorem State.resultFailed_moves {w : List Part} {s u : State} (e0 : JEntry) (hmv : Moves w s u) (hsub : [.ret] ⊆ w) :
    Moves w s (State.resultFailed e0 u) := by
  unfold State.resultFailed
  repeat' first
    | with_reducible assumption
    | (with_reducible refine List.Subset.trans ?_ hsub; decide)
    | ((with_reducible apply Keeps.of); intro x h; first | exact h | (simp at h ⊢; try simp [h]; done) | (split <;> simp_all; done))
    | intro _
    | with_reducible apply State.logPut_moves
    | with_reducible apply moves_ite
    | split
    | dsimp only

theorem State.reconcileOne_moves {w : List Part} {s u : State} (e0 : JEntry) (hmv : Moves w s u) (hsub : [.ret] ⊆ w) :
    Moves w s (State.reconcileOne e0 u) := by
  unfold State.reconcileOne
  repeat' first
    | with_reducible assumption
    | (with_reducible refine List.Subset.trans ?_ hsub; decide)
    | ((with_reducible apply Keeps.of); intro x h; first | exact h | (simp at h ⊢; try simp [h]; done) | (split <;> simp_all; done))
    | intro _
    | with_reducible apply moves_onRet
    | with_reducible apply State.resultFailed_moves
    | with_reducible apply State.logPut_moves
    | with_reducible apply moves_ite
    | split
    | dsimp only

theorem State.reconcile_moves {w : List Part} {s u : State}  (hmv : Moves w s u) (hsub : [.ret] ⊆ w) :
    Moves w s (State.reconcile u) := by
  unfold State.reconcile
  repeat' first
    | with_reducible assumption
    | (with_reducible refine List.Subset.trans ?_ hsub; decide)
    | ((with_reducible apply Keeps.of); intro x h; first | exact h | (simp at h ⊢; try simp [h]; done) | (split <;> simp_all; done))
    | intro _
    | with_reducible apply moves_onRet
    | with_reducible apply moves_each
    | with_reducible apply State.reconcileOne_moves
    | with_reducible apply moves_ite
    | split
    | dsimp only

theorem State.journalLost_moves {w : List Part} {s u : State}  (hmv : Moves w s u) (hsub : [.rtc, .ret] ⊆ w) :
    Moves w s (State.journalLost u) := by
  unfold State.journalLost
  repeat' first
    | with_reducible assumption
    | (with_reducible refine List.Subset.trans ?_ hsub; decide)
    | ((with_reducible apply Keeps.of); intro x h; first | exact h | (simp at h ⊢; try simp [h]; done) | (split <;> simp_all; done))
    | intro _
    | with_reducible apply moves_onRet
    | with_reducible apply moves_onRtc
    | with_reducible apply State.logPut_moves
    | with_reducible apply moves_ite
    | split
    | dsimp only

theorem State.sweep_moves {w : List Part} {s u : State}  (hmv : Moves w s u) (hsub : [.beu, .mem, .poison] ⊆ w) :
    Moves w s (State.sweep u) := by
  unfold State.sweep
  repeat' first
    | with_reducible assumption
    | (with_reducible refine List.Subset.trans ?_ hsub; decide)
    | ((with_reducible apply Keeps.of); intro x h; first | exact h | (simp at h ⊢; try simp [h]; done) | (split <;> simp_all; done))
    | intro _
    | with_reducible apply State.wipe_moves
    | with_reducible apply moves_onBeu
    | with_reducible apply moves_ite
    | split
    | dsimp only

theorem State.recoverEntry_moves {w : List Part} {s u : State}  (hmv : Moves w s u) (hsub : [.cfg] ⊆ w) :
    Moves w s (State.recoverEntry u) := by
  unfold State.recoverEntry
  repeat' first
    | with_reducible assumption
    | (with_reducible refine List.Subset.trans ?_ hsub; decide)
    | ((with_reducible apply Keeps.of); intro x h; first | exact h | (simp at h ⊢; try simp [h]; done) | (split <;> simp_all; done))
    | intro _
    | with_reducible apply State.logChange_moves
    | with_reducible apply moves_ite
    | split
    | dsimp only

theorem State.loadImage_moves {w : List Part} {s u : State}  (hmv : Moves w s u)
    (hsub : [.sys, .cfg, .fiu, .beu, .xwl, .mem] ⊆ w) :
    Moves w s (State.loadImage u) := by
  have k : ∀ (v : State) (b : Bytes), Moves w s v → Moves w s { v with mem := loadWeights v.mem b } := fun v b h =>
    h.trans (.of_part .mem (hsub (by decide)) (fun q hq => by cases q <;> first | rfl | exact absurd rfl hq) rfl rfl
      (Nat.le_refl _) (fun m => ⟨memPutAll_wf _ _ m.1, m.2⟩) fun k => { k with })
  unfold State.loadImage
  repeat' first
    | with_reducible assumption
    | (with_reducible refine List.Subset.trans ?_ hsub; decide)
    | ((with_reducible apply Keeps.of); intro x h; first | exact h | (simp at h ⊢; try simp [h]; done) | (split <;> simp_all; done))
    | intro _
    | with_reducible apply State.ringTrip_moves
    | with_reducible apply moves_onCfg
    | with_reducible apply moves_onBeu
    | with_reducible apply moves_onFiu
    | with_reducible apply moves_onXwl
    | with_reducible apply k
    | with_reducible apply moves_ite
    | split
    | dsimp only

theorem State.defaultPlan_moves {w : List Part} {s u : State}  (hmv : Moves w s u) (hsub : [.beu] ⊆ w) :
    Moves w s (State.defaultPlan u) := by
  unfold State.defaultPlan
  repeat' first
    | with_reducible assumption
    | (with_reducible refine List.Subset.trans ?_ hsub; decide)
    | ((with_reducible apply Keeps.of); intro x h; first | exact h | (simp at h ⊢; try simp [h]; done) | (split <;> simp_all; done))
    | intro _
    | with_reducible apply State.onStack_moves
    | with_reducible apply moves_ite
    | split
    | dsimp only

theorem State.loadUnbound_moves {w : List Part} {s u : State}  (hmv : Moves w s u) (hsub : [.hq] ⊆ w) :
    Moves w s (State.loadUnbound u) := by
  unfold State.loadUnbound
  repeat' first
    | with_reducible assumption
    | (with_reducible refine List.Subset.trans ?_ hsub; decide)
    | ((with_reducible apply Keeps.of); intro x h; first | exact h | (simp at h ⊢; try simp [h]; done) | (split <;> simp_all; done))
    | intro _
    | with_reducible apply moves_onHq
    | with_reducible apply moves_ite
    | split
    | dsimp only

theorem State.roleLost_moves {w : List Part} {s u : State}  (hmv : Moves w s u) (hsub : [.log, .ret] ⊆ w) :
    Moves w s (State.roleLost u) := by
  unfold State.roleLost
  repeat' first
    | with_reducible assumption
    | (with_reducible refine List.Subset.trans ?_ hsub; decide)
    | ((with_reducible apply Keeps.of); intro x h; first | exact h | (simp at h ⊢; try simp [h]; done) | (split <;> simp_all; done))
    | intro _
    | with_reducible apply State.evOpen_moves
    | with_reducible apply moves_ite
    | split
    | dsimp only

theorem State.endS7_moves {w : List Part} {s u : State}  (hmv : Moves w s u) (hsub : [.sys, .clk, .start, .nvm, .log, .dbg, .ret] ⊆ w) :
    Moves w s (State.endS7 u) := by
  unfold State.endS7
  repeat' first
    | with_reducible assumption
    | (with_reducible refine List.Subset.trans ?_ hsub; decide)
    | ((with_reducible apply Keeps.of); intro x h; first | exact h | (simp at h ⊢; try simp [h]; done) | (split <;> simp_all; done))
    | intro _
    | with_reducible apply moves_onStart
    | with_reducible apply moves_onClk
    | with_reducible apply State.unlockHeld_moves
    | with_reducible apply State.passStage_moves
    | with_reducible apply moves_ite
    | split
    | dsimp only

theorem State.recoverOne_moves {w : List Part} {s u : State} (e0 : JEntry) (hmv : Moves w s u) (hsub : [.free, .vrd, .hq, .ret] ⊆ w) :
    Moves w s (State.recoverOne e0 u) := by
  unfold State.recoverOne
  repeat' first
    | with_reducible assumption
    | (with_reducible refine List.Subset.trans ?_ hsub; decide)
    | ((with_reducible apply Keeps.of); intro x h; first | exact h | (simp at h ⊢; try simp [h]; done) | (split <;> simp_all; done))
    | intro _
    | with_reducible apply State.onVq_moves
    | with_reducible apply State.jClose_moves
    | with_reducible apply State.draw_snd
    | (with_reducible refine State.draw_moves (by assumption) ?_ ?_)
    | with_reducible apply State.onQ_moves
    | with_reducible apply moves_ite
    | split
    | dsimp only

theorem State.openQueues_moves {w : List Part} {s u : State}  (hmv : Moves w s u) (hsub : [.free, .vrd, .hq, .ret] ⊆ w) :
    Moves w s (State.openQueues u) := by
  unfold State.openQueues
  repeat' first
    | with_reducible assumption
    | (with_reducible refine List.Subset.trans ?_ hsub; decide)
    | ((with_reducible apply Keeps.of); intro x h; first | exact h | (simp at h ⊢; try simp [h]; done) | (split <;> simp_all; done))
    | intro _
    | with_reducible apply moves_onHq
    | with_reducible apply State.loadNext_moves
    | with_reducible apply moves_each
    | with_reducible apply State.recoverOne_moves
    | with_reducible apply State.cqDrain_moves
    | with_reducible apply moves_ite
    | split
    | dsimp only

theorem State.drawSeqs_moves {w : List Part} {s u : State}  (hmv : Moves w s u) (hsub : [.free, .sml] ⊆ w) :
    Moves w s (State.drawSeqs u) := by
  unfold State.drawSeqs
  repeat' first
    | with_reducible assumption
    | (with_reducible refine List.Subset.trans ?_ hsub; decide)
    | ((with_reducible apply Keeps.of); intro x h; first | exact h | (simp at h ⊢; try simp [h]; done) | (split <;> simp_all; done))
    | intro _
    | with_reducible apply moves_each
    | with_reducible apply State.draw_snd
    | (with_reducible refine State.draw_moves (by assumption) ?_ ?_)
    | with_reducible apply State.onConn_moves
    | with_reducible apply moves_ite
    | split
    | dsimp only

theorem State.startStreams_moves {w : List Part} {s u : State}  (hmv : Moves w s u) (hsub : [.fiu] ⊆ w) :
    Moves w s (State.startStreams u) := by
  unfold State.startStreams
  repeat' first
    | with_reducible assumption
    | (with_reducible refine List.Subset.trans ?_ hsub; decide)
    | ((with_reducible apply Keeps.of); intro x h; first | exact h | (simp at h ⊢; try simp [h]; done) | (split <;> simp_all; done))
    | intro _
    | with_reducible apply moves_onFiu
    | with_reducible apply moves_ite
    | split
    | dsimp only

theorem State.startClocks_moves {w : List Part} {s u : State}  (hmv : Moves w s u) (hsub : [.tsu, .psm] ⊆ w) :
    Moves w s (State.startClocks u) := by
  unfold State.startClocks
  repeat' first
    | with_reducible assumption
    | (with_reducible refine List.Subset.trans ?_ hsub; decide)
    | ((with_reducible apply Keeps.of); intro x h; first | exact h | (simp at h ⊢; try simp [h]; done) | (split <;> simp_all; done))
    | intro _
    | with_reducible apply moves_onTsu
    | with_reducible apply moves_onPsm
    | with_reducible apply moves_ite
    | split
    | dsimp only

theorem State.startTokens_moves {w : List Part} {s u : State}  (hmv : Moves w s u) (hsub : [.vrd, .sml] ⊆ w) :
    Moves w s (State.startTokens u) := by
  unfold State.startTokens
  repeat' first
    | with_reducible assumption
    | (with_reducible refine List.Subset.trans ?_ hsub; decide)
    | ((with_reducible apply Keeps.of); intro x h; first | exact h | (simp at h ⊢; try simp [h]; done) | (split <;> simp_all; done))
    | intro _
    | with_reducible apply moves_onVrd
    | with_reducible apply State.revoke_moves
    | with_reducible apply moves_ite
    | split
    | dsimp only

theorem State.enterS8_moves {w : List Part} {s u : State} (dest : St) (hmv : Moves w s u) (hsub : [.free, .sys, .start, .fiu, .fgu, .vrd, .sml, .hq, .tsu, .psm, .log, .ret] ⊆ w) :
    Moves w s (State.enterS8 dest u) := by
  unfold State.enterS8
  repeat' first
    | with_reducible assumption
    | (with_reducible refine List.Subset.trans ?_ hsub; decide)
    | ((with_reducible apply Keeps.of); intro x h; first | exact h | (simp at h ⊢; try simp [h]; done) | (split <;> simp_all; done))
    | intro _
    | with_reducible apply State.openQueues_moves
    | with_reducible apply State.drawSeqs_moves
    | with_reducible apply State.startStreams_moves
    | with_reducible apply State.startClocks_moves
    | with_reducible apply State.fguReset_moves
    | with_reducible apply moves_onRet
    | with_reducible apply State.setState_moves
    | with_reducible apply State.startTokens_moves
    | with_reducible apply State.toDegraded_moves
    | with_reducible apply moves_onStart
    | with_reducible apply State.psmChoose_moves
    | with_reducible apply moves_ite
    | split
    | dsimp only

theorem State.afterHold_moves {w : List Part} {s u : State}  (hmv : Moves w s u) (hsub : [.free, .sys, .sup, .clk, .start, .nvm, .cfg, .fiu, .fgu, .aud, .vane, .beu, .vrd, .slb, .sml, .cvu, .xwl, .hq, .fwl, .tsu, .psm, .mon, .log, .dbg, .ret, .mem, .poison, .caps] ⊆ w) :
    Moves w s (State.afterHold u) := by
  unfold State.afterHold
  repeat' first
    | with_reducible assumption
    | (with_reducible refine List.Subset.trans ?_ hsub; decide)
    | ((with_reducible apply Keeps.of); intro x h; first | exact h | (simp at h ⊢; try simp [h]; done) | (split <;> simp_all; done))
    | intro _
    | with_reducible apply State.resetDie_moves
    | with_reducible apply State.toDoldrums_moves
    | with_reducible apply State.beginStart_moves
    | with_reducible apply moves_ite
    | split
    | dsimp only

end Sys2Proof.Machine
end

