-- ==== Sys2Proof/Laws/FrameVerdict.lean ====
section
/-! SUPPORT. Frames of the operations of Machine/Verdict.lean. -/

namespace Sys2Proof.Machine

theorem State.takeSub_moves {w : List Part} {s u : State} (q : Nat) (hmv : Moves w s u) (hsub : [.hq] ⊆ w) :
    Moves w s (State.takeSub q u) := by
  unfold State.takeSub
  repeat' first
    | with_reducible assumption
    | (with_reducible refine List.Subset.trans ?_ hsub; decide)
    | ((with_reducible apply Keeps.of); intro x h; first | exact h | (simp at h ⊢; try simp [h]; done) | (split <;> simp_all; done))
    | intro _
    | with_reducible apply State.onQ_moves
    | with_reducible apply moves_ite
    | split
    | dsimp only

theorem State.queueError_moves {w : List Part} {s u : State} (q ch err : Nat) (hmv : Moves w s u) (hsub : [.hq, .tsu, .log, .ret] ⊆ w) :
    Moves w s (State.queueError q ch err u) := by
  unfold State.queueError
  repeat' first
    | with_reducible assumption
    | (with_reducible refine List.Subset.trans ?_ hsub; decide)
    | ((with_reducible apply Keeps.of); intro x h; first | exact h | (simp at h ⊢; try simp [h]; done) | (split <;> simp_all; done))
    | intro _
    | with_reducible apply State.onQ_moves
    | with_reducible apply State.chFault_moves
    | with_reducible apply moves_ite
    | split
    | dsimp only

theorem State.stopTimer_moves {w : List Part} {s u : State} (r : ChanRec) (hmv : Moves w s u) (hsub : [.hq, .tsu, .log, .ret] ⊆ w) :
    Moves w s (State.stopTimer r u) := by
  unfold State.stopTimer
  repeat' first
    | with_reducible assumption
    | (with_reducible refine List.Subset.trans ?_ hsub; decide)
    | ((with_reducible apply Keeps.of); intro x h; first | exact h | (simp at h ⊢; try simp [h]; done) | (split <;> simp_all; done))
    | intro _
    | with_reducible apply State.chFault_moves
    | with_reducible apply State.onChan_moves
    | with_reducible apply moves_ite
    | split
    | dsimp only

theorem State.acceptSeq_moves {w : List Part} {s u : State} (q ch seq : Nat) (w0 : Win) (hmv : Moves w s u) (hsub : [.nvm, .vrd, .ret] ⊆ w) :
    Moves w s (State.acceptSeq q ch seq w0 u) := by
  unfold State.acceptSeq
  repeat' first
    | with_reducible assumption
    | (with_reducible refine List.Subset.trans ?_ hsub; decide)
    | ((with_reducible apply Keeps.of); intro x h; first | exact h | (simp at h ⊢; try simp [h]; done) | (split <;> simp_all; done))
    | intro _
    | with_reducible apply State.onVq_moves
    | with_reducible apply moves_onRet
    | with_reducible apply moves_onNvm
    | with_reducible apply moves_ite
    | split
    | dsimp only

theorem State.takeDoldrums_moves {w : List Part} {s u : State} (q ch seq idx : Nat) (hmv : Moves w s u) (hsub : [.free, .nvm, .vrd, .hq, .ret] ⊆ w) :
    Moves w s (State.takeDoldrums q ch seq idx u) := by
  unfold State.takeDoldrums
  repeat' first
    | with_reducible assumption
    | (with_reducible refine List.Subset.trans ?_ hsub; decide)
    | ((with_reducible apply Keeps.of); intro x h; first | exact h | (simp at h ⊢; try simp [h]; done) | (split <;> simp_all; done))
    | intro _
    | with_reducible apply State.acceptSeq_moves
    | with_reducible apply State.onVq_moves
    | with_reducible apply moves_onVrd
    | with_reducible apply State.draw_snd
    | (with_reducible refine State.draw_moves (by assumption) ?_ ?_)
    | with_reducible apply State.cqPost_moves
    | with_reducible apply moves_ite
    | split
    | dsimp only

theorem State.accept330_moves {w : List Part} {s u : State} (q : Nat) (c : ChanRec) (b : Bytes) (idx : Nat) (hmv : Moves w s u) (hsub : [.nvm, .vrd, .hq, .fwl, .tsu, .psm, .log, .ret] ⊆ w) :
    Moves w s (State.accept330 q c b idx u) := by
  unfold State.accept330
  repeat' first
    | with_reducible assumption
    | (with_reducible refine List.Subset.trans ?_ hsub; decide)
    | ((with_reducible apply Keeps.of); intro x h; first | exact h | (simp at h ⊢; try simp [h]; done) | (split <;> simp_all; done))
    | intro _
    | with_reducible apply State.acceptSeq_moves
    | with_reducible apply State.jOpen_moves
    | with_reducible apply moves_onVrd
    | with_reducible apply moves_onFwl
    | with_reducible apply State.stopTimer_moves
    | with_reducible apply State.wake_moves
    | with_reducible apply moves_ite
    | split
    | dsimp only

theorem State.handOver_moves {w : List Part} {s u : State} (r : Result) (descs : List Desc) (hmv : Moves w s u) (hsub : [.aud, .vrd, .xwl, .ret] ⊆ w) :
    Moves w s (State.handOver r descs u) := by
  unfold State.handOver
  repeat' first
    | with_reducible assumption
    | (with_reducible refine List.Subset.trans ?_ hsub; decide)
    | ((with_reducible apply Keeps.of); intro x h; first | exact h | (simp at h ⊢; try simp [h]; done) | (split <;> simp_all; done))
    | intro _
    | with_reducible apply moves_onAud
    | with_reducible apply State.jOpen_moves
    | with_reducible apply moves_onXwl
    | with_reducible apply State.onResult_moves
    | with_reducible apply moves_ite
    | split
    | dsimp only

theorem State.startAudit_moves {w : List Part} {s u : State} (r : Result) (hmv : Moves w s u) (hsub : [.free, .aud, .vane, .vrd, .xwl, .ret] ⊆ w) :
    Moves w s (State.startAudit r u) := by
  unfold State.startAudit
  repeat' first
    | with_reducible assumption
    | (with_reducible refine List.Subset.trans ?_ hsub; decide)
    | ((with_reducible apply Keeps.of); intro x h; first | exact h | (simp at h ⊢; try simp [h]; done) | (split <;> simp_all; done))
    | intro _
    | with_reducible apply State.challenge_snd
    | (with_reducible refine State.challenge_moves (by assumption) ?_ ?_)
    | with_reducible apply State.onResult_moves
    | with_reducible apply State.handOver_moves
    | with_reducible apply State.issueJob_snd
    | (with_reducible refine State.issueJob_moves (by assumption) ?_ ?_)
    | with_reducible apply moves_ite
    | split
    | dsimp only

theorem State.lostAnswer_moves {w : List Part} {s u : State} (q n : Nat) (hmv : Moves w s u) (hsub : [.free, .vrd] ⊆ w) :
    Moves w s (State.lostAnswer q n u) := by
  unfold State.lostAnswer
  repeat' first
    | with_reducible assumption
    | (with_reducible refine List.Subset.trans ?_ hsub; decide)
    | ((with_reducible apply Keeps.of); intro x h; first | exact h | (simp at h ⊢; try simp [h]; done) | (split <;> simp_all; done))
    | intro _
    | with_reducible apply State.draw_snd
    | (with_reducible refine State.draw_moves (by assumption) ?_ ?_)
    | with_reducible apply State.onVq_moves
    | with_reducible apply moves_ite
    | split
    | dsimp only

end Sys2Proof.Machine
end

