-- ==== Sys2Proof/Laws/FrameXwl.lean ====
section
/-! SUPPORT. Frames of the operations of Machine/Xwl.lean. -/

namespace Sys2Proof.Machine

theorem State.xwlForward_moves {w : List Part} {s u : State} (m : XwlRx) (hmv : Moves w s u) (hsub : [] ⊆ w) :
    Moves w s (State.xwlForward m u) := by
  unfold State.xwlForward
  repeat' first
    | with_reducible assumption
    | (with_reducible refine List.Subset.trans ?_ hsub; decide)
    | ((with_reducible apply Keeps.of); intro x h; first | exact h | (simp at h ⊢; try simp [h]; done) | (split <;> simp_all; done))
    | intro _
    | with_reducible apply moves_send
    | with_reducible apply moves_ite
    | split
    | dsimp only

theorem State.xwlCollide_moves {w : List Part} {s u : State}  (hmv : Moves w s u) (hsub : [.xwl] ⊆ w) :
    Moves w s (State.xwlCollide u) := by
  unfold State.xwlCollide
  repeat' first
    | with_reducible assumption
    | (with_reducible refine List.Subset.trans ?_ hsub; decide)
    | ((with_reducible apply Keeps.of); intro x h; first | exact h | (simp at h ⊢; try simp [h]; done) | (split <;> simp_all; done))
    | intro _
    | with_reducible apply moves_onXwl
    | with_reducible apply moves_ite
    | split
    | dsimp only

theorem State.xwlBad_moves {w : List Part} {s u : State} (m : XwlRx) (hmv : Moves w s u) (hsub : [.xwl] ⊆ w) :
    Moves w s (State.xwlBad m u) := by
  unfold State.xwlBad
  repeat' first
    | with_reducible assumption
    | (with_reducible refine List.Subset.trans ?_ hsub; decide)
    | ((with_reducible apply Keeps.of); intro x h; first | exact h | (simp at h ⊢; try simp [h]; done) | (split <;> simp_all; done))
    | intro _
    | with_reducible apply moves_onXwl
    | with_reducible apply State.xwlCollide_moves
    | with_reducible apply moves_ite
    | split
    | dsimp only

theorem State.xwlDup_moves {w : List Part} {s u : State} (m : XwlRx) (hmv : Moves w s u) (hsub : [.xwl, .log, .ret] ⊆ w) :
    Moves w s (State.xwlDup m u) := by
  unfold State.xwlDup
  repeat' first
    | with_reducible assumption
    | (with_reducible refine List.Subset.trans ?_ hsub; decide)
    | ((with_reducible apply Keeps.of); intro x h; first | exact h | (simp at h ⊢; try simp [h]; done) | (split <;> simp_all; done))
    | intro _
    | with_reducible apply State.evOpen_moves
    | with_reducible apply moves_onXwl
    | with_reducible apply moves_ite
    | split
    | dsimp only

theorem State.xwlLane_moves {w : List Part} {s u : State} (lane : Nat) (hmv : Moves w s u) (hsub : [.xwl] ⊆ w) :
    Moves w s (State.xwlLane lane u) := by
  unfold State.xwlLane
  repeat' first
    | with_reducible assumption
    | (with_reducible refine List.Subset.trans ?_ hsub; decide)
    | ((with_reducible apply Keeps.of); intro x h; first | exact h | (simp at h ⊢; try simp [h]; done) | (split <;> simp_all; done))
    | intro _
    | with_reducible apply moves_onXwl
    | with_reducible apply moves_ite
    | split
    | dsimp only

theorem State.xwlFirst_snd {w : List Part} {s u : State} {m : XwlRx} (hmv : Moves w s u) (hsub : [.xwl] ⊆ w) :
    Moves w s (State.xwlFirst m u).2 := by
  unfold State.xwlFirst
  repeat' first
    | with_reducible assumption
    | (with_reducible refine List.Subset.trans ?_ hsub; decide)
    | ((with_reducible apply Keeps.of); intro x h; first | exact h | (simp at h ⊢; try simp [h]; done) | (split <;> simp_all; done))
    | intro _
    | with_reducible apply State.onNode_moves
    | with_reducible apply moves_onXwl
    | with_reducible apply moves_ite
    | split
    | dsimp only

theorem State.xwlFirst_moves {w : List Part} {s u t : State} {m : XwlRx} {x0}
    (e : State.xwlFirst m u = (x0, t)) (hmv : Moves w s u) (hsub : [.xwl] ⊆ w) : Moves w s t := by
  have k := State.xwlFirst_snd hmv hsub (w := w) (s := s) (m := m)
  rw [e] at k; exact k

theorem State.xwlRx_moves {w : List Part} {s u : State} (k0 : Nat) (m : XwlRx) (f : State → State) (hmv : Moves w s u) (hff : ∀ v, Moves w s v → Moves w s (f v)) (hsub : [.xwl, .log, .ret] ⊆ w) :
    Moves w s (State.xwlRx k0 m f u) := by
  unfold State.xwlRx
  repeat' first
    | with_reducible assumption
    | (with_reducible refine List.Subset.trans ?_ hsub; decide)
    | ((with_reducible apply Keeps.of); intro x h; first | exact h | (simp at h ⊢; try simp [h]; done) | (split <;> simp_all; done))
    | intro _
    | with_reducible apply hff
    | with_reducible apply State.xwlLane_moves
    | with_reducible apply State.xwlBad_moves
    | with_reducible apply State.xwlDup_moves
    | with_reducible apply State.xwlForward_moves
    | with_reducible apply State.evOpen_moves
    | with_reducible apply State.xwlFirst_snd
    | (with_reducible refine State.xwlFirst_moves (by assumption) ?_ ?_)
    | with_reducible apply moves_ite
    | split
    | dsimp only

theorem State.xwlUp_moves {w : List Part} {s u : State}  (hmv : Moves w s u) (hsub : [.xwl] ⊆ w) :
    Moves w s (State.xwlUp u) := by
  unfold State.xwlUp
  repeat' first
    | with_reducible assumption
    | (with_reducible refine List.Subset.trans ?_ hsub; decide)
    | ((with_reducible apply Keeps.of); intro x h; first | exact h | (simp at h ⊢; try simp [h]; done) | (split <;> simp_all; done))
    | intro _
    | with_reducible apply moves_onXwl
    | with_reducible apply moves_ite
    | split
    | dsimp only

theorem State.xwlTick_moves {w : List Part} {s u : State}  (hmv : Moves w s u) (hsub : [.xwl] ⊆ w) :
    Moves w s (State.xwlTick u) := by
  unfold State.xwlTick
  repeat' first
    | with_reducible assumption
    | (with_reducible refine List.Subset.trans ?_ hsub; decide)
    | ((with_reducible apply Keeps.of); intro x h; first | exact h | (simp at h ⊢; try simp [h]; done) | (split <;> simp_all; done))
    | intro _
    | with_reducible apply State.xwlUp_moves
    | with_reducible apply moves_onXwl
    | with_reducible apply moves_ite
    | split
    | dsimp only

theorem State.sendSync_moves {w : List Part} {s u : State}  (hmv : Moves w s u) (hsub : [.xwl] ⊆ w) :
    Moves w s (State.sendSync u) := by
  unfold State.sendSync
  repeat' first
    | with_reducible assumption
    | (with_reducible refine List.Subset.trans ?_ hsub; decide)
    | ((with_reducible apply Keeps.of); intro x h; first | exact h | (simp at h ⊢; try simp [h]; done) | (split <;> simp_all; done))
    | intro _
    | with_reducible apply State.xwlSend_moves
    | with_reducible apply moves_ite
    | split
    | dsimp only

theorem State.align_moves {w : List Part} {s u : State} (m : XwlRx) (hmv : Moves w s u) (hsub : [.free, .clk, .sml, .xwl, .log, .ret] ⊆ w) :
    Moves w s (State.align m u) := by
  unfold State.align
  repeat' first
    | with_reducible assumption
    | (with_reducible refine List.Subset.trans ?_ hsub; decide)
    | ((with_reducible apply Keeps.of); intro x h; first | exact h | (simp at h ⊢; try simp [h]; done) | (split <;> simp_all; done))
    | intro _
    | with_reducible apply State.xwlUp_moves
    | with_reducible apply moves_onXwl
    | with_reducible apply State.discipline_moves
    | with_reducible apply moves_ite
    | split
    | dsimp only

theorem State.takeSync_moves {w : List Part} {s u : State} (m : XwlRx) (hmv : Moves w s u) (hsub : [.free, .clk, .sml, .xwl, .log, .ret] ⊆ w) :
    Moves w s (State.takeSync m u) := by
  unfold State.takeSync
  repeat' first
    | with_reducible assumption
    | (with_reducible refine List.Subset.trans ?_ hsub; decide)
    | ((with_reducible apply Keeps.of); intro x h; first | exact h | (simp at h ⊢; try simp [h]; done) | (split <;> simp_all; done))
    | intro _
    | with_reducible apply moves_onXwl
    | with_reducible apply State.align_moves
    | with_reducible apply moves_ite
    | split
    | dsimp only

theorem State.lentSent_moves {w : List Part} {s u : State} (dest job : Nat) (hmv : Moves w s u) (hsub : [.xwl, .ret] ⊆ w) :
    Moves w s (State.lentSent dest job u) := by
  unfold State.lentSent
  repeat' first
    | with_reducible assumption
    | (with_reducible refine List.Subset.trans ?_ hsub; decide)
    | ((with_reducible apply Keeps.of); intro x h; first | exact h | (simp at h ⊢; try simp [h]; done) | (split <;> simp_all; done))
    | intro _
    | with_reducible apply moves_with
    | with_reducible apply State.jClose_moves
    | with_reducible apply moves_onXwl
    | with_reducible apply moves_ite
    | split
    | dsimp only

theorem State.sendBulk_moves {w : List Part} {s : State} (n room : Nat) {u : State} (hmv : Moves w s u) (hsub : [.xwl, .ret] ⊆ w) :
    Moves w s (State.sendBulk n room u) := by
  induction n generalizing room u with
  | zero => exact hmv
  | succ n ih =>
    unfold State.sendBulk
    repeat' first
      | with_reducible assumption
      | (with_reducible refine List.Subset.trans ?_ hsub; decide)
      | ((with_reducible apply Keeps.of); intro x h; first | exact h | (simp at h ⊢; try simp [h]; done) | (split <;> simp_all; done))
      | intro _
      | with_reducible apply ih
      | with_reducible apply State.lentSent_moves
      | with_reducible apply State.xwlSend_moves
      | with_reducible apply moves_onXwl
      | with_reducible apply moves_ite
      | split
      | dsimp only

theorem State.putOperands_moves {w : List Part} {s u : State} (l : List (Nat × Bytes)) (hmv : Moves w s u) (hsub : [.mem, .poison] ⊆ w) :
    Moves w s (State.putOperands l u) := by
  unfold State.putOperands
  repeat' first
    | with_reducible assumption
    | (with_reducible refine List.Subset.trans ?_ hsub; decide)
    | ((with_reducible apply Keeps.of); intro x h; first | exact h | (simp at h ⊢; try simp [h]; done) | (split <;> simp_all; done))
    | intro _
    | with_reducible apply moves_each
    | with_reducible apply State.poke_moves
    | with_reducible apply State.unpoison_moves
    | with_reducible apply moves_ite
    | split
    | dsimp only

theorem State.takeLent_moves {w : List Part} {s u : State} (src job : Nat) (pay : Bytes) (hmv : Moves w s u) (hsub : [.free, .sys, .nvm, .fiu, .fgu, .aud, .vane, .vrd, .xwl, .hq, .fwl, .psm, .mon, .log, .ret, .mem, .poison] ⊆ w) :
    Moves w s (State.takeLent src job pay u) := by
  unfold State.takeLent
  repeat' first
    | with_reducible assumption
    | (with_reducible refine List.Subset.trans ?_ hsub; decide)
    | ((with_reducible apply Keeps.of); intro x h; first | exact h | (simp at h ⊢; try simp [h]; done) | (split <;> simp_all; done))
    | intro _
    | with_reducible apply State.putOperands_moves
    | with_reducible apply State.issueJob_snd
    | (with_reducible refine State.issueJob_moves (by assumption) ?_ ?_)
    | with_reducible apply State.jOpen_moves
    | with_reducible apply moves_onXwl
    | with_reducible apply State.wake_moves
    | with_reducible apply State.settleWork_moves
    | with_reducible apply moves_ite
    | split
    | dsimp only

theorem State.endHanded_moves {w : List Part} {s u : State} (r : Result) (num : Nat) (line : LineSt) (supp : Bool) (hmv : Moves w s u) (hsub : [.vrd, .xwl, .ret] ⊆ w) :
    Moves w s (State.endHanded r num line supp u) := by
  unfold State.endHanded
  repeat' first
    | with_reducible assumption
    | (with_reducible refine List.Subset.trans ?_ hsub; decide)
    | ((with_reducible apply Keeps.of); intro x h; first | exact h | (simp at h ⊢; try simp [h]; done) | (split <;> simp_all; done))
    | intro _
    | with_reducible apply moves_onXwl
    | with_reducible apply State.jClose_moves
    | with_reducible apply State.onResult_moves
    | with_reducible apply moves_ite
    | split
    | dsimp only

theorem State.takeReturn_moves {w : List Part} {s u : State} (num : Nat) (pay : Bytes) (hmv : Moves w s u) (hsub : [.free, .sys, .nvm, .fiu, .fgu, .aud, .vane, .vrd, .xwl, .hq, .fwl, .psm, .mon, .log, .ret] ⊆ w) :
    Moves w s (State.takeReturn num pay u) := by
  unfold State.takeReturn
  repeat' first
    | with_reducible assumption
    | (with_reducible refine List.Subset.trans ?_ hsub; decide)
    | ((with_reducible apply Keeps.of); intro x h; first | exact h | (simp at h ⊢; try simp [h]; done) | (split <;> simp_all; done))
    | intro _
    | with_reducible apply moves_onXwl
    | with_reducible apply moves_onVane
    | with_reducible apply State.checkerFault_moves
    | with_reducible apply State.endHanded_moves
    | with_reducible apply State.settleWork_moves
    | with_reducible apply moves_ite
    | split
    | dsimp only

theorem State.takeBulk_moves {w : List Part} {s u : State} (src job : Nat) (pay : Bytes) (hmv : Moves w s u) (hsub : [.free, .sys, .nvm, .fiu, .fgu, .aud, .vane, .vrd, .xwl, .hq, .fwl, .psm, .mon, .log, .ret, .mem, .poison] ⊆ w) :
    Moves w s (State.takeBulk src job pay u) := by
  unfold State.takeBulk
  repeat' first
    | with_reducible assumption
    | (with_reducible refine List.Subset.trans ?_ hsub; decide)
    | ((with_reducible apply Keeps.of); intro x h; first | exact h | (simp at h ⊢; try simp [h]; done) | (split <;> simp_all; done))
    | intro _
    | with_reducible apply moves_onXwl
    | with_reducible apply State.takeReturn_moves
    | with_reducible apply State.takeLent_moves
    | with_reducible apply moves_ite
    | split
    | dsimp only

end Sys2Proof.Machine
end

