-- ==== Sys2Proof/Laws/FrameClocks.lean ====
section
/-! SUPPORT. Frames of the operations of Machine/Clocks.lean. -/

namespace Sys2Proof.Machine

theorem State.acFail_moves {w : List Part} {s u : State}  (hmv : Moves w s u) (hsub : [.free, .sys, .nvm, .fiu, .fgu, .aud, .vane, .vrd, .xwl, .hq, .fwl, .psm, .mon, .log, .ret] ⊆ w) :
    Moves w s (State.acFail u) := by
  unfold State.acFail
  repeat' first
    | with_reducible assumption
    | (with_reducible refine List.Subset.trans ?_ hsub; decide)
    | ((with_reducible apply Keeps.of); intro x h; first | exact h | (simp at h ⊢; try simp [h]; done) | (split <;> simp_all; done))
    | intro _
    | with_reducible apply moves_each
    | with_reducible apply State.fence_moves
    | with_reducible apply moves_with
    | with_reducible apply State.arbOutcome_moves
    | with_reducible apply State.onJob_moves
    | with_reducible apply State.settleWork_moves
    | with_reducible apply moves_ite
    | split
    | dsimp only

theorem State.spClockFail_moves {w : List Part} {s u : State}  (hmv : Moves w s u) (hsub : [.sys, .clk, .start, .nvm, .vrd, .slb, .sml, .psm, .log, .ret] ⊆ w) :
    Moves w s (State.spClockFail u) := by
  unfold State.spClockFail
  repeat' first
    | with_reducible assumption
    | (with_reducible refine List.Subset.trans ?_ hsub; decide)
    | ((with_reducible apply Keeps.of); intro x h; first | exact h | (simp at h ⊢; try simp [h]; done) | (split <;> simp_all; done))
    | intro _
    | with_reducible apply State.slbDrop_moves
    | with_reducible apply moves_onSys
    | with_reducible apply State.trigStop_moves
    | with_reducible apply State.stage_moves
    | with_reducible apply State.stageFail_moves
    | with_reducible apply State.endRecord_moves
    | with_reducible apply State.setState_moves
    | with_reducible apply moves_onStart
    | with_reducible apply moves_ite
    | split
    | dsimp only

theorem State.csiFail_moves {w : List Part} {s u : State} (n : Nat) (hmv : Moves w s u) (hsub : [.free, .sys, .nvm, .fiu, .fgu, .aud, .vane, .vrd, .xwl, .hq, .fwl, .tsu, .psm, .mon, .log, .ret] ⊆ w) :
    Moves w s (State.csiFail n u) := by
  unfold State.csiFail
  repeat' first
    | with_reducible assumption
    | (with_reducible refine List.Subset.trans ?_ hsub; decide)
    | ((with_reducible apply Keeps.of); intro x h; first | exact h | (simp at h ⊢; try simp [h]; done) | (split <;> simp_all; done))
    | intro _
    | with_reducible apply moves_each
    | with_reducible apply State.frameDrop_moves
    | with_reducible apply State.loseStream_moves
    | with_reducible apply moves_ite
    | split
    | dsimp only

theorem State.xwlFail_moves {w : List Part} {s u : State}  (hmv : Moves w s u) (hsub : [.sys, .xwl] ⊆ w) :
    Moves w s (State.xwlFail u) := by
  unfold State.xwlFail
  repeat' first
    | with_reducible assumption
    | (with_reducible refine List.Subset.trans ?_ hsub; decide)
    | ((with_reducible apply Keeps.of); intro x h; first | exact h | (simp at h ⊢; try simp [h]; done) | (split <;> simp_all; done))
    | intro _
    | with_reducible apply State.xwlOff_moves
    | with_reducible apply State.ringTrip_moves
    | with_reducible apply moves_ite
    | split
    | dsimp only

theorem State.clockFail_moves {w : List Part} {s u : State} (c : ClockId) (hmv : Moves w s u) (hsub : [.free, .sys, .clk, .rtc, .start, .nvm, .fiu, .fgu, .aud, .vane, .beu, .vrd, .slb, .sml, .xwl, .hq, .fwl, .tsu, .psm, .mon, .log, .ret, .mem, .poison] ⊆ w) :
    Moves w s (State.clockFail c u) := by
  unfold State.clockFail
  repeat' first
    | with_reducible assumption
    | (with_reducible refine List.Subset.trans ?_ hsub; decide)
    | ((with_reducible apply Keeps.of); intro x h; first | exact h | (simp at h ⊢; try simp [h]; done) | (split <;> simp_all; done))
    | intro _
    | with_reducible apply State.acFail_moves
    | with_reducible apply State.spClockFail_moves
    | with_reducible apply State.stackFault_moves
    | with_reducible apply State.linkDown_moves
    | with_reducible apply State.csiFail_moves
    | with_reducible apply State.xwlFail_moves
    | with_reducible apply moves_onClk
    | with_reducible apply State.setSync_moves
    | with_reducible apply moves_onRtc
    | with_reducible apply moves_ite
    | split
    | dsimp only

theorem State.clockBack_moves {w : List Part} {s u : State} (c : ClockId) (hmv : Moves w s u) (hsub : [.clk, .hq, .ret] ⊆ w) :
    Moves w s (State.clockBack c u) := by
  unfold State.clockBack
  repeat' first
    | with_reducible assumption
    | (with_reducible refine List.Subset.trans ?_ hsub; decide)
    | ((with_reducible apply Keeps.of); intro x h; first | exact h | (simp at h ⊢; try simp [h]; done) | (split <;> simp_all; done))
    | intro _
    | with_reducible apply moves_each
    | with_reducible apply State.cqDrain_moves
    | with_reducible apply moves_onClk
    | with_reducible apply moves_ite
    | split
    | dsimp only

end Sys2Proof.Machine
end

