-- ==== Sys2Proof/Laws/FrameFusion.lean ====
section
/-! SUPPORT. Frames of the operations of Machine/Fusion.lean. -/

namespace Sys2Proof.Machine

theorem State.tickCount_moves {w : List Part} {s u : State} (e0 : EgoIn) (hmv : Moves w s u) (hsub : [.fgu] ⊆ w) :
    Moves w s (State.tickCount e0 u) := by
  unfold State.tickCount
  repeat' first
    | with_reducible assumption
    | (with_reducible refine List.Subset.trans ?_ hsub; decide)
    | ((with_reducible apply Keeps.of); intro x h; first | exact h | (simp at h ⊢; try simp [h]; done) | (split <;> simp_all; done))
    | intro _
    | with_reducible apply moves_onFgu
    | with_reducible apply moves_ite
    | split
    | dsimp only

theorem State.tickRecord_moves {w : List Part} {s u : State} (was : Fgu) (e0 : EgoIn) (declared : Bool) (hmv : Moves w s u) (hsub : [.fgu] ⊆ w) :
    Moves w s (State.tickRecord was e0 declared u) := by
  unfold State.tickRecord
  repeat' first
    | with_reducible assumption
    | (with_reducible refine List.Subset.trans ?_ hsub; decide)
    | ((with_reducible apply Keeps.of); intro x h; first | exact h | (simp at h ⊢; try simp [h]; done) | (split <;> simp_all; done))
    | intro _
    | with_reducible apply moves_onFgu
    | with_reducible apply moves_ite
    | split
    | dsimp only

end Sys2Proof.Machine
end

