-- ==== Sys2Proof/Laws/FrameHost.lean ====
section
/-! SUPPORT. Frames of the operations of Machine/Host.lean. -/

namespace Sys2Proof.Machine

theorem State.bar2Read_moves {w : List Part} {s u : State} (status : Nat) (data : Bytes) (hmv : Moves w s u) (hsub : [] ⊆ w) :
    Moves w s (State.bar2Read status data u) := by
  unfold State.bar2Read
  repeat' first
    | with_reducible assumption
    | (with_reducible refine List.Subset.trans ?_ hsub; decide)
    | ((with_reducible apply Keeps.of); intro x h; first | exact h | (simp at h ⊢; try simp [h]; done) | (split <;> simp_all; done))
    | intro _
    | with_reducible apply moves_send
    | with_reducible apply moves_ite
    | split
    | dsimp only

theorem State.bar2Refuse_moves {w : List Part} {s u : State} (r : Bar2Req) (hmv : Moves w s u) (hsub : [.hq] ⊆ w) :
    Moves w s (State.bar2Refuse r u) := by
  unfold State.bar2Refuse
  repeat' first
    | with_reducible assumption
    | (with_reducible refine List.Subset.trans ?_ hsub; decide)
    | ((with_reducible apply Keeps.of); intro x h; first | exact h | (simp at h ⊢; try simp [h]; done) | (split <;> simp_all; done))
    | intro _
    | with_reducible apply moves_onHq
    | with_reducible apply State.bar2Read_moves
    | with_reducible apply moves_send
    | with_reducible apply moves_ite
    | split
    | dsimp only

theorem State.bar2Reach_moves {w : List Part} {s u : State} (r : Bar2Req) (ident a n : Nat) (hmv : Moves w s u) (hsub : [.beu, .hq, .mem, .poison] ⊆ w) :
    Moves w s (State.bar2Reach r ident a n u) := by
  unfold State.bar2Reach
  repeat' first
    | with_reducible assumption
    | (with_reducible refine List.Subset.trans ?_ hsub; decide)
    | ((with_reducible apply Keeps.of); intro x h; first | exact h | (simp at h ⊢; try simp [h]; done) | (split <;> simp_all; done))
    | intro _
    | with_reducible apply moves_onBeu
    | with_reducible apply State.busErr_moves
    | with_reducible apply State.bar2Refuse_moves
    | with_reducible apply State.bar2Read_moves
    | with_reducible apply State.poke_moves
    | with_reducible apply moves_send
    | with_reducible apply moves_ite
    | split
    | dsimp only

theorem State.cpChecks_moves {w : List Part} {s u : State} (c : ChanRec) (cp : Nat) (hmv : Moves w s u) (hsub : [.hq, .tsu, .log, .ret] ⊆ w) :
    Moves w s (State.cpChecks c cp u) := by
  unfold State.cpChecks
  repeat' first
    | with_reducible assumption
    | (with_reducible refine List.Subset.trans ?_ hsub; decide)
    | ((with_reducible apply Keeps.of); intro x h; first | exact h | (simp at h ⊢; try simp [h]; done) | (split <;> simp_all; done))
    | intro _
    | with_reducible apply State.onChan_moves
    | with_reducible apply State.chFault_moves
    | with_reducible apply moves_ite
    | split
    | dsimp only

theorem State.cpTimer_moves {w : List Part} {s u : State} (c : ChanRec) (cp : Nat) (hmv : Moves w s u) (hsub : [.hq, .tsu, .log, .ret] ⊆ w) :
    Moves w s (State.cpTimer c cp u) := by
  unfold State.cpTimer
  repeat' first
    | with_reducible assumption
    | (with_reducible refine List.Subset.trans ?_ hsub; decide)
    | ((with_reducible apply Keeps.of); intro x h; first | exact h | (simp at h ⊢; try simp [h]; done) | (split <;> simp_all; done))
    | intro _
    | with_reducible apply State.stopTimer_moves
    | with_reducible apply State.onChan_moves
    | with_reducible apply moves_ite
    | split
    | dsimp only

end Sys2Proof.Machine
end

