-- ==== Sys2Proof/Laws/FramePsmCmds.lean ====
section
/-! SUPPORT. Frames of the operations of Machine/PsmCmds.lean. -/

namespace Sys2Proof.Machine

theorem State.enterPower_moves {w : List Part} {s u : State} (p : PState) (hmv : Moves w s u) (hsub : [.beu, .psm] ⊆ w) :
    Moves w s (State.enterPower p u) := by
  unfold State.enterPower
  repeat' first
    | with_reducible assumption
    | (with_reducible refine List.Subset.trans ?_ hsub; decide)
    | ((with_reducible apply Keeps.of); intro x h; first | exact h | (simp at h ⊢; try simp [h]; done) | (split <;> simp_all; done))
    | intro _
    | with_reducible apply moves_onPsm
    | with_reducible apply moves_onBeu
    | with_reducible apply moves_ite
    | split
    | dsimp only

theorem State.planWake_moves {w : List Part} {s u : State}  (hmv : Moves w s u) (hsub : [.psm] ⊆ w) :
    Moves w s (State.planWake u) := by
  unfold State.planWake
  repeat' first
    | with_reducible assumption
    | (with_reducible refine List.Subset.trans ?_ hsub; decide)
    | ((with_reducible apply Keeps.of); intro x h; first | exact h | (simp at h ⊢; try simp [h]; done) | (split <;> simp_all; done))
    | intro _
    | with_reducible apply moves_onPsm
    | with_reducible apply moves_ite
    | split
    | dsimp only

theorem State.exitDeep_moves {w : List Part} {s u : State}  (hmv : Moves w s u) (hsub : [.fgu, .aud, .beu, .psm, .mem, .poison] ⊆ w) :
    Moves w s (State.exitDeep u) := by
  unfold State.exitDeep
  repeat' first
    | with_reducible assumption
    | (with_reducible refine List.Subset.trans ?_ hsub; decide)
    | ((with_reducible apply Keeps.of); intro x h; first | exact h | (simp at h ⊢; try simp [h]; done) | (split <;> simp_all; done))
    | intro _
    | with_reducible apply moves_onPsm
    | with_reducible apply moves_onBeu
    | with_reducible apply moves_onAud
    | with_reducible apply moves_each
    | with_reducible apply State.zeroLocal_moves
    | with_reducible apply moves_onFgu
    | with_reducible apply State.fguReset_moves
    | with_reducible apply moves_ite
    | split
    | dsimp only

theorem State.onTests_moves {w : List Part} {s u : State} (p : Bg → Bool) (f : Bg → Bg) (hmv : Moves w s u) (hsub : [.psm] ⊆ w) :
    Moves w s (State.onTests p f u) := by
  unfold State.onTests
  repeat' first
    | with_reducible assumption
    | (with_reducible refine List.Subset.trans ?_ hsub; decide)
    | ((with_reducible apply Keeps.of); intro x h; first | exact h | (simp at h ⊢; try simp [h]; done) | (split <;> simp_all; done))
    | intro _
    | with_reducible apply moves_onPsm
    | with_reducible apply moves_ite
    | split
    | dsimp only

theorem State.bgMissed_moves {w : List Part} {s u : State} (a : Nat) (hmv : Moves w s u) (hsub : [.psm, .log, .ret] ⊆ w) :
    Moves w s (State.bgMissed a u) := by
  unfold State.bgMissed
  repeat' first
    | with_reducible assumption
    | (with_reducible refine List.Subset.trans ?_ hsub; decide)
    | ((with_reducible apply Keeps.of); intro x h; first | exact h | (simp at h ⊢; try simp [h]; done) | (split <;> simp_all; done))
    | intro _
    | with_reducible apply moves_onPsm
    | with_reducible apply State.ev_moves
    | with_reducible apply State.psmChoose_moves
    | with_reducible apply moves_ite
    | split
    | dsimp only

end Sys2Proof.Machine
end

