-- ==== Sys2Proof/Laws/FrameRegRead.lean ====
section
/-! SUPPORT. Frames of the operations of Machine/RegRead.lean. -/

namespace Sys2Proof.Machine

theorem State.readWord_snd {w : List Part} {s u : State} {a : Nat} (hmv : Moves w s u) (hsub : [.caps] ⊆ w) :
    Moves w s (u.readWord a).2 := by
  show Moves w s { u with caps := u.readCaps a }
  exact moves_caps _ hmv hsub

theorem State.readWord_moves {w : List Part} {s u t : State} {a x : Nat}
    (e : State.readWord a u = (x, t)) (hmv : Moves w s u) (hsub : [.caps] ⊆ w) : Moves w s t := by
  have k := State.readWord_snd (a := a) hmv hsub
  rw [e] at k; exact k

end Sys2Proof.Machine
end

