-- ==== Sys2Proof/Laws/FrameRegisters.lean ====
section
/-! SUPPORT. Frames of the operations of Machine/Registers.lean. -/

namespace Sys2Proof.Machine

theorem State.putHq_moves {w : List Part} {s u : State} (o v : Nat) (hmv : Moves w s u) (hsub : [.hq] ⊆ w) :
    Moves w s (State.putHq o v u) := by
  unfold State.putHq
  repeat' first
    | with_reducible assumption
    | (with_reducible refine List.Subset.trans ?_ hsub; decide)
    | ((with_reducible apply Keeps.of); intro x h; first | exact h | (simp at h ⊢; try simp [h]; done) | (split <;> simp_all; done))
    | intro _
    | with_reducible apply State.onQ_moves
    | with_reducible apply State.onRing_moves
    | with_reducible apply moves_ite
    | split
    | dsimp only

theorem State.putRtc_moves {w : List Part} {s u : State} (o v : Nat) (hmv : Moves w s u) (hsub : [.rtc] ⊆ w) :
    Moves w s (State.putRtc o v u) := by
  unfold State.putRtc
  repeat' first
    | with_reducible assumption
    | (with_reducible refine List.Subset.trans ?_ hsub; decide)
    | ((with_reducible apply Keeps.of); intro x h; first | exact h | (simp at h ⊢; try simp [h]; done) | (split <;> simp_all; done))
    | intro _
    | with_reducible apply moves_onRtc
    | with_reducible apply moves_ite
    | split
    | dsimp only

theorem State.putWord_moves {w : List Part} {s u : State} (block o v : Nat) (hmv : Moves w s u) (hsub : [.sup, .clk, .rtc, .fiu, .fgu, .aud, .vane, .beu, .vrd, .xwl, .hq, .fwl, .tsu, .psm, .mon, .ret, .mem, .poison] ⊆ w) :
    Moves w s (State.putWord block o v u) := by
  unfold State.putWord
  repeat' first
    | with_reducible assumption
    | (with_reducible refine List.Subset.trans ?_ hsub; decide)
    | ((with_reducible apply Keeps.of); intro x h; first | exact h | (simp at h ⊢; try simp [h]; done) | (split <;> simp_all; done))
    | intro _
    | with_reducible apply moves_onSup
    | with_reducible apply moves_onClk
    | with_reducible apply State.putRtc_moves
    | with_reducible apply moves_onFiu
    | with_reducible apply moves_onFgu
    | with_reducible apply moves_onAud
    | with_reducible apply moves_onVane
    | with_reducible apply moves_when
    | with_reducible apply State.beuTail_moves
    | with_reducible apply moves_onBeu
    | with_reducible apply moves_onVrd
    | with_reducible apply moves_onXwl
    | with_reducible apply moves_onTsu
    | with_reducible apply moves_onFwl
    | with_reducible apply moves_onPsm
    | with_reducible apply moves_onMon
    | with_reducible apply State.putHq_moves
    | with_reducible apply moves_ite
    | split
    | dsimp only

theorem State.putBar0_moves {w : List Part} {s u : State} (a v : Nat) (hmv : Moves w s u) (hsub : [.hq] ⊆ w) :
    Moves w s (State.putBar0 a v u) := by
  unfold State.putBar0
  repeat' first
    | with_reducible assumption
    | (with_reducible refine List.Subset.trans ?_ hsub; decide)
    | ((with_reducible apply Keeps.of); intro x h; first | exact h | (simp at h ⊢; try simp [h]; done) | (split <;> simp_all; done))
    | intro _
    | with_reducible apply State.putHq_moves
    | with_reducible apply moves_ite
    | split
    | dsimp only

theorem State.putReg_moves {w : List Part} {s u : State} (w0 : Writer) (a v : Nat) (hmv : Moves w s u) (hsub : [.sup, .clk, .rtc, .fiu, .fgu, .aud, .vane, .beu, .vrd, .xwl, .hq, .fwl, .tsu, .psm, .mon, .ret, .mem, .poison] ⊆ w) :
    Moves w s (State.putReg w0 a v u) := by
  unfold State.putReg
  repeat' first
    | with_reducible assumption
    | (with_reducible refine List.Subset.trans ?_ hsub; decide)
    | ((with_reducible apply Keeps.of); intro x h; first | exact h | (simp at h ⊢; try simp [h]; done) | (split <;> simp_all; done))
    | intro _
    | with_reducible apply State.putBar0_moves
    | with_reducible apply State.putWord_moves
    | with_reducible apply moves_ite
    | split
    | dsimp only

theorem State.readRegs_snd {w : List Part} {s : State} {l : List Nat} {u : State} (hmv : Moves w s u) (hsub : [.caps] ⊆ w) :
    Moves w s (State.readRegs l u).2 := by
  induction l generalizing u with
  | nil => exact hmv
  | cons a l ih =>
    unfold State.readRegs
    exact ih (State.readWord_snd hmv hsub)

theorem State.readRegs_moves {w : List Part} {s u t : State} {l : List Nat} {x : Bytes}
    (e : State.readRegs l u = (x, t)) (hmv : Moves w s u) (hsub : [.caps] ⊆ w) : Moves w s t := by
  have k := State.readRegs_snd (l := l) hmv hsub
  rw [e] at k; exact k

theorem State.dbgRefuse_moves {w : List Part} {s u : State} (w0 : Bool) (a : Nat) (hmv : Moves w s u) (hsub : [.hq, .fwl, .tsu, .log, .ret] ⊆ w) :
    Moves w s (State.dbgRefuse w0 a u) := by
  unfold State.dbgRefuse
  repeat' first
    | with_reducible assumption
    | (with_reducible refine List.Subset.trans ?_ hsub; decide)
    | ((with_reducible apply Keeps.of); intro x h; first | exact h | (simp at h ⊢; try simp [h]; done) | (split <;> simp_all; done))
    | intro _
    | with_reducible apply State.refuse_moves
    | with_reducible apply State.shiftOut_moves
    | with_reducible apply moves_ite
    | split
    | dsimp only

theorem State.dbgPlain_moves {w : List Part} {s u : State} (a n : Nat) (w0 : Option Nat) (hmv : Moves w s u) (hsub : [.mem, .poison] ⊆ w) :
    Moves w s (State.dbgPlain a n w0 u) := by
  unfold State.dbgPlain
  repeat' first
    | with_reducible assumption
    | (with_reducible refine List.Subset.trans ?_ hsub; decide)
    | ((with_reducible apply Keeps.of); intro x h; first | exact h | (simp at h ⊢; try simp [h]; done) | (split <;> simp_all; done))
    | intro _
    | with_reducible apply State.shiftOut_moves
    | with_reducible apply State.poke_moves
    | with_reducible apply moves_ite
    | split
    | dsimp only

theorem State.dbgStack_moves {w : List Part} {s u : State} (k0 a n : Nat) (w0 : Option Nat) (hmv : Moves w s u) (hsub : [.free, .beu, .mem, .poison] ⊆ w) :
    Moves w s (State.dbgStack k0 a n w0 u) := by
  unfold State.dbgStack
  repeat' first
    | with_reducible assumption
    | (with_reducible refine List.Subset.trans ?_ hsub; decide)
    | ((with_reducible apply Keeps.of); intro x h; first | exact h | (simp at h ⊢; try simp [h]; done) | (split <;> simp_all; done))
    | intro _
    | with_reducible apply moves_onBeu
    | with_reducible apply State.busErr_moves
    | with_reducible apply State.shiftOut_moves
    | with_reducible apply State.drawBytes_snd
    | (with_reducible refine State.drawBytes_moves (by assumption) ?_ ?_)
    | with_reducible apply State.dbgPlain_moves
    | with_reducible apply moves_ite
    | split
    | dsimp only

theorem State.dbgReg_moves {w : List Part} {s u : State} (a n : Nat) (hmv : Moves w s u) (hsub : [.caps] ⊆ w) :
    Moves w s (State.dbgReg a n u) := by
  unfold State.dbgReg
  repeat' first
    | with_reducible assumption
    | (with_reducible refine List.Subset.trans ?_ hsub; decide)
    | ((with_reducible apply Keeps.of); intro x h; first | exact h | (simp at h ⊢; try simp [h]; done) | (split <;> simp_all; done))
    | intro _
    | with_reducible apply State.shiftOut_moves
    | with_reducible apply State.readWord_snd
    | (with_reducible refine State.readWord_moves (by assumption) ?_ ?_)
    | with_reducible apply moves_ite
    | split
    | dsimp only

theorem State.dbgReach_moves {w : List Part} {s u : State} (a n : Nat) (w0 : Option Nat) (hmv : Moves w s u) (hsub : [.free, .beu, .hq, .fwl, .tsu, .log, .ret, .mem, .poison, .caps] ⊆ w) :
    Moves w s (State.dbgReach a n w0 u) := by
  unfold State.dbgReach
  repeat' first
    | with_reducible assumption
    | (with_reducible refine List.Subset.trans ?_ hsub; decide)
    | ((with_reducible apply Keeps.of); intro x h; first | exact h | (simp at h ⊢; try simp [h]; done) | (split <;> simp_all; done))
    | intro _
    | with_reducible apply State.shiftOut_moves
    | with_reducible apply State.dbgStack_moves
    | with_reducible apply State.dbgRefuse_moves
    | with_reducible apply State.dbgPlain_moves
    | with_reducible apply State.dbgReg_moves
    | with_reducible apply moves_ite
    | split
    | dsimp only

end Sys2Proof.Machine
end

