-- ==== Sys2Proof/Laws/FrameLast.lean ====
section
/-! SUPPORT. Frames of the operations that answer something other than a state or a value with a state, and of a replaced SLB. -/

namespace Sys2Proof.Machine

theorem State.countReason_fst {w : List Part} {s u : State} (hmv : Moves w s u) (hsub : [.start, .nvm, .log, .ret] ⊆ w) :
    Moves w s u.countReason.1 := by
  unfold State.countReason
  split
  · exact (show Moves w s (u.startRecord false 0x0A13) from State.startRecord_moves _ _ hmv hsub)
  · exact hmv

theorem State.slbParams_moves {w : List Part} {s u v : State} (e : u.slbParams = some v) (hmv : Moves w s u)
    (hsub : [.nvm, .cfg] ⊆ w) : Moves w s v := by
  unfold State.slbParams at e
  split at e
  · cases e; exact hmv
  · split at e
    · cases e
    · cases e
      have hn := moves_onNvm (g := fun n => { n with params := Copies.put u.img.safety }) hmv (List.Subset.trans (by decide) hsub)
      split
      · exact hn
      · exact State.logChange_moves _ _ _ _ _ hn (List.Subset.trans (by decide) hsub)

theorem Slb.takeIn_lists (p : Safety) (now : Nat) (i : SlbIn) (b : Slb) :
    (b.takeIn p now i).inputs = b.inputs ∧ (b.takeIn p now i).groups = b.groups ∧ (b.takeIn p now i).brakes = b.brakes ∧
      (b.takeIn p now i).qe.length = b.qe.length ∧ (b.takeIn p now i).outFault.length = b.outFault.length := by
  unfold Slb.takeIn Slb.outFaults Slb.filter
  simp only [List.length_map, List.length_zipIdx, and_self]

/-- A cycle keeps the lists of the SLB at their lengths. -/
theorem Slb.cycle_shaped (p : Safety) (q : Copies Safety) (now : Nat) (tq pf ok : Bool) (i : SlbIn) (b : Slb) (h : b.shaped) :
    (b.cycle p q now tq pf ok i).1.shaped := by
  obtain ⟨h1, h2, h3, h4, h5⟩ := h
  obtain ⟨e1, e2, e3, e4, e5⟩ := Slb.takeIn_lists p now i b
  unfold Slb.cycle
  dsimp only
  generalize b.takeIn p now i = c at *
  refine ⟨?_, ?_, ?_, ?_, ?_⟩
  · show (List.map _ _).length = 16
    rw [List.length_map, e1, h1]
  · dsimp only; rw [List.length_map, List.length_map, List.length_zipIdx]
    unfold Slb.findTrips
    rw [List.length_map, List.length_zipIdx, e2, h2]
  · dsimp only; rw [List.length_map, List.length_zipIdx, e3, h3]
  · dsimp only; rw [e4, h4]
  · dsimp only; rw [e5, h5]

@[simp] theorem Clk.setOk_trigs (c : ClockId) (ok : Bool) (k : Clk) : (k.setOk c ok).trigs = k.trigs := by
  cases c <;> rfl

@[simp] theorem Slb.seeOut_inputs (n : Nat) (b : Slb) : (b.seeOut n).inputs = b.inputs := rfl
@[simp] theorem Slb.seeOut_groups (n : Nat) (b : Slb) : (b.seeOut n).groups = b.groups := rfl
@[simp] theorem Slb.seeOut_brakes (n : Nat) (b : Slb) : (b.seeOut n).brakes = b.brakes := rfl
@[simp] theorem Slb.seeOut_qe (n : Nat) (b : Slb) : (b.seeOut n).qe = b.qe := rfl
@[simp] theorem Slb.seeOut_outFault (n : Nat) (b : Slb) : (b.seeOut n).outFault = b.outFault := rfl

@[simp] theorem cvuStart_chans : cvuStart.chans.length = 32 := rfl

/-- A frame of the link keeps the lists of the SLB at their lengths. -/
theorem Slb.frame_shaped (now : Nat) (f : LinkFrame) (b : Slb) (h : b.shaped) : (b.frame now f).shaped := by
  have e : ∀ (st : St) (c : Slb), (c.degCopy st).shaped = c.shaped ∧ (c.hold now st).shaped = c.shaped := by
    intro st c
    unfold Slb.degCopy Slb.hold
    constructor <;> (repeat' split) <;> rfl
  show ((b.degCopy f.state).hold now f.state).shaped
  rw [(e _ _).2, (e _ _).1]; exact h

end Sys2Proof.Machine
end

