-- ==== Sys2Proof/Laws/Begin.lean ====
section
/-! SUPPORT. What a start begins with (04 R91, R93): the lemmas of `State.beginStart` and of the operations it is made of. -/

namespace Sys2Proof.Machine

/-- A move with its own set of parts, from the state itself. -/
theorem State.countStart_same {p : Part} (hp : p ∉ [Part.start, Part.nvm]) (s : State) : p.Same s s.countStart :=
  (State.countStart_moves (Moves.refl _ s) (List.Subset.refl _)).same p hp

theorem State.restartRecord_same {p : Part} (hp : p ∉ [Part.start, Part.nvm, Part.log, Part.ret]) (s : State) :
    p.Same s s.restartRecord :=
  (State.restartRecord_moves (Moves.refl _ s) (List.Subset.refl _)).same p hp

theorem State.setState_same {p : Part} (hp : p ∉ [Part.sys, Part.vrd, Part.sml, Part.psm, Part.log, Part.ret]) (dest : St) (a : Bool)
    (s : State) : p.Same s (s.setState dest a) :=
  (State.setState_moves dest a (Moves.refl _ s) (List.Subset.refl _)).same p hp

/-- Entry to a state: SYS holds it. -/
theorem State.setState_state (dest : St) (a : Bool) (s : State) : (s.setState dest a).sys.state = dest := by
  have ev : ∀ (v : State) (c k b d : Nat), (v.ev c k b d).sys = v.sys := fun v c k b d =>
    (State.ev_moves c k b d (Moves.refl _ v) (List.Subset.refl _)).same .sys (by decide)
  have rv : ∀ (v : State) (r : Nat), (v.revoke r).sys = v.sys := fun v r =>
    (State.revoke_moves r (Moves.refl _ v) (List.Subset.refl _)).same .sys (by decide)
  have wk : ∀ v : State, v.wake.sys = v.sys := fun v =>
    (State.wake_moves (Moves.refl _ v) (List.Subset.refl _)).same .sys (by decide)
  unfold State.setState
  split
  · assumption
  · simp only [wk]
    split <;> split <;> simp [ev, rv]

theorem State.ev_nvm (c k b d : Nat) (s : State) : (s.ev c k b d).nvm = s.nvm :=
  (State.ev_moves c k b d (Moves.refl _ s) (List.Subset.refl _)).same .nvm (by decide)

/-- A start record leaves the counter and the secrets. -/
theorem State.startRecord_nvm (able : Bool) (c : Nat) (s : State) :
    (s.startRecord able c).nvm = { s.nvm with hist := (c :: s.nvm.hist).take 3 } := by
  unfold State.startRecord; dsimp only; split <;> simp [State.ev_nvm]

theorem State.restartRecord_counter (s : State) : s.restartRecord.nvm.counter = s.nvm.counter := by
  unfold State.restartRecord; split
  · rw [State.startRecord_nvm]
  · rfl

theorem State.restartRecord_secrets (s : State) : s.restartRecord.nvm.secrets = s.nvm.secrets := by
  unfold State.restartRecord; split
  · rw [State.startRecord_nvm]
  · rfl

theorem State.trigStop_same {p : Part} (hp : p ∉ [Part.clk, Part.start]) (s : State) : p.Same s s.trigStop :=
  (State.trigStop_moves (Moves.refl _ s) (List.Subset.refl _)).same p hp

/-- The part of a start before the counter steps. -/
def State.startReset (warm spAlive : Bool) (s : State) : State :=
  (s.restartRecord.setState .start spAlive).trigStop.resetDie warm

theorem State.beginStart_eq (w a : Bool) (s : State) :
    s.beginStart w a = (s.startReset w a).countStart.onSlb fun b =>
      { b with permit := false, report := .start, before := .start, holdAt := none, restarted := false,
               armed := false, link := [], beat := none, beatOk := false, hbOut := false, outSeen := [false, false] } := rfl

/-- The parts that the die's reset leaves. -/
theorem State.loseDests_same {p : Part} (hp : p ∉ [Part.free, Part.mem, Part.poison]) (s : State) : p.Same s s.loseDests :=
  (State.loseDests_moves (Moves.refl _ s) (List.Subset.refl _)).same p hp

theorem State.resetDie_start (w : Bool) (s : State) :
    (s.resetDie w).start.stage = 0 ∧ (s.resetDie w).start.warm = w := ⟨rfl, rfl⟩

/-- The die's reset keeps the SP's state and whether it is held; everything else of SYS is at its reset value. -/
theorem State.resetDie_sys (w : Bool) (s : State) : (s.resetDie w).sys =
    { state := s.sys.state, powerFail := s.sys.powerFail, spHeld := s.sys.spHeld, internal := s.sys.internal } := by
  cases w
  · rfl
  · have e : s.loseDests.sys = s.sys := State.loseDests_same (p := .sys) (by decide) s
    rw [← e]; rfl

theorem State.resetDie_sup (w : Bool) (s : State) : (s.resetDie w).sup = { s.sup with uvSeen := false } := by
  cases w
  · rfl
  · have e : s.loseDests.sup = s.sup := State.loseDests_same (p := .sup) (by decide) s
    rw [← e]; rfl

theorem State.resetDie_nvm (w : Bool) (s : State) : (s.resetDie w).nvm = s.nvm := by
  cases w
  · rfl
  · have e : s.loseDests.nvm = s.nvm := State.loseDests_same (p := .nvm) (by decide) s
    rw [← e]; rfl

theorem State.resetDie_mem (w : Bool) (s : State) :
    (s.resetDie w).mem = if w then memErase s.loseDests.mem 0x140000000 0x10000000 else [] := by
  cases w <;> rfl

theorem State.startReset_sys (w a : Bool) (s : State) : (s.startReset w a).sys.state = .start ∧ (s.startReset w a).sys.tqen = false := by
  unfold State.startReset
  rw [State.resetDie_sys]
  exact ⟨(congrArg Sys.state (State.trigStop_same (p := .sys) (by decide) _)).trans (State.setState_state .start a _), rfl⟩

theorem State.beginStart_state (w a : Bool) (s : State) : (s.beginStart w a).sys.state = .start := by
  rw [State.beginStart_eq]
  exact (congrArg Sys.state (State.countStart_same (p := .sys) (by decide) (s.startReset w a))).trans (State.startReset_sys w a s).1

theorem State.beginStart_tqen (w a : Bool) (s : State) : (s.beginStart w a).sys.tqen = false := by
  rw [State.beginStart_eq]
  exact (congrArg Sys.tqen (State.countStart_same (p := .sys) (by decide) (s.startReset w a))).trans (State.startReset_sys w a s).2

theorem State.countStart_start (s : State) :
    s.countStart.start = { s.start with counted := decide (s.counter < 3) } := by
  unfold State.countStart; dsimp only; split <;> rfl

theorem State.beginStart_stage (w a : Bool) (s : State) : (s.beginStart w a).start.stage = 0 := by
  rw [State.beginStart_eq]
  exact congrArg Start.stage (State.countStart_start _)

theorem State.beginStart_warm (w a : Bool) (s : State) : (s.beginStart w a).start.warm = w := by
  rw [State.beginStart_eq]
  exact congrArg Start.warm (State.countStart_start _)

/-- With no BEU command that runs, a reset discards no destination. -/
theorem State.loseDests_idle {s : State} (h : ∀ k ∈ s.beu.stks, k.running = []) : s.loseDests = s := by
  have e : (s.beu.stks.flatMap fun k => k.running.flatMap fun r => r.cmd.dest) = [] := by
    rw [List.flatMap_eq_nil_iff]; intro k hk; rw [h k hk]; rfl
  unfold State.loseDests; rw [e]; rfl

/-- Memory after a start begins: a cold one loses it; a warm one loses the local memory region, beside the destinations of the BEU
commands it discards (11 R312). -/
theorem State.beginStart_mem (w a : Bool) (s : State) (h : ∀ k ∈ s.beu.stks, k.running = []) :
    (s.beginStart w a).mem = if w then memErase s.mem 0x140000000 0x10000000 else [] := by
  have hm : (s.restartRecord.setState .start a).trigStop.mem = s.mem :=
    Eq.trans (State.trigStop_same (p := .mem) (by decide) _)
      (Eq.trans (State.setState_same (p := .mem) (by decide) .start a s.restartRecord) (State.restartRecord_same (p := .mem) (by decide) s))
  have hb : (s.restartRecord.setState .start a).trigStop.beu = s.beu :=
    Eq.trans (State.trigStop_same (p := .beu) (by decide) _)
      (Eq.trans (State.setState_same (p := .beu) (by decide) .start a s.restartRecord) (State.restartRecord_same (p := .beu) (by decide) s))
  rw [State.beginStart_eq]
  refine Eq.trans (State.countStart_same (p := .mem) (by decide) (s.startReset w a)) ?_
  unfold State.startReset
  rw [State.resetDie_mem, State.loseDests_idle (by rw [hb]; exact h), hm]

theorem State.beginStart_sup (w a : Bool) (s : State) : (s.beginStart w a).sup = { s.sup with uvSeen := false } := by
  have h : (s.restartRecord.setState .start a).trigStop.sup = s.sup :=
    Eq.trans (State.trigStop_same (p := .sup) (by decide) _)
      (Eq.trans (State.setState_same (p := .sup) (by decide) .start a s.restartRecord) (State.restartRecord_same (p := .sup) (by decide) s))
  rw [State.beginStart_eq]
  refine Eq.trans (State.countStart_same (p := .sup) (by decide) (s.startReset w a)) ?_
  unfold State.startReset
  rw [State.resetDie_sup, h]

theorem State.startReset_nvm (w a : Bool) (s : State) : (s.startReset w a).nvm = s.restartRecord.nvm := by
  unfold State.startReset
  rw [State.resetDie_nvm]
  exact Eq.trans (State.trigStop_same (p := .nvm) (by decide) _) (State.setState_same (p := .nvm) (by decide) .start a s.restartRecord)

theorem State.countStart_secrets (s : State) : s.countStart.nvm.secrets = s.nvm.secrets := by
  unfold State.countStart; dsimp only; split <;> rfl

theorem State.beginStart_secrets (w a : Bool) (s : State) : (s.beginStart w a).nvm.secrets = s.nvm.secrets := by
  rw [State.beginStart_eq]
  exact (State.countStart_secrets _).trans ((congrArg Nvm.secrets (State.startReset_nvm w a s)).trans (State.restartRecord_secrets s))

theorem State.counter_of_nvm {s t : State} (h : t.nvm.counter = s.nvm.counter) : t.counter = s.counter := by
  unfold State.counter; rw [h]

theorem State.countStart_counter {s : State} (h : s.counter < 3) : s.countStart.counter = s.counter + 1 := by
  unfold State.countStart; dsimp only; rw [if_pos h]; simp [State.counter, Copies.put, Copies.get]

/-- The counter steps on entry to START unless it stands at 3 (01 R19, 04 R108). -/
theorem State.beginStart_counter {w a : Bool} {s : State} (h : s.counter < 3) : (s.beginStart w a).counter = s.counter + 1 := by
  have e : (s.startReset w a).counter = s.counter :=
    State.counter_of_nvm ((congrArg Nvm.counter (State.startReset_nvm w a s)).trans (State.restartRecord_counter s))
  rw [State.beginStart_eq, ← e]
  exact State.countStart_counter (e ▸ h)

end Sys2Proof.Machine
end

