-- ==== Sys2Proof/Laws/Exec.lean ====
section
/-! SUPPORT. Each command's meaning, one lemma per constructor, so that no proof unfolds the dispatch. -/

namespace Sys2Proof.Machine

@[simp] theorem exec_powerGood (t : Nat) (vinMv backupMv : Nat) (σ : State) : exec (.powerGood t vinMv backupMv) σ = execPowerGood t vinMv backupMv σ := rfl

@[simp] theorem exec_powerFailWarning (t : Nat) (σ : State) : exec (.powerFailWarning t) σ = execPowerFailWarning t σ := rfl

@[simp] theorem exec_holdupEnd (t : Nat) (σ : State) : exec (.holdupEnd t) σ = execHoldupEnd t σ := rfl

@[simp] theorem exec_stageS0 (t : Nat) (r : S0Result) (σ : State) : exec (.stageS0 t r) σ = execStageS0 t r σ := rfl

@[simp] theorem exec_stageS1 (t : Nat) (r : S1Result) (σ : State) : exec (.stageS1 t r) σ = execStageS1 t r σ := rfl

@[simp] theorem exec_stageS2 (t : Nat) (r : S2Result) (σ : State) : exec (.stageS2 t r) σ = execStageS2 t r σ := rfl

@[simp] theorem exec_stageS3 (t : Nat) (r : S3Result) (σ : State) : exec (.stageS3 t r) σ = execStageS3 t r σ := rfl

@[simp] theorem exec_stageS4 (t : Nat) (r : S4Result) (σ : State) : exec (.stageS4 t r) σ = execStageS4 t r σ := rfl

@[simp] theorem exec_stageS5 (t : Nat) (r : S5Result) (σ : State) : exec (.stageS5 t r) σ = execStageS5 t r σ := rfl

@[simp] theorem exec_stageS6 (t : Nat) (r : S6Result) (σ : State) : exec (.stageS6 t r) σ = execStageS6 t r σ := rfl

@[simp] theorem exec_stageS7 (t : Nat) (r : S7Result) (σ : State) : exec (.stageS7 t r) σ = execStageS7 t r σ := rfl

@[simp] theorem exec_stageS8 (t : Nat) (queuesOk : Bool) (σ : State) : exec (.stageS8 t queuesOk) σ = execStageS8 t queuesOk σ := rfl

@[simp] theorem exec_stageTimeLimit (t : Nat) (σ : State) : exec (.stageTimeLimit t) σ = execStageTimeLimit t σ := rfl

@[simp] theorem exec_startWatchdog (t : Nat) (σ : State) : exec (.startWatchdog t) σ = execStartWatchdog t σ := rfl

@[simp] theorem exec_stageFailHoldExpiry (t : Nat) (σ : State) : exec (.stageFailHoldExpiry t) σ = execStageFailHoldExpiry t σ := rfl

@[simp] theorem exec_startCounterClear (x : CounterClear) (σ : State) : exec (.startCounterClear x) σ = execStartCounterClear x σ := rfl

@[simp] theorem exec_doldrumsDiagnosticFrame (t : Nat) (σ : State) : exec (.doldrumsDiagnosticFrame t) σ = execDoldrumsDiagnosticFrame t σ := rfl

@[simp] theorem exec_spCycle (t : Nat) (σ : State) : exec (.spCycle t) σ = execSpCycle t σ := rfl

@[simp] theorem exec_degradedTimerExpiry (t : Nat) (σ : State) : exec (.degradedTimerExpiry t) σ = execDegradedTimerExpiry t σ := rfl

@[simp] theorem exec_tqenSs1Overdue (t : Nat) (σ : State) : exec (.tqenSs1Overdue t) σ = execTqenSs1Overdue t σ := rfl

@[simp] theorem exec_restartArmingLapse (t : Nat) (σ : State) : exec (.restartArmingLapse t) σ = execRestartArmingLapse t σ := rfl

@[simp] theorem exec_sealSwitchChange (t : Nat) (sw : Nat) (slbOn spOn : Bool) (σ : State) : exec (.sealSwitchChange t sw slbOn spOn) σ = execSealSwitchChange t sw slbOn spOn σ := rfl

@[simp] theorem exec_sealContactDisagree (t : Nat) (sw : Nat) (σ : State) : exec (.sealContactDisagree t sw) σ = execSealContactDisagree t sw σ := rfl

@[simp] theorem exec_tamperLoopOpen (t : Nat) (σ : State) : exec (.tamperLoopOpen t) σ = execTamperLoopOpen t σ := rfl

@[simp] theorem exec_dbgPresChange (t : Nat) (low : Bool) (σ : State) : exec (.dbgPresChange t low) σ = execDbgPresChange t low σ := rfl

@[simp] theorem exec_ioSupplyOutOfWindow (t : Nat) (supplyB : Bool) (mv : Nat) (σ : State) : exec (.ioSupplyOutOfWindow t supplyB mv) σ = execIoSupplyOutOfWindow t supplyB mv σ := rfl

@[simp] theorem exec_ioSupplyRecovered (t : Nat) (mvA mvB : Nat) (σ : State) : exec (.ioSupplyRecovered t mvA mvB) σ = execIoSupplyRecovered t mvA mvB σ := rfl

@[simp] theorem exec_dieTempWarning (t : Nat) (σ : State) : exec (.dieTempWarning t) σ = execDieTempWarning t σ := rfl

@[simp] theorem exec_thermalTrip (t : Nat) (σ : State) : exec (.thermalTrip t) σ = execThermalTrip t σ := rfl

@[simp] theorem exec_thermalRelease (t : Nat) (σ : State) : exec (.thermalRelease t) σ = execThermalRelease t σ := rfl

@[simp] theorem exec_clockMonitorWindow (t : Nat) (clk : ClockId) (ok : Bool) (σ : State) : exec (.clockMonitorWindow t clk ok) σ = execClockMonitorWindow t clk ok σ := rfl

@[simp] theorem exec_clockRecoveryRelease (t : Nat) (σ : State) : exec (.clockRecoveryRelease t) σ = execClockRecoveryRelease t σ := rfl

@[simp] theorem exec_ptpSyncReceived (t : Nat) (sync : PtpSync) (σ : State) : exec (.ptpSyncReceived t sync) σ = execPtpSyncReceived t sync σ := rfl

@[simp] theorem exec_ptpGrandmasterLost (t : Nat) (port : Nat) (σ : State) : exec (.ptpGrandmasterLost t port) σ = execPtpGrandmasterLost t port σ := rfl

@[simp] theorem exec_ptpHoldoverExpiry (t : Nat) (σ : State) : exec (.ptpHoldoverExpiry t) σ = execPtpHoldoverExpiry t σ := rfl

@[simp] theorem exec_ptpPortDisagree (t : Nat) (diff : Int) (σ : State) : exec (.ptpPortDisagree t diff) σ = execPtpPortDisagree t diff σ := rfl

@[simp] theorem exec_triggerEdge (t : Nat) (n : Nat) (σ : State) : exec (.triggerEdge t n) σ = execTriggerEdge t n σ := rfl

@[simp] theorem exec_trigStartWrite (t : Nat) (n v : Nat) (σ : State) : exec (.trigStartWrite t n v) σ = execTrigStartWrite t n v σ := rfl

@[simp] theorem exec_trigPeriodWrite (t : Nat) (n v : Nat) (σ : State) : exec (.trigPeriodWrite t n v) σ = execTrigPeriodWrite t n v σ := rfl

@[simp] theorem exec_trigWidthWrite (t : Nat) (n v : Nat) (σ : State) : exec (.trigWidthWrite t n v) σ = execTrigWidthWrite t n v σ := rfl

@[simp] theorem exec_trigCtrlWrite (t : Nat) (n v : Nat) (σ : State) : exec (.trigCtrlWrite t n v) σ = execTrigCtrlWrite t n v σ := rfl

@[simp] theorem exec_rtcTenthTick (t : Nat) (σ : State) : exec (.rtcTenthTick t) σ = execRtcTenthTick t σ := rfl

@[simp] theorem exec_read (t : Nat) (q : CfgReq) (addrs : List Nat) (σ : State) : exec (.read t q addrs) σ = execRead t q addrs σ := rfl

@[simp] theorem exec_exportObject (t : Nat) (q : CfgReq) (object first count : Nat) (σ : State) : exec (.exportObject t q object first count) σ = execExportObject t q object first count σ := rfl

@[simp] theorem exec_uploadBegin (t : Nat) (q : CfgReq) (σ : State) : exec (.uploadBegin t q) σ = execUploadBegin t q σ := rfl

@[simp] theorem exec_uploadData (t : Nat) (q : CfgReq) (reads : Bool) (offset : Nat) (data : Bytes) (σ : State) : exec (.uploadData t q reads offset data) σ = execUploadData t q reads offset data σ := rfl

@[simp] theorem exec_uploadEnd (t : Nat) (q : CfgReq) (σ : State) : exec (.uploadEnd t q) σ = execUploadEnd t q σ := rfl

@[simp] theorem exec_uploadSessionLapse (t : Nat) (σ : State) : exec (.uploadSessionLapse t) σ = execUploadSessionLapse t σ := rfl

@[simp] theorem exec_activate (t : Nat) (q : CfgReq) (σ : State) : exec (.activate t q) σ = execActivate t q σ := rfl

@[simp] theorem exec_restart (t : Nat) (q : CfgReq) (σ : State) : exec (.restart t q) σ = execRestart t q σ := rfl

@[simp] theorem exec_enrol (t : Nat) (q : CfgReq) (key : Option Bytes) (newPassword : Option Bytes) (pattern : Option Nat) (σ : State) : exec (.enrol t q key newPassword pattern) σ = execEnrol t q key newPassword pattern σ := rfl

@[simp] theorem exec_setPassword (t : Nat) (q : CfgReq) (newPassword : Bytes) (σ : State) : exec (.setPassword t q newPassword) σ = execSetPassword t q newPassword σ := rfl

@[simp] theorem exec_setRtc (t : Nat) (q : CfgReq) (op : RtcOp) (σ : State) : exec (.setRtc t q op) σ = execSetRtc t q op σ := rfl

@[simp] theorem exec_setUtcOfs (t : Nat) (q : CfgReq) (ofs : Nat) (σ : State) : exec (.setUtcOfs t q ofs) σ = execSetUtcOfs t q ofs σ := rfl

@[simp] theorem exec_clearChangeLog (t : Nat) (q : CfgReq) (σ : State) : exec (.clearChangeLog t q) σ = execClearChangeLog t q σ := rfl

@[simp] theorem exec_clearDoldrums (t : Nat) (q : CfgReq) (σ : State) : exec (.clearDoldrums t q) σ = execClearDoldrums t q σ := rfl

@[simp] theorem exec_fieldReset (t : Nat) (q : CfgReq) (cert : Cert) (σ : State) : exec (.fieldReset t q cert) σ = execFieldReset t q cert σ := rfl

@[simp] theorem exec_lockoutEnd (t : Nat) (σ : State) : exec (.lockoutEnd t) σ = execLockoutEnd t σ := rfl

@[simp] theorem exec_hashReverify (t : Nat) (σ : State) : exec (.hashReverify t) σ = execHashReverify t σ := rfl

@[simp] theorem exec_frameStart (t : Nat) (stream : Nat) (σ : State) : exec (.frameStart t stream) σ = execFrameStart t stream σ := rfl

@[simp] theorem exec_frameEnd (t : Nat) (stream : Nat) (f : FrameIn) (σ : State) : exec (.frameEnd t stream f) σ = execFrameEnd t stream f σ := rfl

@[simp] theorem exec_checkFinalStatus (t : Nat) (stream : Nat) (σ : State) : exec (.checkFinalStatus t stream) σ = execCheckFinalStatus t stream σ := rfl

@[simp] theorem exec_streamStallExpiry (t : Nat) (stream : Nat) (σ : State) : exec (.streamStallExpiry t stream) σ = execStreamStallExpiry t stream σ := rfl

@[simp] theorem exec_frameDeliveryComplete (t : Nat) (stream : Nat) (buf : BufDesc) (σ : State) : exec (.frameDeliveryComplete t stream buf) σ = execFrameDeliveryComplete t stream buf σ := rfl

@[simp] theorem exec_egoTick (t : Nat) (e : EgoIn) (σ : State) : exec (.egoTick t e) σ = execEgoTick t e σ := rfl

@[simp] theorem exec_epochOpen (t : Nat) (σ : State) : exec (.epochOpen t) σ = execEpochOpen t σ := rfl

@[simp] theorem exec_epochWaitExpiry (t : Nat) (σ : State) : exec (.epochWaitExpiry t) σ = execEpochWaitExpiry t σ := rfl

@[simp] theorem exec_guardJobStart (t : Nat) (σ : State) : exec (.guardJobStart t) σ = execGuardJobStart t σ := rfl

@[simp] theorem exec_descriptorDispatch (t : Nat) (core : Nat) (σ : State) : exec (.descriptorDispatch t core) σ = execDescriptorDispatch t core σ := rfl

@[simp] theorem exec_descriptorComplete (t : Nat) (core : Nat) (hw : CoreHw) (σ : State) : exec (.descriptorComplete t core hw) σ = execDescriptorComplete t core hw σ := rfl

@[simp] theorem exec_descriptorHang (t : Nat) (core : Nat) (σ : State) : exec (.descriptorHang t core) σ = execDescriptorHang t core σ := rfl

@[simp] theorem exec_coreBistComplete (t : Nat) (core : Nat) (ok : Bool) (σ : State) : exec (.coreBistComplete t core ok) σ = execCoreBistComplete t core ok σ := rfl

@[simp] theorem exec_rollingSelftestSegment (t : Nat) (core : Nat) (e : SegEnd) (σ : State) : exec (.rollingSelftestSegment t core e) σ = execRollingSelftestSegment t core e σ := rfl

@[simp] theorem exec_vaneSelftestComplete (t : Nat) (laneOk slotOk : Bool) (σ : State) : exec (.vaneSelftestComplete t laneOk slotOk) σ = execVaneSelftestComplete t laneOk slotOk σ := rfl

@[simp] theorem exec_safeStateJobIssue (t : Nat) (cls : Nat) (σ : State) : exec (.safeStateJobIssue t cls) σ = execSafeStateJobIssue t cls σ := rfl

@[simp] theorem exec_safeStateDeadline (t : Nat) (cls : Nat) (σ : State) : exec (.safeStateDeadline t cls) σ = execSafeStateDeadline t cls σ := rfl

@[simp] theorem exec_beuCmdSubmit (t : Nat) (stack : Nat) (bg : Bool) (cmd : Bytes) (σ : State) : exec (.beuCmdSubmit t stack bg cmd) σ = execBeuCmdSubmit t stack bg cmd σ := rfl

@[simp] theorem exec_beuCmdStart (t : Nat) (stack : Nat) (bg : Bool) (σ : State) : exec (.beuCmdStart t stack bg) σ = execBeuCmdStart t stack bg σ := rfl

@[simp] theorem exec_beuCmdComplete (t : Nat) (stack : Nat) (x : BeuEnd) (σ : State) : exec (.beuCmdComplete t stack x) σ = execBeuCmdComplete t stack x σ := rfl

@[simp] theorem exec_beuFenceComplete (t : Nat) (stack : Nat) (bg : Bool) (σ : State) : exec (.beuFenceComplete t stack bg) σ = execBeuFenceComplete t stack bg σ := rfl

@[simp] theorem exec_beuSwitchGo (t : Nat) (stack v : Nat) (σ : State) : exec (.beuSwitchGo t stack v) σ = execBeuSwitchGo t stack v σ := rfl

@[simp] theorem exec_beuSwitchDrainComplete (t : Nat) (stack : Nat) (σ : State) : exec (.beuSwitchDrainComplete t stack) σ = execBeuSwitchDrainComplete t stack σ := rfl

@[simp] theorem exec_beuSwitchFenceComplete (t : Nat) (stack : Nat) (σ : State) : exec (.beuSwitchFenceComplete t stack) σ = execBeuSwitchFenceComplete t stack σ := rfl

@[simp] theorem exec_beuSwitchComplete (t : Nat) (stack : Nat) (σ : State) : exec (.beuSwitchComplete t stack) σ = execBeuSwitchComplete t stack σ := rfl

@[simp] theorem exec_scrubStep (t : Nat) (stack : Nat) (corrected : Nat) (uncorrectable : List Nat) (σ : State) : exec (.scrubStep t stack corrected uncorrectable) σ = execScrubStep t stack corrected uncorrectable σ := rfl

@[simp] theorem exec_stackTempChange (t : Nat) (stack celsius : Nat) (σ : State) : exec (.stackTempChange t stack celsius) σ = execStackTempChange t stack celsius σ := rfl

@[simp] theorem exec_stackCoolExpiry (t : Nat) (stack : Nat) (σ : State) : exec (.stackCoolExpiry t stack) σ = execStackCoolExpiry t stack σ := rfl

@[simp] theorem exec_sqTailDoorbell (t : Nat) (q v : Nat) (σ : State) : exec (.sqTailDoorbell t q v) σ = execSqTailDoorbell t q v σ := rfl

@[simp] theorem exec_submissionConsume (t : Nat) (q : Nat) (desc : Bytes) (σ : State) : exec (.submissionConsume t q desc) σ = execSubmissionConsume t q desc σ := rfl

@[simp] theorem exec_witnessLockEffective (t : Nat) (q : Nat) (σ : State) : exec (.witnessLockEffective t q) σ = execWitnessLockEffective t q σ := rfl

@[simp] theorem exec_resultCommit (t : Nat) (q : Nat) (σ : State) : exec (.resultCommit t q) σ = execResultCommit t q σ := rfl

@[simp] theorem exec_ageDeadlineExpiry (t : Nat) (q seq : Nat) (σ : State) : exec (.ageDeadlineExpiry t q seq) σ = execAgeDeadlineExpiry t q seq σ := rfl

@[simp] theorem exec_verdictPathWatchdog (t : Nat) (q seq : Nat) (σ : State) : exec (.verdictPathWatchdog t q seq) σ = execVerdictPathWatchdog t q seq σ := rfl

@[simp] theorem exec_vrdQuery (t : Nat) (q : Nat) (x : VrdAsk) (σ : State) : exec (.vrdQuery t q x) σ = execVrdQuery t q x σ := rfl

@[simp] theorem exec_slbCycle (t : Nat) (i : SlbIn) (σ : State) : exec (.slbCycle t i) σ = execSlbCycle t i σ := rfl

@[simp] theorem exec_inputFilterSettle (t : Nat) (input : Nat) (chB : Bool) (on : Bool) (σ : State) : exec (.inputFilterSettle t input chB on) σ = execInputFilterSettle t input chB on σ := rfl

@[simp] theorem exec_blankingEnd (t : Nat) (input : Nat) (chB : Bool) (σ : State) : exec (.blankingEnd t input chB) σ = execBlankingEnd t input chB σ := rfl

@[simp] theorem exec_discrepancyExpiry (t : Nat) (input : Nat) (σ : State) : exec (.discrepancyExpiry t input) σ = execDiscrepancyExpiry t input σ := rfl

@[simp] theorem exec_testPulse (t : Nat) (n : Nat) (p : PulseIn) (σ : State) : exec (.testPulse t n p) σ = execTestPulse t n p σ := rfl

@[simp] theorem exec_outputOfftest (t : Nat) (channel : Nat) (ok : Bool) (σ : State) : exec (.outputOfftest t channel ok) σ = execOutputOfftest t channel ok σ := rfl

@[simp] theorem exec_ss1MaxExpiry (t : Nat) (group : Nat) (σ : State) : exec (.ss1MaxExpiry t group) σ = execSs1MaxExpiry t group σ := rfl

@[simp] theorem exec_standstillHeld (t : Nat) (group : Nat) (σ : State) : exec (.standstillHeld t group) σ = execStandstillHeld t group σ := rfl

@[simp] theorem exec_brakeReleaseDelayExpiry (t : Nat) (brake : Nat) (σ : State) : exec (.brakeReleaseDelayExpiry t brake) σ = execBrakeReleaseDelayExpiry t brake σ := rfl

@[simp] theorem exec_brakePullinExpiry (t : Nat) (brake : Nat) (σ : State) : exec (.brakePullinExpiry t brake) σ = execBrakePullinExpiry t brake σ := rfl

@[simp] theorem exec_chainPulseExpiry (t : Nat) (σ : State) : exec (.chainPulseExpiry t) σ = execChainPulseExpiry t σ := rfl

@[simp] theorem exec_encoderFault (t : Nat) (qe : Nat) (present : Bool) (σ : State) : exec (.encoderFault t qe present) σ = execEncoderFault t qe present σ := rfl

@[simp] theorem exec_slbDegTimerExpiry (t : Nat) (σ : State) : exec (.slbDegTimerExpiry t) σ = execSlbDegTimerExpiry t σ := rfl

@[simp] theorem exec_slbLinkFrame (t : Nat) (intact : Bool) (σ : State) : exec (.slbLinkFrame t intact) σ = execSlbLinkFrame t intact σ := rfl

@[simp] theorem exec_spstopNChange (t : Nat) (active : Bool) (σ : State) : exec (.spstopNChange t active) σ = execSpstopNChange t active σ := rfl

@[simp] theorem exec_requestDisagreeExpiry (t : Nat) (σ : State) : exec (.requestDisagreeExpiry t) σ = execRequestDisagreeExpiry t σ := rfl

@[simp] theorem exec_heartbeatTimeout (t : Nat) (x : BeatIn) (σ : State) : exec (.heartbeatTimeout t x) σ = execHeartbeatTimeout t x σ := rfl

@[simp] theorem exec_slbOscillatorFault (t : Nat) (σ : State) : exec (.slbOscillatorFault t) σ = execSlbOscillatorFault t σ := rfl

@[simp] theorem exec_slbParamCheck (t : Nat) (copyAok copyBok : Bool) (σ : State) : exec (.slbParamCheck t copyAok copyBok) σ = execSlbParamCheck t copyAok copyBok σ := rfl

@[simp] theorem exec_jointsMessage (t : Nat) (m : SafeRx) (σ : State) : exec (.jointsMessage t m) σ = execJointsMessage t m σ := rfl

@[simp] theorem exec_stopRequest (t : Nat) (m : SafeRx) (σ : State) : exec (.stopRequest t m) σ = execStopRequest t m σ := rfl

@[simp] theorem exec_resetRequest (t : Nat) (m : SafeRx) (σ : State) : exec (.resetRequest t m) σ = execResetRequest t m σ := rfl

@[simp] theorem exec_aliveMessage (t : Nat) (m : SafeRx) (σ : State) : exec (.aliveMessage t m) σ = execAliveMessage t m σ := rfl

@[simp] theorem exec_pathAnnounce (t : Nat) (m : SafeRx) (σ : State) : exec (.pathAnnounce t m) σ = execPathAnnounce t m σ := rfl

@[simp] theorem exec_skewWindowEnd (t : Nat) (conn seq : Nat) (σ : State) : exec (.skewWindowEnd t conn seq) σ = execSkewWindowEnd t conn seq σ := rfl

@[simp] theorem exec_smlWatchdogExpiry (t : Nat) (conn : Nat) (σ : State) : exec (.smlWatchdogExpiry t conn) σ = execSmlWatchdogExpiry t conn σ := rfl

@[simp] theorem exec_smlOpeningExpiry (t : Nat) (conn : Nat) (σ : State) : exec (.smlOpeningExpiry t conn) σ = execSmlOpeningExpiry t conn σ := rfl

@[simp] theorem exec_singlePathTimerExpiry (t : Nat) (σ : State) : exec (.singlePathTimerExpiry t) σ = execSinglePathTimerExpiry t σ := rfl

@[simp] theorem exec_statusSend (t : Nat) (conn : Nat) (σ : State) : exec (.statusSend t conn) σ = execStatusSend t conn σ := rfl

@[simp] theorem exec_pathAnnounceSend (t : Nat) (port : Nat) (σ : State) : exec (.pathAnnounceSend t port) σ = execPathAnnounceSend t port σ := rfl

@[simp] theorem exec_ethLinkChange (t : Nat) (port : Nat) (up : Bool) (σ : State) : exec (.ethLinkChange t port up) σ = execEthLinkChange t port up σ := rfl

@[simp] theorem exec_cvuComputeComplete (t : Nat) (ch : Nat) (r : CvuReq) (σ : State) : exec (.cvuComputeComplete t ch r) σ = execCvuComputeComplete t ch r σ := rfl

@[simp] theorem exec_xwlListenExpiry (t : Nat) (σ : State) : exec (.xwlListenExpiry t) σ = execXwlListenExpiry t σ := rfl

@[simp] theorem exec_xwlClaimReceived (t : Nat) (m : XwlRx) (σ : State) : exec (.xwlClaimReceived t m) σ = execXwlClaimReceived t m σ := rfl

@[simp] theorem exec_xwlBackoffExpiry (t : Nat) (σ : State) : exec (.xwlBackoffExpiry t) σ = execXwlBackoffExpiry t σ := rfl

@[simp] theorem exec_xwlCycleStart (t : Nat) (σ : State) : exec (.xwlCycleStart t) σ = execXwlCycleStart t σ := rfl

@[simp] theorem exec_xwlSyncReceived (t : Nat) (m : XwlRx) (σ : State) : exec (.xwlSyncReceived t m) σ = execXwlSyncReceived t m σ := rfl

@[simp] theorem exec_xwlSafetySlot (t : Nat) (σ : State) : exec (.xwlSafetySlot t) σ = execXwlSafetySlot t σ := rfl

@[simp] theorem exec_xwlSafetyReceived (t : Nat) (m : XwlRx) (σ : State) : exec (.xwlSafetyReceived t m) σ = execXwlSafetyReceived t m σ := rfl

@[simp] theorem exec_xwlNodeTimeout (t : Nat) (node : Nat) (σ : State) : exec (.xwlNodeTimeout t node) σ = execXwlNodeTimeout t node σ := rfl

@[simp] theorem exec_xwlSyncLoss (t : Nat) (σ : State) : exec (.xwlSyncLoss t) σ = execXwlSyncLoss t σ := rfl

@[simp] theorem exec_xwlDelayMeasure (t : Nat) (delay0 delay1 : Nat) (σ : State) : exec (.xwlDelayMeasure t delay0 delay1) σ = execXwlDelayMeasure t delay0 delay1 σ := rfl

@[simp] theorem exec_xwlBulkReceived (t : Nat) (m : XwlRx) (σ : State) : exec (.xwlBulkReceived t m) σ = execXwlBulkReceived t m σ := rfl

@[simp] theorem exec_xwlReturnTimeout (t : Nat) (job : Nat) (σ : State) : exec (.xwlReturnTimeout t job) σ = execXwlReturnTimeout t job σ := rfl

@[simp] theorem exec_hqEnableWrite (t : Nat) (q : Nat) (en : Bool) (σ : State) : exec (.hqEnableWrite t q en) σ = execHqEnableWrite t q en σ := rfl

@[simp] theorem exec_hqReset (t : Nat) (q : Nat) (σ : State) : exec (.hqReset t q) σ = execHqReset t q σ := rfl

@[simp] theorem exec_queueResetComplete (t : Nat) (q : Nat) (σ : State) : exec (.queueResetComplete t q) σ = execQueueResetComplete t q σ := rfl

@[simp] theorem exec_hqResume (t : Nat) (q : Nat) (σ : State) : exec (.hqResume t q) σ = execHqResume t q σ := rfl

@[simp] theorem exec_cqHeadWrite (t : Nat) (q v : Nat) (σ : State) : exec (.cqHeadWrite t q v) σ = execCqHeadWrite t q v σ := rfl

@[simp] theorem exec_hqIrqWrite (t : Nat) (q v : Nat) (σ : State) : exec (.hqIrqWrite t q v) σ = execHqIrqWrite t q v σ := rfl

@[simp] theorem exec_irqTimeExpiry (t : Nat) (q : Nat) (σ : State) : exec (.irqTimeExpiry t q) σ = execIrqTimeExpiry t q σ := rfl

@[simp] theorem exec_deliveryTailWrite (t : Nat) (n v : Nat) (σ : State) : exec (.deliveryTailWrite t n v) σ = execDeliveryTailWrite t n v σ := rfl

@[simp] theorem exec_hqCheckpoint (t : Nat) (v : Nat) (σ : State) : exec (.hqCheckpoint t v) σ = execHqCheckpoint t v σ := rfl

@[simp] theorem exec_pcieFunctionLevelReset (t : Nat) (σ : State) : exec (.pcieFunctionLevelReset t) σ = execPcieFunctionLevelReset t σ := rfl

@[simp] theorem exec_bar2Access (t : Nat) (r : Bar2Req) (σ : State) : exec (.bar2Access t r) σ = execBar2Access t r σ := rfl

@[simp] theorem exec_tsuAliveWindowEnd (t : Nat) (c : Nat) (σ : State) : exec (.tsuAliveWindowEnd t c) σ = execTsuAliveWindowEnd t c σ := rfl

@[simp] theorem exec_tsuDeadlineExpiry (t : Nat) (c : Nat) (σ : State) : exec (.tsuDeadlineExpiry t c) σ = execTsuDeadlineExpiry t c σ := rfl

@[simp] theorem exec_tsuBudgetExceeded (t : Nat) (c : Nat) (σ : State) : exec (.tsuBudgetExceeded t c) σ = execTsuBudgetExceeded t c σ := rfl

@[simp] theorem exec_psmPlannedWake (t : Nat) (σ : State) : exec (.psmPlannedWake t) σ = execPsmPlannedWake t σ := rfl

@[simp] theorem exec_psmWakeComplete (t : Nat) (silentCores : Nat) (σ : State) : exec (.psmWakeComplete t silentCores) σ = execPsmWakeComplete t silentCores σ := rfl

@[simp] theorem exec_psmWakeFault (t : Nat) (σ : State) : exec (.psmWakeFault t) σ = execPsmWakeFault t σ := rfl

@[simp] theorem exec_bgUrgent (t : Nat) (a : Nat) (σ : State) : exec (.bgUrgent t a) σ = execBgUrgent t a σ := rfl

@[simp] theorem exec_bgDeadlineMiss (t : Nat) (a : Nat) (σ : State) : exec (.bgDeadlineMiss t a) σ = execBgDeadlineMiss t a σ := rfl

@[simp] theorem exec_adcCalibration (t : Nat) (r : AdcCal) (σ : State) : exec (.adcCalibration t r) σ = execAdcCalibration t r σ := rfl

@[simp] theorem exec_telemetrySwap (t : Nat) (σ : State) : exec (.telemetrySwap t) σ = execTelemetrySwap t σ := rfl

@[simp] theorem exec_monLevelSample (t : Nat) (slot : Nat) (v : Int) (σ : State) : exec (.monLevelSample t slot v) σ = execMonLevelSample t slot v σ := rfl

@[simp] theorem exec_monSnapshot (t : Nat) (bank : Bank) (slot : Nat) (σ : State) : exec (.monSnapshot t bank slot) σ = execMonSnapshot t bank slot σ := rfl

@[simp] theorem exec_monSnapshotClear (t : Nat) (bank : Bank) (slot : Nat) (σ : State) : exec (.monSnapshotClear t bank slot) σ = execMonSnapshotClear t bank slot σ := rfl

@[simp] theorem exec_logSelWrite (t : Nat) (bank : Bank) (seq : Nat) (σ : State) : exec (.logSelWrite t bank seq) σ = execLogSelWrite t bank seq σ := rfl

@[simp] theorem exec_frSelWrite (t : Nat) (bank : Bank) (num : Nat) (σ : State) : exec (.frSelWrite t bank num) σ = execFrSelWrite t bank num σ := rfl

@[simp] theorem exec_logRepeatSecondEnd (t : Nat) (σ : State) : exec (.logRepeatSecondEnd t) σ = execLogRepeatSecondEnd t σ := rfl

@[simp] theorem exec_idcode (t : Nat) (σ : State) : exec (.idcode t) σ = execIdcode t σ := rfl

@[simp] theorem exec_samplePreload (t : Nat) (pins preload : Nat) (σ : State) : exec (.samplePreload t pins preload) σ = execSamplePreload t pins preload σ := rfl

@[simp] theorem exec_extest (t : Nat) (pins : Nat) (σ : State) : exec (.extest t pins) σ = execExtest t pins σ := rfl

@[simp] theorem exec_bypass (t : Nat) (tdi : Nat) (σ : State) : exec (.bypass t tdi) σ = execBypass t tdi σ := rfl

@[simp] theorem exec_dbgNonce (t : Nat) (σ : State) : exec (.dbgNonce t) σ = execDbgNonce t σ := rfl

@[simp] theorem exec_dbgUnlock (t : Nat) (r : UnlockReq) (σ : State) : exec (.dbgUnlock t r) σ = execDbgUnlock t r σ := rfl

@[simp] theorem exec_dbgLock (t : Nat) (σ : State) : exec (.dbgLock t) σ = execDbgLock t σ := rfl

@[simp] theorem exec_halt (t : Nat) (mask : Nat) (σ : State) : exec (.halt t mask) σ = execHalt t mask σ := rfl

@[simp] theorem exec_dbgResume (t : Nat) (mask : Nat) (σ : State) : exec (.dbgResume t mask) σ = execDbgResume t mask σ := rfl

@[simp] theorem exec_step (t : Nat) (core : Nat) (σ : State) : exec (.step t core) σ = execStep t core σ := rfl

@[simp] theorem exec_setBp (t : Nat) (slot : Nat) (m : BpMatch) (σ : State) : exec (.setBp t slot m) σ = execSetBp t slot m σ := rfl

@[simp] theorem exec_readCore (t : Nat) (core : Nat) (σ : State) : exec (.readCore t core) σ = execReadCore t core σ := rfl

@[simp] theorem exec_dbgMem (t : Nat) (r : DbgMemReq) (σ : State) : exec (.dbgMem t r) σ = execDbgMem t r σ := rfl

@[simp] theorem exec_dbgSp (t : Nat) (op : DbgSpOp) (σ : State) : exec (.dbgSp t op) σ = execDbgSp t op σ := rfl

@[simp] theorem exec_registerWrite (t : Nat) (w : Writer) (wide : Bool) (addr v : Nat) (σ : State) : exec (.registerWrite t w wide addr v) σ = execRegisterWrite t w wide addr v σ := rfl

@[simp] theorem exec_stackTrainingLoss (t : Nat) (stack : Nat) (σ : State) : exec (.stackTrainingLoss t stack) σ = execStackTrainingLoss t stack σ := rfl

@[simp] theorem exec_safeMessageRefused (t : Nat) (m : SafeRx) (σ : State) : exec (.safeMessageRefused t m) σ = execSafeMessageRefused t m σ := rfl

@[simp] theorem exec_bestMasterClockSelection (t : Nat) (sync : PtpSync) (σ : State) : exec (.bestMasterClockSelection t sync) σ = execBestMasterClockSelection t sync σ := rfl

@[simp] theorem exec_xwlLaneLoss (t : Nat) (lane : Nat) (σ : State) : exec (.xwlLaneLoss t lane) σ = execXwlLaneLoss t lane σ := rfl

@[simp] theorem exec_tsuBudgetPeriodEnd (t : Nat) (c : Nat) (σ : State) : exec (.tsuBudgetPeriodEnd t c) σ = execTsuBudgetPeriodEnd t c σ := rfl

@[simp] theorem exec_psmEntryComplete (t : Nat) (σ : State) : exec (.psmEntryComplete t) σ = execPsmEntryComplete t σ := rfl

@[simp] theorem exec_breezeCoreGate (t : Nat) (core : Nat) (σ : State) : exec (.breezeCoreGate t core) σ = execBreezeCoreGate t core σ := rfl

@[simp] theorem exec_connectionPause (t : Nat) (σ : State) : exec (.connectionPause t) σ = execConnectionPause t σ := rfl

@[simp] theorem exec_xwlBulkUnit (t : Nat) (unit : Nat) (σ : State) : exec (.xwlBulkUnit t unit) σ = execXwlBulkUnit t unit σ := rfl

@[simp] theorem exec_triggerPulseEnd (t : Nat) (n : Nat) (σ : State) : exec (.triggerPulseEnd t n) σ = execTriggerPulseEnd t n σ := rfl

@[simp] theorem exec_overcurrentCutOff (t : Nat) (output : Nat) (σ : State) : exec (.overcurrentCutOff t output) σ = execOvercurrentCutOff t output σ := rfl

@[simp] theorem exec_tamperCoverFitted (t : Nat) (σ : State) : exec (.tamperCoverFitted t) σ = execTamperCoverFitted t σ := rfl

@[simp] theorem exec_backupExhausted (t : Nat) (σ : State) : exec (.backupExhausted t) σ = execBackupExhausted t σ := rfl

end Sys2Proof.Machine
end

