-- ==== Sys2Proof/Laws/Runs.lean ====
section
/-! SUPPORT. What completion lemmas share: a command that ends in `finish`, a stage that is open, a request that is served, an answer. -/

namespace Sys2Proof.Machine

/-- A command that ends in `finish` completes with its effect at its instant. -/
theorem runs_finish {c : Instr} {s : State} {p : State → Prop} {t : Nat} {f : State → State} (h : exec c s = finish t s f)
    (k : p (settle (f (s.at t)))) : Runs c s p := ⟨_, h, k⟩

/-- A command that ends in `finish` completes on both sides of a test that its effect makes. -/
theorem runs_if {c : Instr} {s : State} {p : State → Prop} {q : Prop} {t : Nat} {f : State → State} (h : exec c s = finish t s f)
    (k : q → Runs c s p) : Runs c s fun v => q → p v := by
  by_cases x : q
  · obtain ⟨v, e, y⟩ := k x
    exact ⟨v, e, fun _ => y⟩
  · exact ⟨_, h, fun y => absurd y x⟩

/-- A stage before S5 that is open does its work. -/
theorem stage_early {n : Nat} {f : State → State} {s : State} (h : s.inTime n) (hn : n < 5) : State.stage n f s = f s := by
  obtain ⟨a, b, c⟩ := h
  unfold State.stage
  rw [if_neg (by simp [a]), if_neg (by omega), if_neg (by omega), if_neg (by omega), if_neg (by omega)]

/-- A stage that is open does its work, where no output fault has been seen. -/
theorem stage_open {n : Nat} {f : State → State} {s : State} (h : s.inTime n) (ho : s.outputsSound) : State.stage n f s = f s := by
  obtain ⟨a, b, c⟩ := h
  unfold State.stage
  rw [if_neg (by simp [a]), if_neg (by omega), if_neg (by omega), if_neg (by simp [ho.1]), if_neg (by simp [ho.2])]

theorem at_outputsSound {t : Nat} {s : State} (h : s.outputsSound) : (s.at t).outputsSound := by
  unfold State.outputsSound at *; simpa using h

theorem stageFail_holdAt (c : Nat) (s : State) : (s.stageFail c).start.holdAt = some s.now := by
  have e : ((s.startRecord false (s.start.stage * 256 + c)).trigStop).now = s.now :=
    (State.trigStop_moves (State.startRecord_moves false _ (Moves.refl [.clk, .start, .nvm, .log, .ret] s) (by decide)) (by decide)).now
  unfold State.stageFail
  simp [e]

theorem stageFail_hist (c : Nat) (s : State) : (s.stageFail c).nvm.hist = ((s.start.stage * 256 + c) :: s.nvm.hist).take 3 := by
  have e : ((s.startRecord false (s.start.stage * 256 + c)).trigStop).nvm = (s.startRecord false (s.start.stage * 256 + c)).nvm :=
    State.trigStop_same (p := .nvm) (by decide) _
  unfold State.stageFail
  simp [e, State.startRecord_nvm]

/-- Entry to a state changes nothing else of SYS. -/
theorem setState_sys (dest : St) (a : Bool) (s : State) : (s.setState dest a).sys = { s.sys with state := dest } := by
  have ev : ∀ (v : State) (c k b d : Nat), (v.ev c k b d).sys = v.sys := fun v c k b d =>
    (State.ev_moves c k b d (Moves.refl _ v) (List.Subset.refl _)).same .sys (by decide)
  have rv : ∀ (v : State) (r : Nat), (v.revoke r).sys = v.sys := fun v r =>
    (State.revoke_moves r (Moves.refl _ v) (List.Subset.refl _)).same .sys (by decide)
  have wk : ∀ v : State, v.wake.sys = v.sys := fun v =>
    (State.wake_moves (Moves.refl _ v) (List.Subset.refl _)).same .sys (by decide)
  unfold State.setState
  split
  · next h => rw [← h]
  · simp only [wk]
    split <;> split <;> simp [ev, rv]

theorem setSync_clk (x : Sync) (s : State) : ∃ l, (s.setSync x).clk = { s.clk with sync := x, lockAt := l } := by
  unfold State.setSync
  split
  · next h => exact ⟨s.clk.lockAt, by rw [← h]⟩
  · exact ⟨_, (State.ev_moves _ _ _ _ (Moves.refl _ _) (List.Subset.refl _)).same .clk (by decide)⟩

theorem setSync_sync (x : Sync) (s : State) : (s.setSync x).clk.sync = x := by
  obtain ⟨l, h⟩ := setSync_clk x s; rw [h]

theorem beginStart_spHeld (w a : Bool) (s : State) : (s.beginStart w a).sys.spHeld = s.sys.spHeld := by
  have x : (s.startReset w a).sys.spHeld = s.sys.spHeld := by
    have y : ((s.restartRecord.setState .start a).trigStop).sys = (s.restartRecord.setState .start a).sys :=
      State.trigStop_same (p := .sys) (by decide) _
    have z : s.restartRecord.sys = s.sys := State.restartRecord_same (p := .sys) (by decide) s
    unfold State.startReset
    rw [State.resetDie_sys]
    exact (congrArg Sys.spHeld y).trans (by rw [setState_sys, z])
  rw [State.beginStart_eq]
  exact (congrArg Sys.spHeld (State.countStart_same (p := .sys) (by decide) (s.startReset w a))).trans x

theorem ev_clk (c k b d : Nat) (s : State) : (s.ev c k b d).clk = s.clk :=
  (State.ev_moves c k b d (Moves.refl _ s) (List.Subset.refl _)).same .clk (by decide)

/-- A correction leaves who is followed and how lock counts. -/
theorem discipline_keeps (o : Int) (s : State) :
    (s.discipline o).clk.gm = s.clk.gm ∧ (s.discipline o).clk.port = s.clk.port ∧ (s.discipline o).clk.inLock = s.clk.inLock ∧
      (s.discipline o).clk.offset = s.clk.offset ∧ (s.discipline o).clk.sync = s.clk.sync := by
  unfold State.discipline State.servoDraw State.draw
  dsimp only
  split
  · exact ⟨rfl, rfl, rfl, rfl, rfl⟩
  · split
    · simp [ev_clk]
    · exact ⟨rfl, rfl, rfl, rfl, rfl⟩

theorem countLock_keeps (o : Int) (s : State) :
    (s.countLock o).clk.gm = s.clk.gm ∧ (s.countLock o).clk.port = s.clk.port ∧ (s.countLock o).clk.offset = sat32 o ∧
      (s.countLock o).clk.inLock = min (if o.natAbs ≤ 1000 then s.clk.inLock + 1 else 0) 10 := by
  unfold State.countLock
  dsimp only
  obtain ⟨l, h⟩ := setSync_clk (if 10 ≤ (if o.natAbs ≤ 1000 then s.clk.inLock + 1 else 0) then .locked else .free)
    (s.onClk fun c => { c with inLock := min (if o.natAbs ≤ 1000 then s.clk.inLock + 1 else 0) 10, offset := sat32 o, lostAt := none })
  rw [h]; simp

theorem getN_setN_ne {α : Type} [Inhabited α] (l : List α) (i j : Nat) (a : α) (h : j ≠ i) : getN (setN l i a) j = getN l j :=
  getN_modN_ne l i j _ h

theorem getN_setN_self {α : Type} [Inhabited α] (l : List α) (i : Nat) (a : α) (h : i < l.length) : getN (setN l i a) i = a :=
  getN_modN_self l i _ h

theorem wake_out (s : State) : s.wake.out = s.out := by
  unfold State.wake; split
  · rfl
  · split <;> split <;> rfl

theorem wake_same {p : Part} (hp : p ∉ [Part.psm]) (s : State) : p.Same s s.wake :=
  (State.wake_moves (Moves.refl _ s) (List.Subset.refl _)).same p hp

theorem wake_now (s : State) : s.wake.now = s.now := (State.wake_moves (Moves.refl _ s) (List.Subset.refl _)).now

theorem wake_secrets (s : State) : s.wake.secrets = s.secrets := by
  have e : s.wake.nvm = s.nvm := wake_same (p := .nvm) (by decide) s
  unfold State.secrets; rw [e]

theorem entered_out (s : State) : s.entered.out = s.out := wake_out s
theorem entered_now (s : State) : s.entered.now = s.now := wake_now s
theorem entered_same {p : Part} (hp : p ∉ [Part.psm, .nvm]) (s : State) : p.Same s s.entered :=
  (State.putSecrets_moves _ (State.wake_moves (Moves.refl [.psm, .nvm] s) (by decide)) (by decide)).same p hp

/-- A new request is executed in the woken state and answered. -/
theorem serve_new {q : CfgReq} {cmd : Nat} {f : State → Nat × List Bytes × State} {s : State} (h : s.takes q cmd) (hc : cmd ≠ 1 ∧ cmd ≠ 2) :
    s.serve q cmd f = (f s.wake).2.2.answer q cmd (f s.wake).1 (f s.wake).2.1 := by
  obtain ⟨a, b, c, d⟩ := h
  unfold State.serve
  rw [if_neg (by simp [a, b]), d]
  simp [c, hc.1, hc.2]

/-- READ and EXPORT do not wake. -/
theorem serve_read {q : CfgReq} {cmd : Nat} {f : State → Nat × List Bytes × State} {s : State} (h : s.takes q cmd) (hc : cmd = 1 ∨ cmd = 2) :
    s.serve q cmd f = (f s).2.2.answer q cmd (f s).1 (f s).2.1 := by
  obtain ⟨a, b, c, d⟩ := h
  unfold State.serve
  rw [if_neg (by simp [a, b]), d]
  simp [c, hc]

/-- A request that knows the password, in a state and under seals that admit it, passes its gate. -/
theorem gate_ok {q : CfgReq} {states : List St} {seals : Bool} {s : State} (h : s.knows q) (hs : s.sys.state ∈ states)
    (hp : seals = true → s.sealClass = .program) : s.wake.gate q states seals = (0, s.entered) := by
  obtain ⟨a, p, b, c⟩ := h
  have e : s.wake.sys = s.sys := wake_same (p := .sys) (by decide) s
  have f : s.wake.seals = s.seals := wake_same (p := .seals) (by decide) s
  have k : s.wake.checkPass q.password = (0, s.entered) := by
    unfold State.checkPass
    simp [wake_secrets, a, b, c, State.entered]
  have g : s.entered.sealClass = s.sealClass := by
    have x : s.entered.seals = s.seals := entered_same (p := .seals) (by decide) s
    have y : s.entered.secrets.run = s.secrets.run := by
      simp [State.entered, State.putSecrets, State.secrets, Secrets.store, Copies.get, Copies.put, maxRun]
      split <;> simp_all
    unfold State.sealClass State.sealPattern
    rw [x, y]
  unfold State.gate
  rw [wake_secrets, if_neg (by simp [a]), e, if_neg (by simp [hs]), k]
  simp only [ne_eq, not_true, if_false, g]
  by_cases z : seals = true <;> simp [z, hp]

theorem gated_ok {q : CfgReq} {states : List St} {seals : Bool} {f : State → Nat × List Bytes × State} {s : State} (h : s.knows q)
    (hs : s.sys.state ∈ states) (hp : seals = true → s.sealClass = .program) :
    s.wake.gated q states seals f = f s.entered := by
  unfold State.gated; rw [gate_ok h hs hp]; simp

theorem each_send {α : Type} (g : α → Output) (l : List α) (s : State) :
    s.each l (fun x s => s.send (g x)) = { s with out := s.out ++ l.map g } := by
  unfold State.each
  induction l generalizing s with
  | nil => simp
  | cons a r ih => rw [List.foldl_cons, ih]; simp [State.send]

/-- An answer is sent and kept; nothing else changes. -/
theorem answer_eq (q : CfgReq) (cmd st : Nat) (pays : List Bytes) (s : State) : ∃ l, s.answer q cmd st pays =
    { s with cfg := { s.cfg with resps := l },
             out := s.out ++ (pays.map fun b => .eth q.port 0x88B5 (respFrame cmd q.request st b)) } := by
  unfold State.answer State.sendFrames
  rw [each_send]
  let r : Resp :=
    { source := q.source, command := cmd, request := q.request, time := s.now, frames := pays.map (respFrame cmd q.request st) }
  refine ⟨s.recentResps ++ [r], ?_⟩
  simp only [List.map_map]
  rfl

theorem answer_out (q : CfgReq) (cmd st : Nat) (pays : List Bytes) (s : State) :
    (s.answer q cmd st pays).out = s.out ++ (pays.map fun b => .eth q.port 0x88B5 (respFrame cmd q.request st b)) := by obtain ⟨l, h⟩ := answer_eq q cmd st pays s; rw [h]
theorem answer_session (q : CfgReq) (cmd st : Nat) (pays : List Bytes) (s : State) :
    (s.answer q cmd st pays).cfg.session = s.cfg.session := by obtain ⟨l, h⟩ := answer_eq q cmd st pays s; rw [h]
theorem answer_slots (q : CfgReq) (cmd st : Nat) (pays : List Bytes) (s : State) :
    (s.answer q cmd st pays).cfg.slots = s.cfg.slots := by obtain ⟨l, h⟩ := answer_eq q cmd st pays s; rw [h]
theorem answer_changes (q : CfgReq) (cmd st : Nat) (pays : List Bytes) (s : State) :
    (s.answer q cmd st pays).cfg.changes = s.cfg.changes := by obtain ⟨l, h⟩ := answer_eq q cmd st pays s; rw [h]
theorem answer_exported (q : CfgReq) (cmd st : Nat) (pays : List Bytes) (s : State) :
    (s.answer q cmd st pays).cfg.exported = s.cfg.exported := by obtain ⟨l, h⟩ := answer_eq q cmd st pays s; rw [h]
theorem answer_role (q : CfgReq) (cmd st : Nat) (pays : List Bytes) (s : State) :
    (s.answer q cmd st pays).cfg.role = s.cfg.role := by obtain ⟨l, h⟩ := answer_eq q cmd st pays s; rw [h]
theorem answer_result (q : CfgReq) (cmd st : Nat) (pays : List Bytes) (s : State) :
    (s.answer q cmd st pays).cfg.result = s.cfg.result := by obtain ⟨l, h⟩ := answer_eq q cmd st pays s; rw [h]
theorem answer_sys (q : CfgReq) (cmd st : Nat) (pays : List Bytes) (s : State) :
    (s.answer q cmd st pays).sys = s.sys := by obtain ⟨l, h⟩ := answer_eq q cmd st pays s; rw [h]
theorem answer_rtc (q : CfgReq) (cmd st : Nat) (pays : List Bytes) (s : State) :
    (s.answer q cmd st pays).rtc = s.rtc := by obtain ⟨l, h⟩ := answer_eq q cmd st pays s; rw [h]
theorem answer_nvm (q : CfgReq) (cmd st : Nat) (pays : List Bytes) (s : State) :
    (s.answer q cmd st pays).nvm = s.nvm := by obtain ⟨l, h⟩ := answer_eq q cmd st pays s; rw [h]
theorem answer_start (q : CfgReq) (cmd st : Nat) (pays : List Bytes) (s : State) :
    (s.answer q cmd st pays).start = s.start := by obtain ⟨l, h⟩ := answer_eq q cmd st pays s; rw [h]
theorem answer_log (q : CfgReq) (cmd st : Nat) (pays : List Bytes) (s : State) :
    (s.answer q cmd st pays).log = s.log := by obtain ⟨l, h⟩ := answer_eq q cmd st pays s; rw [h]
theorem answer_ret (q : CfgReq) (cmd st : Nat) (pays : List Bytes) (s : State) :
    (s.answer q cmd st pays).ret = s.ret := by obtain ⟨l, h⟩ := answer_eq q cmd st pays s; rw [h]
theorem answer_slb (q : CfgReq) (cmd st : Nat) (pays : List Bytes) (s : State) :
    (s.answer q cmd st pays).slb = s.slb := by obtain ⟨l, h⟩ := answer_eq q cmd st pays s; rw [h]
theorem answer_seals (q : CfgReq) (cmd st : Nat) (pays : List Bytes) (s : State) :
    (s.answer q cmd st pays).seals = s.seals := by obtain ⟨l, h⟩ := answer_eq q cmd st pays s; rw [h]
theorem answer_free (q : CfgReq) (cmd st : Nat) (pays : List Bytes) (s : State) :
    (s.answer q cmd st pays).free = s.free := by obtain ⟨l, h⟩ := answer_eq q cmd st pays s; rw [h]

theorem logChange_out (k o r : Nat) (h : List Bytes) (b : Bool) (s : State) : (s.logChange k o r h b).out = s.out := rfl

/-- A gated request that takes effect beyond its answer. -/
theorem acts_ok {q : CfgReq} {cmd : Nat} {states : List St} {seals : Bool} {s : State} (h : s.takes q cmd) (k : s.knows q)
    (hs : s.sys.state ∈ states) (hp : seals = true → s.sealClass = .program) : s.acts q cmd states seals = true := by
  obtain ⟨a, b, c, d⟩ := h
  obtain ⟨e, p, f, g⟩ := k
  have n : (s.recentResps.any fun r => r.source == q.source && r.command == cmd && r.request == q.request) = false := by
    rw [List.find?_eq_none] at d
    rw [List.any_eq_false]
    exact d
  have m : (s.gate q states seals).1 = 0 := by
    have x : s.checkPass q.password = (0, s.putSecrets { s.secrets with wrong := 0 }) := by
      unfold State.checkPass; simp [e, f, g]
    have y : (s.putSecrets { s.secrets with wrong := 0 }).sealClass = s.sealClass := by
      have r : (s.putSecrets { s.secrets with wrong := 0 }).secrets.run = s.secrets.run := by
        simp [State.putSecrets, State.secrets, Secrets.store, Copies.get, Copies.put, maxRun]
        split <;> simp_all
      unfold State.sealClass State.sealPattern; rw [r]; rfl
    unfold State.gate
    rw [if_neg (by simp [e]), if_neg (by simp [hs]), x]
    simp only [ne_eq, not_true, if_false, y]
    by_cases z : seals = true <;> simp [z, hp]
  unfold State.acts
  simp [a, b, c, n, m]

theorem resetDie_role (w : Bool) (s : State) : (s.resetDie w).cfg.role = s.cfg.role := by
  cases w
  · rfl
  · have e : s.loseDests.cfg = s.cfg := State.loseDests_same (p := .cfg) (by decide) s
    rw [← e]; rfl

/-- A start keeps the slot roles. -/
theorem beginStart_role (w a : Bool) (s : State) : (s.beginStart w a).cfg.role = s.cfg.role := by
  have x : (s.startReset w a).cfg.role = s.cfg.role := by
    have y : ((s.restartRecord.setState .start a).trigStop).cfg = s.cfg :=
      Eq.trans (State.trigStop_same (p := .cfg) (by decide) _)
        (Eq.trans (State.setState_same (p := .cfg) (by decide) .start a s.restartRecord) (State.restartRecord_same (p := .cfg) (by decide) s))
    unfold State.startReset
    rw [resetDie_role, y]
  rw [State.beginStart_eq]
  exact (congrArg Cfg.role (State.countStart_same (p := .cfg) (by decide) (s.startReset w a))).trans x

theorem readWord_out (a : Nat) (s : State) : (s.readWord a).2.out = s.out := by
  have e : ∀ (n : Nat) (c : List (Nat × Nat)), ((n, { s with caps := c }) : Nat × State).2.out = s.out := fun _ _ => rfl
  unfold State.readWord
  exact e _ _

theorem readRegs_out (l : List Nat) (s : State) : (s.readRegs l).2.out = s.out := by
  induction l generalizing s with
  | nil => rfl
  | cons a r ih =>
    have e : ∀ (x y : Nat × State) (z : Bytes × State), ((beBytes 4 x.1 ++ z.1, z.2) : Bytes × State).2.out = z.2.out := fun _ _ _ => rfl
    unfold State.readRegs
    exact (e (s.readWord a) (s.readWord a) _).trans ((ih _).trans (readWord_out a s))

end Sys2Proof.Machine
end

