-- ==== Sys2Proof/Laws/RunsHost.lean ====
section
/-! SUPPORT. Where the commands of safe messages, the ring, the host, supervision, power states, monitors, logs and debug complete. -/

namespace Sys2Proof.Machine

/-- A message taken first on its connection (R400, R402): the heartbeat of the connection is noted and the message accepted. -/
theorem rxAct_first {m : SafeRx} {x : RxMsg} {d : Nat} {u : State} (h : u.rxClass m = .first x d) (ht : rxType m ≠ 0x9) :
    u.rxAct m = (u.cvuNote (17 + m.port) (beAt m.data (8 + x.len) 4) true).accept x m d := by
  unfold State.rxAct
  simp only [h, RxRes.good, State.with, ht, if_false]

/-- JOINTS_MESSAGE completes (14 R398, R400, R402, R403). -/
theorem runs_jointsMessage :
  ∀ (t : Nat) (m : SafeRx) (x : RxMsg) (d : Nat) (s u : State), s.at t = u → u.rxClass m = .first x d → rxType m = 0x8 →
    exec (.jointsMessage t m) s = .next (settle ((u.cvuNote (17 + m.port) (beAt m.data (8 + x.len) 4) true).accept x m d)) := by
  intro t m x d s u e a b
  rw [exec_jointsMessage]; unfold execJointsMessage finish State.rxOf
  rw [e, if_pos b, rxAct_first a (by omega)]

/-- STOP_REQUEST completes (14 R404). -/
theorem runs_stopRequest :
  ∀ (t : Nat) (m : SafeRx) (x : RxMsg) (d : Nat) (s u : State), s.at t = u → u.rxClass m = .first x d → rxType m = 0x9 →
    exec (.stopRequest t m) s = .next (settle
      (((u.remoteStop m x.cr.conn).cvuNote (17 + m.port) (beAt m.data (8 + x.len) 4) true).accept x m d)) := by
  intro t m x d s u e a b
  rw [exec_stopRequest]; unfold execStopRequest finish State.rxOf State.rxAct
  rw [e, if_pos b]
  simp only [a, RxRes.good, State.with, b, if_true]

/-- RESET_REQUEST completes (14 R405). -/
theorem runs_resetRequest :
  ∀ (t : Nat) (m : SafeRx) (x : RxMsg) (d : Nat) (s u : State), s.at t = u → u.rxClass m = .first x d → rxType m = 0xA →
    exec (.resetRequest t m) s = .next (settle ((u.cvuNote (17 + m.port) (beAt m.data (8 + x.len) 4) true).accept x m d)) := by
  intro t m x d s u e a b
  rw [exec_resetRequest]; unfold execResetRequest finish State.rxOf
  rw [e, if_pos b, rxAct_first a (by omega)]

/-- ALIVE_MESSAGE completes (14 R402). -/
theorem runs_aliveMessage :
  ∀ (t : Nat) (m : SafeRx) (x : RxMsg) (d : Nat) (s u : State), s.at t = u → u.rxClass m = .first x d → rxType m = 0xB →
    exec (.aliveMessage t m) s = .next (settle ((u.cvuNote (17 + m.port) (beAt m.data (8 + x.len) 4) true).accept x m d)) := by
  intro t m x d s u e a b
  rw [exec_aliveMessage]; unfold execAliveMessage finish State.rxOf
  rw [e, if_pos b, rxAct_first a (by omega)]

/-- PATH_ANNOUNCE completes (14 R407). -/
theorem runs_pathAnnounce :
  ∀ (t : Nat) (m : SafeRx) (x : RxMsg) (s u : State), s.at t = u → u.rxClass m = .announce x → rxType m = 0xE →
    exec (.pathAnnounce t m) s = .next (settle ((u.cvuNote (17 + m.port) (beAt m.data (8 + x.len) 4) true).pathRestore x m)) := by
  intro t m x s u e a b
  rw [exec_pathAnnounce]; unfold execPathAnnounce finish State.rxOf State.rxAct
  have n : rxType m ≠ 9 := by omega
  rw [e, if_pos b]
  simp only [a, RxRes.good, State.with, n, if_false]

/-- SKEW_WINDOW_END completes (14 R405). -/
theorem runs_skewWindowEnd :
  ∀ (t conn seq k : Nat) (r : ConnRec) (p : Pair) (s u : State), s.at t = u → u.smlOn = true → u.img.conn conn = some (k, r) →
    ((u.conn k).pairs.find? fun p => p.seq == seq && !p.decided && u.past p.at_ (u.img.messages.skewUs * 1000)) = some p →
    exec (.skewWindowEnd t conn seq) s = .next (settle (u.pairSingle k r p)) := by
  intro t conn seq k r p s u e a b c
  rw [exec_skewWindowEnd]; unfold execSkewWindowEnd finish
  rw [e]
  simp only [b, c, a, if_true]

/-- SML_WATCHDOG_EXPIRY completes (14 R402). -/
theorem runs_smlWatchdogExpiry :
  ∀ (t conn k : Nat) (r : ConnRec) (s u : State), s.at t = u → u.smlOn = true → u.img.conn conn = some (k, r) → u.dogDue k = true →
    exec (.smlWatchdogExpiry t conn) s = .next (settle (u.connFail k)) := by
  intro t conn k r s u e a b c
  rw [exec_smlWatchdogExpiry]; unfold execSmlWatchdogExpiry finish
  rw [e]
  simp only [State.with, b, State.when, a, c, Bool.and_self, if_true]

/-- SML_OPENING_EXPIRY completes (14 R403). -/
theorem runs_smlOpeningExpiry :
  ∀ (t conn k : Nat) (r : ConnRec) (s u : State), s.at t = u → u.smlOn = true → u.img.conn conn = some (k, r) → r.dir = 0 →
    (u.conn k).state = .opening → u.past (u.conn k).dogAt (r.watchdog * ms) = true →
    exec (.smlOpeningExpiry t conn) s = .next (settle (u.onConn k fun c => { c with state := .closed })) := by
  intro t conn k r s u e a b c d f
  rw [exec_smlOpeningExpiry]; unfold execSmlOpeningExpiry finish
  rw [e]
  simp [State.with, b, State.when, a, c, d, f]

/-- SINGLE_PATH_TIMER_EXPIRY completes (14 R408). -/
theorem runs_singlePathTimerExpiry :
  ∀ (t : Nat) (s u : State), s.at t = u → u.smlOn = true → u.singleExpired = true →
    exec (.singlePathTimerExpiry t) s = .next (settle (u.spTrip 0x0C false)) := by
  intro t s u e a b
  rw [exec_singlePathTimerExpiry]; unfold execSinglePathTimerExpiry finish
  rw [e]
  simp [State.when, a, b]

/-- STATUS_SEND completes (14 R399). -/
theorem runs_statusSend :
  ∀ (t conn k : Nat) (r : ConnRec) (s u : State), s.at t = u → u.smlOn = true → u.img.conn conn = some (k, r) → r.dir = 1 →
    u.past (u.conn k).statusAt (r.period * ms) = true →
    exec (.statusSend t conn) s = .next (settle (u.sendStatus k)) := by
  intro t conn k r s u e a b c d
  rw [exec_statusSend]; unfold execStatusSend finish
  rw [e]
  simp [State.with, b, State.when, a, c, d]

/-- PATH_ANNOUNCE_SEND completes (14 R407). -/
theorem runs_pathAnnounceSend :
  ∀ (t port : Nat) (s u : State), s.at t = u → u.smlOn = true → port < 2 → getN u.sml.link port = true →
    (getN u.sml.annAt port).all (u.past · (100 * ms)) = true →
    exec (.pathAnnounceSend t port) s = .next (settle
      ((u.onSml fun m => { m with annAt := setN m.annAt port (some u.now) }).each u.txSlots fun k s =>
        s.with (s.img.slot k) fun r s => s.send (.safe port r.mac r.vid r.pcp
          (safeFrame r 0xE (((s.conn k).seq + 65535) % 65536) [byte port, 0, 0, 0] s.devUs)))) := by
  intro t port s u e a b c d
  rw [exec_pathAnnounceSend]; unfold execPathAnnounceSend finish
  rw [e]
  change Host.Outcome.next (settle (ite _ _ _)) = _
  rw [if_pos ⟨a, b, c, d⟩]
  rfl

/-- ETH_LINK_CHANGE completes (14 R406, R408). -/
theorem runs_ethLinkChange :
  ∀ (t port : Nat) (up : Bool) (s u : State), s.at t = u → u.regsUp = true → port < 4 →
    exec (.ethLinkChange t port up) s = .next (settle (if up then u.linkRise port else u.linkDown port)) := by
  intro t port up s u e a b
  rw [exec_ethLinkChange]; unfold execEthLinkChange finish
  rw [e]
  simp [a, b]

/-- CVU_COMPUTE_COMPLETE completes (14 R415, R416). -/
theorem runs_cvuComputeComplete :
  ∀ (t n : Nat) (r : CvuReq) (s u : State), s.at t = u → u.regsUp = true → n < 32 → (getN u.cvu.chans n).service = true →
    r.disagree = false →
    exec (.cvuComputeComplete t n r) s = .next (settle (u.onCvu fun k => { k with chans := modN k.chans n (CvuCh.run r) })) := by
  intro t n r s u e a b c d
  rw [exec_cvuComputeComplete]; unfold execCvuComputeComplete finish
  rw [e]
  simp [a, b, c, d]

/-- SAFE_MESSAGE_REFUSED completes (14 R398, R400, R401). -/
theorem runs_safeMessageRefused :
  ∀ (t : Nat) (m : SafeRx) (s u : State), s.at t = u → (u.rxClass m).refused = true →
    exec (.safeMessageRefused t m) s = .next (settle (u.rxAct m)) := by
  intro t m s u e a
  rw [exec_safeMessageRefused]; unfold execSafeMessageRefused finish
  rw [e]
  simp [State.when, a]

/-- CONNECTION_PAUSE completes (17 R479). -/
theorem runs_connectionPause :
  ∀ (t : Nat) (s u : State), s.at t = u → u.smlOn = true →
    ((u.rxSlots 4).all fun k => u.pastOpt (u.conn k).aliveSince (100 * ms)) = true →
    ((u.rxSlots 0).all fun k => (u.conn k).state == .open_) = true →
    exec (.connectionPause t) s = .next (settle (u.each (u.rxSlots 4) fun k s => s.onConn k fun c => { c with paused := true })) := by
  intro t s u e a b c
  rw [exec_connectionPause]; unfold execConnectionPause finish
  rw [e]
  change Host.Outcome.next (settle (ite _ _ _)) = _
  rw [if_pos ⟨a, b, c⟩]

/-- XWL_LISTEN_EXPIRY completes (15 R428). -/
theorem runs_xwlListenExpiry :
  ∀ (t : Nat) (s u : State), s.at t = u → u.xwl.phase = .listen → u.xwlOn = true →
    u.past u.xwl.phaseAt (200000 + u.ring.nodeId * 50000) = true →
    exec (.xwlListenExpiry t) s = .next (settle
      ((u.onXwl fun w => { w with phase := .claim, phaseAt := u.now }).xwlSend
        ((u.onXwl fun w => { w with phase := .claim, phaseAt := u.now }).xwlHeader 3 u.dev))) := by
  intro t s u e a b c
  rw [exec_xwlListenExpiry]; unfold execXwlListenExpiry finish
  rw [e]
  change Host.Outcome.next (settle (ite _ _ _)) = _
  rw [if_pos ⟨a, b, c⟩]
  rfl

/-- An intact frame of another member, of the kind `k`, that a listening node hears first: what `xwlRx` leaves to the kind's own rule. -/
theorem xwlRx_first {k : Nat} {m : XwlRx} {f : State → State} {u : State} (h1 : u.xwl.phase ≠ .off) (h2 : u.clk.xwlOk = true)
    (h3 : m.lane < 2) (h4 : xOk m = true) (h5 : xKind m = k) (h6 : xSrc m ≠ u.ring.nodeId) (h7 : bit u.ring.members (xSrc m) = true)
    (hk : k ≠ 3) (h8 : (((u.xwlLane m.lane).xwlForward m).xwlFirst m).1 = true) :
    u.xwlRx k m f = f (((u.xwlLane m.lane).xwlForward m).xwlFirst m).2 := by
  have p : ((u.xwlLane m.lane).xwlForward m).ring = u.ring := by unfold State.xwlForward; split <;> rfl
  have q : (u.xwlLane m.lane).ring = u.ring := rfl
  unfold State.xwlRx
  rw [if_neg (by simp [h1, h2]; omega)]
  simp only [h4, h5, q, h6, hk, p, h7, h8]
  simp [p, h7, h8]

/-- The same for a CLAIM, which a listening node does not forward here. -/
theorem xwlRx_claim {m : XwlRx} {f : State → State} {u : State} (h1 : u.xwl.phase = .listen) (h2 : u.clk.xwlOk = true)
    (h3 : m.lane < 2) (h4 : xOk m = true) (h5 : xKind m = 3) (h6 : xSrc m ≠ u.ring.nodeId) (h7 : bit u.ring.members (xSrc m) = true)
    (h8 : ((u.xwlLane m.lane).xwlFirst m).1 = true) : u.xwlRx 3 m f = f ((u.xwlLane m.lane).xwlFirst m).2 := by
  have q : (u.xwlLane m.lane).ring = u.ring := rfl
  have g : (u.xwlLane m.lane).xwlForming = true := by
    have z : (u.xwlLane m.lane).xwl.phase = .listen := h1
    unfold State.xwlForming; rw [z]; rfl
  unfold State.xwlRx
  rw [if_neg (by simp [h1, h2]; omega)]
  simp only [h4, h5, q, h6, g, h7, h8]
  simp [g, q, h7, h8]

/-- XWL_CLAIM_RECEIVED completes (15 R428). -/
theorem runs_xwlClaimReceived :
  ∀ (t : Nat) (m : XwlRx) (s u : State), s.at t = u → u.xwl.phase = .listen → u.clk.xwlOk = true → m.lane < 2 → xOk m = true →
    xKind m = 3 → xSrc m ≠ u.ring.nodeId → bit u.ring.members (xSrc m) = true → ((u.xwlLane m.lane).xwlFirst m).1 = true →
    exec (.xwlClaimReceived t m) s = .next (settle
      ((((u.xwlLane m.lane).xwlFirst m).2.onXwl fun w =>
        { w with phase := .integrate, phaseAt := u.now, masterId := xSrc m, master := false, seen := 0, noSync := 0 }).xwlForward m)) := by
  intro t m s u e a b c d f g h i
  rw [exec_xwlClaimReceived]; unfold execXwlClaimReceived finish
  rw [e]
  change Host.Outcome.next (settle (State.xwlRx 3 m _ u)) = _
  rw [xwlRx_claim a b c d f g h i]
  have z : ((u.xwlLane m.lane).xwlFirst m).2.xwl.phase = .listen := by
    have y : (u.xwlLane m.lane).xwl.phase = .listen := a
    unfold State.xwlFirst; dsimp only; split
    · exact y
    · split <;> exact y
  have n : ((u.xwlLane m.lane).xwlFirst m).2.now = u.now := by
    unfold State.xwlFirst; dsimp only; split
    · rfl
    · split <;> rfl
  rw [z]
  simp only [n]

/-- XWL_BACKOFF_EXPIRY completes (15 R429). -/
theorem runs_xwlBackoffExpiry :
  ∀ (t : Nat) (s u : State), s.at t = u → u.xwl.phase = .backoff → u.past u.xwl.phaseAt (ms + u.ring.nodeId * 100000) = true →
    exec (.xwlBackoffExpiry t) s = .next (settle (u.onXwl fun w => { w with phase := .listen, phaseAt := u.now })) := by
  intro t s u e a b
  rw [exec_xwlBackoffExpiry]; unfold execXwlBackoffExpiry finish
  rw [e]
  change Host.Outcome.next (settle (ite _ _ _)) = _
  rw [if_pos ⟨a, b⟩]

/-- XWL_CYCLE_START completes (15 R431). -/
theorem runs_xwlCycleStart :
  ∀ (t : Nat) (s u : State), s.at t = u → u.clk.xwlOk = true →
    (u.xwl.phase = .claim → u.past u.xwl.phaseAt 100000 = true →
      exec (.xwlCycleStart t) s = .next (settle
        (u.onXwl fun w => { w with phase := .member, phaseAt := u.now, master := true, masterId := u.ring.nodeId, follow := false,
                                   cycle := 0, cycleAt := u.now, noSync := 0, seen := 3, slotDone := false, unitsDone := 0 }).sendSync)) ∧
    (u.xwl.phase = .member → u.past u.xwl.cycleAt 99900 = true →
      exec (.xwlCycleStart t) s = .next (settle u.xwlTick.sendSync)) := by
  intro t s u e a
  rw [exec_xwlCycleStart]; unfold execXwlCycleStart finish
  rw [e]
  refine ⟨fun b c => ?_, fun b c => ?_⟩
  · simp only [a, b, c]; rfl
  · simp only [a, b, c]; rfl

/-- XWL_SYNC_RECEIVED completes (15 R431, R432). -/
theorem runs_xwlSyncReceived :
  ∀ (t : Nat) (m : XwlRx) (s u : State), s.at t = u → u.xwl.phase ≠ .off → u.clk.xwlOk = true → m.lane < 2 → xOk m = true →
    xKind m = 1 → xSrc m ≠ u.ring.nodeId → bit u.ring.members (xSrc m) = true →
    (((u.xwlLane m.lane).xwlForward m).xwlFirst m).1 = true →
    exec (.xwlSyncReceived t m) s = .next (settle ((((u.xwlLane m.lane).xwlForward m).xwlFirst m).2.takeSync m)) := by
  intro t m s u e a b c d f g h i
  rw [exec_xwlSyncReceived]; unfold execXwlSyncReceived finish
  rw [e]
  change Host.Outcome.next (settle (State.xwlRx 1 m _ u)) = _
  rw [xwlRx_first a b c d f g h (by omega) i]

/-- XWL_SAFETY_SLOT completes (15 R426, R431). -/
theorem runs_xwlSafetySlot :
  ∀ (t : Nat) (s u : State), s.at t = u → u.xwlOn = true → u.xwl.phase = .member → u.xwl.slotDone = false →
    u.past u.xwl.cycleAt ((2 + 2 * u.ring.nodeId) * 1000) = true →
    exec (.xwlSafetySlot t) s = .next (settle
      ((u.onXwl fun w => { w with phase := .member, slotDone := true }).xwlSend
        ((u.onXwl fun w => { w with phase := .member, slotDone := true }).xwlHeader 2 u.dev))) := by
  intro t s u e a b c d
  rw [exec_xwlSafetySlot]; unfold execXwlSafetySlot finish
  rw [e]
  change Host.Outcome.next (settle (ite _ _ _)) = _
  rw [if_pos ⟨a, .inl b, by simp [c], d⟩]
  rfl

/-- XWL_SAFETY_RECEIVED completes (15 R431, R435, R437). -/
theorem runs_xwlSafetyReceived :
  ∀ (t : Nat) (m : XwlRx) (s u : State), s.at t = u → u.xwl.phase ≠ .off → u.clk.xwlOk = true → m.lane < 2 → xOk m = true →
    xKind m = 2 → xSrc m ≠ u.ring.nodeId → bit u.ring.members (xSrc m) = true →
    (((u.xwlLane m.lane).xwlForward m).xwlFirst m).1 = true →
    let w := (((u.xwlLane m.lane).xwlForward m).xwlFirst m).2
    exec (.xwlSafetyReceived t m) s = .next (settle ((w.onNode (xSrc m) (Node.hear w.now m)).ringTrip w.ringAsks)) := by
  intro t m s u e a b c d f g h i
  rw [exec_xwlSafetyReceived]; unfold execXwlSafetyReceived finish
  rw [e]
  change Host.Outcome.next (settle (State.xwlRx 2 m _ u)) = _
  rw [xwlRx_first a b c d f g h (by omega) i]

/-- XWL_NODE_TIMEOUT completes (15 R431, R435). -/
theorem runs_xwlNodeTimeout :
  ∀ (t node : Nat) (s u : State), s.at t = u → node < 8 → (u.node node).roster = true →
    u.pastOpt (u.node node).heard (u.ring.nodeTimeout * ms) = true →
    exec (.xwlNodeTimeout t node) s = .next (settle
      ((((u.onNode node fun x => { x with roster := false, stop := 0 }).onXwl fun w =>
        { w with events := w.events ||| 1, up := false, upCycles := 0 }).evOpen 0x0C "NODE_LOST" node 0).ringTrip u.ringAsks)) := by
  intro t node s u e a b c
  rw [exec_xwlNodeTimeout]; unfold execXwlNodeTimeout finish
  rw [e]
  change Host.Outcome.next (settle (ite _ _ _)) = _
  rw [if_pos ⟨a, b, c⟩]

/-- XWL_SYNC_LOSS completes (15 R432). -/
theorem runs_xwlSyncLoss :
  ∀ (t n : Nat) (s u : State), s.at t = u → u.xwl.phase = .member → u.xwl.master = false → 4 ≤ u.xwl.noSync →
    ((List.range 8).find? fun n => u.inRoster n && n != u.xwl.masterId) = some n →
    exec (.xwlSyncLoss t) s = .next (settle (u.onXwl fun w =>
      { w with masterId := n, master := decide (n = u.ring.nodeId), follow := w.follow && n != u.ring.nodeId, noSync := 0,
               events := w.events ||| 8 }).sendSync) := by
  intro t n s u e a b c d
  rw [exec_xwlSyncLoss]; unfold execXwlSyncLoss finish
  rw [e]
  change Host.Outcome.next (settle (ite _ _ _)) = _
  rw [if_pos ⟨.inl a, by simp [b], c⟩]
  simp only [d]

/-- XWL_DELAY_MEASURE completes (15 R433). -/
theorem runs_xwlDelayMeasure :
  ∀ (t a b : Nat) (s u : State), s.at t = u → u.clk.xwlOk = true → u.xwl.phase = .integrate →
    exec (.xwlDelayMeasure t a b) s = .next (settle (u.onXwl fun w => { w with delays := [a, b], measured := 0 })) := by
  intro t a b s u e c d
  rw [exec_xwlDelayMeasure]; unfold execXwlDelayMeasure finish
  rw [e]
  simp [c, d]

/-- XWL_BULK_RECEIVED completes (15 R438). -/
theorem runs_xwlBulkReceived :
  ∀ (t : Nat) (m : XwlRx) (s u : State), s.at t = u → u.xwl.phase ≠ .off → u.clk.xwlOk = true → m.lane < 2 → xOk m = true →
    xKind m = 4 → xSrc m ≠ u.ring.nodeId → bit u.ring.members (xSrc m) = true →
    (((u.xwlLane m.lane).xwlForward m).xwlFirst m).1 = true → 72 ≤ m.data.length →
    let w := (((u.xwlLane m.lane).xwlForward m).xwlFirst m).2
    let pay := (m.data.drop 68).dropLast.dropLast.dropLast.dropLast
    beAt m.data 64 1 = w.ring.nodeId → crc32c pay = beAt m.data (m.data.length - 4) 4 →
    exec (.xwlBulkReceived t m) s = .next (settle (w.wake.takeBulk (xSrc m) (beAt m.data 65 3) pay)) := by
  intro t m s u e a b c d f g h i j w pay k l
  rw [exec_xwlBulkReceived]; unfold execXwlBulkReceived finish
  rw [e]
  change Host.Outcome.next (settle (State.xwlRx 4 m _ u)) = _
  rw [xwlRx_first a b c d f g h (by omega) i]
  rw [if_neg (by rintro (x | x); · omega
                 · exact x k), if_neg (by simpa using l)]

/-- XWL_RETURN_TIMEOUT completes (15 R438). -/
theorem runs_xwlReturnTimeout :
  ∀ (t job : Nat) (h : Nat × Nat) (s u : State), s.at t = u → u.xwl.handed.find? (·.1 == job) = some h →
    u.past h.2 (u.ring.returnUs * 1000) = true → (u.vrd.results.find? fun r => r.auditJob == some job) = none →
    exec (.xwlReturnTimeout t job) s = .next (settle (u.onXwl fun w =>
      { w with shareTimeout := satInc w.shareTimeout, events := w.events ||| 16, handed := w.handed.filter (·.1 ≠ job),
               bulk := w.bulk.filter fun b => b.2.1 ≠ job })) := by
  intro t job h s u e a b c
  rw [exec_xwlReturnTimeout]; unfold execXwlReturnTimeout finish
  rw [e]
  simp only [State.with, a, b, if_true]
  simp only [State.onXwl, c]

/-- XWL_LANE_LOSS completes (15 R440). -/
theorem runs_xwlLaneLoss :
  ∀ (t lane : Nat) (s u : State), s.at t = u → lane < 2 → u.xwl.phase ≠ .off → getN u.xwl.lanes lane = true →
    exec (.xwlLaneLoss t lane) s = .next (settle
      ((u.onXwl fun w => { w with lanes := setN w.lanes lane false, line := true, events := w.events ||| 2 }).evOpen 0x0C "LANE_LOST"
        lane 0)) := by
  intro t lane s u e a b c
  rw [exec_xwlLaneLoss]; unfold execXwlLaneLoss finish
  rw [e]
  simp only [a, b, c, ne_eq, not_false_eq_true, and_self, if_true]

/-- XWL_BULK_UNIT completes (15 R426). -/
theorem runs_xwlBulkUnit :
  ∀ (t unit : Nat) (s u : State), s.at t = u → unit < 8 → u.xwlOn = true → u.xwl.phase = .member → bit u.ring.units unit = true →
    bit u.xwl.unitsDone unit = false → u.past u.xwl.cycleAt ((18 + 10 * unit) * 1000) = true →
    exec (.xwlBulkUnit t unit) s = .next (settle
      ((u.onXwl fun w => { w with unitsDone := w.unitsDone ||| 2 ^ unit }).sendBulk (u.xwl.bulk.length + 1) 26000)) := by
  intro t unit s u e a b c d f g
  rw [exec_xwlBulkUnit]; unfold execXwlBulkUnit finish
  rw [e]
  change Host.Outcome.next (settle (ite _ _ _)) = _
  rw [if_pos ⟨a, b, c, d, by simp [f], g⟩]

/-- HQ_ENABLE_WRITE completes (16 R455). -/
theorem runs_hqEnableWrite :
  ∀ (t q : Nat) (s u : State), s.at t = u → u.regsUp = true → q < 64 →
    exec (.hqEnableWrite t q false) s = .next (settle (u.onQ q fun h => { h with en := false })) ∧
    (u.hq.opened = true → (u.hqueue q).en = false → u.queueOk q = true →
      exec (.hqEnableWrite t q true) s = .next (settle ((u.onQ q fun h => { h with en := true, phase := true }).cqDrain q))) := by
  intro t q s u e a b
  have n : ¬ 64 ≤ q := by omega
  refine ⟨?_, fun c d f => ?_⟩ <;> rw [exec_hqEnableWrite] <;> unfold execHqEnableWrite finish <;> rw [e]
  · simp [a, n]
  · simp [a, n, c, d, f]

/-- HQ_RESET completes (16 R455). -/
theorem runs_hqReset :
  ∀ (t q : Nat) (s u : State), s.at t = u → u.regsUp = true → q < 64 →
    exec (.hqReset t q) s = .next (settle (u.onQ q fun h => { h with resetting := true })) := by
  intro t q s u e a b
  rw [exec_hqReset]; unfold execHqReset finish
  rw [e]; simp [State.when, a, b]

/-- QUEUE_RESET_COMPLETE completes (16 R455). -/
theorem runs_queueResetComplete :
  ∀ (t q : Nat) (s u : State), s.at t = u → u.regsUp = true → q < 64 → (u.hqueue q).resetting = true → u.inFlight q = [] →
    exec (.queueResetComplete t q) s = .next (settle (u.onQ q HQueue.cleared)) := by
  intro t q s u e a b c d
  rw [exec_queueResetComplete]; unfold execQueueResetComplete finish
  rw [e]; simp [State.when, a, b, c, d]

/-- HQ_RESUME completes (16 R464). -/
theorem runs_hqResume :
  ∀ (t q : Nat) (c : ChanRec) (s u : State), s.at t = u → u.regsUp = true → q < 64 → u.wake.boundChan q = some c →
    u.wake.allLive c.streams = true →
    exec (.hqResume t q) s = .next (settle
      ((u.wake.onQ q fun h => { h with hold := false, error := false, err := 0, chFault := false }).onChan c.ch fun x =>
        { x with fault := false, free := true, timerAt := none, late := false, used := 0, spent := false })) := by
  intro t q c s u e a b d f
  have n : ¬ 64 ≤ q := by omega
  rw [exec_hqResume]; unfold execHqResume finish
  rw [e]; simp [State.with, a, n, d, f]

/-- CQ_HEAD_WRITE completes (16 R453, R467). -/
theorem runs_cqHeadWrite :
  ∀ (t q v : Nat) (s u : State), s.at t = u → u.regsUp = true → q < 64 →
    exec (.cqHeadWrite t q v) s = .next (settle ((u.onQ q fun h =>
      { h with cqHead := v % 4096, cqUsed := h.cqUsed - (v % 4096 + 2 ^ 16 - h.cqHead) % 2 ^ h.cqLog }).cqDrain q)) := by
  intro t q v s u e a b
  rw [exec_cqHeadWrite]; unfold execCqHeadWrite finish
  rw [e]
  change Host.Outcome.next (settle (ite _ _ _)) = _
  rw [if_pos ⟨a, b⟩]

/-- HQ_IRQ_WRITE completes (16 R454). -/
theorem runs_hqIrqWrite :
  ∀ (t q v : Nat) (s u : State), s.at t = u → u.regsUp = true → q < 64 → 1 ≤ bits v 0 7 → bits v 0 7 ≤ 64 → bits v 16 10 ≤ 1000 →
    bit v 31 = true →
    exec (.hqIrqWrite t q v) s = .next (settle
      ((u.onQ q fun h => { h with irqCount := bits v 0 7, irqTime := bits v 16 10, irqMask := true }).msiDue q)) := by
  intro t q v s u e a b c d f g
  rw [exec_hqIrqWrite]; unfold execHqIrqWrite finish
  rw [e]
  change Host.Outcome.next (settle (ite _ _ _)) = _
  rw [if_pos ⟨a, b, c, d, f⟩, g, if_neg (by simp)]

/-- IRQ_TIME_EXPIRY completes (16 R454). -/
theorem runs_irqTimeExpiry :
  ∀ (t q : Nat) (s u : State), s.at t = u → u.regsUp = true → q < 64 →
    exec (.irqTimeExpiry t q) s = .next (settle (u.msiDue q)) := by
  intro t q s u e a b
  rw [exec_irqTimeExpiry]; unfold execIrqTimeExpiry finish
  rw [e]; simp [State.when, a, b]

/-- DELIVERY_TAIL_WRITE completes (16 R457, R468). -/
theorem runs_deliveryTailWrite :
  ∀ (t n v : Nat) (s u : State), s.at t = u → u.regsUp = true → n < 16 → v % 4096 < 2 ^ (getN u.hq.rings n).sizeLog →
    exec (.deliveryTailWrite t n v) s = .next (settle (u.onRing n fun d => { d with tail := v % 4096 })) := by
  intro t n v s u e a b c
  rw [exec_deliveryTailWrite]; unfold execDeliveryTailWrite finish
  rw [e]; simp only [State.when]
  rw [if_pos (by rw [a]; simp only [b, c, and_self, decide_true, Bool.and_self])]

/-- HQ_CHECKPOINT completes (16 R463). -/
theorem runs_hqCheckpoint :
  ∀ (t v : Nat) (c : ChanRec) (s u : State), s.at t = u → u.tsuOn = true → u.img.chan (bits v 0 9) = some c →
    exec (.hqCheckpoint t v) s = .next (settle ((u.cpChecks c (bits v 16 4)).cpTimer c (bits v 16 4))) := by
  intro t v c s u e a b
  rw [exec_hqCheckpoint]; unfold execHqCheckpoint finish
  rw [e]; simp [State.with, a, b]

/-- PCIE_FUNCTION_LEVEL_RESET completes (16 R456). -/
theorem runs_pcieFunctionLevelReset :
  ∀ (t : Nat) (s u : State), s.at t = u → u.regsUp = true →
    exec (.pcieFunctionLevelReset t) s = .next (settle (u.onHq fun h =>
      { h with queues := h.queues.map fun x => { x with resetting := true }
               rings := h.rings.map fun d => { d with tail := 0, head := 0, phase := true, en := false } })) := by
  intro t s u e a
  rw [exec_pcieFunctionLevelReset]; unfold execPcieFunctionLevelReset finish
  rw [e]; simp only [State.when]
  rw [if_pos a]

/-- BAR2_ACCESS completes (16 R449, R450). -/
theorem runs_bar2Access :
  ∀ (t c : Nat) (r : Bar2Req) (s u : State), s.at t = u → u.regsUp = true → u.sys.state ≠ .doldrums →
    let n := match r.write with | some b => b.length | none => r.length
    r.offset + n ≤ 0x40000000 → u.bar2Ident r = some c → bar2Range r.offset n = true →
    u.check c r.write.isSome (bar2Addr r.offset) n = (true, u) →
    exec (.bar2Access t r) s = .next (settle (u.bar2Reach r c (bar2Addr r.offset) n)) := by
  intro t c r s u e a b n d f g h
  rw [exec_bar2Access]; unfold execBar2Access finish
  rw [e]
  have d' : ¬ 0x40000000 < r.offset + n := by omega
  change Host.Outcome.next (settle (ite _ _ (ite _ _ _))) = _
  rw [if_neg (by simp [a]), if_neg (by rintro (x | x); · exact b x
                                       · exact d' x)]
  simp only [f]
  rw [if_neg (by change ¬ (!bar2Range r.offset n) = true; simp [g])]
  change Host.Outcome.next (settle (ite ((u.check c r.write.isSome (bar2Addr r.offset) n).1 = true) _ _)) = _
  rw [if_pos (congrArg Prod.fst h)]
  exact congrArg (fun v => Host.Outcome.next (settle (State.bar2Reach r c (bar2Addr r.offset) n v))) (congrArg Prod.snd h)

/-- TSU_ALIVE_WINDOW_END completes (16 R461, R463). -/
theorem runs_tsuAliveWindowEnd :
  ∀ (t c : Nat) (r : ChanRec) (s u : State), s.at t = u → u.img.chan c = some r → u.tsuOn = true → r.aliveWindow ≠ 0 →
    u.past (u.tchan c).windowAt (r.aliveWindow * ms) = true → r.aliveMin ≤ (u.tchan c).alive → r.queue ≠ 0xFF →
    exec (.tsuAliveWindowEnd t c) s = .next (settle
      (u.onChan c fun x => { x with windowAt := x.windowAt + r.aliveWindow * ms, alive := 0 })) := by
  intro t c r s u e a b d f g h
  rw [exec_tsuAliveWindowEnd]; unfold execTsuAliveWindowEnd finish
  rw [e]
  have g' : ¬ (u.tchan c).alive < r.aliveMin := by omega
  have h' : (r.queue == 0xFF) = false := by simpa using h
  simp [State.with, a, b, d, f, g', h']

/-- TSU_DEADLINE_EXPIRY completes (16 R463). -/
theorem runs_tsuDeadlineExpiry :
  ∀ (t c : Nat) (r : ChanRec) (s u : State), s.at t = u → u.img.chan c = some r → u.tsuOn = true → r.deadlineUs ≠ 0 →
    (u.tchan c).late = false → u.pastOpt (u.tchan c).timerAt (r.deadlineUs * 1000) = true →
    exec (.tsuDeadlineExpiry t c) s = .next (settle ((u.onChan c fun x => { x with late := true }).chFault c 3)) := by
  intro t c r s u e a b d f g
  rw [exec_tsuDeadlineExpiry]; unfold execTsuDeadlineExpiry finish
  rw [e]
  simp [State.with, a, b, d, f, g]

/-- TSU_BUDGET_EXCEEDED completes (16 R463). -/
theorem runs_tsuBudgetExceeded :
  ∀ (t c : Nat) (r : ChanRec) (s u : State), s.at t = u → u.img.chan c = some r → u.tsuOn = true → r.budgetUs ≠ 0 →
    (u.tchan c).spent = false → r.budgetUs * 1000 < u.budgetUsed c →
    exec (.tsuBudgetExceeded t c) s = .next (settle ((u.onChan c fun x => { x with spent := true }).chFault c 4)) := by
  intro t c r s u e a b d f g
  rw [exec_tsuBudgetExceeded]; unfold execTsuBudgetExceeded finish
  rw [e]
  simp [State.with, a, b, d, f, g]

/-- TSU_BUDGET_PERIOD_END completes (16 R463). -/
theorem runs_tsuBudgetPeriodEnd :
  ∀ (t c : Nat) (r : ChanRec) (s u : State), s.at t = u → u.img.chan c = some r → u.tsuOn = true → r.budgetUs ≠ 0 →
    u.past (u.tchan c).periodAt (r.budgetPeriod * ms) = true →
    exec (.tsuBudgetPeriodEnd t c) s = .next (settle
      (u.onChan c fun x => { x with periodAt := x.periodAt + r.budgetPeriod * ms, used := 0, spent := false })) := by
  intro t c r s u e a b d f
  rw [exec_tsuBudgetPeriodEnd]; unfold execTsuBudgetPeriodEnd finish
  rw [e]
  simp [State.with, a, b, d, f]

/-- PSM_PLANNED_WAKE completes (17 R478, R480). -/
theorem runs_psmPlannedWake :
  ∀ (t : Nat) (p : PState) (s u : State), s.at t = u → u.psmOn = true → u.psm.waking = none → u.psm.deepest? = some p →
    u.plannedDue p = true →
    exec (.psmPlannedWake t) s = .next (settle u.planWake.psmChoose) := by
  intro t p s u e a b c d
  rw [exec_psmPlannedWake]; unfold execPsmPlannedWake finish
  rw [e]
  simp [State.when, a, b, c, d]

/-- PSM_WAKE_COMPLETE completes (17 R472, R473). -/
theorem runs_psmWakeComplete :
  ∀ (t i : Nat) (p : Bool) (s u : State), s.at t = u → u.psmOn = true → u.psm.waking = some (i, p) →
    exec (.psmWakeComplete t 0) s = .next (settle ((u.latency 0x08 noSub (u.now - i)).exitDeep).settleWork) := by
  intro t i p s u e a b
  rw [exec_psmWakeComplete]; unfold execPsmWakeComplete finish
  rw [e]
  have z : ∀ n, bit 0 n = false := by intro n; simp [bit]
  have q : ((List.range 16).filter fun _ => false) = [] := by decide
  simp only [b, a, if_true, z, Bool.false_and, State.each]
  rw [q]; rfl

/-- PSM_WAKE_FAULT completes (17 R485). -/
theorem runs_psmWakeFault :
  ∀ (t i : Nat) (p : Bool) (s u : State), s.at t = u → u.psmOn = true → u.psm.waking = some (i, p) →
    i + u.psm.state.exit + 50000 < u.now →
    exec (.psmWakeFault t) s = .next (settle (((u.exitDeep.onPsm fun p =>
      { p with wakeFault := true, events := p.events ||| 2 }).evOpen 0x0F "WAKE_FAULT" noSub 0).settleWork)) := by
  intro t i p s u e a b c
  rw [exec_psmWakeFault]; unfold execPsmWakeFault finish
  rw [e]
  simp [a, b, c]

/-- PSM_ENTRY_COMPLETE completes (17 R471). -/
theorem runs_psmEntryComplete :
  ∀ (t i : Nat) (p : PState) (s u : State), s.at t = u → u.psmOn = true → u.psm.entering = some (p, i) → u.past i p.entry = true →
    exec (.psmEntryComplete t) s = .next (settle (u.enterPower p)) := by
  intro t i p s u e a b c
  rw [exec_psmEntryComplete]; unfold execPsmEntryComplete finish
  rw [e]
  simp [State.when, a, b, c]

/-- BREEZE_CORE_GATE completes (17 R472). -/
theorem runs_breezeCoreGate :
  ∀ (t n : Nat) (s u : State), s.at t = u → u.psmOn = true → n < 16 → u.psm.state = .breeze → u.psm.waking = none →
    (u.acore n).run = none → u.past (u.acore n).idleAt 2000 = true →
    exec (.breezeCoreGate t n) s = .next (settle (u.onCore n fun c => { c with gated := true })) := by
  intro t n s u e a b c d f g
  rw [exec_breezeCoreGate]; unfold execBreezeCoreGate finish
  rw [e]
  simp [a, b, c, d, f, g]

/-- BG_URGENT completes (17 R483). -/
theorem runs_bgUrgent :
  ∀ (t a : Nat) (s u : State), s.at t = u → u.psmOn = true → 2 ≤ a → a < 5 → (getN u.psm.bg a).near u.now a = true →
    exec (.bgUrgent t a) s = .next (settle (u.onBg a fun b => { b with urgent := true })) := by
  intro t a s u e b c d f
  rw [exec_bgUrgent]; unfold execBgUrgent finish
  rw [e]
  have n1 : a ≠ 1 := by omega
  have n2 : ¬ a < 2 := by omega
  simp only [b, d, and_self, if_true, n1, if_false, f, n2, decide_false, Bool.false_and, State.when, Bool.false_eq_true]
  split <;> rfl

/-- BG_DEADLINE_MISS completes (17 R484). -/
theorem runs_bgDeadlineMiss :
  ∀ (t a : Nat) (s u : State), s.at t = u → u.psmOn = true → a < 5 → a ≠ 1 → (getN u.psm.bg a).due u.now a = true →
    exec (.bgDeadlineMiss t a) s = .next (settle ((u.onBg a (Bg.miss (bgDeadline a))).bgMissed a)) := by
  intro t a s u e b c d f
  rw [exec_bgDeadlineMiss]; unfold execBgDeadlineMiss finish
  rw [e]
  simp [b, c, d, f]

/-- OVERCURRENT_CUT_OFF completes (02 R43). -/
theorem runs_overcurrentCutOff :
  ∀ (t n : Nat) (s u : State), s.at t = u → u.sup.on = true → n < 8 →
    ∃ v : State, exec (.overcurrentCutOff t n) s = .next (settle (v.slbTrip 0x06 true)) ∧ v.slb.stoCmd = setN u.slb.stoCmd n false := by
  intro t n s u e a b
  rw [exec_overcurrentCutOff]; unfold execOvercurrentCutOff finish
  rw [e]
  have c : n < 14 := by omega
  simp only [a, c, and_self, if_true]
  refine ⟨_, rfl, ?_⟩
  simp [State.onSlb, Slb.seeOut, b]

/-- ADC_CALIBRATION completes (18 R497). -/
theorem runs_adcCalibration :
  ∀ (t : Nat) (s u : State), s.at t = u → u.regsUp = true →
    exec (.adcCalibration t { spOk := true, slbOk := true, disagree := false }) s = .next (settle
      ((u.onMon fun k => { k with adcSp := false, adcSlb := false }).bgDone 2)) := by
  intro t s u e a
  rw [exec_adcCalibration]; unfold execAdcCalibration finish
  rw [e]
  simp [a]

/-- TELEMETRY_SWAP completes (18 R498). -/
theorem runs_telemetrySwap :
  ∀ (t : Nat) (s u : State), s.at t = u → u.regsUp = true →
    exec (.telemetrySwap t) s = .next (settle ((u.onMon fun k =>
      { k with telemSeq := (k.telemSeq + 1) % 2 ^ 32, telemTime := u.dev, telemState := u.sysState,
               telemLast := k.slots.map (·.last) }).bgDone 4)) := by
  intro t s u e a
  rw [exec_telemetrySwap]; unfold execTelemetrySwap finish
  rw [e]
  simp [a]

/-- MON_LEVEL_SAMPLE completes (18 R493). -/
theorem runs_monLevelSample :
  ∀ (t n : Nat) (v : Int) (r : MonRec) (s u : State), s.at t = u → (u.img.monitors.slots.find? (·.slot == n)) = some r →
    u.regsUp = true → r.level = true → n < 64 → r.source ≠ 0x24 → r.vin = false → u.adcBad r = false →
    exec (.monLevelSample t n v) s = .next (settle (u.sample n r (max (-(2 ^ 31)) (min (2 ^ 31 - 1) v)))) := by
  intro t n v r s u e a b c d f g h
  rw [exec_monLevelSample]; unfold execMonLevelSample finish
  rw [e]
  simp only [a, b, c, d, and_self, if_true, f, if_false, g, Bool.false_and, Bool.false_eq_true, h, false_and]

/-- MON_SNAPSHOT completes (18 R496). -/
theorem runs_monSnapshot :
  ∀ (t n : Nat) (b : Bank) (s u : State), s.at t = u → u.bankUp b = true →
    exec (.monSnapshot t b n) s = .next (settle (u.snap b n)) := by
  intro t n b s u e a
  rw [exec_monSnapshot]; unfold execMonSnapshot finish
  rw [e]
  simp [State.when, a]

/-- MON_SNAPSHOT_CLEAR completes (18 R496). -/
theorem runs_monSnapshotClear :
  ∀ (t n : Nat) (s u : State), s.at t = u → u.bankUp .sp = true →
    ∃ v : State, exec (.monSnapshotClear t .sp n) s = .next (settle v) ∧ v.mon.sp = (u.snap .sp n).mon.sp ∧
      v.mon.slots = modN u.mon.slots (n % 64) MonSlot.clear := by
  intro t n s u e a
  rw [exec_monSnapshotClear]; unfold execMonSnapshotClear finish
  rw [e]
  simp [a]
  refine ⟨_, rfl, ?_, ?_⟩ <;> rfl

/-- LOG_SEL_WRITE completes (18 R502). -/
theorem runs_logSelWrite :
  ∀ (t seq : Nat) (b : Bank) (s u : State), s.at t = u → u.bankUp b = true →
    (∀ e, u.ret.log.find? (·.seq == seq % 2 ^ 32) = some e → exec (.logSelWrite t b seq) s =
      .next (settle (u.onBank b fun l => { l with selStat := if e.good then 1 else 4, entry := e.bytes }))) ∧
    (u.ret.log.find? (·.seq == seq % 2 ^ 32) = none → exec (.logSelWrite t b seq) s =
      .next (settle (u.onBank b fun l =>
        { l with selStat := (selMiss u.ret.logNext (seq % 2 ^ 32) false).getD 2, entry := zeros 32 }))) := by
  intro t seq b s u e a
  refine ⟨fun k h => ?_, fun h => ?_⟩ <;> rw [exec_logSelWrite] <;> unfold execLogSelWrite finish <;> rw [e] <;> simp only [a, if_true, h]

/-- FR_SEL_WRITE completes (18 R503). -/
theorem runs_frSelWrite :
  ∀ (t num : Nat) (b : Bank) (s u : State), s.at t = u → u.bankUp b = true →
    (∀ e, u.ret.frs.find? (·.num == num % 2 ^ 32) = some e → exec (.frSelWrite t b num) s =
      .next (settle (u.onBank b fun l => { l with frStat := if crcOk e.data then 1 else 4, frEntry := e.data }))) ∧
    (u.ret.frs.find? (·.num == num % 2 ^ 32) = none → exec (.frSelWrite t b num) s =
      .next (settle (u.onBank b fun l =>
        { l with frStat := (selMiss u.ret.frNext (num % 2 ^ 32) false).getD 2, frEntry := zeros 256 }))) := by
  intro t num b s u e a
  refine ⟨fun k h => ?_, fun h => ?_⟩ <;> rw [exec_frSelWrite] <;> unfold execFrSelWrite finish <;> rw [e] <;> simp only [a, if_true, h]

/-- LOG_REPEAT_SECOND_END completes (18 R501). -/
theorem runs_logRepeatSecondEnd :
  ∀ (t : Nat) (s u : State), s.at t = u → u.regsUp = true → u.log.second < u.dev / sec →
    exec (.logRepeatSecondEnd t) s = .next (settle u.flushRepeats) := by
  intro t s u e a b
  rw [exec_logRepeatSecondEnd]; unfold execLogRepeatSecondEnd finish
  rw [e]
  simp [State.when, a, b]

/-- IDCODE completes (18 Table 18.8). -/
theorem runs_idcode :
  ∀ (t : Nat) (s u : State), s.at t = u → u.sup.on = true →
    exec (.idcode t) s = .next (settle ((u.tapIr 0x01).shiftOut 0 (leBytes 4 0x0480D0A5))) := by
  intro t s u e a
  rw [exec_idcode]; unfold execIdcode finish
  rw [e]; simp only [State.when, a, if_true]

/-- SAMPLE_PRELOAD completes (18 Table 18.8). -/
theorem runs_samplePreload :
  ∀ (t p q : Nat) (s u : State), s.at t = u → u.sup.on = true →
    exec (.samplePreload t p q) s = .next (settle
      (((u.tapIr 0x02).onDbg fun d => { d with capture := p, preload := q }).shiftOut 0 (leBytes 8 p))) := by
  intro t p q s u e a
  rw [exec_samplePreload]; unfold execSamplePreload finish
  rw [e]; simp only [State.when, a, if_true]

/-- EXTEST completes (18 Table 18.8). -/
theorem runs_extest :
  ∀ (t p : Nat) (s u : State), s.at t = u → u.sup.on = true → u.dbg.enabled = true → u.torque = false →
    exec (.extest t p) s = .next (settle
      (((u.tapIr 0x03).onDbg fun d => { d with extest := true, capture := p }).shiftOut 0 (leBytes 8 p))) := by
  intro t p s u e a b c
  rw [exec_extest]; unfold execExtest finish
  rw [e]; simp only [State.when, a, if_true, b, c, Bool.not_false, and_self]

/-- BYPASS completes (18 Table 18.8). -/
theorem runs_bypass :
  ∀ (t d : Nat) (s u : State), s.at t = u → u.sup.on = true → exec (.bypass t d) s = .next (settle (u.bypassShift 0x3F d)) := by
  intro t d s u e a
  rw [exec_bypass]; unfold execBypass finish
  rw [e]; simp only [State.when, a, if_true]

/-- DBG_NONCE completes (18 R507). -/
theorem runs_dbgNonce :
  ∀ (t : Nat) (s u : State), s.at t = u → u.sup.on = true →
    exec (.dbgNonce t) s = .next (settle ((u.tapIr 0x10).shiftOut 0 u.dbg.nonce)) := by
  intro t s u e a
  rw [exec_dbgNonce]; unfold execDbgNonce finish
  rw [e]; simp only [State.when, a, if_true]

/-- DBG_UNLOCK completes (18 R507). -/
theorem runs_dbgUnlock :
  ∀ (t : Nat) (r : UnlockReq) (s u : State), s.at t = u → u.sup.on = true →
    exec (.dbgUnlock t r) s = .next (settle
      ((((u.tapIr 0x11).unlockAnswer r).2.unlockNote ((u.tapIr 0x11).unlockAnswer r).1).newNonce.shiftOut
        ((u.tapIr 0x11).unlockAnswer r).1 [])) := by
  intro t r s u e a
  rw [exec_dbgUnlock]; unfold execDbgUnlock finish
  rw [e]; simp only [State.when, a, if_true]

/-- DBG_LOCK completes (18 R508). -/
theorem runs_dbgLock :
  ∀ (t : Nat) (s u : State), s.at t = u → u.sup.on = true →
    exec (.dbgLock t) s = .next (settle ((u.tapIr 0x12).dbgOff.shiftOut 0 [])) := by
  intro t s u e a
  rw [exec_dbgLock]; unfold execDbgLock finish
  rw [e]; simp only [State.when, a, if_true]

/-- HALT completes (18 R509). -/
theorem runs_halt :
  ∀ (t m : Nat) (s u : State), s.at t = u → u.sup.on = true → u.dbg.enabled = true → m % 2 ^ 16 ≠ 0 →
    exec (.halt t m) s = .next (settle
      (((((u.tapIr 0x13).onDbg fun d => { d with stepping := d.stepping.zipIdx.map fun x => x.1 && !bit m x.2 }).haltMask
        (u.dbg.mask m true)).breakPairs).haltFails.shiftOut 0 [])) := by
  intro t m s u e a b c
  rw [exec_halt]; unfold execHalt finish State.dbgCmd
  rw [e]
  have d : (u.tapIr 0x13).dbg.enabled = true := b
  have f : (u.tapIr 0x13).dbg.mask m true = u.dbg.mask m true := rfl
  simp only [State.when, a, if_true, d, c, if_false, f]

/-- DBG_RESUME completes (18 R509). -/
theorem runs_dbgResume :
  ∀ (t m : Nat) (s u : State), s.at t = u → u.sup.on = true → u.dbg.enabled = true →
    exec (.dbgResume t m) s = .next (settle ((((u.tapIr 0x13).haltMask (u.dbg.mask m false)).settleBreak).shiftOut 0 [])) := by
  intro t m s u e a b
  rw [exec_dbgResume]; unfold execDbgResume finish State.dbgCmd
  rw [e]
  have d : (u.tapIr 0x13).dbg.enabled = true := b
  have f : (u.tapIr 0x13).dbg.mask m false = u.dbg.mask m false := rfl
  simp only [State.when, a, if_true, d, f]

/-- STEP completes (18 R509). -/
theorem runs_step :
  ∀ (t n : Nat) (s u : State), s.at t = u → u.sup.on = true → u.dbg.enabled = true → n < 16 → getN u.dbg.halted n = true →
    exec (.step t n) s = .next (settle
      (((((u.tapIr 0x13).onDbg fun d => { d with stepping := setN d.stepping n true }).haltMask (setN u.dbg.halted n false))).shiftOut
        0 [])) := by
  intro t n s u e a b c f
  rw [exec_step]; unfold execStep finish State.dbgCmd
  rw [e]
  have d : (u.tapIr 0x13).dbg.enabled = true := b
  have g : (u.tapIr 0x13).dbg.halted = u.dbg.halted := rfl
  simp only [State.when, a, if_true, d, g, c, f, and_self]

/-- SET_BP completes (18 R509). -/
theorem runs_setBp :
  ∀ (t n : Nat) (m : BpMatch) (s u : State), s.at t = u → u.sup.on = true → u.dbg.enabled = true → n < 4 →
    exec (.setBp t n m) s = .next (settle (((u.tapIr 0x13).onDbg fun d => { d with bps := setN d.bps n m }).shiftOut 0 [])) := by
  intro t n m s u e a b c
  rw [exec_setBp]; unfold execSetBp finish State.dbgCmd
  rw [e]
  have d : (u.tapIr 0x13).dbg.enabled = true := b
  simp only [State.when, a, if_true, d, c]

/-- READ_CORE completes (18 R509). -/
theorem runs_readCore :
  ∀ (t n : Nat) (s u : State), s.at t = u → u.sup.on = true → u.dbg.enabled = true → n < 16 →
    exec (.readCore t n) s = .next (settle ((u.tapIr 0x13).shiftOut 0 ((u.tapIr 0x13).coreDump n))) := by
  intro t n s u e a b c
  rw [exec_readCore]; unfold execReadCore finish
  rw [e]
  have d : (u.tapIr 0x13).dbg.enabled = true := b
  simp only [State.when, a, if_true, d, c]

/-- DBG_MEM completes (18 R510). -/
theorem runs_dbgMem :
  ∀ (t : Nat) (r : DbgMemReq) (s u : State), s.at t = u → u.sup.on = true → u.dbg.enabled = true → r.bytes = 4 ∨ r.bytes = 8 →
    r.addr % r.bytes = 0 → r.addr < 2 ^ 40 → (u.tapIr 0x14).check idDebug r.write.isSome r.addr r.bytes = (true, u.tapIr 0x14) →
    exec (.dbgMem t r) s = .next (settle ((u.tapIr 0x14).dbgReach r.addr r.bytes r.write)) := by
  intro t r s u e a b c f g h
  rw [exec_dbgMem]; unfold execDbgMem finish
  rw [e]
  have d : (u.tapIr 0x14).dbg.enabled = true := b
  have n : ¬ ((r.bytes ≠ 4 ∧ r.bytes ≠ 8) ∨ r.addr % r.bytes ≠ 0 ∨ 2 ^ 40 ≤ r.addr) := by omega
  simp only [State.when, a, if_true, d, n, if_false, h, Bool.not_true, Bool.false_eq_true]

/-- DBG_SP completes (18 R511). -/
theorem runs_dbgSp :
  ∀ (t : Nat) (s u : State), s.at t = u → u.sup.on = true → u.dbg.enabled = true → u.dbg.method = 2 → u.dbg.scopeSp = true →
    exec (.dbgSp t .halt) s = .next (settle ((((u.tapIr 0x15).onDbg fun d => { d with spHalted := true }).haltFails).shiftOut 0 [])) ∧
    exec (.dbgSp t .resume) s = .next (settle (((u.tapIr 0x15).onDbg fun d => { d with spHalted := false }).shiftOut 0 [])) := by
  intro t s u e a b c d
  have b' : (u.tapIr 0x15).dbg.enabled = true := b
  have c' : (u.tapIr 0x15).dbg.method = 2 := c
  have d' : (u.tapIr 0x15).dbg.scopeSp = true := d
  refine ⟨?_, ?_⟩ <;> rw [exec_dbgSp] <;> unfold execDbgSp finish <;> rw [e] <;>
    simp only [State.when, a, if_true, b', c', d', and_self]

/-- REGISTER_WRITE completes (00 R6, R9). -/
theorem runs_registerWrite :
  ∀ (t a v : Nat) (w : Writer) (s u : State), s.at t = u → u.regsUp = true →
    (a % 4 = 0 → exec (.registerWrite t w false a v) s = .next (settle (u.putReg w a v))) ∧
    (a % 8 = 0 → exec (.registerWrite t w true a v) s =
      .next (settle ((u.putReg w a v).putReg w (a + 4) (v / 2 ^ 32)))) := by
  intro t a v w s u e b
  refine ⟨fun c => ?_, fun c => ?_⟩ <;> rw [exec_registerWrite] <;> unfold execRegisterWrite finish <;> rw [e] <;> simp [b, c]

end Sys2Proof.Machine
end

