-- ==== Sys2Proof/Laws/RunsStart.lean ====
section
/-! SUPPORT. Where the commands of power, start, safety states, seals, clocks, triggers, calendar and configuration complete. -/

namespace Sys2Proof.Machine

/-- POWER_GOOD completes (01 Table 1.5, 04 R91). -/
theorem runs_powerGood :
  ∀ (t vin backup : Nat) (s : State), s.sup.on = false →
    Runs (.powerGood t vin backup) s fun v =>
      v.sup.on = true ∧ v.sup.vin = vin ∧ v.sys.state = .start ∧ v.start.stage = 0 ∧ v.start.warm = false ∧ v.sys.tqen = false := by
  intro t vin backup s h
  refine runs_finish (exec_powerGood ..) ?_
  rw [← at_sup s t] at h
  generalize s.at t = u at h
  have ev : ∀ (v : State) (c k b d : Nat), (v.ev c k b d).sys = v.sys ∧ (v.ev c k b d).sup = v.sup ∧ (v.ev c k b d).start = v.start :=
    fun v c k b d => ⟨(State.ev_moves c k b d (Moves.refl _ v) (List.Subset.refl _)).same .sys (by decide),
      (State.ev_moves c k b d (Moves.refl _ v) (List.Subset.refl _)).same .sup (by decide),
      (State.ev_moves c k b d (Moves.refl _ v) (List.Subset.refl _)).same .start (by decide)⟩
  simp only [h, settle_sup, settle_sys, settle_start, Bool.false_eq_true, if_false]
  split <;> simp [ev, State.beginStart_sup, State.beginStart_state, State.beginStart_stage, State.beginStart_warm, State.beginStart_tqen]

/-- POWER_FAIL_WARNING completes (02 R52, R53). -/
theorem runs_powerFailWarning :
  ∀ (t : Nat) (s : State), s.sup.on = true → s.sys.powerFail = false →
    Runs (.powerFailWarning t) s fun v => v.sup.pfOut = true ∧ v.sys.powerFail = true ∧ v.sys.tqen = false := by
  intro t s h k
  refine runs_finish (exec_powerFailWarning ..) ?_
  rw [← at_sup s t] at h
  rw [← at_sys_powerFail s t] at k
  generalize s.at t = u at h k
  simp only [h, k, settle_sup, settle_sys]
  simp only [Bool.not_false, and_self, if_true]
  split <;> exact ⟨rfl, rfl, rfl⟩

/-- HOLDUP_END completes (01 Table 1.5 (Any to OFF), 02 R52). -/
theorem runs_holdupEnd :
  ∀ (t : Nat) (s : State), s.sup.on = true → s.sys.powerFail = true →
    Runs (.holdupEnd t) s fun v => v.sys.state = .off ∧ v.sup.on = false ∧ v.sys.tqen = false := by
  intro t s h k
  refine runs_finish (exec_holdupEnd ..) ?_
  have e : ((s.at t).sup.on && (s.at t).sys.powerFail) = true := by simp [h, k]
  simp only [State.when, e, if_true]
  exact ⟨rfl, rfl, rfl⟩

/-- STAGE_S0 completes (04 R94). -/
theorem runs_stageS0 :
  ∀ (t : Nat) (r : S0Result) (s : State), (s.at t).inTime 0 → s.start.counted = true → r.selfTest = true → r.holdup = true →
    Runs (.stageS0 t r) s fun v => v.start.stage = 1 ∧ v.start.stageAt = (s.at t).now ∧ v.sup.holdup = true := by
  intro t r s h k a b
  refine runs_finish (exec_stageS0 ..) ?_
  rw [stage_early h (by decide)]
  rw [← at_start s t] at k
  generalize s.at t = u at h k
  have hi : ∀ u : State, u.initTime.start = u.start ∧ u.initTime.now = u.now := by
    intro u; unfold State.initTime; split <;> exact ⟨rfl, rfl⟩
  by_cases w : u.start.warm = true <;> simp [w, k, a, b, State.passStage, hi]

/-- STAGE_S1 completes (04 R95). -/
theorem runs_stageS1 :
  ∀ (t : Nat) (r : S1Result) (s : State), (s.at t).inTime 1 → r.romCrc = true → r.fwSignature = true → s.nvm.floor ≤ r.fwVersion →
    Runs (.stageS1 t r) s fun v => v.start.stage = 2 ∧ v.start.stageAt = (s.at t).now ∧ v.start.fw = r.fwVersion := by
  intro t r s h a b k
  refine runs_finish (exec_stageS1 ..) ?_
  rw [stage_early h (by decide)]
  rw [← at_nvm_floor s t] at k
  generalize s.at t = u at h k
  have k' : ¬ r.fwVersion < u.nvm.floor := by omega
  simp [a, b, k', State.passStage]

/-- STAGE_S2 completes (04 R96, 19 R521). -/
theorem runs_stageS2 :
  ∀ (t : Nat) (r : S2Result) (s : State), (s.at t).inTime 2 → (s.at t).retValid r = true ∨ r.faultAfterZero = false →
    Runs (.stageS2 t r) s fun v => v.start.stage = 3 ∧ v.start.stageAt = (s.at t).now := by
  intro t r s h k
  refine runs_finish (exec_stageS2 ..) ?_
  rw [stage_early h (by decide)]
  generalize s.at t = u at h k
  have hn : ∀ v : State, v.reconcile.now = v.now := fun v => (State.reconcile_moves (Moves.refl _ v) (List.Subset.refl _)).now
  have hf : ∀ v : State, v.flushOwed.now = v.now := fun v => (State.flushOwed_moves (Moves.refl _ v) (List.Subset.refl _)).now
  have hj : ∀ v : State, v.journalLost.now = v.now := fun v => (State.journalLost_moves (Moves.refl _ v) (List.Subset.refl _)).now
  rcases k with k | k <;> by_cases w : u.start.warm = true <;> by_cases o : u.retValid r = true <;>
    simp_all [State.passStage]

/-- STAGE_S3 completes (04 R97, R112). -/
theorem runs_stageS3 :
  ∀ (t : Nat) (r : S3Result) (s : State), (s.at t).inTime 3 → r.rows % 1024 = 1023 → s.dbg.halted.any id = false →
    s.dbg.spHalted = false →
    Runs (.stageS3 t r) s fun v => v.start.stage = 4 ∧ v.start.s3Bits = 1023 ∧ v.cvu = cvuStart ∧ ∀ l ∈ v.vane.lanes, l.ok = true := by
  intro t r s h a b c
  refine runs_finish (exec_stageS3 ..) ?_
  rw [stage_early h (by decide)]
  rw [← at_dbg s t] at b c
  generalize s.at t = u at h b c
  have e : (List.range 10).find? (fun i => !bit r.rows i) = none := by
    rw [List.find?_eq_none]
    intro i hi
    have hi' : i < 10 := by simpa using hi
    have : bit r.rows i = true := by
      have h1 : bit r.rows i = bit (r.rows % 1024) i := by
        unfold bit; rw [show (1024 : Nat) = 2 ^ 10 from rfl, Nat.testBit_mod_two_pow]; simp [hi']
      rw [h1, a]
      exact (by decide : ∀ i < 10, bit 1023 i = true) i hi'
    simp [this]
  have n : u.anyHalted = false := by simp only [State.anyHalted, b, c]; rfl
  simp only [n, e]
  refine ⟨rfl, ?_, rfl, ?_⟩
  · simp [State.passStage, a]
  · intro l hl
    simp [State.passStage] at hl
    obtain ⟨x, -, rfl⟩ := hl; rfl

/-- STAGE_S4 completes (04 R98, R100, R112). -/
theorem runs_stageS4 :
  ∀ (t : Nat) (r : S4Result) (s : State), (s.at t).inTime 4 → (∀ i < 10, bit r.checks i = true) → (∀ n < 16, bit r.coreFail n = false) →
    getN s.slb.outSeen 0 = false → getN s.slb.outSeen 1 = false → s.slb.supplyTrip = false → s.dbg.halted.any id = false →
    s.dbg.spHalted = false →
    Runs (.stageS4 t r) s fun v => v.start.stage = 5 ∧ v.start.stageAt = (s.at t).now := by
  intro t r s h a b o1 o2 o3 c d
  refine runs_finish (exec_stageS4 ..) ?_
  rw [stage_early h (by decide)]
  rw [← at_dbg s t] at c d
  rw [← at_slb_outSeen s t] at o1 o2
  rw [← at_slb_supplyTrip s t] at o3
  generalize s.at t = u at h c d o1 o2 o3
  have n : u.anyHalted = false := by simp only [State.anyHalted, c, d]; rfl
  have e : (List.range 16).filter (fun n => bit r.coreFail n) = [] := by
    rw [List.filter_eq_nil_iff]; intro n hn; simp [b n (by simpa using hn)]
  have k : u.s4Checks r = List.replicate 10 true := by
    have hh : ∀ i < 10, (bit r.checks i
      && (if i = 3 then !(getN u.slb.outSeen 0) else if i = 4 then !(getN u.slb.outSeen 1) else if i = 9 then !u.slb.supplyTrip
        else true)) = true := by
      intro i hi; rw [a i hi, o1, o2, o3]; simp
    unfold State.s4Checks
    rw [show List.replicate 10 true = (List.range 10).map fun _ => true from rfl]
    exact List.map_congr_left fun i hi => hh i (by simpa using hi)
  have f : s4Fails (List.replicate 10 true) 0 = [] := by decide
  simp only [n, k, e, List.length_nil, f]
  have hz : ∀ (l : List Nat) (v : State), (v.each l fun n s => (s.zeroLocal n).onCore n fun c => { c with state := .admitted }).now = v.now := by
    intro l v
    exact (moves_each (w := [.aud, .mem, .poison]) (Moves.refl _ v) fun n s hs => by
      refine State.onCore_moves _ _ (State.zeroLocal_moves _ hs ?_) ?_ <;> decide).now
  refine ⟨rfl, ?_⟩
  simp only [State.passStage, settle_start, onStart_start]
  rw [hz]; rfl

/-- STAGE_S5 completes (04 R102). -/
theorem runs_stageS5 :
  ∀ (t : Nat) (r : S5Result) (s : State), (s.at t).inTime 5 → s.outputsSound → r.trained = true → r.tested = true →
    r.swept = true → r.beuOk = true →
    Runs (.stageS5 t r) s fun v => v.start.stage = 6 ∧ v.start.stageAt = (s.at t).now ∧ ∀ k ∈ v.beu.stks, k.swept = true := by
  intro t r s h o a b c d
  refine runs_finish (exec_stageS5 ..) ?_
  rw [stage_open h (at_outputsSound o)]
  generalize s.at t = u at h
  simp only [a, b, c, d]
  refine ⟨rfl, rfl, ?_⟩
  intro k hk
  simp [State.passStage, State.sweep] at hk
  obtain ⟨x, -, rfl⟩ := hk; rfl

/-- STAGE_S6 completes (04 R103, 05 R140). -/
theorem runs_stageS6 :
  ∀ (t : Nat) (r : S6Result) (s : State), (s.at t).inTime 6 → s.outputsSound → r.storeReadable = true → r.weightsWritable = true →
    Runs (.stageS6 t r) s fun v => v.start.stage = 7 ∧ v.start.stageAt = (s.at t).now := by
  intro t r s h o a b
  refine runs_finish (exec_stageS6 ..) ?_
  rw [stage_open h (at_outputsSound o)]
  generalize s.at t = u at h
  have k : ∀ (c : Nat) (x : State), (if c = 0 then x.loadImage else x.defaultPlan).loadUnbound.now = x.now := by
    intro c x
    split
    · exact (State.loadUnbound_moves (State.loadImage_moves (Moves.refl [.sys, .cfg, .fiu, .beu, .xwl, .mem, .hq] x) (by decide)) (by decide)).now
    · exact (State.loadUnbound_moves (State.defaultPlan_moves (Moves.refl [.beu, .hq] x) (by decide)) (by decide)).now
  have l : ∀ x : State, x.loadIds.now = x.now := fun x => (State.loadIds_moves (Moves.refl _ x) (List.Subset.refl _)).now
  have r : ∀ x : State, x.recoverEntry.roleLost.now = x.now := fun x =>
    (State.roleLost_moves (State.recoverEntry_moves (Moves.refl [.cfg, .log, .ret] x) (by decide)) (by decide)).now
  simp [a, b, State.passStage, k, l, r]

/-- STAGE_S7 completes (04 R104). -/
theorem runs_stageS7 :
  ∀ (t : Nat) (r : S7Result) (s : State), (s.at t).inTime 7 → s.outputsSound → r.handshake = true → s.cfg.admitted = false →
    r.missingLink = none → r.ptpRequired = false →
    Runs (.stageS7 t r) s fun v => v.start.stage = 8 := by
  intro t r s h o a b c d
  refine runs_finish (exec_stageS7 ..) ?_
  rw [stage_open h (at_outputsSound o)]
  rw [← at_cfg s t] at b
  generalize s.at t = u at h b
  have e : u.slbParams = some u := by simp [State.slbParams, b]
  simp only [a, c, d, e]
  simp [b, State.endS7, State.passStage]

/-- STAGE_S8 completes (04 R105). -/
theorem runs_stageS8 :
  ∀ (t : Nat) (dest : St) (s : State), (s.at t).inTime 8 → s.outputsSound → s.dbg.held = none → s.start.dest = some dest →
    s.fencedCount = 0 →
    Runs (.stageS8 t true) s fun v => v.sys.state = dest ∧ v.start.stage = 0xF ∧ v.start.ackPending = true := by
  intro t dest s h o a b f
  refine runs_finish (exec_stageS8 ..) ?_
  rw [stage_open h (at_outputsSound o)]
  rw [← at_start s t] at b
  rw [← at_dbg s t] at a
  have f : (s.at t).fencedCount = 0 := by unfold State.fencedCount at *; rw [at_aud]; exact f
  generalize s.at t = u at h a b f
  have d : (u.enterS8 dest).dbg.held = none := by
    rw [show (u.enterS8 dest).dbg = u.dbg from (State.enterS8_moves dest (Moves.refl _ u) (List.Subset.refl _)).same .dbg (by decide)]
    exact a
  have e : (u.enterS8 dest).unlockHeld = u.enterS8 dest := by unfold State.unlockHeld; rw [d]
  simp only [b, Bool.not_true, Bool.false_eq_true, if_false, settle_start, settle_sys, e]
  have c : ∀ v : State, v.psmChoose.start = v.start ∧ v.psmChoose.sys = v.sys := fun v =>
    ⟨(State.psmChoose_moves (Moves.refl _ v) (List.Subset.refl _)).same .start (by decide),
     (State.psmChoose_moves (Moves.refl _ v) (List.Subset.refl _)).same .sys (by decide)⟩
  have g : (((u.openQueues.drawSeqs.startStreams.startClocks.fguReset 1).onRet fun r => { r with cleanOff := false }).setState dest true
      ).startTokens.fencedCount = 0 := by
    have m := State.startTokens_moves (State.setState_moves dest true (moves_onRet (g := fun r => { r with cleanOff := false })
      (State.fguReset_moves 1 (State.startClocks_moves (State.startStreams_moves (State.drawSeqs_moves (State.openQueues_moves
        (Moves.refl [.free, .sys, .fiu, .fgu, .vrd, .sml, .hq, .tsu, .psm, .log, .ret] u) (by decide)) (by decide)) (by decide))
        (by decide)) (by decide)) (by decide)) (by decide)) (by decide)
    have q := m.same .aud (by decide)
    unfold State.fencedCount at *; rw [q]; exact f
  have w : ∀ v : State, v.startTokens.sys = v.sys := fun v =>
    (State.startTokens_moves (Moves.refl _ v) (List.Subset.refl _)).same .sys (by decide)
  simp [State.enterS8, c, g, w, State.setState_state]

/-- STAGE_TIME_LIMIT completes (04 R93). -/
theorem runs_stageTimeLimit :
  ∀ (t : Nat) (s : State), (s.at t).inStage s.start.stage = true → s.start.stageAt + stageLimit s.start.stage ≤ (s.at t).now →
    Runs (.stageTimeLimit t) s fun v =>
      v.start.holdAt = some (s.at t).now ∧ v.nvm.hist = ((s.start.stage * 256 + 0x01) :: s.nvm.hist).take 3 := by
  intro t s a b
  refine runs_finish (exec_stageTimeLimit ..) ?_
  rw [← at_start s t] at a b ⊢
  rw [← at_nvm_hist s t]
  generalize s.at t = u at a b
  have e : (u.inStage u.start.stage && decide (u.start.stageAt + stageLimit u.start.stage ≤ u.now)) = true := by simp [a, b]
  simp only [State.when, e]
  exact ⟨stageFail_holdAt _ _, stageFail_hist _ _⟩

/-- START_WATCHDOG completes (04 R93). -/
theorem runs_startWatchdog :
  ∀ (t : Nat) (s : State), (s.at t).inStage s.start.stage = true → s.start.s0At + 20 * sec ≤ (s.at t).now →
    Runs (.startWatchdog t) s fun v =>
      v.start.holdAt = some (s.at t).now ∧ v.nvm.hist = ((s.start.stage * 256 + 0x02) :: s.nvm.hist).take 3 := by
  intro t s a b
  refine runs_finish (exec_startWatchdog ..) ?_
  rw [← at_start s t] at a b ⊢
  rw [← at_nvm_hist s t]
  generalize s.at t = u at a b
  have e : (u.inStage u.start.stage && decide (u.start.s0At + 20 * sec ≤ u.now)) = true := by simp [a, b]
  simp only [State.when, e]
  exact ⟨stageFail_holdAt _ _, stageFail_hist _ _⟩

/-- STAGE_FAIL_HOLD_EXPIRY completes (04 R109, R114). -/
theorem runs_stageFailHoldExpiry :
  ∀ (t i : Nat) (s : State), s.sup.on = true → s.sys.state = .start → s.start.holdAt = some i → i + sec ≤ (s.at t).now →
    s.sys.powerFail = false → s.sys.spHeld = false → s.sup.thermal = false → s.start.holdLast = false →
    Runs (.stageFailHoldExpiry t) s fun v => v.sys.state = .start ∧ v.start.stage = 0 ∧ v.start.warm = true := by
  intro t i s a b c d e f g h
  refine runs_finish (exec_stageFailHoldExpiry ..) ?_
  rw [← at_sup s t] at a g
  rw [← at_sys_state s t] at b
  rw [← at_sys_powerFail s t] at e
  rw [← at_sys_spHeld s t] at f
  rw [← at_start s t] at c h
  generalize s.at t = u at a b c d e f g h
  have k : (u.sup.on && !u.sys.powerFail && u.sys.state == .start && u.pastOpt u.start.holdAt sec && !u.sys.spHeld && !u.sup.thermal) = true := by
    simp [a, b, c, e, f, g, State.pastOpt, State.past, d]
  simp only [State.when, k, if_true, State.afterHold, h, Bool.false_eq_true, if_false, settle_sys, settle_start]
  exact ⟨State.beginStart_state _ _ _, State.beginStart_stage _ _ _, State.beginStart_warm _ _ _⟩

/-- START_COUNTER_CLEAR completes (04 R111). -/
theorem runs_startCounterClear :
  ∀ (t i : Nat) (s : State), s.sup.on = true → s.slb.holdAt = some i → i + 60 * sec ≤ (s.at t).now → (s.at t).clearFree = true →
    Runs (.startCounterClear { t := t }) s fun v => v.counter = 0 ∧ v.slb.holdAt = none := by
  intro t i s a b c d
  refine runs_finish (exec_startCounterClear ..) ?_
  rw [← at_sup s t] at a
  rw [← at_slb_holdAt s t] at b
  generalize s.at t = u at a b c d
  have k : u.sup.on = true ∧ u.pastOpt u.slb.holdAt (60 * sec) = true ∧ u.clearFree = true := by
    simp [a, b, d, State.pastOpt, State.past, c]
  simp only [k, and_self, if_true]
  exact ⟨rfl, rfl⟩

/-- DOLDRUMS_DIAGNOSTIC_FRAME completes (04 R119). -/
theorem runs_doldrumsDiagnosticFrame :
  ∀ (t : Nat) (s : State), (s.at t).spRuns = true → s.sys.state = .doldrums → s.start.diagAt = none →
    Runs (.doldrumsDiagnosticFrame t) s fun v => v.start.diagAt = some (s.at t).now ∧ ∃ b : Bytes, v.out = [.eth 0 0x88B5 b] := by
  intro t s a b c
  refine runs_finish (exec_doldrumsDiagnosticFrame ..) ?_
  have o : (s.at t).out = [] := at_out s t
  rw [← at_sys_state s t] at b
  rw [← at_start s t] at c
  generalize s.at t = u at a b c o
  simp only [a, b, c, and_self, if_true]
  exact ⟨rfl, _, by simp [State.send, o]; rfl⟩

/-- SP_CYCLE completes (01 R25, 13 R368). -/
theorem runs_spCycle :
  ∀ (t : Nat) (s : State), (s.at t).spRuns = true → s.sys.powerFail = false →
    Runs (.spCycle t) s fun v =>
      ∃ f, v.slb.link.getLast? = some f ∧ f.state = v.sys.state ∧ f.stop = v.sys.req ∧ f.armed = v.sys.armedAt.isSome := by
  intro t s a b
  refine runs_finish (exec_spCycle ..) ?_
  rw [← at_sys_powerFail s t] at b
  generalize s.at t = u at a b
  have m : ∀ v : State, v.sendTokens.slb = v.slb ∧ v.sendTokens.sys = v.sys := fun v =>
    ⟨(State.sendTokens_moves (Moves.refl _ v) (List.Subset.refl _)).same .slb (by decide),
     (State.sendTokens_moves (Moves.refl _ v) (List.Subset.refl _)).same .sys (by decide)⟩
  have k : ∀ v : State, ∃ f, v.sendFrame.sendTokens.slb.link.getLast? = some f ∧ f.state = v.sendFrame.sendTokens.sys.state ∧
      f.stop = v.sendFrame.sendTokens.sys.req ∧ f.armed = v.sendFrame.sendTokens.sys.armedAt.isSome := by
    intro v
    refine ⟨{ beat := v.sys.cycle % 256, state := v.sys.state, stop := v.sys.req, src := v.sys.reqSrc,
              armed := v.sys.armedAt.isSome }, ?_, ?_, ?_, ?_⟩ <;> simp [m, State.sendFrame]
  obtain ⟨w, e⟩ : ∃ w : State, u.spCycle = w.sendFrame.sendTokens := ⟨_, rfl⟩
  simp only [a, b, settle_slb_link, settle_sys, Bool.not_true, Bool.false_eq_true, if_false, e]
  exact k w

/-- DEGRADED_TIMER_EXPIRY completes (01 R20). -/
theorem runs_degradedTimerExpiry :
  ∀ (t : Nat) (s : State), (s.at t).sys.degRun = true → (s.at t).degLimit ≤ (s.at t).sys.degElapsed →
    Runs (.degradedTimerExpiry t) s fun v => v.sys.degDue = true := by
  intro t s a b
  refine runs_finish (exec_degradedTimerExpiry ..) ?_
  generalize s.at t = u at a b
  have e : (u.sys.degRun && decide (u.degLimit ≤ u.sys.degElapsed)) = true := by simp [a, b]
  simp only [State.when, e]; rfl

/-- TQEN_SS1_OVERDUE completes (01 R14). -/
theorem runs_tqenSs1Overdue :
  ∀ (t i : Nat) (s : State), s.sys.ss1At = some i → i + ((s.at t).ss1Longest + 10 * ms) ≤ (s.at t).now → s.stopped = false →
    Runs (.tqenSs1Overdue t) s fun v => v.sys.tqen = false ∧ v.sys.cut = true := by
  intro t i s a b c
  refine runs_finish (exec_tqenSs1Overdue ..) ?_
  rw [← at_sys_ss1At s t] at a
  have c : (s.at t).stopped = false := by unfold State.stopped at *; rw [at_slb_groups]; exact c
  generalize s.at t = u at a b c
  have e : (u.pastOpt u.sys.ss1At (u.ss1Longest + 10 * ms) && !u.stopped) = true := by simp [a, b, c, State.pastOpt, State.past]
  simp only [State.when, e]; exact ⟨rfl, rfl⟩

/-- RESTART_ARMING_LAPSE completes (01 R21). -/
theorem runs_restartArmingLapse :
  ∀ (t i : Nat) (s : State), s.sys.armedAt = some i → i + 30 * sec ≤ (s.at t).now →
    Runs (.restartArmingLapse t) s fun v => v.sys.armedAt = none := by
  intro t i s a b
  refine runs_finish (exec_restartArmingLapse ..) ?_
  rw [← at_sys_armedAt s t] at a
  generalize s.at t = u at a b
  simp [State.lapseArming, a, State.pastOpt, State.past, b]

/-- SEAL_SWITCH_CHANGE completes (02 R49). -/
theorem runs_sealSwitchChange :
  ∀ (t sw : Nat) (on : Bool) (s : State), sw < 4 →
    Runs (.sealSwitchChange t sw on on) s fun v => v.seals.agreed = setN s.seals.agreed sw on ∧ v.seals.bad = setN s.seals.bad sw false := by
  intro t sw on s a
  refine runs_finish (exec_sealSwitchChange ..) ?_
  rw [← at_seals s t]
  generalize s.at t = u
  have m : ∀ v : State, v.sealTrip.seals = v.seals := fun v =>
    (State.sealTrip_moves (Moves.refl _ v) (List.Subset.refl _)).same .seals (by decide)
  simp [a, m]

/-- SEAL_CONTACT_DISAGREE completes (02 R49). -/
theorem runs_sealContactDisagree :
  ∀ (t sw i : Nat) (s : State), sw < 4 → getN s.seals.since sw = some i → i + 50 * ms ≤ (s.at t).now →
    Runs (.sealContactDisagree t sw) s fun v => v.seals.bad = setN s.seals.bad sw true := by
  intro t sw i s a b c
  refine runs_finish (exec_sealContactDisagree ..) ?_
  rw [← at_seals s t] at b ⊢
  generalize s.at t = u at b c
  have m : ∀ v : State, v.sealTrip.seals = v.seals := fun v =>
    (State.sealTrip_moves (Moves.refl _ v) (List.Subset.refl _)).same .seals (by decide)
  simp [a, b, m, State.pastOpt, State.past, c]

/-- TAMPER_LOOP_OPEN completes (02 R50). -/
theorem runs_tamperLoopOpen :
  ∀ (t : Nat) (s : State), s.sup.on = true → s.seals.open_ = false → s.sys.state = .run → s.sys.pendTrips = [] →
    Runs (.tamperLoopOpen t) s fun v => v.seals.open_ = true ∧ v.sys.pendTrips = [{ src := 0x0D, sto := false }] := by
  intro t s a b c d
  refine runs_finish (exec_tamperLoopOpen ..) ?_
  rw [← at_sup s t] at a
  rw [← at_seals s t] at b
  rw [← at_sys_state s t] at c
  rw [← at_sys_pendTrips s t] at d
  generalize s.at t = u at a b c d
  have m : ∀ (x : Nat) (n : String) (k d : Nat) (v : State), (v.evOpen x n k d).sys = v.sys ∧ (v.evOpen x n k d).seals = v.seals := fun x n k d v =>
    ⟨(State.evOpen_moves x n k d (Moves.refl _ v) (List.Subset.refl _)).same .sys (by decide),
     (State.evOpen_moves x n k d (Moves.refl _ v) (List.Subset.refl _)).same .seals (by decide)⟩
  simp [a, b, State.sealTrip, m, c, d, State.spTrip]

/-- DBG_PRES_CHANGE completes (02 R47). -/
theorem runs_dbgPresChange :
  ∀ (t : Nat) (low : Bool) (s : State), s.sup.on = true → s.dbg.pres ≠ low →
    exec (.dbgPresChange t low) s =
      .next (settle (((s.at t).onDbg fun d => { d with pres := low }).ev 0x1201 0 noSub (if low then 0 else 1))) := by
  intro t low s a b
  rw [← at_sup s t] at a
  rw [← at_dbg s t] at b
  rw [exec_dbgPresChange]; unfold execDbgPresChange finish
  generalize s.at t = u at a b
  cases low <;> simp [b, a, b2n]

/-- IO_SUPPLY_OUT_OF_WINDOW completes (02 R55). -/
theorem runs_ioSupplyOutOfWindow :
  ∀ (t : Nat) (b : Bool) (mv : Nat) (s : State), s.sup.on = true → mv < 18000 ∨ 32000 < mv →
    Runs (.ioSupplyOutOfWindow t b mv) s fun v =>
      v.sup.uvSeen = true ∧ v.slb.supplyTrip = true ∧ v.slb.due = s.slb.due ++ [{ src := 0x10, sto := true }] := by
  intro t b mv s a c
  refine runs_finish (exec_ioSupplyOutOfWindow ..) ?_
  rw [← at_slb_due s t]
  rw [← at_sup s t] at a
  generalize s.at t = u at a
  simp only [a, c, and_self, if_true]
  exact ⟨rfl, rfl, rfl⟩

/-- IO_SUPPLY_RECOVERED completes (02 R55). -/
theorem runs_ioSupplyRecovered :
  ∀ (t a b : Nat) (s : State), s.sup.on = true → 19200 ≤ a ∧ a ≤ 30000 → 19200 ≤ b ∧ b ≤ 30000 →
    Runs (.ioSupplyRecovered t a b) s fun v => v.slb.supplyTrip = false ∧ v.sup.ioaOk = true ∧ v.sup.iobOk = true := by
  intro t a b s h c d
  refine runs_finish (exec_ioSupplyRecovered ..) ?_
  rw [← at_sup s t] at h
  generalize s.at t = u at h
  have e : (u.sup.on && supplyOk a && supplyOk b) = true := by simp [h, supplyOk, c, d]
  simp only [State.when, e]; exact ⟨rfl, rfl, rfl⟩

/-- DIE_TEMP_WARNING completes (02 R56). -/
theorem runs_dieTempWarning :
  ∀ (t : Nat) (s : State), s.sup.on = true →
    exec (.dieTempWarning t) s = .next (settle ((s.at t).evName 0x00 "DIE_TEMP" 2 noSub 100)) := by
  intro t s a
  rw [exec_dieTempWarning]; unfold execDieTempWarning finish
  simp [State.when, a]

/-- THERMAL_TRIP completes (02 R56). -/
theorem runs_thermalTrip :
  ∀ (t : Nat) (s : State), s.sup.on = true → s.sup.thermal = false → s.sys.powerFail = false → s.sys.state = .run →
    Runs (.thermalTrip t) s fun v => v.sup.thermal = true ∧ v.sys.state = .start ∧ v.sys.tqen = false := by
  intro t s a b c d
  refine runs_finish (exec_thermalTrip ..) ?_
  rw [← at_sup s t] at a b
  rw [← at_sys_powerFail s t] at c
  rw [← at_sys_state s t] at d
  generalize s.at t = u at a b c d
  have m : ∀ v : State, v.slbDrop.sys = v.sys := fun v =>
    (State.slbDrop_moves (Moves.refl _ v) (List.Subset.refl _)).same .sys (by decide)
  have r : ∀ v : State, v.trigStop.sys = v.sys ∧ v.trigStop.sup = v.sup := fun v =>
    ⟨State.trigStop_same (p := .sys) (by decide) v, State.trigStop_same (p := .sup) (by decide) v⟩
  have e : ∀ v : State, (v.endRecord false 0xF1).sys = v.sys ∧ (v.endRecord false 0xF1).sup = v.sup := fun v =>
    ⟨(State.endRecord_moves false 0xF1 (Moves.refl _ v) (List.Subset.refl _)).same .sys (by decide),
     (State.endRecord_moves false 0xF1 (Moves.refl _ v) (List.Subset.refl _)).same .sup (by decide)⟩
  have q : ∀ v : State, (v.setState .start false).sup = v.sup := fun v => State.setState_same (p := .sup) (by decide) _ _ _
  simp [a, b, c, d, m, r, e, q, setState_sys]

/-- THERMAL_RELEASE completes (02 R56). -/
theorem runs_thermalRelease :
  ∀ (t : Nat) (s : State), s.sup.on = true → s.sup.thermal = true → s.sys.powerFail = false → s.sys.state = .start →
    Runs (.thermalRelease t) s fun v => v.sup.thermal = false ∧ v.sys.state = .start ∧ v.start.stage = 0 ∧ v.start.warm = false := by
  intro t s a b c d
  refine runs_finish (exec_thermalRelease ..) ?_
  rw [← at_sup s t] at a b
  rw [← at_sys_powerFail s t] at c
  rw [← at_sys_state s t] at d
  generalize s.at t = u at a b c d
  simp [a, b, c, d, State.beginStart_sup, State.beginStart_state, State.beginStart_stage, State.beginStart_warm]

/-- CLOCK_MONITOR_WINDOW completes (03 R77 Table 3.3). -/
theorem runs_clockMonitorWindow :
  ∀ (t : Nat) (s : State), s.sup.on = true → s.clk.rtcOk = true →
    Runs (.clockMonitorWindow t .rtc false) s fun v => v.clk.rtcOk = false ∧ v.clk.failSeen = true ∧ v.rtc.valid = false := by
  intro t s a b
  refine runs_finish (exec_clockMonitorWindow ..) ?_
  rw [← at_sup s t] at a
  rw [← at_clk_rtcOk s t] at b
  generalize s.at t = u at a b
  simp only [a, b, Clk.okOf]
  exact ⟨rfl, rfl, rfl⟩

/-- CLOCK_RECOVERY_RELEASE completes (04 R91). -/
theorem runs_clockRecoveryRelease :
  ∀ (t i : Nat) (s : State), s.sup.on = true → s.sys.spHeld = true → s.clk.spOk = true → s.clk.fabOk = true →
    s.clk.okSince = some i → i + 10 * ms ≤ (s.at t).now → s.sys.powerFail = false → s.sys.state = .start → s.start.clkHeld = true →
    Runs (.clockRecoveryRelease t) s fun v => v.sys.spHeld = false ∧ v.sys.state = .start ∧ v.start.stage = 0 ∧ v.start.warm = true := by
  intro t i s a b c d e f g h k
  refine runs_finish (exec_clockRecoveryRelease ..) ?_
  rw [← at_sup s t] at a
  rw [← at_sys_spHeld s t] at b
  rw [← at_clk_spOk s t] at c
  rw [← at_clk_fabOk s t] at d
  rw [← at_clk_okSince s t] at e
  rw [← at_sys_powerFail s t] at g
  rw [← at_sys_state s t] at h
  rw [← at_start s t] at k
  generalize s.at t = u at a b c d e f g h k
  have q : u.pastOpt u.clk.okSince (10 * ms) = true := by simp [e, State.pastOpt, State.past, f]
  simp [a, b, c, d, q, g, h, k, beginStart_spHeld, State.beginStart_state, State.beginStart_stage, State.beginStart_warm]

/-- PTP_SYNC_RECEIVED completes (03 R63, R64, R65). -/
theorem runs_ptpSyncReceived :
  ∀ (t : Nat) (y : PtpSync) (s : State), (s.at t).ptpOn y.port = true → s.clk.gm = some y.gm → s.clk.port = y.port →
    Runs (.ptpSyncReceived t y) s fun v =>
      v.clk.gm = some y.gm ∧ v.clk.offset = sat32 y.offset ∧
        v.clk.inLock = min (if y.offset.natAbs ≤ 1000 then s.clk.inLock + 1 else 0) 10 := by
  intro t y s a b c
  refine runs_finish (exec_ptpSyncReceived ..) ?_
  rw [← at_clk_gm s t] at b
  rw [← at_clk_port s t] at c
  rw [← at_clk_inLock s t]
  generalize s.at t = u at a b c
  have x : ¬(y.port = 0 ∧ u.clk.port ≠ 0) := by simp [c]
  have e : (u.noteSync y).clk.gm = some y.gm ∧ (u.noteSync y).clk.port = u.clk.port ∧ (u.noteSync y).clk.inLock = u.clk.inLock := by
    simp [State.noteSync, b]
  simp only [a, Bool.not_true, Bool.false_eq_true, if_false, e, x, true_and, c, and_self, if_true, settle_clk]
  simp [discipline_keeps, countLock_keeps, e]

/-- BEST_MASTER_CLOCK_SELECTION completes (03 R63, R65). -/
theorem runs_bestMasterClockSelection :
  ∀ (t : Nat) (y : PtpSync) (s : State), (s.at t).ptpOn y.port = true → s.clk.gm ≠ some y.gm →
    Runs (.bestMasterClockSelection t y) s fun v =>
      v.clk.gm = some y.gm ∧ v.clk.port = y.port ∧ v.clk.offset = sat32 y.offset := by
  intro t y s a b
  refine runs_finish (exec_bestMasterClockSelection ..) ?_
  rw [← at_clk_gm s t] at b
  generalize s.at t = u at a b
  have e : (u.noteSync y).clk.gm ≠ some y.gm := by simpa [State.noteSync] using b
  simp [a, e, State.select, discipline_keeps, countLock_keeps]

/-- PTP_GRANDMASTER_LOST completes (03 R64, R65). -/
theorem runs_ptpGrandmasterLost :
  ∀ (t port : Nat) (s : State), s.sup.on = true → port < 2 → s.clk.port = port → (getN s.clk.gms port).isSome = true →
    getN s.clk.gms (1 - port) = none → s.clk.sync ≠ .unset →
    Runs (.ptpGrandmasterLost t port) s fun v =>
      v.clk.sync = .holdover ∧ v.clk.gm = none ∧ v.clk.lostAt = some (s.at t).now := by
  intro t port s a b c d e f
  refine runs_finish (exec_ptpGrandmasterLost ..) ?_
  rw [← at_sup s t] at a
  rw [← at_clk_port s t] at c
  rw [← at_clk_gms s t] at d e
  rw [← at_clk_sync s t] at f
  generalize s.at t = u at a b c d e f
  have g : getN (setN u.clk.gms port none) (1 - port) = none := by
    rw [getN_setN_ne _ _ _ _ (by omega)]; exact e
  simp only [a, b, d, and_self, if_true, c, ne_eq, not_true, if_false, onClk_clk, g, settle_clk]
  obtain ⟨l, h⟩ := setSync_clk .holdover (State.onClk (fun c => { c with gm := none, inLock := 0, lostAt := some u.now, slew := 0 })
    (State.onClk (fun c => { c with gms := setN c.gms port none, disSince := none, disLogged := false, disagree := false }) u))
  simp [f, c]
  simp at h
  rw [h]; simp

/-- PTP_HOLDOVER_EXPIRY completes (03 R64). -/
theorem runs_ptpHoldoverExpiry :
  ∀ (t i : Nat) (s : State), s.clk.sync = .holdover → s.clk.lostAt = some i → i + 60 * sec ≤ (s.at t).now →
    Runs (.ptpHoldoverExpiry t) s fun v => v.clk.sync = .free := by
  intro t i s a b c
  refine runs_finish (exec_ptpHoldoverExpiry ..) ?_
  rw [← at_clk_sync s t] at a
  rw [← at_clk_lostAt s t] at b
  generalize s.at t = u at a b c
  simp [a, b, State.pastOpt, State.past, c, setSync_sync]

/-- PTP_PORT_DISAGREE completes (03 R65). -/
theorem runs_ptpPortDisagree :
  ∀ (t i : Nat) (s : State), s.sup.on = true → (s.at t).clk.portsDiffer = true → s.clk.disSince = some i → i + 10 * sec ≤ (s.at t).now →
    s.clk.disLogged = false →
    exec (.ptpPortDisagree t (getN s.clk.offs 0 - getN s.clk.offs 1)) s =
      .next (settle (((s.at t).onClk fun c => { c with disLogged := true }).ev 0x0103 1 noSub
        (ofSigned 64 (getN s.clk.offs 0 - getN s.clk.offs 1)))) := by
  intro t i s a b c d e
  rw [exec_ptpPortDisagree]; unfold execPtpPortDisagree finish
  rw [← at_sup s t] at a
  rw [← at_clk_disSince s t] at c
  rw [← at_clk_disLogged s t] at e
  rw [← at_clk_offs s t]
  generalize s.at t = u at a b c d e
  simp [a, b, c, e, State.pastOpt, State.past, d]

/-- TRIGGER_EDGE completes (03 R67, R75). -/
theorem runs_triggerEdge :
  ∀ (t n d : Nat) (s : State), n < 8 → (getN s.clk.trigs n).en = true → (getN s.clk.trigs n).due = some d → (s.at t).trigOn = true →
    d ≤ (s.at t).dev → (s.at t).dev < d + 8 → s.shaped →
    Runs (.triggerEdge t n) s fun v =>
      v.out = [.trig n (!(getN s.clk.trigs n).pol)] ∧ (getN v.clk.trigs n).last = some d ∧ (getN v.clk.trigs n).pulse = true := by
  intro t n d s a b c e f g l
  refine runs_finish (exec_triggerEdge ..) ?_
  have o : (s.at t).out = [] := at_out s t
  have l := l.clk
  rw [← at_clk_trigs s t] at b c ⊢
  simp only [Clk.shaped] at l
  rw [← at_clk_trigs s t] at l
  generalize s.at t = u at b c e f g o l
  have l' : n < u.clk.trigs.length := by omega
  simp [a, b, c, e, f, g, State.send, o, State.onTrig, Trig.take, l']

/-- TRIG_START_WRITE completes (03 R69, R86). -/
theorem runs_trigStartWrite :
  ∀ (t n x : Nat) (s : State), (s.at t).regsUp = true → n < 8 → s.shaped →
    Runs (.trigStartWrite t n x) s fun v => (getN v.clk.trigs n).startV = x % 2 ^ 64 := by
  intro t n x s a b l
  refine runs_finish (exec_trigStartWrite ..) ?_
  have l := l.clk
  simp only [Clk.shaped] at l
  rw [← at_clk_trigs s t] at l
  generalize s.at t = u at a l
  have l' : n < u.clk.trigs.length := by omega
  simp only [State.when, a, b, State.onTrig, Trig.put]
  by_cases h : (getN u.clk.trigs n).en = true ∧ (getN u.clk.trigs n).due.isSome = true <;> simp [h, l', Trig.take, Trig.startV]

/-- TRIG_PERIOD_WRITE completes (03 R69, R86). -/
theorem runs_trigPeriodWrite :
  ∀ (t n x : Nat) (s : State), (s.at t).regsUp = true → n < 8 → s.shaped → 1000000 ≤ x → x ≤ 10000000000 →
    (getN s.clk.trigs n).widthV < x →
    Runs (.trigPeriodWrite t n x) s fun v => (getN v.clk.trigs n).periodV = x := by
  intro t n x s a b l c d e
  refine runs_finish (exec_trigPeriodWrite ..) ?_
  have l := l.clk
  simp only [Clk.shaped] at l
  rw [← at_clk_trigs s t] at l e
  generalize s.at t = u at a l e
  have l' : n < u.clk.trigs.length := by omega
  have m : x % 2 ^ 34 = x := Nat.mod_eq_of_lt (by omega)
  simp only [State.when, a, b, State.onTrig, Trig.put, m]
  by_cases h : (getN u.clk.trigs n).en = true ∧ (getN u.clk.trigs n).due.isSome = true <;> simp [h, l', Trig.take, Trig.periodV, c, d, e]

/-- TRIG_WIDTH_WRITE completes (03 R69, R86). -/
theorem runs_trigWidthWrite :
  ∀ (t n x : Nat) (s : State), (s.at t).regsUp = true → n < 8 → s.shaped → 1000 ≤ x → x ≤ 1000000 → x < (getN s.clk.trigs n).periodV →
    Runs (.trigWidthWrite t n x) s fun v => (getN v.clk.trigs n).widthV = x := by
  intro t n x s a b l c d e
  refine runs_finish (exec_trigWidthWrite ..) ?_
  have l := l.clk
  simp only [Clk.shaped] at l
  rw [← at_clk_trigs s t] at l e
  generalize s.at t = u at a l e
  have l' : n < u.clk.trigs.length := by omega
  have m : x % 2 ^ 20 = x := Nat.mod_eq_of_lt (by omega)
  simp only [State.when, a, b, State.onTrig, Trig.put, m]
  by_cases h : (getN u.clk.trigs n).en = true ∧ (getN u.clk.trigs n).due.isSome = true <;> simp [h, l', Trig.take, Trig.widthV, c, d, e]

/-- TRIG_CTRL_WRITE completes (03 R68, R69, R86). -/
theorem runs_trigCtrlWrite :
  ∀ (t n x : Nat) (s : State), (s.at t).regsUp = true → n < 8 → s.shaped → bit x 0 = false ∨ (getN s.clk.trigs n).ranges = true →
    Runs (.trigCtrlWrite t n x) s fun v => (getN v.clk.trigs n).en = bit x 0 ∧ (getN v.clk.trigs n).pol = bit x 1 := by
  intro t n x s a b l c
  refine runs_finish (exec_trigCtrlWrite ..) ?_
  have l := l.clk
  simp only [Clk.shaped] at l
  rw [← at_clk_trigs s t] at l c
  generalize s.at t = u at a l c
  have l' : n < u.clk.trigs.length := by omega
  simp only [State.when, a, b, State.onTrig]
  by_cases h : bit x 0 = true
  · have r : (getN u.clk.trigs n).ranges = true := by simpa [h] using c
    by_cases k : (getN u.clk.trigs n).en = true <;> simp [h, r, k, l', Trig.arm, Trig.take]
  · simp [h, l', Trig.take]

/-- RTC_TENTH_TICK completes (03 R79). -/
theorem runs_rtcTenthTick :
  ∀ (t : Nat) (s : State), s.rtc.following = false → s.clk.rtcOk = true → s.rtc.cal ≠ calLast →
    Runs (.rtcTenthTick t) s fun v => v.rtc.cal = calAt (s.rtc.cal.tenthsOf + 1) := by
  intro t s a b c
  refine runs_finish (exec_rtcTenthTick ..) ?_
  rw [← at_rtc s t] at a c ⊢
  rw [← at_clk_rtcOk s t] at b
  generalize s.at t = u at a b c
  simp [a, b, c]

/-- EXPORT completes (18 R505). -/
theorem runs_exportObject :
  ∀ (t k first n : Nat) (q : CfgReq) (s : State), (s.at t).takes q 0x02 → s.sys.state ≠ .start → (s.sys.state = .doldrums → k ≠ 4) →
    1 ≤ k → k ≤ 4 →
    Runs (.exportObject t q k first n) s fun v =>
      v.out = (exportFrames k ((s.at t).exportBytes k first n)).map (fun b => .eth q.port 0x88B5 (respFrame 2 q.request 0 b)) := by
  intro t k first n q s a b c d e
  refine runs_finish (exec_exportObject ..) ?_
  have o : (s.at t).out = [] := at_out s t
  rw [← at_sys_state s t] at b c
  generalize s.at t = u at a b c o
  rw [serve_read a (by simp)]
  have x : ¬(k = 0 ∨ 4 < k) := by omega
  have y : ¬(u.sys.state = .start ∨ (u.sys.state = .doldrums ∧ k = 4)) := by
    rintro (h | ⟨h, i⟩)
    · exact b h
    · exact c h i
  simp only [x, y, if_false, settle_out, answer_out]
  simp [o]

/-- UPLOAD_BEGIN completes (05 R138). -/
theorem runs_uploadBegin :
  ∀ (t : Nat) (q : CfgReq) (s : State), (s.at t).takes q 0x10 → (s.at t).knows q → s.sys.state ∈ uploadStates → s.cfg.session = none →
    Runs (.uploadBegin t q) s fun v =>
      v.cfg.session = some (serialNext s.cfg.sessions, (s.at t).now) ∧ v.out = answerTo q 0x10 0 (beBytes 4 (serialNext s.cfg.sessions)) := by
  intro t q s a b c d
  refine runs_finish (exec_uploadBegin ..) ?_
  have o : (s.at t).out = [] := at_out s t
  rw [← at_sys_state s t] at c
  rw [← at_cfg s t] at d ⊢
  generalize s.at t = u at a b c d o
  rw [serve_new a (by simp), gated_ok b c (by simp)]
  have e : u.entered.cfg = u.cfg := entered_same (p := .cfg) (by decide) u
  have f : u.entered.uploading = false := by simp [State.uploading, e, d]
  simp only [f, Bool.false_eq_true, if_false]
  simp [answer_session, answer_out, entered_out, entered_now, e, o, answerTo, State.onImgSlot]

/-- UPLOAD_DATA completes (05 R138). -/
theorem runs_uploadData :
  ∀ (t : Nat) (q : CfgReq) (o : Nat) (d : Bytes) (s : State), (s.at t).takes q 0x11 → s.sys.state ∈ uploadStates →
    (s.at t).inSession q = true → d.length ≤ 1400 → o ≤ s.cfg.upTo →
    o + d.length ≤ sizeSoFar (getN s.cfg.slots s.standby).image o d + 268435456 →
    Runs (.uploadData t q true o d) s fun v =>
      v.out = answerTo q 0x11 0 [] ∧ v.cfg.slots = modN s.cfg.slots s.standby (Slot.write o d) := by
  intro t q o d s a c e f g h
  refine runs_finish (exec_uploadData ..) ?_
  have out : (s.at t).out = [] := at_out s t
  have sb : ∀ v : State, v.cfg = s.cfg → v.standby = s.standby := by
    intro v hv; unfold State.standby State.activeSlot; rw [hv]
  rw [← sb (s.at t) (at_cfg s t)] at h ⊢
  rw [← at_sys_state s t] at c
  rw [← at_cfg s t] at g h ⊢
  rw [← at_cfg s t] at sb
  generalize s.at t = u at a c e g h out sb
  rw [serve_new a (by simp)]
  have w : u.wake.sys = u.sys ∧ u.wake.cfg = u.cfg := ⟨wake_same (p := .sys) (by decide) u, wake_same (p := .cfg) (by decide) u⟩
  have i : u.wake.inSession q = true := by unfold State.inSession at *; rw [w.2, wake_now]; exact e
  have b : u.wake.standby = u.standby := by unfold State.standby State.activeSlot; rw [w.2]
  have x : ¬(u.cfg.upTo < o ∨ sizeSoFar (getN u.cfg.slots u.standby).image o d + 268435456 < o + d.length ∨ 1400 < d.length) := by omega
  simp [w, c, i, b, x, plain, answer_out, answer_slots, wake_out, out, answerTo, State.onImgSlot]

/-- UPLOAD_END completes (05 R138). -/
theorem runs_uploadEnd :
  ∀ (t : Nat) (q : CfgReq) (s : State), (s.at t).takes q 0x12 → s.sys.state ∈ uploadStates → (s.at t).inSession q = true →
    Runs (.uploadEnd t q) s fun v => v.out = answerTo q 0x12 0 [] ∧ v.cfg.session = none := by
  intro t q s a c e
  refine runs_finish (exec_uploadEnd ..) ?_
  have out : (s.at t).out = [] := at_out s t
  rw [← at_sys_state s t] at c
  generalize s.at t = u at a c e out
  rw [serve_new a (by simp)]
  have w : u.wake.sys = u.sys ∧ u.wake.cfg = u.cfg := ⟨wake_same (p := .sys) (by decide) u, wake_same (p := .cfg) (by decide) u⟩
  have i : u.wake.inSession q = true := by unfold State.inSession at *; rw [w.2, wake_now]; exact e
  simp [w, c, i, plain, answer_out, answer_session, wake_out, out, answerTo, State.onImgSlot, State.loadIds]

/-- UPLOAD_SESSION_LAPSE completes (05 R138). -/
theorem runs_uploadSessionLapse :
  ∀ (t : Nat) (x : Nat × Nat) (s : State), s.cfg.session = some x → x.2 + 10 * sec ≤ (s.at t).now →
    Runs (.uploadSessionLapse t) s fun v => v.cfg.session = none ∧ v.cfg.slots = s.cfg.slots := by
  intro t x s a b
  refine runs_finish (exec_uploadSessionLapse ..) ?_
  rw [← at_cfg s t] at a ⊢
  generalize s.at t = u at a b
  simp [State.with, a, State.past, b]

/-- SET_PASSWORD completes (05 R133). -/
theorem runs_setPassword :
  ∀ (t : Nat) (q : CfgReq) (w : Bytes) (s : State), (s.at t).takes q 0x31 → (s.at t).knows q → s.sys.state = .commission →
    (s.at t).sealClass = .program → passwordOk w = true → 1 ≤ (s.at t).logFree →
    Runs (.setPassword t q w) s fun v =>
      v.out = answerTo q 0x31 0 [] ∧ ∃ salt : Bytes, v.secrets.pass = some (salt, sha256 (salt ++ w)) := by
  intro t q w s a b c d e f
  refine runs_finish (exec_setPassword ..) ?_
  have out : (s.at t).out = [] := at_out s t
  rw [← at_sys_state s t] at c
  generalize s.at t = u at a b c d f out
  rw [serve_new a (by simp), gated_ok b (by simp [c]) (fun _ => d)]
  have k : u.entered.cfg = u.cfg := entered_same (p := .cfg) (by decide) u
  have g : ¬ u.entered.logFree = 0 := by unfold State.logFree at *; rw [k]; omega
  simp only [e, Bool.not_true, Bool.false_eq_true, if_false, g]
  refine ⟨?_, ?_⟩
  · simp [answer_out, plain, State.logChange, State.newPass, State.drawBytes, State.draw, State.putSecrets, entered_out, out, answerTo]
  · simp only [State.newPass, State.drawBytes, State.draw, plain]
    refine ⟨leBytes 16 (Config.freeValue u.entered.free), ?_⟩
    simp only [State.secrets, settle_nvm, answer_nvm]
    simp [State.logChange, State.putSecrets, Secrets.store, Copies.put, Copies.get, maxPass]

/-- ACTIVATE completes (05 R139, R140). -/
theorem runs_activate :
  ∀ (t : Nat) (q : CfgReq) (s : State), (s.at t).takes q 0x20 → (s.at t).knows q → s.sys.state = .commission → s.cfg.session = none →
    (s.at t).sealClass = .program → 2 ≤ (s.at t).logFree → s.slb.toSp = [] → s.sys.pendTrips = [] →
    Runs (.activate t q) s fun v => ((s.at t).entered.admitSlot s.standby).1 = 0 →
      v.activeSlot = s.standby ∧ v.sys.state = .start ∧ v.start.stage = 0 ∧ v.start.warm = true := by
  intro t q s a b c d e f g h
  refine runs_if (exec_activate ..) fun k => ?_
  refine runs_finish (exec_activate ..) ?_
  have sb : s.standby = (s.at t).standby := by unfold State.standby State.activeSlot; rw [at_cfg]
  rw [sb] at k ⊢
  rw [← at_sys_state s t] at c
  rw [← at_cfg s t] at d
  rw [← at_slb_toSp s t] at g
  rw [← at_sys_pendTrips s t] at h
  generalize s.at t = u at a b c d e f g h k
  have w : u.wake.sys = u.sys ∧ u.wake.cfg = u.cfg := ⟨wake_same (p := .sys) (by decide) u, wake_same (p := .cfg) (by decide) u⟩
  have n : u.entered.cfg = u.cfg ∧ u.entered.slb = u.slb ∧ u.entered.sys = u.sys ∧ u.entered.seals = u.seals :=
    ⟨entered_same (p := .cfg) (by decide) u, entered_same (p := .slb) (by decide) u, entered_same (p := .sys) (by decide) u,
     entered_same (p := .seals) (by decide) u⟩
  have nb : u.entered.standby = u.standby := by unfold State.standby State.activeSlot; rw [n.1]
  have sc : u.entered.sealClass = .program := by
    rw [← e]
    have y : u.entered.secrets.run = u.secrets.run := by
      simp [State.entered, State.putSecrets, State.secrets, Secrets.store, Copies.get, Copies.put, maxRun]
      split <;> simp_all
    unfold State.sealClass State.sealPattern; rw [n.2.2.2, y]
  have lf : ∀ x : Bool, ¬ u.entered.logFree < (if x = true then 2 else 1) := by
    intro x; unfold State.logFree at *; rw [n.1]; split <;> omega
  have up : u.wake.uploading = false := by simp [State.uploading, w.2, d]
  have act : (State.activateNow q u.entered).2.2.cfg.role = Copies.put u.standby := by
    have ad : u.entered.admitSlot u.standby = (0, (u.entered.admitSlot u.standby).2) := by rw [← k]
    unfold State.activateNow
    simp only [sc, nb, ne_eq, not_true, and_false, if_false, lf]
    rw [ad]
    simp [g, h, n, plain, State.logChange, State.loadIds, State.standby, State.activeSlot]
  have se : u.serve q 0x20 (fun s => if s.secrets.lock = 0 ∧ s.sys.state = .commission ∧ s.uploading = true then plain 5 s
      else s.gated q [.commission] false (State.activateNow q)) =
      (State.activateNow q u.entered).2.2.answer q 0x20 (State.activateNow q u.entered).1 (State.activateNow q u.entered).2.1 := by
    rw [serve_new a (by simp)]
    rw [if_neg (by simp [up]), gated_ok b (by simp [c]) (by simp)]
  have ro : (u.serve q 0x20 (fun s => if s.secrets.lock = 0 ∧ s.sys.state = .commission ∧ s.uploading = true then plain 5 s
      else s.gated q [.commission] false (State.activateNow q))).cfg.role = Copies.put u.standby := by
    rw [se, answer_role, act]
  have as : (u.serve q 0x20 (fun s => if s.secrets.lock = 0 ∧ s.sys.state = .commission ∧ s.uploading = true then plain 5 s
      else s.gated q [.commission] false (State.activateNow q))).activeSlot = u.standby := by
    unfold State.activeSlot; rw [ro]; simp [Copies.get, Copies.put]
  have ne : u.standby ≠ u.activeSlot := by unfold State.standby; omega
  rw [if_pos (by rw [as]; exact ne)]
  generalize u.serve q 0x20 _ = x at ro
  simp only [State.activeSlot, settle_cfg, settle_sys, settle_start, beginStart_role, ro, State.beginStart_state,
    State.beginStart_stage, State.beginStart_warm]
  simp [Copies.get, Copies.put]

/-- RESTART completes (01 R18 Table 1.5, 05 Table 5.4). -/
theorem runs_restart :
  ∀ (t : Nat) (q : CfgReq) (s : State), (s.at t).takes q 0x21 → (s.at t).knows q → s.sys.state = .commission →
    Runs (.restart t q) s fun v => v.sys.state = .start ∧ v.start.stage = 0 ∧ v.start.warm = true := by
  intro t q s a b c
  refine runs_finish (exec_restart ..) ?_
  rw [← at_sys_state s t] at c
  generalize s.at t = u at a b c
  have k : u.acts q 0x21 [.commission] false = true := acts_ok a b (by simp [c]) (by simp)
  simp only [k, if_true, settle_sys, settle_start]
  exact ⟨State.beginStart_state _ _ _, State.beginStart_stage _ _ _, State.beginStart_warm _ _ _⟩

/-- ENROL completes (05 R134). -/
theorem runs_enrol :
  ∀ (t p : Nat) (q : CfgReq) (k w : Bytes) (s : State), (s.at t).takes q 0x30 → (s.at t).secrets.pass = none → s.sys.state = .commission →
    (s.at t).sealClass = .program → k.length = 32 → passwordOk w = true → 1 ≤ p → p ≤ 14 → 1 ≤ (s.at t).logFree →
    Runs (.enrol t q (some k) (some w) (some p)) s fun v =>
      v.secrets.key = some k ∧ v.secrets.run = some p ∧ v.out = answerTo q 0x30 0 [] := by
  intro t p q k w s a b c d e f g h i
  refine runs_finish (exec_enrol ..) ?_
  have out : (s.at t).out = [] := at_out s t
  rw [← at_sys_state s t] at c
  generalize s.at t = u at a b c d i out
  rw [serve_new a (by simp)]
  have x : u.wake.sys = u.sys := wake_same (p := .sys) (by decide) u
  have y : u.wake.cfg = u.cfg := wake_same (p := .cfg) (by decide) u
  have z : u.wake.sealClass = .program := by
    rw [← d]; unfold State.sealClass State.sealPattern
    rw [show u.wake.seals = u.seals from wake_same (p := .seals) (by decide) u, wake_secrets]
  have j : ¬ u.wake.logFree = 0 := by unfold State.logFree at *; rw [y]; omega
  have m : enrolOk true (some k) (some w) (some p) = true := by
    simp [enrolOk, e, f, within, g, h]
  simp only [wake_secrets, b, x, c, z, State.enrolNow, m, j]
  refine ⟨?_, ?_, ?_⟩
  · simp only [State.secrets, settle_nvm, answer_nvm]
    simp [plain, State.logChange, State.newPass, State.drawBytes, State.draw, State.putSecrets, Secrets.store, Copies.put, Copies.get, maxBytes]
  · simp only [State.secrets, settle_nvm, answer_nvm]
    simp [plain, State.logChange, State.newPass, State.drawBytes, State.draw, State.putSecrets, Secrets.store, Copies.put, Copies.get, maxRun]
  · simp [answer_out, plain, State.logChange, State.newPass, State.drawBytes, State.draw, State.putSecrets, wake_out, out, answerTo]

/-- SET_RTC completes (03 R80, R81). -/
theorem runs_setRtc :
  ∀ (t x : Nat) (q : CfgReq) (s : State), (s.at t).takes q 0x40 → (s.at t).knows q → s.sys.state ∈ rtcStates → (calOf x).ok = true →
    1 ≤ (s.at t).logFree →
    Runs (.setRtc t q (.load x)) s fun v => v.rtc.cal = calOf x ∧ v.rtc.valid = true ∧ v.out = answerTo q 0x40 0 [] := by
  intro t x q s a b c d e
  refine runs_finish (exec_setRtc ..) ?_
  have out : (s.at t).out = [] := at_out s t
  rw [← at_sys_state s t] at c
  generalize s.at t = u at a b c e out
  rw [serve_new a (by simp), gated_ok b c (by simp)]
  have k : u.entered.cfg = u.cfg := entered_same (p := .cfg) (by decide) u
  have g : ¬ u.entered.logFree = 0 := by unfold State.logFree at *; rw [k]; omega
  simp [d, g, answer_rtc, answer_out, plain, State.rtcLoad, State.logChange, entered_out, out, answerTo]

/-- SET_UTC_OFS completes (03 R80, R90). -/
theorem runs_setUtcOfs :
  ∀ (t o : Nat) (q : CfgReq) (s : State), (s.at t).takes q 0x41 → (s.at t).knows q → s.sys.state ∈ rtcStates → 1 ≤ (s.at t).logFree →
    Runs (.setUtcOfs t q o) s fun v => v.rtc.utc = toSigned 16 (o % 65536) ∧ v.out = answerTo q 0x41 0 [] := by
  intro t o q s a b c e
  refine runs_finish (exec_setUtcOfs ..) ?_
  have out : (s.at t).out = [] := at_out s t
  rw [← at_sys_state s t] at c
  generalize s.at t = u at a b c e out
  rw [serve_new a (by simp), gated_ok b c (by simp)]
  have k : u.entered.cfg = u.cfg := entered_same (p := .cfg) (by decide) u
  have g : ¬ u.entered.logFree = 0 := by unfold State.logFree at *; rw [k]; omega
  simp [g, answer_rtc, answer_out, plain, State.logChange, entered_out, out, answerTo]

/-- CLEAR_CHANGE_LOG completes (05 R150). -/
theorem runs_clearChangeLog :
  ∀ (t : Nat) (q : CfgReq) (s : State), (s.at t).takes q 0x51 → (s.at t).knows q → s.sys.state = .commission → s.cfg.exported = true →
    Runs (.clearChangeLog t q) s fun v => v.out = answerTo q 0x51 0 [] ∧ v.cfg.exported = false ∧ v.cfg.changes.length = 1 := by
  intro t q s a b c e
  refine runs_finish (exec_clearChangeLog ..) ?_
  have out : (s.at t).out = [] := at_out s t
  rw [← at_sys_state s t] at c
  rw [← at_cfg s t] at e
  generalize s.at t = u at a b c e out
  rw [serve_new a (by simp), gated_ok b (by simp [c]) (by simp)]
  have k : u.entered.cfg = u.cfg := entered_same (p := .cfg) (by decide) u
  simp [k, e, answer_out, answer_exported, answer_changes, plain, State.logChange, entered_out, out, answerTo]

/-- CLEAR_DOLDRUMS completes (04 R121). -/
theorem runs_clearDoldrums :
  ∀ (t : Nat) (q : CfgReq) (s : State), (s.at t).takes q 0x60 → (s.at t).knows q → s.sys.state = .doldrums → (s.at t).sealClass = .program →
    Runs (.clearDoldrums t q) s fun v => v.sys.state = .start ∧ v.start.stage = 0 ∧ v.start.warm = true := by
  intro t q s a b c d
  refine runs_finish (exec_clearDoldrums ..) ?_
  rw [← at_sys_state s t] at c
  generalize s.at t = u at a b c d
  have k : u.acts q 0x60 [.doldrums] true = true := acts_ok a b (by simp [c]) (fun _ => d)
  simp only [k, if_true, settle_sys, settle_start]
  exact ⟨State.beginStart_state _ _ _, State.beginStart_stage _ _ _, State.beginStart_warm _ _ _⟩

/-- FIELD_RESET completes (05 R135). -/
theorem runs_fieldReset :
  ∀ (t : Nat) (q : CfgReq) (c : Cert) (s : State), (s.at t).takes q 0x70 → s.sys.state = .commission →
    (s.at t).sealClass = .program → 1 ≤ (s.at t).logFree →
    Runs (.fieldReset t q c) s fun v => (s.at t).certOk c s.dbg.nonce = true →
      v.secrets.key = none ∧ v.secrets.pass = none ∧ v.secrets.run = none ∧ v.cfg.slots = s.cfg.slots := by
  intro t q c s a b e f
  refine runs_if (exec_fieldReset ..) fun d => ?_
  refine runs_finish (exec_fieldReset ..) ?_
  rw [← at_sys_state s t] at b
  rw [← at_dbg s t] at d
  rw [← at_cfg s t]
  generalize s.at t = u at a b d e f
  rw [serve_new a (by simp)]
  have x : u.wake.sys = u.sys := wake_same (p := .sys) (by decide) u
  have y : u.wake.cfg = u.cfg := wake_same (p := .cfg) (by decide) u
  have z : u.wake.sealClass = .program := by
    rw [← e]; unfold State.sealClass State.sealPattern
    rw [show u.wake.seals = u.seals from wake_same (p := .seals) (by decide) u, wake_secrets]
  have w : u.wake.certOk c u.wake.dbg.nonce = true := by
    rw [← d, show u.wake.dbg = u.dbg from wake_same (p := .dbg) (by decide) u]
    unfold State.certOk State.dev; rw [show u.wake.clk = u.clk from wake_same (p := .clk) (by decide) u]
  have j : ¬ u.wake.logFree = 0 := by unfold State.logFree at *; rw [y]; omega
  simp only [x, b, w, z, j]
  refine ⟨?_, ?_, ?_, ?_⟩
  · simp only [State.secrets, settle_nvm, answer_nvm]; rfl
  · simp only [State.secrets, settle_nvm, answer_nvm]; rfl
  · simp only [State.secrets, settle_nvm, answer_nvm]; rfl
  · simp [answer_slots, plain, State.logChange, State.putSecrets, y]

/-- LOCKOUT_END completes (05 R133). -/
theorem runs_lockoutEnd :
  ∀ (t : Nat) (s : State), s.sup.on = true → (s.at t).secrets.lock = 0 → 5 ≤ (s.at t).secrets.wrong →
    Runs (.lockoutEnd t) s fun v => v.secrets.wrong = 0 := by
  intro t s a b c
  refine runs_finish (exec_lockoutEnd ..) ?_
  rw [← at_sup s t] at a
  generalize s.at t = u at a b c
  simp only [a, b, c, and_self, if_true]
  simp [State.secrets, State.putSecrets, Secrets.store, Copies.put, Copies.get]

/-- HASH_REVERIFY completes (05 R157, 17 R483). -/
theorem runs_hashReverify :
  ∀ (t : Nat) (s : State), (s.at t).spRuns = true → s.sys.state ∈ rtcStates → (s.at t).hashBad = true → s.cfg.hashFail = false →
    Runs (.hashReverify t) s fun v => v.cfg.hashFail = true := by
  intro t s a b c d
  refine runs_finish (exec_hashReverify ..) ?_
  rw [← at_sys_state s t] at b
  rw [← at_cfg s t] at d
  generalize s.at t = u at a b c d
  have e : ∀ v : State, (v.evOpen 0x13 "HASH_FAIL" noSub 0).cfg = v.cfg := fun v =>
    (State.evOpen_moves _ _ _ _ (Moves.refl _ v) (List.Subset.refl _)).same .cfg (by decide)
  have f : ∀ v : State, (v.bgDone 3).settleWork.cfg = v.cfg := fun v =>
    Eq.trans ((State.settleWork_moves (Moves.refl _ _) (List.Subset.refl _)).same .cfg (by decide))
      ((State.bgDone_moves 3 (Moves.refl _ v) (List.Subset.refl _)).same .cfg (by decide))
  simp [a, b, c, d, e, f]

/-- READ completes (05 Table 5.4). -/
theorem runs_read :
  ∀ (t : Nat) (q : CfgReq) (l : List Nat) (s : State), (s.at t).takes q 0x01 → s.sys.state ≠ .start → l.length ≤ 350 →
    l.all regAddr = true →
    Runs (.read t q l) s fun v => v.out = answerTo q 0x01 0 ((s.at t).readRegs l).1 := by
  intro t q l s a b c d
  refine runs_finish (exec_read ..) ?_
  have out : ((s.at t).readRegs l).2.out = [] := by rw [readRegs_out]; exact at_out s t
  rw [← at_sys_state s t] at b
  generalize s.at t = u at a b out
  rw [serve_read a (by simp)]
  have e : ¬(350 < l.length ∨ (!l.all regAddr) = true) := by simp [d]; omega
  simp only [b, if_false, e, settle_out, answer_out, out]
  rfl

end Sys2Proof.Machine
end

