-- ==== Sys2Proof/Laws/RunsWork.lean ====
section
/-! SUPPORT. Where the commands of intake, fusion, cores, Vane, stacks, verdicts and the SLB complete. -/

namespace Sys2Proof.Machine

/-- TRIGGER_PULSE_END completes (03 R67). -/
theorem runs_triggerPulseEnd :
  ∀ (t n : Nat) (s : State), n < 8 → s.shaped → (getN s.clk.trigs n).pulse = true → (getN s.clk.trigs n).pulseEnd ≤ (s.at t).dev →
    Runs (.triggerPulseEnd t n) s fun v => v.out = [.trig n (getN s.clk.trigs n).pol] ∧ (getN v.clk.trigs n).pulse = false := by
  intro t n s a l b c
  refine runs_finish (exec_triggerPulseEnd ..) ?_
  have o : (s.at t).out = [] := at_out s t
  have l := l.clk
  simp only [Clk.shaped] at l
  rw [← at_clk_trigs s t] at l b c ⊢
  generalize s.at t = u at l b c o
  have l' : n < u.clk.trigs.length := by omega
  simp [a, b, c, State.send, o, State.onTrig, l']

/-- TAMPER_COVER_FITTED completes (02 R50). -/
theorem runs_tamperCoverFitted :
  ∀ (t : Nat) (s : State), Runs (.tamperCoverFitted t) s fun v => v.seals = { s.seals with open_ := false } := by
  intro t s
  refine runs_finish (exec_tamperCoverFitted ..) ?_
  simp

/-- BACKUP_EXHAUSTED completes (02 R38, 03 R89). -/
theorem runs_backupExhausted :
  ∀ (t : Nat) (s : State), s.sup.on = false →
    Runs (.backupExhausted t) s fun v => v.ret.log = [] ∧ v.ret.held = false ∧ v.rtc.valid = false ∧ v.sup.backup = 0 := by
  intro t s a
  refine runs_finish (exec_backupExhausted ..) ?_
  rw [← at_sup s t] at a
  generalize s.at t = u at a
  simp only [State.when, a, Bool.not_false, if_true]
  exact ⟨rfl, rfl, rfl, rfl⟩

/-- FRAME_START completes (06 R164, R66). -/
theorem runs_frameStart :
  ∀ (t n : Nat) (s : State), (s.at t).streamOn n = true → s.shaped → (s.strm n).intake = none → (s.strm n).slotFor.isSome = true →
    Runs (.frameStart t n) s fun v => (v.strm n).intake.map (·.stamp) = some (s.at t).dev ∧ (v.strm n).seq = (s.strm n).seq := by
  intro t n s a l b c
  refine runs_finish (exec_frameStart ..) ?_
  have l : (s.at t).fiu.streams.length = 16 := by rw [at_fiu]; exact l.fiu
  have e : s.strm n = (s.at t).strm n := by unfold State.strm; rw [at_fiu]
  rw [e] at b c ⊢
  generalize s.at t = u at a l b c
  have hn : n < 16 := by
    simp only [State.streamOn, Bool.and_eq_true, decide_eq_true_eq] at a; exact a.1.1.2
  have d : u.dev = (u.onStack 0 Stack.awake).dev := rfl
  have f : ∀ (g : Stream → Stream) (v : State), v.fiu = u.fiu → (v.onStream n g).strm n = g (u.strm n) := by
    intro g v hv; simp [State.onStream, State.strm, hv, l, hn]
  have key : ∀ (i : Intake) (v : State), v.fiu = u.fiu → i.stamp = u.dev →
      let w := v.onStream n fun x => { x with intake := some i }
      let z := if (w.strm n).slotFor.isNone = true then w.frameDrop n else w
      ((settle z).strm n).intake.map (·.stamp) = some u.dev ∧ ((settle z).strm n).seq = (u.strm n).seq := by
    intro i v hv hi w z
    have h : w.strm n = { u.strm n with intake := some i } := f _ v hv
    have k : (w.strm n).slotFor.isNone = false := by
      rw [h]
      have : Stream.slotFor { u.strm n with intake := some i } = (u.strm n).slotFor := rfl
      rw [this]; cases q : (u.strm n).slotFor <;> simp_all
    have y : settle z = settle w := by simp only [z, k]; rfl
    have x : (settle w).strm n = w.strm n := rfl
    rw [y, x, h]; simp [hi]
  simp only [a, b, Option.isSome_none, Bool.not_true, Bool.false_eq_true, if_false]
  exact key _ _ rfl rfl

/-- FRAME_END completes (06 R164, R165). -/
theorem runs_frameEnd :
  ∀ (t n k : Nat) (f : FrameIn) (r : StreamRec) (i : Intake) (s : State), (s.at t).streamOn n = true → s.img.stream n = some r →
    (s.strm n).intake = some i → (s.strm n).slotFor = some k → f.error = false → f.payload.length = r.frameBytes →
    (s.strm n).cvuLost = false → i.lost = false → (s.stk 0).fault = false →
    exec (.frameEnd t n f) s = .next (settle ((s.at t).sealFrame n k r i f).settleWork) := by
  intro t n k f r i s a b c d e g h j m
  have x : s.strm n = (s.at t).strm n := by unfold State.strm; rw [at_fiu]
  have y : s.stk 0 = (s.at t).stk 0 := by unfold State.stk; rw [at_beu]
  have z : s.img = (s.at t).img := by unfold State.img; rw [at_cfg]
  rw [x] at c d h
  rw [y] at m
  rw [z] at b
  rw [exec_frameEnd]; unfold execFrameEnd finish
  generalize s.at t = u at a b c d h m
  simp [b, c, d, h, m, a, e, g, j]

/-- CHECK_FINAL_STATUS completes (06 R170). -/
theorem runs_checkFinalStatus :
  ∀ (t n : Nat) (r : StreamRec) (p : PendFinal) (l : List PendFinal) (s : State), s.img.stream n = some r → (s.strm n).pend = p :: l →
    (s.at t).streamOn n = true → p.due r ≤ (s.at t).dev →
    exec (.checkFinalStatus t n) s = .next (settle ((s.at t).finalStatus n r p).settleWork) := by
  intro t n r p l s b c a d
  have x : s.strm n = (s.at t).strm n := by unfold State.strm; rw [at_fiu]
  have z : s.img = (s.at t).img := by unfold State.img; rw [at_cfg]
  rw [x] at c
  rw [z] at b
  rw [exec_checkFinalStatus]; unfold execCheckFinalStatus finish
  generalize s.at t = u at a b c d
  simp [b, c, a, d]

/-- STREAM_STALL_EXPIRY completes (06 R174, R178). -/
theorem runs_streamStallExpiry :
  ∀ (t n : Nat) (r : StreamRec) (s : State), s.img.stream n = some r → (s.at t).streamOn n = true → (s.strm n).state ≠ .lost →
    (s.strm n).sealAt + r.stall * r.period ≤ (s.at t).dev →
    exec (.streamStallExpiry t n) s = .next (settle ((s.at t).loseStream n)) := by
  intro t n r s b a c d
  have x : s.strm n = (s.at t).strm n := by unfold State.strm; rw [at_fiu]
  have z : s.img = (s.at t).img := by unfold State.img; rw [at_cfg]
  rw [x] at c d
  rw [z] at b
  rw [exec_streamStallExpiry]; unfold execStreamStallExpiry finish
  generalize s.at t = u at a b c d
  simp [b, c, a, d]

/-- FRAME_DELIVERY_COMPLETE completes (06 R169, 16 R457). -/
theorem runs_frameDeliveryComplete :
  ∀ (t n seq : Nat) (l : List Nat) (b : BufDesc) (r : StreamRec) (s : State), s.img.stream n = some r → (s.strm n).deliver = seq :: l →
    (s.at t).streamOn n = true → s.shaped → (s.at t).linkUp = true → (getN s.hq.rings n).en = true →
    (getN s.hq.rings n).head ≠ (getN s.hq.rings n).tail → r.frameBytes + 32 ≤ b.length →
    Runs (.frameDeliveryComplete t n b) s fun v => (v.strm n).deliver = l.filter (· != seq) ∧ (v.strm n).skip = (s.strm n).skip := by
  intro t n seq l b r s c d a sh e f g h
  refine runs_finish (exec_frameDeliveryComplete ..) ?_
  have sh : (s.at t).fiu.streams.length = 16 := by rw [at_fiu]; exact sh.fiu
  have x : s.strm n = (s.at t).strm n := by unfold State.strm; rw [at_fiu]
  have z : s.img = (s.at t).img := by unfold State.img; rw [at_cfg]
  rw [x] at d ⊢
  rw [z] at c
  rw [← at_hq s t] at f g
  generalize s.at t = u at a c d sh e f g
  have hn : n < 16 := by
    simp only [State.streamOn, Bool.and_eq_true, decide_eq_true_eq] at a; exact a.1.1.2
  have k : ¬ b.length < r.frameBytes + 32 := by omega
  have q : ∀ v : State, v.fiu = u.fiu → ((v.deliveryEnd n seq).strm n).deliver = (u.strm n).deliver.filter (· != seq) ∧
      ((v.deliveryEnd n seq).strm n).skip = (u.strm n).skip := by
    intro v hv
    have h : ∀ (w : State) (c : Bool), ((if c then w else w.jClose jFrame n seq).strm n) = w.strm n := by intro w c; cases c <;> rfl
    unfold State.deliveryEnd
    simp only [h]
    simp [State.onSlot, State.onStream, State.strm, hv, sh, hn]
  have m : ∀ (v : State) (y : Nat) (z : Bool), (v.deliveryDone n seq y z).fiu = v.fiu := fun v y z =>
    (State.deliveryDone_moves n seq y z (Moves.refl _ v) (List.Subset.refl _)).same .fiu (by decide)
  have w : ∀ v : State, v.fiu = u.fiu → ((settle (v.deliveryEnd n seq)).strm n).deliver = l.filter (· != seq) ∧
      ((settle (v.deliveryEnd n seq)).strm n).skip = (u.strm n).skip := by
    intro v hv
    have r := q v hv
    refine ⟨?_, r.2⟩
    rw [show (settle (v.deliveryEnd n seq)).strm n = (v.deliveryEnd n seq).strm n from rfl, r.1, d]
    simp
  have e' : ¬((!u.linkUp) = true ∨ (!(getN u.hq.rings n).en) = true ∨ (getN u.hq.rings n).head = (getN u.hq.rings n).tail) := by
    simp [e, f, g]
  simp only [c, d, a, Bool.not_true, Bool.false_eq_true, if_false, e', k]
  exact w _ (m _ _ _)

/-- EGO_TICK completes (07 R187, R188, R191). -/
theorem runs_egoTick :
  ∀ (t : Nat) (e : EgoIn) (s : State), (s.at t).fguOn = true → s.fgu.lastTick < e.tick → (e.tick + 2) * ms ≤ (s.at t).dev →
    exec (.egoTick t e) s = .next (settle ((((((s.at t).tickCount e).each (newCauses s.fgu (((s.at t).tickCount e).egoCauses s.fgu e))
      State.discontinuity).onFgu fun g => { g with causes := ((((s.at t).tickCount e).egoCauses s.fgu e).map (2 ^ ·)).sum }).tickRecord
        s.fgu e (!(newCauses s.fgu (((s.at t).tickCount e).egoCauses s.fgu e)).isEmpty)).settleWork)) := by
  intro t e s a b c
  rw [← at_fgu s t] at b ⊢
  rw [exec_egoTick]; unfold execEgoTick finish
  generalize s.at t = u at a b c
  simp only [a, b, c, and_self, if_true]

/-- EPOCH_OPEN completes (07 R194). -/
theorem runs_epochOpen :
  ∀ (t x : Nat) (s : State), (s.at t).fguOn = true → s.fgu.openAt = none → s.fgu.firstEntry = some x → x ≤ (s.at t).dev →
    s.fgu.prevOpen = none →
    exec (.epochOpen t) s = .next (settle ((((s.at t).onFgu fun g => { g with openAt := some (s.at t).dev }).tryClose).settleWork)) := by
  intro t x s a b c d e
  rw [← at_fgu s t] at b c e
  rw [exec_epochOpen]; unfold execEpochOpen finish
  generalize s.at t = u at a b c d e
  simp [a, b, c, d, e]

/-- EPOCH_WAIT_EXPIRY completes (07 R194, R195). -/
theorem runs_epochWaitExpiry :
  ∀ (t : Nat) (s : State), (s.at t).fguOn = true → (s.at t).epochDue = true →
    exec (.epochWaitExpiry t) s = .next (settle (s.at t).closeEpoch.settleWork) := by
  intro t s a b
  rw [exec_epochWaitExpiry]; unfold execEpochWaitExpiry finish
  generalize s.at t = u at a b
  simp [a, b]

/-- GUARD_JOB_START completes (07 R197, R200). -/
theorem runs_guardJobStart :
  ∀ (t w : Nat) (e : Epoch) (s : State), (s.at t).fguOn = true → s.fgu.waiting = some w → s.fgu.job = none →
    (s.at t).psm.asleep = false → (s.at t).epochOf w = some e →
    let u := (s.at t).commitMemory.zeroMemory
    let j := u.issueJob .guard 0 w 0 (u.img.layers.map fun r => u.layerDesc e r) (u.guardAgreed e)
    exec (.guardJobStart t) s = .next (settle ((j.2.onFgu fun g => { g with waiting := none, job := some (w, j.1) }).settleWork)) := by
  intro t w e s a b c d f
  rw [← at_fgu s t] at b c
  rw [exec_guardJobStart]; unfold execGuardJobStart finish
  generalize s.at t = u at a b c d f
  simp [a, b, c, d, f, State.with]

/-- DESCRIPTOR_DISPATCH completes (08 R225). -/
theorem runs_descriptorDispatch :
  ∀ (t n j i p : Nat) (s : State), n < 16 → (s.at t).dieRuns = true → (s.at t).coreReady n = true → (s.acore n).state = .admitted →
    (s.at t).nextFor n = some (j, i, p) →
    exec (.descriptorDispatch t n) s = .next (settle ((s.at t).takePass n j i p).settleWork) := by
  intro t n j i p s a b c d e
  have x : s.acore n = (s.at t).acore n := by unfold State.acore; rw [at_aud]
  rw [x] at d
  rw [exec_descriptorDispatch]; unfold execDescriptorDispatch finish
  generalize s.at t = u at b c d e
  simp [a, b, c, d, e, State.with]

/-- DESCRIPTOR_COMPLETE completes (08 R227, R237). -/
theorem runs_descriptorComplete :
  ∀ (t n : Nat) (hw : CoreHw) (r : Run) (s : State), (s.at t).running n = some r →
    exec (.descriptorComplete t n hw) s = .next (settle (
      let u := (((s.at t).coreErrors n r hw).onCore n fun c => { c with ecc := satAdd 32 c.ecc hw.corrected }).onFgu
        fun g => { g with copyEcc := hw.copyEcc }
      let v := if r.pass = 3 then u.endCopy n r hw else u.endPass n r hw
      let w := if hw.uncorrectable then v.toBist n 5 false else v
      (((w.latency 0x07 n (w.now - r.start - r.halt)).coreFree n).settleWork.commitMemory).onFgu fun g => { g with copyEcc := false })) := by
  intro t n hw r s a
  rw [exec_descriptorComplete]; unfold execDescriptorComplete finish
  generalize s.at t = u at a
  simp [a, State.with]

/-- DESCRIPTOR_HANG completes (08 R236). -/
theorem runs_descriptorHang :
  ∀ (t n : Nat) (r : Run) (s : State), (s.at t).running n = some r → r.start + r.halt + (s.at t).watchdogOf n r < (s.at t).now →
    exec (.descriptorHang t n) s = .next (settle (((((s.at t).hangPass n r).toBist n 4 false).coreFree n).settleWork)) := by
  intro t n r s a b
  rw [exec_descriptorHang]; unfold execDescriptorHang finish
  generalize s.at t = u at a b
  simp [a, State.with, b]

/-- CORE_BIST_COMPLETE completes (08 R238, R240). -/
theorem runs_coreBistComplete :
  ∀ (t n : Nat) (s : State), s.shaped → n < 16 → (s.at t).dieRuns = true → (s.acore n).state = .bist →
    ∃ u : State, exec (.coreBistComplete t n true) s = .next (settle u.settleWork) ∧ (u.acore n).prob = 0 ∧
      (u.acore n).state = if (s.acore n).readmit then .probation else .admitted := by
  intro t n s l h a b
  have x : s.acore n = (s.at t).acore n := by unfold State.acore; rw [at_aud]
  have l : (s.at t).aud.cores.length = 16 := by rw [at_aud]; exact l.aud
  rw [x] at b ⊢
  rw [exec_coreBistComplete]; unfold execCoreBistComplete finish
  generalize s.at t = u at a b l
  have z : ∀ v : State, (v.zeroLocal n).aud = v.aud := fun v =>
    (State.zeroLocal_moves n (Moves.refl _ v) (List.Subset.refl _)).same .aud (by decide)
  simp only [a, b, and_self, if_true, Bool.not_true, Bool.false_eq_true, if_false]
  refine ⟨_, rfl, ?_, ?_⟩ <;> split <;> simp [State.onCore, State.acore, z, l, h] <;> rfl

/-- ROLLING_SELFTEST_SEGMENT completes (08 R239). -/
theorem runs_rollingSelftestSegment :
  ∀ (t n : Nat) (s : State), s.shaped → n < 16 → (s.at t).dieRuns = true → (s.at t).coreReady n = true → s.sys.state.permits = true →
    (s.acore n).state = .admitted → (s.at t).vpReady = false →
    Runs (.rollingSelftestSegment t n .started) s fun v => (v.acore n).state = .testing := by
  intro t n s l h a b c d e
  refine runs_finish (exec_rollingSelftestSegment ..) ?_
  have x : s.acore n = (s.at t).acore n := by unfold State.acore; rw [at_aud]
  have l : (s.at t).aud.cores.length = 16 := by rw [at_aud]; exact l.aud
  rw [x] at d
  rw [← at_sys_state s t] at c
  generalize s.at t = u at a b c d e l
  simp only [h, a, b, c, d, e]
  simp [State.onCore, State.acore, l, h]

/-- VANE_SELFTEST_COMPLETE completes (10 R282). -/
theorem runs_vaneSelftestComplete :
  ∀ (t k : Nat) (slot : Option Nat) (laneOk slotOk : Bool) (s : State), s.vane.selftest = some (k, slot) →
    ∃ u : State, exec (.vaneSelftestComplete t laneOk slotOk) s = .next (settle u.settleWork) ∧
      u.vane.lanes = modN s.vane.lanes k (Lane.tested (s.at t).now laneOk slotOk) := by
  intro t k slot a b s c
  rw [← at_vane s t] at c ⊢
  rw [exec_vaneSelftestComplete]; unfold execVaneSelftestComplete finish
  generalize s.at t = u at c
  simp only [State.with, c]
  exact ⟨_, rfl, rfl⟩

/-- SAFE_STATE_JOB_ISSUE completes (10 R271). -/
theorem runs_safeStateJobIssue :
  ∀ (t cls : Nat) (r : ClassRec) (s : State), (s.at t).dieRuns = true → s.sys.state.permits = true → s.img.cls cls = some r →
    r.safeState = true →
    exec (.safeStateJobIssue t cls) s = .next (settle ((((s.at t).issueSafe cls).wake).settleWork)) := by
  intro t cls r s a b c d
  have z : s.img = (s.at t).img := by unfold State.img; rw [at_cfg]
  rw [z] at c
  rw [← at_sys_state s t] at b
  rw [exec_safeStateJobIssue]; unfold execSafeStateJobIssue finish
  generalize s.at t = u at a b c
  simp [a, b, c, d]

/-- SAFE_STATE_DEADLINE completes (10 R283). -/
theorem runs_safeStateDeadline :
  ∀ (t cls i : Nat) (r : ClassRec) (s : State), (s.aud.orig[cls]?).join = some i → s.img.cls cls = some r →
    i + r.deadlineUs * 1000 ≤ (s.at t).now →
    Runs (.safeStateDeadline t cls) s fun v => v.sys.pendTrips = s.sys.pendTrips ++ [{ src := 0x0A, sto := false }] := by
  intro t cls i r s a b c
  refine runs_finish (exec_safeStateDeadline ..) ?_
  have z : s.img = (s.at t).img := by unfold State.img; rw [at_cfg]
  rw [z] at b
  rw [← at_aud s t] at a
  rw [← at_sys_pendTrips s t]
  generalize s.at t = u at a b c
  simp [a, b, State.with, State.past, c, State.spTrip]

/-- BEU_CMD_SUBMIT completes (11 R299). -/
theorem runs_beuCmdSubmit :
  ∀ (t k : Nat) (bg : Bool) (b : Bytes) (s : State), s.shaped → (s.at t).beuOn k = true → (s.stk k).fault = false →
    ((s.stk k).ring bg).queue.length < 255 →
    Runs (.beuCmdSubmit t k bg b) s fun v => ((v.stk k).ring bg).queue = ((s.stk k).ring bg).queue ++ [BCmd.parse (padTo 64 b)] := by
  intro t k bg b s l a c d
  refine runs_finish (exec_beuCmdSubmit ..) ?_
  have y : s.stk k = (s.at t).stk k := by unfold State.stk; rw [at_beu]
  have l : (s.at t).beu.stks.length = 2 := by rw [at_beu]; exact l.beu
  rw [y] at c d ⊢
  generalize s.at t = u at a c d l
  have hk : k < 2 := by simp only [State.beuOn, Bool.and_eq_true, decide_eq_true_eq] at a; exact a.1.1.2
  have p : ∀ (x : Nat) (b : Bytes) (v : State), (v.poke x b).beu = v.beu := fun x b v =>
    (State.poke_moves (Moves.refl _ v) (List.Subset.refl _)).same .beu (by decide)
  have q : ∀ (i o g : Nat) (b : Bytes) (v : State), (v.jOpen i o g b).beu = v.beu := fun i o g b v =>
    (State.jOpen_moves i o g b (Moves.refl _ v) (List.Subset.refl _)).same .beu (by decide)
  have d' : ¬ 255 ≤ ((u.stk k).ring bg).queue.length := by omega
  simp only [State.when, a, if_true, State.beuSubmit, d', if_false]
  rw [if_neg]
  · cases bg <;> simp [State.onStack, State.stk, p, q, l, hk, Stack.onRing, Stack.ring, Stack.awake]
  · cases bg <;> simpa [State.onStack, State.stk, p, q, l, hk, Stack.onRing, Stack.ring, Stack.awake] using c

/-- BEU_CMD_START completes (11 R300). -/
theorem runs_beuCmdStart :
  ∀ (t k : Nat) (c : BCmd) (l : List BCmd) (s : State), s.shaped → (s.at t).beuOn k = true → (s.stk k).fault = false →
    (s.stk k).selfRefresh = false → ((s.stk k).ring false).queue = c :: l → (s.at t).headAct k false = .start →
    Runs (.beuCmdStart t k false) s fun v =>
      ((v.stk k).ring false).queue = l ∧ (v.stk k).running.length = (s.stk k).running.length + 1 := by
  intro t k c l s sh a d e f g
  refine runs_finish (exec_beuCmdStart ..) ?_
  have y : s.stk k = (s.at t).stk k := by unfold State.stk; rw [at_beu]
  have sh : (s.at t).beu.stks.length = 2 := by rw [at_beu]; exact sh.beu
  rw [y] at d e f ⊢
  generalize s.at t = u at a d e f g sh
  have hk : k < 2 := by simp only [State.beuOn, Bool.and_eq_true, decide_eq_true_eq] at a; exact a.1.1.2
  simp only [a, d, e, f, g]
  simp [State.takeHead, State.onStack, State.stk, sh, hk, Stack.onRing, Stack.ring]
  simpa [Stack.ring, State.stk] using congrArg List.tail f

/-- BEU_CMD_COMPLETE completes (11 R303). -/
theorem runs_beuCmdComplete :
  ∀ (t k c n : Nat) (r : BRun) (s : State), s.shaped → (s.at t).beuOn k = true → (s.stk k).fault = false →
    (s.stk k).running.find? (fun r => r.cmd.channel == c) = some r → (s.stk k).uncorrAt.length ≤ 64 →
    exec (.beuCmdComplete t k { channel := c, corrected := n }) s =
      .next (settle (((s.at t).onStack k fun x => { x with eccCorr := satAdd 32 x.eccCorr n }).beuFinish k r)) := by
  intro t k c n r s sh a d e f
  have y : s.stk k = (s.at t).stk k := by unfold State.stk; rw [at_beu]
  have sh : (s.at t).beu.stks.length = 2 := by rw [at_beu]; exact sh.beu
  rw [y] at d e f
  rw [exec_beuCmdComplete]; unfold execBeuCmdComplete finish
  generalize s.at t = u at a d e f sh
  have hk : k < 2 := by simp only [State.beuOn, Bool.and_eq_true, decide_eq_true_eq] at a; exact a.1.1.2
  have g : ∀ x : Stack → Stack, (u.onStack k x).stk k = x (u.stk k) := by intro x; simp [State.onStack, State.stk, sh, hk]
  have h : ¬ 64 < (u.stk k).uncorrAt.length := by omega
  simp [e, a, State.readErrors, State.each, g, h, d]

/-- BEU_FENCE_COMPLETE completes (11 R301). -/
theorem runs_beuFenceComplete :
  ∀ (t k : Nat) (bg : Bool) (c : BCmd) (s : State), (s.at t).beuOn k = true → ((s.stk k).ring bg).fence = some c →
    (s.stk k).running.any (fun r => r.bg == bg) = false →
    exec (.beuFenceComplete t k bg) s = .next (settle
      (((s.at t).onStack k fun x => x.onRing bg fun r => { r with fence := none }).beuEnd k bg (s.stk k).hot c 0 {}).settleWork) := by
  intro t k bg c s a b d
  have y : s.stk k = (s.at t).stk k := by unfold State.stk; rw [at_beu]
  rw [y] at b d ⊢
  rw [exec_beuFenceComplete]; unfold execBeuFenceComplete finish
  generalize s.at t = u at a b d
  dsimp only
  rw [b]
  simp only [a, d]
  simp

/-- BEU_SWITCH_GO completes (11 R304). -/
theorem runs_beuSwitchGo :
  ∀ (t k w : Nat) (s : State), s.shaped → (s.at t).beuOn k = true → (s.stk k).swPhase = 0 → s.sys.state = .start → bit w 8 = true →
    bit w 4 = false →
    Runs (.beuSwitchGo t k w) s fun v =>
      (v.stk k).swPhase = 1 ∧ (v.stk k).swChannel = bits w 0 4 ∧ (v.stk k).swProc = false := by
  intro t k w s sh a b c d e
  refine runs_finish (exec_beuSwitchGo ..) ?_
  have y : s.stk k = (s.at t).stk k := by unfold State.stk; rw [at_beu]
  have sh : (s.at t).beu.stks.length = 2 := by rw [at_beu]; exact sh.beu
  rw [y] at b
  rw [← at_sys_state s t] at c
  generalize s.at t = u at a b c sh
  have hk : k < 2 := by simp only [State.beuOn, Bool.and_eq_true, decide_eq_true_eq] at a; exact a.1.1.2
  simp only [a, b, c, d, e]
  simp [State.onStack, State.stk, sh, hk]

/-- BEU_SWITCH_DRAIN_COMPLETE completes (11 R304). -/
theorem runs_beuSwitchDrainComplete :
  ∀ (t k : Nat) (s : State), s.shaped → (s.at t).beuOn k = true → (s.stk k).swPhase = 1 →
    (s.stk k).running.any (fun r => r.cmd.channel == (s.stk k).swChannel) = false →
    Runs (.beuSwitchDrainComplete t k) s fun v => (v.stk k).swPhase = 2 := by
  intro t k s sh a b c
  refine runs_finish (exec_beuSwitchDrainComplete ..) ?_
  have y : s.stk k = (s.at t).stk k := by unfold State.stk; rw [at_beu]
  have sh : (s.at t).beu.stks.length = 2 := by rw [at_beu]; exact sh.beu
  rw [y] at b c
  generalize s.at t = u at a b c sh
  have hk : k < 2 := by simp only [State.beuOn, Bool.and_eq_true, decide_eq_true_eq] at a; exact a.1.1.2
  have q : (u.beuOn k && (u.stk k).swPhase == 1 && !((u.stk k).running.any fun r => r.cmd.channel == (u.stk k).swChannel)) = true := by
    rw [a, b, c]; rfl
  simp only [State.when, q]
  simp [State.onStack, State.stk, sh, hk]

/-- BEU_SWITCH_FENCE_COMPLETE completes (11 R304, R305). -/
theorem runs_beuSwitchFenceComplete :
  ∀ (t k : Nat) (s : State), s.shaped → (s.at t).beuOn k = true → (s.stk k).swPhase = 2 →
    Runs (.beuSwitchFenceComplete t k) s fun v =>
      (v.stk k).swPhase = 3 ∧ (v.stk k).proc = setN (s.stk k).proc (s.stk k).swChannel (s.stk k).swProc := by
  intro t k s sh a b
  refine runs_finish (exec_beuSwitchFenceComplete ..) ?_
  have y : s.stk k = (s.at t).stk k := by unfold State.stk; rw [at_beu]
  have sh : (s.at t).beu.stks.length = 2 := by rw [at_beu]; exact sh.beu
  rw [y] at b ⊢
  generalize s.at t = u at a b sh
  have hk : k < 2 := by simp only [State.beuOn, Bool.and_eq_true, decide_eq_true_eq] at a; exact a.1.1.2
  have m : ∀ (x y : Nat), (u.wipe x y).beu = u.beu := fun x y => (State.wipe_moves (Moves.refl _ u) (List.Subset.refl _)).same .beu (by decide)
  simp only [a, b, and_self, if_true]
  split <;> simp [State.onStack, State.stk, sh, hk, m, Stack.setMode]

/-- BEU_SWITCH_COMPLETE completes (11 R304). -/
theorem runs_beuSwitchComplete :
  ∀ (t k : Nat) (s : State), s.shaped → (s.at t).beuOn k = true → (s.stk k).swPhase = 3 →
    Runs (.beuSwitchComplete t k) s fun v => (v.stk k).swPhase = 0 ∧ (v.stk k).swDone = true := by
  intro t k s sh a b
  refine runs_finish (exec_beuSwitchComplete ..) ?_
  have y : s.stk k = (s.at t).stk k := by unfold State.stk; rw [at_beu]
  have sh : (s.at t).beu.stks.length = 2 := by rw [at_beu]; exact sh.beu
  rw [y] at b
  generalize s.at t = u at a b sh
  have hk : k < 2 := by simp only [State.beuOn, Bool.and_eq_true, decide_eq_true_eq] at a; exact a.1.1.2
  have q : (u.beuOn k && (u.stk k).swPhase == 3) = true := by rw [a, b]; rfl
  simp only [State.when, q]
  simp [State.onStack, State.stk, sh, hk]

/-- SCRUB_STEP completes (11 R307). -/
theorem runs_scrubStep :
  ∀ (t k n o : Nat) (s : State), (s.at t).scrubOn k = true →
    (s.stk k).nextBlock (max (s.stk k).scrubPtr (stackBase k) - stackBase k) = some o →
    exec (.scrubStep t k n []) s = .next (settle ((s.at t).scrubBlock k n [] o)) := by
  intro t k n o s a b
  have y : s.stk k = (s.at t).stk k := by unfold State.stk; rw [at_beu]
  rw [y] at b
  rw [exec_scrubStep]; unfold execScrubStep finish
  generalize s.at t = u at a b
  simp only [State.when, a, if_true, b]
  rfl

/-- STACK_TEMP_CHANGE completes (11 R294). -/
theorem runs_stackTempChange :
  ∀ (t k c : Nat) (s : State), s.shaped → s.sup.on = true → k < 2 → c ≤ 105 →
    Runs (.stackTempChange t k c) s fun v =>
      (v.stk k).temp = c ∧ (v.stk k).hot = ((s.stk k).hot || (decide (95 < c) && !(s.stk k).selfRefresh)) := by
  intro t k c s sh a hk b
  refine runs_finish (exec_stackTempChange ..) ?_
  have y : s.stk k = (s.at t).stk k := by unfold State.stk; rw [at_beu]
  have sh : (s.at t).beu.stks.length = 2 := by rw [at_beu]; exact sh.beu
  rw [y]
  rw [← at_sup s t] at a
  generalize s.at t = u at a sh
  have d : ¬ 105 < c := by omega
  have e : min c 255 = c := by omega
  simp only [a, hk, and_self, if_true, d, if_false]
  simp [State.onStack, State.stk, sh, hk, e]

/-- STACK_COOL_EXPIRY completes (11 R294). -/
theorem runs_stackCoolExpiry :
  ∀ (t k i : Nat) (s : State), s.shaped → k < 2 → (s.stk k).coolAt = some i → i + 10 * ms ≤ (s.at t).now →
    Runs (.stackCoolExpiry t k) s fun v => (v.stk k).hot = false := by
  intro t k i s sh hk a b
  refine runs_finish (exec_stackCoolExpiry ..) ?_
  have y : s.stk k = (s.at t).stk k := by unfold State.stk; rw [at_beu]
  have sh : (s.at t).beu.stks.length = 2 := by rw [at_beu]; exact sh.beu
  rw [y] at a
  generalize s.at t = u at a b sh
  have q : u.pastOpt (u.stk k).coolAt (10 * ms) = true := by rw [a]; simp [State.pastOpt, State.past, b]
  simp only [State.when, q]
  simp [State.onStack, State.stk, sh, hk]

/-- STACK_TRAINING_LOSS completes (11 R314). -/
theorem runs_stackTrainingLoss :
  ∀ (t k : Nat) (s : State), (s.at t).beuOn k = true → (s.stk k).swept = true →
    exec (.stackTrainingLoss t k) s = .next (settle ((s.at t).stackFault k)) := by
  intro t k s a b
  have y : s.stk k = (s.at t).stk k := by unfold State.stk; rw [at_beu]
  rw [y] at b
  rw [exec_stackTrainingLoss]; unfold execStackTrainingLoss finish
  generalize s.at t = u at a b
  simp [State.when, a, b]

/-- SQ_TAIL_DOORBELL completes (16 R452, R455). -/
theorem runs_sqTailDoorbell :
  ∀ (t q v : Nat) (s u : State), s.at t = u → u.regsUp = true → q < 64 → (u.hqueue q).en = true → (u.hqueue q).resetting = false →
    v % 4096 < 2 ^ (u.hqueue q).sqLog →
    exec (.sqTailDoorbell t q v) s = .next (settle (u.wake.onQ q fun h => { h with sqTail := v % 4096 })) := by
  intro t q v s u e a b c d f
  rw [exec_sqTailDoorbell]; unfold execSqTailDoorbell finish
  rw [e]
  simp [a, b, c, d, Nat.not_le.mpr f]

/-- SUBMISSION_CONSUME completes (12 R329, R330). -/
theorem runs_submissionConsume :
  ∀ (t q : Nat) (desc : Bytes) (c : ChanRec) (b : Bytes) (s u : State), s.at t = u → desc.length = 64 → u.boundChan q = some c →
    u.canTake q = true → descFormOk desc = true → u.recordInside c.ch desc = true → u.peekN (bar2Addr (leAt desc 4 4)) 2560 = b →
    leAt b 4 4 = (u.vq q).next → leAt b 8 2 = c.ch → u.sys.state ≠ .doldrums →
    exec (.submissionConsume t q desc) s = .next (settle ((u.takeSub q).accept330 q c b (u.hqueue q).sqHead).settleWork) := by
  intro t q desc c b s u e l a d f g h i j k
  rw [exec_submissionConsume]; unfold execSubmissionConsume finish
  rw [e]
  have w : padTo 64 desc = desc := by unfold padTo; rw [← l]; simp
  have x : ((u.takeSub q).vq q).next = (u.vq q).next := rfl
  have y : (u.takeSub q).sys.state = u.sys.state := rfl
  simp only [a, d, w, f, g, h, x, i, j, y, k]
  simp

/-- WITNESS_LOCK_EFFECTIVE completes (16 R460). -/
theorem runs_witnessLockEffective :
  ∀ (t q : Nat) (r : Result) (s u : State), s.at t = u → (u.vrd.results.find? fun r => r.q == q && r.state == .read) = some r →
    exec (.witnessLockEffective t q) s = .next (settle (u.onResult q r.seq fun r => { r with state := .locked })) := by
  intro t q r s u e a
  rw [exec_witnessLockEffective]; unfold execWitnessLockEffective finish
  rw [e]
  simp only [a, State.with]

/-- RESULT_COMMIT completes (12 R330, R331, R332). -/
theorem runs_resultCommit :
  ∀ (t q : Nat) (r : Result) (s u : State), s.at t = u → (u.vrd.results.find? fun r => r.q == q && r.state == .locked) = some r →
    r.reject = none → u.crcFail r = none → (r.ranges.any fun x => u.poisoned x.2.1 x.2.2.1) = false →
    let k := { r with state := .committed, commitAt := u.now }
    let v := u.onResult q r.seq fun _ => k
    exec (.resultCommit t q) s = .next (settle (if (v.verdictNow k).isSome then v else v.startAudit k).settleWork) := by
  intro t q r s u e a b c d
  rw [exec_resultCommit]; unfold execResultCommit finish
  rw [e]
  simp only [a, State.with, b, c, d]
  simp

/-- AGE_DEADLINE_EXPIRY completes (12 R337, R338). -/
theorem runs_ageDeadlineExpiry :
  ∀ (t q seq : Nat) (r : Result) (s u : State), s.at t = u → u.resultOf q seq = some r → r.state = .committed → r.deadline ≤ u.dev →
    exec (.ageDeadlineExpiry t q seq) s = .next (settle (u.evalOne q seq).settleWork) := by
  intro t q seq r s u e a b c
  rw [exec_ageDeadlineExpiry]; unfold execAgeDeadlineExpiry finish
  rw [e]
  simp only [a, b, c, and_self, if_true]

/-- VERDICT_PATH_WATCHDOG completes (16 R462). -/
theorem runs_verdictPathWatchdog :
  ∀ (t q seq : Nat) (r : Result) (s u : State), s.at t = u → u.resultOf q seq = some r → r.state = .committed → r.deadline + ms ≤ u.dev →
    exec (.verdictPathWatchdog t q seq) s = .next (settle
      ((((u.issue r vVoid 0x30).onTsu fun u => { u with vpath := satInc u.vpath, events := u.events ||| 2 }).chFault r.ch 10).settleWork)) := by
  intro t q seq r s u e a b c
  rw [exec_verdictPathWatchdog]; unfold execVerdictPathWatchdog finish
  rw [e]
  simp only [a, b, c, and_self, if_true]

/-- VRD_QUERY completes (12 R346, R347). -/
theorem runs_vrdQuery :
  ∀ (t q seq : Nat) (s u : State), s.at t = u → s.shaped → u.regsUp = true → q < 64 →
    ((u.vq q).win.any fun w => w.1 == seq % 2 ^ 32 % 256 && w.2.lost) = false →
    Runs (.vrdQuery t q { seq := seq }) s fun v =>
      (v.vq q).ansQ = seq % 2 ^ 32 ∧ (v.vq q).ansSeq = ((u.vq q).answer (seq % 2 ^ 32)).seq := by
  intro t q seq s u e l a b c
  refine runs_finish (exec_vrdQuery ..) ?_
  have l : u.vrd.queues.length = 64 := by rw [← e, at_vrd]; exact l.vrd
  rw [e]
  have b' : ¬ 64 ≤ q := by omega
  have c' := Bool.eq_false_iff.mp c
  simp only [a, b']
  simp only [Bool.not_true, Bool.false_eq_true, or_self, if_false, c', if_neg]
  simp [State.onVq, State.vq, l, b]

/-- SLB_CYCLE completes (13 R359). -/
theorem runs_slbCycle :
  ∀ (t : Nat) (i : SlbIn) (s u : State), s.at t = u → u.sup.on = true →
    ∃ v : State, exec (.slbCycle t i) s = .next (settle v.mirrorSlb) ∧ v.sup.ioaOk = supplyOk i.ioA ∧ v.sup.iobOk = supplyOk i.ioB ∧
      v.slb.active = (u.slb.cycle u.params u.nvm.params u.now u.sys.tqen u.sup.pfOut u.restartOk i).1.active := by
  intro t i s u e a
  rw [exec_slbCycle]; unfold execSlbCycle finish
  rw [e]
  simp only [a, if_true]
  refine ⟨_, rfl, rfl, rfl, ?_⟩
  simp only [State.onStart, State.onSup, State.onSlb]
  split <;> rfl

/-- INPUT_FILTER_SETTLE completes (13 R362). -/
theorem runs_inputFilterSettle :
  ∀ (t n : Nat) (on : Bool) (s u : State), s.at t = u → u.sup.on = true → n ≤ 16 → (u.params.input n).kind ≠ 2 →
    exec (.inputFilterSettle t n false on) s = .next (settle (u.onInput n fun _ =>
      ({ u.sinput n with a := on, blankA := (u.sinput n).blankA && !on }.settle u.now (u.discNs n)).1)) := by
  intro t n on s u e a b c
  rw [exec_inputFilterSettle]; unfold execInputFilterSettle finish
  rw [e]
  have p : ∀ f : SInput → SInput, (u.onInput n f).params = u.params := by intro f; unfold State.onInput; split <;> rfl
  simp only [a, b, and_self, if_true, Bool.false_eq_true, if_false, p, c, false_and, and_false]

/-- BLANKING_END completes (13 R363). -/
theorem runs_blankingEnd :
  ∀ (t n : Nat) (s u : State), s.at t = u → u.sup.on = true → n ≤ 16 →
    exec (.blankingEnd t n false) s = .next (settle (u.onInput n fun x => { x with blankA := true })) := by
  intro t n s u e a b
  rw [exec_blankingEnd]; unfold execBlankingEnd finish
  rw [e]
  simp [a, b]

/-- DISCREPANCY_EXPIRY completes (13 R364). -/
theorem runs_discrepancyExpiry :
  ∀ (t n : Nat) (s u : State), s.at t = u → u.sup.on = true → n < 16 → (u.params.input n).kind ≠ 0 → (u.sinput n).disc = false →
    (u.sinput n).a ≠ (u.sinput n).b → u.pastOpt (u.sinput n).differ (u.discNs n) = true →
    exec (.discrepancyExpiry t n) s = .next (settle ((u.onInput n fun x => { x with disc := true, discOff := false }).slbTrip 0x02 true)) := by
  intro t n s u e a b c d f g
  rw [exec_discrepancyExpiry]; unfold execDiscrepancyExpiry finish
  rw [e]
  have h : n ≠ 16 := by omega
  simp [a, b, c, d, f, g, h]

/-- TEST_PULSE completes (13 R366, R367). -/
theorem runs_testPulse :
  ∀ (t tp : Nat) (s u : State), s.at t = u → u.sup.on = true → tp < 8 → u.sys.state ≠ .off → (∀ n < 16, (u.sinput n).pulse = false) →
    exec (.testPulse t tp { stuckOn := 0, crossed := 0 }) s = .next (settle u) := by
  intro t tp s u e a b c d
  rw [exec_testPulse]; unfold execTestPulse finish
  rw [e]
  change Host.Outcome.next (settle (ite _ _ _)) = _
  rw [if_pos ⟨a, b, c⟩]
  have z : ∀ i, bit 0 i = false := by intro i; simp [bit]
  have k : ∀ l : List Nat, (∀ n ∈ l, n < 16) → ∀ f : Nat → State → State, (∀ n < 16, f n u = u) → u.each l f = u := by
    intro l hl f hf
    unfold State.each
    induction l with
    | nil => rfl
    | cons x r ih => rw [List.foldl_cons, hf x (hl x (by simp))]; exact ih fun n hn => hl n (by simp [hn])
  refine congrArg (fun x => Host.Outcome.next (settle x)) (k (List.range 16) (fun n h => List.mem_range.mp h) _ ?_)
  intro n hn
  simp [z, d n hn]

/-- OUTPUT_OFFTEST completes (13 R373). -/
theorem runs_outputOfftest :
  ∀ (t ch : Nat) (s u : State), s.at t = u → u.sup.on = true → ch < 8 → u.slb.stoCmd.getD ch false = true →
    exec (.outputOfftest t ch false) s = .next (settle
      ((u.onSlb fun b => { b with outFault := setN b.outFault ch true }.seeOut ch).slbTrip 0x06 true)) := by
  intro t ch s u e a b c
  rw [exec_outputOfftest]; unfold execOutputOfftest finish
  rw [e]
  simp only [a, b, c, if_true, true_or, Bool.not_false, and_self]

/-- SS1_MAX_EXPIRY completes (13 R375, R376). -/
theorem runs_ss1MaxExpiry :
  ∀ (t n k : Nat) (s u : State), s.at t = u → u.sup.on = true → n < 4 →
    (getN u.slb.groups n).ss1End u.now (getN u.params.groups n) = some k →
    u.past ((getN u.slb.groups n).ss1At.getD u.now) ((getN u.params.groups n).ss1Max * ms) = true →
    exec (.ss1MaxExpiry t n) s = .next (settle (u.groupOff n k)) := by
  intro t n k s u e a b c d
  rw [exec_ss1MaxExpiry]; unfold execSs1MaxExpiry finish
  rw [e]
  simp only [a, b, c, d, and_self, if_true]

/-- STANDSTILL_HELD completes (13 R376). -/
theorem runs_standstillHeld :
  ∀ (t n : Nat) (s u : State), s.at t = u → u.sup.on = true → n < 4 →
    (getN u.slb.groups n).ss1End u.now (getN u.params.groups n) = some 1 →
    exec (.standstillHeld t n) s = .next (settle (u.groupOff n 1)) := by
  intro t n s u e a b c
  rw [exec_standstillHeld]; unfold execStandstillHeld finish
  rw [e]
  simp only [a, b, c, and_self, if_true]

/-- BRAKE_RELEASE_DELAY_EXPIRY completes (13 R380). -/
theorem runs_brakeReleaseDelayExpiry :
  ∀ (t n : Nat) (s u : State), s.at t = u → u.sup.on = true → n < 4 → (getN u.slb.brakes n).phase = .wait →
    u.past (getN u.slb.brakes n).since ((getN u.params.brakes n).releaseMs * ms) = true →
    exec (.brakeReleaseDelayExpiry t n) s = .next (settle (u.brakeTick n)) := by
  intro t n s u e a b c d
  rw [exec_brakeReleaseDelayExpiry]; unfold execBrakeReleaseDelayExpiry finish
  rw [e]
  simp [a, b, c, d, State.when]

/-- BRAKE_PULLIN_EXPIRY completes (13 R380). -/
theorem runs_brakePullinExpiry :
  ∀ (t n : Nat) (s u : State), s.at t = u → u.sup.on = true → n < 4 → (getN u.slb.brakes n).phase = .pullin →
    u.past (getN u.slb.brakes n).since ((getN u.params.brakes n).pullinMs * ms) = true →
    exec (.brakePullinExpiry t n) s = .next (settle (u.brakeTick n)) := by
  intro t n s u e a b c d
  rw [exec_brakePullinExpiry]; unfold execBrakePullinExpiry finish
  rw [e]
  simp [a, b, c, d, State.when]

/-- CHAIN_PULSE_EXPIRY completes (13 R386). -/
theorem runs_chainPulseExpiry :
  ∀ (t : Nat) (s u : State), s.at t = u → u.sup.on = true → u.pastOpt u.slb.chainAt (u.params.chainPulseMs * ms) = true →
    Runs (.chainPulseExpiry t) s fun v => v.slb.chainAt = none ∧ v.slb.chainCmd = (List.range 2).map fun n =>
      (u.params.chain == 1 && !u.slb.report.idle && !u.sup.pfOut && (u.slb.sources u.params u.nvm.params).all (· == 0x07)) &&
        !u.slb.outFault.getD (12 + n) false := by
  intro t s u e a b
  refine runs_finish (exec_chainPulseExpiry ..) ?_
  rw [e]
  simp only [a, b, and_self, if_true]
  simp [State.onSlb]

/-- ENCODER_FAULT completes (02 R45; 13 R378). -/
theorem runs_encoderFault :
  ∀ (t qe : Nat) (s u : State), s.at t = u → u.sup.on = true → qe < 8 → (getN u.slb.qe qe).fault = false →
    (u.params.groups.any fun g => bit g.axes qe) = true →
    exec (.encoderFault t qe true) s = .next (settle
      ((u.onSlb fun b => { b with qe := modN b.qe qe fun e => { e with fault := true } }).slbTrip 0x02 true)) := by
  intro t qe s u e a b c d
  rw [exec_encoderFault]; unfold execEncoderFault finish
  rw [e]
  have g : (u.onSlb fun b => { b with qe := modN b.qe qe fun e => { e with fault := true } }).params = u.params := rfl
  simp only [a, b, c, g, d, and_self, if_true, Bool.not_false]

/-- SLB_DEG_TIMER_EXPIRY completes (13 R383). -/
theorem runs_slbDegTimerExpiry :
  ∀ (t : Nat) (s u : State), s.at t = u → u.sup.on = true → u.slb.degRun = true →
    u.params.degTimerS * 1010 * ms + sec ≤ u.slb.degElapsed →
    Runs (.slbDegTimerExpiry t) s fun v => v.slb.degDue = true ∧ v.slb.degRun = false := by
  intro t s u e a b c
  refine runs_finish (exec_slbDegTimerExpiry ..) ?_
  rw [e]
  have q : (u.sup.on && u.slb.degRun && decide (u.params.degTimerS * 1010 * ms + sec ≤ u.slb.degElapsed)) = true := by simp [a, b, c]
  rw [State.when, if_pos q]
  exact ⟨rfl, rfl⟩

/-- SLB_LINK_FRAME completes (13 R368). -/
theorem runs_slbLinkFrame :
  ∀ (t : Nat) (f : LinkFrame) (r : List LinkFrame) (s u : State), s.at t = u → u.sup.on = true → u.slb.link = f :: r →
    (u.slb.beat.any fun p => f.beat ≠ (p + 1) % 256) = false →
    exec (.slbLinkFrame t true) s = .next (settle ((u.onSlb fun b => { b with link := r }).onSlb (Slb.frame u.now f))) := by
  intro t f r s u e a b c
  rw [exec_slbLinkFrame]; unfold execSlbLinkFrame finish
  rw [e]
  simp only [b]
  rw [if_neg (by show ¬ (!u.sup.on) = true; simp [a]), if_neg (by simp), if_neg (by show ¬ (u.slb.beat.any _) = true; simp only [c]; simp)]
  rfl

/-- SPSTOP_N_CHANGE completes (13 R368, R369). -/
theorem runs_spstopNChange :
  ∀ (t : Nat) (active : Bool) (s u : State), s.at t = u → u.sup.on = true →
    Runs (.spstopNChange t active) s fun v => v.slb.reqB = active := by
  intro t active s u e a
  refine runs_finish (exec_spstopNChange ..) ?_
  rw [e]
  rw [State.when, if_pos a]
  rfl

/-- REQUEST_DISAGREE_EXPIRY completes (13 R369). -/
theorem runs_requestDisagreeExpiry :
  ∀ (t : Nat) (s u : State), s.at t = u → u.sup.on = true → u.pastOpt u.slb.disagree (10 * ms) = true →
    exec (.requestDisagreeExpiry t) s = .next (settle ((u.onSlb fun b => { b with disagree := none }).slbTrip 0x05 true)) := by
  intro t s u e a b
  rw [exec_requestDisagreeExpiry]; unfold execRequestDisagreeExpiry finish
  rw [e]
  simp only [a, b, and_self, if_true]

/-- HEARTBEAT_TIMEOUT completes (03 R72). -/
theorem runs_heartbeatTimeout :
  ∀ (t : Nat) (s u : State), s.at t = u → u.sup.on = true → u.sys.state ≠ .off →
    exec (.heartbeatTimeout t .noEdge) s = .next (settle u.slbDrop.dieReset) := by
  intro t s u e a b
  rw [exec_heartbeatTimeout]; unfold execHeartbeatTimeout finish
  rw [e]
  simp [a, b, State.beatFails]

/-- SLB_OSCILLATOR_FAULT completes (03 R73). -/
theorem runs_slbOscillatorFault :
  ∀ (t : Nat) (s u : State), s.at t = u → u.sup.on = true → exec (.slbOscillatorFault t) s = .next (settle (u.slbTrip 0x10 true)) := by
  intro t s u e a
  rw [exec_slbOscillatorFault]; unfold execSlbOscillatorFault finish
  rw [e]; simp [State.when, a]

/-- SLB_PARAM_CHECK completes (13 R390). -/
theorem runs_slbParamCheck :
  ∀ (t : Nat) (s u : State), s.at t = u → u.sup.on = true → u.nvm.params.aOk = true → u.nvm.params.bOk = true →
    ∃ v : State, exec (.slbParamCheck t true false) s = .next (settle (v.evOpen 0x20 "SLB_PARAM_REWRITTEN" noSub 1)) ∧
      v.nvm.params = Copies.put u.nvm.params.a := by
  intro t s u e a b c
  rw [exec_slbParamCheck]; unfold execSlbParamCheck finish
  rw [e]
  simp only [a, b, c, if_true, Bool.and_true, Bool.and_false]
  exact ⟨_, rfl, rfl⟩

end Sys2Proof.Machine
end

