-- ==== Sys2Proof/WellFormed.lean ====
section
/-! DEFINITION. Well-formed commands: every operand lies in the range that the spec gives it (a register field's width, the number of
streams, cores, stacks, queues, channels, inputs and outputs). The machine is total on the others too: each meaning checks what it
relies on. -/

namespace Sys2Proof

/-- A configuration request (05 R136): port 0 or 1, a source address, and a frame no longer than its longest fields make it. -/
def cfgReqWf (q : CfgReq) : Bool :=
  decide (q.port < 2) && decide (q.source < 2 ^ 48) && decide (q.frame.length ≤ 1477)

/-- SET_RTC: a load is a value of the RTC_SET layout (03 R80). -/
def rtcOpWf : RtcOp → Bool
  | .load v => decide (v < 2 ^ 64)
  | .follow => true

/-- A certificate (05 R135, 18 R507): a 16-byte nonce and a 64-byte signature. -/
def certWf (c : Cert) : Bool := c.nonce.length == 16 && c.signature.length == 64

/-- A debug credential (18 R507). -/
def unlockWf : UnlockReq → Bool
  | .password p => decide (p.length ≤ 64)
  | .certificate c => certWf c

/-- A safety message: Ethernet port 0 or 1 and a 48-bit source address (14 R396). -/
def safeRxWf (m : SafeRx) : Bool := decide (m.port < 2) && decide (m.mac < 2 ^ 48)

/-- Breakpoint match fields within DBG_BPn_MATCH and DBG_BPn_JOB (18 R518). -/
def bpWf (m : BpMatch) : Bool := decide (m.op < 256) && decide (m.cls < 256) && decide (m.ident < 1024) && decide (m.job < 2 ^ 32)

/-- Every operand lies in its range. -/
def wellFormed (c : Instr) : Bool :=
  match c with
  | .powerGood _ vinMv backupMv => decide (vinMv < 2 ^ 16) && decide (backupMv < 2 ^ 16)
  | .powerFailWarning _ => true
  | .holdupEnd _ => true
  | .stageS0 _ _ => true
  | .stageS1 _ r => decide (r.fwVersion < 2 ^ 32)
  | .stageS2 _ _ => true
  | .stageS3 _ r => decide (r.rows < 2 ^ 10) && decide (r.subject < 2 ^ 16)
  | .stageS4 _ r => decide (r.coreFail < 2 ^ 16) && decide (r.checks < 2 ^ 11)
  | .stageS5 _ _ => true
  | .stageS6 _ _ => true
  | .stageS7 _ _ => true
  | .stageS8 _ _ => true
  | .stageTimeLimit _ => true
  | .startWatchdog _ => true
  | .stageFailHoldExpiry _ => true
  | .startCounterClear _ => true
  | .doldrumsDiagnosticFrame _ => true
  | .spCycle _ => true
  | .degradedTimerExpiry _ => true
  | .tqenSs1Overdue _ => true
  | .restartArmingLapse _ => true
  | .sealSwitchChange _ sw _ _ => decide (sw < 4)
  | .sealContactDisagree _ sw => decide (sw < 4)
  | .tamperLoopOpen _ => true
  | .dbgPresChange _ _ => true
  | .ioSupplyOutOfWindow _ _ mv => decide (mv < 2 ^ 16)
  | .ioSupplyRecovered _ mvA mvB => decide (mvA < 2 ^ 16) && decide (mvB < 2 ^ 16)
  | .dieTempWarning _ => true
  | .thermalTrip _ => true
  | .thermalRelease _ => true
  | .clockMonitorWindow _ _ _ => true
  | .clockRecoveryRelease _ => true
  | .ptpSyncReceived _ sync => decide (sync.port < 2) && decide (sync.gm < 2 ^ 64)
  | .ptpGrandmasterLost _ port => decide (port < 2)
  | .ptpHoldoverExpiry _ => true
  | .ptpPortDisagree _ _ => true
  | .triggerEdge _ n => decide (n < 8)
  | .trigStartWrite _ n v => decide (n < 8) && decide (v < 2 ^ 64)
  | .trigPeriodWrite _ n v => decide (n < 8) && decide (v < 2 ^ 64)
  | .trigWidthWrite _ n v => decide (n < 8) && decide (v < 2 ^ 32)
  | .trigCtrlWrite _ n v => decide (n < 8) && decide (v < 2 ^ 32)
  | .rtcTenthTick _ => true
  | .read _ q addrs => cfgReqWf q && (addrs.all (· < 2 ^ 40))
  | .exportObject _ q object first count => cfgReqWf q && decide (object < 256) && decide (first < 2 ^ 32) && decide (count < 2 ^ 32)
  | .uploadBegin _ q => cfgReqWf q
  | .uploadData _ q _ offset _ => cfgReqWf q && decide (offset < 2 ^ 32)
  | .uploadEnd _ q => cfgReqWf q
  | .uploadSessionLapse _ => true
  | .activate _ q => cfgReqWf q
  | .restart _ q => cfgReqWf q
  | .enrol _ q key _ pattern => cfgReqWf q && (pattern.all (· < 16)) && (key.all (·.length == 32))
  | .setPassword _ q newPassword => cfgReqWf q && decide (newPassword.length ≤ 64)
  | .setRtc _ q op => cfgReqWf q && rtcOpWf op
  | .setUtcOfs _ q ofs => cfgReqWf q && decide (ofs < 2 ^ 16)
  | .clearChangeLog _ q => cfgReqWf q
  | .clearDoldrums _ q => cfgReqWf q
  | .fieldReset _ q cert => cfgReqWf q && certWf cert
  | .lockoutEnd _ => true
  | .hashReverify _ => true
  | .frameStart _ stream => decide (stream < 16)
  | .frameEnd _ stream _ => decide (stream < 16)
  | .checkFinalStatus _ stream => decide (stream < 16)
  | .streamStallExpiry _ stream => decide (stream < 16)
  | .frameDeliveryComplete _ stream buf => decide (stream < 16) && decide (buf.addr < 2 ^ 64) && decide (buf.length < 2 ^ 32)
  | .egoTick _ _ => true
  | .epochOpen _ => true
  | .epochWaitExpiry _ => true
  | .guardJobStart _ => true
  | .descriptorDispatch _ core => decide (core < 16)
  | .descriptorComplete _ core hw => decide (core < 16) && decide (hw.flip < 2 ^ 64)
  | .descriptorHang _ core => decide (core < 16)
  | .coreBistComplete _ core _ => decide (core < 16)
  | .rollingSelftestSegment _ core _ => decide (core < 16)
  | .vaneSelftestComplete _ _ _ => true
  | .safeStateJobIssue _ cls => decide (cls < 32)
  | .safeStateDeadline _ cls => decide (cls < 32)
  | .beuCmdSubmit _ stack _ cmd => decide (stack < 2) && (cmd.length == 64)
  | .beuCmdStart _ stack _ => decide (stack < 2)
  | .beuCmdComplete _ stack x => decide (stack < 2) && decide (x.channel < 16)
  | .beuFenceComplete _ stack _ => decide (stack < 2)
  | .beuSwitchGo _ stack v => decide (stack < 2) && decide (v < 2 ^ 32)
  | .beuSwitchDrainComplete _ stack => decide (stack < 2)
  | .beuSwitchFenceComplete _ stack => decide (stack < 2)
  | .beuSwitchComplete _ stack => decide (stack < 2)
  | .scrubStep _ stack _ uncorrectable => decide (stack < 2) && (uncorrectable.all (· < 128))
  | .stackTempChange _ stack celsius => decide (stack < 2) && decide (celsius < 256)
  | .stackCoolExpiry _ stack => decide (stack < 2)
  | .sqTailDoorbell _ q v => decide (q < 64) && decide (v < 2 ^ 32)
  | .submissionConsume _ q desc => decide (q < 64) && (desc.length == 64)
  | .witnessLockEffective _ q => decide (q < 64)
  | .resultCommit _ q => decide (q < 64)
  | .ageDeadlineExpiry _ q seq => decide (q < 64) && decide (seq < 2 ^ 32)
  | .verdictPathWatchdog _ q seq => decide (q < 64) && decide (seq < 2 ^ 32)
  | .vrdQuery _ q x => decide (q < 64) && decide (x.seq < 2 ^ 32)
  | .slbCycle _ i => (i.counts.length == 8) && (i.counts.all (· < 2 ^ 32)) && decide (i.ioA < 2 ^ 16) && decide (i.ioB < 2 ^ 16) && decide (i.readback < 2 ^ 14)
  | .inputFilterSettle _ input _ _ => decide (input < 17)
  | .blankingEnd _ input _ => decide (input < 17)
  | .discrepancyExpiry _ input => decide (input < 17)
  | .testPulse _ n p => decide (n < 8) && decide (p.stuckOn < 2 ^ 32) && decide (p.crossed < 2 ^ 32)
  | .outputOfftest _ channel _ => decide (channel < 14)
  | .ss1MaxExpiry _ group => decide (group < 4)
  | .standstillHeld _ group => decide (group < 4)
  | .brakeReleaseDelayExpiry _ brake => decide (brake < 4)
  | .brakePullinExpiry _ brake => decide (brake < 4)
  | .chainPulseExpiry _ => true
  | .encoderFault _ qe _ => decide (qe < 8)
  | .slbDegTimerExpiry _ => true
  | .slbLinkFrame _ _ => true
  | .spstopNChange _ _ => true
  | .requestDisagreeExpiry _ => true
  | .heartbeatTimeout _ _ => true
  | .slbOscillatorFault _ => true
  | .slbParamCheck _ _ _ => true
  | .jointsMessage _ m => safeRxWf m
  | .stopRequest _ m => safeRxWf m
  | .resetRequest _ m => safeRxWf m
  | .aliveMessage _ m => safeRxWf m
  | .pathAnnounce _ m => safeRxWf m
  | .skewWindowEnd _ conn seq => decide (conn < 2 ^ 16) && decide (seq < 2 ^ 16)
  | .smlWatchdogExpiry _ conn => decide (conn < 2 ^ 16)
  | .smlOpeningExpiry _ conn => decide (conn < 2 ^ 16)
  | .singlePathTimerExpiry _ => true
  | .statusSend _ conn => decide (conn < 2 ^ 16)
  | .pathAnnounceSend _ port => decide (port < 2)
  | .ethLinkChange _ port _ => decide (port < 4)
  | .cvuComputeComplete _ ch r => decide (ch < 32) && (r.expected.all (· < 2 ^ 32))
  | .xwlListenExpiry _ => true
  | .xwlClaimReceived _ m => decide (m.lane < 2)
  | .xwlBackoffExpiry _ => true
  | .xwlCycleStart _ => true
  | .xwlSyncReceived _ m => decide (m.lane < 2)
  | .xwlSafetySlot _ => true
  | .xwlSafetyReceived _ m => decide (m.lane < 2)
  | .xwlNodeTimeout _ node => decide (node < 8)
  | .xwlSyncLoss _ => true
  | .xwlDelayMeasure _ delay0 delay1 => decide (delay0 < 2 ^ 16) && decide (delay1 < 2 ^ 16)
  | .xwlBulkReceived _ m => decide (m.lane < 2)
  | .xwlReturnTimeout _ job => decide (job < 2 ^ 32)
  | .hqEnableWrite _ q _ => decide (q < 64)
  | .hqReset _ q => decide (q < 64)
  | .queueResetComplete _ q => decide (q < 64)
  | .hqResume _ q => decide (q < 64)
  | .cqHeadWrite _ q v => decide (q < 64) && decide (v < 2 ^ 32)
  | .hqIrqWrite _ q v => decide (q < 64) && decide (v < 2 ^ 32)
  | .irqTimeExpiry _ q => decide (q < 64)
  | .deliveryTailWrite _ n v => decide (n < 16) && decide (v < 2 ^ 32)
  | .hqCheckpoint _ v => decide (v < 2 ^ 32)
  | .pcieFunctionLevelReset _ => true
  | .bar2Access _ r => decide (r.offset < 2 ^ 64) && decide (r.reqId < 2 ^ 16) && (r.pasid.all (· < 2 ^ 20))
  | .tsuAliveWindowEnd _ c => decide (c < 512)
  | .tsuDeadlineExpiry _ c => decide (c < 512)
  | .tsuBudgetExceeded _ c => decide (c < 512)
  | .psmPlannedWake _ => true
  | .psmWakeComplete _ silentCores => decide (silentCores < 2 ^ 16)
  | .psmWakeFault _ => true
  | .bgUrgent _ a => decide (a < 5)
  | .bgDeadlineMiss _ a => decide (a < 5)
  | .adcCalibration _ _ => true
  | .telemetrySwap _ => true
  | .monLevelSample _ slot _ => decide (slot < 64)
  | .monSnapshot _ _ slot => decide (slot < 2 ^ 32)
  | .monSnapshotClear _ _ slot => decide (slot < 2 ^ 32)
  | .logSelWrite _ _ seq => decide (seq < 2 ^ 32)
  | .frSelWrite _ _ num => decide (num < 2 ^ 32)
  | .logRepeatSecondEnd _ => true
  | .idcode _ => true
  | .samplePreload _ pins preload => decide (pins < 2 ^ 64) && decide (preload < 2 ^ 64)
  | .extest _ pins => decide (pins < 2 ^ 64)
  | .bypass _ tdi => decide (tdi < 2 ^ 64)
  | .dbgNonce _ => true
  | .dbgUnlock _ r => unlockWf r
  | .dbgLock _ => true
  | .halt _ mask => decide (mask < 2 ^ 32)
  | .dbgResume _ mask => decide (mask < 2 ^ 32)
  | .step _ core => decide (core < 16)
  | .setBp _ slot m => decide (slot < 4) && bpWf m
  | .readCore _ core => decide (core < 16)
  | .dbgMem _ r => decide (r.addr < 2 ^ 64) && (r.write.all (· < 2 ^ 64))
  | .dbgSp _ _ => true
  | .registerWrite _ _ _ addr v => decide (addr < 2 ^ 64) && decide (v < 2 ^ 64)
  | .stackTrainingLoss _ stack => decide (stack < 2)
  | .safeMessageRefused _ m => safeRxWf m
  | .bestMasterClockSelection _ sync => decide (sync.port < 2) && decide (sync.gm < 2 ^ 64)
  | .xwlLaneLoss _ lane => decide (lane < 2)
  | .tsuBudgetPeriodEnd _ c => decide (c < 512)
  | .psmEntryComplete _ => true
  | .breezeCoreGate _ core => decide (core < 16)
  | .connectionPause _ => true
  | .xwlBulkUnit _ unit => decide (unit < 8)
  | .triggerPulseEnd _ n => decide (n < 8)
  | .overcurrentCutOff _ output => decide (output < 14)
  | .tamperCoverFitted _ => true
  | .backupExhausted _ => true

end Sys2Proof
end

