-- ==== Sys2Proof/Tests/Slice0.lean ====
section
/-! SUPPORT. Tests: values that the spec's tables and worked cases give, well-formed and ill-formed commands, a few single
commands, and for every statement with hypotheses a witness: a concrete state and operands that meet each clause's hypotheses
together. -/

namespace Sys2Proof.Tests
open Sys2Proof.Machine
set_option Elab.async false
set_option linter.unusedVariables false

/-! ## States the tests start from -/

/-- A powered module in a state. -/
def on (x : St) : State := { State.reset with sup := { on := true }, sys := { state := x } }

/-- A start that works on stage `n`. -/
def up (n : Nat) : State := { on .start with start := { stage := n, counted := true } }

/-- Secrets with the password `A`. -/
def key1 : Secrets := { pass := some ([1], sha256 ([1] ++ [65])) }

/-- A module that a configuration request reaches, the seals in PROGRAM. -/
def desk (x : St) : State :=
  { on x with sml := { link := [true, true] }, nvm := { secrets := key1.store }, seals := { agreed := List.replicate 4 true } }

/-- A request of a command with a password: request 1 of operator 7 in session 1, no payload. -/
def ask (cmd : Nat) (pass : Bytes := [65]) : CfgReq :=
  { port := 0, source := 1
    frame := [2, byte cmd] ++ beBytes 2 1 ++ beBytes 2 7 ++ beBytes 4 1 ++ [byte pass.length] ++ pass ++ beBytes 2 0 }

/-- A module that works with an image. -/
def withImg (x : St) (i : Image) : State := { on x with cfg := { img := i, admitted := true } }

/-- A camera stream that works: stream 15. -/
def cam : State :=
  { withImg .run { streams := [{ stream := 15 }] } with
    fiu := { streams := List.replicate 16 { state := .live, ring := List.replicate 4 {} } } }

/-- Audit cores in a state, with jobs. -/
def cores (x : CoreSt) (j : List Job) : State := { on .run with aud := { cores := List.replicate 16 { state := x }, jobs := j } }

/-- A job of one descriptor. -/
def job1 (d : Desc) : Job := { num := 1, kind := .audit, owner := 0, seq := 1, registered := true, descs := [{ desc := d }] }

/-- Cores that run the first descriptor of job 1. -/
def busy (x : CoreSt) (d : Desc) : State :=
  { on .run with
    aud := { cores := List.replicate 16 { state := x, run := some { job := 1, index := 0, pass := 0, start := 0 } }, jobs := [job1 d] } }

/-- Both stacks with the given contents. -/
def stks (x : St) (k : Stack) : State := { on x with beu := { stks := [k, k] } }

/-- A command of the base-die units that may run: a conversion on channel 8 of stack 0. -/
def bcmd : BCmd :=
  { kind := 1, fmtIn := 0x02, fmtOut := 0x02, ident := 559, channel := 8, srcA := 0x1200000000, dst := 0x1200000040, count := 4 }

/-- A queue that may be consumed, on channel 0 with queue 63 and a record in the staging window. -/
def sub : State :=
  { withImg .run { channels := [{ ch := 0, queue := 63 }]
                   rules := [{ ident := 0, kind := 1, perm := 1, base := 0x1400000000, pages := 1 }] } with
    clk := { pcieOk := true }
    hq := { opened := true, queues := List.replicate 64 { en := true, sqTail := 1, sqLog := 4, cqLog := 4 } } }

/-- A submission descriptor of a record at offset 0. -/
def subDesc : Bytes := withCrc ([1] ++ zeros 59)

/-- A result of queue 63. -/
def res1 (x : ResSt) : Result := { q := 63, ch := 0, seq := 1, subIdx := 0, state := x }

/-- Results in a running module. -/
def results (l : List Result) : State := { on .run with vrd := { results := l } }

/-- The SLB of a running module. -/
def slb (b : Slb) : State := { on .run with slb := b }

/-- An SLB that may permit torque in the next cycle. -/
def ready : Slb :=
  { report := .run, before := .run, beatOk := true, ackEdge := true, beat := some 0, io := [24000, 24000] }

/-- A quiet cycle. -/
def quiet : SlbIn := { counts := List.replicate 8 0, ioA := 24000, ioB := 24000, laneDiff := false, readback := 0 }

/-- A committed result whose lines have completed in its favour. -/
def good1 : Result :=
  { res1 .committed with audit := .favour, geom := .favour, deadline := 10, escape := 0, cands := [{ pose := [2 ^ 30, 0] }] }

/-- A state in which its guard line is complete: the candidate lies outside the grid. -/
def goodAt : State :=
  { withImg .run { audChans := [{ ch := 0, disMarginal := 65536, disReject := 65536 }] } with
    vrd := { closes := [(1, 0)] }
    fgu := { epochs := [{ num := 1, members := [], leftReq := 0, leftRed := 0, state := .done }] }
    vane := { lanes := List.replicate 4 { ok := true } }
    aud := { cores := List.replicate 16 { state := .admitted } } }

/-- An RX connection that takes every type, with path monitoring. -/
def rx1 : ConnRec := { conn := 5, flags := 31, mac := 7, vcid := 9, maxAge := 10 }

/-- A module with that connection in a state, expecting the number 3, both links up. -/
def net (x : ConnSt) : State :=
  { withImg .run { messages := { conns := [rx1] } } with
    sml := { link := [true, true], conns := List.replicate 32 { state := x, seq := 3, ports := [true, true] } } }

/-- A message of that connection on port 0. -/
def msg (type seq : Nat) (pay : Bytes) : SafeRx := { port := 0, mac := 7, data := safeFrame rx1 type seq pay 0 }

/-- A record of that connection as the receiver takes it. -/
def got (len : Nat) : RxMsg := { k := 0, cr := rx1, len := len }

/-- Node 1 of a ring of two, in a phase. -/
def ring (w : Xwl) : State :=
  { withImg .run { messages := { ring := { nodeId := 1, members := 3, obey := 3, units := 2 } } } with clk := { xwlOk := true }, xwl := w }

/-- A frame of node 0 on lane 0. -/
def xmsg (kind : Nat) (rest : Bytes) : XwlRx :=
  { lane := 0, garbled := false
    data := ([byte kind] ++ zeros 59) ++ beBytes 4 (crc32c ([byte kind] ++ zeros 59)) ++ rest }

/-- The lengths that `State.shaped` asks for, as a test. -/
def shapedB (s : State) : Bool :=
  decide (s.clk.shaped ∧ s.seals.shaped ∧ s.cfg.shaped ∧ s.fiu.shaped ∧ s.aud.shaped ∧ s.beu.shaped ∧ s.vrd.shaped ∧
    s.slb.shaped ∧ s.sml.shaped ∧ s.cvu.shaped ∧ s.xwl.shaped ∧ s.hq.shaped ∧ s.tsu.shaped ∧ s.psm.shaped ∧ s.mon.shaped ∧
    s.dbg.shaped)

theorem shaped_of {s : State} (h : shapedB s = true) : s.shaped := by
  obtain ⟨a, b, c, d, e, f, g, h, i, j, k, l, m, n, o, p⟩ := of_decide_eq_true h
  exact ⟨a, b, c, d, e, f, g, h, i, j, k, l, m, n, o, p⟩

theorem takes_of {q : CfgReq} {cmd : Nat} {s : State} (h : (s.cfgUp q.port && asksFor q cmd && q.whole &&
    (s.recentResps.find? fun r => r.source == q.source && r.command == cmd && r.request == q.request).isNone) = true) :
    s.takes q cmd := by
  simp only [Bool.and_eq_true, Option.isNone_iff_eq_none] at h
  exact ⟨h.1.1.1, h.1.1.2, h.1.2, h.2⟩

theorem params_of {s : State} (h : !s.cfg.admitted ∨ s.params.crc = s.img.safety.crc) : s.slbParams = some s := if_pos h

theorem reset_outputsOk : State.reset.outputsOk := by
  have h (n i : Nat) : (List.replicate n false).getD i false = false := by
    simp [List.getD_eq_getElem?_getD, List.getElem?_replicate]; split <;> rfl
  have a : State.reset.slb.stoPin = List.replicate 8 false := rfl
  have b : State.reset.slb.brkPin = List.replicate 4 false := rfl
  constructor
  · intro i e
    rw [a, h] at e
    exact nomatch e
  · intro i e
    rw [b, h] at e
    exact nomatch e


/-- What `State.hears` asks for, as a test. -/
def hearsB (k : Nat) (m : XwlRx) (s : State) : Bool :=
  decide (s.xwl.phase ≠ .off ∧ s.clk.xwlOk = true ∧ m.lane < 2 ∧ xOk m = true ∧ xKind m = k ∧ xSrc m < 8 ∧ xSrc m ≠ s.ring.nodeId ∧
    bit s.ring.members (xSrc m) = true ∧ getN (s.node (xSrc m)).alive m.lane = none ∧ (s.node (xSrc m)).taken ≠ some (xAlive m))

theorem hears_of {k : Nat} {m : XwlRx} {s : State} (h : hearsB k m s = true) : s.hears k m := by
  obtain ⟨a, b, c, d, e, f, g, i, j, l⟩ := of_decide_eq_true h
  refine ⟨a, b, c, d, e, f, g, i, ?_, l⟩
  intro x y
  rw [j] at y
  exact nomatch y

theorem net_slots : State.rxSlots { net .open_ with sml := { link := [true, true], conns := List.replicate 32 { state := .open_, aliveSince := some 0 } } } 4 = [0] := by
  decide +kernel

/-- The state after a command. -/
def after (c : Instr) (s : State) : State := match exec c s with | .next v => v | _ => s
/-! ## Values that the spec's own tables and worked cases give -/

/-- The ASCII string of Table 14.6. -/
def digits : Bytes := [49, 50, 51, 52, 53, 54, 55, 56, 57]

/-- The check values of Table 14.6. -/
theorem test_crc_check_values :
    [0, 1, 2, 3, 4].map (fun c => crcOf c digits) = [0xDF, 0x29B1, 0xCBF43926, 0xE3069283, 0x995DC9BBDF1939FA] := by decide +kernel

/-- The digest of the standard's one-block example, the three letters abc (FIPS 180-4, which the spec names). -/
theorem test_sha256_abc :
    sha256 [97, 98, 99] = beBytes 32 0xBA7816BF8F01CFEA414140DE5DAE2223B00361A396177A9CB410FF61F20015AD := by decide +kernel

/-- The empty message of the standard's first Ed25519 example (RFC 8032), and the same signature over another message. -/
theorem test_ed25519 :
    let key := beBytes 32 0xD75A980182B10AB7D54BFED3C964073A0EE172F3DAA62325AF021A68F707511A
    let sig := beBytes 64 0xE5564300C360AC729086E2CC806E828A84877F1EB8E5D974D873E065224901555FB8821590A33BACC61E39701CF9B46BD25BF5F0595BBE24655141438E7A100B
    edVerify key [] sig = true ∧ edVerify key [1] sig = false := by decide +kernel

/-- The three outputs of chapter 9's worked case: above 65 520, below the smallest normal, and rounded to 0x7BFF. -/
theorem test_fp16_worked_case :
    [Val.fin false 140025 (-1), .fin false 9 (-28), .fin false 65519 0].map (fun v => let r := fp16.round true false v; (fp16.encode r.1, r.2)) =
      [(0x7C00, 10), (0x0001, 12), (0x7BFF, 8)] := by decide +kernel

/-- The same cell with FTZ set holds +0. -/
theorem test_fp16_flush : fp16.encode (fp16.round true true (.fin false 9 (-28))).1 = 0 := by decide +kernel

/-- The applied on-times of Table 13.11, in steps of 31.25 ns. -/
theorem test_brake_pwm_worked_case :
    let b : SafBrake := { group := 0, holdPct := 50, dead := 10 }
    [(50, 24000), (50, 30000), (50, 19200), (90, 19200)].map (fun (p : Nat × Nat) => pwmSteps { b with holdPct := p.1 } p.2) =
      [800, 640, 1000, 1504] := by decide +kernel

/-- The record that chapter 13's worked case says is refused: its pulse would be omitted at 30.0 V. -/
theorem test_brake_pwm_refused : pwmSteps { group := 0, holdPct := 10, dead := 50 } 30000 = 0 := by decide +kernel

/-! ## Commands -/

/-- The table gives no row any bits. -/
theorem test_no_word_spells_a_command : decodeTableWord 32 0x12345678 = none := rfl

/-- POWER_GOOD enters START at stage S0 (R18, R93). -/
theorem test_power_good :
    (after (.powerGood 5 12000 5000) State.reset).sys.state = .start ∧ (after (.powerGood 5 12000 5000) State.reset).start.stage = 0 := by
  decide +kernel

/-- IDCODE answers the identification of the part (R506). -/
theorem test_idcode : (after (.idcode 1) (on .run)).out = [.tdo 0 [0xA5, 0xD0, 0x80, 0x04]] := by decide +kernel

/-- The command at the front of the queue runs and leaves the queue. -/
theorem test_step_takes_the_front :
    (match step { on .run with pending := [.idcode 1, .dbgNonce 2] } with | .next v => v.pending | _ => []) = [.dbgNonce 2] := by
  decide +kernel

/-! ### The Example Cell -/

/-- A channel of the Example Cell (Table 0.5, and the worked cases of chapters 5 and 16). -/
def cellChan (c : Nat) : ChanRec :=
  { ch := c, queue := c, flags := 1, streams := 7, rateMhz := 2000, ageMs := 1500, deadlineUs := 600000, startCp := 1, endCp := 0xFF }

/-- The witness points of a channel with sampled tiles: 48 tiles of 64 × 64 outputs with K = 1152 (chapters 8 and 12). -/
def cellWits (c : Nat) : List WitRec :=
  [(0, 2048, 1280), (1, 2048, 1280), (2, 2048, 1024), (3, 3072, 1024), (5, 2048, 1024)].map fun (x : Nat × Nat × Nat) =>
    { ch := c, point := x.1, fmtIn := 0x0E, fmtOut := 0x0C, m := x.2.1, n := x.2.2, k := 1152 }

/-- The Example Cell's image, as far as its admission figures need it, with an AGE claim and an AUDIT_LOAD claim. -/
def cellImage (age load : Nat) : Image :=
  { channels := (List.range 4).map cellChan
    audChans := (List.range 4).map fun c => { ch := c, points := 6, log2f := 6, log2fFloor := 8, tileLog2 := 6, refM := 512, doubtPpm := 400, tokenConn := 17 }
    wits := (List.range 4).flatMap cellWits
    streams := [{ stream := 0, flags := 1, frameBytes := 3379200, period := 33333333, offset := 1000000 },
                { stream := 1, path := 1, port := 2, frameBytes := 6291456, period := 250000000, offset := 30000000, elem := 1 },
                { stream := 2, port := 2, frameBytes := 1310720, period := 16666667, offset := 4000000 }]
    plans := [{ stack := 0, proc := 0x300, recompute := 0x300, fiu := 0x300 }, { stack := 1 }]
    fusion := { waitNs := 300000000, epochRate := 5000, members := 7, anchor := 1 }
    classes := [{ cls := 4, mode := 2, deadlineUs := 2000 }]
    safety := { inputs := [{ kind := 1 }, { kind := 1 }, { kind := 1, reaction := 1 }] ++ List.replicate 13 {} }
    messages := { conns := [{ conn := 16, flags := 4, watchdog := 20 }] }
    power := { allow := 3, guardUs := 50, recs := (List.range 4).map fun c => ⟨c, 300⟩ }
    monitors := { slots := [{ slot := 0, edges := 1, base := 125000 }, { slot := 1, source := 0x21, base := 11000, width := 100, rateHz := 10000 }] }
    claims := (List.range 4).flatMap (fun c => [⟨3, c, age⟩, ⟨4, c, 2000000⟩, ⟨5, c, load⟩, ⟨7, c, 315⟩])
      ++ (List.range 3).map (fun n => ⟨1, n, 4000000⟩) ++ [⟨2, 16, 25000000⟩] }

/-- Table 5.9's audit work: 4608 cycles for each of 48 tiles, 406.9 µs of core time per result. -/
theorem test_cell_audit_work :
    (cellImage 0 0).auditCycles 0 = 48 * 4608 ∧ (cellImage 0 0).chanPs 0 / 100000 = 4069 := by decide +kernel

/-- Table 5.9's AUDIT_LOAD of 0.814 core-ms per s: a claim of 0.814 passes for all four channels, one of 0.813 fails first at
channel 0. -/
theorem test_cell_audit_load :
    ((cellImage 0 814000).loadChecks.take 4).all (·.ok) = true ∧ firstFail (cellImage 0 813000).loadChecks = (0x0705, 0) := by
  decide +kernel

/-- Table 5.9's AGE of 1183 ms, the claim's bound itself and one nanosecond less; and the refusal 0x0803 with a deadline of
950 ms and the claim of 1200 ms. -/
theorem test_cell_age :
    (cellImage 1183000000 0).ageOk (cellChan 0) = true ∧ (cellImage 1182999999 0).ageOk (cellChan 0) = false ∧
      (cellImage 1200000000 0).ageOk { cellChan 0 with deadlineUs := 950000 } = false := by decide +kernel

/-- Table 5.9's reaction and escape rows pass, and the escape bound is 315 ppm. -/
theorem test_cell_reaction_and_escape :
    (cellImage 0 0).reactChecks.all (·.ok) = true ∧ (cellImage 0 0).escChecks.all (·.ok) = true ∧ escapeOf 64 1 512 = 315 := by
  decide +kernel

/-- Chapter 11's differencing load passes. -/
theorem test_cell_differencing_load : (cellImage 0 0).diffLoadOk = true := by decide +kernel

/-- Chapter 17's worked case: Lull is permitted, Calm is not for WAKE_TOL, and PSM_STAT.LIMIT reads 2. -/
theorem test_cell_power_limit :
    let s := withImg .run (cellImage 0 0)
    s.psmLimit .lull = 0 ∧ s.psmLimit .calm = 2 ∧ s.psmLimitCode = 2 := by decide +kernel

/-- Chapter 18's worked case: 0.9 ms falls in bin 3 of slot 0, 12 000 mV in bin 10 of slot 1. -/
theorem test_cell_monitor_bins : ((cellImage 0 0).monitors.slots.zip [900000, 12000]).map (fun x => x.1.bin x.2) = [3, 10] := by
  decide +kernel

/-- Chapter 12's worked case: the first query of a BELIEVE with E 315 and FIRST, and the second without. -/
theorem test_cell_query :
    let w : Win := { seq := 77002, issued := true, verdict := 1, escape := 315, token := true }
    let s := { on .run with vrd := { queues := [{ newest := 77002, next := 77003, win := [(77002 % 256, w)] }] ++ List.replicate 63 {} } }
    let a := after (.vrdQuery 1 0 { seq := 77002 }) s
    (a.vq 0).ansVer = 0x013B0019 ∧ ((after (.vrdQuery 2 0 { seq := 77002 }) a).vq 0).ansVer = 0x013B0011 ∧ (a.vq 0).ansSeq = 77002 := by
  decide +kernel

/-- Chapter 8's worked case: the index 2051 at element 4 stops the gather, with the address that AUD_FAULT_ADDR shows, after four
rows. The rows are cut to 16 elements here, which changes no figure. -/
theorem test_cell_gather :
    let s := { withImg .run { rules := [{ ident := 0, kind := 0, perm := 1, base := 0x1420000000, pages := 4096 }] } with
               mem := memPutAll [] 0x1420100010 (leBytes 4 2051) }
    let o := s.runDesc false 1 0
      { op := 6, fmtA := 0x0E, fmtB := 0x0C, fmtOut := 0x0E, flags := 0x19, job := 0x21A07, index := 48, ident := 0, cls := 1,
        srcA := 0x1420000000, srcB := 0x1420100000, dst := 0x100400000, m := 32, n := 16, k := 2048, strideA := 256, strideB := 4,
        strideD := 256 }
    o.status = 2 ∧ o.elem = 4 ∧ o.kind = 1 ∧ o.addr = 0x1420080300 ∧ o.writes.length = 4 := by decide +kernel

/-- Chapter 3's worked case: 2100-02-29 is no date, and 2100-02-28 23:59:59.0 is followed after 1.0 s by 2100-03-01 00:00:00.0, a
Monday. -/
theorem test_calendar_2100 :
    ({ year := 100, month := 2, day := 29, hour := 10 } : Cal).ok = false ∧
      (let c := calAt (({ year := 100, month := 2, day := 28, hour := 23, minute := 59, second := 59 } : Cal).tenthsOf + 10)
       c = { year := 100, month := 3, day := 1 } ∧ c.weekday = 1) := by decide +kernel

/-! ## Well-formed commands -/

/-- A request header with every field in its range. -/
def okReq : CfgReq := ⟨1, 0, []⟩

/-- A certificate of the stated lengths. -/
def okCert : Cert := ⟨0, zeros 16, 0, false, zeros 64⟩

/-- Breakpoint fields within their registers. -/
def okBp : BpMatch := ⟨0, 0, 0, false, false, false, false, 0⟩

/-- A well-formed command of every constructor with a check, part 1. -/
def formed1 : List Instr :=
  [ .powerGood 0 0 0,
    .stageS1 0 ⟨true, true, 0⟩,
    .stageS3 0 ⟨0, 0⟩,
    .stageS4 0 ⟨0, 0⟩,
    .sealSwitchChange 0 0 true true,
    .sealContactDisagree 0 0,
    .ioSupplyOutOfWindow 0 true 0,
    .ioSupplyRecovered 0 0 0,
    .ptpSyncReceived 0 ⟨0, 0, 0⟩,
    .ptpGrandmasterLost 0 0,
    .triggerEdge 0 0,
    .trigStartWrite 0 0 0,
    .trigPeriodWrite 0 0 0,
    .trigWidthWrite 0 0 0,
    .trigCtrlWrite 0 0 0,
    .read 0 okReq [0],
    .exportObject 0 okReq 0 0 0,
    .uploadBegin 0 okReq,
    .uploadData 0 okReq true 0 [],
    .uploadEnd 0 okReq,
    .activate 0 okReq,
    .restart 0 okReq,
    .enrol 0 okReq (some (zeros 32)) (some [0]) (some 0),
    .setPassword 0 okReq [],
    .setRtc 0 okReq .follow,
    .setUtcOfs 0 okReq 0,
    .clearChangeLog 0 okReq,
    .clearDoldrums 0 okReq,
    .fieldReset 0 okReq okCert,
    .frameStart 0 0,
    .frameEnd 0 0 ⟨[], false, none⟩,
    .checkFinalStatus 0 0,
    .streamStallExpiry 0 0,
    .frameDeliveryComplete 0 0 ⟨0, 0⟩,
    .descriptorDispatch 0 0,
    .descriptorComplete 0 0 {},
    .descriptorHang 0 0,
    .coreBistComplete 0 0 true,
    .rollingSelftestSegment 0 0 .done,
    .safeStateJobIssue 0 31 ]

/-- A well-formed command of every constructor with a check, part 2. -/
def formed2 : List Instr :=
  [ .safeStateDeadline 0 0,
    .beuCmdSubmit 0 0 true (zeros 64),
    .beuCmdStart 0 0 true,
    .beuCmdComplete 0 0 { channel := 0 },
    .beuFenceComplete 0 0 true,
    .beuSwitchGo 0 0 0,
    .beuSwitchDrainComplete 0 0,
    .beuSwitchFenceComplete 0 0,
    .beuSwitchComplete 0 0,
    .scrubStep 0 0 0 [0],
    .stackTempChange 0 0 0,
    .stackCoolExpiry 0 0,
    .sqTailDoorbell 0 0 0,
    .submissionConsume 0 0 (zeros 64),
    .witnessLockEffective 0 0,
    .resultCommit 0 0,
    .ageDeadlineExpiry 0 0 0,
    .verdictPathWatchdog 0 0 0,
    .vrdQuery 0 0 { seq := 0 },
    .slbCycle 0 ⟨[0, 0, 0, 0, 0, 0, 0, 0], 0, 0, false, 0⟩,
    .inputFilterSettle 0 0 true true,
    .blankingEnd 0 0 true,
    .discrepancyExpiry 0 0,
    .testPulse 0 0 ⟨0, 0⟩,
    .outputOfftest 0 0 true,
    .ss1MaxExpiry 0 0,
    .standstillHeld 0 0,
    .brakeReleaseDelayExpiry 0 0,
    .brakePullinExpiry 0 0,
    .encoderFault 0 0 true,
    .jointsMessage 0 ⟨0, 0, []⟩,
    .stopRequest 0 ⟨0, 0, []⟩,
    .resetRequest 0 ⟨0, 0, []⟩,
    .aliveMessage 0 ⟨0, 0, []⟩,
    .pathAnnounce 0 ⟨0, 0, []⟩,
    .skewWindowEnd 0 0 0,
    .smlWatchdogExpiry 0 0,
    .smlOpeningExpiry 0 0,
    .statusSend 0 0,
    .pathAnnounceSend 0 0 ]

/-- A well-formed command of every constructor with a check, part 3. -/
def formed3 : List Instr :=
  [ .ethLinkChange 0 0 true,
    .cvuComputeComplete 0 0 ⟨[], some 0, false⟩,
    .xwlClaimReceived 0 ⟨0, [], false⟩,
    .xwlSyncReceived 0 ⟨0, [], false⟩,
    .xwlSafetyReceived 0 ⟨0, [], false⟩,
    .xwlNodeTimeout 0 0,
    .xwlDelayMeasure 0 0 0,
    .xwlBulkReceived 0 ⟨0, [], false⟩,
    .xwlReturnTimeout 0 0,
    .hqEnableWrite 0 0 true,
    .hqReset 0 0,
    .queueResetComplete 0 0,
    .hqResume 0 0,
    .cqHeadWrite 0 0 0,
    .hqIrqWrite 0 0 0,
    .irqTimeExpiry 0 0,
    .deliveryTailWrite 0 0 0,
    .hqCheckpoint 0 0,
    .bar2Access 0 ⟨0, 0, some 0, none, 0⟩,
    .tsuAliveWindowEnd 0 0,
    .tsuDeadlineExpiry 0 0,
    .tsuBudgetExceeded 0 0,
    .psmWakeComplete 0 0,
    .bgUrgent 0 0,
    .bgDeadlineMiss 0 0,
    .monLevelSample 0 0 0,
    .monSnapshot 0 .host 0,
    .monSnapshotClear 0 .host 0,
    .logSelWrite 0 .host 0,
    .frSelWrite 0 .host 0,
    .samplePreload 0 0 0,
    .extest 0 0,
    .bypass 0 0,
    .dbgUnlock 0 (.password []),
    .halt 0 0,
    .dbgResume 0 0,
    .step 0 0,
    .setBp 0 0 okBp,
    .readCore 0 0,
    .dbgMem 0 ⟨0, 4, some 0⟩ ]

/-- A well-formed command of every constructor with a check, part 4. -/
def formed4 : List Instr :=
  [ .registerWrite 0 .host true 0 0,
    .stackTrainingLoss 0 0,
    .safeMessageRefused 0 ⟨0, 0, []⟩,
    .bestMasterClockSelection 0 ⟨0, 0, 0⟩,
    .xwlLaneLoss 0 0,
    .tsuBudgetPeriodEnd 0 0,
    .breezeCoreGate 0 0,
    .xwlBulkUnit 0 0,
    .triggerPulseEnd 0 0,
    .overcurrentCutOff 0 0 ]

/-- A command that breaks one check of `wellFormed`, for every check, part 1. -/
def illFormed1 : List Instr :=
  [ .powerGood 0 (2 ^ 16) 0,
    .powerGood 0 0 (2 ^ 16),
    .stageS1 0 ({ (⟨true, true, 0⟩ : S1Result) with fwVersion := 2 ^ 32 }),
    .stageS3 0 ({ (⟨0, 0⟩ : S3Result) with rows := 2 ^ 10 }),
    .stageS3 0 ({ (⟨0, 0⟩ : S3Result) with subject := 2 ^ 16 }),
    .stageS4 0 ({ (⟨0, 0⟩ : S4Result) with coreFail := 2 ^ 16 }),
    .stageS4 0 ({ (⟨0, 0⟩ : S4Result) with checks := 2 ^ 11 }),
    .sealSwitchChange 0 4 true true,
    .sealContactDisagree 0 4,
    .ioSupplyOutOfWindow 0 true (2 ^ 16),
    .ioSupplyRecovered 0 (2 ^ 16) 0,
    .ioSupplyRecovered 0 0 (2 ^ 16),
    .ptpSyncReceived 0 ({ (⟨0, 0, 0⟩ : PtpSync) with port := 2 }),
    .ptpSyncReceived 0 ({ (⟨0, 0, 0⟩ : PtpSync) with gm := 2 ^ 64 }),
    .ptpGrandmasterLost 0 2,
    .triggerEdge 0 8,
    .trigStartWrite 0 8 0,
    .trigStartWrite 0 0 (2 ^ 64),
    .trigPeriodWrite 0 8 0,
    .trigPeriodWrite 0 0 (2 ^ 64),
    .trigWidthWrite 0 8 0,
    .trigWidthWrite 0 0 (2 ^ 32),
    .trigCtrlWrite 0 8 0,
    .trigCtrlWrite 0 0 (2 ^ 32),
    .read 0 ({ okReq with frame := zeros 1478 }) [0],
    .read 0 okReq [0, 2 ^ 40],
    .exportObject 0 ({ okReq with frame := zeros 1478 }) 0 0 0,
    .exportObject 0 okReq 256 0 0,
    .exportObject 0 okReq 0 (2 ^ 32) 0,
    .exportObject 0 okReq 0 0 (2 ^ 32),
    .uploadBegin 0 ({ okReq with frame := zeros 1478 }),
    .uploadData 0 ({ okReq with frame := zeros 1478 }) true 0 [],
    .uploadData 0 okReq true (2 ^ 32) [],
    .uploadEnd 0 ({ okReq with frame := zeros 1478 }),
    .activate 0 ({ okReq with frame := zeros 1478 }),
    .restart 0 ({ okReq with frame := zeros 1478 }),
    .enrol 0 ({ okReq with frame := zeros 1478 }) (some (zeros 32)) (some [0]) (some 0),
    .enrol 0 okReq (some (zeros 32)) (some [0]) (some (16)),
    .enrol 0 okReq (some (zeros 31)) (some [0]) (some 0),
    .setPassword 0 ({ okReq with frame := zeros 1478 }) [] ]

/-- A command that breaks one check of `wellFormed`, for every check, part 2. -/
def illFormed2 : List Instr :=
  [ .setPassword 0 okReq (zeros 65),
    .setRtc 0 ({ okReq with frame := zeros 1478 }) .follow,
    .setRtc 0 okReq (.load (2 ^ 64)),
    .setUtcOfs 0 ({ okReq with frame := zeros 1478 }) 0,
    .setUtcOfs 0 okReq (2 ^ 16),
    .clearChangeLog 0 ({ okReq with frame := zeros 1478 }),
    .clearDoldrums 0 ({ okReq with frame := zeros 1478 }),
    .fieldReset 0 ({ okReq with frame := zeros 1478 }) okCert,
    .fieldReset 0 okReq ({ okCert with nonce := [] }),
    .frameStart 0 16,
    .frameEnd 0 16 ⟨[], false, none⟩,
    .checkFinalStatus 0 16,
    .streamStallExpiry 0 16,
    .frameDeliveryComplete 0 16 ⟨0, 0⟩,
    .frameDeliveryComplete 0 0 ({ (⟨0, 0⟩ : BufDesc) with addr := 2 ^ 64 }),
    .frameDeliveryComplete 0 0 ({ (⟨0, 0⟩ : BufDesc) with length := 2 ^ 32 }),
    .descriptorDispatch 0 16,
    .descriptorComplete 0 16 {},
    .descriptorComplete 0 0 { flip := 2 ^ 64 },
    .descriptorHang 0 16,
    .coreBistComplete 0 16 true,
    .rollingSelftestSegment 0 16 .done,
    .safeStateJobIssue 0 32,
    .safeStateDeadline 0 32,
    .beuCmdSubmit 0 2 true (zeros 64),
    .beuCmdSubmit 0 0 true (zeros 63),
    .beuCmdStart 0 2 true,
    .beuCmdComplete 0 2 { channel := 0 },
    .beuCmdComplete 0 0 { channel := 16 },
    .beuFenceComplete 0 2 true,
    .beuSwitchGo 0 2 0,
    .beuSwitchGo 0 0 (2 ^ 32),
    .beuSwitchDrainComplete 0 2,
    .beuSwitchFenceComplete 0 2,
    .beuSwitchComplete 0 2,
    .scrubStep 0 2 0 [0],
    .scrubStep 0 0 0 [0, 128],
    .stackTempChange 0 2 0,
    .stackTempChange 0 0 256,
    .stackCoolExpiry 0 2 ]

/-- A command that breaks one check of `wellFormed`, for every check, part 3. -/
def illFormed3 : List Instr :=
  [ .sqTailDoorbell 0 64 0,
    .sqTailDoorbell 0 0 (2 ^ 32),
    .submissionConsume 0 64 (zeros 64),
    .submissionConsume 0 0 (zeros 63),
    .witnessLockEffective 0 64,
    .resultCommit 0 64,
    .ageDeadlineExpiry 0 64 0,
    .ageDeadlineExpiry 0 0 (2 ^ 32),
    .verdictPathWatchdog 0 64 0,
    .verdictPathWatchdog 0 0 (2 ^ 32),
    .vrdQuery 0 64 { seq := 0 },
    .vrdQuery 0 0 { seq := 2 ^ 32 },
    .slbCycle 0 ⟨[0], 0, 0, false, 0⟩,
    .slbCycle 0 ({ (⟨[0, 0, 0, 0, 0, 0, 0, 0], 0, 0, false, 0⟩ : SlbIn) with counts := List.replicate 8 (2 ^ 32) }),
    .slbCycle 0 ({ (⟨[0, 0, 0, 0, 0, 0, 0, 0], 0, 0, false, 0⟩ : SlbIn) with ioA := 2 ^ 16 }),
    .slbCycle 0 ({ (⟨[0, 0, 0, 0, 0, 0, 0, 0], 0, 0, false, 0⟩ : SlbIn) with ioB := 2 ^ 16 }),
    .slbCycle 0 ({ (⟨[0, 0, 0, 0, 0, 0, 0, 0], 0, 0, false, 0⟩ : SlbIn) with readback := 2 ^ 14 }),
    .inputFilterSettle 0 17 true true,
    .blankingEnd 0 17 true,
    .discrepancyExpiry 0 17,
    .testPulse 0 8 ⟨0, 0⟩,
    .testPulse 0 0 ({ (⟨0, 0⟩ : PulseIn) with stuckOn := 2 ^ 32 }),
    .testPulse 0 0 ({ (⟨0, 0⟩ : PulseIn) with crossed := 2 ^ 32 }),
    .outputOfftest 0 14 true,
    .ss1MaxExpiry 0 4,
    .standstillHeld 0 4,
    .brakeReleaseDelayExpiry 0 4,
    .brakePullinExpiry 0 4,
    .encoderFault 0 8 true,
    .jointsMessage 0 ⟨2, 0, []⟩,
    .stopRequest 0 ⟨2, 0, []⟩,
    .resetRequest 0 ⟨2, 0, []⟩,
    .aliveMessage 0 ⟨2, 0, []⟩,
    .pathAnnounce 0 ⟨2, 0, []⟩,
    .skewWindowEnd 0 (2 ^ 16) 0,
    .skewWindowEnd 0 0 (2 ^ 16),
    .smlWatchdogExpiry 0 (2 ^ 16),
    .smlOpeningExpiry 0 (2 ^ 16),
    .statusSend 0 (2 ^ 16),
    .pathAnnounceSend 0 2 ]

/-- A command that breaks one check of `wellFormed`, for every check, part 4. -/
def illFormed4 : List Instr :=
  [ .ethLinkChange 0 4 true,
    .cvuComputeComplete 0 32 ⟨[], some 0, false⟩,
    .cvuComputeComplete 0 0 ({ (⟨[], some 0, false⟩ : CvuReq) with expected := some (2 ^ 32) }),
    .xwlClaimReceived 0 ({ (⟨0, [], false⟩ : XwlRx) with lane := 2 }),
    .xwlSyncReceived 0 ({ (⟨0, [], false⟩ : XwlRx) with lane := 2 }),
    .xwlSafetyReceived 0 ({ (⟨0, [], false⟩ : XwlRx) with lane := 2 }),
    .xwlNodeTimeout 0 8,
    .xwlDelayMeasure 0 (2 ^ 16) 0,
    .xwlDelayMeasure 0 0 (2 ^ 16),
    .xwlBulkReceived 0 ({ (⟨0, [], false⟩ : XwlRx) with lane := 2 }),
    .xwlReturnTimeout 0 (2 ^ 32),
    .hqEnableWrite 0 64 true,
    .hqReset 0 64,
    .queueResetComplete 0 64,
    .hqResume 0 64,
    .cqHeadWrite 0 64 0,
    .cqHeadWrite 0 0 (2 ^ 32),
    .hqIrqWrite 0 64 0,
    .hqIrqWrite 0 0 (2 ^ 32),
    .irqTimeExpiry 0 64,
    .deliveryTailWrite 0 16 0,
    .deliveryTailWrite 0 0 (2 ^ 32),
    .hqCheckpoint 0 (2 ^ 32),
    .bar2Access 0 ({ (⟨0, 0, some 0, none, 0⟩ : Bar2Req) with offset := 2 ^ 64 }),
    .bar2Access 0 ({ (⟨0, 0, some 0, none, 0⟩ : Bar2Req) with reqId := 2 ^ 16 }),
    .bar2Access 0 ({ (⟨0, 0, some 0, none, 0⟩ : Bar2Req) with pasid := some (2 ^ 20) }),
    .tsuAliveWindowEnd 0 512,
    .tsuDeadlineExpiry 0 512,
    .tsuBudgetExceeded 0 512,
    .psmWakeComplete 0 (2 ^ 16),
    .bgUrgent 0 5,
    .bgDeadlineMiss 0 5,
    .monLevelSample 0 64 0,
    .monSnapshot 0 .host (2 ^ 32),
    .monSnapshotClear 0 .host (2 ^ 32),
    .logSelWrite 0 .host (2 ^ 32),
    .frSelWrite 0 .host (2 ^ 32),
    .samplePreload 0 (2 ^ 64) 0,
    .samplePreload 0 0 (2 ^ 64),
    .extest 0 (2 ^ 64) ]

/-- A command that breaks one check of `wellFormed`, for every check, part 5. -/
def illFormed5 : List Instr :=
  [ .bypass 0 (2 ^ 64),
    .dbgUnlock 0 (.password (zeros 65)),
    .dbgUnlock 0 (.certificate { okCert with signature := [] }),
    .halt 0 (2 ^ 32),
    .dbgResume 0 (2 ^ 32),
    .step 0 16,
    .setBp 0 4 okBp,
    .setBp 0 0 ({ okBp with ident := 1024 }),
    .readCore 0 16,
    .dbgMem 0 ({ (⟨0, 4, some 0⟩ : DbgMemReq) with addr := 2 ^ 64 }),
    .dbgMem 0 ({ (⟨0, 4, some 0⟩ : DbgMemReq) with write := some (2 ^ 64) }),
    .registerWrite 0 .host true (2 ^ 64) 0,
    .registerWrite 0 .host true 0 (2 ^ 64),
    .stackTrainingLoss 0 2,
    .safeMessageRefused 0 ⟨2, 0, []⟩,
    .bestMasterClockSelection 0 ({ (⟨0, 0, 0⟩ : PtpSync) with port := 2 }),
    .bestMasterClockSelection 0 ({ (⟨0, 0, 0⟩ : PtpSync) with gm := 2 ^ 64 }),
    .xwlLaneLoss 0 2,
    .tsuBudgetPeriodEnd 0 512,
    .breezeCoreGate 0 16,
    .xwlBulkUnit 0 8,
    .triggerPulseEnd 0 8,
    .overcurrentCutOff 0 14,
    .uploadBegin 0 { okReq with port := 2 },
    .uploadBegin 0 { okReq with source := 2 ^ 48 },
    .fieldReset 0 okReq { okCert with signature := [] },
    .jointsMessage 0 ⟨0, 2 ^ 48, []⟩,
    .setBp 0 0 { okBp with op := 256 },
    .setBp 0 0 { okBp with cls := 256 },
    .setBp 0 0 { okBp with job := 2 ^ 32 } ]

theorem test_wf_takes_1 : formed1.all wellFormed = true := by decide +kernel

theorem test_wf_takes_2 : formed2.all wellFormed = true := by decide +kernel

theorem test_wf_takes_3 : formed3.all wellFormed = true := by decide +kernel

theorem test_wf_takes_4 : formed4.all wellFormed = true := by decide +kernel

theorem test_wf_refuses_1 : illFormed1.all (fun c => !wellFormed c) = true := by decide +kernel

theorem test_wf_refuses_2 : illFormed2.all (fun c => !wellFormed c) = true := by decide +kernel

theorem test_wf_refuses_3 : illFormed3.all (fun c => !wellFormed c) = true := by decide +kernel

theorem test_wf_refuses_4 : illFormed4.all (fun c => !wellFormed c) = true := by decide +kernel

theorem test_wf_refuses_5 : illFormed5.all (fun c => !wellFormed c) = true := by decide +kernel

/-! ## Witnesses: one theorem per statement, one existential per clause with hypotheses -/

theorem wit_StepRunsTheFrontCommand :
    (∃ (c : Instr) (r : List Instr) (s : State), s.pending = c :: r) :=
  ⟨.idcode 1, [], { State.reset with pending := [.idcode 1] }, rfl⟩

theorem wit_EmptyQueueIdles :
    (∃ s : State, s.pending = []) :=
  ⟨State.reset, by decide +kernel⟩

theorem wit_OutputsAreEnergisedOnlyUnderBothElements :
    (∃ s s' : State, s.outputsOk ∧ step s = .next s') :=
  ⟨State.reset, State.reset, reset_outputsOk, rfl⟩

theorem wit_MemoryKeepsItsCanonicalForm :
    (∃ s s' : State, s.memoryOk ∧ step s = .next s') :=
  ⟨{ State.reset with mem := [(3, 1)] }, { State.reset with mem := [(3, 1)] }, ⟨by decide, by decide⟩, rfl⟩

theorem wit_RegisterFilesKeepTheirLength :
    (∃ s s' : State, s.shaped ∧ step s = .next s') :=
  ⟨State.reset, State.reset, shaped_of (by decide +kernel), rfl⟩

theorem wit_TimeNeverGoesBack :
    (∃ s s' : State, step s = .next s') :=
  ⟨{ State.reset with pending := [.idcode 1] }, _, rfl⟩

theorem wit_LockoutCountsOnlyWhilePowered :
    (∃ (t : Nat) (s : State), s.sup.on = true) ∧
    (∃ (t : Nat) (s : State), s.sup.on = false) ∧
    (∃ s : State, s.sup.on = true ∧ s.secrets.lock = 600 * sec) :=
  ⟨⟨5, on .run, by decide +kernel⟩,
    ⟨5, State.reset, by decide +kernel⟩,
    ⟨{ on .run with nvm := { secrets := ({ lock := 600 * sec } : Secrets).store } }, by decide +kernel⟩⟩

theorem wit_PowerEntersStartAndLeavesToOff :
    (∃ (t vin backup : Nat) (s : State), s.sup.on = false ∧ (s.at t).counter < 3) ∧
    (∃ (t : Nat) (s : State), s.sup.on = true ∧ s.sys.powerFail = false) ∧
    (∃ (t : Nat) (s : State), s.sup.on = true ∧ s.sys.powerFail = true) ∧
    (∃ (t : Nat) (s : State), s.sup.on = false) :=
  ⟨⟨5, 12000, 5000, State.reset, by decide +kernel⟩,
    ⟨5, on .run, by decide +kernel⟩,
    ⟨5, { on .run with sys := { state := .run, powerFail := true } }, by decide +kernel⟩,
    ⟨5, State.reset, by decide +kernel⟩⟩

theorem wit_SuppliesAndTemperatureTrip :
    (∃ (t : Nat) (b : Bool) (mv : Nat) (s : State), s.sup.on = true ∧ (mv < 18000 ∨ 32000 < mv)) ∧
    (∃ (t a b : Nat) (s : State), s.sup.on = true ∧ 19200 ≤ a ∧ a ≤ 30000 ∧ 19200 ≤ b ∧ b ≤ 30000) ∧
    (∃ (t : Nat) (s : State), s.sup.on = true) ∧
    (∃ (t : Nat) (s : State), s.sup.on = true ∧ s.sup.thermal = false ∧ s.sys.powerFail = false ∧ s.sys.state = .run) ∧
    (∃ (t : Nat) (s : State), s.sup.on = true ∧ s.sup.thermal = true ∧ s.sys.powerFail = false ∧ s.sys.state = .start) :=
  ⟨⟨5, false, 17999, on .run, by decide +kernel⟩,
    ⟨5, 19200, 30000, on .run, by decide +kernel⟩,
    ⟨5, on .run, by decide +kernel⟩,
    ⟨5, on .run, by decide +kernel⟩,
    ⟨5, { on .start with sup := { on := true, thermal := true } }, by decide +kernel⟩⟩

theorem wit_ProbePresenceOnlyLogs :
    (∃ (t : Nat) (low : Bool) (s : State), s.sup.on = true ∧ s.dbg.pres ≠ low) :=
  ⟨5, true, on .run, by decide +kernel⟩

theorem wit_SealChangesTripInRun :
    (∃ (t sw : Nat) (on : Bool) (s : State), sw < 4 ∧ s.sys.state = .run ∧ s.sys.pendTrips = [] ∧ s.secrets.run ≠ some (maskOf (setN s.seals.agreed sw on))) ∧
    (∃ (t sw i : Nat) (s : State), s.shaped ∧ sw < 4 ∧ s.sys.state = .run ∧ s.sys.pendTrips = [] ∧ getN s.seals.since sw = some i ∧ i + 50 * ms ≤ (s.at t).now) ∧
    (∃ (t : Nat) (s : State), s.sup.on = true ∧ s.seals.open_ = false ∧ s.sys.state = .run ∧ s.sys.pendTrips = []) :=
  ⟨⟨5, 3, true, on .run, by decide +kernel⟩,
    ⟨50 * ms, 3, 0, { on .run with seals := { since := List.replicate 4 (some 0) } }, shaped_of (by decide +kernel), by decide +kernel⟩,
    ⟨5, on .run, by decide +kernel⟩⟩

theorem wit_SpTimersActAsStated :
    (∃ (t : Nat) (s : State), (s.at t).sys.degRun = true ∧ (s.at t).degLimit ≤ (s.at t).sys.degElapsed) ∧
    (∃ (t i : Nat) (s : State), s.sys.ss1At = some i ∧ i + ((s.at t).ss1Longest + 10 * ms) ≤ (s.at t).now ∧ s.stopped = false) ∧
    (∃ (t i : Nat) (s : State), s.sys.armedAt = some i ∧ i + 30 * sec ≤ (s.at t).now) ∧
    (∃ (t : Nat) (s : State), (s.at t).spRuns = true ∧ s.sys.powerFail = true) ∧
    (∃ (t : Nat) (s : State), (s.at t).spRuns = true ∧ s.sys.powerFail = false ∧ s.sys.state = .doldrums) :=
  ⟨⟨1800 * sec, { on .degraded with sys := { state := .degraded, degRun := true } }, by decide +kernel⟩,
    ⟨5 + 10 * ms, 5, { on .halted with sys := { state := .halted, ss1At := some 5 }, slb := { groups := List.replicate 4 { state := .time } } }, by decide +kernel⟩,
    ⟨30 * sec, 0, { on .halted with sys := { state := .halted, armedAt := some 0 } }, by decide +kernel⟩,
    ⟨5, { on .run with sys := { state := .run, powerFail := true } }, by decide +kernel⟩,
    ⟨5, on .doldrums, by decide +kernel⟩⟩

theorem wit_TripSourceIsTheFirst :
    (∃ (own : Bool) (x : Trip) (s : State), s.sys.state.permits = true) ∧
    (∃ (own : Bool) (x : Trip) (s : State), s.sys.state = .halted) ∧
    (∃ (own : Bool) (x : Trip) (s : State), (s.sys.state = .start ∨ s.sys.state = .doldrums)) :=
  ⟨⟨true, { src := 1, sto := true }, on .run, by decide +kernel⟩,
    ⟨true, { src := 1, sto := true }, on .halted, by decide +kernel⟩,
    ⟨true, { src := 1, sto := true }, on .start, by decide +kernel⟩⟩

theorem wit_StagesS0ToS2PassAndFail :
    (∃ (t : Nat) (r : S0Result) (s : State), (s.at t).inTime 0 ∧ s.start.counted = true ∧ r.selfTest = true ∧ r.holdup = true) ∧
    (∃ (t : Nat) (r : S0Result) (s : State), (s.at t).inTime 0 ∧ s.start.counted = true ∧ r.selfTest = false) ∧
    (∃ (t : Nat) (r : S0Result) (s : State), (s.at t).inTime 0 ∧ s.start.counted = false) ∧
    (∃ (t : Nat) (r : S1Result) (s : State), (s.at t).inTime 1 ∧ r.romCrc = true ∧ r.fwSignature = true ∧ s.nvm.floor ≤ r.fwVersion) ∧
    (∃ (t : Nat) (r : S1Result) (s : State), (s.at t).inTime 1 ∧ (r.romCrc = false ∨ r.fwSignature = false ∨ r.fwVersion < s.nvm.floor)) ∧
    (∃ (t : Nat) (r : S2Result) (s : State), (s.at t).inTime 2 ∧ (s.at t).retValid r = true) ∧
    (∃ (t : Nat) (r : S2Result) (s : State), (s.at t).inTime 2 ∧ (s.at t).retValid r = false ∧ r.faultAfterZero = false) :=
  ⟨⟨5, { selfTest := true, holdup := true }, up 0, ⟨by decide, by decide, by decide⟩, by decide +kernel⟩,
    ⟨5, { selfTest := false, holdup := true }, up 0, ⟨by decide, by decide, by decide⟩, by decide +kernel⟩,
    ⟨5, { selfTest := true, holdup := true }, on .start, ⟨by decide, by decide, by decide⟩, by decide +kernel⟩,
    ⟨5, { romCrc := true, fwSignature := true, fwVersion := 1 }, up 1, ⟨by decide, by decide, by decide⟩, by decide +kernel⟩,
    ⟨5, { romCrc := false, fwSignature := true, fwVersion := 1 }, up 1, ⟨by decide, by decide, by decide⟩, by decide +kernel⟩,
    ⟨5, ⟨true, true, true, true, false, false⟩, { up 2 with ret := { held := true } }, ⟨by decide, by decide, by decide⟩, by decide +kernel⟩,
    ⟨5, ⟨false, true, true, true, false, false⟩, { up 2 with ret := { held := true } }, ⟨by decide, by decide, by decide⟩, by decide +kernel⟩⟩

theorem wit_StagesS3ToS5PassAndFail :
    (∃ (t : Nat) (r : S3Result) (s : State), (s.at t).inTime 3 ∧ r.rows % 1024 = 1023 ∧ s.dbg.halted.any id = false ∧ s.dbg.spHalted = false) ∧
    (∃ (t : Nat) (r : S3Result) (s : State), (s.at t).inTime 3 ∧ (s.dbg.halted.any id = true ∨ s.dbg.spHalted = true)) ∧
    (∃ (t : Nat) (r : S4Result) (s : State), (s.at t).inTime 4 ∧ s.shaped ∧ (∀ i < 10, bit r.checks i = true) ∧ getN s.slb.outSeen 0 = false ∧ getN s.slb.outSeen 1 = false ∧ s.slb.supplyTrip = false ∧ ((List.range 16).filter fun n => bit r.coreFail n).length < 3 ∧ s.dbg.halted.any id = false ∧ s.dbg.spHalted = false) ∧
    (∃ (t : Nat) (r : S4Result) (s : State), (s.at t).inTime 4 ∧ s.shaped ∧ (∀ i < 10, bit r.checks i = true) ∧ getN s.slb.outSeen 0 = false ∧ getN s.slb.outSeen 1 = false ∧ s.slb.supplyTrip = false ∧ 3 ≤ ((List.range 16).filter fun n => bit r.coreFail n).length ∧ s.dbg.halted.any id = false ∧ s.dbg.spHalted = false) ∧
    (∃ (t : Nat) (r : S5Result) (s : State), (s.at t).inTime 5 ∧ s.outputsSound ∧ s.start.warm = false ∧ r.trained = true ∧ r.tested = true ∧ r.swept = true ∧ r.beuOk = true) :=
  ⟨⟨5, ⟨1023, 0⟩, up 3, ⟨by decide, by decide, by decide⟩, by decide +kernel⟩,
    ⟨5, ⟨0, 0⟩, { up 3 with dbg := { halted := List.replicate 16 true } }, ⟨by decide, by decide, by decide⟩, by decide +kernel⟩,
    ⟨5, ⟨3, 1023⟩, up 4, ⟨by decide, by decide, by decide⟩, shaped_of (by decide +kernel), by decide +kernel⟩,
    ⟨5, ⟨7, 1023⟩, up 4, ⟨by decide, by decide, by decide⟩, shaped_of (by decide +kernel), by decide +kernel⟩,
    ⟨5, ⟨true, true, true, true⟩, up 5, ⟨by decide, by decide, by decide⟩, ⟨by decide +kernel, by decide +kernel⟩, by decide +kernel⟩⟩

theorem wit_StagesS6ToS8CompleteTheStart :
    (∃ (t : Nat) (r : S6Result) (s : State), (s.at t).inTime 6 ∧ s.outputsSound ∧ r.storeReadable = true ∧ r.weightsWritable = true ∧ s.cfg.admitted = false) ∧
    (∃ (t : Nat) (r : S7Result) (s : State), (s.at t).inTime 7 ∧ s.outputsSound ∧ r.handshake = true ∧ s.cfg.admitted = false ∧ r.missingLink = none ∧ r.ptpRequired = false ∧ s.dbg.held = none) ∧
    (∃ (t : Nat) (r : S7Result) (s u : State), (s.at t).inTime 7 ∧ s.outputsSound ∧ (s.at t).slbParams = some u ∧ r.handshake = true ∧ s.cfg.admitted = true ∧ r.missingLink = none ∧ r.ptpRequired = false ∧ (bit u.ring.flags 0 = false ∨ u.xwl.up = true)) ∧
    (∃ (t : Nat) (r : S7Result) (s : State), (s.at t).inTime 7 ∧ s.outputsSound ∧ r.handshake = false) ∧
    (∃ (t : Nat) (dest : St) (s : State), (s.at t).inTime 8 ∧ s.outputsSound ∧ s.dbg.held = none ∧ s.start.dest = some dest ∧ s.fencedCount = 0) :=
  ⟨⟨5, ⟨true, true⟩, up 6, ⟨by decide, by decide, by decide⟩, ⟨by decide +kernel, by decide +kernel⟩, by decide +kernel⟩,
    ⟨5, ⟨true, none, false⟩, up 7, ⟨by decide, by decide, by decide⟩, ⟨by decide +kernel, by decide +kernel⟩, by decide +kernel⟩,
    ⟨5, ⟨true, none, false⟩, { up 7 with cfg := { admitted := true } }, _, ⟨by decide, by decide, by decide⟩, ⟨by decide +kernel, by decide +kernel⟩, params_of (by decide +kernel), by decide +kernel⟩,
    ⟨5, ⟨false, none, false⟩, up 7, ⟨by decide, by decide, by decide⟩, ⟨by decide +kernel, by decide +kernel⟩, by decide +kernel⟩,
    ⟨5, .commission, { up 8 with start := { stage := 8, counted := true, dest := some .commission }, aud := { cores := List.replicate 16 { state := .admitted } } }, ⟨by decide, by decide, by decide⟩, ⟨by decide +kernel, by decide +kernel⟩, by decide +kernel⟩⟩

theorem wit_StartLimitsHoldAndCounter :
    (∃ (t : Nat) (s : State), (s.at t).inStage s.start.stage = true ∧ s.start.stageAt + stageLimit s.start.stage ≤ (s.at t).now) ∧
    (∃ (t : Nat) (s : State), (s.at t).inStage s.start.stage = true ∧ s.start.s0At + 20 * sec ≤ (s.at t).now) ∧
    (∃ (t i : Nat) (s : State), s.sup.on = true ∧ s.sys.state = .start ∧ s.start.holdAt = some i ∧ i + sec ≤ (s.at t).now ∧ s.sys.powerFail = false ∧ s.sys.spHeld = false ∧ s.sup.thermal = false ∧ s.start.holdLast = false ∧ (s.at t).counter < 3) ∧
    (∃ (t i : Nat) (s : State), s.sup.on = true ∧ s.sys.state = .start ∧ s.start.holdAt = some i ∧ i + sec ≤ (s.at t).now ∧ s.sys.powerFail = false ∧ s.sys.spHeld = false ∧ s.sup.thermal = false ∧ s.start.holdLast = true) ∧
    (∃ (t i : Nat) (s : State), s.sup.on = true ∧ s.slb.holdAt = some i ∧ i + 60 * sec ≤ (s.at t).now ∧ (s.at t).clearFree = true) ∧
    (∃ (t i : Nat) (x : ClearCut) (s : State), s.sup.on = true ∧ s.slb.holdAt = some i ∧ i + 60 * sec ≤ (s.at t).now ∧ (s.at t).clearFree = true ∧ x ≠ .whole ∧ s.nvm.counter.bOk = true) ∧
    (∃ (t : Nat) (s : State), (s.at t).spRuns = true ∧ s.sys.state = .doldrums ∧ s.start.diagAt = none) :=
  ⟨⟨2000 * ms, up 0, by decide +kernel⟩,
    ⟨20 * sec, { up 7 with start := { stage := 7, stageAt := 19 * sec } }, by decide +kernel⟩,
    ⟨sec, 0, { up 3 with start := { stage := 3, holdAt := some 0 } }, by decide +kernel⟩,
    ⟨sec, 0, { up 3 with start := { stage := 3, holdAt := some 0, holdLast := true } }, by decide +kernel⟩,
    ⟨60 * sec, 0, { on .run with slb := { holdAt := some 0 } }, by decide +kernel⟩,
    ⟨60 * sec, 0, .inFirst, { on .run with slb := { holdAt := some 0 } }, by decide +kernel⟩,
    ⟨5, on .doldrums, by decide +kernel⟩⟩

theorem wit_ClockMonitorsAct :
    (∃ (t : Nat) (s : State), s.sup.on = true ∧ s.clk.rtcOk = true) ∧
    (∃ (t : Nat) (s : State), s.sup.on = true ∧ s.clk.ptpOk = true) ∧
    (∃ (t : Nat) (s : State), s.sup.on = true ∧ s.clk.acOk = true ∧ (s.at t).acUnchecked = false) ∧
    (∃ (n : Nat) (s : State), s.shaped ∧ n < 16) ∧
    (∃ (t : Nat) (s : State), s.sup.on = true ∧ s.clk.spOk = true ∧ s.sys.powerFail = false ∧ s.sys.state = .run) ∧
    (∃ (t : Nat) (c : ClockId) (s : State), s.sup.on = true ∧ (c = .rtc ∨ c = .ptp ∨ c = .xwl) ∧ s.clk.okOf c = false) ∧
    (∃ (t i : Nat) (s : State), s.sup.on = true ∧ s.sys.spHeld = true ∧ s.clk.spOk = true ∧ s.clk.fabOk = true ∧ s.clk.okSince = some i ∧ i + 10 * ms ≤ (s.at t).now ∧ s.sys.powerFail = false ∧ s.sys.state = .start ∧ s.start.clkHeld = true) :=
  ⟨⟨5, on .run, by decide +kernel⟩,
    ⟨5, on .run, by decide +kernel⟩,
    ⟨5, on .run, by decide +kernel⟩,
    ⟨15, State.reset, shaped_of (by decide +kernel), by decide +kernel⟩,
    ⟨5, on .run, by decide +kernel⟩,
    ⟨5, .rtc, { on .run with clk := { rtcOk := false } }, by decide +kernel⟩,
    ⟨10 * ms, 0, { on .start with sys := { state := .start, spHeld := true }, clk := { okSince := some 0 }, start := { clkHeld := true } }, by decide +kernel⟩⟩

theorem wit_GptpSelectsLocksAndHoldsOver :
    (∃ (t : Nat) (y : PtpSync) (s : State), s.ptpOn y.port = true ∧ s.clk.gm ≠ some y.gm) ∧
    (∃ (t : Nat) (y : PtpSync) (s : State), s.ptpOn y.port = true ∧ s.clk.gm = some y.gm ∧ s.clk.port = y.port ∧ 9 ≤ s.clk.inLock ∧ y.offset.natAbs ≤ 1000 ∧ s.start.s7Done = false) ∧
    (∃ (t port : Nat) (s : State), s.sup.on = true ∧ port < 2 ∧ s.clk.port = port ∧ (getN s.clk.gms port).isSome = true ∧ getN s.clk.gms (1 - port) = none ∧ s.clk.sync ≠ .unset) ∧
    (∃ (t i : Nat) (s : State), s.clk.sync = .holdover ∧ s.clk.lostAt = some i ∧ i + 60 * sec ≤ (s.at t).now) ∧
    (∃ (t i : Nat) (s : State), s.sup.on = true ∧ s.clk.portsDiffer = true ∧ s.clk.disSince = some i ∧ i + 10 * sec ≤ (s.at t).now ∧ s.clk.disLogged = false) :=
  ⟨⟨5, { port := 0, gm := 9, offset := 3 }, on .run, by decide +kernel⟩,
    ⟨5, { port := 0, gm := 9, offset := 1000 }, { on .run with clk := { gm := some 9, inLock := 9 } }, by decide +kernel⟩,
    ⟨5, 0, { on .run with clk := { gms := [some 9, none], gm := some 9, sync := .locked } }, by decide +kernel⟩,
    ⟨60 * sec, 0, { on .run with clk := { sync := .holdover, lostAt := some 0 } }, by decide +kernel⟩,
    ⟨10 * sec, 0, { on .run with clk := { gms := [some 8, some 9], offs := [0, 1001], disSince := some 0 } }, by decide +kernel⟩⟩

theorem wit_TriggersAreDrivenOnlyWhereAllowed :
    (∃ (t n d : Nat) (s : State), n < 8 ∧ (getN s.clk.trigs n).en = true ∧ (getN s.clk.trigs n).due = some d ∧ d ≤ (s.at t).dev ∧ (s.at t).dev < d + 8) :=
  ⟨0, 7, 1000, { on .run with clk := { dev := 1000, trigs := List.replicate 8 { en := true, due := some 1000, period := 1000000, width := 1000, start := 1000 } } }, by decide +kernel⟩

theorem wit_TriggerScheduleHolds :
    (∃ (t n d : Nat) (s : State), s.shaped ∧ n < 8 ∧ (getN s.clk.trigs n).en = true ∧ (getN s.clk.trigs n).due = some d ∧ (s.at t).trigOn = true ∧ d ≤ (s.at t).dev ∧ (s.at t).dev < d + 8 ∧ 1000000 ≤ (getN s.clk.trigs n).periodV) ∧
    (∃ (t n d : Nat) (s : State), s.shaped ∧ n < 8 ∧ (getN s.clk.trigs n).en = true ∧ (getN s.clk.trigs n).due = some d ∧ (s.at t).trigOn = true ∧ d + 8 ≤ (s.at t).dev) ∧
    (∃ (t n : Nat) (s : State), s.shaped ∧ n < 8 ∧ (getN s.clk.trigs n).pulse = true ∧ (getN s.clk.trigs n).pulseEnd ≤ (s.at t).dev) :=
  ⟨⟨0, 7, 1000, { on .run with clk := { dev := 1000, trigs := List.replicate 8 { en := true, due := some 1000, period := 1000000, width := 1000, start := 1000 } } }, shaped_of (by decide +kernel), by decide +kernel⟩,
    ⟨8, 7, 1000, { on .run with clk := { dev := 1000, trigs := List.replicate 8 { en := true, due := some 1000, period := 1000000, width := 1000, start := 1000 } } }, shaped_of (by decide +kernel), by decide +kernel⟩,
    ⟨0, 7, { on .run with clk := { dev := 1000, trigs := List.replicate 8 { pulse := true, pulseEnd := 1000 } } }, shaped_of (by decide +kernel), by decide +kernel⟩⟩

theorem wit_TriggerWritesTakeEffectAsStated :
    (∃ (t n v : Nat) (s : State), s.shaped ∧ s.regsUp = true ∧ n < 8) ∧
    (∃ (t n v : Nat) (s : State), s.shaped ∧ s.regsUp = true ∧ n < 8 ∧ v < 2 ^ 34) ∧
    (∃ (t n v : Nat) (s : State), s.shaped ∧ s.regsUp = true ∧ n < 8 ∧ v < 2 ^ 20) ∧
    (∃ (t n v : Nat) (s : State), s.shaped ∧ s.regsUp = true ∧ n < 8 ∧ bit v 0 = true) ∧
    (∃ (t n v : Nat) (s : State), s.shaped ∧ s.regsUp = true ∧ n < 8 ∧ bit v 0 = false) :=
  ⟨⟨5, 7, 10, on .run, shaped_of (by decide +kernel), by decide +kernel⟩,
    ⟨5, 7, 1000000, on .run, shaped_of (by decide +kernel), by decide +kernel⟩,
    ⟨5, 7, 1000, on .run, shaped_of (by decide +kernel), by decide +kernel⟩,
    ⟨5, 7, 1, on .run, shaped_of (by decide +kernel), by decide +kernel⟩,
    ⟨5, 7, 2, on .run, shaped_of (by decide +kernel), by decide +kernel⟩⟩

theorem wit_CalendarCountsTenths :
    (∃ (t : Nat) (s : State), s.rtc.following = false ∧ s.clk.rtcOk = true ∧ s.rtc.cal ≠ calLast) ∧
    (∃ (t : Nat) (s : State), s.rtc.following = false ∧ s.clk.rtcOk = true ∧ s.rtc.cal = calLast) ∧
    (∃ (t : Nat) (s : State), s.clk.rtcOk = true ∧ s.rtc.following = true ∧ s.sup.on = true ∧ s.sys.state ≠ .off) ∧
    (∃ (t : Nat) (s : State), s.clk.rtcOk = false) :=
  ⟨⟨5, on .run, by decide +kernel⟩,
    ⟨5, { on .run with rtc := { cal := calLast } }, by decide +kernel⟩,
    ⟨5, { on .run with rtc := { following := true } }, by decide +kernel⟩,
    ⟨5, { on .run with clk := { rtcOk := false } }, by decide +kernel⟩⟩

theorem wit_UploadsWriteTheStandbySlotOnly :
    (∃ (t : Nat) (q : CfgReq) (s : State), (s.at t).takes q 0x10 ∧ (s.at t).knows q ∧ s.shaped ∧ s.sys.state ∈ uploadStates ∧ s.cfg.session = none) ∧
    (∃ (t : Nat) (q : CfgReq) (s : State), (s.at t).takes q 0x10 ∧ (s.at t).knows q ∧ s.sys.state ∈ uploadStates ∧ (s.at t).uploading = true) ∧
    (∃ (t : Nat) (q : CfgReq) (o : Nat) (d : Bytes) (s : State), (s.at t).takes q 0x11 ∧ s.sys.state ∈ uploadStates ∧ (s.at t).inSession q = true ∧ d.length ≤ 1400 ∧ o ≤ s.cfg.upTo ∧ s.shaped ∧ (let old := getN s.cfg.slots s.standby; (let n := sizeSoFar old.image o d; o + d.length ≤ n + 268435456))) ∧
    (∃ (t : Nat) (q : CfgReq) (b : Bool) (o : Nat) (d : Bytes) (s : State), (s.at t).takes q 0x11 ∧ s.sys.state ∈ uploadStates ∧ (s.at t).inSession q = true ∧ b = false) ∧
    (∃ (t : Nat) (q : CfgReq) (o : Nat) (d : Bytes) (s : State), (s.at t).takes q 0x11 ∧ s.sys.state ∈ uploadStates ∧ (s.at t).inSession q = true ∧ s.cfg.upTo < o) ∧
    (∃ (t : Nat) (q : CfgReq) (s : State), (s.at t).takes q 0x12 ∧ s.shaped ∧ s.sys.state ∈ uploadStates ∧ (s.at t).inSession q = true) ∧
    (∃ (t : Nat) (x : Nat × Nat) (s : State), s.cfg.session = some x ∧ x.2 + 10 * sec ≤ (s.at t).now) ∧
    (∃ (t : Nat) (q : CfgReq) (b : Bool) (o : Nat) (d : Bytes) (c : Instr) (s : State), (c = .uploadBegin t q ∨ c = .uploadData t q b o d ∨ c = .uploadEnd t q ∨ c = .uploadSessionLapse t) ∧ s.activeSlot < 2) :=
  ⟨⟨5, ask 0x10, desk .run, takes_of (by decide +kernel), ⟨by decide +kernel, _, rfl, rfl⟩, shaped_of (by decide +kernel), by decide +kernel⟩,
    ⟨5, ask 0x10, { desk .run with cfg := { session := some (1, 0) } }, takes_of (by decide +kernel), ⟨by decide +kernel, _, rfl, rfl⟩, by decide +kernel⟩,
    ⟨5, ask 0x11, 0, [1, 2], { desk .run with cfg := { session := some (1, 0) } }, takes_of (by decide +kernel), by decide +kernel, by decide +kernel, by decide +kernel, by decide +kernel, shaped_of (by decide +kernel), by decide +kernel⟩,
    ⟨5, ask 0x11, false, 0, [], { desk .run with cfg := { session := some (1, 0) } }, takes_of (by decide +kernel), by decide +kernel⟩,
    ⟨5, ask 0x11, 1, [], { desk .run with cfg := { session := some (1, 0) } }, takes_of (by decide +kernel), by decide +kernel⟩,
    ⟨5, ask 0x12, { desk .run with cfg := { session := some (1, 0) } }, takes_of (by decide +kernel), shaped_of (by decide +kernel), by decide +kernel⟩,
    ⟨10 * sec, (1, 0), { on .run with cfg := { session := some (1, 0) } }, by decide +kernel⟩,
    ⟨5, ask 0x10, true, 0, [], .uploadBegin 5 (ask 0x10), desk .run, by decide +kernel⟩⟩

theorem wit_ActivationAndRestartBeginAWarmStart :
    (∃ (t : Nat) (q : CfgReq) (s : State), (s.at t).takes q 0x20 ∧ (s.at t).knows q ∧ s.sys.state = .commission ∧ s.cfg.session = none ∧ s.sealClass = .program ∧ 2 ≤ s.logFree ∧ s.slb.toSp = [] ∧ s.sys.pendTrips = []) ∧
    (∃ (t : Nat) (q : CfgReq) (s : State), (s.at t).takes q 0x21 ∧ (s.at t).knows q ∧ s.sys.state = .commission) :=
  ⟨⟨5, ask 0x20, desk .commission, takes_of (by decide +kernel), ⟨by decide +kernel, _, rfl, rfl⟩, by decide +kernel⟩,
    ⟨5, ask 0x21, desk .commission, takes_of (by decide +kernel), ⟨by decide +kernel, _, rfl, rfl⟩, by decide +kernel⟩⟩

theorem wit_SecretsChangeAsStated :
    (∃ (t p : Nat) (q : CfgReq) (k w : Bytes) (s : State), (s.at t).takes q 0x30 ∧ (s.at t).secrets.pass = none ∧ s.sys.state = .commission ∧ s.sealClass = .program ∧ k.length = 32 ∧ passwordOk w = true ∧ 1 ≤ p ∧ p ≤ 14 ∧ 1 ≤ s.logFree) ∧
    (∃ (t : Nat) (q : CfgReq) (w : Bytes) (s : State), (s.at t).takes q 0x31 ∧ (s.at t).knows q ∧ s.sys.state = .commission ∧ s.sealClass = .program ∧ passwordOk w = true ∧ 1 ≤ s.logFree) ∧
    (∃ (t : Nat) (q : CfgReq) (h : Bytes × Bytes) (s : State), (s.at t).takes q 0x21 ∧ s.sys.state = .commission ∧ (s.at t).secrets.lock = 0 ∧ (s.at t).secrets.pass = some h ∧ sha256 (h.1 ++ q.password) ≠ h.2 ∧ (s.at t).secrets.wrong = 4) ∧
    (∃ (t : Nat) (q : CfgReq) (s : State), (s.at t).takes q 0x21 ∧ (s.at t).secrets.lock ≠ 0) ∧
    (∃ (t : Nat) (s : State), s.sup.on = true ∧ (s.at t).secrets.lock = 0 ∧ 5 ≤ (s.at t).secrets.wrong) :=
  ⟨⟨5, 14, ask 0x30, zeros 32, List.replicate 10 65, { desk .commission with nvm := {} }, takes_of (by decide +kernel), by decide +kernel⟩,
    ⟨5, ask 0x31, List.replicate 64 126, desk .commission, takes_of (by decide +kernel), ⟨by decide +kernel, _, rfl, rfl⟩, by decide +kernel⟩,
    ⟨5, ask 0x21 [66], ([1], []), { desk .commission with nvm := { secrets := ({ pass := some ([1], []), wrong := 4 } : Secrets).store } }, takes_of (by decide +kernel), by decide +kernel⟩,
    ⟨5, ask 0x21, { desk .commission with nvm := { secrets := ({ lock := 10 } : Secrets).store } }, takes_of (by decide +kernel), by decide +kernel⟩,
    ⟨5, { on .run with nvm := { secrets := ({ wrong := 5 } : Secrets).store } }, by decide +kernel⟩⟩

theorem wit_FieldResetNeedsItsThreeConditions :
    (∃ (t : Nat) (q : CfgReq) (c : Cert) (s : State), (s.at t).takes q 0x70 ∧ s.sys.state = .commission ∧ s.sealClass = .program ∧ 1 ≤ s.logFree) ∧
    (∃ (t : Nat) (q : CfgReq) (c : Cert) (s : State), (s.sys.state ≠ .commission ∨ (s.at t).certOk c s.dbg.nonce = false ∨ s.sealClass ≠ .program)) ∧
    (∃ (t : Nat) (q : CfgReq) (s : State), (¬ (s.at t).knows q) ∧ s.sys.state = .doldrums) :=
  ⟨⟨5, ask 0x70, { serial := 1, nonce := [], expiry := 0, scopeSp := false, signature := [] }, desk .commission, takes_of (by decide +kernel), by decide +kernel⟩,
    ⟨5, ask 0x10, { serial := 1, nonce := [], expiry := 0, scopeSp := false, signature := [] }, on .run, by decide +kernel⟩,
    ⟨5, ask 0x10, on .doldrums, (fun h => nomatch h.2.choose_spec.1), by decide +kernel⟩⟩

theorem wit_CalendarAndLogCommandsAct :
    (∃ (t x : Nat) (q : CfgReq) (s : State), (s.at t).takes q 0x40 ∧ (s.at t).knows q ∧ s.sys.state ∈ rtcStates ∧ (calOf x).ok = true ∧ 1 ≤ s.logFree) ∧
    (∃ (t x : Nat) (q : CfgReq) (s : State), (s.at t).takes q 0x40 ∧ (s.at t).knows q ∧ s.sys.state ∈ rtcStates ∧ (calOf x).ok = false) ∧
    (∃ (t : Nat) (q : CfgReq) (s : State), (s.at t).takes q 0x40 ∧ (s.at t).knows q ∧ s.sys.state ∈ rtcStates) ∧
    (∃ (t o : Nat) (q : CfgReq) (s : State), (s.at t).takes q 0x41 ∧ (s.at t).knows q ∧ s.sys.state ∈ rtcStates ∧ 1 ≤ s.logFree) ∧
    (∃ (t : Nat) (q : CfgReq) (s : State), (s.at t).takes q 0x51 ∧ (s.at t).knows q ∧ s.sys.state = .commission ∧ s.cfg.exported = true) ∧
    (∃ (t : Nat) (q : CfgReq) (s : State), (s.at t).takes q 0x51 ∧ (s.at t).knows q ∧ s.sys.state = .commission ∧ s.cfg.exported = false) ∧
    (∃ (t : Nat) (q : CfgReq) (s : State), (s.at t).takes q 0x60 ∧ (s.at t).knows q ∧ s.sys.state = .doldrums ∧ s.sealClass = .program) :=
  ⟨⟨5, 0x2100000000, ask 0x40, desk .run, takes_of (by decide +kernel), ⟨by decide +kernel, _, rfl, rfl⟩, by decide +kernel⟩,
    ⟨5, 0, ask 0x40, desk .run, takes_of (by decide +kernel), ⟨by decide +kernel, _, rfl, rfl⟩, by decide +kernel⟩,
    ⟨5, ask 0x40, desk .halted, takes_of (by decide +kernel), ⟨by decide +kernel, _, rfl, rfl⟩, by decide +kernel⟩,
    ⟨5, 37, ask 0x41, desk .commission, takes_of (by decide +kernel), ⟨by decide +kernel, _, rfl, rfl⟩, by decide +kernel⟩,
    ⟨5, ask 0x51, { desk .commission with cfg := { exported := true } }, takes_of (by decide +kernel), ⟨by decide +kernel, _, rfl, rfl⟩, by decide +kernel⟩,
    ⟨5, ask 0x51, desk .commission, takes_of (by decide +kernel), ⟨by decide +kernel, _, rfl, rfl⟩, by decide +kernel⟩,
    ⟨5, ask 0x60, desk .doldrums, takes_of (by decide +kernel), ⟨by decide +kernel, _, rfl, rfl⟩, by decide +kernel⟩⟩

theorem wit_ReadExportAndReverifyAnswer :
    (∃ (t : Nat) (q : CfgReq) (l : List Nat) (s : State), (s.at t).takes q 0x01 ∧ s.sys.state ≠ .start ∧ l.length ≤ 350 ∧ l.all regAddr = true) ∧
    (∃ (t k first n : Nat) (q : CfgReq) (s : State), (s.at t).takes q 0x02 ∧ s.sys.state ≠ .start ∧ (s.sys.state = .doldrums → k ≠ 4) ∧ 1 ≤ k ∧ k ≤ 4) ∧
    (∃ (t : Nat) (s : State), (s.at t).spRuns = true ∧ s.sys.state ∈ rtcStates ∧ (s.at t).hashBad = true ∧ s.cfg.hashFail = false) ∧
    (∃ (t : Nat) (q : CfgReq) (l : List Nat) (r : Resp) (s : State), (s.at t).cfgUp q.port = true ∧ asksFor q 1 = true ∧ ((s.at t).recentResps.find? fun r => r.source == q.source && r.command == 1 && r.request == q.request) = some r) ∧
    (∃ (t : Nat) (q : CfgReq) (w : Bytes) (r : Resp) (s : State), (s.at t).cfgUp q.port = true ∧ asksFor q 0x31 = true ∧ ((s.at t).recentResps.find? fun r => r.source == q.source && r.command == 0x31 && r.request == q.request) = some r) :=
  ⟨⟨5, ask 0x01, [0x200000000], desk .run, takes_of (by decide +kernel), by decide +kernel⟩,
    ⟨5, 4, 0, 10, ask 0x02, desk .run, takes_of (by decide +kernel), by decide +kernel⟩,
    ⟨5, withImg .run {}, by decide +kernel⟩,
    ⟨5, ask 0x01, [], { source := 1, command := 1, request := 1, time := 0, frames := [[5]] }, { desk .run with cfg := { resps := [{ source := 1, command := 1, request := 1, time := 0, frames := [[5]] }] } }, by decide +kernel⟩,
    ⟨5, ask 0x31, [], { source := 1, command := 0x31, request := 1, time := 0, frames := [[5]] }, { desk .run with cfg := { resps := [{ source := 1, command := 0x31, request := 1, time := 0, frames := [[5]] }] } }, by decide +kernel⟩⟩

theorem wit_FramesAreStampedSealedOrDropped :
    (∃ (t n : Nat) (s : State), s.shaped ∧ (s.at t).streamOn n = true ∧ (s.strm n).slotFor.isSome = true) ∧
    (∃ (t n : Nat) (s : State), s.shaped ∧ (s.at t).streamOn n = true ∧ (s.strm n).slotFor = none ∧ (s.strm n).intake = none) ∧
    (∃ (t n : Nat) (f : FrameIn) (r : StreamRec) (s : State), s.shaped ∧ (s.at t).streamOn n = true ∧ s.img.stream n = some r ∧ (s.strm n).intake.isSome = true ∧ (f.error = true ∨ f.payload.length ≠ r.frameBytes)) ∧
    (∃ (t n k : Nat) (f : FrameIn) (r : StreamRec) (i : Intake) (s : State), (s.at t).streamOn n = true ∧ s.img.stream n = some r ∧ (s.strm n).intake = some i ∧ i.lost = false ∧ (s.strm n).slotFor = some k ∧ f.error = false ∧ f.payload.length = r.frameBytes ∧ (s.strm n).cvuLost = false ∧ (s.stk 0).fault = false) ∧
    (∃ (n k : Nat) (r : StreamRec) (i : Intake) (f : FrameIn) (s : State), s.shaped ∧ n < 16 ∧ (s.stk 0).fault = false ∧ bit s.img.monitors.fringStreams n = false) :=
  ⟨⟨5, 15, cam, shaped_of (by decide +kernel), by decide +kernel⟩,
    ⟨5, 15, { cam with fiu := { streams := List.replicate 16 { state := .live } } }, shaped_of (by decide +kernel), by decide +kernel⟩,
    ⟨5, 15, { payload := [], error := false, header := none }, { stream := 15 }, { cam with fiu := { streams := List.replicate 16 { state := .live, intake := some { stamp := 0, trigger := none } } } }, shaped_of (by decide +kernel), by decide +kernel⟩,
    ⟨5, 15, 0, { payload := List.replicate 64 1, error := false, header := none }, { stream := 15 }, { stamp := 0, trigger := none }, { cam with fiu := { streams := List.replicate 16 { state := .live, ring := List.replicate 4 {}, intake := some { stamp := 0, trigger := none } } } }, by decide +kernel⟩,
    ⟨15, 0, { stream := 15 }, { stamp := 0, trigger := none }, { payload := List.replicate 64 1, error := false, header := none }, cam, shaped_of (by decide +kernel), by decide +kernel⟩⟩

theorem wit_StreamsFollowTable64 :
    (∃ (t n : Nat) (r : StreamRec) (p : PendFinal) (l : List PendFinal) (s : State), s.img.stream n = some r ∧ (s.strm n).pend = p :: l ∧ (s.at t).streamOn n = true ∧ p.due r ≤ (s.at t).dev) ∧
    (∃ x : Stream, x.state = .recovering ∧ x.good = 3) ∧
    (∃ x : Stream, x.state = .frozen) ∧
    (∃ (t n : Nat) (r : StreamRec) (s : State), s.img.stream n = some r ∧ (s.at t).streamOn n = true ∧ (s.strm n).state ≠ .lost ∧ (s.strm n).sealAt + r.stall * r.period ≤ (s.at t).dev) ∧
    (∃ (t n seq : Nat) (l : List Nat) (b : BufDesc) (r : StreamRec) (s : State), s.shaped ∧ s.img.stream n = some r ∧ (s.strm n).deliver = seq :: l ∧ (s.at t).streamOn n = true ∧ (s.at t).linkUp = true ∧ (getN s.hq.rings n).en = true ∧ (getN s.hq.rings n).head ≠ (getN s.hq.rings n).tail ∧ r.frameBytes + 32 ≤ b.length) ∧
    (∃ (t n seq : Nat) (l : List Nat) (b : BufDesc) (r : StreamRec) (s : State), s.shaped ∧ s.img.stream n = some r ∧ (s.strm n).deliver = seq :: l ∧ (s.at t).streamOn n = true ∧ (s.at t).linkUp = true ∧ (getN s.hq.rings n).en = true ∧ (getN s.hq.rings n).head ≠ (getN s.hq.rings n).tail ∧ b.length < r.frameBytes + 32) :=
  ⟨⟨5, 15, { stream := 15 }, { seq := 1, endDev := 0, capture := 0, prevCap := none, cause := 0, changed := none, poisoned := false }, [], { cam with clk := { dev := 3 * ms }, fiu := { streams := List.replicate 16 { state := .live, pend := [{ seq := 1, endDev := 0, capture := 0, prevCap := none, cause := 0, changed := none, poisoned := false }] } } }, by decide +kernel⟩,
    ⟨{ state := .recovering, good := 3 }, by decide +kernel⟩,
    ⟨{ state := .frozen }, by decide +kernel⟩,
    ⟨2 * 8333333, 15, { stream := 15 }, cam, by decide +kernel⟩,
    ⟨5, 15, 7, [], ⟨0, 96⟩, { stream := 15 }, { cam with clk := { pcieOk := true }, fiu := { streams := List.replicate 16 { state := .live, deliver := [7] } }, hq := { rings := List.replicate 16 { en := true, sizeLog := 4, tail := 1 } } }, shaped_of (by decide +kernel), by decide +kernel⟩,
    ⟨5, 15, 7, [], ⟨0, 95⟩, { stream := 15 }, { cam with clk := { pcieOk := true }, fiu := { streams := List.replicate 16 { state := .live, deliver := [7] } }, hq := { rings := List.replicate 16 { en := true, sizeLog := 4, tail := 1 } } }, shaped_of (by decide +kernel), by decide +kernel⟩⟩

theorem wit_EpochsTicksAndGuardJobsAct :
    (∃ (t : Nat) (e : EgoIn) (s : State), (s.at t).fguOn = true ∧ s.fgu.lastTick < e.tick ∧ (e.tick + 2) * ms ≤ (s.at t).dev) ∧
    (∃ (t x : Nat) (s : State), (s.at t).fguOn = true ∧ s.fgu.openAt = none ∧ s.fgu.firstEntry = some x ∧ x ≤ (s.at t).dev ∧ s.fgu.prevOpen = none) ∧
    (∃ (t : Nat) (s : State), (s.at t).fguOn = true ∧ (s.at t).epochDue = true) ∧
    (∃ s : State, s.fgu.openAt.isSome = true) ∧
    (∃ (t w : Nat) (e : Epoch) (s : State), (s.at t).fguOn = true ∧ s.fgu.waiting = some w ∧ s.fgu.job = none ∧ (s.at t).psm.asleep = false ∧ (s.at t).epochOf w = some e) :=
  ⟨⟨3 * ms, { tick := 1, imu := [], imuOk := true, flangeErr := default, baseErr := default }, on .run, by decide +kernel⟩,
    ⟨5, 0, { on .run with fgu := { firstEntry := some 0 } }, by decide +kernel⟩,
    ⟨5, { on .run with fgu := { openAt := some 0 } }, by decide +kernel⟩,
    ⟨{ on .run with fgu := { openAt := some 0 } }, by decide +kernel⟩,
    ⟨5, 1, { num := 1, members := [], leftReq := 0, leftRed := 0, state := .pending }, { on .run with fgu := { waiting := some 1, epochs := [{ num := 1, members := [], leftReq := 0, leftRed := 0, state := .pending }] } }, by decide +kernel⟩⟩

theorem wit_DescriptorsRunOnAdmittedCores :
    (∃ (t n j i p : Nat) (s : State), n < 16 ∧ (s.at t).dieRuns = true ∧ (s.at t).coreReady n = true ∧ (s.acore n).state = .admitted ∧ (s.at t).nextFor n = some (j, i, p)) ∧
    (∃ (t n j i : Nat) (s : State), n < 16 ∧ (s.at t).dieRuns = true ∧ (s.at t).coreReady n = true ∧ (s.acore n).state = .probation ∧ (s.at t).copyable = some (j, i)) ∧
    (∃ (t n : Nat) (s : State), ((s.acore n).bistDue = true ∨ (s.acore n).run.isSome = true ∨ (s.acore n).state = .fenced ∨ (s.acore n).state = .bist ∨ (s.acore n).state = .testing)) ∧
    (∃ (n j i p : Nat) (x : Job) (s : State), s.shaped ∧ n < 16 ∧ s.dbg.enabled = false ∧ s.jobOf j = some x) ∧
    (∃ (t n : Nat) (hw : CoreHw) (r : Run) (s : State), (s.at t).running n = some r) ∧
    (∃ (n : Nat) (hw : CoreHw) (r : Run) (x : Job) (s : State), s.shaped ∧ n < 16 ∧ s.jobOf r.job = some x ∧ x.res = none ∧ x.arbitrating = none ∧ r.pass < 2 ∧ (let d := ((x.descs[r.index]?).getD default).desc; (let o := s.coreOut n r hw x d; o.status = 2))) ∧
    (∃ (t n : Nat) (r : Run) (s : State), (s.at t).running n = some r ∧ r.start + r.halt + (s.at t).watchdogOf n r < (s.at t).now) ∧
    (∃ (n : Nat) (r : Run) (s : State), s.shaped ∧ n < 16 ∧ (s.acore n).state = .admitted ∧ (s.acore n).run = some r) ∧
    (∃ (t n : Nat) (s : State), (s.at t).dieRuns = true ∧ (s.acore n).state = .bist) ∧
    (∃ (t n : Nat) (s : State), s.shaped ∧ n < 16 ∧ (s.at t).dieRuns = true ∧ (s.acore n).state = .bist) ∧
    (∃ (n cause : Nat) (s : State), s.shaped ∧ n < 16) ∧
    (∃ (t n : Nat) (e : SegEnd) (s : State), s.shaped ∧ n < 16 ∧ (s.at t).dieRuns = true ∧ (s.at t).coreReady n = true ∧ (s.sys.state.permits = true ∨ s.sys.state = .halted)) ∧
    (∃ (t n : Nat) (s : State), s.shaped ∧ n < 16 ∧ (s.at t).psmOn = true ∧ s.psm.state = .breeze ∧ s.psm.waking = none ∧ (s.acore n).run = none ∧ (s.acore n).idleAt + 2000 ≤ (s.at t).now) :=
  ⟨⟨5, 15, 1, 0, 0, cores .admitted [job1 {}], by decide +kernel⟩,
    ⟨5, 15, 1, 0, { on .run with aud := { cores := { state := .admitted, run := some { job := 1, index := 0, pass := 0, start := 0 } } :: List.replicate 15 { state := .probation }, jobs := [job1 {}] } }, by decide +kernel⟩,
    ⟨5, 15, State.reset, by decide +kernel⟩,
    ⟨15, 1, 0, 0, job1 {}, cores .admitted [job1 {}], shaped_of (by decide +kernel), by decide +kernel⟩,
    ⟨5, 15, {}, { job := 1, index := 0, pass := 0, start := 0 }, busy .admitted {}, by decide +kernel⟩,
    ⟨15, {}, { job := 1, index := 0, pass := 0, start := 0 }, job1 { safeDesc 31 0 with ident := 0, srcA := 0x1200000000 }, busy .admitted { safeDesc 31 0 with ident := 0, srcA := 0x1200000000 }, shaped_of (by decide +kernel), by decide +kernel, by decide +kernel, by decide +kernel, by decide +kernel, by decide +kernel, by decide +kernel⟩,
    ⟨10 ^ 9, 15, { job := 1, index := 0, pass := 0, start := 0 }, busy .admitted {}, by decide +kernel⟩,
    ⟨15, { job := 1, index := 0, pass := 0, start := 0 }, busy .admitted {}, shaped_of (by decide +kernel), by decide +kernel⟩,
    ⟨5, 15, cores .bist [], by decide +kernel⟩,
    ⟨5, 15, cores .bist [], shaped_of (by decide +kernel), by decide +kernel⟩,
    ⟨15, 2, State.reset, shaped_of (by decide +kernel), by decide +kernel⟩,
    ⟨5, 15, .started, cores .admitted [], shaped_of (by decide +kernel), by decide +kernel⟩,
    ⟨2000, 15, { cores .admitted [] with psm := { state := .breeze } }, shaped_of (by decide +kernel), by decide +kernel⟩⟩

theorem wit_VaneSelfTestsAndSafeStateJobsAct :
    (∃ (t k : Nat) (slot : Option Nat) (laneOk slotOk : Bool) (s : State), s.vane.selftest = some (k, slot)) ∧
    (∃ (t cls : Nat) (r : ClassRec) (s : State), (s.at t).dieRuns = true ∧ s.sys.state.permits = true ∧ s.img.cls cls = some r ∧ r.safeState = true) ∧
    (∃ (t cls i : Nat) (r : ClassRec) (s : State), (s.aud.orig[cls]?).join = some i ∧ s.img.cls cls = some r ∧ i + r.deadlineUs * 1000 ≤ (s.at t).now) ∧
    (∃ (t cls i : Nat) (r : ClassRec) (s : State), (s.aud.orig[cls]?).join = some i ∧ s.img.cls cls = some r ∧ (s.at t).now < i + r.deadlineUs * 1000) :=
  ⟨⟨5, 0, none, true, true, { on .run with vane := { selftest := some (0, none) } }, by decide +kernel⟩,
    ⟨5, 31, { cls := 31, mode := 0 }, withImg .run { classes := [{ cls := 31, mode := 0 }] }, by decide +kernel⟩,
    ⟨1000000, 31, 0, { cls := 31, mode := 0, deadlineUs := 1000 }, { withImg .run { classes := [{ cls := 31, mode := 0, deadlineUs := 1000 }] } with aud := { orig := List.replicate 32 (some 0) } }, by decide +kernel⟩,
    ⟨999999, 31, 0, { cls := 31, mode := 0, deadlineUs := 1000 }, { withImg .run { classes := [{ cls := 31, mode := 0, deadlineUs := 1000 }] } with aud := { orig := List.replicate 32 (some 0) } }, by decide +kernel⟩⟩

theorem wit_CommandRingsStartAndCompleteAsStated :
    (∃ (t k : Nat) (bg : Bool) (b : Bytes) (s : State), s.shaped ∧ (s.at t).beuOn k = true ∧ (s.stk k).fault = false ∧ (let r := (s.stk k).ring bg; (let slot := r.base + (r.head + r.queue.length) % 256 * 64; r.queue.length < 255))) ∧
    (∃ (t k : Nat) (bg : Bool) (b : Bytes) (s : State), 255 ≤ ((s.stk k).ring bg).queue.length) ∧
    (∃ (k : Nat) (bg : Bool) (c : BCmd) (l : List BCmd) (s : State), ((s.stk k).ring bg).fence = none ∧ ((s.stk k).ring bg).queue = c :: l) ∧
    (∃ (t k : Nat) (bg : Bool) (s : State), s.shaped ∧ (s.at t).beuOn k = true ∧ (s.stk k).fault = false ∧ (s.stk k).selfRefresh = false ∧ (bg = false ∨ (s.at t).headAct k false = .wait) ∧ (s.at t).headAct k bg = .start) ∧
    (∃ (t k n : Nat) (bg : Bool) (s : State), s.shaped ∧ (s.at t).beuOn k = true ∧ (s.stk k).fault = false ∧ (s.stk k).selfRefresh = false ∧ (bg = false ∨ (s.at t).headAct k false = .wait) ∧ (s.at t).headAct k bg = .finish n) ∧
    (∃ (t k c n : Nat) (bad : List Nat) (r : BRun) (s : State), s.shaped ∧ (s.at t).beuOn k = true ∧ (s.stk k).running.find? (fun r => r.cmd.channel == c) = some r ∧ (s.stk k).fault = false ∧ (s.stk k).uncorrAt.length + bad.length ≤ 64) ∧
    (∃ (t k : Nat) (bg : Bool) (c : BCmd) (s : State), s.shaped ∧ (s.at t).beuOn k = true ∧ ((s.stk k).ring bg).fence = some c ∧ (s.stk k).running.any (fun r => r.bg == bg) = false) ∧
    (∃ (c : BCmd) (a b : Int) (s : State), c.acts = [0, 0, 0] ∧ 1 ≤ c.op ∧ c.op ≤ 3) :=
  ⟨⟨5, 1, true, [], stks .run {}, shaped_of (by decide +kernel), by decide +kernel, by decide +kernel, by decide +kernel⟩,
    ⟨5, 1, false, [], stks .run { vp := { queue := List.replicate 255 {} } }, by decide +kernel⟩,
    ⟨1, true, {}, [], stks .run { bg := { queue := [{}] } }, by decide +kernel⟩,
    ⟨5, 0, false, { withImg .run { rules := [{ ident := 559, kind := 2, perm := 3, base := 0x1200000000, pages := 1 }] } with beu := { stks := List.replicate 2 { proc := List.replicate 16 true, recompute := List.replicate 16 true, vp := { queue := [bcmd] }, selfRefresh := false } } }, shaped_of (by decide +kernel), by decide +kernel⟩,
    ⟨5, 1, 3, true, stks .run { bg := { queue := [{}] }, selfRefresh := false }, shaped_of (by decide +kernel), by decide +kernel⟩,
    ⟨5, 0, 8, 1, [0x1200000000], { cmd := bcmd, bg := false, order := 0, start := 0, hot := false }, stks .run { running := [{ cmd := bcmd, bg := false, order := 0, start := 0, hot := false }] }, shaped_of (by decide +kernel), by decide +kernel⟩,
    ⟨5, 1, true, {}, stks .run { bg := { fence := some {} } }, shaped_of (by decide +kernel), by decide +kernel⟩,
    ⟨{ op := 3 }, 65536, 65536, State.reset, by decide +kernel⟩⟩

theorem wit_StacksSwitchScrubAndFaultAsStated :
    (∃ (t k w : Nat) (s : State), s.shaped ∧ (s.at t).beuOn k = true ∧ (s.stk k).swPhase = 0 ∧ bit w 8 = true) ∧
    (∃ (t k w : Nat) (s : State), s.shaped ∧ (s.at t).beuOn k = true ∧ (s.stk k).swPhase ≠ 0 ∧ bit w 8 = true) ∧
    (∃ (t k : Nat) (s : State), s.shaped ∧ (s.at t).beuOn k = true ∧ (s.stk k).swPhase = 1 ∧ (s.stk k).running.any (fun r => r.cmd.channel == (s.stk k).swChannel) = false) ∧
    (∃ (t k : Nat) (s : State), s.shaped ∧ (s.at t).beuOn k = true ∧ (s.stk k).swPhase = 2) ∧
    (∃ (t k : Nat) (s : State), s.shaped ∧ (s.at t).beuOn k = true ∧ (s.stk k).swPhase = 3) ∧
    (∃ (t k n o : Nat) (s : State), s.shaped ∧ (s.at t).scrubOn k = true ∧ (s.stk k).uncorrAt.length ≤ 64 ∧ (s.stk k).nextBlock (max (s.stk k).scrubPtr (stackBase k) - stackBase k) = some o) ∧
    (∃ (t k c : Nat) (s : State), s.shaped ∧ s.sup.on = true ∧ k < 2 ∧ c ≤ 105) ∧
    (∃ (t k i : Nat) (s : State), s.shaped ∧ k < 2 ∧ (s.stk k).coolAt = some i ∧ i + 10 * ms ≤ (s.at t).now) ∧
    (∃ (t k c : Nat) (i : Instr) (s : State), s.shaped ∧ k < 2 ∧ (s.stk k).fault = false ∧ ((i = .stackTempChange t k c ∧ s.sup.on = true ∧ 105 < c) ∨ (i = .stackTrainingLoss t k ∧ (s.at t).beuOn k = true ∧ (s.stk k).swept = true))) :=
  ⟨⟨5, 1, 0x10F, stks .start {}, shaped_of (by decide +kernel), by decide +kernel⟩,
    ⟨5, 1, 0x100, stks .start { swPhase := 1 }, shaped_of (by decide +kernel), by decide +kernel⟩,
    ⟨5, 1, stks .start { swPhase := 1 }, shaped_of (by decide +kernel), by decide +kernel⟩,
    ⟨5, 1, stks .start { swPhase := 2, proc := List.replicate 16 true }, shaped_of (by decide +kernel), by decide +kernel⟩,
    ⟨5, 1, stks .start { swPhase := 3 }, shaped_of (by decide +kernel), by decide +kernel⟩,
    ⟨5, 1, 3, 0, stks .run { swept := true, selfRefresh := false }, shaped_of (by decide +kernel), by decide +kernel⟩,
    ⟨5, 1, 105, stks .run {}, shaped_of (by decide +kernel), by decide +kernel⟩,
    ⟨10 * ms, 1, 0, stks .run { coolAt := some 0 }, shaped_of (by decide +kernel), by decide +kernel⟩,
    ⟨5, 1, 106, .stackTempChange 5 1 106, stks .run {}, shaped_of (by decide +kernel), by decide +kernel⟩⟩

theorem wit_SubmissionsAreConsumedOrRefused :
    (∃ (t q : Nat) (d : Bytes) (c : ChanRec) (s : State), s.boundChan q = some c ∧ (s.at t).canTake q = false) ∧
    (∃ (t q : Nat) (d : Bytes) (c : ChanRec) (s : State), s.shaped ∧ s.boundChan q = some c ∧ (s.at t).canTake q = true ∧ (descFormOk (padTo 64 d) = false ∨ s.recordInside c.ch (padTo 64 d) = false)) ∧
    (∃ (t q : Nat) (d : Bytes) (c : ChanRec) (s : State), s.shaped ∧ s.boundChan q = some c ∧ (s.at t).canTake q = true ∧ descFormOk (padTo 64 d) = true ∧ s.recordInside c.ch (padTo 64 d) = true ∧ (let b := s.peekN (bar2Addr (leAt d 4 4)) 2560; (leAt b 4 4 ≠ (s.vq q).next ∨ leAt b 8 2 ≠ c.ch))) ∧
    (∃ (t q : Nat) (d : Bytes) (c : ChanRec) (s : State), s.boundChan q = some c ∧ (s.at t).canTake q = true ∧ descFormOk (padTo 64 d) = true ∧ s.recordInside c.ch (padTo 64 d) = true ∧ (let b := s.peekN (bar2Addr (leAt d 4 4)) 2560; leAt b 4 4 = (s.vq q).next ∧ leAt b 8 2 = c.ch)) ∧
    (∃ (q idx : Nat) (c : ChanRec) (b : Bytes) (s : State), s.shaped ∧ q < 64) ∧
    (∃ (q ch seq idx : Nat) (s : State), s.shaped ∧ q < 64) ∧
    (∃ (t q : Nat) (r : Result) (s : State), s.vrd.results.find? (fun r => r.q == q && r.state == .read) = some r) :=
  ⟨⟨5, 63, [], { ch := 0, queue := 63 }, withImg .run { channels := [{ ch := 0, queue := 63 }] }, by decide +kernel⟩,
    ⟨5, 63, [], { ch := 0, queue := 63 }, sub, shaped_of (by decide +kernel), by decide +kernel⟩,
    ⟨5, 63, subDesc, { ch := 0, queue := 63 }, { sub with vrd := { queues := List.replicate 64 { next := 1 } } }, shaped_of (by decide +kernel), by decide +kernel, by decide +kernel, by decide +kernel, by decide +kernel, by decide +kernel⟩,
    ⟨5, 63, subDesc, { ch := 0, queue := 63 }, sub, by decide +kernel, by decide +kernel, by decide +kernel, by decide +kernel, by decide +kernel, by decide +kernel⟩,
    ⟨63, 0, { ch := 0, queue := 63 }, [], sub, shaped_of (by decide +kernel), by decide +kernel⟩,
    ⟨63, 0, 5, 0, sub, shaped_of (by decide +kernel), by decide +kernel⟩,
    ⟨5, 63, res1 .read, results [res1 .read], by decide +kernel⟩⟩

theorem wit_ChallengesAreDrawnAfterCommit :
    (∃ (t q : Nat) (r : Result) (s : State), s.vrd.results.find? (fun r => r.q == q && r.state == .locked) = some r) ∧
    (∃ (r : Result) (s : State), s.borrows = false) :=
  ⟨⟨5, 63, res1 .locked, results [res1 .locked], by decide +kernel⟩,
    ⟨res1 .committed, results [res1 .committed], by decide +kernel⟩⟩

theorem wit_VerdictsFollowTheDecision :
    (∃ (r : Result) (n : Nat) (s : State), s.verdictNow r = some (vBelieve, n)) ∧
    (∃ (r : Result) (c : Nat) (s : State), s.voidAll = none ∧ s.rejectOf r = some c) ∧
    (∃ (r : Result) (s : State), r.deadline ≤ s.dev) ∧
    (∃ (t q seq : Nat) (r : Result) (s : State), s.resultOf q seq = some r ∧ r.state = .committed ∧ r.deadline ≤ (s.at t).dev) ∧
    (∃ (t q seq : Nat) (r : Result) (s : State), s.resultOf q seq = some r ∧ r.state = .committed ∧ r.deadline + ms ≤ (s.at t).dev) ∧
    (∃ (r : Result) (verdict reason : Nat) (s : State), s.shaped ∧ r.q < 64) ∧
    (∃ (r : Result) (s : State), s.shaped ∧ r.q < 64) ∧
    (∃ (t q seq : Nat) (s : State), s.shaped ∧ q < 64 ∧ (s.at t).regsUp = true ∧ seq < 2 ^ 32 ∧ (s.vq q).win.any (fun w => w.1 == seq % 256 && w.2.lost) = false) ∧
    (∃ (t q seq : Nat) (s : State), s.shaped ∧ q < 64 ∧ (s.at t).regsUp = true ∧ seq < 2 ^ 32) ∧
    (∃ (v : VrdQ) (seq k : Nat) (w : Win), v.win.find? (·.1 == seq % 256) = some (k, w) ∧ w.seq = seq) ∧
    (∃ (v : VrdQ) (seq k : Nat) (w : Win), v.win.find? (·.1 == seq % 256) = some (k, w) ∧ w.seq ≠ seq ∧ seq ≠ 0 ∧ v.newest ≠ 0 ∧ serialAbove seq v.newest = false) ∧
    (∃ (v : VrdQ) (seq : Nat), v.win.find? (·.1 == seq % 256) = none ∧ seq ≠ 0 ∧ v.newest ≠ 0 ∧ serialAbove seq v.newest = false) ∧
    (∃ (v : VrdQ) (seq : Nat), (∀ k w, v.win.find? (·.1 == seq % 256) = some (k, w) → w.seq ≠ seq) ∧ (seq = 0 ∨ serialAbove seq v.newest = true)) :=
  ⟨⟨good1, 0, goodAt, by decide +kernel⟩,
    ⟨{ res1 .committed with reject := some 5 }, 5, results [], by decide +kernel⟩,
    ⟨res1 .committed, results [], by decide +kernel⟩,
    ⟨5, 63, 1, { res1 .committed with deadline := 5 }, results [{ res1 .committed with deadline := 5 }], by decide +kernel⟩,
    ⟨5 + ms, 63, 1, { res1 .committed with deadline := 5 }, results [{ res1 .committed with deadline := 5 }], by decide +kernel⟩,
    ⟨res1 .committed, 1, 0, results [res1 .committed], shaped_of (by decide +kernel), by decide +kernel⟩,
    ⟨res1 .committed, results [], shaped_of (by decide +kernel), by decide +kernel⟩,
    ⟨5, 63, 4294967295, results [], shaped_of (by decide +kernel), by decide +kernel⟩,
    ⟨5, 63, 4294967295, results [], shaped_of (by decide +kernel), by decide +kernel⟩,
    ⟨{ win := [(1, { seq := 257 })] }, 257, 1, { seq := 257 }, by decide +kernel⟩,
    ⟨{ win := [(1, { seq := 257 })], newest := 257 }, 1, 1, { seq := 257 }, by decide +kernel⟩,
    ⟨{ newest := 257 }, 2, by decide +kernel⟩,
    ⟨{ newest := 257 }, 0, (fun _ _ h => nomatch h), by decide +kernel⟩⟩

theorem wit_CyclesRemoveAndPermitTorqueAsStated :
    (∃ (t : Nat) (i : SlbIn) (s : State), s.sup.on = true) ∧
    (∃ (p : Safety) (q : Copies Safety) (now : Nat) (tqen pf ok : Bool) (i : SlbIn) (b : Slb), b.shaped ∧ (let b' := b.takeIn p now i; (let trips := (b'.findTrips p now i b.outFault).1; (let c := (b.cycle p q now tqen pf ok i).1; (trips.any (·.sto) = true ∨ b'.request = 2 ∨ b.report.idle = true ∨ pf = true))))) ∧
    (∃ (p : Safety) (q : Copies Safety) (now k : Nat) (tqen pf ok : Bool) (i : SlbIn) (b : Slb), b.shaped ∧ k < 4 ∧ (let b' := b.takeIn p now i; (let trips := (b'.findTrips p now i b.outFault).1; (let g := getN (b.cycle p q now tqen pf ok i).1.groups k; trips.any (·.sto) = false ∧ b'.request ≠ 2 ∧ b.report.idle = false ∧ pf = false ∧ (trips.any (!·.sto) = true ∨ b'.request = 1) ∧ (getN b.groups k).state = .on)))) ∧
    (∃ (p : Safety) (q : Copies Safety) (now n : Nat) (tqen pf ok : Bool) (i : SlbIn) (b : Slb), b.shaped ∧ n < 8 ∧ (let c := (b.cycle p q now tqen pf ok i).1; c.stoCmd.getD n false = true)) ∧
    (∃ (p : Safety) (q : Copies Safety) (now k : Nat) (tqen pf ok : Bool) (i : SlbIn) (b : Slb), b.shaped ∧ k < 4 ∧ (let b' := b.takeIn p now i; (let c := (b.cycle p q now tqen pf ok i).1; (getN b.groups k).state = .off ∧ (getN c.groups k).state.live = true))) ∧
    (∃ (p : Safety) (q : Copies Safety) (now : Nat) (tqen pf ok : Bool) (i : SlbIn) (b : Slb), b.permit = false ∧ (b.cycle p q now tqen pf ok i).1.permit = true) :=
  ⟨⟨5, quiet, on .run, by decide +kernel⟩,
    ⟨{}, { a := {}, b := {} }, 5, true, true, true, quiet, ready, by decide +kernel, by decide +kernel⟩,
    ⟨{ groups := List.replicate 4 { used := 1 } }, { a := {}, b := {} }, 5, 3, true, false, true, quiet, { ready with due := [{ src := 7, sto := false }], groups := List.replicate 4 { state := .on } }, by decide +kernel, by decide +kernel, by decide +kernel, by decide +kernel, by decide +kernel, by decide +kernel, by decide +kernel, by decide +kernel⟩,
    ⟨{ groups := List.replicate 4 { used := 1, axes := 1 } }, { a := {}, b := {} }, 5, 7, true, false, true, quiet, ready, by decide +kernel, by decide +kernel, by decide +kernel⟩,
    ⟨{ groups := List.replicate 4 { used := 1, axes := 1 } }, { a := {}, b := {} }, 5, 3, true, false, true, quiet, ready, by decide +kernel, by decide +kernel, by decide +kernel, by decide +kernel⟩,
    ⟨{ groups := List.replicate 4 { used := 1, axes := 1 } }, { a := {}, b := {} }, 5, true, false, true, quiet, ready, by decide +kernel⟩⟩

theorem wit_SafeInputsAndOutputChecksAct :
    (∃ (t n : Nat) (chB on : Bool) (s : State), s.shaped ∧ s.sup.on = true ∧ n < 16) ∧
    (∃ (now disc : Nat) (x : SInput), x.disc = true) ∧
    (∃ (now disc : Nat) (x : SInput), x.a = true ∧ x.b = true ∧ x.offSeen = true) ∧
    (∃ (t n : Nat) (chB : Bool) (s : State), s.shaped ∧ s.sup.on = true ∧ n ≤ 16) ∧
    (∃ (t n i : Nat) (s : State), s.shaped ∧ s.sup.on = true ∧ n < 16 ∧ ((s.at t).params.input n).kind ≠ 0 ∧ (s.sinput n).disc = false ∧ (s.sinput n).a ≠ (s.sinput n).b ∧ (s.sinput n).differ = some i ∧ i + (s.at t).discNs n ≤ (s.at t).now) ∧
    (∃ (t k n : Nat) (q : PulseIn) (s : State), s.shaped ∧ s.sup.on = true ∧ k < 8 ∧ s.sys.state ≠ .off ∧ n < 16 ∧ (let r := (s.at t).params.input n; r.tpA < 8 ∧ r.tpB < 8 ∧ r.kind ≠ 0 ∧ (s.sinput n).a = true ∧ (s.sinput n).pulse = false ∧ ((r.tpA = k ∧ bit q.stuckOn (2 * n) = true) ∨ (r.tpA ≠ k ∧ bit q.crossed (2 * n) = true)))) ∧
    (∃ (t k : Nat) (q : PulseIn) (s : State), s.shaped ∧ q.stuckOn = 0 ∧ q.crossed = 0 ∧ (∀ x ∈ s.slb.inputs, x.pulse = false)) ∧
    (∃ (t n : Nat) (s : State), s.shaped ∧ s.sup.on = true ∧ n < 8 ∧ s.slb.stoCmd.getD n false = true) ∧
    (∃ (t n : Nat) (s : State), s.shaped ∧ s.sup.on = true ∧ n < 14) ∧
    (∃ (t n : Nat) (on : Bool) (s : State), s.shaped ∧ s.sup.on = true ∧ n < 8) :=
  ⟨⟨5, 15, true, true, on .run, shaped_of (by decide +kernel), by decide +kernel⟩,
    ⟨5, 5, { disc := true }, by decide +kernel⟩,
    ⟨5, 5, { a := true, b := true }, by decide +kernel⟩,
    ⟨5, 16, true, on .run, shaped_of (by decide +kernel), by decide +kernel⟩,
    ⟨10 ^ 9, 15, 0, { slb { inputs := List.replicate 16 { a := true, differ := some 0 } } with nvm := { params := { a := { inputs := List.replicate 16 { kind := 1, tpA := 3, tpB := 4 } }, b := {} } } }, shaped_of (by decide +kernel), by decide +kernel⟩,
    ⟨5, 3, 15, ⟨2 ^ 30, 0⟩, { slb { inputs := List.replicate 16 { a := true } } with nvm := { params := { a := { inputs := List.replicate 16 { kind := 1, tpA := 3, tpB := 4 } }, b := {} } } }, shaped_of (by decide +kernel), by decide +kernel, by decide +kernel, by decide +kernel, by decide +kernel, by decide +kernel, by decide +kernel, by decide +kernel, by decide +kernel, by decide +kernel, by decide +kernel⟩,
    ⟨5, 3, ⟨0, 0⟩, on .run, shaped_of (by decide +kernel), by decide +kernel⟩,
    ⟨5, 7, slb { stoCmd := List.replicate 8 true }, shaped_of (by decide +kernel), by decide +kernel⟩,
    ⟨5, 13, on .run, shaped_of (by decide +kernel), by decide +kernel⟩,
    ⟨5, 7, true, on .run, shaped_of (by decide +kernel), by decide +kernel⟩⟩

theorem wit_StopEnginesBrakesAndLinkAct :
    (∃ (t n i : Nat) (s : State), s.shaped ∧ s.sup.on = true ∧ n < 4 ∧ (getN s.slb.groups n).ss1At = some i ∧ i + (getN (s.at t).params.groups n).ss1Max * ms ≤ (s.at t).now ∧ ((getN s.slb.groups n).state = .time ∨ ((getN s.slb.groups n).state = .ramp ∧ (getN s.slb.groups n).still = none))) ∧
    (∃ (t n i : Nat) (s : State), s.shaped ∧ s.sup.on = true ∧ n < 4 ∧ (getN s.slb.groups n).state = .ramp ∧ (getN s.slb.groups n).still = some i ∧ i + (getN (s.at t).params.groups n).stillTime * ms ≤ (s.at t).now) ∧
    (∃ (t n : Nat) (s : State), s.shaped ∧ s.sup.on = true ∧ n < 4 ∧ (getN s.slb.brakes n).phase = .wait ∧ (let r := getN (s.at t).params.brakes n; (getN s.slb.brakes n).since + r.releaseMs * ms ≤ (s.at t).now ∧ 0 < r.pullinMs)) ∧
    (∃ (t n : Nat) (s : State), s.shaped ∧ s.sup.on = true ∧ n < 4 ∧ (getN s.slb.brakes n).phase = .pullin ∧ (let r := getN (s.at t).params.brakes n; (getN s.slb.brakes n).since + r.pullinMs * ms ≤ (s.at t).now)) ∧
    (∃ (t i : Nat) (s : State), s.sup.on = true ∧ s.slb.chainAt = some i ∧ i + (s.at t).params.chainPulseMs * ms ≤ (s.at t).now) ∧
    (∃ (t : Nat) (s : State), s.sup.on = true ∧ (s.at t).slb.degRun = true ∧ (s.at t).params.degTimerS * 1010 * ms + sec ≤ (s.at t).slb.degElapsed) ∧
    (∃ (t : Nat) (f : LinkFrame) (l : List LinkFrame) (s : State), (∀ p, s.slb.beat = some p → f.beat = (p + 1) % 256) ∧ s.sup.on = true ∧ s.slb.link = f :: l) ∧
    (∃ (t p : Nat) (f : LinkFrame) (l : List LinkFrame) (s : State), s.sup.on = true ∧ s.slb.link = f :: l ∧ s.slb.beat = some p ∧ f.beat ≠ (p + 1) % 256) ∧
    (∃ (t : Nat) (f : LinkFrame) (l : List LinkFrame) (s : State), s.sup.on = true ∧ s.slb.link = f :: l) ∧
    (∃ (t : Nat) (on : Bool) (s : State), s.sup.on = true) ∧
    (∃ (t i : Nat) (s : State), s.sup.on = true ∧ s.slb.disagree = some i ∧ i + 10 * ms ≤ (s.at t).now) ∧
    (∃ (t : Nat) (s : State), s.sup.on = true ∧ s.sys.state ≠ .off) ∧
    (∃ (t p : Nat) (s : State), s.sup.on = true ∧ s.sys.state ≠ .off ∧ s.slb.beat = some p ∧ s.slb.beatAt + 2 * ms ≤ (s.at t).now) ∧
    (∃ (t n : Nat) (s : State), s.sup.on = true ∧ s.sys.state ≠ .off) ∧
    (∃ s : State, s.sys.powerFail = false ∧ (s.sys.state.permits = true ∨ s.sys.state = .halted)) ∧
    (∃ s : State, s.shaped) ∧
    (∃ (t : Nat) (s : State), s.sup.on = true) ∧
    (∃ (t : Nat) (s : State), s.sup.on = true ∧ s.nvm.params.aOk = true ∧ s.nvm.params.bOk = true) :=
  ⟨⟨1000 * ms, 3, 0, slb { groups := List.replicate 4 { state := .time, ss1At := some 0 } }, shaped_of (by decide +kernel), by decide +kernel⟩,
    ⟨50 * ms, 3, 0, slb { groups := List.replicate 4 { state := .ramp, still := some 0 } }, shaped_of (by decide +kernel), by decide +kernel⟩,
    ⟨50 * ms, 3, slb { brakes := List.replicate 4 { phase := .wait } }, shaped_of (by decide +kernel), by decide +kernel, by decide +kernel, by decide +kernel, by decide +kernel, by decide +kernel⟩,
    ⟨100 * ms, 3, slb { brakes := List.replicate 4 { phase := .pullin } }, shaped_of (by decide +kernel), by decide +kernel, by decide +kernel, by decide +kernel, by decide +kernel⟩,
    ⟨100 * ms, 0, slb { chainAt := some 0 }, by decide +kernel⟩,
    ⟨5, slb { degRun := true, degElapsed := 1819 * sec }, by decide +kernel⟩,
    ⟨5, { beat := 0, state := .run, stop := 1, src := 3, armed := true }, [], slb { link := [{ beat := 0, state := .run, stop := 1, src := 3, armed := true }], beat := some 255 }, (fun p h => by cases h; rfl), by decide +kernel⟩,
    ⟨5, 3, { beat := 0, state := .run, stop := 1, src := 3, armed := true }, [], slb { link := [{ beat := 0, state := .run, stop := 1, src := 3, armed := true }], beat := some 3 }, by decide +kernel⟩,
    ⟨5, { beat := 0, state := .run, stop := 1, src := 3, armed := true }, [], slb { link := [{ beat := 0, state := .run, stop := 1, src := 3, armed := true }] }, by decide +kernel⟩,
    ⟨5, false, on .run, by decide +kernel⟩,
    ⟨10 * ms, 0, slb { disagree := some 0 }, by decide +kernel⟩,
    ⟨5, on .run, by decide +kernel⟩,
    ⟨2 * ms, 7, slb { beat := some 7 }, by decide +kernel⟩,
    ⟨5, 2075, on .run, by decide +kernel⟩,
    ⟨on .run, by decide +kernel⟩,
    ⟨State.reset, shaped_of (by decide +kernel)⟩,
    ⟨5, on .run, by decide +kernel⟩,
    ⟨5, on .run, by decide +kernel⟩⟩

theorem wit_SafeMessagesAreReceivedAsStated :
    (∃ (t : Nat) (m : SafeRx) (i : Instr) (s : State), ((i = .jointsMessage t m ∧ rxType m = 0x8) ∨ (i = .stopRequest t m ∧ rxType m = 0x9) ∨ (i = .resetRequest t m ∧ rxType m = 0xA) ∨ (i = .aliveMessage t m ∧ rxType m = 0xB) ∨ (i = .pathAnnounce t m ∧ rxType m = 0xE) ∨ (i = .safeMessageRefused t m ∧ ((s.at t).rxClass m).refused = true))) ∧
    (∃ (t : Nat) (m : SafeRx) (s : State), ((s.at t).rxClass m).refused = false) ∧
    (∃ (m : SafeRx) (x : RxMsg) (d : Nat) (s : State), s.rxClass m = .first x d) ∧
    (∃ (m : SafeRx) (x : RxMsg) (d : Nat) (s : State), s.shaped ∧ x.k < 32 ∧ s.rxClass m = .first x d ∧ (s.conn x.k).state = .open_) ∧
    (∃ (m : SafeRx) (x : RxMsg) (s : State), s.shaped ∧ x.k < 32 ∧ s.rxClass m = .opening x) ∧
    (∃ (m : SafeRx) (k : Nat) (s : State), (s.rxClass m).refused = true) ∧
    (∃ (m : SafeRx) (x : RxMsg) (s : State), (s.rxClass m).good = some x ∧ rxType m = 0x9) ∧
    (∃ (m : SafeRx) (x : RxMsg) (s : State), s.shaped ∧ x.k < 32 ∧ m.port < 2 ∧ (s.conn x.k).ports.length = 2 ∧ s.rxClass m = .announce x ∧ getN (s.conn x.k).ports m.port = false ∧ getN ((s.rxAct m).conn x.k).ports m.port = true) ∧
    (∃ (m : SafeRx) (x : RxMsg) (s : State), s.shaped ∧ x.k < 32 ∧ s.rxClass m = .second x false) :=
  ⟨⟨5, msg 8 3 (zeros 8), .jointsMessage 5 (msg 8 3 (zeros 8)), net .open_, by decide +kernel⟩,
    ⟨5, msg 8 3 (zeros 8), net .open_, by decide +kernel⟩,
    ⟨msg 8 4 (zeros 8), got 8, 1, net .open_, by decide +kernel⟩,
    ⟨msg 8 4 (zeros 8), got 8, 1, net .open_, shaped_of (by decide +kernel), by decide +kernel⟩,
    ⟨msg 8 7 (zeros 8), got 8, net .closed, shaped_of (by decide +kernel), by decide +kernel⟩,
    ⟨msg 8 7 (zeros 8), 0, net .open_, by decide +kernel⟩,
    ⟨msg 9 3 (zeros 4), got 4, net .open_, by decide +kernel⟩,
    ⟨msg 14 2 (zeros 4), got 4, { net .open_ with sml := { link := [true, true], conns := List.replicate 32 { state := .open_, seq := 3, ports := [false, true] } } }, shaped_of (by decide +kernel), by decide +kernel⟩,
    ⟨msg 8 2 (zeros 8), got 8, { net .open_ with sml := { link := [true, true], conns := List.replicate 32 { state := .open_, seq := 3, ports := [true, true], pairs := [{ seq := 2, port := 1, at_ := 0, data := [] }] } } }, shaped_of (by decide +kernel), by decide +kernel⟩⟩

theorem wit_ConnectionsTimersAndCheckValuesAct :
    (∃ (t n q k : Nat) (r : ConnRec) (p : Pair) (s : State), s.shaped ∧ k < 32 ∧ s.img.conn n = some (k, r) ∧ (s.conn k).pairs.find? (fun p => p.seq == q && !p.decided && (s.at t).past p.at_ (s.img.messages.skewUs * 1000)) = some p ∧ (s.at t).smlOn = true) ∧
    (∃ (q p : Nat) (got : List Bool) (c : Conn), p < 2 ∧ getN got p = false ∧ getN c.ports p = true ∧ c.counts p q = true) ∧
    (∃ (t n k : Nat) (r : ConnRec) (s : State), s.shaped ∧ k < 32 ∧ s.img.conn n = some (k, r) ∧ s.img.slot k = some r ∧ (s.at t).smlOn = true ∧ r.dir = 0 ∧ (s.conn k).state = .open_ ∧ (s.conn k).dogAt + r.watchdog * ms ≤ (s.at t).now) ∧
    (∃ (t n k : Nat) (r : ConnRec) (s : State), s.shaped ∧ k < 32 ∧ s.img.conn n = some (k, r) ∧ (s.at t).smlOn = true ∧ r.dir = 0 ∧ (s.conn k).state = .opening ∧ (s.conn k).dogAt + r.watchdog * ms ≤ (s.at t).now) ∧
    (∃ (t : Nat) (s : State), (s.at t).smlOn = true ∧ (s.at t).singleExpired = true) ∧
    (∃ (t n k : Nat) (r : ConnRec) (s : State), s.shaped ∧ k < 32 ∧ s.img.conn n = some (k, r) ∧ s.img.slot k = some r ∧ (s.at t).smlOn = true ∧ r.dir = 1 ∧ (s.conn k).statusAt + r.period * ms ≤ (s.at t).now) ∧
    (∃ (t p : Nat) (s : State), (∀ i, getN s.sml.annAt p = some i → i + 100 * ms ≤ (s.at t).now) ∧ (s.at t).smlOn = true ∧ p < 2 ∧ getN s.sml.link p = true) ∧
    (∃ (t p : Nat) (s : State), s.shaped ∧ (s.at t).regsUp = true ∧ p < 2) ∧
    (∃ (t p : Nat) (s : State), (s.at t).regsUp = true ∧ p < 2 ∧ p < s.sml.link.length) ∧
    (∃ (t n : Nat) (r : CvuReq) (s : State), s.shaped ∧ (s.at t).regsUp = true ∧ n < 32 ∧ (getN s.cvu.chans n).service = true ∧ r.disagree = false ∧ (getN s.cvu.chans n).alive ≠ 1) ∧
    (∃ (t n m : Nat) (r : CvuReq) (s : State), s.shaped ∧ (s.at t).regsUp = true ∧ n < 28 ∧ (getN s.cvu.chans n).service = true ∧ r.disagree = true ∧ (getN s.cvu.chans n).user ≠ 0xFF ∧ (s.at t).cvuSpare = some m) ∧
    (∃ (t : Nat) (s : State), (∀ k ∈ s.rxSlots 4, ∃ i, (s.conn k).aliveSince = some i ∧ i + 100 * ms ≤ (s.at t).now) ∧ (s.at t).smlOn = true ∧ (∀ k ∈ s.rxSlots 0, (s.conn k).state = .open_)) :=
  ⟨⟨100000, 5, 2, 0, rx1, { seq := 2, port := 1, at_ := 0, data := zeros 20 }, { net .open_ with sml := { link := [true, true], conns := List.replicate 32 { state := .open_, pairs := [{ seq := 2, port := 1, at_ := 0, data := zeros 20 }], ports := [true, true] } } }, shaped_of (by decide +kernel), by decide +kernel⟩,
    ⟨7, 1, [true, false], { ports := [true, true], missing := [0, 2] }, by decide +kernel⟩,
    ⟨2 * ms, 5, 0, rx1, net .open_, shaped_of (by decide +kernel), by decide +kernel⟩,
    ⟨2 * ms, 5, 0, rx1, net .opening, shaped_of (by decide +kernel), by decide +kernel⟩,
    ⟨1800 * sec, { on .run with sml := { singleAt := some 0 } }, by decide +kernel⟩,
    ⟨ms, 5, 0, { conn := 5, dir := 1, flags := 31, mac := 7, vcid := 9, period := 1 }, { withImg .run { messages := { conns := [{ conn := 5, dir := 1, flags := 31, mac := 7, vcid := 9, period := 1 }] } } with sml := { link := [true, true] } }, shaped_of (by decide +kernel), by decide +kernel⟩,
    ⟨5, 1, { withImg .run { messages := { conns := [{ conn := 5, dir := 1, flags := 31, mac := 7, vcid := 9, period := 1 }] } } with sml := { link := [true, true] } }, (fun i h => nomatch h), by decide +kernel⟩,
    ⟨5, 1, net .open_, shaped_of (by decide +kernel), by decide +kernel⟩,
    ⟨5, 1, net .open_, by decide +kernel⟩,
    ⟨5, 31, { input := [1], expected := some 0, disagree := false }, { on .run with cvu := { chans := List.replicate 32 { service := true, alive := 2, primed := true } } }, shaped_of (by decide +kernel), by decide +kernel⟩,
    ⟨5, 27, 28, { input := [1], expected := none, disagree := true }, { on .run with cvu := { chans := List.replicate 28 { service := true } ++ List.replicate 4 { service := true, user := 0xFF } } }, shaped_of (by decide +kernel), by decide +kernel⟩,
    ⟨100 * ms, { net .open_ with sml := { link := [true, true], conns := List.replicate 32 { state := .open_, aliveSince := some 0 } } }, (fun k h => ⟨0, by rw [net_slots, List.mem_singleton] at h; subst h; decide +kernel⟩), by decide +kernel⟩⟩

theorem wit_RingFormsAndKeepsItsCycle :
    (∃ (t : Nat) (s : State), s.xwl.phase = .listen ∧ (s.at t).xwlOn = true ∧ s.xwl.phaseAt + (200000 + s.ring.nodeId * 50000) ≤ (s.at t).now) ∧
    (∃ (t : Nat) (m : XwlRx) (s : State), s.shaped ∧ (s.at t).hears 3 m) ∧
    (∃ (t : Nat) (s : State), s.xwl.phase = .backoff ∧ s.xwl.phaseAt + (ms + s.ring.nodeId * 100000) ≤ (s.at t).now) ∧
    (∃ (t : Nat) (s : State), s.clk.xwlOk = true ∧ s.xwl.phase = .claim ∧ s.xwl.phaseAt + 100000 ≤ (s.at t).now) ∧
    (∃ (t : Nat) (s : State), s.clk.xwlOk = true ∧ s.xwl.phase = .member ∧ s.xwl.cycleAt + 99900 ≤ (s.at t).now) ∧
    (∃ (t : Nat) (m : XwlRx) (s : State), s.shaped ∧ (s.at t).hears 1 m ∧ (s.xwl.phase = .member ∨ s.xwl.phase = .integrate) ∧ s.xwl.master = false ∧ xSrc m = s.xwl.masterId) ∧
    (∃ (t : Nat) (m : XwlRx) (s : State), s.shaped ∧ (s.at t).hears 1 m ∧ s.xwl.phase = .member ∧ s.xwl.master = true) ∧
    (∃ (k : Nat) (m : XwlRx) (f : State → State) (s : State), s.xwl.phase ≠ .off ∧ s.clk.xwlOk = true ∧ m.lane < 2 ∧ xOk m = false) ∧
    (∃ (t : Nat) (s : State), s.xwl.phase = .member ∧ s.xwl.master = false ∧ 4 ≤ s.xwl.noSync) ∧
    (∃ (t a b : Nat) (s : State), s.clk.xwlOk = true ∧ (s.xwl.phase = .integrate ∨ (s.xwl.phase = .member ∧ 1000 ≤ s.xwl.measured))) ∧
    (∃ (t n : Nat) (s : State), s.shaped ∧ n < 2 ∧ s.xwl.phase ≠ .off ∧ getN s.xwl.lanes n = true) :=
  ⟨⟨250000, ring { phase := .listen }, by decide +kernel⟩,
    ⟨5, xmsg 3 [], ring { phase := .claim }, shaped_of (by decide +kernel), hears_of (by decide +kernel)⟩,
    ⟨ms + 100000, ring { phase := .backoff }, by decide +kernel⟩,
    ⟨100000, ring { phase := .claim }, by decide +kernel⟩,
    ⟨99900, ring { phase := .member }, by decide +kernel⟩,
    ⟨5, xmsg 1 [], ring { phase := .member, masterId := 0 }, shaped_of (by decide +kernel), hears_of (by decide +kernel), by decide +kernel⟩,
    ⟨5, xmsg 1 [], ring { phase := .member, master := true, masterId := 1 }, shaped_of (by decide +kernel), hears_of (by decide +kernel), by decide +kernel⟩,
    ⟨1, { xmsg 1 [] with garbled := true }, id, ring { phase := .listen }, by decide +kernel⟩,
    ⟨5, ring { phase := .member, noSync := 4 }, by decide +kernel⟩,
    ⟨5, 3, 4, ring { phase := .member, measured := 1000 }, by decide +kernel⟩,
    ⟨5, 1, ring { phase := .member }, shaped_of (by decide +kernel), by decide +kernel⟩⟩

theorem wit_RingStopsAndSharesAsStated :
    (∃ (t : Nat) (s : State), (s.at t).xwlOn = true ∧ (s.xwl.phase = .member ∨ (s.xwl.phase = .integrate ∧ 3 ≤ s.xwl.seen)) ∧ s.xwl.slotDone = false ∧ s.xwl.cycleAt + (2 + 2 * s.ring.nodeId) * 1000 ≤ (s.at t).now) ∧
    (∃ (t : Nat) (m : XwlRx) (s : State), s.shaped ∧ (s.at t).hears 2 m) ∧
    (∃ (t n i : Nat) (s : State), s.shaped ∧ n < 8 ∧ (s.node n).roster = true ∧ (s.node n).heard = some i ∧ i + s.ring.nodeTimeout * ms ≤ (s.at t).now) ∧
    (∃ (t n : Nat) (s : State), n < 8 ∧ (s.at t).xwlOn = true ∧ s.xwl.phase = .member ∧ bit s.ring.units n = true ∧ bit s.xwl.unitsDone n = false ∧ s.xwl.cycleAt + (18 + 10 * n) * 1000 ≤ (s.at t).now) ∧
    (∃ (n room dest job : Nat) (pay : Bytes) (l : List (Nat × Nat × Bytes)) (s : State), s.xwl.bulk = (dest, job, pay) :: l ∧ s.inRoster dest = true ∧ 0 < room ∧ room < pay.length) ∧
    (∃ (t : Nat) (m : XwlRx) (s : State), s.shaped ∧ (s.at t).hears 4 m ∧ beAt m.data 64 1 ≠ s.ring.nodeId) ∧
    (∃ (t : Nat) (m : XwlRx) (s : State), s.shaped ∧ (s.at t).hears 4 m ∧ beAt m.data 64 1 = s.ring.nodeId ∧ 72 ≤ m.data.length ∧ (let pay := (m.data.drop 68).dropLast.dropLast.dropLast.dropLast; crc32c pay = beAt m.data (m.data.length - 4) 4)) ∧
    (∃ (t job i : Nat) (r : Result) (s : State), s.xwl.handed.find? (·.1 == job) = some (job, i) ∧ i + s.ring.returnUs * 1000 ≤ (s.at t).now ∧ s.vrd.results.find? (fun r => r.auditJob == some job) = some r) :=
  ⟨⟨4000, ring { phase := .member }, by decide +kernel⟩,
    ⟨5, xmsg 2 [], ring { phase := .member }, shaped_of (by decide +kernel), hears_of (by decide +kernel)⟩,
    ⟨10 * ms, 7, 0, ring { phase := .member, nodes := List.replicate 8 { roster := true, heard := some 0 } }, shaped_of (by decide +kernel), by decide +kernel⟩,
    ⟨28000, 1, ring { phase := .member }, by decide +kernel⟩,
    ⟨1, 2, 0, 9, [1, 2, 3], [], ring { phase := .member, bulk := [(0, 9, [1, 2, 3])], nodes := List.replicate 8 { roster := true } }, by decide +kernel⟩,
    ⟨5, xmsg 4 [0, 0, 0, 9, 0, 0, 0, 0], ring { phase := .member }, shaped_of (by decide +kernel), hears_of (by decide +kernel), by decide +kernel⟩,
    ⟨5, xmsg 4 [1, 0, 0, 9, 0, 0, 0, 0], ring { phase := .member }, shaped_of (by decide +kernel), hears_of (by decide +kernel), by decide +kernel, by decide +kernel, by decide +kernel⟩,
    ⟨200000, 4, 0, { res1 .committed with auditJob := some 4 }, { ring { handed := [(4, 0)] } with vrd := { results := [{ res1 .committed with auditJob := some 4 }] } }, by decide +kernel⟩⟩

theorem wit_QueuesAreConfiguredAndSignalledAsStated :
    (∃ (t q x : Nat) (s : State), s.shaped ∧ q < 64 ∧ (s.at t).regsUp = true ∧ (s.hqueue q).en = true ∧ (s.hqueue q).resetting = false ∧ x < 4096) ∧
    (∃ (t q : Nat) (s : State), s.shaped ∧ q < 64 ∧ (s.at t).regsUp = true) ∧
    (∃ (t q : Nat) (s : State), s.shaped ∧ q < 64 ∧ (s.at t).regsUp = true) ∧
    (∃ (t q : Nat) (s : State), s.shaped ∧ q < 64 ∧ (s.at t).regsUp = true ∧ (s.hqueue q).resetting = true ∧ s.inFlight q = []) ∧
    (∃ (t q : Nat) (r : Result) (l : List Result) (s : State), s.inFlight q = r :: l) ∧
    (∃ (t q : Nat) (c : ChanRec) (s : State), s.shaped ∧ q < 64 ∧ (s.at t).regsUp = true ∧ s.boundChan q = some c ∧ c.ch < 512) ∧
    (∃ (t q x : Nat) (s : State), s.shaped ∧ q < 64 ∧ (s.at t).regsUp = true ∧ x < 4096) ∧
    (∃ (q : Nat) (e : Bytes) (s : State), s.shaped ∧ q < 64 ∧ (s.hqueue q).free = 0) ∧
    (∃ (t q c u : Nat) (m : Bool) (s : State), s.shaped ∧ q < 64 ∧ (s.at t).regsUp = true ∧ 1 ≤ c ∧ c ≤ 64 ∧ u ≤ 1000) ∧
    (∃ (t q i : Nat) (s : State), s.shaped ∧ q < 64 ∧ (s.at t).regsUp = true ∧ (s.hqueue q).unsig ≠ 0 ∧ (s.hqueue q).firstAt = some i ∧ i + (s.hqueue q).irqTime * 1000 ≤ (s.at t).now) ∧
    (∃ (t n x : Nat) (s : State), s.shaped ∧ n < 16 ∧ (s.at t).regsUp = true ∧ x < 4096 ∧ x < 2 ^ (getN s.hq.rings n).sizeLog) ∧
    (∃ (t : Nat) (s : State), (s.at t).regsUp = true) :=
  ⟨⟨1, 3, 5, { on .run with hq := { opened := true, queues := List.replicate 64 { en := true, sqLog := 4 } } }, shaped_of (by decide +kernel), by decide +kernel⟩,
    ⟨1, 3, sub, shaped_of (by decide +kernel), by decide +kernel⟩,
    ⟨1, 3, sub, shaped_of (by decide +kernel), by decide +kernel⟩,
    ⟨1, 3, { on .run with hq := { opened := true, queues := List.replicate 64 { resetting := true, sqHead := 3, sqTail := 4 } } }, shaped_of (by decide +kernel), by decide +kernel⟩,
    ⟨1, 63, res1 .committed, [], results [res1 .committed], by decide +kernel⟩,
    ⟨1, 3, { ch := 0, queue := 3, streams := 0 }, withImg .run { channels := [{ ch := 0, queue := 3, streams := 0 }] }, shaped_of (by decide +kernel), by decide +kernel⟩,
    ⟨1, 3, 5, { on .run with hq := { opened := true, queues := List.replicate 64 { en := true, cqLog := 4, cqTail := 7 } } }, shaped_of (by decide +kernel), by decide +kernel⟩,
    ⟨3, zeros 16, { on .run with hq := { opened := true, queues := List.replicate 64 { cqLog := 0, cqUsed := 1 } } }, shaped_of (by decide +kernel), by decide +kernel⟩,
    ⟨1, 3, 64, 1000, false, { on .run with hq := { opened := true, queues := List.replicate 64 { irqMask := true, unsig := 2 } } }, shaped_of (by decide +kernel), by decide +kernel⟩,
    ⟨5, 3, 1, { on .run with hq := { opened := true, queues := List.replicate 64 { unsig := 2, firstAt := some 1 } } }, shaped_of (by decide +kernel), by decide +kernel⟩,
    ⟨1, 15, 9, { on .run with hq := { rings := List.replicate 16 { sizeLog := 4 } } }, shaped_of (by decide +kernel), by decide +kernel⟩,
    ⟨1, sub, by decide +kernel⟩⟩

theorem wit_HostWritesReachOnlyGrantedUnlockedBytes :
    (∃ (t a : Nat) (r : Bar2Req) (s v : State), exec (.bar2Access t r) s = .next v ∧ memGet v.mem a ≠ memGet s.mem a) ∧
    (∃ (t c : Nat) (r : Bar2Req) (s : State), s.shaped ∧ (s.at t).regsUp = true ∧ s.sys.state ≠ .doldrums ∧ (let n := match r.write with | some b => b.length | none => r.length; r.offset + n ≤ 0x40000000 ∧ bar2Range r.offset n = true ∧ s.bar2Ident r = some c ∧ c < 512 ∧ s.wall c r.write.isSome (bar2Addr r.offset) n ≠ .pass)) ∧
    (∃ (t c : Nat) (b : Bytes) (r : Bar2Req) (s : State), (s.at t).regsUp = true ∧ s.sys.state ≠ .doldrums ∧ r.write = some b ∧ (let a := bar2Addr r.offset; r.offset + b.length ≤ 0x40000000 ∧ bar2Range r.offset b.length = true ∧ s.bar2Ident r = some c ∧ s.wall c true a b.length = .pass ∧ s.inProc a b.length = false ∧ s.partPoisoned a b.length = false)) ∧
    (∃ (t c : Nat) (r : Bar2Req) (s : State), (s.at t).regsUp = true ∧ s.sys.state ≠ .doldrums ∧ r.write = none ∧ (let a := bar2Addr r.offset; r.offset + r.length ≤ 0x40000000 ∧ bar2Range r.offset r.length = true ∧ s.bar2Ident r = some c ∧ s.wall c false a r.length = .pass ∧ s.inProc a r.length = false ∧ s.poisoned a r.length = false)) ∧
    (∃ (t : Nat) (r : Bar2Req) (s : State), (s.at t).regsUp = true ∧ s.sys.state ≠ .doldrums ∧ r.offset + (match r.write with | some b => b.length | none => r.length) ≤ 0x40000000 ∧ s.bar2Ident r = none) ∧
    (∃ (t : Nat) (r : Bar2Req) (s : State), (s.at t).regsUp = true ∧ s.sys.state = .doldrums) ∧
    (∃ (c a n : Nat) (w : Bool) (s : State), 0 < n ∧ (∀ l ∈ s.fwl.locks, 0 < l.len)) :=
  ⟨⟨1, 0x1400000000, { offset := 0, reqId := 5, pasid := none, write := some [1, 2], length := 0 }, { withImg .run { channels := [{ ch := 0, queue := 3, reqId := 5 }], rules := [{ ident := 0, kind := 1, perm := 3, base := 0x1400000000, pages := 1 }] } with clk := { pcieOk := true } }, after (.bar2Access 1 { offset := 0, reqId := 5, pasid := none, write := some [1, 2], length := 0 }) ({ withImg .run { channels := [{ ch := 0, queue := 3, reqId := 5 }], rules := [{ ident := 0, kind := 1, perm := 3, base := 0x1400000000, pages := 1 }] } with clk := { pcieOk := true } }), rfl, by decide +kernel⟩,
    ⟨1, 0, { offset := 0, reqId := 5, pasid := none, write := some [1, 2], length := 0 }, { withImg .run { channels := [{ ch := 0, queue := 3, reqId := 5 }], rules := [{ ident := 0, kind := 1, perm := 1, base := 0x1400000000, pages := 1 }] } with clk := { pcieOk := true } }, shaped_of (by decide +kernel), by decide +kernel, by decide +kernel, by decide +kernel, by decide +kernel, by decide +kernel, by decide +kernel, by decide +kernel⟩,
    ⟨1, 0, [1, 2], { offset := 0, reqId := 5, pasid := none, write := some [1, 2], length := 0 }, { withImg .run { channels := [{ ch := 0, queue := 3, reqId := 5 }], rules := [{ ident := 0, kind := 1, perm := 3, base := 0x1400000000, pages := 1 }] } with clk := { pcieOk := true } }, by decide +kernel, by decide +kernel, by decide +kernel, by decide +kernel, by decide +kernel, by decide +kernel, by decide +kernel, by decide +kernel, by decide +kernel⟩,
    ⟨1, 0, { offset := 0, reqId := 5, pasid := none, write := none, length := 4 }, { withImg .run { channels := [{ ch := 0, queue := 3, reqId := 5 }], rules := [{ ident := 0, kind := 1, perm := 3, base := 0x1400000000, pages := 1 }] } with clk := { pcieOk := true } }, by decide +kernel, by decide +kernel, by decide +kernel, by decide +kernel, by decide +kernel, by decide +kernel, by decide +kernel, by decide +kernel, by decide +kernel⟩,
    ⟨1, { offset := 0, reqId := 5, pasid := none, write := none, length := 4 }, on .run, by decide +kernel⟩,
    ⟨1, { offset := 0, reqId := 5, pasid := none, write := some [1, 2], length := 0 }, on .doldrums, by decide +kernel⟩,
    ⟨0, 0x1400000000, 4, true, { withImg .run { channels := [{ ch := 0, queue := 3, reqId := 5 }], rules := [{ ident := 0, kind := 1, perm := 3, base := 0x1400000000, pages := 1 }] } with clk := { pcieOk := true } }, by decide +kernel⟩⟩

theorem wit_ChannelsAreSupervisedAsStated :
    (∃ (t c cp : Nat) (r : ChanRec) (s : State), s.shaped ∧ c < 512 ∧ cp < 16 ∧ (s.at t).tsuOn = true ∧ s.img.chan c = some r) ∧
    (∃ (t c : Nat) (r : ChanRec) (s : State), s.shaped ∧ c < 512 ∧ (s.at t).tsuOn = true ∧ s.img.chan c = some r ∧ r.aliveWindow ≠ 0 ∧ (s.tchan c).windowAt + r.aliveWindow * ms ≤ (s.at t).now) ∧
    (∃ (t c i : Nat) (r : ChanRec) (s : State), s.shaped ∧ c < 512 ∧ (s.at t).tsuOn = true ∧ s.img.chan c = some r ∧ r.deadlineUs ≠ 0 ∧ (s.tchan c).late = false ∧ (s.tchan c).timerAt = some i ∧ i + r.deadlineUs * 1000 ≤ (s.at t).now) ∧
    (∃ (t c : Nat) (r : ChanRec) (s : State), s.shaped ∧ c < 512 ∧ (s.at t).tsuOn = true ∧ s.img.chan c = some r ∧ r.budgetUs ≠ 0 ∧ (s.tchan c).spent = false ∧ r.budgetUs * 1000 < (s.at t).budgetUsed c) ∧
    (∃ (t c : Nat) (r : ChanRec) (s : State), s.shaped ∧ c < 512 ∧ (s.at t).tsuOn = true ∧ s.img.chan c = some r ∧ r.budgetUs ≠ 0 ∧ (s.tchan c).periodAt + r.budgetPeriod * ms ≤ (s.at t).now) ∧
    (∃ (c cause : Nat) (r : ChanRec) (s : State), s.shaped ∧ c < 512 ∧ s.img.chan c = some r ∧ r.queue < 64) :=
  ⟨⟨1, 0, 2, { ch := 0, queue := 3, aliveWindow := 10, aliveMax := 3 }, { withImg .run { channels := [{ ch := 0, queue := 3, aliveWindow := 10, aliveMax := 3 }] } with hq := { opened := true }, tsu := { chans := List.replicate 512 { alive := 3 } } }, shaped_of (by decide +kernel), by decide +kernel⟩,
    ⟨10 * ms, 0, { ch := 0, queue := 3, aliveWindow := 10, aliveMin := 2 }, { withImg .run { channels := [{ ch := 0, queue := 3, aliveWindow := 10, aliveMin := 2 }] } with hq := { opened := true }, tsu := { chans := List.replicate 512 { alive := 1 } } }, shaped_of (by decide +kernel), by decide +kernel⟩,
    ⟨5000, 0, 0, { ch := 0, queue := 3, deadlineUs := 5 }, { withImg .run { channels := [{ ch := 0, queue := 3, deadlineUs := 5 }] } with hq := { opened := true }, tsu := { chans := List.replicate 512 { timerAt := some 0 } } }, shaped_of (by decide +kernel), by decide +kernel⟩,
    ⟨6000, 0, { ch := 0, queue := 3, budgetUs := 5 }, { withImg .run { channels := [{ ch := 0, queue := 3, budgetUs := 5 }] } with hq := { opened := true }, tsu := { chans := List.replicate 512 { timerAt := some 0 } } }, shaped_of (by decide +kernel), by decide +kernel⟩,
    ⟨10 * ms, 0, { ch := 0, queue := 3, budgetUs := 5, budgetPeriod := 10 }, { withImg .run { channels := [{ ch := 0, queue := 3, budgetUs := 5, budgetPeriod := 10 }] } with hq := { opened := true }, tsu := { chans := List.replicate 512 { used := 7, spent := true } } }, shaped_of (by decide +kernel), by decide +kernel⟩,
    ⟨0, 3, { ch := 0, queue := 3, flags := 1 }, { withImg .run { channels := [{ ch := 0, queue := 3, flags := 1 }] } with hq := { opened := true }, tsu := { chans := List.replicate 512 { cause := 1 } } }, shaped_of (by decide +kernel), by decide +kernel⟩⟩

theorem wit_PowerStatesAndBackgroundDeadlinesAct :
    (∃ (t i : Nat) (p : PState) (s : State), (s.at t).psmOn = true ∧ s.psm.entering = some (p, i) ∧ i + p.entry ≤ (s.at t).now) ∧
    (∃ (t : Nat) (p : PState) (s : State), (s.at t).psmOn = true ∧ s.psm.waking = none ∧ s.psm.deepest? = some p ∧ (s.at t).plannedDue p = true) ∧
    (∃ (t m i : Nat) (b : Bool) (s : State), (s.at t).psmOn = true ∧ s.psm.waking = some (i, b)) ∧
    (∃ (t i : Nat) (b : Bool) (s : State), (s.at t).psmOn = true ∧ s.psm.waking = some (i, b) ∧ i + s.psm.state.exit + 50000 < (s.at t).now) ∧
    (∃ (t a : Nat) (s : State), s.shaped ∧ a < 5 ∧ a ≠ 1 ∧ (s.at t).psmOn = true ∧ (getN s.psm.bg a).near (s.at t).now a = true) ∧
    (∃ (t n : Nat) (s : State), s.shaped ∧ n < 16 ∧ (s.at t).psmOn = true ∧ (s.acore n).state = .admitted ∧ (getN s.psm.tests n).near (s.at t).now 1 = true) ∧
    (∃ (t a : Nat) (s : State), s.shaped ∧ a < 5 ∧ a ≠ 1 ∧ (s.at t).psmOn = true ∧ (getN s.psm.bg a).from_ + bgDeadline a ≤ (s.at t).now) ∧
    (∃ (t a : Nat) (s : State), a < 5 ∧ a ≠ 1 ∧ (s.at t).now < (getN s.psm.bg a).from_ + bgDeadline a) ∧
    (∃ (now : Nat) (b : Bg), b.late = false) :=
  ⟨⟨100000, 0, .lull, { on .run with psm := { entering := some (.lull, 0) } }, by decide +kernel⟩,
    ⟨15 * ms, .lull, { on .run with psm := { entering := some (.lull, 0), bg := List.replicate 5 { urgent := true } } }, by decide +kernel⟩,
    ⟨5, 3, 1, true, { on .run with psm := { state := .lull, waking := some (1, true) } }, by decide +kernel⟩,
    ⟨300001, 0, true, { on .run with psm := { state := .lull, waking := some (0, true) } }, by decide +kernel⟩,
    ⟨10 * sec, 2, on .run, shaped_of (by decide +kernel), by decide +kernel⟩,
    ⟨900 * sec, 3, cores .admitted [], shaped_of (by decide +kernel), by decide +kernel⟩,
    ⟨10 * sec, 2, on .run, shaped_of (by decide +kernel), by decide +kernel⟩,
    ⟨5, 2, on .run, by decide +kernel⟩,
    ⟨7, {}, by decide +kernel⟩⟩

theorem wit_MonitorsTelemetryAndLogsAct :
    (∃ (t n : Nat) (x : Int) (r : MonRec) (s : State), s.shaped ∧ n < 64 ∧ (s.at t).regsUp = true ∧ s.img.monitors.slots.find? (·.slot == n) = some r ∧ r.level = true ∧ r.source ≠ 0x24 ∧ -(2 ^ 31) ≤ x ∧ x ≤ 2 ^ 31 - 1) ∧
    (∃ (t n : Nat) (b : Bank) (s : State), (s.at t).bankUp b = true) ∧
    (∃ (t n : Nat) (s : State), s.shaped ∧ (s.at t).regsUp = true) ∧
    (∃ (t : Nat) (r : AdcCal) (s : State), (s.at t).regsUp = true) ∧
    (∃ (t : Nat) (s : State), (s.at t).regsUp = true) ∧
    (∃ (t seq : Nat) (s : State), (s.at t).regsUp = true ∧ s.sys.state ≠ .doldrums ∧ seq < 2 ^ 32) ∧
    (∃ (t num : Nat) (s : State), (s.at t).regsUp = true ∧ num < 2 ^ 32) ∧
    (∃ (t : Nat) (s : State), (s.at t).regsUp = true ∧ s.log.second < (s.at t).dev / sec) :=
  ⟨⟨1, 3, 24000, { slot := 3, source := 0x21, width := 1000 }, { withImg .run { monitors := { slots := [{ slot := 3, source := 0x21, width := 1000 }] } } with mon := {  } }, shaped_of (by decide +kernel), by decide +kernel⟩,
    ⟨1, 3, .host, on .run, by decide +kernel⟩,
    ⟨1, 3, on .run, shaped_of (by decide +kernel), by decide +kernel⟩,
    ⟨1, { spOk := true, slbOk := true, disagree := false }, on .run, by decide +kernel⟩,
    ⟨1, on .run, by decide +kernel⟩,
    ⟨1, 2, on .run, by decide +kernel⟩,
    ⟨1, 2, on .run, by decide +kernel⟩,
    ⟨sec, on .run, by decide +kernel⟩⟩

theorem wit_DebugIsUnlockedAndUsedAsStated :
    (∃ (t : Nat) (s : State), s.sup.on = true) ∧
    (∃ (t a b : Nat) (s : State), s.sup.on = true) ∧
    (∃ (t : Nat) (r : UnlockReq) (s : State), s.sup.on = true ∧ (s.sys.state = .off ∨ s.sys.state = .doldrums)) ∧
    (∃ (t : Nat) (r : UnlockReq) (s : State), s.sup.on = true ∧ s.sys.state = .start) ∧
    (∃ (t : Nat) (c : Cert) (s : State), s.sup.on = true ∧ s.sys.state ≠ .off ∧ s.sys.state ≠ .doldrums ∧ s.sys.state ≠ .start) ∧
    (∃ (t : Nat) (p : Bytes) (s : State), s.sup.on = true ∧ s.sys.state ≠ .off ∧ s.sys.state ≠ .doldrums ∧ s.sys.state ≠ .start ∧ s.sealClass ≠ .program) ∧
    (∃ (t a : Nat) (m : BpMatch) (i : Instr) (s : State), s.sup.on = true ∧ s.dbg.enabled = false ∧ (i = .halt t a ∨ i = .dbgResume t a ∨ i = .step t a ∨ i = .setBp t a m ∨ i = .readCore t a)) ∧
    (∃ (t : Nat) (op : DbgSpOp) (s : State), s.sup.on = true ∧ s.sys.state ≠ .start) :=
  ⟨⟨1, on .run, by decide +kernel⟩,
    ⟨1, 5, 6, on .run, by decide +kernel⟩,
    ⟨1, .password [65], on .doldrums, by decide +kernel⟩,
    ⟨1, .password [65], on .start, by decide +kernel⟩,
    ⟨1, { serial := 0, nonce := [], expiry := 0, scopeSp := true, signature := [] }, on .run, by decide +kernel⟩,
    ⟨1, [65], on .run, by decide +kernel⟩,
    ⟨1, 3, ⟨0, 0, 0, false, false, false, false, 0⟩, .halt 1 3, on .run, by decide +kernel⟩,
    ⟨1, .halt, on .run, by decide +kernel⟩⟩

theorem wit_DebugReachesCoresAndMemoryAsStated :
    (∃ (t m : Nat) (s : State), s.shaped ∧ s.sup.on = true ∧ s.dbg.enabled = true ∧ m % 2 ^ 16 ≠ 0 ∧ s.sys.state ≠ .start) ∧
    (∃ (t m : Nat) (s : State), s.shaped ∧ s.sup.on = true ∧ s.dbg.enabled = true) ∧
    (∃ (t n : Nat) (s : State), s.shaped ∧ s.sup.on = true ∧ s.dbg.enabled = true ∧ n < 16 ∧ getN s.dbg.halted n = true) ∧
    (∃ (n : Nat) (s : State), s.shaped ∧ n < 16 ∧ getN s.dbg.stepping n = true) ∧
    (∃ (t n : Nat) (m : BpMatch) (s : State), s.shaped ∧ s.sup.on = true ∧ s.dbg.enabled = true ∧ n < 4) ∧
    (∃ (t n : Nat) (s : State), s.sup.on = true ∧ s.dbg.enabled = true ∧ n < 16) ∧
    (∃ (t a : Nat) (r : DbgMemReq) (s v : State), exec (.dbgMem t r) s = .next v ∧ memGet v.mem a ≠ memGet s.mem a) ∧
    (∃ (t x : Nat) (r : DbgMemReq) (s : State), s.sup.on = true ∧ s.dbg.enabled = true ∧ (r.bytes = 4 ∨ r.bytes = 8) ∧ r.addr % r.bytes = 0 ∧ r.addr < 2 ^ 40 ∧ r.write = some x ∧ s.wall idDebug true r.addr r.bytes = .pass ∧ regionOf r.addr r.bytes = some .store ∧ inExch r.addr r.bytes = false) ∧
    (∃ (t : Nat) (r : DbgMemReq) (s : State), s.sup.on = true ∧ s.dbg.enabled = true ∧ ((r.bytes ≠ 4 ∧ r.bytes ≠ 8) ∨ r.addr % r.bytes ≠ 0 ∨ 2 ^ 40 ≤ r.addr ∨ s.wall idDebug r.write.isSome r.addr r.bytes ≠ .pass)) ∧
    (∃ (t : Nat) (r : DbgMemReq) (s : State), s.sup.on = true ∧ s.dbg.enabled = false) :=
  ⟨⟨1, 5, { on .run with dbg := { enabled := true, method := 1 } }, shaped_of (by decide +kernel), by decide +kernel⟩,
    ⟨1, 5, { on .run with dbg := { enabled := true, halted := List.replicate 16 true } }, shaped_of (by decide +kernel), by decide +kernel⟩,
    ⟨1, 15, { on .run with dbg := { enabled := true, halted := List.replicate 16 true } }, shaped_of (by decide +kernel), by decide +kernel⟩,
    ⟨15, { on .run with dbg := { enabled := true, stepping := List.replicate 16 true } }, shaped_of (by decide +kernel), by decide +kernel⟩,
    ⟨1, 3, ⟨1, 2, 3, true, false, true, true, 4⟩, { on .run with dbg := { enabled := true, halted := List.replicate 16 true } }, shaped_of (by decide +kernel), by decide +kernel⟩,
    ⟨1, 15, { on .run with dbg := { enabled := true, halted := List.replicate 16 true } }, by decide +kernel⟩,
    ⟨1, 0x1400000000, { addr := 0x1400000000, bytes := 4, write := some 7 }, { withImg .run { rules := [{ ident := 1023, kind := 1, perm := 3, base := 0x1400000000, pages := 1 }] } with dbg := { enabled := true } }, after (.dbgMem 1 { addr := 0x1400000000, bytes := 4, write := some 7 }) ({ withImg .run { rules := [{ ident := 1023, kind := 1, perm := 3, base := 0x1400000000, pages := 1 }] } with dbg := { enabled := true } }), rfl, by decide +kernel⟩,
    ⟨1, 7, { addr := 0x100000004, bytes := 4, write := some 7 }, { withImg .run { rules := [{ ident := 1023, kind := 1, perm := 3, base := 0x100000000, pages := 1 }] } with dbg := { enabled := true } }, by decide +kernel⟩,
    ⟨1, { addr := 2, bytes := 4, write := none }, { on .run with dbg := { enabled := true, halted := List.replicate 16 true } }, by decide +kernel⟩,
    ⟨1, { addr := 0x1400000000, bytes := 4, write := some 7 }, on .run, by decide +kernel⟩⟩

theorem wit_RegisterWritesActAsStated :
    (∃ (t addr x : Nat) (w : Writer) (wide : Bool) (s : State), addr % (if wide then 8 else 4) ≠ 0) ∧
    (∃ (t addr x : Nat) (s : State), (addr < 0x10000 ∨ 0x20000 ≤ addr)) ∧
    (∃ (t addr x : Nat) (s : State), region addr ≠ some .regs) ∧
    (∃ (t q x : Nat) (s : State), s.shaped ∧ (s.at t).regsUp = true ∧ q < 64 ∧ x < 2 ^ 32 ∧ (s.hqueue q).sqBase < 2 ^ 64) ∧
    (∃ (t q x : Nat) (s : State), s.shaped ∧ (s.at t).regsUp = true ∧ q < 64) ∧
    (∃ (t n x : Nat) (s : State), s.shaped ∧ (s.at t).regsUp = true ∧ n < 16 ∧ x < 2 ^ 32) ∧
    (∃ (t x k : Nat) (s : State), (s.at t).regsUp = true ∧ k < 32) ∧
    (∃ (t o x : Nat) (s : State), o < 0x10000) :=
  ⟨⟨1, 2, 7, .host, true, on .run, by decide +kernel⟩,
    ⟨1, 0x20000, 7, on .run, by decide +kernel⟩,
    ⟨1, 0x100000000, 7, on .run, by decide +kernel⟩,
    ⟨1, 63, 0xFFFFFFFF, { on .run with hq := { opened := true, queues := List.replicate 64 { sqBase := 0x100000040 } } }, shaped_of (by decide +kernel), by decide +kernel⟩,
    ⟨1, 63, 0x55, on .run, shaped_of (by decide +kernel), by decide +kernel⟩,
    ⟨1, 15, 0x1030C, on .run, shaped_of (by decide +kernel), by decide +kernel⟩,
    ⟨1, 31, 3, on .run, by decide +kernel⟩,
    ⟨1, 0x10, 7, on .run, by decide +kernel⟩⟩

theorem wit_PowerStartClocksAndConfigurationComplete :
    (∃ (t vin backup : Nat) (s : State), s.sup.on = false) ∧
    (∃ (t : Nat) (s : State), s.sup.on = true ∧ s.sys.powerFail = false) ∧
    (∃ (t : Nat) (s : State), s.sup.on = true ∧ s.sys.powerFail = true) ∧
    (∃ (t : Nat) (r : S0Result) (s : State), (s.at t).inTime 0 ∧ s.start.counted = true ∧ r.selfTest = true ∧ r.holdup = true) ∧
    (∃ (t : Nat) (r : S1Result) (s : State), (s.at t).inTime 1 ∧ r.romCrc = true ∧ r.fwSignature = true ∧ s.nvm.floor ≤ r.fwVersion) ∧
    (∃ (t : Nat) (r : S2Result) (s : State), (s.at t).inTime 2 ∧ ((s.at t).retValid r = true ∨ r.faultAfterZero = false)) ∧
    (∃ (t : Nat) (r : S3Result) (s : State), (s.at t).inTime 3 ∧ r.rows % 1024 = 1023 ∧ s.dbg.halted.any id = false ∧ s.dbg.spHalted = false) ∧
    (∃ (t : Nat) (r : S4Result) (s : State), (s.at t).inTime 4 ∧ (∀ i < 10, bit r.checks i = true) ∧ (∀ n < 16, bit r.coreFail n = false) ∧ getN s.slb.outSeen 0 = false ∧ getN s.slb.outSeen 1 = false ∧ s.slb.supplyTrip = false ∧ s.dbg.halted.any id = false ∧ s.dbg.spHalted = false) ∧
    (∃ (t : Nat) (r : S5Result) (s : State), (s.at t).inTime 5 ∧ s.outputsSound ∧ r.trained = true ∧ r.tested = true ∧ r.swept = true ∧ r.beuOk = true) ∧
    (∃ (t : Nat) (r : S6Result) (s : State), (s.at t).inTime 6 ∧ s.outputsSound ∧ r.storeReadable = true ∧ r.weightsWritable = true) ∧
    (∃ (t : Nat) (r : S7Result) (s : State), (s.at t).inTime 7 ∧ s.outputsSound ∧ r.handshake = true ∧ s.cfg.admitted = false ∧ r.missingLink = none ∧ r.ptpRequired = false) ∧
    (∃ (t : Nat) (dest : St) (s : State), (s.at t).inTime 8 ∧ s.outputsSound ∧ s.dbg.held = none ∧ s.start.dest = some dest ∧ s.fencedCount = 0) ∧
    (∃ (t : Nat) (s : State), (s.at t).inStage s.start.stage = true ∧ s.start.stageAt + stageLimit s.start.stage ≤ (s.at t).now) ∧
    (∃ (t : Nat) (s : State), (s.at t).inStage s.start.stage = true ∧ s.start.s0At + 20 * sec ≤ (s.at t).now) ∧
    (∃ (t i : Nat) (s : State), s.sup.on = true ∧ s.sys.state = .start ∧ s.start.holdAt = some i ∧ i + sec ≤ (s.at t).now ∧ s.sys.powerFail = false ∧ s.sys.spHeld = false ∧ s.sup.thermal = false ∧ s.start.holdLast = false) ∧
    (∃ (t i : Nat) (s : State), s.sup.on = true ∧ s.slb.holdAt = some i ∧ i + 60 * sec ≤ (s.at t).now ∧ (s.at t).clearFree = true) ∧
    (∃ (t : Nat) (s : State), (s.at t).spRuns = true ∧ s.sys.state = .doldrums ∧ s.start.diagAt = none) ∧
    (∃ (t : Nat) (s : State), (s.at t).spRuns = true ∧ s.sys.powerFail = false) ∧
    (∃ (t : Nat) (s : State), (s.at t).sys.degRun = true ∧ (s.at t).degLimit ≤ (s.at t).sys.degElapsed) ∧
    (∃ (t i : Nat) (s : State), s.sys.ss1At = some i ∧ i + ((s.at t).ss1Longest + 10 * ms) ≤ (s.at t).now ∧ s.stopped = false) ∧
    (∃ (t i : Nat) (s : State), s.sys.armedAt = some i ∧ i + 30 * sec ≤ (s.at t).now) ∧
    (∃ (t sw : Nat) (on : Bool) (s : State), sw < 4) ∧
    (∃ (t sw i : Nat) (s : State), sw < 4 ∧ getN s.seals.since sw = some i ∧ i + 50 * ms ≤ (s.at t).now) ∧
    (∃ (t : Nat) (s : State), s.sup.on = true ∧ s.seals.open_ = false ∧ s.sys.state = .run ∧ s.sys.pendTrips = []) ∧
    (∃ (t : Nat) (low : Bool) (s : State), s.sup.on = true ∧ s.dbg.pres ≠ low) ∧
    (∃ (t : Nat) (b : Bool) (mv : Nat) (s : State), s.sup.on = true ∧ (mv < 18000 ∨ 32000 < mv)) ∧
    (∃ (t a b : Nat) (s : State), s.sup.on = true ∧ 19200 ≤ a ∧ a ≤ 30000 ∧ 19200 ≤ b ∧ b ≤ 30000) ∧
    (∃ (t : Nat) (s : State), s.sup.on = true) ∧
    (∃ (t : Nat) (s : State), s.sup.on = true ∧ s.sup.thermal = false ∧ s.sys.powerFail = false ∧ s.sys.state = .run) ∧
    (∃ (t : Nat) (s : State), s.sup.on = true ∧ s.sup.thermal = true ∧ s.sys.powerFail = false ∧ s.sys.state = .start) ∧
    (∃ (t : Nat) (s : State), s.sup.on = true ∧ s.clk.rtcOk = true) ∧
    (∃ (t i : Nat) (s : State), s.sup.on = true ∧ s.sys.spHeld = true ∧ s.clk.spOk = true ∧ s.clk.fabOk = true ∧ s.clk.okSince = some i ∧ i + 10 * ms ≤ (s.at t).now ∧ s.sys.powerFail = false ∧ s.sys.state = .start ∧ s.start.clkHeld = true) ∧
    (∃ (t : Nat) (y : PtpSync) (s : State), (s.at t).ptpOn y.port = true ∧ s.clk.gm = some y.gm ∧ s.clk.port = y.port) ∧
    (∃ (t : Nat) (y : PtpSync) (s : State), (s.at t).ptpOn y.port = true ∧ s.clk.gm ≠ some y.gm) ∧
    (∃ (t port : Nat) (s : State), s.sup.on = true ∧ port < 2 ∧ s.clk.port = port ∧ (getN s.clk.gms port).isSome = true ∧ getN s.clk.gms (1 - port) = none ∧ s.clk.sync ≠ .unset) ∧
    (∃ (t i : Nat) (s : State), s.clk.sync = .holdover ∧ s.clk.lostAt = some i ∧ i + 60 * sec ≤ (s.at t).now) ∧
    (∃ (t i : Nat) (s : State), s.sup.on = true ∧ (s.at t).clk.portsDiffer = true ∧ s.clk.disSince = some i ∧ i + 10 * sec ≤ (s.at t).now ∧ s.clk.disLogged = false) ∧
    (∃ (t n d : Nat) (s : State), s.shaped ∧ n < 8 ∧ (getN s.clk.trigs n).en = true ∧ (getN s.clk.trigs n).due = some d ∧ (s.at t).trigOn = true ∧ d ≤ (s.at t).dev ∧ (s.at t).dev < d + 8) ∧
    (∃ (t n x : Nat) (s : State), s.shaped ∧ (s.at t).regsUp = true ∧ n < 8) ∧
    (∃ (t n x : Nat) (s : State), s.shaped ∧ (s.at t).regsUp = true ∧ n < 8 ∧ 1000000 ≤ x ∧ x ≤ 10000000000 ∧ (getN s.clk.trigs n).widthV < x) ∧
    (∃ (t n x : Nat) (s : State), s.shaped ∧ (s.at t).regsUp = true ∧ n < 8 ∧ 1000 ≤ x ∧ x ≤ 1000000 ∧ x < (getN s.clk.trigs n).periodV) ∧
    (∃ (t n x : Nat) (s : State), s.shaped ∧ (s.at t).regsUp = true ∧ n < 8 ∧ (bit x 0 = false ∨ (getN s.clk.trigs n).ranges = true)) ∧
    (∃ (t : Nat) (s : State), s.rtc.following = false ∧ s.clk.rtcOk = true ∧ s.rtc.cal ≠ calLast) ∧
    (∃ (t k first n : Nat) (q : CfgReq) (s : State), (s.at t).takes q 0x02 ∧ s.sys.state ≠ .start ∧ (s.sys.state = .doldrums → k ≠ 4) ∧ 1 ≤ k ∧ k ≤ 4) ∧
    (∃ (t : Nat) (q : CfgReq) (s : State), (s.at t).takes q 0x10 ∧ (s.at t).knows q ∧ s.sys.state ∈ uploadStates ∧ s.cfg.session = none) ∧
    (∃ (t : Nat) (q : CfgReq) (o : Nat) (d : Bytes) (s : State), (s.at t).takes q 0x11 ∧ s.sys.state ∈ uploadStates ∧ (s.at t).inSession q = true ∧ d.length ≤ 1400 ∧ o ≤ s.cfg.upTo ∧ o + d.length ≤ sizeSoFar (getN s.cfg.slots s.standby).image o d + 268435456) ∧
    (∃ (t : Nat) (q : CfgReq) (s : State), (s.at t).takes q 0x12 ∧ s.sys.state ∈ uploadStates ∧ (s.at t).inSession q = true) ∧
    (∃ (t : Nat) (x : Nat × Nat) (s : State), s.cfg.session = some x ∧ x.2 + 10 * sec ≤ (s.at t).now) ∧
    (∃ (t : Nat) (q : CfgReq) (w : Bytes) (s : State), (s.at t).takes q 0x31 ∧ (s.at t).knows q ∧ s.sys.state = .commission ∧ (s.at t).sealClass = .program ∧ passwordOk w = true ∧ 1 ≤ (s.at t).logFree) ∧
    (∃ (t : Nat) (q : CfgReq) (s : State), (s.at t).takes q 0x20 ∧ (s.at t).knows q ∧ s.sys.state = .commission ∧ s.cfg.session = none ∧ (s.at t).sealClass = .program ∧ 2 ≤ (s.at t).logFree ∧ s.slb.toSp = [] ∧ s.sys.pendTrips = []) ∧
    (∃ (t : Nat) (q : CfgReq) (s : State), (s.at t).takes q 0x21 ∧ (s.at t).knows q ∧ s.sys.state = .commission) ∧
    (∃ (t p : Nat) (q : CfgReq) (k w : Bytes) (s : State), (s.at t).takes q 0x30 ∧ (s.at t).secrets.pass = none ∧ s.sys.state = .commission ∧ (s.at t).sealClass = .program ∧ k.length = 32 ∧ passwordOk w = true ∧ 1 ≤ p ∧ p ≤ 14 ∧ 1 ≤ (s.at t).logFree) ∧
    (∃ (t x : Nat) (q : CfgReq) (s : State), (s.at t).takes q 0x40 ∧ (s.at t).knows q ∧ s.sys.state ∈ rtcStates ∧ (calOf x).ok = true ∧ 1 ≤ (s.at t).logFree) ∧
    (∃ (t o : Nat) (q : CfgReq) (s : State), (s.at t).takes q 0x41 ∧ (s.at t).knows q ∧ s.sys.state ∈ rtcStates ∧ 1 ≤ (s.at t).logFree) ∧
    (∃ (t : Nat) (q : CfgReq) (s : State), (s.at t).takes q 0x51 ∧ (s.at t).knows q ∧ s.sys.state = .commission ∧ s.cfg.exported = true) ∧
    (∃ (t : Nat) (q : CfgReq) (s : State), (s.at t).takes q 0x60 ∧ (s.at t).knows q ∧ s.sys.state = .doldrums ∧ (s.at t).sealClass = .program) ∧
    (∃ (t : Nat) (q : CfgReq) (c : Cert) (s : State), (s.at t).takes q 0x70 ∧ s.sys.state = .commission ∧ (s.at t).sealClass = .program ∧ 1 ≤ (s.at t).logFree) ∧
    (∃ (t : Nat) (s : State), s.sup.on = true ∧ (s.at t).secrets.lock = 0 ∧ 5 ≤ (s.at t).secrets.wrong) ∧
    (∃ (t : Nat) (s : State), (s.at t).spRuns = true ∧ s.sys.state ∈ rtcStates ∧ (s.at t).hashBad = true ∧ s.cfg.hashFail = false) ∧
    (∃ (t : Nat) (q : CfgReq) (l : List Nat) (s : State), (s.at t).takes q 0x01 ∧ s.sys.state ≠ .start ∧ l.length ≤ 350 ∧ l.all regAddr = true) :=
  ⟨⟨5, 12000, 5000, State.reset, by decide +kernel⟩,
    ⟨5, on .run, by decide +kernel⟩,
    ⟨5, { on .run with sys := { state := .run, powerFail := true } }, by decide +kernel⟩,
    ⟨5, { selfTest := true, holdup := true }, up 0, ⟨by decide, by decide, by decide⟩, by decide +kernel⟩,
    ⟨5, { romCrc := true, fwSignature := true, fwVersion := 1 }, up 1, ⟨by decide, by decide, by decide⟩, by decide +kernel⟩,
    ⟨5, ⟨true, true, true, true, false, false⟩, { up 2 with ret := { held := true } }, ⟨by decide, by decide, by decide⟩, by decide +kernel⟩,
    ⟨5, ⟨1023, 0⟩, up 3, ⟨by decide, by decide, by decide⟩, by decide +kernel⟩,
    ⟨5, ⟨0, 1023⟩, up 4, ⟨by decide, by decide, by decide⟩, by decide +kernel⟩,
    ⟨5, ⟨true, true, true, true⟩, up 5, ⟨by decide, by decide, by decide⟩, ⟨by decide +kernel, by decide +kernel⟩, by decide +kernel⟩,
    ⟨5, ⟨true, true⟩, up 6, ⟨by decide, by decide, by decide⟩, ⟨by decide +kernel, by decide +kernel⟩, by decide +kernel⟩,
    ⟨5, ⟨true, none, false⟩, up 7, ⟨by decide, by decide, by decide⟩, ⟨by decide +kernel, by decide +kernel⟩, by decide +kernel⟩,
    ⟨5, .commission, { up 8 with start := { stage := 8, counted := true, dest := some .commission }, aud := { cores := List.replicate 16 { state := .admitted } } }, ⟨by decide, by decide, by decide⟩, ⟨by decide +kernel, by decide +kernel⟩, by decide +kernel⟩,
    ⟨2000 * ms, up 0, by decide +kernel⟩,
    ⟨20 * sec, { up 7 with start := { stage := 7, stageAt := 19 * sec } }, by decide +kernel⟩,
    ⟨sec, 0, { up 3 with start := { stage := 3, holdAt := some 0 } }, by decide +kernel⟩,
    ⟨60 * sec, 0, { on .run with slb := { holdAt := some 0 } }, by decide +kernel⟩,
    ⟨5, on .doldrums, by decide +kernel⟩,
    ⟨5, on .run, by decide +kernel⟩,
    ⟨1800 * sec, { on .degraded with sys := { state := .degraded, degRun := true } }, by decide +kernel⟩,
    ⟨5 + 10 * ms, 5, { on .halted with sys := { state := .halted, ss1At := some 5 }, slb := { groups := List.replicate 4 { state := .time } } }, by decide +kernel⟩,
    ⟨30 * sec, 0, { on .halted with sys := { state := .halted, armedAt := some 0 } }, by decide +kernel⟩,
    ⟨5, 3, true, on .run, by decide +kernel⟩,
    ⟨50 * ms, 3, 0, { on .run with seals := { since := List.replicate 4 (some 0) } }, by decide +kernel⟩,
    ⟨5, on .run, by decide +kernel⟩,
    ⟨5, true, on .run, by decide +kernel⟩,
    ⟨5, false, 17999, on .run, by decide +kernel⟩,
    ⟨5, 19200, 30000, on .run, by decide +kernel⟩,
    ⟨5, on .run, by decide +kernel⟩,
    ⟨5, on .run, by decide +kernel⟩,
    ⟨5, { on .start with sup := { on := true, thermal := true } }, by decide +kernel⟩,
    ⟨5, on .run, by decide +kernel⟩,
    ⟨10 * ms, 0, { on .start with sys := { state := .start, spHeld := true }, clk := { okSince := some 0 }, start := { clkHeld := true } }, by decide +kernel⟩,
    ⟨5, { port := 0, gm := 9, offset := 3 }, { on .run with clk := { gm := some 9 } }, by decide +kernel⟩,
    ⟨5, { port := 0, gm := 9, offset := 3 }, on .run, by decide +kernel⟩,
    ⟨5, 0, { on .run with clk := { gms := [some 9, none], gm := some 9, sync := .locked } }, by decide +kernel⟩,
    ⟨60 * sec, 0, { on .run with clk := { sync := .holdover, lostAt := some 0 } }, by decide +kernel⟩,
    ⟨10 * sec, 0, { on .run with clk := { gms := [some 8, some 9], offs := [0, 1001], disSince := some 0 } }, by decide +kernel⟩,
    ⟨0, 7, 1000, { on .run with clk := { dev := 1000, trigs := List.replicate 8 { en := true, due := some 1000, period := 1000000, width := 1000, start := 1000 } } }, shaped_of (by decide +kernel), by decide +kernel⟩,
    ⟨5, 7, 10, on .run, shaped_of (by decide +kernel), by decide +kernel⟩,
    ⟨5, 7, 1000000, on .run, shaped_of (by decide +kernel), by decide +kernel⟩,
    ⟨5, 7, 1000, { on .run with clk := { trigs := List.replicate 8 { period := 1000000 } } }, shaped_of (by decide +kernel), by decide +kernel⟩,
    ⟨5, 7, 0, on .run, shaped_of (by decide +kernel), by decide +kernel⟩,
    ⟨5, on .run, by decide +kernel⟩,
    ⟨5, 4, 0, 10, ask 0x02, desk .run, takes_of (by decide +kernel), by decide +kernel⟩,
    ⟨5, ask 0x10, desk .run, takes_of (by decide +kernel), ⟨by decide +kernel, _, rfl, rfl⟩, by decide +kernel⟩,
    ⟨5, ask 0x11, 0, [1, 2], { desk .run with cfg := { session := some (1, 0) } }, takes_of (by decide +kernel), by decide +kernel⟩,
    ⟨5, ask 0x12, { desk .run with cfg := { session := some (1, 0) } }, takes_of (by decide +kernel), by decide +kernel⟩,
    ⟨10 * sec, (1, 0), { on .run with cfg := { session := some (1, 0) } }, by decide +kernel⟩,
    ⟨5, ask 0x31, List.replicate 64 126, desk .commission, takes_of (by decide +kernel), ⟨by decide +kernel, _, rfl, rfl⟩, by decide +kernel⟩,
    ⟨5, ask 0x20, desk .commission, takes_of (by decide +kernel), ⟨by decide +kernel, _, rfl, rfl⟩, by decide +kernel⟩,
    ⟨5, ask 0x21, desk .commission, takes_of (by decide +kernel), ⟨by decide +kernel, _, rfl, rfl⟩, by decide +kernel⟩,
    ⟨5, 14, ask 0x30, zeros 32, List.replicate 10 65, { desk .commission with nvm := {} }, takes_of (by decide +kernel), by decide +kernel⟩,
    ⟨5, 0x2100000000, ask 0x40, desk .run, takes_of (by decide +kernel), ⟨by decide +kernel, _, rfl, rfl⟩, by decide +kernel⟩,
    ⟨5, 37, ask 0x41, desk .commission, takes_of (by decide +kernel), ⟨by decide +kernel, _, rfl, rfl⟩, by decide +kernel⟩,
    ⟨5, ask 0x51, { desk .commission with cfg := { exported := true } }, takes_of (by decide +kernel), ⟨by decide +kernel, _, rfl, rfl⟩, by decide +kernel⟩,
    ⟨5, ask 0x60, desk .doldrums, takes_of (by decide +kernel), ⟨by decide +kernel, _, rfl, rfl⟩, by decide +kernel⟩,
    ⟨5, ask 0x70, { serial := 1, nonce := [], expiry := 0, scopeSp := false, signature := [] }, desk .commission, takes_of (by decide +kernel), by decide +kernel⟩,
    ⟨5, { on .run with nvm := { secrets := ({ wrong := 5 } : Secrets).store } }, by decide +kernel⟩,
    ⟨5, withImg .run {}, by decide +kernel⟩,
    ⟨5, ask 0x01, [0x200000000], desk .run, takes_of (by decide +kernel), by decide +kernel⟩⟩

theorem wit_IntakeComputeVerdictAndSlbCommandsComplete :
    (∃ (t n : Nat) (s : State), s.shaped ∧ n < 8 ∧ (getN s.clk.trigs n).pulse = true ∧ (getN s.clk.trigs n).pulseEnd ≤ (s.at t).dev) ∧
    (∃ (t : Nat) (s : State), s.sup.on = false) ∧
    (∃ (t n : Nat) (s : State), s.shaped ∧ (s.at t).streamOn n = true ∧ (s.strm n).intake = none ∧ (s.strm n).slotFor.isSome = true) ∧
    (∃ (t n k : Nat) (f : FrameIn) (r : StreamRec) (i : Intake) (s : State), (s.at t).streamOn n = true ∧ s.img.stream n = some r ∧ (s.strm n).intake = some i ∧ (s.strm n).slotFor = some k ∧ f.error = false ∧ f.payload.length = r.frameBytes ∧ (s.strm n).cvuLost = false ∧ i.lost = false ∧ (s.stk 0).fault = false) ∧
    (∃ (t n : Nat) (r : StreamRec) (p : PendFinal) (l : List PendFinal) (s : State), s.img.stream n = some r ∧ (s.strm n).pend = p :: l ∧ (s.at t).streamOn n = true ∧ p.due r ≤ (s.at t).dev) ∧
    (∃ (t n : Nat) (r : StreamRec) (s : State), s.img.stream n = some r ∧ (s.at t).streamOn n = true ∧ (s.strm n).state ≠ .lost ∧ (s.strm n).sealAt + r.stall * r.period ≤ (s.at t).dev) ∧
    (∃ (t n seq : Nat) (l : List Nat) (b : BufDesc) (r : StreamRec) (s : State), s.shaped ∧ s.img.stream n = some r ∧ (s.strm n).deliver = seq :: l ∧ (s.at t).streamOn n = true ∧ (s.at t).linkUp = true ∧ (getN s.hq.rings n).en = true ∧ (getN s.hq.rings n).head ≠ (getN s.hq.rings n).tail ∧ r.frameBytes + 32 ≤ b.length) ∧
    (∃ (t : Nat) (e : EgoIn) (s : State), (s.at t).fguOn = true ∧ s.fgu.lastTick < e.tick ∧ (e.tick + 2) * ms ≤ (s.at t).dev) ∧
    (∃ (t x : Nat) (s : State), (s.at t).fguOn = true ∧ s.fgu.openAt = none ∧ s.fgu.firstEntry = some x ∧ x ≤ (s.at t).dev ∧ s.fgu.prevOpen = none) ∧
    (∃ (t : Nat) (s : State), (s.at t).fguOn = true ∧ (s.at t).epochDue = true) ∧
    (∃ (t w : Nat) (e : Epoch) (s : State), (s.at t).fguOn = true ∧ s.fgu.waiting = some w ∧ s.fgu.job = none ∧ (s.at t).psm.asleep = false ∧ (s.at t).epochOf w = some e) ∧
    (∃ (t n j i p : Nat) (s : State), n < 16 ∧ (s.at t).dieRuns = true ∧ (s.at t).coreReady n = true ∧ (s.acore n).state = .admitted ∧ (s.at t).nextFor n = some (j, i, p)) ∧
    (∃ (t n : Nat) (hw : CoreHw) (r : Run) (s : State), (s.at t).running n = some r) ∧
    (∃ (t n : Nat) (r : Run) (s : State), (s.at t).running n = some r ∧ r.start + r.halt + (s.at t).watchdogOf n r < (s.at t).now) ∧
    (∃ (t n : Nat) (s : State), s.shaped ∧ n < 16 ∧ (s.at t).dieRuns = true ∧ (s.acore n).state = .bist) ∧
    (∃ (t n : Nat) (s : State), s.shaped ∧ n < 16 ∧ (s.at t).dieRuns = true ∧ (s.at t).coreReady n = true ∧ s.sys.state.permits = true ∧ (s.acore n).state = .admitted ∧ (s.at t).vpReady = false) ∧
    (∃ (t k : Nat) (slot : Option Nat) (laneOk slotOk : Bool) (s : State), s.vane.selftest = some (k, slot)) ∧
    (∃ (t cls : Nat) (r : ClassRec) (s : State), (s.at t).dieRuns = true ∧ s.sys.state.permits = true ∧ s.img.cls cls = some r ∧ r.safeState = true) ∧
    (∃ (t cls i : Nat) (r : ClassRec) (s : State), (s.aud.orig[cls]?).join = some i ∧ s.img.cls cls = some r ∧ i + r.deadlineUs * 1000 ≤ (s.at t).now) ∧
    (∃ (t k : Nat) (bg : Bool) (b : Bytes) (s : State), s.shaped ∧ (s.at t).beuOn k = true ∧ (s.stk k).fault = false ∧ ((s.stk k).ring bg).queue.length < 255) ∧
    (∃ (t k : Nat) (c : BCmd) (l : List BCmd) (s : State), s.shaped ∧ (s.at t).beuOn k = true ∧ (s.stk k).fault = false ∧ (s.stk k).selfRefresh = false ∧ ((s.stk k).ring false).queue = c :: l ∧ (s.at t).headAct k false = .start) ∧
    (∃ (t k c n : Nat) (r : BRun) (s : State), s.shaped ∧ (s.at t).beuOn k = true ∧ (s.stk k).fault = false ∧ (s.stk k).running.find? (fun r => r.cmd.channel == c) = some r ∧ (s.stk k).uncorrAt.length ≤ 64) ∧
    (∃ (t k : Nat) (bg : Bool) (c : BCmd) (s : State), (s.at t).beuOn k = true ∧ ((s.stk k).ring bg).fence = some c ∧ (s.stk k).running.any (fun r => r.bg == bg) = false) ∧
    (∃ (t k w : Nat) (s : State), s.shaped ∧ (s.at t).beuOn k = true ∧ (s.stk k).swPhase = 0 ∧ s.sys.state = .start ∧ bit w 8 = true ∧ bit w 4 = false) ∧
    (∃ (t k : Nat) (s : State), s.shaped ∧ (s.at t).beuOn k = true ∧ (s.stk k).swPhase = 1 ∧ (s.stk k).running.any (fun r => r.cmd.channel == (s.stk k).swChannel) = false) ∧
    (∃ (t k : Nat) (s : State), s.shaped ∧ (s.at t).beuOn k = true ∧ (s.stk k).swPhase = 2) ∧
    (∃ (t k : Nat) (s : State), s.shaped ∧ (s.at t).beuOn k = true ∧ (s.stk k).swPhase = 3) ∧
    (∃ (t k n o : Nat) (s : State), (s.at t).scrubOn k = true ∧ (s.stk k).nextBlock (max (s.stk k).scrubPtr (stackBase k) - stackBase k) = some o) ∧
    (∃ (t k c : Nat) (s : State), s.shaped ∧ s.sup.on = true ∧ k < 2 ∧ c ≤ 105) ∧
    (∃ (t k i : Nat) (s : State), s.shaped ∧ k < 2 ∧ (s.stk k).coolAt = some i ∧ i + 10 * ms ≤ (s.at t).now) ∧
    (∃ (t k : Nat) (s : State), (s.at t).beuOn k = true ∧ (s.stk k).swept = true) ∧
    (∃ (t q v : Nat) (s u : State), s.at t = u ∧ u.regsUp = true ∧ q < 64 ∧ (u.hqueue q).en = true ∧ (u.hqueue q).resetting = false ∧ v % 4096 < 2 ^ (u.hqueue q).sqLog) ∧
    (∃ (t q : Nat) (desc : Bytes) (c : ChanRec) (b : Bytes) (s u : State), s.at t = u ∧ u.peekN (bar2Addr (leAt desc 4 4)) 2560 = b ∧ desc.length = 64 ∧ u.boundChan q = some c ∧ u.canTake q = true ∧ descFormOk desc = true ∧ u.recordInside c.ch desc = true ∧ leAt b 4 4 = (u.vq q).next ∧ leAt b 8 2 = c.ch ∧ u.sys.state ≠ .doldrums) ∧
    (∃ (t q : Nat) (r : Result) (s u : State), s.at t = u ∧ (u.vrd.results.find? fun r => r.q == q && r.state == .read) = some r) ∧
    (∃ (t q : Nat) (r : Result) (s u : State), s.at t = u ∧ (u.vrd.results.find? fun r => r.q == q && r.state == .locked) = some r ∧ r.reject = none ∧ u.crcFail r = none ∧ (r.ranges.any fun x => u.poisoned x.2.1 x.2.2.1) = false) ∧
    (∃ (t q seq : Nat) (r : Result) (s u : State), s.at t = u ∧ u.resultOf q seq = some r ∧ r.state = .committed ∧ r.deadline ≤ u.dev) ∧
    (∃ (t q seq : Nat) (r : Result) (s u : State), s.at t = u ∧ u.resultOf q seq = some r ∧ r.state = .committed ∧ r.deadline + ms ≤ u.dev) ∧
    (∃ (t q seq : Nat) (s u : State), s.at t = u ∧ s.shaped ∧ u.regsUp = true ∧ q < 64 ∧ ((u.vq q).win.any fun w => w.1 == seq % 2 ^ 32 % 256 && w.2.lost) = false) ∧
    (∃ (t : Nat) (i : SlbIn) (s u : State), s.at t = u ∧ u.sup.on = true) ∧
    (∃ (t n : Nat) (on : Bool) (s u : State), s.at t = u ∧ u.sup.on = true ∧ n ≤ 16 ∧ (u.params.input n).kind ≠ 2) ∧
    (∃ (t n : Nat) (s u : State), s.at t = u ∧ u.sup.on = true ∧ n ≤ 16) ∧
    (∃ (t n : Nat) (s u : State), s.at t = u ∧ u.sup.on = true ∧ n < 16 ∧ (u.params.input n).kind ≠ 0 ∧ (u.sinput n).disc = false ∧ (u.sinput n).a ≠ (u.sinput n).b ∧ u.pastOpt (u.sinput n).differ (u.discNs n) = true) ∧
    (∃ (t tp : Nat) (s u : State), s.at t = u ∧ u.sup.on = true ∧ tp < 8 ∧ u.sys.state ≠ .off ∧ (∀ n < 16, (u.sinput n).pulse = false)) ∧
    (∃ (t ch : Nat) (s u : State), s.at t = u ∧ u.sup.on = true ∧ ch < 8 ∧ u.slb.stoCmd.getD ch false = true) ∧
    (∃ (t n k : Nat) (s u : State), s.at t = u ∧ u.sup.on = true ∧ n < 4 ∧ (getN u.slb.groups n).ss1End u.now (getN u.params.groups n) = some k ∧ u.past ((getN u.slb.groups n).ss1At.getD u.now) ((getN u.params.groups n).ss1Max * ms) = true) ∧
    (∃ (t n : Nat) (s u : State), s.at t = u ∧ u.sup.on = true ∧ n < 4 ∧ (getN u.slb.groups n).ss1End u.now (getN u.params.groups n) = some 1) ∧
    (∃ (t n : Nat) (s u : State), s.at t = u ∧ u.sup.on = true ∧ n < 4 ∧ (getN u.slb.brakes n).phase = .wait ∧ u.past (getN u.slb.brakes n).since ((getN u.params.brakes n).releaseMs * ms) = true) ∧
    (∃ (t n : Nat) (s u : State), s.at t = u ∧ u.sup.on = true ∧ n < 4 ∧ (getN u.slb.brakes n).phase = .pullin ∧ u.past (getN u.slb.brakes n).since ((getN u.params.brakes n).pullinMs * ms) = true) ∧
    (∃ (t : Nat) (s u : State), s.at t = u ∧ u.sup.on = true ∧ u.pastOpt u.slb.chainAt (u.params.chainPulseMs * ms) = true) ∧
    (∃ (t qe : Nat) (s u : State), s.at t = u ∧ u.sup.on = true ∧ qe < 8 ∧ (getN u.slb.qe qe).fault = false ∧ (u.params.groups.any fun g => bit g.axes qe) = true) ∧
    (∃ (t : Nat) (s u : State), s.at t = u ∧ u.sup.on = true ∧ u.slb.degRun = true ∧ u.params.degTimerS * 1010 * ms + sec ≤ u.slb.degElapsed) ∧
    (∃ (t : Nat) (f : LinkFrame) (r : List LinkFrame) (s u : State), s.at t = u ∧ u.sup.on = true ∧ u.slb.link = f :: r ∧ (u.slb.beat.any fun p => f.beat ≠ (p + 1) % 256) = false) ∧
    (∃ (t : Nat) (active : Bool) (s u : State), s.at t = u ∧ u.sup.on = true) ∧
    (∃ (t : Nat) (s u : State), s.at t = u ∧ u.sup.on = true ∧ u.pastOpt u.slb.disagree (10 * ms) = true) ∧
    (∃ (t : Nat) (s u : State), s.at t = u ∧ u.sup.on = true ∧ u.sys.state ≠ .off) ∧
    (∃ (t : Nat) (s u : State), s.at t = u ∧ u.sup.on = true) ∧
    (∃ (t : Nat) (s u : State), s.at t = u ∧ u.sup.on = true ∧ u.nvm.params.aOk = true ∧ u.nvm.params.bOk = true) :=
  ⟨⟨0, 7, { on .run with clk := { dev := 1000, trigs := List.replicate 8 { pulse := true, pulseEnd := 1000 } } }, shaped_of (by decide +kernel), by decide +kernel⟩,
    ⟨5, State.reset, by decide +kernel⟩,
    ⟨5, 15, cam, shaped_of (by decide +kernel), by decide +kernel⟩,
    ⟨5, 15, 0, { payload := List.replicate 64 1, error := false, header := none }, { stream := 15 }, { stamp := 0, trigger := none }, { cam with fiu := { streams := List.replicate 16 { state := .live, ring := List.replicate 4 {}, intake := some { stamp := 0, trigger := none } } } }, by decide +kernel⟩,
    ⟨5, 15, { stream := 15 }, { seq := 1, endDev := 0, capture := 0, prevCap := none, cause := 0, changed := none, poisoned := false }, [], { cam with clk := { dev := 3 * ms }, fiu := { streams := List.replicate 16 { state := .live, pend := [{ seq := 1, endDev := 0, capture := 0, prevCap := none, cause := 0, changed := none, poisoned := false }] } } }, by decide +kernel⟩,
    ⟨2 * 8333333, 15, { stream := 15 }, cam, by decide +kernel⟩,
    ⟨5, 15, 7, [], ⟨0, 96⟩, { stream := 15 }, { cam with clk := { pcieOk := true }, fiu := { streams := List.replicate 16 { state := .live, deliver := [7] } }, hq := { rings := List.replicate 16 { en := true, sizeLog := 4, tail := 1 } } }, shaped_of (by decide +kernel), by decide +kernel⟩,
    ⟨3 * ms, { tick := 1, imu := [], imuOk := true, flangeErr := default, baseErr := default }, on .run, by decide +kernel⟩,
    ⟨5, 0, { on .run with fgu := { firstEntry := some 0 } }, by decide +kernel⟩,
    ⟨5, { on .run with fgu := { openAt := some 0 } }, by decide +kernel⟩,
    ⟨5, 1, { num := 1, members := [], leftReq := 0, leftRed := 0, state := .pending }, { on .run with fgu := { waiting := some 1, epochs := [{ num := 1, members := [], leftReq := 0, leftRed := 0, state := .pending }] } }, by decide +kernel⟩,
    ⟨5, 15, 1, 0, 0, cores .admitted [job1 {}], by decide +kernel⟩,
    ⟨5, 15, {}, { job := 1, index := 0, pass := 0, start := 0 }, busy .admitted {}, by decide +kernel⟩,
    ⟨10 ^ 9, 15, { job := 1, index := 0, pass := 0, start := 0 }, busy .admitted {}, by decide +kernel⟩,
    ⟨5, 15, cores .bist [], shaped_of (by decide +kernel), by decide +kernel⟩,
    ⟨5, 15, cores .admitted [], shaped_of (by decide +kernel), by decide +kernel⟩,
    ⟨5, 0, none, true, true, { on .run with vane := { selftest := some (0, none) } }, by decide +kernel⟩,
    ⟨5, 31, { cls := 31, mode := 0 }, withImg .run { classes := [{ cls := 31, mode := 0 }] }, by decide +kernel⟩,
    ⟨1000000, 31, 0, { cls := 31, mode := 0, deadlineUs := 1000 }, { withImg .run { classes := [{ cls := 31, mode := 0, deadlineUs := 1000 }] } with aud := { orig := List.replicate 32 (some 0) } }, by decide +kernel⟩,
    ⟨5, 1, true, [], stks .run {}, shaped_of (by decide +kernel), by decide +kernel⟩,
    ⟨5, 0, bcmd, [], { withImg .run { rules := [{ ident := 559, kind := 2, perm := 3, base := 0x1200000000, pages := 1 }] } with beu := { stks := List.replicate 2 { proc := List.replicate 16 true, recompute := List.replicate 16 true, vp := { queue := [bcmd] }, selfRefresh := false } } }, shaped_of (by decide +kernel), by decide +kernel⟩,
    ⟨5, 0, 8, 1, { cmd := bcmd, bg := false, order := 0, start := 0, hot := false }, stks .run { running := [{ cmd := bcmd, bg := false, order := 0, start := 0, hot := false }] }, shaped_of (by decide +kernel), by decide +kernel⟩,
    ⟨5, 1, true, {}, stks .run { bg := { fence := some {} } }, by decide +kernel⟩,
    ⟨5, 1, 0x10F, stks .start {}, shaped_of (by decide +kernel), by decide +kernel⟩,
    ⟨5, 1, stks .start { swPhase := 1 }, shaped_of (by decide +kernel), by decide +kernel⟩,
    ⟨5, 1, stks .start { swPhase := 2, proc := List.replicate 16 true }, shaped_of (by decide +kernel), by decide +kernel⟩,
    ⟨5, 1, stks .start { swPhase := 3 }, shaped_of (by decide +kernel), by decide +kernel⟩,
    ⟨5, 1, 3, 0, stks .run { swept := true, selfRefresh := false }, by decide +kernel⟩,
    ⟨5, 1, 105, stks .run {}, shaped_of (by decide +kernel), by decide +kernel⟩,
    ⟨10 * ms, 1, 0, stks .run { coolAt := some 0 }, shaped_of (by decide +kernel), by decide +kernel⟩,
    ⟨5, 1, stks .run { swept := true }, by decide +kernel⟩,
    ⟨1, 3, 5, { on .run with hq := { opened := true, queues := List.replicate 64 { en := true, sqLog := 4 } } }, _, rfl, by decide +kernel⟩,
    ⟨5, 63, subDesc, { ch := 0, queue := 63 }, _, sub, _, rfl, rfl, by decide +kernel⟩,
    ⟨5, 63, res1 .read, results [res1 .read], _, rfl, by decide +kernel⟩,
    ⟨5, 63, res1 .locked, results [res1 .locked], _, rfl, by decide +kernel⟩,
    ⟨5, 63, 1, { res1 .committed with deadline := 5 }, results [{ res1 .committed with deadline := 5 }], _, rfl, by decide +kernel⟩,
    ⟨5 + ms, 63, 1, { res1 .committed with deadline := 5 }, results [{ res1 .committed with deadline := 5 }], _, rfl, by decide +kernel⟩,
    ⟨5, 63, 4294967295, results [], _, rfl, shaped_of (by decide +kernel), by decide +kernel⟩,
    ⟨5, quiet, on .run, _, rfl, by decide +kernel⟩,
    ⟨5, 15, true, on .run, _, rfl, by decide +kernel⟩,
    ⟨5, 16, on .run, _, rfl, by decide +kernel⟩,
    ⟨10 ^ 9, 15, { slb { inputs := List.replicate 16 { a := true, differ := some 0 } } with nvm := { params := { a := { inputs := List.replicate 16 { kind := 1, tpA := 3, tpB := 4 } }, b := {} } } }, _, rfl, by decide +kernel⟩,
    ⟨5, 3, on .run, _, rfl, by decide +kernel⟩,
    ⟨5, 7, slb { stoCmd := List.replicate 8 true }, _, rfl, by decide +kernel⟩,
    ⟨1000 * ms, 3, 4, slb { groups := List.replicate 4 { state := .time, ss1At := some 0 } }, _, rfl, by decide +kernel⟩,
    ⟨50 * ms, 3, slb { groups := List.replicate 4 { state := .ramp, still := some 0 } }, _, rfl, by decide +kernel⟩,
    ⟨50 * ms, 3, slb { brakes := List.replicate 4 { phase := .wait } }, _, rfl, by decide +kernel⟩,
    ⟨100 * ms, 3, slb { brakes := List.replicate 4 { phase := .pullin } }, _, rfl, by decide +kernel⟩,
    ⟨100 * ms, slb { chainAt := some 0 }, _, rfl, by decide +kernel⟩,
    ⟨5, 0, { on .run with nvm := { params := { a := { groups := List.replicate 4 { used := 1, axes := 1 } }, b := {} } } }, _, rfl, by decide +kernel⟩,
    ⟨5, slb { degRun := true, degElapsed := 1819 * sec }, _, rfl, by decide +kernel⟩,
    ⟨5, { beat := 0, state := .run, stop := 1, src := 3, armed := true }, [], slb { link := [{ beat := 0, state := .run, stop := 1, src := 3, armed := true }], beat := some 255 }, _, rfl, by decide +kernel⟩,
    ⟨5, false, on .run, _, rfl, by decide +kernel⟩,
    ⟨10 * ms, slb { disagree := some 0 }, _, rfl, by decide +kernel⟩,
    ⟨5, on .run, _, rfl, by decide +kernel⟩,
    ⟨5, on .run, _, rfl, by decide +kernel⟩,
    ⟨5, on .run, _, rfl, by decide +kernel⟩⟩

theorem wit_MessageRingHostAndDebugCommandsComplete :
    (∃ (t : Nat) (m : SafeRx) (x : RxMsg) (d : Nat) (s u : State), s.at t = u ∧ u.rxClass m = .first x d ∧ rxType m = 0x8) ∧
    (∃ (t : Nat) (m : SafeRx) (x : RxMsg) (d : Nat) (s u : State), s.at t = u ∧ u.rxClass m = .first x d ∧ rxType m = 0x9) ∧
    (∃ (t : Nat) (m : SafeRx) (x : RxMsg) (d : Nat) (s u : State), s.at t = u ∧ u.rxClass m = .first x d ∧ rxType m = 0xA) ∧
    (∃ (t : Nat) (m : SafeRx) (x : RxMsg) (d : Nat) (s u : State), s.at t = u ∧ u.rxClass m = .first x d ∧ rxType m = 0xB) ∧
    (∃ (t : Nat) (m : SafeRx) (x : RxMsg) (s u : State), s.at t = u ∧ u.rxClass m = .announce x ∧ rxType m = 0xE) ∧
    (∃ (t conn seq k : Nat) (r : ConnRec) (p : Pair) (s u : State), s.at t = u ∧ u.smlOn = true ∧ u.img.conn conn = some (k, r) ∧ ((u.conn k).pairs.find? fun p => p.seq == seq && !p.decided && u.past p.at_ (u.img.messages.skewUs * 1000)) = some p) ∧
    (∃ (t conn k : Nat) (r : ConnRec) (s u : State), s.at t = u ∧ u.smlOn = true ∧ u.img.conn conn = some (k, r) ∧ u.dogDue k = true) ∧
    (∃ (t conn k : Nat) (r : ConnRec) (s u : State), s.at t = u ∧ u.smlOn = true ∧ u.img.conn conn = some (k, r) ∧ r.dir = 0 ∧ (u.conn k).state = .opening ∧ u.past (u.conn k).dogAt (r.watchdog * ms) = true) ∧
    (∃ (t : Nat) (s u : State), s.at t = u ∧ u.smlOn = true ∧ u.singleExpired = true) ∧
    (∃ (t conn k : Nat) (r : ConnRec) (s u : State), s.at t = u ∧ u.smlOn = true ∧ u.img.conn conn = some (k, r) ∧ r.dir = 1 ∧ u.past (u.conn k).statusAt (r.period * ms) = true) ∧
    (∃ (t port : Nat) (s u : State), s.at t = u ∧ u.smlOn = true ∧ port < 2 ∧ getN u.sml.link port = true ∧ (getN u.sml.annAt port).all (u.past · (100 * ms)) = true) ∧
    (∃ (t port : Nat) (up : Bool) (s u : State), s.at t = u ∧ u.regsUp = true ∧ port < 4) ∧
    (∃ (t n : Nat) (r : CvuReq) (s u : State), s.at t = u ∧ u.regsUp = true ∧ n < 32 ∧ (getN u.cvu.chans n).service = true ∧ r.disagree = false) ∧
    (∃ (t : Nat) (m : SafeRx) (s u : State), s.at t = u ∧ (u.rxClass m).refused = true) ∧
    (∃ (t : Nat) (s u : State), s.at t = u ∧ u.smlOn = true ∧ ((u.rxSlots 4).all fun k => u.pastOpt (u.conn k).aliveSince (100 * ms)) = true ∧ ((u.rxSlots 0).all fun k => (u.conn k).state == .open_) = true) ∧
    (∃ (t : Nat) (s u : State), s.at t = u ∧ u.xwl.phase = .listen ∧ u.xwlOn = true ∧ u.past u.xwl.phaseAt (200000 + u.ring.nodeId * 50000) = true) ∧
    (∃ (t : Nat) (m : XwlRx) (s u : State), s.at t = u ∧ u.xwl.phase = .listen ∧ u.clk.xwlOk = true ∧ m.lane < 2 ∧ xOk m = true ∧ xKind m = 3 ∧ xSrc m ≠ u.ring.nodeId ∧ bit u.ring.members (xSrc m) = true ∧ ((u.xwlLane m.lane).xwlFirst m).1 = true) ∧
    (∃ (t : Nat) (s u : State), s.at t = u ∧ u.xwl.phase = .backoff ∧ u.past u.xwl.phaseAt (ms + u.ring.nodeId * 100000) = true) ∧
    (∃ (t : Nat) (s u : State), s.at t = u ∧ u.clk.xwlOk = true) ∧
    (∃ (t : Nat) (m : XwlRx) (s u : State), s.at t = u ∧ u.xwl.phase ≠ .off ∧ u.clk.xwlOk = true ∧ m.lane < 2 ∧ xOk m = true ∧ xKind m = 1 ∧ xSrc m ≠ u.ring.nodeId ∧ bit u.ring.members (xSrc m) = true ∧ (((u.xwlLane m.lane).xwlForward m).xwlFirst m).1 = true) ∧
    (∃ (t : Nat) (s u : State), s.at t = u ∧ u.xwlOn = true ∧ u.xwl.phase = .member ∧ u.xwl.slotDone = false ∧ u.past u.xwl.cycleAt ((2 + 2 * u.ring.nodeId) * 1000) = true) ∧
    (∃ (t : Nat) (m : XwlRx) (s u : State), s.at t = u ∧ u.xwl.phase ≠ .off ∧ u.clk.xwlOk = true ∧ m.lane < 2 ∧ xOk m = true ∧ xKind m = 2 ∧ xSrc m ≠ u.ring.nodeId ∧ bit u.ring.members (xSrc m) = true ∧ (((u.xwlLane m.lane).xwlForward m).xwlFirst m).1 = true) ∧
    (∃ (t node : Nat) (s u : State), s.at t = u ∧ node < 8 ∧ (u.node node).roster = true ∧ u.pastOpt (u.node node).heard (u.ring.nodeTimeout * ms) = true) ∧
    (∃ (t n : Nat) (s u : State), s.at t = u ∧ u.xwl.phase = .member ∧ u.xwl.master = false ∧ 4 ≤ u.xwl.noSync ∧ ((List.range 8).find? fun n => u.inRoster n && n != u.xwl.masterId) = some n) ∧
    (∃ (t a b : Nat) (s u : State), s.at t = u ∧ u.clk.xwlOk = true ∧ u.xwl.phase = .integrate) ∧
    (∃ (t : Nat) (m : XwlRx) (s u : State), s.at t = u ∧ u.xwl.phase ≠ .off ∧ u.clk.xwlOk = true ∧ m.lane < 2 ∧ xOk m = true ∧ xKind m = 4 ∧ xSrc m ≠ u.ring.nodeId ∧ bit u.ring.members (xSrc m) = true ∧ (((u.xwlLane m.lane).xwlForward m).xwlFirst m).1 = true ∧ 72 ≤ m.data.length ∧ (let w := (((u.xwlLane m.lane).xwlForward m).xwlFirst m).2; (let pay := (m.data.drop 68).dropLast.dropLast.dropLast.dropLast; beAt m.data 64 1 = w.ring.nodeId ∧ crc32c pay = beAt m.data (m.data.length - 4) 4))) ∧
    (∃ (t job : Nat) (h : Nat × Nat) (s u : State), s.at t = u ∧ u.xwl.handed.find? (·.1 == job) = some h ∧ u.past h.2 (u.ring.returnUs * 1000) = true ∧ (u.vrd.results.find? fun r => r.auditJob == some job) = none) ∧
    (∃ (t lane : Nat) (s u : State), s.at t = u ∧ lane < 2 ∧ u.xwl.phase ≠ .off ∧ getN u.xwl.lanes lane = true) ∧
    (∃ (t unit : Nat) (s u : State), s.at t = u ∧ unit < 8 ∧ u.xwlOn = true ∧ u.xwl.phase = .member ∧ bit u.ring.units unit = true ∧ bit u.xwl.unitsDone unit = false ∧ u.past u.xwl.cycleAt ((18 + 10 * unit) * 1000) = true) ∧
    (∃ (t q : Nat) (s u : State), s.at t = u ∧ u.regsUp = true ∧ q < 64) ∧
    (∃ (t q : Nat) (s u : State), s.at t = u ∧ u.regsUp = true ∧ q < 64) ∧
    (∃ (t q : Nat) (s u : State), s.at t = u ∧ u.regsUp = true ∧ q < 64 ∧ (u.hqueue q).resetting = true ∧ u.inFlight q = []) ∧
    (∃ (t q : Nat) (c : ChanRec) (s u : State), s.at t = u ∧ u.regsUp = true ∧ q < 64 ∧ u.wake.boundChan q = some c ∧ u.wake.allLive c.streams = true) ∧
    (∃ (t q v : Nat) (s u : State), s.at t = u ∧ u.regsUp = true ∧ q < 64) ∧
    (∃ (t q v : Nat) (s u : State), s.at t = u ∧ u.regsUp = true ∧ q < 64 ∧ 1 ≤ bits v 0 7 ∧ bits v 0 7 ≤ 64 ∧ bits v 16 10 ≤ 1000 ∧ bit v 31 = true) ∧
    (∃ (t q : Nat) (s u : State), s.at t = u ∧ u.regsUp = true ∧ q < 64) ∧
    (∃ (t n v : Nat) (s u : State), s.at t = u ∧ u.regsUp = true ∧ n < 16 ∧ v % 4096 < 2 ^ (getN u.hq.rings n).sizeLog) ∧
    (∃ (t v : Nat) (c : ChanRec) (s u : State), s.at t = u ∧ u.tsuOn = true ∧ u.img.chan (bits v 0 9) = some c) ∧
    (∃ (t : Nat) (s u : State), s.at t = u ∧ u.regsUp = true) ∧
    (∃ (t c : Nat) (r : Bar2Req) (s u : State), s.at t = u ∧ u.regsUp = true ∧ u.sys.state ≠ .doldrums ∧ (let n := match r.write with | some b => b.length | none => r.length; r.offset + n ≤ 0x40000000 ∧ u.bar2Ident r = some c ∧ bar2Range r.offset n = true ∧ u.check c r.write.isSome (bar2Addr r.offset) n = (true, u))) ∧
    (∃ (t c : Nat) (r : ChanRec) (s u : State), s.at t = u ∧ u.img.chan c = some r ∧ u.tsuOn = true ∧ r.aliveWindow ≠ 0 ∧ u.past (u.tchan c).windowAt (r.aliveWindow * ms) = true ∧ r.aliveMin ≤ (u.tchan c).alive ∧ r.queue ≠ 0xFF) ∧
    (∃ (t c : Nat) (r : ChanRec) (s u : State), s.at t = u ∧ u.img.chan c = some r ∧ u.tsuOn = true ∧ r.deadlineUs ≠ 0 ∧ (u.tchan c).late = false ∧ u.pastOpt (u.tchan c).timerAt (r.deadlineUs * 1000) = true) ∧
    (∃ (t c : Nat) (r : ChanRec) (s u : State), s.at t = u ∧ u.img.chan c = some r ∧ u.tsuOn = true ∧ r.budgetUs ≠ 0 ∧ (u.tchan c).spent = false ∧ r.budgetUs * 1000 < u.budgetUsed c) ∧
    (∃ (t c : Nat) (r : ChanRec) (s u : State), s.at t = u ∧ u.img.chan c = some r ∧ u.tsuOn = true ∧ r.budgetUs ≠ 0 ∧ u.past (u.tchan c).periodAt (r.budgetPeriod * ms) = true) ∧
    (∃ (t : Nat) (p : PState) (s u : State), s.at t = u ∧ u.psmOn = true ∧ u.psm.waking = none ∧ u.psm.deepest? = some p ∧ u.plannedDue p = true) ∧
    (∃ (t i : Nat) (p : Bool) (s u : State), s.at t = u ∧ u.psmOn = true ∧ u.psm.waking = some (i, p)) ∧
    (∃ (t i : Nat) (p : Bool) (s u : State), s.at t = u ∧ u.psmOn = true ∧ u.psm.waking = some (i, p) ∧ i + u.psm.state.exit + 50000 < u.now) ∧
    (∃ (t i : Nat) (p : PState) (s u : State), s.at t = u ∧ u.psmOn = true ∧ u.psm.entering = some (p, i) ∧ u.past i p.entry = true) ∧
    (∃ (t n : Nat) (s u : State), s.at t = u ∧ u.psmOn = true ∧ n < 16 ∧ u.psm.state = .breeze ∧ u.psm.waking = none ∧ (u.acore n).run = none ∧ u.past (u.acore n).idleAt 2000 = true) ∧
    (∃ (t a : Nat) (s u : State), s.at t = u ∧ u.psmOn = true ∧ 2 ≤ a ∧ a < 5 ∧ (getN u.psm.bg a).near u.now a = true) ∧
    (∃ (t a : Nat) (s u : State), s.at t = u ∧ u.psmOn = true ∧ a < 5 ∧ a ≠ 1 ∧ (getN u.psm.bg a).due u.now a = true) ∧
    (∃ (t n : Nat) (s u : State), s.at t = u ∧ u.sup.on = true ∧ n < 8) ∧
    (∃ (t : Nat) (s u : State), s.at t = u ∧ u.regsUp = true) ∧
    (∃ (t : Nat) (s u : State), s.at t = u ∧ u.regsUp = true) ∧
    (∃ (t n : Nat) (v : Int) (r : MonRec) (s u : State), s.at t = u ∧ (u.img.monitors.slots.find? (·.slot == n)) = some r ∧ u.regsUp = true ∧ r.level = true ∧ n < 64 ∧ r.source ≠ 0x24 ∧ r.vin = false ∧ u.adcBad r = false) ∧
    (∃ (t n : Nat) (b : Bank) (s u : State), s.at t = u ∧ u.bankUp b = true) ∧
    (∃ (t n : Nat) (s u : State), s.at t = u ∧ u.bankUp .sp = true) ∧
    (∃ (t seq : Nat) (b : Bank) (s u : State), s.at t = u ∧ u.bankUp b = true) ∧
    (∃ (t num : Nat) (b : Bank) (s u : State), s.at t = u ∧ u.bankUp b = true) ∧
    (∃ (t : Nat) (s u : State), s.at t = u ∧ u.regsUp = true ∧ u.log.second < u.dev / sec) ∧
    (∃ (t : Nat) (s u : State), s.at t = u ∧ u.sup.on = true) ∧
    (∃ (t p q : Nat) (s u : State), s.at t = u ∧ u.sup.on = true) ∧
    (∃ (t p : Nat) (s u : State), s.at t = u ∧ u.sup.on = true ∧ u.dbg.enabled = true ∧ u.torque = false) ∧
    (∃ (t d : Nat) (s u : State), s.at t = u ∧ u.sup.on = true) ∧
    (∃ (t : Nat) (s u : State), s.at t = u ∧ u.sup.on = true) ∧
    (∃ (t : Nat) (r : UnlockReq) (s u : State), s.at t = u ∧ u.sup.on = true) ∧
    (∃ (t : Nat) (s u : State), s.at t = u ∧ u.sup.on = true) ∧
    (∃ (t m : Nat) (s u : State), s.at t = u ∧ u.sup.on = true ∧ u.dbg.enabled = true ∧ m % 2 ^ 16 ≠ 0) ∧
    (∃ (t m : Nat) (s u : State), s.at t = u ∧ u.sup.on = true ∧ u.dbg.enabled = true) ∧
    (∃ (t n : Nat) (s u : State), s.at t = u ∧ u.sup.on = true ∧ u.dbg.enabled = true ∧ n < 16 ∧ getN u.dbg.halted n = true) ∧
    (∃ (t n : Nat) (m : BpMatch) (s u : State), s.at t = u ∧ u.sup.on = true ∧ u.dbg.enabled = true ∧ n < 4) ∧
    (∃ (t n : Nat) (s u : State), s.at t = u ∧ u.sup.on = true ∧ u.dbg.enabled = true ∧ n < 16) ∧
    (∃ (t : Nat) (r : DbgMemReq) (s u : State), s.at t = u ∧ u.sup.on = true ∧ u.dbg.enabled = true ∧ (r.bytes = 4 ∨ r.bytes = 8) ∧ r.addr % r.bytes = 0 ∧ r.addr < 2 ^ 40 ∧ (u.tapIr 0x14).check idDebug r.write.isSome r.addr r.bytes = (true, u.tapIr 0x14)) ∧
    (∃ (t : Nat) (s u : State), s.at t = u ∧ u.sup.on = true ∧ u.dbg.enabled = true ∧ u.dbg.method = 2 ∧ u.dbg.scopeSp = true) ∧
    (∃ (t a v : Nat) (w : Writer) (s u : State), s.at t = u ∧ u.regsUp = true) :=
  ⟨⟨5, msg 8 4 (zeros 8), got 8, 1, net .open_, _, rfl, by decide +kernel⟩,
    ⟨5, msg 9 3 (zeros 4), got 4, 0, net .open_, _, rfl, by decide +kernel⟩,
    ⟨5, msg 10 3 (zeros 4), got 4, 0, net .open_, _, rfl, by decide +kernel⟩,
    ⟨5, msg 11 3 [], got 0, 0, net .open_, _, rfl, by decide +kernel⟩,
    ⟨5, msg 14 2 (zeros 4), got 4, net .open_, _, rfl, by decide +kernel⟩,
    ⟨100000, 5, 2, 0, rx1, { seq := 2, port := 1, at_ := 0, data := zeros 20 }, { net .open_ with sml := { link := [true, true], conns := List.replicate 32 { state := .open_, pairs := [{ seq := 2, port := 1, at_ := 0, data := zeros 20 }], ports := [true, true] } } }, _, rfl, by decide +kernel⟩,
    ⟨2 * ms, 5, 0, rx1, net .open_, _, rfl, by decide +kernel⟩,
    ⟨2 * ms, 5, 0, rx1, net .opening, _, rfl, by decide +kernel⟩,
    ⟨1800 * sec, { on .run with sml := { singleAt := some 0 } }, _, rfl, by decide +kernel⟩,
    ⟨ms, 5, 0, { conn := 5, dir := 1, flags := 31, mac := 7, vcid := 9, period := 1 }, { withImg .run { messages := { conns := [{ conn := 5, dir := 1, flags := 31, mac := 7, vcid := 9, period := 1 }] } } with sml := { link := [true, true] } }, _, rfl, by decide +kernel⟩,
    ⟨5, 1, { withImg .run { messages := { conns := [{ conn := 5, dir := 1, flags := 31, mac := 7, vcid := 9, period := 1 }] } } with sml := { link := [true, true] } }, _, rfl, by decide +kernel⟩,
    ⟨5, 1, false, net .open_, _, rfl, by decide +kernel⟩,
    ⟨5, 31, { input := [1], expected := some 0, disagree := false }, { on .run with cvu := { chans := List.replicate 32 { service := true, alive := 2, primed := true } } }, _, rfl, by decide +kernel⟩,
    ⟨5, msg 8 7 (zeros 8), net .open_, _, rfl, by decide +kernel⟩,
    ⟨100 * ms, { net .open_ with sml := { link := [true, true], conns := List.replicate 32 { state := .open_, aliveSince := some 0 } } }, _, rfl, by decide +kernel⟩,
    ⟨250000, ring { phase := .listen }, _, rfl, by decide +kernel⟩,
    ⟨5, xmsg 3 [], ring { phase := .listen }, _, rfl, by decide +kernel⟩,
    ⟨ms + 100000, ring { phase := .backoff }, _, rfl, by decide +kernel⟩,
    ⟨100000, ring { phase := .claim }, _, rfl, by decide +kernel⟩,
    ⟨5, xmsg 1 [], ring { phase := .member }, _, rfl, by decide +kernel⟩,
    ⟨4000, ring { phase := .member }, _, rfl, by decide +kernel⟩,
    ⟨5, xmsg 2 [], ring { phase := .member }, _, rfl, by decide +kernel⟩,
    ⟨10 * ms, 7, ring { phase := .member, nodes := List.replicate 8 { roster := true, heard := some 0 } }, _, rfl, by decide +kernel⟩,
    ⟨5, 1, ring { phase := .member, noSync := 4, nodes := List.replicate 8 { roster := true } }, _, rfl, by decide +kernel⟩,
    ⟨5, 3, 4, ring { phase := .integrate }, _, rfl, by decide +kernel⟩,
    ⟨5, xmsg 4 [1, 0, 0, 9, 0, 0, 0, 0], ring { phase := .member }, _, rfl, by decide +kernel, by decide +kernel, by decide +kernel, by decide +kernel, by decide +kernel, by decide +kernel, by decide +kernel, by decide +kernel, by decide +kernel, by decide +kernel, by decide +kernel⟩,
    ⟨200000, 4, (4, 0), ring { handed := [(4, 0)] }, _, rfl, by decide +kernel⟩,
    ⟨5, 1, ring { phase := .member }, _, rfl, by decide +kernel⟩,
    ⟨28000, 1, ring { phase := .member }, _, rfl, by decide +kernel⟩,
    ⟨1, 3, sub, _, rfl, by decide +kernel⟩,
    ⟨1, 3, sub, _, rfl, by decide +kernel⟩,
    ⟨1, 3, { on .run with hq := { opened := true, queues := List.replicate 64 { resetting := true, sqHead := 3, sqTail := 4 } } }, _, rfl, by decide +kernel⟩,
    ⟨1, 3, { ch := 0, queue := 3, streams := 0 }, withImg .run { channels := [{ ch := 0, queue := 3, streams := 0 }] }, _, rfl, by decide +kernel⟩,
    ⟨1, 3, 5, { on .run with hq := { opened := true, queues := List.replicate 64 { en := true, cqLog := 4, cqTail := 7 } } }, _, rfl, by decide +kernel⟩,
    ⟨1, 3, 64 + 1000 * 2 ^ 16 + 2 ^ 31, on .run, _, rfl, by decide +kernel⟩,
    ⟨1, 3, on .run, _, rfl, by decide +kernel⟩,
    ⟨1, 15, 9, { on .run with hq := { rings := List.replicate 16 { sizeLog := 4 } } }, _, rfl, by decide +kernel⟩,
    ⟨1, 0x20000, { ch := 0, queue := 3, aliveWindow := 10, aliveMax := 3 }, { withImg .run { channels := [{ ch := 0, queue := 3, aliveWindow := 10, aliveMax := 3 }] } with hq := { opened := true }, tsu := { chans := List.replicate 512 { alive := 3 } } }, _, rfl, by decide +kernel⟩,
    ⟨1, sub, _, rfl, by decide +kernel⟩,
    ⟨1, 0, { offset := 0, reqId := 5, pasid := none, write := some [1, 2], length := 0 }, { withImg .run { channels := [{ ch := 0, queue := 3, reqId := 5 }], rules := [{ ident := 0, kind := 1, perm := 3, base := 0x1400000000, pages := 1 }] } with clk := { pcieOk := true } }, _, rfl, by decide +kernel, by decide +kernel, by decide +kernel, by decide +kernel, by decide +kernel, by decide +kernel⟩,
    ⟨10 * ms, 0, { ch := 0, queue := 3, aliveWindow := 10, aliveMin := 2 }, { withImg .run { channels := [{ ch := 0, queue := 3, aliveWindow := 10, aliveMin := 2 }] } with hq := { opened := true }, tsu := { chans := List.replicate 512 { alive := 2 } } }, _, rfl, by decide +kernel⟩,
    ⟨5000, 0, { ch := 0, queue := 3, deadlineUs := 5 }, { withImg .run { channels := [{ ch := 0, queue := 3, deadlineUs := 5 }] } with hq := { opened := true }, tsu := { chans := List.replicate 512 { timerAt := some 0 } } }, _, rfl, by decide +kernel⟩,
    ⟨6000, 0, { ch := 0, queue := 3, budgetUs := 5 }, { withImg .run { channels := [{ ch := 0, queue := 3, budgetUs := 5 }] } with hq := { opened := true }, tsu := { chans := List.replicate 512 { timerAt := some 0 } } }, _, rfl, by decide +kernel⟩,
    ⟨10 * ms, 0, { ch := 0, queue := 3, budgetUs := 5, budgetPeriod := 10 }, { withImg .run { channels := [{ ch := 0, queue := 3, budgetUs := 5, budgetPeriod := 10 }] } with hq := { opened := true }, tsu := { chans := List.replicate 512 { used := 7, spent := true } } }, _, rfl, by decide +kernel⟩,
    ⟨15 * ms, .lull, { on .run with psm := { entering := some (.lull, 0), bg := List.replicate 5 { urgent := true } } }, _, rfl, by decide +kernel⟩,
    ⟨5, 1, true, { on .run with psm := { state := .lull, waking := some (1, true) } }, _, rfl, by decide +kernel⟩,
    ⟨300001, 0, true, { on .run with psm := { state := .lull, waking := some (0, true) } }, _, rfl, by decide +kernel⟩,
    ⟨100000, 0, .lull, { on .run with psm := { entering := some (.lull, 0) } }, _, rfl, by decide +kernel⟩,
    ⟨2000, 15, { cores .admitted [] with psm := { state := .breeze } }, _, rfl, by decide +kernel⟩,
    ⟨10 * sec, 2, on .run, _, rfl, by decide +kernel⟩,
    ⟨10 * sec, 2, on .run, _, rfl, by decide +kernel⟩,
    ⟨5, 7, on .run, _, rfl, by decide +kernel⟩,
    ⟨1, on .run, _, rfl, by decide +kernel⟩,
    ⟨1, on .run, _, rfl, by decide +kernel⟩,
    ⟨1, 3, 24000, { slot := 3, source := 0x21, width := 1000 }, { withImg .run { monitors := { slots := [{ slot := 3, source := 0x21, width := 1000 }] } } with mon := {} }, _, rfl, by decide +kernel⟩,
    ⟨1, 3, .host, on .run, _, rfl, by decide +kernel⟩,
    ⟨1, 3, on .run, _, rfl, by decide +kernel⟩,
    ⟨1, 2, .host, on .run, _, rfl, by decide +kernel⟩,
    ⟨1, 2, .sp, on .run, _, rfl, by decide +kernel⟩,
    ⟨sec, on .run, _, rfl, by decide +kernel⟩,
    ⟨1, on .run, _, rfl, by decide +kernel⟩,
    ⟨1, 5, 6, on .run, _, rfl, by decide +kernel⟩,
    ⟨1, 5, { on .commission with dbg := { enabled := true } }, _, rfl, by decide +kernel⟩,
    ⟨1, 6, on .run, _, rfl, by decide +kernel⟩,
    ⟨1, on .run, _, rfl, by decide +kernel⟩,
    ⟨1, .password [65], on .run, _, rfl, by decide +kernel⟩,
    ⟨1, on .run, _, rfl, by decide +kernel⟩,
    ⟨1, 5, { on .run with dbg := { enabled := true, halted := List.replicate 16 true } }, _, rfl, by decide +kernel⟩,
    ⟨1, 5, { on .run with dbg := { enabled := true, halted := List.replicate 16 true } }, _, rfl, by decide +kernel⟩,
    ⟨1, 15, { on .run with dbg := { enabled := true, halted := List.replicate 16 true } }, _, rfl, by decide +kernel⟩,
    ⟨1, 3, ⟨1, 2, 3, true, false, true, true, 4⟩, { on .run with dbg := { enabled := true, halted := List.replicate 16 true } }, _, rfl, by decide +kernel⟩,
    ⟨1, 15, { on .run with dbg := { enabled := true, halted := List.replicate 16 true } }, _, rfl, by decide +kernel⟩,
    ⟨1, { addr := 0x100000004, bytes := 4, write := some 7 }, { withImg .run { rules := [{ ident := 1023, kind := 1, perm := 3, base := 0x100000000, pages := 1 }] } with dbg := { enabled := true } }, _, rfl, by decide +kernel⟩,
    ⟨1, { on .run with dbg := { enabled := true, method := 2, scopeSp := true } }, _, rfl, by decide +kernel⟩,
    ⟨1, 0x200020010, 7, .sp, on .run, _, rfl, by decide +kernel⟩⟩

end Sys2Proof.Tests
end

section
/-! SUPPORT. Register writes: what a written word does to a register of each access type, and which registers a writer reaches (00 R6,
R8, R9; 16 R448). -/

namespace Sys2Proof.Machine

/-! ## Words -/

theorem and_mod_two_eq_min (a b : Nat) : (a &&& b) % 2 = min (a % 2) (b % 2) := by
  rw [show (a &&& b) % 2 = a % 2 &&& b % 2 from Nat.and_mod_two_pow (n := 1)]
  rcases Nat.mod_two_eq_zero_or_one a with h | h <;> rcases Nat.mod_two_eq_zero_or_one b with k | k <;> rw [h, k] <;> rfl

theorem w1c_mod_two (old v : Nat) : w1c old v % 2 = old % 2 - v % 2 := by
  have hle : old &&& v ≤ old := Nat.and_le_left
  have hmod := and_mod_two_eq_min old v
  unfold w1c
  omega

theorem w1c_div_two (old v : Nat) : w1c old v / 2 = w1c (old / 2) (v / 2) := by
  have hle : old &&& v ≤ old := Nat.and_le_left
  have hmod := and_mod_two_eq_min old v
  unfold w1c
  rw [← Nat.and_div_two]
  omega

/-- A written 1 clears its bit of a W1C register and a written 0 keeps it (00 R6). -/
@[simp] theorem bit_w1c (old v k : Nat) : bit (w1c old v) k = (bit old k && !bit v k) := by
  unfold bit
  induction k generalizing old v with
  | zero =>
    simp only [Nat.testBit_zero, w1c_mod_two]
    rcases Nat.mod_two_eq_zero_or_one old with h | h <;> rcases Nat.mod_two_eq_zero_or_one v with k | k <;> simp [h, k]
  | succ k ih => rw [Nat.testBit_succ, w1c_div_two, ih, Nat.testBit_succ, Nat.testBit_succ]

theorem bit_mod_word (x : Nat) {k : Nat} (hk : k < 32) : bit (x % 2 ^ 32) k = bit x k := by
  unfold bit
  rw [Nat.testBit_mod_two_pow, decide_eq_true hk, Bool.true_and]

theorem bits_mod_word (x : Nat) {lo w : Nat} (h : lo + w ≤ 32) : bits (x % 2 ^ 32) lo w = bits x lo w := by
  refine Nat.eq_of_testBit_eq fun i => ?_
  simp only [bits, Nat.testBit_mod_two_pow, Nat.testBit_div_two_pow]
  by_cases hi : i < w
  · have : i + lo < 32 := by omega
    simp [hi, this]
  · simp [hi]

/-- The mask of a 64-byte aligned base drops its six low bits. -/
theorem and_base_mask {n : Nat} (hn : n < 2 ^ 64) : n &&& (2 ^ 64 - 64) = n / 2 ^ 6 * 2 ^ 6 := by
  refine Nat.eq_of_testBit_eq fun i => ?_
  rw [Nat.testBit_and, show 2 ^ 64 - 64 = 2 ^ 64 - (2 ^ 6 - 1 + 1) from rfl, Nat.testBit_two_pow_sub_succ (by decide),
    Nat.testBit_two_pow_sub_one, Nat.testBit_mul_two_pow, Nat.testBit_div_two_pow]
  by_cases hi : i < 64
  · by_cases h6 : 6 ≤ i
    · simp [hi, h6]
    · simp [hi, h6]; omega
  · have : n.testBit i = false := Nat.testBit_lt_two_pow (Nat.lt_of_lt_of_le hn (Nat.pow_le_pow_right (by decide) (by omega)))
    simp only [hi, decide_false, Bool.false_and, Bool.and_false]
    rw [Nat.sub_add_cancel (by omega), this, Bool.and_false]

/-- The low word of a 64-byte aligned base: the high word stays, and the six reserved bits stay 0 (16 R467; 00 R8). -/
theorem putHalf_low {old v : Nat} (ho : old < 2 ^ 64) :
    putHalf false (2 ^ 64 - 64) old v = old / 2 ^ 32 * 2 ^ 32 + v % 2 ^ 32 / 64 * 64 := by
  unfold putHalf
  simp only [Bool.false_eq_true, if_false]
  rw [and_base_mask (by omega)]
  omega

/-! ## The registers of the HQ block -/

theorem putHq_sqBase {q : Nat} (hq : q < 64) (v : Nat) (s : State) :
    s.putHq (q * 0x40) v =
      if (s.hqueue q).en then s else s.onQ q fun h => { h with sqBase := putHalf false (2 ^ 64 - 64) h.sqBase v } := by
  have ho : q * 0x40 < 0x1000 := by omega
  simp [State.putHq, ho]

theorem putHq_sizes {q : Nat} (hq : q < 64) (v : Nat) (s : State) :
    s.putHq (q * 0x40 + 0x10) v =
      if (s.hqueue q).en then s else s.onQ q fun h => { h with sqLog := bits v 0 4, cqLog := bits v 4 4 } := by
  have ho : q * 0x40 + 0x10 < 0x1000 := by omega
  have hdiv : (q * 0x40 + 0x10) / 0x40 = q := by omega
  have hmod : (q * 0x40 + 0x10) % 0x40 = 0x10 := by omega
  simp only [State.putHq, ho, hdiv, hmod, if_true]

theorem putHq_ringSize {n : Nat} (hn : n < 16) (v : Nat) (s : State) :
    s.putHq (0x1000 + n * 0x20 + 8) v =
      s.onRing n fun d =>
        if within 4 12 (bits v 0 4) then { d with sizeLog := bits v 0 4, vector := bits v 8 6, en := bit v 16 } else d := by
  have hlo : ¬ 0x1000 + n * 0x20 + 8 < 0x1000 := by omega
  have hhi : 0x1000 + n * 0x20 + 8 < 0x1200 := by omega
  have hdiv : (0x1000 + n * 0x20 + 8 - 0x1000) / 0x20 = n := by omega
  have hmod : (0x1000 + n * 0x20 + 8) % 0x20 = 8 := by omega
  simp only [State.putHq, hlo, hhi, hdiv, hmod, if_true, if_false]

@[simp] theorem settle_hqueue (q : Nat) (s : State) : (settle s).hqueue q = s.hqueue q := rfl

@[simp] theorem at_hqueue (t q : Nat) (s : State) : (s.at t).hqueue q = s.hqueue q := by
  simp [State.hqueue]

theorem hqueue_onQ_self {q : Nat} {s : State} (h : q < s.hq.queues.length) (f : HQueue → HQueue) :
    (s.onQ q f).hqueue q = f (s.hqueue q) := by
  simp [State.onQ, State.hqueue, h]

theorem hqueue_onQ_ne {q k : Nat} (h : k ≠ q) (f : HQueue → HQueue) (s : State) : (s.onQ q f).hqueue k = s.hqueue k := by
  simp [State.onQ, State.hqueue, h]

@[simp] theorem onQ_rings (q : Nat) (f : HQueue → HQueue) (s : State) : (s.onQ q f).hq.rings = s.hq.rings := rfl

@[simp] theorem onRing_queues (n : Nat) (f : DRing → DRing) (s : State) : (s.onRing n f).hq.queues = s.hq.queues := rfl

theorem getN_rings_onRing_self {n : Nat} {s : State} (h : n < s.hq.rings.length) (f : DRing → DRing) :
    getN (s.onRing n f).hq.rings n = f (getN s.hq.rings n) := by
  simp [State.onRing, h]

/-! ## The registers a writer reaches -/

/-- The host reaches the HQ block through its window of BAR0 (16 R448). -/
theorem putReg_host_window {o : Nat} (ho : o < 0x10000) (v : Nat) (s : State) :
    s.putReg .host (0x10000 + o) v = s.putHq o (v % 2 ^ 32) := by
  have hw : 0x10000 ≤ 0x10000 + o ∧ 0x10000 + o < 0x20000 := by omega
  simp only [State.putReg, State.putBar0, hw, and_self, if_true, Nat.add_sub_cancel_left]

theorem putReg_host_outside {a : Nat} (h : a < 0x10000 ∨ 0x20000 ≤ a) (v : Nat) (s : State) : s.putReg .host a v = s := by
  have hw : ¬ (0x10000 ≤ a ∧ a < 0x20000) := by omega
  simp only [State.putReg, State.putBar0, hw, if_false]

theorem putReg_sp_outside {a : Nat} (h : region a ≠ some .regs) (v : Nat) (s : State) : s.putReg .sp a v = s := by
  simp [State.putReg, regAddr, h]

theorem putReg_sp_psmEvents (v : Nat) (s : State) :
    s.putReg .sp 0x2000F0040 v = s.onPsm fun p => { p with events := w1c p.events (v % 2 ^ 32) } := rfl

theorem putReg_sp_vrdEvents (v : Nat) (s : State) :
    s.putReg .sp 0x20008000C v = s.onVrd fun x => { x with events := w1c x.events (v % 2 ^ 32) } := rfl

/-- The block SLBM, whose registers are read-only, takes no write (00 R6). -/
theorem putReg_sp_slbm {o : Nat} (ho : o < 0x10000) (v : Nat) (s : State) : s.putReg .sp (0x200090000 + o) v = s := by
  have hb : blockOf (0x200090000 + o) = 9 := by unfold blockOf; omega
  simp only [State.putReg, hb, State.putWord, ite_self]

/-! ## REGISTER_WRITE -/

/-- A misaligned access is discarded (00 R9). -/
theorem exec_registerWrite_misaligned {addr : Nat} {wide : Bool} (h : addr % (if wide then 8 else 4) ≠ 0) (t x : Nat) (w : Writer)
    (s : State) : exec (.registerWrite t w wide addr x) s = .next (settle (s.at t)) := by
  rw [exec_registerWrite]; unfold execRegisterWrite finish
  have hd : (!(s.at t).regsUp) = true ∨ addr % (if wide then 8 else 4) ≠ 0 := Or.inr h
  simp only [hd, if_true]

/-- A write to an address that takes none completes without effect, aligned or not. -/
theorem exec_registerWrite_unreached {w : Writer} {addr x : Nat} (h : ∀ u : State, u.putReg w addr x = u) (t : Nat) (s : State) :
    exec (.registerWrite t w false addr x) s = .next (settle (s.at t)) := by
  rw [exec_registerWrite]; unfold execRegisterWrite finish
  simp only [h, Bool.false_eq_true, if_false, ite_self]

/-- An aligned 32-bit write completes with its word written. -/
theorem runs_registerWrite_word {t a x : Nat} {w : Writer} {s : State} {p : State → Prop} (hr : (s.at t).regsUp = true)
    (ha : a % 4 = 0) (h : p (settle ((s.at t).putReg w a x))) : Runs (.registerWrite t w false a x) s p :=
  ⟨_, (runs_registerWrite t a x w s _ rfl hr).1 ha, h⟩

/-- The low word of a queue's submission base: written while the queue is disabled, its reserved bits kept at 0 (16 R455, R467). -/
theorem runs_registerWrite_sqBase {t q x : Nat} {s : State} (hs : s.shaped) (hr : (s.at t).regsUp = true) (hq : q < 64)
    (hx : x < 2 ^ 32) (hb : (s.hqueue q).sqBase < 2 ^ 64) :
    Runs (.registerWrite t .host false (0x10000 + q * 0x40) x) s fun v =>
      (∀ k, k ≠ q → v.hqueue k = s.hqueue k) ∧ v.hq.rings = s.hq.rings ∧
      if (s.hqueue q).en then v.hqueue q = s.hqueue q
      else v.hqueue q = { s.hqueue q with sqBase := (s.hqueue q).sqBase / 2 ^ 32 * 2 ^ 32 + x / 64 * 64 } := by
  have hl : q < (s.at t).hq.queues.length := by rw [at_hq, hs.hq.1]; exact hq
  refine runs_registerWrite_word hr (by omega) ?_
  rw [putReg_host_window (by omega), putHq_sqBase hq, at_hqueue, Nat.mod_eq_of_lt hx]
  cases hen : (s.hqueue q).en with
  | true => simp
  | false =>
    simp only [Bool.false_eq_true, if_false, settle_hqueue, settle_hq, onQ_rings, at_hq, true_and]
    refine ⟨fun k hk => by rw [hqueue_onQ_ne hk, at_hqueue], ?_⟩
    rw [hqueue_onQ_self hl, at_hqueue, putHalf_low hb, Nat.mod_eq_of_lt hx]

/-- A queue's ring sizes: written while the queue is disabled (16 R455). -/
theorem runs_registerWrite_sizes {t q : Nat} {s : State} (hs : s.shaped) (hr : (s.at t).regsUp = true) (hq : q < 64) (x : Nat) :
    Runs (.registerWrite t .host false (0x10000 + q * 0x40 + 0x10) x) s fun v =>
      v.hqueue q = if (s.hqueue q).en then s.hqueue q else { s.hqueue q with sqLog := bits x 0 4, cqLog := bits x 4 4 } := by
  have hl : q < (s.at t).hq.queues.length := by rw [at_hq, hs.hq.1]; exact hq
  refine runs_registerWrite_word hr (by omega) ?_
  rw [Nat.add_assoc, putReg_host_window (by omega), putHq_sizes hq, at_hqueue, bits_mod_word x (by decide),
    bits_mod_word x (by decide)]
  cases hen : (s.hqueue q).en with
  | true => simp
  | false =>
    simp only [Bool.false_eq_true, if_false, settle_hqueue]
    rw [hqueue_onQ_self hl, at_hqueue]

/-- A delivery ring's size register: taken with its vector and enable for a SIZE_LOG2 of 4 to 12 (16 R468; 00 R2). -/
theorem runs_registerWrite_ringSize {t n x : Nat} {s : State} (hs : s.shaped) (hr : (s.at t).regsUp = true) (hn : n < 16)
    (hx : x < 2 ^ 32) :
    Runs (.registerWrite t .host false (0x11000 + n * 0x20 + 8) x) s fun v =>
      v.hq.queues = s.hq.queues ∧
      getN v.hq.rings n =
        if 4 ≤ bits x 0 4 ∧ bits x 0 4 ≤ 12 then
          { getN s.hq.rings n with sizeLog := bits x 0 4, vector := bits x 8 6, en := bit x 16 }
        else getN s.hq.rings n := by
  have hl : n < (s.at t).hq.rings.length := by rw [at_hq, hs.hq.2]; exact hn
  have ha : 0x11000 + n * 0x20 + 8 = 0x10000 + (0x1000 + n * 0x20 + 8) := by omega
  refine runs_registerWrite_word hr (by omega) ?_
  rw [ha, putReg_host_window (by omega), putHq_ringSize hn, Nat.mod_eq_of_lt hx, settle_hq, getN_rings_onRing_self hl]
  simp [within]

/-- PSM_EVENTS: each written 1 clears its bit, and no other block's registers change (00 R6). -/
theorem runs_registerWrite_psmEvents {t k : Nat} {s : State} (hr : (s.at t).regsUp = true) (hk : k < 32) (x : Nat) :
    Runs (.registerWrite t .sp false 0x2000F0040 x) s fun v =>
      bit v.psm.events k = (bit s.psm.events k && !bit x k) ∧ v.mon = s.mon ∧ v.vrd = s.vrd := by
  refine runs_registerWrite_word hr (by decide) ?_
  rw [putReg_sp_psmEvents]
  simp only [settle_psm, settle_mon, settle_vrd, onPsm_psm, onPsm_mon, onPsm_vrd, bit_w1c, bit_mod_word x hk, at_psm_events, at_mon,
    at_vrd, and_self]

/-- VRD_EVENTS: each written 1 clears its bit, and the verdict queues stay (00 R6). -/
theorem runs_registerWrite_vrdEvents {t k : Nat} {s : State} (hr : (s.at t).regsUp = true) (hk : k < 32) (x : Nat) :
    Runs (.registerWrite t .sp false 0x20008000C x) s fun v =>
      bit v.vrd.events k = (bit s.vrd.events k && !bit x k) ∧ v.vrd.queues = s.vrd.queues := by
  refine runs_registerWrite_word hr (by decide) ?_
  rw [putReg_sp_vrdEvents]
  simp only [settle_vrd, onVrd_vrd, bit_w1c, bit_mod_word x hk, at_vrd, and_self]

/-- Settles O57: a writer reaches a word through its own window alone, and what an aligned write does is the lemma of its register. -/
theorem registerWritesActAsStated : Obligations.RegisterWritesActAsStated := by
  unfold Obligations.RegisterWritesActAsStated
  refine ⟨?misaligned, ?hostOutside, ?spOutside, ?sqBase, ?sizes, ?ringSize, ?events, ?readOnly⟩
  case misaligned => exact fun t _ x w _ s h => exec_registerWrite_misaligned h t x w s
  case hostOutside => exact fun t _ x s h => exec_registerWrite_unreached (putReg_host_outside h x) t s
  case spOutside => exact fun t _ x s h => exec_registerWrite_unreached (putReg_sp_outside h x) t s
  case sqBase => exact fun _ _ _ _ hs hr hq hx hb => runs_registerWrite_sqBase hs hr hq hx hb
  case sizes => exact fun _ _ x _ hs hr hq => runs_registerWrite_sizes hs hr hq x
  case ringSize => exact fun _ _ _ _ hs hr hn hx => runs_registerWrite_ringSize hs hr hn hx
  case events => exact fun _ x _ _ hr hk => ⟨runs_registerWrite_psmEvents hr hk x, runs_registerWrite_vrdEvents hr hk x⟩
  case readOnly => exact fun t _ x s ho => exec_registerWrite_unreached (putReg_sp_slbm ho x) t s

end Sys2Proof.Machine
end

section
/-! SUPPORT. The wired outputs, the module without power, power and trips (01 R12, R18, R19, R27, R30; 02 R52, R53). -/

namespace Sys2Proof.Machine

/-! ## The wired outputs -/

/-- Reading past the end of a mapped list gives the image of the value read past the end of the list. -/
theorem getD_map_apply {α β : Type} (f : α → β) (l : List α) (i : Nat) (d : α) : (l.map f).getD i (f d) = f (l.getD i d) := by
  rw [List.getD_eq_getElem?_getD, List.getElem?_map, List.getD_eq_getElem?_getD, Option.getD_map]

/-- A row of switches in series with one line: each is closed while its own switch and the line are. -/
theorem getD_map_and (l : List Bool) (q : Bool) (i : Nat) : (l.map (· && q)).getD i false = (l.getD i false && q) :=
  getD_map_apply (· && q) l i false

/-- The wired outputs obey their two series elements, whatever the state before they settle (01 R12). -/
theorem settle_outputsOk (u : State) : (settle u).outputsOk := by
  constructor
  · intro i h
    rwa [settle_stoPin, getD_map_and, Bool.and_eq_true] at h
  · intro i h
    rwa [settle_brkPin, getD_map_and, Bool.and_eq_true] at h

/-- Every command completes, and its next state is one whose wired outputs have settled. -/
theorem exec_settles (c : Instr) (s : State) : ∃ u, exec c s = .next (settle u) := by
  cases c <;> exact ⟨_, rfl⟩

/-- Settles O4: a command ends with the outputs settled under both elements, and an empty queue leaves them as they are. -/
theorem outputsAreEnergisedOnlyUnderBothElements : Obligations.OutputsAreEnergisedOnlyUnderBothElements := by
  unfold Obligations.OutputsAreEnergisedOnlyUnderBothElements
  intro s s' hs hstep
  unfold step at hstep
  split at hstep
  case h_1 =>
    cases hstep
    exact hs
  case h_2 c r _ =>
    obtain ⟨u, hu⟩ := exec_settles c { s with pending := r }
    rw [hu] at hstep
    cases hstep
    exact settle_outputsOk u

/-! ## Reset -/

/-- Settles O8: each field of the state as delivered, read off `State.reset`. -/
theorem resetIsAnUnpoweredModule : Obligations.ResetIsAnUnpoweredModule := by
  unfold Obligations.ResetIsAnUnpoweredModule
  exact ⟨rfl, rfl, rfl, rfl, rfl, rfl, rfl, rfl, rfl, rfl, rfl, rfl, rfl, rfl, rfl, rfl⟩

/-! ## Trips -/

theorem State.ev_same {p : Part} (hp : p ∉ [Part.log, Part.ret]) (c k b d : Nat) (s : State) : p.Same s (s.ev c k b d) :=
  (State.ev_moves c k b d (Moves.refl _ s) (List.Subset.refl _)).same p hp

@[simp] theorem State.ev_sys (c k b d : Nat) (s : State) : (s.ev c k b d).sys = s.sys :=
  State.ev_same (p := .sys) (by decide) c k b d s

/-- The stop that a trip brings outside START and DOLDRUMS, before the state changes: the arming lapses, a start's hold is broken,
and the SP requests the stop of a trip of its own. -/
def State.stopForTrip (own : Bool) (x : Trip) (s : State) : State :=
  let s := s.onSys fun y => { y with armedAt := none }
  let s := s.onStart fun z => { z with breakBy := if z.breakBy = 0 ∧ s.counter ≠ 0 then x.src else z.breakBy }
  if own then s.request x.sto x.src else if x.sto then s.onSys fun y => { y with cut := true } else s

theorem State.stopForTrip_frame (own : Bool) (x : Trip) (s : State) :
    (s.stopForTrip own x).sys.state = s.sys.state ∧ (s.stopForTrip own x).sys.tripSrc = s.sys.tripSrc ∧
      (s.stopForTrip own x).sys.armedAt = none ∧ (s.stopForTrip own x).ret = s.ret := by
  unfold State.stopForTrip
  dsimp only
  split
  · exact ⟨rfl, rfl, rfl, rfl⟩
  · split <;> exact ⟨rfl, rfl, rfl, rfl⟩

/-- A trip in a state that permits torque stops, names its source and enters HALTED (01 R27). -/
theorem State.takeTrip_permitting (own : Bool) (x : Trip) {s : State} (h : s.sys.state.permits = true) :
    s.takeTrip own x =
      (((s.ev 0x0002 4 noSub x.src).stopForTrip own x).onSys fun y => { y with tripSrc := x.src, degRun := false }).setState
        .halted true := by
  unfold State.takeTrip
  simp only [State.ev_sys]
  split
  case h_1 e | h_2 e | h_3 e => rw [e] at h; exact absurd h (by decide)
  case h_4 => rw [if_pos h]; rfl

/-- A trip in HALTED stops again and leaves the state (01 R30). -/
theorem State.takeTrip_halted (own : Bool) (x : Trip) {s : State} (h : s.sys.state = .halted) :
    s.takeTrip own x = (s.ev 0x0002 4 noSub x.src).stopForTrip own x := by
  unfold State.takeTrip
  simp only [State.ev_sys, h]
  rfl

/-- Settles O16: by the class of the state in which the trip is resolved. -/
theorem tripSourceIsTheFirst : Obligations.TripSourceIsTheFirst := by
  unfold Obligations.TripSourceIsTheFirst
  refine ⟨?permitting, ?halted, ?starting, fun _ _ _ => ⟨rfl, rfl, rfl⟩⟩
  case permitting =>
    intro own x s h
    obtain ⟨-, -, harm, -⟩ := State.stopForTrip_frame own x (s.ev 0x0002 4 noSub x.src)
    rw [State.takeTrip_permitting own x h, setState_sys]
    exact ⟨rfl, rfl, harm⟩
  case halted =>
    intro own x s h
    obtain ⟨hst, hsrc, -, hret⟩ := State.stopForTrip_frame own x (s.ev 0x0002 4 noSub x.src)
    rw [State.takeTrip_halted own x h, hst, hsrc, hret, State.ev_sys]
    exact ⟨h, rfl, rfl⟩
  case starting =>
    intro own x s h
    unfold State.takeTrip
    rcases h with h | h
    · simp only [State.ev_sys, h]
    · simp only [State.ev_sys, h]

/-! ## Power -/

@[simp] theorem settle_counter (s : State) : (settle s).counter = s.counter := rfl

/-- The memory with which a start begins is the one that the die's reset leaves. -/
theorem State.beginStart_mem_eq (w a : Bool) (s : State) : (s.beginStart w a).mem = (s.startReset w a).mem := by
  rw [State.beginStart_eq]
  exact State.countStart_same (p := .mem) (by decide) (s.startReset w a)

/-- A cold start loses memory (04 R91). -/
theorem State.beginStart_cold_mem (a : Bool) (s : State) : (s.beginStart false a).mem = [] := by
  rw [State.beginStart_mem_eq, State.startReset, State.resetDie_mem, if_neg Bool.false_ne_true]

/-- The supplies as the supervisor records them when main power comes (02 R57). -/
def State.energise (vin backup : Nat) (s : State) : State :=
  s.onSup fun u =>
    { u with on := true, onAt := s.now, vin := vin, mainOk := mainOkOf vin, backup := backup, holdup := false, pfOut := false,
             ioaOk := false, iobOk := false, uvSeen := false, thermal := false }

/-- POWER_GOOD on an unpowered module: a cold start on the recorded supplies, and the end of debug logged. -/
theorem exec_powerGood_unpowered (t vin backup : Nat) {s : State} (h : s.sup.on = false) :
    ∃ v, exec (.powerGood t vin backup) s = .next (settle v) ∧
      ∀ p : Part, p ∉ [Part.log, Part.ret] → p.Same (((s.at t).energise vin backup).beginStart false false) v := by
  rw [exec_powerGood]; unfold execPowerGood finish
  simp only [at_sup, h, Bool.false_eq_true, if_false]
  refine ⟨_, rfl, fun p hp => ?_⟩
  split
  · exact State.ev_same hp ..
  · exact Part.Same.refl _ p

/-- POWER_GOOD on an unpowered module enters START cold, with the supplies recorded, the attempt counted and memory empty. -/
theorem runs_powerGood_counted {t vin backup : Nat} {s : State} (h : s.sup.on = false) (hc : (s.at t).counter < 3) :
    Runs (.powerGood t vin backup) s fun v =>
      v.sup.on = true ∧ v.sup.vin = vin ∧ v.sup.backup = backup ∧ v.sys.state = .start ∧ v.start.stage = 0 ∧
      v.start.warm = false ∧ v.counter = (s.at t).counter + 1 ∧ v.mem = [] ∧ v.sys.tqen = false := by
  obtain ⟨v, hv, hsame⟩ := exec_powerGood_unpowered t vin backup h
  have hsup := hsame .sup (by decide)
  have hsys := hsame .sys (by decide)
  have hstart := hsame .start (by decide)
  have hnvm := hsame .nvm (by decide)
  have hmem := hsame .mem (by decide)
  have hcount : v.counter = (s.at t).counter + 1 :=
    (State.counter_of_nvm (congrArg Nvm.counter hnvm)).trans (State.beginStart_counter (s := (s.at t).energise vin backup) hc)
  dsimp only [Part.Same] at hsup hsys hstart hmem
  refine ⟨_, hv, ?_⟩
  simp only [settle_sup, settle_sys, settle_start, settle_mem, settle_counter, hcount, hsup, hsys, hstart, hmem,
    State.beginStart_sup, State.beginStart_state, State.beginStart_stage, State.beginStart_warm, State.beginStart_cold_mem,
    State.beginStart_tqen, and_self, and_true]
  exact ⟨rfl, rfl, rfl⟩

theorem State.startRecord_same {p : Part} (hp : p ∉ [Part.start, Part.nvm, Part.log, Part.ret]) (able : Bool) (c : Nat) (s : State) :
    p.Same s (s.startRecord able c) :=
  (State.startRecord_moves able c (Moves.refl _ s) (List.Subset.refl _)).same p hp

/-- A log entry leaves whether retention held. -/
theorem State.logPut_held (c k b d : Nat) (s : State) : (s.logPut c k b d).ret.held = s.ret.held := rfl

theorem State.flushRepeats_held (s : State) : s.flushRepeats.ret.held = s.ret.held := by
  have put : ∀ (l : List LogRep) (u : State),
      (u.each l fun r s => s.logPut 0x1101 0 r.subject (fld r.code 0 16 + fld r.held 32 32)).ret.held = u.ret.held := by
    intro l
    induction l with
    | nil => exact fun _ => rfl
    | cons r l ih => exact fun u => ih (u.logPut ..)
  exact put _ _

theorem State.ev_held (c k b d : Nat) (s : State) : (s.ev c k b d).ret.held = s.ret.held := by
  have flush : (if s.log.second = s.dev / sec then s else s.flushRepeats).ret.held = s.ret.held := by
    split
    · rfl
    · exact State.flushRepeats_held s
  unfold State.ev
  generalize (if s.log.second = s.dev / sec then s else s.flushRepeats) = u at flush ⊢
  dsimp only
  split <;> exact flush

theorem State.startRecord_held (able : Bool) (c : Nat) (s : State) : (s.startRecord able c).ret.held = s.ret.held := by
  unfold State.startRecord
  dsimp only
  split
  · exact State.ev_held ..
  · rfl

/-- The record of a start that ends leaves the clocks, and whether retention held. -/
theorem State.endRecord_frame (able : Bool) (c : Nat) (s : State) :
    (s.endRecord able c).clk = s.clk ∧ (s.endRecord able c).ret.held = s.ret.held := by
  have record : ∀ n, (s.startRecord able n).clk = s.clk ∧ (s.startRecord able n).ret.held = s.ret.held := fun n =>
    ⟨State.startRecord_same (p := .clk) (by decide) able n s, State.startRecord_held able n s⟩
  unfold State.endRecord
  split
  · exact ⟨rfl, rfl⟩
  · exact ⟨rfl, rfl⟩
  · split
    · exact ⟨rfl, rfl⟩
    · exact record _
  · split
    · exact ⟨rfl, rfl⟩
    · exact record _

/-- With TQEN inactive, every torque and brake pin is de-energised (01 R12). -/
theorem settle_pins_off {u : State} (h : u.sys.tqen = false) (i : Nat) :
    (settle u).slb.stoPin.getD i false = false ∧ (settle u).slb.brkPin.getD i false = false := by
  obtain ⟨sto, brk⟩ := settle_outputsOk u
  constructor
  · exact Bool.eq_false_iff.mpr fun e => Bool.false_ne_true (h.symm.trans (sto i e).2)
  · exact Bool.eq_false_iff.mpr fun e => Bool.false_ne_true (h.symm.trans (brk i e).2)

/-- POWER_FAIL_WARNING warns the SLB, withdraws TQEN and with it every pin, and notes the clean off that retention held. -/
theorem runs_powerFailWarning_off {t : Nat} {s : State} (h : s.sup.on = true) (hp : s.sys.powerFail = false) :
    Runs (.powerFailWarning t) s fun v =>
      v.sup.pfOut = true ∧ v.sys.powerFail = true ∧ v.sys.tqen = false ∧
      (∀ i : Nat, v.slb.stoPin.getD i false = false ∧ v.slb.brkPin.getD i false = false) ∧
      (s.ret.held = true → v.ret.cleanOff = true ∧ v.ret.offTime = (s.at t).dev) := by
  refine runs_finish (exec_powerFailWarning ..) ?_
  rw [← at_sup s t] at h
  rw [← at_sys_powerFail s t] at hp
  rw [← at_ret s t]
  generalize s.at t = u at h hp
  obtain ⟨hclk, hheld⟩ := State.endRecord_frame u.spRuns 0xF0 u
  simp only [h, hp, Bool.not_false, and_self, if_true]
  split
  case isTrue =>
    exact ⟨rfl, rfl, rfl, settle_pins_off rfl, fun _ => ⟨rfl, congrArg Clk.dev hclk⟩⟩
  case isFalse hno => exact ⟨rfl, rfl, rfl, settle_pins_off rfl, fun held => absurd (hheld.trans held) hno⟩

/-- HOLDUP_END after the warning: OFF without supply, and every SLB element and the chain off. -/
theorem runs_holdupEnd_off {t : Nat} {s : State} (h : s.sup.on = true) (hp : s.sys.powerFail = true) :
    Runs (.holdupEnd t) s fun v =>
      v.sys.state = .off ∧ v.sup.on = false ∧ v.sys.tqen = false ∧ v.slb.stoCmd = List.replicate 8 false ∧
      v.slb.brkCmd = List.replicate 4 false ∧ v.slb.chainPin = List.replicate 2 false := by
  refine runs_finish (exec_holdupEnd ..) ?_
  have e : ((s.at t).sup.on && (s.at t).sys.powerFail) = true := by simp [h, hp]
  simp only [State.when, e, if_true]
  exact ⟨rfl, rfl, rfl, rfl, rfl, rfl⟩

/-- Settles O11: one lemma per command of Table 1.5's rows OFF to START and Any to OFF. -/
theorem powerEntersStartAndLeavesToOff : Obligations.PowerEntersStartAndLeavesToOff := by
  unfold Obligations.PowerEntersStartAndLeavesToOff
  exact ⟨fun _ _ _ _ h hc => runs_powerGood_counted h hc, fun _ _ h hp => runs_powerFailWarning_off h hp,
    fun _ _ h hp => runs_holdupEnd_off h hp, runs_backupExhausted⟩

end Sys2Proof.Machine
end

section
/-! SUPPORT. The SLB's cycle (13 R359): what it does to the groups, to the STO outputs and to the permission for torque (01 R13, R14;
13 R370 to R374). -/

namespace Sys2Proof.Machine

/-! ## What a cycle finds -/

/-- Taking the inputs of a cycle leaves the link's reports, the acknowledge, the permission and the groups. -/
theorem Slb.takeIn_frame (p : Safety) (now : Nat) (i : SlbIn) (b : Slb) :
    (b.takeIn p now i).report = b.report ∧ (b.takeIn p now i).beatOk = b.beatOk ∧ (b.takeIn p now i).armed = b.armed ∧
      (b.takeIn p now i).ackEdge = b.ackEdge ∧ (b.takeIn p now i).permit = b.permit ∧ (b.takeIn p now i).groups = b.groups ∧
      (b.takeIn p now i).toSp = b.toSp := by
  unfold Slb.takeIn Slb.filter
  exact ⟨rfl, rfl, rfl, rfl, rfl, rfl, rfl⟩

/-- The trips that a cycle finds once it has taken its inputs. -/
def Slb.cycleTrips (p : Safety) (now : Nat) (i : SlbIn) (b : Slb) : List Trip :=
  ((b.takeIn p now i).findTrips p now i b.outFault).1

/-- A cycle has a cause of STO: an STO trip, an STO request, a state without torque or a power failure. -/
def Slb.cycleSto (p : Safety) (now : Nat) (pf : Bool) (i : SlbIn) (b : Slb) : Bool :=
  (b.cycleTrips p now i).any (·.sto) || (b.takeIn p now i).request == 2 || b.report.idle || pf

/-- A cycle has a cause of SS1: an SS1 trip or an SS1 request. -/
def Slb.cycleSs1 (p : Safety) (now : Nat) (i : SlbIn) (b : Slb) : Bool :=
  (b.cycleTrips p now i).any (!·.sto) || (b.takeIn p now i).request == 1

/-- A cycle finds no trip, no active source, no request, no power failure and no difference of the lanes. -/
def Slb.cycleQuiet (p : Safety) (q : Copies Safety) (now : Nat) (pf : Bool) (i : SlbIn) (b : Slb) : Bool :=
  (b.cycleTrips p now i).isEmpty && ((b.takeIn p now i).sources p q).isEmpty && (b.takeIn p now i).request == 0 && !pf
    && !i.laneDiff

theorem Slb.cycleSto_iff {p : Safety} {now : Nat} {pf : Bool} {i : SlbIn} {b : Slb} :
    b.cycleSto p now pf i = true ↔
      (b.cycleTrips p now i).any (·.sto) = true ∨ (b.takeIn p now i).request = 2 ∨ b.report.idle = true ∨ pf = true := by
  simp only [Slb.cycleSto, Bool.or_eq_true, beq_iff_eq, or_assoc]

theorem Slb.cycleSs1_iff {p : Safety} {now : Nat} {i : SlbIn} {b : Slb} :
    b.cycleSs1 p now i = true ↔ (b.cycleTrips p now i).any (!·.sto) = true ∨ (b.takeIn p now i).request = 1 := by
  simp only [Slb.cycleSs1, Bool.or_eq_true, beq_iff_eq]

theorem Slb.cycleQuiet_iff {p : Safety} {q : Copies Safety} {now : Nat} {pf : Bool} {i : SlbIn} {b : Slb} :
    b.cycleQuiet p q now pf i = true ↔
      b.cycleTrips p now i = [] ∧ (b.takeIn p now i).sources p q = [] ∧ (b.takeIn p now i).request = 0 ∧ pf = false ∧
        i.laneDiff = false := by
  simp only [Slb.cycleQuiet, Bool.and_eq_true, List.isEmpty_iff, beq_iff_eq, Bool.not_eq_true', and_assoc]

/-- In a quiet cycle only a state without torque calls for STO. -/
theorem Slb.cycleSto_of_quiet {p : Safety} {q : Copies Safety} {now : Nat} {pf : Bool} {i : SlbIn} {b : Slb}
    (h : b.cycleQuiet p q now pf i = true) : b.cycleSto p now pf i = b.report.idle := by
  obtain ⟨htrips, -, hreq, hpf, -⟩ := Slb.cycleQuiet_iff.mp h
  simp [Slb.cycleSto, htrips, hreq, hpf]

/-! ## The permission -/

/-- The acknowledge that a cycle takes (13 R384): an edge in a quiet cycle, with every input healthy and the heartbeat valid. -/
def Slb.cycleAck (p : Safety) (q : Copies Safety) (now : Nat) (pf : Bool) (i : SlbIn) (b : Slb) : Bool :=
  b.ackEdge && b.cycleQuiet p q now pf i && (b.takeIn p now i).inputsOk p && b.beatOk

/-- The permission after a cycle: it stays while nothing stops, and an acknowledge gives it as a restart or as the first one. -/
def Slb.cyclePermit (p : Safety) (q : Copies Safety) (now : Nat) (tqen pf ok : Bool) (i : SlbIn) (b : Slb) : Bool :=
  (b.permit && !b.cycleSto p now pf i && !b.cycleSs1 p now i)
    || (b.cycleAck p q now pf i && ok && b.armed && b.report == .halted && b.groups.all (·.state == .off))
    || (b.cycleAck p q now pf i && b.report.permits && !b.permit && tqen && b.groups.all (·.state == .off))

/-- The permission that a cycle leaves is the one that `Slb.cyclePermit` states. -/
theorem Slb.cycle_permit_eq (p : Safety) (q : Copies Safety) (now : Nat) (tqen pf ok : Bool) (i : SlbIn) (b : Slb) :
    (b.cycle p q now tqen pf ok i).1.permit = b.cyclePermit p q now tqen pf ok i := by
  obtain ⟨hreport, hbeat, harmed, hack, hpermit, hgroups, -⟩ := Slb.takeIn_frame p now i b
  unfold Slb.cycle
  dsimp only
  rw [hreport, hbeat, harmed, hack, hpermit, hgroups]
  rfl

/-- The permission after a cycle was there before while nothing calls for STO, or an acknowledge gives it while every group is off. -/
theorem Slb.permit_of_cycle {p : Safety} {q : Copies Safety} {now : Nat} {tqen pf ok : Bool} {i : SlbIn} {b : Slb}
    (h : (b.cycle p q now tqen pf ok i).1.permit = true) :
    (b.permit = true ∧ b.cycleSto p now pf i = false) ∨
      (b.cycleAck p q now pf i = true ∧ (∀ g ∈ b.groups, g.state = .off) ∧
        ((ok = true ∧ b.armed = true ∧ b.report = .halted) ∨ (b.report.permits = true ∧ tqen = true))) := by
  rw [Slb.cycle_permit_eq] at h
  simp only [Slb.cyclePermit, Bool.or_eq_true, Bool.and_eq_true, Bool.not_eq_true', beq_iff_eq, List.all_eq_true] at h
  rcases h with (⟨⟨hpermit, hsto⟩, -⟩ | ⟨⟨⟨⟨hack, hok⟩, harmed⟩, hhalted⟩, hoff⟩) |
    ⟨⟨⟨⟨hack, hpermits⟩, -⟩, htqen⟩, hoff⟩
  · exact .inl ⟨hpermit, hsto⟩
  · exact .inr ⟨hack, hoff, .inl ⟨hok, harmed, hhalted⟩⟩
  · exact .inr ⟨hack, hoff, .inr ⟨hpermits, htqen⟩⟩

theorem Slb.cycleAck_iff {p : Safety} {q : Copies Safety} {now : Nat} {pf : Bool} {i : SlbIn} {b : Slb} :
    b.cycleAck p q now pf i = true ↔
      b.ackEdge = true ∧ b.cycleQuiet p q now pf i = true ∧ (b.takeIn p now i).inputsOk p = true ∧ b.beatOk = true := by
  simp only [Slb.cycleAck, Bool.and_eq_true, and_assoc]

/-- A state without torque permits none. -/
theorem St.permits_of_idle (st : St) : st.idle = true → st.permits = false := by
  cases st <;> decide

/-- A cycle with a cause of STO leaves no permission: an acknowledge needs a quiet cycle in a state that permits torque or HALTED. -/
theorem Slb.cycle_permit_of_sto {p : Safety} {q : Copies Safety} {now : Nat} {tqen pf ok : Bool} {i : SlbIn} {b : Slb}
    (h : b.cycleSto p now pf i = true) : (b.cycle p q now tqen pf ok i).1.permit = false := by
  refine Bool.eq_false_iff.mpr fun hpermit => ?_
  rcases Slb.permit_of_cycle hpermit with ⟨-, hsto⟩ | ⟨hack, -, hstate⟩
  · exact Bool.false_ne_true (hsto.symm.trans h)
  · obtain ⟨-, hquiet, -, -⟩ := Slb.cycleAck_iff.mp hack
    have hidle : b.report.idle = true := (Slb.cycleSto_of_quiet hquiet).symm.trans h
    rcases hstate with ⟨-, -, hhalted⟩ | ⟨hpermits, -⟩
    · rw [hhalted] at hidle; exact absurd hidle (by decide)
    · exact Bool.false_ne_true ((St.permits_of_idle b.report hidle).symm.trans hpermits)

/-! ## The groups -/

/-- One group after the decision of a cycle, from the group as watched, and the stop that it begins: 1 STO, 2 SS1 (13 R371 to R376). -/
def Group.advance (p : Safety) (now : Nat) (b : Slb) (sto ss1 quiet permit : Bool) (r : SafGroup) (w : Group × Bool × Bool) :
    Group × Nat :=
  let g := w.1
  if sto then (g.sto now (if w.2.1 then 3 else 5), if g.state.live then 1 else 0)
  else if ss1 ∧ g.state = .on then (g.ss1 p now b r, 2)
  else
    match g.ss1End now r with
    | some e => (g.sto now e, 0)
    | none =>
      if g.state = .off ∧ !ss1 ∧ mayEnergise quiet permit b.beatOk b.report r then ({ g with state := .on }, 0)
      else (g, 0)

theorem Group.advance_sto {p : Safety} {now : Nat} {b : Slb} {ss1 quiet permit : Bool} {r : SafGroup} {w : Group × Bool × Bool} :
    (Group.advance p now b true ss1 quiet permit r w).1.state = .off := rfl

theorem Group.advance_ss1 {p : Safety} {now : Nat} {b : Slb} {quiet permit : Bool} {r : SafGroup} {w : Group × Bool × Bool}
    (h : w.1.state = .on) : (Group.advance p now b false true quiet permit r w).1 = w.1.ss1 p now b r := by
  simp [Group.advance, h]

/-- A group that was off is on after the decision only where it may be energised. -/
theorem Group.advance_live_of_off {p : Safety} {now : Nat} {b : Slb} {sto ss1 quiet permit : Bool} {r : SafGroup}
    {w : Group × Bool × Bool} (hoff : w.1.state = .off)
    (h : (Group.advance p now b sto ss1 quiet permit r w).1.state.live = true) :
    mayEnergise quiet permit b.beatOk b.report r = true := by
  have hend : w.1.ss1End now r = none := by simp [Group.ss1End, hoff]
  cases sto with
  | true => exact absurd h (by rw [Group.advance_sto]; decide)
  | false =>
    cases hmay : mayEnergise quiet permit b.beatOk b.report r with
    | true => rfl
    | false => simp [Group.advance, hoff, hend, hmay, GroupSt.live] at h

theorem mayEnergise_iff {quiet permit beatOk : Bool} {st : St} {r : SafGroup} :
    mayEnergise quiet permit beatOk st r = true ↔
      quiet = true ∧ permit = true ∧ beatOk = true ∧ st.permits = true ∧ r.used = 1 ∧
        (st == .commission && r.axes == 0) = false := by
  simp only [mayEnergise, Bool.and_eq_true, Bool.not_eq_true', beq_iff_eq, and_assoc]

/-- A cycle watches each group against its parameters. -/
theorem Slb.findTrips_watched (p : Safety) (now : Nat) (i : SlbIn) (was : List Bool) (b : Slb) :
    (b.findTrips p now i was).2 = b.groups.zipIdx.map fun x => x.1.watch p now b (getN p.groups x.2) := rfl

/-- A cycle decides on each group as it watches it. -/
theorem Slb.cycle_groups (p : Safety) (q : Copies Safety) (now : Nat) (tqen pf ok : Bool) (i : SlbIn) (b : Slb) :
    (b.cycle p q now tqen pf ok i).1.groups =
      (((b.groups.zipIdx.map fun x => x.1.watch p now (b.takeIn p now i) (getN p.groups x.2)).zipIdx.map fun x =>
        Group.advance p now (b.takeIn p now i) (b.cycleSto p now pf i) (b.cycleSs1 p now i) (b.cycleQuiet p q now pf i)
          (b.cyclePermit p q now tqen pf ok i) (getN p.groups x.2) x.1).map (·.1)) := by
  obtain ⟨hreport, hbeat, harmed, hack, hpermit, hgroups, -⟩ := Slb.takeIn_frame p now i b
  unfold Slb.cycle Group.advance
  dsimp only
  rw [Slb.findTrips_watched, hreport, hbeat, harmed, hack, hpermit, hgroups]
  rfl

/-- Group `k` after a cycle. -/
theorem Slb.getN_cycle_groups {p : Safety} {q : Copies Safety} {now k : Nat} {tqen pf ok : Bool} {i : SlbIn} {b : Slb}
    (hb : b.shaped) (hk : k < 4) :
    getN (b.cycle p q now tqen pf ok i).1.groups k =
      (Group.advance p now (b.takeIn p now i) (b.cycleSto p now pf i) (b.cycleSs1 p now i) (b.cycleQuiet p q now pf i)
        (b.cyclePermit p q now tqen pf ok i) (getN p.groups k)
        ((getN b.groups k).watch p now (b.takeIn p now i) (getN p.groups k))).1 := by
  have hlen : k < b.groups.length := by rw [hb.2.1]; exact hk
  rw [Slb.cycle_groups]
  unfold getN
  simp [hlen]

/-- Watching a group leaves its state. -/
theorem Group.watch_state (p : Safety) (now : Nat) (b : Slb) (r : SafGroup) (g : Group) : (g.watch p now b r).1.state = g.state := rfl

/-- A cycle with a cause of STO turns every group off (13 R372). -/
theorem Slb.cycle_groups_off {p : Safety} {q : Copies Safety} {now : Nat} {tqen pf ok : Bool} {i : SlbIn} {b : Slb}
    (h : b.cycleSto p now pf i = true) : ∀ g ∈ (b.cycle p q now tqen pf ok i).1.groups, g.state = .off := by
  rw [Slb.cycle_groups, h, List.map_map]
  intro g hg
  obtain ⟨w, -, rfl⟩ := List.mem_map.mp hg
  exact Group.advance_sto

/-! ## The STO outputs -/

/-- An STO output is commanded on exactly while its group is energised and it has no fault. -/
theorem Slb.cycle_stoCmd (p : Safety) (q : Copies Safety) (now : Nat) (tqen pf ok : Bool) (i : SlbIn) (b : Slb) :
    (b.cycle p q now tqen pf ok i).1.stoCmd = (List.range 8).map fun n =>
      ((b.cycle p q now tqen pf ok i).1.groups.getD (n / 2) {}).state.live &&
        !(b.cycle p q now tqen pf ok i).1.outFault.getD n false := by
  have group : ∀ (l : List (Group × Nat)) (k : Nat), (l.map (·.1)).getD k {} = (l.getD k ({}, 0)).1 := fun l k =>
    getD_map_apply Prod.fst l k ({}, 0)
  unfold Slb.cycle
  dsimp only
  simp only [group]

theorem getD_live_of_off {l : List Group} (h : ∀ g ∈ l, g.state = .off) (k : Nat) : (l.getD k {}).state.live = false := by
  rw [List.getD_eq_getElem?_getD]
  cases e : l[k]? with
  | none => rfl
  | some g => rw [Option.getD_some, h g (List.mem_of_getElem? e)]; rfl

/-! ## The obligation -/

/-- SLB_CYCLE takes the result of its cycle; SYS and memory stay. -/
theorem runs_slbCycle_result (t : Nat) (i : SlbIn) {s : State} (h : s.sup.on = true) :
    Runs (.slbCycle t i) s fun v =>
      let c := (s.at t).slb.cycle (s.at t).params (s.at t).nvm.params (s.at t).now s.sys.tqen s.sup.pfOut (s.at t).restartOk i
      v.slb.groups = c.1.groups ∧ v.slb.stoCmd = c.1.stoCmd ∧ v.slb.brkCmd = c.1.brkCmd ∧ v.slb.chainCmd = c.1.chainCmd ∧
        v.slb.permit = c.1.permit ∧ v.slb.toSp = c.1.toSp ∧ v.sys = (s.at t).sys ∧ v.mem = s.mem ∧
        v.sup.ioaOk = supplyOk i.ioA ∧ v.sup.iobOk = supplyOk i.ioB := by
  refine runs_finish (exec_slbCycle ..) ?_
  rw [← at_sup s t] at h
  rw [← at_sup s t, ← at_sys_tqen s t, ← at_mem s t]
  generalize s.at t = u at h
  simp only [h, if_true]
  unfold State.mirrorSlb State.onSlb
  split <;> exact ⟨rfl, rfl, rfl, rfl, rfl, rfl, rfl, rfl, rfl, rfl⟩

/-- Settles O43: what the cycle decides on a group, on the outputs and on the permission, by the lemma of each. -/
theorem cyclesRemoveAndPermitTorqueAsStated : Obligations.CyclesRemoveAndPermitTorqueAsStated := by
  unfold Obligations.CyclesRemoveAndPermitTorqueAsStated
  refine ⟨fun t i s h => runs_slbCycle_result t i h, ?removes, ?ss1, ?outputs, ?energises, ?permits⟩
  case removes =>
    intro p q now tqen pf ok i b _ b' trips c hsto
    have hsto : b.cycleSto p now pf i = true := Slb.cycleSto_iff.mpr hsto
    have hgroups := Slb.cycle_groups_off (q := q) (tqen := tqen) (ok := ok) hsto
    refine ⟨hgroups, fun x hx => ?_, Slb.cycle_permit_of_sto hsto, ?_⟩
    · rw [show c.stoCmd = _ from Slb.cycle_stoCmd p q now tqen pf ok i b] at hx
      obtain ⟨n, -, rfl⟩ := List.mem_map.mp hx
      rw [getD_live_of_off hgroups, Bool.false_and]
    · obtain ⟨-, -, -, -, -, -, htoSp⟩ := Slb.takeIn_frame p now i b
      exact congrArg (· ++ trips) htoSp
  case ss1 =>
    intro p q now k tqen pf ok i b hb hk b' trips g hno hreq hidle hpf hss1 hon
    have hsto : b.cycleSto p now pf i = false := by
      refine Bool.eq_false_iff.mpr fun hsto => ?_
      rcases Slb.cycleSto_iff.mp hsto with h | h | h | h
      · exact Bool.false_ne_true (hno.symm.trans h)
      · exact hreq h
      · exact Bool.false_ne_true (hidle.symm.trans h)
      · exact Bool.false_ne_true (hpf.symm.trans h)
    have hg : g = _ := Slb.getN_cycle_groups hb hk
    rw [hsto, Slb.cycleSs1_iff.mpr hss1, Group.advance_ss1 ((Group.watch_state ..).trans hon)] at hg
    rw [hg]
    exact ⟨rfl, rfl⟩
  case outputs =>
    intro p q now n tqen pf ok i b hb hn c hon
    have hlen : n / 2 < c.groups.length := by
      rw [(Slb.cycle_shaped p q now tqen pf ok i b hb).2.1]; omega
    rw [show c.stoCmd = _ from Slb.cycle_stoCmd p q now tqen pf ok i b] at hon
    simpa [hn, getN, hlen, c] using hon
  case energises =>
    intro p q now k tqen pf ok i b hb hk b' c hoff hlive
    obtain ⟨hreport, hbeat, -⟩ := Slb.takeIn_frame p now i b
    rw [show getN c.groups k = _ from Slb.getN_cycle_groups hb hk] at hlive
    have hmay := Group.advance_live_of_off ((Group.watch_state ..).trans hoff) hlive
    obtain ⟨hquiet, hpermit, hvalid, hpermits, hused, -⟩ := mayEnergise_iff.mp hmay
    obtain ⟨htrips, hsources, hreq, hpf, -⟩ := Slb.cycleQuiet_iff.mp hquiet
    exact ⟨(Slb.cycle_permit_eq ..).trans hpermit, hreport ▸ hpermits, hbeat ▸ hvalid, htrips, hsources, hreq, hpf, hused⟩
  case permits =>
    intro p q now tqen pf ok i b hno hpermit
    rcases Slb.permit_of_cycle hpermit with ⟨h, -⟩ | ⟨hack, hoff, hstate⟩
    · exact absurd (hno.symm.trans h) Bool.false_ne_true
    · obtain ⟨hedge, -, hinputs, hbeat⟩ := Slb.cycleAck_iff.mp hack
      exact ⟨hedge, hbeat, hinputs, hoff, hstate⟩

end Sys2Proof.Machine
end

section
/-! SUPPORT. The probe's presence (02 R47). -/

namespace Sys2Proof.Machine

@[simp] theorem State.ev_dbg (c k b d : Nat) (s : State) : (s.ev c k b d).dbg = s.dbg :=
  State.ev_same (p := .dbg) (by decide) c k b d s

/-- Settles O13: the command is its log entry on the noted level, and a log entry leaves debug and SYS. -/
theorem probePresenceOnlyLogs : Obligations.ProbePresenceOnlyLogs := by
  unfold Obligations.ProbePresenceOnlyLogs
  intro t low s hon hlevel
  have hexec := runs_dbgPresChange t low s hon hlevel
  refine ⟨hexec, _, hexec, ?enabled, ?sys⟩
  case enabled => simp only [settle_dbg, State.ev_dbg, onDbg_dbg, at_dbg]
  case sys => simp only [settle_sys, State.ev_sys, onDbg_sys]

end Sys2Proof.Machine
end

section
/-! SUPPORT. The safe inputs with their test pulses, and the checks of the outputs and encoders (02 R43; 13 R362 to R367, R373, R378,
R384). -/

namespace Sys2Proof.Machine

/-! ## Inputs and trips in the state -/

@[simp] theorem settle_sinput (n : Nat) (s : State) : (settle s).sinput n = s.sinput n := rfl

@[simp] theorem at_sinput (t n : Nat) (s : State) : (s.at t).sinput n = s.sinput n := by
  simp only [State.sinput, at_slb_inputs, at_slb_chain]

@[simp] theorem slbTrip_sinput (x n : Nat) (sto : Bool) (s : State) : (s.slbTrip x sto).sinput n = s.sinput n := rfl

@[simp] theorem slbTrip_due (x : Nat) (sto : Bool) (s : State) :
    (s.slbTrip x sto).slb.due = s.slb.due ++ [{ src := x, sto := sto }] := rfl

@[simp] theorem onInput_params (n : Nat) (f : SInput → SInput) (s : State) : (s.onInput n f).params = s.params := by
  unfold State.onInput; split <;> rfl

/-- A change of an input leaves the groups, the STO commands, the trips that are due and the acknowledge edge. -/
theorem onInput_slb_frame (n : Nat) (f : SInput → SInput) (s : State) :
    (s.onInput n f).slb.groups = s.slb.groups ∧ (s.onInput n f).slb.stoCmd = s.slb.stoCmd ∧
      (s.onInput n f).slb.due = s.slb.due ∧ (s.onInput n f).slb.ackEdge = s.slb.ackEdge := by
  unfold State.onInput; split <;> exact ⟨rfl, rfl, rfl, rfl⟩

@[simp] theorem onInput_inputs_length (n : Nat) (f : SInput → SInput) (s : State) :
    (s.onInput n f).slb.inputs.length = s.slb.inputs.length := by
  unfold State.onInput
  split
  · rfl
  · exact modN_length ..

theorem sinput_onInput_self {n : Nat} {s : State} (h : n = 16 ∨ n < s.slb.inputs.length) (f : SInput → SInput) :
    (s.onInput n f).sinput n = f (s.sinput n) := by
  unfold State.onInput State.sinput
  by_cases hn : n = 16
  · simp only [hn, if_true, onSlb_slb]
  · simp only [hn, if_false, onSlb_slb]
    exact getN_modN_self _ _ _ (h.resolve_left hn)

theorem sinput_onInput_ne {n k : Nat} (h : k ≠ n) (f : SInput → SInput) (s : State) : (s.onInput n f).sinput k = s.sinput k := by
  unfold State.onInput State.sinput
  by_cases hn : n = 16
  · have hk : k ≠ 16 := hn ▸ h
    simp only [hn, hk, if_true, if_false, onSlb_slb]
  · simp only [hn, if_false, onSlb_slb, getN_modN_ne _ _ _ _ h]

@[simp] theorem onSlb_ackEdge_sinput (n : Nat) (f : Slb → Bool) (s : State) :
    (s.onSlb fun b => { b with ackEdge := f b }).sinput n = s.sinput n := rfl

theorem onSlb_ackEdge_or (c : Bool) (s : State) :
    (s.onSlb fun b => { b with ackEdge := b.ackEdge || c }) = if c then s.onSlb fun b => { b with ackEdge := true } else s := by
  cases c
  · simp only [Bool.or_false, Bool.false_eq_true, if_false]; rfl
  · simp only [Bool.or_true, if_true]

/-- In a state of the right form, an input number up to 16 names an input of every instant. -/
theorem State.shaped.input_exists {s : State} (hs : s.shaped) {n : Nat} (hn : n ≤ 16) (t : Nat) :
    n = 16 ∨ n < (s.at t).slb.inputs.length := by
  rw [at_slb_inputs, hs.slb.1]; omega

/-! ## The bookkeeping of the two channels -/

@[simp] theorem SInput.settle_pulse (now disc : Nat) (x : SInput) : (x.settle now disc).1.pulse = x.pulse := rfl

/-- A latched discrepancy ends once both channels have been OFF together and are ON (13 R364). -/
theorem SInput.settle_disc_of_latched {x : SInput} (h : x.disc = true) (now disc : Nat) :
    (x.settle now disc).1.disc = !(x.discOff && x.a && x.b) := by
  simp only [SInput.settle, h, Bool.true_and, Bool.and_assoc]

/-- With both channels ON after they were OFF, the edge needs the second within DISC of the first (13 R384). -/
theorem SInput.settle_of_both_on {x : SInput} (ha : x.a = true) (hb : x.b = true) (hoff : x.offSeen = true) (now disc : Nat) :
    (x.settle now disc).2 = (match x.firstOn with | some i => decide (now ≤ i + disc) | none => true) ∧
      (x.settle now disc).1.offSeen = false := by
  unfold SInput.settle
  cases x.firstOn <;> simp [ha, hb, hoff]

/-- An acknowledge edge needs both channels ON, and OFF together before (13 R384). -/
theorem SInput.both_on_of_edge {x : SInput} {now disc : Nat} (h : (x.settle now disc).2 = true) :
    x.a = true ∧ x.b = true ∧ x.offSeen = true := by
  simp only [SInput.settle, Bool.and_eq_true] at h
  obtain ⟨⟨⟨ha, hb⟩, hoff⟩, -⟩ := h
  exact ⟨ha, hb, hoff⟩

/-! ## INPUT_FILTER_SETTLE -/

/-- A channel takes its pin state; a channel that is ON is blanked no longer (13 R362, R363). -/
def SInput.takePin (chB on : Bool) (x : SInput) : SInput :=
  if chB then { x with b := on, blankB := x.blankB && !on } else { x with a := on, blankA := x.blankA && !on }

theorem SInput.takePin_channels (chB on : Bool) (x : SInput) :
    if chB then (x.takePin chB on).b = on ∧ (x.takePin chB on).a = x.a
      else (x.takePin chB on).a = on ∧ (x.takePin chB on).b = x.b := by
  cases chB <;> exact ⟨rfl, rfl⟩

@[simp] theorem SInput.takePin_pulse (chB on : Bool) (x : SInput) : (x.takePin chB on).pulse = x.pulse := by cases chB <;> rfl

@[simp] theorem SInput.takePin_offSeen (chB on : Bool) (x : SInput) : (x.takePin chB on).offSeen = x.offSeen := by
  cases chB <;> rfl

/-- Input `n` once the bookkeeping of its channels has followed the settled one. -/
def State.settledInput (n : Nat) (chB on : Bool) (s : State) : SInput × Bool :=
  ((s.sinput n).takePin chB on).settle s.now (s.discNs n)

/-- The settled input is an ACK input with an edge, without a discrepancy and without a fault of its test pulses (13 R384). -/
def State.acksBy (n : Nat) (y : SInput × Bool) (s : State) : Bool :=
  decide (y.2 = true ∧ (s.params.input n).kind = 2 ∧ y.1.disc = false ∧ y.1.pulse = false)

/-- INPUT_FILTER_SETTLE on one of the 16 inputs: the input as settled, and the edge of a sound ACK input. -/
theorem exec_inputFilterSettle_powered {t n : Nat} {s : State} (hon : s.sup.on = true) (hn : n < 16) (chB on : Bool) :
    let u := s.at t
    let y := u.settledInput n chB on
    exec (.inputFilterSettle t n chB on) s = .next (settle
      ((u.onInput n fun _ => y.1).onSlb fun b => { b with ackEdge := b.ackEdge || u.acksBy n y })) := by
  rw [exec_inputFilterSettle]; unfold execInputFilterSettle finish State.acksBy
  have hle : n ≤ 16 := Nat.le_of_lt hn
  simp only [at_sup, hon, hle, hn, and_self, true_and, if_true, onInput_params, Bool.not_eq_true', onSlb_ackEdge_or,
    decide_eq_true_eq]
  rfl

/-- A settled filter updates its channel alone; an acknowledge edge needs a sound ACK input, both channels ON and OFF together
before. -/
theorem runs_inputFilterSettle_channel {t n : Nat} {s : State} (hs : s.shaped) (hon : s.sup.on = true) (hn : n < 16)
    (chB on : Bool) :
    Runs (.inputFilterSettle t n chB on) s fun v =>
      let x := s.sinput n
      let y := v.sinput n
      (if chB then y.b = on ∧ y.a = x.a else y.a = on ∧ y.b = x.b) ∧ y.pulse = x.pulse ∧ v.slb.groups = s.slb.groups ∧
        v.slb.stoCmd = s.slb.stoCmd ∧ v.slb.due = s.slb.due ∧
        (v.slb.ackEdge = true → s.slb.ackEdge = true ∨
          ((s.at t).params.input n).kind = 2 ∧ y.a = true ∧ y.b = true ∧ x.offSeen = true ∧ y.disc = false ∧ y.pulse = false) := by
  refine ⟨_, exec_inputFilterSettle_powered hon hn chB on, ?_⟩
  have hinput := sinput_onInput_self (hs.input_exists (Nat.le_of_lt hn) t) fun _ => ((s.at t).settledInput n chB on).1
  obtain ⟨hgroups, hsto, hdue, hack⟩ := onInput_slb_frame n (fun _ => ((s.at t).settledInput n chB on).1) (s.at t)
  simp only [settle_sinput, onSlb_ackEdge_sinput, settle_slb_groups, settle_slb_stoCmd, settle_slb_due, settle_slb_ackEdge, onSlb_slb,
    hinput, hgroups, hsto, hdue, hack, at_slb_groups, at_slb_stoCmd, at_slb_due, at_slb_ackEdge, true_and]
  refine ⟨?channel, ?pulse, fun h => ?ack⟩
  case channel =>
    rw [← at_sinput t n s]
    exact SInput.takePin_channels chB on ((s.at t).sinput n)
  case pulse => simp only [State.settledInput, SInput.settle_pulse, SInput.takePin_pulse, at_sinput]
  case ack =>
    refine (Bool.or_eq_true_iff.mp h).imp_right fun hacks => ?_
    obtain ⟨hedge, hkind, hdisc, hpulse⟩ := of_decide_eq_true hacks
    obtain ⟨ha, hb, hoff⟩ := SInput.both_on_of_edge hedge
    rw [SInput.takePin_offSeen, at_sinput] at hoff
    exact ⟨hkind, ha, hb, hoff, hdisc, hpulse⟩

/-! ## BLANKING_END and DISCREPANCY_EXPIRY -/

/-- The end of a blanking marks its channel and leaves what both channels read (13 R363). -/
theorem runs_blankingEnd_channel {t n : Nat} {s : State} (hs : s.shaped) (hon : s.sup.on = true) (hn : n ≤ 16) (chB : Bool) :
    Runs (.blankingEnd t n chB) s fun v =>
      (if chB then (v.sinput n).blankB else (v.sinput n).blankA) = true ∧ (v.sinput n).a = (s.sinput n).a ∧
      (v.sinput n).b = (s.sinput n).b := by
  refine runs_finish (exec_blankingEnd ..) ?_
  simp only [at_sup, hon, hn, and_self, if_true, settle_sinput, sinput_onInput_self (hs.input_exists hn t), at_sinput]
  cases chB <;> exact ⟨rfl, rfl, rfl⟩

/-- Channels that have differed for DISC latch the discrepancy, which is trip 0x02 (13 R364). -/
theorem runs_discrepancyExpiry_latched {t n i : Nat} {s : State} (hs : s.shaped) (hon : s.sup.on = true) (hn : n < 16)
    (hkind : ((s.at t).params.input n).kind ≠ 0) (hdisc : (s.sinput n).disc = false) (hab : (s.sinput n).a ≠ (s.sinput n).b)
    (hdiffer : (s.sinput n).differ = some i) (hlong : i + (s.at t).discNs n ≤ (s.at t).now) :
    Runs (.discrepancyExpiry t n) s fun v =>
      (v.sinput n).disc = true ∧ v.slb.due = s.slb.due ++ [{ src := 0x02, sto := true }] := by
  rw [← at_sup s t] at hon
  rw [← at_sinput t n s] at hdisc hab hdiffer
  have hpast : (s.at t).pastOpt ((s.at t).sinput n).differ ((s.at t).discNs n) = true := by
    rw [hdiffer]; exact decide_eq_true hlong
  refine ⟨_, runs_discrepancyExpiry t n s _ rfl hon hn hkind hdisc hab hpast, ?latched, ?trip⟩
  case latched => rw [settle_sinput, slbTrip_sinput, sinput_onInput_self (hs.input_exists (Nat.le_of_lt hn) t)]
  case trip =>
    obtain ⟨-, -, hdue, -⟩ := onInput_slb_frame n (fun x => { x with disc := true, discOff := false }) (s.at t)
    rw [settle_slb_due, slbTrip_due, hdue, at_slb_due]

/-! ## TEST_PULSE -/

/-- What the checks around a pulse of TPn do to one input (13 R367). -/
def State.pulseInput (tp : Nat) (q : PulseIn) (n : Nat) (s : State) : State :=
  let r := s.params.input n
  let x := s.sinput n
  let tested := r.tpA < 8 && r.tpB < 8 && r.kind ≠ 0
  let ownA := r.tpA == tp
  let ownB := r.tpB == tp
  let badA := x.a && bit (if ownA then q.stuckOn else q.crossed) (2 * n)
  let badB := x.b && bit (if ownB then q.stuckOn else q.crossed) (2 * n + 1)
  if !tested then s
  else if badA ∨ badB then
    let s := s.onInput n fun x => { x with pulse := true, passes := 0 }
    if x.pulse then s else s.slbTrip 0x02 true
  else if x.pulse ∧ (ownA ∨ ownB) ∧ x.a ∧ x.b then
    s.onInput n fun x => { x with passes := x.passes + 1, pulse := decide (x.passes + 1 < 4) }
  else s

/-- A powered test pulse checks the 16 inputs in order. -/
theorem exec_testPulse_powered {t k : Nat} {s : State} (hon : s.sup.on = true) (hk : k < 8) (hst : s.sys.state ≠ .off) (q : PulseIn) :
    exec (.testPulse t k q) s = .next (settle ((s.at t).each (List.range 16) (State.pulseInput k q))) := by
  rw [exec_testPulse]; unfold execTestPulse finish
  rw [← at_sup s t] at hon
  rw [← at_sys_state s t] at hst
  exact congrArg (fun v => Host.Outcome.next (settle v)) (if_pos ⟨hon, hk, hst⟩)

/-- From `s` to `v` the parameters and the number of inputs stay, no trip that is due is lost, and input `n` stays. -/
def State.SparesInput (n : Nat) (s v : State) : Prop :=
  v.params = s.params ∧ v.slb.inputs.length = s.slb.inputs.length ∧ s.slb.due ⊆ v.slb.due ∧ v.sinput n = s.sinput n

theorem State.SparesInput.refl (n : Nat) (s : State) : s.SparesInput n s := ⟨rfl, rfl, List.Subset.refl _, rfl⟩

theorem State.SparesInput.trans {n : Nat} {s u v : State} (h : s.SparesInput n u) (k : u.SparesInput n v) : s.SparesInput n v := by
  obtain ⟨hparams, hlength, hdue, hinput⟩ := h
  obtain ⟨kparams, klength, kdue, kinput⟩ := k
  exact ⟨kparams.trans hparams, klength.trans hlength, List.Subset.trans hdue kdue, kinput.trans hinput⟩

theorem State.onInput_spares {n k : Nat} (h : n ≠ k) (f : SInput → SInput) (s : State) : s.SparesInput n (s.onInput k f) := by
  obtain ⟨-, -, hdue, -⟩ := onInput_slb_frame k f s
  exact ⟨onInput_params .., onInput_inputs_length .., fun _ hx => hdue.symm ▸ hx, sinput_onInput_ne h f s⟩

theorem State.slbTrip_spares (n x : Nat) (sto : Bool) (s : State) : s.SparesInput n (s.slbTrip x sto) :=
  ⟨rfl, rfl, List.subset_append_left .., rfl⟩

/-- The checks on one input spare the others. -/
theorem State.pulseInput_spares {n k : Nat} (h : n ≠ k) (tp : Nat) (q : PulseIn) (s : State) :
    s.SparesInput n (s.pulseInput tp q k) := by
  have untested : s.SparesInput n s := .refl n s
  have input : ∀ f, s.SparesInput n (s.onInput k f) := fun f => State.onInput_spares h f s
  have tripped : ∀ f, s.SparesInput n ((s.onInput k f).slbTrip 0x02 true) := fun f => (input f).trans (slbTrip_spares ..)
  refine iteInduction (motive := s.SparesInput n) (fun _ => untested) fun _ => ?_
  refine iteInduction (motive := s.SparesInput n) (fun _ => ?fails) fun _ => ?passes
  case fails => exact iteInduction (motive := s.SparesInput n) (fun _ => input _) fun _ => tripped _
  case passes => exact iteInduction (motive := s.SparesInput n) (fun _ => input _) fun _ => untested

/-- A number below the end of a range stands in it once. -/
theorem exists_range_split {n m : Nat} (h : n < m) : ∃ l r, List.range m = l ++ n :: r ∧ n ∉ l ∧ n ∉ r := by
  obtain ⟨l, r, hsplit⟩ := List.append_of_mem (List.mem_range.mpr h)
  have hnodup : (l ++ n :: r).Nodup := hsplit ▸ List.nodup_range
  obtain ⟨-, htail, hapart⟩ := List.nodup_append.mp hnodup
  exact ⟨l, r, hsplit, fun hl => hapart n hl n List.mem_cons_self rfl, (List.nodup_cons.mp htail).1⟩

theorem State.each_append_cons {α : Type} (l r : List α) (a : α) (f : α → State → State) (s : State) :
    s.each (l ++ a :: r) f = (f a (s.each l f)).each r f := by
  unfold State.each
  rw [List.foldl_append, List.foldl_cons]

theorem State.each_pulseInput_spares {n : Nat} {l : List Nat} (h : n ∉ l) (tp : Nat) (q : PulseIn) (s : State) :
    s.SparesInput n (s.each l (State.pulseInput tp q)) := by
  induction l generalizing s with
  | nil => exact .refl n s
  | cons k l ih =>
    obtain ⟨hk, hl⟩ := not_or.mp (mt List.mem_cons.mpr h)
    exact (State.pulseInput_spares hk tp q s).trans (ih hl (s.pulseInput tp q k))

/-- Channel A of an input that a pulse of TPn finds stuck ON or shorted to TPn. -/
def State.FailsPulse (tp : Nat) (q : PulseIn) (n : Nat) (s : State) : Prop :=
  let r := s.params.input n
  (r.tpA < 8 ∧ r.tpB < 8 ∧ r.kind ≠ 0) ∧ (s.sinput n).a = true ∧
    ((r.tpA = tp ∧ bit q.stuckOn (2 * n) = true) ∨ (r.tpA ≠ tp ∧ bit q.crossed (2 * n) = true))

theorem State.FailsPulse.of_spares {tp n : Nat} {q : PulseIn} {s v : State} (h : s.FailsPulse tp q n) (hv : s.SparesInput n v) :
    v.FailsPulse tp q n := by
  obtain ⟨hparams, -, -, hinput⟩ := hv
  unfold State.FailsPulse
  rw [hparams, hinput]
  exact h

/-- A sound input whose channel A fails is faulted, and the fault is trip 0x02 (13 R367). -/
theorem State.pulseInput_fails {tp n : Nat} {q : PulseIn} {s : State} (h : s.FailsPulse tp q n)
    (hsound : (s.sinput n).pulse = false) :
    s.pulseInput tp q n = (s.onInput n fun x => { x with pulse := true, passes := 0 }).slbTrip 0x02 true := by
  obtain ⟨⟨htpA, htpB, hkind⟩, ha, hbad⟩ := h
  have hbit : bit (if ((s.params.input n).tpA == tp) = true then q.stuckOn else q.crossed) (2 * n) = true := by
    rcases hbad with ⟨hown, hbit⟩ | ⟨hother, hbit⟩
    · rw [if_pos (beq_iff_eq.mpr hown), hbit]
    · rw [if_neg (mt beq_iff_eq.mp hother), hbit]
  unfold State.pulseInput
  simp only [htpA, htpB, hkind, ha, hbit, hsound, decide_true, not_false_eq_true, Bool.and_true, Bool.not_true, Bool.false_eq_true,
    true_or, if_true, if_false, ne_eq]

/-- A test pulse faults a sound input whose channel A fails a check, with trip 0x02 (13 R367). -/
theorem runs_testPulse_fails {t k n : Nat} {q : PulseIn} {s : State} (hs : s.shaped) (hon : s.sup.on = true) (hk : k < 8)
    (hst : s.sys.state ≠ .off) (hn : n < 16) (hfail : (s.at t).FailsPulse k q n) (hsound : (s.sinput n).pulse = false) :
    Runs (.testPulse t k q) s fun v =>
      (v.sinput n).pulse = true ∧ (v.sinput n).passes = 0 ∧ ({ src := 0x02, sto := true } : Trip) ∈ v.slb.due := by
  obtain ⟨before, after, hsplit, hbefore, hafter⟩ := exists_range_split hn
  refine ⟨_, exec_testPulse_powered hon hk hst q, ?_⟩
  rw [hsplit, State.each_append_cons]
  have hb := State.each_pulseInput_spares hbefore k q (s.at t)
  generalize (s.at t).each before (State.pulseInput k q) = u at hb ⊢
  obtain ⟨-, hlength, -, hinput⟩ := id hb
  have hexists : n = 16 ∨ n < u.slb.inputs.length := hlength ▸ hs.input_exists (Nat.le_of_lt hn) t
  rw [← at_sinput t n s, ← hinput] at hsound
  rw [State.pulseInput_fails (hfail.of_spares hb) hsound]
  obtain ⟨-, -, hdue, hkept⟩ := State.each_pulseInput_spares hafter k q
    ((u.onInput n fun x => { x with pulse := true, passes := 0 }).slbTrip 0x02 true)
  simp only [settle_sinput, hkept, slbTrip_sinput, sinput_onInput_self hexists, settle_slb_due, true_and]
  exact hdue (List.mem_append_right _ (List.mem_singleton.mpr rfl))

/-- A pulse that every channel passes changes no sound input (13 R367). -/
theorem exec_testPulse_passes {t k : Nat} {q : PulseIn} {s : State} (hs : s.shaped) (hstuck : q.stuckOn = 0) (hcrossed : q.crossed = 0)
    (hsound : ∀ x ∈ s.slb.inputs, x.pulse = false) : exec (.testPulse t k q) s = .next (settle (s.at t)) := by
  obtain ⟨stuckOn, crossed⟩ := q
  cases hstuck
  cases hcrossed
  by_cases hup : (s.at t).sup.on = true ∧ k < 8 ∧ (s.at t).sys.state ≠ .off
  · obtain ⟨hon, hk, hst⟩ := hup
    refine runs_testPulse t k s _ rfl hon hk hst fun n hn => ?_
    have hlt : n < s.slb.inputs.length := by rw [hs.slb.1]; exact hn
    rw [at_sinput, State.sinput, if_neg (Nat.ne_of_lt hn), getN, List.getD_eq_getElem?_getD,
      List.getElem?_eq_getElem hlt, Option.getD_some]
    exact hsound _ (List.getElem_mem hlt)
  · exact congrArg (fun v => Host.Outcome.next (settle v)) (if_neg hup)

/-! ## Output checks -/

/-- Writing the value that is read past the end of a list: it is read back, inside the list and past it. -/
theorem getD_setN_default {α : Type} (l : List α) (i : Nat) (d : α) : (setN l i d).getD i d = d := by
  unfold setN
  induction l generalizing i with
  | nil => rfl
  | cons a l ih =>
    cases i with
    | zero => rfl
    | succ i => exact ih i

theorem getD_outFault_setN {b : Slb} (hb : b.shaped) {n : Nat} (hn : n < 14) : (setN b.outFault n true).getD n false = true := by
  obtain ⟨-, -, -, -, hlength⟩ := hb
  exact getN_setN_self b.outFault n true (hlength ▸ hn)

/-- A failed off-test of an energised STO channel faults it, which is trip 0x06 (13 R373). -/
theorem runs_outputOfftest_fails {t n : Nat} {s : State} (hs : s.shaped) (hon : s.sup.on = true) (hn : n < 8)
    (hsto : s.slb.stoCmd.getD n false = true) :
    Runs (.outputOfftest t n false) s fun v =>
      v.slb.outFault.getD n false = true ∧ v.slb.due = s.slb.due ++ [{ src := 0x06, sto := true }] := by
  rw [← at_sup s t] at hon
  rw [← at_slb_stoCmd s t] at hsto
  refine ⟨_, runs_outputOfftest t n s _ rfl hon hn hsto, ?fault, ?trip⟩
  case fault =>
    show (setN (s.at t).slb.outFault n true).getD n false = true
    rw [at_slb_outFault]
    exact getD_outFault_setN hs.slb (by omega)
  case trip =>
    show (s.at t).slb.due ++ _ = _
    rw [at_slb_due]

/-- A passing off-test changes nothing but time. -/
theorem exec_outputOfftest_passes (t n : Nat) (s : State) : exec (.outputOfftest t n true) s = .next (settle (s.at t)) := by
  rw [exec_outputOfftest]; unfold execOutputOfftest finish
  simp only [Bool.not_true, Bool.false_eq_true, and_false, if_false]

/-- Output `n` is cut off: faulted, and commanded off as an STO, brake or chain output (02 R43). -/
def Slb.cutOff (n : Nat) (b : Slb) : Slb :=
  { b with
    outFault := setN b.outFault n true
    stoCmd := if n < 8 then setN b.stoCmd n false else b.stoCmd
    brkCmd := if 8 ≤ n ∧ n < 12 then setN b.brkCmd (n - 8) false else b.brkCmd
    chainCmd := if 12 ≤ n then setN b.chainCmd (n - 12) false else b.chainCmd }

/-- A cut-off output is off, whichever of the three kinds it is. -/
theorem Slb.cutOff_off (n : Nat) (b : Slb) :
    (n < 8 → (b.cutOff n).stoCmd.getD n false = false) ∧
      (8 ≤ n → n < 12 → (b.cutOff n).brkCmd.getD (n - 8) false = false) ∧
      (12 ≤ n → (b.cutOff n).chainCmd.getD (n - 12) false = false) := by
  unfold Slb.cutOff
  refine ⟨fun hsto => ?_, fun hlo hhi => ?_, fun hchain => ?_⟩
  · simp only [hsto, if_true, getD_setN_default]
  · simp only [hlo, hhi, and_self, if_true, getD_setN_default]
  · simp only [hchain, if_true, getD_setN_default]

theorem stoPin_off_of_stoCmd {u : State} {n : Nat} (h : u.slb.stoCmd.getD n false = false) :
    (settle u).slb.stoPin.getD n false = false := by
  rw [settle_stoPin, getD_map_and, h, Bool.false_and]

theorem brkPin_off_of_brkCmd {u : State} {n : Nat} (h : u.slb.brkCmd.getD n false = false) :
    (settle u).slb.brkPin.getD n false = false := by
  rw [settle_brkPin, getD_map_and, h, Bool.false_and]

theorem exec_overcurrentCutOff_powered {t n : Nat} {s : State} (hon : s.sup.on = true) (hn : n < 14) :
    exec (.overcurrentCutOff t n) s = .next (settle (((s.at t).onSlb fun b => (b.cutOff n).seeOut n).slbTrip 0x06 true)) := by
  rw [← at_sup s t] at hon
  exact congrArg (fun v => Host.Outcome.next (settle v)) (if_pos ⟨hon, hn⟩)

/-- An overcurrent cut-off faults its output, is trip 0x06, and de-energises command and pin at once (02 R43). -/
theorem runs_overcurrentCutOff_off {t n : Nat} {s : State} (hs : s.shaped) (hon : s.sup.on = true) (hn : n < 14) :
    Runs (.overcurrentCutOff t n) s fun v =>
      v.slb.outFault.getD n false = true ∧ v.slb.due = s.slb.due ++ [{ src := 0x06, sto := true }] ∧
      (n < 8 → v.slb.stoCmd.getD n false = false ∧ v.slb.stoPin.getD n false = false) ∧
      (8 ≤ n → n < 12 → v.slb.brkCmd.getD (n - 8) false = false ∧ v.slb.brkPin.getD (n - 8) false = false) ∧
      (12 ≤ n → v.slb.chainPin.getD (n - 12) false = false) := by
  refine ⟨_, exec_overcurrentCutOff_powered hon hn, ?_⟩
  obtain ⟨hsto, hbrk, hchain⟩ := Slb.cutOff_off n (s.at t).slb
  refine ⟨?fault, ?trip, fun h => ?sto, fun hlo hhi => ?brk, hchain⟩
  case fault =>
    show (setN (s.at t).slb.outFault n true).getD n false = true
    rw [at_slb_outFault]
    exact getD_outFault_setN hs.slb hn
  case trip =>
    show (s.at t).slb.due ++ _ = _
    rw [at_slb_due]
  case sto => exact ⟨hsto h, stoPin_off_of_stoCmd (hsto h)⟩
  case brk => exact ⟨hbrk hlo hhi, brkPin_off_of_brkCmd (hbrk hlo hhi)⟩

/-! ## Encoders -/

/-- An encoder's fault is noted, and one that begins on an axis of a group is trip 0x02 (13 R378). -/
theorem runs_encoderFault_noted {t n : Nat} {s : State} (hs : s.shaped) (hon : s.sup.on = true) (hn : n < 8) (on : Bool) :
    Runs (.encoderFault t n on) s fun v =>
      (getN v.slb.qe n).fault = on ∧
      v.slb.due = s.slb.due ++ (if on = true ∧ (getN s.slb.qe n).fault = false ∧
        (s.at t).params.groups.any (fun g => bit g.axes n) = true then [{ src := 0x02, sto := true }] else []) := by
  refine runs_finish (exec_encoderFault ..) ?_
  obtain ⟨-, -, -, hlength, -⟩ := hs.slb
  rw [← at_sup s t] at hon
  rw [← at_slb_qe s t] at hlength ⊢
  rw [← at_slb_due s t]
  generalize s.at t = u at hon hlength ⊢
  have hfault : (getN (modN u.slb.qe n fun e => { e with fault := on }) n).fault = on := by
    rw [getN_modN_self _ _ _ (hlength ▸ hn)]
  have hparams : ∀ f, (u.onSlb f).params = u.params := fun _ => rfl
  simp only [hon, hn, and_self, if_true, Bool.not_eq_true', hparams]
  split
  case isTrue => exact ⟨hfault, rfl⟩
  case isFalse => exact ⟨hfault, (List.append_nil _).symm⟩

/-- Settles O44: one lemma per command, and the bookkeeping of the two channels. -/
theorem safeInputsAndOutputChecksAct : Obligations.SafeInputsAndOutputChecksAct := by
  unfold Obligations.SafeInputsAndOutputChecksAct
  refine ⟨?filter, ?latched, ?edge, ?blanking, ?discrepancy, ?pulseFails, ?pulsePasses, ?offtestFails, ?offtestPasses, ?cutOff,
    ?encoder⟩
  case filter => exact fun _ _ chB on _ hs hon hn => runs_inputFilterSettle_channel hs hon hn chB on
  case latched => exact fun now disc _ h => SInput.settle_disc_of_latched h now disc
  case edge => exact fun now disc _ ha hb hoff => SInput.settle_of_both_on ha hb hoff now disc
  case blanking => exact fun _ _ chB _ hs hon hn => runs_blankingEnd_channel hs hon hn chB
  case discrepancy =>
    exact fun _ _ _ _ hs hon hn hkind hdisc hab hdiffer hlong =>
      runs_discrepancyExpiry_latched hs hon hn hkind hdisc hab hdiffer hlong
  case pulseFails =>
    intro t k n q s hs hon hk hst hn r htpA htpB hkind ha hsound hbad
    exact runs_testPulse_fails hs hon hk hst hn ⟨⟨htpA, htpB, hkind⟩, (at_sinput t n s).symm ▸ ha, hbad⟩ hsound
  case pulsePasses => exact fun _ _ _ _ hstuck hcrossed hsound hs => exec_testPulse_passes hs hstuck hcrossed hsound
  case offtestFails => exact fun _ _ _ hs hon hn hsto => runs_outputOfftest_fails hs hon hn hsto
  case offtestPasses => exact exec_outputOfftest_passes
  case cutOff => exact fun _ _ _ hs hon hn => runs_overcurrentCutOff_off hs hon hn
  case encoder => exact fun _ _ on _ hs hon hn => runs_encoderFault_noted hs hon hn on

end Sys2Proof.Machine
end

section
/-! SUPPORT. The start stages S0 to S2: passing, failing and DOLDRUMS (04 R94 to R96, R108, R114; 19 R521, R527, R530). -/

namespace Sys2Proof.Machine

/-! ## A stage that fails -/

theorem State.inTime.stage_eq {n : Nat} {s : State} (h : s.inTime n) : s.start.stage = n := by
  obtain ⟨hin, -, -⟩ := h
  simp only [State.inStage, Bool.and_eq_true, beq_iff_eq] at hin
  obtain ⟨⟨⟨⟨-, hstage⟩, -⟩, -⟩, -⟩ := hin
  exact hstage

theorem State.trigStop_start (s : State) : s.trigStop.start = { s.start with s7Done := false } := by
  unfold State.trigStop
  rw [each_send]
  rfl

/-- A stage failure leaves the stage, and the firmware that S1 has verified. -/
theorem stageFail_stage_fw (c : Nat) (s : State) :
    (s.stageFail c).start.stage = s.start.stage ∧ (s.stageFail c).start.fw = s.start.fw := by
  unfold State.stageFail
  simp only [onStart_start, onSlb_start, State.trigStop_start]
  exact ⟨rfl, rfl⟩

/-- The hold and the record that a failure of stage `n` leaves (04 R114, R115). -/
theorem settle_stageFail {n c : Nat} {s u : State} (hin : s.inTime n) (hstart : u.start.stage = s.start.stage)
    (hnow : u.now = s.now) (hhist : u.nvm.hist = s.nvm.hist) :
    (settle (u.stageFail c)).start.holdAt = some s.now ∧
      (settle (u.stageFail c)).nvm.hist = ((n * 256 + c) :: s.nvm.hist).take 3 := by
  rw [settle_start, settle_nvm, stageFail_holdAt, stageFail_hist, hstart, hin.stage_eq, hnow, hhist]
  exact ⟨rfl, rfl⟩

/-! ## Retention under the event log and the journal -/

/-- Retention without its event log. -/
def Ret.sansLog (r : Ret) : Ret := { r with log := [], logNext := 0, logLost := 0 }

/-- Retention without its event log, its journal and the count of failed results. -/
def Ret.sansJournal (r : Ret) : Ret := { r.sansLog with journal := [], failed := 0 }

/-- What each step over a list keeps, the whole list keeps. -/
theorem State.each_keeps {α β : Type} {view : State → β} {f : α → State → State} (h : ∀ a s, view (f a s) = view s)
    (l : List α) (s : State) : view (s.each l f) = view s := by
  induction l generalizing s with
  | nil => rfl
  | cons a l ih => exact (ih (f a s)).trans (h a s)

theorem State.logPut_sansLog (c k b d : Nat) (s : State) : (s.logPut c k b d).ret.sansLog = s.ret.sansLog := rfl

theorem State.flushRepeats_sansLog (s : State) : s.flushRepeats.ret.sansLog = s.ret.sansLog :=
  State.each_keeps (view := fun s => s.ret.sansLog) (fun _ u => State.logPut_sansLog _ _ _ _ u) _ _

/-- An event touches nothing of retention but the event log (18 R500, R501). -/
theorem State.ev_sansLog (c k b d : Nat) (s : State) : (s.ev c k b d).ret.sansLog = s.ret.sansLog := by
  have flush : (if s.log.second = s.dev / sec then s else s.flushRepeats).ret.sansLog = s.ret.sansLog := by
    split
    · rfl
    · exact State.flushRepeats_sansLog s
  unfold State.ev
  generalize (if s.log.second = s.dev / sec then s else s.flushRepeats) = u at flush ⊢
  dsimp only
  split <;> exact flush

theorem State.flushOwed_sansLog (s : State) : s.flushOwed.ret.sansLog = s.ret.sansLog :=
  State.each_keeps (view := fun s => s.ret.sansLog) (fun c u => State.ev_sansLog _ _ _ c u) _ _

/-- The state of the journal and of the numbers stands outside the event log. -/
theorem Ret.numbers_of_sansLog {r q : Ret} (h : r.sansLog = q.sansLog) :
    r.lost = q.lost ∧ r.journal = q.journal ∧ r.streams = q.streams ∧ r.results = q.results ∧ r.token = q.token := by
  simp only [Ret.sansLog, Ret.mk.injEq] at h
  simp only [h, and_self]

/-- GEN, LOST and the numbers stand outside the event log and the journal. -/
theorem Ret.numbers_of_sansJournal {r q : Ret} (h : r.sansJournal = q.sansJournal) :
    r.gen = q.gen ∧ r.lost = q.lost ∧ r.streams = q.streams ∧ r.results = q.results ∧ r.token = q.token := by
  simp only [Ret.sansJournal, Ret.sansLog, Ret.mk.injEq] at h
  simp only [h, and_self]

theorem Ret.sansJournal_of_sansLog {r q : Ret} (h : r.sansLog = q.sansLog) : r.sansJournal = q.sansJournal :=
  congrArg (fun x : Ret => { x with journal := [], failed := 0 }) h

/-- Reconciling an entry touches the event log, the journal and the count of failed results (19 Table 19.6). -/
theorem State.reconcileOne_sansJournal (e : JEntry) (s : State) : (s.reconcileOne e).ret.sansJournal = s.ret.sansJournal := by
  unfold State.reconcileOne
  dsimp only
  split
  · split <;> rfl
  · rfl

/-- Reconciling steps GEN, clears LOST and keeps the rest of retention beside the log and the journal (19 R527). -/
theorem State.reconcile_sansJournal (s : State) :
    s.reconcile.ret.sansJournal = { s.ret with gen := (s.ret.gen + 1) % 65536, lost := false }.sansJournal :=
  congrArg (fun x : Ret => { x with gen := (x.gen + 1) % 65536 })
    (State.each_keeps (view := fun s => s.ret.sansJournal) State.reconcileOne_sansJournal s.ret.journal
      (s.onRet fun r => { r with journal := [], failed := 0, lost := false }))

/-- Retention lost: zeroed, with the numbers at their checkpoints plus 2²⁰ (19 R530). -/
theorem State.journalLost_sansLog (s : State) : s.journalLost.ret.sansLog =
    { streams := s.nvm.cpStream.map resumeLast, results := s.nvm.cpResult.map resumeLast, token := resumeLast s.nvm.cpToken,
      held := true, lost := true : Ret }.sansLog := rfl

/-! ## S0 -/

/-- What S0 begins with: device time initialised at a cold start, the hold-up charge, and the CRC of the SLB's parameters. -/
def State.beginS0 (r : S0Result) (s : State) : State :=
  let s := if s.start.warm then s else s.initTime
  (s.onSup fun u => { u with holdup := r.holdup }).onSlb fun b => { b with paramCrc := s.params.crc }

/-- S0 begins without a change of the start, the SLB's memory or the instant. -/
theorem State.beginS0_frame (r : S0Result) (s : State) :
    (s.beginS0 r).start = s.start ∧ (s.beginS0 r).nvm = s.nvm ∧ (s.beginS0 r).now = s.now := by
  have init : Moves [.clk] s s.initTime := State.initTime_moves (Moves.refl _ s) (List.Subset.refl _)
  unfold State.beginS0
  dsimp only
  split
  · exact ⟨rfl, rfl, rfl⟩
  · exact ⟨init.same .start (by decide), init.same .nvm (by decide), init.now⟩

/-- S0 while it is open: the counter decides first, then the SLB's self-test and the hold-up charge (04 R94, R108). -/
theorem exec_stageS0_open {t : Nat} {s : State} (hin : (s.at t).inTime 0) (r : S0Result) :
    exec (.stageS0 t r) s = .next (settle (
      let u := (s.at t).beginS0 r
      if !u.start.counted then u.countReason.1.toDoldrums u.countReason.2
      else if !r.selfTest then u.stageFail 0x10
      else if !r.holdup then u.stageFail 0x11
      else u.passStage 0)) := by
  rw [exec_stageS0]; unfold execStageS0 finish
  rw [stage_early hin (by decide)]
  rfl

/-- A failed self-test of the SLB fails S0 with cause 0x10 (04 R94). -/
theorem runs_stageS0_selfTest_fails {t : Nat} {r : S0Result} {s : State} (hin : (s.at t).inTime 0) (hcount : s.start.counted = true)
    (htest : r.selfTest = false) :
    Runs (.stageS0 t r) s fun v => v.start.holdAt = some (s.at t).now ∧ v.nvm.hist = (0x0010 :: s.nvm.hist).take 3 := by
  refine ⟨_, exec_stageS0_open hin r, ?_⟩
  obtain ⟨hstart, hnvm, hnow⟩ := State.beginS0_frame r (s.at t)
  rw [← at_nvm_hist s t]
  simp only [hstart, at_start, hcount, htest, Bool.not_true, Bool.not_false, Bool.false_eq_true, if_true, if_false]
  exact settle_stageFail hin (congrArg Start.stage hstart) hnow (congrArg Nvm.hist hnvm)

/-! ## DOLDRUMS -/

theorem State.flushOwed_same {p : Part} (hp : p ∉ [Part.start, Part.log, Part.ret]) (s : State) : p.Same s s.flushOwed :=
  (State.flushOwed_moves (Moves.refl _ s) (List.Subset.refl _)).same p hp

theorem State.loadNext_same {p : Part} (hp : p ∉ [Part.vrd]) (s : State) : p.Same s s.loadNext :=
  (State.loadNext_moves (Moves.refl _ s) (List.Subset.refl _)).same p hp

theorem State.evOpen_same {p : Part} (hp : p ∉ [Part.log, Part.ret]) (block : Nat) (name : String) (k d : Nat) (s : State) :
    p.Same s (s.evOpen block name k d) :=
  State.ev_same hp ..

/-- DOLDRUMS entered: the queues are open and the PSM is in Calm (04 R108, R117, R118). -/
theorem State.enterDoldrums_enters (reason : Nat) (s : State) :
    (s.enterDoldrums reason).sys.state = .doldrums ∧ (s.enterDoldrums reason).hq.opened = true ∧
      (s.enterDoldrums reason).psm.state = .calm := by
  refine ⟨?_, rfl, rfl⟩
  unfold State.enterDoldrums
  dsimp only
  simp only [onPsm_sys, onHq_sys]
  rw [show (State.evOpen ..).sys = _ from State.evOpen_same (p := .sys) (by decide) ..]
  exact (congrArg Sys.state (State.trigStop_same (p := .sys) (by decide) _)).trans (State.setState_state .doldrums false s)

/-- A start that leads to DOLDRUMS enters it: the logging of records and the resumed numbers change nothing of that. -/
theorem State.toDoldrums_enters (reason : Nat) (s : State) :
    (s.toDoldrums reason).sys.state = .doldrums ∧ (s.toDoldrums reason).hq.opened = true ∧
      (s.toDoldrums reason).psm.state = .calm := by
  have keeps : ∀ p : Part, p ∉ [Part.start, Part.log, Part.ret, Part.vrd] → p.Same (s.enterDoldrums reason) (s.toDoldrums reason) :=
    fun p hp => (State.flushOwed_same (fun h => hp (by simp_all)) _).trans (State.loadNext_same (fun h => hp (by simp_all)) _)
  have hsys := keeps .sys (by decide)
  have hhq := keeps .hq (by decide)
  have hpsm := keeps .psm (by decide)
  dsimp only [Part.Same] at hsys hhq hpsm
  rw [hsys, hhq, hpsm]
  exact State.enterDoldrums_enters reason s

/-- A start that finds the counter at 3 leads to DOLDRUMS (04 R108). -/
theorem runs_stageS0_uncounted {t : Nat} {s : State} (hin : (s.at t).inTime 0) (hcount : s.start.counted = false) (r : S0Result) :
    Runs (.stageS0 t r) s fun v => v.sys.state = .doldrums ∧ v.hq.opened = true ∧ v.psm.state = .calm := by
  refine ⟨_, exec_stageS0_open hin r, ?_⟩
  obtain ⟨hstart, -, -⟩ := State.beginS0_frame r (s.at t)
  simp only [hstart, at_start, hcount, Bool.not_false, if_true, settle_sys, settle_hq, settle_psm]
  exact State.toDoldrums_enters _ _

/-! ## S1 -/

/-- Firmware that passes its checks is taken and S2 is entered (04 R95). -/
theorem exec_stageS1_passes {t : Nat} {r : S1Result} {s : State} (hin : (s.at t).inTime 1) (hcrc : r.romCrc = true)
    (hsig : r.fwSignature = true) (hfloor : s.nvm.floor ≤ r.fwVersion) :
    exec (.stageS1 t r) s =
      .next (settle ((s.at t).onStart fun x => { x with fw := r.fwVersion, stage := 2, stageAt := (s.at t).now })) := by
  have hfresh : ¬ r.fwVersion < (s.at t).nvm.floor := by rw [at_nvm_floor]; omega
  rw [exec_stageS1]; unfold execStageS1 finish
  rw [stage_early hin (by decide)]
  simp only [hcrc, hsig, hfresh, Bool.not_true, Bool.false_eq_true, if_false]
  rfl

/-- S1 fails on the first of its checks that fails, and the firmware is not taken (04 R95). -/
theorem runs_stageS1_fails {t : Nat} {r : S1Result} {s : State} (hin : (s.at t).inTime 1)
    (hbad : r.romCrc = false ∨ r.fwSignature = false ∨ r.fwVersion < s.nvm.floor) :
    Runs (.stageS1 t r) s fun v => v.start.holdAt = some (s.at t).now ∧ v.start.stage = 1 ∧ v.start.fw = s.start.fw := by
  have fails : ∃ c, exec (.stageS1 t r) s = .next (settle ((s.at t).stageFail c)) := by
    rw [exec_stageS1]; unfold execStageS1 finish
    rw [stage_early hin (by decide), at_nvm_floor]
    cases hcrc : r.romCrc with
    | false => exact ⟨0x10, rfl⟩
    | true =>
      cases hsig : r.fwSignature with
      | false => exact ⟨0x11, rfl⟩
      | true =>
        have hold : r.fwVersion < s.nvm.floor := by simpa [hcrc, hsig] using hbad
        exact ⟨0x12, by simp only [hold, if_true]; rfl⟩
  obtain ⟨c, hexec⟩ := fails
  obtain ⟨hstage, hfw⟩ := stageFail_stage_fw c (s.at t)
  exact ⟨_, hexec, stageFail_holdAt c _, hstage.trans hin.stage_eq, hfw.trans (congrArg Start.fw (at_start s t))⟩

/-! ## S2 -/

/-- S2 loads LAST_OFF_PF at a cold start (02 R57). -/
def State.beginS2 (ok : Bool) (s : State) : State :=
  if s.start.warm then s else s.onSup fun u => { u with lastOffPf := ok && s.ret.cleanOff }

theorem State.beginS2_frame (ok : Bool) (s : State) : (s.beginS2 ok).ret = s.ret ∧ (s.beginS2 ok).nvm = s.nvm := by
  unfold State.beginS2; split <;> exact ⟨rfl, rfl⟩

/-- S2 while it is open: retention is reconciled or lost (04 R96). -/
theorem exec_stageS2_open {t : Nat} {s : State} (hin : (s.at t).inTime 2) (r : S2Result) :
    exec (.stageS2 t r) s = .next (settle (
      let u := (s.at t).beginS2 ((s.at t).retValid r)
      if (s.at t).retValid r then u.reconcile.flushOwed.passStage 2
      else
        let w := u.journalLost.onSys fun y => { y with internal := false }
        if r.faultAfterZero then w.flushOwed.stageFail 0x10 else w.flushOwed.passStage 2)) := by
  rw [exec_stageS2]; unfold execStageS2 finish
  rw [stage_early hin (by decide)]
  rfl

/-- Valid retention is kept with its numbers, and GEN steps (04 R96, 19 R527). -/
theorem runs_stageS2_valid {t : Nat} {r : S2Result} {s : State} (hin : (s.at t).inTime 2) (hvalid : (s.at t).retValid r = true) :
    Runs (.stageS2 t r) s fun v =>
      v.start.stage = 3 ∧ v.ret.gen = (s.ret.gen + 1) % 65536 ∧ v.ret.lost = false ∧ v.ret.streams = s.ret.streams ∧
      v.ret.results = s.ret.results ∧ v.ret.token = s.ret.token := by
  refine ⟨_, exec_stageS2_open hin r, ?_⟩
  simp only [hvalid, if_true]
  obtain ⟨hret, -⟩ := State.beginS2_frame true (s.at t)
  rw [at_ret] at hret
  have kept := (Ret.sansJournal_of_sansLog (State.flushOwed_sansLog _)).trans (State.reconcile_sansJournal ((s.at t).beginS2 true))
  rw [hret] at kept
  exact ⟨rfl, Ret.numbers_of_sansJournal kept⟩

/-- Invalid retention is zeroed, and the numbers resume at their checkpoints plus 2²⁰ (04 R96, 19 R530). -/
theorem runs_stageS2_lost {t : Nat} {r : S2Result} {s : State} (hin : (s.at t).inTime 2) (hvalid : (s.at t).retValid r = false)
    (hzero : r.faultAfterZero = false) :
    Runs (.stageS2 t r) s fun v =>
      v.start.stage = 3 ∧ v.ret.lost = true ∧ v.ret.journal = [] ∧ v.ret.streams = s.nvm.cpStream.map resumeLast ∧
      v.ret.results = s.nvm.cpResult.map resumeLast ∧ v.ret.token = resumeLast s.nvm.cpToken ∧ v.rtc.utc = 0 := by
  refine ⟨_, exec_stageS2_open hin r, ?_⟩
  simp only [hvalid, hzero, Bool.false_eq_true, if_false]
  obtain ⟨-, hnvm⟩ := State.beginS2_frame false (s.at t)
  rw [← at_nvm_cpStream s t, ← at_nvm_cpResult s t, ← at_nvm_cpToken s t, ← hnvm]
  generalize (s.at t).beginS2 false = u
  have kept := State.flushOwed_sansLog (u.journalLost.onSys fun y => { y with internal := false })
  have hrtc := State.flushOwed_same (p := .rtc) (by decide) (u.journalLost.onSys fun y => { y with internal := false })
  obtain ⟨hlost, hjournal, hstreams, hresults, htoken⟩ := Ret.numbers_of_sansLog (kept.trans u.journalLost_sansLog)
  exact ⟨rfl, hlost, hjournal, hstreams, hresults, htoken, congrArg Rtc.utc hrtc⟩

/-- Settles O17: one lemma for each way in which S0, S1 and S2 end. -/
theorem stagesS0ToS2PassAndFail : Obligations.StagesS0ToS2PassAndFail := by
  unfold Obligations.StagesS0ToS2PassAndFail
  refine ⟨runs_stageS0, ?selfTest, ?uncounted, ?verified, ?rejected, ?valid, ?lost⟩
  case selfTest => exact fun t r s hin hcount htest => runs_stageS0_selfTest_fails hin hcount htest
  case uncounted => exact fun t r s hin hcount => runs_stageS0_uncounted hin hcount r
  case verified => exact fun t r s hin hcrc hsig hfloor => exec_stageS1_passes hin hcrc hsig hfloor
  case rejected => exact fun t r s hin hbad => runs_stageS1_fails hin hbad
  case valid => exact fun t r s hin hvalid => runs_stageS2_valid hin hvalid
  case lost => exact fun t r s hin hvalid hzero => runs_stageS2_lost hin hvalid hzero

end Sys2Proof.Machine
end

section
/-! SUPPORT. The start stages S3 to S5: the halted units, the audit cores, and the sweep of the stacks (04 R97, R100, R102, R113;
11 R306). -/

namespace Sys2Proof.Machine

/-! ## S3 -/

/-- A weaker property of the next state. -/
theorem Runs.imp {c : Instr} {s : State} {p q : State → Prop} (h : Runs c s p) (k : ∀ v, p v → q v) : Runs c s q := by
  obtain ⟨v, hexec, hp⟩ := h
  exact ⟨v, hexec, k v hp⟩

theorem State.anyHalted_iff {s : State} : s.anyHalted = true ↔ s.dbg.halted.any id = true ∨ s.dbg.spHalted = true := by
  simp only [State.anyHalted, Bool.or_eq_true]

theorem State.anyHalted_of_running {s : State} (hcores : s.dbg.halted.any id = false) (hsp : s.dbg.spHalted = false) :
    s.anyHalted = false := by
  simp only [State.anyHalted, hcores, hsp, Bool.or_self]

@[simp] theorem at_anyHalted (t : Nat) (s : State) : (s.at t).anyHalted = s.anyHalted := by
  simp only [State.anyHalted, at_dbg]

/-- A halted unit fails S3, whatever the rows of Table 4.2 say (04 R113). -/
theorem runs_stageS3_halted {t : Nat} {s : State} (hin : (s.at t).inTime 3) (hhalt : s.anyHalted = true) (r : S3Result) :
    Runs (.stageS3 t r) s fun v => v.start.holdAt = some (s.at t).now ∧ v.nvm.hist = (0x0303 :: s.nvm.hist).take 3 := by
  refine runs_finish (exec_stageS3 ..) ?_
  rw [stage_early hin (by decide), ← at_nvm_hist s t]
  simp only [at_anyHalted, hhalt, if_true]
  exact settle_stageFail hin rfl rfl rfl

/-! ## The states of the audit cores -/

/-- A change of a core that leaves its state leaves the states of all cores. -/
theorem State.onCore_state_of_kept {f : ACore → ACore} (hf : ∀ c, (f c).state = c.state) (n k : Nat) (s : State) :
    ((s.onCore n f).acore k).state = (s.acore k).state := by
  unfold State.acore State.onCore
  rw [onAud_aud]
  by_cases hk : k = n
  · subst hk
    by_cases hlen : k < s.aud.cores.length
    · rw [getN_modN_self _ _ _ hlen, hf]
    · unfold getN
      rw [List.getD_eq_getElem?_getD, List.getD_eq_getElem?_getD, List.getElem?_eq_none (by rw [modN_length]; omega),
        List.getElem?_eq_none (by omega)]
  · rw [getN_modN_ne _ _ _ _ hk]

/-- A core that takes a state, and the others, which keep theirs. -/
theorem State.onCore_state {f : ACore → ACore} {st : CoreSt} (hf : ∀ c, (f c).state = st) {n : Nat} {s : State}
    (hn : n < s.aud.cores.length) (k : Nat) :
    ((s.onCore n f).acore k).state = if k = n then st else (s.acore k).state := by
  unfold State.acore State.onCore
  rw [onAud_aud]
  split
  case isTrue hk => rw [hk, getN_modN_self _ _ _ hn, hf]
  case isFalse hk => rw [getN_modN_ne _ _ _ _ hk]

theorem State.acore_of_aud {s u : State} (h : u.aud = s.aud) (k : Nat) : u.acore k = s.acore k := by
  unfold State.acore; rw [h]

theorem State.loseCopies_acore (p : PCopy → Bool) (k : Nat) (s : State) : (s.loseCopies p).acore k = s.acore k := by
  have free : ∀ ks, (s.freeSlots ks).aud = s.aud := fun ks =>
    (State.freeSlots_moves ks (Moves.refl _ s) (List.Subset.refl _)).same .aud (by decide)
  unfold State.loseCopies State.acore
  rw [onAud_aud, free]

/-- The status entry of a core leaves the states of the cores. -/
theorem State.statEntry_state (core k : Nat) (e : StatEntry) (s : State) :
    ((s.statEntry core e).acore k).state = (s.acore k).state :=
  State.onCore_state_of_kept (f := fun c => { c with last := e, done := satInc c.done }) (fun _ => rfl) core k s

/-- A core as a fence leaves it, before the pass that it runs ends. -/
def ACore.fenceBy (cause : Nat) (c : ACore) : ACore :=
  { c with state := .fenced, cause := cause, run := none, bistDue := false, suspect := false, readmit := false, prob := 0 }

/-- The pass that a fenced core ran ends FENCED (08 R233), a rerun without outcome (10 R279). -/
def State.endFencedRun (core : Nat) (r : Run) (s : State) : State :=
  let s := s.statEntry core { job := r.job, index := r.index, status := 5, core := core, pass := r.pass }
  if r.pass = 3 then s
  else
    let s := (s.onJob r.job fun j =>
      { j with descs := modN j.descs r.index (JobDesc.setPass r.pass (.ended core 0 0 5)) }).onJob r.job (Job.fail 5 false)
    s.dropCopies r.job r.index

theorem State.endFencedRun_state (core k : Nat) (r : Run) (s : State) :
    ((s.endFencedRun core r).acore k).state = (s.acore k).state := by
  have entry := State.statEntry_state core k { job := r.job, index := r.index, status := 5, core := core, pass := r.pass } s
  unfold State.endFencedRun
  dsimp only
  split
  · exact entry
  · exact (congrArg ACore.state (State.loseCopies_acore _ k _)).trans entry

/-- A fence step by step. -/
theorem State.fence_eq (core cause : Nat) (s : State) : s.fence core cause =
    let u := ((s.onCore core (ACore.fenceBy cause)).loseCopies (·.core == core)).with (s.acore core).run (State.endFencedRun core)
    (if cause = 3 then u.arbFenced core else u).ev 0x0501 3 core cause := by
  unfold State.fence
  rfl

theorem State.ev_acore (c k b d n : Nat) (s : State) : (s.ev c k b d).acore n = s.acore n :=
  State.acore_of_aud (State.ev_same (p := .aud) (by decide) c k b d s) n

/-- A fence fences its core, and leaves the state of every other one (08 R238). -/
theorem State.fence_state {core : Nat} {s : State} (hcore : core < s.aud.cores.length) (cause k : Nat) :
    ((s.fence core cause).acore k).state = if k = core then .fenced else (s.acore k).state := by
  have arb : ∀ u : State, (if cause = 3 then u.arbFenced core else u).acore k = u.acore k := fun u =>
    State.acore_of_aud ((moves_ite (State.arbFenced_moves core (Moves.refl _ u) (List.Subset.refl _)) (Moves.refl _ u)).same .aud
      (by decide)) k
  have ended : ∀ (o : Option Run) (u : State), ((u.with o (State.endFencedRun core)).acore k).state = (u.acore k).state := by
    intro o u
    cases o with
    | none => rfl
    | some r => exact State.endFencedRun_state core k r u
  rw [State.fence_eq, State.ev_acore, arb, ended, State.loseCopies_acore]
  exact State.onCore_state (f := ACore.fenceBy cause) (fun _ => rfl) hcore k

/-- A core is admitted with its local memory zeroed (08 R235). -/
def State.admitCore (n : Nat) (s : State) : State := (s.zeroLocal n).onCore n fun c => { c with state := .admitted }

theorem State.admitCore_moves (n : Nat) (s : State) : Moves [.aud, .mem, .poison] s (s.admitCore n) :=
  State.onCore_moves _ _ (State.zeroLocal_moves _ (Moves.refl _ s) (by decide)) (by decide)

theorem State.admitCore_state {n : Nat} {s : State} (hn : n < s.aud.cores.length) (k : Nat) :
    ((s.admitCore n).acore k).state = if k = n then .admitted else (s.acore k).state :=
  State.onCore_state (f := fun c => { c with state := .admitted }) (s := s.zeroLocal n) (fun _ => rfl) hn k

/-- An operation on one core gives it a state, leaves the others theirs, and keeps the fixed lengths. -/
def SetsCore (st : CoreSt) (f : Nat → State → State) : Prop :=
  ∀ n s, n < 16 → s.shaped → (f n s).shaped ∧ ∀ k, ((f n s).acore k).state = if k = n then st else (s.acore k).state

theorem setsCore_fence (cause : Nat) : SetsCore .fenced fun n s => s.fence n cause := fun n s hn hs =>
  ⟨(State.fence_moves n cause (Moves.refl _ s) (List.Subset.refl _)).shaped hs, State.fence_state (hs.aud.symm ▸ hn) cause⟩

theorem setsCore_admit : SetsCore .admitted State.admitCore := fun n s hn hs =>
  ⟨(State.admitCore_moves n s).shaped hs, State.admitCore_state (hs.aud.symm ▸ hn)⟩

/-- An operation over a list of cores gives those cores the state, and leaves the others theirs. -/
theorem SetsCore.each {st : CoreSt} {f : Nat → State → State} (hf : SetsCore st f) {l : List Nat} (hl : ∀ n ∈ l, n < 16)
    {s : State} (hs : s.shaped) :
    (s.each l f).shaped ∧ ∀ k, ((s.each l f).acore k).state = if k ∈ l then st else (s.acore k).state := by
  induction l generalizing s with
  | nil => exact ⟨hs, fun k => by rw [if_neg List.not_mem_nil]; rfl⟩
  | cons n l ih =>
    obtain ⟨hshaped, hstate⟩ := hf n s (hl n List.mem_cons_self) hs
    obtain ⟨hshaped', hstate'⟩ := ih (fun k hk => hl k (List.mem_cons_of_mem n hk)) hshaped
    refine ⟨hshaped', fun k => (hstate' k).trans ?_⟩
    rw [hstate k]
    by_cases hk : k ∈ l
    · rw [if_pos hk, if_pos (List.mem_cons_of_mem n hk)]
    · simp only [hk, List.mem_cons, or_false, if_false]

/-! ## S4 -/

/-- The instant of a command keeps the fixed lengths. -/
theorem at_shaped (t : Nat) {s : State} (hs : s.shaped) : (s.at t).shaped := by
  unfold State.at
  dsimp only
  split
  · exact { hs with
      clk := by unfold Clk.advance; dsimp only; split <;> exact hs.clk
      psm := by simpa [Psm.advance] using hs.psm }
  · exact { hs with }

/-- The cores that fail their BIST (04 R100). -/
def failingCores (r : S4Result) : List Nat := (List.range 16).filter fun n => bit r.coreFail n

/-- The cores that pass it. -/
def passingCores (r : S4Result) : List Nat := (List.range 16).filter fun n => !bit r.coreFail n

theorem mem_failingCores {r : S4Result} {n : Nat} : n ∈ failingCores r ↔ n < 16 ∧ bit r.coreFail n = true := by
  simp only [failingCores, List.mem_filter, List.mem_range]

theorem mem_passingCores {r : S4Result} {n : Nat} : n ∈ passingCores r ↔ n < 16 ∧ bit r.coreFail n = false := by
  simp only [passingCores, List.mem_filter, List.mem_range, Bool.not_eq_true']

/-- What S4 finds of everything but the cores (04 R99, R112). -/
structure State.ChecksPass (r : S4Result) (s : State) : Prop where
  checks : ∀ i < 10, bit r.checks i = true
  sto : getN s.slb.outSeen 0 = false
  brake : getN s.slb.outSeen 1 = false
  supply : s.slb.supplyTrip = false

theorem State.ChecksPass.at {r : S4Result} {s : State} (h : s.ChecksPass r) (t : Nat) : (s.at t).ChecksPass r :=
  ⟨h.checks, (at_slb_outSeen s t).symm ▸ h.sto, (at_slb_outSeen s t).symm ▸ h.brake, (at_slb_supplyTrip s t).symm ▸ h.supply⟩

theorem State.ChecksPass.s4Checks_eq {r : S4Result} {s : State} (h : s.ChecksPass r) : s.s4Checks r = List.replicate 10 true := by
  have pass : ∀ i ∈ List.range 10, (bit r.checks i && (if i = 3 then !(getN s.slb.outSeen 0) else
      if i = 4 then !(getN s.slb.outSeen 1) else if i = 9 then !s.slb.supplyTrip else true)) = true := by
    intro i hi
    rw [h.checks i (List.mem_range.mp hi), h.sto, h.brake, h.supply]
    simp only [Bool.not_false, ite_self, Bool.and_self]
  exact List.map_congr_left pass

/-- With every check passed, only three or more failing cores fail S4, with cause 0x11 (04 R100). -/
theorem s4Fails_of_checks (bad : Nat) : s4Fails (List.replicate 10 true) bad = if 3 ≤ bad then [0x11] else [] := by
  unfold s4Fails
  split
  case isTrue => rfl
  case isFalse => rfl

/-- The results of S4 recorded, and its failing cores fenced. -/
def State.fenceFailing (r : S4Result) (s : State) : State :=
  (s.onStart fun x => { x with coreFail := r.coreFail % 65536, checkOk := maskOf (s.s4Checks r) }).each (failingCores r)
    fun n s => s.fence n 1

/-- Beside the results recorded, fencing changes the cores, the Vane and the log. -/
theorem State.fenceFailing_moves (r : S4Result) (s : State) :
    Moves [.aud, .vane, .log, .ret] (s.onStart fun x => { x with coreFail := r.coreFail % 65536, checkOk := maskOf (s.s4Checks r) })
      (s.fenceFailing r) :=
  moves_each (Moves.refl _ _) fun n _ hv => State.fence_moves n 1 hv (List.Subset.refl _)

theorem State.fenceFailing_state {s : State} (hs : s.shaped) (r : S4Result) :
    (s.fenceFailing r).shaped ∧
      ∀ k, ((s.fenceFailing r).acore k).state = if k ∈ failingCores r then .fenced else (s.acore k).state :=
  (setsCore_fence 1).each (fun _ hn => (mem_failingCores.mp hn).1)
    ((moves_onStart (w := [.start]) (Moves.refl _ s) (List.Subset.refl _)).shaped hs)

/-- S4 while it is open, with no unit halted and every check passed: the cores alone decide (04 R100). -/
theorem exec_stageS4_checked {t : Nat} {r : S4Result} {s : State} (hin : (s.at t).inTime 4) (hpass : s.ChecksPass r)
    (hrun : s.anyHalted = false) :
    exec (.stageS4 t r) s = .next (settle (
      if 3 ≤ (failingCores r).length then ((s.at t).fenceFailing r).stageFail 0x11
      else (((s.at t).fenceFailing r).each (passingCores r) State.admitCore).passStage 4)) := by
  have cause : (s4Fails ((s.at t).s4Checks r) (failingCores r).length).head? =
      if 3 ≤ (failingCores r).length then some 0x11 else none := by
    rw [(hpass.at t).s4Checks_eq, s4Fails_of_checks]
    split <;> rfl
  rw [exec_stageS4]; unfold execStageS4 finish
  rw [stage_early hin (by decide), at_anyHalted, hrun]
  simp only [Bool.false_eq_true, if_false]
  rw [show (List.range 16).filter (fun n => bit r.coreFail n) = failingCores r from rfl, cause]
  by_cases hmany : 3 ≤ (failingCores r).length
  · simp only [hmany, if_true]; rfl
  · simp only [hmany, if_false]; rfl

/-- Up to two failing cores are fenced, the others are admitted, and S5 is entered (04 R100). -/
theorem runs_stageS4_passes {t : Nat} {r : S4Result} {s : State} (hin : (s.at t).inTime 4) (hpass : s.ChecksPass r)
    (hfew : (failingCores r).length < 3) (hrun : s.anyHalted = false) (hs : s.shaped) :
    Runs (.stageS4 t r) s fun v =>
      v.start.stage = 5 ∧ ∀ n < 16, (getN v.aud.cores n).state = if bit r.coreFail n then .fenced else .admitted := by
  refine ⟨_, exec_stageS4_checked hin hpass hrun, ?_⟩
  rw [if_neg (by omega)]
  obtain ⟨hshaped, hfenced⟩ := State.fenceFailing_state (at_shaped t hs) r
  obtain ⟨-, hadmitted⟩ := setsCore_admit.each (fun _ hn => (mem_passingCores.mp hn).1) hshaped
  refine ⟨rfl, fun n hn => (hadmitted n).trans ?_⟩
  rw [hfenced n]
  simp only [mem_failingCores, mem_passingCores, hn, true_and]
  cases bit r.coreFail n <;> rfl

/-- Three or more failing cores fail S4 with cause 0x11, and are fenced too (04 R100). -/
theorem runs_stageS4_fails {t : Nat} {r : S4Result} {s : State} (hin : (s.at t).inTime 4) (hpass : s.ChecksPass r)
    (hmany : 3 ≤ (failingCores r).length) (hrun : s.anyHalted = false) (hs : s.shaped) :
    Runs (.stageS4 t r) s fun v =>
      v.start.holdAt = some (s.at t).now ∧ v.nvm.hist = (0x0411 :: s.nvm.hist).take 3 ∧
      ∀ n < 16, bit r.coreFail n = true → (getN v.aud.cores n).state = .fenced := by
  refine ⟨_, exec_stageS4_checked hin hpass hrun, ?_⟩
  rw [if_pos hmany, ← at_nvm_hist s t]
  have fenced := State.fenceFailing_moves r (s.at t)
  have hstart := fenced.same .start (by decide)
  have hnvm := fenced.same .nvm (by decide)
  obtain ⟨hhold, hhist⟩ := settle_stageFail (c := 0x11) hin (congrArg Start.stage hstart :) fenced.now (congrArg Nvm.hist hnvm :)
  refine ⟨hhold, hhist, fun n hn hbad => ?_⟩
  have hkept : (((s.at t).fenceFailing r).stageFail 0x11).aud = ((s.at t).fenceFailing r).aud :=
    (State.stageFail_moves 0x11 (Moves.refl _ _) (List.Subset.refl _)).same .aud (by decide)
  obtain ⟨-, hstate⟩ := State.fenceFailing_state (at_shaped t hs) r
  rw [settle_aud, hkept]
  exact (hstate n).trans (if_pos (mem_failingCores.mpr ⟨hn, hbad⟩))

/-! ## S5 -/

/-- The sweep of a cold start leaves 0 in every byte of both stacks and no other byte changed (04 R102, 11 R306). -/
theorem State.sweep_cold_mem {s : State} (hcold : s.start.warm = false) (a : Nat) :
    memGet s.sweep.mem a = if 0x1000000000 ≤ a ∧ a < 0x1800000000 then 0 else memGet s.mem a := by
  have hmem : s.sweep.mem = memErase (memErase s.mem 0x1000000000 0x80000000) 0x1080000000 0x780000000 := by
    unfold State.sweep; rw [hcold]; rfl
  rw [hmem, memGet_memErase, memGet_memErase]
  split
  · rw [if_pos (by omega)]
  · split
    · rw [if_pos (by omega)]
    · rw [if_neg (by omega)]

/-- S5 with its tests passed sweeps the stacks and enters S6 (04 R102). -/
theorem exec_stageS5_passes {t : Nat} {r : S5Result} {s : State} (hin : (s.at t).inTime 5) (hout : s.outputsSound)
    (htrained : r.trained = true) (htested : r.tested = true) (hswept : r.swept = true) (hbeu : r.beuOk = true) :
    exec (.stageS5 t r) s = .next (settle ((s.at t).sweep.passStage 5)) := by
  rw [exec_stageS5]; unfold execStageS5 finish
  rw [stage_open hin (at_outputsSound hout)]
  simp only [htrained, htested, hswept, hbeu, Bool.not_true, Bool.false_eq_true, if_false]

/-- Settles O18: S3 under a halt, S4 by the number of failing cores, and the memory that the sweep leaves. -/
theorem stagesS3ToS5PassAndFail : Obligations.StagesS3ToS5PassAndFail := by
  unfold Obligations.StagesS3ToS5PassAndFail
  refine ⟨?s3, ?halted, ?few, ?many, ?s5⟩
  case s3 =>
    intro t r s hin hrows hcores hsp
    exact (runs_stageS3 t r s hin hrows hcores hsp).imp fun v ⟨hstage, hbits, hcvu, hlanes⟩ => ⟨hstage, hlanes, hbits, hcvu⟩
  case halted => exact fun t r s hin hhalt => runs_stageS3_halted hin (State.anyHalted_iff.mpr hhalt) r
  case few =>
    intro t r s hin hchecks hsto hbrake hsupply hfew hcores hsp hs
    exact runs_stageS4_passes hin ⟨hchecks, hsto, hbrake, hsupply⟩ hfew (State.anyHalted_of_running hcores hsp) hs
  case many =>
    intro t r s hin hchecks hsto hbrake hsupply hmany hcores hsp hs
    exact runs_stageS4_fails hin ⟨hchecks, hsto, hbrake, hsupply⟩ hmany (State.anyHalted_of_running hcores hsp) hs
  case s5 =>
    intro t r s hin hout hcold htrained htested hswept hbeu
    obtain ⟨v, hexec, hstage, -, hstks⟩ := runs_stageS5 t r s hin hout htrained htested hswept hbeu
    refine ⟨v, hexec, hstage, hstks, fun a => ?_⟩
    rw [exec_stageS5_passes hin hout htrained htested hswept hbeu] at hexec
    cases hexec
    rw [← at_mem s t]
    exact State.sweep_cold_mem ((at_start s t).symm ▸ hcold) a

end Sys2Proof.Machine
end

section
/-! SUPPORT. The start stages S6 to S8: the admission, the handover to the SLB, and what entering the state opens (04 R103 to R106). -/

namespace Sys2Proof.Machine

/-! ## S6 -/

/-- Settling what a cut-short change left keeps the slot roles and whether an image is admitted (05 R155). -/
theorem State.recoverEntry_cfg (s : State) :
    s.recoverEntry.cfg.role = s.cfg.role ∧ s.recoverEntry.cfg.admitted = s.cfg.admitted := by
  unfold State.recoverEntry
  dsimp only
  split <;> exact ⟨rfl, rfl⟩

theorem State.roleLost_cfg (s : State) : s.roleLost.cfg = s.cfg :=
  (State.roleLost_moves (Moves.refl _ s) (List.Subset.refl _)).same .cfg (by decide)

/-- The state in which S6 admits the active slot: what a cut-short change left is settled (05 R155). -/
def State.settledSlots (s : State) : State := s.recoverEntry.roleLost

theorem State.settledSlots_cfg (s : State) :
    s.settledSlots.activeSlot = s.activeSlot ∧ s.settledSlots.cfg.admitted = s.cfg.admitted := by
  obtain ⟨hrole, hadmitted⟩ := s.recoverEntry_cfg
  unfold State.settledSlots State.activeSlot
  rw [State.roleLost_cfg, hrole, hadmitted]
  exact ⟨rfl, rfl⟩

/-- The result of the admission recorded as the start's own, with the identities of both slots (05 R140). -/
def State.recordAdmission (c : Nat × Nat) (s : State) : State :=
  (s.onCfg fun x => { x with result := c.1, subject := c.2, atStart := true }).loadIds

/-- What S6 does with the result of the admission: an admitted image is put to work, else the default plan (04 R103). -/
def State.concludeS6 (c : Nat × Nat) (s : State) : State :=
  let s := s.recordAdmission c
  (if c.1 = 0 then s.loadImage else s.defaultPlan).loadUnbound

/-- S6 with the image store readable and the stacks writable (04 R103). -/
theorem exec_stageS6_passes {t : Nat} {r : S6Result} {s : State} (hin : (s.at t).inTime 6) (hout : s.outputsSound)
    (hstore : r.storeReadable = true) (hweights : r.weightsWritable = true) :
    exec (.stageS6 t r) s = .next (settle
      (((s.at t).settledSlots.concludeS6 ((s.at t).settledSlots.admitSlot s.activeSlot)).passStage 6)) := by
  have hslot : (s.at t).settledSlots.activeSlot = s.activeSlot :=
    (s.at t).settledSlots_cfg.1.trans (by unfold State.activeSlot; rw [at_cfg])
  rw [exec_stageS6]; unfold execStageS6 finish
  rw [stage_open hin (at_outputsSound hout)]
  simp only [hstore, hweights, Bool.not_true, Bool.false_eq_true, and_false, if_false]
  rw [show (s.at t).recoverEntry.roleLost = (s.at t).settledSlots from rfl, hslot]
  rfl

/-- An image put to work is admitted, and what was recorded of its admission stays (04 R103). -/
theorem State.loadImage_cfg (s : State) : ∃ i w, s.loadImage.cfg = { s.cfg with admitted := true, img := i, work := w } := by
  have trip : ∀ u : State, (u.ringTrip 0).cfg = u.cfg := fun u =>
    (State.ringTrip_moves 0 (Moves.refl _ u) (List.Subset.refl _)).same .cfg (by decide)
  unfold State.loadImage
  dsimp only
  split
  · exact ⟨_, _, rfl⟩
  · rw [trip]; exact ⟨_, _, rfl⟩

/-- S6 keeps the result of the admission, and admits the image exactly on the result 0 (04 R103). -/
theorem State.concludeS6_cfg {s : State} (hnone : s.cfg.admitted = false) (c : Nat × Nat) :
    (s.concludeS6 c).cfg.result = c.1 ∧ (s.concludeS6 c).cfg.subject = c.2 ∧ (s.concludeS6 c).cfg.atStart = true ∧
      (s.concludeS6 c).cfg.admitted = decide (c.1 = 0) := by
  unfold State.concludeS6 State.loadUnbound
  rw [onHq_cfg]
  split
  case isTrue hok =>
    obtain ⟨i, w, hcfg⟩ := (s.recordAdmission c).loadImage_cfg
    rw [hcfg]
    exact ⟨rfl, rfl, rfl, (decide_eq_true hok).symm⟩
  case isFalse hbad => exact ⟨rfl, rfl, rfl, hnone.trans (decide_eq_false hbad).symm⟩

/-- S6 records the result of the admission of the active slot, and admits the image exactly on the result 0 (04 R103). -/
theorem runs_stageS6_admits {t : Nat} {r : S6Result} {s : State} (hin : (s.at t).inTime 6) (hout : s.outputsSound)
    (hstore : r.storeReadable = true) (hweights : r.weightsWritable = true) (hnone : s.cfg.admitted = false) :
    Runs (.stageS6 t r) s fun v =>
      let c := (s.at t).settledSlots.admitSlot s.activeSlot
      v.start.stage = 7 ∧ v.cfg.result = c.1 ∧ v.cfg.subject = c.2 ∧ v.cfg.atStart = true ∧ v.cfg.admitted = decide (c.1 = 0) := by
  rw [← at_cfg s t, ← (s.at t).settledSlots_cfg.2] at hnone
  refine ⟨_, exec_stageS6_passes hin hout hstore hweights, rfl, ?_⟩
  simp only [settle_cfg, State.passStage, onStart_cfg]
  exact State.concludeS6_cfg hnone _

/-! ## S7 -/

/-- With the SLB's parameters agreed and no requirement missing, S7 completes (04 R104). -/
theorem exec_stageS7_completes {t : Nat} {r : S7Result} {s u : State} (hin : (s.at t).inTime 7) (hout : s.outputsSound)
    (hshake : r.handshake = true) (hlinks : r.missingLink = none) (hptp : r.ptpRequired = false)
    (hparams : (s.at t).slbParams = some u) (hring : ¬ (u.cfg.admitted = true ∧ bit u.ring.flags 0 = true ∧ u.xwl.up = false)) :
    exec (.stageS7 t r) s = .next (settle (u.onSlb fun b => { b with paramCrc := u.params.crc }).endS7) := by
  rw [exec_stageS7]; unfold execStageS7 finish
  rw [stage_open hin (at_outputsSound hout)]
  have hring' : ¬ ((u.onSlb fun b => { b with paramCrc := u.params.crc }).cfg.admitted = true ∧
      bit (u.onSlb fun b => { b with paramCrc := u.params.crc }).ring.flags 0 = true ∧
      (!(u.onSlb fun b => { b with paramCrc := u.params.crc }).xwl.up) = true) := by
    rw [Bool.not_eq_true']; exact hring
  simp only [hshake, hptp, hparams, hlinks, Bool.not_true, Bool.false_eq_true, false_and, if_false]
  rw [if_neg hring']

/-- Without an image the parameters of the SLB stand as they are (04 R104). -/
theorem State.slbParams_of_no_image {s : State} (hnone : s.cfg.admitted = false) : s.slbParams = some s := by
  simp [State.slbParams, hnone]

theorem State.unlockHeld_of_none {s : State} (hheld : s.dbg.held = none) : s.unlockHeld = s := by
  unfold State.unlockHeld; rw [hheld]

/-- S7 has completed: device time is slewed from here on, and triggers run (03 R63, R70). -/
def State.doneS7 (s : State) : State :=
  (s.onStart fun x => { x with s7Done := true }).onClk fun c => { c with trigs := c.trigs.map (Trig.arm c.dev) }

/-- The end of S7 where no unlock request is held: the state of S8 is sampled (04 R105). -/
theorem State.endS7_of_none_held {s : State} (hheld : s.dbg.held = none) :
    s.endS7 = (s.doneS7.onStart fun x => { x with dest := s.doneS7.target }).passStage 7 :=
  congrArg (fun u : State => (u.onStart fun x => { x with dest := u.target }).passStage 7)
    (State.unlockHeld_of_none (s := s.doneS7) hheld)

theorem State.target_of_no_image {s : State} (hnone : s.cfg.admitted = false) : s.target = some .commission :=
  if_pos (.inr (by rw [hnone]; rfl))

/-- Without an image S7 leads to COMMISSION (04 R104, R105). -/
theorem runs_stageS7_no_image {t : Nat} {r : S7Result} {s : State} (hin : (s.at t).inTime 7) (hout : s.outputsSound)
    (hshake : r.handshake = true) (hnone : s.cfg.admitted = false) (hlinks : r.missingLink = none) (hptp : r.ptpRequired = false)
    (hheld : s.dbg.held = none) :
    Runs (.stageS7 t r) s fun v =>
      v.start.stage = 8 ∧ v.start.s7Done = true ∧ v.start.dest = some .commission ∧
      v.slb.paramCrc = (s.at t).params.crc ∧ v.clk.trigs = s.clk.trigs.map (Trig.arm (s.at t).dev) := by
  rw [← at_cfg s t] at hnone
  rw [← at_dbg s t] at hheld
  rw [← at_clk_trigs s t]
  refine ⟨_, exec_stageS7_completes hin hout hshake hlinks hptp (State.slbParams_of_no_image hnone)
    (fun ⟨hadmitted, _⟩ => Bool.false_ne_true (hnone.symm.trans hadmitted)), ?_⟩
  rw [State.endS7_of_none_held (s := (s.at t).onSlb _) hheld]
  exact ⟨rfl, rfl, State.target_of_no_image (s := ((s.at t).onSlb _).doneS7) hnone, rfl, rfl⟩

/-- Without the handshake S7 fails with cause 0x10 (04 R104). -/
theorem runs_stageS7_no_handshake {t : Nat} {r : S7Result} {s : State} (hin : (s.at t).inTime 7) (hout : s.outputsSound)
    (hshake : r.handshake = false) :
    Runs (.stageS7 t r) s fun v => v.start.holdAt = some (s.at t).now ∧ v.nvm.hist = (0x0710 :: s.nvm.hist).take 3 := by
  refine runs_finish (exec_stageS7 ..) ?_
  rw [stage_open hin (at_outputsSound hout), ← at_nvm_hist s t]
  simp only [hshake, Bool.not_false, if_true]
  exact settle_stageFail hin rfl rfl rfl

/-! ## S8 -/

theorem State.msiPost_opened (q : Nat) (s : State) : (s.msiPost q).hq.opened = s.hq.opened := by
  unfold State.msiPost State.msiDue
  dsimp only
  split <;> rfl

theorem State.cqWrite_opened (q : Nat) (e : Bytes) (s : State) : (s.cqWrite q e).hq.opened = s.hq.opened :=
  State.msiPost_opened q _

/-- Posting what waits on a queue leaves the host queues open (16 R453). -/
theorem State.cqDrainN_opened (n q : Nat) (s : State) : (s.cqDrainN n q).hq.opened = s.hq.opened := by
  induction n generalizing s with
  | zero => rfl
  | succ n ih =>
    have jCloseIf : ∀ (b : Bool) (k : Nat) (u : State), (if b then u.jClose jResult q k else u).hq.opened = u.hq.opened :=
      fun b k u => by cases b <;> rfl
    have cqWriteIf : ∀ (b : Bool) (e : Bytes) (u : State), (if b then u.cqWrite q e else u).hq.opened = u.hq.opened :=
      fun b e u => by
        cases b
        · rfl
        · exact State.cqWrite_opened q e u
    unfold State.cqDrainN
    split
    case h_1 => rfl
    case h_2 =>
      split
      case isTrue => rfl
      case isFalse =>
        split
        case isTrue => rfl
        case isFalse => rw [ih, jCloseIf, cqWriteIf]; rfl

/-- A failed result that a queue recovers leaves the host queues open (12 R350). -/
theorem State.recoverOne_opened (e : JEntry) (s : State) : (s.recoverOne e).hq.opened = s.hq.opened := by
  unfold State.recoverOne
  dsimp only
  split <;> rfl

/-- The host queues open (04 R118, 12 R344). -/
theorem State.openQueues_opened (s : State) : s.openQueues.hq.opened = true := by
  have drained : ∀ (l : List Nat) (u : State), (u.each l fun q s => s.cqDrain q).hq.opened = u.hq.opened :=
    State.each_keeps (view := fun s => s.hq.opened) fun q u => State.cqDrainN_opened (u.hqueue q).recov.length q u
  have recovered : ∀ (l : List JEntry) (u : State), (u.each l State.recoverOne).hq.opened = u.hq.opened :=
    State.each_keeps (view := fun s => s.hq.opened) State.recoverOne_opened
  unfold State.openQueues
  dsimp only
  rw [drained, recovered]
  exact congrArg Hq.opened (State.loadNext_same (p := .hq) (by decide) _)

theorem State.setState_sansLog (dest : St) (a : Bool) (s : State) : (s.setState dest a).ret.sansLog = s.ret.sansLog := by
  have wakes : ∀ u : State, u.wake.ret = u.ret := fun u => wake_same (p := .ret) (by decide) u
  have revokes : ∀ u : State, (u.revoke 0).ret = u.ret := fun u =>
    (State.revoke_moves 0 (Moves.refl _ u) (List.Subset.refl _)).same .ret (by decide)
  unfold State.setState
  split
  · rfl
  · dsimp only
    rw [wakes]
    split <;> split <;> simp only [revokes, onVrd_ret, State.ev_sansLog, onSys_ret]

/-- S8 up to the entry of the state: queues, numbers, streams and deadlines begin, and CLEAN_OFF is cleared. -/
def State.openS8 (s : State) : State :=
  (s.openQueues.drawSeqs.startStreams.startClocks.fguReset 1).onRet fun r => { r with cleanOff := false }

/-- S8 from there: the state is entered, for DEGRADED where cores are fenced, and the start is over (04 R105, R106). -/
def State.takeState (dest : St) (s : State) : State :=
  let s := (s.setState dest true).startTokens
  let s := if dest = .run ∧ s.fencedCount ≠ 0 then s.toDegraded false else s
  let s := s.onStart fun x => { x with stage := 0xF, ackPending := true, durMs := min ((s.now - x.s0At) / ms) 65535 }
  s.psmChoose

theorem State.enterS8_eq (dest : St) (s : State) : s.enterS8 dest = s.openS8.takeState dest := rfl

theorem State.openS8_opened (s : State) : s.openS8.hq.opened = true := by
  have begun : Moves [.free, .sml, .fiu, .tsu, .psm, .fgu, .ret] s.openQueues s.openS8 :=
    moves_onRet (State.fguReset_moves 1 (State.startClocks_moves (State.startStreams_moves (State.drawSeqs_moves (Moves.refl _ _)
      (by decide)) (by decide)) (by decide)) (by decide)) (by decide)
  exact (congrArg Hq.opened (begun.same .hq (by decide))).trans s.openQueues_opened

theorem State.takeState_moves (dest : St) (s : State) :
    Moves [.sys, .vrd, .sml, .psm, .log, .ret, .start] s (s.takeState dest) := by
  have entered : Moves [.sys, .vrd, .sml, .psm, .log, .ret, .start] s (s.setState dest true).startTokens :=
    State.startTokens_moves (State.setState_moves dest true (Moves.refl _ s) (by decide)) (by decide)
  exact State.psmChoose_moves (moves_onStart (moves_ite (State.toDegraded_moves false entered (by decide)) entered) (by decide))
    (by decide)

/-- Entering the state leaves what retention holds beside its log. -/
theorem State.takeState_sansLog (dest : St) (s : State) : (s.takeState dest).ret.sansLog = s.ret.sansLog := by
  have chosen : ∀ u : State, u.psmChoose.ret = u.ret := fun u =>
    (State.psmChoose_moves (Moves.refl _ u) (List.Subset.refl _)).same .ret (by decide)
  have tokens : ∀ u : State, u.startTokens.ret = u.ret := fun u =>
    (State.startTokens_moves (Moves.refl _ u) (List.Subset.refl _)).same .ret (by decide)
  have degraded : ∀ u : State, (u.toDegraded false).ret.sansLog = u.ret.sansLog := State.setState_sansLog .degraded true
  have entered : (s.setState dest true).startTokens.ret.sansLog = s.ret.sansLog :=
    (congrArg Ret.sansLog (tokens _)).trans (State.setState_sansLog dest true s)
  unfold State.takeState
  dsimp only
  rw [chosen, onStart_ret]
  split
  · exact (degraded _).trans entered
  · exact entered

/-- S8 opens the host queues and clears CLEAN_OFF, whatever the state that it enters (04 R105, 12 R344, 19 R519). -/
theorem State.enterS8_opens (dest : St) (s : State) :
    (s.enterS8 dest).hq.opened = true ∧ (s.enterS8 dest).ret.cleanOff = false := by
  rw [State.enterS8_eq]
  have hhq := (s.openS8.takeState_moves dest).same .hq (by decide)
  have hret := s.openS8.takeState_sansLog dest
  exact ⟨(congrArg Hq.opened hhq).trans s.openS8_opened, congrArg Ret.cleanOff hret⟩

/-- S8 with the queue block sound and no unlock request held enters the state sampled at its entry (04 R105). -/
theorem exec_stageS8_enters {t : Nat} {dest : St} {s : State} (hin : (s.at t).inTime 8) (hout : s.outputsSound)
    (hheld : s.dbg.held = none) (hdest : s.start.dest = some dest) :
    exec (.stageS8 t true) s = .next (settle ((s.at t).enterS8 dest)) := by
  rw [← at_start s t] at hdest
  have hdbg := (State.enterS8_moves dest (Moves.refl _ (s.at t)) (List.Subset.refl _)).same .dbg (by decide)
  have hnone : ((s.at t).enterS8 dest).dbg.held = none := (congrArg Dbg.held hdbg).trans ((at_dbg s t).symm ▸ hheld)
  rw [exec_stageS8]; unfold execStageS8 finish
  rw [stage_open hin (at_outputsSound hout)]
  simp only [hdest, State.unlockHeld_of_none hnone, Bool.not_true, Bool.false_eq_true, if_false]

/-- Settles O19: the admission of S6, the ways in which S7 ends, and what S8 opens. -/
theorem stagesS6ToS8CompleteTheStart : Obligations.StagesS6ToS8CompleteTheStart := by
  unfold Obligations.StagesS6ToS8CompleteTheStart
  refine ⟨?s6, ?noImage, ?image, ?noHandshake, ?s8⟩
  case s6 => exact fun t r s hin hout hstore hweights hnone => runs_stageS6_admits hin hout hstore hweights hnone
  case noImage =>
    exact fun t r s hin hout hshake hnone hlinks hptp hheld => runs_stageS7_no_image hin hout hshake hnone hlinks hptp hheld
  case image =>
    intro t r s u hin hout hshake _ hlinks hptp hparams hring
    refine exec_stageS7_completes hin hout hshake hlinks hptp hparams fun ⟨_, hneeded, hdown⟩ => ?_
    rcases hring with hfree | hup
    · exact Bool.false_ne_true (hfree.symm.trans hneeded)
    · exact Bool.false_ne_true (hdown.symm.trans hup)
  case noHandshake => exact fun t r s hin hout hshake => runs_stageS7_no_handshake hin hout hshake
  case s8 =>
    intro t dest s hin hout hheld hdest hfenced
    obtain ⟨v, hexec, hstate, hstage, hack⟩ := runs_stageS8 t dest s hin hout hheld hdest hfenced
    obtain ⟨hopened, hclean⟩ := State.enterS8_opens dest (s.at t)
    refine ⟨v, hexec, hstate, hstage, hack, ?_⟩
    rw [exec_stageS8_enters hin hout hheld hdest] at hexec
    cases hexec
    exact ⟨hopened, hclean⟩

end Sys2Proof.Machine
end

section
/-! SUPPORT. The configuration secrets and the requests that reach them: what a store, time and power do to the secrets (05 R127,
R133, R156), what a request does around its execution (05 R136, R151), and when its gate refuses it (05 R133, Table 5.4). -/

namespace Sys2Proof.Machine

/-! ## The secrets as stored and as read -/

/-- Two equal copies read as their value, where picking one of two equal values gives that value. -/
theorem Copies.get_put {α : Type} {pick : α → α → α} {v : α} (h : pick v v = v) : (Copies.put v).get pick = some v :=
  congrArg some h

theorem maxBytes_self (x : Option Bytes) : maxBytes x x = x := by
  cases x with
  | none => rfl
  | some a => exact ite_self _

theorem maxPass_self (x : Option (Bytes × Bytes)) : maxPass x x = x := by
  cases x with
  | none => rfl
  | some a => exact ite_self _

theorem maxRun_self (x : Option Nat) : maxRun x x = x := by
  cases x with
  | none => rfl
  | some a => exact congrArg some (Nat.max_self a)

/-- Secrets read as they were stored. -/
@[simp] theorem secrets_putSecrets (v : Secrets) (s : State) : (s.putSecrets v).secrets = v := by
  simp only [State.putSecrets, State.secrets, Secrets.store, onNvm_nvm, Copies.get_put (maxBytes_self v.key),
    Copies.get_put (maxPass_self v.pass), Copies.get_put (maxRun_self v.run), Copies.get_put (Nat.max_self v.wrong),
    Copies.get_put (Nat.max_self v.lock), Option.getD_some]

/-- The secrets as read depend on the secrets as stored alone. -/
theorem secrets_congr {s u : State} (h : u.nvm.secrets = s.nvm.secrets) : u.secrets = s.secrets := by
  unfold State.secrets
  rw [h]

@[simp] theorem settle_secrets (s : State) : (settle s).secrets = s.secrets := rfl

@[simp] theorem logChange_secrets (k o r : Nat) (h : List Bytes) (b : Bool) (s : State) :
    (s.logChange k o r h b).secrets = s.secrets := rfl

@[simp] theorem answer_secrets (q : CfgReq) (cmd st : Nat) (pays : List Bytes) (s : State) :
    (s.answer q cmd st pays).secrets = s.secrets :=
  secrets_congr (congrArg Nvm.secrets (answer_nvm q cmd st pays s))

@[simp] theorem State.ev_secrets (c k b d : Nat) (s : State) : (s.ev c k b d).secrets = s.secrets :=
  secrets_congr (congrArg Nvm.secrets (State.ev_nvm c k b d s))

@[simp] theorem entered_secrets (s : State) : s.entered.secrets = { s.secrets with wrong := 0 } :=
  secrets_putSecrets _ _

/-! ## Time and the lockout (05 R156) -/

/-- Taking the same time from both copies of a count takes it from the count as read. -/
theorem Copies.get_max_sub (c : Copies Nat) (d : Nat) :
    (({ c with a := c.a - d, b := c.b - d } : Copies Nat).get max).getD 0 = (c.get max).getD 0 - d := by
  obtain ⟨a, b, aOk, bOk⟩ := c
  cases aOk <;> cases bOk <;> simp only [Copies.get, Option.getD_some, Option.getD_none] <;> omega

/-- While the module has supply, the instant of a command takes the passed time from the lockout alone. -/
theorem secrets_at_powered (t : Nat) {s : State} (h : s.sup.on = true) :
    (s.at t).secrets = { s.secrets with lock := s.secrets.lock - (t - s.now) } := by
  have hnvm : (s.at t).nvm = s.nvm.advance (t - s.now) := by simp only [State.at, h, if_true]
  unfold State.secrets
  rw [hnvm]
  simp only [Nvm.advance, Copies.get_max_sub]

/-- Without supply the instant of a command leaves the secrets. -/
theorem secrets_at_unpowered (t : Nat) {s : State} (h : s.sup.on = false) : (s.at t).secrets = s.secrets := by
  simp only [State.at, h, Bool.false_eq_true, if_false, State.secrets]

/-- POWER_GOOD leaves the secrets, whether it finds supply or brings it. -/
theorem runs_powerGood_secrets (t vin backup : Nat) (s : State) :
    Runs (.powerGood t vin backup) s fun v => v.secrets = (s.at t).secrets := by
  cases h : s.sup.on with
  | true =>
    refine runs_finish (exec_powerGood ..) ?_
    rw [if_pos ((at_sup s t).symm ▸ h), settle_secrets]
  | false =>
    obtain ⟨v, hv, hsame⟩ := exec_powerGood_unpowered t vin backup h
    refine ⟨_, hv, secrets_congr ?_⟩
    exact (congrArg Nvm.secrets (hsame .nvm (by decide))).trans (State.beginStart_secrets ..)

/-- HOLDUP_END leaves the secrets. -/
theorem runs_holdupEnd_secrets (t : Nat) (s : State) : Runs (.holdupEnd t) s fun v => v.secrets = (s.at t).secrets := by
  refine runs_finish (exec_holdupEnd ..) (secrets_congr (congrArg Nvm.secrets ?_))
  have off := moves_when (c := (s.at t).sup.on && (s.at t).sys.powerFail) (Moves.refl _ (s.at t))
    (State.enterOff_moves (Moves.refl _ (s.at t)) (List.Subset.refl _))
  exact off.same .nvm (by decide)

/-- Settles O10: time with and without supply, and the two ends of a power cycle. -/
theorem lockoutCountsOnlyWhilePowered : Obligations.LockoutCountsOnlyWhilePowered := by
  unfold Obligations.LockoutCountsOnlyWhilePowered
  refine ⟨?powered, fun t _ h => secrets_at_unpowered t h, runs_powerGood_secrets, runs_holdupEnd_secrets, ?remainder⟩
  case powered => exact fun t s h => congrArg Secrets.lock (secrets_at_powered t h)
  case remainder =>
    intro s h hlock
    rw [secrets_at_powered _ h, hlock, Nat.add_sub_cancel_left, ← Nat.sub_mul]

/-! ## The seals and the room of the log at the instant of a command -/

/-- The class of the seals depends on the switches and the RUN pattern (05 R131). -/
theorem sealClass_congr {s u : State} (hseals : u.seals = s.seals) (hrun : u.secrets.run = s.secrets.run) :
    u.sealClass = s.sealClass := by
  unfold State.sealClass State.sealPattern
  rw [hseals, hrun]

@[simp] theorem at_sealClass (t : Nat) (s : State) : (s.at t).sealClass = s.sealClass := by
  refine sealClass_congr (at_seals s t) ?_
  cases h : s.sup.on with
  | true => rw [secrets_at_powered t h]
  | false => rw [secrets_at_unpowered t h]

@[simp] theorem wake_sealClass (s : State) : s.wake.sealClass = s.sealClass :=
  sealClass_congr (wake_same (p := .seals) (by decide) s) (congrArg Secrets.run (wake_secrets s))

theorem logFree_congr {s u : State} (h : u.cfg = s.cfg) : u.logFree = s.logFree := by
  unfold State.logFree
  rw [h]

@[simp] theorem at_logFree (t : Nat) (s : State) : (s.at t).logFree = s.logFree := logFree_congr (at_cfg s t)

@[simp] theorem wake_sys (s : State) : s.wake.sys = s.sys := wake_same (p := .sys) (by decide) s

@[simp] theorem wake_cfg (s : State) : s.wake.cfg = s.cfg := wake_same (p := .cfg) (by decide) s

@[simp] theorem wake_dbg (s : State) : s.wake.dbg = s.dbg := wake_same (p := .dbg) (by decide) s

@[simp] theorem entered_cfg (s : State) : s.entered.cfg = s.cfg := entered_same (p := .cfg) (by decide) s

@[simp] theorem wake_logFree (s : State) : s.wake.logFree = s.logFree := logFree_congr (wake_cfg s)

@[simp] theorem entered_logFree (s : State) : s.entered.logFree = s.logFree := logFree_congr (entered_cfg s)

/-! ## A request around its execution (05 R136, R151) -/

/-- The one frame of an answer. -/
theorem settle_answer_out {s : State} (h : s.out = []) (q : CfgReq) (cmd st : Nat) (pay : Bytes) :
    (settle (s.answer q cmd st [pay])).out = answerTo q cmd st pay := by
  rw [settle_out, answer_out, h]
  rfl

/-- The state without what a request touches around its execution: the wake, the kept responses and the frames sent. -/
def State.sansService (s : State) : State := { s with psm := {}, cfg := { s.cfg with resps := [] }, out := [] }

theorem wake_sansService (s : State) : s.wake.sansService = s.sansService := by
  unfold State.wake
  split
  · rfl
  · split <;> split <;> rfl

theorem sendFrames_sansService (port : Nat) (l : List Bytes) (s : State) : (s.sendFrames port l).sansService = s.sansService :=
  State.each_keeps (view := State.sansService) (f := fun b u => u.send (.eth port 0x88B5 b)) (fun _ _ => rfl) l s

theorem answer_sansService (q : CfgReq) (cmd st : Nat) (pays : List Bytes) (s : State) :
    (s.answer q cmd st pays).sansService = s.sansService := by
  obtain ⟨l, h⟩ := answer_eq q cmd st pays s
  rw [h]
  rfl

/-- What a request's execution keeps, the request keeps, whether it is executed, repeated or not taken; its frames, the kept
responses and the wake aside. -/
theorem serve_keeps {α : Type} {view : State → α} {cmd : Nat} {f : State → Nat × List Bytes × State} {s : State} (q : CfgReq)
    (hcmd : cmd ≠ 1 ∧ cmd ≠ 2) (hview : ∀ u : State, view u = view u.sansService) (hf : view (f s.wake).2.2 = view s.wake) :
    view (s.serve q cmd f) = view s := by
  have hwake : view s.wake = view s := by rw [hview, wake_sansService, ← hview]
  have hsend : ∀ l, view (s.sendFrames q.port l) = view s := fun l => by rw [hview, sendFrames_sansService, ← hview]
  have hanswer : ∀ st pays u, view (State.answer q cmd st pays u) = view u := fun st pays u => by
    rw [hview, answer_sansService, ← hview]
  unfold State.serve
  split
  case isTrue => rfl
  case isFalse =>
    split
    case h_1 => exact hsend _
    case h_2 =>
      rw [if_neg (by simp [hcmd])]
      cases q.whole with
      | true => exact (hanswer ..).trans (hf.trans hwake)
      | false => exact (hanswer ..).trans hwake

/-! ## A gate that refuses (05 R133, Table 5.4) -/

/-- A refused request has its gate's status for an answer, and its gate's effect alone. -/
theorem gated_refused {q : CfgReq} {states : List St} {seals : Bool} {s u : State} {r : Nat}
    (h : s.gate q states seals = (r, u)) (hr : r ≠ 0) (f : State → Nat × List Bytes × State) :
    s.gated q states seals f = plain r u := by
  unfold State.gated
  rw [h]
  exact if_pos hr

/-- A gated request is refused, or executed in the state that its gate leaves. -/
theorem gated_eq (q : CfgReq) (states : List St) (seals : Bool) (f : State → Nat × List Bytes × State) (s : State) :
    s.gated q states seals f =
      if (s.gate q states seals).1 ≠ 0 then plain (s.gate q states seals).1 (s.gate q states seals).2
      else f (s.gate q states seals).2 := rfl

theorem gate_locked {s : State} (h : s.secrets.lock ≠ 0) (q : CfgReq) (states : List St) (seals : Bool) :
    s.gate q states seals = (2, s) := if_pos h

/-- In an admitted state with no lockout, a password that is refused is the gate's refusal. -/
theorem gate_wrong {q : CfgReq} {states : List St} {s u : State} {r : Nat} (hlock : s.secrets.lock = 0)
    (hstate : s.sys.state ∈ states) (hpass : s.checkPass q.password = (r, u)) (hr : r ≠ 0) (seals : Bool) :
    s.gate q states seals = (r, u) := by
  unfold State.gate
  rw [if_neg (Decidable.not_not.mpr hlock), if_neg (by simp [hstate]), hpass]
  exact if_pos hr

/-- The count of wrong passwords with one more (05 R133): after a lockout it begins anew. -/
def Secrets.wrongNext (x : Secrets) : Nat := (if 5 ≤ x.wrong then 0 else x.wrong) + 1

/-- The secrets with one more wrong password, of which the fifth in a row starts a lockout (05 R133). -/
def Secrets.countWrong (x : Secrets) : Secrets :=
  { x with wrong := x.wrongNext, lock := if x.wrongNext = 5 then 600 * sec else 0 }

/-- A wrong password counted and logged (05 R133). -/
def State.countWrong (s : State) : State :=
  let u := (s.putSecrets s.secrets.countWrong).ev 0x1301 1 noSub s.secrets.wrongNext
  if s.secrets.wrongNext = 5 then u.ev 0x1302 1 noSub 600 else u

/-- Beside the log, a wrong password changes the count and the lockout alone. -/
theorem State.countWrong_view {α : Type} {view : State → α} (h : ∀ c k b d u, view (State.ev c k b d u) = view u) (s : State) :
    view s.countWrong = view (s.putSecrets s.secrets.countWrong) := by
  unfold State.countWrong
  dsimp only
  split
  · exact (h ..).trans (h ..)
  · exact h ..

/-- Waking the die tells a request no password. -/
theorem wake_knows (q : CfgReq) (s : State) : s.wake.knows q ↔ s.knows q := by
  unfold State.knows
  rw [wake_secrets]

/-- What the check of a password can find (05 R133): a lockout, the right password, or a wrong one. -/
theorem checkPass_cases (q : CfgReq) (s : State) :
    (s.secrets.lock ≠ 0 ∧ s.checkPass q.password = (2, s)) ∨
      (s.knows q ∧ s.checkPass q.password = (0, s.putSecrets { s.secrets with wrong := 0 })) ∨
      (¬ s.knows q ∧ s.checkPass q.password = (1, s.countWrong)) := by
  unfold State.checkPass
  dsimp only
  split
  case isTrue hlock => exact .inl ⟨hlock, rfl⟩
  case isFalse hlock =>
    split
    case isTrue hright =>
      obtain ⟨x, hpass, hhash⟩ := (Option.any_eq_true _ _).mp hright
      exact .inr (.inl ⟨⟨Decidable.not_not.mp hlock, x, hpass, beq_iff_eq.mp hhash⟩, rfl⟩)
    case isFalse hwrong =>
      refine .inr (.inr ⟨fun ⟨_, x, hpass, hhash⟩ => hwrong ?_, rfl⟩)
      exact (Option.any_eq_true _ _).mpr ⟨x, hpass, beq_iff_eq.mpr hhash⟩

/-- Outside a lockout a wrong password is answered BAD_PASSWORD and counted. -/
theorem checkPass_wrong {q : CfgReq} {s : State} (hlock : s.secrets.lock = 0) (hnot : ¬ s.knows q) :
    s.checkPass q.password = (1, s.countWrong) := by
  rcases checkPass_cases q s with ⟨hlocked, -⟩ | ⟨hknows, -⟩ | ⟨-, hcheck⟩
  · exact absurd hlock hlocked
  · exact absurd hknows hnot
  · exact hcheck

/-- Only the right password outside a lockout is accepted. -/
theorem knows_of_checkPass {q : CfgReq} {s : State} (h : (s.checkPass q.password).1 = 0) : s.knows q := by
  rcases checkPass_cases q s with ⟨-, hcheck⟩ | ⟨hknows, -⟩ | ⟨-, hcheck⟩
  · rw [hcheck] at h
    exact absurd h (Nat.succ_ne_zero 1)
  · exact hknows
  · rw [hcheck] at h
    exact absurd h Nat.one_ne_zero

/-- A gate leaves the state, or leaves what the check of the password leaves. -/
theorem gate_snd_eq (q : CfgReq) (states : List St) (seals : Bool) (s : State) :
    (s.gate q states seals).2 = s ∨ (s.gate q states seals).2 = (s.checkPass q.password).2 := by
  unfold State.gate
  split
  case isTrue => exact .inl rfl
  case isFalse =>
    split
    case isTrue => exact .inl rfl
    case isFalse =>
      dsimp only
      split
      case isTrue => exact .inr rfl
      case isFalse => split <;> exact .inr rfl

/-- Only a request with the right password passes its gate. -/
theorem knows_of_gate {q : CfgReq} {states : List St} {seals : Bool} {s : State} (h : (s.gate q states seals).1 = 0) :
    s.knows q := by
  unfold State.gate at h
  split at h
  case isTrue => exact absurd h (by simp)
  case isFalse =>
    split at h
    case isTrue => exact absurd h (by simp)
    case isFalse =>
      dsimp only at h
      split at h
      case isTrue hr => exact absurd h hr
      case isFalse hr => exact knows_of_checkPass (Decidable.not_not.mp hr)

/-- Without the right password a gated request has no effect beyond its answer. -/
theorem not_acts {q : CfgReq} {s : State} (h : ¬ s.knows q) (cmd : Nat) (states : List St) (seals : Bool) :
    s.acts q cmd states seals = false := by
  unfold State.acts
  rw [beq_eq_false_iff_ne.mpr fun hgate => h (knows_of_gate hgate), Bool.and_false]

theorem gate_same {p : Part} (hp : p ∉ [Part.nvm, Part.log, Part.ret]) (q : CfgReq) (states : List St) (seals : Bool)
    (s : State) : p.Same s (s.gate q states seals).2 :=
  (State.gate_snd (Moves.refl _ s) (List.Subset.refl _)).same p hp

end Sys2Proof.Machine
end

section
/-! SUPPORT. The upload session: what it writes into the standby slot, and that no upload command touches the active one (05
R138). -/

namespace Sys2Proof.Machine

/-! ## The slots -/

theorem activeSlot_congr {s u : State} (h : u.cfg.role = s.cfg.role) : u.activeSlot = s.activeSlot := by
  unfold State.activeSlot
  rw [h]

theorem standby_congr {s u : State} (h : u.cfg.role = s.cfg.role) : u.standby = s.standby := by
  unfold State.standby
  rw [activeSlot_congr h]

@[simp] theorem at_standby (t : Nat) (s : State) : (s.at t).standby = s.standby := standby_congr (by rw [at_cfg])

theorem at_wake_standby (t : Nat) (s : State) : (s.at t).wake.standby = s.standby :=
  standby_congr (by rw [wake_cfg, at_cfg])

theorem at_wake_activeSlot (t : Nat) (s : State) : (s.at t).wake.activeSlot = s.activeSlot :=
  activeSlot_congr (by rw [wake_cfg, at_cfg])

/-- The standby slot is one of the two. -/
theorem standby_lt_slots {s u : State} (hs : s.shaped) (hcfg : u.cfg = s.cfg) : s.standby < u.cfg.slots.length := by
  rw [hcfg, hs.cfg]
  unfold State.standby
  omega

theorem activeSlot_ne_standby (s : State) : s.activeSlot ≠ s.standby := by unfold State.standby; omega

theorem getN_onImgSlot_self {k : Nat} {s : State} (h : k < s.cfg.slots.length) (f : Slot → Slot) :
    getN (s.onImgSlot k f).cfg.slots k = f (getN s.cfg.slots k) := getN_modN_self _ _ _ h

theorem getN_onImgSlot_ne {j k : Nat} (h : j ≠ k) (f : Slot → Slot) (s : State) :
    getN (s.onImgSlot k f).cfg.slots j = getN s.cfg.slots j := getN_modN_ne _ _ _ _ h

/-! ## The bytes of a frame (05 R138, Table 5.1) -/

/-- Below IMAGE_SIZE a frame's bytes go to the image. -/
theorem memGet_write_image (o : Nat) (d : Bytes) (x : Slot) (a : Nat) :
    memGet (x.write o d).image a =
      if o ≤ a ∧ a < o + d.length ∧ a < sizeSoFar x.image o d then d.getD (a - o) 0 else memGet x.image a := by
  unfold Slot.write
  dsimp only
  rw [memGet_memPutAll, List.length_take]
  by_cases h : o ≤ a ∧ a < o + d.length ∧ a < sizeSoFar x.image o d
  · rw [if_pos (by omega), if_pos h, List.getD_eq_getElem?_getD, List.getElem?_take_of_lt (by omega),
      ← List.getD_eq_getElem?_getD]
  · rw [if_neg (by omega), if_neg h]

/-- From IMAGE_SIZE on a frame's bytes go to the weight set, which is counted from there. -/
theorem memGet_write_weights (o : Nat) (d : Bytes) (x : Slot) (a : Nat) :
    memGet (x.write o d).weights a =
      if o ≤ sizeSoFar x.image o d + a ∧ sizeSoFar x.image o d + a < o + d.length then
        d.getD (sizeSoFar x.image o d + a - o) 0
      else memGet x.weights a := by
  unfold Slot.write
  dsimp only
  generalize sizeSoFar x.image o d = n
  rw [memGet_memPutAll, List.length_drop]
  by_cases h : o ≤ n + a ∧ n + a < o + d.length
  · rw [if_pos (by omega), if_pos h, List.getD_eq_getElem?_getD, List.getElem?_drop, ← List.getD_eq_getElem?_getD]
    congr 1
    omega
  · rw [if_neg (by omega), if_neg h]

/-! ## The session -/

theorem uploading_entered (s : State) : s.entered.uploading = s.uploading := by
  unfold State.uploading
  rw [entered_cfg, entered_now]

theorem inSession_wake (q : CfgReq) (s : State) : s.wake.inSession q = s.inSession q := by
  unfold State.inSession
  rw [wake_cfg, wake_now]

/-- UPLOAD_BEGIN past its gate, with no session open, opens the next one and returns its number. -/
theorem runs_uploadBegin_opens {t : Nat} {q : CfgReq} {s : State} (htakes : (s.at t).takes q 0x10) (hknows : (s.at t).knows q)
    (hstate : s.sys.state ∈ uploadStates) (hnone : s.cfg.session = none) (hs : s.shaped) :
    Runs (.uploadBegin t q) s fun v =>
      v.cfg.session = some (serialNext s.cfg.sessions, (s.at t).now) ∧
      getN v.cfg.slots s.standby = { getN s.cfg.slots s.standby with mark := .empty } ∧
      v.out = answerTo q 0x10 0 (beBytes 4 (serialNext s.cfg.sessions)) := by
  have hfree : (s.at t).uploading = false := by simp [State.uploading, hnone]
  have hslot : (s.at t).standby < (s.at t).entered.cfg.slots.length := standby_lt_slots (at_shaped t hs) (entered_cfg _)
  rw [← at_sys_state s t] at hstate
  rw [← at_cfg s t, ← at_standby t s]
  refine runs_finish (exec_uploadBegin ..) ?_
  rw [serve_new htakes (by decide), gated_ok hknows hstate (fun h => absurd h Bool.false_ne_true), uploading_entered,
    hfree, if_neg Bool.false_ne_true, standby_congr (congrArg Cfg.role (entered_cfg (s.at t)))]
  refine ⟨?session, ?slot, ?answer⟩
  case session =>
    rw [settle_cfg, answer_session, onCfg_cfg]
    simp only [State.onImgSlot, onCfg_now, entered_cfg, entered_now]
  case slot => rw [settle_cfg, answer_slots, onCfg_cfg, getN_onImgSlot_self hslot, entered_cfg]
  case answer =>
    rw [entered_cfg]
    refine settle_answer_out ?_ ..
    simp only [State.onImgSlot, onCfg_out, entered_out, at_out]

/-- UPLOAD_BEGIN past its gate, with a session open, is BUSY. -/
theorem runs_uploadBegin_busy {t : Nat} {q : CfgReq} {s : State} (htakes : (s.at t).takes q 0x10) (hknows : (s.at t).knows q)
    (hstate : s.sys.state ∈ uploadStates) (hopen : (s.at t).uploading = true) :
    Runs (.uploadBegin t q) s fun v =>
      v.cfg.session = s.cfg.session ∧ v.cfg.slots = s.cfg.slots ∧ v.out = answerTo q 0x10 5 [] := by
  rw [← at_sys_state s t] at hstate
  rw [← at_cfg s t]
  refine runs_finish (exec_uploadBegin ..) ?_
  rw [serve_new htakes (by decide), gated_ok hknows hstate (fun h => absurd h Bool.false_ne_true), uploading_entered,
    if_pos hopen]
  refine ⟨?_, ?_, settle_answer_out ((entered_out _).trans (at_out s t)) ..⟩
  · rw [settle_cfg, answer_session]
    exact congrArg Cfg.session (entered_cfg _)
  · rw [settle_cfg, answer_slots]
    exact congrArg Cfg.slots (entered_cfg _)

/-- UPLOAD_DATA in the session writes its frame to the standby slot, and the session lives on. -/
theorem runs_uploadData_writes {t : Nat} {q : CfgReq} {o : Nat} {d : Bytes} {s : State} (htakes : (s.at t).takes q 0x11)
    (hstate : s.sys.state ∈ uploadStates) (hsession : (s.at t).inSession q = true) (hlen : d.length ≤ 1400) (ho : o ≤ s.cfg.upTo)
    (hroom : o + d.length ≤ sizeSoFar (getN s.cfg.slots s.standby).image o d + 268435456) (hs : s.shaped) :
    Runs (.uploadData t q true o d) s fun v =>
      v.out = answerTo q 0x11 0 [] ∧ v.cfg.session = s.cfg.session.map (fun x => (x.1, (s.at t).now)) ∧
      getN v.cfg.slots s.standby = (getN s.cfg.slots s.standby).write o d := by
  have hgood : ¬ (s.cfg.upTo < o ∨ sizeSoFar (getN s.cfg.slots s.standby).image o d + 268435456 < o + d.length ∨
      1400 < d.length) := by omega
  have hslot : s.standby < (s.at t).wake.cfg.slots.length := standby_lt_slots hs ((wake_cfg _).trans (at_cfg s t))
  refine runs_finish (exec_uploadData ..) ?_
  rw [serve_new htakes (by decide)]
  simp only [wake_sys, at_sys_state, List.contains_iff_mem.mpr hstate, inSession_wake, hsession, wake_cfg, at_cfg,
    at_wake_standby, hgood, Bool.not_true, Bool.false_eq_true, or_self, if_false,
    plain]
  refine ⟨settle_answer_out ?out .., ?session, ?slot⟩
  case out => simp only [State.onImgSlot, onCfg_out, wake_out, at_out]
  case session =>
    rw [settle_cfg, answer_session, onCfg_cfg]
    simp only [State.onImgSlot, onCfg_cfg, onCfg_now, wake_cfg, at_cfg, wake_now]
  case slot => rw [settle_cfg, answer_slots, onCfg_cfg, getN_onImgSlot_self hslot, wake_cfg, at_cfg]

/-- UPLOAD_DATA refuses as FORMAT what does not read, and an offset beyond what the session has sent (log entry 57). -/
theorem runs_uploadData_format {t : Nat} {q : CfgReq} {b : Bool} {o : Nat} {d : Bytes} {s : State}
    (htakes : (s.at t).takes q 0x11) (hstate : s.sys.state ∈ uploadStates) (hsession : (s.at t).inSession q = true)
    (hbad : b = false ∨ s.cfg.upTo < o) :
    Runs (.uploadData t q b o d) s fun v => v.out = answerTo q 0x11 7 [] ∧ v.cfg.slots = s.cfg.slots := by
  have hformat : (!b) = true ∨ s.cfg.upTo < o ∨
      sizeSoFar (getN s.cfg.slots s.standby).image o d + 268435456 < o + d.length ∨ 1400 < d.length :=
    hbad.imp (fun h => by rw [h]; rfl) Or.inl
  refine runs_finish (exec_uploadData ..) ?_
  rw [serve_new htakes (by decide)]
  simp only [wake_sys, at_sys_state, List.contains_iff_mem.mpr hstate, inSession_wake, hsession, wake_cfg, at_cfg,
    at_wake_standby, hformat, Bool.not_true, Bool.false_eq_true, if_false,
    if_true, plain]
  refine ⟨settle_answer_out ((wake_out _).trans (at_out s t)) .., ?_⟩
  rw [settle_cfg, answer_slots, wake_cfg, at_cfg]

/-- UPLOAD_END in the session marks the standby slot by its checks and closes the session. -/
theorem runs_uploadEnd_marks {t : Nat} {q : CfgReq} {s : State} (htakes : (s.at t).takes q 0x12)
    (hstate : s.sys.state ∈ uploadStates) (hsession : (s.at t).inSession q = true) (hs : s.shaped) :
    Runs (.uploadEnd t q) s fun v =>
      v.out = answerTo q 0x12 0 [] ∧ v.cfg.session = none ∧
      (getN v.cfg.slots s.standby).mark = if ((s.at t).wake.verifySlot s.standby).1 = 0 then .verified else .invalid := by
  have hslot : s.standby < (s.at t).wake.cfg.slots.length := standby_lt_slots hs ((wake_cfg _).trans (at_cfg s t))
  refine runs_finish (exec_uploadEnd ..) ?_
  rw [serve_new htakes (by decide)]
  simp only [wake_sys, at_sys_state, List.contains_iff_mem.mpr hstate, inSession_wake, hsession,
    at_wake_standby, Bool.not_true, Bool.false_eq_true, if_false, plain]
  refine ⟨settle_answer_out ?out .., ?session, ?mark⟩
  case out => simp only [State.loadIds, State.onImgSlot, onCfg_out, wake_out, at_out]
  case session => rw [settle_cfg, answer_session]; rfl
  case mark =>
    rw [settle_cfg, answer_slots]
    unfold State.loadIds
    rw [onCfg_cfg, onCfg_cfg, getN_onImgSlot_self hslot]
    simp only [decide_eq_true_eq]

/-! ## The active slot -/

/-- The roles of the slots and the content of slot `a`. -/
def State.activeImage (a : Nat) (s : State) : Copies Nat × Slot := (s.cfg.role, getN s.cfg.slots a)

theorem activeImage_congr {s u : State} (h : u.cfg = s.cfg) (a : Nat) : u.activeImage a = s.activeImage a := by
  unfold State.activeImage
  rw [h]

/-- A change of the standby slot keeps the active one. -/
theorem activeImage_onImgSlot {a : Nat} {s : State} (ha : s.activeSlot = a) (f : Slot → Slot) :
    (s.onImgSlot s.standby f).activeImage a = s.activeImage a :=
  congrArg (Prod.mk s.cfg.role) (getN_onImgSlot_ne (ha ▸ activeSlot_ne_standby s) f s)

theorem activeImage_loadIds (a : Nat) (s : State) : s.loadIds.activeImage a = s.activeImage a := rfl

theorem activeImage_endSession (a : Nat) (s : State) :
    (s.onCfg fun c => { c with session := none }).activeImage a = s.activeImage a := rfl

/-- A command that keeps the roles and the active slot's content keeps the active slot. -/
theorem runs_keeps_active {c : Instr} {t : Nat} {f : State → State} {s : State} (hexec : exec c s = finish t s f)
    (h : (f (s.at t)).activeImage s.activeSlot = (s.at t).activeImage s.activeSlot) :
    Runs c s fun v => v.activeSlot = s.activeSlot ∧ getN v.cfg.slots s.activeSlot = getN s.cfg.slots s.activeSlot := by
  rw [activeImage_congr (at_cfg s t)] at h
  obtain ⟨hrole, hslot⟩ := Prod.mk.inj h
  exact runs_finish hexec ⟨activeSlot_congr hrole, hslot⟩

theorem uploadBegin_keeps_active (t : Nat) (q : CfgReq) (s : State) :
    Runs (.uploadBegin t q) s fun v =>
      v.activeSlot = s.activeSlot ∧ getN v.cfg.slots s.activeSlot = getN s.cfg.slots s.activeSlot := by
  refine runs_keeps_active (exec_uploadBegin ..) (serve_keeps q (by decide) (fun _ => rfl) ?_)
  have hgate := gate_same (p := .cfg) (by decide) q uploadStates false (s.at t).wake
  have hactive := (activeSlot_congr (congrArg Cfg.role hgate)).trans (at_wake_activeSlot t s)
  rw [gated_eq]
  split
  case isTrue => exact activeImage_congr hgate _
  case isFalse =>
    split
    case isTrue => exact activeImage_congr hgate _
    case isFalse => exact (activeImage_onImgSlot hactive _).trans (activeImage_congr hgate _)

theorem uploadData_keeps_active (t : Nat) (q : CfgReq) (b : Bool) (o : Nat) (d : Bytes) (s : State) :
    Runs (.uploadData t q b o d) s fun v =>
      v.activeSlot = s.activeSlot ∧ getN v.cfg.slots s.activeSlot = getN s.cfg.slots s.activeSlot := by
  refine runs_keeps_active (exec_uploadData ..) (serve_keeps q (by decide) (fun _ => rfl) ?_)
  dsimp only
  split
  case isTrue => rfl
  case isFalse =>
    split
    case isTrue => rfl
    case isFalse =>
      split
      case isTrue => rfl
      case isFalse => exact activeImage_onImgSlot (at_wake_activeSlot t s) _

theorem uploadEnd_keeps_active (t : Nat) (q : CfgReq) (s : State) :
    Runs (.uploadEnd t q) s fun v =>
      v.activeSlot = s.activeSlot ∧ getN v.cfg.slots s.activeSlot = getN s.cfg.slots s.activeSlot := by
  refine runs_keeps_active (exec_uploadEnd ..) (serve_keeps q (by decide) (fun _ => rfl) ?_)
  dsimp only
  split
  case isTrue => rfl
  case isFalse =>
    split
    case isTrue => rfl
    case isFalse =>
      rw [plain, activeImage_loadIds, activeImage_endSession]
      exact activeImage_onImgSlot (at_wake_activeSlot t s) _

theorem uploadSessionLapse_keeps_active (t : Nat) (s : State) :
    Runs (.uploadSessionLapse t) s fun v =>
      v.activeSlot = s.activeSlot ∧ getN v.cfg.slots s.activeSlot = getN s.cfg.slots s.activeSlot := by
  refine runs_keeps_active (exec_uploadSessionLapse ..) ?_
  unfold State.with
  split
  case h_1 =>
    dsimp only
    split
    case isTrue => exact activeImage_endSession ..
    case isFalse => rfl
  case h_2 => rfl

/-- 10 s without a frame close the session and change nothing else. -/
theorem exec_uploadSessionLapse_due {t : Nat} {x : Nat × Nat} {s : State} (hsession : s.cfg.session = some x)
    (hdue : x.2 + 10 * sec ≤ (s.at t).now) :
    exec (.uploadSessionLapse t) s = .next (settle ((s.at t).onCfg fun c => { c with session := none })) := by
  rw [exec_uploadSessionLapse]; unfold execUploadSessionLapse finish
  have hpast : (s.at t).past x.2 (10 * sec) = true := decide_eq_true hdue
  simp only [State.with, at_cfg, hsession, hpast, if_true]

/-- Settles O27: one lemma per outcome of an upload command, and the bytes that a frame writes. -/
theorem uploadsWriteTheStandbySlotOnly : Obligations.UploadsWriteTheStandbySlotOnly := by
  unfold Obligations.UploadsWriteTheStandbySlotOnly
  refine ⟨?opens, ?busy, ?writes, ?format, ?ends, ?lapse, ?active⟩
  case opens => exact fun t q s htakes hknows hstate hnone hs => runs_uploadBegin_opens htakes hknows hstate hnone hs
  case busy => exact fun t q s htakes hknows hstate hopen => runs_uploadBegin_busy htakes hknows hstate hopen
  case writes =>
    intro t q o d s htakes hstate hsession hlen ho hs old n hroom
    obtain ⟨v, hexec, hout, hlives, hslot⟩ := runs_uploadData_writes htakes hstate hsession hlen ho hroom hs
    refine ⟨v, hexec, hout, hlives, ?_⟩
    rw [hslot]
    exact ⟨rfl, memGet_write_image o d old, memGet_write_weights o d old⟩
  case format => exact fun t q b o d s htakes hstate hsession hbad => runs_uploadData_format htakes hstate hsession hbad
  case ends => exact fun t q s htakes hstate hsession hs => runs_uploadEnd_marks htakes hstate hsession hs
  case lapse => exact fun t x s hsession hdue => exec_uploadSessionLapse_due hsession hdue
  case active =>
    intro t q b o d c s hc _
    rcases hc with rfl | rfl | rfl | rfl
    · exact uploadBegin_keeps_active t q s
    · exact uploadData_keeps_active t q b o d s
    · exact uploadEnd_keeps_active t q s
    · exact uploadSessionLapse_keeps_active t s

end Sys2Proof.Machine
end

section
/-! SUPPORT. The commands that change the secrets, the wrong password, and FIELD_RESET (05 R133 to R135). -/

namespace Sys2Proof.Machine

/-! ## A new password -/

theorem leBytes_length (k n : Nat) : (leBytes k n).length = k := by
  induction k generalizing n with
  | zero => rfl
  | succ k ih => exact congrArg Nat.succ (ih _)

/-- A new password is kept as a salt of 16 bytes and the hash of both; of the state it draws a free value alone. -/
theorem newPass_eq (w : Bytes) (s : State) :
    ∃ salt, salt.length = 16 ∧ s.newPass w = (some (salt, sha256 (salt ++ w)), s.draw.2) :=
  ⟨_, leBytes_length _ _, rfl⟩

/-- Secrets stored, the entry of their change and the answer: what the command leaves. -/
theorem stored_answered {s : State} (hout : s.out = []) (x : Secrets) (q : CfgReq) (cmd kind : Nat) :
    let v := settle (((s.putSecrets x).logChange kind q.oper 0 [] false).answer q cmd 0 [[]])
    v.secrets = x ∧ v.out = answerTo q cmd 0 [] ∧ v.cfg.role = s.cfg.role ∧ v.cfg.slots = s.cfg.slots ∧
      ∃ e, v.cfg.changes = s.cfg.changes ++ [e] ∧ e.kind = kind ∧ e.oper = q.oper := by
  refine ⟨?secrets, settle_answer_out hout .., ?role, ?slots, ?entry⟩
  case secrets => rw [settle_secrets, answer_secrets, logChange_secrets, secrets_putSecrets]
  case role => rw [settle_cfg, answer_role]; rfl
  case slots => rw [settle_cfg, answer_slots]; rfl
  case entry => rw [settle_cfg, answer_changes]; exact ⟨_, rfl, rfl, rfl⟩

/-- The first ENROL, well formed, with the seals in PROGRAM in COMMISSION and no password set, stores the three secrets. -/
theorem runs_enrol_first {t p : Nat} {q : CfgReq} {k w : Bytes} {s : State} (htakes : (s.at t).takes q 0x30)
    (hnone : (s.at t).secrets.pass = none) (hstate : s.sys.state = .commission) (hseals : s.sealClass = .program)
    (hk : k.length = 32) (hw : passwordOk w = true) (hp : 1 ≤ p ∧ p ≤ 14) (hroom : 1 ≤ s.logFree) :
    Runs (.enrol t q (some k) (some w) (some p)) s fun v =>
      v.secrets.key = some k ∧ v.secrets.run = some p ∧ v.out = answerTo q 0x30 0 [] ∧
      (∃ salt : Bytes, salt.length = 16 ∧ v.secrets.pass = some (salt, sha256 (salt ++ w))) ∧
      ∃ e, v.cfg.changes = s.cfg.changes ++ [e] ∧ e.kind = 3 ∧ e.oper = q.oper := by
  obtain ⟨salt, hsalt, hnew⟩ := newPass_eq w (s.at t).wake
  have hok : enrolOk true (some k) (some w) (some p) = true := by simp [enrolOk, hk, hw, within, hp]
  have hfree : ¬ (s.at t).wake.logFree = 0 := by rw [wake_logFree, at_logFree]; omega
  have hcfg : (s.at t).wake.draw.2.cfg = s.cfg := (wake_cfg _).trans (at_cfg s t)
  refine runs_finish (exec_enrol ..) ?_
  rw [serve_new htakes (by decide)]
  simp only [wake_secrets, hnone, Option.isNone_none, wake_sys, at_sys_state, hstate, wake_sealClass, at_sealClass, hseals,
    State.enrolNow, hok, hfree, hnew, Bool.not_true, Bool.false_eq_true, not_true, ne_eq, if_true, if_false, plain]
  obtain ⟨hsecrets, hout, -, -, hentry⟩ := stored_answered (s := (s.at t).wake.draw.2) ((wake_out _).trans (at_out s t))
    { (s.at t).wake.draw.2.secrets with key := some k, pass := some (salt, sha256 (salt ++ w)), run := some p } q 0x30 3
  rw [hcfg] at hentry
  exact ⟨congrArg Secrets.key hsecrets, congrArg Secrets.run hsecrets, hout,
    ⟨salt, hsalt, congrArg Secrets.pass hsecrets⟩, hentry⟩

/-- SET_PASSWORD past its gate replaces the password alone. -/
theorem runs_setPassword_stores {t : Nat} {q : CfgReq} {w : Bytes} {s : State} (htakes : (s.at t).takes q 0x31)
    (hknows : (s.at t).knows q) (hstate : s.sys.state = .commission) (hseals : s.sealClass = .program)
    (hw : passwordOk w = true) (hroom : 1 ≤ s.logFree) :
    Runs (.setPassword t q w) s fun v =>
      v.secrets.key = (s.at t).secrets.key ∧ v.secrets.run = (s.at t).secrets.run ∧ v.out = answerTo q 0x31 0 [] ∧
      (∃ salt : Bytes, salt.length = 16 ∧ v.secrets.pass = some (salt, sha256 (salt ++ w))) ∧
      ∃ e, v.cfg.changes = s.cfg.changes ++ [e] ∧ e.kind = 4 ∧ e.oper = q.oper := by
  obtain ⟨salt, hsalt, hnew⟩ := newPass_eq w (s.at t).entered
  have hfree : ¬ (s.at t).entered.logFree = 0 := by rw [entered_logFree, at_logFree]; omega
  have hcfg : (s.at t).entered.draw.2.cfg = s.cfg := (entered_cfg _).trans (at_cfg s t)
  have hkept : (s.at t).entered.draw.2.secrets = { (s.at t).secrets with wrong := 0 } := entered_secrets _
  refine runs_finish (exec_setPassword ..) ?_
  rw [serve_new htakes (by decide), gated_ok hknows (by simp [hstate]) (fun _ => (at_sealClass t s).trans hseals)]
  simp only [hw, hfree, hnew, Bool.not_true, Bool.false_eq_true, if_false, plain]
  obtain ⟨hsecrets, hout, -, -, hentry⟩ := stored_answered (s := (s.at t).entered.draw.2) ((entered_out _).trans (at_out s t))
    { (s.at t).entered.draw.2.secrets with pass := some (salt, sha256 (salt ++ w)) } q 0x31 4
  rw [hcfg] at hentry
  exact ⟨(congrArg Secrets.key hsecrets).trans (congrArg Secrets.key hkept :),
    (congrArg Secrets.run hsecrets).trans (congrArg Secrets.run hkept :), hout,
    ⟨salt, hsalt, congrArg Secrets.pass hsecrets⟩, hentry⟩

/-! ## A wrong password and the lockout -/

theorem State.logPut_out (c k b d : Nat) (s : State) : (s.logPut c k b d).out = s.out := rfl

theorem State.flushRepeats_out (s : State) : s.flushRepeats.out = s.out :=
  State.each_keeps (view := State.out) (fun _ u => State.logPut_out _ _ _ _ u) _ _

/-- An event sends nothing outside. -/
theorem State.ev_out (c k b d : Nat) (s : State) : (s.ev c k b d).out = s.out := by
  have flush : (if s.log.second = s.dev / sec then s else s.flushRepeats).out = s.out := by
    split
    · rfl
    · exact State.flushRepeats_out s
  unfold State.ev
  generalize (if s.log.second = s.dev / sec then s else s.flushRepeats) = u at flush ⊢
  dsimp only
  split <;> exact flush

/-- The fifth wrong password in a row starts the lockout. -/
theorem countWrong_fifth {s : State} (hcount : s.secrets.wrong = 4) :
    s.countWrong.secrets = { s.secrets with wrong := 5, lock := 600 * sec } := by
  have hnext : s.secrets.wrongNext = 5 := by
    unfold Secrets.wrongNext
    rw [hcount]
    rfl
  rw [State.countWrong_view State.ev_secrets, secrets_putSecrets, Secrets.countWrong, hnext, if_pos rfl]

/-- RESTART that its gate refuses is answered with the gate's status, and leaves what the gate leaves. -/
theorem runs_restart_refused {t r : Nat} {q : CfgReq} {s u : State} (htakes : (s.at t).takes q 0x21) (hnot : ¬ (s.at t).knows q)
    (hgate : (s.at t).wake.gate q [.commission] false = (r, u)) (hr : r ≠ 0) (hout : u.out = []) :
    Runs (.restart t q) s fun v => v.secrets = u.secrets ∧ v.sys.state = u.sys.state ∧ v.out = answerTo q 0x21 r [] := by
  refine runs_finish (exec_restart ..) ?_
  simp only [not_acts hnot, Bool.false_eq_true, if_false]
  rw [serve_new htakes (by decide), gated_refused hgate hr]
  refine ⟨answer_secrets .., ?_, settle_answer_out hout ..⟩
  rw [settle_sys, answer_sys, plain]

/-- RESTART with the fifth wrong password in a row is BAD_PASSWORD, starts the lockout, and restarts nothing. -/
theorem runs_restart_fifth {t : Nat} {q : CfgReq} {h : Bytes × Bytes} {s : State} (htakes : (s.at t).takes q 0x21)
    (hstate : s.sys.state = .commission) (hlock : (s.at t).secrets.lock = 0) (hpass : (s.at t).secrets.pass = some h)
    (hwrong : sha256 (h.1 ++ q.password) ≠ h.2) (hcount : (s.at t).secrets.wrong = 4) :
    Runs (.restart t q) s fun v =>
      v.secrets.wrong = 5 ∧ v.secrets.lock = 600 * sec ∧ v.secrets.pass = some h ∧ v.sys.state = .commission ∧
      v.out = answerTo q 0x21 1 [] := by
  have hnot : ¬ (s.at t).knows q := fun ⟨_, x, hx, hhash⟩ => hwrong (Option.some.inj (hpass.symm.trans hx) ▸ hhash)
  have hgate : (s.at t).wake.gate q [.commission] false = (1, (s.at t).wake.countWrong) := by
    rw [← wake_secrets] at hlock
    exact gate_wrong hlock (by simp [hstate]) (checkPass_wrong hlock fun hknows => hnot ((wake_knows q _).mp hknows))
      Nat.one_ne_zero false
  have hout : (s.at t).wake.countWrong.out = [] :=
    (State.countWrong_view State.ev_out _).trans ((wake_out _).trans (at_out s t))
  have hsys : (s.at t).wake.countWrong.sys = (s.at t).wake.sys := State.countWrong_view State.ev_sys _
  obtain ⟨v, hexec, hsecrets, hvstate, hvout⟩ := runs_restart_refused htakes hnot hgate Nat.one_ne_zero hout
  rw [countWrong_fifth (by rwa [wake_secrets]), wake_secrets] at hsecrets
  rw [hsys, wake_sys, at_sys_state, hstate] at hvstate
  exact ⟨v, hexec, congrArg Secrets.wrong hsecrets, congrArg Secrets.lock hsecrets,
    (congrArg Secrets.pass hsecrets).trans (hpass :), hvstate, hvout⟩

/-- RESTART during a lockout is LOCKED_OUT and leaves the secrets and the state. -/
theorem runs_restart_locked {t : Nat} {q : CfgReq} {s : State} (htakes : (s.at t).takes q 0x21)
    (hlock : (s.at t).secrets.lock ≠ 0) :
    Runs (.restart t q) s fun v =>
      v.secrets = (s.at t).secrets ∧ v.sys.state = s.sys.state ∧ v.out = answerTo q 0x21 2 [] := by
  have hgate : (s.at t).wake.gate q [.commission] false = (2, (s.at t).wake) := gate_locked (by rwa [wake_secrets]) ..
  rw [← at_sys_state s t, ← wake_secrets, ← wake_sys]
  exact runs_restart_refused htakes (fun ⟨hfree, _⟩ => hlock hfree) hgate (Nat.succ_ne_zero 1) ((wake_out _).trans (at_out s t))

/-- LOCKOUT_END clears the count of wrong passwords alone. -/
theorem runs_lockoutEnd_secrets {t : Nat} {s : State} (hon : s.sup.on = true) (hlock : (s.at t).secrets.lock = 0)
    (hcount : 5 ≤ (s.at t).secrets.wrong) :
    Runs (.lockoutEnd t) s fun v => v.secrets = { (s.at t).secrets with wrong := 0 } := by
  refine runs_finish (exec_lockoutEnd ..) ?_
  rw [if_pos ⟨(at_sup s t).symm ▸ hon, hlock, hcount⟩, settle_secrets, secrets_putSecrets]

/-- Settles O29: one lemma per command, and the two refusals of a RESTART. -/
theorem secretsChangeAsStated : Obligations.SecretsChangeAsStated := by
  unfold Obligations.SecretsChangeAsStated
  refine ⟨?enrol, ?setPassword, ?fifth, ?locked, fun t s hon hlock hcount => runs_lockoutEnd_secrets hon hlock hcount⟩
  case enrol =>
    exact fun t p q k w s htakes hnone hstate hseals hk hw hlo hhi hroom =>
      runs_enrol_first htakes hnone hstate hseals hk hw ⟨hlo, hhi⟩ hroom
  case setPassword =>
    exact fun t q w s htakes hknows hstate hseals hw hroom => runs_setPassword_stores htakes hknows hstate hseals hw hroom
  case fifth => exact fun t q h s htakes hstate hlock hpass hwrong hcount =>
    runs_restart_fifth htakes hstate hlock hpass hwrong hcount
  case locked => exact fun t q s htakes hlock => runs_restart_locked htakes hlock

/-! ## FIELD_RESET and CLEAR_DOLDRUMS -/

/-- The die's wake is nothing to a certificate. -/
theorem wake_certOk (c : Cert) (nonce : Bytes) (s : State) : s.wake.certOk c nonce = s.certOk c nonce := by
  unfold State.certOk State.dev
  rw [show s.wake.clk = s.clk from wake_same (p := .clk) (by decide) s]

/-- FIELD_RESET in COMMISSION with the seals in PROGRAM stores no secret for an accepted certificate, and
changes none for another. -/
theorem runs_fieldReset_clears {t : Nat} {q : CfgReq} {c : Cert} {s : State} (htakes : (s.at t).takes q 0x70)
    (hstate : s.sys.state = .commission) (hseals : s.sealClass = .program) (hroom : 1 ≤ s.logFree) :
    Runs (.fieldReset t q c) s fun v =>
      v.cfg.slots = s.cfg.slots ∧ v.cfg.role = s.cfg.role ∧
        v.secrets = if (s.at t).certOk c s.dbg.nonce then {} else (s.at t).secrets := by
  have hfree : ¬ (s.at t).wake.logFree = 0 := by rw [wake_logFree, at_logFree]; omega
  have hcfg : (s.at t).wake.cfg = s.cfg := (wake_cfg _).trans (at_cfg s t)
  refine runs_finish (exec_fieldReset ..) ?_
  rw [serve_new htakes (by decide)]
  simp only [wake_sys, at_sys_state, hstate, wake_dbg, at_dbg, wake_certOk, wake_sealClass, at_sealClass, hseals, hfree, ne_eq,
    not_true, if_false, plain]
  cases hcert : (s.at t).certOk c s.dbg.nonce with
  | true =>
    simp only [Bool.not_true, Bool.false_eq_true, if_false, if_true]
    obtain ⟨hsecrets, -, hrole, hslots, -⟩ := stored_answered (s := (s.at t).wake) ((wake_out _).trans (at_out s t)) {} q 0x70 6
    rw [hcfg] at hrole hslots
    exact ⟨hslots, hrole, hsecrets⟩
  | false =>
    simp only [Bool.not_false, Bool.false_eq_true, if_false, if_true]
    rw [settle_cfg, answer_slots, answer_role, hcfg, settle_secrets, answer_secrets, wake_secrets]
    exact ⟨rfl, rfl, rfl⟩

/-- FIELD_RESET without one of its three conditions changes no secret and no slot. -/
theorem runs_fieldReset_refused {t : Nat} {q : CfgReq} {c : Cert} {s : State}
    (hrefused : s.sys.state ≠ .commission ∨ (s.at t).certOk c s.dbg.nonce = false ∨ s.sealClass ≠ .program) :
    Runs (.fieldReset t q c) s fun v => v.secrets = (s.at t).secrets ∧ v.cfg.slots = s.cfg.slots := by
  refine runs_finish (exec_fieldReset ..) ?_
  rw [settle_secrets, settle_cfg, ← at_cfg s t]
  refine Prod.mk.inj (serve_keeps (view := fun u => (u.secrets, u.cfg.slots)) q (by decide) (fun _ => rfl) ?_)
  simp only [wake_sys, at_sys_state, wake_dbg, at_dbg, wake_certOk, wake_sealClass, at_sealClass]
  split
  case isTrue => rfl
  case isFalse hstate =>
    split
    case isTrue => rfl
    case isFalse hcert =>
      have hseals : s.sealClass ≠ .program :=
        (hrefused.resolve_left hstate).resolve_left fun h => hcert (by rw [h]; rfl)
      rw [if_pos hseals]
      rfl

/-- The gate keeps the start counter: of the non-volatile memory it writes the secrets alone. -/
theorem gate_counter (q : CfgReq) (states : List St) (seals : Bool) (s : State) :
    (s.gate q states seals).2.nvm.counter = s.nvm.counter := by
  have hcount : s.countWrong.nvm.counter = s.nvm.counter :=
    State.countWrong_view (view := fun u => u.nvm.counter) (fun c k b d u => congrArg Nvm.counter (State.ev_nvm c k b d u)) s
  rcases gate_snd_eq q states seals s with hgate | hgate
  · rw [hgate]
  · rw [hgate]
    rcases checkPass_cases q s with ⟨-, hcheck⟩ | ⟨-, hcheck⟩ | ⟨-, hcheck⟩
    · rw [hcheck]
    · rw [hcheck]; rfl
    · rw [hcheck]; exact hcount

/-- CLEAR_DOLDRUMS without the right password leaves the state and the start counter. -/
theorem runs_clearDoldrums_unknown {t : Nat} {q : CfgReq} {s : State} (hnot : ¬ (s.at t).knows q) :
    Runs (.clearDoldrums t q) s fun v => v.sys.state = s.sys.state ∧ v.nvm.counter = s.nvm.counter := by
  have hgate := gate_same (p := .sys) (by decide) q [.doldrums] true (s.at t).wake
  have hcounter := gate_counter q [.doldrums] true (s.at t).wake
  refine runs_finish (exec_clearDoldrums ..) ?_
  simp only [not_acts hnot, Bool.false_eq_true, if_false]
  rw [settle_sys, settle_nvm, ← at_sys_state s t, ← at_nvm_counter s t]
  refine Prod.mk.inj (serve_keeps (view := fun u => (u.sys.state, u.nvm.counter)) q (by decide) (fun _ => rfl) ?_)
  have hkept : (((s.at t).wake.gate q [.doldrums] true).2.sys.state, ((s.at t).wake.gate q [.doldrums] true).2.nvm.counter) =
      ((s.at t).wake.sys.state, (s.at t).wake.nvm.counter) := Prod.ext (congrArg Sys.state hgate) hcounter
  rw [gated_eq]
  split
  case isTrue => exact hkept
  case isFalse => exact hkept

/-- Settles O30: FIELD_RESET under its conditions and without one of them, and CLEAR_DOLDRUMS without the password. -/
theorem fieldResetNeedsItsThreeConditions : Obligations.FieldResetNeedsItsThreeConditions := by
  unfold Obligations.FieldResetNeedsItsThreeConditions
  refine ⟨?clears, fun t q c s hrefused => runs_fieldReset_refused hrefused, ?doldrums⟩
  case clears =>
    intro t q c s htakes hstate hseals hroom
    obtain ⟨v, hexec, hslots, hrole, hsecrets⟩ := runs_fieldReset_clears (c := c) htakes hstate hseals hroom
    refine ⟨v, hexec, hslots, hrole, ?_⟩
    split
    case isTrue hcert => rw [hsecrets, if_pos hcert]; exact ⟨rfl, rfl, rfl, rfl⟩
    case isFalse hcert => rw [hsecrets, if_neg hcert]
  case doldrums =>
    intro t q s hstate hnot
    obtain ⟨v, hexec, hvstate, hcounter⟩ := runs_clearDoldrums_unknown hnot
    exact ⟨v, hexec, hvstate.trans hstate, hcounter⟩

end Sys2Proof.Machine
end

section
/-! SUPPORT. Frame intake: the state of a stream after a frame, and the delivery of a sealed frame to the host (06 R169, Table 6.4;
16 R457). -/

namespace Sys2Proof.Machine

/-! ## A structure with its CRC -/

theorem leVal_leBytes (k n : Nat) : leVal (leBytes k n) = n % 256 ^ k := by
  induction k generalizing n with
  | zero => rw [Nat.pow_zero, Nat.mod_one]; rfl
  | succ k ih =>
    have hbyte : (byte n).toNat = n % 256 := BitVec.toNat_ofNat n 8
    rw [leBytes, leVal, ih, hbyte, Nat.pow_succ', Nat.mod_mul]

theorem revBits_lt (w n : Nat) : revBits w n < 2 ^ w := by
  induction w generalizing n with
  | zero => exact Nat.one_pos
  | succ w ih =>
    have hrest := ih (n / 2)
    have hbit : n % 2 * 2 ^ w ≤ 1 * 2 ^ w := Nat.mul_le_mul_right _ (by omega)
    rw [revBits, Nat.pow_succ]
    omega

/-- A reflected CRC register keeps its width. -/
theorem crcBitsR_lt {w p c : Nat} (hp : p < 2 ^ w) (k : Nat) (hc : c < 2 ^ w) : crcBitsR p k c < 2 ^ w := by
  induction k generalizing c with
  | zero => exact hc
  | succ k ih =>
    have hhalf : c / 2 < 2 ^ w := Nat.lt_of_le_of_lt (Nat.div_le_self c 2) hc
    refine ih ?_
    split
    · exact Nat.xor_lt_two_pow hhalf hp
    · exact hhalf

theorem crcFeed_lt {m : CrcModel} (hrefl : m.refl = true) (hwidth : 8 ≤ m.width) (bs : Bytes) {c : Nat} (hc : c < 2 ^ m.width) :
    crcFeed m bs c < 2 ^ m.width := by
  induction bs generalizing c with
  | nil => exact hc
  | cons b bs ih =>
    have hb : b.toNat < 2 ^ m.width := Nat.lt_of_lt_of_le b.isLt (Nat.pow_le_pow_right Nat.two_pos hwidth)
    rw [crcFeed, if_pos hrefl]
    exact ih (crcBitsR_lt (revBits_lt ..) 8 (Nat.xor_lt_two_pow hc hb))

theorem crc32c_lt (bs : Bytes) : crc32c bs < 2 ^ 32 :=
  Nat.xor_lt_two_pow
    (crcFeed_lt (m := ⟨32, 0x1EDC6F41, 0xFFFFFFFF, true, 0xFFFFFFFF⟩) rfl (by decide) bs (by decide)) (by decide)

/-- A structure to which its CRC-32C has been appended carries a correct CRC. -/
theorem crcOk_withCrc (bs : Bytes) : crcOk (withCrc bs) = true := by
  have hlen : (withCrc bs).length - 4 = bs.length := by
    rw [withCrc, List.length_append, leBytes_length, Nat.add_sub_cancel]
  have hval : leVal (leBytes 4 (crc32c bs)) = crc32c bs := by
    rw [leVal_leBytes, show 256 ^ 4 = 2 ^ 32 from rfl, Nat.mod_eq_of_lt (crc32c_lt bs)]
  rw [crcOk, hlen, withCrc, List.drop_left, List.take_left, hval, beq_self_eq_true]

/-! ## The state of a stream after a frame (Table 6.4) -/

/-- In RECOVERING a good frame is counted, and the fourth makes the stream LIVE. -/
theorem Stream.afterFrame_recovering_good {x : Stream} (h : x.state = .recovering) :
    x.afterFrame true =
      if 4 ≤ x.good + 1 then { x with state := .live, good := 4, lostMark := false } else { x with good := x.good + 1 } := by
  rw [Stream.afterFrame, h]
  rfl

/-- In RECOVERING any frame that is not good starts the count again. -/
theorem Stream.afterFrame_recovering_bad {x : Stream} (h : x.state = .recovering) : x.afterFrame false = { x with good := 0 } := by
  rw [Stream.afterFrame, h]
  rfl

/-- A FROZEN stream waits for a good frame, the first of its recovery. -/
theorem Stream.afterFrame_frozen {x : Stream} (h : x.state = .frozen) (good : Bool) :
    x.afterFrame good = if good then { x with state := .recovering, good := 1 } else x := by
  rw [Stream.afterFrame, h]

/-! ## What a delivery reads -/

@[simp] theorem at_strm (t n : Nat) (s : State) : (s.at t).strm n = s.strm n :=
  congrArg (fun f : Fiu => getN f.streams n) (at_fiu s t)

@[simp] theorem at_img (t : Nat) (s : State) : (s.at t).img = s.img := congrArg Cfg.img (at_cfg s t)

@[simp] theorem send_strm (n : Nat) (o : Output) (s : State) : (s.send o).strm n = s.strm n := rfl

@[simp] theorem onStream_hq (n : Nat) (f : Stream → Stream) (s : State) : (s.onStream n f).hq = s.hq := rfl

@[simp] theorem onStream_out (n : Nat) (f : Stream → Stream) (s : State) : (s.onStream n f).out = s.out := rfl

@[simp] theorem settle_strm (n : Nat) (s : State) : (settle s).strm n = s.strm n := rfl

/-- Only a stream of the sixteen takes frames. -/
theorem lt_of_streamOn {n : Nat} {s : State} (h : s.streamOn n = true) : n < 16 := by
  simp only [State.streamOn, Bool.and_eq_true, decide_eq_true_eq] at h
  obtain ⟨⟨⟨-, hn⟩, -⟩, -⟩ := h
  exact hn

theorem strm_onStream_self {n : Nat} {s : State} (h : n < s.fiu.streams.length) (f : Stream → Stream) :
    (s.onStream n f).strm n = f (s.strm n) := getN_modN_self _ _ _ h

@[simp] theorem onStream_streams_length (n : Nat) (f : Stream → Stream) (s : State) :
    (s.onStream n f).fiu.streams.length = s.fiu.streams.length := modN_length ..

@[simp] theorem at_slotAddr (t n k : Nat) (s : State) : (s.at t).slotAddr n k = s.slotAddr n k := by
  simp only [State.slotAddr, at_img]

@[simp] theorem at_slotOf (t n seq : Nat) (s : State) : (s.at t).slotOf n seq = s.slotOf n seq := by
  simp only [State.slotOf, at_strm]

@[simp] theorem at_peekN (t a n : Nat) (s : State) : (s.at t).peekN a n = s.peekN a n := by
  simp only [State.peekN, State.peek, at_mem]

/-! ## The end of a delivery -/

theorem filter_ne_cons_self (a : Nat) (l : List Nat) : (a :: l).filter (· != a) = l.filter (· != a) :=
  List.filter_cons_of_neg (by simp)

@[simp] theorem deliveryEnd_mem (n seq : Nat) (s : State) : (s.deliveryEnd n seq).mem = s.mem :=
  (State.deliveryEnd_moves n seq (Moves.refl _ s) (List.Subset.refl _)).same .mem (by decide)

/-- The frame leaves the list of frames to be delivered, and the stream's count of skipped frames stays. -/
theorem strm_deliveryEnd {n : Nat} {s : State} (h : n < s.fiu.streams.length) (seq : Nat) :
    ((s.deliveryEnd n seq).strm n).deliver = (s.strm n).deliver.filter (· != seq) ∧
      ((s.deliveryEnd n seq).strm n).skip = (s.strm n).skip := by
  have hclose : ∀ (u : State) (c : Bool), (if c then u else u.jClose jFrame n seq).strm n = u.strm n := by
    intro u c; cases c <;> rfl
  unfold State.deliveryEnd State.onSlot
  rw [hclose, strm_onStream_self (by simpa using h), strm_onStream_self h]
  exact ⟨rfl, rfl⟩

@[simp] theorem deliveryEnd_out (n seq : Nat) (s : State) : (s.deliveryEnd n seq).out = s.out := by
  unfold State.deliveryEnd
  dsimp only
  split <;> rfl

/-! ## The completion of a buffer -/

theorem State.deliveryDone_same {p : Part} (hp : p ∉ [Part.hq]) (n seq bytes : Nat) (ok : Bool) (s : State) :
    p.Same s (s.deliveryDone n seq bytes ok) :=
  (State.deliveryDone_moves n seq bytes ok (Moves.refl _ s) (List.Subset.refl _)).same p hp

@[simp] theorem deliveryDone_fiu (n seq bytes : Nat) (ok : Bool) (s : State) : (s.deliveryDone n seq bytes ok).fiu = s.fiu :=
  State.deliveryDone_same (p := .fiu) (by decide) ..

@[simp] theorem deliveryDone_mem (n seq bytes : Nat) (ok : Bool) (s : State) : (s.deliveryDone n seq bytes ok).mem = s.mem :=
  State.deliveryDone_same (p := .mem) (by decide) ..

@[simp] theorem deliveryDone_strm (k n seq bytes : Nat) (ok : Bool) (s : State) :
    (s.deliveryDone n seq bytes ok).strm k = s.strm k := by
  rw [State.strm, deliveryDone_fiu, State.strm]

/-- Of what leaves the module, a completion counted for a vector adds at most the signal. -/
theorem msiPost_out (q : Nat) (s : State) : (s.msiPost q).out = s.out ∨ (s.msiPost q).out = s.out ++ [.msix q] := by
  unfold State.msiPost State.msiDue
  dsimp only
  split
  · exact .inr rfl
  · exact .inl rfl

/-- A consumed buffer is answered at the head of its ring, and nothing else is written to the host. -/
theorem deliveryDone_out (n seq bytes : Nat) (ok : Bool) (s : State) :
    ∃ d l, (s.deliveryDone n seq bytes ok).out =
        s.out ++ .hostWrite ((getN s.hq.rings n).base + (getN s.hq.rings n).head * 16) d :: l ∧
      ∀ a x, Output.hostWrite a x ∉ l := by
  unfold State.deliveryDone
  dsimp only
  rcases msiPost_out (getN s.hq.rings n).vector ((s.send _).onRing n _) with h | h
  · exact ⟨_, [], h, fun _ _ => List.not_mem_nil⟩
  · exact ⟨_, [.msix _], h.trans (List.append_assoc ..), by simp⟩

/-- What a delivery leaves once its buffer is consumed: the frame is off the list, memory stays, and of host memory the completion
alone is written. -/
theorem runs_bufferConsumed {c : Instr} {s u : State} {n seq bytes : Nat} {ok : Bool}
    (hexec : exec c s = .next (settle ((u.deliveryDone n seq bytes ok).deliveryEnd n seq))) (hn : n < u.fiu.streams.length) :
    Runs c s fun v =>
      (v.strm n).deliver = (u.strm n).deliver.filter (· != seq) ∧ (v.strm n).skip = (u.strm n).skip ∧ v.mem = u.mem ∧
      ∃ d o, v.out = u.out ++ .hostWrite ((getN u.hq.rings n).base + (getN u.hq.rings n).head * 16) d :: o ∧
        ∀ a x, Output.hostWrite a x ∉ o := by
  obtain ⟨d, o, hout, honly⟩ := deliveryDone_out n seq bytes ok u
  obtain ⟨hdeliver, hskip⟩ := strm_deliveryEnd (s := u.deliveryDone n seq bytes ok) (by rwa [deliveryDone_fiu]) seq
  rw [deliveryDone_strm] at hdeliver hskip
  refine ⟨_, hexec, ?_⟩
  simp only [settle_strm, settle_mem, settle_out, deliveryEnd_mem, deliveryDone_mem, deliveryEnd_out, true_and]
  exact ⟨hdeliver, hskip, d, o, hout, honly⟩

/-! ## FRAME_DELIVERY_COMPLETE -/

/-- The header written before the payload of a delivered frame: its seal, the length of its payload, and their CRC (06 R169). -/
def State.deliveryHeader (n seq : Nat) (r : StreamRec) (s : State) : Bytes :=
  withCrc (sealBytes n (((s.strm n).hist.find? (·.seq == seq)).getD default) ++ leBytes 4 r.frameBytes)

section Delivery
variable {t n seq : Nat} {l : List Nat} {b : BufDesc} {r : StreamRec} {s : State}
variable (hrec : s.img.stream n = some r) (hqueued : (s.strm n).deliver = seq :: l) (hon : (s.at t).streamOn n = true)
variable (hlink : (s.at t).linkUp = true) (hen : (getN s.hq.rings n).en = true)
variable (hposted : (getN s.hq.rings n).head ≠ (getN s.hq.rings n).tail)
include hrec hqueued hon hlink hen hposted

/-- A buffer that is long enough takes the payload and then the header. -/
theorem exec_frameDeliveryComplete_fits (hfits : r.frameBytes + 32 ≤ b.length) :
    exec (.frameDeliveryComplete t n b) s = .next (settle
      (((((s.at t).send (.hostWrite (b.addr + 32) (s.peekN (s.slotAddr n ((s.slotOf n seq).getD 0)) r.frameBytes))).send
        (.hostWrite b.addr (s.deliveryHeader n seq r))).deliveryDone n seq r.frameBytes true).deliveryEnd n seq)) := by
  rw [exec_frameDeliveryComplete]; unfold execFrameDeliveryComplete finish
  simp only [at_img, at_strm, at_hq, at_slotAddr, at_slotOf, at_peekN, hrec, hqueued, hon, hlink, hen, hposted,
    Nat.not_lt.mpr hfits, Bool.not_true, Bool.false_eq_true, or_self, if_false, State.deliveryHeader]

/-- A buffer that is too short is skipped: the frame is counted, and the buffer goes back unwritten. -/
theorem exec_frameDeliveryComplete_short (hshort : b.length < r.frameBytes + 32) :
    exec (.frameDeliveryComplete t n b) s = .next (settle
      ((((s.at t).onStream n fun x => { x with skip := satInc x.skip }).deliveryDone n seq 0 false).deliveryEnd n seq)) := by
  rw [exec_frameDeliveryComplete]; unfold execFrameDeliveryComplete finish
  simp only [at_img, at_strm, at_hq, hrec, hqueued, hon, hlink, hen, hposted, hshort, Bool.not_true, Bool.false_eq_true, or_self,
    if_false, if_true]

/-- A delivered frame leaves its list, its payload and then its header are written, and memory stays. -/
theorem runs_frameDeliveryComplete_delivers (hs : s.shaped) (hfits : r.frameBytes + 32 ≤ b.length) :
    Runs (.frameDeliveryComplete t n b) s fun v =>
      (v.strm n).deliver = l.filter (· != seq) ∧ (v.strm n).skip = (s.strm n).skip ∧ v.mem = s.mem ∧
      ∃ o h, v.out = .hostWrite (b.addr + 32) (s.peekN (s.slotAddr n ((s.slotOf n seq).getD 0)) r.frameBytes) ::
        .hostWrite b.addr h :: o ∧ crcOk h = true := by
  have hn : n < (s.at t).fiu.streams.length := by rw [at_fiu, hs.fiu]; exact lt_of_streamOn hon
  obtain ⟨v, hexec, hdeliver, hskip, hmem, d, o, hout, -⟩ :=
    runs_bufferConsumed (exec_frameDeliveryComplete_fits hrec hqueued hon hlink hen hposted hfits) hn
  simp only [send_strm, at_strm] at hdeliver hskip
  rw [hqueued, filter_ne_cons_self] at hdeliver
  rw [send_out, send_out, at_out] at hout
  exact ⟨v, hexec, hdeliver, hskip, hmem.trans (at_mem s t), _, _, hout, crcOk_withCrc _⟩

/-- A skipped frame leaves its list and is counted, and of host memory the completion of the buffer alone is written. -/
theorem runs_frameDeliveryComplete_skips (hs : s.shaped) (hshort : b.length < r.frameBytes + 32) :
    Runs (.frameDeliveryComplete t n b) s fun v =>
      (v.strm n).deliver = l.filter (· != seq) ∧ (v.strm n).skip = satInc (s.strm n).skip ∧
      ∀ x d, Output.hostWrite x d ∈ v.out → x = (getN s.hq.rings n).base + (getN s.hq.rings n).head * 16 := by
  have hn : n < (s.at t).fiu.streams.length := by rw [at_fiu, hs.fiu]; exact lt_of_streamOn hon
  obtain ⟨v, hexec, hdeliver, hskip, -, d, o, hout, honly⟩ :=
    runs_bufferConsumed (exec_frameDeliveryComplete_short hrec hqueued hon hlink hen hposted hshort) (by simpa using hn)
  rw [strm_onStream_self hn, at_strm] at hdeliver hskip
  rw [hqueued, filter_ne_cons_self] at hdeliver
  refine ⟨v, hexec, hdeliver, hskip, fun x y hwrite => ?_⟩
  rw [hout, onStream_out, at_out, List.nil_append, List.mem_cons] at hwrite
  rcases hwrite with hfirst | hlater
  · rw [onStream_hq, at_hq] at hfirst
    exact (Output.hostWrite.inj hfirst).1
  · exact absurd hlater (honly x y)

end Delivery

/-- Settles O34: the completion of each command, the state after a frame row by row of Table 6.4, and the two ways in which a
buffer is consumed. -/
theorem streamsFollowTable64 : Obligations.StreamsFollowTable64 := by
  unfold Obligations.StreamsFollowTable64
  refine ⟨runs_checkFinalStatus, ?recovering, ?frozen, runs_streamStallExpiry, ?delivers, ?skips⟩
  case recovering =>
    intro x hstate hgood
    rw [Stream.afterFrame_recovering_good hstate, Stream.afterFrame_recovering_bad hstate, hgood]
    exact ⟨rfl, hstate, rfl⟩
  case frozen =>
    intro x hstate
    rw [Stream.afterFrame_frozen hstate, Stream.afterFrame_frozen hstate]
    exact ⟨rfl, rfl, rfl⟩
  case delivers =>
    exact fun t n seq l b r s hrec hqueued hon hs hlink hen hposted hfits =>
      runs_frameDeliveryComplete_delivers hrec hqueued hon hlink hen hposted hs hfits
  case skips =>
    exact fun t n seq l b r s hrec hqueued hon hs hlink hen hposted hshort =>
      runs_frameDeliveryComplete_skips hrec hqueued hon hlink hen hposted hs hshort

end Sys2Proof.Machine
end

section
/-! SUPPORT. The fusion unit: ticks of the ego-motion estimator, and the closing of an epoch (07 R187, R191, R192, R194, R195,
R200). -/

namespace Sys2Proof.Machine

/-! ## Discontinuities (R191, R192) -/

@[simp] theorem evOpen_fgu (block : Nat) (name : String) (k d : Nat) (s : State) : (s.evOpen block name k d).fgu = s.fgu :=
  State.evOpen_same (p := .fgu) (by decide) ..

@[simp] theorem fguReset_fgu (cause : Nat) (s : State) :
    (s.fguReset cause).fgu =
      { s.fgu with zeroDue := true, resetCause := cause, resets := satInc s.fgu.resets, events := s.fgu.events ||| 4,
                   resetDue := if s.fgu.job.isSome then some cause else none } := rfl

/-- What a declared discontinuity leaves in the unit: the break with its cause, and the reset of the recurrent state. -/
theorem discontinuity_breaks (cause : Nat) (s : State) :
    let v := s.discontinuity cause
    v.fgu.broken = true ∧ v.fgu.egoValid = false ∧ v.fgu.goodTicks = 0 ∧ v.fgu.egoCause = cause ∧
      v.fgu.disconts = satInc s.fgu.disconts ∧ v.fgu.zeroDue = true ∧ v.fgu.resetCause = 3 := by
  simp only [State.discontinuity, fguReset_fgu, evOpen_fgu, onFgu_fgu, and_self]

/-! ## The record of a tick (R187, R191) -/

/-- The consecutive good ticks since the last declaration, this tick included (R191). -/
def State.goodRun (e : EgoIn) (declared : Bool) (s : State) : Nat :=
  if declared ∨ !s.tickGood e then 0 else s.fgu.goodTicks + 1

theorem goodRun_spoilt {e : EgoIn} {declared : Bool} {s : State} (h : declared = true ∨ s.tickGood e = false) :
    s.goodRun e declared = 0 := by
  unfold State.goodRun
  rw [if_pos (by simpa using h)]

theorem goodRun_good {e : EgoIn} {s : State} (h : s.tickGood e = true) : s.goodRun e false = s.fgu.goodTicks + 1 := by
  simp [State.goodRun, h]

theorem goodRun_le (e : EgoIn) (declared : Bool) (s : State) : s.goodRun e declared ≤ s.fgu.goodTicks + 1 := by
  unfold State.goodRun
  split
  · exact Nat.zero_le _
  · exact Nat.le_refl _

section Record
variable (was : Fgu) (e : EgoIn) (declared : Bool) (s : State)

theorem tickRecord_broken : (s.tickRecord was e declared).fgu.broken = (s.fgu.broken && decide (s.goodRun e declared < 5)) := rfl

theorem tickRecord_goodTicks :
    (s.tickRecord was e declared).fgu.goodTicks = if s.fgu.broken then s.goodRun e declared else 0 := rfl

/-- The estimate is valid where no discontinuity lasts. -/
theorem tickRecord_egoValid : (s.tickRecord was e declared).fgu.egoValid = !(s.tickRecord was e declared).fgu.broken := rfl

/-- The newest pose is that of the tick, with the validity of the estimate. -/
theorem tickRecord_pose :
    ∃ p, (s.tickRecord was e declared).fgu.poses.head? = some p ∧ p.tick = e.tick ∧
      p.valid = (s.tickRecord was e declared).fgu.egoValid :=
  ⟨_, rfl, rfl, rfl⟩

variable {was e declared s}

/-- Outside a discontinuity every tick has a valid estimate. -/
theorem tickRecord_unbroken (h : s.fgu.broken = false) : (s.tickRecord was e declared).fgu.egoValid = true := by
  rw [tickRecord_egoValid, tickRecord_broken, h, Bool.false_and, Bool.not_false]

/-- A discontinuity lasts while fewer than five good ticks stand in a row. -/
theorem tickRecord_lasts (h : s.fgu.broken = true) (hrun : s.goodRun e declared < 5) :
    (s.tickRecord was e declared).fgu.egoValid = false := by
  rw [tickRecord_egoValid, tickRecord_broken, h, Bool.true_and, decide_eq_true hrun, Bool.not_true]

/-- The fifth good tick in a row ends the discontinuity. -/
theorem tickRecord_resumes (hrun : 5 ≤ s.goodRun e declared) :
    (s.tickRecord was e declared).fgu.egoValid = true ∧ (s.tickRecord was e declared).fgu.broken = false := by
  have hbroken : (s.tickRecord was e declared).fgu.broken = false := by
    rw [tickRecord_broken, decide_eq_false (Nat.not_lt.mpr hrun), Bool.and_false]
  exact ⟨by rw [tickRecord_egoValid, hbroken, Bool.not_false], hbroken⟩

end Record

/-! ## The closing of an epoch (R194, R195) -/

@[simp] theorem wake_fgu (s : State) : s.wake.fgu = s.fgu := wake_same (p := .fgu) (by decide) s

@[simp] theorem releaseEpoch_fgu (num : Nat) (s : State) : (s.releaseEpoch num).fgu = s.fgu :=
  (State.releaseEpoch_moves num (Moves.refl _ s) (List.Subset.refl _)).same .fgu (by decide)

@[simp] theorem onEpoch_fgu (num : Nat) (f : Epoch → Epoch) (s : State) :
    (s.onEpoch num f).fgu = { s.fgu with epochs := s.fgu.epochs.map fun e => if e.num = num then f e else e } := rfl

/-- What a change keeps for every value, it keeps where a value may be missing. -/
theorem State.with_keeps {α β : Type} {view : State → β} {f : α → State → State} (h : ∀ a s, view (f a s) = view s)
    (o : Option α) (s : State) : view (s.with o f) = view s := by
  cases o with
  | none => rfl
  | some a => exact h a s

/-- The wake and the entry in the list of closings with which an epoch ends leave the unit. -/
theorem onVrd_ite_wake_fgu (c : Prop) [Decidable c] (f : Vrd → Vrd) (s : State) :
    ((if c then s.wake else s).onVrd f).fgu = s.fgu := by
  rw [onVrd_fgu]
  split
  · exact wake_fgu s
  · rfl

/-- The unit after an epoch has closed: none is open, nothing has arrived for the next, and the number goes on. Skipping an older
waiting epoch keeps the opening and the number. -/
theorem closeEpoch_control (s : State) :
    s.closeEpoch.fgu.openAt = none ∧ s.closeEpoch.fgu.prevOpen = s.fgu.openAt ∧ s.closeEpoch.fgu.firstEntry = none ∧
      s.closeEpoch.fgu.nextEpoch = serialNext s.fgu.nextEpoch ∧ s.closeEpoch.fgu.lastClosed = s.fgu.nextEpoch ∧
      s.closeEpoch.fgu.arrived = List.replicate 16 false := by
  unfold State.closeEpoch
  rw [onVrd_ite_wake_fgu, onFgu_fgu]
  refine ⟨rfl, State.with_keeps (view := (·.fgu.openAt)) (fun w u => ?opening) _ s, rfl,
    congrArg serialNext (State.with_keeps (view := (·.fgu.nextEpoch)) (fun w u => ?number) _ s), rfl, rfl⟩
  case opening => rw [onEpoch_fgu, releaseEpoch_fgu]
  case number => rw [onEpoch_fgu, releaseEpoch_fgu]

/-- The record of a closed epoch stands first, with the frames taken of its members. -/
theorem closeEpoch_record (s : State) :
    (s.closeEpoch.fgu.epochs.head?.map fun e => (e.num, e.members)) =
      some (s.fgu.nextEpoch, s.members.filterMap fun n => (s.taken n).map fun q => (n, q)) := by
  unfold State.closeEpoch
  rw [onVrd_ite_wake_fgu, onFgu_fgu]
  rw [List.head?_take, if_neg (by decide), List.head?_cons, Option.map_some, List.filterMap_map]
  rfl

/-- Settles O35: the completion of each command, what a declared discontinuity leaves, the record of a tick inside and outside a
discontinuity, and what a closed epoch leaves. -/
theorem epochsTicksAndGuardJobsAct : Obligations.EpochsTicksAndGuardJobsAct := by
  unfold Obligations.EpochsTicksAndGuardJobsAct
  refine ⟨runs_egoTick, discontinuity_breaks, ?record, runs_epochOpen, runs_epochWaitExpiry, ?closes, runs_guardJobStart⟩
  case record =>
    intro was e declared s
    refine ⟨tickRecord_pose was e declared s, tickRecord_unbroken, ?lasts, ?spoilt, ?good⟩
    case lasts =>
      intro hbroken hfew
      have hrun := goodRun_le e declared s
      exact tickRecord_lasts hbroken (by omega)
    case spoilt =>
      intro hbroken hspoilt
      have hrun : s.goodRun e declared = 0 := goodRun_spoilt hspoilt
      exact ⟨tickRecord_lasts hbroken (by omega), by rw [tickRecord_goodTicks, if_pos hbroken, hrun]⟩
    case good =>
      rintro hbroken rfl hgood
      have hrun : s.goodRun e false = s.fgu.goodTicks + 1 := goodRun_good hgood
      exact ⟨by rw [tickRecord_goodTicks, if_pos hbroken, hrun], fun hfour => tickRecord_resumes (by omega)⟩
  case closes =>
    intro s _
    obtain ⟨hopen, hprev, hfirst, hnext, hlast, harrived⟩ := closeEpoch_control s
    exact ⟨hopen, hprev, hfirst, hnext, hlast, harrived, closeEpoch_record s⟩

end Sys2Proof.Machine
end

section
/-! SUPPORT. The audit cores: one core of the register file, what a dispatch starts, and what a pass leaves that ends with a precise
fault (08 R225, R227, R231, R240, R247). -/

namespace Sys2Proof.Machine

/-! ## One core of the register file -/

@[simp] theorem at_acore (t n : Nat) (s : State) : (s.at t).acore n = s.acore n := State.acore_of_aud (at_aud s t) n

@[simp] theorem settle_acore (n : Nat) (s : State) : (settle s).acore n = s.acore n := rfl

@[simp] theorem onDbg_acore (f : Dbg → Dbg) (n : Nat) (s : State) : (s.onDbg f).acore n = s.acore n := rfl

@[simp] theorem zeroLocal_aud (n : Nat) (s : State) : (s.zeroLocal n).aud = s.aud := rfl

@[simp] theorem onCore_mem (n : Nat) (f : ACore → ACore) (s : State) : (s.onCore n f).mem = s.mem := rfl

@[simp] theorem onCore_cores_length (n : Nat) (f : ACore → ACore) (s : State) :
    (s.onCore n f).aud.cores.length = s.aud.cores.length := modN_length ..

/-- The core that a change is for. -/
theorem acore_onCore_self {n : Nat} {s : State} (hn : n < s.aud.cores.length) (f : ACore → ACore) :
    (s.onCore n f).acore n = f (s.acore n) := getN_modN_self _ _ _ hn

theorem acore_onCore_ne {n k : Nat} (h : k ≠ n) (f : ACore → ACore) (s : State) : (s.onCore n f).acore k = s.acore k :=
  getN_modN_ne _ _ _ _ h

theorem State.shaped.core_exists {s : State} (hs : s.shaped) {n : Nat} (hn : n < 16) : n < s.aud.cores.length := by
  rwa [hs.aud]

/-- A status entry stands on its core, counted (08 R227, R246). -/
theorem acore_statEntry_self {n : Nat} {s : State} (hn : n < s.aud.cores.length) (e : StatEntry) :
    (s.statEntry n e).acore n = { s.acore n with last := e, done := satInc (s.acore n).done } :=
  acore_onCore_self hn fun c => { c with last := e, done := satInc c.done }

@[simp] theorem statEntry_cores_length (n : Nat) (e : StatEntry) (s : State) :
    (s.statEntry n e).aud.cores.length = s.aud.cores.length := modN_length ..

@[simp] theorem statEntry_jobs (n : Nat) (e : StatEntry) (s : State) : (s.statEntry n e).aud.jobs = s.aud.jobs := rfl

@[simp] theorem onJob_acore (num : Nat) (f : Job → Job) (n : Nat) (s : State) : (s.onJob num f).acore n = s.acore n := rfl

@[simp] theorem freeSlots_aud (ks : List (Option Nat)) (s : State) : (s.freeSlots ks).aud = s.aud :=
  (State.freeSlots_moves ks (Moves.refl _ s) (List.Subset.refl _)).same .aud (by decide)

@[simp] theorem loseCopies_aud (p : PCopy → Bool) (s : State) :
    (s.loseCopies p).aud = { s.aud with copies := s.aud.copies.filter fun c => !p c } := by
  unfold State.loseCopies
  rw [onAud_aud, freeSlots_aud]

@[simp] theorem dropCopies_aud (job i : Nat) (s : State) : (s.dropCopies job i).aud =
    { s.aud with copies := s.aud.copies.filter fun c => !(c.job == job && c.index == i && c.mine.isSome) } :=
  loseCopies_aud _ s

@[simp] theorem dropCopies_acore (job i n : Nat) (s : State) : (s.dropCopies job i).acore n = s.acore n :=
  State.loseCopies_acore _ n s

/-- An operation that keeps the fixed lengths keeps core `n` in the register file. -/
theorem Moves.core_exists {w : List Part} {s u : State} (h : Moves w s u) (hs : s.shaped) {n : Nat} (hn : n < 16) :
    n < u.aud.cores.length := (h.shaped hs).core_exists hn

/-! ## Dispatch (R225, R240) -/

/-- A probation core takes a copy. -/
theorem exec_descriptorDispatch_copy {t n j i : Nat} {s : State} (hn : n < 16) (hdie : (s.at t).dieRuns = true)
    (hready : (s.at t).coreReady n = true) (hstate : (s.acore n).state = .probation) (hcopy : (s.at t).copyable = some (j, i)) :
    exec (.descriptorDispatch t n) s = .next (settle ((s.at t).takeCopy n j i)) := by
  rw [exec_descriptorDispatch]; unfold execDescriptorDispatch finish
  simp only [at_acore, hn, hdie, hready, hstate, hcopy, and_self, if_true, State.with]

/-- A core at work, with BIST due, fenced or under test takes nothing. -/
theorem exec_descriptorDispatch_unready {t n : Nat} {s : State}
    (h : (s.acore n).bistDue = true ∨ (s.acore n).run.isSome = true ∨
      (s.acore n).state = .fenced ∨ (s.acore n).state = .bist ∨ (s.acore n).state = .testing) :
    exec (.descriptorDispatch t n) s = .next (settle (s.at t)) := by
  rw [exec_descriptorDispatch]; unfold execDescriptorDispatch finish
  by_cases hready : (s.at t).coreReady n = true
  case neg =>
    dsimp only
    rw [if_neg fun ⟨_, _, hnow⟩ => hready hnow]
  case pos =>
    have hidle : (s.acore n).run = none ∧ (s.acore n).bistDue = false := by
      simp only [State.coreReady, at_acore, Bool.and_eq_true, Option.isNone_iff_eq_none, Bool.not_eq_true'] at hready
      obtain ⟨⟨⟨hidle, -⟩, -⟩, -⟩ := hready
      exact hidle
    obtain ⟨hrunning, hbist⟩ := hidle
    rw [hrunning, hbist] at h
    rcases h with hdue | hrun | hstate | hstate | hstate
    · exact absurd hdue Bool.false_ne_true
    · exact absurd hrun Bool.false_ne_true
    all_goals simp only [at_acore, hstate, ite_self]

/-- A pass of job `job` reserved for a core: its delay slot, the count of reruns, and its place in the job (10 R269, R272). -/
def State.reservePass (core job i pass : Nat) (j : Job) (s : State) : State :=
  let d := (j.descs[i]?).getD default
  let need := d.desc.cls ≠ 0xFF ∧ d.slot.isNone ∧ pass < 2
  let slot := if need then s.freeSlot else d.slot
  let s := if need then
      s.with slot fun k s => s.onVane fun v => { v with slots := setN v.slots k { used := true, job := job, index := i } }
    else s
  let s := if pass = 2 then s.onVane fun v => { v with arbitrated := satInc v.arbitrated } else s
  s.onJob job fun j =>
    { j with started := true, descs := modN j.descs i fun d => { d.setPass pass (.running core) with slot := slot } }

theorem State.reservePass_moves (core job i pass : Nat) (j : Job) (s : State) :
    Moves [.aud, .vane] s (s.reservePass core job i pass j) := by
  unfold State.reservePass
  refine State.onJob_moves _ _ (moves_ite (moves_onVane ?_ (by decide)) ?_) (by decide)
  all_goals exact moves_ite (moves_with (Moves.refl _ s) fun _ => moves_onVane (Moves.refl _ s) (by decide)) (Moves.refl _ s)

theorem startPass_eq {j : Nat} {x : Job} {s : State} (hjob : s.jobOf j = some x) (n i p : Nat) :
    ∃ l, s.startPass n j i p = (s.reservePass n j i p x).onCore n fun c =>
      { c with run := some { job := j, index := i, pass := p, start := (s.reservePass n j i p x).now, reads := l },
               gated := false } := by
  unfold State.startPass
  rw [hjob]
  exact ⟨_, rfl⟩

/-- A pass that starts is the one its core runs, since this instant, and the core is not gated (08 R225, 17 R472). -/
theorem startPass_runs {n j : Nat} {x : Job} {s : State} (hs : s.shaped) (hn : n < 16) (hjob : s.jobOf j = some x) (i p : Nat) :
    (∃ l, ((s.startPass n j i p).acore n).run = some { job := j, index := i, pass := p, start := s.now, reads := l }) ∧
      ((s.startPass n j i p).acore n).gated = false := by
  have hmoves := s.reservePass_moves n j i p x
  obtain ⟨l, hstart⟩ := startPass_eq hjob n i p
  rw [hstart, acore_onCore_self (hmoves.core_exists hs hn), hmoves.now]
  exact ⟨⟨l, rfl⟩, rfl⟩

/-- While debug is disabled no breakpoint stands in the way (18 R509). -/
theorem takePass_eq_startPass {j : Nat} {x : Job} {s : State} (hdbg : s.dbg.enabled = false) (hjob : s.jobOf j = some x)
    (n i p : Nat) : s.takePass n j i p = s.startPass n j i p := by
  unfold State.takePass
  simp only [hjob, State.hit, hdbg, Bool.false_eq_true, if_false]

/-! ## Jobs -/

theorem jobOf_of_jobs {s u : State} (h : u.aud.jobs = s.aud.jobs) (num : Nat) : u.jobOf num = s.jobOf num := by
  unfold State.jobOf; rw [h]

/-- A change of a job that keeps its number is a change of what its number finds. -/
theorem jobOf_onJob_self {f : Job → Job} (hf : ∀ j, (f j).num = j.num) (num : Nat) (s : State) :
    (s.onJob num f).jobOf num = (s.jobOf num).map f := by
  have hnum : (fun j : Job => j.num == num) ∘ (fun j => if j.num = num then f j else j) = fun j => j.num == num := by
    funext j
    simp only [Function.comp]
    split
    · rw [hf]
    · rfl
  unfold State.jobOf State.onJob
  rw [onAud_aud, List.find?_map, hnum]
  refine Option.map_congr fun j hj => if_pos ?_
  simpa using List.find?_some hj

@[simp] theorem dropCopies_jobOf (job i num : Nat) (s : State) : (s.dropCopies job i).jobOf num = s.jobOf num :=
  jobOf_of_jobs (by rw [dropCopies_aud]) num

/-- Job `num` stands in the table, with no result and no arbitration. -/
def State.Undecided (num : Nat) (s : State) : Prop := ∃ j, s.jobOf num = some j ∧ j.res = none ∧ j.arbitrating = none

theorem State.Undecided.of_jobs {num : Nat} {s u : State} (h : s.Undecided num) (hjobs : u.aud.jobs = s.aud.jobs) :
    u.Undecided num := by
  obtain ⟨j, hj, hopen⟩ := h
  exact ⟨j, (jobOf_of_jobs hjobs num).trans hj, hopen⟩

/-- A change of its descriptors alone leaves a job undecided. -/
theorem State.Undecided.onDescs {num : Nat} {s : State} (h : s.Undecided num) (f : List JobDesc → List JobDesc) :
    (s.onJob num fun j => { j with descs := f j.descs }).Undecided num := by
  obtain ⟨j, hj, hopen⟩ := h
  refine ⟨{ j with descs := f j.descs }, ?_, hopen⟩
  rw [jobOf_onJob_self (f := fun j => { j with descs := f j.descs }) fun _ => rfl, hj]
  rfl

theorem Job.fail_num (status : Nat) (untrusted : Bool) (j : Job) : (j.fail status untrusted).num = j.num := by
  unfold Job.fail
  split <;> rfl

/-- An undecided job that fails has failed (08 R231). -/
theorem State.Undecided.fail {num : Nat} {s : State} (h : s.Undecided num) (status : Nat) (untrusted : Bool) :
    ((s.onJob num (Job.fail status untrusted)).jobOf num).map (·.res) = some (some .failed) := by
  obtain ⟨j, hj, hres, harb⟩ := h
  rw [jobOf_onJob_self (Job.fail_num status untrusted), hj]
  simp only [Option.map_some, Job.fail, hres, harb, Option.isSome_none, Bool.false_eq_true, or_self, if_false]

/-! ## A precise fault (R231, R247) -/

/-- The fault recorder: the core, the kind, the address, the element and the count (08 R247). -/
def State.faultRecord (s : State) : Nat × Nat × Nat × Nat × Nat :=
  (s.aud.fCore, s.aud.fKind, s.aud.fAddr, s.aud.fElem, s.aud.fCnt)

@[simp] theorem dropCopies_faultRecord (job i : Nat) (s : State) : (s.dropCopies job i).faultRecord = s.faultRecord := by
  unfold State.faultRecord
  rw [dropCopies_aud]

@[simp] theorem onJob_faultRecord (num : Nat) (f : Job → Job) (s : State) : (s.onJob num f).faultRecord = s.faultRecord := rfl

@[simp] theorem statEntry_faultRecord (n : Nat) (e : StatEntry) (s : State) : (s.statEntry n e).faultRecord = s.faultRecord := rfl

theorem refuse_aud (ident : Nat) (write locked : Bool) (a : Nat) (s : State) : (s.refuse ident write locked a).aud = s.aud :=
  (State.refuse_moves ident write locked a (Moves.refl _ s) (List.Subset.refl _)).same .aud (by decide)

theorem busErr_aud (ident a : Nat) (s : State) : (s.busErr ident a).aud = s.aud :=
  (State.busErr_moves ident a (Moves.refl _ s) (List.Subset.refl _)).same .aud (by decide)

theorem recordFault_aud (n p : Nat) (d : Desc) (o : DOut) (s : State) :
    (s.recordFault n p d o).aud =
      { s.aud with fCore := n, fKind := o.kind, fUntr := d.untrusted, fPass := p, fElem := o.elem, fJob := d.job,
                   fAddr := o.addr, fCnt := satInc s.aud.fCnt, fSeen := true, fDesc := d.bytes } := by
  unfold State.recordFault
  dsimp only
  split
  · rw [refuse_aud, State.evOpen_same (p := .aud) (by decide)]; rfl
  · split
    · rw [busErr_aud, State.evOpen_same (p := .aud) (by decide)]; rfl
    · rw [State.evOpen_same (p := .aud) (by decide)]; rfl

theorem commitWrites_aud (ws : List (Nat × Bytes × Bool)) (s : State) : (s.commitWrites ws).aud = s.aud :=
  (State.commitWrites_moves ws (Moves.refl _ s) (List.Subset.refl _)).same .aud (by decide)

/-- The table kept for the passes that follow is a change of the descriptors of its job alone. -/
theorem keepBefore_onDescs (job i : Nat) (d : Desc) (s : State) :
    s.keepBefore job i d = s ∨ ∃ f : List JobDesc → List JobDesc,
      s.keepBefore job i d = s.onJob job fun j => { j with descs := f j.descs } := by
  unfold State.keepBefore State.with
  split
  · split
    · exact .inr ⟨fun l => modN l i _, rfl⟩
    · exact .inl rfl
  · exact .inl rfl

/-- A precise fault recorded, and what its pass wrote before it (08 R231, R247). -/
def State.takeFault (core : Nat) (r : Run) (j : Job) (o : DOut) (s : State) : State :=
  let d := ((j.descs[r.index]?).getD default).desc
  let s := s.recordFault core r.pass (o.desc.getD d) o
  (if j.kind = .guard then s else s.keepBefore r.job r.index d).commitWrites o.writes

/-- Recording a fault fills the recorder, and leaves the cores and an undecided job. -/
theorem takeFault_records {n : Nat} {r : Run} {s : State} (hopen : s.Undecided r.job) (j : Job) (o : DOut) :
    (s.takeFault n r j o).aud.cores = s.aud.cores ∧ (s.takeFault n r j o).Undecided r.job ∧
      (s.takeFault n r j o).faultRecord = (n, o.kind, o.addr, o.elem, satInc s.aud.fCnt) := by
  unfold State.takeFault
  dsimp only
  generalize ((j.descs[r.index]?).getD default).desc = d
  have haud := recordFault_aud n r.pass (o.desc.getD d) o s
  generalize s.recordFault n r.pass (o.desc.getD d) o = u at haud
  have hopen' : u.Undecided r.job := hopen.of_jobs (by rw [haud])
  have hkept : ∀ v : State, v.aud.cores = u.aud.cores → v.Undecided r.job → v.faultRecord = u.faultRecord →
      (v.commitWrites o.writes).aud.cores = s.aud.cores ∧ (v.commitWrites o.writes).Undecided r.job ∧
        (v.commitWrites o.writes).faultRecord = (n, o.kind, o.addr, o.elem, satInc s.aud.fCnt) := by
    intro v hcores hv hrecord
    have hwrites := commitWrites_aud o.writes v
    refine ⟨?_, hv.of_jobs (congrArg Aud.jobs hwrites), ?_⟩
    · rw [hwrites, hcores, haud]
    · rw [State.faultRecord, hwrites, ← State.faultRecord, hrecord, State.faultRecord, haud]
  split
  · exact hkept u rfl hopen' rfl
  · rcases keepBefore_onDescs r.job r.index d u with hsame | ⟨f, hsame⟩
    · rw [hsame]; exact hkept u rfl hopen' rfl
    · rw [hsame]; exact hkept _ rfl (hopen'.onDescs f) rfl

/-- The end of a pass with a precise fault: the fault is recorded, the status entry left, and the job fails (08 R231). -/
theorem endPass_fault {n : Nat} {hw : CoreHw} {r : Run} {x : Job} {s : State} (hjob : s.jobOf r.job = some x)
    (hres : x.res = none) (harb : x.arbitrating = none) (hpass : r.pass < 2) {o : DOut}
    (ho : s.coreOut n r hw x ((x.descs[r.index]?).getD default).desc = o) (hfault : o.status = 2) :
    ∃ (f : List JobDesc → List JobDesc) (untrusted : Bool), s.endPass n r hw =
      ((((s.takeFault n r x o).statEntry n
        { job := r.job, index := r.index, status := 2, fp := o.fp, core := n, pass := r.pass, elem := o.elem }).onJob r.job
          fun j => { j with descs := f j.descs }).onJob r.job (Job.fail 2 untrusted)).dropCopies r.job r.index := by
  refine ⟨fun l => modN l r.index (JobDesc.setPass r.pass (.ended n ((o.payload ^^^ hw.flip) % 2 ^ 64) o.fp 2)),
    ((x.descs[r.index]?).getD default).desc.untrusted, ?_⟩
  unfold State.endPass
  simp only [hjob, hres, harb, ho, hfault, Nat.ne_of_lt hpass, Option.isSome_none, Bool.false_and, Bool.or_self,
    Bool.false_eq_true, if_false, if_true, Nat.reduceEqDiff, Nat.reduceLeDiff, ne_eq, not_false_eq_true]
  rfl

/-- What a precise fault leaves: its status entry on the core, the fault recorder, and the failed job. -/
theorem endPass_fault_leaves {n : Nat} {hw : CoreHw} {r : Run} {x : Job} {s : State} (hn : n < s.aud.cores.length)
    (hjob : s.jobOf r.job = some x) (hres : x.res = none) (harb : x.arbitrating = none) (hpass : r.pass < 2) {o : DOut}
    (ho : s.coreOut n r hw x ((x.descs[r.index]?).getD default).desc = o) (hfault : o.status = 2) :
    let v := s.endPass n r hw
    ((v.acore n).last =
        { job := r.job, index := r.index, status := 2, fp := o.fp, core := n, pass := r.pass, elem := o.elem } ∧
      (v.acore n).done = satInc (s.acore n).done) ∧
    v.faultRecord = (n, o.kind, o.addr, o.elem, satInc s.aud.fCnt) ∧ (v.jobOf r.job).map (·.res) = some (some .failed) := by
  obtain ⟨f, untrusted, heq⟩ := endPass_fault hjob hres harb hpass ho hfault
  obtain ⟨hcores, hopen, hrecord⟩ := takeFault_records (n := n) ⟨x, hjob, hres, harb⟩ x o
  have hcore : (s.takeFault n r x o).acore n = s.acore n := congrArg (getN · n) hcores
  dsimp only
  rw [heq]
  refine ⟨?core, ?record, ?job⟩
  case core =>
    rw [dropCopies_acore, onJob_acore, onJob_acore, acore_statEntry_self (by rwa [hcores]), hcore]
    exact ⟨rfl, rfl⟩
  case record => rw [dropCopies_faultRecord, onJob_faultRecord, onJob_faultRecord, statEntry_faultRecord, hrecord]
  case job =>
    rw [dropCopies_jobOf]
    exact ((hopen.of_jobs (statEntry_jobs ..)).onDescs f).fail 2 untrusted

end Sys2Proof.Machine
end

section
/-! SUPPORT. The audit cores: a hang, fences, BIST and the segments of the rolling self-test (08 R225, R236, R238 to R240; 17 R472). -/

namespace Sys2Proof.Machine

/-! ## A hang (R236) -/

/-- Core `n` is admitted and at work, with the status entry of a hang. -/
structure State.Hung (n : Nat) (s : State) : Prop where
  listed : n < s.aud.cores.length
  admitted : (s.acore n).state = .admitted
  running : (s.acore n).run.isSome = true
  last : (s.acore n).last.status = 4

/-- A core at work that goes to BIST does so after its descriptor (08 R236). -/
theorem acore_toBist_running {n : Nat} {s : State} (hn : n < s.aud.cores.length) (hadm : (s.acore n).state = .admitted)
    (hrun : (s.acore n).run.isSome = true) (why : Nat) (suspect : Bool) :
    (s.toBist n why suspect).acore n = { s.acore n with bistDue := true, bistFor := why, suspect := suspect } := by
  unfold State.toBist
  rw [acore_onCore_self hn]
  simp only [hadm, hrun, if_true]

theorem State.Hung.of_cores {n : Nat} {s u : State} (h : s.Hung n) (hcores : u.aud.cores = s.aud.cores) : u.Hung n := by
  have hcore : u.acore n = s.acore n := congrArg (getN · n) hcores
  exact ⟨hcores ▸ h.listed, hcore ▸ h.admitted, hcore ▸ h.running, hcore ▸ h.last⟩

/-- Sending a core to BIST, the same or another, leaves a hung core at work. -/
theorem State.Hung.toBist {n : Nat} {s : State} (h : s.Hung n) (k why : Nat) (suspect : Bool) :
    (s.toBist k why suspect).Hung n := by
  have hlisted : n < (s.toBist k why suspect).aud.cores.length := (onCore_cores_length ..).symm ▸ h.listed
  by_cases hk : n = k
  · subst hk
    have hcore := acore_toBist_running h.listed h.admitted h.running why suspect
    exact ⟨hlisted, hcore ▸ h.admitted, hcore ▸ h.running, hcore ▸ h.last⟩
  · have hcore : (s.toBist k why suspect).acore n = s.acore n := acore_onCore_ne hk _ s
    exact ⟨hlisted, hcore ▸ h.admitted, hcore ▸ h.running, hcore ▸ h.last⟩

/-- The outcome of an arbitration sends its suspects to BIST, and leaves a hung core at work (10 R276, R278). -/
theorem State.Hung.arbOutcome {n : Nat} {s : State} (h : s.Hung n) (job i outcome coreR : Nat) :
    (s.arbOutcome job i outcome coreR).Hung n := by
  unfold State.arbOutcome
  split
  · exact h
  · have hsuspect : ∀ (c : Prop) [Decidable c] (k : Nat) (u : State), u.Hung n → (if c then u else u.toBist k 3 true).Hung n := by
      intro c _ k u hu
      split
      · exact hu
      · exact hu.toBist k 3 true
    refine hsuspect _ _ _ (hsuspect _ _ _ (h.of_cores ?_))
    rw [State.ev_same (p := .aud) (by decide)]
    rfl

/-- A pass that hangs leaves its status entry on its core, which is still at work (08 R236). -/
theorem hangPass_hung {n : Nat} {r : Run} {s : State} (hn : n < s.aud.cores.length) (hadm : (s.acore n).state = .admitted)
    (hrun : (s.acore n).run.isSome = true) : (s.hangPass n r).Hung n := by
  have hentry : (s.statEntry n { job := r.job, index := r.index, status := 4, core := n, pass := r.pass }).Hung n := by
    have hcore := acore_statEntry_self hn { job := r.job, index := r.index, status := 4, core := n, pass := r.pass }
    exact ⟨(statEntry_cores_length ..).symm ▸ hn, hcore ▸ hadm, hcore ▸ hrun, hcore ▸ rfl⟩
  unfold State.hangPass
  dsimp only
  split
  · exact hentry.of_cores (by rw [loseCopies_aud])
  · split
    · refine State.Hung.arbOutcome ?_ ..
      exact hentry.of_cores rfl
    · exact hentry.of_cores (by rw [dropCopies_aud]; rfl)

theorem ACore.halting_idle {c : ACore} (hrun : c.run = none) (now : Nat) (old new : Bool) : c.halting now old new = c := by
  obtain ⟨⟩ := c
  subst hrun
  unfold ACore.halting
  split <;> rfl

/-- The halted mask leaves a core that runs nothing (18 R509). -/
theorem haltMask_acore_idle {n : Nat} {s : State} (hrun : (s.acore n).run = none) (l : List Bool) :
    (s.haltMask l).acore n = s.acore n := by
  unfold State.haltMask
  split
  · rfl
  · dsimp only
    rw [State.ev_acore]
    unfold State.acore getN at hrun ⊢
    rw [List.getD_eq_getElem?_getD] at hrun ⊢
    simp only [onAud_aud, onDbg_aud, List.getElem?_map, List.getElem?_zipIdx]
    rw [List.getD_eq_getElem?_getD]
    cases hcore : s.aud.cores[n]? with
    | none => rfl
    | some c =>
      rw [hcore] at hrun
      exact ACore.halting_idle hrun ..

/-- A core as the end of its descriptor leaves it: free, or in BIST where that is due (08 R236, R237). -/
def ACore.freed (now : Nat) (c : ACore) : ACore :=
  let c := { c with run := none, idleAt := now }
  if c.bistDue then c.toBist c.bistFor c.suspect else c

theorem ACore.freed_run (now : Nat) (c : ACore) : (c.freed now).run = none := by
  unfold ACore.freed
  dsimp only
  split <;> rfl

/-- The end of a descriptor step by step. -/
theorem coreFree_eq (n : Nat) (s : State) : s.coreFree n =
    let u := s.onCore n (ACore.freed s.now)
    if getN u.dbg.stepping n then
      (u.onDbg fun d => { d with stepping := setN d.stepping n false }).haltMask (setN u.dbg.halted n true)
    else u := by
  unfold State.coreFree ACore.freed
  rfl

/-- The end of a descriptor frees its core, whether or not debug halts it again (18 R509). -/
theorem acore_coreFree_self {n : Nat} {s : State} (hn : n < s.aud.cores.length) :
    (s.coreFree n).acore n = (s.acore n).freed s.now := by
  have hcore : (s.onCore n (ACore.freed s.now)).acore n = (s.acore n).freed s.now := acore_onCore_self hn _
  have hidle : ((s.onCore n (ACore.freed s.now)).acore n).run = none := by rw [hcore, ACore.freed_run]
  rw [coreFree_eq]
  dsimp only
  split
  · rw [haltMask_acore_idle (by rwa [onDbg_acore]), onDbg_acore, hcore]
  · exact hcore

/-- A hung core is in BIST once its pass has ended. -/
theorem hang_ends_in_bist {n : Nat} {r : Run} {s : State} (hn : n < s.aud.cores.length) (hadm : (s.acore n).state = .admitted)
    (hrun : (s.acore n).run.isSome = true) :
    let v := ((s.hangPass n r).toBist n 4 false).coreFree n
    (v.acore n).state = .bist ∧ (v.acore n).bistFor = 4 ∧ (v.acore n).run = none ∧ (v.acore n).last.status = 4 := by
  have hung := hangPass_hung (r := r) hn hadm hrun
  have hdue := acore_toBist_running hung.listed hung.admitted hung.running 4 false
  dsimp only
  rw [acore_coreFree_self (hung.toBist n 4 false).listed, hdue]
  exact ⟨rfl, rfl, rfl, hung.last⟩

/-! ## Fences and BIST (R238, R240) -/

theorem arbFenced_aud (n : Nat) (s : State) : (s.arbFenced n).aud = s.aud := onVane_aud ..

/-- The pass that a fenced core ran leaves its status entry there. -/
theorem acore_endFencedRun {n : Nat} {s : State} (hn : n < s.aud.cores.length) (r : Run) :
    ∃ e d, (s.endFencedRun n r).acore n = { s.acore n with last := e, done := d } := by
  refine ⟨_, _, Eq.trans ?_ (acore_statEntry_self hn
    { job := r.job, index := r.index, status := 5, core := n, pass := r.pass })⟩
  unfold State.endFencedRun
  dsimp only
  split
  · rfl
  · rw [dropCopies_acore, onJob_acore, onJob_acore]

/-- Whether or not a core ran a pass, its end changes of the core the last status entry alone. -/
theorem acore_with_endFencedRun {n : Nat} {s : State} (hn : n < s.aud.cores.length) (o : Option Run) :
    ∃ e d, (s.with o (State.endFencedRun n)).acore n = { s.acore n with last := e, done := d } := by
  cases o with
  | none => exact ⟨(s.acore n).last, (s.acore n).done, rfl⟩
  | some r => exact acore_endFencedRun hn r

/-- A fenced core: beside its last status entry it is as the fence leaves it. -/
theorem acore_fence_self {n : Nat} {s : State} (hn : n < s.aud.cores.length) (cause : Nat) :
    ∃ e d, (s.fence n cause).acore n = { (s.acore n).fenceBy cause with last := e, done := d } := by
  have harb : ∀ u : State, (if cause = 3 then u.arbFenced n else u).acore n = u.acore n := by
    intro u
    split
    · exact State.acore_of_aud (arbFenced_aud n u) n
    · rfl
  have hlisted : n < ((s.onCore n (ACore.fenceBy cause)).loseCopies (·.core == n)).aud.cores.length := by
    rwa [loseCopies_aud, onCore_cores_length]
  obtain ⟨e, d, hended⟩ := acore_with_endFencedRun hlisted (s.acore n).run
  rw [State.loseCopies_acore, acore_onCore_self hn] at hended
  rw [State.fence_eq]
  dsimp only
  rw [State.ev_acore, harb]
  exact ⟨e, d, hended⟩

/-- A failed BIST fences its core, with its local memory zeroed. -/
theorem exec_coreBistComplete_failed {t n : Nat} {s : State} (hdie : (s.at t).dieRuns = true) (hbist : (s.acore n).state = .bist) :
    exec (.coreBistComplete t n false) s = .next (settle ((((s.at t).zeroLocal n).fence n (s.acore n).bistFor).settleWork)) := by
  rw [exec_coreBistComplete]; unfold execCoreBistComplete finish
  simp only [at_acore, hdie, hbist, and_self, if_true, Bool.not_false]

/-! ## The rolling self-test (R225, R239, R240) -/

/-- What ROLLING_SELFTEST_SEGMENT does with an idle core (08 R239, R240). -/
def State.segment (core : Nat) (e : SegEnd) (s : State) : State :=
  let c := s.acore core
  match c.state, e with
  | .admitted, .started => if s.vpReady then s else s.onCore core fun c => { c with state := .testing, gated := false }
  | .testing, .done =>
    let s := s.endSegment core
    if c.seg + 1 < 16 then s.onCore core fun c => { c with seg := c.seg + 1 } else (s.zeroLocal core).testDone core
  | .testing, .failed => ((s.zeroLocal core).fence core 2).settleWork
  | .testing, .abandoned =>
    if s.vpReady ∧ !((List.range 16).any fun n => n != core && s.idleCore n) then s.endSegment core else s
  | .fenced, .started =>
    if !s.vpReady ∧ c.attempts < 3 then s.onCore core fun c =>
      { c with attempts := c.attempts + 1, state := .bist, readmit := true, bistFor := 8 }
    else s
  | _, _ => s

section Segment
variable {n : Nat} {s : State}

theorem segment_started (hstate : (s.acore n).state = .admitted) (hvp : s.vpReady = false) :
    s.segment n .started = s.onCore n fun c => { c with state := .testing, gated := false } := by
  unfold State.segment
  simp only [hstate, hvp, Bool.false_eq_true, if_false]

theorem segment_admitted {e : SegEnd} (hstate : (s.acore n).state = .admitted) (h : e ≠ .started ∨ s.vpReady = true) :
    s.segment n e = s := by
  unfold State.segment
  cases e with
  | started => simp only [hstate, h.resolve_left (absurd rfl), if_true]
  | done | failed | abandoned => simp only [hstate]

theorem segment_done (hstate : (s.acore n).state = .testing) :
    s.segment n .done = if (s.acore n).seg + 1 < 16 then (s.endSegment n).onCore n fun c => { c with seg := c.seg + 1 }
      else ((s.endSegment n).zeroLocal n).testDone n := by
  unfold State.segment
  simp only [hstate]

theorem segment_failed (hstate : (s.acore n).state = .testing) :
    s.segment n .failed = ((s.zeroLocal n).fence n 2).settleWork := by
  unfold State.segment
  simp only [hstate]

theorem segment_readmission (hstate : (s.acore n).state = .fenced) (hvp : s.vpReady = false) :
    s.segment n .started = if (s.acore n).attempts < 3 then s.onCore n fun c =>
      { c with attempts := c.attempts + 1, state := .bist, readmit := true, bistFor := 8 } else s := by
  unfold State.segment
  simp only [hstate, hvp, Bool.not_false, true_and]

/-- The end of a segment returns its core (08 R239). -/
theorem acore_endSegment (hn : n < s.aud.cores.length) :
    (s.endSegment n).acore n = { s.acore n with state := .admitted, idleAt := s.now } :=
  acore_onCore_self hn fun c => { c with state := .admitted, idleAt := s.now }

/-- A complete test starts over, and its instant is noted (17 R483). -/
theorem acore_testDone (hn : n < s.aud.cores.length) :
    (s.testDone n).acore n = { s.acore n with seg := 0, testAt := some s.now } :=
  acore_onCore_self hn fun c => { c with seg := 0, testAt := some s.now }

end Segment

section RunsSegment
variable {t n : Nat} {s : State} (hs : s.shaped) (hn : n < 16) (hdie : (s.at t).dieRuns = true)
variable (hready : (s.at t).coreReady n = true) (hsys : s.sys.state.permits = true ∨ s.sys.state = .halted)

include hn hdie hready hsys in
/-- In a state that runs self-tests, an idle core of a die out of reset takes the segment. -/
theorem exec_rollingSelftestSegment_idle (e : SegEnd) :
    exec (.rollingSelftestSegment t n e) s = .next (settle ((s.at t).segment n e)) := by
  have hguard : n < 16 ∧ (s.at t).dieRuns = true ∧ (s.at t).coreReady n = true ∧
      ((s.at t).sys.state.permits = true ∨ (s.at t).sys.state = .halted) := ⟨hn, hdie, hready, (at_sys_state s t).symm ▸ hsys⟩
  rw [exec_rollingSelftestSegment]
  exact congrArg (fun u => Host.Outcome.next (settle u)) (if_pos hguard)

include hs hn hdie hready hsys

/-- A segment starts on an admitted core while VP holds no ready descriptor. -/
theorem runs_segment_started (hstate : (s.acore n).state = .admitted) (hvp : (s.at t).vpReady = false) :
    Runs (.rollingSelftestSegment t n .started) s fun v => (v.acore n).state = .testing ∧ v.mem = s.mem := by
  have hlisted := (at_shaped t hs).core_exists hn
  refine ⟨_, exec_rollingSelftestSegment_idle hn hdie hready hsys .started, ?_⟩
  dsimp only
  rw [settle_acore, settle_mem, segment_started ((at_acore t n s).symm ▸ hstate) hvp, acore_onCore_self hlisted, onCore_mem, at_mem]
  exact ⟨rfl, rfl⟩

/-- A segment before the sixteenth is counted, and returns its core. -/
theorem runs_segment_done (hstate : (s.acore n).state = .testing) (hmore : (s.acore n).seg + 1 < 16) :
    Runs (.rollingSelftestSegment t n .done) s fun v =>
      (v.acore n).state = .admitted ∧ (v.acore n).seg = (s.acore n).seg + 1 ∧ v.mem = s.mem := by
  have hlisted := (at_shaped t hs).core_exists hn
  refine ⟨_, exec_rollingSelftestSegment_idle hn hdie hready hsys .done, ?_⟩
  dsimp only
  rw [settle_acore, settle_mem, segment_done ((at_acore t n s).symm ▸ hstate), at_acore, if_pos hmore,
    acore_onCore_self ((onCore_cores_length ..).symm ▸ hlisted), acore_endSegment hlisted, at_acore, onCore_mem]
  exact ⟨rfl, rfl, at_mem s t⟩

/-- The sixteenth segment completes the test, and returns its core. -/
theorem runs_segment_complete (hstate : (s.acore n).state = .testing) (hlast : 16 ≤ (s.acore n).seg + 1) :
    Runs (.rollingSelftestSegment t n .done) s fun v =>
      (v.acore n).state = .admitted ∧ (v.acore n).seg = 0 ∧ (v.acore n).testAt = some (s.at t).now := by
  have hlisted := (at_shaped t hs).core_exists hn
  have hzeroed : (((s.at t).endSegment n).zeroLocal n).acore n = { s.acore n with state := .admitted, idleAt := (s.at t).now } := by
    rw [State.acore_of_aud (zeroLocal_aud ..), acore_endSegment hlisted, at_acore]
  refine ⟨_, exec_rollingSelftestSegment_idle hn hdie hready hsys .done, ?_⟩
  dsimp only
  rw [settle_acore, segment_done ((at_acore t n s).symm ▸ hstate), at_acore, if_neg (Nat.not_lt.mpr hlast),
    acore_testDone (by rw [zeroLocal_aud]; exact (onCore_cores_length ..).symm ▸ hlisted), hzeroed]
  exact ⟨rfl, rfl, rfl⟩

/-- The start of a test on a fenced core is that of a readmission attempt, up to the third (08 R240). -/
theorem runs_segment_readmission (hstate : (s.acore n).state = .fenced) (hvp : (s.at t).vpReady = false) :
    Runs (.rollingSelftestSegment t n .started) s fun v =>
      (v.acore n).attempts = (if (s.acore n).attempts < 3 then (s.acore n).attempts + 1 else (s.acore n).attempts) ∧
      (v.acore n).state = if (s.acore n).attempts < 3 then .bist else .fenced := by
  have hlisted := (at_shaped t hs).core_exists hn
  refine ⟨_, exec_rollingSelftestSegment_idle hn hdie hready hsys .started, ?_⟩
  dsimp only
  rw [settle_acore, segment_readmission ((at_acore t n s).symm ▸ hstate) hvp, at_acore]
  split
  · rw [acore_onCore_self hlisted, at_acore]
    exact ⟨rfl, rfl⟩
  · rw [at_acore]
    exact ⟨rfl, hstate⟩

end RunsSegment

/-- An idle core in Breeze is gated, and keeps its state (17 R472). -/
theorem runs_breezeCoreGate_gates {t n : Nat} {s : State} (hs : s.shaped) (hn : n < 16) (hon : (s.at t).psmOn = true)
    (hbreeze : s.psm.state = .breeze) (hawake : s.psm.waking = none) (hidle : (s.acore n).run = none)
    (hlong : (s.acore n).idleAt + 2000 ≤ (s.at t).now) :
    Runs (.breezeCoreGate t n) s fun v => (v.acore n).gated = true ∧ (v.acore n).state = (s.acore n).state := by
  have hexec := runs_breezeCoreGate t n s _ rfl hon hn (by rwa [at_psm_state]) (by rwa [at_psm_waking]) (by rwa [at_acore])
    (by rw [at_acore]; exact decide_eq_true hlong)
  refine ⟨_, hexec, ?_⟩
  dsimp only
  rw [settle_acore, acore_onCore_self ((at_shaped t hs).core_exists hn), at_acore]
  exact ⟨rfl, rfl⟩

/-- Settles O36: the completion of each command, and the lemma of what each leaves of its core, its job and the fault recorder. -/
theorem descriptorsRunOnAdmittedCores : Obligations.DescriptorsRunOnAdmittedCores := by
  unfold Obligations.DescriptorsRunOnAdmittedCores
  refine ⟨runs_descriptorDispatch, ?copy, ?unready, ?starts, runs_descriptorComplete, ?fault, runs_descriptorHang, ?hang, ?bistFails,
    runs_coreBistComplete, ?fence, ?segment, ?gate⟩
  case copy => exact fun t n j i s hn hdie hready hstate hcopy => exec_descriptorDispatch_copy hn hdie hready hstate hcopy
  case unready => exact fun t n s h => exec_descriptorDispatch_unready h
  case starts =>
    intro n j i p x s hs hn hdbg hjob
    rw [takePass_eq_startPass hdbg hjob]
    exact startPass_runs hs hn hjob i p
  case fault =>
    intro n hw r x s hs hn hjob hres harb hpass d o hfault v
    obtain ⟨⟨hlast, hdone⟩, hrecord, hfailed⟩ := endPass_fault_leaves (hs.core_exists hn) hjob hres harb hpass rfl hfault
    simp only [State.faultRecord, Prod.mk.injEq] at hrecord
    obtain ⟨hcore, hkind, haddr, helem, hcount⟩ := hrecord
    exact ⟨congrArg StatEntry.status hlast, congrArg StatEntry.job hlast, congrArg StatEntry.elem hlast, hdone, hcore, hkind, haddr,
      helem, hcount, hfailed⟩
  case hang =>
    intro n r s hs hn hadm hrun
    exact hang_ends_in_bist (hs.core_exists hn) hadm (by rw [hrun]; rfl)
  case bistFails => exact fun t n s hdie hbist => exec_coreBistComplete_failed hdie hbist
  case fence =>
    intro n cause s hs hn
    obtain ⟨e, d, hcore⟩ := acore_fence_self (hs.core_exists hn) cause
    rw [hcore]
    exact ⟨rfl, rfl, rfl⟩
  case segment =>
    intro t n e s hs hn hdie hready hsys
    have hexec := exec_rollingSelftestSegment_idle hn hdie hready hsys
    refine ⟨?started, ?unmoved, ?done, ?complete, ?failed, ?readmission⟩
    case started => exact fun hstate hvp => runs_segment_started hs hn hdie hready hsys hstate hvp
    case unmoved =>
      intro hstate h
      rw [hexec, segment_admitted ((at_acore t n s).symm ▸ hstate) h]
    case done => exact fun hstate hmore => runs_segment_done hs hn hdie hready hsys hstate hmore
    case complete => exact fun hstate hlast => runs_segment_complete hs hn hdie hready hsys hstate hlast
    case failed =>
      intro hstate
      rw [hexec, segment_failed ((at_acore t n s).symm ▸ hstate)]
    case readmission => exact fun hstate hvp => runs_segment_readmission hs hn hdie hready hsys hstate hvp
  case gate =>
    exact fun t n s hs hn hon hbreeze hawake hidle hlong => runs_breezeCoreGate_gates hs hn hon hbreeze hawake hidle hlong

end Sys2Proof.Machine
end

section
/-! SUPPORT. The Vane: the self-test of a lane (10 R282, Table 10.5), and the issue and the deadline of a SAFE_STATE job (10 R265,
R271, R283). -/

namespace Sys2Proof.Machine

/-- A command whose effect needs a value completes with the effect, where the value is there at its instant. -/
theorem finish_with {α : Type} {o : State → Option α} {f : α → State → State} {a : α} {t : Nat} {s : State}
    (h : o (s.at t) = some a) : finish t s (fun u => u.with (o u) f) = .next (settle (f a (s.at t))) := by
  unfold finish State.with
  dsimp only
  rw [h]

/-! ## The self-test (R282, Table 10.5) -/

/-- A lane that fails leaves service, and its test has ended. -/
theorem Lane.tested_laneFails (now : Nat) (slotOk : Bool) (l : Lane) :
    l.tested now false slotOk = { l with ok := false, testing := false } := rfl

/-- A failing slot alone is no transient of its lane. -/
theorem Lane.tested_slotFails (now : Nat) (l : Lane) : l.tested now true false = { l with testing := false } := rfl

/-- A transient is counted, and fences the lane that had two others in the 60 min before it. -/
theorem Lane.tested_transient (now : Nat) (l : Lane) :
    let recent := l.times.filter fun i => decide (now ≤ i + 3600 * sec)
    l.tested now true true =
      { l with ok := l.ok && decide (recent.length < 2), testing := false, trans := satAdd 8 l.trans 1, times := recent ++ [now] } := by
  have hthird : ∀ n : Nat, decide (n + 1 < 3) = decide (n < 2) := fun n => decide_eq_decide.mpr Nat.succ_lt_succ_iff
  simp only [Lane.tested, Bool.not_true, Bool.false_eq_true, if_false, List.length_append, List.length_singleton, hthird]

/-! ## The issue of a SAFE_STATE job (R265, R271) -/

/-- What the registration of a job keeps of the job table: each job's number and transform, in order, and the next number. -/
def State.issued (s : State) : List (Nat × Nat) × Nat := (s.aud.jobs.map fun j => (j.num, j.xform), s.aud.nextJob)

/-- A change of a job that keeps its number and its transform. -/
theorem onJob_issued {f : Job → Job} (hf : ∀ j, ((f j).num, (f j).xform) = (j.num, j.xform)) (num : Nat) (s : State) :
    (s.onJob num f).issued = s.issued := by
  unfold State.issued State.onJob
  rw [onAud_aud, List.map_map]
  refine congrArg (·, s.aud.nextJob) (List.map_congr_left fun j _ => ?_)
  dsimp only [Function.comp]
  split
  · exact hf j
  · rfl

/-- Registration opens a job, its leeward pass suppressed where pairing is broken; it numbers none (10 R270, R271, R281). -/
theorem registerOne_issued (num : Nat) (s : State) : (s.registerOne num).issued = s.issued := by
  unfold State.registerOne
  split
  case h_2 => rfl
  case h_1 j k _ _ =>
    split
    · rfl
    · dsimp only
      have hjob : ∀ (b c : Bool) (i : Nat) (u : State), (u.onJob num fun j =>
          if b then Job.suppress { j with registered := true, regAt := i, slot := some k }
          else { j with registered := true, regAt := i, slot := some k, broken := c }).issued = u.issued := by
        refine fun b c i u => onJob_issued (fun j => ?_) num u
        split <;> rfl
      split
      · exact hjob ..
      · split
        · exact hjob ..
        · exact hjob ..

theorem register_issued (s : State) : s.register.issued = s.issued :=
  State.each_keeps (view := State.issued) registerOne_issued _ s

/-- A SAFE_STATE job issued stands last in the table, under the next number and with the next transform of its class's rotation. -/
theorem issueSafe_issued (cls : Nat) (s : State) :
    let codes := (s.clsOf cls).codes
    (s.issueSafe cls).issued =
      ((s.aud.jobs.map fun j => (j.num, j.xform)) ++ [(s.aud.nextJob, codes.getD (getN s.aud.rot cls % max codes.length 1) 1)],
        serialNext s.aud.nextJob) := by
  unfold State.issueSafe State.issueJob
  dsimp only
  rw [register_issued, State.issued, onAud_aud, List.map_append]
  rfl

/-- The jobs' numbers and transforms, one by one. -/
theorem jobs_of_issued {s : State} {l : List (Nat × Nat)} {n : Nat} (h : s.issued = (l, n)) :
    s.aud.nextJob = n ∧ s.aud.jobs.map (·.num) = l.map (·.1) ∧ s.aud.jobs.map (·.xform) = l.map (·.2) := by
  obtain ⟨rfl, rfl⟩ := Prod.mk.inj h
  rw [List.map_map, List.map_map]
  exact ⟨rfl, rfl, rfl⟩

/-! ## The deadline (R283) -/

/-- Before DEADLINE_US has passed, the deadline raises nothing. -/
theorem exec_safeStateDeadline_early {t cls i : Nat} {r : ClassRec} {s : State} (hreg : (s.aud.orig[cls]?).join = some i)
    (hcls : s.img.cls cls = some r) (hearly : (s.at t).now < i + r.deadlineUs * 1000) :
    exec (.safeStateDeadline t cls) s = .next (settle (s.at t)) := by
  rw [exec_safeStateDeadline]; unfold execSafeStateDeadline finish
  have hnot : (s.at t).past i (r.deadlineUs * 1000) = false := decide_eq_false (Nat.not_le.mpr hearly)
  simp only [at_aud, at_img, hreg, hcls, State.with, hnot, Bool.false_eq_true, if_false]

/-- Settles O37: Table 10.5 for each finding, what the issue of a SAFE_STATE job adds to the job table, and the two sides of its
deadline. -/
theorem vaneSelfTestsAndSafeStateJobsAct : Obligations.VaneSelfTestsAndSafeStateJobsAct := by
  unfold Obligations.VaneSelfTestsAndSafeStateJobsAct
  refine ⟨?selftest, ?laneFails, ?slotFails, ?transient, runs_safeStateJobIssue, ?issued, runs_safeStateDeadline, ?early⟩
  case selftest =>
    intro t k slot laneOk slotOk s htest
    have hnow : (s.at t).vane.selftest = some (k, slot) := by rwa [at_vane]
    rw [exec_vaneSelftestComplete, execVaneSelftestComplete]
    refine (finish_with (o := fun u => u.vane.selftest) hnow).trans ?_
    rfl
  case laneFails =>
    intro now slotOk l
    rw [Lane.tested_laneFails]
    exact ⟨rfl, rfl⟩
  case slotFails =>
    intro now l
    rw [Lane.tested_slotFails]
    exact ⟨rfl, rfl⟩
  case transient =>
    intro now l
    dsimp only
    rw [Lane.tested_transient]
    exact ⟨rfl, rfl, rfl⟩
  case issued =>
    intro cls s
    obtain ⟨hnext, hnums, hxforms⟩ := jobs_of_issued (issueSafe_issued cls s)
    rw [hnext, hnums, hxforms, List.map_append, List.map_append, List.map_map, List.map_map]
    exact ⟨rfl, rfl, rfl⟩
  case early => exact fun t cls i r s hreg hcls hearly => exec_safeStateDeadline_early hreg hcls hearly

end Sys2Proof.Machine
end

section
/-! SUPPORT. Stack compute: one stack and memory under the operations of the base-die element units, and the queueing, start and
completion of their commands (11 R296 to R303). -/

namespace Sys2Proof.Machine

/-! ## One stack of the two -/

theorem stk_of_beu {s u : State} (h : u.beu = s.beu) (k : Nat) : u.stk k = s.stk k :=
  congrArg (fun b : Beu => getN b.stks k) h

@[simp] theorem at_stk (t k : Nat) (s : State) : (s.at t).stk k = s.stk k := stk_of_beu (at_beu s t) k

@[simp] theorem settle_stk (k : Nat) (s : State) : (settle s).stk k = s.stk k := rfl

@[simp] theorem onStack_mem (k : Nat) (f : Stack → Stack) (s : State) : (s.onStack k f).mem = s.mem := rfl

@[simp] theorem onStack_poison (k : Nat) (f : Stack → Stack) (s : State) : (s.onStack k f).poison = s.poison := rfl

@[simp] theorem onStack_stks_length (k : Nat) (f : Stack → Stack) (s : State) :
    (s.onStack k f).beu.stks.length = s.beu.stks.length := modN_length ..

/-- The stack that a change is for. -/
theorem stk_onStack_self {k : Nat} {s : State} (hk : k < s.beu.stks.length) (f : Stack → Stack) :
    (s.onStack k f).stk k = f (s.stk k) := getN_modN_self _ _ _ hk

theorem modN_modN {α : Type} (l : List α) (i : Nat) (f g : α → α) : modN (modN l i f) i g = modN l i (g ∘ f) := by
  induction l generalizing i with
  | nil => rfl
  | cons a r ih =>
    cases i with
    | zero => rfl
    | succ n => exact congrArg (a :: ·) (ih n)

/-- Two changes of a stack, one after the other, are one. -/
theorem onStack_onStack (k : Nat) (f g : Stack → Stack) (s : State) : (s.onStack k f).onStack k g = s.onStack k (g ∘ f) :=
  congrArg (fun l => s.onBeu fun b => { b with stks := l }) (modN_modN ..)

theorem State.shaped.stack_exists {s : State} (hs : s.shaped) {k : Nat} (hk : k < 2) : k < s.beu.stks.length := by
  rwa [hs.beu]

theorem lt_of_beuOn {k : Nat} {s : State} (h : s.beuOn k = true) : k < 2 := by
  simp only [State.beuOn, Bool.and_eq_true, decide_eq_true_eq] at h
  obtain ⟨⟨⟨-, hk⟩, -⟩, -⟩ := h
  exact hk

/-- The stack of a command whose units work is one of the register file at its instant. -/
theorem stack_exists_of_beuOn {t k : Nat} {s : State} (hs : s.shaped) (hon : (s.at t).beuOn k = true) :
    k < (s.at t).beu.stks.length := (at_shaped t hs).stack_exists (lt_of_beuOn hon)

/-- A command that changes one stack leaves it changed, and memory as it was. -/
theorem runs_onStack {c : Instr} {t k : Nat} {f : Stack → Stack} {s : State} {p : State → Prop} (hs : s.shaped) (hk : k < 2)
    (hexec : exec c s = .next (settle ((s.at t).onStack k f))) (hp : ∀ v, v.stk k = f (s.stk k) → v.mem = s.mem → p v) :
    Runs c s p := by
  refine ⟨_, hexec, hp _ ?_ ?_⟩
  · rw [settle_stk, stk_onStack_self ((at_shaped t hs).stack_exists hk), at_stk]
  · rw [settle_mem, onStack_mem, at_mem]

/-! ## Operations that leave the stacks, or memory -/

theorem State.poke_same {p : Part} (hp : p ∉ [Part.mem, Part.poison]) (a : Nat) (bs : Bytes) (s : State) : p.Same s (s.poke a bs) :=
  (State.poke_moves (Moves.refl _ s) (List.Subset.refl _)).same p hp

theorem State.jOpen_same {p : Part} (hp : p ∉ [Part.ret]) (kind owner seq : Nat) (aux : Bytes) (s : State) :
    p.Same s (s.jOpen kind owner seq aux) := (State.jOpen_moves kind owner seq aux (Moves.refl _ s) (List.Subset.refl _)).same p hp

theorem State.fiuDone_same {p : Part} (hp : p ∉ [Part.fiu]) (c : BCmd) (status : Nat) (o : BOut) (s : State) :
    p.Same s (s.fiuDone c status o) := (State.fiuDone_moves c status o (Moves.refl _ s) (List.Subset.refl _)).same p hp

theorem State.beuEval_same {p : Part} (hp : p ∉ [Part.free]) (k : Nat) (r : BRun) (s : State) : p.Same s (s.beuEval k r).2 :=
  (State.beuEval_snd (Moves.refl _ s) (List.Subset.refl _)).same p hp

@[simp] theorem settleWork_beu (s : State) : s.settleWork.beu = s.beu :=
  (State.settleWork_moves (Moves.refl _ s) (List.Subset.refl _)).same .beu (by decide)

@[simp] theorem settleWork_mem (s : State) : s.settleWork.mem = s.mem :=
  (State.settleWork_moves (Moves.refl _ s) (List.Subset.refl _)).same .mem (by decide)

@[simp] theorem settleWork_stk (k : Nat) (s : State) : s.settleWork.stk k = s.stk k := stk_of_beu (settleWork_beu s) k

@[simp] theorem poke_beu (a : Nat) (bs : Bytes) (s : State) : (s.poke a bs).beu = s.beu := State.poke_same (p := .beu) (by decide) ..

@[simp] theorem poke_stk (a k : Nat) (bs : Bytes) (s : State) : (s.poke a bs).stk k = s.stk k := stk_of_beu (poke_beu ..) k

@[simp] theorem jOpen_stk (kind owner seq k : Nat) (aux : Bytes) (s : State) : (s.jOpen kind owner seq aux).stk k = s.stk k :=
  stk_of_beu (State.jOpen_same (p := .beu) (by decide) ..) k

@[simp] theorem jOpen_mem (kind owner seq : Nat) (aux : Bytes) (s : State) : (s.jOpen kind owner seq aux).mem = s.mem :=
  State.jOpen_same (p := .mem) (by decide) ..

/-- Bytes written leave every address outside them. -/
theorem memGet_poke_outside {lo a : Nat} {bs : Bytes} (h : a < lo ∨ lo + bs.length ≤ a) (s : State) :
    memGet (s.poke lo bs).mem a = memGet s.mem a := by
  unfold State.poke
  split
  · rfl
  · exact (memGet_memPutAll ..).trans (if_neg (by omega))

/-! ## Submission (R299) -/

@[simp] theorem Stack.ring_onRing (bg : Bool) (f : BRing → BRing) (x : Stack) : (x.onRing bg f).ring bg = f (x.ring bg) := by
  cases bg <;> rfl

/-- A change of a ring keeps the rest of the stack. -/
theorem Stack.onRing_frame (bg : Bool) (f : BRing → BRing) (x : Stack) :
    (x.onRing bg f).running = x.running ∧ (x.onRing bg f).cq = x.cq ∧ (x.onRing bg f).fault = x.fault ∧
      (x.onRing bg f).selfRefresh = x.selfRefresh ∧ (x.onRing bg f).order = x.order ∧ (x.onRing bg f).hot = x.hot := by
  cases bg <;> exact ⟨rfl, rfl, rfl, rfl, rfl, rfl⟩

theorem Stack.awake_ring (bg : Bool) (x : Stack) : x.awake.ring bg = x.ring bg := by cases bg <;> rfl

/-- A stack that takes a command into a ring: it is out of self-refresh, and the command stands last. -/
def Stack.queued (bg : Bool) (c : BCmd) (x : Stack) : Stack := x.awake.onRing bg fun r => { r with queue := r.queue ++ [c] }

theorem Stack.queued_frame (bg : Bool) (c : BCmd) (x : Stack) :
    ((x.queued bg c).ring bg).queue = (x.ring bg).queue ++ [c] ∧ (x.queued bg c).running = x.running ∧
      (x.queued bg c).cq = x.cq ∧ (x.queued bg c).fault = x.fault ∧ (x.queued bg c).selfRefresh = false := by
  obtain ⟨hrun, hcq, hfault, hself, -, -⟩ := x.awake.onRing_frame bg fun r => { r with queue := r.queue ++ [c] }
  refine ⟨?_, hrun, hcq, hfault, hself⟩
  rw [Stack.queued, Stack.ring_onRing, Stack.awake_ring]

/-- The slot of a ring behind its last command. -/
def BRing.slot (r : BRing) : Nat := r.base + (r.head + r.queue.length) % 256 * 64

/-- A ring of 255 commands takes no other. -/
theorem beuSubmit_full {k : Nat} {bg : Bool} {s : State} (h : 255 ≤ ((s.stk k).ring bg).queue.length) (c : BCmd) (raw : Bytes) :
    s.beuSubmit k bg c raw = s := if_pos h

/-- Without a stack fault a ring with room takes the command's bytes and the command, and its journal entry opens. -/
theorem beuSubmit_room {k : Nat} {bg : Bool} {s : State} (hk : k < s.beu.stks.length) (hfault : (s.stk k).fault = false)
    (hroom : ((s.stk k).ring bg).queue.length < 255) (c : BCmd) (raw : Bytes) :
    s.beuSubmit k bg c raw = ((s.poke ((s.stk k).ring bg).slot raw).onStack k (Stack.queued bg c)).jOpen jBeu (beuOwner k bg) c.tag
      (zeros 6) := by
  unfold State.beuSubmit
  dsimp only
  rw [if_neg (Nat.not_le.mpr hroom)]
  refine if_neg ?_
  obtain ⟨-, -, -, hkeep, -⟩ := (s.stk k).queued_frame bg c
  rw [jOpen_stk, stk_onStack_self (by rwa [poke_beu]), poke_stk]
  exact Bool.eq_false_iff.mp (hkeep.trans hfault)

/-- A full ring takes none (R299). -/
theorem exec_beuCmdSubmit_full {t k : Nat} {bg : Bool} {s : State} (h : 255 ≤ ((s.stk k).ring bg).queue.length) (b : Bytes) :
    exec (.beuCmdSubmit t k bg b) s = .next (settle (s.at t)) := by
  rw [exec_beuCmdSubmit]; unfold execBeuCmdSubmit finish State.when
  dsimp only
  rw [beuSubmit_full (by rwa [at_stk]), ite_self]

/-- A submitted command stands in the next slot of its ring, and no other byte changes (R299). -/
theorem runs_beuCmdSubmit_queued {t k : Nat} {bg : Bool} {s : State} (hs : s.shaped) (hon : (s.at t).beuOn k = true)
    (hfault : (s.stk k).fault = false) (hroom : ((s.stk k).ring bg).queue.length < 255) (b : Bytes) :
    Runs (.beuCmdSubmit t k bg b) s fun v => v.stk k = (s.stk k).queued bg (BCmd.parse (padTo 64 b)) ∧
      ∀ a, a < ((s.stk k).ring bg).slot ∨ ((s.stk k).ring bg).slot + 64 ≤ a → memGet v.mem a = memGet s.mem a := by
  have hk := stack_exists_of_beuOn hs hon
  have hlen : (padTo 64 b).length = 64 := by simp [padTo, zeros]
  refine runs_finish (exec_beuCmdSubmit ..) ?_
  rw [State.when, if_pos hon, beuSubmit_room hk (by rwa [at_stk]) (by rwa [at_stk]), settle_stk, settle_mem, jOpen_stk, jOpen_mem,
    stk_onStack_self (by rwa [poke_beu]), poke_stk, onStack_mem, at_stk]
  refine ⟨rfl, fun a ha => ?_⟩
  rw [memGet_poke_outside (by rwa [hlen]), at_mem]

/-! ## The head of a ring (R298, R300) -/

/-- The order in which a head is judged. -/
theorem headAct_of_head {k : Nat} {bg : Bool} {c : BCmd} {l : List BCmd} {s : State} (hfence : ((s.stk k).ring bg).fence = none)
    (hqueue : ((s.stk k).ring bg).queue = c :: l) :
    s.headAct k bg = if s.cmdError k c then .finish 3 else if c.kind = 2 then .fence
      else if (s.stk k).protects k c then .finish 2 else if (s.cmdWall c).isSome then .finish 4
      else if (s.stk k).leaves c.channel then .finish 5 else if (s.stk k).ready c then .start else .wait := by
  unfold State.headAct
  simp only [hfence, hqueue]

/-- A ring whose head does not wait has a head. -/
theorem exists_head {k : Nat} {bg : Bool} {s : State} (h : s.headAct k bg ≠ .wait) : ∃ c l, ((s.stk k).ring bg).queue = c :: l := by
  cases hqueue : ((s.stk k).ring bg).queue with
  | cons c l => exact ⟨c, l, rfl⟩
  | nil =>
    unfold State.headAct at h
    cases hfence : ((s.stk k).ring bg).fence <;> simp only [hfence, hqueue, ne_eq, not_true_eq_false] at h

/-- A stack whose ring loses its head. -/
def Stack.popped (bg : Bool) (x : Stack) : Stack :=
  x.onRing bg fun r => { r with queue := r.queue.drop 1, head := (r.head + 1) % 256 }

theorem takeHead_stk {k : Nat} {s : State} (hk : k < s.beu.stks.length) (bg : Bool) : (s.takeHead k bg).stk k = (s.stk k).popped bg :=
  stk_onStack_self hk _

theorem Stack.popped_frame (bg : Bool) (x : Stack) :
    ((x.popped bg).ring bg).queue = (x.ring bg).queue.drop 1 ∧ (x.popped bg).running = x.running ∧ (x.popped bg).cq = x.cq ∧
      (x.popped bg).order = x.order ∧ (x.popped bg).hot = x.hot := by
  obtain ⟨hrun, hcq, -, -, horder, hhot⟩ := x.onRing_frame bg fun r => { r with queue := r.queue.drop 1, head := (r.head + 1) % 256 }
  exact ⟨congrArg BRing.queue (x.ring_onRing bg _), hrun, hcq, horder, hhot⟩

/-- A stack that starts a command at the instant `now`: the command runs last, with the next start order. -/
def Stack.started (c : BCmd) (bg : Bool) (now : Nat) (x : Stack) : Stack :=
  { x with order := x.order + 1,
           running := x.running ++ [{ cmd := c, bg := bg, order := x.order, start := now, hot := x.hot }] }

theorem Stack.ring_started (c : BCmd) (bg b : Bool) (now : Nat) (x : Stack) : (x.started c bg now).ring b = x.ring b := by
  cases b <;> rfl

/-- The firewall's refusal of a command that ends with FIREWALL; any other end leaves the state. -/
def State.refuseHead (n : Nat) (c : BCmd) (s : State) : State :=
  if n = 4 then s.with (s.cmdWall c) fun w s => s.refuse c.ident w.1 w.2.2 w.2.1 else s

@[simp] theorem refuseHead_beu (n : Nat) (c : BCmd) (s : State) : (s.refuseHead n c).beu = s.beu := by
  unfold State.refuseHead
  exact (moves_ite (moves_with (Moves.refl _ s) fun _ => State.refuse_moves _ _ _ _ (Moves.refl _ s) (List.Subset.refl _))
    (Moves.refl _ s)).same .beu (by decide)

section Start
variable {t k n : Nat} {bg : Bool} {c : BCmd} {l : List BCmd} {s : State} (hon : (s.at t).beuOn k = true)
variable (hfault : (s.stk k).fault = false) (hself : (s.stk k).selfRefresh = false)
variable (hturn : bg = false ∨ (s.at t).headAct k false = .wait)
include hon hfault hself hturn

/-- The units of a sound stack out of self-refresh take the head of VP, and that of BG while VP's waits. -/
theorem beuCmdStart_open :
    ¬(!(s.at t).beuOn k ∨ ((s.at t).stk k).fault ∨ ((s.at t).stk k).selfRefresh ∨
      (bg ∧ (s.at t).headAct k false ≠ .wait)) := by
  rw [at_stk, hon, hfault, hself]
  rintro (h | h | h | ⟨hbg, hbusy⟩)
  · exact Bool.false_ne_true h
  · exact Bool.false_ne_true h
  · exact Bool.false_ne_true h
  · rcases hturn with rfl | hwait
    · exact Bool.false_ne_true hbg
    · exact hbusy hwait

/-- A ready head leaves its ring and runs (R300). -/
theorem exec_beuCmdStart_start (hqueue : ((s.stk k).ring bg).queue = c :: l) (hact : (s.at t).headAct k bg = .start) :
    exec (.beuCmdStart t k bg) s =
      .next (settle ((s.at t).onStack k (Stack.started c bg (s.at t).now ∘ Stack.popped bg))) := by
  rw [exec_beuCmdStart]; unfold execBeuCmdStart finish
  dsimp only
  rw [if_neg (beuCmdStart_open hon hfault hself hturn), hact, ← onStack_onStack]
  simp only [at_stk, hqueue]
  rfl

/-- A head that cannot run ends at once, with its status (R298). -/
theorem exec_beuCmdStart_finish (hqueue : ((s.stk k).ring bg).queue = c :: l) (hact : (s.at t).headAct k bg = .finish n) :
    exec (.beuCmdStart t k bg) s =
      .next (settle ((((s.at t).takeHead k bg).refuseHead n c).beuEnd k bg (s.stk k).hot c n {}).settleWork) := by
  rw [exec_beuCmdStart]; unfold execBeuCmdStart finish
  dsimp only
  rw [if_neg (beuCmdStart_open hon hfault hself hturn), hact]
  simp only [at_stk, hqueue]
  rfl

/-- A started command runs last, and nothing but its ring and the start order changes (R300). -/
theorem runs_beuCmdStart_runs (hs : s.shaped) (hact : (s.at t).headAct k bg = .start) :
    Runs (.beuCmdStart t k bg) s fun v =>
      ∃ c l, ((s.stk k).ring bg).queue = c :: l ∧ ((v.stk k).ring bg).queue = l ∧ v.mem = s.mem ∧ (v.stk k).cq = (s.stk k).cq ∧
        (v.stk k).running = (s.stk k).running ++
          [{ cmd := c, bg := bg, order := (s.stk k).order, start := (s.at t).now, hot := (s.stk k).hot }] := by
  obtain ⟨c, l, hqueue⟩ := exists_head (hact ▸ nofun : (s.at t).headAct k bg ≠ .wait)
  rw [at_stk] at hqueue
  obtain ⟨hrest, hrun, hcq, horder, hhot⟩ := (s.stk k).popped_frame bg
  refine runs_onStack hs (lt_of_beuOn hon) (exec_beuCmdStart_start hon hfault hself hturn hqueue hact) fun v hstk hmem => ?_
  rw [hstk, Function.comp]
  refine ⟨c, l, hqueue, ?_, hmem, hcq, ?_⟩
  · rw [Stack.ring_started, hrest, hqueue, List.drop_one, List.tail_cons]
  · rw [Stack.started, hrun, horder, hhot]

end Start

/-! ## Completion (R303) -/

/-- The 16 bytes of a completion entry (R303). -/
def beuEntry (k : Nat) (bg hot : Bool) (c : BCmd) (status : Nat) (o : BOut) : Bytes :=
  leBytes 4 c.tag ++ [byte status, byte o.fp, byte (c.channel % 16 + 16 * (k % 2) + flg bg 5 + flg hot 6), 0]
    ++ leBytes 4 o.nonzero ++ leBytes 4 o.poisoned.length

theorem beuEntry_length (k : Nat) (bg hot : Bool) (c : BCmd) (status : Nat) (o : BOut) :
    (beuEntry k bg hot c status o).length = 16 := rfl

theorem beuEntry_status (k : Nat) (bg hot : Bool) (c : BCmd) (status : Nat) (o : BOut) :
    (beuEntry k bg hot c status o).getD 4 0 = byte status := rfl

/-- The slot of the completion ring behind its last entry. -/
def Stack.cqSlot (x : Stack) : Nat := x.cqBase + (x.cqHead + x.cq.length) % 512 * 16

/-- A stack that posts a completion entry, and counts the command. -/
def Stack.posted (e : Bytes) (status : Nat) (x : Stack) : Stack :=
  { x with cq := x.cq ++ [e], cmds := satInc x.cmds, poisonCmds := if status = 1 then satInc x.poisonCmds else x.poisonCmds,
           events := x.events ||| (if 2 ≤ status ∧ status ≤ 4 then 8 else 0) }

@[simp] theorem Stack.ring_posted (bg : Bool) (e : Bytes) (status : Nat) (x : Stack) : (x.posted e status).ring bg = x.ring bg := by
  cases bg <;> rfl

theorem beuPost_eq (k : Nat) (bg hot : Bool) (c : BCmd) (status : Nat) (o : BOut) (s : State) :
    s.beuPost k bg hot c status o =
      ((s.poke (s.stk k).cqSlot (beuEntry k bg hot c status o)).onStack k
        (Stack.posted (beuEntry k bg hot c status o) status)).jClose jBeu (beuOwner k bg) c.tag := rfl

theorem beuEnd_beu (k : Nat) (bg hot : Bool) (c : BCmd) (status : Nat) (o : BOut) (s : State) :
    (s.beuEnd k bg hot c status o).beu = (s.onStack k (Stack.posted (beuEntry k bg hot c status o) status)).beu := by
  have hdone : ∀ u : State, (u.fiuDone c status o).beu = u.beu := fun u => State.fiuDone_same (p := .beu) (by decide) c status o u
  have hclose : ∀ u : State, (u.jClose jBeu (beuOwner k bg) c.tag).beu = u.beu := fun _ => rfl
  rw [State.beuEnd, hdone, beuPost_eq, hclose, State.onStack, onBeu_beu, poke_beu]
  rfl

/-- The end of a command posts one entry. -/
theorem stk_beuEnd_self {k : Nat} {s : State} (hk : k < s.beu.stks.length) (bg hot : Bool) (c : BCmd) (status : Nat) (o : BOut) :
    (s.beuEnd k bg hot c status o).stk k = (s.stk k).posted (beuEntry k bg hot c status o) status := by
  rw [stk_of_beu (beuEnd_beu ..), stk_onStack_self hk]

/-- The end of a command writes no byte outside its entry. -/
theorem memGet_beuEnd_outside {k a : Nat} {s : State} (h : a < (s.stk k).cqSlot ∨ (s.stk k).cqSlot + 16 ≤ a) (bg hot : Bool)
    (c : BCmd) (status : Nat) (o : BOut) : memGet (s.beuEnd k bg hot c status o).mem a = memGet s.mem a := by
  have hdone : ∀ u : State, (u.fiuDone c status o).mem = u.mem := fun u => State.fiuDone_same (p := .mem) (by decide) c status o u
  have hclose : ∀ u : State, (u.jClose jBeu (beuOwner k bg) c.tag).mem = u.mem := fun _ => rfl
  rw [State.beuEnd, hdone, beuPost_eq, hclose, onStack_mem, memGet_poke_outside h]

/-- A command that ends, work being settled after it, leaves one entry with its status; the rest of the stack but its counters stays. -/
theorem stk_ended {k : Nat} {s : State} (hk : k < s.beu.stks.length) (bg hot : Bool) (c : BCmd) (status : Nat) :
    ∃ e, (settle (s.beuEnd k bg hot c status {}).settleWork).stk k = (s.stk k).posted e status ∧ e.length = 16 ∧
      e.getD 4 0 = byte status :=
  ⟨beuEntry k bg hot c status {}, by rw [settle_stk, settleWork_stk, stk_beuEnd_self hk], beuEntry_length .., beuEntry_status ..⟩

/-- A head that ends at once leaves its ring and one completion entry, with its status. -/
theorem runs_beuCmdStart_ends {t k n : Nat} {bg : Bool} {s : State} (hs : s.shaped) (hon : (s.at t).beuOn k = true)
    (hfault : (s.stk k).fault = false) (hself : (s.stk k).selfRefresh = false)
    (hturn : bg = false ∨ (s.at t).headAct k false = .wait) (hact : (s.at t).headAct k bg = .finish n) :
    Runs (.beuCmdStart t k bg) s fun v =>
      ((v.stk k).ring bg).queue = ((s.stk k).ring bg).queue.drop 1 ∧ (v.stk k).running = (s.stk k).running ∧
      ∃ e, (v.stk k).cq = (s.stk k).cq ++ [e] ∧ e.length = 16 ∧ e.getD 4 0 = byte n := by
  obtain ⟨c, l, hqueue⟩ := exists_head (hact ▸ nofun : (s.at t).headAct k bg ≠ .wait)
  rw [at_stk] at hqueue
  have hk := stack_exists_of_beuOn hs hon
  obtain ⟨hrest, hrun, hcq, -, -⟩ := (s.stk k).popped_frame bg
  obtain ⟨e, hstk, hlen, hstatus⟩ := stk_ended (k := k) (s := ((s.at t).takeHead k bg).refuseHead n c)
    (by rwa [refuseHead_beu, State.takeHead, onStack_stks_length]) bg (s.stk k).hot c n
  rw [stk_of_beu (refuseHead_beu ..), takeHead_stk hk, at_stk] at hstk
  refine ⟨_, exec_beuCmdStart_finish hon hfault hself hturn hqueue hact, ?_⟩
  dsimp only
  rw [hstk, Stack.ring_posted]
  exact ⟨hrest, hrun, e, congrArg (· ++ [e]) hcq, hlen, hstatus⟩

/-- A fence completes with one entry, and its ring goes on (R301). -/
theorem runs_beuFenceComplete_ends {t k : Nat} {bg : Bool} {c : BCmd} {s : State} (hs : s.shaped) (hon : (s.at t).beuOn k = true)
    (hfence : ((s.stk k).ring bg).fence = some c) (hidle : (s.stk k).running.any (fun r => r.bg == bg) = false) :
    Runs (.beuFenceComplete t k bg) s fun v =>
      ((v.stk k).ring bg).fence = none ∧ ((v.stk k).ring bg).queue = ((s.stk k).ring bg).queue ∧
      ∃ e, (v.stk k).cq = (s.stk k).cq ++ [e] ∧ e.length = 16 ∧ e.getD 4 0 = 0 := by
  have hk := stack_exists_of_beuOn hs hon
  obtain ⟨-, hcq, -⟩ := (s.stk k).onRing_frame bg fun r => { r with fence := none }
  obtain ⟨e, hstk, hlen, hstatus⟩ := stk_ended (k := k)
    (s := (s.at t).onStack k fun x => x.onRing bg fun r => { r with fence := none }) (by rwa [onStack_stks_length])
    bg (s.stk k).hot c 0
  rw [stk_onStack_self hk, at_stk] at hstk
  refine ⟨_, runs_beuFenceComplete t k bg c s hon hfence hidle, ?_⟩
  dsimp only
  rw [hstk, Stack.ring_posted, Stack.ring_onRing]
  exact ⟨rfl, rfl, e, congrArg (· ++ [e]) hcq, hlen, hstatus⟩

/-! ## Errors that a reader finds (R306, R314) -/

/-- What a completion depends on: where the next entry goes, the entries, and whether the stack is faulted. -/
def Stack.completions (x : Stack) : Nat × Nat × List Bytes × Bool := (x.cqBase, x.cqHead, x.cq, x.fault)

theorem Stack.of_completions {x y : Stack} (h : y.completions = x.completions) :
    y.cq = x.cq ∧ y.cqSlot = x.cqSlot ∧ y.fault = x.fault := by
  obtain ⟨hbase, hhead, hcq, hfault⟩ := by simpa only [Stack.completions, Prod.mk.injEq] using h
  rw [Stack.cqSlot, Stack.cqSlot, hbase, hhead, hcq]
  exact ⟨rfl, rfl, hfault⟩

/-- Between `s` and `u` at most `n` marks of poison were noted on stack `k`: memory, and what completions depend on, are the same. -/
structure Marks (k n : Nat) (s u : State) : Prop where
  exist : k < u.beu.stks.length
  mem : u.mem = s.mem
  completions : (u.stk k).completions = (s.stk k).completions
  marked : (u.stk k).uncorrAt.length ≤ (s.stk k).uncorrAt.length + n

theorem Marks.refl {k : Nat} {s : State} (hk : k < s.beu.stks.length) (n : Nat) : Marks k n s s := ⟨hk, rfl, rfl, Nat.le_add_right ..⟩

theorem Marks.trans {k m n : Nat} {s u v : State} (h : Marks k m s u) (g : Marks k n u v) : Marks k (m + n) s v :=
  ⟨g.exist, g.mem.trans h.mem, g.completions.trans h.completions, by have := h.marked; have := g.marked; omega⟩

/-- A granule found uncorrectable is one mark. -/
theorem uncorrectable_marks {k : Nat} {s : State} (hk : k < s.beu.stks.length) (g : Nat) : Marks k 1 s (s.uncorrectable k g) := by
  have hev : ∀ (u : State) (p : Part), p ∉ [Part.log, Part.ret] → p.Same u (u.evOpen 0x07 "ECC_UNCORR" k (g * 32)) :=
    fun u p hp => State.evOpen_same hp ..
  unfold State.uncorrectable
  refine ⟨?_, hev _ .mem (by decide), ?_, ?_⟩
  · rw [hev _ .beu (by decide), onStack_stks_length]
    exact hk
  · rw [stk_of_beu (hev _ .beu (by decide)), stk_onStack_self (s := s.markPoison g) hk]
    rfl
  · rw [stk_of_beu (hev _ .beu (by decide)), stk_onStack_self (s := s.markPoison g) hk]
    exact Nat.succ_le_succ (List.length_filter_le ..)

/-- A list of steps of at most one mark each leaves at most as many marks as it is long. -/
theorem each_marks {k : Nat} {f : Nat → State → State} (hf : ∀ g s, k < s.beu.stks.length → Marks k 1 s (f g s)) (l : List Nat)
    {s : State} (hk : k < s.beu.stks.length) : Marks k l.length s (s.each l f) := by
  induction l generalizing s with
  | nil => exact .refl hk 0
  | cons g l ih =>
    have hstep := hf g s hk
    rw [List.length_cons, Nat.add_comm]
    exact hstep.trans (ih hstep.exist)

/-- Up to 64 marks within a second are no stack fault (R314). -/
theorem readErrors_marks {k : Nat} {bad : List Nat} {s : State} (hk : k < s.beu.stks.length)
    (hfew : (s.stk k).uncorrAt.length + bad.length ≤ 64) (n : Nat) : Marks k bad.length s (s.readErrors k n bad) := by
  have hcount : Marks k 0 s (s.onStack k fun x => { x with eccCorr := satAdd 32 x.eccCorr n }) := by
    refine ⟨by rwa [onStack_stks_length], rfl, ?_, ?_⟩
    · rw [stk_onStack_self hk]
      rfl
    · rw [stk_onStack_self hk]
      exact Nat.le_refl _
  have hall := hcount.trans (each_marks (f := fun g s =>
    if s.poison.contains g ∨ !(s.stk k).guards k g then s else s.uncorrectable k g) (fun g u hu => ?step) bad hcount.exist)
  case step =>
    split
    · exact .refl hu 1
    · exact uncorrectable_marks hu g
  rw [Nat.zero_add] at hall
  unfold State.readErrors
  dsimp only
  rw [if_neg (Nat.not_lt.mpr (Nat.le_trans hall.marked hfew))]
  exact hall

/-! ## The end of a command that runs (R296, R302, R303, R306) -/

/-- A command that runs ends with as many bytes as its destination has. -/
theorem beuEval_data_length (k : Nat) (r : BRun) (s : State) : (s.beuEval k r).1.data.length = r.cmd.outBytes := by
  have hwidth : ∀ (l : List (Bool × Nat × Nat)) (w : Nat), (l.flatMap fun x => leBytes w x.2.1).length = l.length * w := by
    intro l w
    simp only [List.length_flatMap, leBytes_length, List.map_const', List.sum_replicate, smul_eq_mul]
  unfold State.beuEval State.beuRun
  dsimp only
  rw [hwidth, List.length_map, List.length_range, BCmd.outBytes]

/-- A result is stored in its destination alone, and with COUNT_ONLY nowhere (R306). -/
theorem memGet_beuStore_outside {k a : Nat} {c : BCmd} {o : BOut} {s : State}
    (h : c.countOnly = true ∨ a < c.dst ∨ c.dst + o.data.length ≤ a) : memGet (s.beuStore k c o).mem a = memGet s.mem a := by
  have hmark : ∀ (l : List Nat) (u : State) (f : Nat → Nat), (u.each l fun i s => s.markPoison (f i)).mem = u.mem :=
    fun l u f => State.each_keeps (view := State.mem) (f := fun i s => s.markPoison (f i)) (fun _ _ => rfl) l u
  unfold State.beuStore
  split
  · rfl
  · rename_i hwrites
    have hout : a < c.dst ∨ c.dst + o.data.length ≤ a := h.resolve_left hwrites
    have hn : o.data.length / 32 * 32 ≤ o.data.length := Nat.div_mul_le_self ..
    dsimp only
    generalize o.data.length / 32 * 32 = n at hn
    have hlow : a < c.dst ∨ c.dst + (o.data.take n).length ≤ a := by rw [List.length_take]; omega
    have hhigh : a < c.dst + n ∨ c.dst + n + (o.data.drop n).length ≤ a := by rw [List.length_drop]; omega
    split
    · rw [hmark]
      split
      · exact memGet_poke_outside hlow s
      · rw [memGet_poke_outside hhigh, memGet_poke_outside hlow]
    · split
      · exact memGet_poke_outside hlow s
      · rw [memGet_poke_outside hhigh, memGet_poke_outside hlow]

/-- The state in which a command that has run stands before its completion: its result stored, and the command off the list. -/
def State.beuStored (k : Nat) (r : BRun) (s : State) : State :=
  let x := (s.keepOld k r).beuEval k r
  (x.2.beuStore k r.cmd x.1).onStack k fun y => { y with running := y.running.filter fun z => z.order != r.order }

theorem beuFinish_eq (k : Nat) (r : BRun) (s : State) : ∃ hot status o i, s.beuFinish k r =
    (((s.beuStored k r).beuEnd k r.bg hot r.cmd status o).latency 0x06 k i).settleWork := ⟨_, _, _, _, rfl⟩

section Finish
variable {k : Nat} {s : State} (hk : k < s.beu.stks.length) (r : BRun)

theorem beuStore_beuEval_beu (u : State) : ((u.beuEval k r).2.beuStore k r.cmd (u.beuEval k r).1).beu = u.beu :=
  Eq.trans ((State.beuStore_moves k r.cmd _ (Moves.refl _ (u.beuEval k r).2) (List.Subset.refl _)).same .beu (by decide))
    (State.beuEval_same (p := .beu) (by decide) k r u)

include hk in
/-- The command is off the list, and what its completion depends on is as before. -/
theorem beuStored_stk : k < (s.beuStored k r).beu.stks.length ∧
    ((s.beuStored k r).stk k).completions = (s.stk k).completions ∧ ∀ x ∈ ((s.beuStored k r).stk k).running, x.order ≠ r.order := by
  have hkeep : k < (s.keepOld k r).beu.stks.length := by rwa [State.keepOld, onStack_stks_length]
  have hbeu := beuStore_beuEval_beu (k := k) r (s.keepOld k r)
  unfold State.beuStored
  dsimp only
  rw [onStack_stks_length, stk_onStack_self (by rwa [hbeu]), stk_of_beu hbeu]
  refine ⟨by rwa [hbeu], ?_, fun x hx => ?_⟩
  · rw [State.keepOld, stk_onStack_self hk]
    rfl
  · simpa using (List.mem_filter.mp hx).2

/-- Of memory the destination alone is written. -/
theorem memGet_beuStored_outside {a : Nat} (h : r.cmd.countOnly = true ∨ a < r.cmd.dst ∨ r.cmd.dst + r.cmd.outBytes ≤ a) :
    memGet (s.beuStored k r).mem a = memGet s.mem a := by
  have heval : ((s.keepOld k r).beuEval k r).2.mem = s.mem := State.beuEval_same (p := .mem) (by decide) k r (s.keepOld k r)
  unfold State.beuStored
  dsimp only
  rw [onStack_mem, memGet_beuStore_outside (by rwa [beuEval_data_length]), heval]

include hk in
/-- A command that has run leaves one completion entry, and writes its destination and that entry alone. -/
theorem beuFinish_leaves :
    ((s.beuFinish k r).stk k).cq.length = (s.stk k).cq.length + 1 ∧ (∀ x ∈ ((s.beuFinish k r).stk k).running, x.order ≠ r.order) ∧
      ∀ a, a < (s.stk k).cqSlot ∨ (s.stk k).cqSlot + 16 ≤ a →
        r.cmd.countOnly = true ∨ a < r.cmd.dst ∨ r.cmd.dst + r.cmd.outBytes ≤ a →
          memGet (s.beuFinish k r).mem a = memGet s.mem a := by
  obtain ⟨hot, status, o, i, hfinish⟩ := beuFinish_eq k r s
  obtain ⟨hexist, hkept, hoff⟩ := beuStored_stk hk r
  obtain ⟨hcq, hslot, -⟩ := Stack.of_completions hkept
  have hlatency : ∀ (u : State) (p : Part), p ∉ [Part.mon, Part.log, Part.ret] → p.Same u (u.latency 0x06 k i) := fun u p hp =>
    (State.latency_moves 0x06 k i (Moves.refl _ u) (List.Subset.refl _)).same p hp
  rw [hfinish, settleWork_stk, settleWork_mem, hlatency _ .mem (by decide), stk_of_beu (hlatency _ .beu (by decide)),
    stk_beuEnd_self hexist]
  refine ⟨?_, hoff, fun a hentry hdst => ?_⟩
  · rw [Stack.posted, List.length_append, hcq, List.length_singleton]
  · rw [memGet_beuEnd_outside (by rwa [hslot]), memGet_beuStored_outside r hdst]

end Finish

/-- The command that runs on a channel completes, where the errors that it found are no stack fault (R303). -/
theorem runs_beuCmdComplete_ends {t k c : Nat} {bad : List Nat} {r : BRun} {s : State} (hs : s.shaped) (hon : (s.at t).beuOn k = true)
    (hrun : (s.stk k).running.find? (fun r => r.cmd.channel == c) = some r) (hfault : (s.stk k).fault = false)
    (hfew : (s.stk k).uncorrAt.length + bad.length ≤ 64) (n : Nat) :
    Runs (.beuCmdComplete t k { channel := c, corrected := n, bad := bad }) s fun v =>
      (v.stk k).cq.length = (s.stk k).cq.length + 1 ∧ (∀ x ∈ (v.stk k).running, x.order ≠ r.order) ∧
      ∀ a, a < (s.stk k).cqSlot ∨ (s.stk k).cqSlot + 16 ≤ a →
        r.cmd.countOnly = true ∨ a < r.cmd.dst ∨ r.cmd.dst + r.cmd.outBytes ≤ a → memGet v.mem a = memGet s.mem a := by
  have hfound := List.length_filter_le (granIn (r.cmd.sources ++ r.cmd.tables)) bad
  have hread := readErrors_marks (bad := bad.filter (granIn (r.cmd.sources ++ r.cmd.tables))) (stack_exists_of_beuOn hs hon)
    (by rw [at_stk]; omega) n
  obtain ⟨hcq, hslot, hsound⟩ := Stack.of_completions hread.completions
  rw [at_stk] at hcq hslot hsound
  obtain ⟨hlen, hoff, hmem⟩ := beuFinish_leaves hread.exist r
  refine runs_finish (exec_beuCmdComplete ..) ?_
  rw [at_stk, hrun]
  dsimp only
  rw [hon, if_neg (by decide), hsound, hfault, if_neg (by decide), settle_stk, settle_mem]
  rw [hcq] at hlen
  refine ⟨hlen, hoff, fun a hentry hdst => ?_⟩
  rw [hmem a (by rwa [hslot]) hdst, hread.mem, at_mem]

/-! ## INT32 intermediates (R296) -/

theorem satI32_fst (i : Int) : (satI32 i).1 = if 2147483647 < i then 2147483647 else if i < -2147483648 then -2147483648 else i := by
  unfold satI32
  split
  · rfl
  · split <;> rfl

/-- Without activations the result of an element of a binary operation is its saturated intermediate. -/
theorem beuI_binary {c : BCmd} (hacts : c.acts = [0, 0, 0]) (hlow : 1 ≤ c.op) (hhigh : c.op ≤ 3) (a b : Int) (s : State) :
    (s.beuI c a b).1 = (satI32 (if c.op = 1 then a + b else if c.op = 2 then a - b else a * b)).1 := by
  unfold State.beuI
  obtain hop | hop | hop : c.op = 1 ∨ c.op = 2 ∨ c.op = 3 := by omega
  all_goals rw [hacts, hop]; rfl

/-- Settles O38: what a submission, a start, an end, a completion and a fence each leave of the ring, the completions and memory, and the
saturation of an intermediate. -/
theorem commandRingsStartAndCompleteAsStated : Obligations.CommandRingsStartAndCompleteAsStated := by
  unfold Obligations.CommandRingsStartAndCompleteAsStated
  refine ⟨?submit, ?full, ?judged, ?starts, ?ends, ?completes, ?fence, ?saturates⟩
  case submit =>
    intro t k bg b s hs hon hfault r slot hroom
    refine (runs_beuCmdSubmit_queued hs hon hfault hroom b).imp fun v ⟨hstk, hmem⟩ => ?_
    obtain ⟨hqueue, hrun, hcq, -, hself⟩ := (s.stk k).queued_frame bg (BCmd.parse (padTo 64 b))
    rw [hstk]
    exact ⟨hqueue, hrun, hcq, hself, hmem⟩
  case full => exact fun t k bg b s hfull => exec_beuCmdSubmit_full hfull b
  case judged => exact fun k bg c l s hfence hqueue => headAct_of_head hfence hqueue
  case starts => exact fun t k bg s hs hon hfault hself hturn hact => runs_beuCmdStart_runs hon hfault hself hturn hs hact
  case ends => exact fun t k n bg s hs hon hfault hself hturn hact => runs_beuCmdStart_ends hs hon hfault hself hturn hact
  case completes =>
    exact fun t k c n bad r s hs hon hrun hfault hfew => runs_beuCmdComplete_ends hs hon hrun hfault hfew n
  case fence => exact fun t k bg c s hs hon hfence hidle => runs_beuFenceComplete_ends hs hon hfence hidle
  case saturates =>
    intro c a b s hacts hlow hhigh x
    rw [beuI_binary hacts hlow hhigh, satI32_fst]

end Sys2Proof.Machine
end

section
/-! SUPPORT. Stack compute: the switch of a channel, a clean scrub step, the temperature of a stack and stack faults (11 R294, R304 to
R307, R314). -/

namespace Sys2Proof.Machine

/-! ## The switch of a channel (R304, R305) -/

/-- BEU_Sn_SWITCH written with GO: its fields are stored, and the flags that the write clears are cleared (R320). -/
def Stack.switchWritten (w : Nat) (x : Stack) : Stack :=
  { x with swReg := bits w 0 7, swDone := x.swDone && !bit w 11, swRefused := x.swRefused && !bit w 12 }

/-- A switch that starts with the fields written. -/
def Stack.switchStarted (w : Nat) (x : Stack) : Stack :=
  { x with swChannel := bits w 0 4, swProc := bit w 4, swCheck := bit w 5, swVis := bit w 6, swPhase := 1 }

/-- A switch that is refused. -/
def Stack.switchRefused (x : Stack) : Stack := { x with swRefused := true }

/-- The channel written would be a ninth PROC channel of its stack. -/
abbrev Stack.Crowded (w : Nat) (x : Stack) : Prop :=
  bit w 4 = true ∧ getN x.proc (bits w 0 4) = false ∧ 8 ≤ (x.proc.filter id).length

theorem Stack.not_crowded_iff {w : Nat} {x : Stack} :
    (!(bit w 4 && !(getN x.proc (bits w 0 4)) && decide (8 ≤ (x.proc.filter id).length))) = true ↔ ¬x.Crowded w := by
  rw [Bool.not_eq_true', Bool.eq_false_iff, ne_eq, Bool.and_eq_true, Bool.and_eq_true, Bool.not_eq_true', decide_eq_true_eq, and_assoc]

/-- The switch written may start: in START, beside no other, and not toward a ninth PROC channel. -/
def State.maySwitch (k w : Nat) (s : State) : Prop :=
  s.sys.state = .start ∧ (s.stk k).swPhase = 0 ∧ ¬(s.stk k).Crowded w

section Go
variable {t k w : Nat} {s : State} (hon : (s.at t).beuOn k = true) (hgo : bit w 8 = true)
include hon hgo

theorem exec_beuSwitchGo_starts (h : s.maySwitch k w) :
    exec (.beuSwitchGo t k w) s = .next (settle ((s.at t).onStack k (Stack.switchStarted w ∘ Stack.switchWritten w))) := by
  obtain ⟨hstart, hphase, hroom⟩ := h
  rw [exec_beuSwitchGo]; unfold execBeuSwitchGo finish
  rw [← onStack_onStack]
  dsimp only
  rw [hon, hgo, if_neg (by decide), if_neg (by decide), if_pos]
  · rfl
  · rw [at_sys_state, at_stk]
    exact ⟨hstart, hphase, Stack.not_crowded_iff.mpr hroom⟩

theorem exec_beuSwitchGo_refused (h : ¬s.maySwitch k w) :
    exec (.beuSwitchGo t k w) s = .next (settle ((s.at t).onStack k (Stack.switchRefused ∘ Stack.switchWritten w))) := by
  rw [exec_beuSwitchGo]; unfold execBeuSwitchGo finish
  rw [← onStack_onStack]
  dsimp only
  rw [hon, hgo, if_neg (by decide), if_neg (by decide), if_neg]
  · rfl
  · rw [at_sys_state, at_stk]
    rintro ⟨hstart, hphase, hroom⟩
    exact h ⟨hstart, hphase, Stack.not_crowded_iff.mp hroom⟩

end Go

/-- GO starts the switch where it may start, and is refused otherwise; either way no mode changes. -/
theorem runs_beuSwitchGo_idle {t k w : Nat} {s : State} (hs : s.shaped) (hon : (s.at t).beuOn k = true)
    (hphase : (s.stk k).swPhase = 0) (hgo : bit w 8 = true) :
    Runs (.beuSwitchGo t k w) s fun v =>
      (v.stk k).swReg = bits w 0 7 ∧ (v.stk k).proc = (s.stk k).proc ∧
      if s.sys.state = .start ∧ ¬(s.stk k).Crowded w then
        (v.stk k).swPhase = 1 ∧ (v.stk k).swChannel = bits w 0 4 ∧ (v.stk k).swProc = bit w 4 ∧ (v.stk k).swCheck = bit w 5 ∧
          (v.stk k).swVis = bit w 6
      else (v.stk k).swPhase = 0 ∧ (v.stk k).swRefused = true := by
  by_cases hmay : s.sys.state = .start ∧ ¬(s.stk k).Crowded w
  case pos =>
    obtain ⟨hstart, hroom⟩ := hmay
    refine runs_onStack hs (lt_of_beuOn hon) (exec_beuSwitchGo_starts hon hgo ⟨hstart, hphase, hroom⟩) fun v hstk _ => ?_
    rw [if_pos ⟨hstart, hroom⟩, hstk]
    exact ⟨rfl, rfl, rfl, rfl, rfl, rfl, rfl⟩
  case neg =>
    refine runs_onStack hs (lt_of_beuOn hon) (exec_beuSwitchGo_refused hon hgo fun ⟨hstart, _, hroom⟩ => hmay ⟨hstart, hroom⟩)
      fun v hstk _ => ?_
    rw [if_neg hmay, hstk]
    exact ⟨rfl, rfl, hphase, rfl⟩

/-- Beside another switch GO is refused, and that switch goes on. -/
theorem runs_beuSwitchGo_busy {t k w : Nat} {s : State} (hs : s.shaped) (hon : (s.at t).beuOn k = true)
    (hphase : (s.stk k).swPhase ≠ 0) (hgo : bit w 8 = true) :
    Runs (.beuSwitchGo t k w) s fun v =>
      (v.stk k).swRefused = true ∧ (v.stk k).swPhase = (s.stk k).swPhase ∧ (v.stk k).swChannel = (s.stk k).swChannel ∧
      (v.stk k).proc = (s.stk k).proc := by
  refine runs_onStack hs (lt_of_beuOn hon) (exec_beuSwitchGo_refused hon hgo fun ⟨_, hidle, _⟩ => hphase hidle) fun v hstk _ => ?_
  rw [hstk]
  exact ⟨rfl, rfl, rfl, rfl⟩

/-- A channel on which no command runs has drained (R304). -/
theorem runs_beuSwitchDrainComplete_drained {t k : Nat} {s : State} (hs : s.shaped) (hon : (s.at t).beuOn k = true)
    (hphase : (s.stk k).swPhase = 1) (hidle : (s.stk k).running.any (fun r => r.cmd.channel == (s.stk k).swChannel) = false) :
    Runs (.beuSwitchDrainComplete t k) s fun v => (v.stk k).swPhase = 2 ∧ (v.stk k).proc = (s.stk k).proc ∧ v.mem = s.mem := by
  have hexec : exec (.beuSwitchDrainComplete t k) s = .next (settle ((s.at t).onStack k fun x => { x with swPhase := 2 })) := by
    rw [exec_beuSwitchDrainComplete]; unfold execBeuSwitchDrainComplete finish State.when
    dsimp only
    rw [at_stk, hon, hphase, hidle]
    rfl
  refine runs_onStack hs (lt_of_beuOn hon) hexec fun v hstk hmem => ?_
  rw [hstk]
  exact ⟨rfl, rfl, hmem⟩

/-- The BEU group of a switched channel is up or down: the switch is done, with the modes and memory as they were (R304). -/
theorem runs_beuSwitchComplete_done {t k : Nat} {s : State} (hs : s.shaped) (hon : (s.at t).beuOn k = true)
    (hphase : (s.stk k).swPhase = 3) :
    Runs (.beuSwitchComplete t k) s fun v =>
      (v.stk k).swPhase = 0 ∧ (v.stk k).swDone = true ∧ v.mem = s.mem ∧ (v.stk k).proc = (s.stk k).proc ∧
      (v.stk k).recompute = (s.stk k).recompute ∧ (v.stk k).strict = (s.stk k).strict := by
  have hexec : exec (.beuSwitchComplete t k) s =
      .next (settle ((s.at t).onStack k fun x => { x with swPhase := 0, swDone := true })) := by
    rw [exec_beuSwitchComplete]; unfold execBeuSwitchComplete finish State.when
    dsimp only
    rw [at_stk, hon, hphase]
    rfl
  refine runs_onStack hs (lt_of_beuOn hon) hexec fun v hstk hmem => ?_
  rw [hstk]
  exact ⟨rfl, rfl, hmem, rfl, rfl, rfl⟩

/-! ### The fence -/

/-- The fence fills the channel: it was OPAQUE, and goes to MEM (R305). -/
abbrev Stack.Fills (x : Stack) : Prop :=
  x.swProc = false ∧ getN x.proc x.swChannel = true ∧ getN x.recompute x.swChannel = false

/-- A stack behind the fence: the channel has the mode it was switched to. -/
def Stack.fenced (x : Stack) : Stack := { x.setMode x.swChannel x.swProc x.swCheck x.swVis with swPhase := 3 }

/-- The channel that is switched filled with zero. -/
def State.fillChannel (k : Nat) (s : State) : State :=
  s.wipe (stackBase k + (s.stk k).swChannel * 0x40000000) 0x40000000

theorem fillChannel_beu (k : Nat) (s : State) : (s.fillChannel k).beu = s.beu :=
  (State.wipe_moves (Moves.refl _ s) (List.Subset.refl _)).same .beu (by decide)

theorem memGet_fillChannel (k a : Nat) (s : State) : memGet (s.fillChannel k).mem a =
    if stackBase k + (s.stk k).swChannel * 0x40000000 ≤ a ∧ a < stackBase k + (s.stk k).swChannel * 0x40000000 + 0x40000000 then 0
    else memGet s.mem a := memGet_memErase ..

section Fence
variable {t k : Nat} {s : State} (hon : (s.at t).beuOn k = true) (hphase : (s.stk k).swPhase = 2)
include hon hphase

theorem exec_beuSwitchFenceComplete_fills (h : (s.stk k).Fills) :
    exec (.beuSwitchFenceComplete t k) s = .next (settle (((s.at t).fillChannel k).onStack k Stack.fenced)) := by
  obtain ⟨htarget, hproc, hopaque⟩ := h
  rw [exec_beuSwitchFenceComplete]; unfold execBeuSwitchFenceComplete finish
  dsimp only
  rw [at_stk, if_pos ⟨hon, hphase⟩, htarget, hproc, hopaque, if_pos (by decide), State.fillChannel, at_stk]
  rfl

theorem exec_beuSwitchFenceComplete_keeps (h : ¬(s.stk k).Fills) :
    exec (.beuSwitchFenceComplete t k) s = .next (settle ((s.at t).onStack k Stack.fenced)) := by
  rw [exec_beuSwitchFenceComplete]; unfold execBeuSwitchFenceComplete finish
  dsimp only
  rw [at_stk, if_pos ⟨hon, hphase⟩, if_neg]
  · rfl
  · simpa only [Stack.Fills, Bool.and_eq_true, Bool.not_eq_true'] using h

/-- The fence changes the mode of the channel, and fills an OPAQUE channel that goes to MEM (R304, R305). -/
theorem runs_beuSwitchFenceComplete_switches (hs : s.shaped) :
    let base := stackBase k + (s.stk k).swChannel * 0x40000000
    Runs (.beuSwitchFenceComplete t k) s fun v => v.stk k = (s.stk k).fenced ∧
      ∀ a, memGet v.mem a = if (s.stk k).Fills ∧ base ≤ a ∧ a < base + 0x40000000 then 0 else memGet s.mem a := by
  intro base
  by_cases hfills : (s.stk k).Fills
  case pos =>
    have hbeu := fillChannel_beu k (s.at t)
    refine ⟨_, exec_beuSwitchFenceComplete_fills hon hphase hfills, ?_, fun a => ?_⟩
    · rw [settle_stk, stk_onStack_self (by rw [hbeu]; exact stack_exists_of_beuOn hs hon), stk_of_beu hbeu, at_stk]
    · rw [settle_mem, onStack_mem, memGet_fillChannel, at_stk, at_mem]
      exact if_congr (and_iff_right hfills).symm rfl rfl
  case neg =>
    refine runs_onStack hs (lt_of_beuOn hon) (exec_beuSwitchFenceComplete_keeps hon hphase hfills)
      fun v hstk hmem => ⟨hstk, fun a => ?_⟩
    rw [hmem, if_neg (not_and_of_not_left _ hfills)]

end Fence

/-! ## A clean scrub step (R307) -/

/-- What the errors of a stack are counted in, and whether it is faulted. -/
def Stack.errors (x : Stack) : Nat × List Nat × Bool := (x.eccCorr, x.uncorrAt, x.fault)

/-- A reader that finds corrected granules alone counts them. -/
theorem readErrors_clean {k : Nat} {s : State} (hk : k < s.beu.stks.length) (hfew : (s.stk k).uncorrAt.length ≤ 64) (n : Nat) :
    s.readErrors k n [] = s.onStack k fun x => { x with eccCorr := satAdd 32 x.eccCorr n } := by
  have heach : ∀ f : Nat → State → State, ∀ u : State, u.each [] f = u := fun _ _ => rfl
  unfold State.readErrors
  dsimp only
  rw [heach, stk_onStack_self hk, if_neg (Nat.not_lt.mpr hfew)]

/-- The end of a scrub pass moves no pointer, and counts no error. -/
theorem scrubPass_stk {k : Nat} {s : State} (hk : k < s.beu.stks.length) :
    ((s.scrubPass k).stk k).scrubPtr = (s.stk k).scrubPtr ∧ ((s.scrubPass k).stk k).errors = (s.stk k).errors := by
  have hbg : ∀ (u : State) (c : Prop) [Decidable c], (if c then u.bgDone 0 else u).stk k = u.stk k := by
    intro u c _
    split
    · exact stk_of_beu ((State.bgDone_moves 0 (Moves.refl _ u) (List.Subset.refl _)).same .beu (by decide)) k
    · rfl
  unfold State.scrubPass
  dsimp only
  rw [hbg, stk_onStack_self hk]
  exact ⟨rfl, rfl⟩

/-- A stack whose scrub pointer is moved. -/
def Stack.pointed (p : Nat) (x : Stack) : Stack := { x with scrubPtr := p }

theorem Stack.pointed_frame (p : Nat) (x : Stack) : (x.pointed p).scrubPtr = p ∧ (x.pointed p).errors = x.errors := ⟨rfl, rfl⟩

theorem scrubNext_some {k o n : Nat} {s : State} (h : (s.stk k).nextBlock (o + 4096) = some n) :
    s.scrubNext k o = s.onStack k (Stack.pointed (stackBase k + n)) := by
  unfold State.scrubNext Stack.pointed
  rw [h]

theorem scrubNext_none {k o : Nat} {s : State} (h : (s.stk k).nextBlock (o + 4096) = none) :
    s.scrubNext k o = (s.onStack k (Stack.pointed (stackBase k))).scrubPass k := by
  unfold State.scrubNext Stack.pointed
  rw [h]

/-- The pointer moves on to the next block, or back to the base of the stack behind the last. -/
theorem scrubNext_stk {k : Nat} {s : State} (hk : k < s.beu.stks.length) (o : Nat) :
    ((s.scrubNext k o).stk k).scrubPtr = stackBase k + ((s.stk k).nextBlock (o + 4096)).getD 0 ∧
      ((s.scrubNext k o).stk k).errors = (s.stk k).errors := by
  cases h : (s.stk k).nextBlock (o + 4096) with
  | some n =>
    rw [scrubNext_some h, stk_onStack_self hk, Option.getD_some]
    exact Stack.pointed_frame ..
  | none =>
    obtain ⟨hptr, herrors⟩ := scrubPass_stk (k := k) (s := s.onStack k (Stack.pointed (stackBase k))) (by rwa [onStack_stks_length])
    rw [scrubNext_none h, hptr, herrors, stk_onStack_self hk, Option.getD_none, Nat.add_zero]
    exact Stack.pointed_frame ..

theorem State.scrubNext_same {p : Part} (hp : p ∉ [Part.beu, Part.psm]) (k o : Nat) (s : State) : p.Same s (s.scrubNext k o) :=
  (State.scrubNext_moves k o (Moves.refl _ s) (List.Subset.refl _)).same p hp

/-- A scrub step that finds no uncorrectable granule moves the pointer, counts what it corrected, and leaves memory (R307). -/
theorem scrubBlock_clean {k : Nat} {s : State} (hs : s.shaped) (hk : k < 2) (hfew : (s.stk k).uncorrAt.length ≤ 64) (n o : Nat) :
    let v := s.scrubBlock k n [] o
    v.mem = s.mem ∧ v.poison = s.poison ∧ (v.stk k).eccCorr = satAdd 32 (s.stk k).eccCorr n ∧ (v.stk k).fault = (s.stk k).fault ∧
      (v.stk k).scrubPtr = stackBase k + ((s.stk k).nextBlock (o + 4096)).getD 0 := by
  intro v
  let u := s.onStack k fun x => { x with passFrom := some (x.passFrom.getD s.now) }
  have hu : u.shaped := (State.onStack_moves k _ (Moves.refl [.beu] s) (List.Subset.refl _)).shaped hs
  have hnext : (u.scrubNext k o).shaped := (State.scrubNext_moves k o (Moves.refl _ u) (List.Subset.refl _)).shaped hu
  have hstk : u.stk k = { s.stk k with passFrom := some ((s.stk k).passFrom.getD s.now) } := stk_onStack_self (hs.stack_exists hk) _
  obtain ⟨hptr, herrors⟩ := scrubNext_stk (hu.stack_exists hk) o
  rw [hstk] at hptr herrors
  obtain ⟨hcorr, huncorr, hfault⟩ := by simpa only [Stack.errors, Prod.mk.injEq] using herrors
  have hv : v = (u.scrubNext k o).onStack k fun x => { x with eccCorr := satAdd 32 x.eccCorr n } :=
    readErrors_clean (hnext.stack_exists hk) (by rw [huncorr]; exact hfew) n
  rw [hv, onStack_mem, onStack_poison, stk_onStack_self (hnext.stack_exists hk)]
  exact ⟨State.scrubNext_same (p := .mem) (by decide) k o u, State.scrubNext_same (p := .poison) (by decide) k o u,
    congrArg (satAdd 32 · n) hcorr, hfault, hptr⟩

/-- A clean step of a stack that can be scrubbed completes (R307). -/
theorem runs_scrubStep_clean {t k n o : Nat} {s : State} (hs : s.shaped) (hon : (s.at t).scrubOn k = true)
    (hfew : (s.stk k).uncorrAt.length ≤ 64)
    (hblock : (s.stk k).nextBlock (max (s.stk k).scrubPtr (stackBase k) - stackBase k) = some o) :
    Runs (.scrubStep t k n []) s fun v =>
      v.mem = s.mem ∧ v.poison = s.poison ∧ (v.stk k).eccCorr = satAdd 32 (s.stk k).eccCorr n ∧ (v.stk k).fault = false ∧
      (v.stk k).scrubPtr = stackBase k + ((s.stk k).nextBlock (o + 4096)).getD 0 := by
  obtain ⟨hbeu, hsound⟩ : (s.at t).beuOn k = true ∧ (s.stk k).fault = false := by
    simp only [State.scrubOn, Bool.and_eq_true, Bool.not_eq_true', at_stk] at hon
    obtain ⟨⟨⟨hbeu, hsound⟩, -⟩, -⟩ := hon
    exact ⟨hbeu, hsound⟩
  obtain ⟨hmem, hpoison, hcorr, hfault, hptr⟩ := scrubBlock_clean (at_shaped t hs) (lt_of_beuOn hbeu) (by rwa [at_stk]) n o
  rw [at_stk] at hcorr hfault hptr
  refine ⟨_, runs_scrubStep t k n o s hon hblock, ?_⟩
  dsimp only
  rw [settle_mem, settle_poison, settle_stk, hmem, hpoison, hcorr, hfault, hptr, at_mem, at_poison]
  exact ⟨rfl, rfl, rfl, hsound, rfl⟩

/-! ## Stack faults (R314) -/

/-- A stack that faults: nothing runs or waits on it. -/
def Stack.faulted (x : Stack) : Stack :=
  { x with fault := true, events := x.events ||| 32, running := [],
           vp := { x.vp with head := (x.vp.head + x.vp.queue.length) % 256, queue := [], fence := none },
           bg := { x.bg with head := (x.bg.head + x.bg.queue.length) % 256, queue := [], fence := none } }

/-- The commands of one ring with its fence, as their completions name them: ring, HOT and the command. -/
def Stack.waiting (bg : Bool) (r : BRing) (x : Stack) : List (Bool × Bool × BCmd) :=
  (r.fence.toList ++ r.queue).map fun c => (bg, x.hot, c)

/-- The commands that run or wait on a stack. -/
def Stack.held (x : Stack) : List (Bool × Bool × BCmd) :=
  x.running.map (fun r => (r.bg, r.hot || x.hot, r.cmd)) ++ x.waiting false x.vp ++ x.waiting true x.bg

theorem Stack.held_length (x : Stack) : x.held.length =
    x.running.length + x.vp.queue.length + x.bg.queue.length + x.vp.fence.toList.length + x.bg.fence.toList.length := by
  simp only [Stack.held, Stack.waiting, List.length_append, List.length_map]
  omega

/-- A command ends with STACK_FAULT. -/
def State.endFaulted (k : Nat) (c : Bool × Bool × BCmd) (s : State) : State := s.beuEnd k c.1 c.2.1 c.2.2 6 {}

theorem stackFault_eq {k : Nat} {s : State} (hk : k < 2) (hfault : (s.stk k).fault = false) : s.stackFault k =
    (((s.onStack k Stack.faulted).each (s.stk k).held (State.endFaulted k)).evOpen 0x07 "STACK_FAULT" k 0).settleWork := by
  unfold State.stackFault
  refine if_neg ?_
  rw [hfault]
  rintro (h | h)
  · exact Bool.false_ne_true h
  · omega

/-- The work of a stack. -/
def Stack.work (x : Stack) : Bool × List BRun × BRing × BRing := (x.fault, x.running, x.vp, x.bg)

/-- Commands that end with STACK_FAULT leave one entry each, and the work of the stack as it was. -/
theorem each_endFaulted {k : Nat} (l : List (Bool × Bool × BCmd)) {s : State} (hk : k < s.beu.stks.length) :
    ((s.each l (State.endFaulted k)).stk k).cq.length = (s.stk k).cq.length + l.length ∧
      ((s.each l (State.endFaulted k)).stk k).work = (s.stk k).work := by
  induction l generalizing s with
  | nil => exact ⟨rfl, rfl⟩
  | cons c l ih =>
    have hstk : (s.endFaulted k c).stk k = _ := stk_beuEnd_self hk ..
    have hexist : k < (s.endFaulted k c).beu.stks.length := by rwa [State.endFaulted, beuEnd_beu, onStack_stks_length]
    obtain ⟨hlen, hwork⟩ := ih hexist
    rw [hstk] at hlen hwork
    refine ⟨hlen.trans ?_, hwork⟩
    rw [Stack.posted, List.length_append, List.length_singleton, List.length_cons]
    omega

/-- A stack fault completes every command of the stack, and leaves it with none. -/
theorem stackFault_leaves {k : Nat} {s : State} (hs : s.shaped) (hk : k < 2) (hfault : (s.stk k).fault = false) :
    let y := (s.stackFault k).stk k
    y.work = (s.stk k).faulted.work ∧ y.cq.length = (s.stk k).cq.length + (s.stk k).held.length := by
  have hev : ∀ u : State, (u.evOpen 0x07 "STACK_FAULT" k 0).stk k = u.stk k := fun u =>
    stk_of_beu (State.evOpen_same (p := .beu) (by decide) ..) k
  have hstk := stk_onStack_self (hs.stack_exists hk) Stack.faulted
  obtain ⟨hlen, hwork⟩ := each_endFaulted (k := k) (s.stk k).held (s := s.onStack k Stack.faulted)
    (by rw [onStack_stks_length]; exact hs.stack_exists hk)
  rw [hstk] at hlen hwork
  dsimp only
  rw [stackFault_eq hk hfault, settleWork_stk, hev]
  exact ⟨hwork, hlen⟩

/-! ## Temperature (R294, R314) -/

/-- A stack at a temperature from the instant `now` on; `heat` says whether that makes it HOT. -/
def Stack.atTemp (c now : Nat) (heat : Bool) (x : Stack) : Stack :=
  { x with
    temp := min c 255
    hot := x.hot || heat
    events := x.events ||| (if !x.hot ∧ heat then 2 else 0)
    running := x.running.map fun r => { r with hot := r.hot || heat }
    coolAt := if 90 < c then none else (match x.coolAt with | some i => some i | none => some now) }

/-- The stack counts as cooling while it is at or below 90 °C. -/
theorem Stack.coolAt_atTemp (c now : Nat) (heat : Bool) (x : Stack) : (x.atTemp c now heat).coolAt = none ↔ 90 < c := by
  unfold Stack.atTemp
  dsimp only
  split
  · exact iff_of_true rfl ‹_›
  · refine iff_of_false ?_ ‹_›
    split <;> exact nofun

/-- Stack `k` at the temperature `c` from this instant on: in self-refresh it does not become HOT (R294). -/
def State.tempered (k c : Nat) (s : State) : State :=
  s.onStack k (Stack.atTemp c s.now (decide (95 < c) && !(s.stk k).selfRefresh))

theorem tempered_stk {k : Nat} {s : State} (hk : k < s.beu.stks.length) (c : Nat) :
    (s.tempered k c).stk k = (s.stk k).atTemp c s.now (decide (95 < c) && !(s.stk k).selfRefresh) := stk_onStack_self hk _

section Temperature
variable {t k c : Nat} {s : State} (hon : s.sup.on = true) (hk : k < 2)

include hon hk in
theorem exec_stackTempChange_powered : exec (.stackTempChange t k c) s = .next (settle
    (if 105 < c then ((s.at t).tempered k c).stackFault k else (s.at t).tempered k c)) := by
  rw [exec_stackTempChange]; unfold execStackTempChange finish
  dsimp only
  rw [if_pos ⟨by rw [at_sup]; exact hon, hk⟩]
  rfl

include hon hk in
/-- Up to 105 °C a temperature makes the stack HOT at most, and starts or stops its cooling time. -/
theorem runs_stackTempChange_sound (hs : s.shaped) (hc : c ≤ 105) :
    Runs (.stackTempChange t k c) s fun v =>
      (v.stk k).temp = c ∧ (v.stk k).hot = ((s.stk k).hot || (decide (95 < c) && !(s.stk k).selfRefresh)) ∧
      (v.stk k).fault = (s.stk k).fault ∧ (v.stk k).cq = (s.stk k).cq ∧ ((v.stk k).coolAt = none ↔ 90 < c) := by
  have hexec := exec_stackTempChange_powered (t := t) (c := c) hon hk
  rw [if_neg (Nat.not_lt.mpr hc)] at hexec
  refine ⟨_, hexec, ?_⟩
  dsimp only
  rw [settle_stk, tempered_stk ((at_shaped t hs).stack_exists hk), at_stk]
  exact ⟨Nat.min_eq_left (by omega), rfl, rfl, rfl, Stack.coolAt_atTemp ..⟩

/-- Nothing runs or waits on a faulted stack, and each command that did has its entry. -/
def Stack.FaultOf (x y : Stack) : Prop :=
  y.fault = true ∧ y.running = [] ∧ y.vp.queue = [] ∧ y.bg.queue = [] ∧ y.vp.fence = none ∧ y.bg.fence = none ∧
    y.cq.length = x.cq.length + x.running.length + x.vp.queue.length + x.bg.queue.length + x.vp.fence.toList.length +
      x.bg.fence.toList.length

theorem faultOf_stackFault (hs : s.shaped) (hk : k < 2) (hfault : (s.stk k).fault = false) :
    (s.stk k).FaultOf ((s.stackFault k).stk k) := by
  obtain ⟨hwork, hlen⟩ := stackFault_leaves hs hk hfault
  obtain ⟨hflag, hrun, hvp, hbg⟩ := by simpa only [Stack.work, Prod.mk.injEq] using hwork
  refine ⟨hflag, hrun, ?_, ?_, ?_, ?_, ?_⟩
  · rw [hvp]; rfl
  · rw [hbg]; rfl
  · rw [hvp]; rfl
  · rw [hbg]; rfl
  · rw [hlen, Stack.held_length]
    omega

include hon hk in
/-- Above 105 °C a stack faults (R314). -/
theorem runs_stackTempChange_faults (hs : s.shaped) (hfault : (s.stk k).fault = false) (hc : 105 < c) :
    Runs (.stackTempChange t k c) s fun v => (s.stk k).FaultOf (v.stk k) := by
  have hexec := exec_stackTempChange_powered (t := t) (c := c) hon hk
  rw [if_pos hc] at hexec
  have hshaped : ((s.at t).tempered k c).shaped :=
    (State.onStack_moves k _ (Moves.refl [.beu] _) (List.Subset.refl _)).shaped (at_shaped t hs)
  have hstk := tempered_stk ((at_shaped t hs).stack_exists hk) c
  rw [at_stk] at hstk
  obtain ⟨hflag, hrun, hvp, hbg, hvpFence, hbgFence, hlen⟩ := faultOf_stackFault hshaped hk (by rw [hstk]; exact hfault)
  rw [hstk] at hlen
  refine ⟨_, hexec, ?_⟩
  dsimp only
  rw [settle_stk]
  refine ⟨hflag, hrun, hvp, hbg, hvpFence, hbgFence, hlen.trans ?_⟩
  dsimp only [Stack.atTemp]
  rw [List.length_map]

/-- A swept stack that loses its training faults (R314). -/
theorem runs_stackTrainingLoss_faults (hs : s.shaped) (hfault : (s.stk k).fault = false) (hon : (s.at t).beuOn k = true)
    (hswept : (s.stk k).swept = true) : Runs (.stackTrainingLoss t k) s fun v => (s.stk k).FaultOf (v.stk k) := by
  refine ⟨_, runs_stackTrainingLoss t k s hon hswept, ?_⟩
  dsimp only
  rw [settle_stk, ← at_stk t]
  exact faultOf_stackFault (at_shaped t hs) (lt_of_beuOn hon) (by rwa [at_stk])

end Temperature

/-- Settles O39: each phase of a switch, the clean scrub step, and what a temperature or lost training leaves of a stack. -/
theorem stacksSwitchScrubAndFaultAsStated : Obligations.StacksSwitchScrubAndFaultAsStated := by
  unfold Obligations.StacksSwitchScrubAndFaultAsStated
  refine ⟨?idle, ?busy, ?drain, ?fence, ?done, ?scrub, ?temp, runs_stackCoolExpiry, ?fault⟩
  case idle => exact fun t k w s hs hon hphase hgo => runs_beuSwitchGo_idle hs hon hphase hgo
  case busy => exact fun t k w s hs hon hphase hgo => runs_beuSwitchGo_busy hs hon hphase hgo
  case drain => exact fun t k s hs hon hphase hidle => runs_beuSwitchDrainComplete_drained hs hon hphase hidle
  case fence =>
    intro t k s hs hon hphase base fill
    refine (runs_beuSwitchFenceComplete_switches hon hphase hs).imp fun v ⟨hstk, hmem⟩ => ?_
    rw [hstk]
    exact ⟨rfl, rfl, rfl, rfl, hmem⟩
  case done => exact fun t k s hs hon hphase => runs_beuSwitchComplete_done hs hon hphase
  case scrub => exact fun t k n o s hs hon hfew hblock => runs_scrubStep_clean hs hon hfew hblock
  case temp => exact fun t k c s hs hon hk hc => runs_stackTempChange_sound hon hk hs hc
  case fault =>
    rintro t k c i s hs hk hfault (⟨rfl, hon, hc⟩ | ⟨rfl, hon, hswept⟩)
    · exact runs_stackTempChange_faults hon hk hs hfault hc
    · exact runs_stackTrainingLoss_faults hs hfault hon hswept

end Sys2Proof.Machine
end

section
/-! SUPPORT. The step (log entry 4), and the state after reset. -/

namespace Sys2Proof.Machine

/-- Settles O1: by the queue's front. -/
theorem stepRunsTheFrontCommand : Obligations.StepRunsTheFrontCommand := by
  unfold Obligations.StepRunsTheFrontCommand
  intro c r s hqueue
  unfold step
  rw [hqueue]

/-- Settles O2: by the empty queue. -/
theorem emptyQueueIdles : Obligations.EmptyQueueIdles := by
  unfold Obligations.EmptyQueueIdles
  intro s hqueue
  unfold step
  rw [hqueue]

/-- A row of outputs that are all off has none on. -/
theorem getD_replicate_false (n i : Nat) : (List.replicate n false).getD i false = false := by
  rw [List.getD_eq_getElem?_getD, List.getElem?_getD_replicate_default_eq]

theorem reset_outputsOk : State.reset.outputsOk :=
  ⟨fun i h => absurd ((getD_replicate_false 8 i).symm.trans h) Bool.false_ne_true,
    fun i h => absurd ((getD_replicate_false 4 i).symm.trans h) Bool.false_ne_true⟩

theorem reset_shaped : State.reset.shaped where
  clk := rfl
  seals := ⟨rfl, rfl, rfl, rfl, rfl⟩
  cfg := rfl
  fiu := rfl
  aud := rfl
  beu := rfl
  vrd := List.length_replicate ..
  slb := ⟨rfl, rfl, rfl, rfl, rfl⟩
  sml := rfl
  cvu := rfl
  xwl := ⟨rfl, rfl⟩
  hq := ⟨List.length_replicate .., rfl⟩
  tsu := List.length_replicate ..
  psm := ⟨rfl, rfl⟩
  mon := rfl
  dbg := ⟨rfl, rfl, rfl⟩

/-- Settles O7: no output is energised at reset, nothing is listed in memory, and each list has its length. -/
theorem resetMeetsTheInvariants : Obligations.ResetMeetsTheInvariants := by
  unfold Obligations.ResetMeetsTheInvariants
  exact ⟨reset_outputsOk, ⟨rfl, rfl⟩, reset_shaped, rfl⟩

end Sys2Proof.Machine
end

section
/-! SUPPORT. What every command leaves unchanged: each moves its own parts alone, and keeps the form of memory and of the register
files. A command's meaning is a nest of operations on the state under tests and lists; the frame of each operation is a lemma of its
own, so the frame of a command is that nest again. -/

namespace Sys2Proof.Machine

/-- The parts of one list are among those of another, by looking. -/
theorem subset_of_all {v w : List Part} (h : v.all w.contains = true) : v ⊆ w := fun p hp => by
  simpa using List.all_eq_true.1 h p hp

/-- What O3 says of one command. -/
def Stays (c : Instr) : Prop := ∀ s, ∃ u, exec c s = .next (settle u) ∧ Moves (writes c) (s.at (timeOf c)) u

/-- A command stays within its parts when its effect does. -/
theorem Stays.of {c : Instr} {f : State → State} (he : ∀ s, exec c s = finish (timeOf c) s f)
    (hf : ∀ s u, Moves (writes c) s u → Moves (writes c) s (f u)) : Stays c :=
  fun s => ⟨_, he s, hf _ _ (Moves.refl _ _)⟩

/-! ### The Safety Logic Block (13) -/

theorem stays_slbCycle (t : Nat) (i : SlbIn) : Stays (.slbCycle t i) := by
  refine .of (fun _ => exec_slbCycle ..) fun s u h => moves_ite (State.mirrorSlb_moves (moves_onStart (moves_onSup
    (moves_onSlb h (subset_of_all rfl) fun b hb => ?_) (subset_of_all rfl)) (subset_of_all rfl)) (subset_of_all rfl)) h
  have hcycle := Slb.cycle_shaped u.params u.nvm.params u.now u.sys.tqen u.sup.pfOut u.restartOk i b hb
  dsimp only
  split
  · exact hcycle
  · exact hcycle

theorem stays_inputFilterSettle (t input : Nat) (chB on : Bool) : Stays (.inputFilterSettle t input chB on) := by
  refine .of (fun _ => exec_inputFilterSettle ..) fun s u h => ?_
  repeat' first
    | exact subset_of_all rfl
    | exact fun _ hx => hx
    | with_reducible first
      | assumption | apply State.onInput_moves | apply moves_onSlb | apply moves_ite

theorem stays_blankingEnd (t input : Nat) (chB : Bool) : Stays (.blankingEnd t input chB) := by
  refine .of (fun _ => exec_blankingEnd ..) fun s u h => ?_
  repeat' first | exact subset_of_all rfl | with_reducible first | assumption | apply State.onInput_moves | apply moves_ite

theorem stays_discrepancyExpiry (t input : Nat) : Stays (.discrepancyExpiry t input) := by
  refine .of (fun _ => exec_discrepancyExpiry ..) fun s u h => ?_
  repeat' first
    | exact subset_of_all rfl
    | with_reducible first
      | assumption | apply State.onInput_moves | apply State.slbTrip_moves | apply moves_ite

theorem stays_testPulse (t n : Nat) (p : PulseIn) : Stays (.testPulse t n p) := by
  refine .of (fun _ => exec_testPulse ..) fun s u h => ?_
  repeat' first
    | exact subset_of_all rfl
    | with_reducible first
      | assumption | apply moves_each | apply State.onInput_moves | apply State.slbTrip_moves | apply moves_ite | intro _

theorem stays_outputOfftest (t channel : Nat) (ok : Bool) : Stays (.outputOfftest t channel ok) := by
  refine .of (fun _ => exec_outputOfftest ..) fun s u h => ?_
  repeat' first
    | exact subset_of_all rfl
    | exact fun _ hx => by simpa using hx
    | with_reducible first
      | assumption | apply moves_onSlb | apply State.slbTrip_moves | apply moves_ite

theorem stays_overcurrentCutOff (t output : Nat) : Stays (.overcurrentCutOff t output) := by
  refine .of (fun _ => exec_overcurrentCutOff ..) fun s u h => ?_
  repeat' first
    | exact subset_of_all rfl
    | exact fun _ hx => by simpa using hx
    | with_reducible first
      | assumption | apply moves_onSlb | apply State.slbTrip_moves | apply moves_ite

theorem stays_ss1MaxExpiry (t group : Nat) : Stays (.ss1MaxExpiry t group) := by
  refine .of (fun _ => exec_ss1MaxExpiry ..) fun s u h => ?_
  repeat' first
    | exact subset_of_all rfl
    | with_reducible first
      | assumption | apply State.groupOff_moves | split | dsimp only

theorem stays_standstillHeld (t group : Nat) : Stays (.standstillHeld t group) := by
  refine .of (fun _ => exec_standstillHeld ..) fun s u h => ?_
  repeat' first
    | exact subset_of_all rfl
    | with_reducible first
      | assumption | apply State.groupOff_moves | split | dsimp only

theorem stays_brakeReleaseDelayExpiry (t brake : Nat) : Stays (.brakeReleaseDelayExpiry t brake) := by
  refine .of (fun _ => exec_brakeReleaseDelayExpiry ..) fun s u h => ?_
  repeat' first | exact subset_of_all rfl | with_reducible first | assumption | apply moves_when | apply State.brakeTick_moves

theorem stays_brakePullinExpiry (t brake : Nat) : Stays (.brakePullinExpiry t brake) := by
  refine .of (fun _ => exec_brakePullinExpiry ..) fun s u h => ?_
  repeat' first | exact subset_of_all rfl | with_reducible first | assumption | apply moves_when | apply State.brakeTick_moves

theorem stays_chainPulseExpiry (t : Nat) : Stays (.chainPulseExpiry t) := by
  refine .of (fun _ => exec_chainPulseExpiry ..) fun s u h => ?_
  repeat' first
    | exact subset_of_all rfl
    | exact fun _ hx => hx
    | with_reducible first
      | assumption | apply moves_onSlb | apply moves_ite

theorem stays_encoderFault (t qe : Nat) (present : Bool) : Stays (.encoderFault t qe present) := by
  refine .of (fun _ => exec_encoderFault ..) fun s u h => ?_
  repeat' first
    | exact subset_of_all rfl
    | exact fun _ hx => by simpa using hx
    | with_reducible first
      | assumption | apply moves_onSlb | apply State.slbTrip_moves | apply moves_ite

theorem stays_slbDegTimerExpiry (t : Nat) : Stays (.slbDegTimerExpiry t) := by
  refine .of (fun _ => exec_slbDegTimerExpiry ..) fun s u h => ?_
  repeat' first
    | exact subset_of_all rfl
    | exact fun _ hx => hx
    | with_reducible first
      | assumption | apply moves_when | apply moves_onSlb

theorem stays_spstopNChange (t : Nat) (active : Bool) : Stays (.spstopNChange t active) := by
  refine .of (fun _ => exec_spstopNChange ..) fun s u h => ?_
  repeat' first
    | exact subset_of_all rfl
    | exact fun _ hx => hx
    | with_reducible first
      | assumption | apply moves_when | apply moves_onSlb

theorem stays_requestDisagreeExpiry (t : Nat) : Stays (.requestDisagreeExpiry t) := by
  refine .of (fun _ => exec_requestDisagreeExpiry ..) fun s u h => ?_
  repeat' first
    | exact subset_of_all rfl
    | exact fun _ hx => hx
    | with_reducible first
      | assumption | apply moves_onSlb | apply State.slbTrip_moves | apply moves_ite

theorem stays_slbLinkFrame (t : Nat) (intact : Bool) : Stays (.slbLinkFrame t intact) := by
  refine .of (fun _ => exec_slbLinkFrame ..) fun s u h => ?_
  dsimp only
  split
  · exact h
  · next r _ =>
    have hread := moves_onSlb (w := writes (.slbLinkFrame t intact)) (g := fun b => { b with link := r }) h (subset_of_all rfl)
      fun _ hb => hb
    refine moves_ite hread (moves_ite (moves_onSlb hread (subset_of_all rfl) fun _ hb => hb) (moves_ite ?_ ?_))
    · exact State.dieReset_moves (State.slbDrop_moves hread (subset_of_all rfl)) (subset_of_all rfl)
    · exact moves_onSlb hread (subset_of_all rfl) (Slb.frame_shaped _ _)

theorem stays_heartbeatTimeout (t : Nat) (x : BeatIn) : Stays (.heartbeatTimeout t x) := by
  refine .of (fun _ => exec_heartbeatTimeout ..) fun s u h => ?_
  repeat' first
    | exact subset_of_all rfl
    | exact fun _ hx => hx
    | with_reducible first
      | assumption | apply moves_onSlb | apply State.slbDrop_moves | apply State.dieReset_moves | apply moves_ite | split

theorem stays_slbOscillatorFault (t : Nat) : Stays (.slbOscillatorFault t) := by
  refine .of (fun _ => exec_slbOscillatorFault ..) fun s u h => ?_
  repeat' first | exact subset_of_all rfl | with_reducible first | assumption | apply moves_when | apply State.slbTrip_moves

theorem stays_slbParamCheck (t : Nat) (copyAok copyBok : Bool) : Stays (.slbParamCheck t copyAok copyBok) := by
  refine .of (fun _ => exec_slbParamCheck ..) fun s u h => ?_
  repeat' first
    | exact subset_of_all rfl
    | with_reducible first
      | assumption | apply moves_onNvm | apply State.slbTrip_moves | apply State.evOpen_moves | split | dsimp only

/-! ### The safety processor, supplies, seals and temperature (01, 02) -/

theorem stays_spCycle (t : Nat) : Stays (.spCycle t) := by
  refine .of (fun _ => exec_spCycle ..) fun s u h => ?_
  repeat' first
    | exact subset_of_all rfl
    | with_reducible first
      | assumption | apply moves_onSys | apply State.spCycle_moves | apply moves_ite

theorem stays_degradedTimerExpiry (t : Nat) : Stays (.degradedTimerExpiry t) := by
  refine .of (fun _ => exec_degradedTimerExpiry ..) fun s u h => ?_
  repeat' first | exact subset_of_all rfl | with_reducible first | assumption | apply moves_when | apply moves_onSys

theorem stays_tqenSs1Overdue (t : Nat) : Stays (.tqenSs1Overdue t) := by
  refine .of (fun _ => exec_tqenSs1Overdue ..) fun s u h => ?_
  repeat' first | exact subset_of_all rfl | with_reducible first | assumption | apply moves_when | apply moves_onSys

theorem stays_restartArmingLapse (t : Nat) : Stays (.restartArmingLapse t) := by
  refine .of (fun _ => exec_restartArmingLapse ..) fun s u h => ?_
  repeat' first | exact subset_of_all rfl | with_reducible first | assumption | apply State.lapseArming_moves

theorem stays_powerGood (t : Nat) (vinMv backupMv : Nat) : Stays (.powerGood t vinMv backupMv) := by
  refine .of (fun _ => exec_powerGood ..) fun s u h => ?_
  repeat' first
    | exact subset_of_all rfl
    | with_reducible first
      | assumption | apply moves_onSup | apply State.beginStart_moves | apply State.ev_moves | apply moves_ite

theorem stays_powerFailWarning (t : Nat) : Stays (.powerFailWarning t) := by
  refine .of (fun _ => exec_powerFailWarning ..) fun s u h => ?_
  repeat' first
    | exact subset_of_all rfl
    | exact fun _ hx => hx
    | with_reducible first
      | assumption | apply State.endRecord_moves | apply State.draw_snd | apply moves_onSup | apply moves_onSys
      | apply moves_onSlb | apply moves_onRet | apply moves_ite

theorem stays_holdupEnd (t : Nat) : Stays (.holdupEnd t) := by
  refine .of (fun _ => exec_holdupEnd ..) fun s u h => ?_
  repeat' first | exact subset_of_all rfl | with_reducible first | assumption | apply moves_when | apply State.enterOff_moves

theorem stays_backupExhausted (t : Nat) : Stays (.backupExhausted t) := by
  refine .of (fun _ => exec_backupExhausted ..) fun s u h => ?_
  repeat' first
    | exact subset_of_all rfl
    | with_reducible first
      | assumption | apply moves_when | apply moves_onRet | apply moves_onRtc | apply moves_onSup

theorem stays_ioSupplyOutOfWindow (t : Nat) (supplyB : Bool) (mv : Nat) : Stays (.ioSupplyOutOfWindow t supplyB mv) := by
  refine .of (fun _ => exec_ioSupplyOutOfWindow ..) fun s u h => ?_
  repeat' first
    | exact subset_of_all rfl
    | exact fun _ hx => hx
    | with_reducible first
      | assumption | apply moves_onSup | apply moves_onSlb | apply State.slbTrip_moves | apply moves_ite

theorem stays_ioSupplyRecovered (t : Nat) (mvA mvB : Nat) : Stays (.ioSupplyRecovered t mvA mvB) := by
  refine .of (fun _ => exec_ioSupplyRecovered ..) fun s u h => ?_
  repeat' first
    | exact subset_of_all rfl
    | exact fun _ hx => hx
    | with_reducible first
      | assumption | apply moves_when | apply moves_onSlb | apply moves_onSup

theorem stays_sealSwitchChange (t sw : Nat) (slbOn spOn : Bool) : Stays (.sealSwitchChange t sw slbOn spOn) := by
  refine .of (fun _ => exec_sealSwitchChange ..) fun s u h => ?_
  repeat' first
    | exact subset_of_all rfl
    | exact fun _ hx => by simpa using hx
    | with_reducible first
      | assumption | apply moves_onSeals | apply State.sealTrip_moves | split

theorem stays_sealContactDisagree (t sw : Nat) : Stays (.sealContactDisagree t sw) := by
  refine .of (fun _ => exec_sealContactDisagree ..) fun s u h => ?_
  repeat' first
    | exact subset_of_all rfl
    | exact fun _ hx => by simpa using hx
    | with_reducible first
      | assumption | apply moves_onSeals | apply State.sealTrip_moves | apply moves_ite

theorem stays_tamperLoopOpen (t : Nat) : Stays (.tamperLoopOpen t) := by
  refine .of (fun _ => exec_tamperLoopOpen ..) fun s u h => ?_
  repeat' first
    | exact subset_of_all rfl
    | exact fun _ hx => hx
    | with_reducible first
      | assumption | apply moves_onSeals | apply State.evOpen_moves | apply State.sealTrip_moves | apply moves_ite

theorem stays_tamperCoverFitted (t : Nat) : Stays (.tamperCoverFitted t) := by
  refine .of (fun _ => exec_tamperCoverFitted ..) fun s u h => ?_
  repeat' first | exact subset_of_all rfl | exact fun _ hx => hx | with_reducible first | assumption | apply moves_onSeals

theorem stays_dbgPresChange (t : Nat) (low : Bool) : Stays (.dbgPresChange t low) := by
  refine .of (fun _ => exec_dbgPresChange ..) fun s u h => ?_
  repeat' first
    | exact subset_of_all rfl
    | exact fun _ hx => hx
    | with_reducible first
      | assumption | apply moves_onDbg | apply State.ev_moves | apply moves_ite

theorem stays_dieTempWarning (t : Nat) : Stays (.dieTempWarning t) := by
  refine .of (fun _ => exec_dieTempWarning ..) fun s u h => ?_
  repeat' first | exact subset_of_all rfl | with_reducible first | assumption | apply moves_when | apply State.evName_moves

theorem stays_thermalTrip (t : Nat) : Stays (.thermalTrip t) := by
  refine .of (fun _ => exec_thermalTrip ..) fun s u h => ?_
  repeat' first
    | exact subset_of_all rfl
    | with_reducible first
      | assumption | apply State.slbDrop_moves | apply moves_onSup | apply moves_onSys | apply State.trigStop_moves
      | apply State.endRecord_moves | apply moves_onStart | apply State.setState_moves | apply moves_ite | split

/-! ### Device time, triggers and the calendar (03) -/

theorem stays_rtcTenthTick (t : Nat) : Stays (.rtcTenthTick t) := by
  refine .of (fun _ => exec_rtcTenthTick ..) fun s u h => ?_
  repeat' first | exact subset_of_all rfl | with_reducible first | assumption | apply moves_onRtc | apply moves_ite

theorem stays_ptpSyncReceived (t : Nat) (sync : PtpSync) : Stays (.ptpSyncReceived t sync) := by
  refine .of (fun _ => exec_ptpSyncReceived ..) fun s u h => ?_
  repeat' first
    | exact subset_of_all rfl
    | exact fun _ hx => hx
    | with_reducible first
      | assumption | apply State.noteSync_moves | apply moves_onClk | apply State.countLock_moves
      | apply State.discipline_moves | apply State.select_moves | apply moves_ite

theorem stays_bestMasterClockSelection (t : Nat) (sync : PtpSync) : Stays (.bestMasterClockSelection t sync) := by
  refine .of (fun _ => exec_bestMasterClockSelection ..) fun s u h => ?_
  repeat' first
    | exact subset_of_all rfl
    | with_reducible first
      | assumption | apply State.noteSync_moves | apply State.select_moves | apply moves_ite

theorem stays_ptpGrandmasterLost (t port : Nat) : Stays (.ptpGrandmasterLost t port) := by
  refine .of (fun _ => exec_ptpGrandmasterLost ..) fun s u h => ?_
  repeat' first
    | exact subset_of_all rfl
    | exact fun _ hx => hx
    | with_reducible first
      | assumption | apply moves_onClk | apply State.select_moves | apply State.setSync_moves | apply moves_ite | split

theorem stays_ptpHoldoverExpiry (t : Nat) : Stays (.ptpHoldoverExpiry t) := by
  refine .of (fun _ => exec_ptpHoldoverExpiry ..) fun s u h => ?_
  repeat' first | exact subset_of_all rfl | with_reducible first | assumption | apply State.setSync_moves | apply moves_ite

theorem stays_ptpPortDisagree (t : Nat) (diff : Int) : Stays (.ptpPortDisagree t diff) := by
  refine .of (fun _ => exec_ptpPortDisagree ..) fun s u h => ?_
  repeat' first
    | exact subset_of_all rfl
    | exact fun _ hx => hx
    | with_reducible first
      | assumption | apply moves_onClk | apply State.ev_moves | apply moves_ite

theorem stays_triggerEdge (t n : Nat) : Stays (.triggerEdge t n) := by
  refine .of (fun _ => exec_triggerEdge ..) fun s u h => ?_
  repeat' first
    | exact subset_of_all rfl
    | with_reducible first
      | assumption | apply State.onTrig_moves | apply moves_send | split | dsimp only

theorem stays_triggerPulseEnd (t n : Nat) : Stays (.triggerPulseEnd t n) := by
  refine .of (fun _ => exec_triggerPulseEnd ..) fun s u h => ?_
  repeat' first
    | exact subset_of_all rfl
    | with_reducible first
      | assumption | apply State.onTrig_moves | apply moves_send | apply moves_ite

theorem stays_trigStartWrite (t : Nat) (n v : Nat) : Stays (.trigStartWrite t n v) := by
  refine .of (fun _ => exec_trigStartWrite ..) fun s u h => ?_
  repeat' first | exact subset_of_all rfl | with_reducible first | assumption | apply moves_when | apply State.onTrig_moves

theorem stays_trigPeriodWrite (t : Nat) (n v : Nat) : Stays (.trigPeriodWrite t n v) := by
  refine .of (fun _ => exec_trigPeriodWrite ..) fun s u h => ?_
  repeat' first | exact subset_of_all rfl | with_reducible first | assumption | apply moves_when | apply State.onTrig_moves

theorem stays_trigWidthWrite (t : Nat) (n v : Nat) : Stays (.trigWidthWrite t n v) := by
  refine .of (fun _ => exec_trigWidthWrite ..) fun s u h => ?_
  repeat' first | exact subset_of_all rfl | with_reducible first | assumption | apply moves_when | apply State.onTrig_moves

theorem stays_trigCtrlWrite (t : Nat) (n v : Nat) : Stays (.trigCtrlWrite t n v) := by
  refine .of (fun _ => exec_trigCtrlWrite ..) fun s u h => ?_
  repeat' first | exact subset_of_all rfl | with_reducible first | assumption | apply moves_when | apply State.onTrig_moves

/-! ### Monitors and logs (18) -/

theorem stays_monLevelSample (t slot : Nat) (v : Int) : Stays (.monLevelSample t slot v) := by
  refine .of (fun _ => exec_monLevelSample ..) fun s u h => ?_
  repeat' first
    | exact subset_of_all rfl
    | exact fun _ hx => by simpa using hx
    | with_reducible first
      | assumption | apply moves_onSup | apply moves_onMon | apply State.sample_moves | apply moves_ite | split

theorem stays_monSnapshot (t : Nat) (bank : Bank) (slot : Nat) : Stays (.monSnapshot t bank slot) := by
  refine .of (fun _ => exec_monSnapshot ..) fun s u h => ?_
  repeat' first | exact subset_of_all rfl | with_reducible first | assumption | apply moves_when | apply State.snap_moves

theorem stays_monSnapshotClear (t : Nat) (bank : Bank) (slot : Nat) : Stays (.monSnapshotClear t bank slot) := by
  refine .of (fun _ => exec_monSnapshotClear ..) fun s u h => ?_
  repeat' first
    | exact subset_of_all rfl
    | exact fun _ hx => by simpa using hx
    | with_reducible first
      | assumption | apply State.snap_moves | apply moves_onMon | apply State.onSnap_moves | apply moves_ite

theorem stays_adcCalibration (t : Nat) (r : AdcCal) : Stays (.adcCalibration t r) := by
  refine .of (fun _ => exec_adcCalibration ..) fun s u h => ?_
  repeat' first
    | exact subset_of_all rfl
    | exact fun _ hx => hx
    | with_reducible first
      | assumption | apply moves_onMon | apply State.bgDone_moves | apply State.ev_moves | apply moves_ite

theorem stays_telemetrySwap (t : Nat) : Stays (.telemetrySwap t) := by
  refine .of (fun _ => exec_telemetrySwap ..) fun s u h => ?_
  repeat' first
    | exact subset_of_all rfl
    | exact fun _ hx => hx
    | with_reducible first
      | assumption | apply moves_onMon | apply State.bgDone_moves | apply moves_ite

theorem stays_logSelWrite (t : Nat) (bank : Bank) (seq : Nat) : Stays (.logSelWrite t bank seq) := by
  refine .of (fun _ => exec_logSelWrite ..) fun s u h => ?_
  repeat' first | exact subset_of_all rfl | with_reducible first | assumption | apply State.onBank_moves | split | dsimp only

theorem stays_frSelWrite (t : Nat) (bank : Bank) (num : Nat) : Stays (.frSelWrite t bank num) := by
  refine .of (fun _ => exec_frSelWrite ..) fun s u h => ?_
  repeat' first | exact subset_of_all rfl | with_reducible first | assumption | apply State.onBank_moves | split | dsimp only

theorem stays_logRepeatSecondEnd (t : Nat) : Stays (.logRepeatSecondEnd t) := by
  refine .of (fun _ => exec_logRepeatSecondEnd ..) fun s u h => ?_
  repeat' first
    | exact subset_of_all rfl
    | with_reducible first
      | assumption | apply moves_when | apply State.flushRepeats_moves

/-! ### Safe messages and the CVU (14) -/

theorem stays_cvuComputeComplete (t ch : Nat) (r : CvuReq) : Stays (.cvuComputeComplete t ch r) := by
  refine .of (fun _ => exec_cvuComputeComplete ..) fun s u h => ?_
  repeat' first
    | exact subset_of_all rfl
    | exact fun _ hx => by simpa using hx
    | with_reducible first
      | assumption | apply State.cvuFault_moves | apply moves_onCvu | apply moves_ite

theorem stays_jointsMessage (t : Nat) (m : SafeRx) : Stays (.jointsMessage t m) := by
  refine .of (fun _ => exec_jointsMessage ..) fun s u h => ?_
  repeat' first | exact subset_of_all rfl | with_reducible first | assumption | apply State.rxOf_moves

theorem stays_stopRequest (t : Nat) (m : SafeRx) : Stays (.stopRequest t m) := by
  refine .of (fun _ => exec_stopRequest ..) fun s u h => ?_
  repeat' first | exact subset_of_all rfl | with_reducible first | assumption | apply State.rxOf_moves

theorem stays_resetRequest (t : Nat) (m : SafeRx) : Stays (.resetRequest t m) := by
  refine .of (fun _ => exec_resetRequest ..) fun s u h => ?_
  repeat' first | exact subset_of_all rfl | with_reducible first | assumption | apply State.rxOf_moves

theorem stays_aliveMessage (t : Nat) (m : SafeRx) : Stays (.aliveMessage t m) := by
  refine .of (fun _ => exec_aliveMessage ..) fun s u h => ?_
  repeat' first | exact subset_of_all rfl | with_reducible first | assumption | apply State.rxOf_moves

theorem stays_pathAnnounce (t : Nat) (m : SafeRx) : Stays (.pathAnnounce t m) := by
  refine .of (fun _ => exec_pathAnnounce ..) fun s u h => ?_
  repeat' first | exact subset_of_all rfl | with_reducible first | assumption | apply State.rxOf_moves

theorem stays_safeMessageRefused (t : Nat) (m : SafeRx) : Stays (.safeMessageRefused t m) := by
  refine .of (fun _ => exec_safeMessageRefused ..) fun s u h => ?_
  repeat' first | exact subset_of_all rfl | with_reducible first | assumption | apply moves_when | apply State.rxAct_moves

theorem stays_skewWindowEnd (t : Nat) (conn seq : Nat) : Stays (.skewWindowEnd t conn seq) := by
  refine .of (fun _ => exec_skewWindowEnd ..) fun s u h => ?_
  repeat' first | exact subset_of_all rfl | with_reducible first | assumption | apply State.pairSingle_moves | split

theorem stays_smlWatchdogExpiry (t conn : Nat) : Stays (.smlWatchdogExpiry t conn) := by
  refine .of (fun _ => exec_smlWatchdogExpiry ..) fun s u h => ?_
  repeat' first
    | exact subset_of_all rfl
    | with_reducible first
      | assumption | apply moves_with | apply moves_when | apply State.connFail_moves | intro _

theorem stays_smlOpeningExpiry (t conn : Nat) : Stays (.smlOpeningExpiry t conn) := by
  refine .of (fun _ => exec_smlOpeningExpiry ..) fun s u h => ?_
  repeat' first
    | exact subset_of_all rfl
    | with_reducible first
      | assumption | apply moves_with | apply moves_when | apply State.onConn_moves | intro _

theorem stays_singlePathTimerExpiry (t : Nat) : Stays (.singlePathTimerExpiry t) := by
  refine .of (fun _ => exec_singlePathTimerExpiry ..) fun s u h => ?_
  repeat' first | exact subset_of_all rfl | with_reducible first | assumption | apply moves_when | apply State.spTrip_moves

theorem stays_statusSend (t conn : Nat) : Stays (.statusSend t conn) := by
  refine .of (fun _ => exec_statusSend ..) fun s u h => ?_
  repeat' first
    | exact subset_of_all rfl
    | with_reducible first
      | assumption | apply moves_with | apply moves_when | apply State.sendStatus_moves | intro _

theorem stays_pathAnnounceSend (t port : Nat) : Stays (.pathAnnounceSend t port) := by
  refine .of (fun _ => exec_pathAnnounceSend ..) fun s u h => ?_
  repeat' first
    | exact subset_of_all rfl
    | exact fun _ hx => hx
    | with_reducible first
      | assumption | apply moves_onSml | apply moves_each | apply moves_with | apply moves_send | apply moves_ite
      | intro _

theorem stays_ethLinkChange (t port : Nat) (up : Bool) : Stays (.ethLinkChange t port up) := by
  refine .of (fun _ => exec_ethLinkChange ..) fun s u h => ?_
  repeat' first
    | exact subset_of_all rfl
    | with_reducible first
      | assumption | apply State.linkRise_moves | apply State.linkDown_moves | apply moves_ite

theorem stays_connectionPause (t : Nat) : Stays (.connectionPause t) := by
  refine .of (fun _ => exec_connectionPause ..) fun s u h => ?_
  repeat' first
    | exact subset_of_all rfl
    | with_reducible first
      | assumption | apply moves_each | apply State.onConn_moves | apply moves_ite | intro _

/-! ### Base-die element units and stacks (11) -/

theorem stays_beuCmdSubmit (t stack : Nat) (bg : Bool) (cmd : Bytes) : Stays (.beuCmdSubmit t stack bg cmd) := by
  refine .of (fun _ => exec_beuCmdSubmit ..) fun s u h => ?_
  repeat' first | exact subset_of_all rfl | with_reducible first | assumption | apply moves_when | apply State.beuSubmit_moves

theorem stays_beuCmdStart (t stack : Nat) (bg : Bool) : Stays (.beuCmdStart t stack bg) := by
  refine .of (fun _ => exec_beuCmdStart ..) fun s u h => ?_
  repeat' first
    | exact subset_of_all rfl
    | with_reducible first
      | assumption | apply State.takeHead_moves | apply State.onStack_moves | apply moves_with | apply State.refuse_moves
      | apply State.beuEnd_moves | apply State.settleWork_moves | apply moves_ite | split | intro _

theorem stays_beuCmdComplete (t stack : Nat) (x : BeuEnd) : Stays (.beuCmdComplete t stack x) := by
  refine .of (fun _ => exec_beuCmdComplete ..) fun s u h => ?_
  repeat' first
    | exact subset_of_all rfl
    | with_reducible first
      | assumption | apply State.readErrors_moves | apply State.beuFinish_moves | apply moves_ite | split

theorem stays_beuFenceComplete (t stack : Nat) (bg : Bool) : Stays (.beuFenceComplete t stack bg) := by
  refine .of (fun _ => exec_beuFenceComplete ..) fun s u h => ?_
  repeat' first
    | exact subset_of_all rfl
    | with_reducible first
      | assumption | apply State.onStack_moves | apply State.beuEnd_moves | apply State.settleWork_moves | split
      | dsimp only

theorem stays_beuSwitchGo (t : Nat) (stack v : Nat) : Stays (.beuSwitchGo t stack v) := by
  refine .of (fun _ => exec_beuSwitchGo ..) fun s u h => ?_
  repeat' first | exact subset_of_all rfl | with_reducible first | assumption | apply State.onStack_moves | apply moves_ite

theorem stays_beuSwitchDrainComplete (t stack : Nat) : Stays (.beuSwitchDrainComplete t stack) := by
  refine .of (fun _ => exec_beuSwitchDrainComplete ..) fun s u h => ?_
  repeat' first | exact subset_of_all rfl | with_reducible first | assumption | apply moves_when | apply State.onStack_moves

theorem stays_beuSwitchFenceComplete (t stack : Nat) : Stays (.beuSwitchFenceComplete t stack) := by
  refine .of (fun _ => exec_beuSwitchFenceComplete ..) fun s u h => ?_
  repeat' first
    | exact subset_of_all rfl
    | with_reducible first
      | assumption | apply State.wipe_moves | apply State.onStack_moves | apply moves_ite

theorem stays_beuSwitchComplete (t stack : Nat) : Stays (.beuSwitchComplete t stack) := by
  refine .of (fun _ => exec_beuSwitchComplete ..) fun s u h => ?_
  repeat' first | exact subset_of_all rfl | with_reducible first | assumption | apply moves_when | apply State.onStack_moves

theorem stays_scrubStep (t stack corrected : Nat) (uncorrectable : List Nat) :
    Stays (.scrubStep t stack corrected uncorrectable) := by
  refine .of (fun _ => exec_scrubStep ..) fun s u h => ?_
  repeat' first
    | exact subset_of_all rfl
    | with_reducible first
      | assumption | apply moves_when | apply moves_with | apply State.scrubBlock_moves | intro _

theorem stays_stackTempChange (t : Nat) (stack celsius : Nat) : Stays (.stackTempChange t stack celsius) := by
  refine .of (fun _ => exec_stackTempChange ..) fun s u h => ?_
  repeat' first
    | exact subset_of_all rfl
    | with_reducible first
      | assumption | apply State.onStack_moves | apply State.stackFault_moves | apply moves_ite

theorem stays_stackCoolExpiry (t stack : Nat) : Stays (.stackCoolExpiry t stack) := by
  refine .of (fun _ => exec_stackCoolExpiry ..) fun s u h => ?_
  repeat' first | exact subset_of_all rfl | with_reducible first | assumption | apply moves_when | apply State.onStack_moves

theorem stays_stackTrainingLoss (t stack : Nat) : Stays (.stackTrainingLoss t stack) := by
  refine .of (fun _ => exec_stackTrainingLoss ..) fun s u h => ?_
  repeat' first
    | exact subset_of_all rfl
    | with_reducible first
      | assumption | apply moves_when | apply State.stackFault_moves

/-! ### Frame intake (06) -/

theorem stays_frameStart (t stream : Nat) : Stays (.frameStart t stream) := by
  refine .of (fun _ => exec_frameStart ..) fun s u h => ?_
  repeat' first
    | exact subset_of_all rfl
    | with_reducible first
      | assumption | apply State.frameDrop_moves | apply State.onStack_moves | apply State.jOpen_moves
      | apply State.onStream_moves | apply moves_ite

theorem stays_frameEnd (t stream : Nat) (f : FrameIn) : Stays (.frameEnd t stream f) := by
  refine .of (fun _ => exec_frameEnd ..) fun s u h => ?_
  repeat' first
    | exact subset_of_all rfl
    | with_reducible first
      | assumption | apply State.frameDrop_moves | apply State.sealFrame_moves | apply State.settleWork_moves | split
      | dsimp only

theorem stays_checkFinalStatus (t stream : Nat) : Stays (.checkFinalStatus t stream) := by
  refine .of (fun _ => exec_checkFinalStatus ..) fun s u h => ?_
  repeat' first
    | exact subset_of_all rfl
    | with_reducible first
      | assumption | apply State.finalStatus_moves | apply State.settleWork_moves | split

theorem stays_streamStallExpiry (t stream : Nat) : Stays (.streamStallExpiry t stream) := by
  refine .of (fun _ => exec_streamStallExpiry ..) fun s u h => ?_
  repeat' first
    | exact subset_of_all rfl
    | with_reducible first
      | assumption | apply State.loseStream_moves | apply moves_ite | split

theorem stays_frameDeliveryComplete (t stream : Nat) (buf : BufDesc) : Stays (.frameDeliveryComplete t stream buf) := by
  refine .of (fun _ => exec_frameDeliveryComplete ..) fun s u h => ?_
  repeat' first
    | exact subset_of_all rfl
    | with_reducible first
      | assumption | apply State.onStream_moves | apply State.deliveryEnd_moves | apply State.deliveryDone_moves
      | apply moves_send | apply moves_ite | split

/-! ### The configuration service (05) -/

theorem stays_uploadBegin (t q) : Stays (.uploadBegin t q) := by
  refine .of (fun _ => exec_uploadBegin ..) fun s u h =>
    State.serve_moves _ _ _ h (fun v hv => State.gated_snd hv (fun v hv => ?_) (subset_of_all rfl)) (subset_of_all rfl)
  dsimp only
  split
  · exact hv
  · dsimp only
    exact moves_onCfg (State.onImgSlot_moves _ _ hv (subset_of_all rfl)) (subset_of_all rfl) fun _ hx => hx

theorem stays_uploadData (t : Nat) (q : CfgReq) (reads : Bool) (offset : Nat) (data : Bytes) :
    Stays (.uploadData t q reads offset data) := by
  refine .of (fun _ => exec_uploadData ..) fun s u h => ?_
  repeat' first
    | exact subset_of_all rfl
    | exact fun _ hx => hx
    | with_reducible first
      | assumption | apply State.serve_moves | apply State.onImgSlot_moves | apply moves_onCfg | apply plain_snd | split
      | intro _ | dsimp only

theorem stays_uploadEnd (t : Nat) (q : CfgReq) : Stays (.uploadEnd t q) := by
  refine .of (fun _ => exec_uploadEnd ..) fun s u h => ?_
  repeat' first
    | exact subset_of_all rfl
    | exact fun _ hx => hx
    | with_reducible first
      | assumption | apply State.serve_moves | apply State.onImgSlot_moves | apply moves_onCfg | apply State.loadIds_moves
      | apply plain_snd | split | intro _

theorem stays_uploadSessionLapse (t : Nat) : Stays (.uploadSessionLapse t) := by
  refine .of (fun _ => exec_uploadSessionLapse ..) fun s u h => ?_
  repeat' first
    | exact subset_of_all rfl
    | exact fun _ hx => hx
    | with_reducible first
      | assumption | apply moves_with | apply moves_onCfg | apply moves_ite | intro _

theorem stays_activate (t : Nat) (q : CfgReq) : Stays (.activate t q) := by
  refine .of (fun _ => exec_activate ..) fun s u h => ?_
  refine moves_ite (State.beginStart_moves _ _ ?served (subset_of_all rfl)) ?served
  refine State.serve_moves _ _ _ h (fun v hv => ?_) (subset_of_all rfl)
  split
  · exact hv
  · exact State.gated_snd hv (fun v hv => State.activateNow_snd hv (subset_of_all rfl)) (subset_of_all rfl)

theorem stays_restart (t : Nat) (q : CfgReq) : Stays (.restart t q) := by
  refine .of (fun _ => exec_restart ..) fun s u h => ?_
  have hserved := State.serve_moves q 0x21 (State.gated q [.commission] false (plain 0)) h
    (fun v hv => State.gated_snd hv (fun v hv => hv) (subset_of_all rfl)) (subset_of_all rfl)
  exact moves_ite (State.beginStart_moves _ _ (moves_ite (State.dbgOff_moves hserved (subset_of_all rfl)) hserved)
    (subset_of_all rfl)) hserved

theorem stays_enrol (t : Nat) (q : CfgReq) (key newPassword : Option Bytes) (pattern : Option Nat) :
    Stays (.enrol t q key newPassword pattern) := by
  refine .of (fun _ => exec_enrol ..) fun s u h => State.serve_moves _ _ _ h (fun v hv => ?_) (subset_of_all rfl)
  have hnow : ∀ first v, Moves (writes (.enrol t q key newPassword pattern)) s v →
      Moves (writes (.enrol t q key newPassword pattern)) s (State.enrolNow q first key newPassword pattern v).2.2 :=
    fun _ _ hv => State.enrolNow_snd hv (subset_of_all rfl)
  split
  · split
    · exact hv
    · split
      · exact hv
      · exact hnow true v hv
  · exact State.gated_snd hv (hnow false) (subset_of_all rfl)

theorem stays_setPassword (t : Nat) (q : CfgReq) (p : Bytes) : Stays (.setPassword t q p) := by
  refine .of (fun _ => exec_setPassword ..) fun s u h =>
    State.serve_moves _ _ _ h (fun v hv => State.gated_snd hv (fun v hv => ?_) (subset_of_all rfl)) (subset_of_all rfl)
  dsimp only
  split
  · exact hv
  · split
    · exact hv
    · exact State.logChange_moves _ _ _ _ _ (State.putSecrets_moves _ (State.newPass_snd hv (subset_of_all rfl)) (subset_of_all rfl))
        (subset_of_all rfl)

theorem stays_fieldReset (t : Nat) (q : CfgReq) (cert : Cert) : Stays (.fieldReset t q cert) := by
  refine .of (fun _ => exec_fieldReset ..) fun s u h => ?_
  repeat' first
    | exact subset_of_all rfl
    | with_reducible first
      | assumption | apply State.serve_moves | apply State.putSecrets_moves | apply State.logChange_moves
      | apply plain_snd | split | intro _

theorem stays_lockoutEnd (t : Nat) : Stays (.lockoutEnd t) := by
  refine .of (fun _ => exec_lockoutEnd ..) fun s u h => ?_
  repeat' first | exact subset_of_all rfl | with_reducible first | assumption | apply State.putSecrets_moves | apply moves_ite

theorem stays_setRtc (t : Nat) (q : CfgReq) (op : RtcOp) : Stays (.setRtc t q op) := by
  refine .of (fun _ => exec_setRtc ..) fun s u h =>
    State.serve_moves _ _ _ h (fun v hv => State.gated_snd hv (fun v hv => ?_) (subset_of_all rfl)) (subset_of_all rfl)
  cases op with
  | follow => exact State.rtcFollow_moves hv (subset_of_all rfl)
  | load x =>
    have hload := State.rtcLoad_moves x hv (subset_of_all rfl)
    dsimp only
    split
    · exact hload
    · split
      · exact hv
      · exact State.logChange_moves _ _ _ _ _ hload (subset_of_all rfl)

theorem stays_setUtcOfs (t : Nat) (q : CfgReq) (ofs : Nat) : Stays (.setUtcOfs t q ofs) := by
  refine .of (fun _ => exec_setUtcOfs ..) fun s u h =>
    State.serve_moves _ _ _ h (fun v hv => State.gated_snd hv (fun v hv => ?_) (subset_of_all rfl)) (subset_of_all rfl)
  dsimp only
  split
  · exact hv
  · exact State.logChange_moves _ _ _ _ _ (moves_onRtc hv (subset_of_all rfl)) (subset_of_all rfl)

theorem stays_clearChangeLog (t : Nat) (q : CfgReq) : Stays (.clearChangeLog t q) := by
  refine .of (fun _ => exec_clearChangeLog ..) fun s u h =>
    State.serve_moves _ _ _ h (fun v hv => State.gated_snd hv (fun v hv => ?_) (subset_of_all rfl)) (subset_of_all rfl)
  dsimp only
  split
  · exact hv
  · exact State.logChange_moves _ _ _ _ _ (moves_onCfg hv (subset_of_all rfl) fun _ hx => hx) (subset_of_all rfl)

theorem stays_clearDoldrums (t : Nat) (q : CfgReq) : Stays (.clearDoldrums t q) := by
  refine .of (fun _ => exec_clearDoldrums ..) fun s u h => ?_
  have hserved := State.serve_moves q 0x60 (State.gated q [.doldrums] true (plain 0)) h
    (fun v hv => State.gated_snd hv (fun v hv => hv) (subset_of_all rfl)) (subset_of_all rfl)
  exact moves_ite (State.beginStart_moves _ _ (State.evOpen_moves _ _ _ _ (moves_onNvm hserved (subset_of_all rfl)) (subset_of_all rfl))
    (subset_of_all rfl)) hserved

theorem stays_exportObject (t : Nat) (q : CfgReq) (object first count : Nat) :
    Stays (.exportObject t q object first count) := by
  refine .of (fun _ => exec_exportObject ..) fun s u h => ?_
  repeat' first
    | exact subset_of_all rfl
    | exact fun _ hx => hx
    | with_reducible first
      | assumption | apply State.serve_moves | apply moves_onCfg | apply plain_snd | split | intro _

theorem stays_hashReverify (t : Nat) : Stays (.hashReverify t) := by
  refine .of (fun _ => exec_hashReverify ..) fun s u h => ?_
  repeat' first
    | exact subset_of_all rfl
    | exact fun _ hx => hx
    | with_reducible first
      | assumption | apply moves_onCfg | apply State.evOpen_moves | apply State.bgDone_moves
      | apply State.settleWork_moves | apply moves_ite

/-! ### Cores, the Vane and SAFE_STATE classes (08, 10) -/

theorem stays_descriptorDispatch (t core : Nat) : Stays (.descriptorDispatch t core) := by
  refine .of (fun _ => exec_descriptorDispatch ..) fun s u h => ?_
  repeat' first
    | exact subset_of_all rfl
    | with_reducible first
      | assumption | apply moves_with | apply State.takePass_moves | apply State.settleWork_moves
      | apply State.takeCopy_moves | split | intro _

theorem stays_descriptorComplete (t core : Nat) (hw : CoreHw) : Stays (.descriptorComplete t core hw) := by
  refine .of (fun _ => exec_descriptorComplete ..) fun s u h => ?_
  repeat' first
    | exact subset_of_all rfl
    | with_reducible first
      | assumption | apply moves_with | apply State.coreErrors_moves | apply State.onCore_moves | apply moves_onFgu
      | apply State.endCopy_moves | apply State.endPass_moves | apply State.toBist_moves | apply State.latency_moves
      | apply State.coreFree_moves | apply State.settleWork_moves | apply State.commitMemory_moves | apply moves_ite
      | intro _

theorem stays_descriptorHang (t core : Nat) : Stays (.descriptorHang t core) := by
  refine .of (fun _ => exec_descriptorHang ..) fun s u h => ?_
  repeat' first
    | exact subset_of_all rfl
    | with_reducible first
      | assumption | apply moves_with | apply State.hangPass_moves | apply State.toBist_moves | apply State.coreFree_moves
      | apply State.settleWork_moves | apply moves_ite | intro _

theorem stays_coreBistComplete (t core : Nat) (ok : Bool) : Stays (.coreBistComplete t core ok) := by
  refine .of (fun _ => exec_coreBistComplete ..) fun s u h => ?_
  repeat' first
    | exact subset_of_all rfl
    | with_reducible first
      | assumption | apply State.zeroLocal_moves | apply State.fence_moves | apply State.settleWork_moves
      | apply State.onCore_moves | apply moves_onVane | apply moves_ite

theorem stays_rollingSelftestSegment (t core : Nat) (e : SegEnd) : Stays (.rollingSelftestSegment t core e) := by
  refine .of (fun _ => exec_rollingSelftestSegment ..) fun s u h => ?_
  repeat' first
    | exact subset_of_all rfl
    | with_reducible first
      | assumption | apply State.onCore_moves | apply State.endSegment_moves | apply State.zeroLocal_moves
      | apply State.testDone_moves | apply State.fence_moves | apply State.settleWork_moves | apply moves_ite | split

theorem stays_vaneSelftestComplete (t : Nat) (laneOk slotOk : Bool) : Stays (.vaneSelftestComplete t laneOk slotOk) := by
  refine .of (fun _ => exec_vaneSelftestComplete ..) fun s u h => ?_
  repeat' first
    | exact subset_of_all rfl
    | with_reducible first
      | assumption | apply moves_with | apply moves_onVane | apply State.settleWork_moves | intro _

theorem stays_safeStateJobIssue (t cls : Nat) : Stays (.safeStateJobIssue t cls) := by
  refine .of (fun _ => exec_safeStateJobIssue ..) fun s u h => ?_
  repeat' first
    | exact subset_of_all rfl
    | with_reducible first
      | assumption | apply State.issueSafe_moves | apply State.wake_moves | apply State.settleWork_moves | apply moves_ite

theorem stays_safeStateDeadline (t cls : Nat) : Stays (.safeStateDeadline t cls) := by
  refine .of (fun _ => exec_safeStateDeadline ..) fun s u h => ?_
  repeat' first
    | exact subset_of_all rfl
    | exact fun _ hx => hx
    | with_reducible first
      | assumption | apply moves_with | apply moves_onAud | apply State.spTrip_moves | apply moves_ite | intro _

/-! ### The TAP and debug (18) -/

theorem stays_idcode (t : Nat) : Stays (.idcode t) := by
  refine .of (fun _ => exec_idcode ..) fun s u h => ?_
  repeat' first
    | exact subset_of_all rfl
    | with_reducible first
      | assumption | apply moves_when | apply State.tapIr_moves | apply State.shiftOut_moves

theorem stays_samplePreload (t : Nat) (pins preload : Nat) : Stays (.samplePreload t pins preload) := by
  refine .of (fun _ => exec_samplePreload ..) fun s u h => ?_
  repeat' first
    | exact subset_of_all rfl
    | exact fun _ hx => hx
    | with_reducible first
      | assumption | apply moves_when | apply State.tapIr_moves | apply moves_onDbg | apply State.shiftOut_moves

theorem stays_extest (t pins : Nat) : Stays (.extest t pins) := by
  refine .of (fun _ => exec_extest ..) fun s u h => ?_
  repeat' first
    | exact subset_of_all rfl
    | exact fun _ hx => hx
    | with_reducible first
      | assumption | apply moves_when | apply State.tapIr_moves | apply moves_onDbg | apply State.shiftOut_moves
      | apply State.bypassShift_moves | apply moves_ite

theorem stays_bypass (t tdi : Nat) : Stays (.bypass t tdi) := by
  refine .of (fun _ => exec_bypass ..) fun s u h => ?_
  repeat' first
    | exact subset_of_all rfl
    | with_reducible first
      | assumption | apply moves_when | apply State.bypassShift_moves

theorem stays_dbgNonce (t : Nat) : Stays (.dbgNonce t) := by
  refine .of (fun _ => exec_dbgNonce ..) fun s u h => ?_
  repeat' first
    | exact subset_of_all rfl
    | with_reducible first
      | assumption | apply moves_when | apply State.tapIr_moves | apply State.shiftOut_moves

theorem stays_dbgUnlock (t : Nat) (r : UnlockReq) : Stays (.dbgUnlock t r) := by
  refine .of (fun _ => exec_dbgUnlock ..) fun s u h => moves_when h (State.shiftOut_moves _ _ (State.newNonce_moves
    (State.unlockNote_moves _ (State.unlockAnswer_snd (State.tapIr_moves _ h (subset_of_all rfl)) (subset_of_all rfl))
      (subset_of_all rfl)) (subset_of_all rfl)) (subset_of_all rfl))

theorem stays_dbgLock (t : Nat) : Stays (.dbgLock t) := by
  refine .of (fun _ => exec_dbgLock ..) fun s u h => ?_
  repeat' first
    | exact subset_of_all rfl
    | with_reducible first
      | assumption | apply moves_when | apply State.tapIr_moves | apply State.dbgOff_moves | apply State.shiftOut_moves

theorem stays_halt (t mask : Nat) : Stays (.halt t mask) := by
  refine .of (fun _ => exec_halt ..) fun s u h => ?_
  repeat' first
    | exact subset_of_all rfl
    | exact fun _ hx => by simpa using hx
    | with_reducible first
      | assumption | apply State.dbgCmd_moves | apply moves_onDbg | apply State.haltMask_moves
      | apply State.breakPairs_moves | apply State.haltFails_moves | apply moves_ite | intro _

theorem stays_dbgResume (t mask : Nat) : Stays (.dbgResume t mask) := by
  refine .of (fun _ => exec_dbgResume ..) fun s u h => ?_
  repeat' first
    | exact subset_of_all rfl
    | with_reducible first
      | assumption | apply State.dbgCmd_moves | apply State.haltMask_moves | apply State.settleBreak_moves | intro _

theorem stays_step (t core : Nat) : Stays (.step t core) := by
  refine .of (fun _ => exec_step ..) fun s u h => State.dbgCmd_moves _ h (fun v hv => ?_) (subset_of_all rfl)
  refine moves_ite (State.haltMask_moves _ (moves_onDbg hv (subset_of_all rfl) fun x hx => ?_) (subset_of_all rfl)) hv
  simpa using hx

theorem stays_setBp (t slot : Nat) (m : BpMatch) : Stays (.setBp t slot m) := by
  refine .of (fun _ => exec_setBp ..) fun s u h => ?_
  repeat' first
    | exact subset_of_all rfl
    | exact fun _ hx => by simpa using hx
    | with_reducible first
      | assumption | apply State.dbgCmd_moves | apply moves_onDbg | split | intro _

theorem stays_dbgSp (t : Nat) (op : DbgSpOp) : Stays (.dbgSp t op) := by
  refine .of (fun _ => exec_dbgSp ..) fun s u h => ?_
  repeat' first
    | exact subset_of_all rfl
    | exact fun _ hx => hx
    | with_reducible first
      | assumption | apply moves_when | apply State.tapIr_moves | apply moves_onDbg | apply State.haltFails_moves
      | apply State.shiftOut_moves | apply moves_ite | split

/-! ### The start (04) -/

theorem stays_stageS0 (t : Nat) (r : S0Result) : Stays (.stageS0 t r) := by
  refine .of (fun _ => exec_stageS0 ..) fun s u h => ?_
  repeat' first
    | exact subset_of_all rfl
    | exact fun _ hx => hx
    | with_reducible first
      | assumption | apply State.stage_moves | apply State.initTime_moves | apply moves_onSup | apply moves_onSlb
      | apply State.countReason_fst | apply State.toDoldrums_moves | apply State.stageFail_moves
      | apply State.passStage_moves | apply moves_ite | intro _

theorem stays_stageS1 (t : Nat) (r : S1Result) : Stays (.stageS1 t r) := by
  refine .of (fun _ => exec_stageS1 ..) fun s u h => ?_
  repeat' first
    | exact subset_of_all rfl
    | with_reducible first
      | assumption | apply State.stage_moves | apply State.stageFail_moves | apply moves_onStart
      | apply State.passStage_moves | apply moves_ite | intro _

theorem stays_stageS2 (t : Nat) (r : S2Result) : Stays (.stageS2 t r) := by
  refine .of (fun _ => exec_stageS2 ..) fun s u h => ?_
  repeat' first
    | exact subset_of_all rfl
    | with_reducible first
      | assumption | apply State.stage_moves | apply moves_onSup | apply State.reconcile_moves
      | apply State.flushOwed_moves | apply State.passStage_moves | apply State.journalLost_moves | apply moves_onSys
      | apply State.stageFail_moves | apply moves_ite | intro _

theorem stays_stageS3 (t : Nat) (r : S3Result) : Stays (.stageS3 t r) := by
  refine .of (fun _ => exec_stageS3 ..) fun s u h => ?_
  repeat' first
    | exact subset_of_all rfl
    | exact fun _ _ => rfl
    | with_reducible first
      | assumption | apply State.stage_moves | apply State.stageFail_moves | apply moves_onStart
      | apply State.evOpen_moves | apply moves_onVane | apply moves_onCvu | apply State.passStage_moves | split | intro _

theorem stays_stageS4 (t : Nat) (r : S4Result) : Stays (.stageS4 t r) := by
  refine .of (fun _ => exec_stageS4 ..) fun s u h => ?_
  repeat' first
    | exact subset_of_all rfl
    | with_reducible first
      | assumption | apply State.stage_moves | apply State.stageFail_moves | apply moves_onStart | apply moves_each
      | apply State.fence_moves | apply State.zeroLocal_moves | apply State.onCore_moves | apply State.passStage_moves
      | split | intro _ | dsimp only

theorem stays_stageS5 (t : Nat) (r : S5Result) : Stays (.stageS5 t r) := by
  refine .of (fun _ => exec_stageS5 ..) fun s u h => ?_
  repeat' first
    | exact subset_of_all rfl
    | with_reducible first
      | assumption | apply State.stage_moves | apply State.stageFail_moves | apply State.sweep_moves
      | apply State.passStage_moves | apply moves_ite | intro _

theorem stays_stageS6 (t : Nat) (r : S6Result) : Stays (.stageS6 t r) := by
  refine .of (fun _ => exec_stageS6 ..) fun s u h => ?_
  repeat' first
    | exact subset_of_all rfl
    | exact fun _ hx => hx
    | with_reducible first
      | assumption | apply State.stage_moves | apply State.stageFail_moves | apply State.recoverEntry_moves
      | apply State.roleLost_moves | apply moves_onCfg | apply State.loadIds_moves | apply State.loadImage_moves
      | apply State.defaultPlan_moves | apply State.loadUnbound_moves | apply State.passStage_moves | apply moves_ite
      | intro _

theorem stays_stageS7 (t : Nat) (r : S7Result) : Stays (.stageS7 t r) := by
  refine .of (fun _ => exec_stageS7 ..) fun s u h => State.stage_moves _ _ h (fun v hv => ?_) (subset_of_all rfl)
  have hfail : ∀ (c : Nat) (x : State), Moves (writes (.stageS7 t r)) s x → Moves (writes (.stageS7 t r)) s (x.stageFail c) :=
    fun c x hx => State.stageFail_moves c hx (subset_of_all rfl)
  refine moves_ite (hfail _ _ hv) (moves_ite hv ?_)
  split
  · exact hfail _ _ hv
  · next x hparams =>
    have hx := moves_onSlb (g := fun b => { b with paramCrc := x.params.crc }) (State.slbParams_moves hparams hv (subset_of_all rfl))
      (subset_of_all rfl) fun _ hb => hb
    have hlink : ∀ n, Moves (writes (.stageS7 t r)) s ((State.evOpen 0x00 "REQUIRED_LINK" n 0x13 _).stageFail 0x13) :=
      fun n => hfail _ _ (State.evOpen_moves _ _ _ _ hx (subset_of_all rfl))
    dsimp only
    split
    · exact hlink _
    · exact moves_ite (hfail _ _ hx) (moves_ite (hlink _) (State.endS7_moves hx (subset_of_all rfl)))

theorem stays_stageS8 (t : Nat) (queuesOk : Bool) : Stays (.stageS8 t queuesOk) := by
  refine .of (fun _ => exec_stageS8 ..) fun s u h => ?_
  repeat' first
    | exact subset_of_all rfl
    | with_reducible first
      | assumption | apply State.stage_moves | apply State.stageFail_moves | apply State.enterS8_moves
      | apply State.unlockHeld_moves | split | intro _

theorem stays_stageTimeLimit (t : Nat) : Stays (.stageTimeLimit t) := by
  refine .of (fun _ => exec_stageTimeLimit ..) fun s u h => ?_
  repeat' first | exact subset_of_all rfl | with_reducible first | assumption | apply moves_when | apply State.stageFail_moves

theorem stays_startWatchdog (t : Nat) : Stays (.startWatchdog t) := by
  refine .of (fun _ => exec_startWatchdog ..) fun s u h => ?_
  repeat' first | exact subset_of_all rfl | with_reducible first | assumption | apply moves_when | apply State.stageFail_moves

theorem stays_stageFailHoldExpiry (t : Nat) : Stays (.stageFailHoldExpiry t) := by
  refine .of (fun _ => exec_stageFailHoldExpiry ..) fun s u h => ?_
  repeat' first | exact subset_of_all rfl | with_reducible first | assumption | apply moves_when | apply State.afterHold_moves

theorem stays_startCounterClear (x : CounterClear) : Stays (.startCounterClear x) := by
  refine .of (fun _ => exec_startCounterClear ..) fun s u h => ?_
  repeat' first
    | exact subset_of_all rfl
    | exact fun _ hx => hx
    | with_reducible first
      | assumption | apply moves_onNvm | apply moves_onSlb | apply moves_onStart | apply moves_ite

/-! ### Results and verdicts (12) -/

theorem stays_submissionConsume (t q : Nat) (desc : Bytes) : Stays (.submissionConsume t q desc) := by
  refine .of (fun _ => exec_submissionConsume ..) fun s u h => ?_
  repeat' first
    | exact subset_of_all rfl
    | with_reducible first
      | assumption | apply State.queueError_moves | apply State.takeSub_moves | apply State.draw_snd
      | apply State.cqPost_moves | apply State.takeDoldrums_moves | apply State.accept330_moves
      | apply State.settleWork_moves | apply moves_ite | split

theorem stays_witnessLockEffective (t q : Nat) : Stays (.witnessLockEffective t q) := by
  refine .of (fun _ => exec_witnessLockEffective ..) fun s u h => ?_
  repeat' first
    | exact subset_of_all rfl
    | with_reducible first
      | assumption | apply moves_with | apply State.onResult_moves | intro _

theorem stays_resultCommit (t q : Nat) : Stays (.resultCommit t q) := by
  refine .of (fun _ => exec_resultCommit ..) fun s u h => ?_
  repeat' first
    | exact subset_of_all rfl
    | with_reducible first
      | assumption | apply moves_with | apply State.onResult_moves | apply State.startAudit_moves
      | apply State.settleWork_moves | apply moves_ite | intro _

theorem stays_ageDeadlineExpiry (t : Nat) (q seq : Nat) : Stays (.ageDeadlineExpiry t q seq) := by
  refine .of (fun _ => exec_ageDeadlineExpiry ..) fun s u h => ?_
  repeat' first
    | exact subset_of_all rfl
    | with_reducible first
      | assumption | apply State.evalOne_moves | apply State.settleWork_moves | split

theorem stays_verdictPathWatchdog (t : Nat) (q seq : Nat) : Stays (.verdictPathWatchdog t q seq) := by
  refine .of (fun _ => exec_verdictPathWatchdog ..) fun s u h => ?_
  repeat' first
    | exact subset_of_all rfl
    | exact fun _ hx => hx
    | with_reducible first
      | assumption | apply State.issue_moves | apply moves_onTsu | apply State.chFault_moves
      | apply State.settleWork_moves | split

theorem stays_vrdQuery (t q : Nat) (x : VrdAsk) : Stays (.vrdQuery t q x) := by
  refine .of (fun _ => exec_vrdQuery ..) fun s u h => ?_
  repeat' first
    | exact subset_of_all rfl
    | with_reducible first
      | assumption | apply State.onVq_moves | apply State.lostAnswer_moves | apply moves_ite

/-! ### The Crosswind link (15) -/

theorem stays_xwlListenExpiry (t : Nat) : Stays (.xwlListenExpiry t) := by
  refine .of (fun _ => exec_xwlListenExpiry ..) fun s u h => ?_
  repeat' first
    | exact subset_of_all rfl
    | exact fun _ hx => hx
    | with_reducible first
      | assumption | apply moves_onXwl | apply State.xwlSend_moves | apply moves_ite

theorem stays_xwlClaimReceived (t : Nat) (m : XwlRx) : Stays (.xwlClaimReceived t m) := by
  refine .of (fun _ => exec_xwlClaimReceived ..) fun s u h => State.xwlRx_moves _ _ _ h (fun v hv => ?_) (subset_of_all rfl)
  split
  · exact moves_ite (State.xwlCollide_moves hv (subset_of_all rfl)) hv
  · exact State.xwlForward_moves m (moves_onXwl hv (subset_of_all rfl) fun _ hw => hw) (subset_of_all rfl)
  · exact State.xwlForward_moves m (moves_onXwl hv (subset_of_all rfl) fun _ hw => hw) (subset_of_all rfl)
  · exact hv

theorem stays_xwlBackoffExpiry (t : Nat) : Stays (.xwlBackoffExpiry t) := by
  refine .of (fun _ => exec_xwlBackoffExpiry ..) fun s u h => ?_
  repeat' first
    | exact subset_of_all rfl
    | exact fun _ hx => hx
    | with_reducible first
      | assumption | apply moves_onXwl | apply moves_ite

theorem stays_xwlCycleStart (t : Nat) : Stays (.xwlCycleStart t) := by
  refine .of (fun _ => exec_xwlCycleStart ..) fun s u h => ?_
  repeat' first
    | exact subset_of_all rfl
    | exact fun _ hx => hx
    | with_reducible first
      | assumption | apply moves_onXwl | apply State.sendSync_moves | apply State.xwlTick_moves | split

theorem stays_xwlSyncReceived (t : Nat) (m : XwlRx) : Stays (.xwlSyncReceived t m) := by
  refine .of (fun _ => exec_xwlSyncReceived ..) fun s u h => ?_
  repeat' first
    | exact subset_of_all rfl
    | with_reducible first
      | assumption | apply State.xwlRx_moves | apply State.takeSync_moves | intro _

theorem stays_xwlSyncLoss (t : Nat) : Stays (.xwlSyncLoss t) := by
  refine .of (fun _ => exec_xwlSyncLoss ..) fun s u h => ?_
  repeat' first
    | exact subset_of_all rfl
    | exact fun _ hx => hx
    | with_reducible first
      | assumption | apply moves_onXwl | apply State.sendSync_moves | apply moves_ite | split

theorem stays_xwlDelayMeasure (t : Nat) (delay0 delay1 : Nat) : Stays (.xwlDelayMeasure t delay0 delay1) := by
  refine .of (fun _ => exec_xwlDelayMeasure ..) fun s u h => ?_
  repeat' first
    | exact subset_of_all rfl
    | exact fun _ hx => hx
    | with_reducible first
      | assumption | apply moves_onXwl | apply moves_ite

theorem stays_xwlSafetySlot (t : Nat) : Stays (.xwlSafetySlot t) := by
  refine .of (fun _ => exec_xwlSafetySlot ..) fun s u h => ?_
  repeat' first
    | exact subset_of_all rfl
    | exact fun _ hx => hx
    | with_reducible first
      | assumption | apply moves_onXwl | apply State.xwlSend_moves | apply moves_ite

theorem stays_xwlSafetyReceived (t : Nat) (m : XwlRx) : Stays (.xwlSafetyReceived t m) := by
  refine .of (fun _ => exec_xwlSafetyReceived ..) fun s u h => ?_
  repeat' first
    | exact subset_of_all rfl
    | with_reducible first
      | assumption | apply State.xwlRx_moves | apply State.onNode_moves | apply State.ringTrip_moves | intro _

theorem stays_xwlNodeTimeout (t node : Nat) : Stays (.xwlNodeTimeout t node) := by
  refine .of (fun _ => exec_xwlNodeTimeout ..) fun s u h => ?_
  repeat' first
    | exact subset_of_all rfl
    | exact fun _ hx => hx
    | with_reducible first
      | assumption | apply State.onNode_moves | apply moves_onXwl | apply State.evOpen_moves | apply State.ringTrip_moves
      | apply moves_ite

theorem stays_xwlLaneLoss (t lane : Nat) : Stays (.xwlLaneLoss t lane) := by
  refine .of (fun _ => exec_xwlLaneLoss ..) fun s u h => ?_
  repeat' first
    | exact subset_of_all rfl
    | exact fun _ hx => by simpa using hx
    | with_reducible first
      | assumption | apply moves_onXwl | apply State.evOpen_moves | apply moves_ite

theorem stays_xwlBulkUnit (t unit : Nat) : Stays (.xwlBulkUnit t unit) := by
  refine .of (fun _ => exec_xwlBulkUnit ..) fun s u h => ?_
  repeat' first
    | exact subset_of_all rfl
    | exact fun _ hx => hx
    | with_reducible first
      | assumption | apply moves_onXwl | apply State.sendBulk_moves | apply moves_ite

theorem stays_xwlBulkReceived (t : Nat) (m : XwlRx) : Stays (.xwlBulkReceived t m) := by
  refine .of (fun _ => exec_xwlBulkReceived ..) fun s u h => ?_
  repeat' first
    | exact subset_of_all rfl
    | exact fun _ hx => hx
    | with_reducible first
      | assumption | apply State.xwlRx_moves | apply moves_onXwl | apply State.wake_moves | apply State.takeBulk_moves
      | apply moves_ite | intro _

theorem stays_xwlReturnTimeout (t job : Nat) : Stays (.xwlReturnTimeout t job) := by
  refine .of (fun _ => exec_xwlReturnTimeout ..) fun s u h => ?_
  repeat' first
    | exact subset_of_all rfl
    | exact fun _ hx => hx
    | with_reducible first
      | assumption | apply moves_with | apply moves_onXwl | apply State.endHanded_moves | apply State.settleWork_moves
      | split | intro _ | dsimp only

/-! ### Clock monitors and DOLDRUMS (03, 04) -/

theorem stays_clockMonitorWindow (t : Nat) (clk : ClockId) (ok : Bool) : Stays (.clockMonitorWindow t clk ok) := by
  refine .of (fun _ => exec_clockMonitorWindow ..) fun s u h => ?_
  repeat' first
    | exact subset_of_all rfl
    | exact fun _ hx => by simpa using hx
    | with_reducible first
      | assumption | apply moves_onClk | apply State.clockBack_moves | apply State.clockFail_moves | apply moves_ite

theorem stays_clockRecoveryRelease (t : Nat) : Stays (.clockRecoveryRelease t) := by
  refine .of (fun _ => exec_clockRecoveryRelease ..) fun s u h => ?_
  repeat' first
    | exact subset_of_all rfl
    | with_reducible first
      | assumption | apply moves_onSys | apply State.beginStart_moves | apply State.afterHold_moves | apply moves_ite

theorem stays_thermalRelease (t : Nat) : Stays (.thermalRelease t) := by
  refine .of (fun _ => exec_thermalRelease ..) fun s u h => ?_
  repeat' first
    | exact subset_of_all rfl
    | with_reducible first
      | assumption | apply moves_onSup | apply State.beginStart_moves | apply State.resetDie_moves
      | apply State.initTime_moves | apply State.toDoldrums_moves | apply moves_ite | split

theorem stays_doldrumsDiagnosticFrame (t : Nat) : Stays (.doldrumsDiagnosticFrame t) := by
  refine .of (fun _ => exec_doldrumsDiagnosticFrame ..) fun s u h => ?_
  repeat' first
    | exact subset_of_all rfl
    | with_reducible first
      | assumption | apply moves_onStart | apply moves_send | apply moves_ite

/-! ### Fusion (07) -/

theorem stays_egoTick (t : Nat) (e : EgoIn) : Stays (.egoTick t e) := by
  refine .of (fun _ => exec_egoTick ..) fun s u h => ?_
  repeat' first
    | exact subset_of_all rfl
    | with_reducible first
      | assumption | apply State.tickCount_moves | apply moves_each | apply State.discontinuity_moves | apply moves_onFgu
      | apply State.tickRecord_moves | apply State.settleWork_moves | apply moves_ite | intro _

theorem stays_epochOpen (t : Nat) : Stays (.epochOpen t) := by
  refine .of (fun _ => exec_epochOpen ..) fun s u h => ?_
  repeat' first
    | exact subset_of_all rfl
    | with_reducible first
      | assumption | apply moves_onFgu | apply State.tryClose_moves | apply State.settleWork_moves | apply moves_ite

theorem stays_epochWaitExpiry (t : Nat) : Stays (.epochWaitExpiry t) := by
  refine .of (fun _ => exec_epochWaitExpiry ..) fun s u h => ?_
  repeat' first
    | exact subset_of_all rfl
    | with_reducible first
      | assumption | apply State.closeEpoch_moves | apply State.settleWork_moves | apply moves_ite

theorem stays_guardJobStart (t : Nat) : Stays (.guardJobStart t) := by
  refine .of (fun _ => exec_guardJobStart ..) fun s u h => ?_
  dsimp only
  split
  · exact h
  · refine moves_ite (moves_with h fun e => ?_) h
    have hzero := State.zeroMemory_moves (State.commitMemory_moves (w := writes (.guardJobStart t)) h (subset_of_all rfl)) (subset_of_all rfl)
    exact State.settleWork_moves (moves_onFgu (State.issueJob_snd hzero (subset_of_all rfl)) (subset_of_all rfl)) (subset_of_all rfl)

/-! ### Host queues, BAR2 and supervision (16) -/

theorem stays_sqTailDoorbell (t : Nat) (q v : Nat) : Stays (.sqTailDoorbell t q v) := by
  refine .of (fun _ => exec_sqTailDoorbell ..) fun s u h => ?_
  repeat' first
    | exact subset_of_all rfl
    | with_reducible first
      | assumption | apply State.wake_moves | apply State.onQ_moves | apply moves_with | apply State.chFault_moves
      | apply moves_ite | intro _

theorem stays_hqEnableWrite (t q : Nat) (en : Bool) : Stays (.hqEnableWrite t q en) := by
  refine .of (fun _ => exec_hqEnableWrite ..) fun s u h => ?_
  repeat' first
    | exact subset_of_all rfl
    | with_reducible first
      | assumption | apply State.onQ_moves | apply State.cqDrain_moves | apply moves_ite

theorem stays_hqReset (t q : Nat) : Stays (.hqReset t q) := by
  refine .of (fun _ => exec_hqReset ..) fun s u h => ?_
  repeat' first | exact subset_of_all rfl | with_reducible first | assumption | apply moves_when | apply State.onQ_moves

theorem stays_queueResetComplete (t q : Nat) : Stays (.queueResetComplete t q) := by
  refine .of (fun _ => exec_queueResetComplete ..) fun s u h => ?_
  repeat' first | exact subset_of_all rfl | with_reducible first | assumption | apply moves_when | apply State.onQ_moves

theorem stays_hqResume (t q : Nat) : Stays (.hqResume t q) := by
  refine .of (fun _ => exec_hqResume ..) fun s u h => ?_
  repeat' first
    | exact subset_of_all rfl
    | with_reducible first
      | assumption | apply State.wake_moves | apply moves_with | apply State.onQ_moves | apply State.onChan_moves
      | apply moves_ite | intro _

theorem stays_cqHeadWrite (t : Nat) (q v : Nat) : Stays (.cqHeadWrite t q v) := by
  refine .of (fun _ => exec_cqHeadWrite ..) fun s u h => ?_
  repeat' first
    | exact subset_of_all rfl
    | with_reducible first
      | assumption | apply State.onQ_moves | apply State.cqDrain_moves | apply moves_ite

theorem stays_hqIrqWrite (t : Nat) (q v : Nat) : Stays (.hqIrqWrite t q v) := by
  refine .of (fun _ => exec_hqIrqWrite ..) fun s u h => ?_
  repeat' first
    | exact subset_of_all rfl
    | with_reducible first
      | assumption | apply State.onQ_moves | apply State.msi_moves | apply State.msiDue_moves | apply moves_ite

theorem stays_irqTimeExpiry (t q : Nat) : Stays (.irqTimeExpiry t q) := by
  refine .of (fun _ => exec_irqTimeExpiry ..) fun s u h => ?_
  repeat' first | exact subset_of_all rfl | with_reducible first | assumption | apply moves_when | apply State.msiDue_moves

theorem stays_deliveryTailWrite (t : Nat) (n v : Nat) : Stays (.deliveryTailWrite t n v) := by
  refine .of (fun _ => exec_deliveryTailWrite ..) fun s u h => ?_
  repeat' first | exact subset_of_all rfl | with_reducible first | assumption | apply moves_when | apply State.onRing_moves

theorem stays_pcieFunctionLevelReset (t : Nat) : Stays (.pcieFunctionLevelReset t) := by
  refine .of (fun _ => exec_pcieFunctionLevelReset ..) fun s u h => ?_
  repeat' first
    | exact subset_of_all rfl
    | exact fun _ hx => by simpa using hx
    | with_reducible first
      | assumption | apply moves_when | apply moves_onHq

theorem stays_bar2Access (t : Nat) (r : Bar2Req) : Stays (.bar2Access t r) := by
  refine .of (fun _ => exec_bar2Access ..) fun s u h => moves_ite h ?_
  have hunsup : ∀ x : State, Moves (writes (.bar2Access t r)) s x →
      Moves (writes (.bar2Access t r)) s (match r.write with | none => x.bar2Read 1 [] | some _ => x.send (.pcieWrite 1)) := by
    intro x hx
    split
    · exact State.bar2Read_moves _ _ hx (subset_of_all rfl)
    · exact moves_send hx
  refine moves_ite (hunsup u h) ?_
  split
  · exact hunsup _ (moves_onFwl h (subset_of_all rfl))
  · next c _ =>
    have hcheck := fun w a n => State.check_snd (ident := c) (write := w) (a := a) (n := n) h (subset_of_all rfl)
    exact moves_ite (State.bar2Refuse_moves _ (State.refuse_moves _ _ _ _ h (subset_of_all rfl)) (subset_of_all rfl))
      (moves_ite (State.bar2Reach_moves _ _ _ _ (hcheck ..) (subset_of_all rfl)) (State.bar2Refuse_moves _ (hcheck ..) (subset_of_all rfl)))

theorem stays_hqCheckpoint (t v : Nat) : Stays (.hqCheckpoint t v) := by
  refine .of (fun _ => exec_hqCheckpoint ..) fun s u h => ?_
  repeat' first
    | exact subset_of_all rfl
    | with_reducible first
      | assumption | apply moves_with | apply State.cpChecks_moves | apply State.cpTimer_moves | apply moves_ite | intro _

theorem stays_tsuAliveWindowEnd (t c : Nat) : Stays (.tsuAliveWindowEnd t c) := by
  refine .of (fun _ => exec_tsuAliveWindowEnd ..) fun s u h => ?_
  repeat' first
    | exact subset_of_all rfl
    | with_reducible first
      | assumption | apply moves_with | apply State.chFault_moves | apply State.onChan_moves | apply moves_ite | intro _

theorem stays_tsuDeadlineExpiry (t c : Nat) : Stays (.tsuDeadlineExpiry t c) := by
  refine .of (fun _ => exec_tsuDeadlineExpiry ..) fun s u h => ?_
  repeat' first
    | exact subset_of_all rfl
    | with_reducible first
      | assumption | apply moves_with | apply State.onChan_moves | apply State.chFault_moves | apply moves_ite | intro _

theorem stays_tsuBudgetExceeded (t c : Nat) : Stays (.tsuBudgetExceeded t c) := by
  refine .of (fun _ => exec_tsuBudgetExceeded ..) fun s u h => ?_
  repeat' first
    | exact subset_of_all rfl
    | with_reducible first
      | assumption | apply moves_with | apply State.onChan_moves | apply State.chFault_moves | apply moves_ite | intro _

theorem stays_tsuBudgetPeriodEnd (t c : Nat) : Stays (.tsuBudgetPeriodEnd t c) := by
  refine .of (fun _ => exec_tsuBudgetPeriodEnd ..) fun s u h => ?_
  repeat' first
    | exact subset_of_all rfl
    | with_reducible first
      | assumption | apply moves_with | apply State.onChan_moves | apply moves_ite | intro _

/-! ### Power states and background deadlines (17) -/

theorem stays_psmEntryComplete (t : Nat) : Stays (.psmEntryComplete t) := by
  refine .of (fun _ => exec_psmEntryComplete ..) fun s u h => ?_
  repeat' first
    | exact subset_of_all rfl
    | with_reducible first
      | assumption | apply moves_when | apply State.enterPower_moves | split

theorem stays_psmPlannedWake (t : Nat) : Stays (.psmPlannedWake t) := by
  refine .of (fun _ => exec_psmPlannedWake ..) fun s u h => ?_
  repeat' first
    | exact subset_of_all rfl
    | with_reducible first
      | assumption | apply moves_when | apply State.planWake_moves | apply State.psmChoose_moves | split

theorem stays_psmWakeComplete (t silentCores : Nat) : Stays (.psmWakeComplete t silentCores) := by
  refine .of (fun _ => exec_psmWakeComplete ..) fun s u h => ?_
  repeat' first
    | exact subset_of_all rfl
    | with_reducible first
      | assumption | apply State.latency_moves | apply State.exitDeep_moves | apply moves_each | apply State.fence_moves
      | apply State.settleWork_moves | split | intro _

theorem stays_psmWakeFault (t : Nat) : Stays (.psmWakeFault t) := by
  refine .of (fun _ => exec_psmWakeFault ..) fun s u h => ?_
  repeat' first
    | exact subset_of_all rfl
    | exact fun _ hx => hx
    | with_reducible first
      | assumption | apply State.exitDeep_moves | apply moves_onPsm | apply State.evOpen_moves
      | apply State.settleWork_moves | split

theorem stays_breezeCoreGate (t core : Nat) : Stays (.breezeCoreGate t core) := by
  refine .of (fun _ => exec_breezeCoreGate ..) fun s u h => ?_
  repeat' first | exact subset_of_all rfl | with_reducible first | assumption | apply State.onCore_moves | apply moves_ite

theorem stays_bgUrgent (t a : Nat) : Stays (.bgUrgent t a) := by
  refine .of (fun _ => exec_bgUrgent ..) fun s u h => ?_
  repeat' first
    | exact subset_of_all rfl
    | with_reducible first
      | assumption | apply State.onTests_moves | apply State.syncTests_moves | apply State.onBg_moves | apply moves_when
      | apply State.planWake_moves | split | dsimp only

theorem stays_bgDeadlineMiss (t a : Nat) : Stays (.bgDeadlineMiss t a) := by
  refine .of (fun _ => exec_bgDeadlineMiss ..) fun s u h => ?_
  repeat' first
    | exact subset_of_all rfl
    | with_reducible first
      | assumption | apply State.onTests_moves | apply State.syncTests_moves | apply State.onBg_moves
      | apply State.bgMissed_moves | apply moves_ite

/-! ### Registers and memory behind the TAP (00, 05, 18) -/

theorem stays_registerWrite (t : Nat) (w : Writer) (wide : Bool) (addr v : Nat) : Stays (.registerWrite t w wide addr v) := by
  refine .of (fun _ => exec_registerWrite ..) fun s u h => ?_
  repeat' first | exact subset_of_all rfl | with_reducible first | assumption | apply State.putReg_moves | apply moves_ite

theorem stays_read (t : Nat) (q : CfgReq) (addrs : List Nat) : Stays (.read t q addrs) := by
  refine .of (fun _ => exec_read ..) fun s u h => State.serve_moves _ _ _ h (fun v hv => ?_) (subset_of_all rfl)
  dsimp only
  split
  · exact hv
  · split
    · exact hv
    · exact State.readRegs_snd hv (subset_of_all rfl)

theorem stays_readCore (t core : Nat) : Stays (.readCore t core) := by
  refine .of (fun _ => exec_readCore ..) fun s u h => ?_
  repeat' first
    | exact subset_of_all rfl
    | with_reducible first
      | assumption | apply moves_when | apply State.tapIr_moves | apply State.shiftOut_moves | apply moves_ite

theorem stays_dbgMem (t : Nat) (r : DbgMemReq) : Stays (.dbgMem t r) := by
  refine .of (fun _ => exec_dbgMem ..) fun s u h => moves_when h ?_
  have htap := State.tapIr_moves 0x14 h (subset_of_all rfl)
  have hcheck := State.check_snd (ident := idDebug) (write := r.write.isSome) (a := r.addr) (n := r.bytes) htap (subset_of_all rfl)
  exact moves_ite (State.shiftOut_moves _ _ htap (subset_of_all rfl)) (moves_ite (State.dbgRefuse_moves _ _ htap (subset_of_all rfl))
    (moves_ite (State.dbgReach_moves _ _ _ hcheck (subset_of_all rfl)) (State.shiftOut_moves _ _ hcheck (subset_of_all rfl))))

/-! ### All commands -/

/-- Every command stays within its parts: one lemma per command. -/
theorem stays (c : Instr) (s : State) : ∃ u, exec c s = .next (settle u) ∧ Moves (writes c) (s.at (timeOf c)) u :=
  match c with
  | .powerGood .. => stays_powerGood ..
  | .powerFailWarning .. => stays_powerFailWarning ..
  | .holdupEnd .. => stays_holdupEnd ..
  | .stageS0 .. => stays_stageS0 ..
  | .stageS1 .. => stays_stageS1 ..
  | .stageS2 .. => stays_stageS2 ..
  | .stageS3 .. => stays_stageS3 ..
  | .stageS4 .. => stays_stageS4 ..
  | .stageS5 .. => stays_stageS5 ..
  | .stageS6 .. => stays_stageS6 ..
  | .stageS7 .. => stays_stageS7 ..
  | .stageS8 .. => stays_stageS8 ..
  | .stageTimeLimit .. => stays_stageTimeLimit ..
  | .startWatchdog .. => stays_startWatchdog ..
  | .stageFailHoldExpiry .. => stays_stageFailHoldExpiry ..
  | .startCounterClear .. => stays_startCounterClear ..
  | .doldrumsDiagnosticFrame .. => stays_doldrumsDiagnosticFrame ..
  | .spCycle .. => stays_spCycle ..
  | .degradedTimerExpiry .. => stays_degradedTimerExpiry ..
  | .tqenSs1Overdue .. => stays_tqenSs1Overdue ..
  | .restartArmingLapse .. => stays_restartArmingLapse ..
  | .sealSwitchChange .. => stays_sealSwitchChange ..
  | .sealContactDisagree .. => stays_sealContactDisagree ..
  | .tamperLoopOpen .. => stays_tamperLoopOpen ..
  | .dbgPresChange .. => stays_dbgPresChange ..
  | .ioSupplyOutOfWindow .. => stays_ioSupplyOutOfWindow ..
  | .ioSupplyRecovered .. => stays_ioSupplyRecovered ..
  | .dieTempWarning .. => stays_dieTempWarning ..
  | .thermalTrip .. => stays_thermalTrip ..
  | .thermalRelease .. => stays_thermalRelease ..
  | .clockMonitorWindow .. => stays_clockMonitorWindow ..
  | .clockRecoveryRelease .. => stays_clockRecoveryRelease ..
  | .ptpSyncReceived .. => stays_ptpSyncReceived ..
  | .ptpGrandmasterLost .. => stays_ptpGrandmasterLost ..
  | .ptpHoldoverExpiry .. => stays_ptpHoldoverExpiry ..
  | .ptpPortDisagree .. => stays_ptpPortDisagree ..
  | .triggerEdge .. => stays_triggerEdge ..
  | .trigStartWrite .. => stays_trigStartWrite ..
  | .trigPeriodWrite .. => stays_trigPeriodWrite ..
  | .trigWidthWrite .. => stays_trigWidthWrite ..
  | .trigCtrlWrite .. => stays_trigCtrlWrite ..
  | .rtcTenthTick .. => stays_rtcTenthTick ..
  | .read .. => stays_read ..
  | .exportObject .. => stays_exportObject ..
  | .uploadBegin .. => stays_uploadBegin ..
  | .uploadData .. => stays_uploadData ..
  | .uploadEnd .. => stays_uploadEnd ..
  | .uploadSessionLapse .. => stays_uploadSessionLapse ..
  | .activate .. => stays_activate ..
  | .restart .. => stays_restart ..
  | .enrol .. => stays_enrol ..
  | .setPassword .. => stays_setPassword ..
  | .setRtc .. => stays_setRtc ..
  | .setUtcOfs .. => stays_setUtcOfs ..
  | .clearChangeLog .. => stays_clearChangeLog ..
  | .clearDoldrums .. => stays_clearDoldrums ..
  | .fieldReset .. => stays_fieldReset ..
  | .lockoutEnd .. => stays_lockoutEnd ..
  | .hashReverify .. => stays_hashReverify ..
  | .frameStart .. => stays_frameStart ..
  | .frameEnd .. => stays_frameEnd ..
  | .checkFinalStatus .. => stays_checkFinalStatus ..
  | .streamStallExpiry .. => stays_streamStallExpiry ..
  | .frameDeliveryComplete .. => stays_frameDeliveryComplete ..
  | .egoTick .. => stays_egoTick ..
  | .epochOpen .. => stays_epochOpen ..
  | .epochWaitExpiry .. => stays_epochWaitExpiry ..
  | .guardJobStart .. => stays_guardJobStart ..
  | .descriptorDispatch .. => stays_descriptorDispatch ..
  | .descriptorComplete .. => stays_descriptorComplete ..
  | .descriptorHang .. => stays_descriptorHang ..
  | .coreBistComplete .. => stays_coreBistComplete ..
  | .rollingSelftestSegment .. => stays_rollingSelftestSegment ..
  | .vaneSelftestComplete .. => stays_vaneSelftestComplete ..
  | .safeStateJobIssue .. => stays_safeStateJobIssue ..
  | .safeStateDeadline .. => stays_safeStateDeadline ..
  | .beuCmdSubmit .. => stays_beuCmdSubmit ..
  | .beuCmdStart .. => stays_beuCmdStart ..
  | .beuCmdComplete .. => stays_beuCmdComplete ..
  | .beuFenceComplete .. => stays_beuFenceComplete ..
  | .beuSwitchGo .. => stays_beuSwitchGo ..
  | .beuSwitchDrainComplete .. => stays_beuSwitchDrainComplete ..
  | .beuSwitchFenceComplete .. => stays_beuSwitchFenceComplete ..
  | .beuSwitchComplete .. => stays_beuSwitchComplete ..
  | .scrubStep .. => stays_scrubStep ..
  | .stackTempChange .. => stays_stackTempChange ..
  | .stackCoolExpiry .. => stays_stackCoolExpiry ..
  | .sqTailDoorbell .. => stays_sqTailDoorbell ..
  | .submissionConsume .. => stays_submissionConsume ..
  | .witnessLockEffective .. => stays_witnessLockEffective ..
  | .resultCommit .. => stays_resultCommit ..
  | .ageDeadlineExpiry .. => stays_ageDeadlineExpiry ..
  | .verdictPathWatchdog .. => stays_verdictPathWatchdog ..
  | .vrdQuery .. => stays_vrdQuery ..
  | .slbCycle .. => stays_slbCycle ..
  | .inputFilterSettle .. => stays_inputFilterSettle ..
  | .blankingEnd .. => stays_blankingEnd ..
  | .discrepancyExpiry .. => stays_discrepancyExpiry ..
  | .testPulse .. => stays_testPulse ..
  | .outputOfftest .. => stays_outputOfftest ..
  | .ss1MaxExpiry .. => stays_ss1MaxExpiry ..
  | .standstillHeld .. => stays_standstillHeld ..
  | .brakeReleaseDelayExpiry .. => stays_brakeReleaseDelayExpiry ..
  | .brakePullinExpiry .. => stays_brakePullinExpiry ..
  | .chainPulseExpiry .. => stays_chainPulseExpiry ..
  | .encoderFault .. => stays_encoderFault ..
  | .slbDegTimerExpiry .. => stays_slbDegTimerExpiry ..
  | .slbLinkFrame .. => stays_slbLinkFrame ..
  | .spstopNChange .. => stays_spstopNChange ..
  | .requestDisagreeExpiry .. => stays_requestDisagreeExpiry ..
  | .heartbeatTimeout .. => stays_heartbeatTimeout ..
  | .slbOscillatorFault .. => stays_slbOscillatorFault ..
  | .slbParamCheck .. => stays_slbParamCheck ..
  | .jointsMessage .. => stays_jointsMessage ..
  | .stopRequest .. => stays_stopRequest ..
  | .resetRequest .. => stays_resetRequest ..
  | .aliveMessage .. => stays_aliveMessage ..
  | .pathAnnounce .. => stays_pathAnnounce ..
  | .skewWindowEnd .. => stays_skewWindowEnd ..
  | .smlWatchdogExpiry .. => stays_smlWatchdogExpiry ..
  | .smlOpeningExpiry .. => stays_smlOpeningExpiry ..
  | .singlePathTimerExpiry .. => stays_singlePathTimerExpiry ..
  | .statusSend .. => stays_statusSend ..
  | .pathAnnounceSend .. => stays_pathAnnounceSend ..
  | .ethLinkChange .. => stays_ethLinkChange ..
  | .cvuComputeComplete .. => stays_cvuComputeComplete ..
  | .xwlListenExpiry .. => stays_xwlListenExpiry ..
  | .xwlClaimReceived .. => stays_xwlClaimReceived ..
  | .xwlBackoffExpiry .. => stays_xwlBackoffExpiry ..
  | .xwlCycleStart .. => stays_xwlCycleStart ..
  | .xwlSyncReceived .. => stays_xwlSyncReceived ..
  | .xwlSafetySlot .. => stays_xwlSafetySlot ..
  | .xwlSafetyReceived .. => stays_xwlSafetyReceived ..
  | .xwlNodeTimeout .. => stays_xwlNodeTimeout ..
  | .xwlSyncLoss .. => stays_xwlSyncLoss ..
  | .xwlDelayMeasure .. => stays_xwlDelayMeasure ..
  | .xwlBulkReceived .. => stays_xwlBulkReceived ..
  | .xwlReturnTimeout .. => stays_xwlReturnTimeout ..
  | .hqEnableWrite .. => stays_hqEnableWrite ..
  | .hqReset .. => stays_hqReset ..
  | .queueResetComplete .. => stays_queueResetComplete ..
  | .hqResume .. => stays_hqResume ..
  | .cqHeadWrite .. => stays_cqHeadWrite ..
  | .hqIrqWrite .. => stays_hqIrqWrite ..
  | .irqTimeExpiry .. => stays_irqTimeExpiry ..
  | .deliveryTailWrite .. => stays_deliveryTailWrite ..
  | .hqCheckpoint .. => stays_hqCheckpoint ..
  | .pcieFunctionLevelReset .. => stays_pcieFunctionLevelReset ..
  | .bar2Access .. => stays_bar2Access ..
  | .tsuAliveWindowEnd .. => stays_tsuAliveWindowEnd ..
  | .tsuDeadlineExpiry .. => stays_tsuDeadlineExpiry ..
  | .tsuBudgetExceeded .. => stays_tsuBudgetExceeded ..
  | .psmPlannedWake .. => stays_psmPlannedWake ..
  | .psmWakeComplete .. => stays_psmWakeComplete ..
  | .psmWakeFault .. => stays_psmWakeFault ..
  | .bgUrgent .. => stays_bgUrgent ..
  | .bgDeadlineMiss .. => stays_bgDeadlineMiss ..
  | .adcCalibration .. => stays_adcCalibration ..
  | .telemetrySwap .. => stays_telemetrySwap ..
  | .monLevelSample .. => stays_monLevelSample ..
  | .monSnapshot .. => stays_monSnapshot ..
  | .monSnapshotClear .. => stays_monSnapshotClear ..
  | .logSelWrite .. => stays_logSelWrite ..
  | .frSelWrite .. => stays_frSelWrite ..
  | .logRepeatSecondEnd .. => stays_logRepeatSecondEnd ..
  | .idcode .. => stays_idcode ..
  | .samplePreload .. => stays_samplePreload ..
  | .extest .. => stays_extest ..
  | .bypass .. => stays_bypass ..
  | .dbgNonce .. => stays_dbgNonce ..
  | .dbgUnlock .. => stays_dbgUnlock ..
  | .dbgLock .. => stays_dbgLock ..
  | .halt .. => stays_halt ..
  | .dbgResume .. => stays_dbgResume ..
  | .step .. => stays_step ..
  | .setBp .. => stays_setBp ..
  | .readCore .. => stays_readCore ..
  | .dbgMem .. => stays_dbgMem ..
  | .dbgSp .. => stays_dbgSp ..
  | .registerWrite .. => stays_registerWrite ..
  | .stackTrainingLoss .. => stays_stackTrainingLoss ..
  | .safeMessageRefused .. => stays_safeMessageRefused ..
  | .bestMasterClockSelection .. => stays_bestMasterClockSelection ..
  | .xwlLaneLoss .. => stays_xwlLaneLoss ..
  | .tsuBudgetPeriodEnd .. => stays_tsuBudgetPeriodEnd ..
  | .psmEntryComplete .. => stays_psmEntryComplete ..
  | .breezeCoreGate .. => stays_breezeCoreGate ..
  | .connectionPause .. => stays_connectionPause ..
  | .xwlBulkUnit .. => stays_xwlBulkUnit ..
  | .triggerPulseEnd .. => stays_triggerPulseEnd ..
  | .overcurrentCutOff .. => stays_overcurrentCutOff ..
  | .tamperCoverFitted .. => stays_tamperCoverFitted ..
  | .backupExhausted .. => stays_backupExhausted ..

/-- Settles O3: one lemma per command. -/
theorem everyCommandStaysWithinItsParts : Obligations.EveryCommandStaysWithinItsParts := stays

/-! ## The invariants of a step -/

/-- A property that time, a command's moves, the wired outputs and the queue leave alone is kept by every step. -/
theorem step_keeps {P : State → Prop} (hat : ∀ t s, P s → P (s.at t)) (hmoves : ∀ w s u, Moves w s u → P s → P u)
    (hsettle : ∀ s, P s → P (settle s)) (hpending : ∀ s r, P s → P { s with pending := r }) {s s' : State} (hs : P s)
    (hstep : step s = .next s') : P s' := by
  cases hq : s.pending with
  | nil =>
    rw [emptyQueueIdles s hq] at hstep
    cases hstep
    exact hs
  | cons c r =>
    obtain ⟨u, hexec, hu⟩ := stays c { s with pending := r }
    rw [stepRunsTheFrontCommand c r s hq, hexec] at hstep
    cases hstep
    exact hsettle u (hmoves _ _ _ hu (hat _ _ (hpending s r hs)))

theorem at_memoryOk (t : Nat) (s : State) (h : s.memoryOk) : (s.at t).memoryOk := by
  unfold State.memoryOk
  rwa [at_mem, at_poison]

theorem settle_shaped (s : State) (h : s.shaped) : (settle s).shaped := { h with }

/-- Settles O5: memory is a part of the state that time and the wired outputs leave, and that every move keeps in form. -/
theorem memoryKeepsItsCanonicalForm : Obligations.MemoryKeepsItsCanonicalForm := by
  unfold Obligations.MemoryKeepsItsCanonicalForm
  exact fun s s' => step_keeps at_memoryOk (fun _ _ _ h => h.memory) (fun _ h => h) fun _ _ h => h

/-- Settles O6: no list of fixed length is replaced by time, by the wired outputs or by a move. -/
theorem registerFilesKeepTheirLength : Obligations.RegisterFilesKeepTheirLength := by
  unfold Obligations.RegisterFilesKeepTheirLength
  exact fun s s' => step_keeps (fun t _ h => at_shaped t h) (fun _ _ _ h => h.shaped) settle_shaped fun _ _ h => { h with }

end Sys2Proof.Machine
end

section
/-! SUPPORT. Every command completes (O58 to O60): the completion lemmas of the Runs files, command by command. -/

namespace Sys2Proof.Machine

/-- Settles O58: the completion lemma of each command of power, start, clocks and configuration. -/
theorem powerStartClocksAndConfigurationComplete : Obligations.PowerStartClocksAndConfigurationComplete := by
  unfold Obligations.PowerStartClocksAndConfigurationComplete
  exact ⟨runs_powerGood, runs_powerFailWarning, runs_holdupEnd, runs_stageS0, runs_stageS1, runs_stageS2, runs_stageS3,
    runs_stageS4, runs_stageS5, runs_stageS6, runs_stageS7, runs_stageS8, runs_stageTimeLimit, runs_startWatchdog,
    runs_stageFailHoldExpiry, runs_startCounterClear, runs_doldrumsDiagnosticFrame, runs_spCycle,
    runs_degradedTimerExpiry, runs_tqenSs1Overdue, runs_restartArmingLapse, runs_sealSwitchChange,
    runs_sealContactDisagree, runs_tamperLoopOpen, runs_dbgPresChange, runs_ioSupplyOutOfWindow,
    runs_ioSupplyRecovered, runs_dieTempWarning, runs_thermalTrip, runs_thermalRelease, runs_clockMonitorWindow,
    runs_clockRecoveryRelease, runs_ptpSyncReceived, runs_bestMasterClockSelection, runs_ptpGrandmasterLost,
    runs_ptpHoldoverExpiry, runs_ptpPortDisagree, runs_triggerEdge, runs_trigStartWrite, runs_trigPeriodWrite,
    runs_trigWidthWrite, runs_trigCtrlWrite, runs_rtcTenthTick, runs_exportObject, runs_uploadBegin, runs_uploadData,
    runs_uploadEnd, runs_uploadSessionLapse, runs_setPassword, runs_activate, runs_restart, runs_enrol, runs_setRtc,
    runs_setUtcOfs, runs_clearChangeLog, runs_clearDoldrums, runs_fieldReset, runs_lockoutEnd, runs_hashReverify,
    runs_read⟩

/-- Settles O59: the completion lemma of each command of intake, compute, verdicts and the SLB. -/
theorem intakeComputeVerdictAndSlbCommandsComplete : Obligations.IntakeComputeVerdictAndSlbCommandsComplete := by
  unfold Obligations.IntakeComputeVerdictAndSlbCommandsComplete
  exact ⟨runs_triggerPulseEnd, runs_tamperCoverFitted, runs_backupExhausted, runs_frameStart, runs_frameEnd,
    runs_checkFinalStatus, runs_streamStallExpiry, runs_frameDeliveryComplete, runs_egoTick, runs_epochOpen,
    runs_epochWaitExpiry, runs_guardJobStart, runs_descriptorDispatch, runs_descriptorComplete, runs_descriptorHang,
    runs_coreBistComplete, runs_rollingSelftestSegment, runs_vaneSelftestComplete, runs_safeStateJobIssue,
    runs_safeStateDeadline, runs_beuCmdSubmit, runs_beuCmdStart, runs_beuCmdComplete, runs_beuFenceComplete,
    runs_beuSwitchGo, runs_beuSwitchDrainComplete, runs_beuSwitchFenceComplete, runs_beuSwitchComplete,
    runs_scrubStep, runs_stackTempChange, runs_stackCoolExpiry, runs_stackTrainingLoss, runs_sqTailDoorbell,
    runs_submissionConsume, runs_witnessLockEffective, runs_resultCommit, runs_ageDeadlineExpiry,
    runs_verdictPathWatchdog, runs_vrdQuery, runs_slbCycle, runs_inputFilterSettle, runs_blankingEnd,
    runs_discrepancyExpiry, runs_testPulse, runs_outputOfftest, runs_ss1MaxExpiry, runs_standstillHeld,
    runs_brakeReleaseDelayExpiry, runs_brakePullinExpiry, runs_chainPulseExpiry, runs_encoderFault,
    runs_slbDegTimerExpiry, runs_slbLinkFrame, runs_spstopNChange, runs_requestDisagreeExpiry, runs_heartbeatTimeout,
    runs_slbOscillatorFault, runs_slbParamCheck⟩

/-- Settles O60: the completion lemma of each command of messages, the ring, the host, power states, monitors and debug. -/
theorem messageRingHostAndDebugCommandsComplete : Obligations.MessageRingHostAndDebugCommandsComplete := by
  unfold Obligations.MessageRingHostAndDebugCommandsComplete
  exact ⟨runs_jointsMessage, runs_stopRequest, runs_resetRequest, runs_aliveMessage, runs_pathAnnounce, runs_skewWindowEnd,
    runs_smlWatchdogExpiry, runs_smlOpeningExpiry, runs_singlePathTimerExpiry, runs_statusSend, runs_pathAnnounceSend,
    runs_ethLinkChange, runs_cvuComputeComplete, runs_safeMessageRefused, runs_connectionPause, runs_xwlListenExpiry,
    runs_xwlClaimReceived, runs_xwlBackoffExpiry, runs_xwlCycleStart, runs_xwlSyncReceived, runs_xwlSafetySlot,
    runs_xwlSafetyReceived, runs_xwlNodeTimeout, runs_xwlSyncLoss, runs_xwlDelayMeasure, runs_xwlBulkReceived,
    runs_xwlReturnTimeout, runs_xwlLaneLoss, runs_xwlBulkUnit, runs_hqEnableWrite, runs_hqReset,
    runs_queueResetComplete, runs_hqResume, runs_cqHeadWrite, runs_hqIrqWrite, runs_irqTimeExpiry,
    runs_deliveryTailWrite, runs_hqCheckpoint, runs_pcieFunctionLevelReset, runs_bar2Access, runs_tsuAliveWindowEnd,
    runs_tsuDeadlineExpiry, runs_tsuBudgetExceeded, runs_tsuBudgetPeriodEnd, runs_psmPlannedWake,
    runs_psmWakeComplete, runs_psmWakeFault, runs_psmEntryComplete, runs_breezeCoreGate, runs_bgUrgent,
    runs_bgDeadlineMiss, runs_overcurrentCutOff, runs_adcCalibration, runs_telemetrySwap, runs_monLevelSample,
    runs_monSnapshot, runs_monSnapshotClear, runs_logSelWrite, runs_frSelWrite, runs_logRepeatSecondEnd, runs_idcode,
    runs_samplePreload, runs_extest, runs_bypass, runs_dbgNonce, runs_dbgUnlock, runs_dbgLock, runs_halt,
    runs_dbgResume, runs_step, runs_setBp, runs_readCore, runs_dbgMem, runs_dbgSp, runs_registerWrite⟩

end Sys2Proof.Machine
end

section
/-! SUPPORT. Supervised channels (16 R461, R463, R464): what a fault, a checkpoint and the end of a window, a deadline or a budget leave of a
channel. -/

namespace Sys2Proof.Machine

/-! ## Channels -/

@[simp] theorem settle_tchan (c : Nat) (s : State) : (settle s).tchan c = s.tchan c := rfl

@[simp] theorem at_tchan (t c : Nat) (s : State) : (s.at t).tchan c = s.tchan c := by
  simp only [State.tchan, at_tsu]

theorem tchan_of_tsu {s u : State} (h : s.tsu = u.tsu) (c : Nat) : s.tchan c = u.tchan c := congrArg (fun x : Tsu => getN x.chans c) h

theorem State.shaped.chan_exists {s : State} (hs : s.shaped) {c : Nat} (hc : c < 512) : c < s.tsu.chans.length := by
  rw [hs.tsu]
  exact hc

@[simp] theorem onChan_chans_length (c : Nat) (f : TChan → TChan) (s : State) :
    (s.onChan c f).tsu.chans.length = s.tsu.chans.length := modN_length ..

theorem tchan_onChan_self {c : Nat} {s : State} (hc : c < s.tsu.chans.length) (f : TChan → TChan) :
    (s.onChan c f).tchan c = f (s.tchan c) := getN_modN_self _ _ _ hc

@[simp] theorem onChan_img (c : Nat) (f : TChan → TChan) (s : State) : (s.onChan c f).img = s.img := rfl
@[simp] theorem onChan_now (c : Nat) (f : TChan → TChan) (s : State) : (s.onChan c f).now = s.now := rfl
@[simp] theorem onChan_faults (c : Nat) (f : TChan → TChan) (s : State) : (s.onChan c f).tsu.faults = s.tsu.faults := rfl

/-- The record that a channel's number finds is the record of that channel. -/
theorem chan_ch {i : Image} {c : Nat} {r : ChanRec} (h : i.chan c = some r) : r.ch = c := by
  simpa using List.find?_some h

/-! ## Faults (R463) -/

/-- A channel with a fault: the first cause stays. -/
def TChan.faulted (cause now : Nat) (x : TChan) : TChan :=
  { x with fault := true, cause := if x.fault then x.cause else cause, causeAt := now }

/-- What a fault leaves of the bound queue. -/
def HQueue.faulted (first : Bool) (cause : Nat) (hold : Bool) (h : HQueue) : HQueue :=
  { h with chFault := true, cause := if first then cause else h.cause, hold := h.hold || hold }

/-- The part of a channel fault that every channel takes: counted, marked and logged. -/
def State.markFault (c cause : Nat) (s : State) : State :=
  ((s.onTsu fun u => { u with faults := satInc u.faults, events := u.events ||| 1 }).onChan c (TChan.faulted cause s.now)).evOpen
    0x0D "CHANNEL_FAULT" c cause

/-- A fault marks its channel, and the queue that the channel is bound to. -/
theorem chFault_eq (c cause : Nat) (s : State) : s.chFault c cause =
    (s.markFault c cause).with (s.img.chan c) fun r v =>
      if r.queue < 64 then v.onQ r.queue (HQueue.faulted (!(s.tchan c).fault) cause (bit r.flags 0)) else v := by
  have himg : (s.markFault c cause).img = s.img := congrArg Cfg.img (State.evOpen_same (p := .cfg) (by decide) ..)
  rw [← himg]
  rfl

theorem State.chFault_same {p : Part} (hp : p ∉ [Part.hq, Part.tsu, Part.log, Part.ret]) (c cause : Nat) (s : State) :
    p.Same s (s.chFault c cause) :=
  (State.chFault_moves c cause (Moves.refl _ s) (List.Subset.refl _)).same p hp

@[simp] theorem chFault_now (c cause : Nat) (s : State) : (s.chFault c cause).now = s.now :=
  (State.chFault_moves (w := [.hq, .tsu, .log, .ret]) c cause (Moves.refl _ s) (List.Subset.refl _)).now

/-- A fault is counted, and marks its channel. -/
theorem chFault_tsu (c cause : Nat) (s : State) : (s.chFault c cause).tsu =
    { s.tsu with faults := satInc s.tsu.faults, events := s.tsu.events ||| 1,
                 chans := modN s.tsu.chans c (TChan.faulted cause s.now) } := by
  have hmark : (s.markFault c cause).tsu = _ := State.evOpen_same (p := .tsu) (by decide) ..
  rw [chFault_eq]
  refine Eq.trans ?_ hmark
  cases s.img.chan c with
  | none => rfl
  | some r =>
    dsimp only [State.with]
    split
    · rfl
    · rfl

@[simp] theorem chFault_chans_length (c cause : Nat) (s : State) : (s.chFault c cause).tsu.chans.length = s.tsu.chans.length := by
  rw [chFault_tsu]
  exact modN_length ..

theorem chFault_tchan {c : Nat} {s : State} (hc : c < s.tsu.chans.length) (cause : Nat) :
    (s.chFault c cause).tchan c = (s.tchan c).faulted cause s.now := by
  unfold State.tchan
  rw [chFault_tsu]
  exact getN_modN_self _ _ _ hc

@[simp] theorem chFault_faults (c cause : Nat) (s : State) : (s.chFault c cause).tsu.faults = satInc s.tsu.faults := by
  rw [chFault_tsu]

/-- The queue that the channel is bound to shows its fault. -/
theorem chFault_hqueue {c : Nat} {r : ChanRec} {s : State} (hr : s.img.chan c = some r) (hq : r.queue < 64) (hs : s.shaped) (cause : Nat) :
    (s.chFault c cause).hqueue r.queue = (s.hqueue r.queue).faulted (!(s.tchan c).fault) cause (bit r.flags 0) := by
  have hmark : (s.markFault c cause).hq = s.hq := State.evOpen_same (p := .hq) (by decide) ..
  rw [chFault_eq, hr]
  dsimp only [State.with]
  rw [if_pos hq, hqueue_onQ_self (by rw [hmark, hs.hq.1]; exact hq)]
  unfold State.hqueue
  rw [hmark]

/-! ## Checkpoints (R461) -/

/-- A checkpoint counted on its channel. -/
def TChan.counted (cp : Nat) (x : TChan) : TChan := { x with alive := x.alive + 1, lastCp := cp, free := false }

/-- A checkpoint is counted; one above ALIVE_MAX or against the order faults the channel. -/
theorem cpChecks_tchan {r : ChanRec} {s : State} (hc : r.ch < s.tsu.chans.length) (cp : Nat) :
    let x := s.tchan r.ch
    let y := if r.aliveWindow ≠ 0 ∧ x.alive = r.aliveMax then (x.counted cp).faulted 2 s.now else x.counted cp
    (s.cpChecks r cp).tchan r.ch =
      if r.ordered ∧ !x.free ∧ !bit (getN r.order x.lastCp) cp then y.faulted 5 s.now else y := by
  have hcount := tchan_onChan_self hc (TChan.counted cp)
  have hhigh := chFault_tchan (c := r.ch) (s := s.onChan r.ch (TChan.counted cp)) (by rwa [onChan_chans_length]) 2
  rw [hcount, onChan_now] at hhigh
  unfold State.cpChecks
  dsimp only
  split
  · split
    · rw [chFault_tchan (by rw [chFault_chans_length]; exact hc.trans_eq (onChan_chans_length ..).symm), chFault_now, onChan_now]
      exact congrArg (TChan.faulted 5 s.now) hhigh
    · rw [chFault_tchan (hc.trans_eq (onChan_chans_length ..).symm), onChan_now]
      exact congrArg (TChan.faulted 5 s.now) hcount
  · split
    · exact hhigh
    · exact hcount

/-- What a checkpoint's checks leave: the count and the last checkpoint, and the fault of one that fails them. -/
theorem cpChecks_leaves {r : ChanRec} {s : State} (hc : r.ch < s.tsu.chans.length) (cp : Nat) :
    let x := s.tchan r.ch
    let y := (s.cpChecks r cp).tchan r.ch
    (y.lastCp, y.free, y.alive, y.timerAt) = (cp, false, x.alive + 1, x.timerAt) ∧
      (r.ordered = true → x.free = false → bit (getN r.order x.lastCp) cp = false → y.fault = true) ∧
      (r.aliveWindow ≠ 0 → x.alive = r.aliveMax → y.fault = true) := by
  dsimp only
  rw [cpChecks_tchan hc]
  split
  · split <;> exact ⟨rfl, fun _ _ _ => rfl, fun _ _ => rfl⟩
  · next hright =>
    have horder : r.ordered = true → (s.tchan r.ch).free = false → ¬bit (getN r.order (s.tchan r.ch).lastCp) cp = false := by
      intro hordered hfree hbit
      exact hright ⟨hordered, by rw [hfree]; rfl, by rw [hbit]; rfl⟩
    split
    · exact ⟨rfl, fun _ _ _ => rfl, fun _ _ => rfl⟩
    · next hlow => exact ⟨rfl, fun ho hf hb => absurd hb (horder ho hf), fun hw hm => absurd ⟨hw, hm⟩ hlow⟩

theorem cpChecks_chans_length (r : ChanRec) (cp : Nat) (s : State) : (s.cpChecks r cp).tsu.chans.length = s.tsu.chans.length := by
  unfold State.cpChecks
  dsimp only
  split <;> split <;> simp only [chFault_chans_length, onChan_chans_length]

/-- END_CP stops a running timer, with the deadline's fault where it has passed unseen. -/
theorem stopTimer_tchan {r : ChanRec} {s : State} (hc : r.ch < s.tsu.chans.length) :
    let x := s.tchan r.ch
    let y := (s.stopTimer r).tchan r.ch
    (y.lastCp, y.free, y.alive, y.timerAt) = (x.lastCp, x.free, x.alive, none) ∧ (x.fault = true → y.fault = true) := by
  unfold State.stopTimer
  dsimp only
  split
  · split
    · rw [tchan_onChan_self (by rwa [chFault_chans_length]), chFault_tchan hc]
      exact ⟨rfl, fun _ => rfl⟩
    · rw [tchan_onChan_self hc]
      exact ⟨rfl, id⟩
  · next hnone => exact ⟨by rw [hnone], id⟩

/-- The timer after a checkpoint: END_CP stops one that runs, START_CP starts one that does not. -/
theorem cpTimer_tchan {r : ChanRec} {s : State} (hc : r.ch < s.tsu.chans.length) (cp : Nat) :
    let x := s.tchan r.ch
    let y := (s.cpTimer r cp).tchan r.ch
    (y.lastCp, y.free, y.alive) = (x.lastCp, x.free, x.alive) ∧ (x.fault = true → y.fault = true) ∧
      y.timerAt = if x.timerAt.isSome then (if cp = r.endCp then none else x.timerAt)
        else if cp = r.startCp ∧ (r.deadlineUs ≠ 0 ∨ r.budgetUs ≠ 0) then some s.now else x.timerAt := by
  obtain ⟨hstop, hfault⟩ := stopTimer_tchan hc
  simp only [Prod.mk.injEq] at hstop
  obtain ⟨hcp, hfree, halive, htimer⟩ := hstop
  unfold State.cpTimer
  dsimp only
  split
  · split
    · exact ⟨by rw [hcp, hfree, halive], hfault, htimer⟩
    · exact ⟨rfl, id, rfl⟩
  · split
    · rw [tchan_onChan_self hc]
      exact ⟨rfl, id, rfl⟩
    · exact ⟨rfl, id, rfl⟩

/-- What HQ_CHECKPOINT leaves of its channel (R461). -/
theorem runs_hqCheckpoint_counts {t c cp : Nat} {r : ChanRec} {s : State} (hs : s.shaped) (hc : c < 512) (hcp : cp < 16)
    (hon : (s.at t).tsuOn = true) (hr : s.img.chan c = some r) :
    Runs (.hqCheckpoint t (c + cp * 65536)) s fun v =>
      let x := s.tchan c
      let y := v.tchan c
      y.lastCp = cp ∧ y.free = false ∧ y.alive = x.alive + 1 ∧
        (r.ordered = true → x.free = false → bit (getN r.order x.lastCp) cp = false → y.fault = true) ∧
        (r.aliveWindow ≠ 0 → x.alive = r.aliveMax → y.fault = true) ∧
        (x.timerAt = none → cp = r.startCp → r.deadlineUs ≠ 0 → y.timerAt = some (s.at t).now) ∧
        (x.timerAt.isSome = true → y.timerAt = if cp = r.endCp then none else x.timerAt) := by
  obtain rfl := chan_ch hr
  have hchannel : bits (r.ch + cp * 65536) 0 9 = r.ch := by unfold bits; omega
  have hpoint : bits (r.ch + cp * 65536) 16 4 = cp := by unfold bits; omega
  have hexists := (at_shaped t hs).chan_exists hc
  obtain ⟨hchecked, hwrong, hhigh⟩ := cpChecks_leaves hexists cp
  obtain ⟨hkept, hfault, htimer⟩ := cpTimer_tchan (s := (s.at t).cpChecks r cp) (by rwa [cpChecks_chans_length]) cp
  have hnow : ((s.at t).cpChecks r cp).now = (s.at t).now :=
    (State.cpChecks_moves (w := [.hq, .tsu, .log, .ret]) r cp (Moves.refl _ _) (by decide)).now
  simp only [at_tchan, Prod.mk.injEq] at hchecked hwrong hhigh hkept
  obtain ⟨hlast, hfree, halive, hrun⟩ := hchecked
  obtain ⟨hlast', hfree', halive'⟩ := hkept
  rw [hrun, hnow] at htimer
  refine ⟨_, runs_hqCheckpoint t _ r s _ rfl hon (by rw [hchannel, at_img]; exact hr), ?_⟩
  rw [hpoint]
  refine ⟨hlast'.trans hlast, hfree'.trans hfree, halive'.trans halive, fun ho hf hb => hfault (hwrong ho hf hb),
    fun hw hm => hfault (hhigh hw hm), fun hnone hstart hdeadline => ?_, fun hsome => ?_⟩
  · rw [settle_tchan, htimer, hnone, if_neg (by decide), if_pos ⟨hstart, .inl hdeadline⟩]
  · rw [settle_tchan, htimer, if_pos hsome]

/-! ## Windows, deadlines and budgets (R461, R463) -/

section Supervision
variable {t c : Nat} {r : ChanRec} {s : State}

theorem past_iff (s : State) (i d : Nat) : s.past i d = true ↔ i + d ≤ s.now := decide_eq_true_iff

theorem pastOpt_some {s : State} {i d : Nat} {o : Option Nat} (ho : o = some i) (h : i + d ≤ s.now) : s.pastOpt o d = true := by
  rw [ho]
  exact decide_eq_true h

/-- A channel whose alive window has ended; a fault that is over clears. -/
def TChan.windowEnded (d : Nat) (isOver : Bool) (x : TChan) : TChan :=
  { x with windowAt := x.windowAt + d, alive := 0, fault := x.fault && !isOver, free := x.free || isOver }

/-- At its end an alive window below ALIVE_MIN faults its channel; only a channel without a queue clears a fault (R461, R463). -/
theorem exec_tsuAliveWindowEnd_due (hon : (s.at t).tsuOn = true) (hr : s.img.chan c = some r) (hwindow : r.aliveWindow ≠ 0)
    (hend : (s.tchan c).windowAt + r.aliveWindow * ms ≤ (s.at t).now) :
    ∃ isOver : Bool, (isOver = true → r.aliveMin ≤ (s.tchan c).alive ∧ r.queue = 0xFF) ∧
      exec (.tsuAliveWindowEnd t c) s = .next (settle
        ((if (s.tchan c).alive < r.aliveMin then (s.at t).chFault c 1 else s.at t).onChan c
          (TChan.windowEnded (r.aliveWindow * ms) isOver))) := by
  have hpast : (s.at t).past ((s.at t).tchan c).windowAt (r.aliveWindow * ms) = true := by rwa [at_tchan, past_iff]
  have hrec : (s.at t).img.chan c = some r := by rwa [at_img]
  rw [exec_tsuAliveWindowEnd]
  unfold execTsuAliveWindowEnd finish State.with
  dsimp only
  rw [hrec]
  dsimp only
  rw [if_pos ⟨hon, hwindow, hpast⟩, at_tchan]
  simp only [decide_eq_true_eq]
  exact ⟨_, fun hover => by
    simp only [Bool.and_eq_true, Bool.not_eq_true', decide_eq_false_iff_not, Nat.not_lt, beq_iff_eq] at hover
    obtain ⟨⟨⟨hlow, -⟩, -⟩, -⟩ := hover
    exact hlow, rfl⟩

/-- The channel at the end of its alive window (R461, R463). -/
theorem runs_tsuAliveWindowEnd_counts (hs : s.shaped) (hc : c < 512) (hon : (s.at t).tsuOn = true) (hr : s.img.chan c = some r)
    (hwindow : r.aliveWindow ≠ 0) (hend : (s.tchan c).windowAt + r.aliveWindow * ms ≤ (s.at t).now) :
    Runs (.tsuAliveWindowEnd t c) s fun v =>
      let x := s.tchan c
      let y := v.tchan c
      y.windowAt = x.windowAt + r.aliveWindow * ms ∧ y.alive = 0 ∧
        (x.alive < r.aliveMin → y.fault = true ∧ (x.fault = false → y.cause = 1) ∧ v.tsu.faults = satInc s.tsu.faults) ∧
        (r.aliveMin ≤ x.alive → r.queue ≠ 0xFF → y.fault = x.fault ∧ v.tsu.faults = s.tsu.faults) := by
  have hexists := (at_shaped t hs).chan_exists hc
  obtain ⟨isOver, hover, hexec⟩ := exec_tsuAliveWindowEnd_due hon hr hwindow hend
  refine ⟨_, hexec, ?_⟩
  dsimp only
  rw [settle_tchan, settle_tsu, onChan_faults]
  split
  · next hlow =>
    have hkeep : isOver = false := Bool.eq_false_iff.mpr fun h => absurd (hover h).1 (Nat.not_le.mpr hlow)
    rw [tchan_onChan_self (by rwa [chFault_chans_length]), chFault_tchan hexists, chFault_faults, at_tchan, at_tsu, hkeep]
    exact ⟨rfl, rfl, fun _ => ⟨rfl, fun hf => if_neg (by rw [hf]; decide), rfl⟩, fun h => absurd hlow (Nat.not_lt.mpr h)⟩
  · next hhigh =>
    rw [tchan_onChan_self hexists, at_tchan, at_tsu]
    refine ⟨rfl, rfl, fun h => absurd h hhigh, fun _ hqueue => ⟨?_, rfl⟩⟩
    have hkeep : isOver = false := Bool.eq_false_iff.mpr fun h => hqueue (hover h).2
    rw [hkeep]
    exact Bool.and_true _

/-- A passed deadline faults its channel once, and its timer runs on (R461). -/
theorem runs_tsuDeadlineExpiry_faults {i : Nat} (hs : s.shaped) (hc : c < 512) (hon : (s.at t).tsuOn = true)
    (hr : s.img.chan c = some r) (hdeadline : r.deadlineUs ≠ 0) (hlate : (s.tchan c).late = false)
    (hrun : (s.tchan c).timerAt = some i) (hend : i + r.deadlineUs * 1000 ≤ (s.at t).now) :
    Runs (.tsuDeadlineExpiry t c) s fun v =>
      (v.tchan c).fault = true ∧ (v.tchan c).late = true ∧ (v.tchan c).timerAt = some i ∧
      ((s.tchan c).fault = false → (v.tchan c).cause = 3) ∧ ((s.tchan c).fault = true → (v.tchan c).cause = (s.tchan c).cause) := by
  have hexists := (at_shaped t hs).chan_exists hc
  refine ⟨_, runs_tsuDeadlineExpiry t c r s _ rfl (by rwa [at_img]) hon hdeadline (by rwa [at_tchan])
    (pastOpt_some (by rwa [at_tchan]) hend), ?_⟩
  dsimp only
  rw [settle_tchan, chFault_tchan (by rwa [onChan_chans_length]), tchan_onChan_self hexists, at_tchan]
  exact ⟨rfl, rfl, hrun, fun hf => if_neg (by rw [hf]; decide), fun hf => if_pos hf⟩

/-- A budget that is used up faults its channel (R461). -/
theorem runs_tsuBudgetExceeded_faults (hs : s.shaped) (hc : c < 512) (hon : (s.at t).tsuOn = true) (hr : s.img.chan c = some r)
    (hbudget : r.budgetUs ≠ 0) (hspent : (s.tchan c).spent = false) (hused : r.budgetUs * 1000 < (s.at t).budgetUsed c) :
    Runs (.tsuBudgetExceeded t c) s fun v =>
      (v.tchan c).fault = true ∧ (v.tchan c).spent = true ∧ ((s.tchan c).fault = false → (v.tchan c).cause = 4) := by
  have hexists := (at_shaped t hs).chan_exists hc
  refine ⟨_, runs_tsuBudgetExceeded t c r s _ rfl (by rwa [at_img]) hon hbudget (by rwa [at_tchan]) hused, ?_⟩
  dsimp only
  rw [settle_tchan, chFault_tchan (by rwa [onChan_chans_length]), tchan_onChan_self hexists, at_tchan]
  exact ⟨rfl, rfl, fun hf => if_neg (by rw [hf]; decide)⟩

/-- A new budget period begins with nothing used (R461). -/
theorem runs_tsuBudgetPeriodEnd_begins (hs : s.shaped) (hc : c < 512) (hon : (s.at t).tsuOn = true) (hr : s.img.chan c = some r)
    (hbudget : r.budgetUs ≠ 0) (hend : (s.tchan c).periodAt + r.budgetPeriod * ms ≤ (s.at t).now) :
    Runs (.tsuBudgetPeriodEnd t c) s fun v =>
      (v.tchan c).used = 0 ∧ (v.tchan c).spent = false ∧ (v.tchan c).fault = (s.tchan c).fault ∧
      (v.tchan c).periodAt = (s.tchan c).periodAt + r.budgetPeriod * ms := by
  have hexists := (at_shaped t hs).chan_exists hc
  refine ⟨_, runs_tsuBudgetPeriodEnd t c r s _ rfl (by rwa [at_img]) hon hbudget (by rwa [at_tchan, past_iff]), ?_⟩
  dsimp only
  rw [settle_tchan, tchan_onChan_self hexists, at_tchan]
  exact ⟨rfl, rfl, rfl, rfl⟩

end Supervision

/-- Settles O52: one lemma per command, and what a fault leaves of the channel and its queue. -/
theorem channelsAreSupervisedAsStated : Obligations.ChannelsAreSupervisedAsStated := by
  unfold Obligations.ChannelsAreSupervisedAsStated
  refine ⟨?checkpoint, ?window, ?deadline, ?budget, ?period, ?fault⟩
  case checkpoint => exact fun t c cp r s hs hc hcp hon hr => runs_hqCheckpoint_counts hs hc hcp hon hr
  case window => exact fun t c r s hs hc hon hr hwindow hend => runs_tsuAliveWindowEnd_counts hs hc hon hr hwindow hend
  case deadline =>
    exact fun t c i r s hs hc hon hr hdeadline hlate hrun hend =>
      runs_tsuDeadlineExpiry_faults hs hc hon hr hdeadline hlate hrun hend
  case budget => exact fun t c r s hs hc hon hr hbudget hspent hused => runs_tsuBudgetExceeded_faults hs hc hon hr hbudget hspent hused
  case period => exact fun t c r s hs hc hon hr hbudget hend => runs_tsuBudgetPeriodEnd_begins hs hc hon hr hbudget hend
  case fault =>
    intro c cause r s hs hc hr hq
    dsimp only
    rw [chFault_hqueue hr hq hs, chFault_tchan (hs.chan_exists hc)]
    refine ⟨rfl, fun hhold => ?_, rfl, State.chFault_same (p := .sys) (by decide) .., State.chFault_same (p := .vrd) (by decide) ..⟩
    rw [HQueue.faulted, hhold, Bool.or_true]

end Sys2Proof.Machine
end

section
/-! SUPPORT. Host accesses through BAR2 (16 R449, R450, R458 to R460): what the firewall answers, what a refusal leaves, and the one place at
which an access changes memory. -/

namespace Sys2Proof.Machine

/-! ## The firewall (R458, R460) -/

theorem Rule.grants_iff (r : Rule) (w : Bool) (a n : Nat) :
    r.grants w a n = true ↔ bit r.perm (b2n w) = true ∧ r.base ≤ a ∧ a + n ≤ r.base + r.pages * 4096 := by
  unfold Rule.grants
  rw [Bool.and_eq_true, decide_eq_true_eq]

theorem lockHit_eq_false_iff (s : State) (a n : Nat) :
    s.lockHit a n = false ↔ ∀ l ∈ s.fwl.locks, ¬(l.lo < a + n ∧ a < l.lo + l.len) := by
  unfold State.lockHit
  simp only [List.any_eq_false, decide_eq_true_eq]

/-- A range that meets no lock holds no locked byte. -/
theorem unlocked_of_lockHit {s : State} {a n : Nat} (h : s.lockHit a n = false) {x : Nat} (hlo : a ≤ x) (hhi : x < a + n) :
    ∀ l ∈ s.fwl.locks, ¬(l.lo ≤ x ∧ x < l.lo + l.len) := by
  intro l hl hx
  exact (lockHit_eq_false_iff ..).mp h l hl ⟨by omega, by omega⟩

/-- A range none of whose bytes is locked meets no lock; every lock and the range hold some byte. -/
theorem lockHit_of_unlocked {s : State} {a n : Nat} (hn : 0 < n) (hlen : ∀ l ∈ s.fwl.locks, 0 < l.len)
    (h : ∀ x, a ≤ x → x < a + n → ∀ l ∈ s.fwl.locks, ¬(l.lo ≤ x ∧ x < l.lo + l.len)) : s.lockHit a n = false := by
  refine (lockHit_eq_false_iff ..).mpr fun l hl hhit => ?_
  have hpos := hlen l hl
  exact h (max a l.lo) (by omega) (by omega) l hl ⟨by omega, by omega⟩

/-- The firewall passes what a rule grants, and of the writes those that meet no lock. -/
theorem wall_pass_iff (s : State) (c : Nat) (w : Bool) (a n : Nat) :
    s.wall c w a n = .pass ↔ (∃ r ∈ s.rulesOf c, r.grants w a n = true) ∧ (w = true → s.lockHit a n = false) := by
  unfold State.wall
  rw [← List.any_eq_true]
  cases (s.rulesOf c).any fun r => r.grants w a n with
  | false => simp
  | true => cases w <;> cases s.lockHit a n <;> simp

theorem wall_pass_iff_bytes {s : State} {c a n : Nat} {w : Bool} (hn : 0 < n) (hlen : ∀ l ∈ s.fwl.locks, 0 < l.len) :
    s.wall c w a n = .pass ↔
      (∃ rule ∈ s.rulesOf c, bit rule.perm (b2n w) = true ∧ rule.base ≤ a ∧ a + n ≤ rule.base + rule.pages * 4096) ∧
        (w = true → ∀ x, a ≤ x → x < a + n → ∀ l ∈ s.fwl.locks, ¬(l.lo ≤ x ∧ x < l.lo + l.len)) := by
  simp only [wall_pass_iff, Rule.grants_iff]
  exact and_congr_right fun _ => forall_congr' fun _ =>
    ⟨fun h x hlo hhi => unlocked_of_lockHit h hlo hhi, lockHit_of_unlocked hn hlen⟩

@[simp] theorem at_bar2Ident (t : Nat) (r : Bar2Req) (s : State) : (s.at t).bar2Ident r = s.bar2Ident r := by
  simp only [State.bar2Ident, at_img]

@[simp] theorem at_wall (t c : Nat) (w : Bool) (a n : Nat) (s : State) : (s.at t).wall c w a n = s.wall c w a n := by
  unfold State.wall State.rulesOf State.lockHit
  rw [at_img, at_fwl]

theorem check_of_pass {s : State} {c a n : Nat} {w : Bool} (h : s.wall c w a n = .pass) : s.check c w a n = (true, s) := by
  unfold State.check
  rw [h]

/-- A refused access has the refusal's effects, as locked where a lock refuses it. -/
theorem check_of_refused {s : State} {c a n : Nat} {w : Bool} (h : s.wall c w a n ≠ .pass) :
    s.check c w a n = (false, s.refuse c w (decide (s.wall c w a n = .locked)) a) := by
  unfold State.check
  cases hwall : s.wall c w a n with
  | pass => exact absurd hwall h
  | refused => rfl
  | locked => rfl

/-! ## A refusal (R459) -/

/-- A refusal noted in the violation registers. -/
def Fwl.noted (c : Nat) (w locked : Bool) (a : Nat) (f : Fwl) : Fwl :=
  { f with ident := c, write := w, locked := locked, addr := a, count := satInc f.count, seen := true }

/-- The part of a refusal that every identity has: the violation registers and the event. -/
def State.noteRefusal (c : Nat) (w locked : Bool) (a : Nat) (s : State) : State :=
  (s.onFwl (Fwl.noted c w locked a)).ev 0x0E01 3 (if c < 512 then c else noSub) (fld a 0 40 + flg w 50 + flg locked 51)

/-- A refusal of a supervised identity faults its channel. -/
theorem refuse_eq {c : Nat} (hc : c < 512) (w locked : Bool) (a : Nat) (s : State) :
    s.refuse c w locked a = (s.noteRefusal c w locked a).chFault c (if locked then 7 else 6) := by
  unfold State.refuse
  exact if_pos hc

theorem noteRefusal_same {p : Part} (hp : p ∉ [Part.log, Part.ret]) (c : Nat) (w locked : Bool) (a : Nat) (s : State) :
    p.Same (s.onFwl (Fwl.noted c w locked a)) (s.noteRefusal c w locked a) := State.ev_same hp ..

theorem State.refuse_same {p : Part} (hp : p ∉ [Part.hq, Part.fwl, Part.tsu, Part.log, Part.ret]) (c : Nat) (w locked : Bool) (a : Nat)
    (s : State) : p.Same s (s.refuse c w locked a) :=
  (State.refuse_moves c w locked a (Moves.refl _ s) (List.Subset.refl _)).same p hp

@[simp] theorem refuse_mem (c : Nat) (w locked : Bool) (a : Nat) (s : State) : (s.refuse c w locked a).mem = s.mem :=
  State.refuse_same (p := .mem) (by decide) ..

theorem chFault_fwl (c cause : Nat) (s : State) : (s.chFault c cause).fwl = s.fwl := State.chFault_same (p := .fwl) (by decide) ..

/-- A fault logs; nothing leaves the module. -/
@[simp] theorem chFault_out (c cause : Nat) (s : State) : (s.chFault c cause).out = s.out := by
  have hmark : (s.markFault c cause).out = s.out := State.ev_out ..
  rw [chFault_eq]
  cases s.img.chan c with
  | none => exact hmark
  | some r =>
    dsimp only [State.with]
    split
    · exact hmark
    · exact hmark

/-- Of the host interface a fault changes the bound queue alone. -/
theorem chFault_aer (c cause : Nat) (s : State) : (s.chFault c cause).hq.aer = s.hq.aer := by
  have hmark : (s.markFault c cause).hq = s.hq := State.evOpen_same (p := .hq) (by decide) ..
  rw [chFault_eq]
  cases s.img.chan c with
  | none => exact congrArg Hq.aer hmark
  | some r =>
    dsimp only [State.with]
    split
    · exact (congrArg Hq.aer hmark :)
    · exact (congrArg Hq.aer hmark :)

section Refusal
variable {c : Nat} (hc : c < 512) (w locked : Bool) (a : Nat) (s : State)
include hc

theorem refuse_fwl : (s.refuse c w locked a).fwl = s.fwl.noted c w locked a := by
  rw [refuse_eq hc, chFault_fwl]
  exact noteRefusal_same (p := .fwl) (by decide) ..

theorem refuse_aer : (s.refuse c w locked a).hq.aer = s.hq.aer := by
  rw [refuse_eq hc, chFault_aer]
  exact congrArg Hq.aer (noteRefusal_same (p := .hq) (by decide) ..)

theorem refuse_out : (s.refuse c w locked a).out = s.out := by
  rw [refuse_eq hc, chFault_out]
  exact State.ev_out ..

/-- A refusal faults the identity's channel; the first cause stays. -/
theorem refuse_tchan (hlen : c < s.tsu.chans.length) :
    ∃ i, (s.refuse c w locked a).tchan c = (s.tchan c).faulted (if locked then 7 else 6) i := by
  have htsu : (s.noteRefusal c w locked a).tsu = s.tsu := noteRefusal_same (p := .tsu) (by decide) ..
  rw [refuse_eq hc, chFault_tchan (by rwa [htsu]), tchan_of_tsu htsu]
  exact ⟨_, rfl⟩

end Refusal

/-! ## The stack (11 R292, 17 R474) -/

/-- A stack that leaves self-refresh refuses what it refused before. -/
@[simp] theorem refuses_awake (k : Stack) (c : Nat) : k.awake.refuses c = k.refuses c := rfl

@[simp] theorem fault_awake (k : Stack) : k.awake.fault = k.fault := rfl

/-- The state with stack 1 out of self-refresh. -/
def State.awaken (s : State) : State := s.onBeu fun b => { b with stks := modN b.stks 1 Stack.awake }

theorem inProc_of_beu {s u : State} (h : s.beu = u.beu) (a n : Nat) : s.inProc a n = u.inProc a n :=
  congrArg (fun b : Beu => State.inProc { s with beu := b } a n) h

@[simp] theorem at_inProc (t a n : Nat) (s : State) : (s.at t).inProc a n = s.inProc a n := inProc_of_beu (at_beu ..) a n

/-- A register file without the entry is left as it is. -/
theorem modN_of_length_le {α : Type} {l : List α} {i : Nat} (h : l.length ≤ i) (f : α → α) : modN l i f = l := by
  induction l generalizing i with
  | nil => rfl
  | cons a r ih =>
    cases i with
    | zero => exact absurd h (by simp)
    | succ n => exact congrArg (a :: ·) (ih (Nat.le_of_succ_le_succ h))

theorem getN_awaken (s : State) (k : Nat) : getN s.awaken.beu.stks k = getN s.beu.stks k ∨
    getN s.awaken.beu.stks k = (getN s.beu.stks k).awake := by
  obtain rfl | hk := eq_or_ne k 1
  · by_cases hlen : 1 < s.beu.stks.length
    · exact .inr (getN_modN_self _ _ _ hlen)
    · exact .inl (congrArg (getN · 1) (modN_of_length_le (Nat.not_lt.mp hlen) _))
  · exact .inl (getN_modN_ne _ _ _ _ hk)

@[simp] theorem inProc_awaken (a n : Nat) (s : State) : s.awaken.inProc a n = s.inProc a n := by
  unfold State.inProc
  split
  · next k hk =>
    dsimp only
    obtain h | h := getN_awaken s k
    · rw [h]
    · rw [h]
      simp only [fault_awake, refuses_awake]
  · rfl

@[simp] theorem at_poisoned (t a n : Nat) (s : State) : (s.at t).poisoned a n = s.poisoned a n := by
  simp only [State.poisoned, at_poison]

@[simp] theorem at_partPoisoned (t a n : Nat) (s : State) : (s.at t).partPoisoned a n = s.partPoisoned a n := by
  simp only [State.partPoisoned, at_poison]

/-! ## The access (R449, R450) -/

/-- The length of a request. -/
def bar2Size (r : Bar2Req) : Nat :=
  match r.write with
  | some b => b.length
  | none => r.length

theorem bar2Size_of_write {r : Bar2Req} {b : Bytes} (h : r.write = some b) : bar2Size r = b.length := by
  unfold bar2Size
  rw [h]

theorem bar2Size_of_read {r : Bar2Req} (h : r.write = none) : bar2Size r = r.length := by
  unfold bar2Size
  rw [h]

/-- The answer to a request with a completion status and no data. -/
def bar2Answer (status : Nat) (r : Bar2Req) : Output := if r.write.isSome then .pcieWrite status else .pcieRead status []

/-- A request answered Unsupported Request. -/
def State.bar2Unsupported (r : Bar2Req) (s : State) : State := s.send (bar2Answer 1 r)

theorem bar2Refuse_eq (r : Bar2Req) (s : State) : s.bar2Refuse r = (s.onHq fun h => { h with aer := satInc h.aer }).send (bar2Answer 2 r) := by
  unfold State.bar2Refuse State.bar2Read bar2Answer
  cases r.write <;> rfl

@[simp] theorem bar2Refuse_mem (r : Bar2Req) (s : State) : (s.bar2Refuse r).mem = s.mem := by
  rw [bar2Refuse_eq]
  rfl

theorem poke_mem {a : Nat} (ha : 0x40000 ≤ a) (b : Bytes) (s : State) : (s.poke a b).mem = memPutAll s.mem a b := by
  unfold State.poke
  rw [if_neg (Nat.not_lt.mpr ha)]
  rfl

@[simp] theorem poke_out (a : Nat) (b : Bytes) (s : State) : (s.poke a b).out = s.out := by
  unfold State.poke
  split <;> rfl

theorem bar2Addr_above_rom (o : Nat) : 0x40000 ≤ bar2Addr o := by
  unfold bar2Addr
  split <;> omega

/-- An access that reaches its stack changes memory only as a write that is stored. -/
theorem bar2Reach_mem {a : Nat} (ha : 0x40000 ≤ a) (r : Bar2Req) (c n : Nat) (s : State) :
    (s.bar2Reach r c a n).mem = s.mem ∨ ∃ b, r.write = some b ∧ (s.bar2Reach r c a n).mem = memPutAll s.mem a b := by
  have hbus : ((s.awaken).busErr c a).mem = s.mem :=
    (State.busErr_moves c a (Moves.refl _ s.awaken) (List.Subset.refl _)).same .mem (by decide)
  unfold State.bar2Reach
  rw [← State.awaken]
  dsimp only
  split
  · left
    rw [bar2Refuse_mem]
    split
    · rfl
    · exact hbus
  · cases hwrite : r.write with
    | none =>
      left
      dsimp only
      split <;> rfl
    | some b =>
      dsimp only
      split
      · exact .inl (bar2Refuse_mem ..)
      · exact .inr ⟨b, rfl, poke_mem ha ..⟩

/-- BAR2_ACCESS by its checks, in their order. -/
def State.bar2Access (r : Bar2Req) (s : State) : State :=
  if !s.regsUp then s
  else if s.sys.state = .doldrums ∨ 0x40000000 < r.offset + bar2Size r then s.bar2Unsupported r
  else
    match s.bar2Ident r with
    | none => (s.onFwl fun f => { f with noId := satInc f.noId }).bar2Unsupported r
    | some c =>
      if !bar2Range r.offset (bar2Size r) then (s.refuse c r.write.isSome false (bar2Addr r.offset)).bar2Refuse r
      else
        let x := s.check c r.write.isSome (bar2Addr r.offset) (bar2Size r)
        if x.1 then x.2.bar2Reach r c (bar2Addr r.offset) (bar2Size r) else x.2.bar2Refuse r

theorem exec_bar2Access_eq (t : Nat) (r : Bar2Req) (s : State) :
    exec (.bar2Access t r) s = .next (settle ((s.at t).bar2Access r)) := by
  rw [exec_bar2Access]
  obtain ⟨_, _, _, write, _⟩ := r
  cases write <;> rfl

section Access
variable {c : Nat} {r : Bar2Req} {s : State}

theorem bar2Access_doldrums (hup : s.regsUp = true) (hdol : s.sys.state = .doldrums) : s.bar2Access r = s.bar2Unsupported r := by
  unfold State.bar2Access
  rw [if_neg (by rw [hup]; decide), if_pos (.inl hdol)]

section InReach
variable (hup : s.regsUp = true) (hdol : s.sys.state ≠ .doldrums) (hsize : r.offset + bar2Size r ≤ 0x40000000)
include hup hdol hsize

theorem bar2Access_unknown (hid : s.bar2Ident r = none) :
    s.bar2Access r = (s.onFwl fun f => { f with noId := satInc f.noId }).bar2Unsupported r := by
  unfold State.bar2Access
  rw [if_neg (by rw [hup]; decide), if_neg (not_or.mpr ⟨hdol, Nat.not_lt.mpr hsize⟩), hid]

variable (hid : s.bar2Ident r = some c) (hrange : bar2Range r.offset (bar2Size r) = true)
include hid hrange

theorem bar2Access_granted (hwall : s.wall c r.write.isSome (bar2Addr r.offset) (bar2Size r) = .pass) :
    s.bar2Access r = s.bar2Reach r c (bar2Addr r.offset) (bar2Size r) := by
  unfold State.bar2Access
  rw [if_neg (by rw [hup]; decide), if_neg (not_or.mpr ⟨hdol, Nat.not_lt.mpr hsize⟩), hid]
  dsimp only
  rw [if_neg (by rw [hrange]; decide), check_of_pass hwall]
  rfl

theorem bar2Access_refused (hwall : s.wall c r.write.isSome (bar2Addr r.offset) (bar2Size r) ≠ .pass) :
    s.bar2Access r = (s.refuse c r.write.isSome
      (decide (s.wall c r.write.isSome (bar2Addr r.offset) (bar2Size r) = .locked)) (bar2Addr r.offset)).bar2Refuse r := by
  unfold State.bar2Access
  rw [if_neg (by rw [hup]; decide), if_neg (not_or.mpr ⟨hdol, Nat.not_lt.mpr hsize⟩), hid]
  dsimp only
  rw [if_neg (by rw [hrange]; decide), check_of_refused hwall]
  rfl

end InReach

/-- An access leaves memory as it is, or it reaches its stack with a grant. -/
theorem bar2Access_mem (r : Bar2Req) (s : State) : (s.bar2Access r).mem = s.mem ∨
    ∃ c, s.bar2Ident r = some c ∧ s.wall c r.write.isSome (bar2Addr r.offset) (bar2Size r) = .pass ∧
      s.bar2Access r = s.bar2Reach r c (bar2Addr r.offset) (bar2Size r) := by
  by_cases hup : s.regsUp = true
  case neg =>
    left
    unfold State.bar2Access
    rw [if_pos (by rw [Bool.eq_false_iff.mpr hup]; rfl)]
  case pos =>
    unfold State.bar2Access
    rw [if_neg (by rw [hup]; decide)]
    split
    · exact .inl rfl
    · split
      · exact .inl rfl
      · next c hid =>
        split
        · exact .inl (by rw [bar2Refuse_mem, refuse_mem])
        · by_cases hwall : s.wall c r.write.isSome (bar2Addr r.offset) (bar2Size r) = .pass
          · rw [check_of_pass hwall]
            exact .inr ⟨c, hid, hwall, rfl⟩
          · rw [check_of_refused hwall]
            exact .inl ((bar2Refuse_mem ..).trans (refuse_mem ..))

/-- A byte that an access changes lies in its written range, in a write rule of its identity, and in no lock. -/
theorem bar2Access_changes {a : Nat} (hbyte : memGet (s.bar2Access r).mem a ≠ memGet s.mem a) :
    ∃ b c rule, r.write = some b ∧ s.bar2Ident r = some c ∧ rule ∈ s.rulesOf c ∧ bit rule.perm 1 = true ∧
      rule.base ≤ bar2Addr r.offset ∧ bar2Addr r.offset + b.length ≤ rule.base + rule.pages * 4096 ∧
      bar2Addr r.offset ≤ a ∧ a < bar2Addr r.offset + b.length ∧ ∀ l ∈ s.fwl.locks, ¬(l.lo ≤ a ∧ a < l.lo + l.len) := by
  obtain hkeep | ⟨c, hid, hwall, hreach⟩ := bar2Access_mem r s
  · exact absurd (by rw [hkeep]) hbyte
  obtain hkeep | ⟨b, hwrite, hstore⟩ := bar2Reach_mem (bar2Addr_above_rom r.offset) r c (bar2Size r) s
  · exact absurd (by rw [hreach, hkeep]) hbyte
  rw [hwrite, bar2Size_of_write hwrite, wall_pass_iff] at hwall
  obtain ⟨⟨rule, hrule, hgrant⟩, hlock⟩ := hwall
  obtain ⟨hperm, hlo, hhi⟩ := (Rule.grants_iff ..).mp hgrant
  rw [hreach, hstore, memGet_memPutAll] at hbyte
  obtain ⟨hfirst, hlast⟩ : bar2Addr r.offset ≤ a ∧ a < bar2Addr r.offset + b.length := by
    by_contra hout
    exact hbyte (if_neg hout)
  exact ⟨b, c, rule, hwrite, hid, hrule, hperm, hlo, hhi, hfirst, hlast, unlocked_of_lockHit (hlock rfl) hfirst hlast⟩

theorem bar2Reach_write {b : Bytes} {a : Nat} (hwrite : r.write = some b) (hproc : s.inProc a b.length = false)
    (hpoison : s.partPoisoned a b.length = false) : s.bar2Reach r c a b.length = (s.awaken.poke a b).send (.pcieWrite 0) := by
  unfold State.bar2Reach
  rw [← State.awaken]
  dsimp only
  rw [inProc_awaken, if_neg (by rw [hproc]; decide), hwrite]
  exact if_neg (Bool.eq_false_iff.mp hpoison)

theorem bar2Reach_read {a n : Nat} (hread : r.write = none) (hproc : s.inProc a n = false) (hpoison : s.poisoned a n = false) :
    s.bar2Reach r c a n = s.awaken.send (.pcieRead 0 (s.peekN a n)) := by
  unfold State.bar2Reach
  rw [← State.awaken]
  dsimp only
  rw [inProc_awaken, if_neg (by rw [hproc]; decide), hread]
  exact if_neg (Bool.eq_false_iff.mp hpoison)

end Access

/-! ## The command -/

section Command
variable {t c : Nat} {r : Bar2Req} {s : State} (hup : (s.at t).regsUp = true)
include hup

/-- In DOLDRUMS an access is unsupported (04 R117). -/
theorem runs_bar2Access_doldrums (hdol : s.sys.state = .doldrums) :
    Runs (.bar2Access t r) s fun v =>
      v.mem = s.mem ∧ v.fwl = s.fwl ∧ v.out = [if r.write.isSome then .pcieWrite 1 else .pcieRead 1 []] := by
  refine ⟨_, exec_bar2Access_eq .., ?_⟩
  dsimp only
  rw [bar2Access_doldrums hup (by rwa [at_sys_state])]
  exact ⟨at_mem .., at_fwl .., by rw [settle_out, State.bar2Unsupported, send_out, at_out]; rfl⟩

variable (hdol : s.sys.state ≠ .doldrums)
include hdol

/-- An access without an identity is unsupported and counted (R459). -/
theorem runs_bar2Access_unknown (hsize : r.offset + bar2Size r ≤ 0x40000000) (hid : s.bar2Ident r = none) :
    Runs (.bar2Access t r) s fun v =>
      v.fwl.noId = satInc s.fwl.noId ∧ v.mem = s.mem ∧ v.out = [if r.write.isSome then .pcieWrite 1 else .pcieRead 1 []] := by
  refine ⟨_, exec_bar2Access_eq .., ?_⟩
  dsimp only
  rw [bar2Access_unknown hup (by rwa [at_sys_state]) hsize (by rwa [at_bar2Ident])]
  exact ⟨congrArg (fun f : Fwl => satInc f.noId) (at_fwl ..), at_mem ..,
    by rw [settle_out, State.bar2Unsupported, send_out, onFwl_out, at_out]; rfl⟩

variable (hsize : r.offset + bar2Size r ≤ 0x40000000) (hrange : bar2Range r.offset (bar2Size r) = true) (hid : s.bar2Ident r = some c)
include hsize hrange hid

/-- A refused access answers Completer Abort, fills the violation registers and faults its channel (R459). -/
theorem runs_bar2Access_refused (hs : s.shaped) (hc : c < 512)
    (hwall : s.wall c r.write.isSome (bar2Addr r.offset) (bar2Size r) ≠ .pass) :
    Runs (.bar2Access t r) s fun v =>
      v.mem = s.mem ∧ v.out = [if r.write.isSome then .pcieWrite 2 else .pcieRead 2 []] ∧ v.fwl.ident = c ∧
        v.fwl.addr = bar2Addr r.offset ∧ v.fwl.write = r.write.isSome ∧ v.fwl.count = satInc s.fwl.count ∧
        v.fwl.locked = decide (s.wall c r.write.isSome (bar2Addr r.offset) (bar2Size r) = .locked) ∧ v.hq.aer = satInc s.hq.aer ∧
        (v.tchan c).fault = true ∧
        ((s.tchan c).fault = false →
          (v.tchan c).cause = if s.wall c r.write.isSome (bar2Addr r.offset) (bar2Size r) = .locked then 7 else 6) := by
  refine ⟨_, exec_bar2Access_eq .., ?_⟩
  dsimp only
  rw [bar2Access_refused hup (by rwa [at_sys_state]) hsize (by rwa [at_bar2Ident]) hrange (by rwa [at_wall]), at_wall, bar2Refuse_eq]
  obtain ⟨i, hchan⟩ := refuse_tchan hc r.write.isSome (decide (s.wall c r.write.isSome (bar2Addr r.offset) (bar2Size r) = .locked))
    (bar2Addr r.offset) (s.at t) ((at_shaped t hs).chan_exists hc)
  rw [settle_mem, settle_out, settle_fwl, settle_hq, settle_tchan, send_mem, send_out, send_fwl, send_hq, onHq_mem, onHq_out, onHq_fwl,
    refuse_mem, refuse_out hc, refuse_fwl hc, at_mem, at_out, at_fwl]
  refine ⟨rfl, rfl, rfl, rfl, rfl, rfl, rfl, ?_, ?_, ?_⟩
  · exact congrArg satInc ((refuse_aer hc ..).trans (congrArg Hq.aer (at_hq ..)))
  · exact congrArg TChan.fault hchan
  · intro hfault
    refine (congrArg TChan.cause hchan).trans ?_
    rw [at_tchan]
    unfold TChan.faulted
    simp only [hfault, decide_eq_true_eq, Bool.false_eq_true, if_false]

/-- A granted write stores its bytes. -/
theorem runs_bar2Access_stores {b : Bytes} (hwrite : r.write = some b) (hwall : s.wall c true (bar2Addr r.offset) b.length = .pass)
    (hproc : s.inProc (bar2Addr r.offset) b.length = false) (hpoison : s.partPoisoned (bar2Addr r.offset) b.length = false) :
    Runs (.bar2Access t r) s fun v =>
      v.out = [.pcieWrite 0] ∧ ∀ x : Nat, memGet v.mem x =
        if bar2Addr r.offset ≤ x ∧ x < bar2Addr r.offset + b.length then b.getD (x - bar2Addr r.offset) 0 else memGet s.mem x := by
  have hlen := bar2Size_of_write hwrite
  refine ⟨_, exec_bar2Access_eq .., ?_⟩
  dsimp only
  rw [bar2Access_granted hup (by rwa [at_sys_state]) hsize (by rwa [at_bar2Ident]) hrange (by rwa [at_wall, hwrite, hlen]), hlen,
    bar2Reach_write hwrite (by rwa [at_inProc]) (by rwa [at_partPoisoned]), settle_mem, settle_out, send_out]
  refine ⟨?_, fun x => ?_⟩
  · rw [poke_out]
    exact congrArg (· ++ _) (at_out ..)
  · rw [send_mem, poke_mem (bar2Addr_above_rom _), memGet_memPutAll]
    exact congrArg _ (congrArg (memGet · x) (at_mem s t))

/-- A granted read returns the bytes. -/
theorem runs_bar2Access_reads (hread : r.write = none) (hwall : s.wall c false (bar2Addr r.offset) r.length = .pass)
    (hproc : s.inProc (bar2Addr r.offset) r.length = false) (hpoison : s.poisoned (bar2Addr r.offset) r.length = false) :
    Runs (.bar2Access t r) s fun v => v.out = [.pcieRead 0 (s.peekN (bar2Addr r.offset) r.length)] ∧ v.mem = s.mem := by
  have hlen := bar2Size_of_read hread
  refine ⟨_, exec_bar2Access_eq .., ?_⟩
  dsimp only
  rw [bar2Access_granted hup (by rwa [at_sys_state]) hsize (by rwa [at_bar2Ident]) hrange (by rwa [at_wall, hread, hlen]), hlen,
    bar2Reach_read hread (by rwa [at_inProc]) (by rwa [at_poisoned]), settle_mem, settle_out, send_out, at_peekN]
  exact ⟨congrArg (· ++ _) (at_out ..), at_mem ..⟩

end Command

/-- Settles O51: an access changes memory at one place, the write that passed the firewall and its stack. -/
theorem hostWritesReachOnlyGrantedUnlockedBytes : Obligations.HostWritesReachOnlyGrantedUnlockedBytes := by
  unfold Obligations.HostWritesReachOnlyGrantedUnlockedBytes
  refine ⟨?changes, ?refused, ?stores, ?reads, ?unknown, ?doldrums, ?wall⟩
  case changes =>
    intro t a r s v hexec hbyte
    rw [exec_bar2Access_eq] at hexec
    injection hexec with hv
    rw [← hv, settle_mem, ← at_mem s t] at hbyte
    simpa only [at_bar2Ident, State.rulesOf, at_img, at_fwl] using bar2Access_changes hbyte
  case refused =>
    exact fun t c r s hs hup hdol hsize hrange hid hc hwall => runs_bar2Access_refused hup hdol hsize hrange hid hs hc hwall
  case stores =>
    intro t c b r s hup hdol hwrite a hsize hrange hid hwall hproc hpoison
    rw [← bar2Size_of_write hwrite] at hsize hrange
    exact runs_bar2Access_stores hup hdol hsize hrange hid hwrite hwall hproc hpoison
  case reads =>
    intro t c r s hup hdol hread a hsize hrange hid hwall hproc hpoison
    rw [← bar2Size_of_read hread] at hsize hrange
    exact runs_bar2Access_reads hup hdol hsize hrange hid hread hwall hproc hpoison
  case unknown => exact fun t r s hup hdol hsize hid => runs_bar2Access_unknown hup hdol hsize hid
  case doldrums => exact fun t r s hup hdol => runs_bar2Access_doldrums hup hdol
  case wall => exact fun c a n w s hn hlen => wall_pass_iff_bytes hn hlen

end Sys2Proof.Machine
end

section
/-! SUPPORT. Challenge and commit (12 R330 to R334): what a draw gives, and the result that a commit leaves. -/

namespace Sys2Proof.Machine

/-! ## The escape bound (R334) -/

theorem escapeOf_le (t n m : Nat) : escapeOf t n m ≤ 65535 := by
  unfold escapeOf
  split
  · exact Nat.zero_le _
  · exact Nat.min_le_left ..

theorem foldl_max_le {b : Nat} {l : List Nat} (hl : ∀ x ∈ l, x ≤ b) {a : Nat} (ha : a ≤ b) : l.foldl max a ≤ b := by
  induction l generalizing a with
  | nil => exact ha
  | cons x l ih =>
    obtain ⟨hx, hl⟩ := List.forall_mem_cons.mp hl
    exact ih hl (Nat.max_le.mpr ⟨ha, hx⟩)

theorem escape_le (s : State) (ch k : Nat) : s.escape ch k ≤ 65535 := by
  unfold State.escape
  refine foldl_max_le (fun x hx => ?_) (Nat.zero_le _)
  obtain ⟨w, -, rfl⟩ := List.mem_map.mp hx
  exact escapeOf_le ..

theorem escape_of_untiled {s : State} {ch : Nat} (h : s.tiled ch = []) (k : Nat) : s.escape ch k = 0 := by
  unfold State.escape
  rw [h]
  rfl

/-! ## Draws without replacement (R331) -/

theorem getN_mem {α : Type} [Inhabited α] {l : List α} {i : Nat} (h : i < l.length) : getN l i ∈ l := by
  unfold getN
  rw [← List.getElem_eq_getD (h := h) default]
  exact List.getElem_mem h

/-- What remains once an entry is drawn does not hold it. -/
theorem getN_notMem_eraseIdx {l : List Nat} (hl : l.Nodup) {i : Nat} (h : i < l.length) : getN l i ∉ l.eraseIdx i := by
  unfold getN
  rw [← List.getElem_eq_getD (h := h) default, ← hl.erase_getElem i h]
  exact hl.not_mem_erase

/-- The entries drawn are distinct entries of the list, as many as asked. -/
theorem pick_spec {n : Nat} {l : List Nat} (hl : l.Nodup) (hn : n ≤ l.length) (s : State) :
    let x := (State.pick n l s).1
    x.Nodup ∧ x.length = n ∧ ∀ i ∈ x, i ∈ l := by
  induction n generalizing l s with
  | zero => exact ⟨List.nodup_nil, rfl, fun _ h => absurd h List.not_mem_nil⟩
  | succ n ih =>
    have hpos : 0 < l.length := by omega
    have hi : s.draw.1 % l.length < l.length := Nat.mod_lt _ hpos
    obtain ⟨hnodup, hlen, hmem⟩ := ih (hl.sublist (List.eraseIdx_sublist ..)) (l := l.eraseIdx (s.draw.1 % l.length))
      (by rw [List.length_eraseIdx_of_lt hi]; omega) s.draw.2
    have hstep : (State.pick (n + 1) l s).1 =
        getN l (s.draw.1 % l.length) :: (State.pick n (l.eraseIdx (s.draw.1 % l.length)) s.draw.2).1 := by
      rw [State.pick, if_neg (by simpa using List.ne_nil_of_length_pos hpos)]
    dsimp only
    rw [hstep]
    refine ⟨List.nodup_cons.mpr ⟨fun h => getN_notMem_eraseIdx hl hi (hmem _ h), hnodup⟩, congrArg (· + 1) hlen, ?_⟩
    refine List.forall_mem_cons.mpr ⟨getN_mem hi, fun i h => List.mem_of_mem_eraseIdx (hmem i h)⟩

theorem ceilDiv_two_pow_le (n k : Nat) : ceilDiv n (2 ^ k) ≤ n := by
  unfold ceilDiv
  obtain ⟨p, hp⟩ := Nat.exists_eq_add_one.mpr (Nat.two_pow_pos k)
  rw [hp]
  cases n with
  | zero => exact (Nat.div_eq_of_lt (by omega)).le
  | succ n =>
    refine Nat.div_le_of_le_mul ?_
    have hpn : 0 ≤ p * n := Nat.zero_le _
    rw [Nat.add_one_mul, Nat.mul_add_one]
    omega

/-- The tiles of a draw: of each tiled point, as many as its sample asks, each once. -/
def DrawnFor (t k : Nat) (l : List WitRec) (x : List (Nat × List Nat)) : Prop :=
  x.map (·.1) = l.map (·.point) ∧
    ∀ p ∈ x, p.2.Nodup ∧ ∃ w ∈ l, w.point = p.1 ∧ p.2.length = w.sample t k ∧ ∀ i ∈ p.2, i < w.tiles t

theorem drawTiles_drawn (t k : Nat) (l : List WitRec) (s : State) : DrawnFor t k l (State.drawTiles t k l s).1 := by
  induction l generalizing s with
  | nil => exact ⟨rfl, fun _ h => absurd h List.not_mem_nil⟩
  | cons w l ih =>
    obtain ⟨hnodup, hlen, hmem⟩ := pick_spec (n := w.sample t k) (List.nodup_range (n := w.tiles t))
      (by rw [List.length_range]; exact ceilDiv_two_pow_le ..) s
    obtain ⟨hpoints, hdrawn⟩ := ih (State.pick (w.sample t k) (List.range (w.tiles t)) s).2
    refine ⟨congrArg (w.point :: ·) hpoints, List.forall_mem_cons.mpr ⟨?_, fun p hp => ?_⟩⟩
    · exact ⟨hnodup, w, List.mem_cons_self, rfl, hlen, fun i hi => List.mem_range.mp (hmem i hi)⟩
    · obtain ⟨hp, w', hw', hrest⟩ := hdrawn p hp
      exact ⟨hp, w', List.mem_cons_of_mem _ hw', hrest⟩

theorem tiled_of_cfg {s u : State} (h : s.cfg = u.cfg) (ch : Nat) : s.tiled ch = u.tiled ch :=
  congrArg (fun c => State.tiled ch { s with cfg := c }) h

/-- A challenge changes the drawn tiles and the exponent alone; the exponent rises as far as the estimate asks (R332). -/
theorem challenge_spec (r : Result) (t n k : Nat) (s : State) :
    ∃ tiles e, (State.challenge r t n k s).1 = { r with tiles := tiles, k := e } ∧ k ≤ e ∧ e ≤ k + n ∧ DrawnFor t e (s.tiled r.ch) tiles := by
  induction n generalizing k s with
  | zero => exact ⟨_, k, rfl, le_rfl, le_rfl, drawTiles_drawn ..⟩
  | succ n ih =>
    unfold State.challenge
    dsimp only
    split
    · obtain ⟨tiles, e, heq, hlo, hhi, hdrawn⟩ := ih (k + 1) (s.drawTiles t k (s.tiled r.ch)).2
      have htiled : (s.drawTiles t k (s.tiled r.ch)).2.tiled r.ch = s.tiled r.ch :=
        tiled_of_cfg ((State.drawTiles_snd (Moves.refl _ s) (List.Subset.refl _)).same .cfg (by decide)) r.ch
      rw [htiled] at hdrawn
      exact ⟨tiles, e, heq, by omega, by omega, hdrawn⟩
    · exact ⟨_, k, rfl, le_rfl, by omega, drawTiles_drawn ..⟩

/-! ## The commit (R330, R332) -/

@[simp] theorem isResult_self (r : Result) : r.is r.q r.seq = true := by
  unfold Result.is
  simp only [beq_self_eq_true, Bool.and_self]

theorem onResult_results (q seq : Nat) (f : Result → Result) (s : State) :
    (s.onResult q seq f).vrd.results = s.vrd.results.map fun z => if z.is q seq then f z else z := rfl

@[simp] theorem onResult_borrows (q seq : Nat) (f : Result → Result) (s : State) : (s.onResult q seq f).borrows = s.borrows := rfl

@[simp] theorem onResult_aud (q seq : Nat) (f : Result → Result) (s : State) : (s.onResult q seq f).aud = s.aud := rfl

theorem borrows_of {s u : State} (hcfg : s.cfg = u.cfg) (hxwl : s.xwl = u.xwl) : s.borrows = u.borrows :=
  congrArg₂ (fun c x => State.borrows { s with cfg := c, xwl := x }) hcfg hxwl

theorem escape_of_cfg {s u : State} (h : s.cfg = u.cfg) (ch k : Nat) : s.escape ch k = u.escape ch k :=
  congrArg (fun c => State.escape ch k { s with cfg := c }) h

theorem issueJob_number (kind : JobKind) (owner seq cls : Nat) (descs : List Desc) (poses : List Nat) (s : State) :
    (s.issueJob kind owner seq cls descs poses).1 = s.aud.nextJob := rfl

@[simp] theorem issueJob_vrd (kind : JobKind) (owner seq cls : Nat) (descs : List Desc) (poses : List Nat) (s : State) :
    (s.issueJob kind owner seq cls descs poses).2.vrd = s.vrd :=
  (State.issueJob_snd (Moves.refl _ s) (List.Subset.refl _)).same .vrd (by decide)

/-- Of a node that does not borrow the audit job is issued to its own cores, and the result takes its challenge and its job's number. -/
theorem startAudit_results {r : Result} {s : State} (h : s.borrows = false) :
    let a := s.audRec r
    let x := (State.challenge r a.tileLog2 (a.log2fFloor - a.log2f) a.log2f s).1
    (s.startAudit r).vrd.results = s.vrd.results.map fun z => if z.is r.q r.seq then
      { x with escape := s.escape r.ch x.k, reduced := decide (a.log2f < x.k), auditJob := some s.aud.nextJob } else z := by
  dsimp only
  obtain ⟨tiles, e, heq, -⟩ := challenge_spec r (s.audRec r).tileLog2 ((s.audRec r).log2fFloor - (s.audRec r).log2f) (s.audRec r).log2f s
  have hdraw := State.challenge_snd (r := r) (t := (s.audRec r).tileLog2) (n := (s.audRec r).log2fFloor - (s.audRec r).log2f)
    (k := (s.audRec r).log2f) (Moves.refl _ s) (List.Subset.refl _)
  unfold State.startAudit
  dsimp only
  revert heq hdraw
  generalize State.challenge r (s.audRec r).tileLog2 ((s.audRec r).log2fFloor - (s.audRec r).log2f) (s.audRec r).log2f s = d
  obtain ⟨x, u⟩ := d
  intro heq hdraw
  dsimp only at heq hdraw ⊢
  have hcfg : u.cfg = s.cfg := hdraw.same .cfg (by decide)
  have hxwl : u.xwl = s.xwl := hdraw.same .xwl (by decide)
  have haud : u.aud = s.aud := hdraw.same .aud (by decide)
  have hvrd : u.vrd = s.vrd := hdraw.same .vrd (by decide)
  rw [if_neg fun hlent => absurd hlent.1 (by rw [onResult_borrows, borrows_of hcfg hxwl, h]; decide), issueJob_number, onResult_results,
    issueJob_vrd, onResult_aud, haud, onResult_results, List.map_map, hvrd, escape_of_cfg hcfg, heq]
  refine List.map_congr_left fun z _ => ?_
  simp only [Function.comp_apply]
  by_cases hz : z.is r.q r.seq = true
  · rw [if_pos hz, if_pos hz]
    exact if_pos (isResult_self r)
  · rw [if_neg hz, if_neg hz, if_neg hz]

/-- Settles O41, by the draw's specification and the results that a started audit leaves. -/
theorem challengesAreDrawnAfterCommit : Obligations.ChallengesAreDrawnAfterCommit := by
  unfold Obligations.ChallengesAreDrawnAfterCommit
  refine ⟨?commit, ?crc, ?challenge, ?audit, ?escape⟩
  case commit =>
    intro t q r s hr
    rw [exec_resultCommit]
    unfold execResultCommit finish State.with
    dsimp only
    rw [at_vrd, hr]
  case crc =>
    intro r s
    unfold State.crcFail
    simp only [Option.map_eq_none_iff, List.find?_eq_none, bne_iff_ne, ne_eq, not_not]
  case challenge =>
    intro r t n k s
    obtain ⟨tiles, e, heq, hlo, hhi, hpoints, hdrawn⟩ := challenge_spec r t n k s
    dsimp only
    rw [heq]
    exact ⟨hlo, hhi, hpoints, hdrawn⟩
  case audit => exact fun r s h => startAudit_results h
  case escape => exact fun ch k s => ⟨escape_le .., fun h => escape_of_untiled h k⟩

end Sys2Proof.Machine
end

section
/-! SUPPORT. Verdicts (12 R337 to R349, 16 R462): the order of the decision's tests, what an issue leaves of the queue, the results, the
locks and the records, and how a query is answered. -/

namespace Sys2Proof.Machine

/-! ## The decision (R338) -/

theorem verdictNow_of_voidAll {s : State} {c : Nat} (h : s.voidAll = some c) (r : Result) : s.verdictNow r = some (vVoid, c) := by
  unfold State.verdictNow
  rw [h]

/-- REJECT evidence comes before every other test but the companion's own failure. -/
theorem verdictNow_of_rejectOf {s : State} {r : Result} {c : Nat} (hvoid : s.voidAll = none) (h : s.rejectOf r = some c) :
    s.verdictNow r = some (vReject, c) := by
  unfold State.verdictNow
  rw [hvoid]
  dsimp only
  rw [h]

/-- From the deadline on a verdict is due, and it is VOID, REJECT or LATE. -/
theorem verdictNow_of_deadline {s : State} {r : Result} (h : r.deadline ≤ s.dev) :
    ∃ v c, s.verdictNow r = some (v, c) ∧ (v = vVoid ∨ v = vReject ∨ v = vLate) := by
  cases hvoid : s.voidAll with
  | some c => exact ⟨_, _, verdictNow_of_voidAll hvoid r, .inl rfl⟩
  | none =>
    cases hreject : s.rejectOf r with
    | some c => exact ⟨_, _, verdictNow_of_rejectOf hvoid hreject, .inr (.inl rfl)⟩
    | none =>
      unfold State.verdictNow
      rw [hvoid, hreject]
      dsimp only
      cases r.expired with
      | some st => exact ⟨_, _, rfl, .inr (.inr rfl)⟩
      | none => exact ⟨_, _, if_pos h, .inr (.inr rfl)⟩

/-- BELIEVE passes every test. -/
theorem verdictNow_believe {s : State} {r : Result} {n : Nat} (h : s.verdictNow r = some (vBelieve, n)) :
    n = 0 ∧ s.voidAll = none ∧ s.rejectOf r = none ∧ r.expired = none ∧ s.dev < r.deadline ∧ s.linesOpen r = false ∧
      s.failedOf r = none ∧ s.doubtOf r = none := by
  have hother {v c : Nat} (hv : v ≠ vBelieve) : ¬(some (v, c) = some (vBelieve, n)) := fun e => hv (by injection e with e; injection e)
  unfold State.verdictNow at h
  split at h
  · exact absurd h (hother (by decide))
  · next hvoid =>
    split at h
    · exact absurd h (hother (by decide))
    · next hreject =>
      split at h
      · exact absurd h (hother (by decide))
      · next hexpired =>
        split at h
        · exact absurd h (hother (by decide))
        · next hdeadline =>
          split at h
          · exact absurd h (by simp)
          · next hlines =>
            split at h
            · exact absurd h (hother (by decide))
            · next hfailed =>
              split at h
              · exact absurd h (hother (by decide))
              · next hdoubt =>
                injection h with h
                injection h with _ hn
                exact ⟨hn.symm, hvoid, hreject, hexpired, Nat.not_le.mp hdeadline, Bool.eq_false_iff.mpr hlines, hfailed, hdoubt⟩

/-! ## Registers of a queue -/

/-- A change that keeps a view of every entry keeps that view of a register file's entry. -/
theorem getN_modN_view {α β : Type} [Inhabited α] {g : α → β} {f : α → α} (h : ∀ x, g (f x) = g x) (l : List α) (i j : Nat) :
    g (getN (modN l i f) j) = g (getN l j) := by
  obtain rfl | hne := eq_or_ne j i
  · obtain hlen | hlen := Nat.lt_or_ge j l.length
    · rw [getN_modN_self _ _ _ hlen, h]
    · rw [modN_of_length_le hlen]
  · rw [getN_modN_ne _ _ _ _ hne]

@[simp] theorem settle_vq (q : Nat) (s : State) : (settle s).vq q = s.vq q := rfl

@[simp] theorem at_vq (t q : Nat) (s : State) : (s.at t).vq q = s.vq q := by
  simp only [State.vq, at_vrd]

@[simp] theorem at_resultOf (t q seq : Nat) (s : State) : (s.at t).resultOf q seq = s.resultOf q seq := by
  simp only [State.resultOf, at_vrd]

theorem State.shaped.vq_exists {s : State} (hs : s.shaped) {q : Nat} (hq : q < 64) : q < s.vrd.queues.length := by
  rw [hs.vrd]
  exact hq

theorem vq_of_vrd {s u : State} (h : s.vrd = u.vrd) (q : Nat) : s.vq q = u.vq q := congrArg (fun v : Vrd => getN v.queues q) h

theorem vq_onVq_self {q : Nat} {s : State} (h : q < s.vrd.queues.length) (f : VrdQ → VrdQ) : (s.onVq q f).vq q = f (s.vq q) :=
  getN_modN_self _ _ _ h

@[simp] theorem onVq_results (q : Nat) (f : VrdQ → VrdQ) (s : State) : (s.onVq q f).vrd.results = s.vrd.results := rfl
@[simp] theorem onVq_tokens (q : Nat) (f : VrdQ → VrdQ) (s : State) : (s.onVq q f).vrd.tokens = s.vrd.tokens := rfl

@[simp] theorem onVq_queues_length (q : Nat) (f : VrdQ → VrdQ) (s : State) : (s.onVq q f).vrd.queues.length = s.vrd.queues.length :=
  modN_length ..

/-! ## Escalation (R342) -/

section Escalate
variable (r : Result) (verdict : Nat) (s : State)

theorem escalate_of_accepted {verdict : Nat} (h : verdict = vBelieve ∨ verdict = vDoubt) :
    s.escalate r verdict = s.onVq r.q fun x => { x with esc := 0 } := if_pos h

theorem escalate_of_other {verdict : Nat} (hgood : ¬(verdict = vBelieve ∨ verdict = vDoubt)) (h : verdict ≠ vReject) :
    s.escalate r verdict = s := (if_neg hgood).trans (if_neg h)

/-- The REJECT that makes the count ESC_COUNT trips; an earlier one is counted. -/
theorem escalate_reject :
    s.escalate r vReject =
      if (s.audRec r).escCount ≤ (s.vq r.q).esc + 1 then
        ((s.onVq r.q fun x => { x with esc := 0 }).onVrd fun v => { v with events := v.events ||| 8 }).spTrip 0x09 false
      else s.onVq r.q fun x => { x with esc := (s.vq r.q).esc + 1 } :=
  (if_neg (by decide)).trans (if_pos rfl)

/-- Of the verdict unit an escalation changes the counts and the event bits. -/
theorem escalate_vrd : (s.escalate r verdict).vrd.results = s.vrd.results ∧ (s.escalate r verdict).vrd.tokens = s.vrd.tokens ∧
    ∀ q, ((s.escalate r verdict).vq q).win = (s.vq q).win := by
  have hcount (n : Nat) (q : Nat) : ((s.onVq r.q fun x => { x with esc := n }).vq q).win = (s.vq q).win :=
    getN_modN_view (g := VrdQ.win) (f := fun x => { x with esc := n }) (fun _ => rfl) ..
  by_cases hgood : verdict = vBelieve ∨ verdict = vDoubt
  · rw [escalate_of_accepted r s hgood]
    exact ⟨rfl, rfl, hcount 0⟩
  · by_cases hreject : verdict = vReject
    · rw [hreject, escalate_reject]
      split
      · exact ⟨rfl, rfl, hcount 0⟩
      · exact ⟨rfl, rfl, hcount _⟩
    · rw [escalate_of_other r s hgood hreject]
      exact ⟨rfl, rfl, fun _ => rfl⟩

end Escalate

/-! ## The retained serial numbers -/

/-- The numbers of the next forensic record and of the last token. -/
def Ret.serials (r : Ret) : Nat × Nat := (r.frNext, r.token)

theorem serials_of_sansLog {r q : Ret} (h : r.sansLog = q.sansLog) : r.serials = q.serials :=
  (congrArg Ret.serials h : r.sansLog.serials = q.sansLog.serials)

theorem State.cqWrite_serials (q : Nat) (entry : Bytes) (s : State) : (s.cqWrite q entry).ret.serials = s.ret.serials :=
  congrArg Ret.serials ((State.cqWrite_moves q entry (Moves.refl _ s) (List.Subset.refl _)).same .ret (by decide))

theorem State.jClose_serials (kind owner seq : Nat) (s : State) : (s.jClose kind owner seq).ret.serials = s.ret.serials := rfl

theorem State.cqDrainN_serials (n q : Nat) (s : State) : (s.cqDrainN n q).ret.serials = s.ret.serials := by
  induction n generalizing s with
  | zero => rfl
  | succ n ih =>
    unfold State.cqDrainN
    split
    · rfl
    · split
      · rfl
      · split
        · rfl
        · rw [ih]
          split
          · rw [State.jClose_serials]
            split
            · exact State.cqWrite_serials ..
            · rfl
          · split
            · exact State.cqWrite_serials ..
            · rfl

theorem State.cqPost_serials (q : Nat) (entry : Bytes) (s : State) : (s.cqPost q entry).ret.serials = s.ret.serials :=
  State.cqDrainN_serials ..

theorem State.latency_serials (source subject ns : Nat) (s : State) : (s.latency source subject ns).ret.serials = s.ret.serials := by
  refine State.each_keeps (view := fun s => s.ret.serials) (fun r u => ?_) _ _
  split
  · unfold State.sample
    dsimp only
    split
    · exact serials_of_sansLog (State.ev_sansLog ..)
    · rfl
  · rfl

/-! ## The issue (R343, R349) -/

/-- The window slot that an issue writes. -/
def Result.slot (r : Result) (verdict flags reason : Nat) (token : Bool) : Win :=
  { seq := r.seq, issued := true, verdict := verdict, flags := flags, reason := reason, escape := r.escape, token := token }

/-- The queue's registers with the slot written and the verdict counted. -/
def VrdQ.issued (k verdict : Nat) (w : Win) (x : VrdQ) : VrdQ :=
  { x with win := (k, w) :: x.win.filter (·.1 != k), counts := modN x.counts (verdict - 1) satInc }

/-- The part of an issue up to the forensic record: journal, completion, record. -/
def State.issueRecord (r : Result) (f : JEntry → JEntry) (entry data : Bytes) (s : State) : State :=
  (((s.jMod jResult r.q r.seq f).cqPost r.q entry).frPut data).jClose jResult r.q r.seq

/-- The end of an issue: the result leaves, its locks and jobs with it, and its times are sampled. -/
def State.issueEnd (r : Result) (verdict bits a b : Nat) (s : State) : State :=
  ((((((s.onVrd fun v => { v with results := v.results.filter fun x => !x.is r.q r.seq, events := v.events ||| bits }).unlock
    r.q r.seq).escalate r verdict).cancelJobs r).latency 0x01 r.ch a).latency 0x02 r.ch b)

/-- An issue in its three parts. -/
theorem issue_eq (r : Result) (verdict reason : Nat) (s : State) :
    ∃ f g flags entry data bits a b, s.issue r verdict reason =
      let x := (s.jMod jResult r.q r.seq f).issueToken r verdict
      ((x.2.onVq r.q (VrdQ.issued (r.seq % 256) verdict (r.slot verdict flags reason (decide (x.1 ≠ 0))))).issueRecord r g entry data).issueEnd
        r verdict bits a b :=
  ⟨_, _, _, _, _, _, _, _, rfl⟩

/-- A token is issued for a BELIEVE in a state that permits torque alone (R343). -/
theorem issueToken_of_not {r : Result} {verdict : Nat} {s : State} (h : verdict ≠ vBelieve ∨ s.sys.state.permits = false) :
    s.issueToken r verdict = (0, s) :=
  if_neg fun ⟨hverdict, _, hpermits, _⟩ => h.elim (fun hne => hne hverdict) fun hno => absurd hpermits (Bool.eq_false_iff.mp hno)

/-- A token changes neither the results nor the queues, nor the number of the next record. -/
theorem issueToken_keeps (r : Result) (verdict : Nat) (s : State) :
    let u := (s.issueToken r verdict).2
    u.vrd.results = s.vrd.results ∧ u.vrd.queues = s.vrd.queues ∧ u.ret.frNext = s.ret.frNext := by
  unfold State.issueToken
  dsimp only
  split
  · split <;> exact ⟨rfl, rfl, rfl⟩
  · exact ⟨rfl, rfl, rfl⟩

section Issue
variable (r : Result) (verdict : Nat) (s : State)

theorem issueRecord_same {p : Part} (hp : p ∉ [Part.hq, Part.ret]) (f : JEntry → JEntry) (entry data : Bytes) :
    p.Same s (s.issueRecord r f entry data) := by
  unfold State.issueRecord
  refine (State.jClose_moves _ _ _ (State.frPut_moves _ (State.cqPost_moves _ _ (State.jMod_moves _ _ _ _ (Moves.refl _ s) ?_)
    (List.Subset.refl _)) ?_) ?_).same p hp
  all_goals decide

theorem issueRecord_serials (f : JEntry → JEntry) (entry data : Bytes) :
    (s.issueRecord r f entry data).ret.serials = (serialNext s.ret.frNext, s.ret.token) := by
  have hpost : ((s.jMod jResult r.q r.seq f).cqPost r.q entry).ret.serials = s.ret.serials := State.cqPost_serials ..
  unfold Ret.serials at hpost
  injection hpost with hnext htoken
  exact Prod.ext (congrArg serialNext hnext) htoken

/-- What the end of an issue leaves of the verdict unit, the locks and the retained numbers. -/
theorem issueEnd_leaves (bits a b : Nat) :
    let v := s.issueEnd r verdict bits a b
    v.vrd.results = s.vrd.results.filter (fun x => !x.is r.q r.seq) ∧ v.vrd.tokens = s.vrd.tokens ∧
      (∀ q, (v.vq q).win = (s.vq q).win) ∧
      v.fwl.locks = s.fwl.locks.filter (fun l => !(l.q == r.q && l.seq == r.seq)) ∧ v.ret.serials = s.ret.serials := by
  unfold State.issueEnd
  dsimp only
  generalize hu : ((s.onVrd fun v =>
    { v with results := v.results.filter fun x => !x.is r.q r.seq, events := v.events ||| bits }).unlock r.q r.seq) = u
  obtain ⟨hresults, htokens, hwin⟩ := escalate_vrd r verdict u
  have hafter : Moves [.aud, .mon, .log, .ret] (u.escalate r verdict)
      ((((u.escalate r verdict).cancelJobs r).latency 0x01 r.ch a).latency 0x02 r.ch b) :=
    State.latency_moves _ _ _ (State.latency_moves _ _ _ (State.cancelJobs_moves _ (Moves.refl _ _) (by decide)) (by decide)) (by decide)
  have hescalate := State.escalate_moves r verdict (Moves.refl _ u) (List.Subset.refl _)
  have hvrd : _ = (u.escalate r verdict).vrd := hafter.same .vrd (by decide)
  have hfwl : _ = u.fwl := Eq.trans (hafter.same .fwl (by decide)) (hescalate.same .fwl (by decide))
  have hserials : ((u.escalate r verdict).cancelJobs r).ret.serials = u.ret.serials := congrArg Ret.serials
    (Eq.trans ((State.cancelJobs_moves r (Moves.refl _ _) (List.Subset.refl _)).same .ret (by decide)) (hescalate.same .ret (by decide)))
  rw [State.latency_serials, State.latency_serials, hserials, hfwl, hvrd, hresults, htokens]
  refine ⟨?_, ?_, fun q => ?_, ?_, ?_⟩
  · rw [← hu]; rfl
  · rw [← hu]; rfl
  · rw [vq_of_vrd hvrd, hwin, ← hu]; rfl
  · rw [← hu]; rfl
  · rw [← hu]; rfl

/-- An issue writes the window slot, deletes the result, releases its locks and numbers a record; a token needs BELIEVE (R343, R349). -/
theorem issue_leaves (hs : s.shaped) (hq : r.q < 64) (reason : Nat) :
    let v := s.issue r verdict reason
    (∃ w : Win, (v.vq r.q).win.find? (·.1 == r.seq % 256) = some (r.seq % 256, w) ∧ w.seq = r.seq ∧ w.issued = true ∧
        w.verdict = verdict ∧ w.reason = reason ∧ w.escape = r.escape ∧ w.answered = false) ∧
      v.vrd.results = s.vrd.results.filter (fun x => !x.is r.q r.seq) ∧
      (∀ l ∈ v.fwl.locks, ¬(l.q = r.q ∧ l.seq = r.seq)) ∧ v.ret.frNext = serialNext s.ret.frNext ∧
      (verdict ≠ vBelieve ∨ s.sys.state.permits = false → v.vrd.tokens = s.vrd.tokens ∧ v.ret.token = s.ret.token) := by
  obtain ⟨f, g, flags, entry, data, bits, a, b, heq⟩ := issue_eq r verdict reason s
  dsimp only at heq ⊢
  obtain ⟨hresults, hqueues, hnext⟩ := issueToken_keeps r verdict (s.jMod jResult r.q r.seq f)
  have htoken : verdict ≠ vBelieve ∨ s.sys.state.permits = false →
      (s.jMod jResult r.q r.seq f).issueToken r verdict = (0, s.jMod jResult r.q r.seq f) := fun h => issueToken_of_not h
  generalize (s.jMod jResult r.q r.seq f).issueToken r verdict = x at heq hresults hqueues hnext htoken
  have hqueue : r.q < x.2.vrd.queues.length := by
    rw [hqueues]
    exact hs.vq_exists hq
  generalize hu : x.2.onVq r.q (VrdQ.issued (r.seq % 256) verdict (r.slot verdict flags reason (decide (x.1 ≠ 0)))) = u at heq
  have hrecord : (u.issueRecord r g entry data).vrd = u.vrd := issueRecord_same r u (p := .vrd) (by decide) ..
  obtain ⟨hres, htok, hwin, hlocks, hser⟩ := issueEnd_leaves r verdict (u.issueRecord r g entry data) bits a b
  rw [issueRecord_serials] at hser
  injection hser with hser hsertok
  rw [heq, hres, htok, hlocks, hwin, hrecord, vq_of_vrd hrecord]
  refine ⟨⟨r.slot verdict flags reason (decide (x.1 ≠ 0)), ?_, rfl, rfl, rfl, rfl, rfl, rfl⟩, ?_, fun l hl hmine => ?_, ?_,
    fun hno => ⟨?_, ?_⟩⟩
  · rw [← hu, vq_onVq_self hqueue]
    exact List.find?_cons_of_pos (beq_self_eq_true _)
  · rw [← hu, onVq_results, hresults]
    rfl
  · have hkept := (List.mem_filter.mp hl).2
    simp only [hmine, beq_self_eq_true, Bool.and_self, Bool.not_true, Bool.false_eq_true] at hkept
  · rw [hser, ← hu]
    exact congrArg serialNext hnext
  · rw [← hu, onVq_tokens, htoken hno]
    rfl
  · rw [hsertok, ← hu, htoken hno]
    rfl

end Issue

theorem escalate_counts (r : Result) {s : State} (hs : s.shaped) (hq : r.q < 64) :
    (((s.escalate r vBelieve).vq r.q).esc = 0 ∧ ((s.escalate r vDoubt).vq r.q).esc = 0) ∧
      s.escalate r vLate = s ∧ s.escalate r vVoid = s ∧
      let n := (s.vq r.q).esc + 1
      if (s.audRec r).escCount ≤ n then
        ((s.escalate r vReject).vq r.q).esc = 0 ∧
          (s.escalate r vReject).sys.pendTrips = s.sys.pendTrips ++ [{ src := 0x09, sto := false }]
      else ((s.escalate r vReject).vq r.q).esc = n ∧ (s.escalate r vReject).sys = s.sys := by
  have hset (n : Nat) : ((s.onVq r.q fun x => { x with esc := n }).vq r.q).esc = n :=
    congrArg VrdQ.esc (vq_onVq_self (hs.vq_exists hq) _)
  refine ⟨⟨?_, ?_⟩, escalate_of_other r s (by decide) (by decide), escalate_of_other r s (by decide) (by decide), ?_⟩
  · rw [escalate_of_accepted r s (.inl rfl)]
    exact hset 0
  · rw [escalate_of_accepted r s (.inr rfl)]
    exact hset 0
  · dsimp only
    rw [escalate_reject]
    split
    · exact ⟨hset 0, rfl⟩
    · exact ⟨hset _, rfl⟩

/-! ## Queries (R346, R347, R352) -/

section Answers
variable {v : VrdQ} {seq k : Nat} {w : Win}

theorem answer_of_slot (h : v.win.find? (·.1 == seq % 256) = some (k, w)) (hw : w.seq = seq) :
    let a := v.answer seq
    a.seq = seq ∧ a.acc = true ∧ a.verdict = (if w.issued then w.verdict else 0) ∧ a.first = (w.issued && !w.answered) := by
  unfold VrdQ.answer
  rw [h]
  dsimp only [Option.map_some]
  rw [if_pos hw]
  cases w.issued with
  | false => exact ⟨rfl, rfl, rfl, rfl⟩
  | true => exact ⟨rfl, rfl, rfl, rfl⟩

theorem beyond_eq_false (hseq : seq ≠ 0) (hnewest : v.newest ≠ 0) (h : serialAbove seq v.newest = false) :
    (decide (seq = 0) || v.newest == 0 || serialAbove seq v.newest) = false := by
  rw [h, decide_eq_false hseq, beq_false_of_ne hnewest]
  rfl

/-- A slot that a later result took answers UNKNOWN with that result's sequence (R347). -/
theorem answer_of_overwritten (h : v.win.find? (·.1 == seq % 256) = some (k, w)) (hw : w.seq ≠ seq) (hseq : seq ≠ 0)
    (hnewest : v.newest ≠ 0) (habove : serialAbove seq v.newest = false) :
    (v.answer seq).verdict = 6 ∧ (v.answer seq).seq = w.seq ∧ (v.answer seq).first = false ∧ (v.answer seq).acc = true := by
  unfold VrdQ.answer
  rw [h]
  dsimp only [Option.map_some]
  rw [if_neg hw, beyond_eq_false hseq hnewest habove]
  exact ⟨rfl, rfl, rfl, rfl⟩

theorem answer_of_empty (h : v.win.find? (·.1 == seq % 256) = none) (hseq : seq ≠ 0) (hnewest : v.newest ≠ 0)
    (habove : serialAbove seq v.newest = false) :
    (v.answer seq).verdict = 6 ∧ (v.answer seq).seq = 0 ∧ (v.answer seq).acc = true := by
  unfold VrdQ.answer
  rw [h]
  dsimp only [Option.map_none]
  rw [beyond_eq_false hseq hnewest habove]
  exact ⟨rfl, rfl, rfl⟩

/-- A sequence that was not accepted yet has no verdict. -/
theorem answer_of_beyond (hbeyond : seq = 0 ∨ serialAbove seq v.newest = true)
    (hno : ∀ k w, v.win.find? (·.1 == seq % 256) = some (k, w) → w.seq ≠ seq) :
    (v.answer seq).verdict = 0 ∧ (v.answer seq).seq = seq ∧ (v.answer seq).acc = false := by
  have hb : (decide (seq = 0) || v.newest == 0 || serialAbove seq v.newest) = true := by
    obtain h | h := hbeyond
    · rw [decide_eq_true h, Bool.true_or, Bool.true_or]
    · rw [h, Bool.or_true]
  unfold VrdQ.answer
  cases hslot : v.win.find? (·.1 == seq % 256) with
  | none =>
    dsimp only [Option.map_none]
    rw [hb]
    exact ⟨rfl, rfl, rfl⟩
  | some p =>
    dsimp only [Option.map_some]
    rw [if_neg (hno p.1 p.2 hslot), hb]
    exact ⟨rfl, rfl, rfl⟩

end Answers

/-- The fields of a verdict word stand at their places (Table 12.7). -/
theorem verdictWord_fields (verdict flags escape : Nat) (first acc : Bool) :
    let x := fld verdict 0 3 + flg first 3 + flg acc 4 + fld flags 5 5 + fld escape 16 16
    bits x 0 3 = verdict % 8 ∧ bit x 3 = first ∧ bit x 4 = acc := by
  unfold fld flg bits bit b2n
  simp only [Nat.testBit_eq_decide_div_mod_eq]
  cases first <;> cases acc <;> simp <;> omega

/-- The registers of a queue after a query that finds its slot whole: the answer is latched, and the verdict marked as answered. -/
def VrdQ.queried (n : Nat) (v : VrdQ) : VrdQ :=
  let a := v.answer n
  { v with
    ansQ := n
    ansSeq := a.seq
    ansVer := fld a.verdict 0 3 + flg a.first 3 + flg a.acc 4 + fld a.win.flags 5 5 + fld a.win.escape 16 16
    ansReason := fld a.win.reason 0 16 + flg a.win.token 16
    win := v.win.map fun w => if w.2.seq = n ∧ w.2.issued then (w.1, { w.2 with answered := true }) else w }

/-- Whatever the open fields hold, the verdict is VOID. -/
theorem lostVerdict_code (x y : Nat) : bits (vVoid + fld x 3 7 + fld y 16 16) 0 3 = vVoid := by
  unfold bits fld vVoid
  omega

/-- Whatever the open fields hold, the reason is INTERNAL. -/
theorem lostReason_code (x : Nat) : bits (0x30 + fld x 16 1) 0 16 = 0x30 := by
  unfold bits fld
  omega

theorem loseSlot_lost (seq : Nat) (v : VrdQ) : (v.loseSlot seq).win.any (fun w => w.1 == seq % 256 && w.2.lost) = true := by
  unfold VrdQ.loseSlot
  dsimp only
  rw [List.any_cons, beq_self_eq_true]
  rfl

section Query
variable {t q seq : Nat} {s : State} (hs : s.shaped) (hq : q < 64) (hup : (s.at t).regsUp = true) (hseq : seq < 2 ^ 32)

include hq hup hseq in
theorem exec_vrdQuery_whole (hlost : (s.vq q).win.any (fun w => w.1 == seq % 256 && w.2.lost) = false) :
    exec (.vrdQuery t q { seq := seq }) s = .next (settle ((s.at t).onVq q (VrdQ.queried seq))) := by
  rw [exec_vrdQuery]
  unfold execVrdQuery finish
  dsimp only
  rw [if_neg (not_or.mpr ⟨by rw [hup]; decide, Nat.not_le.mpr hq⟩), Nat.mod_eq_of_lt hseq,
    if_neg (c := false = true) (by decide), if_neg (by rw [at_vq, hlost]; decide)]
  rfl

include hs hq hup hseq

theorem exec_vrdQuery_lost :
    exec (.vrdQuery t q { seq := seq, ecc := true }) s = .next (settle (((s.at t).onVq q (VrdQ.loseSlot seq)).lostAnswer q seq)) := by
  rw [exec_vrdQuery]
  unfold execVrdQuery finish
  dsimp only
  rw [if_neg (not_or.mpr ⟨by rw [hup]; decide, Nat.not_le.mpr hq⟩), Nat.mod_eq_of_lt hseq, if_pos (c := true = true) rfl,
    if_pos (by rw [vq_onVq_self ((at_shaped t hs).vq_exists hq)]; exact loseSlot_lost ..)]

/-- A query of a slot with uncorrectable memory answers VOID with INTERNAL (R352). -/
theorem runs_vrdQuery_lost :
    Runs (.vrdQuery t q { seq := seq, ecc := true }) s fun v =>
      (v.vq q).ansQ = seq ∧ bits (v.vq q).ansVer 0 3 = vVoid ∧ bits (v.vq q).ansReason 0 16 = 0x30 ∧
      v.vrd.results = s.vrd.results ∧ v.free = s.free + 2 ∧ (v.vq q).win.any (fun w => w.1 == seq % 256 && w.2.lost) = true := by
  have hexists := (at_shaped t hs).vq_exists hq
  refine ⟨_, exec_vrdQuery_lost hs hq hup hseq, ?_⟩
  unfold State.lostAnswer
  dsimp only
  rw [settle_vq, settle_vrd, settle_free, vq_onVq_self ((onVq_queues_length ..).symm ▸ hexists)]
  have hslot : ((s.at t).onVq q (VrdQ.loseSlot seq)).vq q = VrdQ.loseSlot seq (s.vq q) :=
    (vq_onVq_self hexists _).trans (congrArg _ (at_vq ..))
  exact ⟨rfl, lostVerdict_code .., lostReason_code .., (congrArg Vrd.results (at_vrd s t) :), congrArg (· + 2) (at_free ..),
    (Eq.trans (congrArg (fun v : VrdQ => v.win.any fun w => w.1 == seq % 256 && w.2.lost) hslot) (loseSlot_lost seq (s.vq q)) :)⟩

theorem runs_vrdQuery_answers (hlost : (s.vq q).win.any (fun w => w.1 == seq % 256 && w.2.lost) = false) :
    Runs (.vrdQuery t q { seq := seq }) s fun v =>
      (v.vq q).ansQ = seq ∧ (v.vq q).ansSeq = ((s.vq q).answer seq).seq ∧
      bits (v.vq q).ansVer 0 3 = ((s.vq q).answer seq).verdict % 8 ∧ bit (v.vq q).ansVer 3 = ((s.vq q).answer seq).first ∧
      bit (v.vq q).ansVer 4 = ((s.vq q).answer seq).acc ∧ v.vrd.results = s.vrd.results ∧
      (v.vq q).win = (s.vq q).win.map fun w =>
        if w.2.seq = seq ∧ w.2.issued = true then (w.1, { w.2 with answered := true }) else w := by
  refine ⟨_, exec_vrdQuery_whole hq hup hseq hlost, ?_⟩
  dsimp only
  rw [settle_vq, settle_vrd, onVq_results, vq_onVq_self ((at_shaped t hs).vq_exists hq), at_vq, at_vrd]
  obtain ⟨hverdict, hfirst, hacc⟩ := verdictWord_fields ((s.vq q).answer seq).verdict ((s.vq q).answer seq).win.flags
    ((s.vq q).answer seq).win.escape ((s.vq q).answer seq).first ((s.vq q).answer seq).acc
  exact ⟨rfl, rfl, hverdict, hfirst, hacc, rfl, rfl⟩

end Query

/-- Settles O42: the decision by its tests in order, the issue by its parts, the answers by what the slot holds. -/
theorem verdictsFollowTheDecision : Obligations.VerdictsFollowTheDecision := by
  unfold Obligations.VerdictsFollowTheDecision
  refine ⟨?believe, ?reject, ?deadline, ?age, ?watchdog, ?issue, ?escalate, ?query, ?lost, ?slot, ?overwritten, ?empty, ?beyond⟩
  case believe => exact fun r n s h => verdictNow_believe h
  case reject => exact fun r c s hvoid h => verdictNow_of_rejectOf hvoid h
  case deadline => exact fun r s h => verdictNow_of_deadline h
  case age => exact fun t q seq r s hr hstate h => runs_ageDeadlineExpiry t q seq r s _ rfl (by rwa [at_resultOf]) hstate h
  case watchdog => exact fun t q seq r s hr hstate h => runs_verdictPathWatchdog t q seq r s _ rfl (by rwa [at_resultOf]) hstate h
  case issue => exact fun r verdict reason s hs hq => issue_leaves r verdict s hs hq reason
  case escalate => exact fun r s hs hq => escalate_counts r hs hq
  case query => exact fun t q seq s hs hq hup hseq hlost => runs_vrdQuery_answers hs hq hup hseq hlost
  case lost => exact fun t q seq s hs hq hup hseq => runs_vrdQuery_lost hs hq hup hseq
  case slot => exact fun v seq k w h hw => answer_of_slot h hw
  case overwritten => exact fun v seq k w h hw hseq hnewest habove => answer_of_overwritten h hw hseq hnewest habove
  case empty => exact fun v seq h hseq hnewest habove => answer_of_empty h hseq hnewest habove
  case beyond => exact fun v seq hbeyond hno => answer_of_beyond hbeyond hno

end Sys2Proof.Machine
end

section
/-! SUPPORT. Received safe messages (14 R398 to R407): the receiver's decision, and what each outcome leaves of its connection. -/

namespace Sys2Proof.Machine

/-! ## Connections -/

@[simp] theorem settle_conn (k : Nat) (s : State) : (settle s).conn k = s.conn k := rfl

@[simp] theorem at_conn (t k : Nat) (s : State) : (s.at t).conn k = s.conn k := by
  simp only [State.conn, at_sml]

theorem conn_of_sml {s u : State} (h : s.sml = u.sml) (k : Nat) : s.conn k = u.conn k := congrArg (fun x : Sml => getN x.conns k) h

theorem State.shaped.conn_exists {s : State} (hs : s.shaped) {k : Nat} (hk : k < 32) : k < s.sml.conns.length := by
  rw [hs.sml]
  exact hk

theorem conn_onConn_self {k : Nat} {s : State} (h : k < s.sml.conns.length) (f : Conn → Conn) : (s.onConn k f).conn k = f (s.conn k) :=
  getN_modN_self _ _ _ h

@[simp] theorem onConn_conns_length (k : Nat) (f : Conn → Conn) (s : State) : (s.onConn k f).sml.conns.length = s.sml.conns.length :=
  modN_length ..

/-- A change that keeps a view of every connection keeps that view of connection `j`. -/
theorem conn_onConn_view {β : Type} {g : Conn → β} {f : Conn → Conn} (h : ∀ c, g (f c) = g c) (k j : Nat) (s : State) :
    g ((s.onConn k f).conn j) = g (s.conn j) := getN_modN_view h ..

@[simp] theorem settleSingle_conn (k : Nat) (s : State) : s.settleSingle.conn k = s.conn k := rfl

theorem connFail_sml (k : Nat) (s : State) :
    (s.connFail k).sml = (s.onConn k fun c => { c with state := .failed, fails := satAdd 8 c.fails 1 }).sml := by
  unfold State.connFail
  dsimp only
  split <;> rfl

/-- A failing connection may trip; a trip that waits goes on waiting. -/
theorem connFail_pendTrips (k : Nat) (s : State) : s.sys.pendTrips ⊆ (s.connFail k).sys.pendTrips := by
  unfold State.connFail
  dsimp only
  split
  · exact List.subset_append_left ..
  · exact List.Subset.refl _

/-! ## The decision (R398, R400, R401) -/

/-- A connection that expects a message is OPENING or OPEN. -/
theorem expecting_state {s : State} {x : RxMsg} (h : s.unexpecting x = false) :
    (s.conn x.k).state = .opening ∨ (s.conn x.k).state = .open_ := by
  unfold State.unexpecting at h
  cases hstate : (s.conn x.k).state with
  | closed => rw [hstate] at h; cases h
  | failed => rw [hstate] at h; cases h
  | opening => exact .inl rfl
  | open_ => exact .inr rfl

/-- A frame is a first copy only with the right form, check value and age, on a port that takes part, within the window of a
connection that expects it. -/
theorem rxClass_first {m : SafeRx} {x : RxMsg} {d : Nat} {s : State} (h : s.rxClass m = .first x d) :
    ((s.conn x.k).state = .opening ∨ (s.conn x.k).state = .open_) ∧ d ≤ x.cr.window ∧
      d = (rxSeq m + 65536 - (s.conn x.k).seq % 65536) % 65536 ∧
      beAt m.data (8 + x.len) 4 = safeCrc x.cr.vcid (m.data.take (8 + x.len)) ∧
      -1000 ≤ s.msgAge (beAt m.data (4 + x.len) 4) ∧ s.msgAge (beAt m.data (4 + x.len) 4) ≤ s.ageMax x.cr ∧
      s.portOn x.k m.port x.cr = true ∧ rxFlagOk x.cr.flags (rxType m) = true ∧ m.mac = x.cr.mac := by
  unfold State.rxClass at h
  split at h
  · exact absurd h nofun
  split at h
  · exact absurd h nofun
  next k r hconn =>
  split at h
  · exact absurd h nofun
  next p hlen =>
  dsimp only at h
  split at h
  · exact absurd h nofun
  next hform =>
  split at h
  · exact absurd h nofun
  next hcrc =>
  split at h
  · exact absurd h nofun
  next hage =>
  split at h
  · exact absurd h nofun
  split at h
  · exact absurd h nofun
  next hport =>
  unfold State.rxWindow at h
  dsimp only at h
  split at h
  · exact absurd h nofun
  next hexpect =>
  split at h
  · next hwindow =>
    injection h with hx hd
    subst hx hd
    simp only [not_or, not_not, Bool.not_eq_true, Bool.not_eq_false'] at hform hcrc hexpect
    obtain ⟨-, hmac, -, hflag⟩ := hform
    obtain ⟨hyoung, hold⟩ := not_or.mp hage
    refine ⟨expecting_state hexpect, hwindow, rfl, hcrc, Int.not_lt.mp hyoung, Int.not_lt.mp hold, ?_, hflag, hmac⟩
    by_contra hoff
    exact hport ⟨by rw [Bool.eq_false_iff.mpr hoff]; rfl, by rw [hexpect]; rfl⟩
  · split at h
    · exact absurd h nofun
    · split at h <;> exact absurd h nofun

/-! ## Acting on a frame (Table 14.8) -/

/-- The state once a frame's stop request is taken (R404). -/
def State.stopHeard (m : SafeRx) (s : State) : State :=
  s.with (s.rxClass m).good fun x s => if rxType m = 0x9 then s.remoteStop m x.cr.conn else s

/-- The state once a frame's stop request and its check value are noted. -/
def State.heard (m : SafeRx) (s : State) : State :=
  match s.rxClass m with
  | .ignored | .unknown => s.stopHeard m
  | .badCrc _ => (s.stopHeard m).cvuNote (17 + m.port) 0 false
  | _ => (s.stopHeard m).with (s.rxClass m).good fun x s => s.cvuNote (17 + m.port) (beAt m.data (8 + x.len) 4) true

/-- The outcome of a decided frame. -/
def State.rxOutcome (m : SafeRx) (r : RxRes) (s : State) : State :=
  match r with
  | .ignored | .onLost _ => s
  | .unknown => s.onSml fun y => { y with unknown := satInc y.unknown }
  | .badCrc k => s.onConn k fun c => { c with crcErr := satInc c.crcErr }
  | .late x => s.onConn x.k fun c => { c with timeErr := satInc c.timeErr }
  | .outOfWindow x => s.onConn x.k fun c => { c with seqErr := satInc c.seqErr }
  | .opening x =>
    let s := if s.dogDue x.k then s.connFail x.k else s
    s.onConn x.k fun c => { c with state := .opening, seq := (rxSeq m + 1) % 65536, dogAt := s.now, pairs := [] }
  | .announce x => s.pathRestore x m
  | .first x d => s.accept x m d
  | .second x true => s.dual x m
  | .second x false => s.copiesDiffer x m

theorem rxAct_eq (m : SafeRx) (s : State) : s.rxAct m = (s.heard m).rxOutcome m (s.rxClass m) := by
  unfold State.rxAct State.heard State.rxOutcome
  rfl

section Heard
variable (m : SafeRx) (s : State)

theorem stopHeard_moves : Moves [.sys, .cvu, .psm, .log, .ret] s (s.stopHeard m) := by
  unfold State.stopHeard State.with
  split
  · split
    · exact State.remoteStop_moves _ _ (Moves.refl _ s) (by decide)
    · exact Moves.refl _ s
  · exact Moves.refl _ s

theorem heard_moves : Moves [.sys, .cvu, .psm, .log, .ret] s (s.heard m) := by
  have hstop := stopHeard_moves m s
  have hnote (c v : Nat) (ok : Bool) := State.cvuNote_moves c v ok hstop (by decide)
  unfold State.heard State.with
  split
  · exact hstop
  · exact hstop
  · exact hnote ..
  · split
    · exact hnote ..
    · exact hstop

/-- The check value is noted beside the channels alone. -/
theorem heard_sys : (s.heard m).sys = (s.stopHeard m).sys := by
  have hnote (c v : Nat) (ok : Bool) : ((s.stopHeard m).cvuNote c v ok).sys = (s.stopHeard m).sys :=
    (State.cvuNote_moves c v ok (Moves.refl _ _) (List.Subset.refl _)).same .sys (by decide)
  unfold State.heard State.with
  split
  · rfl
  · rfl
  · exact hnote ..
  · split
    · exact hnote ..
    · rfl

theorem remoteStop_sys (conn : Nat) : (s.remoteStop m conn).sys = 
    { s.sys with pendTrips := s.sys.pendTrips ++ [({ src := 0x0E, sto := false } : Trip)] } := by
  unfold State.remoteStop
  rw [wake_sys]
  exact congrArg (fun y : Sys => { y with pendTrips := y.pendTrips ++ [({ src := 0x0E, sto := false } : Trip)] })
    (State.evOpen_same (p := .sys) (by decide) ..)

/-- A stop request with a right check value waits as trip 0x0E (R404). -/
theorem stopHeard_trip {x : RxMsg} (hgood : (s.rxClass m).good = some x) (htype : rxType m = 0x9) :
    ({ src := 0x0E, sto := false } : Trip) ∈ (s.heard m).sys.pendTrips := by
  rw [heard_sys]
  unfold State.stopHeard State.with
  rw [hgood]
  dsimp only
  rw [if_pos htype, remoteStop_sys]
  exact List.mem_append_right _ List.mem_cons_self

theorem heard_armedAt : (s.heard m).sys.armedAt = s.sys.armedAt := by
  rw [heard_sys]
  unfold State.stopHeard State.with
  split
  · split
    · exact (congrArg Sys.armedAt (remoteStop_sys ..) :)
    · rfl
  · rfl

@[simp] theorem heard_sml : (s.heard m).sml = s.sml := (heard_moves m s).same .sml (by decide)

@[simp] theorem heard_conn (k : Nat) : (s.heard m).conn k = s.conn k := conn_of_sml (heard_sml m s) k

theorem heard_shaped (hs : s.shaped) : (s.heard m).shaped := (heard_moves m s).shaped hs

end Heard

/-- What a message acts on of its connection. -/
def Conn.acted (c : Conn) : ConnSt × Nat × Nat × List Bool := (c.state, c.seq, c.dogAt, c.ports)

/-- A refused frame is counted (Table 14.8). -/
theorem rxOutcome_refused {r : RxRes} (h : r.refused = true) (m : SafeRx) (k : Nat) (s : State) :
    let v := s.rxOutcome m r
    (v.conn k).acted = (s.conn k).acted ∧ v.sys = s.sys ∧ v.fgu = s.fgu ∧ v.slb = s.slb := by
  cases r with
  | unknown => exact ⟨rfl, rfl, rfl, rfl⟩
  | badCrc j =>
    exact ⟨conn_onConn_view (g := Conn.acted) (f := fun c => { c with crcErr := satInc c.crcErr }) (fun _ => rfl) .., rfl, rfl, rfl⟩
  | late x =>
    exact ⟨conn_onConn_view (g := Conn.acted) (f := fun c => { c with timeErr := satInc c.timeErr }) (fun _ => rfl) .., rfl, rfl, rfl⟩
  | outOfWindow x =>
    exact ⟨conn_onConn_view (g := Conn.acted) (f := fun c => { c with seqErr := satInc c.seqErr }) (fun _ => rfl) .., rfl, rfl, rfl⟩
  | _ => cases h

/-- A refused frame changes nothing that a message acts on (R400). -/
theorem rxAct_refused {m : SafeRx} {s : State} (h : (s.rxClass m).refused = true) (k : Nat) :
    let v := s.rxAct m
    (v.conn k).state = (s.conn k).state ∧ (v.conn k).seq = (s.conn k).seq ∧ (v.conn k).dogAt = (s.conn k).dogAt ∧
      (v.conn k).ports = (s.conn k).ports ∧ v.fgu = s.fgu ∧ v.slb = s.slb ∧ v.sys.armedAt = s.sys.armedAt := by
  obtain ⟨hconn, hsys, hfgu, hslb⟩ := rxOutcome_refused h m k (s.heard m)
  simp only [heard_conn, Conn.acted, Prod.mk.injEq] at hconn
  obtain ⟨hstate, hseq, hdog, hports⟩ := hconn
  dsimp only
  rw [rxAct_eq, hsys, hfgu, hslb]
  exact ⟨hstate, hseq, hdog, hports, (heard_moves m s).same .fgu (by decide), (heard_moves m s).same .slb (by decide), heard_armedAt m s⟩

/-! ## A new expectation, and the two copies (R403, R405, R407) -/

/-- A frame without an expectation opens its connection. -/
theorem rxAct_opening {m : SafeRx} {x : RxMsg} {s : State} (hs : s.shaped) (hk : x.k < 32) (h : s.rxClass m = .opening x) :
    let v := s.rxAct m
    (v.conn x.k).state = .opening ∧ (v.conn x.k).seq = (rxSeq m + 1) % 65536 ∧ (v.conn x.k).dogAt = s.now := by
  dsimp only
  rw [rxAct_eq, h]
  unfold State.rxOutcome
  dsimp only
  have hfail := State.connFail_moves x.k (Moves.refl _ (s.heard m)) (List.Subset.refl _)
  split
  · rw [conn_onConn_self ((hfail.shaped (heard_shaped m s hs)).conn_exists hk)]
    exact ⟨rfl, rfl, hfail.now.trans (heard_moves m s).now⟩
  · rw [conn_onConn_self ((heard_shaped m s hs).conn_exists hk)]
    exact ⟨rfl, rfl, (heard_moves m s).now⟩

/-- Copies that differ fail the connection. -/
theorem rxAct_differ {m : SafeRx} {x : RxMsg} {s : State} (hs : s.shaped) (hk : x.k < 32) (h : s.rxClass m = .second x false) :
    let v := s.rxAct m
    (v.conn x.k).state = .failed ∧ (v.conn x.k).pairs = [] ∧ (v.conn x.k).mismatch = satAdd 16 (s.conn x.k).mismatch 1 := by
  dsimp only
  rw [rxAct_eq, h]
  have hexists := (heard_shaped m s hs).conn_exists hk
  generalize hu : s.heard m = u at hexists
  unfold State.rxOutcome State.copiesDiffer
  dsimp only
  generalize hv : State.onConn x.k _ u = v
  have hdiffer : (v.conn x.k).mismatch = satAdd 16 (s.conn x.k).mismatch 1 ∧ v.sml.conns.length = u.sml.conns.length := by
    rw [← hv, conn_onConn_self hexists, ← hu, heard_conn]
    exact ⟨rfl, modN_length ..⟩
  obtain ⟨hmismatch, hlength⟩ := hdiffer
  generalize hw : State.each _ _ _ = w
  have hsml : w.sml = v.sml := by
    rw [← hw]
    refine (State.each_keeps (view := State.sml) (fun p u => ?_) _ _).trans (State.evOpen_same (p := .sml) (by decide) ..)
    split <;> rfl
  have hlen : x.k < w.sml.conns.length := by rwa [hsml, hlength]
  rw [settleSingle_conn, conn_of_sml (connFail_sml ..), conn_onConn_self (by rwa [onConn_conns_length]), conn_onConn_self hlen,
    conn_of_sml hsml]
  exact ⟨rfl, rfl, hmismatch⟩

/-- A RESET_REQUEST re-arms in HALTED alone, and only by the last revocation's number (01 R21). -/
theorem resetDecided_armedAt (conn : Nat) (p : Pair) (act : Bool) (s : State) :
    (s.resetDecided conn p act).sys.armedAt =
      if act = true ∧ beAt p.data 4 4 = s.vrd.revoked ∧ s.sys.state = .halted then some s.now else s.sys.armedAt := by
  have hlog (t : State) (d : Nat) : (t.evOpen 0x0A "RESET_DISCARDED" conn d).sys = t.sys := State.evOpen_same (p := .sys) (by decide) ..
  unfold State.resetDecided
  cases act with
  | false => exact (if_neg nofun).symm
  | true =>
    dsimp only
    rw [if_neg (by decide)]
    split
    · next hseen => rw [hlog, if_neg fun h => hseen h.2.1]; rfl
    · next hseen =>
      split
      · next hhalted => rw [if_pos ⟨rfl, not_not.mp hseen, hhalted⟩]; rfl
      · next hhalted => rw [if_neg fun h => hhalted h.2.2]; rfl

/-- Path monitoring by announces: a LOST port returns on an OPENING or OPEN connection alone. -/
theorem pathRestore_restores {m : SafeRx} {x : RxMsg} {s : State} 
    (hlost : getN (s.conn x.k).ports m.port = false) (hback : getN ((s.pathRestore x m).conn x.k).ports m.port = true) :
    beAt m.data 4 1 = m.port ∧ bit x.cr.flags 1 = true ∧ ((s.conn x.k).state = .opening ∨ (s.conn x.k).state = .open_) := by
  have hcount := conn_onConn_view (g := Conn.ports) (f := fun c => { c with crcErr := satInc c.crcErr }) (fun _ => rfl) x.k x.k s
  unfold State.pathRestore at hback
  dsimp only at hback
  split at hback
  · rw [hcount, hlost] at hback
    cases hback
  · next hsame =>
    split at hback
    · next hrestore =>
      obtain ⟨hflag, -, hstate, -⟩ := hrestore
      exact ⟨not_not.mp hsame, hflag, hstate⟩
    · rw [hlost] at hback
      cases hback

/-! ## An accepted message (R400, R402) -/

/-- What an acceptance settles of its connection. -/
def Conn.track (c : Conn) : ConnSt × Nat × Nat × Nat := (c.state, c.seq, c.lost, c.dogAt)

/-- Path monitoring keeps the state, the sequence and the watchdog. -/
theorem pairSingle_track (k j : Nat) (r : ConnRec) (p : Pair) (s : State) : ((s.pairSingle k r p).conn j).track = (s.conn j).track := by
  have hreset (t : State) (a : Bool) : (t.resetDecided r.conn p a).sml = t.sml :=
    (State.resetDecided_moves _ _ _ (Moves.refl _ t) (List.Subset.refl _)).same .sml (by decide)
  unfold State.pairSingle
  dsimp only
  rw [settleSingle_conn]
  generalize hu : State.onConn k _ s = u
  have hconn : (u.conn j).track = (s.conn j).track := by
    rw [← hu]
    refine conn_onConn_view (g := Conn.track) (fun c => ?_) k j s
    split <;> rfl
  split
  · rw [conn_of_sml (hreset ..), hconn]
  · exact hconn

theorem releasePair_track (k j : Nat) (r : ConnRec) (s : State) : ((s.releasePair k r).conn j).track = (s.conn j).track := by
  unfold State.releasePair
  dsimp only
  split
  · rfl
  · refine (conn_onConn_view (g := Conn.track) (f := fun c => { c with pairs := c.pairs.take 31 }) (fun _ => rfl) k j _).trans ?_
    refine State.with_keeps (view := fun s => (s.conn j).track) (fun p t => ?_) _ s
    split
    · rfl
    · exact pairSingle_track ..

theorem endPause_track (k j : Nat) (s : State) : ((s.endPause k).conn j).track = (s.conn j).track := by
  have hpause := conn_onConn_view (g := Conn.track) (f := fun c => { c with aliveSince := none, paused := false }) (fun _ => rfl) k j s
  unfold State.endPause
  dsimp only
  split
  · rw [conn_of_sml (wake_same (p := .sml) (by decide) _ : _ = _)]
    exact hpause
  · exact hpause

/-- What a message's first copy does keeps the state, the sequence and the watchdog. -/
theorem firstCopy_track (x : RxMsg) (m : SafeRx) (j : Nat) (s : State) : ((s.firstCopy x m).conn j).track = (s.conn j).track := by
  unfold State.firstCopy
  split
  · rw [endPause_track]
    exact congrArg Conn.track (conn_of_sml ((State.joints_moves m x.cr.conn (Moves.refl _ s) (List.Subset.refl _)).same .sml (by decide)) j)
  · rw [conn_of_sml (wake_same (p := .sml) (by decide) _ : _ = _)]
    exact congrArg Conn.track (conn_of_sml ((State.jOpen_moves _ _ _ _ (Moves.refl _ s) (List.Subset.refl _)).same .sml (by decide)) j)
  · exact conn_onConn_view (g := Conn.track)
      (f := fun c => { c with aliveSince := (match c.aliveSince with | some i => some i | none => some s.now) }) (fun _ => rfl) _ j s
  · rfl

/-- An accepted message opens its connection, which expects the next one and restarts its watchdog. -/
theorem accept_track {x : RxMsg} {s : State} (hs : s.shaped) (hk : x.k < 32) (m : SafeRx) (d : Nat) :
    ((s.accept x m d).conn x.k).track = (.open_, (rxSeq m + 1) % 65536, satAdd 32 (s.conn x.k).lost d, s.now) := by
  have hrelease := State.releasePair_moves x.k x.cr (Moves.refl _ s) (List.Subset.refl _)
  have htrack := releasePair_track x.k x.k x.cr s
  unfold State.accept
  dsimp only
  rw [firstCopy_track]
  generalize s.releasePair x.k x.cr = u at hrelease htrack
  simp only [Conn.track, Prod.mk.injEq] at htrack
  obtain ⟨-, -, hlost, -⟩ := htrack
  have hkept (t : State) (c : Prop) [Decidable c] (a b e : Nat) : (if c then t.latency a b e else t).sml = t.sml := by
    split
    · exact (State.latency_moves _ _ _ (Moves.refl _ t) (List.Subset.refl _)).same .sml (by decide)
    · rfl
  rw [conn_of_sml (hkept ..), conn_onConn_self ((hrelease.shaped hs).conn_exists hk)]
  unfold Conn.track
  rw [hlost, hrelease.now]

theorem rxAct_accepted {m : SafeRx} {x : RxMsg} {d : Nat} {s : State} (hs : s.shaped) (hk : x.k < 32) (h : s.rxClass m = .first x d) :
    let v := s.rxAct m
    (v.conn x.k).state = .open_ ∧ (v.conn x.k).seq = (rxSeq m + 1) % 65536 ∧ (v.conn x.k).dogAt = s.now ∧
      (v.conn x.k).lost = satAdd 32 (s.conn x.k).lost d := by
  have htrack := accept_track (heard_shaped m s hs) hk m d
  rw [heard_conn, (heard_moves m s).now] at htrack
  simp only [Conn.track, Prod.mk.injEq] at htrack
  obtain ⟨hstate, hseq, hlost, hdog⟩ := htrack
  dsimp only
  rw [rxAct_eq, h]
  exact ⟨hstate, hseq, hdog, hlost⟩

/-! ## Trips that wait (R404) -/

theorem resetDecided_pendTrips (conn : Nat) (p : Pair) (act : Bool) (s : State) :
    (s.resetDecided conn p act).sys.pendTrips = s.sys.pendTrips := by
  have hlog (t : State) (d : Nat) : (t.evOpen 0x0A "RESET_DISCARDED" conn d).sys = t.sys := State.evOpen_same (p := .sys) (by decide) ..
  unfold State.resetDecided
  dsimp only
  split
  · rfl
  · split
    · rw [hlog]; rfl
    · split <;> rfl

theorem pairSingle_pendTrips (k : Nat) (r : ConnRec) (p : Pair) (s : State) : (s.pairSingle k r p).sys.pendTrips = s.sys.pendTrips := by
  unfold State.pairSingle
  dsimp only
  split
  · exact resetDecided_pendTrips ..
  · rfl

theorem accept_pendTrips (x : RxMsg) (m : SafeRx) (d : Nat) (s : State) : (s.accept x m d).sys.pendTrips = s.sys.pendTrips := by
  have hrelease : (s.releasePair x.k x.cr).sys.pendTrips = s.sys.pendTrips := by
    unfold State.releasePair
    dsimp only
    split
    · rfl
    · refine State.with_keeps (view := fun s => s.sys.pendTrips) (fun p t => ?_) _ s
      split
      · rfl
      · exact pairSingle_pendTrips ..
  have hlatency (t : State) (c : Prop) [Decidable c] (a b e : Nat) : (if c then t.latency a b e else t).sys = t.sys := by
    split
    · exact (State.latency_moves _ _ _ (Moves.refl _ t) (List.Subset.refl _)).same .sys (by decide)
    · rfl
  have hfirst (t : State) : (t.firstCopy x m).sys = t.sys :=
    (State.firstCopy_moves x m (Moves.refl _ t) (List.Subset.refl _)).same .sys (by decide)
  unfold State.accept
  dsimp only
  rw [hfirst, hlatency]
  exact hrelease

/-- No outcome of a frame drops a trip that waits. -/
theorem rxOutcome_pendTrips (m : SafeRx) (r : RxRes) (s : State) : s.sys.pendTrips ⊆ (s.rxOutcome m r).sys.pendTrips := by
  have hsubset {u : State} (h : u.sys.pendTrips = s.sys.pendTrips) : s.sys.pendTrips ⊆ u.sys.pendTrips := fun _ hx => h ▸ hx
  cases r with
  | opening x =>
    unfold State.rxOutcome
    dsimp only
    split
    · exact connFail_pendTrips x.k s
    · exact List.Subset.refl _
  | announce x =>
    exact hsubset (congrArg Sys.pendTrips ((State.pathRestore_moves x m (Moves.refl _ s) (List.Subset.refl _)).same .sys (by decide)))
  | first x d => exact hsubset (accept_pendTrips x m d s)
  | second x equal =>
    cases equal with
    | true =>
      refine hsubset ?_
      unfold State.rxOutcome State.dual
      dsimp only
      split
      · split
        · exact resetDecided_pendTrips ..
        · rfl
      · rfl
    | false =>
      unfold State.rxOutcome State.copiesDiffer
      dsimp only
      refine List.Subset.trans ?_ (connFail_pendTrips ..)
      refine hsubset (congrArg Sys.pendTrips (Eq.trans (State.each_keeps (view := State.sys) (fun p u => ?_) _ _)
        (State.evOpen_same (p := .sys) (by decide) ..)))
      split <;> rfl
  | _ => exact List.Subset.refl _

/-! ## The commands -/

theorem finish_of_eq {t : Nat} {s u : State} {f : State → State} (h : f (s.at t) = u) : finish t s f = .next (settle u) :=
  congrArg (fun v => Host.Outcome.next (settle v)) h

/-- Each message command acts on a frame of its type, and the refusal on a refused frame. -/
theorem exec_rx {t : Nat} {m : SafeRx} {i : Instr} {s : State}
    (h : (i = .jointsMessage t m ∧ rxType m = 0x8) ∨ (i = .stopRequest t m ∧ rxType m = 0x9) ∨
      (i = .resetRequest t m ∧ rxType m = 0xA) ∨ (i = .aliveMessage t m ∧ rxType m = 0xB) ∨
      (i = .pathAnnounce t m ∧ rxType m = 0xE) ∨ (i = .safeMessageRefused t m ∧ ((s.at t).rxClass m).refused = true)) :
    exec i s = .next (settle ((s.at t).rxAct m)) := by
  obtain ⟨rfl, h⟩ | ⟨rfl, h⟩ | ⟨rfl, h⟩ | ⟨rfl, h⟩ | ⟨rfl, h⟩ | ⟨rfl, h⟩ := h
  · exact finish_of_eq (f := State.rxOf 0x8 m) (if_pos h)
  · exact finish_of_eq (f := State.rxOf 0x9 m) (if_pos h)
  · exact finish_of_eq (f := State.rxOf 0xA m) (if_pos h)
  · exact finish_of_eq (f := State.rxOf 0xB m) (if_pos h)
  · exact finish_of_eq (f := State.rxOf 0xE m) (if_pos h)
  · exact finish_of_eq (f := fun s => s.when (s.rxClass m).refused (State.rxAct m)) (if_pos h)

/-- Settles O46, by the receiver's decision and one lemma for each outcome of a frame. -/
theorem safeMessagesAreReceivedAsStated : Obligations.SafeMessagesAreReceivedAsStated := by
  unfold Obligations.SafeMessagesAreReceivedAsStated
  refine ⟨?acts, ?ignored, ?decided, ?accepted, ?opening, ?refused, ?stop, ?reset, ?announce, ?differ⟩
  case acts => exact fun t m i s h => exec_rx h
  case ignored =>
    exact fun t m s h => finish_of_eq (f := fun s => s.when (s.rxClass m).refused (State.rxAct m)) (if_neg (Bool.eq_false_iff.mp h))
  case decided => exact fun m x d s h => rxClass_first h
  case accepted => exact fun m x d s hs hk h _ => rxAct_accepted hs hk h
  case opening => exact fun m x s hs hk h => rxAct_opening hs hk h
  case refused => exact fun m k s h => rxAct_refused h k
  case stop =>
    intro m x s hgood htype
    rw [rxAct_eq]
    exact rxOutcome_pendTrips m _ _ (stopHeard_trip m s hgood htype)
  case reset => exact fun conn p act s => resetDecided_armedAt conn p act s
  case announce =>
    intro m x s _ _ _ _ h hlost hback
    rw [← heard_conn m s] at hlost ⊢
    rw [rxAct_eq, h] at hback
    exact pathRestore_restores hlost hback
  case differ => exact fun m x s hs hk h => rxAct_differ hs hk h

end Sys2Proof.Machine
end

section
/-! SUPPORT. The timers and the sending side of safe messages, and the Check-Value Unit (14 R399 to R418, 17 R479). -/

namespace Sys2Proof.Machine

/-! ## Watchdogs and timers (R402, R403, R405, R408) -/

section Timers
variable {t n k : Nat} {r : ConnRec} {s : State}

/-- What a connection counts of a SINGLE message. -/
def Conn.singles (c : Conn) : Nat × Nat × ConnSt := (c.single, c.seq, c.state)

/-- A message whose second copy does not come is SINGLE (R405). -/
theorem pairSingle_singles {k : Nat} {s : State} (hk : k < s.sml.conns.length) (r : ConnRec) (p : Pair) :
    ((s.pairSingle k r p).conn k).singles = ((s.conn k).single + 1, (s.conn k).seq, (s.conn k).state) := by
  have hreset (t : State) (a : Bool) : (t.resetDecided r.conn p a).sml = t.sml :=
    (State.resetDecided_moves _ _ _ (Moves.refl _ t) (List.Subset.refl _)).same .sml (by decide)
  unfold State.pairSingle
  dsimp only
  rw [settleSingle_conn]
  generalize hu : State.onConn k _ s = u
  have hconn : (u.conn k).singles = ((s.conn k).single + 1, (s.conn k).seq, (s.conn k).state) := by
    rw [← hu, conn_onConn_self hk]
    split <;> rfl
  split
  · rw [conn_of_sml (hreset ..), hconn]
  · exact hconn

theorem runs_skewWindowEnd_single {q : Nat} {p : Pair} (hs : s.shaped) (hk : k < 32) (hr : s.img.conn n = some (k, r))
    (hpair : (s.conn k).pairs.find? (fun p => p.seq == q && !p.decided && (s.at t).past p.at_ (s.img.messages.skewUs * 1000)) = some p)
    (hon : (s.at t).smlOn = true) :
    Runs (.skewWindowEnd t n q) s fun v =>
      (v.conn k).single = (s.conn k).single + 1 ∧ (v.conn k).seq = (s.conn k).seq ∧ (v.conn k).state = (s.conn k).state := by
  have hsingle := pairSingle_singles ((at_shaped t hs).conn_exists hk) r p
  rw [at_conn] at hsingle
  simp only [Conn.singles, Prod.mk.injEq] at hsingle
  exact ⟨_, runs_skewWindowEnd t n q k r p s _ rfl hon (by rwa [at_img]) (by rwa [at_conn, at_img]), hsingle⟩

/-- The messages missed in a row on a port after a decided pair. -/
def Conn.misses (q : Nat) (got : List Bool) (c : Conn) (p : Nat) : Nat :=
  if getN got p then 0 else if getN c.ports p && c.counts p q then getN c.missing p + 1 else getN c.missing p

theorem monitor_eq (q : Nat) (got : List Bool) (c : Conn) : c.monitor q got =
    { c with missing := [c.misses q got 0, c.misses q got 1],
             ports := [getN c.ports 0 && decide (c.misses q got 0 < 3), getN c.ports 1 && decide (c.misses q got 1 < 3)] } := rfl

theorem getN_pair {α : Type} [Inhabited α] {p : Nat} (hp : p < 2) (f : Nat → α) : getN [f 0, f 1] p = f p := by
  obtain rfl | rfl : p = 0 ∨ p = 1 := by omega
  · rfl
  · rfl

/-- A message missed on a port that takes part is counted, and the third in a row loses the port (R406). -/
theorem monitor_missing {q p : Nat} {got : List Bool} {c : Conn} (hp : p < 2) (hgot : getN got p = false) (hport : getN c.ports p = true)
    (hcounts : c.counts p q = true) :
    getN (c.monitor q got).missing p = getN c.missing p + 1 ∧
      getN (c.monitor q got).ports p = decide (getN c.missing p + 1 < 3) := by
  have hmisses : c.misses q got p = getN c.missing p + 1 := by
    unfold Conn.misses
    rw [hgot, hport, hcounts]
    rfl
  rw [monitor_eq]
  refine ⟨(getN_pair hp (c.misses q got)).trans hmisses, (getN_pair hp fun p => getN c.ports p && decide (c.misses q got p < 3)).trans ?_⟩
  rw [hport, hmisses, Bool.true_and]

/-- The trip of a connection that fails with STOP_ON_LOSS. -/
theorem connFail_sys (hslot : s.img.slot k = some r) :
    (s.connFail k).sys.pendTrips = s.sys.pendTrips ++ (if bit r.flags 0 = true then [{ src := 0x08, sto := false }] else []) := by
  have himg (f : Conn → Conn) : (s.onConn k f).img = s.img := rfl
  unfold State.connFail
  dsimp only
  rw [himg, hslot, Option.any_some]
  split
  · rfl
  · exact (List.append_nil _).symm

/-- Past its watchdog an open connection fails (R402). -/
theorem runs_smlWatchdogExpiry_fails (hs : s.shaped) (hk : k < 32) (hr : s.img.conn n = some (k, r)) (hslot : s.img.slot k = some r)
    (hon : (s.at t).smlOn = true) (hdir : r.dir = 0) (hopen : (s.conn k).state = .open_)
    (hend : (s.conn k).dogAt + r.watchdog * ms ≤ (s.at t).now) :
    Runs (.smlWatchdogExpiry t n) s fun v =>
      (v.conn k).state = .failed ∧ (v.conn k).fails = satAdd 8 (s.conn k).fails 1 ∧
      v.sys.pendTrips = s.sys.pendTrips ++ (if bit r.flags 0 = true then [{ src := 0x08, sto := false }] else []) := by
  have hdue : (s.at t).dogDue k = true := by
    unfold State.dogDue
    rw [at_img, hslot, Option.any_some, at_conn, hdir, hopen, (past_iff ..).mpr hend]
    rfl
  refine ⟨_, runs_smlWatchdogExpiry t n k r s _ rfl hon (by rwa [at_img]) hdue, ?_⟩
  dsimp only
  rw [settle_conn, conn_of_sml (connFail_sml ..), conn_onConn_self ((at_shaped t hs).conn_exists hk), at_conn, settle_sys,
    connFail_sys (by rwa [at_img]), at_sys_pendTrips]
  exact ⟨rfl, rfl, rfl⟩

/-- Past its watchdog an opening connection closes (R403). -/
theorem runs_smlOpeningExpiry_closes (hs : s.shaped) (hk : k < 32) (hr : s.img.conn n = some (k, r)) (hon : (s.at t).smlOn = true)
    (hdir : r.dir = 0) (hopening : (s.conn k).state = .opening) (hend : (s.conn k).dogAt + r.watchdog * ms ≤ (s.at t).now) :
    Runs (.smlOpeningExpiry t n) s fun v => (v.conn k).state = .closed ∧ v.sys.pendTrips = s.sys.pendTrips := by
  refine ⟨_, runs_smlOpeningExpiry t n k r s _ rfl hon (by rwa [at_img]) hdir (by rwa [at_conn]) (by rw [at_conn]; exact (past_iff ..).mpr hend), ?_⟩
  dsimp only
  rw [settle_conn, conn_onConn_self ((at_shaped t hs).conn_exists hk), settle_sys]
  exact ⟨rfl, at_sys_pendTrips s t⟩

theorem runs_singlePathTimerExpiry_trips (hon : (s.at t).smlOn = true) (hend : (s.at t).singleExpired = true) :
    Runs (.singlePathTimerExpiry t) s fun v => v.sys.pendTrips = s.sys.pendTrips ++ [{ src := 0x0C, sto := false }] :=
  ⟨_, runs_singlePathTimerExpiry t s _ rfl hon hend, congrArg (· ++ _) (at_sys_pendTrips s t)⟩

end Timers

/-! ## Sending (R399, R407) -/

/-- Messages sent one after the other. -/
def State.sends (l : List Output) (s : State) : State := { s with out := s.out ++ l }

@[simp] theorem sends_sml (l : List Output) (s : State) : (s.sends l).sml = s.sml := rfl
@[simp] theorem sends_out (l : List Output) (s : State) : (s.sends l).out = s.out ++ l := rfl

theorem sends_nil (s : State) : s.sends [] = s := congrArg (fun x => { s with out := x }) (List.append_nil s.out)

theorem sends_sends (l l' : List Output) (s : State) : (s.sends l).sends l' = s.sends (l ++ l') :=
  congrArg (fun x => { s with out := x }) (List.append_assoc s.out l l')

/-- Effects that only send, each what it would send at first. -/
theorem each_sends {α : Type} {s : State} {f : α → State → State} {g : α → List Output} (h : ∀ a o, f a (s.sends o) = (s.sends o).sends (g a))
    (l : List α) (o : List Output) : (s.sends o).each l f = s.sends (o ++ l.flatMap g) := by
  induction l generalizing o with
  | nil => exact congrArg s.sends (List.append_nil o).symm
  | cons a l ih =>
    refine (congrArg (fun u => State.each u l f) ((h a o).trans (sends_sends ..))).trans ((ih _).trans ?_)
    rw [List.flatMap_cons, List.append_assoc]

/-- The same bytes on every port whose link is up. -/
theorem sendBoth_eq (r : ConnRec) (data : Bytes) (s : State) :
    s.sendBoth r data = s.sends (([0, 1].filter fun p => s.sml.link.getD p false).map fun p => .safe p r.mac r.vid r.pcp data) := by
  have hport (p : Nat) (o : List Output) :
      (if (s.sends o).sml.link.getD p false then (s.sends o).send (.safe p r.mac r.vid r.pcp data) else s.sends o) =
        (s.sends o).sends (if s.sml.link.getD p false then [.safe p r.mac r.vid r.pcp data] else []) := by
    rw [sends_sml]
    split
    · rfl
    · exact (sends_nil _).symm
  have heach := each_sends (f := fun p s => if s.sml.link.getD p false then s.send (.safe p r.mac r.vid r.pcp data) else s)
    (g := fun p => if s.sml.link.getD p false then [.safe p r.mac r.vid r.pcp data] else []) hport [0, 1] []
  rw [sends_nil] at heach
  refine heach.trans (congrArg s.sends ?_)
  simp only [List.filter_cons, List.flatMap_cons]
  cases s.sml.link.getD 0 false <;> cases s.sml.link.getD 1 false <;> rfl

section Sending
variable {t n k p : Nat} {r : ConnRec} {s : State}

/-- A status message: the connection's next sequence, and the same bytes on every port whose link is up. -/
theorem sendStatus_leaves (hk : k < s.sml.conns.length) (hslot : s.img.slot k = some r) :
    ((s.sendStatus k).conn k).seq = ((s.conn k).seq + 1) % 65536 ∧ ((s.sendStatus k).conn k).statusAt = s.now ∧
      ∃ pay, pay.length = 24 ∧ (s.sendStatus k).out = s.out ++ ([0, 1].filter fun p => s.sml.link.getD p false).map fun p =>
        .safe p r.mac r.vid r.pcp (safeFrame r 1 (s.conn k).seq pay s.devUs) := by
  unfold State.sendStatus State.sendMsg State.with
  dsimp only
  rw [hslot]
  dsimp only
  rw [sendBoth_eq]
  generalize hpay : (beBytes 8 s.dev ++ _ ++ _ ++ _ ++ _ : Bytes) = pay
  have hlen : pay.length = 24 := by
    rw [← hpay]
    simp only [beBytes, zeros, List.length_append, List.length_reverse, leBytes_length, List.length_replicate, List.length_cons,
      List.length_nil]
  rw [conn_onConn_self (by rw [sends_sml, onConn_conns_length]; exact hk), conn_of_sml (sends_sml ..), conn_onConn_self hk]
  exact ⟨rfl, rfl, pay, hlen, rfl⟩

/-- STATUS goes out on time (R399). -/
theorem runs_statusSend_sends (hs : s.shaped) (hk : k < 32) (hr : s.img.conn n = some (k, r)) (hslot : s.img.slot k = some r)
    (hon : (s.at t).smlOn = true) (hdir : r.dir = 1) (hend : (s.conn k).statusAt + r.period * ms ≤ (s.at t).now) :
    Runs (.statusSend t n) s fun v =>
      (v.conn k).seq = ((s.conn k).seq + 1) % 65536 ∧ (v.conn k).statusAt = (s.at t).now ∧
      ∃ pay, pay.length = 24 ∧ v.out = (([0, 1].filter fun p => s.sml.link.getD p false).map fun p =>
        .safe p r.mac r.vid r.pcp (safeFrame r 1 (s.conn k).seq pay (s.at t).devUs)) := by
  obtain ⟨hseq, hat, pay, hlen, hout⟩ := sendStatus_leaves ((at_shaped t hs).conn_exists hk) (r := r) (by rwa [at_img])
  refine ⟨_, runs_statusSend t n k r s _ rfl hon (by rwa [at_img]) hdir (by rw [at_conn]; exact (past_iff ..).mpr hend), ?_⟩
  dsimp only
  rw [settle_conn, settle_out, hout, hseq, hat, at_conn, at_out, at_sml]
  exact ⟨rfl, rfl, pay, hlen, rfl⟩

theorem mem_indicesWhere {α : Type} {q : α → Bool} {l : List α} {i : Nat} (h : i ∈ indicesWhere q l) : ∃ a, l[i]? = some a ∧ q a = true := by
  unfold indicesWhere at h
  obtain ⟨⟨a, j⟩, hmem, rfl⟩ := List.mem_map.mp h
  obtain ⟨hzip, hq⟩ := List.mem_filter.mp hmem
  exact ⟨a, List.mem_zipIdx_iff_getElem?.mp hzip, hq⟩

/-- The announce of a sending connection on a port: the last sequence sent (R407). -/
def State.announce (p k : Nat) (r : ConnRec) (s : State) : Output :=
  .safe p r.mac r.vid r.pcp (safeFrame r 0xE (((s.conn k).seq + 65535) % 65536) [byte p, 0, 0, 0] s.devUs)

/-- The announce of slot `k` sent on a port. -/
def State.announceOn (p k : Nat) (s : State) : State := s.with (s.img.slot k) fun r s => s.send (s.announce p k r)

theorem each_announceOn (p : Nat) (l : List Nat) (s : State) :
    s.each l (State.announceOn p) = s.sends (l.flatMap fun k => (s.img.slot k).toList.map fun r => s.announce p k r) := by
  have hslot (k : Nat) (o : List Output) :
      (s.sends o).announceOn p k = (s.sends o).sends ((s.img.slot k).toList.map fun r => s.announce p k r) := by
    have himg : (s.sends o).img = s.img := rfl
    unfold State.announceOn
    rw [himg]
    cases s.img.slot k with
    | none => exact (sends_nil _).symm
    | some r => rfl
  have heach := each_sends hslot l []
  rwa [sends_nil] at heach

theorem exec_pathAnnounceSend_due (hon : (s.at t).smlOn = true) (hp : p < 2) (hlink : getN s.sml.link p = true)
    (hann : ∀ i, getN s.sml.annAt p = some i → i + 100 * ms ≤ (s.at t).now) :
    exec (.pathAnnounceSend t p) s = .next (settle
      (((s.at t).onSml fun m => { m with annAt := setN m.annAt p (some (s.at t).now) }).each (s.at t).txSlots (State.announceOn p))) := by
  have hdue : (getN (s.at t).sml.annAt p).all ((s.at t).past · (100 * ms)) = true := by
    rw [at_sml, Option.all_eq_true]
    exact fun i hi => (past_iff ..).mpr (hann i hi)
  exact runs_pathAnnounceSend t p s _ rfl hon hp (by rwa [at_sml]) hdue

theorem runs_pathAnnounceSend_sends (hon : (s.at t).smlOn = true) (hp : p < 2) (hlink : getN s.sml.link p = true)
    (hann : ∀ i, getN s.sml.annAt p = some i → i + 100 * ms ≤ (s.at t).now) :
    Runs (.pathAnnounceSend t p) s fun v =>
      v.sml.conns = s.sml.conns ∧ v.sml.annAt = setN s.sml.annAt p (some (s.at t).now) ∧ ∀ o ∈ v.out, ∃ k r, s.img.slot k = some r ∧ r.dir = 1 ∧
        o = .safe p r.mac r.vid r.pcp
          (safeFrame r 0xE (((s.conn k).seq + 65535) % 65536) [byte p, 0, 0, 0] (s.at t).devUs) := by
  refine ⟨_, exec_pathAnnounceSend_due hon hp hlink hann, ?_⟩
  dsimp only
  rw [each_announceOn, settle_sml, settle_out, sends_sml, sends_out]
  refine ⟨(congrArg Sml.conns (at_sml s t) :), (congrArg (fun m : Sml => setN m.annAt p _) (at_sml s t) :), fun o ho => ?_⟩
  obtain hbefore | hsent := List.mem_append.mp ho
  · rw [onSml_out, at_out] at hbefore
    exact absurd hbefore List.not_mem_nil
  · obtain ⟨k, hk, hframe⟩ := List.mem_flatMap.mp hsent
    obtain ⟨r, hr, rfl⟩ := List.mem_map.mp hframe
    obtain ⟨r', hslot, hdir⟩ := mem_indicesWhere hk
    have hrec : (s.at t).img.slot k = some r := Option.mem_toList.mp hr
    rw [← Option.some_injective _ (hrec.symm.trans hslot)] at hdir
    rw [at_img] at hrec
    refine ⟨k, r, hrec, beq_iff_eq.mp hdir, ?_⟩
    have hconn : ((s.at t).onSml fun m => { m with annAt := setN m.annAt p (some (s.at t).now) }).conn k = s.conn k := at_conn t k s
    unfold State.announce
    rw [hconn]
    rfl

end Sending

/-! ## Links (R406, R408) -/

section Links
variable {t p : Nat} {s : State}

theorem getN_setN_default (l : List Bool) (p : Nat) : getN (setN l p false) p = false := by
  obtain h | h := Nat.lt_or_ge p l.length
  · exact getN_setN_self _ _ _ h
  · unfold setN
    rw [modN_of_length_le h]
    exact List.getD_eq_default _ _ h

/-- A fallen link stands in the list of links. -/
theorem any_setN_false {l : List Bool} {p : Nat} (h : p < l.length) : (setN l p false).any (!·) = true := by
  refine List.any_eq_true.mpr ⟨getN (setN l p false) p, getN_mem ((modN_length ..).symm ▸ h), ?_⟩
  rw [getN_setN_default]
  rfl

theorem settleSingle_singleAt (h : s.singlePath = true) (hidle : s.sys.state.idle = false) :
    s.settleSingle.sml.singleAt = some (s.sml.singleAt.getD s.now) := by
  have hat : s.settleSingle.sml.singleAt = if (s.singlePath && !s.sys.state.idle) = true then
      (match s.sml.singleAt with | some i => some i | none => some s.now) else none := rfl
  rw [hat, h, hidle]
  cases s.sml.singleAt <;> rfl

/-- The state with a port's link fallen, before the single-path timer. -/
def State.linkLost (p : Nat) (s : State) : State :=
  (s.onClk fun c => { c with ethOk := setN c.ethOk p false }).onSml fun m =>
    { m with link := setN m.link p false, conns := m.conns.map fun c => { c with ports := setN c.ports p false } }

theorem linkDown_eq (hp : p < 2) : s.linkDown p = (s.linkLost p).settleSingle := if_pos hp

theorem linkLost_singlePath (h : p < s.sml.link.length) : (s.linkLost p).singlePath = true :=
  (congrArg (· || _) (any_setN_false h)).trans (Bool.true_or _)

theorem getN_map {α β : Type} [Inhabited α] [Inhabited β] {l : List α} {k : Nat} (h : k < l.length) (f : α → β) :
    getN (l.map f) k = f (getN l k) := by
  unfold getN
  rw [← List.getElem_eq_getD (h := h) default, ← List.getElem_eq_getD (h := (List.length_map f).symm ▸ h) default, List.getElem_map]

/-- No connection has a port whose link has fallen. -/
theorem linkLost_port (k : Nat) : getN ((s.linkLost p).conn k).ports p = false := by
  have hconns : (s.linkLost p).conn k = getN (s.sml.conns.map fun c => { c with ports := setN c.ports p false }) k := rfl
  rw [hconns]
  obtain h | h := Nat.lt_or_ge k s.sml.conns.length
  · rw [getN_map h]
    exact getN_setN_default ..
  · have hnone : getN (s.sml.conns.map fun c => { c with ports := setN c.ports p false }) k = default :=
      List.getD_eq_default _ _ ((List.length_map _).trans_le h)
    rw [hnone]
    obtain _ | _ | p := p <;> rfl

theorem runs_ethLinkChange_falls (hup : (s.at t).regsUp = true) (hp : p < 2) :
    Runs (.ethLinkChange t p false) s fun v =>
      getN v.sml.link p = false ∧ (∀ k < 32, getN (v.conn k).ports p = false) ∧ (v.singlePath = true ∨ s.sml.link.length ≤ p) ∧
      (s.sys.state.idle = false → p < s.sml.link.length → v.sml.singleAt = some (s.sml.singleAt.getD (s.at t).now)) := by
  refine ⟨_, runs_ethLinkChange t p false s _ rfl hup (by omega), ?_⟩
  dsimp only
  rw [if_neg (by decide), linkDown_eq hp]
  refine ⟨getN_setN_default .., fun k _ => linkLost_port k, ?_, fun hidle hlink => ?_⟩
  · obtain h | h := Nat.lt_or_ge p s.sml.link.length
    · exact .inl (linkLost_singlePath (by rwa [at_sml]))
    · exact .inr h
  · refine (settleSingle_singleAt (linkLost_singlePath (by rwa [at_sml])) ((congrArg St.idle (at_sys_state s t)).trans hidle)).trans ?_
    exact (congrArg (fun m : Sml => some (m.singleAt.getD (s.at t).now)) (at_sml s t) :)

theorem runs_ethLinkChange_rises (hup : (s.at t).regsUp = true) (hp : p < 2) (hlink : p < s.sml.link.length) :
    Runs (.ethLinkChange t p true) s fun v => getN v.sml.link p = true ∧ v.sml.conns = s.sml.conns := by
  refine ⟨_, runs_ethLinkChange t p true s _ rfl hup (by omega), ?_⟩
  dsimp only
  rw [if_pos rfl, settle_sml]
  unfold State.linkRise
  rw [if_pos hp]
  refine ⟨?_, (congrArg Sml.conns (at_sml s t) :)⟩
  exact getN_setN_self _ _ _ (by rwa [onClk_sml, at_sml])

end Links

/-! ## The Check-Value Unit (R415, R416, R418) -/

section Cvu
variable {t n : Nat} {r : CvuReq} {s : State}

theorem State.shaped.cvu_exists {s : State} (hs : s.shaped) {n : Nat} (hn : n < 32) : n < s.cvu.chans.length := by
  rw [hs.cvu]
  exact hn

/-- A channel that does not insert computes its polynomial over the message as it came. -/
theorem run_of_no_insert (c : CvuCh) (h : c.alive ≠ 1) (r : CvuReq) :
    (c.run r).result = crcOf c.poly r.input ∧
      (c.run r).crcErr = (if r.expected.any (· ≠ crcOf c.poly r.input) = true then satInc c.crcErr else c.crcErr) ∧
      (c.run r).aliveErr = if c.alive = 2 ∧ c.primed = true ∧ aliveAt r.input c.pos ≠ (c.now + 1) % 16 then satInc c.aliveErr
        else c.aliveErr := by
  unfold CvuCh.run
  dsimp only
  have hbytes : (if c.alive = 1 then aliveSet r.input c.pos c.now else r.input) = r.input := if_neg h
  rw [hbytes]
  exact ⟨rfl, rfl, rfl⟩

theorem runs_cvuComputeComplete_computes (hs : s.shaped) (hup : (s.at t).regsUp = true) (hn : n < 32)
    (hservice : (getN s.cvu.chans n).service = true) (hagree : r.disagree = false) (halive : (getN s.cvu.chans n).alive ≠ 1) :
    Runs (.cvuComputeComplete t n r) s fun v =>
      let c := getN s.cvu.chans n
      let w := getN v.cvu.chans n
      w.result = crcOf c.poly r.input ∧
        w.crcErr = (if r.expected.any (· ≠ crcOf c.poly r.input) = true then satInc c.crcErr else c.crcErr) ∧
        w.aliveErr = if c.alive = 2 ∧ c.primed = true ∧ aliveAt r.input c.pos ≠ (c.now + 1) % 16 then satInc c.aliveErr
          else c.aliveErr := by
  refine ⟨_, runs_cvuComputeComplete t n r s _ rfl hup hn (by rwa [at_cvu]) hagree, ?_⟩
  have hchan : getN (settle ((s.at t).onCvu fun k => { k with chans := modN k.chans n (CvuCh.run r) })).cvu.chans n =
      (getN s.cvu.chans n).run r := by
    rw [settle_cvu, onCvu_cvu, getN_modN_self _ _ _ ((at_shaped t hs).cvu_exists hn), at_cvu]
  dsimp only
  rw [hchan]
  exact run_of_no_insert _ halive r

/-- A change of one entry that a search skips before and after does not show in the search. -/
theorem findSome?_zipIdx_modN {α β : Type} {g : α × Nat → Option β} {f : α → α} {n : Nat} (l : List α) (i : Nat)
    (h : ∀ x, g (f x, i + n) = g (x, i + n)) : ((modN l n f).zipIdx i).findSome? g = (l.zipIdx i).findSome? g := by
  induction l generalizing n i with
  | nil => rfl
  | cons a l ih =>
    cases n with
    | zero =>
      have ha : g (f a, i) = g (a, i) := h a
      simp only [modN, List.zipIdx_cons, List.findSome?_cons, ha]
    | succ n =>
      have hrest := ih (n := n) (i + 1) fun x => by rw [Nat.add_right_comm]; exact h x
      simp only [modN, List.zipIdx_cons, List.findSome?_cons, hrest]

/-- A spare stands above the channels of Table 14.9. -/
theorem cvuSpare_some {s : State} {m : Nat} (h : s.cvuSpare = some m) : 28 ≤ m ∧ m < s.cvu.chans.length := by
  obtain ⟨⟨c, j⟩, hmem, hspare⟩ := List.exists_of_findSome?_eq_some h
  split at hspare
  · next hc =>
    obtain rfl := Option.some_injective _ hspare
    exact ⟨hc.1, (List.getElem?_eq_some_iff.mp (List.mem_zipIdx_iff_getElem?.mp hmem)).1⟩
  · cases hspare

/-- A channel that leaves service does not change which spare is free. -/
theorem cvuSpare_onCvu_fault (hn : n < 28) (f : CvuCh → CvuCh) (s : State) :
    (s.onCvu fun k => { k with chans := modN k.chans n f }).cvuSpare = s.cvuSpare := by
  refine findSome?_zipIdx_modN s.cvu.chans 0 fun x => ?_
  dsimp only
  rw [if_neg fun h => absurd h.1 (by omega), if_neg fun h => absurd h.1 (by omega)]

theorem cvuFrameLost_cvu (u : Nat) (s : State) : (s.cvuFrameLost u).cvu = s.cvu := by
  unfold State.cvuFrameLost
  split <;> rfl

/-- A user whose channel's engines disagree moves to the spare (R418). -/
theorem cvuFault_spare {s : State} (hn : n < 28) (hexists : n < s.cvu.chans.length) (huser : (getN s.cvu.chans n).user ≠ 0xFF) {m : Nat}
    (hspare : s.cvuSpare = some m) :
    let v := s.cvuFault n
    (getN v.cvu.chans n).service = false ∧ 28 ≤ m ∧ (getN v.cvu.chans m).user = (getN s.cvu.chans n).user ∧
      (getN v.cvu.chans m).poly = (getN s.cvu.chans n).poly := by
  obtain ⟨hm, hlen⟩ := cvuSpare_some hspare
  unfold State.cvuFault
  dsimp only
  rw [if_neg huser]
  generalize hu : s.onCvu (fun k => { k with chans := modN k.chans n fun c => { c with service := false } }) = u
  have hcvu : (u.cvuFrameLost (getN s.cvu.chans n).user).cvu = u.cvu := cvuFrameLost_cvu ..
  have hspare' : (u.cvuFrameLost (getN s.cvu.chans n).user).cvuSpare = some m := by
    rw [← hspare, ← cvuSpare_onCvu_fault hn (fun c => { c with service := false }) s, hu]
    exact congrArg (fun k : Cvu => State.cvuSpare { u with cvu := k }) hcvu
  rw [hspare']
  dsimp only
  have hchans : u.cvu.chans = modN s.cvu.chans n fun c => { c with service := false } := by rw [← hu]; rfl
  have hne : n ≠ m := by omega
  rw [onCvu_cvu, hcvu, hchans]
  dsimp only
  rw [getN_modN_ne _ _ _ _ hne, getN_modN_self _ _ _ hexists, getN_modN_self _ _ _ ((modN_length ..).symm ▸ hlen)]
  exact ⟨rfl, hm, rfl, rfl⟩

theorem runs_cvuComputeComplete_moves {m : Nat} (hs : s.shaped) (hup : (s.at t).regsUp = true) (hn : n < 28)
    (hservice : (getN s.cvu.chans n).service = true) (hdisagree : r.disagree = true) (huser : (getN s.cvu.chans n).user ≠ 0xFF)
    (hspare : (s.at t).cvuSpare = some m) :
    Runs (.cvuComputeComplete t n r) s fun v =>
      (getN v.cvu.chans n).service = false ∧ 28 ≤ m ∧ (getN v.cvu.chans m).user = (getN s.cvu.chans n).user ∧
      (getN v.cvu.chans m).poly = (getN s.cvu.chans n).poly := by
  have hfault := cvuFault_spare hn ((at_shaped t hs).cvu_exists (by omega)) (by rwa [at_cvu]) hspare
  rw [at_cvu] at hfault
  refine ⟨_, finish_of_eq (f := fun s => if s.regsUp ∧ n < 32 ∧ (getN s.cvu.chans n).service then
      if r.disagree then s.cvuFault n else s.onCvu fun k => { k with chans := modN k.chans n (CvuCh.run r) } else s) ?_, hfault⟩
  rw [if_pos ⟨hup, by omega, by rwa [at_cvu]⟩, if_pos hdisagree]

end Cvu

/-! ## Pauses (17 R479) -/

/-- A pause marks each connection, and no watchdog moves. -/
theorem each_pause {k : Nat} (l : List Nat) (s : State) (hk : k < s.sml.conns.length) :
    let v := s.each l fun k s => s.onConn k fun c => { c with paused := true }
    (k ∈ l ∨ (s.conn k).paused = true → (v.conn k).paused = true) ∧ (v.conn k).dogAt = (s.conn k).dogAt := by
  induction l generalizing s with
  | nil => exact ⟨fun h => h.resolve_left List.not_mem_nil, rfl⟩
  | cons a l ih =>
    have hpaused : k = a ∨ (s.conn k).paused = true → ((s.onConn a fun c => { c with paused := true }).conn k).paused = true := by
      rintro (rfl | h)
      · rw [conn_onConn_self hk]
      · obtain rfl | hne := eq_or_ne k a
        · rw [conn_onConn_self hk]
        · exact (congrArg Conn.paused (getN_modN_ne _ _ _ _ hne) :).trans h
    obtain ⟨hmem, hdog⟩ := ih (s.onConn a fun c => { c with paused := true }) (by rwa [onConn_conns_length])
    refine ⟨fun h => hmem ?_, hdog.trans (conn_onConn_view (g := Conn.dogAt) (f := fun c => { c with paused := true }) (fun _ => rfl) a k s)⟩
    obtain hmem' | h := h
    · obtain rfl | hmem' := List.mem_cons.mp hmem'
      · exact .inr (hpaused (.inl rfl))
      · exact .inl hmem'
    · exact .inr (hpaused (.inr h))

theorem runs_connectionPause_pauses {t : Nat} {s : State} (hon : (s.at t).smlOn = true)
    (hquiet : ∀ k ∈ s.rxSlots 4, ∃ i, (s.conn k).aliveSince = some i ∧ i + 100 * ms ≤ (s.at t).now)
    (hlive : ∀ k ∈ s.rxSlots 0, (s.conn k).state = .open_) :
    Runs (.connectionPause t) s fun v =>
      ∀ k ∈ s.rxSlots 4, k < s.sml.conns.length → (v.conn k).paused = true ∧ (v.conn k).dogAt = (s.conn k).dogAt := by
  have hslots (flag : Nat) : (s.at t).rxSlots flag = s.rxSlots flag := by
    unfold State.rxSlots
    rw [at_img]
  refine ⟨_, runs_connectionPause t s _ rfl hon ?_ ?_, ?_⟩
  · refine List.all_eq_true.mpr fun k hk => ?_
    rw [hslots] at hk
    obtain ⟨i, hi, hend⟩ := hquiet k hk
    exact pastOpt_some (by rwa [at_conn]) hend
  · refine List.all_eq_true.mpr fun k hk => ?_
    rw [hslots] at hk
    rw [at_conn, hlive k hk]
    rfl
  · intro k hk hlen
    obtain ⟨hpaused, hdog⟩ := each_pause (k := k) ((s.at t).rxSlots 4) (s.at t) (by rwa [at_sml])
    rw [at_conn] at hdog
    exact ⟨hpaused (.inl (by rwa [hslots])), hdog⟩

/-- Settles O47, by one lemma for each timer, message and channel. -/
theorem connectionsTimersAndCheckValuesAct : Obligations.ConnectionsTimersAndCheckValuesAct := by
  unfold Obligations.ConnectionsTimersAndCheckValuesAct
  refine ⟨?single, ?missed, ?watchdog, ?opening, ?timer, ?status, ?announce, ?falls, ?rises, ?computes, ?moves, ?pause⟩
  case single => exact fun t n q k r p s hs hk hr hpair hon => runs_skewWindowEnd_single hs hk hr hpair hon
  case missed => exact fun q p got c hp hgot hport hcounts => monitor_missing hp hgot hport hcounts
  case watchdog =>
    exact fun t n k r s hs hk hr hslot hon hdir hopen hend => runs_smlWatchdogExpiry_fails hs hk hr hslot hon hdir hopen hend
  case opening => exact fun t n k r s hs hk hr hon hdir hopening hend => runs_smlOpeningExpiry_closes hs hk hr hon hdir hopening hend
  case timer => exact fun t s hon hend => runs_singlePathTimerExpiry_trips hon hend
  case status => exact fun t n k r s hs hk hr hslot hon hdir hend => runs_statusSend_sends hs hk hr hslot hon hdir hend
  case announce => exact fun t p s hon hp hlink hann => runs_pathAnnounceSend_sends hon hp hlink hann
  case falls => exact fun t p s _ hup hp => runs_ethLinkChange_falls hup hp
  case rises => exact fun t p s hup hp hlink => runs_ethLinkChange_rises hup hp hlink
  case computes =>
    exact fun t n r s hs hup hn hservice hagree halive => runs_cvuComputeComplete_computes hs hup hn hservice hagree halive
  case moves =>
    exact fun t n m r s hs hup hn hservice hdisagree huser hspare =>
      runs_cvuComputeComplete_moves hs hup hn hservice hdisagree huser hspare
  case pause => exact fun t s hon hquiet hlive => runs_connectionPause_pauses hon hquiet hlive

end Sys2Proof.Machine
end

section
/-! SUPPORT. The Crosswind link (15 R425 to R433, R440): what a heard frame leaves, forming, cycles, and the change of the master. -/

namespace Sys2Proof.Machine

/-! ## What an instant leaves of the ring -/

section Instant
variable (t : Nat) (s : State)

@[simp] theorem at_ring : (s.at t).ring = s.ring := congrArg (fun i : Image => i.messages.ring) (at_img t s)

@[simp] theorem at_node (n : Nat) : (s.at t).node n = s.node n := congrArg (fun w : Xwl => getN w.nodes n) (at_xwl s t)

theorem inRoster_of {s u : State} (hcfg : s.cfg = u.cfg) (hxwl : s.xwl = u.xwl) (n : Nat) : s.inRoster n = u.inRoster n :=
  congrArg₂ (fun c x => State.inRoster n { s with cfg := c, xwl := x }) hcfg hxwl

@[simp] theorem at_inRoster (n : Nat) : (s.at t).inRoster n = s.inRoster n := inRoster_of (at_cfg s t) (at_xwl s t) n

@[simp] theorem at_pathDelay (m : XwlRx) : (s.at t).pathDelay m = s.pathDelay m :=
  congrArg (fun w : Xwl => getN w.delays m.lane + if xHops m = 0 then 0 else Config.hopDelays m.lane (xHops m)) (at_xwl s t)

end Instant

/-! ## A heard frame (R425) -/

/-- The lane that receives. -/
def Xwl.laneOn (lane : Nat) (w : Xwl) : Xwl := let l := setN w.lanes lane true; { w with lanes := l, line := !(l.all id) }

/-- The sender's node once a first copy is taken. -/
def Xwl.took (m : XwlRx) (w : Xwl) : Xwl :=
  { w with nodes := modN (modN w.nodes (xSrc m) fun x => { x with alive := setN x.alive m.lane (some (xAlive m)) }) (xSrc m) fun x =>
      { x with taken := some (xAlive m) } }

/-- What a heard frame of the kind `k` leaves before it acts. While forming, a CLAIM is not forwarded (R428). -/
def State.copied (k : Nat) (m : XwlRx) (s : State) : State :=
  (if k = 3 ∧ (s.xwlForming = true ∨ s.xwl.phase = .backoff) then s.xwlLane m.lane else (s.xwlLane m.lane).xwlForward m).onXwl
    (Xwl.took m)

/-- A frame that continues its sender's alive counter is a first copy. -/
theorem xwlFirst_of_next {m : XwlRx} {s : State} (hnext : ∀ a, getN (s.node (xSrc m)).alive m.lane = some a → (a + 1) % 16 = xAlive m)
    (htaken : (s.node (xSrc m)).taken ≠ some (xAlive m)) : s.xwlFirst m = (true, s.onXwl (Xwl.took m)) := by
  have hgap : ((getN (s.node (xSrc m)).alive m.lane).any fun a => (a + 1) % 16 != xAlive m) = false := by
    cases hlast : getN (s.node (xSrc m)).alive m.lane with
    | none => rfl
    | some a =>
      rw [Option.any_some, hnext a hlast]
      exact bne_self_eq_false _
  unfold State.xwlFirst
  dsimp only
  rw [hgap, if_neg (by decide), if_neg htaken]
  rfl

theorem xwlForward_xwl (m : XwlRx) (s : State) : (s.xwlForward m).xwl = s.xwl := by
  unfold State.xwlForward
  split <;> rfl

theorem xwlForward_cfg (m : XwlRx) (s : State) : (s.xwlForward m).cfg = s.cfg := by
  unfold State.xwlForward
  split <;> rfl

/-- A heard frame acts on the state that its copy leaves. -/
theorem xwlRx_of_hears {k : Nat} {m : XwlRx} {s : State} (h : s.hears k m) (f : State → State) : s.xwlRx k m f = f (s.copied k m) := by
  obtain ⟨hoff, hclk, hlane, hok, hkind, -, hsrc, hmember, hnext, htaken⟩ := h
  have hring (c : Prop) [Decidable c] :
      (if c then s.xwlLane m.lane else (s.xwlLane m.lane).xwlForward m).ring = s.ring := by
    split
    · rfl
    · exact congrArg (fun c : Cfg => c.img.messages.ring) (xwlForward_cfg m (s.xwlLane m.lane))
  have hnode (c : Prop) [Decidable c] :
      (if c then s.xwlLane m.lane else (s.xwlLane m.lane).xwlForward m).node (xSrc m) = s.node (xSrc m) := by
    split
    · rfl
    · exact (congrArg (fun w : Xwl => getN w.nodes (xSrc m)) (xwlForward_xwl m (s.xwlLane m.lane)) :)
  have hring' : (s.xwlLane m.lane).ring = s.ring := rfl
  unfold State.xwlRx
  rw [if_neg (by rw [hclk]; simp only [hoff, Bool.not_true, Bool.false_eq_true, false_or]; omega)]
  dsimp only
  rw [if_neg (by rw [hok]; decide), if_neg (not_not.mpr hkind), if_neg (by rwa [hring']), if_neg (by rw [hring, hmember]; decide),
    xwlFirst_of_next (by rwa [hnode]) (by rwa [hnode])]
  rfl

theorem copied_xwl (k : Nat) (m : XwlRx) (s : State) : (s.copied k m).xwl = Xwl.took m (Xwl.laneOn m.lane s.xwl) := by
  unfold State.copied
  split
  · rfl
  · exact congrArg (Xwl.took m) (xwlForward_xwl m (s.xwlLane m.lane))

theorem copied_moves (k : Nat) (m : XwlRx) (s : State) : Moves [.xwl] s (s.copied k m) := by
  have hlane := State.xwlLane_moves m.lane (Moves.refl [.xwl] s) (by decide)
  have hnodes : Keeps Xwl.shaped (Xwl.took m) := by
    rintro w ⟨hn, hl⟩
    exact ⟨(modN_length ..).trans ((modN_length ..).trans hn), hl⟩
  unfold State.copied
  refine moves_onXwl ?_ (by decide) hnodes
  split
  · exact hlane
  · exact State.xwlForward_moves m hlane (by decide)

theorem copied_now (k : Nat) (m : XwlRx) (s : State) : (s.copied k m).now = s.now := (copied_moves k m s).now

theorem copied_cfg (k : Nat) (m : XwlRx) (s : State) : (s.copied k m).cfg = s.cfg := (copied_moves k m s).same .cfg (by decide)

/-- What a copy leaves of the link but the receiving lane and its sender's node. -/
theorem copied_link (k : Nat) (m : XwlRx) (s : State) :
    let w := (s.copied k m).xwl
    (w.phase, w.phaseAt, w.collisions, w.master, w.masterId, w.noSync, w.delays, w.seen, w.dup) =
      (s.xwl.phase, s.xwl.phaseAt, s.xwl.collisions, s.xwl.master, s.xwl.masterId, s.xwl.noSync, s.xwl.delays, s.xwl.seen, s.xwl.dup) := by
  dsimp only
  rw [copied_xwl]
  rfl

/-! ## Forming (R428, R429) -/

section Forming
variable {t : Nat} {s : State}

/-- The first bytes of a header: the kind of the frame. -/
theorem xwlHeader_kind (kind time : Nat) (s : State) : (s.xwlHeader kind time).getD 0 0 = byte kind := rfl

theorem xwlSend_out (data : Bytes) (s : State) : (s.xwlSend data).out = s.out ++ [.xwl 0 data, .xwl 1 data] := List.append_assoc ..

/-- After its listening time a node claims on both lanes. -/
theorem runs_xwlListenExpiry_claims (hphase : s.xwl.phase = .listen) (hon : (s.at t).xwlOn = true)
    (hend : s.xwl.phaseAt + (200000 + s.ring.nodeId * 50000) ≤ (s.at t).now) :
    Runs (.xwlListenExpiry t) s fun v =>
      v.xwl.phase = .claim ∧ v.xwl.phaseAt = (s.at t).now ∧ v.xwl.alive = (s.xwl.alive + 1) % 16 ∧
      v.out = [.xwl 0 ((s.at t).xwlHeader 3 (s.at t).dev), .xwl 1 ((s.at t).xwlHeader 3 (s.at t).dev)] := by
  refine ⟨_, runs_xwlListenExpiry t s _ rfl (by rwa [at_xwl]) hon (by rw [at_ring, at_xwl]; exact (past_iff ..).mpr hend), ?_⟩
  dsimp only
  rw [settle_out, xwlSend_out, onXwl_out, at_out]
  exact ⟨rfl, rfl, (congrArg (fun w : Xwl => (w.alive + 1) % 16) (at_xwl s t) :), rfl⟩

/-- What a claim of another node does (R428, R429). -/
def State.takeClaim (m : XwlRx) (s : State) : State :=
  match s.xwl.phase with
  | .claim => if s.now ≤ s.xwl.phaseAt + 2000 then s.xwlCollide else s
  | .listen | .backoff =>
    (s.onXwl fun w => { w with phase := .integrate, phaseAt := s.now, masterId := xSrc m, master := false, seen := 0, noSync := 0 }).xwlForward m
  | _ => s

theorem exec_xwlClaimReceived_of_hears {m : XwlRx} (h : (s.at t).hears 3 m) :
    exec (.xwlClaimReceived t m) s = .next (settle (((s.at t).copied 3 m).takeClaim m)) :=
  finish_of_eq (f := fun s => s.xwlRx 3 m (State.takeClaim m)) (xwlRx_of_hears h _)

/-- A claim within 2 µs of the own one is a collision; the first one heard while listening decides the master. -/
theorem runs_xwlClaimReceived_decides {m : XwlRx} (h : (s.at t).hears 3 m) :
    Runs (.xwlClaimReceived t m) s fun v =>
      (s.xwl.phase = .claim → (s.at t).now ≤ s.xwl.phaseAt + 2000 →
        v.xwl.phase = .backoff ∧ v.xwl.phaseAt = (s.at t).now ∧ v.xwl.collisions = satAdd 8 s.xwl.collisions 1) ∧
      (s.xwl.phase = .listen ∨ s.xwl.phase = .backoff →
        v.xwl.phase = .integrate ∧ v.xwl.masterId = xSrc m ∧ v.xwl.master = false) ∧
      (s.xwl.phase = .member ∨ s.xwl.phase = .integrate → v.xwl.phase = s.xwl.phase ∧ v.xwl.masterId = s.xwl.masterId) := by
  have hlink := copied_link 3 m (s.at t)
  have hnow := copied_now 3 m (s.at t)
  rw [at_xwl] at hlink
  refine ⟨_, exec_xwlClaimReceived_of_hears h, ?_⟩
  dsimp only
  generalize (s.at t).copied 3 m = w at hlink hnow
  simp only [Prod.mk.injEq] at hlink
  obtain ⟨hphase, hat, hcollisions, -, hid, -⟩ := hlink
  rw [settle_xwl]
  unfold State.takeClaim
  rw [hphase]
  refine ⟨fun hclaim hsoon => ?_, fun hforming => ?_, fun hrunning => ?_⟩
  · rw [hclaim]
    dsimp only
    rw [if_pos (by rw [hat, hnow]; exact hsoon)]
    exact ⟨rfl, hnow, congrArg (satAdd 8 · 1) hcollisions⟩
  · obtain h | h := hforming
    · rw [h]
      dsimp only
      rw [xwlForward_xwl]
      exact ⟨rfl, rfl, rfl⟩
    · rw [h]
      dsimp only
      rw [xwlForward_xwl]
      exact ⟨rfl, rfl, rfl⟩
  · obtain h | h := hrunning
    · rw [h]
      exact ⟨hphase.trans h, hid⟩
    · rw [h]
      exact ⟨hphase.trans h, hid⟩

theorem runs_xwlBackoffExpiry_listens (hphase : s.xwl.phase = .backoff)
    (hend : s.xwl.phaseAt + (ms + s.ring.nodeId * 100000) ≤ (s.at t).now) :
    Runs (.xwlBackoffExpiry t) s fun v => v.xwl.phase = .listen ∧ v.xwl.phaseAt = (s.at t).now :=
  ⟨_, runs_xwlBackoffExpiry t s _ rfl (by rwa [at_xwl]) (by rw [at_ring, at_xwl]; exact (past_iff ..).mpr hend), rfl, rfl⟩

end Forming

/-! ## Cycles (R431) -/

section Cycles
variable {t : Nat} {s : State}

/-- The master sends its SYNC on both lanes; another node sends nothing. -/
theorem sendSync_out (s : State) :
    (s.xwl.master = false → s.sendSync.out = s.out) ∧
      (s.xwl.master = true → s.xwlOn = true → ∃ f, s.sendSync.out = s.out ++ [.xwl 0 f, .xwl 1 f] ∧ f.getD 0 0 = 1) := by
  unfold State.sendSync
  refine ⟨fun hm => ?_, fun hm hon => ?_⟩
  · rw [if_neg fun h => absurd h.1 (by rw [hm]; decide)]
  · rw [if_pos ⟨hm, hon⟩]
    exact ⟨_, xwlSend_out .., xwlHeader_kind ..⟩

/-- Of the link a SYNC steps the alive counter alone. -/
theorem sendSync_xwl (s : State) : ∃ a, s.sendSync.xwl = { s.xwl with alive := a } := by
  unfold State.sendSync
  split
  · exact ⟨_, rfl⟩
  · exact ⟨s.xwl.alive, rfl⟩

theorem xwlOn_of {s : State} (hphase : s.xwl.phase = .member) (hdup : s.xwl.dup = false) (hclk : s.clk.xwlOk = true) : s.xwlOn = true := by
  unfold State.xwlOn
  rw [hphase, hdup, hclk]
  rfl

/-- An unanswered claimant is master of cycle 0 and sends SYNC. -/
theorem runs_xwlCycleStart_first (hclk : s.clk.xwlOk = true) (hphase : s.xwl.phase = .claim)
    (hend : s.xwl.phaseAt + 100000 ≤ (s.at t).now) :
    Runs (.xwlCycleStart t) s fun v =>
      v.xwl.phase = .member ∧ v.xwl.master = true ∧ v.xwl.masterId = s.ring.nodeId ∧ v.xwl.cycle = 0 ∧
      v.xwl.cycleAt = (s.at t).now ∧ (s.xwl.dup = false → ∃ f, v.out = [.xwl 0 f, .xwl 1 f] ∧ f.getD 0 0 = 1) := by
  have hok : (s.at t).clk.xwlOk = true := by rwa [at_clk_xwlOk]
  refine ⟨_, (runs_xwlCycleStart t s _ rfl hok).1 (by rwa [at_xwl]) (by rw [at_xwl]; exact (past_iff ..).mpr hend), ?_⟩
  dsimp only
  rw [settle_xwl, settle_out]
  generalize hu : (s.at t).onXwl _ = u
  have hxwl : u.xwl.phase = .member ∧ u.xwl.master = true ∧ u.xwl.masterId = s.ring.nodeId ∧ u.xwl.cycle = 0 ∧
      u.xwl.cycleAt = (s.at t).now ∧ u.xwl.dup = s.xwl.dup ∧ u.clk.xwlOk = true ∧ u.out = [] := by
    rw [← hu, onXwl_clk, onXwl_out, at_out]
    exact ⟨rfl, rfl, (congrArg RingRec.nodeId (at_ring t s) :), rfl, rfl, (congrArg Xwl.dup (at_xwl s t) :), hok, rfl⟩
  obtain ⟨hp, hm, hid, hc, hat, hd, hk, hout⟩ := hxwl
  obtain ⟨a, hsync⟩ := sendSync_xwl u
  rw [hsync]
  refine ⟨hp, hm, hid, hc, hat, fun hdup => ?_⟩
  obtain ⟨f, hf, hkind⟩ := (sendSync_out u).2 hm (xwlOn_of hp (hd.trans hdup) hk)
  exact ⟨f, by rw [hf, hout]; rfl, hkind⟩

/-- What the cycle timer leaves. -/
theorem xwlTick_leaves (s : State) :
    let u := s.xwlTick
    u.xwl.cycle = (s.xwl.cycle + 1) % 2 ^ 32 ∧ u.xwl.cycleAt = s.now ∧ u.xwl.slotDone = false ∧
      u.xwl.noSync = (if s.xwl.master then 0 else s.xwl.noSync + 1) ∧ u.xwl.master = s.xwl.master ∧ u.xwl.dup = s.xwl.dup ∧
      u.xwl.phase = s.xwl.phase ∧ u.clk = s.clk ∧ u.out = s.out := ⟨rfl, rfl, rfl, rfl, rfl, rfl, rfl, rfl, rfl⟩

/-- Each cycle steps the number; its master sends SYNC. -/
theorem runs_xwlCycleStart_next (hclk : s.clk.xwlOk = true) (hphase : s.xwl.phase = .member)
    (hend : s.xwl.cycleAt + 99900 ≤ (s.at t).now) :
    Runs (.xwlCycleStart t) s fun v =>
      v.xwl.cycle = (s.xwl.cycle + 1) % 2 ^ 32 ∧ v.xwl.cycleAt = (s.at t).now ∧ v.xwl.slotDone = false ∧
      v.xwl.noSync = (if s.xwl.master then 0 else s.xwl.noSync + 1) ∧ (s.xwl.master = false → v.out = []) ∧
      (s.xwl.master = true → s.xwl.dup = false → ∃ f, v.out = [.xwl 0 f, .xwl 1 f] ∧ f.getD 0 0 = 1) := by
  have hok : (s.at t).clk.xwlOk = true := by rwa [at_clk_xwlOk]
  refine ⟨_, (runs_xwlCycleStart t s _ rfl hok).2 (by rwa [at_xwl]) (by rw [at_xwl]; exact (past_iff ..).mpr hend), ?_⟩
  dsimp only
  obtain ⟨hc, hat, hslot, hno, hm, hd, hp, hk, hout⟩ := xwlTick_leaves (s.at t)
  generalize (s.at t).xwlTick = u at hc hat hslot hno hm hd hp hk hout
  rw [at_xwl] at hc hno hm hd hp
  rw [at_out] at hout
  obtain ⟨a, hsync⟩ := sendSync_xwl u
  rw [settle_xwl, settle_out, hsync]
  refine ⟨hc, hat, hslot, hno, fun hmaster => ?_, fun hmaster hdup => ?_⟩
  · rw [(sendSync_out u).1 (hm.trans hmaster), hout]
  · obtain ⟨f, hf, hkind⟩ := (sendSync_out u).2 (hm.trans hmaster)
      (xwlOn_of (hp.trans hphase) (hd.trans hdup) ((congrArg Clk.xwlOk hk).trans hok))
    exact ⟨f, by rw [hf, hout]; rfl, hkind⟩

end Cycles

/-! ## The SYNC of a master (R431 to R433) -/

section Sync
variable {t : Nat} {m : XwlRx} {s : State}

/-- What the alignment leaves of the link: the cycle, and the time by the path delay. -/
theorem align_leaves (m : XwlRx) (s : State) :
    let w := (s.align m).xwl
    w.cycle = xCycle m ∧ w.cycleAt = s.now - s.pathDelay m ∧ w.noSync = 0 ∧ w.masterId = s.xwl.masterId ∧ w.master = s.xwl.master ∧
      w.timeOfs = sat32 ((xTime m : Int) + s.pathDelay m - s.dev) := by
  have hdiscipline (u : State) (o : Int) (c : Prop) [Decidable c] : (if c then u.discipline o else u).xwl = u.xwl := by
    split
    · exact (State.discipline_moves o (Moves.refl _ u) (List.Subset.refl _)).same .xwl (by decide)
    · rfl
  have htick (c : Prop) [Decidable c] :
      let u := if c then s.xwlUp.onXwl fun w => { w with measured := w.measured + 1 } else s
      u.now = s.now ∧ u.xwl.masterId = s.xwl.masterId ∧ u.xwl.master = s.xwl.master := by
    dsimp only
    split <;> exact ⟨rfl, rfl, rfl⟩
  unfold State.align
  dsimp only
  obtain ⟨hnow, hid, hmaster⟩ := htick ((s.xwl.seen = 0 ∨ xCycle m ≠ s.xwl.cycle) ∧ s.xwl.seen ≠ 0)
  generalize (if (s.xwl.seen = 0 ∨ xCycle m ≠ s.xwl.cycle) ∧ s.xwl.seen ≠ 0 then _ else s) = u at hnow hid hmaster
  rw [hdiscipline]
  exact ⟨rfl, congrArg (· - s.pathDelay m) hnow, rfl, hid, hmaster, rfl⟩

theorem exec_xwlSyncReceived_of_hears (h : (s.at t).hears 1 m) :
    exec (.xwlSyncReceived t m) s = .next (settle (((s.at t).copied 1 m).takeSync m)) :=
  finish_of_eq (f := fun s => s.xwlRx 1 m (State.takeSync m)) (xwlRx_of_hears h _)

/-- The SYNC of its master aligns a node's cycle. -/
theorem takeSync_own (hphase : s.xwl.phase = .member ∨ s.xwl.phase = .integrate) (hmaster : s.xwl.master = false)
    (hsrc : xSrc m = s.xwl.masterId) : s.takeSync m = s.align m := by
  unfold State.takeSync
  obtain h | h := hphase <;>
  · dsimp only
    rw [h]
    dsimp only
    rw [if_neg (by rw [hmaster]; decide), if_pos hsrc]

theorem runs_xwlSyncReceived_aligns (h : (s.at t).hears 1 m) (hphase : s.xwl.phase = .member ∨ s.xwl.phase = .integrate)
    (hmaster : s.xwl.master = false) (hsrc : xSrc m = s.xwl.masterId) :
    Runs (.xwlSyncReceived t m) s fun v =>
      let d := s.pathDelay m
      v.xwl.cycle = xCycle m ∧ v.xwl.cycleAt = (s.at t).now - d ∧ v.xwl.noSync = 0 ∧ v.xwl.masterId = s.xwl.masterId ∧
        v.xwl.timeOfs = sat32 ((xTime m : Int) + d - (s.at t).dev) := by
  have hlink := copied_link 1 m (s.at t)
  have hnow := copied_now 1 m (s.at t)
  have hdev : ((s.at t).copied 1 m).dev = (s.at t).dev := congrArg Clk.dev ((copied_moves 1 m (s.at t)).same .clk (by decide))
  refine ⟨_, exec_xwlSyncReceived_of_hears h, ?_⟩
  dsimp only
  generalize (s.at t).copied 1 m = w at hlink hnow hdev
  rw [at_xwl] at hlink
  simp only [Prod.mk.injEq] at hlink
  obtain ⟨hp, -, -, hm, hid, -, hdelays, -⟩ := hlink
  have hdelay : w.pathDelay m = s.pathDelay m :=
    congrArg (fun l : List Nat => getN l m.lane + if xHops m = 0 then 0 else Config.hopDelays m.lane (xHops m)) hdelays
  obtain ⟨hcycle, hat, hno, hid', -, htime⟩ := align_leaves m w
  rw [settle_xwl, takeSync_own (by rwa [hp]) (hm.trans hmaster) (by rwa [hid]), hcycle, hat, hno, hid', htime, hdelay, hnow, hdev, hid]
  exact ⟨rfl, rfl, rfl, rfl, rfl⟩

/-- Of two masters the one with the higher identity yields (R432). -/
theorem runs_xwlSyncReceived_yields (h : (s.at t).hears 1 m) (hphase : s.xwl.phase = .member) (hmaster : s.xwl.master = true) :
    Runs (.xwlSyncReceived t m) s fun v =>
      v.xwl.master = !(decide (xSrc m < s.ring.nodeId)) ∧
      v.xwl.masterId = if xSrc m < s.ring.nodeId then xSrc m else s.xwl.masterId := by
  have hlink := copied_link 1 m (s.at t)
  have hring : ((s.at t).copied 1 m).ring = s.ring :=
    (congrArg (fun c : Cfg => c.img.messages.ring) (copied_cfg 1 m (s.at t)) :).trans (at_ring t s)
  refine ⟨_, exec_xwlSyncReceived_of_hears h, ?_⟩
  dsimp only
  generalize (s.at t).copied 1 m = w at hlink hring
  rw [at_xwl] at hlink
  simp only [Prod.mk.injEq] at hlink
  obtain ⟨hp, -, -, hm, hid, -⟩ := hlink
  rw [settle_xwl]
  unfold State.takeSync
  dsimp only
  rw [hp, hphase]
  dsimp only
  rw [if_pos (hm.trans hmaster), hring]
  split
  · next hless =>
    obtain ⟨-, -, -, hid', hm', -⟩ := align_leaves m ((w.onXwl fun w => { w with events := w.events ||| 32 }).onXwl fun w =>
      { w with master := false, masterId := xSrc m, phase := .integrate, seen := 0, up := false, upCycles := 0 })
    rw [hid', hm', decide_eq_true hless]
    exact ⟨rfl, rfl⟩
  · next hless =>
    rw [decide_eq_false hless]
    exact ⟨hm.trans hmaster, hid⟩

/-- A frame that fails its check is counted, and a collision while forming. -/
theorem xwlRx_of_bad (k : Nat) (f : State → State) (hoff : s.xwl.phase ≠ .off) (hclk : s.clk.xwlOk = true) (hlane : m.lane < 2)
    (hbad : xOk m = false) : s.xwlRx k m f = (s.xwlLane m.lane).xwlBad m := by
  unfold State.xwlRx
  rw [if_neg (by rw [hclk]; simp only [hoff, Bool.not_true, Bool.false_eq_true, false_or]; omega)]
  exact if_pos (by rw [hbad]; rfl)

end Sync

/-! ## A lost master, delays and lanes (R432, R433, R440) -/

section Loss
variable {t n : Nat} {s : State}

/-- A node that is left alone listens. -/
theorem exec_xwlSyncLoss_alone (hphase : s.xwl.phase = .member) (hmaster : s.xwl.master = false) (hno : 4 ≤ s.xwl.noSync)
    (hnone : ((List.range 8).find? fun n => s.inRoster n && n != s.xwl.masterId) = none) :
    exec (.xwlSyncLoss t) s = .next (settle ((s.at t).onXwl fun w => { w with phase := .listen, phaseAt := (s.at t).now })) := by
  have hlost : ((s.at t).xwl.phase = .member ∨ (s.at t).xwl.phase = .integrate) ∧ (!(s.at t).xwl.master) = true ∧ 4 ≤ (s.at t).xwl.noSync := by
    rw [at_xwl, hmaster]
    exact ⟨.inl hphase, rfl, hno⟩
  rw [exec_xwlSyncLoss]
  unfold execXwlSyncLoss finish
  dsimp only
  rw [if_pos hlost]
  simp only [at_inRoster, at_xwl, hnone]

/-- Four cycles without SYNC hand over to the lowest node left, or the node listens. -/
theorem runs_xwlSyncLoss_hands_over (hphase : s.xwl.phase = .member) (hmaster : s.xwl.master = false) (hno : 4 ≤ s.xwl.noSync) :
    Runs (.xwlSyncLoss t) s fun v =>
      match (List.range 8).find? fun n => s.inRoster n && n != s.xwl.masterId with
      | some n => v.xwl.masterId = n ∧ v.xwl.master = decide (n = s.ring.nodeId) ∧ v.xwl.noSync = 0
      | none => v.xwl.phase = .listen ∧ v.xwl.phaseAt = (s.at t).now := by
  cases hnext : (List.range 8).find? fun n => s.inRoster n && n != s.xwl.masterId with
  | some n =>
    refine ⟨_, runs_xwlSyncLoss t n s _ rfl (by rwa [at_xwl]) (by rwa [at_xwl]) (by rwa [at_xwl])
      (by simpa only [at_inRoster, at_xwl] using hnext), ?_⟩
    dsimp only
    rw [settle_xwl]
    obtain ⟨a, hsync⟩ := sendSync_xwl ((s.at t).onXwl fun w =>
      { w with masterId := n, master := decide (n = (s.at t).ring.nodeId), follow := w.follow && n != (s.at t).ring.nodeId, noSync := 0,
               events := w.events ||| 8 })
    rw [hsync, at_ring]
    exact ⟨rfl, rfl, rfl⟩
  | none =>
    exact ⟨_, exec_xwlSyncLoss_alone hphase hmaster hno hnext, rfl, rfl⟩

theorem runs_xwlDelayMeasure_keeps {a b : Nat} (hclk : s.clk.xwlOk = true)
    (hphase : s.xwl.phase = .integrate ∨ (s.xwl.phase = .member ∧ 1000 ≤ s.xwl.measured)) :
    Runs (.xwlDelayMeasure t a b) s fun v => v.xwl.delays = [a, b] ∧ v.xwl.measured = 0 :=
  ⟨_, finish_of_eq (f := fun s =>
    if s.clk.xwlOk ∧ (s.xwl.phase = .integrate ∨ (s.xwl.phase = .member ∧ 1000 ≤ s.xwl.measured)) then
      s.onXwl fun w => { w with delays := [a, b], measured := 0 } else s)
    (if_pos ⟨by rwa [at_clk_xwlOk], by rwa [at_xwl]⟩), rfl, rfl⟩

theorem runs_xwlLaneLoss_sets_line (hs : s.shaped) (hn : n < 2) (hoff : s.xwl.phase ≠ .off) (hlane : getN s.xwl.lanes n = true) :
    Runs (.xwlLaneLoss t n) s fun v =>
      getN v.xwl.lanes n = false ∧ v.xwl.line = true ∧ v.xwl.phase = s.xwl.phase ∧ bit v.xwl.events 1 = true := by
  refine ⟨_, runs_xwlLaneLoss t n s _ rfl hn (by rwa [at_xwl]) (by rwa [at_xwl]), ?_⟩
  dsimp only
  have hevent (u : State) (name : String) : (u.evOpen 0x0C name n 0).xwl = u.xwl := State.evOpen_same (p := .xwl) (by decide) ..
  rw [settle_xwl, hevent, onXwl_xwl, at_xwl]
  refine ⟨getN_setN_self _ _ _ (by rw [hs.xwl.2]; exact hn), rfl, rfl, ?_⟩
  unfold bit
  rw [Nat.testBit_or]
  exact Bool.or_true _

end Loss

/-- Settles O48, by what a heard frame leaves and one lemma for each event of the ring. -/
theorem ringFormsAndKeepsItsCycle : Obligations.RingFormsAndKeepsItsCycle := by
  unfold Obligations.RingFormsAndKeepsItsCycle
  refine ⟨?listen, ?claim, ?backoff, ?first, ?next, ?sync, ?masters, ?bad, ?loss, ?delay, ?lane⟩
  case listen => exact fun t s hphase hon hend => runs_xwlListenExpiry_claims hphase hon hend
  case claim => exact fun t m s _ h => runs_xwlClaimReceived_decides h
  case backoff => exact fun t s hphase hend => runs_xwlBackoffExpiry_listens hphase hend
  case first => exact fun t s hclk hphase hend => runs_xwlCycleStart_first hclk hphase hend
  case next => exact fun t s hclk hphase hend => runs_xwlCycleStart_next hclk hphase hend
  case sync => exact fun t m s _ h hphase hmaster hsrc => runs_xwlSyncReceived_aligns h hphase hmaster hsrc
  case masters => exact fun t m s _ h hphase hmaster => runs_xwlSyncReceived_yields h hphase hmaster
  case bad => exact fun k m f s hoff hclk hlane hbad => xwlRx_of_bad k f hoff hclk hlane hbad
  case loss => exact fun t s hphase hmaster hno => runs_xwlSyncLoss_hands_over hphase hmaster hno
  case delay => exact fun t a b s hclk hphase => runs_xwlDelayMeasure_keeps hclk hphase
  case lane => exact fun t n s hs hn hoff hlane => runs_xwlLaneLoss_sets_line hs hn hoff hlane

end Sys2Proof.Machine
end

section
/-! SUPPORT. Group stops and shared work on the Crosswind link (15 R426, R431, R435, R438). -/

namespace Sys2Proof.Machine

/-! ## The stop that is asked (R435) -/

theorem ringAsks_of {s u : State} (hcfg : s.cfg = u.cfg) (hphase : s.xwl.phase = u.xwl.phase)
    (hnodes : ∀ n, ((s.node n).roster, (s.node n).stop) = ((u.node n).roster, (u.node n).stop)) : s.ringAsks = u.ringAsks := by
  have hasked (n : Nat) : (if (s.node n).roster then (s.node n).stop else 1) = if (u.node n).roster then (u.node n).stop else 1 := by
    obtain ⟨hroster, hstop⟩ := Prod.mk.inj (hnodes n)
    rw [hroster, hstop]
  have hobeyed : s.obeyed = u.obeyed := congrArg (fun c => State.obeyed { s with cfg := c }) hcfg
  unfold State.ringAsks
  rw [hphase, hobeyed]
  simp only [hasked]

/-- The trip that a grown stop raises. -/
def askedTrips (was k : Nat) : List Trip := if was < k then [{ src := 0x0F, sto := decide (k = 2) }] else []

/-- A grown stop trips; the link stays as it is. -/
theorem ringTrip_leaves (was : Nat) (s : State) :
    let v := s.ringTrip was
    v.xwl = s.xwl ∧ v.cfg = s.cfg ∧ v.sys.pendTrips = s.sys.pendTrips ++ askedTrips was s.ringAsks := by
  unfold State.ringTrip askedTrips
  dsimp only
  split
  · exact ⟨rfl, rfl, by rw [beq_eq_decide]; rfl⟩
  · exact ⟨rfl, rfl, (List.append_nil _).symm⟩

theorem settle_ringAsks (s : State) : (settle s).ringAsks = s.ringAsks := rfl

/-- What a command that notes the growth of the stop leaves. -/
theorem settle_ringTrip {was : Nat} {s u : State} (hwas : was = s.ringAsks) (hpend : u.sys.pendTrips = s.sys.pendTrips) :
    let v := settle (u.ringTrip was)
    v.xwl = u.xwl ∧ v.sys.pendTrips = s.sys.pendTrips ++
      (if s.ringAsks < v.ringAsks then [{ src := 0x0F, sto := decide (v.ringAsks = 2) }] else []) := by
  subst hwas
  obtain ⟨hxwl, hcfg, htrips⟩ := ringTrip_leaves s.ringAsks u
  have hasks : (u.ringTrip s.ringAsks).ringAsks = u.ringAsks := ringAsks_of hcfg (by rw [hxwl]) fun n => by unfold State.node; rw [hxwl]
  dsimp only
  rw [settle_xwl, settle_ringAsks, settle_sys, htrips, hasks, hpend]
  exact ⟨hxwl, rfl⟩

/-- A node that uses its safety slot is a member. -/
def State.slotTaken (s : State) : State := s.onXwl fun w => { w with phase := .member, slotDone := true }

section Slots
variable {t n : Nat} {s : State}

/-- A node's slot carries its SAFETY frame on both lanes. -/
theorem runs_xwlSafetySlot_sends (hon : (s.at t).xwlOn = true)
    (hphase : s.xwl.phase = .member ∨ (s.xwl.phase = .integrate ∧ 3 ≤ s.xwl.seen)) (hslot : s.xwl.slotDone = false)
    (hend : s.xwl.cycleAt + (2 + 2 * s.ring.nodeId) * 1000 ≤ (s.at t).now) :
    Runs (.xwlSafetySlot t) s fun v =>
      v.xwl.phase = .member ∧ v.xwl.slotDone = true ∧ ∃ f, v.out = [.xwl 0 f, .xwl 1 f] ∧ f.getD 0 0 = 2 := by
  have hdue : (s.at t).xwlOn = true ∧ ((s.at t).xwl.phase = .member ∨ ((s.at t).xwl.phase = .integrate ∧ 3 ≤ (s.at t).xwl.seen)) ∧
      (!(s.at t).xwl.slotDone) = true ∧ (s.at t).past (s.at t).xwl.cycleAt ((2 + 2 * (s.at t).ring.nodeId) * 1000) = true := by
    rw [at_xwl, at_ring, hslot, past_iff]
    exact ⟨hon, hphase, rfl, hend⟩
  have hexec : exec (.xwlSafetySlot t) s =
      .next (settle ((s.at t).slotTaken.xwlSend ((s.at t).slotTaken.xwlHeader 2 (s.at t).slotTaken.dev))) := by
    rw [exec_xwlSafetySlot]
    exact congrArg (fun v => Host.Outcome.next (settle v)) (if_pos hdue)
  refine ⟨_, hexec, rfl, rfl, (s.at t).slotTaken.xwlHeader 2 (s.at t).slotTaken.dev, ?_, xwlHeader_kind ..⟩
  rw [settle_out, xwlSend_out, State.slotTaken, onXwl_out, at_out]
  rfl

/-- The state with a node's SAFETY frame taken. -/
theorem exec_xwlSafetyReceived_of_hears {m : XwlRx} (h : (s.at t).hears 2 m) :
    let w := (s.at t).copied 2 m
    exec (.xwlSafetyReceived t m) s = .next (settle ((w.onNode (xSrc m) (Node.hear w.now m)).ringTrip w.ringAsks)) :=
  finish_of_eq (f := fun s => s.xwlRx 2 m fun s => (s.onNode (xSrc m) (Node.hear s.now m)).ringTrip s.ringAsks) (xwlRx_of_hears h _)

/-- A copy changes neither the roster nor a stop. -/
theorem copied_ringAsks (k : Nat) (m : XwlRx) (s : State) : (s.copied k m).ringAsks = s.ringAsks := by
  refine ringAsks_of (copied_cfg k m s) (by rw [copied_xwl]; rfl) fun n => ?_
  unfold State.node
  rw [copied_xwl]
  refine (getN_modN_view (g := fun x : Node => (x.roster, x.stop)) (f := fun x => { x with taken := some (xAlive m) }) (fun _ => rfl) _ _ n).trans ?_
  exact getN_modN_view (g := fun x : Node => (x.roster, x.stop))
    (f := fun x => { x with alive := setN x.alive m.lane (some (xAlive m)) }) (fun _ => rfl) _ _ n

theorem at_ringAsks (t : Nat) (s : State) : (s.at t).ringAsks = s.ringAsks :=
  ringAsks_of (at_cfg s t) (by rw [at_xwl]) fun n => by rw [at_node]

@[simp] theorem onNode_pendTrips (n : Nat) (f : Node → Node) (s : State) : (s.onNode n f).sys.pendTrips = s.sys.pendTrips := rfl

/-- A SAFETY frame puts its node into the roster; a stop that it makes grow trips. -/
theorem runs_xwlSafetyReceived_hears {m : XwlRx} (hs : s.shaped) (h : (s.at t).hears 2 m) :
    Runs (.xwlSafetyReceived t m) s fun v =>
      (v.node (xSrc m)).roster = true ∧ (v.node (xSrc m)).heard = some (s.at t).now ∧
      (v.node (xSrc m)).stop = beAt m.data 17 1 % 4 ∧
      v.sys.pendTrips = s.sys.pendTrips ++
        (if s.ringAsks < v.ringAsks then [{ src := 0x0F, sto := decide (v.ringAsks = 2) }] else []) := by
  have hsrc : xSrc m < 8 := by
    obtain ⟨-, -, -, -, -, hsrc, -⟩ := h
    exact hsrc
  have hasked : ((s.at t).copied 2 m).ringAsks = s.ringAsks := (copied_ringAsks 2 m (s.at t)).trans (at_ringAsks t s)
  have hpend : ((s.at t).copied 2 m).sys.pendTrips = s.sys.pendTrips :=
    (congrArg Sys.pendTrips ((copied_moves 2 m (s.at t)).same .sys (by decide))).trans (at_sys_pendTrips s t)
  have hnow := copied_now 2 m (s.at t)
  have hshaped := (copied_moves 2 m (s.at t)).shaped (at_shaped t hs)
  refine ⟨_, exec_xwlSafetyReceived_of_hears h, ?_⟩
  dsimp only
  generalize (s.at t).copied 2 m = w at hasked hpend hnow hshaped
  obtain ⟨hxwl, htrips⟩ := settle_ringTrip hasked ((onNode_pendTrips (xSrc m) (Node.hear w.now m) w).trans hpend)
  have hnode : (settle ((w.onNode (xSrc m) (Node.hear w.now m)).ringTrip w.ringAsks)).node (xSrc m) =
      Node.hear w.now m (w.node (xSrc m)) := by
    unfold State.node
    rw [hxwl]
    exact getN_modN_self _ _ _ (by rw [hshaped.xwl.1]; exact hsrc)
  rw [hnode]
  exact ⟨rfl, congrArg some hnow, rfl, htrips⟩

/-- The state with a silent node out of the roster. -/
def State.nodeLost (n : Nat) (s : State) : State :=
  ((s.onNode n fun x => { x with roster := false, stop := 0 }).onXwl fun w => { w with events := w.events ||| 1, up := false, upCycles := 0 })

/-- A silent node leaves the roster. -/
theorem runs_xwlNodeTimeout_leaves {i : Nat} (hs : s.shaped) (hn : n < 8) (hroster : (s.node n).roster = true)
    (hheard : (s.node n).heard = some i) (hend : i + s.ring.nodeTimeout * ms ≤ (s.at t).now) :
    Runs (.xwlNodeTimeout t n) s fun v =>
      (v.node n).roster = false ∧ v.xwl.up = false ∧
      v.sys.pendTrips = s.sys.pendTrips ++
        (if s.ringAsks < v.ringAsks then [{ src := 0x0F, sto := decide (v.ringAsks = 2) }] else []) := by
  refine ⟨_, runs_xwlNodeTimeout t n s _ rfl hn (by rwa [at_node]) (pastOpt_some (by rwa [at_node]) (by rwa [at_ring])), ?_⟩
  dsimp only
  have hlogged : (((s.at t).nodeLost n).evOpen 0x0C "NODE_LOST" n 0).xwl = ((s.at t).nodeLost n).xwl :=
    State.evOpen_same (p := .xwl) (by decide) ..
  have hpend : (((s.at t).nodeLost n).evOpen 0x0C "NODE_LOST" n 0).sys.pendTrips = s.sys.pendTrips :=
    (congrArg Sys.pendTrips (State.evOpen_same (p := .sys) (by decide) ..)).trans (at_sys_pendTrips s t)
  obtain ⟨hxwl, htrips⟩ := settle_ringTrip (at_ringAsks t s) hpend
  refine ⟨?_, ?_, htrips⟩
  · refine (congrArg (fun w : Xwl => (getN w.nodes n).roster) (hxwl.trans hlogged)).trans ?_
    exact congrArg Node.roster (getN_modN_self _ _ _ (by rw [(at_shaped t hs).xwl.1]; exact hn))
  · exact congrArg Xwl.up (hxwl.trans hlogged)

end Slots

/-! ## Shared work (R426, R438) -/

section Sharing
variable {t n : Nat} {m : XwlRx} {s : State}

theorem exec_xwlBulkUnit_owned (hn : n < 8) (hon : (s.at t).xwlOn = true) (hphase : s.xwl.phase = .member)
    (howned : bit s.ring.units n = true) (hdone : bit s.xwl.unitsDone n = false)
    (hend : s.xwl.cycleAt + (18 + 10 * n) * 1000 ≤ (s.at t).now) :
    exec (.xwlBulkUnit t n) s = .next (settle (
      ((s.at t).onXwl fun w => { w with unitsDone := w.unitsDone ||| 2 ^ n }).sendBulk (s.xwl.bulk.length + 1) 26000)) := by
  have hrun := runs_xwlBulkUnit t n s _ rfl hn hon (by rwa [at_xwl]) (by rwa [at_ring]) (by rwa [at_xwl])
    (by rw [at_xwl]; exact (past_iff ..).mpr hend)
  rwa [at_xwl] at hrun

/-- A unit with less room than the oldest transfer carries its first part. -/
theorem sendBulk_part {room dest job : Nat} {pay : Bytes} {l : List (Nat × Nat × Bytes)} (hbulk : s.xwl.bulk = (dest, job, pay) :: l)
    (hroster : s.inRoster dest = true) (hroom : 0 < room) (hpart : room < pay.length) (n : Nat) :
    let v := State.sendBulk (n + 1) room s
    v.xwl.bulk = (dest, job, pay.drop room) :: l ∧
      v.out = s.out ++ [.xwl 0 (s.bulkFrame dest job (pay.take room)), .xwl 1 (s.bulkFrame dest job (pay.take room))] := by
  have hleft : (pay.drop room).isEmpty = false := by
    rw [List.isEmpty_eq_false_iff, ne_eq, List.drop_eq_nil_iff]
    omega
  unfold State.sendBulk
  rw [hbulk]
  dsimp only
  rw [if_neg (by rw [hroster]; decide), if_neg (by omega), if_neg (by rw [hleft]; decide)]
  exact ⟨rfl, xwlSend_out ..⟩

/-- What a BULK frame does at its node. -/
def State.takeBulkFrame (m : XwlRx) (s : State) : State :=
  let pay := (m.data.drop 68).dropLast.dropLast.dropLast.dropLast
  if m.data.length < 72 ∨ beAt m.data 64 1 ≠ s.ring.nodeId then s
  else if crc32c pay ≠ beAt m.data (m.data.length - 4) 4 then s.onXwl fun w => { w with crcErr := modN w.crcErr m.lane satInc }
  else s.wake.takeBulk (xSrc m) (beAt m.data 65 3) pay

theorem exec_xwlBulkReceived_of_hears (h : (s.at t).hears 4 m) :
    exec (.xwlBulkReceived t m) s = .next (settle (((s.at t).copied 4 m).takeBulkFrame m)) :=
  finish_of_eq (f := fun s => s.xwlRx 4 m (State.takeBulkFrame m)) (xwlRx_of_hears h _)

theorem copied_ring (k : Nat) (m : XwlRx) (s : State) : (s.copied k m).ring = s.ring :=
  (congrArg (fun c : Cfg => c.img.messages.ring) (copied_cfg k m s) :)

theorem at_rosterSize (t : Nat) (s : State) : (s.at t).rosterSize = s.rosterSize := by
  unfold State.rosterSize
  simp only [at_inRoster]

/-- What is heard goes on along the ring (R425). -/
theorem copied_out {k : Nat} (hk : k ≠ 3) (m : XwlRx) (s : State) :
    (s.copied k m).out = s.out ++
      if 0 < s.rosterSize ∧ s.rosterSize ≤ xHops m + 1 then [] else [.xwl (1 - m.lane) (m.data.set 2 (byte (xHops m + 1)))] := by
  have hsize : (s.xwlLane m.lane).rosterSize = s.rosterSize := rfl
  unfold State.copied
  rw [if_neg fun h => hk h.1, onXwl_out]
  unfold State.xwlForward
  rw [hsize]
  split
  · exact (List.append_nil _).symm
  · rfl

/-- A BULK frame for another node is forwarded and no more. -/
theorem runs_xwlBulkReceived_forwards (h : (s.at t).hears 4 m) (hdest : beAt m.data 64 1 ≠ s.ring.nodeId) :
    Runs (.xwlBulkReceived t m) s fun v =>
      v.vrd = s.vrd ∧ v.aud = s.aud ∧ v.mem = s.mem ∧ v.xwl.bulkRx = s.xwl.bulkRx ∧
      v.out = if 0 < s.rosterSize ∧ s.rosterSize ≤ xHops m + 1 then [] else [.xwl (1 - m.lane) (m.data.set 2 (byte (xHops m + 1)))] := by
  have hmoves := copied_moves 4 m (s.at t)
  have hidle : ((s.at t).copied 4 m).takeBulkFrame m = (s.at t).copied 4 m :=
    if_pos (.inr (by rwa [copied_ring, at_ring]))
  refine ⟨_, exec_xwlBulkReceived_of_hears h, ?_⟩
  dsimp only
  rw [hidle, settle_out, copied_out (by decide), at_out, at_rosterSize]
  refine ⟨Eq.trans (hmoves.same .vrd (by decide)) (at_vrd s t), Eq.trans (hmoves.same .aud (by decide)) (at_aud s t),
    Eq.trans (hmoves.same .mem (by decide)) (at_mem s t), ?_, rfl⟩
  rw [settle_xwl, copied_xwl]
  exact (congrArg Xwl.bulkRx (at_xwl s t) :)

/-- The first copy of a heard frame that goes on along the ring. -/
theorem xwlFirst_of_hears {k : Nat} {u : State} (h : u.hears k m) (hk : k ≠ 3) :
    ((u.xwlLane m.lane).xwlForward m).xwlFirst m = (true, u.copied k m) := by
  obtain ⟨-, -, -, -, -, -, -, -, hnext, htaken⟩ := h
  have hnode : ((u.xwlLane m.lane).xwlForward m).node (xSrc m) = u.node (xSrc m) :=
    (congrArg (fun w : Xwl => getN w.nodes (xSrc m)) (xwlForward_xwl m (u.xwlLane m.lane)) :)
  unfold State.copied
  rw [xwlFirst_of_next (by rwa [hnode]) (by rwa [hnode]), if_neg fun h => hk h.1]

theorem exec_xwlBulkReceived_own (h : (s.at t).hears 4 m) (hdest : beAt m.data 64 1 = s.ring.nodeId) (hlen : 72 ≤ m.data.length) :
    let pay := (m.data.drop 68).dropLast.dropLast.dropLast.dropLast
    crc32c pay = beAt m.data (m.data.length - 4) 4 →
    exec (.xwlBulkReceived t m) s = .next (settle (
      (((((s.at t).xwlLane m.lane).xwlForward m).xwlFirst m).2.wake).takeBulk (xSrc m) (beAt m.data 65 3) pay)) := by
  intro pay hcrc
  have htaken : ((s.at t).copied 4 m).takeBulkFrame m = ((s.at t).copied 4 m).wake.takeBulk (xSrc m) (beAt m.data 65 3) pay :=
    (if_neg (not_or.mpr ⟨by omega, not_not.mpr (by rwa [copied_ring, at_ring])⟩)).trans (if_neg (not_not.mpr hcrc))
  rw [exec_xwlBulkReceived_of_hears h, htaken, xwlFirst_of_hears h (by decide)]

/-- A handed-over job without a return fails as INTERNAL. -/
theorem endHanded_results (r : Result) (num : Nat) (line : LineSt) (s : State) :
    (s.endHanded r num line false).vrd.results = s.vrd.results.map fun x => if x.is r.q r.seq then { x with audit := line } else x := by
  refine List.map_congr_left fun x _ => ?_
  dsimp only
  rw [Bool.or_false]

theorem exec_xwlReturnTimeout_fails {job i : Nat} {r : Result} (hhanded : s.xwl.handed.find? (·.1 == job) = some (job, i))
    (hend : i + s.ring.returnUs * 1000 ≤ (s.at t).now) (hr : s.vrd.results.find? (fun r => r.auditJob == some job) = some r) :
    let u := (s.at t).onXwl fun w =>
      { w with shareTimeout := satInc w.shareTimeout, events := w.events ||| 16,
               handed := w.handed.filter (·.1 ≠ job), bulk := w.bulk.filter fun b => b.2.1 ≠ job }
    exec (.xwlReturnTimeout t job) s = .next (settle (u.endHanded r job (.failed 0x30) false).settleWork) := by
  dsimp only
  rw [exec_xwlReturnTimeout]
  unfold execXwlReturnTimeout finish State.with
  dsimp only
  rw [at_xwl, hhanded]
  dsimp only
  rw [if_pos (by rw [at_ring]; exact (past_iff ..).mpr hend), onXwl_vrd, at_vrd, hr]

end Sharing

/-- Settles O49, by what a heard frame leaves and one lemma for each slot, unit and timeout. -/
theorem ringStopsAndSharesAsStated : Obligations.RingStopsAndSharesAsStated := by
  unfold Obligations.RingStopsAndSharesAsStated
  refine ⟨?slot, ?heard, ?silent, ?unit, ?part, ?forward, ?own, ?timeout⟩
  case slot => exact fun t s hon hphase hslot hend => runs_xwlSafetySlot_sends hon hphase hslot hend
  case heard => exact fun t m s hs h => runs_xwlSafetyReceived_hears hs h
  case silent => exact fun t n i s hs hn hroster hheard hend => runs_xwlNodeTimeout_leaves hs hn hroster hheard hend
  case unit => exact fun t n s hn hon hphase howned hdone hend => exec_xwlBulkUnit_owned hn hon hphase howned hdone hend
  case part => exact fun n room dest job pay l s hbulk hroster hroom hpart => sendBulk_part hbulk hroster hroom hpart n
  case forward => exact fun t m s _ h hdest => runs_xwlBulkReceived_forwards h hdest
  case own => exact fun t m s _ h hdest hlen => exec_xwlBulkReceived_own h hdest hlen
  case timeout =>
    intro t job i r s hhanded hend hr
    refine ⟨exec_xwlReturnTimeout_fails hhanded hend hr, (endHanded_results ..).trans ?_⟩
    rw [onXwl_vrd, at_vrd]

end Sys2Proof.Machine
end

section
/-! SUPPORT. Host queues: doorbells, configuration, resets and signals (16 R453 to R457, R464). -/

namespace Sys2Proof.Machine

/-! ## What a queue's commands read -/

theorem boundChan_of {s u : State} (hstate : s.sys.state = u.sys.state) (hcfg : s.cfg = u.cfg) (q : Nat) :
    s.boundChan q = u.boundChan q := by
  unfold State.boundChan
  rw [hstate, hcfg, activeSlot_congr (congrArg Cfg.role hcfg)]
  rw [show s.img = u.img from congrArg Cfg.img hcfg]

@[simp] theorem at_boundChan (t q : Nat) (s : State) : (s.at t).boundChan q = s.boundChan q :=
  boundChan_of (at_sys_state s t) (at_cfg s t) q

theorem at_wake_boundChan (t q : Nat) (s : State) : (s.at t).wake.boundChan q = s.boundChan q :=
  boundChan_of (by rw [wake_sys, at_sys_state]) (by rw [wake_cfg, at_cfg]) q

@[simp] theorem at_queueOk (t q : Nat) (s : State) : (s.at t).queueOk q = s.queueOk q := by
  unfold State.queueOk
  rw [at_hqueue, at_boundChan]

@[simp] theorem at_inFlight (t q : Nat) (s : State) : (s.at t).inFlight q = s.inFlight q :=
  congrArg (fun v : Vrd => v.results.filter fun r : Result => r.q == q) (at_vrd s t)

theorem wake_hq (s : State) : s.wake.hq = s.hq := wake_same (p := .hq) (by decide) s

theorem wake_tsu (s : State) : s.wake.tsu = s.tsu := wake_same (p := .tsu) (by decide) s

theorem wake_fiu (s : State) : s.wake.fiu = s.fiu := wake_same (p := .fiu) (by decide) s

theorem at_wake_hqueue (t q : Nat) (s : State) : (s.at t).wake.hqueue q = s.hqueue q :=
  congrArg (fun h => getN (Hq.queues h) q) ((wake_hq _).trans (at_hq s t))

theorem at_wake_allLive (t m : Nat) (s : State) : (s.at t).wake.allLive m = s.allLive m := by
  have hfiu : (s.at t).wake.fiu = s.fiu := (wake_fiu _).trans (at_fiu s t)
  unfold State.allLive State.strm
  rw [hfiu]

theorem State.shaped.queue_exists {s : State} (hs : s.shaped) {q : Nat} (hq : q < 64) : q < s.hq.queues.length :=
  hq.trans_eq hs.hq.1.symm

/-- What a change of a queue leaves of every queue. -/
theorem hqueue_onQ_view {α : Type} {g : HQueue → α} {f : HQueue → HQueue} (h : ∀ x, g (f x) = g x) (q k : Nat) (s : State) :
    g ((s.onQ q f).hqueue k) = g (s.hqueue k) := getN_modN_view h ..

/-! ## Signals and posted completions (R453, R454) -/

/-- A signal that is due leaves the module; one that is not changes nothing. -/
theorem msiDue_eq (q : Nat) (s : State) :
    s.msiDue q = s.msi q ∨ s.msiDue q = s := by
  unfold State.msiDue
  exact ite_eq_or_eq ..

theorem msi_view {α : Type} {g : HQueue → α} (hunsig : ∀ (x : HQueue) i o, g { x with unsig := i, firstAt := o } = g x) (q k : Nat)
    (s : State) : g ((s.msi q).hqueue k) = g (s.hqueue k) := hqueue_onQ_view (fun x => hunsig x 0 none) q k s

theorem msiDue_view {α : Type} {g : HQueue → α} (hunsig : ∀ (x : HQueue) i o, g { x with unsig := i, firstAt := o } = g x) (q k : Nat)
    (s : State) : g ((s.msiDue q).hqueue k) = g (s.hqueue k) := by
  obtain h | h := msiDue_eq q s
  · rw [h, msi_view hunsig]
  · rw [h]

/-- What the host alone writes of a queue: EN and CQ_HEAD. -/
def HQueue.hostSet (h : HQueue) : Bool × Nat := (h.en, h.cqHead)

theorem cqWrite_hostSet (q k : Nat) (e : Bytes) (s : State) : ((s.cqWrite q e).hqueue k).hostSet = (s.hqueue k).hostSet := by
  unfold State.cqWrite State.msiPost
  dsimp only
  refine (msiDue_view (g := HQueue.hostSet) (fun _ _ _ => rfl) ..).trans ?_
  refine (hqueue_onQ_view (g := HQueue.hostSet) (by intro _; rfl) ..).trans ?_
  exact hqueue_onQ_view (g := HQueue.hostSet) (by intro _; rfl) q k s

/-- Posting what waits changes no register that the host writes. -/
theorem cqDrainN_hostSet (n q k : Nat) (s : State) : ((s.cqDrainN n q).hqueue k).hostSet = (s.hqueue k).hostSet := by
  induction n generalizing s with
  | zero => rfl
  | succ n ih =>
    have hclosed (b : Bool) (seq : Nat) (u : State) :
        ((if b then u.jClose jResult q seq else u).hqueue k).hostSet = (u.hqueue k).hostSet := by cases b <;> rfl
    have hwritten (b : Bool) (e : Bytes) (u : State) :
        ((if b then u.cqWrite q e else u).hqueue k).hostSet = (u.hqueue k).hostSet := by
      cases b
      · rfl
      · exact cqWrite_hostSet q k e u
    unfold State.cqDrainN
    split
    · rfl
    · split
      · rfl
      · split
        · rfl
        · rw [ih, hclosed, hwritten]
          exact hqueue_onQ_view (g := HQueue.hostSet) (by intro _; rfl) q k s

theorem cqDrain_en (q k : Nat) (s : State) : ((s.cqDrain q).hqueue k).en = (s.hqueue k).en :=
  congrArg Prod.fst (cqDrainN_hostSet _ q k s)

theorem cqDrain_cqHead (q k : Nat) (s : State) : ((s.cqDrain q).hqueue k).cqHead = (s.hqueue k).cqHead :=
  congrArg Prod.snd (cqDrainN_hostSet _ q k s)

theorem cqDrain_vrd (q : Nat) (s : State) : (s.cqDrain q).vrd = s.vrd :=
  (State.cqDrain_moves q (Moves.refl _ s) (List.Subset.refl _)).same .vrd (by decide)

/-- Into a full ring nothing is posted. -/
theorem cqDrainN_full {q : Nat} {s : State} (hfull : (s.hqueue q).free = 0) (n : Nat) : s.cqDrainN n q = s := by
  cases n with
  | zero => rfl
  | succ n =>
    unfold State.cqDrainN
    split
    · rfl
    · rw [if_pos hfull, ite_self]

theorem cqPost_full {q : Nat} (e : Bytes) {s : State} (hs : s.shaped) (hq : q < 64) (hfull : (s.hqueue q).free = 0) :
    (s.cqPost q e).out = s.out ∧ ((s.cqPost q e).hqueue q).cqTail = (s.hqueue q).cqTail ∧
      ((s.cqPost q e).hqueue q).recov.length = (s.hqueue q).recov.length + 1 := by
  have hqueue := hqueue_onQ_self (hs.queue_exists hq) fun h =>
    { h with recov := h.recov ++ [{ entry := e, recovery := false, seq := 0 }] }
  have hwaits : s.cqPost q e = s.onQ q _ := cqDrainN_full (by rw [hqueue]; exact hfull) _
  rw [hwaits, hqueue]
  exact ⟨rfl, rfl, List.length_append⟩

/-! ## The queue's registers (R453 to R455) -/

section QueueCommands
variable {t q : Nat} {s : State}

theorem queueRun (hs : s.shaped) (hq : q < 64) (f : HQueue → HQueue) : (settle ((s.at t).onQ q f)).hqueue q = f (s.hqueue q) := by
  rw [settle_hqueue, hqueue_onQ_self ((at_shaped t hs).queue_exists hq), at_hqueue]

theorem wakeRun (hs : s.shaped) (hq : q < 64) (f : HQueue → HQueue) : ((s.at t).wake.onQ q f).hqueue q = f (s.hqueue q) := by
  rw [hqueue_onQ_self (by rw [wake_hq]; exact (at_shaped t hs).queue_exists hq), at_wake_hqueue]

/-- A channel fault changes only what it shows on the queue that the channel is bound to. -/
theorem chFault_view {α : Type} {g : HQueue → α} (hg : ∀ x first cause hold, g (HQueue.faulted first cause hold x) = g x)
    (c cause k : Nat) (s : State) : g ((s.chFault c cause).hqueue k) = g (s.hqueue k) := by
  have hmark : (s.markFault c cause).hq = s.hq := State.evOpen_same (p := .hq) (by decide) ..
  have hsame : g ((s.markFault c cause).hqueue k) = g (s.hqueue k) := congrArg (fun h => g (getN (Hq.queues h) k)) hmark
  rw [chFault_eq]
  cases s.img.chan c with
  | none => exact hsame
  | some r =>
    dsimp only [State.with]
    split
    · exact (hqueue_onQ_view (fun x => hg x _ _ _) _ k _).trans hsame
    · exact hsame

/-- A doorbell outside the ring: ERROR DOORBELL, and a fault of the channel. -/
def State.badDoorbell (q : Nat) (s : State) : State :=
  (s.onQ q fun h => { h with error := true, err := 3 }).with (s.boundChan q) fun c s => s.chFault c.ch 8

theorem badDoorbell_view {α : Type} {g : HQueue → α} (hg : ∀ x first cause hold, g (HQueue.faulted first cause hold x) = g x)
    (s : State) : g ((s.badDoorbell q).hqueue q) = g ((s.onQ q fun h => { h with error := true, err := 3 }).hqueue q) := by
  unfold State.badDoorbell
  cases s.boundChan q with
  | none => rfl
  | some c => exact chFault_view hg ..

theorem exec_sqTailDoorbell_outside {x : Nat} (hup : (s.at t).regsUp = true) (hq : q < 64) (hen : (s.hqueue q).en = true)
    (hreset : (s.hqueue q).resetting = false) (hx : x < 4096) (hout : 2 ^ (s.hqueue q).sqLog ≤ x) :
    exec (.sqTailDoorbell t q x) s = .next (settle ((s.at t).wake.badDoorbell q)) := by
  rw [exec_sqTailDoorbell]
  unfold execSqTailDoorbell finish
  dsimp only
  rw [at_hqueue, if_pos ⟨hup, hq, hen, by rw [hreset]; decide⟩, Nat.mod_eq_of_lt hx, if_pos hout]
  rfl

theorem runs_sqTailDoorbell_moves {x : Nat} (hs : s.shaped) (hq : q < 64) (hup : (s.at t).regsUp = true) (hen : (s.hqueue q).en = true)
    (hreset : (s.hqueue q).resetting = false) (hx : x < 4096) :
    Runs (.sqTailDoorbell t q x) s fun v =>
      if x < 2 ^ (s.hqueue q).sqLog then (v.hqueue q).sqTail = x ∧ (v.hqueue q).error = (s.hqueue q).error
      else (v.hqueue q).sqTail = (s.hqueue q).sqTail ∧ (v.hqueue q).error = true ∧ (v.hqueue q).err = 3 := by
  obtain hin | hout := Nat.lt_or_ge x (2 ^ (s.hqueue q).sqLog)
  · refine ⟨_, runs_sqTailDoorbell t q x s _ rfl hup hq (by rw [at_hqueue]; exact hen) (by rw [at_hqueue]; exact hreset)
      (by rw [at_hqueue, Nat.mod_eq_of_lt hx]; exact hin), ?_⟩
    dsimp only
    rw [if_pos hin, settle_hqueue, wakeRun hs hq, Nat.mod_eq_of_lt hx]
    exact ⟨rfl, rfl⟩
  · have hqueue := badDoorbell_view (q := q) (g := fun h => (h.sqTail, h.error, h.err)) (fun _ _ _ _ => rfl) (s.at t).wake
    rw [wakeRun hs hq] at hqueue
    obtain ⟨htail, herror⟩ := Prod.mk.inj hqueue
    refine ⟨_, exec_sqTailDoorbell_outside hup hq hen hreset hx hout, ?_⟩
    dsimp only
    rw [if_neg hout.not_gt, settle_hqueue]
    exact ⟨htail, Prod.mk.inj herror⟩

theorem exec_hqEnableWrite_closed (hup : (s.at t).regsUp = true) (hq : q < 64) (hclosed : s.hq.opened = false) :
    exec (.hqEnableWrite t q true) s = .next (settle (s.at t)) := by
  rw [exec_hqEnableWrite]
  unfold execHqEnableWrite finish
  dsimp only
  rw [if_neg (by rw [hup]; exact not_or.mpr ⟨by decide, hq.not_ge⟩), if_neg (by decide), if_pos (.inl (by rw [at_hq, hclosed]; rfl))]

/-- A queue whose configuration is not valid stays disabled, with its error's cause. -/
def State.notEnabled (q : Nat) (s : State) : State := if (s.hqueue q).error then s else s.onQ q fun h => { h with err := 0 }

theorem exec_hqEnableWrite_invalid (hup : (s.at t).regsUp = true) (hq : q < 64) (hopen : s.hq.opened = true)
    (hen : (s.hqueue q).en = false) (hbad : s.queueOk q = false) :
    exec (.hqEnableWrite t q true) s = .next (settle ((s.at t).notEnabled q)) := by
  rw [exec_hqEnableWrite]
  unfold execHqEnableWrite finish
  dsimp only
  rw [if_neg (by rw [hup]; exact not_or.mpr ⟨by decide, hq.not_ge⟩), if_neg (by decide),
    if_neg (by rw [at_hq, hopen, at_hqueue, hen]; decide), at_queueOk, if_neg (by rw [hbad]; decide)]
  rfl

theorem runs_hqEnableWrite_open (hs : s.shaped) (hq : q < 64) (hup : (s.at t).regsUp = true) (hopen : s.hq.opened = true)
    (hen : (s.hqueue q).en = false) :
    Runs (.hqEnableWrite t q true) s fun v =>
      (v.hqueue q).en = s.queueOk q ∧ (s.queueOk q = false → (s.hqueue q).error = false → (v.hqueue q).err = 0) := by
  cases hok : s.queueOk q with
  | true =>
    refine ⟨_, (runs_hqEnableWrite t q s _ rfl hup hq).2 (by rw [at_hq]; exact hopen) (by rw [at_hqueue]; exact hen)
      (by rw [at_queueOk]; exact hok), ?_, nofun⟩
    rw [settle_hqueue, cqDrain_en, hqueue_onQ_self ((at_shaped t hs).queue_exists hq)]
  | false =>
    refine ⟨_, exec_hqEnableWrite_invalid hup hq hopen hen hok, ?_, fun _ herror => ?_⟩
    · have hoff : ((s.at t).hqueue q).en = false := by rw [at_hqueue, hen]
      rw [settle_hqueue]
      unfold State.notEnabled
      split
      · exact hoff
      · exact (hqueue_onQ_view (g := HQueue.en) (by intro _; rfl) ..).trans hoff
    · unfold State.notEnabled
      rw [if_neg (by rw [at_hqueue, herror]; decide), queueRun hs hq]

theorem runs_queueResetComplete_clears (hs : s.shaped) (hq : q < 64) (hup : (s.at t).regsUp = true) (hreset : (s.hqueue q).resetting = true)
    (hnone : s.inFlight q = []) :
    Runs (.queueResetComplete t q) s fun v => v.hqueue q = (s.hqueue q).cleared ∧ v.vrd = s.vrd :=
  ⟨_, runs_queueResetComplete t q s _ rfl hup hq (by rw [at_hqueue]; exact hreset) (by rw [at_inFlight]; exact hnone), queueRun hs hq _,
    at_vrd s t⟩

theorem exec_queueResetComplete_waits {r : Result} {l : List Result} (hflight : s.inFlight q = r :: l) :
    exec (.queueResetComplete t q) s = .next (settle (s.at t)) := by
  rw [exec_queueResetComplete]
  unfold execQueueResetComplete finish State.when
  dsimp only
  rw [at_inFlight, hflight, List.isEmpty_cons, Bool.and_false]
  rfl

theorem exec_hqResume_held {c : ChanRec} (hup : (s.at t).regsUp = true) (hq : q < 64) (hbound : s.boundChan q = some c)
    (hdead : s.allLive c.streams = false) : exec (.hqResume t q) s = .next (settle (s.at t).wake) := by
  rw [exec_hqResume]
  unfold execHqResume finish
  dsimp only
  rw [if_neg (by rw [hup]; exact not_or.mpr ⟨by decide, hq.not_ge⟩)]
  rw [at_wake_boundChan, hbound]
  dsimp only [State.with]
  rw [at_wake_allLive, hdead]
  rfl

theorem runs_hqResume_releases {c : ChanRec} (hs : s.shaped) (hq : q < 64) (hup : (s.at t).regsUp = true) (hbound : s.boundChan q = some c)
    (hc : c.ch < 512) :
    Runs (.hqResume t q) s fun v =>
      if s.allLive c.streams = true then
        (v.hqueue q).hold = false ∧ (v.hqueue q).error = false ∧ (v.hqueue q).chFault = false ∧
          (v.tchan c.ch).fault = false ∧ (v.tchan c.ch).free = true ∧ (v.tchan c.ch).timerAt = none
      else v.hq = s.hq ∧ v.tsu = s.tsu := by
  cases hlive : s.allLive c.streams with
  | true =>
    have hchan : c.ch <
        ((s.at t).wake.onQ q fun h => { h with hold := false, error := false, err := 0, chFault := false }).tsu.chans.length :=
      (hs.chan_exists hc).trans_eq (congrArg (fun u : Tsu => u.chans.length) ((wake_tsu (s.at t)).trans (at_tsu s t))).symm
    refine ⟨_, runs_hqResume t q c s _ rfl hup hq ((at_wake_boundChan t q s).trans hbound) ((at_wake_allLive t _ s).trans hlive), ?_⟩
    have hqueue := wakeRun (t := t) hs hq fun h => { h with hold := false, error := false, err := 0, chFault := false }
    dsimp only
    rw [if_pos rfl, settle_tchan, tchan_onChan_self hchan]
    exact ⟨congrArg HQueue.hold hqueue, congrArg HQueue.error hqueue, congrArg HQueue.chFault hqueue, rfl, rfl, rfl⟩
  | false =>
    refine ⟨_, exec_hqResume_held hup hq hbound hlive, ?_⟩
    dsimp only
    rw [if_neg (by decide), settle_hq, settle_tsu, wake_hq, wake_tsu, at_hq, at_tsu]
    exact ⟨rfl, rfl⟩

theorem runs_cqHeadWrite_stores {x : Nat} (hs : s.shaped) (hq : q < 64) (hup : (s.at t).regsUp = true) (hx : x < 4096) :
    Runs (.cqHeadWrite t q x) s fun v => (v.hqueue q).cqHead = x ∧ v.vrd = s.vrd := by
  refine ⟨_, runs_cqHeadWrite t q x s _ rfl hup hq, ?_, ?_⟩
  · rw [settle_hqueue, cqDrain_cqHead, hqueue_onQ_self ((at_shaped t hs).queue_exists hq)]
    exact Nat.mod_eq_of_lt hx
  · exact (cqDrain_vrd ..).trans (at_vrd s t)

/-! ## The vectors (R454) -/

theorem msi_leaves (hs : s.shaped) (hq : q < 64) :
    (s.msi q).out = s.out ++ [.msix q] ∧ (s.msi q).hqueue q = { s.hqueue q with unsig := 0, firstAt := none } :=
  ⟨rfl, hqueue_onQ_self (hs.queue_exists hq) fun h => { h with unsig := 0, firstAt := none }⟩

/-- The fields of a written HQ_IRQ. -/
theorem irq_fields {c u : Nat} (m : Bool) (hc : c ≤ 64) (hu : u ≤ 1000) :
    bits (c + u * 2 ^ 16 + flg m 31) 0 7 = c ∧ bits (c + u * 2 ^ 16 + flg m 31) 16 10 = u ∧ bit (c + u * 2 ^ 16 + flg m 31) 31 = m := by
  have hmask : bit (c + u * 2 ^ 16 + flg m 31) 31 = decide ((c + u * 2 ^ 16 + flg m 31) / 2 ^ 31 % 2 = 1) := Nat.testBit_eq_decide_div_mod_eq
  rw [hmask]
  cases m with
  | false => simp only [bits, flg, b2n]; refine ⟨?_, ?_, decide_eq_false ?_⟩ <;> simp only [Bool.false_eq_true, if_false] <;> omega
  | true => simp only [bits, flg, b2n]; refine ⟨?_, ?_, decide_eq_true ?_⟩ <;> simp only [if_true] <;> omega

/-- A write of HQ_IRQ: the three fields, and the signal that it makes due. -/
def State.setIrq (q c u : Nat) (m : Bool) (s : State) : State := s.onQ q fun h => { h with irqCount := c, irqTime := u, irqMask := m }

theorem exec_hqIrqWrite_fields {c u : Nat} (m : Bool) (hup : (s.at t).regsUp = true) (hq : q < 64) (hc : 1 ≤ c) (hc' : c ≤ 64)
    (hu : u ≤ 1000) :
    exec (.hqIrqWrite t q (c + u * 2 ^ 16 + flg m 31)) s =
      .next (settle (if (s.hqueue q).irqMask ∧ !m ∧ (((s.at t).setIrq q c u m).hqueue q).unsig ≠ 0 then ((s.at t).setIrq q c u m).msi q
        else ((s.at t).setIrq q c u m).msiDue q)) := by
  obtain ⟨hcount, htime, hmask⟩ := irq_fields m hc' hu
  rw [exec_hqIrqWrite]
  unfold execHqIrqWrite finish
  dsimp only
  rw [hcount, htime, hmask, if_pos ⟨hup, hq, hc, hc', hu⟩, at_hqueue]
  rfl

theorem runs_hqIrqWrite_sets {c u : Nat} (m : Bool) (hs : s.shaped) (hq : q < 64) (hup : (s.at t).regsUp = true) (hc : 1 ≤ c)
    (hc' : c ≤ 64) (hu : u ≤ 1000) :
    Runs (.hqIrqWrite t q (c + u * 2 ^ 16 + flg m 31)) s fun v =>
      (v.hqueue q).irqCount = c ∧ (v.hqueue q).irqTime = u ∧ (v.hqueue q).irqMask = m ∧
      ((s.hqueue q).irqMask = true → m = false → (s.hqueue q).unsig ≠ 0 → v.out = [.msix q] ∧ (v.hqueue q).unsig = 0) := by
  have hshaped : ((s.at t).setIrq q c u m).shaped :=
    (State.onQ_moves q _ (Moves.refl [.hq] (s.at t)) (List.Subset.refl _)).shaped (at_shaped t hs)
  have hqueue : ((s.at t).setIrq q c u m).hqueue q = { s.hqueue q with irqCount := c, irqTime := u, irqMask := m } := queueRun hs hq _
  have hset : HQueue.irqCount (((s.at t).setIrq q c u m).hqueue q) = c ∧ HQueue.irqTime (((s.at t).setIrq q c u m).hqueue q) = u ∧
      HQueue.irqMask (((s.at t).setIrq q c u m).hqueue q) = m := by
    rw [hqueue]
    exact ⟨rfl, rfl, rfl⟩
  refine ⟨_, exec_hqIrqWrite_fields m hup hq hc hc' hu, ?_⟩
  dsimp only
  rw [settle_hqueue, settle_out]
  split
  · obtain ⟨hout, hleft⟩ := msi_leaves hshaped hq
    rw [hleft, hout]
    exact ⟨hset.1, hset.2.1, hset.2.2, fun _ _ _ => ⟨congrArg (· ++ [Output.msix q]) (at_out s t), rfl⟩⟩
  · next hnot =>
    refine ⟨?_, ?_, ?_, fun hmask hm hunsig => absurd ⟨hmask, by rw [hm]; rfl, by rw [hqueue]; exact hunsig⟩ hnot⟩
    · exact (msiDue_view (fun _ _ _ => rfl) ..).trans hset.1
    · exact (msiDue_view (fun _ _ _ => rfl) ..).trans hset.2.1
    · exact (msiDue_view (fun _ _ _ => rfl) ..).trans hset.2.2

theorem runs_irqTimeExpiry_signals {i : Nat} (hs : s.shaped) (hq : q < 64) (hup : (s.at t).regsUp = true) (hunsig : (s.hqueue q).unsig ≠ 0)
    (hfirst : (s.hqueue q).firstAt = some i) (hpast : i + (s.hqueue q).irqTime * 1000 ≤ (s.at t).now) :
    Runs (.irqTimeExpiry t q) s fun v =>
      if (s.hqueue q).irqMask then v.out = [] ∧ (v.hqueue q).unsig = (s.hqueue q).unsig
      else v.out = [.msix q] ∧ (v.hqueue q).unsig = 0 ∧ (v.hqueue q).firstAt = none := by
  have hdue : (s.at t).msiDue q = if (s.hqueue q).irqMask then s.at t else (s.at t).msi q := by
    unfold State.msiDue
    dsimp only
    rw [at_hqueue, pastOpt_some hfirst hpast, Bool.or_true]
    cases (s.hqueue q).irqMask with
    | false => exact if_pos ⟨hunsig, rfl, rfl⟩
    | true => exact if_neg nofun
  obtain ⟨hout, hleft⟩ := msi_leaves (at_shaped t hs) hq
  refine ⟨_, runs_irqTimeExpiry t q s _ rfl hup hq, ?_⟩
  dsimp only
  rw [settle_out, settle_hqueue, hdue]
  cases (s.hqueue q).irqMask with
  | false =>
    rw [if_neg (by decide), if_neg (by decide), hout, hleft, at_out]
    exact ⟨rfl, rfl, rfl⟩
  | true =>
    rw [if_pos rfl, if_pos rfl, at_out, at_hqueue]
    exact ⟨rfl, rfl⟩

/-! ## Delivery rings and the function level reset (R456, R457) -/

theorem runs_deliveryTailWrite_moves {n x : Nat} (hs : s.shaped) (hn : n < 16) (hup : (s.at t).regsUp = true) (hx : x < 4096)
    (hin : x < 2 ^ (getN s.hq.rings n).sizeLog) :
    Runs (.deliveryTailWrite t n x) s fun v =>
      (getN v.hq.rings n).tail = x ∧ (getN v.hq.rings n).head = (getN s.hq.rings n).head := by
  refine ⟨_, runs_deliveryTailWrite t n x s _ rfl hup hn (by rw [at_hq, Nat.mod_eq_of_lt hx]; exact hin), ?_⟩
  dsimp only
  rw [settle_hq, getN_rings_onRing_self (hn.trans_eq (at_shaped t hs).hq.2.symm), at_hq, Nat.mod_eq_of_lt hx]
  exact ⟨rfl, rfl⟩

theorem runs_pcieFunctionLevelReset_resets (hup : (s.at t).regsUp = true) :
    Runs (.pcieFunctionLevelReset t) s fun v =>
      (∀ h ∈ v.hq.queues, h.resetting = true) ∧ (∀ d ∈ v.hq.rings, d.head = 0 ∧ d.tail = 0 ∧ d.phase = true) ∧
      v.hq.queues.length = s.hq.queues.length ∧ v.vrd = s.vrd ∧ v.mem = s.mem := by
  refine ⟨_, runs_pcieFunctionLevelReset t s _ rfl hup, fun h hmem => ?_, fun d hmem => ?_, ?_, at_vrd s t, at_mem s t⟩
  · obtain ⟨x, _, rfl⟩ := List.mem_map.mp hmem
    rfl
  · obtain ⟨x, _, rfl⟩ := List.mem_map.mp hmem
    exact ⟨rfl, rfl, rfl⟩
  · exact (List.length_map ..).trans (congrArg (fun h : Hq => h.queues.length) (at_hq s t))

end QueueCommands

/-- Settles O50: each clause is the lemma of its command; posting a completion changes no register that the host writes. -/
theorem queuesAreConfiguredAndSignalledAsStated : Obligations.QueuesAreConfiguredAndSignalledAsStated := by
  unfold Obligations.QueuesAreConfiguredAndSignalledAsStated
  refine ⟨?doorbell, ?enable, ?reset, ?resetDone, ?resetWaits, ?resume, ?head, ?post, ?irq, ?time, ?tail, ?level⟩
  case doorbell => exact fun t q x s hs hq hup hen hreset hx => runs_sqTailDoorbell_moves hs hq hup hen hreset hx
  case enable =>
    refine fun t q s hs hq hup => ⟨?_, fun hopen hen => runs_hqEnableWrite_open hs hq hup hopen hen,
      fun hclosed => exec_hqEnableWrite_closed hup hq hclosed⟩
    exact ⟨_, (runs_hqEnableWrite t q s _ rfl hup hq).1, congrArg HQueue.en (queueRun hs hq _)⟩
  case reset =>
    intro t q s hs hq hup
    refine ⟨_, runs_hqReset t q s _ rfl hup hq, ?_⟩
    dsimp only
    rw [queueRun hs hq]
    exact ⟨rfl, rfl, at_vrd s t⟩
  case resetDone =>
    intro t q s hs hq hup hreset hnone
    obtain ⟨v, hrun, hqueue, hvrd⟩ := runs_queueResetComplete_clears hs hq hup hreset hnone
    refine ⟨v, hrun, ?_⟩
    dsimp only
    rw [hqueue]
    exact ⟨rfl, rfl, rfl, rfl, rfl, rfl, rfl, rfl, rfl, rfl, hvrd⟩
  case resetWaits => exact fun t q r l s hflight => exec_queueResetComplete_waits hflight
  case resume => exact fun t q c s hs hq hup hbound hc => runs_hqResume_releases hs hq hup hbound hc
  case head => exact fun t q x s hs hq hup hx => runs_cqHeadWrite_stores hs hq hup hx
  case post => exact fun q e s hs hq hfull => cqPost_full e hs hq hfull
  case irq => exact fun t q c u m s hs hq hup hc hc' hu => runs_hqIrqWrite_sets m hs hq hup hc hc' hu
  case time => exact fun t q i s hs hq hup hunsig hfirst hpast => runs_irqTimeExpiry_signals hs hq hup hunsig hfirst hpast
  case tail => exact fun t n x s hs hn hup hx hin => runs_deliveryTailWrite_moves hs hn hup hx hin
  case level => exact fun t s hup => runs_pcieFunctionLevelReset_resets hup

end Sys2Proof.Machine
end

section
/-! SUPPORT. Power states and background deadlines (17 R471 to R474, R478, R480, R483 to R485). -/

namespace Sys2Proof.Machine

/-! ## Entries of parallel lists -/

theorem getN_zip {α β : Type} [Inhabited α] [Inhabited β] {l : List α} {r : List β} {n : Nat} (hl : n < l.length) (hr : n < r.length) :
    getN (l.zip r) n = (getN l n, getN r n) := by
  unfold getN
  rw [← List.getElem_eq_getD (h := hl) default, ← List.getElem_eq_getD (h := hr) default,
    ← List.getElem_eq_getD (h := by rw [List.length_zip]; exact lt_min hl hr) default, List.getElem_zip]

theorem getN_zipIdx {α : Type} [Inhabited α] {l : List α} {n : Nat} (h : n < l.length) : getN l.zipIdx n = (getN l n, n) := by
  unfold getN
  rw [← List.getElem_eq_getD (h := h) default, ← List.getElem_eq_getD (h := by rw [List.length_zipIdx]; exact h) default,
    List.getElem_zipIdx, Nat.zero_add]

/-! ## The exit from a deep state (R473) -/

/-- The part of the exit that every deep state has: the cluster is powered and the stacks are awake. -/
def State.powered (s : State) : State :=
  let s := s.onPsm fun p => { p with state := .gale, waking := none, poweredAt := some s.now }
  let s := s.onBeu fun b => { b with stks := b.stks.map Stack.awake }
  s.onAud fun a => { a with cores := a.cores.map fun c => { c with gated := false, idleAt := s.now } }

/-- No instant has an estimate until the fifth good tick. -/
def State.losesEgo (s : State) : State :=
  (s.onFgu fun g => { g with broken := true, goodTicks := 0, egoValid := false }).fguReset 3

/-- The part of the exit from Calm: local memory and the estimate of the ego motion are lost. -/
def State.forgets (s : State) : State := (s.each (List.range 16) State.zeroLocal).losesEgo

theorem exitDeep_eq (s : State) : s.exitDeep = if s.psm.state = .calm then s.powered.forgets else s.powered := by
  unfold State.exitDeep
  simp only [decide_eq_true_eq]
  rfl

/-- An address of some core's local memory. -/
def inLocal (l : List Nat) (a : Nat) : Bool := l.any fun n => decide (coreBase n ≤ a ∧ a < coreBase n + 0x200000)

theorem memGet_zeroLocal (n a : Nat) (s : State) :
    memGet (s.zeroLocal n).mem a = if coreBase n ≤ a ∧ a < coreBase n + 0x200000 then 0 else memGet s.mem a := memGet_memErase ..

/-- Local memories that are zeroed one after the other, and no other byte. -/
theorem memGet_each_zeroLocal (l : List Nat) (a : Nat) (s : State) :
    memGet (s.each l State.zeroLocal).mem a = if inLocal l a = true then 0 else memGet s.mem a := by
  induction l generalizing s with
  | nil => rfl
  | cons n l ih =>
    refine (ih (s.zeroLocal n)).trans ?_
    have hcons : inLocal (n :: l) a = (decide (coreBase n ≤ a ∧ a < coreBase n + 0x200000) || inLocal l a) := List.any_cons
    rw [memGet_zeroLocal, hcons]
    by_cases hn : coreBase n ≤ a ∧ a < coreBase n + 0x200000
    · rw [if_pos hn, ite_self, decide_eq_true hn, Bool.true_or, if_pos rfl]
    · rw [if_neg hn, decide_eq_false hn, Bool.false_or]

/-- What the zeroing of local memory leaves: the power state, the stacks and the cores. -/
def State.deepView (s : State) : Psm × Beu × Aud := (s.psm, s.beu, s.aud)

theorem zeroLocal_deepView (n : Nat) (s : State) : (s.zeroLocal n).deepView = s.deepView := rfl

theorem losesEgo_deepView (s : State) : s.losesEgo.deepView = s.deepView := rfl

theorem losesEgo_mem (s : State) : s.losesEgo.mem = s.mem := rfl

theorem forgets_deepView (s : State) : s.forgets.deepView = s.deepView :=
  (losesEgo_deepView _).trans (State.each_keeps zeroLocal_deepView ..)

theorem forgets_mem (s : State) : s.forgets.mem = (s.each (List.range 16) State.zeroLocal).mem := losesEgo_mem _

theorem exitDeep_deepView (s : State) : s.exitDeep.deepView = s.powered.deepView := by
  rw [exitDeep_eq]
  split
  · exact forgets_deepView _
  · rfl

theorem exitDeep_powers (s : State) :
    s.exitDeep.psm.state = .gale ∧ s.exitDeep.psm.waking = none ∧
      (∀ k ∈ s.exitDeep.beu.stks, k.selfRefresh = false) ∧ ∀ c ∈ s.exitDeep.aud.cores, c.gated = false := by
  obtain ⟨hpsm, hrest⟩ := Prod.mk.inj (exitDeep_deepView s)
  obtain ⟨hbeu, haud⟩ := Prod.mk.inj hrest
  rw [hpsm, hbeu, haud]
  refine ⟨rfl, rfl, fun k hk => ?_, fun c hc => ?_⟩
  · obtain ⟨_, _, rfl⟩ := List.mem_map.mp hk
    rfl
  · obtain ⟨_, _, rfl⟩ := List.mem_map.mp hc
    rfl

theorem exitDeep_breaks {s : State} (hcalm : s.psm.state = .calm) : s.exitDeep.fgu.broken = true ∧ s.exitDeep.fgu.egoValid = false := by
  rw [exitDeep_eq, if_pos hcalm]
  exact ⟨rfl, rfl⟩

theorem memGet_exitDeep (s : State) (a : Nat) :
    memGet s.exitDeep.mem a = if s.psm.state = .calm ∧ inLocal (List.range 16) a = true then 0 else memGet s.mem a := by
  rw [exitDeep_eq]
  by_cases hcalm : s.psm.state = .calm
  · rw [if_pos hcalm, if_congr (and_iff_right hcalm) rfl rfl, forgets_mem]
    exact memGet_each_zeroLocal _ _ s.powered
  · rw [if_neg hcalm, if_neg fun h => hcalm h.1]
    rfl

/-! ## Entry and wake (R471, R472, R478, R480, R485) -/

section PowerCommands
variable {t : Nat} {s : State}

theorem runs_psmEntryComplete_enters {i : Nat} {p : PState} (hon : (s.at t).psmOn = true) (hentry : s.psm.entering = some (p, i))
    (hpast : i + p.entry ≤ (s.at t).now) :
    Runs (.psmEntryComplete t) s fun v =>
      v.psm.state = p ∧ v.psm.entering = none ∧ v.mem = s.mem ∧
      (p.deep = true → v.beu.stks = s.beu.stks.map fun k => { k with selfRefresh := k.selfRefresh || k.restful }) ∧
      (p.deep = false → v.beu = s.beu) := by
  refine ⟨_, runs_psmEntryComplete t i p s _ rfl hon (by rw [at_psm_entering]; exact hentry) ((past_iff ..).mpr hpast), ?_⟩
  rw [← at_mem s t, ← at_beu s t]
  unfold State.enterPower
  cases hdeep : p.deep with
  | true => exact ⟨rfl, rfl, rfl, fun _ => rfl, nofun⟩
  | false => exact ⟨rfl, rfl, rfl, nofun, fun _ => rfl⟩

theorem at_deepest (t : Nat) (s : State) : (s.at t).psm.deepest? = s.psm.deepest? := by
  unfold Psm.deepest?
  rw [at_psm_entering, at_psm_state]

/-- During a wake the manager chooses nothing: it notes the next event alone. -/
theorem psmChoose_waking {s : State} (h : s.psm.waking.isSome = true) :
    s.psmChoose = s.onPsm fun p => { p with next := (s.nextEvent).getD 0 } := by
  unfold State.psmChoose
  exact if_pos (.inr (.inl h))

theorem runs_psmPlannedWake_wakes {p : PState} (hon : (s.at t).psmOn = true) (hwaking : s.psm.waking = none)
    (hdeep : s.psm.deepest? = some p) (hdue : (s.at t).plannedDue p = true) :
    Runs (.psmPlannedWake t) s fun v =>
      v.psm.waking = some ((s.at t).now, true) ∧ v.psm.entering = none ∧ v.psm.planned = satAdd 16 s.psm.planned 1 ∧
      v.psm.state = s.psm.state := by
  refine ⟨_, runs_psmPlannedWake t p s _ rfl hon (by rw [at_psm_waking]; exact hwaking) (by rw [at_deepest]; exact hdeep) hdue, ?_⟩
  rw [psmChoose_waking rfl]
  exact ⟨rfl, rfl, congrArg (satAdd 16 · 1) (at_psm_planned s t), at_psm_state s t⟩

theorem exec_psmWakeComplete_fences {m i : Nat} {b : Bool} (hon : (s.at t).psmOn = true) (hwaking : s.psm.waking = some (i, b)) :
    exec (.psmWakeComplete t m) s = .next (settle (
      let u := ((s.at t).latency 0x08 noSub ((s.at t).now - i)).exitDeep
      (u.each ((List.range 16).filter fun n => bit m n && (u.acore n).serves) fun n s => s.fence n 9).settleWork)) := by
  rw [exec_psmWakeComplete]
  unfold execPsmWakeComplete finish
  dsimp only
  rw [at_psm_waking, hwaking]
  dsimp only
  rw [if_pos hon]

/-! ## Background deadlines (R483, R484) -/

/-- What the choice of a power state and a planned wake leave: the activities, the self-tests, the state and the events. -/
def State.bgView (s : State) : List Bg × List Bg × PState × Nat := (s.psm.bg, s.psm.tests, s.psm.state, s.psm.events)

theorem ite_bgView (c : Prop) [Decidable c] {s a b : State} (ha : a.bgView = s.bgView) (hb : b.bgView = s.bgView) :
    (if c then a else b).bgView = s.bgView := by
  split
  · exact ha
  · exact hb

theorem psmChoose_bgView (s : State) : s.psmChoose.bgView = s.bgView := by
  unfold State.psmChoose
  exact ite_bgView _ rfl (ite_bgView _ rfl rfl)

/-- The activity near its deadline marked urgent; for the self-tests, every core's that is. -/
def State.urge (a : Nat) (s : State) : State :=
  if a = 1 then (s.onTests (Bg.near s.now 1) fun b => { b with urgent := true }).syncTests
  else if (getN s.psm.bg a).near s.now a then s.onBg a fun b => { b with urgent := true }
  else s

/-- The wake that an urgent activity asks for. -/
def State.urgeWake (a : Nat) (s : State) : State :=
  match s.psm.waking, s.psm.deepest? with
  | none, some p => s.when (decide (a < 2) && s.plannedDue p && (getN s.psm.bg a).urgent) State.planWake
  | _, _ => s

theorem urgeWake_bgView (a : Nat) (s : State) : (s.urgeWake a).bgView = s.bgView := by
  unfold State.urgeWake
  split
  · unfold State.when
    split <;> rfl
  · rfl

theorem exec_bgUrgent_urges {a : Nat} (hon : (s.at t).psmOn = true) (ha : a < 5) :
    exec (.bgUrgent t a) s = .next (settle (((s.at t).urge a).urgeWake a)) := by
  rw [exec_bgUrgent]
  unfold execBgUrgent finish
  dsimp only
  rw [if_pos ⟨hon, ha⟩]
  rfl

/-- BG_URGENT leaves what the marking left, and may plan a wake. -/
theorem runs_bgUrgent_marks {a : Nat} (hon : (s.at t).psmOn = true) (ha : a < 5) :
    Runs (.bgUrgent t a) s fun v => v.bgView = ((s.at t).urge a).bgView :=
  ⟨_, exec_bgUrgent_urges hon ha, urgeWake_bgView a _⟩

theorem runs_bgUrgent_activity {a : Nat} (hs : s.shaped) (ha : a < 5) (htest : a ≠ 1) (hon : (s.at t).psmOn = true)
    (hnear : (getN s.psm.bg a).near (s.at t).now a = true) :
    Runs (.bgUrgent t a) s fun v =>
      (getN v.psm.bg a).urgent = true ∧ (getN v.psm.bg a).from_ = (getN s.psm.bg a).from_ ∧ v.psm.state = s.psm.state := by
  obtain ⟨v, hrun, hview⟩ := runs_bgUrgent_marks hon ha
  have hurge : (s.at t).urge a = (s.at t).onBg a fun b => { b with urgent := true } := by
    unfold State.urge
    rw [if_neg htest, at_psm_bg, if_pos hnear]
  rw [hurge] at hview
  obtain ⟨hbg, hrest⟩ := Prod.mk.inj hview
  have hmarked : getN v.psm.bg a = { getN s.psm.bg a with urgent := true } := by
    rw [hbg, ← at_psm_bg s t]
    exact getN_modN_self _ _ _ (ha.trans_eq (at_shaped t hs).psm.1.symm)
  refine ⟨v, hrun, ?_⟩
  dsimp only
  rw [hmarked]
  exact ⟨rfl, rfl, (Prod.mk.inj (Prod.mk.inj hrest).2).1.trans (at_psm_state s t)⟩

/-- The deadline of a serving core that a predicate selects is changed. -/
theorem getN_onTests {n : Nat} {p : Bg → Bool} (f : Bg → Bg) (hs : s.shaped) (hn : n < 16) (hserves : (s.acore n).serves = true)
    (hp : p (getN s.psm.tests n) = true) : getN (s.onTests p f).psm.tests n = f (getN s.psm.tests n) := by
  have hlen : n < s.psm.tests.length := hn.trans_eq hs.psm.2.symm
  unfold State.onTests State.onPsm
  dsimp only
  rw [getN_map (by rw [List.length_zipIdx]; exact hlen), getN_zipIdx hlen, if_pos ⟨hserves, hp⟩]

/-- The activity of the self-tests is urgent while a serving core's is. -/
theorem syncTests_urgent {n : Nat} (hs : s.shaped) (hn : n < 16) (hserves : (s.acore n).serves = true)
    (hurgent : (getN s.psm.tests n).urgent = true) : (getN s.syncTests.psm.bg 1).urgent = true := by
  have htests : n < s.psm.tests.length := hn.trans_eq hs.psm.2.symm
  have hcores : n < s.aud.cores.length := hn.trans_eq hs.aud.symm
  have hmem : (getN s.psm.tests n, s.acore n) ∈ s.psm.tests.zip s.aud.cores := by
    unfold State.acore
    rw [← getN_zip htests hcores]
    exact getN_mem (by rw [List.length_zip]; exact lt_min htests hcores)
  unfold State.syncTests State.onBg State.onPsm
  dsimp only
  rw [getN_modN_self _ _ _ (by rw [hs.psm.1]; decide)]
  exact List.any_eq_true.mpr ⟨_, List.mem_filter.mpr ⟨hmem, hserves⟩, hurgent⟩

theorem runs_bgUrgent_tests {n : Nat} (hs : s.shaped) (hn : n < 16) (hon : (s.at t).psmOn = true) (hadm : (s.acore n).state = .admitted)
    (hnear : (getN s.psm.tests n).near (s.at t).now 1 = true) :
    Runs (.bgUrgent t 1) s fun v => (getN v.psm.tests n).urgent = true ∧ (getN v.psm.bg 1).urgent = true := by
  obtain ⟨v, hrun, hview⟩ := runs_bgUrgent_marks hon (by decide : 1 < 5)
  obtain ⟨hbg, hrest⟩ := Prod.mk.inj hview
  have hserves : ((s.at t).acore n).serves = true := by
    rw [at_acore]
    unfold ACore.serves
    rw [hadm]
    decide
  have hmarked := getN_onTests (fun b => { b with urgent := true }) (at_shaped t hs) hn hserves
    (p := Bg.near (s.at t).now 1) (by rw [at_psm_tests]; exact hnear)
  have hshaped : ((s.at t).onTests (Bg.near (s.at t).now 1) fun b => { b with urgent := true }).shaped :=
    (State.onTests_moves _ _ (Moves.refl [.psm] (s.at t)) (List.Subset.refl _)).shaped (at_shaped t hs)
  refine ⟨v, hrun, ?_, ?_⟩
  · rw [(Prod.mk.inj hrest).1]
    exact (congrArg Bg.urgent hmarked :)
  · rw [hbg]
    exact syncTests_urgent hshaped hn hserves (congrArg Bg.urgent hmarked)

/-- A missed deadline sets MISS_SEEN, and leaves the activities. -/
theorem bgMissed_bgView (a : Nat) (s : State) :
    (s.bgMissed a).bgView = (s.psm.bg, s.psm.tests, s.psm.state, s.psm.events ||| 1) := by
  have hev : ((s.onPsm fun p => { p with events := p.events ||| 1 }).ev 0x0F01 2 noSub a).psm =
      { s.psm with events := s.psm.events ||| 1 } := State.ev_same (p := .psm) (by decide) ..
  unfold State.bgMissed
  rw [psmChoose_bgView]
  unfold State.bgView
  rw [hev]

theorem runs_bgDeadlineMiss_counts {a : Nat} (hs : s.shaped) (ha : a < 5) (htest : a ≠ 1) (hon : (s.at t).psmOn = true)
    (hpast : (getN s.psm.bg a).from_ + bgDeadline a ≤ (s.at t).now) :
    Runs (.bgDeadlineMiss t a) s fun v =>
      getN v.psm.bg a = (getN s.psm.bg a).miss (bgDeadline a) ∧ bit v.psm.events 0 = true := by
  refine ⟨_, runs_bgDeadlineMiss t a s _ rfl hon ha htest (by rw [at_psm_bg]; exact decide_eq_true hpast), ?_⟩
  obtain ⟨hbg, hrest⟩ := Prod.mk.inj (bgMissed_bgView a ((s.at t).onBg a (Bg.miss (bgDeadline a))))
  have hevents := (Prod.mk.inj (Prod.mk.inj hrest).2).2
  rw [settle_psm, hbg, hevents]
  refine ⟨?_, by unfold bit; rw [Nat.testBit_or]; exact Bool.or_true _⟩
  rw [← at_psm_bg s t]
  exact getN_modN_self _ _ _ (ha.trans_eq (at_shaped t hs).psm.1.symm)

theorem exec_bgDeadlineMiss_early {a : Nat} (htest : a ≠ 1) (hearly : (s.at t).now < (getN s.psm.bg a).from_ + bgDeadline a) :
    exec (.bgDeadlineMiss t a) s = .next (settle (s.at t)) := by
  have hdue : (getN (s.at t).psm.bg a).due (s.at t).now a = false := by rw [at_psm_bg]; exact decide_eq_false hearly.not_ge
  rw [exec_bgDeadlineMiss]
  unfold execBgDeadlineMiss finish
  dsimp only
  rw [if_neg htest, hdue]
  exact congrArg (fun u => Host.Outcome.next (settle u)) (ite_self _)

/-- The second miss in a row sets TWICE. -/
theorem miss_twice {b : Bg} (d : Nat) (h : 1 ≤ b.row) : (b.miss d).twice = true := by
  have hrow : 2 ≤ b.row + 1 := Nat.succ_le_succ h
  exact (congrArg (b.twice || ·) (decide_eq_true hrow)).trans (Bool.or_true _)

/-- A run that is complete within its deadline starts the next one; the second such run in a row clears TWICE. -/
theorem done_inTime (now : Nat) {b : Bg} (h : b.late = false) :
    b.done now = { b with urgent := false, from_ := now, row := 0, good := b.good + 1, twice := b.twice && decide (b.good + 1 < 2) } := by
  unfold Bg.done
  rw [h]
  rfl

end PowerCommands

/-- Settles O53: entry, wake and exit by their lemmas; the choice of a power state changes no activity. -/
theorem powerStatesAndBackgroundDeadlinesAct : Obligations.PowerStatesAndBackgroundDeadlinesAct := by
  unfold Obligations.PowerStatesAndBackgroundDeadlinesAct
  refine ⟨?entry, ?planned, ?wake, ?exit, ?fault, ?urgent, ?tests, ?miss, ?early, ?done⟩
  case entry => exact fun t i p s hon hentry hpast => runs_psmEntryComplete_enters hon hentry hpast
  case planned => exact fun t p s hon hwaking hdeep hdue => runs_psmPlannedWake_wakes hon hwaking hdeep hdue
  case wake => exact fun t m i b s hon hwaking => exec_psmWakeComplete_fences hon hwaking
  case exit =>
    intro s
    obtain ⟨hstate, hwaking, hstacks, hcores⟩ := exitDeep_powers s
    exact ⟨hstate, hwaking, hstacks, hcores, exitDeep_breaks, memGet_exitDeep s⟩
  case fault =>
    exact fun t i b s hon hwaking hlate =>
      runs_psmWakeFault t i b s _ rfl hon (by rw [at_psm_waking]; exact hwaking) (by rw [at_psm_state]; exact hlate)
  case urgent => exact fun t a s hs ha htest hon hnear => runs_bgUrgent_activity hs ha htest hon hnear
  case tests => exact fun t n s hs hn hon hadm hnear => runs_bgUrgent_tests hs hn hon hadm hnear
  case miss =>
    intro t a s hs ha htest hon hpast
    obtain ⟨v, hrun, hmiss, hseen⟩ := runs_bgDeadlineMiss_counts hs ha htest hon hpast
    refine ⟨v, hrun, ?_⟩
    dsimp only
    rw [hmiss]
    exact ⟨rfl, rfl, rfl, miss_twice _, hseen⟩
  case early => exact fun t a s _ htest hearly => exec_bgDeadlineMiss_early htest hearly
  case done =>
    intro now b hlate
    rw [done_inTime now hlate]
    exact ⟨rfl, rfl, rfl, fun _ hgood => (congrArg (b.twice && ·) (decide_eq_false (Nat.not_lt.mpr hgood))).trans (Bool.and_false _)⟩

end Sys2Proof.Machine
end

section
/-! SUPPORT. The J5 TAP: its instructions, the unlock and the lock of debug (18 R506 to R508, R511). -/

namespace Sys2Proof.Machine

/-! ## What a TAP instruction reads -/

section TapCommands
variable {t : Nat} {s : State}

/-- A command that shifts a status and data out, run on a state that nothing has left yet. -/
theorem runs_shifts {c : Instr} {u : State} {status : Nat} {data : Bytes} {p : State → Prop}
    (hexec : exec c s = .next (settle (u.shiftOut status data))) (hout : u.out = [])
    (hp : ∀ v : State, v.out = [.tdo status data] → v.dbg = u.dbg → v.sys = u.sys → v.aud = u.aud → v.vane = u.vane → p v) : Runs c s p :=
  ⟨_, hexec, hp _ (congrArg (· ++ [Output.tdo status data]) hout) rfl rfl rfl rfl⟩

theorem tapIr_out (code : Nat) : ((s.at t).tapIr code).out = [] := at_out s t

theorem tapIr_dbg (code : Nat) : ((s.at t).tapIr code).dbg = { s.dbg with ir := code, extest := false } :=
  congrArg (fun d : Dbg => { d with ir := code, extest := false }) (at_dbg s t)

theorem at_enabled (t : Nat) (s : State) : (s.at t).dbg.enabled = s.dbg.enabled := congrArg Dbg.enabled (at_dbg s t)

theorem at_torque (t : Nat) (s : State) : (s.at t).torque = s.torque := congrArg (List.any · id) (at_slb_stoPin s t)

/-! ## IDCODE, BYPASS and EXTEST (R506) -/

theorem runs_idcode_shifts (hon : s.sup.on = true) :
    Runs (.idcode t) s fun v => v.out = [.tdo 0 (leBytes 4 0x0480D0A5)] ∧ v.dbg = { s.dbg with ir := 0x01, extest := false } :=
  runs_shifts (runs_idcode t s _ rfl (by rw [at_sup]; exact hon)) (tapIr_out _) fun _ hout hdbg _ _ _ => ⟨hout, hdbg.trans (tapIr_dbg _)⟩

theorem runs_dbgNonce_shifts (hon : s.sup.on = true) :
    Runs (.dbgNonce t) s fun v => v.out = [.tdo 0 s.dbg.nonce] ∧ v.dbg.nonce = s.dbg.nonce := by
  refine runs_shifts (runs_dbgNonce t s _ rfl (by rw [at_sup]; exact hon)) (tapIr_out _) fun v hout hdbg _ _ _ => ⟨?_, ?_⟩
  · rw [hout, at_dbg]
  · rw [hdbg, tapIr_dbg]

theorem runs_samplePreload_holds (hon : s.sup.on = true) (a b : Nat) :
    Runs (.samplePreload t a b) s fun v =>
      v.dbg.capture = a ∧ v.dbg.preload = b ∧ v.dbg.extest = false ∧ v.out = [.tdo 0 (leBytes 8 a)] := by
  refine runs_shifts (runs_samplePreload t a b s _ rfl (by rw [at_sup]; exact hon)) (tapIr_out 0x02) fun v hout hdbg _ _ _ => ?_
  rw [hdbg]
  exact ⟨rfl, rfl, rfl, hout⟩

theorem runs_bypass_delays (hon : s.sup.on = true) (a : Nat) :
    Runs (.bypass t a) s fun v => v.out = [.tdo 0 (leBytes 8 (a * 2))] ∧ v.dbg.bypass = bits a 63 1 := by
  refine runs_shifts (runs_bypass t a s _ rfl (by rw [at_sup]; exact hon)) (tapIr_out 0x3F) fun v hout hdbg _ _ _ => ⟨hout, ?_⟩
  rw [hdbg]
  rfl

theorem exec_extest_bypasses (hon : s.sup.on = true) (a : Nat) (hnot : ¬(s.dbg.enabled = true ∧ s.torque = false)) :
    exec (.extest t a) s = .next (settle ((s.at t).bypassShift 0x03 0)) := by
  rw [exec_extest]
  unfold execExtest finish State.when
  dsimp only
  rw [at_sup, if_pos hon, at_enabled, at_torque, if_neg (by rw [Bool.not_eq_true']; exact hnot)]

theorem runs_extest_drives (hon : s.sup.on = true) (a : Nat) :
    Runs (.extest t a) s fun v =>
      v.dbg.extest = (s.dbg.enabled && !s.torque) ∧
      v.out = [.tdo 0 (if s.dbg.enabled = true ∧ s.torque = false then leBytes 8 a else leBytes 8 0)] := by
  by_cases hdrive : s.dbg.enabled = true ∧ s.torque = false
  · obtain ⟨hen, htorque⟩ := hdrive
    refine runs_shifts (runs_extest t a s _ rfl (by rw [at_sup]; exact hon) (by rw [at_enabled]; exact hen)
      (by rw [at_torque]; exact htorque)) (tapIr_out 0x03) fun v hout hdbg _ _ _ => ?_
    rw [hdbg, if_pos ⟨hen, htorque⟩, hen, htorque]
    exact ⟨rfl, hout⟩
  · refine runs_shifts (exec_extest_bypasses hon a hdrive) (tapIr_out 0x03) fun v hout hdbg _ _ _ => ?_
    have hoff : (s.dbg.enabled && !s.torque) = false := by
      rw [← Bool.not_eq_true, Bool.and_eq_true, Bool.not_eq_true']
      exact hdrive
    rw [hdbg, if_neg hdrive, hoff]
    exact ⟨rfl, hout⟩

/-! ## The unlock and the lock (R507, R508) -/

/-- DBG_LOCK disables debug, and may log it. -/
theorem dbgOff_leaves (s : State) : s.dbgOff.dbg.enabled = false ∧ s.dbgOff.sys = s.sys ∧ s.dbgOff.out = s.out := by
  unfold State.dbgOff
  split
  · refine ⟨?_, State.ev_same (p := .sys) (by decide) .., State.ev_out ..⟩
    exact congrArg Dbg.enabled (State.ev_same (p := .dbg) (by decide) ..)
  · next hoff => exact ⟨Bool.not_eq_true _ ▸ hoff, rfl, rfl⟩

theorem runs_dbgLock_disables (hon : s.sup.on = true) :
    Runs (.dbgLock t) s fun v => v.dbg.enabled = false ∧ v.out = [.tdo 0 []] ∧ v.sys = (s.at t).sys := by
  obtain ⟨hoff, hsys, hout⟩ := dbgOff_leaves ((s.at t).tapIr 0x12)
  refine runs_shifts (runs_dbgLock t s _ rfl (by rw [at_sup]; exact hon)) (hout.trans (tapIr_out _)) fun v hshift hdbg hsys' _ _ => ?_
  exact ⟨(congrArg Dbg.enabled hdbg).trans hoff, hshift, hsys'.trans hsys⟩

/-- What the decision of an unlock request sets. -/
def Dbg.unlock (d : Dbg) : Bool × Option HeldUnlock × Nat × Bool := (d.enabled, d.held, d.method, d.scopeSp)

theorem unlockNote_leaves (status : Nat) (s : State) :
    (s.unlockNote status).dbg = s.dbg ∧ (s.unlockNote status).sys = s.sys ∧ (s.unlockNote status).out = s.out := by
  unfold State.unlockNote
  split
  · exact ⟨rfl, rfl, rfl⟩
  · exact ⟨State.ev_same (p := .dbg) (by decide) .., State.ev_same (p := .sys) (by decide) .., State.ev_out ..⟩

/-- A new nonce is drawn whatever the answer to the request is. -/
theorem runs_dbgUnlock_answers {r : UnlockReq} {c : Nat} {u : State} (hon : s.sup.on = true)
    (hanswer : ((s.at t).tapIr 0x11).unlockAnswer r = (c, u)) :
    Runs (.dbgUnlock t r) s fun v =>
      v.dbg.unlock = u.dbg.unlock ∧ v.sys = u.sys ∧ v.out = u.out ++ [.tdo c []] ∧ s.free < v.free := by
  have hrun := runs_dbgUnlock t r s _ rfl (by rw [at_sup]; exact hon)
  rw [hanswer] at hrun
  obtain ⟨hdbg, hsys, hout⟩ := unlockNote_leaves c u
  have hanswered : s.free ≤ u.free :=
    (at_free s t).symm.trans_le (State.unlockAnswer_moves hanswer (Moves.refl _ _) (List.Subset.refl _)).free
  have hnoted : u.free ≤ (u.unlockNote c).free := (State.unlockNote_moves c (Moves.refl _ u) (List.Subset.refl _)).free
  exact ⟨_, hrun, (congrArg Dbg.unlock hdbg :), hsys, (congrArg (· ++ [Output.tdo c []]) hout :),
    Nat.lt_succ_of_le (hanswered.trans hnoted)⟩

theorem unlockAnswer_refused (r : UnlockReq) (h : s.sys.state = .off ∨ s.sys.state = .doldrums) : s.unlockAnswer r = (4, s) := by
  unfold State.unlockAnswer
  obtain h | h := h <;> rw [h]

theorem unlockAnswer_held (r : UnlockReq) (h : s.sys.state = .start) :
    s.unlockAnswer r = (6, s.onDbg fun d => { d with held := some { req := r, nonce := d.nonce } }) := by
  unfold State.unlockAnswer
  rw [h]

/-- Elsewhere a request is decided at once, against the nonce in force. -/
theorem unlockAnswer_decided (r : UnlockReq) (hoff : s.sys.state ≠ .off) (hdoldrums : s.sys.state ≠ .doldrums)
    (hstart : s.sys.state ≠ .start) : s.unlockAnswer r = s.wake.unlockNow r s.dbg.nonce := by
  unfold State.unlockAnswer
  split
  · next h => exact absurd h hoff
  · next h => exact absurd h hdoldrums
  · next h => exact absurd h hstart
  · rfl

theorem tapIr_state (code : Nat) : ((s.at t).tapIr code).sys.state = s.sys.state := at_sys_state s t

/-- Debug enabled: by which method, with which scope, and due for COMMISSION from RUN and DEGRADED. -/
theorem dbgOn_leaves (m : Nat) (sp : Bool) (s : State) :
    (s.dbgOn m sp).dbg = { s.dbg with enabled := true, method := m, scopeSp := sp } ∧ (s.dbgOn m sp).out = s.out ∧
      (m = 2 → s.sys.state = .run ∨ s.sys.state = .degraded → (s.dbgOn m sp).sys.dbgDue = true) := by
  have hdbg : ((s.onDbg fun d => { d with enabled := true, method := m, scopeSp := sp }).ev 0x1202 1 noSub m).dbg = _ :=
    State.ev_same (p := .dbg) (by decide) ..
  have hsys : ((s.onDbg fun d => { d with enabled := true, method := m, scopeSp := sp }).ev 0x1202 1 noSub m).sys = s.sys :=
    State.ev_same (p := .sys) (by decide) ..
  have hout : ((s.onDbg fun d => { d with enabled := true, method := m, scopeSp := sp }).ev 0x1202 1 noSub m).out = s.out :=
    State.ev_out ..
  unfold State.dbgOn
  dsimp only
  rw [hsys]
  split
  · exact ⟨hdbg, hout, fun _ _ => rfl⟩
  · next hnot => exact ⟨hdbg, hout, fun hm hstate => absurd ⟨hm, hstate⟩ hnot⟩

theorem tapIr_wake_certOk (code : Nat) (c : Cert) (nonce : Bytes) :
    ((s.at t).tapIr code).wake.certOk c nonce = (s.at t).certOk c nonce := wake_certOk c nonce _

/-- Whether the seals are in PROGRAM depends on the switches alone. -/
theorem sealClass_program_of {s u : State} (hseals : u.seals = s.seals) (h : s.sealClass ≠ .program) : u.sealClass ≠ .program := by
  have hpattern : u.sealPattern = s.sealPattern := by
    unfold State.sealPattern
    rw [hseals]
  intro hu
  refine h ?_
  unfold State.sealClass at hu ⊢
  rw [hseals, hpattern] at hu
  split at hu
  · nomatch hu
  · next hbad =>
    rw [if_neg hbad]
    split at hu
    · next h15 => rw [if_pos h15]
    · split at hu <;> nomatch hu

/-- Without the seals in PROGRAM no password changes debug. -/
theorem unlockNow_password (p nonce : Bytes) (h : s.sealClass ≠ .program) : (s.unlockNow (.password p) nonce).2.dbg = s.dbg := by
  have hmoves := State.checkPass_snd (p := p) (Moves.refl [.nvm, .log, .ret] s) (List.Subset.refl _)
  have hdbg : (s.checkPass p).2.dbg = s.dbg := hmoves.same .dbg (by decide)
  have hclass : (s.checkPass p).2.sealClass ≠ .program := sealClass_program_of (hmoves.same .seals (by decide)) h
  unfold State.unlockNow
  dsimp only
  rw [if_pos hclass]
  split
  · exact hdbg
  · split <;> exact hdbg

theorem runs_dbgUnlock_refused (r : UnlockReq) (hon : s.sup.on = true) (h : s.sys.state = .off ∨ s.sys.state = .doldrums) :
    Runs (.dbgUnlock t r) s fun v =>
      v.dbg.enabled = s.dbg.enabled ∧ v.dbg.held = s.dbg.held ∧ v.out = [.tdo 4 []] ∧ s.free < v.free := by
  obtain ⟨v, hrun, hunlock, -, hout, hfree⟩ :=
    runs_dbgUnlock_answers (t := t) hon (unlockAnswer_refused r (by rw [tapIr_state]; exact h))
  rw [tapIr_dbg] at hunlock
  obtain ⟨henabled, hrest⟩ := Prod.mk.inj hunlock
  exact ⟨v, hrun, henabled, (Prod.mk.inj hrest).1, by rw [hout, tapIr_out]; rfl, hfree⟩

theorem runs_dbgUnlock_holds (r : UnlockReq) (hon : s.sup.on = true) (h : s.sys.state = .start) :
    Runs (.dbgUnlock t r) s fun v =>
      v.dbg.held = some { req := r, nonce := s.dbg.nonce } ∧ v.dbg.enabled = s.dbg.enabled ∧ v.out = [.tdo 6 []] ∧ s.free < v.free := by
  obtain ⟨v, hrun, hunlock, -, hout, hfree⟩ :=
    runs_dbgUnlock_answers (t := t) hon (unlockAnswer_held r (by rw [tapIr_state]; exact h))
  have hset := congrArg (fun d => Dbg.unlock { d with held := some { req := r, nonce := d.nonce } }) (tapIr_dbg (t := t) (s := s) 0x11)
  obtain ⟨henabled, hrest⟩ := Prod.mk.inj (hunlock.trans hset)
  exact ⟨v, hrun, (Prod.mk.inj hrest).1, henabled, hout.trans (congrArg (· ++ [Output.tdo 6 []]) (tapIr_out 0x11)), hfree⟩

theorem runs_dbgUnlock_certificate (c : Cert) (hon : s.sup.on = true) (hoff : s.sys.state ≠ .off) (hdoldrums : s.sys.state ≠ .doldrums)
    (hstart : s.sys.state ≠ .start) :
    Runs (.dbgUnlock t (.certificate c)) s fun v =>
      s.free < v.free ∧
      if (s.at t).certOk c s.dbg.nonce then
        v.dbg.enabled = true ∧ v.dbg.method = 2 ∧ v.dbg.scopeSp = c.scopeSp ∧ v.out = [.tdo 0 []] ∧
          (s.sys.state = .run ∨ s.sys.state = .degraded → v.sys.dbgDue = true)
      else v.dbg.enabled = s.dbg.enabled ∧ v.dbg.method = s.dbg.method ∧ v.out = [.tdo 1 []] := by
  have hdbg : ((s.at t).tapIr 0x11).wake.dbg = { s.dbg with ir := 0x11, extest := false } := (wake_dbg _).trans (tapIr_dbg _)
  have hnothing : ((s.at t).tapIr 0x11).wake.out = [] := (wake_out _).trans (tapIr_out _)
  have hstate : ((s.at t).tapIr 0x11).wake.sys.state = s.sys.state := (congrArg Sys.state (wake_sys _)).trans (tapIr_state _)
  have hdecided : ((s.at t).tapIr 0x11).unlockAnswer (.certificate c) =
      if (s.at t).certOk c s.dbg.nonce then (0, ((s.at t).tapIr 0x11).wake.dbgOn 2 c.scopeSp) else (1, ((s.at t).tapIr 0x11).wake) := by
    rw [unlockAnswer_decided _ (by rwa [tapIr_state]) (by rwa [tapIr_state]) (by rwa [tapIr_state]), tapIr_dbg]
    unfold State.unlockNow
    dsimp only
    rw [tapIr_wake_certOk]
  cases hcert : (s.at t).certOk c s.dbg.nonce with
  | true =>
    rw [hcert, if_pos rfl] at hdecided
    obtain ⟨v, hrun, hunlock, hsys, hout, hfree⟩ := runs_dbgUnlock_answers hon hdecided
    obtain ⟨hset, hout', hdue⟩ := dbgOn_leaves 2 c.scopeSp ((s.at t).tapIr 0x11).wake
    rw [hset] at hunlock
    obtain ⟨henabled, hrest⟩ := Prod.mk.inj hunlock
    obtain ⟨hmethod, hscope⟩ := Prod.mk.inj (Prod.mk.inj hrest).2
    refine ⟨v, hrun, hfree, ?_⟩
    rw [if_pos rfl]
    exact ⟨henabled, hmethod, hscope, by rw [hout, hout', hnothing]; rfl,
      fun hrunning => (congrArg Sys.dbgDue hsys).trans (hdue rfl (by rw [hstate]; exact hrunning))⟩
  | false =>
    rw [hcert, if_neg (by decide)] at hdecided
    obtain ⟨v, hrun, hunlock, -, hout, hfree⟩ := runs_dbgUnlock_answers hon hdecided
    rw [hdbg] at hunlock
    obtain ⟨henabled, hrest⟩ := Prod.mk.inj hunlock
    refine ⟨v, hrun, hfree, ?_⟩
    rw [if_neg (by decide)]
    exact ⟨henabled, (Prod.mk.inj (Prod.mk.inj hrest).2).1, by rw [hout, hnothing]; rfl⟩

theorem runs_dbgUnlock_password (p : Bytes) (hon : s.sup.on = true) (hoff : s.sys.state ≠ .off) (hdoldrums : s.sys.state ≠ .doldrums)
    (hstart : s.sys.state ≠ .start) (hseals : s.sealClass ≠ .program) :
    Runs (.dbgUnlock t (.password p)) s fun v =>
      v.dbg.enabled = s.dbg.enabled ∧ v.dbg.method = s.dbg.method ∧ s.free < v.free := by
  have hdecided := unlockAnswer_decided (s := (s.at t).tapIr 0x11) (.password p) (by rwa [tapIr_state]) (by rwa [tapIr_state])
    (by rwa [tapIr_state])
  have hclass : ((s.at t).tapIr 0x11).wake.sealClass ≠ .program :=
    sealClass_program_of ((show ((s.at t).tapIr 0x11).wake.seals = (s.at t).seals from wake_same (p := .seals) (by decide) _).trans
      (at_seals s t)) hseals
  obtain ⟨v, hrun, hunlock, -, -, hfree⟩ := runs_dbgUnlock_answers hon (hdecided.trans Prod.mk.eta.symm)
  rw [unlockNow_password _ _ hclass, wake_dbg, tapIr_dbg] at hunlock
  obtain ⟨henabled, hrest⟩ := Prod.mk.inj hunlock
  exact ⟨v, hrun, henabled, (Prod.mk.inj (Prod.mk.inj hrest).2).1, hfree⟩

/-! ## The DBG commands (R506, R511) -/

/-- Without debug enabled a core command answers STATE. -/
theorem dbgCmd_disabled (f : State → State) (hon : s.sup.on = true) (hoff : s.dbg.enabled = false) :
    (s.at t).dbgCmd f = ((s.at t).tapIr 0x13).shiftOut 4 [] := by
  unfold State.dbgCmd State.when
  dsimp only
  rw [at_sup, if_pos hon, tapIr_dbg, if_neg (by rw [hoff]; decide)]

theorem exec_readCore_disabled (n : Nat) (hon : s.sup.on = true) (hoff : s.dbg.enabled = false) :
    exec (.readCore t n) s = .next (settle (((s.at t).tapIr 0x13).shiftOut 4 [])) := by
  rw [exec_readCore]
  unfold execReadCore finish State.when
  dsimp only
  rw [at_sup, if_pos hon, tapIr_dbg, if_neg (by rw [hoff]; decide)]

theorem exec_core_disabled {a : Nat} {m : BpMatch} {i : Instr} (hon : s.sup.on = true) (hoff : s.dbg.enabled = false)
    (hi : i = .halt t a ∨ i = .dbgResume t a ∨ i = .step t a ∨ i = .setBp t a m ∨ i = .readCore t a) :
    exec i s = .next (settle (((s.at t).tapIr 0x13).shiftOut 4 [])) := by
  have hcmd (f : State → State) := congrArg (fun u => (.next (settle u) : Host.Outcome State Fault Refusal))
    (dbgCmd_disabled (t := t) f hon hoff)
  obtain rfl | rfl | rfl | rfl | rfl := hi
  · exact (exec_halt ..).trans (hcmd _)
  · exact (exec_dbgResume ..).trans (hcmd _)
  · exact (exec_step ..).trans (hcmd _)
  · exact (exec_setBp ..).trans (hcmd _)
  · exact exec_readCore_disabled a hon hoff

theorem runs_core_disabled {a : Nat} {m : BpMatch} {i : Instr} (hon : s.sup.on = true) (hoff : s.dbg.enabled = false)
    (hi : i = .halt t a ∨ i = .dbgResume t a ∨ i = .step t a ∨ i = .setBp t a m ∨ i = .readCore t a) :
    Runs i s fun v => v.out = [.tdo 4 []] ∧ v.dbg = { s.dbg with ir := 0x13, extest := false } ∧ v.aud = s.aud ∧ v.vane = s.vane :=
  runs_shifts (exec_core_disabled hon hoff hi) (tapIr_out _) fun _ hout hdbg _ haud hvane =>
    ⟨hout, hdbg.trans (tapIr_dbg _), haud.trans (at_aud s t), hvane.trans (at_vane s t)⟩

/-- The firmware's processor halted or running. -/
def State.spSet (halted : Bool) (s : State) : State := s.onDbg fun d => { d with spHalted := halted }

theorem haltFails_running (h : s.sys.state ≠ .start) : s.haltFails = s := by
  unfold State.haltFails
  exact if_neg fun hhalt => h hhalt.1

theorem exec_dbgSp_granted (op : DbgSpOp) (hon : s.sup.on = true) (hstart : s.sys.state ≠ .start)
    (hgrant : s.dbg.enabled = true ∧ s.dbg.method = 2 ∧ s.dbg.scopeSp = true) :
    exec (.dbgSp t op) s = .next (settle ((((s.at t).tapIr 0x15).spSet (op == .halt)).shiftOut 0 [])) := by
  obtain ⟨hen, hmethod, hscope⟩ := hgrant
  obtain ⟨hhalt, hresume⟩ := runs_dbgSp t s _ rfl (by rw [at_sup]; exact hon) (by rw [at_dbg]; exact hen) (by rw [at_dbg]; exact hmethod)
    (by rw [at_dbg]; exact hscope)
  cases op with
  | halt =>
    rw [hhalt, haltFails_running (by exact (tapIr_state 0x15).trans_ne hstart)]
    rfl
  | resume => exact hresume

theorem exec_dbgSp_refused (op : DbgSpOp) (hon : s.sup.on = true)
    (hnot : ¬(s.dbg.enabled = true ∧ s.dbg.method = 2 ∧ s.dbg.scopeSp = true)) :
    exec (.dbgSp t op) s = .next (settle (((s.at t).tapIr 0x15).shiftOut 4 [])) := by
  rw [exec_dbgSp]
  unfold execDbgSp finish State.when
  dsimp only
  rw [at_sup, if_pos hon, tapIr_dbg, if_neg hnot]

theorem runs_dbgSp_needs_scope (op : DbgSpOp) (hon : s.sup.on = true) (hstart : s.sys.state ≠ .start) :
    Runs (.dbgSp t op) s fun v =>
      if s.dbg.enabled = true ∧ s.dbg.method = 2 ∧ s.dbg.scopeSp = true then
        v.dbg.spHalted = (op == .halt) ∧ v.out = [.tdo 0 []]
      else v.dbg.spHalted = s.dbg.spHalted ∧ v.out = [.tdo 4 []] := by
  by_cases hgrant : s.dbg.enabled = true ∧ s.dbg.method = 2 ∧ s.dbg.scopeSp = true
  · refine runs_shifts (exec_dbgSp_granted op hon hstart hgrant) (tapIr_out 0x15) fun v hout hdbg _ _ _ => ?_
    rw [if_pos hgrant, hdbg]
    exact ⟨rfl, hout⟩
  · refine runs_shifts (exec_dbgSp_refused op hon hgrant) (tapIr_out 0x15) fun v hout hdbg _ _ _ => ?_
    rw [if_neg hgrant, hdbg, tapIr_dbg]
    exact ⟨rfl, hout⟩

end TapCommands

/-- Settles O55: each instruction by its lemma; an unlock request draws a new nonce whatever its answer is. -/
theorem debugIsUnlockedAndUsedAsStated : Obligations.DebugIsUnlockedAndUsedAsStated := by
  unfold Obligations.DebugIsUnlockedAndUsedAsStated
  refine ⟨?short, ?pins, ?refused, ?held, ?certificate, ?password, ?core, ?sp⟩
  case short => exact fun t s hon => ⟨runs_idcode_shifts hon, runs_dbgNonce_shifts hon, runs_dbgLock_disables hon⟩
  case pins => exact fun t a b s hon => ⟨runs_samplePreload_holds hon a b, runs_bypass_delays hon a, runs_extest_drives hon a⟩
  case refused => exact fun t r s hon h => runs_dbgUnlock_refused r hon h
  case held => exact fun t r s hon h => runs_dbgUnlock_holds r hon h
  case certificate => exact fun t c s hon hoff hdoldrums hstart => runs_dbgUnlock_certificate c hon hoff hdoldrums hstart
  case password => exact fun t p s hon hoff hdoldrums hstart hseals => runs_dbgUnlock_password p hon hoff hdoldrums hstart hseals
  case core => exact fun t a m i s hon hoff hi => runs_core_disabled hon hoff hi
  case sp => exact fun t op s hon hstart => runs_dbgSp_needs_scope op hon hstart

end Sys2Proof.Machine
end

section
/-! SUPPORT. The order of time (log entry 1). -/

namespace Sys2Proof.Machine

/-- A command ends at an instant not before the last one, and leaves the queue as it found it. -/
theorem exec_now_pending {c : Instr} {s v : State} (h : exec c s = .next v) : s.now ≤ v.now ∧ v.pending = s.pending := by
  obtain ⟨u, hexec, hmoves⟩ := stays c s
  cases hexec.symm.trans h
  rw [settle_now, settle_pending, hmoves.now, hmoves.pending, at_now, at_pending]
  exact ⟨Nat.le_max_left .., rfl⟩

/-- Settles O9: an empty queue idles, and a command keeps the order of time and the rest of the queue. -/
theorem timeNeverGoesBack : Obligations.TimeNeverGoesBack := by
  unfold Obligations.TimeNeverGoesBack
  intro s s' hstep
  cases hqueue : s.pending with
  | nil =>
    rw [emptyQueueIdles s hqueue] at hstep
    cases hstep
    exact ⟨Nat.le_refl _, nofun⟩
  | cons c r =>
    rw [stepRunsTheFrontCommand c r s hqueue] at hstep
    obtain ⟨hnow, hpending⟩ := exec_now_pending hstep
    refine ⟨hnow, fun d l hfront => ?_⟩
    cases hfront
    exact hpending

end Sys2Proof.Machine
end

section
/-! SUPPORT. gPTP (03 R63 to R65): the grandmaster that is followed, lock, the hand-over, holdover, and ports that disagree. -/

namespace Sys2Proof.Machine

/-! ## What a report leaves -/

@[simp] theorem at_ptpOn (t port : Nat) (s : State) : (s.at t).ptpOn port = s.ptpOn port := by
  unfold State.ptpOn
  rw [at_sup, at_clk_ptpOk, at_sys_state]

@[simp] theorem at_portsDiffer (t : Nat) (s : State) : (s.at t).clk.portsDiffer = s.clk.portsDiffer := by
  unfold Clk.portsDiffer
  rw [at_clk_gms, at_clk_offs]

theorem setSync_start (x : Sync) (s : State) : (s.setSync x).start = s.start :=
  (State.setSync_moves x (Moves.refl _ s) (List.Subset.refl _)).same .start (by decide)

/-- The tenth report in a row within 1 µs locks; with fewer the clock runs free (R64). -/
theorem countLock_sync (o : Int) (s : State) :
    (s.countLock o).clk.sync = if 10 ≤ (if o.natAbs ≤ 1000 then s.clk.inLock + 1 else 0) then .locked else .free :=
  setSync_sync ..

/-- Counting towards lock steps no device time and completes no stage. -/
theorem countLock_dev_start (o : Int) (s : State) : (s.countLock o).clk.dev = s.clk.dev ∧ (s.countLock o).start = s.start := by
  unfold State.countLock
  dsimp only
  refine ⟨?_, setSync_start ..⟩
  obtain ⟨l, hclk⟩ := setSync_clk (if 10 ≤ (if o.natAbs ≤ 1000 then s.clk.inLock + 1 else 0) then .locked else .free)
    (s.onClk fun c => { c with inLock := min (if o.natAbs ≤ 1000 then s.clk.inLock + 1 else 0) 10, offset := sat32 o, lostAt := none })
  rw [hclk]
  rfl

/-- Before S7 completes an offset is stepped into device time (R63). -/
theorem discipline_dev_stepped {s : State} (h : s.start.s7Done = false) (o : Int) :
    (s.discipline o).clk.dev = ((s.clk.dev : Int) + o).toNat := by
  have hstart : s.servoDraw.start = s.start := rfl
  unfold State.discipline
  dsimp only
  rw [hstart, h]
  rfl

/-- A grandmaster selected anew is recorded with its port; its first report counts alone, too few to lock (R63, R64). -/
theorem select_clk (y : PtpSync) (s : State) :
    (s.select y).clk.gm = some y.gm ∧ (s.select y).clk.port = y.port ∧ (s.select y).clk.offset = sat32 y.offset ∧
      (s.select y).clk.inLock = (if y.offset.natAbs ≤ 1000 then 1 else 0) ∧ (s.select y).clk.sync = .free := by
  have hfew : (if y.offset.natAbs ≤ 1000 then 0 + 1 else 0) < 10 := by split <;> omega
  unfold State.select
  generalize hu : (s.onClk fun c => { c with gm := some y.gm, port := y.port, inLock := 0 }) = u
  obtain ⟨hgm, hport, hlock, hoffset, hsync⟩ := discipline_keeps y.offset (u.countLock y.offset)
  obtain ⟨hgm', hport', hoffset', hlock'⟩ := countLock_keeps y.offset u
  have hsync' := countLock_sync y.offset u
  rw [hgm, hport, hlock, hoffset, hsync, hgm', hport', hoffset', hlock', hsync']
  subst hu
  refine ⟨rfl, rfl, rfl, Nat.min_eq_left hfew.le, if_neg (Nat.not_le.mpr hfew)⟩

/-! ## The commands -/

section Gptp
variable {t : Nat} {s : State}

theorem exec_bestMasterClockSelection_selects {y : PtpSync} (hon : s.ptpOn y.port = true) (hnew : s.clk.gm ≠ some y.gm) :
    exec (.bestMasterClockSelection t y) s = .next (settle (((s.at t).noteSync y).select y)) := by
  rw [← at_ptpOn t] at hon
  rw [← at_clk_gm s t] at hnew
  have hkept : ¬(((s.at t).noteSync y).clk.gm = some y.gm ∧ ((s.at t).noteSync y).clk.port = y.port) := fun h => hnew h.1
  rw [exec_bestMasterClockSelection]
  unfold execBestMasterClockSelection finish
  simp only [hon, Bool.not_true, Bool.false_eq_true, if_false, hkept]

/-- A report of the followed grandmaster on the followed port counts towards lock and disciplines device time. -/
theorem exec_ptpSyncReceived_follows {y : PtpSync} (hon : s.ptpOn y.port = true) (hgm : s.clk.gm = some y.gm)
    (hport : s.clk.port = y.port) :
    exec (.ptpSyncReceived t y) s =
      .next (settle ((((s.at t).noteSync y).countLock y.offset).discipline y.offset)) := by
  rw [← at_ptpOn t] at hon
  have hgm' : ((s.at t).noteSync y).clk.gm = some y.gm := (at_clk_gm s t).trans hgm
  have hport' : ((s.at t).noteSync y).clk.port = y.port := (at_clk_port s t).trans hport
  have hstay : ¬(y.port = 0 ∧ y.port ≠ 0) := fun h => h.2 h.1
  rw [exec_ptpSyncReceived]
  unfold execPtpSyncReceived finish
  simp only [hon, hgm', hport', hstay, Bool.not_true, Bool.false_eq_true, if_false, and_false, and_self, if_true]

theorem runs_ptpSyncReceived_locks {y : PtpSync} (hon : s.ptpOn y.port = true) (hgm : s.clk.gm = some y.gm) (hport : s.clk.port = y.port)
    (hcount : 9 ≤ s.clk.inLock) (hoffset : y.offset.natAbs ≤ 1000) (hstart : s.start.s7Done = false) :
    Runs (.ptpSyncReceived t y) s fun v =>
      v.clk.sync = .locked ∧ v.clk.gm = some y.gm ∧ v.clk.dev = (((s.at t).clk.dev : Int) + y.offset).toNat := by
  refine ⟨_, exec_ptpSyncReceived_follows hon hgm hport, ?_⟩
  obtain ⟨hgm', -, -, -, hsync⟩ := discipline_keeps y.offset (((s.at t).noteSync y).countLock y.offset)
  obtain ⟨hgm'', -, -, -⟩ := countLock_keeps y.offset ((s.at t).noteSync y)
  obtain ⟨hdev, hstart'⟩ := countLock_dev_start y.offset ((s.at t).noteSync y)
  have hbefore : (((s.at t).noteSync y).countLock y.offset).start.s7Done = false := by
    rw [hstart']
    exact (congrArg Start.s7Done (at_start s t)).trans hstart
  have hten : 10 ≤ ((s.at t).noteSync y).clk.inLock + 1 := Nat.succ_le_succ (hcount.trans_eq (at_clk_inLock s t).symm)
  rw [settle_clk, hsync, hgm', hgm'', discipline_dev_stepped hbefore, hdev, countLock_sync, if_pos hoffset, if_pos hten]
  exact ⟨rfl, (at_clk_gm s t).trans hgm, rfl⟩

/-- A port's grandmaster is gone. -/
def Clk.losePort (port : Nat) (c : Clk) : Clk :=
  { c with gms := setN c.gms port none, disSince := none, disLogged := false, disagree := false }

/-- No grandmaster is followed from an instant on; the last correction stays (R64). -/
def Clk.unfollow (now : Nat) (c : Clk) : Clk := { c with gm := none, inLock := 0, lostAt := some now, slew := 0 }

theorem exec_ptpGrandmasterLost_only {port : Nat} (hon : s.sup.on = true) (hp : port < 2) (hport : s.clk.port = port)
    (hgm : (getN s.clk.gms port).isSome = true) (hnone : getN s.clk.gms (1 - port) = none) (hsync : s.clk.sync ≠ .unset) :
    exec (.ptpGrandmasterLost t port) s =
      .next (settle (((s.at t).onClk fun c => (c.losePort port).unfollow (s.at t).now).setSync .holdover)) := by
  have hother : getN (setN s.clk.gms port none) (1 - port) = none := (getN_setN_ne _ _ _ _ (by omega)).trans hnone
  rw [exec_ptpGrandmasterLost]
  unfold execPtpGrandmasterLost finish
  dsimp only
  rw [if_pos (by rw [at_sup, at_clk_gms]; exact ⟨hon, hp, hgm⟩),
    if_neg (by rw [onClk_clk, at_clk_port]; exact not_not.mpr hport.symm)]
  simp only [onClk_clk, at_clk_gms, hother]
  rw [if_neg (by rw [at_clk_sync]; exact hsync)]
  rfl

theorem runs_ptpGrandmasterLost_holds {port : Nat} (hon : s.sup.on = true) (hp : port < 2) (hport : s.clk.port = port)
    (hgm : (getN s.clk.gms port).isSome = true) (hnone : getN s.clk.gms (1 - port) = none) (hsync : s.clk.sync ≠ .unset) :
    Runs (.ptpGrandmasterLost t port) s fun v =>
      v.clk.sync = .holdover ∧ v.clk.gm = none ∧ v.clk.lostAt = some (s.at t).now ∧ v.clk.addend = s.clk.addend := by
  refine ⟨_, exec_ptpGrandmasterLost_only hon hp hport hgm hnone hsync, ?_⟩
  obtain ⟨l, hclk⟩ := setSync_clk .holdover ((s.at t).onClk fun c => (c.losePort port).unfollow (s.at t).now)
  rw [settle_clk, hclk]
  exact ⟨rfl, rfl, rfl, at_clk_addend s t⟩

end Gptp

/-- Settles O22: the selection and the report by what they leave of the clock, the loss of the last grandmaster, and the completion of
the two expiries. -/
theorem gptpSelectsLocksAndHoldsOver : Obligations.GptpSelectsLocksAndHoldsOver := by
  unfold Obligations.GptpSelectsLocksAndHoldsOver
  refine ⟨?selects, ?locks, ?holds, runs_ptpHoldoverExpiry, ?disagrees⟩
  case selects => exact fun t y s hon hnew => ⟨_, exec_bestMasterClockSelection_selects hon hnew, select_clk ..⟩
  case locks =>
    exact fun t y s hon hgm hport hcount hoffset hstart => runs_ptpSyncReceived_locks hon hgm hport hcount hoffset hstart
  case holds => exact fun t port s hon hp hport hgm hnone hsync => runs_ptpGrandmasterLost_holds hon hp hport hgm hnone hsync
  case disagrees =>
    exact fun t i s hon hdiffer hsince hlong hunlogged =>
      runs_ptpPortDisagree t i s hon ((at_portsDiffer t s).trans hdiffer) hsince hlong hunlogged

end Sys2Proof.Machine
end

section
/-! SUPPORT. Camera triggers (03 R67 to R70): the schedule, and an edge that is driven, skipped or held back. -/

namespace Sys2Proof.Machine

/-! ## The schedule (R68) -/

/-- An edge lies at START or a whole number of periods after it, at least 1 µs after device time, and no earlier edge does. -/
theorem Trig.nextAt_least {g : Trig} (hperiod : 0 < g.period) (dev : Nat) :
    ∃ k, g.nextAt dev = g.start + k * g.period ∧ dev + 1000 ≤ g.nextAt dev ∧
      ∀ j, dev + 1000 ≤ g.start + j * g.period → k ≤ j := by
  by_cases hstart : dev + 1000 ≤ g.start
  · have hnext : g.nextAt dev = g.start := if_pos hstart
    exact ⟨0, by rw [hnext, Nat.zero_mul, Nat.add_zero], hnext ▸ hstart, fun j _ => Nat.zero_le j⟩
  · have hnext : g.nextAt dev = g.start + ceilDiv (dev + 1000 - g.start) g.period * g.period := if_neg hstart
    have hceil : ∀ j, ceilDiv (dev + 1000 - g.start) g.period ≤ j ↔ dev + 1000 - g.start ≤ j * g.period := fun j => by
      unfold ceilDiv
      rw [← Nat.ceilDiv_eq_add_pred_div, ceilDiv_le_iff_le_mul hperiod, Nat.mul_comm]
    refine ⟨_, hnext, ?_, fun j hj => (hceil j).mpr (by omega)⟩
    have hreach := (hceil _).mp (Nat.le_refl _)
    rw [hnext]
    omega

theorem State.trigOn_iff (s : State) :
    s.trigOn = true ↔ s.sys.state = .commission ∨ s.sys.state = .run ∨ s.sys.state = .degraded ∨ s.sys.state = .halted ∨
      (s.sys.state = .start ∧ s.start.s7Done = true) := by
  unfold State.trigOn
  cases s.sys.state <;> simp

@[simp] theorem at_trigOn (t : Nat) (s : State) : (s.at t).trigOn = s.trigOn := by
  unfold State.trigOn
  rw [at_sys_state, at_start]

/-! ## An edge and the end of a pulse -/

theorem getN_onTrig_self {n : Nat} {s : State} (h : n < s.clk.trigs.length) (f : Trig → Trig) :
    getN (s.onTrig n f).clk.trigs n = f (getN s.clk.trigs n) := getN_modN_self _ _ _ h

/-- An edge produced: the pulse begins, and the values that wait come into force for the next edge. -/
def Trig.edge (d dev : Nat) (g : Trig) : Trig :=
  let h := { g with last := some d, pulse := true, pulseEnd := d + g.width }.take
  { h with due := some (h.nextAt dev) }

/-- An edge that is too late: it is skipped and counted, with those before the next. -/
def Trig.skip (d dev : Nat) (g : Trig) : Trig :=
  { g with due := some (g.nextAt dev), missed := satAdd 32 g.missed ((g.nextAt dev - d) / g.period) }

section Edge
variable {t n d : Nat} {s : State}

theorem State.shaped.trig_exists (hs : s.shaped) (hn : n < 8) (t : Nat) : n < (s.at t).clk.trigs.length :=
  hn.trans_eq (at_shaped t hs).clk.symm

theorem exec_triggerEdge_driven (hn : n < 8) (hen : (getN s.clk.trigs n).en = true) (hdue : (getN s.clk.trigs n).due = some d)
    (hon : (s.at t).trigOn = true) (hd : d ≤ (s.at t).dev) (hlate : (s.at t).dev < d + 8) :
    exec (.triggerEdge t n) s =
      .next (settle (((s.at t).onTrig n (Trig.edge d (s.at t).dev)).send (.trig n !(getN s.clk.trigs n).pol))) := by
  rw [exec_triggerEdge]
  unfold execTriggerEdge finish
  simp only [at_clk_trigs, hdue, hn, hen, hon, hd, hlate, and_self, if_true]
  rfl

theorem exec_triggerEdge_skipped (hn : n < 8) (hen : (getN s.clk.trigs n).en = true) (hdue : (getN s.clk.trigs n).due = some d)
    (hon : (s.at t).trigOn = true) (hlate : d + 8 ≤ (s.at t).dev) :
    exec (.triggerEdge t n) s = .next (settle ((s.at t).onTrig n (Trig.skip d (s.at t).dev))) := by
  have hd : d ≤ (s.at t).dev := by omega
  have hnot : ¬ (s.at t).dev < d + 8 := Nat.not_lt.mpr hlate
  rw [exec_triggerEdge]
  unfold execTriggerEdge finish
  simp only [at_clk_trigs, hdue, hn, hen, hon, hd, hnot, and_self, if_true, if_false]
  rfl

/-- In a state that drives no trigger an event of its edge does nothing (R70). -/
theorem exec_triggerEdge_held (hoff : s.trigOn = false) : exec (.triggerEdge t n) s = .next (settle (s.at t)) := by
  rw [exec_triggerEdge]
  unfold execTriggerEdge finish
  simp only [at_trigOn, hoff, Bool.false_eq_true, false_and, and_false, if_false]
  split <;> rfl

theorem runs_triggerEdge_schedules (hn : n < 8) (hs : s.shaped) (hen : (getN s.clk.trigs n).en = true)
    (hdue : (getN s.clk.trigs n).due = some d) (hon : (s.at t).trigOn = true) (hd : d ≤ (s.at t).dev)
    (hlate : (s.at t).dev < d + 8) (hperiod : 0 < (getN s.clk.trigs n).periodV) :
    Runs (.triggerEdge t n) s fun v =>
      (getN v.clk.trigs n).last = some d ∧ (getN v.clk.trigs n).pulseEnd = d + (getN s.clk.trigs n).width ∧
      ∃ x k, (getN v.clk.trigs n).due = some x ∧ (s.at t).dev + 1000 ≤ x ∧
        x = (getN v.clk.trigs n).start + k * (getN v.clk.trigs n).period ∧
        ∀ j, (s.at t).dev + 1000 ≤ (getN v.clk.trigs n).start + j * (getN v.clk.trigs n).period → k ≤ j := by
  refine ⟨_, exec_triggerEdge_driven hn hen hdue hon hd hlate, ?_⟩
  simp only [settle_clk, send_clk, getN_onTrig_self (hs.trig_exists hn t), at_clk_trigs]
  obtain ⟨k, hk, hahead, hleast⟩ := Trig.nextAt_least
    (g := { getN s.clk.trigs n with last := some d, pulse := true, pulseEnd := d + (getN s.clk.trigs n).width }.take) hperiod (s.at t).dev
  exact ⟨rfl, rfl, _, k, rfl, hahead, hk, hleast⟩

theorem runs_triggerEdge_skips (hn : n < 8) (hs : s.shaped) (hen : (getN s.clk.trigs n).en = true)
    (hdue : (getN s.clk.trigs n).due = some d) (hon : (s.at t).trigOn = true) (hlate : d + 8 ≤ (s.at t).dev) :
    Runs (.triggerEdge t n) s fun v =>
      v.out = [] ∧ (getN v.clk.trigs n).last = (getN s.clk.trigs n).last ∧
      (getN v.clk.trigs n).due = some ((getN s.clk.trigs n).nextAt (s.at t).dev) ∧
      (getN v.clk.trigs n).missed =
        satAdd 32 (getN s.clk.trigs n).missed (((getN s.clk.trigs n).nextAt (s.at t).dev - d) / (getN s.clk.trigs n).period) := by
  refine ⟨_, exec_triggerEdge_skipped hn hen hdue hon hlate, at_out s t, ?_⟩
  simp only [settle_clk, getN_onTrig_self (hs.trig_exists hn t), at_clk_trigs]
  exact ⟨rfl, rfl, rfl⟩

end Edge

/-- Settles O23: the edge is driven where triggers are driven, and held back in every other state. -/
theorem triggersAreDrivenOnlyWhereAllowed : Obligations.TriggersAreDrivenOnlyWhereAllowed := by
  unfold Obligations.TriggersAreDrivenOnlyWhereAllowed
  intro t n d s hn hen hdue hd hlate
  refine ⟨fun hstate => ?driven, fun hstate => ?held⟩
  case driven =>
    have hon : (s.at t).trigOn = true := (at_trigOn t s).trans ((State.trigOn_iff s).mpr hstate)
    refine ⟨_, exec_triggerEdge_driven hn hen hdue hon hd hlate, ?_⟩
    exact congrArg (· ++ _) (at_out s t)
  case held =>
    have hoff : s.trigOn = false := by
      unfold State.trigOn
      obtain h | h | ⟨h, hs7⟩ := hstate
      · rw [h]
      · rw [h]
      · rw [h]; exact hs7
    exact ⟨_, exec_triggerEdge_held hoff, at_out s t, rfl⟩

/-- Settles O24: the edge that is driven, the edge that is skipped, and the end of a pulse. -/
theorem triggerScheduleHolds : Obligations.TriggerScheduleHolds := by
  unfold Obligations.TriggerScheduleHolds
  refine ⟨?driven, ?skipped, runs_triggerPulseEnd⟩
  case driven =>
    exact fun t n d s hn hs hen hdue hon hd hlate hperiod =>
      runs_triggerEdge_schedules hn hs hen hdue hon hd hlate (Nat.lt_of_lt_of_le (by decide) hperiod)
  case skipped => exact fun t n d s hn hs hen hdue hon hlate => runs_triggerEdge_skips hn hs hen hdue hon hlate

end Sys2Proof.Machine
end

section
/-! SUPPORT. The calendar's tenths (03 R79, R80). -/

namespace Sys2Proof.Machine

section Tenths
variable {t : Nat} {s : State}

theorem exec_rtcTenthTick_counts (hfree : s.rtc.following = false) (hclock : s.clk.rtcOk = true) (hcal : s.rtc.cal ≠ calLast) :
    exec (.rtcTenthTick t) s = .next (settle ((s.at t).onRtc fun r =>
      { r with cal := calAt (s.rtc.cal.tenthsOf + 1), ended := decide (calAt (s.rtc.cal.tenthsOf + 1) = calLast) })) := by
  rw [exec_rtcTenthTick]
  unfold execRtcTenthTick finish
  simp only [at_clk_rtcOk, hclock, at_rtc, hfree, hcal, Bool.not_true, Bool.false_eq_true, false_and, if_false, State.onRtc]

theorem exec_rtcTenthTick_ends (hfree : s.rtc.following = false) (hclock : s.clk.rtcOk = true) (hcal : s.rtc.cal = calLast) :
    exec (.rtcTenthTick t) s = .next (settle ((s.at t).onRtc fun r => { r with ended := true })) := by
  rw [exec_rtcTenthTick]
  unfold execRtcTenthTick finish
  simp only [at_clk_rtcOk, hclock, at_rtc, hfree, hcal, Bool.not_true, Bool.false_eq_true, false_and, if_false, if_true]

theorem exec_rtcTenthTick_follows (hfollow : s.rtc.following = true) (hclock : s.clk.rtcOk = true) (hon : s.sup.on = true)
    (hoff : s.sys.state ≠ .off) :
    exec (.rtcTenthTick t) s = .next (settle ((s.at t).onRtc fun r =>
      { r with cal := (s.at t).calFollow, followDue := false, ended := decide ((s.at t).calFollow = calLast) })) := by
  rw [exec_rtcTenthTick]
  unfold execRtcTenthTick finish
  simp only [at_clk_rtcOk, hclock, at_rtc, hfollow, at_sup, hon, at_sys_state, hoff, Bool.not_true, Bool.false_eq_true, if_false, ne_eq,
    not_false_eq_true, and_self, if_true]

theorem exec_rtcTenthTick_stands (hclock : s.clk.rtcOk = false) : exec (.rtcTenthTick t) s = .next (settle (s.at t)) := by
  rw [exec_rtcTenthTick]
  unfold execRtcTenthTick finish
  simp only [at_clk_rtcOk, hclock, Bool.not_false, if_true]

end Tenths

/-- Settles O26: one lemma for each way in which a tenth passes. -/
theorem calendarCountsTenths : Obligations.CalendarCountsTenths := by
  unfold Obligations.CalendarCountsTenths
  refine ⟨?counts, ?ends, ?follows, ?stands⟩
  case counts => exact fun t s hfree hclock hcal => exec_rtcTenthTick_counts hfree hclock hcal
  case ends => exact fun t s hfree hclock hcal => exec_rtcTenthTick_ends hfree hclock hcal
  case follows =>
    exact fun t s hclock hfollow hon hoff => ⟨_, exec_rtcTenthTick_follows hfollow hclock hon hoff, rfl, rfl⟩
  case stands => exact fun t s hclock => ⟨_, exec_rtcTenthTick_stands hclock, at_rtc s t⟩

end Sys2Proof.Machine
end

section
/-! SUPPORT. The commands of the calendar, of the change log and of DOLDRUMS (03 R80, R81, R90; 05 R150; 04 R121). -/

namespace Sys2Proof.Machine

/-! ## A request past its gate -/

/-- A new request that passes its gate runs in the state that the gate leaves, and is answered. -/
theorem serve_gated {q : CfgReq} {cmd : Nat} {states : List St} {seals : Bool} {s : State} (htakes : s.takes q cmd) (hknows : s.knows q)
    (hstate : s.sys.state ∈ states) (hseals : seals = true → s.sealClass = .program) (hcmd : cmd ≠ 1 ∧ cmd ≠ 2)
    (f : State → Nat × List Bytes × State) :
    s.serve q cmd (State.gated q states seals f) = (f s.entered).2.2.answer q cmd (f s.entered).1 (f s.entered).2.1 := by
  rw [serve_new htakes hcmd, gated_ok hknows hstate hseals]

theorem at_entered_out (t : Nat) (s : State) : (s.at t).entered.out = [] := (entered_out _).trans (at_out s t)

theorem at_entered_rtc (t : Nat) (s : State) : (s.at t).entered.rtc = s.rtc :=
  Eq.trans (entered_same (p := .rtc) (by decide) _) (at_rtc s t)

theorem at_entered_cfg (t : Nat) (s : State) : (s.at t).entered.cfg = s.cfg := (entered_cfg _).trans (at_cfg s t)

/-- The entry of a change and the answer: what the command leaves. -/
theorem logged_answered {s : State} (hout : s.out = []) (q : CfgReq) (cmd kind : Nat) (hashes : List Bytes) :
    let v := settle ((s.logChange kind q.oper 0 hashes false).answer q cmd 0 [[]])
    v.rtc = s.rtc ∧ v.out = answerTo q cmd 0 [] ∧ v.cfg.exported = false ∧
      ∃ e, v.cfg.changes = s.cfg.changes ++ [e] ∧ e.kind = kind ∧ e.oper = q.oper ∧ e.hashes = hashes := by
  refine ⟨answer_rtc .., settle_answer_out hout .., answer_exported .., ?_⟩
  rw [settle_cfg, answer_changes]
  exact ⟨_, rfl, rfl, rfl, rfl⟩

/-! ## The calendar (03 R80, R81) -/

/-- The calendar after a valid load, which ends following (R81). -/
def Rtc.load (x : Nat) (r : Rtc) : Rtc :=
  { r with set := x % 2 ^ 64, cal := calOf x, valid := true, following := false, followDue := false,
           ended := decide (calOf x = calLast) }

theorem rtcLoad_valid {x : Nat} (h : (calOf x).ok = true) (s : State) : s.rtcLoad x = s.onRtc (Rtc.load x) := if_pos h

/-- A bad calendar leaves the value written and BAD alone (R81). -/
theorem rtcLoad_bad {x : Nat} (h : (calOf x).ok = false) (s : State) :
    s.rtcLoad x = s.onRtc fun r => { r with set := x % 2 ^ 64, bad := true } := if_neg (Bool.eq_false_iff.mp h)

section Calendar
variable {t : Nat} {q : CfgReq} {s : State}

theorem runs_setRtc_loads {x : Nat} (htakes : (s.at t).takes q 0x40) (hknows : (s.at t).knows q) (hstate : s.sys.state ∈ rtcStates)
    (hvalid : (calOf x).ok = true) (hroom : 1 ≤ s.logFree) :
    Runs (.setRtc t q (.load x)) s fun v =>
      v.rtc.cal = calOf x ∧ v.rtc.valid = true ∧ v.rtc.following = false ∧ v.out = answerTo q 0x40 0 [] ∧
      ∃ e, v.cfg.changes = s.cfg.changes ++ [e] ∧ e.kind = 7 ∧ e.oper = q.oper := by
  have hfree : ¬ (s.at t).entered.logFree = 0 := by rw [entered_logFree, at_logFree]; omega
  refine runs_finish (exec_setRtc ..) ?_
  rw [serve_gated (seals := false) htakes hknows (by rw [at_sys_state]; exact hstate) nofun (by decide)]
  simp only [hvalid, hfree, rtcLoad_valid hvalid, Bool.not_true, Bool.false_eq_true, if_false, plain]
  obtain ⟨hrtc, hout, -, e, hchanges, hkind, hoper, -⟩ := logged_answered (s := (s.at t).entered.onRtc (Rtc.load x))
    (at_entered_out t s) q 0x40 7 []
  rw [onRtc_cfg, at_entered_cfg] at hchanges
  rw [hrtc]
  exact ⟨rfl, rfl, rfl, hout, e, hchanges, hkind, hoper⟩

theorem runs_setRtc_bad {x : Nat} (htakes : (s.at t).takes q 0x40) (hknows : (s.at t).knows q) (hstate : s.sys.state ∈ rtcStates)
    (hbad : (calOf x).ok = false) :
    Runs (.setRtc t q (.load x)) s fun v =>
      v.rtc = { s.rtc with set := x % 2 ^ 64, bad := true } ∧ v.cfg.changes = s.cfg.changes := by
  refine runs_finish (exec_setRtc ..) ?_
  rw [serve_gated (seals := false) htakes hknows (by rw [at_sys_state]; exact hstate) nofun (by decide)]
  simp only [hbad, rtcLoad_bad hbad, Bool.not_false, if_true, plain]
  rw [settle_rtc, settle_cfg, answer_rtc, answer_changes, onRtc_rtc, onRtc_cfg, at_entered_rtc, at_entered_cfg]
  exact ⟨rfl, rfl⟩

theorem runs_setRtc_follows (htakes : (s.at t).takes q 0x40) (hknows : (s.at t).knows q) (hstate : s.sys.state ∈ rtcStates) :
    Runs (.setRtc t q .follow) s fun v => v.rtc = { s.rtc with following := true, followDue := true } := by
  refine runs_finish (exec_setRtc ..) ?_
  rw [serve_gated (seals := false) htakes hknows (by rw [at_sys_state]; exact hstate) nofun (by decide)]
  simp only [plain, State.rtcFollow]
  rw [settle_rtc, answer_rtc, onRtc_rtc, at_entered_rtc]

theorem runs_setUtcOfs_sets {o : Nat} (htakes : (s.at t).takes q 0x41) (hknows : (s.at t).knows q) (hstate : s.sys.state ∈ rtcStates)
    (hroom : 1 ≤ s.logFree) :
    Runs (.setUtcOfs t q o) s fun v =>
      v.rtc = { s.rtc with utc := toSigned 16 (o % 65536), followDue := s.rtc.following } ∧ v.out = answerTo q 0x41 0 [] ∧
      ∃ e, v.cfg.changes = s.cfg.changes ++ [e] ∧ e.kind = 7 ∧ e.oper = q.oper := by
  have hfree : ¬ (s.at t).entered.logFree = 0 := by rw [entered_logFree, at_logFree]; omega
  refine runs_finish (exec_setUtcOfs ..) ?_
  rw [serve_gated (seals := false) htakes hknows (by rw [at_sys_state]; exact hstate) nofun (by decide)]
  simp only [hfree, if_false, plain]
  obtain ⟨hrtc, hout, -, e, hchanges, hkind, hoper, -⟩ := logged_answered
    (s := (s.at t).entered.onRtc fun r => { r with utc := toSigned 16 (o % 65536), followDue := r.following })
    (at_entered_out t s) q 0x41 7 []
  rw [onRtc_cfg, at_entered_cfg] at hchanges
  rw [onRtc_rtc, at_entered_rtc] at hrtc
  exact ⟨hrtc, hout, e, hchanges, hkind, hoper⟩

/-! ## The change log (05 R150) -/

theorem changeBytes_congr {u : State} (h : u.cfg = s.cfg) : u.changeBytes = s.changeBytes := by
  unfold State.changeBytes
  rw [h]

theorem runs_clearChangeLog_clears (htakes : (s.at t).takes q 0x51) (hknows : (s.at t).knows q) (hstate : s.sys.state = .commission)
    (hexported : s.cfg.exported = true) :
    Runs (.clearChangeLog t q) s fun v =>
      v.out = answerTo q 0x51 0 [] ∧ v.cfg.exported = false ∧
      ∃ e, v.cfg.changes = [e] ∧ e.kind = 5 ∧ e.oper = q.oper ∧ e.hashes = [sha256 s.changeBytes] := by
  refine runs_finish (exec_clearChangeLog ..) ?_
  rw [serve_gated (seals := false) htakes hknows (by rw [at_sys_state, hstate]; decide) nofun (by decide)]
  simp only [at_entered_cfg, hexported, changeBytes_congr (at_entered_cfg t s), Bool.not_true, Bool.false_eq_true, if_false, plain]
  obtain ⟨-, hout, hcleared, e, hchanges, hentry⟩ := logged_answered (s := (s.at t).entered.onCfg fun c => { c with changes := [] })
    (at_entered_out t s) q 0x51 5 [sha256 s.changeBytes]
  exact ⟨hout, hcleared, e, hchanges, hentry⟩

theorem runs_clearChangeLog_refused (htakes : (s.at t).takes q 0x51) (hknows : (s.at t).knows q) (hstate : s.sys.state = .commission)
    (hexported : s.cfg.exported = false) :
    Runs (.clearChangeLog t q) s fun v => v.cfg.changes = s.cfg.changes ∧ v.out = answerTo q 0x51 4 [] := by
  refine runs_finish (exec_clearChangeLog ..) ?_
  rw [serve_gated (seals := false) htakes hknows (by rw [at_sys_state, hstate]; decide) nofun (by decide)]
  simp only [at_entered_cfg, hexported, Bool.not_false, if_true, plain]
  refine ⟨?_, settle_answer_out (at_entered_out t s) ..⟩
  rw [settle_cfg, answer_changes, at_entered_cfg]

end Calendar

/-! ## A start out of DOLDRUMS (04 R91, R121) -/

/-- A start that ends no commissioning adds no record. -/
theorem restartRecord_idle {s : State} (h : s.sys.state ≠ .commission) : s.restartRecord = s := if_neg fun k => h k.1

/-- The step of the start counter leaves the records and sends nothing. -/
theorem countStart_frame (s : State) : s.countStart.nvm.hist = s.nvm.hist ∧ s.countStart.out = s.out := by
  unfold State.countStart
  dsimp only
  split <;> exact ⟨rfl, rfl⟩

theorem beginStart_hist {s : State} (h : s.sys.state ≠ .commission) (warm alive : Bool) :
    (s.beginStart warm alive).nvm.hist = s.nvm.hist := by
  obtain ⟨hhist, -⟩ := countStart_frame (s.startReset warm alive)
  rw [State.beginStart_eq, onSlb_nvm, hhist, State.startReset_nvm, restartRecord_idle h]

/-- Where no torque was permitted, the entry to a state revokes no token and so sends nothing. -/
theorem setState_out {s : State} (h : s.sys.state.permits = false) (dest : St) (alive : Bool) : (s.setState dest alive).out = s.out := by
  have hrevoke : ¬(alive = true ∧ s.sys.state.permits = true) := fun k => Bool.false_ne_true (h.symm.trans k.2)
  unfold State.setState
  split
  case isTrue => rfl
  case isFalse =>
    dsimp only
    rw [if_neg hrevoke, wake_out]
    split <;> exact State.ev_out ..

theorem loseDests_out (s : State) : s.loseDests.out = s.out := by
  unfold State.loseDests
  exact State.each_keeps (view := State.out) (fun (x : Nat × Nat) u => poke_out x.1 _ u.draw.2) _ s

theorem resetDie_out (warm : Bool) (s : State) : (s.resetDie warm).out = s.out := by
  cases warm with
  | true => exact loseDests_out s
  | false => rfl

/-- A start out of a state that permits no torque sends nothing but the ends of trigger pulses, after what was sent before. -/
theorem beginStart_out {s : State} (h : s.sys.state.permits = false) (warm alive : Bool) :
    ∃ l, (s.beginStart warm alive).out = s.out ++ l := by
  have hstate : s.sys.state ≠ .commission := fun k => by rw [k] at h; exact Bool.false_ne_true h.symm
  obtain ⟨-, hout⟩ := countStart_frame (s.startReset warm alive)
  rw [State.beginStart_eq, onSlb_out, hout]
  unfold State.startReset
  rw [resetDie_out, restartRecord_idle hstate, ← setState_out h .start alive]
  unfold State.trigStop
  rw [each_send]
  exact ⟨_, rfl⟩

/-- Both counter copies are 0, no reason is kept, and the clearing is logged (04 R121). -/
def State.doldrumsCleared (s : State) : State :=
  (s.onNvm fun n => { n with counter := Copies.put 0, reason := 0 }).evOpen 0x00 "DOLDRUMS_CLEARED" noSub 0

theorem doldrumsCleared_frame (s : State) :
    s.doldrumsCleared.sys = s.sys ∧ s.doldrumsCleared.counter = 0 ∧ s.doldrumsCleared.nvm.hist = s.nvm.hist ∧
      s.doldrumsCleared.out = s.out := by
  have hnvm : s.doldrumsCleared.nvm = { s.nvm with counter := Copies.put 0, reason := 0 } := State.evOpen_same (p := .nvm) (by decide) ..
  refine ⟨State.evOpen_same (p := .sys) (by decide) .., ?_, by rw [hnvm], State.ev_out ..⟩
  unfold State.counter
  rw [hnvm]
  rfl

section Doldrums
variable {t : Nat} {q : CfgReq} {s : State}

theorem exec_clearDoldrums_clears (htakes : (s.at t).takes q 0x60) (hknows : (s.at t).knows q) (hstate : s.sys.state = .doldrums)
    (hseals : s.sealClass = .program) :
    exec (.clearDoldrums t q) s =
      .next (settle (((s.at t).entered.answer q 0x60 0 [[]]).doldrumsCleared.beginStart true true)) := by
  have hin : (s.at t).sys.state ∈ [St.doldrums] := List.mem_singleton.mpr ((at_sys_state s t).trans hstate)
  have hprogram : true = true → (s.at t).sealClass = .program := fun _ => (at_sealClass t s).trans hseals
  rw [exec_clearDoldrums]
  unfold execClearDoldrums finish
  dsimp only
  rw [if_pos (acts_ok htakes hknows hin hprogram), serve_gated htakes hknows hin hprogram (by decide)]
  rfl

theorem runs_clearDoldrums_restarts (htakes : (s.at t).takes q 0x60) (hknows : (s.at t).knows q) (hstate : s.sys.state = .doldrums)
    (hseals : s.sealClass = .program) :
    Runs (.clearDoldrums t q) s fun v =>
      v.sys.state = .start ∧ v.start.stage = 0 ∧ v.start.warm = true ∧ v.counter = 1 ∧ v.nvm.hist = s.nvm.hist ∧
      ∃ l, v.out = answerTo q 0x60 0 [] ++ l := by
  refine ⟨_, exec_clearDoldrums_clears htakes hknows hstate hseals, ?_⟩
  generalize hu : (s.at t).entered.answer q 0x60 0 [[]] = u
  have hsys : u.sys.state = .doldrums := by
    rw [← hu, answer_sys, show (s.at t).entered.sys = (s.at t).sys from entered_same (p := .sys) (by decide) _, at_sys_state, hstate]
  have hhist : u.nvm.hist = s.nvm.hist := by
    rw [← hu, answer_nvm, ← at_nvm_hist s t]
    have hwake : (s.at t).wake.nvm = (s.at t).nvm := wake_same (p := .nvm) (by decide) _
    rw [← hwake]
    rfl
  have hout : u.out = answerTo q 0x60 0 [] := by
    rw [← hu, ← settle_out, settle_answer_out (at_entered_out t s)]
  obtain ⟨hsys', hcounter, hhist', hout'⟩ := doldrumsCleared_frame u
  have hfrom : u.doldrumsCleared.sys.state = .doldrums := (congrArg Sys.state hsys').trans hsys
  rw [settle_sys, settle_start]
  refine ⟨State.beginStart_state .., State.beginStart_stage .., State.beginStart_warm .., ?counter, ?hist, ?out⟩
  case counter =>
    rw [settle_counter, State.beginStart_counter (by rw [hcounter]; decide), hcounter]
  case hist => rw [settle_nvm, beginStart_hist (by rw [hfrom]; decide), hhist', hhist]
  case out =>
    obtain ⟨l, hl⟩ := beginStart_out (s := u.doldrumsCleared) (by rw [hfrom]; rfl) true true
    exact ⟨l, by rw [settle_out, hl, hout', hout]⟩

end Doldrums

/-- Settles O31: each command by what it leaves, past its gate, of the calendar, the change log or the start. -/
theorem calendarAndLogCommandsAct : Obligations.CalendarAndLogCommandsAct := by
  unfold Obligations.CalendarAndLogCommandsAct
  refine ⟨?loads, ?bad, ?follows, ?offset, ?clears, ?refused, ?doldrums⟩
  case loads => exact fun t x q s htakes hknows hstate hvalid hroom => runs_setRtc_loads htakes hknows hstate hvalid hroom
  case bad => exact fun t x q s htakes hknows hstate hbad => runs_setRtc_bad htakes hknows hstate hbad
  case follows => exact fun t q s htakes hknows hstate => runs_setRtc_follows htakes hknows hstate
  case offset => exact fun t o q s htakes hknows hstate hroom => runs_setUtcOfs_sets htakes hknows hstate hroom
  case clears => exact fun t q s htakes hknows hstate hexported => runs_clearChangeLog_clears htakes hknows hstate hexported
  case refused => exact fun t q s htakes hknows hstate hexported => runs_clearChangeLog_refused htakes hknows hstate hexported
  case doldrums => exact fun t q s htakes hknows hstate hseals => runs_clearDoldrums_restarts htakes hknows hstate hseals

end Sys2Proof.Machine
end

section
/-! SUPPORT. The stop engines, the brakes and the stop chain between the SLB's cycles (13 R375, R376, R380, R386). -/

namespace Sys2Proof.Machine

/-! ## A group that goes off (R372, R375, R376) -/

theorem State.shaped.groups_length {s : State} (hs : s.shaped) : s.slb.groups.length = 4 := by
  obtain ⟨-, hlength, -⟩ := hs.slb
  exact hlength

theorem State.shaped.brakes_length {s : State} (hs : s.shaped) : s.slb.brakes.length = 4 := by
  obtain ⟨-, -, hlength, -⟩ := hs.slb
  exact hlength

/-- Group `n` is off and both its STO outputs are commanded off. -/
def State.pairOff (n : Nat) (s : State) : Prop :=
  (getN s.slb.groups n).state = .off ∧ s.slb.stoCmd.getD (2 * n) false = false ∧ s.slb.stoCmd.getD (2 * n + 1) false = false

/-- Switching one output off leaves no other one on that was off. -/
theorem getD_setN_false {l : List Bool} {i j : Nat} (h : j = i ∨ l.getD j false = false) : (setN l i false).getD j false = false := by
  by_cases hij : j = i
  · rw [hij, getD_setN_default]
  · exact (getN_setN_ne l i j false hij).trans (h.resolve_left hij)

theorem getN_groupOff_self {n : Nat} {s : State} (hn : n < s.slb.groups.length) (why : Nat) :
    getN (s.groupOff n why).slb.groups n = (getN s.slb.groups n).sto s.now why := getN_modN_self _ _ _ hn

theorem getN_groupOff_ne {m n : Nat} (h : m ≠ n) (why : Nat) (s : State) :
    getN (s.groupOff n why).slb.groups m = getN s.slb.groups m := getN_modN_ne _ _ _ _ h

theorem groupOff_groups_length (n why : Nat) (s : State) : (s.groupOff n why).slb.groups.length = s.slb.groups.length := modN_length ..

/-- An STO output is off that belongs to the group or was off before. -/
theorem groupOff_stoCmd {n k : Nat} {s : State} (h : k = 2 * n ∨ k = 2 * n + 1 ∨ s.slb.stoCmd.getD k false = false) (why : Nat) :
    (s.groupOff n why).slb.stoCmd.getD k false = false := by
  refine getD_setN_false ?_
  obtain h | h | h := h
  · exact .inr (getD_setN_false (.inl h))
  · exact .inl h
  · exact .inr (getD_setN_false (.inr h))

theorem groupOff_pairOff {n : Nat} {s : State} (hn : n < s.slb.groups.length) (why : Nat) : (s.groupOff n why).pairOff n := by
  refine ⟨?_, groupOff_stoCmd (.inl rfl) why, groupOff_stoCmd (.inr (.inl rfl)) why⟩
  rw [getN_groupOff_self hn]
  rfl

/-- A pair that is off stays off when a group goes off. -/
theorem groupOff_keeps_pairOff {m : Nat} {s : State} (h : s.pairOff m) (n why : Nat) : (s.groupOff n why).pairOff m := by
  obtain ⟨hgroup, hfirst, hsecond⟩ := h
  refine ⟨?_, groupOff_stoCmd (.inr (.inr hfirst)) why, groupOff_stoCmd (.inr (.inr hsecond)) why⟩
  by_cases hmn : m = n
  · subst hmn
    by_cases hm : m < s.slb.groups.length
    · exact (groupOff_pairOff hm why).1
    · exact (congrArg (fun l => (getN l m).state) (modN_of_length_le (Nat.not_lt.mp hm) _)).trans hgroup
  · rw [getN_groupOff_ne hmn]
    exact hgroup

/-- Groups that go off one after the other are all off at the end. -/
theorem each_groupOff_pairOff {n : Nat} (l : List Nat) (why : Nat) (s : State) (hn : n < s.slb.groups.length)
    (h : n ∈ l ∨ s.pairOff n) : (s.each l fun m s => s.groupOff m why).pairOff n := by
  induction l generalizing s with
  | nil => exact h.resolve_left List.not_mem_nil
  | cons m l ih =>
    refine ih (s.groupOff m why) (by rw [groupOff_groups_length]; exact hn) ?_
    obtain h | h := h
    · obtain rfl | h := List.mem_cons.mp h
      · exact .inr (groupOff_pairOff hn why)
      · exact .inl h
    · exact .inr (groupOff_keeps_pairOff h m why)

/-- A group that stops in its SS1: it is off with the END code of the case, and both pins are off. -/
theorem settle_groupOff {n : Nat} {s : State} (hn : n < s.slb.groups.length)
    (hrun : (getN s.slb.groups n).state = .time ∨ (getN s.slb.groups n).state = .ramp) (why : Nat) :
    let v := settle (s.groupOff n why)
    (getN v.slb.groups n).state = .off ∧ (getN v.slb.groups n).end_ = why ∧
      v.slb.stoPin.getD (2 * n) false = false ∧ v.slb.stoPin.getD (2 * n + 1) false = false := by
  obtain ⟨hoff, hfirst, hsecond⟩ := groupOff_pairOff hn why
  refine ⟨hoff, ?_, stoPin_off_of_stoCmd hfirst, stoPin_off_of_stoCmd hsecond⟩
  rw [settle_slb_groups, getN_groupOff_self hn]
  exact if_pos hrun

/-- SS1_MAX passed ends a timed stop with 4, and a ramp that is not at standstill with 2 (R375, R376). -/
theorem Group.ss1End_elapsed {g : Group} {r : SafGroup} {i now : Nat} (hstart : g.ss1At = some i) (hlong : i + r.ss1Max * ms ≤ now)
    (hrun : g.state = .time ∨ (g.state = .ramp ∧ g.still = none)) : g.ss1End now r = some (if g.state = .time then 4 else 2) := by
  have hpast : decide (g.ss1At.getD now + r.ss1Max * ms ≤ now) = true := decide_eq_true (by rw [hstart]; exact hlong)
  unfold Group.ss1End
  obtain h | ⟨h, hstill⟩ := hrun
  · simp only [h, hpast, if_true]
  · simp [h, hstill, hpast]

/-- Standstill held for STILL_TIME ends a ramp with 1 (R376). -/
theorem Group.ss1End_still {g : Group} {r : SafGroup} {i now : Nat} (hramp : g.state = .ramp) (hstill : g.still = some i)
    (hlong : i + r.stillTime * ms ≤ now) : g.ss1End now r = some 1 := by
  have hheld : (g.still.any fun i => decide (i + r.stillTime * ms ≤ now)) = true :=
    (Option.any_eq_true _ _).mpr ⟨i, hstill, decide_eq_true hlong⟩
  unfold Group.ss1End
  dsimp only
  rw [hramp]
  exact if_pos hheld

section Stops
variable {t n i : Nat} {s : State}

theorem runs_ss1MaxExpiry_stops (hs : s.shaped) (hon : s.sup.on = true) (hn : n < 4) (hstart : (getN s.slb.groups n).ss1At = some i)
    (hlong : i + (getN (s.at t).params.groups n).ss1Max * ms ≤ (s.at t).now)
    (hrun : (getN s.slb.groups n).state = .time ∨ ((getN s.slb.groups n).state = .ramp ∧ (getN s.slb.groups n).still = none)) :
    Runs (.ss1MaxExpiry t n) s fun v =>
      (getN v.slb.groups n).state = .off ∧ (getN v.slb.groups n).end_ = (if (getN s.slb.groups n).state = .time then 4 else 2) ∧
      v.slb.stoPin.getD (2 * n) false = false ∧ v.slb.stoPin.getD (2 * n + 1) false = false ∧
      ∀ m, m ≠ n → getN v.slb.groups m = getN s.slb.groups m := by
  have hexists : n < (s.at t).slb.groups.length := hn.trans_eq (at_shaped t hs).groups_length.symm
  rw [← at_sup s t] at hon
  simp only [← at_slb_groups s t] at hstart hrun ⊢
  have hpast : (s.at t).past ((getN (s.at t).slb.groups n).ss1At.getD (s.at t).now)
      ((getN (s.at t).params.groups n).ss1Max * ms) = true := by
    rw [hstart]
    exact (past_iff ..).mpr hlong
  refine ⟨_, runs_ss1MaxExpiry t n _ s _ rfl hon hn (Group.ss1End_elapsed hstart hlong hrun) hpast, ?_⟩
  obtain ⟨hoff, hend, hfirst, hsecond⟩ := settle_groupOff hexists (hrun.imp_right And.left) _
  exact ⟨hoff, hend, hfirst, hsecond, fun m hm => getN_groupOff_ne hm ..⟩

theorem runs_standstillHeld_stops (hs : s.shaped) (hon : s.sup.on = true) (hn : n < 4) (hramp : (getN s.slb.groups n).state = .ramp)
    (hstill : (getN s.slb.groups n).still = some i) (hlong : i + (getN (s.at t).params.groups n).stillTime * ms ≤ (s.at t).now) :
    Runs (.standstillHeld t n) s fun v =>
      (getN v.slb.groups n).state = .off ∧ (getN v.slb.groups n).end_ = 1 ∧
      v.slb.stoPin.getD (2 * n) false = false ∧ v.slb.stoPin.getD (2 * n + 1) false = false := by
  have hexists : n < (s.at t).slb.groups.length := hn.trans_eq (at_shaped t hs).groups_length.symm
  rw [← at_sup s t] at hon
  rw [← at_slb_groups s t] at hramp hstill
  exact ⟨_, runs_standstillHeld t n s _ rfl hon hn (Group.ss1End_still hramp hstill hlong), settle_groupOff hexists (.inr hramp) 1⟩

end Stops

/-! ## Brakes (R380) -/

/-- The release delay over, full voltage is applied for the pull-in time. -/
theorem Brake.advance_released {k : Brake} {r : SafBrake} {now : Nat} (hwait : k.phase = .wait) (hlong : k.since + r.releaseMs * ms ≤ now)
    (hpullin : 0 < r.pullinMs) (v : Nat) : k.advance now r true v = { k with phase := .pullin, since := now, onTime := 1600 } := by
  have hpositive : 0 < r.pullinMs * ms := Nat.mul_pos hpullin (by decide)
  have hearly : ¬ now + r.pullinMs * ms ≤ now := by omega
  unfold Brake.advance
  simp only [Bool.not_true, Bool.false_eq_true, if_false, hwait, hlong, and_self, if_true, hearly, and_false]

/-- The pull-in time over, the brake is held by PWM. -/
theorem Brake.advance_held {k : Brake} {r : SafBrake} {now : Nat} (hpullin : k.phase = .pullin) (hlong : k.since + r.pullinMs * ms ≤ now)
    (v : Nat) : (k.advance now r true v).phase = .hold ∧ (k.advance now r true v).onTime = pwmSteps r v := by
  unfold Brake.advance
  simp [hpullin, hlong]

theorem getN_brakeTick_self {n : Nat} {s : State} (hn : n < s.slb.brakes.length) : getN (s.brakeTick n).slb.brakes n =
    { (getN s.slb.brakes n).advance s.now (getN s.params.brakes n) true (getN s.slb.io (n % 2)) with
      drop := (getN s.slb.brakes n).drop } := getN_setN_self _ _ _ hn

theorem brakeTick_brkCmd {n : Nat} {s : State} (hn : n < s.slb.brkCmd.length) : (s.brakeTick n).slb.brkCmd.getD n false =
    (((getN s.slb.brakes n).advance s.now (getN s.params.brakes n) true (getN s.slb.io (n % 2))).on &&
      !s.slb.outFault.getD (8 + n) false) := getN_setN_self s.slb.brkCmd n _ hn

section Brakes
variable {t n : Nat} {s : State}

theorem runs_brakeReleaseDelayExpiry_pulls (hs : s.shaped) (hon : s.sup.on = true) (hn : n < 4)
    (hwait : (getN s.slb.brakes n).phase = .wait)
    (hlong : (getN s.slb.brakes n).since + (getN (s.at t).params.brakes n).releaseMs * ms ≤ (s.at t).now)
    (hpullin : 0 < (getN (s.at t).params.brakes n).pullinMs) :
    Runs (.brakeReleaseDelayExpiry t n) s fun v =>
      (getN v.slb.brakes n).phase = .pullin ∧ (getN v.slb.brakes n).onTime = 1600 ∧
      (n < s.slb.brkCmd.length → v.slb.brkCmd.getD n false = !(s.slb.outFault.getD (8 + n) false)) := by
  have hexists : n < (s.at t).slb.brakes.length := hn.trans_eq (at_shaped t hs).brakes_length.symm
  rw [← at_sup s t] at hon
  rw [← at_slb_brakes s t] at hwait hlong
  rw [← at_slb_brkCmd s t, ← at_slb_outFault s t]
  refine ⟨_, runs_brakeReleaseDelayExpiry t n s _ rfl hon hn hwait ((past_iff ..).mpr hlong), ?_⟩
  dsimp only
  rw [settle_slb_brakes, settle_slb_brkCmd, getN_brakeTick_self hexists, Brake.advance_released hwait hlong hpullin]
  refine ⟨rfl, rfl, fun hcmd => ?_⟩
  rw [brakeTick_brkCmd hcmd, Brake.advance_released hwait hlong hpullin]
  rfl

theorem runs_brakePullinExpiry_holds (hs : s.shaped) (hon : s.sup.on = true) (hn : n < 4) (hpullin : (getN s.slb.brakes n).phase = .pullin)
    (hlong : (getN s.slb.brakes n).since + (getN (s.at t).params.brakes n).pullinMs * ms ≤ (s.at t).now) :
    Runs (.brakePullinExpiry t n) s fun v =>
      (getN v.slb.brakes n).phase = .hold ∧
      (getN v.slb.brakes n).onTime = pwmSteps (getN (s.at t).params.brakes n) (getN s.slb.io (n % 2)) := by
  have hexists : n < (s.at t).slb.brakes.length := hn.trans_eq (at_shaped t hs).brakes_length.symm
  rw [← at_sup s t] at hon
  rw [← at_slb_brakes s t] at hpullin hlong
  rw [← at_slb_io s t]
  refine ⟨_, runs_brakePullinExpiry t n s _ rfl hon hn hpullin ((past_iff ..).mpr hlong), ?_⟩
  dsimp only
  rw [settle_slb_brakes, getN_brakeTick_self hexists]
  exact Brake.advance_held hpullin hlong _

/-! ## The stop chain (R386) -/

theorem runs_chainPulseExpiry_ends {i : Nat} (hon : s.sup.on = true) (hchain : s.slb.chainAt = some i)
    (hlong : i + (s.at t).params.chainPulseMs * ms ≤ (s.at t).now) :
    Runs (.chainPulseExpiry t) s fun v => v.slb.chainAt = none ∧ v.slb.groups = s.slb.groups := by
  refine runs_finish (exec_chainPulseExpiry ..) ?_
  rw [if_pos ⟨(at_sup s t).symm ▸ hon, pastOpt_some ((at_slb_chainAt s t).trans hchain) hlong⟩]
  exact ⟨rfl, at_slb_groups s t⟩

end Brakes

end Sys2Proof.Machine
end

section
/-! SUPPORT. The SLB's side of the link with the SP (13 R368, R369, R383), the heartbeat (03 R72, 04 R91), and the SLB's own faults
(03 R73, 13 R390). -/

namespace Sys2Proof.Machine

/-! ## A heartbeat that fails (03 R72, 04 R91) -/

/-- In a state that permits torque and in HALTED a reset of the die begins a warm start (01 Table 1.5). -/
theorem dieReset_starts {s : State} (hpower : s.sys.powerFail = false) (hstate : s.sys.state.permits = true ∨ s.sys.state = .halted) :
    s.dieReset = (s.endRecord false 0xF1).beginStart true false := by
  unfold State.dieReset
  rw [hpower, if_neg Bool.false_ne_true]
  generalize s.sys.state = x at hstate
  cases x with
  | commission | run | degraded | halted => rfl
  | off | start | doldrums => simp [St.permits] at hstate

/-- Every group goes off with END 5. -/
theorem slbDrop_pairOff {s : State} (hs : s.shaped) {n : Nat} (hn : n < 4) : s.slbDrop.pairOff n := by
  refine each_groupOff_pairOff [0, 1, 2, 3] 5 s.beatLost ?_ (.inl ?_)
  · exact hn.trans_eq hs.groups_length.symm
  · simp only [List.mem_cons, List.not_mem_nil, or_false]
    omega

/-- Torque is removed, and trip 0x05 waits. -/
theorem slbDrop_removes_torque {s : State} (hs : s.shaped) :
    (∀ g ∈ s.slbDrop.slb.groups, g.state = .off) ∧ (∀ n < 8, s.slbDrop.slb.stoCmd.getD n false = false) ∧
      s.slbDrop.slb.permit = false ∧ s.slbDrop.slb.beatOk = false ∧
      s.slbDrop.slb.due = s.slb.due ++ [{ src := 0x05, sto := true }] := by
  refine ⟨fun g hg => ?groups, fun n hn => ?outputs, rfl, rfl, rfl⟩
  case groups =>
    obtain ⟨n, hn, rfl⟩ := List.getElem_of_mem hg
    have hfour : n < 4 := hn.trans_eq ((State.slbDrop_moves (Moves.refl [.slb] s) (by decide)).shaped hs).groups_length
    obtain ⟨hoff, -, -⟩ := slbDrop_pairOff hs hfour
    rwa [getN, ← List.getElem_eq_getD (h := hn)] at hoff
  case outputs =>
    obtain ⟨-, hfirst, hsecond⟩ := slbDrop_pairOff hs (n := n / 2) (by omega)
    obtain h | h : n = 2 * (n / 2) ∨ n = 2 * (n / 2) + 1 := by omega
    · rw [h]; exact hfirst
    · rw [h]; exact hsecond

section Heartbeat
variable {t : Nat} {s : State}

theorem exec_heartbeatTimeout_noValue {p : Nat} (hon : s.sup.on = true) (hoff : s.sys.state ≠ .off) (hbeat : s.slb.beat = some p)
    (hlong : s.slb.beatAt + 2 * ms ≤ (s.at t).now) :
    exec (.heartbeatTimeout t .noValue) s = .next (settle (s.at t).slbDrop.dieReset) := by
  have hfails : (s.at t).beatFails .noValue = true := by
    unfold State.beatFails
    rw [at_slb_beat, hbeat, at_slb_beatAt, (past_iff ..).mpr hlong]
    rfl
  rw [exec_heartbeatTimeout]
  unfold execHeartbeatTimeout finish
  dsimp only
  rw [if_pos (by rw [at_sup, at_sys_state]; exact ⟨hon, hoff⟩), if_pos hfails]

/-- A count outside the window is remembered; the second in a row fails the heartbeat. -/
theorem exec_heartbeatTimeout_count (n : Nat) (hon : s.sup.on = true) (hoff : s.sys.state ≠ .off) :
    let u := (s.at t).onSlb fun b => { b with hbOut := !(decide (2076 ≤ n ∧ n ≤ 2118)) }
    exec (.heartbeatTimeout t (.count n)) s =
      .next (settle (if s.slb.hbOut = true ∧ (n < 2076 ∨ 2118 < n) then u.slbDrop.dieReset else u)) := by
  have hfails : (s.at t).beatFails (.count n) = true ↔ s.slb.hbOut = true ∧ (n < 2076 ∨ 2118 < n) := by
    unfold State.beatFails hbWindow
    rw [at_slb_hbOut, Bool.and_eq_true, Bool.not_eq_true', decide_eq_false_iff_not, not_and_or, Nat.not_le, Nat.not_le]
  rw [exec_heartbeatTimeout]
  unfold execHeartbeatTimeout finish
  dsimp only
  rw [if_pos (by rw [at_sup, at_sys_state]; exact ⟨hon, hoff⟩), if_congr hfails rfl rfl]
  rfl

end Heartbeat

/-! ## Frames and requests (R368, R369) -/

/-- The timer's copy and the hold that follow a report leave the trips that wait and the frames that are on their way. -/
theorem Slb.degCopy_hold_due_link (now : Nat) (dest : St) (b : Slb) :
    ((b.degCopy dest).hold now dest).due = b.due ∧ ((b.degCopy dest).hold now dest).link = b.link := by
  have hcopy : (b.degCopy dest).due = b.due ∧ (b.degCopy dest).link = b.link := by
    unfold Slb.degCopy
    split
    · exact ⟨rfl, rfl⟩
    · split <;> exact ⟨rfl, rfl⟩
  rw [← hcopy.1, ← hcopy.2]
  generalize b.degCopy dest = c
  unfold Slb.hold
  split
  · exact ⟨rfl, rfl⟩
  · split <;> exact ⟨rfl, rfl⟩

/-- What a valid frame leaves (R368, R72). -/
theorem Slb.frame_taken (now : Nat) (f : LinkFrame) (b : Slb) :
    (b.frame now f).link = b.link ∧ (b.frame now f).report = f.state ∧ (b.frame now f).reqA = f.stop ∧
      (b.frame now f).beat = some f.beat ∧ (b.frame now f).beatAt = now ∧ (b.frame now f).beatOk = true ∧
      (b.frame now f).armed = f.armed ∧ (b.frame now f).due = b.due := by
  obtain ⟨hdue, hlink⟩ := Slb.degCopy_hold_due_link now f.state b
  unfold Slb.frame
  exact ⟨hlink, rfl, rfl, rfl, rfl, rfl, rfl, hdue⟩

section Link
variable {t : Nat} {f : LinkFrame} {l : List LinkFrame} {s : State}

theorem runs_slbLinkFrame_taken (hon : s.sup.on = true) (hlink : s.slb.link = f :: l)
    (hbeat : ∀ p, s.slb.beat = some p → f.beat = (p + 1) % 256) :
    Runs (.slbLinkFrame t true) s fun v =>
      v.slb.link = l ∧ v.slb.report = f.state ∧ v.slb.reqA = f.stop ∧ v.slb.beat = some f.beat ∧ v.slb.beatAt = (s.at t).now ∧
      v.slb.beatOk = true ∧ v.slb.armed = f.armed ∧ v.slb.due = s.slb.due := by
  have horder : ((s.at t).slb.beat.any fun p => f.beat ≠ (p + 1) % 256) = false := by
    rw [at_slb_beat]
    cases hp : s.slb.beat with
    | none => rfl
    | some p => simp [hbeat p hp]
  refine ⟨_, runs_slbLinkFrame t f l s _ rfl ((at_sup s t).symm ▸ hon) ((at_slb_link s t).trans hlink) horder, ?_⟩
  rw [← at_slb_due s t]
  generalize s.at t = u
  exact Slb.frame_taken u.now f { u.slb with link := l }

theorem exec_slbLinkFrame_out_of_order {p : Nat} (hon : s.sup.on = true) (hlink : s.slb.link = f :: l) (hbeat : s.slb.beat = some p)
    (horder : f.beat ≠ (p + 1) % 256) :
    exec (.slbLinkFrame t true) s = .next (settle (((s.at t).onSlb fun b => { b with link := l }).slbDrop.dieReset)) := by
  rw [exec_slbLinkFrame]
  unfold execSlbLinkFrame finish
  simp [hlink, hon, hbeat, horder]

theorem runs_slbLinkFrame_discarded (hon : s.sup.on = true) (hlink : s.slb.link = f :: l) :
    Runs (.slbLinkFrame t false) s fun v =>
      v.slb.link = l ∧ v.slb.report = s.slb.report ∧ v.slb.reqA = s.slb.reqA ∧ v.slb.beatAt = s.slb.beatAt ∧
      v.slb.due = s.slb.due := by
  refine runs_finish (exec_slbLinkFrame ..) ?_
  simp [hlink, hon]

/-- The hard-wired line sets channel B; the channels agree when both or neither ask for a stop (R368, R369). -/
theorem runs_spstopNChange_sets (on : Bool) (hon : s.sup.on = true) :
    Runs (.spstopNChange t on) s fun v =>
      v.slb.reqB = on ∧ v.slb.reqBSince = (if s.slb.reqB = on then s.slb.reqBSince else (s.at t).now) ∧
      (v.slb.disagree = none ↔ (on = decide (s.slb.reqA ≠ 0))) := by
  refine runs_finish (exec_spstopNChange ..) ?_
  rw [State.when, if_pos ((at_sup s t).symm ▸ hon), ← at_slb_reqB s t, ← at_slb_reqBSince s t, ← at_slb_reqA s t]
  refine ⟨rfl, rfl, ?_⟩
  rw [settle_slb_disagree, onSlb_slb]
  dsimp only
  split
  case isTrue hagree => exact iff_of_true rfl hagree
  case isFalse hdiffer => exact iff_of_false (by split <;> simp) hdiffer

theorem runs_requestDisagreeExpiry_trips {i : Nat} (hon : s.sup.on = true) (hdisagree : s.slb.disagree = some i)
    (hlong : i + 10 * ms ≤ (s.at t).now) :
    Runs (.requestDisagreeExpiry t) s fun v => v.slb.due = s.slb.due ++ [{ src := 0x05, sto := true }] := by
  have hpast := pastOpt_some ((at_slb_disagree s t).trans hdisagree) hlong
  refine ⟨_, runs_requestDisagreeExpiry t s _ rfl ((at_sup s t).symm ▸ hon) hpast, ?_⟩
  dsimp only
  rw [settle_slb_due, slbTrip_due, ← at_slb_due s t]
  rfl

end Link

/-! ## The SLB's own faults (03 R73, 13 R390) -/

section Faults
variable {t : Nat} {s : State}

theorem runs_slbOscillatorFault_trips (hon : s.sup.on = true) :
    Runs (.slbOscillatorFault t) s fun v => v.slb.due = s.slb.due ++ [{ src := 0x10, sto := true }] := by
  refine ⟨_, runs_slbOscillatorFault t s _ rfl ((at_sup s t).symm ▸ hon), ?_⟩
  dsimp only
  rw [settle_slb_due, slbTrip_due, at_slb_due]

/-- Two good copies marked good are as they were. -/
theorem Copies.mark_good {α : Type} {c : Copies α} (ha : c.aOk = true) (hb : c.bOk = true) : { c with aOk := true, bOk := true } = c := by
  cases c
  cases ha
  cases hb
  rfl

/-- The copies as a check has found them. -/
def State.paramsFound (okA okB : Bool) (s : State) : State :=
  s.onNvm fun n => { n with params := { n.params with aOk := okA, bOk := okB } }

/-- One bad copy rewritten from the good one, and logged (R390). -/
def State.paramsRewritten (p : Safety) (subject : Nat) (s : State) : State :=
  (s.onNvm fun n => { n with params := Copies.put p }).evOpen 0x20 "SLB_PARAM_REWRITTEN" noSub subject

/-- With both copies good before, what a check does is decided by what it finds (R390). -/
theorem exec_slbParamCheck_found (hon : s.sup.on = true) (ha : s.nvm.params.aOk = true) (hb : s.nvm.params.bOk = true) (okA okB : Bool) :
    exec (.slbParamCheck t okA okB) s =
      let u := (s.at t).paramsFound okA okB
      .next (settle (match okA, okB with
        | true, true => u
        | true, false => u.paramsRewritten s.nvm.params.a 1
        | false, true => u.paramsRewritten s.nvm.params.b 0
        | false, false => u.slbTrip 0x10 true)) := by
  rw [exec_slbParamCheck]
  unfold execSlbParamCheck finish
  rw [← at_sup s t] at hon
  rw [← at_nvm_params s t] at ha hb ⊢
  cases okA <;> cases okB <;> simp only [hon, ha, hb, Bool.and_true, Bool.and_false, if_true, true_or] <;> rfl

theorem paramsRewritten_frame (p : Safety) (subject : Nat) (s : State) :
    (s.paramsRewritten p subject).nvm.params = Copies.put p ∧ (s.paramsRewritten p subject).slb = s.slb := by
  have hnvm : (s.paramsRewritten p subject).nvm = { s.nvm with params := Copies.put p } := State.evOpen_same (p := .nvm) (by decide) ..
  exact ⟨congrArg Nvm.params hnvm, State.evOpen_same (p := .slb) (by decide) ..⟩

theorem runs_slbParamCheck_finds (hon : s.sup.on = true) (ha : s.nvm.params.aOk = true) (hb : s.nvm.params.bOk = true) :
    (Runs (.slbParamCheck t true true) s fun v => v.nvm.params = s.nvm.params ∧ v.slb.due = s.slb.due) ∧
    (Runs (.slbParamCheck t true false) s fun v => v.nvm.params = Copies.put s.nvm.params.a ∧ v.slb.due = s.slb.due) ∧
    (Runs (.slbParamCheck t false true) s fun v => v.nvm.params = Copies.put s.nvm.params.b ∧ v.slb.due = s.slb.due) ∧
    (Runs (.slbParamCheck t false false) s fun v => v.slb.due = s.slb.due ++ [{ src := 0x10, sto := true }]) := by
  have hfound := exec_slbParamCheck_found (t := t) hon ha hb
  have hrewritten : ∀ p subject okA okB, ((s.at t).paramsFound okA okB |>.paramsRewritten p subject).nvm.params = Copies.put p ∧
      ((s.at t).paramsFound okA okB |>.paramsRewritten p subject).slb.due = s.slb.due := fun p subject okA okB => by
    obtain ⟨hparams, hslb⟩ := paramsRewritten_frame p subject ((s.at t).paramsFound okA okB)
    exact ⟨hparams, (congrArg Slb.due hslb).trans (at_slb_due s t)⟩
  have hgood : ((s.at t).paramsFound true true).nvm.params = s.nvm.params := by
    rw [← at_nvm_params s t] at ha hb ⊢
    exact Copies.mark_good ha hb
  exact ⟨⟨_, hfound true true, hgood, at_slb_due s t⟩, ⟨_, hfound true false, hrewritten ..⟩,
    ⟨_, hfound false true, hrewritten ..⟩, ⟨_, hfound false false, congrArg (· ++ _) (at_slb_due s t)⟩⟩

end Faults

/-- Settles O45: one lemma per event, the reset of the die, and what a failed heartbeat leaves of the outputs. -/
theorem stopEnginesBrakesAndLinkAct : Obligations.StopEnginesBrakesAndLinkAct := by
  unfold Obligations.StopEnginesBrakesAndLinkAct
  refine ⟨?ss1Max, ?standstill, ?release, ?pullin, ?chain, ?degraded, ?taken, ?disorder, ?discarded, ?line, ?disagree, ?noEdge,
    ?noValue, ?count, ?reset, ?drop, ?oscillator, ?params⟩
  case ss1Max => exact fun t n i s hs hon hn hstart hlong hrun => runs_ss1MaxExpiry_stops hs hon hn hstart hlong hrun
  case standstill => exact fun t n i s hs hon hn hramp hstill hlong => runs_standstillHeld_stops hs hon hn hramp hstill hlong
  case release => exact fun t n s hs hon hn hwait hlong hpullin => runs_brakeReleaseDelayExpiry_pulls hs hon hn hwait hlong hpullin
  case pullin => exact fun t n s hs hon hn hpullin hlong => runs_brakePullinExpiry_holds hs hon hn hpullin hlong
  case chain => exact fun t i s hon hchain hlong => runs_chainPulseExpiry_ends hon hchain hlong
  case degraded => exact fun t s hon hrun hlong => runs_slbDegTimerExpiry t s _ rfl ((at_sup s t).symm ▸ hon) hrun hlong
  case taken => exact fun t f l s hon hlink hbeat => runs_slbLinkFrame_taken hon hlink hbeat
  case disorder => exact fun t p f l s hon hlink hbeat horder => exec_slbLinkFrame_out_of_order hon hlink hbeat horder
  case discarded => exact fun t f l s hon hlink => runs_slbLinkFrame_discarded hon hlink
  case line => exact fun t on s hon => runs_spstopNChange_sets on hon
  case disagree => exact fun t i s hon hdisagree hlong => runs_requestDisagreeExpiry_trips hon hdisagree hlong
  case noEdge =>
    exact fun t s hon hoff => runs_heartbeatTimeout t s _ rfl ((at_sup s t).symm ▸ hon) ((at_sys_state s t).trans_ne hoff)
  case noValue => exact fun t p s hon hoff hbeat hlong => exec_heartbeatTimeout_noValue hon hoff hbeat hlong
  case count => exact fun t n s hon hoff => exec_heartbeatTimeout_count n hon hoff
  case reset => exact fun s hpower hstate => dieReset_starts hpower hstate
  case drop => exact fun s hs => slbDrop_removes_torque hs
  case oscillator => exact fun t s hon => runs_slbOscillatorFault_trips hon
  case params => exact fun t s hon ha hb => runs_slbParamCheck_finds hon ha hb

end Sys2Proof.Machine
end
